-- ==== Sys2Proof/Word.lean ====
section
/-! DEFINITION. The words of the K64, and the shapes of the things that reach it from outside: queue names, register spaces,
frames, packets, TLPs and messages. Field tables of these structures are those of the rules named at each. -/

namespace Sys2Proof

abbrev Byte := BitVec 8
abbrev Word := BitVec 64
abbrev Half := BitVec 32

/-- A sparse table: pairs of a key and a value, in ascending key order; a key not listed holds the default. -/
abbrev Tab (α : Type) := List (Nat × α)

/-- A queue: the kernel queue of a host port (R354), or normal queue `qn` of context `ctx` (R363). -/
inductive QRef where
  | kernel (port : Nat)
  | normal (ctx qn : Nat)
  deriving DecidableEq, Repr

/-- Where a register lies: the register window of a die (R38, R350) or BAR0 of a host port (R348). -/
inductive RegSpace where
  | window (die : Nat)
  | bar0 (port : Nat)
  deriving DecidableEq, Repr

/-- Who makes a cellar access (R275, R538): a mover, a fabric flow or a host DMA read of a context; a crate injection or an
update station of a weight set's job; patrol scrub or frame migration; the keepers. -/
inductive Accessor where
  | context (ctx : Nat)
  | injection (wsid : Nat)
  | station (wsid : Nat)
  | scrub
  | keeper
  deriving DecidableEq, Repr

/-- What a module shows as its channel comes up or returns: whether its SPD hub answers and the checksum holds, the properties of R266, failed training
attempts, the errors that the on-die ECC of its devices has counted, and the rows that soft post-package repair replaced (R267, R556). A channel's number
stands in `ch`. -/
structure ModuleRead where
  ch : Nat := 0
  answers : Bool := true
  checksum : Bool := true
  mrdimm : Bool := true
  gib : Nat := 64
  mts : Nat := 12800
  subChannels : Nat := 2
  dataBits : Nat := 32
  checkBits : Nat := 8
  deviceBits : Nat := 4
  deviceGbit : Nat := 16
  ranks : Nat := 2
  devices : Nat := 20
  trainFails : Nat := 0
  odEcc : Nat := 0
  repaired : List Nat := []
  deriving DecidableEq, Repr

/-- What the residue, parity and duplicated-path checkers of R128 saw during an operation: the failing check and the cell. -/
structure Upset where
  row : Nat
  col : Nat
  check : Nat
  deriving DecidableEq, Repr

/-- A double-bit error that a stop finds in a crate (R202): the 64-bit word of the crate it lies in; words 0 to 7 are the header. -/
inductive CrateUpset where
  | clean
  | headerWord (w : Nat)
  | dataWord (w : Nat)
  deriving DecidableEq, Repr

/-- A link frame as it stands on the lanes (R407). `crcOk` says whether the CRC of bytes 0 to 1,015 matches (R408). -/
structure Frame where
  ftype : Nat
  cls : Nat
  enc : Bool
  keyPhase : Bool
  replay : Bool
  len : Nat
  seq : BitVec 32
  ack : BitVec 32
  credit : List Nat
  count : Word
  fctr : Nat
  payload : List Byte
  tag : List Byte
  crcOk : Bool
  deriving DecidableEq, Repr

/-- A transport packet (R446): its 32-byte header and its data bytes. -/
structure Packet where
  ptype : Nat
  cls : Nat
  route : Nat
  retransmit : Bool
  len : Nat
  srcPkg : Nat
  dstPkg : Nat
  flow : Nat
  psn : BitVec 32
  addr : Word
  stamp : Word
  data : List Byte
  deriving DecidableEq, Repr

/-- The two-way time exchange payload of R466. -/
structure TimeMsg where
  depth : Nat
  aligned : Bool
  seq : Nat
  t1 : Word
  t2 : Word
  t3 : Word
  replay : Bool
  count : Nat := 0
  root : Nat := 0
  deriving DecidableEq, Repr

/-- The READY and ARMED messages of R328: the sending package, the launch's identity, the package's time-base flags, and the dies that it arms, by which the
coordinator knows whose acknowledgements to expect (R339; DESIGN CHOICE, log entry 87). -/
structure ReadyMsg where
  job : Nat
  pkg : Nat
  schedOp : Nat
  seed : Word
  build : Word
  holdover : Bool
  locked : Bool
  epochSet : Bool
  aligned : Bool
  dies : List Nat := []
  timeRoot : Option Nat := none
  deriving DecidableEq, Repr

/-- A root's record of a pruned member, as it is forwarded (R464): FIRST_MISSING and the count of the record. -/
structure PruneMsg where
  firstMissing : Nat
  count : Nat
  deriving DecidableEq, Repr

/-- A stretch request (R337 step 1). -/
structure StretchReq where
  job : Nat
  pkg : Nat
  die : Nat
  ldie : Nat
  q : Nat
  reason : Nat
  count : Nat
  deriving DecidableEq, Repr

/-- A stretch answer (R337 step 4). -/
structure StretchAns where
  job : Nat := 0
  seq : Nat
  k : Nat
  lam : Nat
  t : Nat
  bT : Nat
  die : Nat
  pkg : Nat
  deriving DecidableEq, Repr

/-- The PCIe transaction-layer events of R360 that carry no row of their own. -/
inductive Tlp where
  | malformed
  | ecrcError
  | outsideBars
  | poisonedWrite
  | unexpectedCompletion
  | configWriteReadOnly
  /-- A read within BAR0, outside the aperture. -/
  | readBar0 (offset : Nat)
  /-- A read within BAR2 (R351). -/
  | readBar2 (offset : Nat)
  /-- A PTM request (R345). -/
  | ptmRequest
  /-- A request that R345 does not support, an AtomicOp. -/
  | atomicOp
  deriving DecidableEq, Repr

/-- A request to the management endpoint (R573): MCTP control, a numeric sensor read (R574), a state sensor read (R575), or
a PLDM type that is not supported. -/
inductive MctpReq where
  | control
  | numericSensor (id : Nat)
  | stateSensor (id : Nat)
  | unsupported
  deriving DecidableEq, Repr

/-- An SPDM request on a transport instance (R531): transports 0 and 1 are DOE on each port, 2 is MCTP. -/
inductive SpdmReq where
  | getVersion
  | getCertificate (slot : Nat)
  | challenge
  | measurements (nonce : List Byte)
  | keyExchange (session : Nat) (ems : List Byte)
  | endSession (session : Nat)
  /-- The capabilities, algorithms and the digest of slot 0; the keep-alive and the key update of a session (R531). -/
  | getCapabilities
  | negotiateAlgorithms
  | getDigests
  | heartbeat (session : Nat)
  | keyUpdate (session : Nat)
  /-- TDISP (R542): the state and the interface report of a context's TDI, its start and its stop. -/
  | interfaceState (ctx : Nat)
  | interfaceReport (ctx : Nat)
  | startInterface (ctx : Nat)
  | stopInterface (ctx : Nat)
  /-- IDE key management over DOE (R345): a stream's key, the start and the stop of the stream under it. -/
  | ideKeyProg (stream : Nat) (key : List Byte)
  | ideKeyGo (stream : Nat)
  | ideKeyStop (stream : Nat)
  | unsupported
  deriving DecidableEq, Repr

end Sys2Proof
end

