-- ==== Sys2Proof/Syntax.lean ====
section
/-! DEFINITION. The commands of the block: one constructor per row of the table of operations and events, with the row's operands.
Each is whole and indivisible. Numbers name dies by die index (R18), cores by 4 × die index + core order (R21), optical ports,
host ports, channels, ring stops and contexts by their own numbers. -/

namespace Sys2Proof

/-- One constructor per row of the table; each docstring gives the row's rule. -/
inductive Instr where
  /-- R550. Both 12 V edges have been valid for 10 ms, so phase 1 begins and the regulators bring up the rails. -/
  | edgesValid
  /-- R550. Die reset is released at the first REFCLK_RACK edge with every rail in regulation, PKG_RESET_N high and every loop locked; the counters start at zero. -/
  | dieResetRelease
  /-- R551. An edge has stayed below 10.8 V for 10 µs, so every rail turns off in reverse order and the package leaves service. -/
  | edgeUndervoltage (edge : Nat)
  /-- R549. A low on PKG_RESET_N of at least 10 µs holds every die in reset. -/
  | pkgResetAssert
  /-- R549. On release of PKG_RESET_N, start-up runs from phase 1 if a rail is off, and from phase 2 otherwise. -/
  | pkgResetRelease
  /-- R549. Asserting PERSTn_N holds the port PHY in reset and takes the link down; after start-up it acts as a function level reset. -/
  | perstAssert (port : Nat)
  /-- R549. Releasing PERSTn_N lets the port link train. -/
  | perstRelease (port : Nat)
  /-- R552. Phase 2: both keepers run ROM, K0 derives the identity, K1 unwraps it, and K0 attempts the token swap. -/
  | keeperRom (k0Ok k1Ok : Bool)
  /-- R553. 30 ms after its phase 2 work, K1 attempts the token swap if epoch 0 is still in place. -/
  | k1TokenWait
  /-- R552. Phase 3: the keeper verifies and runs its image, measures blocks 1 to 9, and loads the images of the other die kinds. -/
  | measuredBoot
  /-- R529. Phase 4: the keeper validates both inventory copies, selects the one in use, rewrites the other, and sets the core, spare and logical maps. -/
  | inventoryLoad
  /-- R554. Phase 5: every die, spares included, runs its self-test and leaves its stores at zero. -/
  | selfTest (failed routers : List Nat)
  /-- R556. Phase 6: each channel is checked against its SPD, trained and repaired, or is marked FAILED. -/
  | cellarBringup (modules : List ModuleRead)
  /-- R552. Phase 7: the front ends start, the BARs and kernel queues become usable, and retry status stops. -/
  | hostLinkStart (ok0 ok1 : Bool)
  /-- R557. The keeper checks that every die loaded one epoch at one edge; if so, phase 8 completes and SERVICE becomes 1. -/
  | epochCheck
  /-- R583. Both edges have been below 2.0 V for 100 ms, so the THERM_TRIP_N latch clears. -/
  | thermTripLatchClear
  /-- R64. A RACK_SYNC edge loads the epoch on an armed die, or else is checked against its expected count. -/
  | rackSyncPulse (die : Nat)
  /-- R67. No REFCLK_RACK edge has arrived for 100 ns, so the die enters holdover. -/
  | refclkLoss (die : Nat)
  /-- R67. The reference returns and the die relocks, clears HOLDOVER and absorbs the drift by slewing. -/
  | refclkRelock (die : Nat) (drift : Int)
  /-- R69. A write to TB_SLEW replaces the offset that remains, applied on every die from one beat boundary. -/
  | tbSlewWrite (value : Word)
  /-- R69. The slew offset reaches zero, and SLEWING clears at that beat boundary. -/
  | slewComplete
  /-- R64. A write of TB_CTRL.EPOCH_ARM = 1 arms this die's epoch load. -/
  | epochArm (die : Nat)
  /-- R68. A 32-bit read of the low half of TB_COUNT latches the high half for the same requester. -/
  | tbCountLowRead (die requester : Nat)
  /-- R61. A write to PW_OP_CTRL clamps MIN_OP, then MAX_OP, then REQ_OP, and sets the die's requested point. -/
  | pwOpCtrlWrite (die : Nat) (value : Word)
  /-- R52. A one-point VDD_CORE change settles, and the die is guaranteed at its new point. -/
  | opChangeComplete (die : Nat)
  /-- R58. At each slot boundary, each unit checks that its operation for the ending slot has completed. -/
  | slotBoundary (core unit bundle : Nat)
  /-- R326. At the launch count L, each armed die starts the job's schedule grid. -/
  | gridStart (die : Nat)
  /-- R137. The fetcher reads the next score row, or the row of a branch target that is not held. -/
  | scoreFetch (core : Nat)
  /-- R138. The head bundle issues at its grid instant in scheduled mode, or when R141 holds in dynamic mode, and releases its operations. -/
  | bundleIssue (core : Nat)
  /-- R149. The scalar unit writes s(RA) + s(RB) to s(RD). -/
  | add (core : Nat) (upset : Option Upset)
  /-- R149. The scalar unit writes s(RA) − s(RB) to s(RD). -/
  | sub (core : Nat) (upset : Option Upset)
  /-- R149. The scalar unit writes the low 64 bits of s(RA) × s(RB) to s(RD). -/
  | mul (core : Nat) (upset : Option Upset)
  /-- R149. The scalar unit writes s(RA) and s(RB) to s(RD). -/
  | andOp (core : Nat)
  /-- R149. The scalar unit writes s(RA) or s(RB) to s(RD). -/
  | orOp (core : Nat)
  /-- R149. The scalar unit writes s(RA) xor s(RB) to s(RD). -/
  | xor (core : Nat)
  /-- R149. The scalar unit shifts s(RA) left by s(RB)[5:0]. -/
  | shl (core : Nat)
  /-- R149. The scalar unit shifts s(RA) right logically by s(RB)[5:0]. -/
  | shr (core : Nat)
  /-- R149. The scalar unit sets s(RD) to 1 if s(RA) < s(RB) unsigned, and to 0 otherwise. -/
  | sltu (core : Nat) (upset : Option Upset)
  /-- R149. The scalar unit adds the sign-extended immediate to s(RA). -/
  | addi (core : Nat) (upset : Option Upset)
  /-- R149. The scalar unit ors the zero-extended immediate into s(RA). -/
  | ori (core : Nat)
  /-- R149. The scalar unit shifts s(RA) left by IMM[5:0]. -/
  | shli (core : Nat)
  /-- R149. The scalar unit shifts s(RA) right logically by IMM[5:0]. -/
  | shri (core : Nat)
  /-- R150. The scalar unit loads one 64-bit shelf word into s(RD). -/
  | ld (core : Nat) (upset : Option Upset)
  /-- R150. The scalar unit stores s(RD) into one 64-bit shelf word. -/
  | st (core : Nat) (upset : Option Upset)
  /-- R149. The score branches by the immediate when s(RA) is zero. -/
  | bz (core : Nat)
  /-- R149. The score branches by the immediate when s(RA) is not zero. -/
  | bnz (core : Nat)
  /-- R149. The scalar unit decrements s(RA) and branches if the new value is not zero. -/
  | dbnz (core : Nat) (upset : Option Upset)
  /-- R149. The scalar unit reads the die's own time-base count into s(RD). -/
  | rdtb (core : Nat)
  /-- R149. The scalar unit reads the logical core number, logical die index, logical core slot or active core count. -/
  | rdid (core : Nat)
  /-- R151. The core issues no further bundle of the launch. -/
  | halt (core : Nat)
  /-- R173. A unit completes an operation, ending pending register writes, meeting WHEN conditions and setting its progress flag. -/
  | operationComplete (core unit : Nat)
  /-- R151. After HALT, every operation released before it has completed, so the core's part ends and copy-out begins. -/
  | corePartEnd (core : Nat)
  /-- R92. The engine selects a shape, form or element-wise mode once the array is empty. -/
  | shape (core eng : Nat)
  /-- R84. The engine runs an output-stationary pass into an accumulator bank. -/
  | tileOs (core eng : Nat) (follows : Bool) (upset : Option Upset)
  /-- R88. The engine runs a weight-stationary pass of m token rows into a collector half. -/
  | tileWs (core eng : Nat) (upset : Option Upset)
  /-- R90. The engine loads a weight tile into the shadow registers, raw or through the expander. -/
  | loadShadow (core eng : Nat) (upset : Option Upset)
  /-- R262. A stream halted on a generation that was not resident resumes once that generation becomes resident. -/
  | codedStreamResume (core eng : Nat) (upset : Option Upset)
  /-- R91. The engine copies the shadow registers into the weight registers in one step. -/
  | swap (core eng : Nat)
  /-- R85. The engine takes a bank or collector half and writes it to the shelf in the named output format. -/
  | drain (core eng : Nat) (upset : Option Upset)
  /-- R105. The engine applies one element-wise operation to n elements into a collector half. -/
  | ew (core eng : Nat) (upset : Option Upset)
  /-- R161. The mover copies bytes between local or fabric addresses. -/
  | copy (core : Nat)
  /-- R161. The mover writes a 64-bit pattern over a local range. -/
  | fill (core : Nat)
  /-- R163. The mover writes the skewed west stream of one pass. -/
  | skewW (core : Nat)
  /-- R164. The mover writes the skewed north stream of one pass. -/
  | skewN (core : Nat)
  /-- R165. The mover writes the 128 shadow lines of a weight tile. -/
  | layoutWs (core : Nat)
  /-- R167. The tally port holds issue until the tally is at least N. -/
  | wait (core : Nat)
  /-- R167. The tally port holds issue until the tally is at least N, then subtracts N. -/
  | waitdec (core : Nat)
  /-- R297. The tally port adds N to a tally, saturating on overflow. -/
  | inc (core : Nat)
  /-- R297. The tally port subtracts N from a tally, unless that would go below zero. -/
  | dec (core : Nat)
  /-- R309. A core signals a host event: SEQ and STAMP are updated, then a mirror record is posted and an interrupt raised. -/
  | hsig (core : Nat)
  /-- R298. A tally operation from another source reaches the tally, is applied in order, and the registered waits are checked. -/
  | tallyMessageArrive (places : List Nat)
  /-- R300. A wait's satisfaction reaches the issuing core, and the bundle is released within 2 steps. -/
  | waitSatisfactionArrive (core : Nat)
  /-- R299. A wait that found the tally's wait list full is sent again after 1 µs. -/
  | waitRegisterRetry (core : Nat)
  /-- R170. The finishing unit computes e^x over n elements. -/
  | exp (core : Nat) (upset : Option Upset)
  /-- R170. The finishing unit computes 1/x over n elements. -/
  | rcp (core : Nat) (upset : Option Upset)
  /-- R170. The finishing unit computes 1/√x over n elements. -/
  | rsqrt (core : Nat) (upset : Option Upset)
  /-- R170. The finishing unit computes GELU over n elements. -/
  | gelu (core : Nat) (upset : Option Upset)
  /-- R170. The finishing unit computes SiLU over n elements. -/
  | silu (core : Nat) (upset : Option Upset)
  /-- R170. The finishing unit converts n elements to FMT_OUT. -/
  | cvt (core : Nat) (upset : Option Upset)
  /-- R171. The finishing unit applies generator dropout to n elements. -/
  | drop (core : Nat) (upset : Option Upset)
  /-- R172. The finishing unit selects one index from n weights with one draw. -/
  | sample (core : Nat) (upset : Option Upset)
  /-- R190. After a quench completes, the shelf is closed, zeroed and verified, and the core's buffers are cleared; the loft is scrubbed likewise. -/
  | scrub (die store : Nat) (badRow : Option Nat)
  /-- R191. A core or loft scrub ends, and admission to it is allowed again. -/
  | scrubEnd (die store : Nat)
  /-- R207. 4 µs before an injection count, the cellar or larder die begins reading the payload. -/
  | payloadReadStart (wsid entry : Nat)
  /-- R205. At its injection count the crate enters the ring; in scheduled mode a crate that is not ready raises F_SLOT_LATE. -/
  | crateInject (wsid entry : Nat)
  /-- R210. A crate reaches a stop, which checks it and then lands it, forwards it, or takes it home. -/
  | crateArrive (crate stop : Nat) (upset : CrateUpset)
  /-- R196. The landing copy completes, the slots become FULL, and the landing tally increments. -/
  | crateFull (die slot : Nat)
  /-- R219. Released by the send tally, the stop adds the contribution to the held carry, puts the crate back on the ring and increments the sent tally. -/
  | carrySend (die slot : Nat)
  /-- R226. The home update station applies the optimizer step to the tile, writes both bf16 copies and sets STEPS[T]. -/
  | updateApply (crate : Nat) (upset : Option Upset)
  /-- R233. Once every retirement condition holds, the set retires: reservations end, regions are unpinned and the retire event is signalled. -/
  | setRetire (wsid : Nat)
  /-- R260. A TABLE_LOAD is delivered to every expander of the job, evicting a slot if named and filling a slot. -/
  | tableLoadDeliver (ctx : Nat)
  /-- R272. A cellar die serves a read, checking the owner, the tag and the correction code. -/
  | cellarRead (acc : Accessor) (addr len : Nat)
  /-- R536. A cellar die encrypts and tags a write, after checking the granule's owner. -/
  | cellarWrite (acc : Accessor) (addr : Nat) (data : List Byte)
  /-- R277. Patrol scrub reads a frame, writing back each line it corrected unless the line was written since. -/
  | patrolScrub (ch frame : Nat) (raced : List Nat)
  /-- R274. A frame with 64 corrections in 24 h is copied to a spare frame and remapped. -/
  | frameMigrate (die frame : Nat)
  /-- R278. The last frame of a draining channel is remapped; the channel becomes DRAINED and the command completes. -/
  | channelDrained (ch : Nat)
  /-- R282. A channel fails in service, and its unremapped frames become unbacked. -/
  | channelFail (ch : Nat)
  /-- R283. The module temperature is polled; above 85 °C refresh doubles and above 95 °C class 2 and 3 traffic is held. -/
  | spdTempPoll (ch : Nat) (temp : Int)
  /-- R283. A command/address parity alert makes the command retry, up to 4 times. -/
  | caParityAlert (ch retries : Nat) (recovered : Bool)
  /-- R283. A write CRC alert makes the write retry, up to 4 times. -/
  | writeCrcAlert (ch retries : Nat) (recovered : Bool)
  /-- R283. Unexpected read data or a malformed MRCD response is discarded and counted. -/
  | mrcdViolation (ch : Nat)
  /-- R284. A write to CL_CFG sets the scrub period and clamps SPARE, zeroing the new tag store. -/
  | clCfgWrite (value : Word)
  /-- R286. A larder die reads a page, correcting errors and recording weak pages. -/
  | larderRead (acc : Accessor) (addr len : Nat) (corrections : List Nat)
  /-- R545. A cellar die zeroes the tags of its ERASING granules, which then become UNOWNED. -/
  | tagErase (die : Nat)
  /-- R317. Every 50,000 counts, the keeper samples every bound context and detects stalls. -/
  | stocktakeRun
  /-- R320. A forwarded detection reaches the coordinator, which writes job-level reports once every package is stalled. -/
  | stocktakeForward (job pkg ctx : Nat) (stalled : Bool)
  /-- R383. Once its wait conditions clear, LAUNCH binds the context, loads the tally map and link table, and places the score and inputs. -/
  | launchBind (ctx : Nat)
  /-- R383. Once every copy-out and the launch's crates and carries are done, LAUNCH completes and the binding ends. -/
  | launchComplete (ctx : Nat)
  /-- R328. A READY message reaches the coordinator, which sets L and sends ARM once every package has reported. -/
  | ready (msg : ReadyMsg)
  /-- R328. ARM with L reaches a keeper, which arms its dies and sends ARMED. -/
  | arm (job : Nat) (l : Nat)
  /-- R328. An ARMED message reaches the coordinator. -/
  | armed (msg : ReadyMsg)
  /-- R328. GO reaches a package, whose armed dies start at L. -/
  | go (job : Nat)
  /-- R328. ABORT reaches a package, which disarms and completes LAUNCH with error status. -/
  | abort (job : Nat)
  /-- R329. 100 ms after the first READY, some READY is still missing, so the coordinator sends ABORT. -/
  | readyCollectTimeout (job : Nat)
  /-- R328. At L − 50,000, the coordinator sends GO or ABORT. -/
  | armedDeadline (job : Nat)
  /-- R328. At L − 20,000, a package without GO or ABORT disarms and raises F_LAUNCH_SYNC. -/
  | armDisarmDeadline (job : Nat)
  /-- R328. 200 ms after sending READY with neither ARM nor ABORT, the package fails the launch. -/
  | readyAnswerTimeout (job : Nat)
  /-- R337. A stretch request reaches the coordinator, which computes λ', T and b_T and sends the answer. -/
  | stretchRequest (req : StretchReq)
  /-- R337. A stretch answer reaches a die, which acknowledges it and holds it pending. -/
  | stretchAnswer (die : Nat) (ans : StretchAns)
  /-- R337. A die's acknowledgement of an answer reaches the coordinator. -/
  | stretchAck (job pkg die seq : Nat)
  /-- R337. At g(b_T), each die adds the new anchor, and the requesting die begins to step to q. -/
  | anchorApply (die : Nat)
  /-- R339. 40 µs after its request, a die with no answer raises F_STRETCH_LATE. -/
  | stretchAnswerTimeout (die : Nat)
  /-- R339. At count T the coordinator finds an acknowledgement missing and raises F_STRETCH_LATE. -/
  | stretchAckDeadline (job : Nat)
  /-- R346. A PCIe configuration request is answered, with retry status until the front end is ready. -/
  | configRequest (port offset : Nat) (write : Option Word)
  /-- R351. A doorbell write updates the queue's tail under R366 and fires its armed watch. -/
  | doorbellWrite (port offset size : Nat) (value : Word)
  /-- R354. A write to the kernel-queue doorbell rings the port's kernel queue. -/
  | kernelDoorbell (port size : Nat) (value : Word)
  /-- R349. An aperture read is forwarded to the selected die, returning all ones and setting TIMEOUT after 2 µs. -/
  | apertureRead (port offset : Nat) (answered : Bool)
  /-- R349. An aperture write is performed on the primary port, and ignored and counted on the secondary. -/
  | apertureWrite (port offset : Nat) (value : Word)
  /-- R355. A write to HQ_ROLE.PRIMARY changes the primary port, subject to the port-role rule. -/
  | hqRoleWrite (port : Nat) (value : Word)
  /-- R353. Setting HQ_KQ_CFG.ENABLE starts fetching of the kernel queue. -/
  | hqKqEnable (port : Nat) (value : Word)
  /-- R14. A write to a register without a row of its own is clamped and applied. -/
  | registerWrite (space : RegSpace) (offset : Nat) (value : Word)
  /-- R356. A port's data link goes down: its queues stop fetching, its mirrors drop, and PEER_DOWN is raised. -/
  | pcieLinkDown (port : Nat)
  /-- R356. The primary port's link has stayed down for FAILOVER_MS, so PRIMARY switches to the surviving port. -/
  | failoverTimeout (port : Nat)
  /-- R356. A port's link returns; its queues stay held until resumed. -/
  | pcieLinkUp (port rate width : Nat)
  /-- R359. An FLR quenches and destroys the port's contexts and resets its registers, MSI-X table and IDE state. -/
  | functionLevelReset (port : Nat)
  /-- R360. A received TLP is checked, and a violating one is dropped or answered, with AER and counting. -/
  | pcieTlpReceive (port : Nat) (tlp : Tlp)
  /-- R360. A completion for a device DMA read arrives; an error or poison raises F_HOST_DMA. -/
  | dmaCompletion (port ctx addr : Nat) (data : Option (List Byte))
  /-- R360. A device DMA read has had no completion for 50 ms, and is treated as failed. -/
  | dmaTimeout (port ctx addr : Nat)
  /-- R360. An IDE stream fails integrity: it becomes insecure, its TDIs go to ERROR and their contexts are faulted. -/
  | ideIntegrityFail (port stream : Nat)
  /-- R358. At least once per µs, the serving unit rewrites the status block. -/
  | statusBlockRewrite
  /-- R368. The front end fetches and decodes a descriptor, clamping fields or applying check mode, and starts the command. -/
  | descriptorFetch (q : QRef)
  /-- R368. A batched queue's coalescing window ends, and fetching proceeds. -/
  | batchWindowExpire (q : QRef)
  /-- R397. An ATS invalidation of a completion-ring page sets the CQ cause and holds the queue's records. -/
  | atsInvalidation (port pasid addr len : Nat)
  /-- R396. A command completes, and its completion record is posted or held. -/
  | commandComplete (q : QRef)
  /-- R373. The NOP command completes without effect. -/
  | nop (q : QRef)
  /-- R383. LAUNCH reads and checks the launch block, and waits for the context's dies. -/
  | launch (q : QRef)
  /-- R311. Once the commands before it complete, RECORD_EVENT signals its event. -/
  | recordEvent (q : QRef)
  /-- R311. WAIT_EVENT holds its queue until the event's SEQ reaches the target. -/
  | waitEvent (q : QRef)
  /-- R385. The host COPY command moves bytes between host, cellar and larder buffers. -/
  | copyCmd (q : QRef)
  /-- R385. The host FILL command writes a 64-bit pattern over a buffer. -/
  | fillCmd (q : QRef)
  /-- R250. The survey builds a cask table, optionally encodes the blocks, and writes its report. -/
  | survey (q : QRef)
  /-- R260. TABLE_LOAD reads and checks a table record and queues it for delivery. -/
  | tableLoad (q : QRef)
  /-- R488. HINT records a heavy or light power phase for the context's dynamic dies. -/
  | hint (q : QRef)
  /-- R307. SIGNAL_TALLY adds a value to a KIND 0 tally of the context. -/
  | signalTally (q : QRef)
  /-- R369. FENCE waits until every earlier command of its context has completed. -/
  | fence (q : QRef)
  /-- R387. SET_WEIGHTS checks a plan and binds the weight set to a pointer slot from the next launch boundary. -/
  | setWeights (q : QRef)
  /-- R390. CREATE_CONTEXT creates a context from its context block. -/
  | createContext (q : QRef)
  /-- R392. DESTROY_CONTEXT destroys the context, or kills it; its commands abort, it is scrubbed and its regions are crypto-erased. -/
  | destroyContext (q : QRef)
  /-- R391. CREATE_QUEUE creates or deletes a queue of a context on the issuing port. -/
  | createQueue (q : QRef)
  /-- R453. PATH_SETUP checks the path plan and sends SETUP along every route to create flows. -/
  | pathSetup (q : QRef)
  /-- R455. PATH_TEARDOWN removes one path, or all of them, and frees their entries and lanes. -/
  | pathTeardown (q : QRef)
  /-- R533. KEY_INSTALL decrypts a key blob in an SPDM session and seals the context. -/
  | keyInstall (q : QRef)
  /-- R312. TALLY_FORCE sets a tally, or aborts a unit's head operation. -/
  | tallyForce (q : QRef)
  /-- R516. RECOVER acts on a keeper, a die, a port or a context, as TARGET and ACTION select. -/
  | recover (q : QRef)
  /-- R530. INVENTORY_READ writes the inventory record and the identity public key to host memory. -/
  | inventoryRead (q : QRef)
  /-- R288. With service stopped, LARDER_WRITE copies a cellar range into the larder and verifies every page. -/
  | larderWrite (q : QRef) (badPages : List Nat)
  /-- R514. DIE_RETIRE replaces a compute die with a spare and updates the maps and the inventory record. -/
  | dieRetire (q : QRef) (failedSpares : List Nat) (answers : Bool)
  /-- R278. CHANNEL_DRAIN drains a channel to spare frames, or with RETURN brings a channel back. -/
  | channelDrain (q : QRef)
  /-- R568. LEDGER_DRAIN writes merged ledger entries from FROM to host memory. -/
  | ledgerDrain (q : QRef)
  /-- R393. RESUME_QUEUE retranslates, writes or discards held records, clears the causes and optionally restarts the queue. -/
  | resumeQueue (q : QRef)
  /-- R421. Light appears on a lane group, and training bounds start. -/
  | lightGain (port : Nat) (lanes : BitVec 16)
  /-- R421. The lanes lock, and the port moves from DARK to SIGNAL. -/
  | laneLock (port : Nat) (lanes : BitVec 16)
  /-- R406. FEC and deskew lock, the width is chosen, and the port moves to ALIGN. -/
  | frameAlign (port : Nat) (partner : BitVec 16) (reversed : Bool)
  /-- R421. A training bound is missed; the port returns to DARK, or on the third miss goes to FAILED. -/
  | trainingBoundMiss (port : Nat)
  /-- R422. Every lane has been dark for 1 µs; the port goes to DARK and discards its keys. -/
  | lightLoss (port : Nat)
  /-- R422. An UP port loses lanes but keeps a lane group, and retrains in place at the new width. -/
  | laneGroupLoss (port : Nat) (lanes : BitVec 16)
  /-- R420. Writing LK_CTRL.ENABLE allows training, or turns the lasers off. -/
  | lkEnable (port : Nat) (bit : Bool)
  /-- R429. Writing LK_CTRL.HOLD = 1 sends DOWN, empties the replay buffer and takes the port DOWN; 0 releases it. -/
  | lkHold (port : Nat) (bit : Bool)
  /-- R421. Writing LK_CTRL.RETRAIN restarts training from DARK. -/
  | lkRetrain (port : Nat) (bit : Bool)
  /-- R432. Writing LK_INJECT arms or disarms fault injection and resets its counting. -/
  | lkInjectArm (port : Nat) (value : Word)
  /-- R418. An IDLE frame is received, and its credits and ACK are taken. -/
  | idleFrame (port : Nat) (f : Frame)
  /-- R414. A DATA frame is checked and authenticated, then accepted in SEQ order or discarded with a NAK. -/
  | dataFrame (port : Nat) (f : Frame)
  /-- R415. A NAK makes the sender resend its held frames from the SEQ named. -/
  | nakFrame (port : Nat) (f : Frame)
  /-- R415. 10 µs with frames held and no ACK advance starts a replay. -/
  | replayTimeout (port : Nat)
  /-- R410. FCTR reaches 2^32, and the sender starts a rekey. -/
  | fctrRekeyThreshold (port : Nat)
  /-- R410. FCTR reaches 2^32 + 2^20 without a rekey, and the port leaves UP. -/
  | fctrLimit (port : Nat)
  /-- R423. A partner's HELLO is received and echo measurement begins. -/
  | hello (port : Nat) (f : Frame)
  /-- R431. With no partner HELLO yet, HELLO is resent every 10 µs. -/
  | helloResend (port : Nat)
  /-- R423. An ECHO is answered with ECHO_REPLY within 200 ns. -/
  | echo (port : Nat) (f : Frame)
  /-- R423. An ECHO_REPLY gives a round trip, from which LK_DELAY is set. -/
  | echoReply (port : Nat) (f : Frame) (rtt : Nat)
  /-- R427. The partner's IDENT is checked; the keys are derived and CONFIRM is sent, or the port is held. -/
  | ident (port : Nat) (f : Frame)
  /-- R423. The partner's CONFIRM is accepted, and the port enters UP. -/
  | confirm (port : Nat) (f : Frame)
  /-- R412. A REKEY is answered with REKEY_ACK, and the new keys are derived. -/
  | rekey (port : Nat) (f : Frame)
  /-- R412. A REKEY_ACK completes the rekey, and the key phase inverts. -/
  | rekeyAck (port : Nat) (f : Frame)
  /-- R429. A partner's DOWN takes the port to DARK without a fault. -/
  | down (port : Nat) (f : Frame)
  /-- R440. A WRITE packet is accepted in PSN order, checked, and stored at the destination. -/
  | write (port : Nat) (p : Packet)
  /-- R440. A READ_REQ is checked and answered with READ_DATA. -/
  | readReq (port : Nat) (p : Packet)
  /-- R439. READ_DATA delivers the data of a remote load to the source. -/
  | readData (port : Nat) (p : Packet)
  /-- R442. An ATOMIC packet's requests are applied to cellar words, each as one indivisible step. -/
  | atomic (port : Nat) (p : Packet)
  /-- R441. A SIGNAL packet adds to a tally of the job's context, as an INC. -/
  | signal (port : Nat) (p : Packet)
  /-- R447. An ACK advances the flow's oldest unacknowledged PSN and releases tracked requests. -/
  | ack (port : Nat) (p : Packet)
  /-- R447. A NACK makes the source resend from the oldest unacknowledged PSN. -/
  | nack (port : Nat) (p : Packet)
  /-- R447. Within 2 µs of accepting a packet, the destination sends an ACK. -/
  | ackTimer (flow : Nat)
  /-- R447. 100 µs without an advance makes the source resend; repeated timeouts count as route failures. -/
  | psnResendTimeout (flow : Nat)
  /-- R459. A ROUTE_FAIL switches the flow to the next route that has not failed, and starts a resend. -/
  | routeFail (port : Nat) (p : Packet)
  /-- R453. A SETUP writes a transit entry and reserves lanes, or at DEST is checked and answered. -/
  | setup (port : Nat) (p : Packet)
  /-- R453. SETUP_ANS reaches the source keeper, and the flows become usable once every answer is positive. -/
  | setupAns (port : Nat) (p : Packet)
  /-- R462. A GROUP_WRITE is replicated along the tree and landed at each member in PSN order. -/
  | groupWrite (port : Nat) (p : Packet)
  /-- R462. A member's GROUP_ACK updates its acknowledged PSN at the root. -/
  | groupAck (port : Nat) (p : Packet)
  /-- R463. The prune timer expires, the slowest members are pruned, and sending resumes. -/
  | pruneTimer (ctx group : Nat)
  /-- R464. A forwarded prune record reaches the member's keeper, which delivers it to the member context. -/
  | mcastPruneForward (job rootPkg group : Nat) (firstMissing : PruneMsg)
  /-- R466. Every 100 µs, a non-root package sends SYNC_REQ to its parent. -/
  | timeExchangeStart
  /-- R466. The parent stamps T2 and answers with SYNC_RESP. -/
  | syncReq (port : Nat) (m : TimeMsg) (t2 : Word)
  /-- R467. The child computes θ and steps, holds or slews its count, and updates ALIGNED. -/
  | syncResp (port : Nat) (m : TimeMsg) (t4 : Word)
  /-- R466. A response missing for 100 µs discards the exchange. -/
  | timeExchangeTimeout
  /-- R468. No exchange has completed for 5 ms, so ALIGNED clears. -/
  | alignmentTimeout
  /-- R476. A rail current reading is checked against the RAIL, emergency and rail-fault limits. -/
  | currentSample (die rail amps1 amps10 : Nat)
  /-- R476. A package or edge reading at the peak limit triggers a PEAK step or stretch request. -/
  | packagePowerSample (watts edge0 edge1 avg1ms : Nat)
  /-- R490. Sensor readings are checked against the thermal thresholds. -/
  | tempSample (die : Nat) (readings : List Int)
  /-- R479. A VDD_CORE droop of more than 30 mV for 10 ns is counted and logged. -/
  | droopDetect (die : Nat)
  /-- R483. Every 100 µs the keeper allocates power budgets to every die. -/
  | allocationPass (power : List Nat)
  /-- R489. Every 1 ms, each keeper reports the job's unmet demand and unused power to the coordinator. -/
  | poolReportTimer
  /-- R489. A pool report reaches the coordinator, which moves power between the packages' caps. -/
  | poolReport (job pkg unmet critUnmet unused : Nat)
  /-- R497. A fault record reaches the handler, which delivers it to its parties and applies its effect. -/
  | faultRecordDeliver (die : Nat)
  /-- R498. The handler's acknowledgement frees the die's held record, and a lost count is reported. -/
  | faultRecordAck (die : Nat)
  /-- R498. A record unacknowledged for 10 µs goes to the hatch sequencers, which apply its effect. -/
  | faultRecordTimeout (die : Nat)
  /-- R500. A JOB_FAULT message reaches a package, which applies R132 to the job. -/
  | jobFault (job code pkg count : Nat)
  /-- R499. At the next slot boundary, or at the end of the operation, the faulted job's contexts are quenched. -/
  | faultQuench (ctx : Nat)
  /-- R503. Every 100 µs the active keeper sends a heartbeat to the standby and the hatch sequencers. -/
  | keeperHeartbeat
  /-- R503. 500 µs without a heartbeat: the standby declares the active keeper failed. -/
  | heartbeatTimeout (watched : Nat)
  /-- R503. A keeper's failure message makes the peer declare it failed. -/
  | keeperFailureMessage (k : Nat)
  /-- R503. The keeper's 1 ms supervisor watchdog expires; it sends a failure message and stops. -/
  | keeperWatchdogExpire (k : Nat)
  /-- R504. A compare-and-swap at H0's hatch sequencer raises the keeper epoch, and the new epoch is sent to the dies. -/
  | keeperTokenCas (k expected : Nat)
  /-- R504. A die receives a new keeper epoch, and ignores messages with a lower one. -/
  | epochNotice (die epoch : Nat)
  /-- R505. A journal record reaches a holder, which stores and acknowledges it. -/
  | journalRecord (holder seq : Nat)
  /-- R506. The new active keeper takes the held records, resumes journalled commands and reports the takeover. -/
  | keeperTakeover
  /-- R507. A reset keeper's image verifies, and it enters standby or takes the token. -/
  | keeperBootComplete (k : Nat) (good : Bool)
  /-- R509. KP_HATCH_CTRL OP 0 force-quenches one context. -/
  | kpHatchQuench (host : Nat) (value : Word)
  /-- R509. KP_HATCH_CTRL OP 1 force-quenches every context. -/
  | kpHatchQuenchAll (host : Nat) (value : Word)
  /-- R509. KP_HATCH_CTRL OP 2 resets the named keeper. -/
  | kpHatchKeeperReset (host : Nat) (value : Word)
  /-- R509. KP_HATCH_CTRL OP 3 forces a KIND 0 tally of a context. -/
  | kpHatchTallyForce (host : Nat) (value : Word)
  /-- R314. DG_TALLY_FORCE in mode 0 sets a tally of a context in debug mode. -/
  | dgTallyForceSet (value : Word)
  /-- R314. DG_TALLY_FORCE in mode 1 aborts the head operation of a unit of a context in debug mode. -/
  | dgTallyForceAbort (value : Word)
  /-- R511. A die has not answered keeper polls for 1 ms and is declared failed. -/
  | diePollTimeout (die : Nat)
  /-- R515. Every 10 µs, each stop sends a continuity marker in each direction. -/
  | ringMarkerSend (stop : Nat) (ccw : Bool)
  /-- R515. No marker has arrived for 25 µs; the ring is broken and the package leaves service. -/
  | ringMarkerTimeout (stop : Nat) (ccw : Bool)
  /-- R515. A bypass path checks itself on entry and then every 1 s. -/
  | bypassSelfCheck (stop : Nat) (good : Bool)
  /-- R531. An SPDM request is answered by the active keeper's Isazen engine. -/
  | spdmRequest (transport : Nat) (req : SpdmReq)
  /-- R526. A PLDM firmware update writes and verifies an image in the slot that is not running. -/
  | pldmFwUpdate (kind : Nat) (image : List Byte)
  /-- R542. A TDISP lock request locks a sealed context's TDI before its first launch. -/
  | lockInterfaceRequest (port ctx stream : Nat)
  /-- R524. After 60 s without a keeper failure, the anti-rollback counter is raised to FLOOR. -/
  | fwFloorTimer (kind : Nat)
  /-- R566. Every 100 µs the keeper merges die ledger entries below the horizon into the merged ledger. -/
  | ledgerMerge
  /-- R574. Every 10 ms the MCTP endpoint refreshes its sensors and sends platform events. -/
  | sensorRefresh (dieTemps : List Int) (diePower : List Nat) (modTemps : List Int) (lanePower : List Int)
  /-- R573. An MCTP control or PLDM platform request is answered by the endpoint. -/
  | mctpRequest (req : MctpReq)
  /-- R280. A returning channel finishes its check, training, zeroing and copy-back, and becomes ACTIVE (or FAILED), and CHANNEL_DRAIN with RETURN completes. -/
  | channelReturned (ch : Nat) (shown : ModuleRead)
  /-- R454. 50 ms after PATH_SETUP sent its SETUP messages, a package along a route has not answered, so the set-up is refused with reason 7 and its reservations are released. -/
  | pathSetupTimeout (q : QRef)
  /-- R516. A keeper hand-over (RECOVER keeper action 1) has waited 100 ms without the stretch and arming conditions clearing, so it completes REFUSED. -/
  | handoverWaitTimeout (q : QRef)
  /-- R429. 2 µs after a HOLD sent DOWN, the replay buffer has not emptied, so the remaining frames are handed back to the transport and the port enters DOWN. -/
  | holdReplayTimeout (port : Nat)
  /-- R423. The active keeper's Isazen engine returns the signed IDENT, and the link die sends it to its partner. -/
  | identSigned (port : Nat)
  deriving DecidableEq, Repr

end Sys2Proof
end

