-- ==== Sys2Proof/Decode.lean ====
section
/-! DEFINITION. The command that a word of the operation table spells. The table gives no row of the package any bits: its commands
are events on its boundary and steps inside it, so that a word spells none. -/

namespace Sys2Proof

/-- No row of the table has bits, so no word spells a command. -/
def decodeTableWord (_nbits _w : Nat) : Option Instr := none

end Sys2Proof
end

