-- ==== Sys2Proof/Config.lean ====
section
/-! DEFINITION. What the manual leaves open: constants with no body, so that no statement can rest on a value of theirs. -/

namespace Sys2Proof

/-- The fp32 code that a datapath leaves where a check found it wrong (R128, R130): nothing constrains it. `n` numbers the draw, `i` the place. -/
opaque Config.upsetValue (n i : Nat) : BitVec 32

/-- Which half of the collector, and where in it, the bank of a drain, the `n`-th operation of its engine, is staged (R77, R85): the manual does not say. -/
opaque Config.staging (n : Nat) : Nat

/-- The fp32 result before narrowing of finishing function `k` (R170: 1 EXP, 2 RCP, 3 RSQRT, 4 GELU, 5 SILU) on an ordinary input, before it is held
within the function's bound: the manual does not publish its bits, which are a function of the input alone. -/
opaque Config.finish (k : Nat) (x : BitVec 32) : BitVec 32

/-- The 256-bit secret that K0's corrected PUF response yields (R521), and the digest of the keeper ROM (R532). -/
opaque Config.pufSecret : List Byte
opaque Config.romDigest : List Byte

/-- The number that an Isazen engine draws for a signature of a text (R424): nothing constrains it. -/
opaque Config.signNonce (text : List Byte) : List Byte

/-- The Eloaros manufacturing key's signature of the factory part of the inventory record (R527): its private key is not in the part. -/
opaque Config.factorySign (text : List Byte) : List Byte

/-- The Eloaros firmware key (R523), and the certificate chain of a device certificate with a serial number and an identity key (R522). -/
opaque Config.firmwareKey : List Byte
opaque Config.certificates (serial idKey : List Byte) : List Byte

/-- The baseboard controller accepts a platform event within 1 s (R575): the `n`-th event offered to it. -/
opaque Config.eventAccepted (n : Nat) : Bool

/-- Bytes drawn by an Isazen engine (R423): the `n`-th draw. -/
opaque Config.random (n : Nat) : List Byte

/-- Which way a time offset of a half count is rounded (R467 says nearest, and no more): nothing constrains it. -/
opaque Config.thetaTie (twice : Int) : Bool

/-- The host's translation agent translates a page through ATS (R391, R393): nothing constrains its answer. `n` numbers the request. -/
opaque Config.translated (n : Nat) : Bool

/-- Eloaros's assigned vendor identifier (R344), which the manual does not state. -/
opaque Config.vendorId : BitVec 16

/-- The pages that a larder die keeps in reserve (R288): the manual gives no number. -/
opaque Config.larderReserve : Nat

/-- A die's own self-test passes (R516): the outcome of the `n`-th such test. -/
opaque Config.testPasses (n : Nat) : Bool

/-- What the longest chain of a job's sync tree has beyond the longest edge of this package, in ns, and whether another package of the job has a router marked
failed (R327): a package is told neither (log entry 85). Keyed by the counter of free values. -/
opaque Config.syncRest (n : Nat) : Nat
opaque Config.peerRouterFailed (n : Nat) : Bool

end Sys2Proof
end

