-- ==== Sys2Proof/Machine/Crypto.lean ====
section
/-! DEFINITION. The cryptographic functions that the manual names and does not restate (R409, R424, R425, R453, R519, R521, R540), as their standards define
them: SHA-256 (FIPS 180-4), HMAC (RFC 2104), HKDF (RFC 5869), AES-256 (FIPS 197), GCM (SP 800-38D), XTS (SP 800-38E), ECDSA and Diffie-Hellman on P-256 (FIPS
186-5). PRESUMED, log entry 13. -/

namespace Sys2Proof.Machine

/-- A number from bytes, most significant first, and its bytes. -/
def octets (n v : Nat) : List Byte := (List.range n).map fun i => BitVec.ofNat 8 (v / 2 ^ (8 * (n - 1 - i)))
def unoctets (l : List Byte) : Nat := l.foldl (fun v b => 256 * v + b.toNat) 0

/-! ## SHA-256, HMAC, HKDF -/

/-- The first primes, from which SHA-256 takes its constants. -/
def primes64 : List Nat :=
  [2, 3, 5, 7, 11, 13, 17, 19, 23, 29, 31, 37, 41, 43, 47, 53, 59, 61, 67, 71, 73, 79, 83, 89, 97, 101, 103, 107, 109, 113, 127, 131] ++
  [137, 139, 149, 151, 157, 163, 167, 173, 179, 181, 191, 193, 197, 199, 211, 223, 227, 229, 233, 239, 241, 251, 257, 263, 269, 271, 277, 281, 283, 293, 307,
   311]

/-- The largest root of a number: `x` with x ^ e ≤ n, bit by bit from bit 39. -/
def rootOf (e n : Nat) : Nat := (List.range 40).foldl (fun x i => let y := x + 2 ^ (39 - i); if y ^ e ≤ n then y else x) 0

/-- The first 32 bits of the fraction of the cube root, and of the square root, of a prime. -/
def cubeBits (p : Nat) : Half := BitVec.ofNat 32 (rootOf 3 (p * 2 ^ 96))
def squareBits (p : Nat) : Half := BitVec.ofNat 32 (rootOf 2 (p * 2 ^ 64))

def shaSmall0 (x : Half) : Half := x.rotateRight 7 ^^^ x.rotateRight 18 ^^^ x >>> 3
def shaSmall1 (x : Half) : Half := x.rotateRight 17 ^^^ x.rotateRight 19 ^^^ x >>> 10
def shaBig0 (x : Half) : Half := x.rotateRight 2 ^^^ x.rotateRight 13 ^^^ x.rotateRight 22
def shaBig1 (x : Half) : Half := x.rotateRight 6 ^^^ x.rotateRight 11 ^^^ x.rotateRight 25

/-- The message schedule of a block, newest word first. -/
def shaSchedule (block : List Byte) : List Half :=
  let w := (List.range 16).map fun i => BitVec.ofNat 32 (unoctets ((block.drop (4 * i)).take 4))
  (List.range 48).foldl (fun w _ => (shaSmall1 (w.getD 1 0) + w.getD 6 0 + shaSmall0 (w.getD 14 0) + w.getD 15 0) :: w) w.reverse

/-- One round on the eight working words. -/
def shaRound (v : List Half) (kw : Half × Half) : List Half :=
  let a := v.getD 0 0; let b := v.getD 1 0; let c := v.getD 2 0; let e := v.getD 4 0; let f := v.getD 5 0; let g := v.getD 6 0
  let t := v.getD 7 0 + shaBig1 e + ((e &&& f) ^^^ (~~~e &&& g)) + kw.1 + kw.2
  [t + shaBig0 a + ((a &&& b) ^^^ (a &&& c) ^^^ (b &&& c)), a, b, c, v.getD 3 0 + t, e, f, g]

def shaBlock (h : List Half) (block : List Byte) : List Half :=
  let v := ((primes64.map cubeBits).zip (shaSchedule block).reverse).foldl shaRound h
  h.zipWith (· + ·) v

/-- SHA-256. -/
def sha256 (text : List Byte) : List Byte :=
  let zeros := (119 - text.length % 64) % 64
  let m := text ++ [0x80] ++ List.replicate zeros 0 ++ octets 8 (8 * text.length)
  let h := (List.range (m.length / 64)).foldl (fun h i => shaBlock h ((m.drop (64 * i)).take 64)) ((primes64.take 8).map squareBits)
  h.flatMap fun w => octets 4 w.toNat

/-- HMAC-SHA-256. -/
def hmac (key text : List Byte) : List Byte :=
  let k := if 64 < key.length then sha256 key else key
  let k := k ++ List.replicate (64 - k.length) 0
  sha256 (k.map (· ^^^ 0x5C) ++ sha256 (k.map (· ^^^ 0x36) ++ text))

/-- HKDF-Expand to `n` bytes. -/
def hkdf (prk info : List Byte) (n : Nat) : List Byte :=
  (((List.range ((n + 31) / 32)).foldl (fun (r : List Byte × List Byte) i =>
    let t := hmac prk (r.1 ++ info ++ [BitVec.ofNat 8 (i + 1)]); (t, r.2 ++ t)) ([], [])).2).take n

/-! ## AES-256 -/

/-- Product in GF(2^8) by x^8 + x^4 + x^3 + x + 1. -/
def aesMul (a b : Byte) : Byte :=
  ((List.range 8).foldl (fun (r : Byte × Byte) i =>
    (if b.getLsbD i then r.1 ^^^ r.2 else r.1, r.2 <<< 1 ^^^ if r.2.getLsbD 7 then 0x1B else 0)) (0, a)).1

/-- The S-box: the inverse, as the 254th power, and the affine map. -/
def aesBox (a : Byte) : Byte :=
  let x := ((List.range 7).foldl (fun (r : Byte × Byte) _ => let q := aesMul r.2 r.2; (aesMul r.1 q, q)) (1, a)).1
  x ^^^ x.rotateLeft 1 ^^^ x.rotateLeft 2 ^^^ x.rotateLeft 3 ^^^ x.rotateLeft 4 ^^^ 0x63

/-- The inverse S-box. -/
def aesUnbox (a : Byte) : Byte :=
  let y := a.rotateLeft 1 ^^^ a.rotateLeft 3 ^^^ a.rotateLeft 6 ^^^ 0x05
  ((List.range 7).foldl (fun (r : Byte × Byte) _ => let q := aesMul r.2 r.2; (aesMul r.1 q, q)) (1, y)).1

/-- The 60 words of the expanded key, newest first. -/
def aesKeys (key : List Byte) : List (List Byte) :=
  let w := ((List.range 8).map fun i => (key.drop (4 * i)).take 4).reverse
  ((List.range 52).foldl (fun (r : List (List Byte) × Byte) j =>
    let i := j + 8
    let t := r.1.getD 0 []
    let u := if i % 8 = 0 then ((t.drop 1 ++ t.take 1).map aesBox).zipWith (· ^^^ ·) [r.2, 0, 0, 0] else if i % 8 = 4 then t.map aesBox else t
    ((r.1.getD 7 []).zipWith (· ^^^ ·) u :: r.1, if i % 8 = 0 then aesMul r.2 2 else r.2)) (w, 1)).1

/-- The 15 round keys. -/
def aesRounds (key : List Byte) : List (List Byte) :=
  let w := (aesKeys key).reverse
  (List.range 15).map fun i => ((w.drop (4 * i)).take 4).flatten

def aesShift (s : List Byte) : List Byte := (List.range 16).map fun i => s.getD ((i + 4 * (i % 4)) % 16) 0
def aesUnshift (s : List Byte) : List Byte := (List.range 16).map fun i => s.getD ((i + 12 * (i % 4)) % 16) 0

/-- Each column times a circulant matrix of the four coefficients. -/
def aesMix (k : List Byte) (s : List Byte) : List Byte :=
  (List.range 16).map fun i => (List.range 4).foldl (fun v j => v ^^^ aesMul (k.getD ((4 + j - i % 4) % 4) 0) (s.getD (i / 4 * 4 + j) 0)) 0

/-- AES-256 of one block, and its inverse. -/
def aes256 (key block : List Byte) : List Byte :=
  let k := aesRounds key
  let s := block.zipWith (· ^^^ ·) (k.getD 0 [])
  let s := (List.range 13).foldl (fun s i => (aesMix [2, 3, 1, 1] (aesShift (s.map aesBox))).zipWith (· ^^^ ·) (k.getD (i + 1) [])) s
  (aesShift (s.map aesBox)).zipWith (· ^^^ ·) (k.getD 14 [])

def unaes256 (key block : List Byte) : List Byte :=
  let k := aesRounds key
  let s := (aesUnshift (block.zipWith (· ^^^ ·) (k.getD 14 []))).map aesUnbox
  let s := (List.range 13).foldl (fun s i => (aesUnshift (aesMix [14, 11, 13, 9] (s.zipWith (· ^^^ ·) (k.getD (13 - i) [])))).map aesUnbox) s
  s.zipWith (· ^^^ ·) (k.getD 0 [])

/-! ## GCM -/

/-- Product in GF(2^128) of GCM, whose bit 0 is the most significant. -/
def ghashMul (x y : Nat) : Nat :=
  ((List.range 128).foldl (fun (r : Nat × Nat) i =>
    (if x.testBit (127 - i) then r.1 ^^^ r.2 else r.1, if r.2 % 2 = 1 then r.2 / 2 ^^^ 0xE1 * 2 ^ 120 else r.2 / 2)) (0, y)).1

/-- Bytes filled up to whole blocks of 16. -/
def blocks16 (l : List Byte) : List Byte := l ++ List.replicate ((16 - l.length % 16) % 16) 0

def ghash (h : Nat) (l : List Byte) : Nat :=
  (List.range (l.length / 16)).foldl (fun y i => ghashMul (y ^^^ unoctets ((l.drop (16 * i)).take 16)) h) 0

/-- The key stream of counter blocks from 2 on, added to a text. -/
def gcmText (key iv text : List Byte) : List Byte :=
  text.zipWith (· ^^^ ·) ((List.range ((text.length + 15) / 16)).flatMap fun i => aes256 key (iv.take 12 ++ octets 4 (i + 2)))

/-- The tag of additional data and ciphertext. -/
def gcmTag (key iv aad text : List Byte) : List Byte :=
  let h := unoctets (aes256 key (List.replicate 16 0))
  let s := ghash h (blocks16 aad ++ blocks16 text ++ octets 8 (8 * aad.length) ++ octets 8 (8 * text.length))
  octets 16 (s ^^^ unoctets (aes256 key (iv.take 12 ++ octets 4 1)))

/-- AES-256-GCM with a 96-bit initialisation vector: ciphertext and tag. -/
def gcmSeal (key iv aad text : List Byte) : List Byte × List Byte := let c := gcmText key iv text; (c, gcmTag key iv aad c)

/-- Opening; none where the tag does not match. -/
def gcmOpen (key iv aad text tag : List Byte) : Option (List Byte) := if gcmTag key iv aad text = tag then some (gcmText key iv text) else none

/-! ## XTS -/

/-- The next tweak: times x in GF(2^128), bytes least significant first. -/
def xtsNext (t : List Byte) : List Byte :=
  let v := unoctets t.reverse
  (octets 16 (v * 2 % 2 ^ 128 ^^^ if v.testBit 127 then 0x87 else 0)).reverse

/-- A block doubled in GF(2^128), most significant byte first. -/
def cmacDouble (l : List Byte) : List Byte :=
  let v := unoctets l
  octets 16 (v * 2 % 2 ^ 128 ^^^ if v.testBit 127 then 0x87 else 0)

/-- AES-256-CMAC (SP 800-38B). -/
def aesCmac (key text : List Byte) : List Byte :=
  let k1 := cmacDouble (aes256 key (List.replicate 16 0))
  let n := max 1 ((text.length + 15) / 16)
  let last := text.drop (16 * (n - 1))
  let last := if last.length = 16 then last.zipWith (· ^^^ ·) k1 else (blocks16 (last ++ [0x80])).zipWith (· ^^^ ·) (cmacDouble k1)
  aes256 key (last.zipWith (· ^^^ ·) ((List.range (n - 1)).foldl (fun x i => aes256 key (((text.drop (16 * i)).take 16).zipWith (· ^^^ ·) x))
    (List.replicate 16 0)))

/-- AES-256-XTS over whole blocks: a 64-byte key and the number of the data unit. -/
def xtsSeal (key : List Byte) (unit : Nat) (text : List Byte) : List Byte :=
  ((List.range (text.length / 16)).foldl (fun (r : List Byte × List Byte) i =>
    let x := ((text.drop (16 * i)).take 16).zipWith (· ^^^ ·) r.1
    (xtsNext r.1, r.2 ++ (aes256 (key.take 32) x).zipWith (· ^^^ ·) r.1)) (aes256 (key.drop 32) (octets 16 unit).reverse, [])).2

/-! ## P-256 -/

def p256P : Nat := 0xFFFFFFFF00000001000000000000000000000000FFFFFFFFFFFFFFFFFFFFFFFF
def p256N : Nat := 0xFFFFFFFF00000000FFFFFFFFFFFFFFFFBCE6FAADA7179E84F3B9CAC2FC632551
def p256B : Nat := 0x5AC635D8AA3A93E7B3EBBD55769886BC651D06B0CC53B0F63BCE3C3E27D2604B
def p256G : Nat × Nat :=
  (0x6B17D1F2E12C4247F8BCE6E563A440F277037D812DEB33A0F4A13945D898C296, 0x4FE342E2FE1A7F9B8EE7EB4A7C0F9E162BCE33576B315ECECBB6406837BF51F5)

/-- A power modulo `m`, its exponent of 256 bits. -/
def powMod (m a e : Nat) : Nat := (List.range 256).foldl (fun r i => let r := r * r % m; if e.testBit (255 - i) then r * a % m else r) 1

/-- Sum of two points of the curve; none is the point at infinity. -/
def p256Add : Option (Nat × Nat) → Option (Nat × Nat) → Option (Nat × Nat)
  | none, q => q
  | p, none => p
  | some (x, y), some (u, v) =>
    let p := p256P
    if x = u ∧ (y + v) % p = 0 then none
    else
      let l := if x = u then (3 * x * x + p - 3) * powMod p (2 * y) (p - 2) % p else (v + p - y) * powMod p (u + p - x) (p - 2) % p
      let w := (l * l + 2 * p - x - u) % p
      some (w, (l * (x + p - w) + p - y) % p)

/-- A multiple of a point. -/
def p256Mul (k : Nat) (q : Option (Nat × Nat)) : Option (Nat × Nat) :=
  (List.range 256).foldl (fun r i => let r := p256Add r r; if k.testBit (255 - i) then p256Add r q else r) none

/-- A point as 64 bytes, x then y; none where the bytes are no point of the curve. -/
def p256Point (l : List Byte) : Option (Nat × Nat) :=
  let x := unoctets (l.take 32)
  let y := unoctets ((l.drop 32).take 32)
  if x < p256P ∧ y < p256P ∧ y * y % p256P = (x * x * x + (p256P - 3) * x + p256B) % p256P then some (x, y) else none

/-- The private key of 32 random bytes: from 1 to the order less 1. -/
def p256Scalar (priv : List Byte) : Nat := unoctets (priv.take 32) % (p256N - 1) + 1

/-- A point's 64 bytes. -/
def pointBytes : Option (Nat × Nat) → List Byte
  | some (x, y) => octets 32 x ++ octets 32 y
  | none => []

/-- The public key of a private key. -/
def p256Public (priv : List Byte) : List Byte := pointBytes (p256Mul (p256Scalar priv) (some p256G))

/-- The x-coordinate that a private key shares with a public key; empty where there is none. -/
def p256Shared (priv pub : List Byte) : List Byte :=
  match p256Mul (p256Scalar priv) (p256Point pub) with
  | some (x, _) => octets 32 x
  | none => []

/-- An ECDSA signature of a text's digest by the private key `d`, r then s; the standard leaves the secret number `k` of a signature to the signer. -/
def ecdsaSign (d k : Nat) (text : List Byte) : List Byte :=
  let e := unoctets (sha256 text)
  let n := p256N
  let r := ((p256Mul k (some p256G)).getD (0, 0)).1 % n
  octets 32 r ++ octets 32 (powMod n k (n - 2) * (e + r * d) % n)

/-- A signature of a text verifies under a public key. -/
def ecdsaVerify (pub text sig : List Byte) : Bool :=
  let n := p256N
  let r := unoctets (sig.take 32)
  let s := unoctets ((sig.drop 32).take 32)
  match p256Point pub with
  | none => false
  | some q =>
    let w := powMod n s (n - 2)
    let e := unoctets (sha256 text)
    decide (0 < r ∧ r < n ∧ 0 < s ∧ s < n) &&
      match p256Add (p256Mul (e * w % n) (some p256G)) (p256Mul (r * w % n) (some q)) with
      | some (x, _) => x % n == r
      | none => false

/-! ## The identity key (R521, R527) -/

/-- The ASCII bytes "k64-identity". -/
def identityInfo : List Byte := [0x6B, 0x36, 0x34, 0x2D, 0x69, 0x64, 0x65, 0x6E, 0x74, 0x69, 0x74, 0x79]

/-- The identity private scalar, from the secret that K0's PUF yields. -/
def identityScalar : Nat := unoctets (hkdf Config.pufSecret identityInfo 40) % (p256N - 1) + 1

/-- The journal key (R520): HKDF-SHA-256 of the identity private key, with no salt and the ASCII info "k64-journal". -/
def journalKey : List Byte :=
  hkdf (hmac [] (octets 32 identityScalar)) [0x6B, 0x36, 0x34, 0x2D, 0x6A, 0x6F, 0x75, 0x72, 0x6E, 0x61, 0x6C] 32

/-- The identity public key, x then y. -/
def identityKey : List Byte := pointBytes (p256Mul identityScalar (some p256G))

/-- A signature by the identity key; the number that the Isazen engine draws for it is a free value. -/
def identitySign (text : List Byte) : List Byte := ecdsaSign identityScalar (p256Scalar (Config.signNonce text)) text

end Sys2Proof.Machine
end

