-- ==== Sys2Proof/Machine/State.lean ====
section
/-! DEFINITION. The state of the package as plain data: every register, buffer, queue, counter, mode and pin that the manual
gives it, and the queue of commands waiting. Every table is sparse (`Tab`): a key that is not listed holds the default of its
type, which is its reset value, so that reset is the state with nothing listed. -/

namespace Sys2Proof.Machine

/-- Memory: (address, byte) pairs, addresses rising, no byte listed that is zero (an unlisted byte reads zero). -/
abbrev Memory := List Host.Cell

/-! ## Ledger and faults (R496, R561) -/

/-- One 64-byte ledger entry (R561); `ctx` is 0xFFFF when no context is concerned; FLAGS as three Bools. -/
structure LedgerEntry where
  count : Nat := 0
  seq : Nat := 0
  die : Nat := 0
  kind : Nat := 0
  code : Nat := 0
  ctx : Nat := 0xFFFF
  mirrored : Bool := false
  preEpoch : Bool := false
  continued : Bool := false
  detail : List Byte := []
  deriving DecidableEq, Repr

/-- A fault record on its way to the handler (R496, R497): its code, reporter, count, the contexts it concerns,
the ERR_VECTORs of those it is addressed to, as a port and a vector each, whether its effect is `job` and whether it is addressed to the kernel
driver (R501). -/
structure FaultRec where
  code : Nat := 0
  die : Nat := 0
  count : Nat := 0
  ctxs : List Nat := []
  vectors : List (Nat × Nat) := []
  job : Bool := false
  driver : Bool := false
  delivered : Bool := false
  deriving DecidableEq, Repr

/-- A die's ledger ring, SEQ of the next entry, LOST, the SEQs not merged, the highest SEQ merged, the SEQs lost and not yet noted in a gap
entry, its fault records not yet acknowledged, those of no effect on a job that wait for a place among them, and the number of records it applied itself
(R498, R561, R565, R566). -/
structure Ledger where
  ring : List LedgerEntry := []
  next : Nat := 0
  lost : Nat := 0
  unmerged : List Nat := []
  mergedTo : Option Nat := none
  lostSeqs : List Nat := []
  held : List FaultRec := []
  queued : List FaultRec := []
  applied : Nat := 0
  deriving DecidableEq, Repr

/-! ## Time base (R62 to R71) -/

/-- A die's time base. Its count is the package's elapsed time plus `disp`; `slewPhase` counts toward the next count absorbed,
`slewFrom` is the beat boundary from which it absorbs and `slewing` TB_STATUS.SLEWING (R69, R71), `hold` is what is left of a backward correction (R467), `epoch` and `preLoad` are those of the epoch load (R64), `expect` is a count at
which a RACK_SYNC edge is expected (R64, R467), `latch` holds the
high half latched for each requester (R68). -/
structure TimeBase where
  disp : Int := 0
  epochNext : Word := 0
  syncEn : Bool := true
  epochArm : Bool := false
  slew : Int := 0
  slewPhase : Nat := 0
  slewFrom : Nat := 0
  slewing : Bool := false
  hold : Nat := 0
  slipCount : Nat := 0
  aligned : Bool := false
  holdover : Bool := false
  epochSet : Bool := false
  syncSeen : Bool := false
  locked : Bool := false
  epoch : Nat := 0
  preLoad : Nat := 0
  expect : Int := 0
  latch : Tab Half := []
  deriving DecidableEq, Repr

/-! ## Schedule grid (R323, R342) -/

/-- An anchor: schedule beat, instant in sixteenths of a count, beat length in sixteenths of a count (R323). -/
structure Anchor where
  beat : Nat := 0
  at16 : Nat := 0
  lam : Nat := 64
  deriving DecidableEq, Repr

/-- The grid of one job on a die: the job, its armed launch count, its anchors (newest last), the answers it holds, and the SEQ of the last
one applied. Between launches the anchors and SEQ of the last launch stay (R342), under no job. -/
structure Grid where
  job : Option Nat := none
  armed : Option Nat := none
  started : Bool := false
  anchors : List Anchor := []
  pending : List StretchAns := []
  seq : Nat := 0
  deriving DecidableEq, Repr

/-! ## Power and temperature (R472 to R495) -/

/-- PW_THROTTLE and PW_THROTTLE_TIME0 to 7 of a die (R493, R494): the active reasons with the count each began, the last reason to
clear, the time of each, and the reasons whose time has stuck (R572). -/
structure Throttle where
  active : Tab (Option Nat) := []
  last : Nat := 0xFF
  time : Tab Nat := []
  stuck : List Nat := []
  deriving DecidableEq, Repr

/-- A performance counter (R569); `rem` holds what has not yet filled one unit of the counter (R570). -/
structure Perf where
  value : Nat := 0
  pegged : Bool := false
  rem : Nat := 0
  deriving DecidableEq, Repr

/-! ## Tallies (R291 to R303) -/

/-- A wait registered at a tally: the issuing core (die × 4 + order), N, and whether it is a WAITDEC. -/
structure WaitReg where
  core : Nat := 0
  n : Nat := 0
  dec : Bool := false
  deriving DecidableEq, Repr

/-- A physical tally: its value and its registered waits in order of arrival (R291, R299). -/
structure Tally where
  value : Half := 0
  waits : List WaitReg := []
  deriving DecidableEq, Repr

/-- What a tally operation does: WAIT, WAITDEC, INC, DEC, or a forced set (R297, R312). -/
inductive TallyAct where
  | wait
  | waitdec
  | inc
  | dec
  | set
  deriving DecidableEq, Repr

/-- The source of a tally operation (R302). -/
inductive TallySrc where
  | core (lcore : Nat)
  | hostQueue (port qn : Nat)
  | ringStop (ldie : Nat)
  | fabric (pkg : Nat)
  | keeper
  deriving DecidableEq, Repr

/-- A tally message in flight over the mesh (R298, R304): the context, the tally, the operation and its source.
`home` is the physical core index of the tally, or 1000 + die for a ring-stop tally; `beat` is the issue offset of the INC's bundle; `rank` is the place
of its source in the order of R298, source die × 4 + core order; `result` and `serial` are the queue and the command whose SIGNAL_TALLY waits for it to
become visible, `mover` says that a mover of `core` waits for it (R444); `reg` the register whose force it is, 0 and 1 KP_HATCH_CTRL of H0 and H1 and 2 DG_TALLY_FORCE (R314, R509); a `dead` message is discarded on arrival (R301). -/
structure TallyMsg where
  ctx : Nat := 0
  home : Nat := 0
  index : Nat := 0
  vid : Nat := 0
  act : TallyAct := .inc
  n : Nat := 0
  src : TallySrc := .keeper
  core : Nat := 0
  beat : Nat := 0
  rank : Nat := 0
  result : Option QRef := none
  serial : Nat := 0
  mover : Bool := false
  reg : Option Nat := none
  dead : Bool := false
  deriving DecidableEq, Repr

/-! ## Cores (R133 to R174) -/

/-- The scalar operations of R149. -/
inductive ScalarK where
  | add | sub | mul | and | or | xor | shl | shr | sltu
  | addi | ori | shli | shri | ld | st | bz | bnz | dbnz | rdtb | rdid | halt
  deriving DecidableEq, Repr

/-- A scalar operation with the register values it captured at issue (R142): `a` is s(RA), `b` is s(RB), `d` is s(RD). -/
structure ScalarOp where
  k : ScalarK
  rd : Nat := 0
  ra : Nat := 0
  imm : BitVec 16 := 0
  a : Word := 0
  b : Word := 0
  d : Word := 0
  deriving DecidableEq, Repr

/-- The modes of an engine (R154): five output-stationary shapes, two weight-stationary forms, element-wise. -/
inductive EngMode where
  | os128 | os64 | os32 | os16 | os8 | wsN128 | wsN512 | elementwise
  deriving DecidableEq, Repr

/-- An engine operation with its captured operands (R154 to R159). Addresses named `…s` are those of the scale streams. -/
inductive EngOp where
  | shape (mode : EngMode)
  | tileOs (bank : Nat) (acc : Bool) (fmtW fmtN : Nat) (coded : Bool) (w ws n ns : Word) (k : Nat)
  | tileWs (half : Nat) (acc : Bool) (fmtT : Nat) (t ts : Word) (m : Nat)
  | loadShadow (fmt : Nat) (coded var : Bool) (s ss v : Word)
  | swap
  | drain (src fmt : Nat) (rnd sat : Bool) (d ds : Word) (n : Nat) (c0 field : Word)
  | ew (oper xsrc : Nat) (yscalar : Bool) (dest fmtX fmtY : Nat) (x xs y ys : Word) (n : Nat)
  deriving DecidableEq, Repr

/-- A mover operation with its captured operands (R160 to R165). -/
inductive MoverOp where
  | copy (s d n : Word)
  | fill (pat d n : Word)
  | skewW (t : Bool) (fmt : Nat) (s ss d ds geo geo2 : Word) (mode : Nat) (first last : Bool)
  | skewN (t : Bool) (fmt : Nat) (s ss d ds geo geo2 : Word) (mode : Nat) (first last : Bool)
  | layoutWs (t : Bool) (fmt : Nat) (s ss d ds geo geo2 : Word) (mode : Nat)
  deriving DecidableEq, Repr

/-- The tally-port operations (R166). -/
inductive TallyK where
  | wait | waitdec | inc | dec | hsig
  deriving DecidableEq, Repr

/-- A tally-port operation (R166): WHEN, N (1 to 256) and VID. `marks` are the release numbers that WHEN waits on, by unit (R168). -/
structure TallyOp where
  k : TallyK
  wh : Nat := 0
  n : Nat := 1
  vid : Nat := 0
  marks : List (Nat × Nat) := []
  deriving DecidableEq, Repr

/-- The finishing functions (R169). -/
inductive FinK where
  | exp | rcp | rsqrt | gelu | silu | drop | sample | cvt
  deriving DecidableEq, Repr

/-- A finishing operation with its captured operands (R169 to R172). -/
structure FinOp where
  k : FinK
  fmtIn : Nat := 0
  fmtOut : Nat := 0
  s : Word := 0
  ss : Word := 0
  d : Word := 0
  ds : Word := 0
  n : Nat := 0
  p0 : Word := 0
  p1 : Word := 0
  p2 : Word := 0
  deriving DecidableEq, Repr

/-- An operation of any unit. -/
inductive UnitOp where
  | scalar (o : ScalarOp)
  | engine (o : EngOp)
  | mover (o : MoverOp)
  | tally (o : TallyOp)
  | finish (o : FinOp)
  deriving DecidableEq, Repr

/-- An entry of a unit's operation queue: the operation, the bundle that carried it, its issue beat, its release number on the unit,
and whether the unit has performed it (it leaves the queue at OPERATION_COMPLETE). `held` is the blocked-head code of R315 when the
head is held and `heldId` the generation or pointer slot that it is held on, `follow` says that a held pass follows the one before it (R84), `halted` that a check of its coded stream failed (R258),
`heldSlots` are the landing slots that a read held with code 5 touches, `waitAcks` counts the fabric answers that it waits for (R444), `tracked` the tracked requests that it holds until it completes (R448). -/
structure QEntry where
  op : UnitOp
  bundle : Nat := 0
  beat : Nat := 0
  seq : Nat := 0
  done : Bool := false
  held : Option Nat := none
  heldId : Nat := 0
  heldSlots : List Nat := []
  follow : Bool := false
  halted : Bool := false
  waitAcks : Nat := 0
  tracked : Nat := 0
  deriving DecidableEq, Repr

/-- State of a table slot of an expander (R259). -/
inductive SlotSt where
  | free | filling | loaded | retiring
  deriving DecidableEq, Repr

/-- A cask table: KIND (1 C11, 2 C10), GEN, and the eight entry bytes (R242). -/
structure CaskTable where
  kind : Nat := 0
  gen : Nat := 0
  entries : List Byte := []
  deriving DecidableEq, Repr

/-- A table slot (R259); `mark` is the release number at which it became RETIRING, `order` its place among those that did (R261). -/
structure TableSlot where
  st : SlotSt := .free
  table : CaskTable := {}
  mark : Nat := 0
  order : Nat := 0
  deriving DecidableEq, Repr

/-- A TABLE_LOAD waiting at an expander (R260). -/
structure PendingTable where
  table : CaskTable := {}
  retire : Option Nat := none
  q : QRef := .kernel 0
  deriving DecidableEq, Repr

/-- An error standing in a stored word or line: a corrected single-bit error, an uncorrectable one, a tag that does not match, or in the cellar an error
confined to one ×4 device of the sub-channel access, whose number it holds (R183, R267, R275, R539). -/
inductive ErrMark where
  | clean | single | double | tag
  | device (n : Nat)
  deriving DecidableEq, Repr

/-- A matrix engine (R73, R77, R85, R93): mode; accumulator banks (key row × 128 + column); weight and shadow registers as 128 lines of
8,192 bits with 128 scale lines, and their format; collector halves; the operand latches, in which a pass leaves the last slots that went by: the west
latches of a row hold one slot, by row, and the north latches of a column of a group another, by group × 128 + column; of a pass whose coded
stream has halted (R262), the west lines and the elements of the north lines that have entered the array, those that stand in its feeders, and the
elements of the blocks that its expander holds of the line that is not whole (R255); what awaits a DRAIN: the
banks, and how many results of each half (R93); whether the shadow holds a tile no SWAP has taken; the chain's k-steps so far (R84); errors standing in
words of its buffers (R129), by buffer × 2^20 + word: 0 and 1 the banks, 2 the weights and 3 the shadow with their scales from word 16,384 up, 4 and 5
the halves, 6 and 7 the feeders; the expander's table slots, how many have become RETIRING, and its queue. -/
structure Engine where
  mode : EngMode := .os128
  bank0 : Tab Half := []
  bank1 : Tab Half := []
  weights : Tab Nat := []
  wScales : Tab Nat := []
  wFmt : Nat := 0
  shadow : Tab Nat := []
  sScales : Tab Nat := []
  sFmt : Nat := 0
  shadowFull : Bool := false
  half0 : Tab Half := []
  half1 : Tab Half := []
  westLatch : Tab Nat := []
  northLatch : Tab Nat := []
  westPassed : List Nat := []
  westFeeder : List Nat := []
  northPassed : List Nat := []
  northFeeder : List Nat := []
  expanding : List Nat := []
  await0 : Bool := false
  await1 : Bool := false
  undrained0 : Nat := 0
  undrained1 : Nat := 0
  lastTileOs : Bool := false
  chainK : Nat := 0
  errs : Tab ErrMark := []
  tables : Tab TableSlot := []
  retires : Nat := 0
  tableQueue : List PendingTable := []
  deriving DecidableEq, Repr

/-- The wait at the head of a core's issue unit (R144, R299, R300): none, a request on its way, a wait registered at the tally, a satisfaction on
its way back, a request to send again, and a wait that is satisfied. -/
inductive IssueWait where
  | none
  | sent
  | registered
  | satisfied
  | retry
  | granted
  deriving DecidableEq, Repr

/-- A core, by physical position. `ctx` is the context bound to it. `regs` are s1 to s31; `pendWrites` the registers with a write pending (R143). Issue state: score base row
and length, the bundle at the head and the bundles held from it on, the issue beat of the bundle issued before. Six unit
queues, and the release and completion numbers of each unit (R168). `delayed` are tally operations waiting on WHEN; `lateTold` says that the head bundle is late and the record made (R58). -/
structure Core where
  ctx : Option Nat := none
  regs : Tab Word := []
  pendWrites : List Nat := []
  running : Bool := false
  halted : Bool := false
  stopped : Bool := false
  partEnded : Bool := false
  scoreRow : Nat := 0
  length : Nat := 0
  head : Nat := 0
  held : List (BitVec 256) := []
  lastBeat : Nat := 0
  issuedAny : Bool := false
  wait : IssueWait := .none
  scalar : List QEntry := []
  eng0 : List QEntry := []
  eng1 : List QEntry := []
  mover : List QEntry := []
  tallyQ : List QEntry := []
  finish : List QEntry := []
  released : Tab Nat := []
  completed : Tab Nat := []
  delayed : List QEntry := []
  progress : Bool := false
  tallies : Tab Tally := []
  e0 : Engine := {}
  e1 : Engine := {}
  bankMask : BitVec 32 := 0xFFFFFFFF
  openMesh : Bool := true
  scrubbing : Bool := false
  scrubFail : Bool := false
  masked : Bool := false
  lateTold : Bool := false
  errArith : Nat := 0
  errTally : Nat := 0
  sramCe : Nat := 0
  eccBanks : List Nat := []
  bufTold : List Nat := []
  finErrs : Tab ErrMark := []
  deriving DecidableEq, Repr

/-! ## Dies -/

/-- State of a landing slot (R194). -/
inductive LandSt where
  | empty | landing | full
  deriving DecidableEq, Repr

/-- A crate header (R201). -/
structure CrateHdr where
  wsid : Nat := 0
  variant : Nat := 0
  carry : Bool := false
  last : Bool := false
  var : Bool := false
  coded : Bool := false
  dir : Nat := 0
  park : Bool := false
  tile : Nat := 0
  injCount : Nat := 0
  injTime : Nat := 0
  home : Nat := 0
  start : Nat := 0
  added : Nat := 0
  fmt : Nat := 0
  gen : Nat := 0
  laps : Nat := 0
  step : Nat := 0
  length : Nat := 0
  missed : BitVec 64 := 0
  deriving DecidableEq, Repr

/-- A landing slot: state, header of its crate, engine reads still to come before it frees (R197). -/
structure LandSlot where
  st : LandSt := .empty
  hdr : CrateHdr := {}
  readsLeft : Nat := 0
  deriving DecidableEq, Repr

/-- A stretch request that a die has sent and that is not yet answered, or the point it holds since its answer applied (R337, R477). -/
inductive StretchSt where
  | idle
  | sent (q reason count : Nat)
  | answered (q reason bT : Nat)
  | holds (q since : Nat)
  deriving DecidableEq, Repr

/-- A die. The first fields belong to every die; the rest, as named, to one kind: compute (PW_OP_CTRL, PW_OP_STATUS, loft and ring stop),
cellar and larder. `grids` holds the grid of each job that the die carries, the one armed last at the end: a cellar, larder or link die carries as many as
launches reach it (R341). -/
structure Die where
  tb : TimeBase := {}
  ledger : Ledger := {}
  detours : List Nat := []
  grids : List Grid := []
  throttle : Throttle := {}
  perf : Tab Perf := []
  keeperEpoch : Nat := 0
  temps : List Int := []
  tempBad : Option Nat := none
  hotSince : Option Nat := none
  coolSince : Option Nat := none
  tripped : Bool := false
  testTrip : Bool := false
  heldTraffic : Bool := false
  alloc : Nat := 0
  demand : Nat := 0
  measured : Nat := 0
  failed : Option Nat := none
  railOff : Bool := false
  faultTimes : List (Nat × Nat) := []
  -- compute
  fixed : Bool := false
  maxOp : Nat := 7
  minOp : Nat := 1
  reqOp : Nat := 5
  curOp : Nat := 0
  targetOp : Nat := 0
  transition : Bool := false
  scheduled : Bool := false
  schedOp : Nat := 0
  stretch : StretchSt := .idle
  capOp : Option Nat := none
  raiseOp : Option Nat := none
  dutyHold : Bool := false
  slopeAmps : Nat := 0
  lowAmps : Bool := true
  quenched : Bool := false
  lastDroop : Option Nat := none
  lastDroopEntry : Option Nat := none
  job : Option Nat := none
  loftBusy : Bool := false
  loftFail : Bool := false
  loftCe : Nat := 0
  engineCe : Nat := 0
  loftEccBanks : List Nat := []
  slots : Tab LandSlot := []
  ringTallies : Tab Tally := []
  errRing : Nat := 0
  bypass : Bool := false
  bypassFailed : Bool := false
  markerCw : Nat := 0
  markerCcw : Nat := 0
  ringBreakTold : Bool := false
  -- larder
  weak : Nat := 0
  writeFail : Bool := false
  writeBusy : Bool := false
  wornPages : Nat := 0
  reserveUsed : Nat := 0
  deriving DecidableEq, Repr

/-! ## Queues and commands (R362 to R402) -/

/-- A buffer reference of a descriptor: handle and offset (R378). -/
structure Bref where
  handle : Nat := 0
  offset : Nat := 0
  deriving DecidableEq, Repr

/-- A command with its operands after the clamps of R374 (R380, R389). -/
inductive Cmd where
  | nop
  | launch (block : Bref) (bytes : Nat)
  | recordEvent (event : Nat) (value : Word)
  | waitEvent (event : Nat) (target : Word)
  | copy (src dst : Bref) (bytes : Nat)
  | fill (dst : Bref) (pattern : Word) (bytes : Nat)
  | survey (kind ref gen : Nat) (zero encode : Bool) (src n dest table report baseSrc baseTable : Nat)
  | tableLoad (record evict : Nat) (atBeat : Bool) (beat : Nat)
  | hint (kind level lead duration : Nat)
  | signalTally (vid value : Nat)
  | fence
  | setWeights (slot : Nat) (retireEn : Bool) (retire plan : Nat)
  | createContext (ctx block : Nat)
  | destroyContext (ctx : Nat) (kill : Bool)
  | createQueue (ctx qn : Nat) (delete : Bool) (log2 cls fetch window vector sq cq status : Nat)
  | pathSetup (ctx plan bytes : Nat)
  | pathTeardown (ctx path : Nat)
  | keyInstall (ctx blob bytes : Nat)
  | tallyForce (ctx mode unit vid ldie value lcore : Nat)
  | recover (target action id : Nat)
  | inventoryRead (dest bytes : Nat)
  | larderWrite (src dest bytes : Nat)
  | dieRetire (die spare : Nat)
  | channelDrain (ch : Nat) (ret : Bool)
  | ledgerDrain (dest max src : Nat)
  | resumeQueue (ctx qn : Nat) (discard restart : Bool)
  deriving DecidableEq, Repr

/-- The outcome of a command: STATUS, FAULT and RESULT of its record (R394, R395). -/
structure Done where
  status : Nat := 0
  fault : Nat := 0
  result : Nat := 0
  deriving DecidableEq, Repr

/-- A command fetched from a queue: its first index, the entries it takes, the descriptor's header fields, the command, whether it was clamped,
whether its own row has taken it up, and its outcome. `serial` orders the commands taken on the package (R369); `journal` is the journal record whose
acknowledgements a kernel command awaits, before which the queue's head does not pass it (R505), and `block` the launch block read ahead (R368). -/
structure Pending where
  index : Nat := 0
  span : Nat := 1
  opcode : Nat := 0
  quiet : Bool := false
  irq : Bool := false
  tag : Nat := 0
  hostCount : Word := 0
  clamped : Bool := false
  cmd : Cmd := .nop
  taken : Bool := false
  serial : Nat := 0
  step : Nat := 0
  copied : Nat := 0
  outcome : Option Done := none
  journal : Option Nat := none
  block : Option (List Byte) := none
  deriving DecidableEq, Repr

/-- Fetch state of a queue (R370). -/
inductive FetchSt where
  | idle | fetching | waiting | stopped
  deriving DecidableEq, Repr

/-- A queue (R363 to R371): indices, ring addresses and size, fetch mode, state, hold causes, the commands fetched and not completed (the
first is being performed), the records held with whether each raises the vector, and the fault that stopped it. -/
structure Queue where
  port : Nat := 0
  log2 : Nat := 6
  cls : Nat := 2
  fetch : Nat := 0
  window : Nat := 0
  vector : Nat := 4
  sq : Nat := 0
  cq : Nat := 0
  status : Nat := 0
  statusOk : Bool := true
  tail : Half := 0
  head : Half := 0
  doneIdx : Half := 0
  armed : Bool := true
  batching : Bool := false
  st : FetchSt := .idle
  holdLink : Bool := false
  holdKeeper : Bool := false
  holdCq : Bool := false
  holdFull : Bool := false
  cmds : List Pending := []
  records : List (List Byte × Bool) := []
  fault : Nat := 0
  deleting : Option QRef := none
  deriving DecidableEq, Repr

/-! ## Contexts and launches -/

/-- An entry of a tally map (R292). -/
structure TallyEntry where
  vid : Nat := 0
  kind : Nat := 0
  index : Nat := 0
  core : Nat := 0
  init : Nat := 0
  deriving DecidableEq, Repr

/-- A link (R330) with its slot states, fill pointer and drain pointer (R332). `filled` lists the FILLED slots. -/
structure Link where
  id : Nat := 0
  depth : Nat := 1
  slotBytes : Nat := 1024
  base : Nat := 0
  fullVid : Nat := 0
  emptyVid : Nat := 0
  producer : Nat := 0
  consumer : Nat := 0
  filled : List Nat := []
  fill : Nat := 0
  drain : Nat := 0
  deriving DecidableEq, Repr

/-- A core entry of a launch block (R382), with the kinds and bases of its three buffers as LAUNCH relocated them (R379). -/
structure CoreEntry where
  core : Nat := 0
  bundles : Nat := 0
  scoreRow : Nat := 0
  score : Bref := {}
  inRow : Nat := 0
  input : Bref := {}
  inBytes : Nat := 0
  outRow : Nat := 0
  output : Bref := {}
  outBytes : Nat := 0
  scoreKind : Nat := 0
  scoreBase : Nat := 0
  inKind : Nat := 0
  inBase : Nat := 0
  outKind : Nat := 0
  outBase : Nat := 0
  deriving DecidableEq, Repr

/-- How far a launch has come: checked and waiting to bind, its context bound and its images to be placed, bound and waiting for its launch count, armed,
running, ended. -/
inductive LaunchSt where
  | checked | placing | bound | armed | running | ended
  deriving DecidableEq, Repr

/-- A launch of a context (R381 to R383, R326 to R329). -/
structure Launch where
  q : QRef := .kernel 0
  st : LaunchSt := .checked
  scheduled : Bool := false
  schedOp : Nat := 5
  packages : Nat := 1
  root : Nat := 0
  bankMask : BitVec 32 := 0xFFFFFFFF
  seed : Word := 0
  build : Word := 0
  args : List Word := []
  cores : List CoreEntry := []
  tallies : List TallyEntry := []
  links : List Link := []
  l : Option Nat := none
  go : Bool := false
  sets : List Nat := []
  deriving DecidableEq, Repr

/-- TDISP state of a context's TDI (R542, R543). -/
inductive TdiSt where
  | unlocked | locked | run | error
  deriving DecidableEq, Repr

/-- A HINT of a context (R488). -/
structure Hint where
  kind : Nat := 0
  level : Nat := 0
  start : Nat := 0
  stop : Nat := 0
  taken : Nat := 0
  deriving DecidableEq, Repr

/-- The stock-take's notes on a context (R317, R318). -/
structure Stock where
  stalledPrev : Bool := false
  reported : Bool := false
  lastOp : Nat := 0
  progress : Bool := false
  deriving DecidableEq, Repr

/-- A TABLE_LOAD that waits to be delivered (R260, R386): its queue, its place in the package's order, its table, the generation it evicts, and the
schedule beat of AT = 1. -/
structure TableWait where
  q : QRef := .kernel 0
  serial : Nat := 0
  table : CaskTable := {}
  retire : Option Nat := none
  at_ : Option Nat := none
  deriving DecidableEq, Repr

/-- A context (R362, R390). `faulted` is the FAULT code of its faulted job, `quenchOrdered` and `forced` say whether a quench is ordered and which kind (R499);
`talliesTold` and `arithTold` are the tallies (home and index) and the cores whose one record of the job is made (R302, R131). -/
structure Context where
  job : Nat := 0
  pasid : Nat := 0
  dieFirst : Nat := 0
  dieCount : Nat := 1
  errVector : Nat := 4
  test : Bool := false
  debugReq : Bool := false
  debugOn : Bool := false
  handleTable : Nat := 0
  handles : Nat := 1
  events : Nat := 1
  eventTable : Nat := 0
  report : Nat := 0
  sealed : Bool := false
  tdisp : Bool := false
  consent : Bool := false
  jobKey : List Byte := []
  staging : List Byte := []
  xts : List Byte := []
  mac : List Byte := []
  sealCounter : Nat := 0
  tdi : TdiSt := .unlocked
  tdiStream : Nat := 0
  launched : Bool := false
  launch : Option Launch := none
  pointers : Tab Nat := []
  nextPointers : Tab (Option Nat) := []
  faulted : Option Nat := none
  quenchOrdered : Bool := false
  forced : Bool := false
  tallyForced : Bool := false
  dying : Bool := false
  destroying : Option QRef := none
  dmaErrors : Nat := 0
  dmaLast : Option Nat := none
  memLines : List Nat := []
  stock : Stock := {}
  hint : Option Hint := none
  tableWaits : List TableWait := []
  crit : BitVec 64 := 0
  tracked : Nat := 0
  port : Nat := 0
  talliesTold : List (Nat × Nat) := []
  arithTold : List Nat := []
  deriving DecidableEq, Repr

/-! ## Weight ring (R200 to R235) -/

/-- An entry of a plan (R205). -/
structure PlanEntry where
  tile : Nat := 0
  dir : Nat := 0
  carry : Bool := false
  last : Bool := false
  coded : Bool := false
  start : Nat := 0
  fmt : Nat := 0
  gen : Nat := 0
  src : Nat := 0
  offsetBeats : Nat := 0
  length : Nat := 0
  parkPos : Nat := 0
  parkOff : Nat := 0
  deriving DecidableEq, Repr

/-- A bound weight set (R203, R204, R231 to R233): plan, reservation, launches and passes so far, retire event, payloads read and ready,
crates held at their home stop for recirculation, and parks filled. `planReads` is the READS of its plan, where `reads` is that of the launch (R230), and
`jobFaulted` says that its job was faulted while it was bound (R233). -/
structure WeightSet where
  job : Nat := 0
  ctx : Nat := 0
  kind : Nat := 0
  variant : Bool := false
  recirc : Bool := false
  park : Bool := false
  variantId : Nat := 0
  slots : Nat := 0
  reads : Nat := 1
  passBeats : Nat := 1
  baseWsid : Nat := 0
  passes : Nat := 1
  sendVid : Nat := 0
  sentVid : Nat := 0
  opt : Nat := 0
  state : Nat := 0
  contrib : Nat := 0
  entries : List PlanEntry := []
  planAddr : Nat := 0
  base : Nat := 0
  span : Nat := 1
  pointer : Nat := 0
  retireEvent : Option Nat := none
  passesDone : Nat := 0
  passInLaunch : Nat := 0
  nextEntry : Nat := 0
  inLaunch : Bool := false
  ready : Tab (List Byte) := []
  recirculating : Tab (List Byte) := []
  sends : Tab Nat := []
  steps0 : Tab Nat := []
  optBlock : List Byte := []
  lastLaunchSeed : Word := 0
  parked : Tab Bool := []
  planReads : Nat := 1
  jobFaulted : Bool := false
  deriving DecidableEq, Repr

/-- A crate on the ring (R200): header, payload, carry, the stop it is at, the hops it has made, whether it is held FULL at a die for
a carry send, and the hop at which it last landed (R316). -/
structure Crate where
  hdr : CrateHdr := {}
  payload : List Byte := []
  carry : List Half := []
  stop : Nat := 0
  hops : Nat := 0
  heldAt : Option Nat := none
  seed : Word := 0
  entry : Nat := 0
  fillsPark : Bool := false
  landHop : Nat := 0
  deriving DecidableEq, Repr

/-! ## Cellar (R266 to R284) -/

/-- State of a cellar channel (R284). -/
inductive ChSt where
  | absent | training | active | draining | drained | returning | failed
  deriving DecidableEq, Repr

/-- A cellar channel: state, HOT, UE, CE, the module temperature in quarter degrees (R574), doubled refresh, held class 2 and 3 traffic, MRCD
violations in the present 1 ms, the queue of the drain or return under way, and whether its frames that are not remapped are
unbacked (R282) or unmapped (R556); of a drain, how many frames it began with, how many it has moved, and how many to each channel (R278); the module as
it was read, with the on-die error counts and repaired rows (R266, R267); and the RESET_n pin, asserted while the channel is DRAINED with the clocks
stopped (R280). -/
structure Channel where
  st : ChSt := .absent
  hot : Bool := false
  ue : Bool := false
  ce : Nat := 0
  temp : Int := 0
  doubled : Bool := false
  held : Bool := false
  mrcdAt : List Nat := []
  failTold : Bool := false
  drainQ : Option QRef := none
  unbacked : Bool := false
  unmappedFrames : Bool := false
  drainN : Nat := 0
  moved : Nat := 0
  movedTo : Tab Nat := []
  module : ModuleRead := {}
  resetN : Bool := false
  clocksOff : Bool := false
  deriving DecidableEq, Repr

/-- A frame of a cellar die (R270, R273): where it is remapped (channel and frame), its corrections with the counts they came at, and the count of
its last correction entry. -/
structure Frame64K where
  remap : Option (Nat × Nat) := none
  corrections : List Nat := []
  entryAt : Option Nat := none
  deriving DecidableEq, Repr

/-- Owner of a 2 MiB cellar granule (R538). -/
inductive Owner where
  | unowned
  | package
  | context (c : Nat)
  | erasing
  deriving DecidableEq, Repr

/-! ## Links and transport (R403 to R471) -/

/-- State of an optical port (R420). -/
inductive PortSt where
  | down | dark | signal | align | identify | up | held | failed
  deriving DecidableEq, Repr

/-- Bring-up notes of an optical port in IDENTIFY (R423 to R427). -/
structure Ident where
  ownNonce : List Byte := []
  ownEph : List Byte := []
  peerNonce : Option (List Byte) := none
  echoes : Nat := 0
  bestRtt : Nat := 0
  identSent : Bool := false
  peerOk : Bool := false
  confirmSent : Bool := false
  deriving DecidableEq, Repr

/-- A rekey under way (R412). -/
inductive RekeySt where
  | idle | sent | answered
  deriving DecidableEq, Repr

/-- A link die's port: registers of R435, lanes, training, sequencing, replay, keys and credits (R414 to R418). `reordered` is the frame that injection holds, and
it leaves after the next (R432); `rekeyAsked` is a REKEY payload and `downWaits` a DOWN that wait for a place in the replay buffer and a credit (R415, R418);
`oldTxKey` is the key under which a REKEY_ACK of SEQ `rekeySeq`, and what came before it, is sent again (R412); `laneJobs` gives the job of each reserved lane
(R450), and `cls3At` when a frame of class 3 last left (R25). -/
structure Port where
  minWidth : Nat := 0
  hold : Bool := false
  enable : Bool := false
  trainings : Nat := 0
  st : PortSt := .down
  reason : Nat := 0
  width : Nat := 0
  group : Nat := 0
  reversed : Bool := false
  keyPhase : Bool := false
  lanes : BitVec 16 := 0
  light : BitVec 16 := 0
  misses : Nat := 0
  expectValid : Bool := false
  expectPkg : Nat := 0
  expectPort : Nat := 0
  digest : Tab Word := []
  seen : Bool := false
  partnerPkg : Nat := 0
  partnerPort : Nat := 0
  delay : Nat := 0
  injected : Nat := 0
  limit : Nat := 0
  period : Nat := 1
  classes : BitVec 4 := 0xF
  injKind : Nat := 0
  injDir : Bool := false
  injArm : Bool := false
  injSeen : Nat := 0
  reordered : Option Frame := none
  crcFail : Nat := 0
  authFail : Nat := 0
  replays : Nat := 0
  violations : Nat := 0
  violationAt : List Nat := []
  authAt : List Nat := []
  skewEntryAt : Option Nat := none
  txSeq : BitVec 32 := 0
  rxSeq : BitVec 32 := 0
  replay : List Frame := []
  resends : Tab Nat := []
  holdTimer : Bool := false
  nakAt : Option Nat := none
  txFctr : Nat := 0
  rxFctr : Option Nat := none
  txKey : List Byte := []
  rxKey : List Byte := []
  oldRxKey : List Byte := []
  oldRxFctr : Option Nat := none
  oldTxKey : List Byte := []
  oldTxFctr : Nat := 0
  rekeySeq : Option (BitVec 32) := none
  rxPhase : Bool := false
  rekey : RekeySt := .idle
  rekeyNonce : List Byte := []
  rekeyEph : List Byte := []
  rekeyAsked : Option (List Byte) := none
  downWaits : Bool := false
  credits : List Nat := [64, 512, 2048, 64]
  owed : List Nat := [0, 0, 0, 0]
  ident : Ident := {}
  lanesOwned : Tab (Option Nat) := []
  laneJobs : Tab Nat := []
  cls3At : Nat := 0
  retrainInPlace : Bool := false
  handedBack : List Frame := []
  deriving DecidableEq, Repr

/-- A remote load whose data has not arrived: the fabric address and length, where the data goes, and the core that waits. -/
structure Load where
  addr : Nat := 0
  len : Nat := 0
  dest : Nat := 0
  core : Nat := 0
  deriving DecidableEq, Repr

/-- A flow (R445), at its source package. `window` holds its packets not acknowledged, oldest first: the first `sent` of them have been sent, and
`owners` gives, for each, the core whose mover waits on it and how often it has been sent (R447). -/
structure Flow where
  ctx : Nat := 0
  path : Nat := 0
  dest : Nat := 0
  lanes : Nat := 0
  class1 : Bool := false
  sync : Bool := false
  routes : List (List Nat) := []
  landBase : Nat := 0
  landBytes : Nat := 0
  tracked : Nat := 0
  usable : Bool := false
  next : BitVec 32 := 0
  oldest : BitVec 32 := 0
  route : Nat := 0
  failedRoutes : List Nat := []
  timeouts : Nat := 0
  window : List Packet := []
  owners : List (Nat × Nat) := []
  sent : Nat := 0
  loads : List Load := []
  deriving DecidableEq, Repr

/-- The receiving end of a flow (R447), keyed by source package and flow: the next PSN expected, packets accepted since the last ACK, the count of the last
NACK, the context and landing area that its SETUP
named, whether its path is a sync-tree edge (R452), and the port, class and route of the packets that it answers. -/
structure RxFlow where
  srcPkg : Nat := 0
  flow : Nat := 0
  ctx : Nat := 0
  expect : BitVec 32 := 0
  unacked : Nat := 0
  nackAt : Option Nat := none
  landBase : Nat := 0
  landBytes : Nat := 0
  link : Nat := 0
  group : Bool := false
  pruned : Bool := false
  resync : Bool := false
  sync : Bool := false
  cls : Nat := 0
  route : Nat := 0
  deriving DecidableEq, Repr

/-- A transit entry (R453): packets of a flow and route leave by this port, the lanes reserved there, and the job that they are reserved for; for a group, the
members that the copy goes on to, and those of them that are pruned (R462, R463). -/
structure Transit where
  srcPkg : Nat := 0
  flow : Nat := 0
  route : Nat := 0
  die : Nat := 0
  outPort : Nat := 0
  lanes : Nat := 0
  group : Bool := false
  job : Nat := 0
  members : List Nat := []
  pruned : List Nat := []
  failAt : Option Nat := none
  deriving DecidableEq, Repr

/-- A member of a multicast group at its root (R461, R462). -/
structure Member where
  pkg : Nat := 0
  path : Nat := 0
  acked : BitVec 32 := 0
  pruned : Bool := false
  deriving DecidableEq, Repr

/-- A multicast group at its root (R461 to R464); `tries` is how often its oldest packets have been sent again (R447). -/
structure Group where
  ctx : Nat := 0
  id : Nat := 0
  class1 : Bool := false
  lanes : Nat := 0
  pruneUs : Nat := 10
  landBase : Nat := 0
  landBytes : Nat := 0
  members : List Member := []
  next : BitVec 32 := 0
  oldest : BitVec 32 := 0
  window : List Packet := []
  owners : List Nat := []
  sent : Nat := 0
  tries : Nat := 0
  usable : Bool := false
  fullAt : Option Nat := none
  deriving DecidableEq, Repr

/-- A PATH_SETUP under way (R453): its queue, the flows it creates, the answers still awaited, and the quota that its context had before (R454). -/
structure PathJob where
  q : QRef := .kernel 0
  ctx : Nat := 0
  flows : List Nat := []
  groups : List Nat := []
  awaited : Nat := 0
  bound : Nat := 0
  answers : List (Bool × Nat × Nat × Nat) := []
  oldQuota : Nat := 0
  deriving DecidableEq, Repr

/-- The time tree of the package (R466 to R471): LK_TIME_CTRL, LK_TIME_STATUS, the exchange under way, the last good θ, and the root that it is aligned to
(R471). -/
structure TimeTree where
  root : Bool := false
  enable : Bool := false
  parent : Nat := 0
  offset : Int := 0
  depth : Nat := 0xFF
  exchanges : Nat := 0
  seq : Nat := 0
  outstanding : Option Nat := none
  t1 : Nat := 0
  good : Nat := 0
  rootPkg : Option Nat := none
  deriving DecidableEq, Repr

/-! ## Keepers, hatch sequencers and security -/

/-- State of a keeper (R358). -/
inductive KeeperSt where
  | off | booting | active | standby | failed | resetting
  deriving DecidableEq, Repr

/-- A journal record and the holders that have acknowledged it (R505): 0 the standby, 1 and 2 the hatch sequencers of H0 and H1. `wrapped` is a context
key set under the journal key (R520): its IV, ciphertext and tag. -/
structure JournalRec where
  seq : Nat := 0
  subject : Nat := 0
  key : Nat := 0
  acks : List Nat := []
  wrapped : List Byte := []
  deriving DecidableEq, Repr

/-- KP_HATCH_CTRL and KP_HATCH_STATUS of a host die (R509): `go` is GO and BUSY, and `resets` the keeper whose reset under OP 2 is under way. -/
structure Hatch where
  value : Half := 0
  go : Bool := false
  op : Nat := 0
  ctx : Nat := 0
  vid : Nat := 0
  result : Nat := 0
  failed : Bool := false
  epoch : Nat := 0
  held : List FaultRec := []
  resets : Option Nat := none
  deriving DecidableEq, Repr

/-- A firmware copy (R523), keyed by kind × 4 + slot × 2 + larder die: its bytes, and whether its signature verifies and its digest matches. A slot that holds
no image has neither. -/
structure FwCopy where
  bytes : List Byte := []
  sigOk : Bool := false
  digestOk : Bool := false
  deriving DecidableEq, Repr

/-- An image that runs: the key of the copy it came from, and its bytes as loaded (R524, R526). -/
structure FwRun where
  key : Nat := 0
  bytes : List Byte := []
  deriving DecidableEq, Repr

/-- The inventory record (R528), field by field. -/
structure Inventory where
  grade : Nat := 0x41
  stepping : Nat := 0
  serial : List Byte := []
  coreMap : Tab Nat := []
  factorySpares : List Nat := []
  debugAllowed : Bool := false
  seq : Nat := 0
  spares : List Nat := []
  retired : List Nat := []
  logical : List Nat := []
  written : Nat := 0
  routers : List Nat := []
  deriving DecidableEq, Repr

/-- A copy of the inventory record, and whether both signatures verify and its key digest matches (R529). -/
structure InvCopy where
  inv : Inventory := {}
  ok : Bool := false
  deriving DecidableEq, Repr

/-- An SPDM session (R531): transport, session id, export master secret, the SEQs installed. -/
structure Session where
  transport : Nat := 0
  id : Nat := 0
  ems : List Byte := []
  lastSeq : Option Nat := none
  deriving DecidableEq, Repr

/-- A platform event for the baseboard controller (R575): the ledger entry that it tells of, or the sensor and its new value. -/
inductive PlatformEvent where
  | entry (e : LedgerEntry)
  | state (sensor value count : Nat)
  | crossing (sensor : Nat) (value : Int) (count : Nat)
  deriving DecidableEq, Repr

/-! ## Host ports (R344 to R361) -/

/-- An MSI-X table entry (R345): address, data, mask. -/
structure Msix where
  addr : Word := 0
  data : Half := 0
  mask : Bool := true
  pending : Bool := false
  deriving DecidableEq, Repr

/-- An IDE stream of a port (R345, R360): the key that IDE key management gave it, and whether it was started under that key. -/
structure IdeStream where
  key : List Byte := []
  started : Bool := false
  deriving DecidableEq, Repr

/-- A host port: HQ_ registers of R353, link, front end, configuration space, MSI-X table, IDE streams and AER log. `rate` and `width` are the trained
link's, `insecure` lists the streams that failed integrity, and `aer` counts every error that was logged, by class in the three fields after it. -/
structure HostPort where
  failoverMs : Nat := 100
  autoFailover : Bool := true
  doorbellEn : Bool := false
  winSel : Nat := 96
  winTimeout : Bool := false
  kqSq : Nat := 0
  kqCq : Nat := 0
  kqLog2 : Nat := 6
  kqEnable : Bool := false
  causeError : Bool := false
  causeDone : Bool := false
  causeRole : Bool := false
  causeService : Bool := false
  causePeer : Bool := false
  malformed : Nat := 0
  unexpected : Nat := 0
  denied : Nat := 0
  doorbell : Nat := 0
  up : Bool := false
  perstLow : Bool := false
  ready : Bool := false
  msix : Tab Msix := []
  insecure : List Nat := []
  aer : Nat := 0
  aerFatal : Nat := 0
  aerNonFatal : Nat := 0
  aerAdvisory : Nat := 0
  ats : Bool := false
  msixEnable : Bool := false
  msixMask : Bool := false
  config : Tab Word := []
  rate : Nat := 0
  width : Nat := 0
  ide : Tab IdeStream := []
  deriving DecidableEq, Repr

/-! ## The package -/

/-- SERVICE of the status block (R358). -/
inductive Service where
  | startUp | normal | hatch | stopped
  deriving DecidableEq, Repr

/-- The status block as last rewritten (R358). -/
structure StatusBlock where
  stamp : Nat := 0
  service : Nat := 0
  phase : Nat := 0
  k0 : Nat := 0
  k1 : Nat := 0
  ports : Nat := 0
  lastFault : Nat := 0
  activeCores : Nat := 0
  contexts : Nat := 0
  lastFaultCount : Nat := 0
  epoch : Nat := 0
  deriving DecidableEq, Repr

/-- An answer that the part gave on its boundary: the requester, and the bytes or words answered. -/
structure Answer where
  kind : String := ""
  who : Nat := 0
  words : List Word := []
  deriving DecidableEq, Repr

/-- Pins and rails (R549 to R551, R583): the two edges, the four rails in the order of R550, PKG_RESET_N and the THERM_TRIP_N latch. -/
structure Pins where
  edge0 : Bool := false
  edge1 : Bool := false
  railSram : Bool := false
  railCore : Bool := false
  railIo : Bool := false
  railOpt : Bool := false
  pkgResetLow : Bool := false
  thermTripLow : Bool := false
  mgmtAddr0 : Bool := false
  mgmtAddr1 : Bool := false
  deriving DecidableEq, Repr

/-- PW_PKG_CAP, PW_PKG_STATUS and the power sharing of the package (R481 to R489, R494). -/
structure PackagePower where
  poolMax : Nat := 18000
  third : Nat := 2
  second : Nat := 1
  first : Nat := 0
  cap : Nat := 18000
  peaks : List (Nat × Nat) := []
  unalloc : Nat := 0
  avg : Nat := 0
  overCap : Bool := false
  pools : Tab Int := []
  poolsNext : Tab Int := []
  edge0 : Nat := 0
  edge1 : Nat := 0
  peakHeld : Bool := false
  hints : Nat := 0
  deriving DecidableEq, Repr

/-- The coordinator's notes on a job whose root is this package (R327 to R329, R337); `collect` are the READY messages
of the launch that comes next, `readies` those of the launch that is armed. -/
structure Coord where
  collect : List ReadyMsg := []
  readies : List ReadyMsg := []
  armedBy : List Nat := []
  armedBad : Bool := false
  l : Option Nat := none
  ended : Bool := false
  lam : Nat := 64
  lastT : Option Nat := none
  seq : Nat := 0
  anchors : List Anchor := []
  answers : List StretchAns := []
  acks : List (Nat × Nat × Nat) := []
  schedOp : Nat := 5
  stalled : List (Nat × Nat) := []
  pools : Tab (Nat × Nat × Nat) := []
  deriving DecidableEq, Repr

/-- A message that the package has sent into the fabric or to another of its parts and that its receiver takes by a row of its own. -/
inductive Sent where
  | ready (m : ReadyMsg)
  | arm (job l : Nat)
  | armed (m : ReadyMsg)
  | go (job : Nat)
  | abort (job : Nat)
  | jobFault (job code pkg count : Nat)
  | stretchReq (r : StretchReq)
  | stretchAns (job : Nat) (a : StretchAns) (toAll : Bool)
  | stretchAck (job die seq : Nat)
  | stocktake (job ctx : Nat) (stalled : Bool)
  | stockReport (job pkg : Nat)
  | prune (job group member firstMissing count : Nat)
  | pool (job unmet critUnmet unused : Nat)
  | transfer (job source dest watts : Nat)
  | heartbeat (k epoch : Nat)
  | failure (k epoch : Nat)
  | epoch (n : Nat)
  | marker (stop : Nat) (ccw : Bool)
  deriving DecidableEq, Repr

/-- The state of the block. `mem` holds cellar and larder by local address, and shelves and lofts by the window of their physical die;
`meshWait` holds, by the port that they came by, packets whose request waits at a die at OP0 (R51); `hostMem` is host memory as the device reads and writes it, by port and address space; `marks` are errors standing in stored words (by address div 8), and `pageErrs` the bit errors in a larder page (by address div 4,096; R286); the outputs
are the interrupts raised, the frames, packets and messages sent and the answers given, oldest first. `fresh` numbers the free values. -/
structure State where
  pending : List Instr := []
  now : Nat := 0
  fresh : Nat := 0
  pins : Pins := {}
  service : Service := .startUp
  phase : Nat := 1
  halted : Bool := false
  epochBad : Bool := false
  broken : Bool := false
  admitted : Bool := false
  mem : Memory := []
  hostMem : Memory := []
  marks : Tab ErrMark := []
  pageErrs : Tab Nat := []
  dies : Tab Die := []
  cores : Tab Core := []
  channels : Tab Channel := []
  frames : Tab Frame64K := []
  owners : Tab Owner := []
  written : Tab Bool := []
  scrubHours : Nat := 24
  spareFrames : Nat := 0x5800
  contexts : Tab (Option Context) := []
  queues : Tab (Option Queue) := []
  serial : Nat := 0
  sets : Tab (Option WeightSet) := []
  crates : Tab (Option Crate) := []
  crateNext : Nat := 0
  tallyMsgs : List TallyMsg := []
  meshWait : List (Nat × Packet) := []
  ports : Tab Port := []
  pkgId : Nat := 0
  flows : Tab (Option Flow) := []
  rxFlows : Tab (Option RxFlow) := []
  transits : List Transit := []
  groups : Tab (Option Group) := []
  pathJobs : List PathJob := []
  time : TimeTree := {}
  keeper0 : KeeperSt := .off
  keeper1 : KeeperSt := .off
  keeperEpoch : Nat := 0
  holder : Option Nat := none
  lastBeat : Nat := 0
  hatch0 : Hatch := {}
  hatch1 : Hatch := {}
  journal : List JournalRec := []
  journalNext : Nat := 0
  recover : Option (QRef × Nat) := none
  stopping : Bool := false
  wasStopped : Bool := false
  taking : Bool := false
  merged : List LedgerEntry := []
  dropped : Option Nat := none
  power : PackagePower := {}
  coords : Tab (Option Coord) := []
  host0 : HostPort := {}
  host1 : HostPort := { winSel := 97 }
  primary : Nat := 0
  dgValue : Half := 0
  dgMode : Bool := false
  dgCtx : Nat := 0
  dgVid : Nat := 0
  dgGo : Bool := false
  block : StatusBlock := {}
  lastFault : Nat := 0
  lastFaultCount : Nat := 0
  inv : Inventory := {}
  invL0 : InvCopy := {}
  invL1 : InvCopy := {}
  inventoryOk : Bool := false
  identityOk : Bool := false
  idKey : List Byte := []
  packageKeys : List Byte := []
  fw : Tab FwCopy := []
  fwRunning : Tab (Option FwRun) := []
  svn0 : Tab Nat := []
  svn1 : Tab Nat := []
  measured : Tab (List Byte) := []
  sessions : List Session := []
  sensors : Tab (Option Int) := []
  stateSensors : Tab Nat := []
  eventsFrom : Tab Nat := []
  events : List PlatformEvent := []
  smbusAddr : Nat := 0x60
  irqs : List (Nat × Nat) := []
  frameOut : List (Nat × Frame) := []
  delivered : List (Nat × Frame) := []
  packetOut : List (Nat × Packet) := []
  sent : List Sent := []
  answers : List Answer := []
  deriving DecidableEq, Repr

/-- The inventory record that a part leaves the factory with (R527, R528): the manual gives the layout and no part's contents. Grade A with every core good,
spares C16, C33, C50 and C67 (DESIGN CHOICE, log entry 3). -/
def factoryInventory : Inventory :=
  { coreMap := (List.range 68).map fun d => (d, 0xF), factorySpares := [16, 33, 50, 67], spares := [16, 33, 50, 67],
    logical := (List.range 68).filter fun d => !([16, 33, 50, 67].contains d) }

/-- The firmware that a part leaves the factory with (R523): of each kind one valid image of security version 0 in slot A of L0 and L1, of no body
(DESIGN CHOICE, log entry 3). -/
def factoryFirmware : Tab FwCopy :=
  [4, 5, 8, 9, 12, 13, 16, 17].map fun k => (k, { bytes := BitVec.ofNat 8 (k / 4) :: List.replicate 255 0, sigOk := true, digestOk := true })

/-- The state at power-up, before phase 1 of start-up: rails off, every register at the value of its Reset column, every store listing nothing
(reading zero), no command waiting. -/
def State.reset : State :=
  { invL0 := { inv := factoryInventory, ok := true }, invL1 := { inv := factoryInventory, ok := true }, fw := factoryFirmware }

/-- Why the block stops with a fault. F_ faults of the manual are no stops: they are effects on the state. -/
inductive Fault where
  /-- Raised by every meaning whose operand names a die, core, port, channel, stop or store that the part does not have (R18, R19). Safe: the
  manual gives no such unit, so the block goes no further. -/
  | noSuchUnit
  deriving DecidableEq, Repr

/-- Why a command is refused. -/
inductive Refusal where
  /-- An arm of the dispatcher whose command has no meaning yet. Safe. -/
  | notModelled (mnemonic : String)
  deriving DecidableEq, Repr

end Sys2Proof.Machine
end

