-- ==== Sys2Proof/Machine/Ops.lean ====
section
/-! DEFINITION. Named operations that every family shares: sparse tables, memory, bytes, the parts of the package by name,
the time base's count, the ledger, fault records, performance counters and interrupts. -/

namespace Sys2Proof.Machine

/-- What a meaning answers. -/
abbrev Out := Host.Outcome State Fault Refusal

/-- A command that names a part the package has answers the next state `s`; any other stops. -/
def need (ok : Bool) (s : State) : Out :=
  match ok with
  | true => .next s
  | false => .fault .noSuchUnit

/-! ## Sparse tables -/

/-- The value at key `i`, `d` where nothing is listed. -/
def tabGet {α : Type} (d : α) : Tab α → Nat → α
  | [], _ => d
  | (k, v) :: t, i => if k = i then v else tabGet d t i

/-- The table with `v` at key `i`. -/
def tabSet {α : Type} : Tab α → Nat → α → Tab α
  | [], i, v => [(i, v)]
  | (k, x) :: t, i, v =>
    if i < k then (i, v) :: (k, x) :: t
    else if i = k then (i, v) :: t
    else (k, x) :: tabSet t i v

/-- The keys of a table whose value, the first under the key, satisfies `p`; each key once. -/
def tabKeys {α : Type} : Tab α → (Nat → α → Bool) → List Nat
  | [], _ => []
  | (k, v) :: t, p => (if p k v then [k] else []) ++ (tabKeys t p).filter (· != k)

/-- Fold an update of the whole state over a list of keys. -/
def each {α : Type} (l : List α) (s : State) (f : State → α → State) : State := l.foldl f s

/-! ## Numbers and bytes -/

/-- `w` bits of `v` from bit `lo` up. -/
def bits (v lo w : Nat) : Nat := v / 2 ^ lo % 2 ^ w

/-- Bit `i` of `v`. -/
def bit (v i : Nat) : Bool := v.testBit i

/-- A bit as a number. -/
def b2n (b : Bool) : Nat := if b then 1 else 0

/-- The `n`-byte little-endian bytes of `v` (R593). -/
def le : Nat → Nat → List Byte
  | 0, _ => []
  | n + 1, v => BitVec.ofNat 8 v :: le n (v / 256)

/-- The number that little-endian bytes spell (R593). -/
def ofLe : List Byte → Nat
  | [] => 0
  | b :: t => b.toNat + 256 * ofLe t

/-- The number that big-endian bytes spell (R593: packet headers and link payloads). -/
def ofBe (l : List Byte) : Nat := l.foldl (fun a b => a * 256 + b.toNat) 0

/-- The `n`-byte big-endian bytes of `v`. -/
def be (n v : Nat) : List Byte := (le n v).reverse

/-- `n` bytes of `l` from `o`, zero beyond the end. -/
def slice (l : List Byte) (o n : Nat) : List Byte :=
  let t := (l.drop o).take n
  t ++ List.replicate (n - t.length) 0

/-- Little-endian field of `n` bytes at offset `o`. -/
def fieldAt (l : List Byte) (o n : Nat) : Nat := ofLe (slice l o n)

/-- `v` held within `lo` to `hi` (R14). -/
def clampN (lo hi v : Nat) : Nat := max lo (min hi v)

/-- A count of `w` bits that sticks at its largest value (R572). -/
def stick (w v : Nat) : Nat := min (2 ^ w - 1) v

/-- The two's complement number of `w` bits. -/
def toSigned (w v : Nat) : Int := if v % 2 ^ w < 2 ^ (w - 1) then (v % 2 ^ w : Nat) else (v % 2 ^ w : Nat) - (2 ^ w : Nat)

/-- The `w`-bit two's complement code of `i`. -/
def ofSigned (w : Nat) (i : Int) : Nat := (i % (2 ^ w : Nat)).toNat

/-- `a / b` rounded up. -/
def ceilDiv (a b : Nat) : Nat := (a + b - 1) / b

/-- `a` rounded up to a multiple of `b`. -/
def roundUp (a b : Nat) : Nat := ceilDiv a b * b

/-- An address of a descriptor or a register with its low `n` bits ignored. -/
def alignTo (n a : Nat) : Nat := a / n * n

/-- Two ranges of bytes meet. -/
def meets (a n b m : Nat) : Bool := a < b + m && b < a + n && 0 < n && 0 < m

/-- A range of bytes lies within another. -/
def within (a n b m : Nat) : Bool := b ≤ a && a + n ≤ b + m

/-- Replace the element at `i`, if there is one. -/
def setAt {α : Type} (l : List α) (i : Nat) (x : α) : List α := l.set i x

/-- A set of numbers kept as a list without repeats. -/
def addTo (l : List Nat) (x : Nat) : List Nat := if l.contains x then l else l ++ [x]

/-! ## Memory -/

/-- The canonical form of memory: addresses strictly rising and no zero byte listed. -/
def Memory.wf (m : Memory) : Bool :=
  match m with
  | [] => true
  | (k, v) :: t => v != 0 && (t.head?.map fun e => decide (k < e.1)).getD true && Memory.wf t

/-- The byte at `a`; a byte that nothing has written reads zero. -/
def readByte : Memory → Nat → Byte
  | [], _ => 0
  | (k, v) :: t, a => if k = a then v else readByte t a

/-- Memory with byte `b` at `a`; a zero byte takes its entry away. -/
def writeByte : Memory → Nat → Byte → Memory
  | [], a, b => if b = 0 then [] else [(a, b)]
  | (k, v) :: t, a, b =>
    if a < k then (if b = 0 then (k, v) :: t else (a, b) :: (k, v) :: t)
    else if a = k then (if b = 0 then t else (a, b) :: t)
    else (k, v) :: writeByte t a b

/-- `n` bytes from `a` up. -/
def readBytes (m : Memory) (a n : Nat) : List Byte := (List.range n).map fun i => readByte m (a + i)

/-- The bytes `l` from `a` up. -/
def writeBytes (m : Memory) (a : Nat) : List Byte → Memory
  | [] => m
  | b :: t => writeBytes (writeByte m a b) (a + 1) t

/-- `n` bytes from `a` up set to zero. -/
def zeroBytes (m : Memory) (a n : Nat) : Memory := m.filter fun c => c.1 < a || a + n ≤ c.1

/-- A little-endian number of `n` bytes at `a`. -/
def readLe (m : Memory) (a n : Nat) : Nat := ofLe (readBytes m a n)

/-! ## Die kinds (R18) -/

def isDie (d : Nat) : Bool := d < 100
def isCompute (d : Nat) : Bool := d < 68
def isCellar (d : Nat) : Bool := 68 ≤ d && d < 80
def isLarder (d : Nat) : Bool := 80 ≤ d && d < 88
def isLink (d : Nat) : Bool := 88 ≤ d && d < 96
def isHost (d : Nat) : Bool := 96 ≤ d && d < 98
def isKeeper (d : Nat) : Bool := 98 ≤ d && d < 100
def isCore (c : Nat) : Bool := c < 272
def isPort (p : Nat) : Bool := p < 8
def isHostPort (p : Nat) : Bool := p < 2
def isChannel (c : Nat) : Bool := c < 48
def isContext (c : Nat) : Bool := c < 1024
def isStop (p : Nat) : Bool := p < 88

/-- Every die index, and those of one kind. -/
def dieList : List Nat := List.range 100
def computeDies : List Nat := List.range 68
def cellarDies : List Nat := (List.range 12).map (68 + ·)
def larderDies : List Nat := (List.range 8).map (80 + ·)
def linkDies : List Nat := (List.range 8).map (88 + ·)

/-! ## Parts by name -/

def State.die (s : State) (d : Nat) : Die := tabGet {} s.dies d
def State.setDie (s : State) (d : Nat) (x : Die) : State := { s with dies := tabSet s.dies d x }
def State.modDie (s : State) (d : Nat) (f : Die → Die) : State := s.setDie d (f (s.die d))

/-- The grid that a die's grid registers show: that of the job armed last (R342; DESIGN CHOICE, log entry 104, where a die carries two). -/
def Die.grid (x : Die) : Grid := x.grids.getLast?.getD {}

/-- The grid of a job on a die (R323, R341). -/
def Die.gridOf (x : Die) (j : Nat) : Grid := (x.grids.find? fun g => g.job == some j).getD {}

/-- Update a job's grid on a die; nothing where the die does not carry the job. -/
def Die.modGrid (x : Die) (j : Nat) (f : Grid → Grid) : Die := { x with grids := x.grids.map fun g => if g.job == some j then f g else g }

/-- A die is armed for a job's launch with L (R326): the grids of other jobs that it carries stay as they are. -/
def Die.armGrid (x : Die) (j l : Nat) : Die :=
  { x with grids := (x.grids.filter fun g => g.job.isSome && g.job != some j) ++ [{ job := some j, armed := some l }] }

/-- A grid whose launch is over: the registers keep its anchors and SEQ (R342), and what it held is discarded (R340). -/
def endedGrid (g : Grid) : Grid := { g with job := none, armed := none, started := false, pending := [] }

/-- A job's launch ends on a die: its grid goes; where it is the only one the registers keep its last values. -/
def Die.endGrid (x : Die) (j : Nat) : Die :=
  if x.grids.any (fun g => g.job.isSome && g.job != some j) then { x with grids := x.grids.filter fun g => g.job != some j }
  else x.modGrid j endedGrid

/-- A core by its physical place: die × 4 + core order (R21). -/
def State.core (s : State) (c : Nat) : Core := tabGet {} s.cores c
def State.setCore (s : State) (c : Nat) (x : Core) : State := { s with cores := tabSet s.cores c x }
def State.modCore (s : State) (c : Nat) (f : Core → Core) : State := s.setCore c (f (s.core c))

def State.port (s : State) (p : Nat) : Port := tabGet {} s.ports p
def State.setPort (s : State) (p : Nat) (x : Port) : State := { s with ports := tabSet s.ports p x }
def State.modPort (s : State) (p : Nat) (f : Port → Port) : State := s.setPort p (f (s.port p))

def State.channel (s : State) (c : Nat) : Channel := tabGet {} s.channels c
def State.setChannel (s : State) (c : Nat) (x : Channel) : State := { s with channels := tabSet s.channels c x }
def State.modChannel (s : State) (c : Nat) (f : Channel → Channel) : State := s.setChannel c (f (s.channel c))

/-- A host port: the registers of H0 or of H1. -/
def State.hp (s : State) (p : Nat) : HostPort := if p = 0 then s.host0 else s.host1
def State.setHp (s : State) (p : Nat) (x : HostPort) : State := if p = 0 then { s with host0 := x } else { s with host1 := x }
def State.modHp (s : State) (p : Nat) (f : HostPort → HostPort) : State := s.setHp p (f (s.hp p))

/-- A hatch sequencer: H0's or H1's. -/
def State.hatch (s : State) (h : Nat) : Hatch := if h = 0 then s.hatch0 else s.hatch1
def State.setHatch (s : State) (h : Nat) (x : Hatch) : State := if h = 0 then { s with hatch0 := x } else { s with hatch1 := x }
def State.modHatch (s : State) (h : Nat) (f : Hatch → Hatch) : State := s.setHatch h (f (s.hatch h))

/-- The state of a keeper (R358). -/
def State.keeper (s : State) (k : Nat) : KeeperSt := if k = 0 then s.keeper0 else s.keeper1
def State.setKeeper (s : State) (k : Nat) (x : KeeperSt) : State := if k = 0 then { s with keeper0 := x } else { s with keeper1 := x }

def State.ctx? (s : State) (c : Nat) : Option Context := tabGet none s.contexts c
def State.ctx (s : State) (c : Nat) : Context := (s.ctx? c).getD {}
def State.setCtx (s : State) (c : Nat) (x : Option Context) : State := { s with contexts := tabSet s.contexts c x }
/-- Update a bound context; nothing where the context is not bound. -/
def State.modCtx (s : State) (c : Nat) (f : Context → Context) : State :=
  match s.ctx? c with
  | some x => s.setCtx c (some (f x))
  | none => s

/-- The key of a queue: context × 512 + queue number, and the two kernel queues above every normal queue. -/
def qkey : QRef → Nat
  | .normal c q => c * 512 + q
  | .kernel p => 0x80000 + p

/-- The queue that a key names. -/
def qrefOf (k : Nat) : QRef := if k < 0x80000 then .normal (k / 512) (k % 512) else .kernel (k - 0x80000)

def isQueue : QRef → Bool
  | .normal c q => c < 1024 && q < 512
  | .kernel p => p < 2

def State.queue? (s : State) (q : QRef) : Option Queue := tabGet none s.queues (qkey q)
def State.queue (s : State) (q : QRef) : Queue := (s.queue? q).getD {}
def State.setQueue (s : State) (q : QRef) (x : Option Queue) : State := { s with queues := tabSet s.queues (qkey q) x }
def State.modQueue (s : State) (q : QRef) (f : Queue → Queue) : State :=
  match s.queue? q with
  | some x => s.setQueue q (some (f x))
  | none => s

def State.set? (s : State) (w : Nat) : Option WeightSet := tabGet none s.sets w
def State.setSet (s : State) (w : Nat) (x : Option WeightSet) : State := { s with sets := tabSet s.sets w x }
def State.modSet (s : State) (w : Nat) (f : WeightSet → WeightSet) : State :=
  match s.set? w with
  | some x => s.setSet w (some (f x))
  | none => s

def State.coord? (s : State) (j : Nat) : Option Coord := tabGet none s.coords j
def State.setCoord (s : State) (j : Nat) (x : Option Coord) : State := { s with coords := tabSet s.coords j x }
def State.modCoord (s : State) (j : Nat) (f : Coord → Coord) : State :=
  match s.coord? j with
  | some x => s.setCoord j (some (f x))
  | none => s

/-- Every bound context (R362). -/
def State.boundCtxs (s : State) : List Nat := tabKeys s.contexts fun _ x => x.isSome

/-- The contexts of a job on this package. -/
def State.jobCtxs (s : State) (j : Nat) : List Nat := tabKeys s.contexts fun _ x => (x.map fun c => decide (c.job = j)).getD false

/-- An element put before the first that it may stand before. -/
def insertBy {α : Type} (before : α → α → Bool) (x : α) : List α → List α
  | [] => [x]
  | y :: t => if before x y then x :: y :: t else y :: insertBy before x t

/-- A list in order; equals keep theirs. -/
def sortBy {α : Type} (before : α → α → Bool) (l : List α) : List α := l.foldr (insertBy before) []

/-- A list of numbers in ascending order. -/
def sortNats (l : List Nat) : List Nat := sortBy (fun a b => decide (a ≤ b)) l

/-- The context of a queue; none for a kernel queue. -/
def ctxOf : QRef → Option Nat
  | .normal c _ => some c
  | .kernel _ => none

/-! ## Active set and logical numbering (R32 to R35) -/

/-- The physical die of a logical die (R33). -/
def State.physDie (s : State) (ld : Nat) : Nat := s.inv.logical.getD ld 100

/-- The logical die of a physical die (R33). -/
def State.logicalDie (s : State) (d : Nat) : Option Nat := s.inv.logical.idxOf? d

/-- The good cores of a die, by the core map (R34). -/
def State.goodCores (s : State) (d : Nat) : Nat := ((List.range 4).filter fun k => bit (tabGet 0 s.inv.coreMap d) k).length

/-- A core is active: good by the core map, and not masked as one beyond the first n of a spare (R34). -/
def State.coreActive (s : State) (c : Nat) : Bool := bit (tabGet 0 s.inv.coreMap (c / 4)) (c % 4) && !(s.core c).masked

/-- The active cores of a die in core order (R34). -/
def State.dieCores (s : State) (d : Nat) : List Nat := ((List.range 4).map (4 * d + ·)).filter s.coreActive

/-- The active cores of the package in order of logical core number (R35). -/
def State.activeCores (s : State) : List Nat := s.inv.logical.flatMap s.dieCores

/-- The logical core number of a core (R35). -/
def State.logicalCore (s : State) (c : Nat) : Option Nat := s.activeCores.idxOf? c

/-- The logical core slot of a core in its die (R34). -/
def State.coreSlot (s : State) (c : Nat) : Option Nat := (s.dieCores (c / 4)).idxOf? c

/-- The core with a logical core number. -/
def State.coreOf (s : State) (lc : Nat) : Option Nat := s.activeCores[lc]?

/-- The logical dies of a context (R390). -/
def ctxDies (x : Context) : List Nat := (List.range x.dieCount).map (x.dieFirst + ·)

/-- The physical dies of a context. -/
def State.ctxPhys (s : State) (c : Nat) : List Nat := (ctxDies (s.ctx c)).map s.physDie

/-- The dies of a job on this package, in ascending logical die index (R217). -/
def State.jobDies (s : State) (j : Nat) : List Nat :=
  (sortNats ((s.jobCtxs j).foldl (fun l c => (ctxDies (s.ctx c)).foldl addTo l) [])).map s.physDie

/-- The position of a die among its job's dies (R217). -/
def State.jobPos (s : State) (j d : Nat) : Option Nat := (s.jobDies j).idxOf? d

/-- The active cores of a context. -/
def State.ctxCores (s : State) (c : Nat) : List Nat := (s.ctxPhys c).flatMap s.dieCores

/-- The context bound to a core. -/
def State.ctxOfCore (s : State) (c : Nat) : Option Nat := (s.core c).ctx

/-- A context bound to a core of a die. -/
def State.ctxOfDie (s : State) (d : Nat) : Option Nat :=
  ((List.range 4).filterMap fun k => (s.core (4 * d + k)).ctx).head?

/-- The contexts bound to cores of a die. -/
def State.dieCtxs (s : State) (d : Nat) : List Nat :=
  ((List.range 4).filterMap fun k => (s.core (4 * d + k)).ctx).foldl addTo []

/-! ## Ring stops (R27) -/

/-- The die kinds of a quarter's 22 stops: 0 compute, 1 cellar, 2 larder. -/
def quarterKinds : List Nat := [1, 0, 0, 0, 0, 2, 0, 0, 0, 1, 0, 0, 0, 0, 2, 0, 0, 0, 1, 0, 0, 0]

/-- The die at a ring stop (R27): dies of one kind stand in ascending order. -/
def stopDie (stop : Nat) : Nat :=
  let k := quarterKinds.getD (stop % 22) 0
  let before := ((quarterKinds.take (stop % 22)).filter (· == k)).length
  if k = 1 then 68 + 3 * (stop / 22) + before
  else if k = 2 then 80 + 2 * (stop / 22) + before
  else 17 * (stop / 22) + before

/-- The ring stop of a die, for dies that have one (R27). -/
def dieStop (d : Nat) : Option Nat := (List.range 88).find? fun p => stopDie p == d

/-- The next stop in a direction (R27): clockwise (0) ascends, counter-clockwise (1) descends. -/
def nextStop (stop dir : Nat) : Nat := if dir = 0 then (stop + 1) % 88 else (stop + 87) % 88

/-! ## Counts (R62) -/

/-- The count of a die's time base. -/
def State.count (s : State) (d : Nat) : Nat := (((s.now : Int) + (s.die d).tb.disp) % (2 ^ 64 : Nat)).toNat

/-- The die of the keeper that acts: the token's holder, K0 where none holds it. -/
def State.keeperDie (s : State) : Nat := match s.holder with | some 1 => 99 | _ => 98

/-- The count that the serving unit reads: the active keeper's, or the host die's of the serving hatch sequencer (R358, R508). -/
def State.serviceDie (s : State) : Nat := match s.holder with | some 0 => 98 | some _ => 99 | none => if s.hatch0.failed then 97 else 96
def State.kcount (s : State) : Nat := s.count s.serviceDie

/-- A free value (a number that nothing constrains), by the counter that the step advances. -/
def State.takeFresh (s : State) : Nat × State := (s.fresh, { s with fresh := s.fresh + 1 })

/-! ## Packets (R446) -/

/-- A port is in UP, or in a retraining in place, which keeps what UP holds (R422). -/
def portUp (x : Port) : Bool := x.st == .up || x.retrainInPlace

/-- A packet of the package's own. -/
def State.packet (s : State) (ptype cls dst flow addr len : Nat) (data : List Byte) : Packet :=
  { ptype := ptype, cls := cls, route := 0, retransmit := false, len := len, srcPkg := s.pkgId, dstPkg := dst, flow := flow, psn := 0,
    addr := BitVec.ofNat 64 addr, stamp := 0, data := data }

/-- Packets join the queue of a port toward its partner; a port that has left UP drops them (R459). -/
def State.post (s : State) (port : Nat) (l : List Packet) : State :=
  if portUp (s.port port) then { s with packetOut := s.packetOut ++ l.map fun p => (port, p) } else s

/-- Send one packet by a port, outside any flow's window (answers and control). -/
def State.emit (s : State) (port : Nat) (p : Packet) : State :=
  s.post port [{ p with stamp := BitVec.ofNat 64 (s.count (88 + port)) }]

/-! ## Messages (R327, R456, R457) -/

/-- Where a message between packages goes: up the sync tree, down it, to one package, or nowhere outside its own. -/
inductive Way where
  | up (job : Nat)
  | down (job : Nat)
  | both (job : Nat)
  | to (job pkg : Nat)
  | inside
  deriving DecidableEq, Repr

/-- The way of each message (R320, R328, R337, R464, R489, R500). -/
def sentWay : Sent → Way
  | .ready m => .up m.job
  | .arm j _ => .down j
  | .armed m => .up m.job
  | .go j => .down j
  | .abort j => .down j
  | .jobFault j .. => .both j
  | .stretchReq r => .up r.job
  | .stretchAns j a all => if all then .down j else .to j a.pkg
  | .stretchAck j .. => .up j
  | .stocktake j .. => .up j
  | .stockReport j p => .to j p
  | .prune j _ m .. => .to j m
  | .pool j .. => .up j
  | .transfer j .. => .down j
  | .heartbeat .. => .inside
  | .failure .. => .inside
  | .epoch _ => .inside
  | .marker .. => .inside

/-- The dies of a list as a mask, die 0 in bit 0. -/
def dieMask (l : List Nat) : Nat := (l.map (2 ^ ·)).sum

/-- READY and ARMED as bytes. -/
def readyBytes (m : ReadyMsg) : List Byte :=
  be 4 m.job ++ be 2 m.pkg ++ be 1 m.schedOp ++ be 8 m.seed.toNat ++ be 8 m.build.toNat ++
    be 1 (b2n m.holdover + 2 * b2n m.locked + 4 * b2n m.epochSet + 8 * b2n m.aligned) ++ be 13 (dieMask m.dies) ++ be 2 (m.timeRoot.getD 0xFFFF)

/-- The data of a message's SYNC packet, in the model's layout (DESIGN CHOICE, log entry 118): a kind, then the message's fields. -/
def syncBytes : Sent → List Byte
  | .ready m => be 1 1 ++ readyBytes m
  | .arm j l => be 1 2 ++ be 4 j ++ be 8 l
  | .armed m => be 1 3 ++ readyBytes m
  | .go j => be 1 4 ++ be 4 j
  | .abort j => be 1 5 ++ be 4 j
  | .jobFault j c p n => be 1 6 ++ be 4 j ++ be 2 c ++ be 2 p ++ be 8 n
  | .stretchReq r => be 1 7 ++ be 4 r.job ++ be 2 r.pkg ++ be 1 r.die ++ be 1 r.ldie ++ be 1 r.q ++ be 1 r.reason ++ be 8 r.count
  | .stretchAns j a all => be 1 8 ++ be 4 j ++ be 4 a.seq ++ be 2 a.k ++ be 2 a.lam ++ be 8 a.t ++ be 8 a.bT ++ be 1 a.die ++ be 2 a.pkg ++ be 1 (b2n all)
  | .stretchAck j d n => be 1 9 ++ be 4 j ++ be 1 d ++ be 4 n
  | .stocktake j c b => be 1 10 ++ be 4 j ++ be 2 c ++ be 1 (b2n b)
  | .stockReport j p => be 1 11 ++ be 4 j ++ be 2 p
  | .prune j g m a n => be 1 12 ++ be 4 j ++ be 2 g ++ be 2 m ++ be 8 a ++ be 8 n
  | .pool j u c f => be 1 13 ++ be 4 j ++ be 4 u ++ be 4 c ++ be 4 f
  | .transfer j a b w => be 1 14 ++ be 4 j ++ be 2 a ++ be 2 b ++ be 4 w
  | .heartbeat .. | .failure .. | .epoch _ | .marker .. => []

/-- The job's path to its parent in the sync tree (R452), and those that its children set up to here: port, package and flow. -/
def State.syncUp (s : State) (j : Nat) : List (Nat × Nat × Nat) :=
  s.flows.filterMap fun e => match e.2 with
    | some f => if f.sync && f.usable && (s.ctx f.ctx).job == j then some ((f.routes.headD []).headD 0, f.dest, e.1) else none
    | none => none
def State.syncDown (s : State) (j : Nat) : List (Nat × Nat × Nat) :=
  s.rxFlows.filterMap fun e => match e.2 with
    | some x => if x.sync && (s.ctx x.ctx).job == j then some (x.link, x.srcPkg, x.flow) else none
    | none => none

/-- The paths of a job to a package. -/
def State.pathTo (s : State) (j pkg : Nat) : List (Nat × Nat × Nat) :=
  (s.flows.filterMap fun e => match e.2 with
    | some f => if f.usable && f.dest == pkg && (s.ctx f.ctx).job == j then some ((f.routes.headD []).headD 0, f.dest, e.1) else none
    | none => none).take 1

/-- The edges that a message leaves by. JOB_FAULT goes up the tree from the package that detected the fault, and down from the root (R500). -/
def State.sentEdges (s : State) (m : Sent) : List (Nat × Nat × Nat) :=
  match sentWay m with
  | .up j => s.syncUp j
  | .down j => s.syncDown j
  | .both j => if s.syncUp j = [] then s.syncDown j else s.syncUp j
  | .to j p => if s.pathTo j p = [] then (s.syncDown j).filter fun e => e.2.1 == p else s.pathTo j p
  | .inside => []

/-- Send a message that its receiver takes by a row of its own. Between packages it is a SYNC packet of class 0, of at most 64 bytes of data (R446, R456,
R457). -/
def State.send (s : State) (m : Sent) : State :=
  each (s.sentEdges m) { s with sent := s.sent ++ [m] } fun s e => s.emit e.1 (s.packet 0x0D 0 e.2.1 e.2.2 0 (syncBytes m).length (syncBytes m))

/-! ## Outputs -/

/-- Give an answer on the boundary. -/
def State.answer (s : State) (kind : String) (who : Nat) (words : List Word) : State :=
  { s with answers := s.answers ++ [{ kind := kind, who := who, words := words }] }

/-- Where a byte of a host's memory stands in `hostMem`: by port, address space (0 the kernel's, PASID + 1 a context's) and address. Each port has its
own host (R344), and each address space its own bytes. -/
def hostKey (port space a : Nat) : Nat := (port * 2 ^ 21 + space) * 2 ^ 64 + a % 2 ^ 64

/-- Read bytes of a host's memory. -/
def State.hostRead (s : State) (port space a n : Nat) : List Byte := readBytes s.hostMem (hostKey port space a) n

/-- Write bytes to a host's memory. -/
def State.hostWrite (s : State) (port space a : Nat) (l : List Byte) : State :=
  { s with hostMem := writeBytes s.hostMem (hostKey port space a) l }

/-- The address space of a context's host accesses (R345, R390). -/
def State.space (s : State) (c : Nat) : Nat := (s.ctx c).pasid + 1

/-- Write bytes to the stores that the local address map names. -/
def State.store (s : State) (a : Nat) (l : List Byte) : State := { s with mem := writeBytes s.mem a l }

/-- `n` bytes from `a` up read zero, with clean check bits. -/
def State.clear (s : State) (a n : Nat) : State :=
  { s with mem := zeroBytes s.mem a n, marks := s.marks.filter fun e => 8 * e.1 < a || a + n ≤ 8 * e.1 }

/-! ## Ledger (R561 to R565) -/

/-- Drop the entry with the lowest SEQ of a full ring, counting it in LOST when it was not merged (R565). -/
def ringMakeRoom (l : Ledger) : Ledger :=
  if l.ring.length < 4096 then l
  else match l.ring with
    | [] => l
    | e :: t =>
      if l.unmerged.contains e.seq then
        { l with ring := t, unmerged := l.unmerged.filter (· != e.seq), lost := stick 16 (l.lost + 1), lostSeqs := l.lostSeqs ++ [e.seq] }
      else { l with ring := t }

/-- Append one entry at the die's next SEQ. -/
def ringAppend (l : Ledger) (e : LedgerEntry) : Ledger :=
  let l := ringMakeRoom l
  { l with ring := l.ring ++ [{ e with seq := l.next }], unmerged := l.unmerged ++ [l.next], next := l.next + 1 }

/-- An entry in the ring of die `d`, its DETAIL continued in a second entry past 40 bytes (R562). -/
def State.ledgerEntry (s : State) (d : Nat) (e : LedgerEntry) : State :=
  s.modDie d fun x =>
    let e := { e with die := d, preEpoch := e.preEpoch || !x.tb.epochSet }
    let l := ringAppend x.ledger { e with detail := e.detail.take 40 }
    { x with ledger := if e.detail.length ≤ 40 then l else ringAppend l { e with detail := e.detail.drop 40, continued := true } }

/-- An entry of a kind, at the die's present count. -/
def State.note (s : State) (d kind code ctx : Nat) (detail : List Byte) : State :=
  s.ledgerEntry d { count := s.count d, kind := kind, code := code, ctx := ctx, detail := detail }

/-- No context is concerned (R561). -/
def noCtx : Nat := 0xFFFF

/-- A state change entry (KIND 0x03): subject, unit, old and new state. -/
def State.noteState (s : State) (d subject unit old new : Nat) : State :=
  s.note d 0x03 subject noCtx (le 1 unit ++ le 1 old ++ le 1 new)

/-- The CONTEXT field of an entry about contexts: the one context, or none. -/
def oneCtx (l : List Nat) : Nat := match l with | [c] => c | _ => noCtx

/-! ## Performance counters (R569, R570) -/

/-- Counter `i` of die `d` gains `n`; past 2^48 − 1 it sticks, sets PEGGED and writes one KIND 0x08 entry. -/
def State.perfAdd (s : State) (d i n : Nat) : State :=
  let p := tabGet {} (s.die d).perf i
  if p.value + n < 2 ^ 48 then s.modDie d fun x => { x with perf := tabSet x.perf i { p with value := p.value + n } }
  else if p.pegged then s.modDie d fun x => { x with perf := tabSet x.perf i { p with value := 2 ^ 48 - 1 } }
  else (s.modDie d fun x => { x with perf := tabSet x.perf i { p with value := 2 ^ 48 - 1, pegged := true } }).note d 0x08 0 noCtx
    (le 8 (0x090000 + 8 * i) ++ le 1 0)

/-- Counter `i` counts in units of `u`; what does not fill a unit is kept for the next (R570). -/
def State.perfUnits (s : State) (d i u n : Nat) : State :=
  let p := tabGet {} (s.die d).perf i
  (s.modDie d fun x => { x with perf := tabSet x.perf i { p with rem := (p.rem + n) % u } }).perfAdd d i ((p.rem + n) / u)

/-! ## Interrupts (R356, R357) -/

/-- Requests are answered with Configuration Request Retry Status until the front end is ready (R346); a halted start-up answers them from the tenth second
after die reset (R558). -/
def State.configReady (s : State) (p : Nat) : Bool := (s.hp p).ready || (s.halted && decide (10000000000 ≤ s.now))

/-- The pending bit of a masked vector. -/
def msixRaise (h : HostPort) (vec : Nat) : HostPort :=
  let e := tabGet {} h.msix vec
  if e.mask || h.msixMask then { h with msix := tabSet h.msix vec { e with pending := true } } else h

/-- A vector's entry, or the function, is masked. -/
def vectorMasked (h : HostPort) (vec : Nat) : Bool := (tabGet {} h.msix vec).mask || h.msixMask

/-- A vector of a port is an MSI-X message that its link, being down, drops (R356): one that is neither disabled nor held pending by a mask. -/
def vectorDrops (h : HostPort) (vec : Nat) : Bool := h.msixEnable && !vectorMasked h vec && !h.up

/-- A vector of a port that is not dropped: held pending while its entry or the function is masked; nothing while MSI-X is not enabled. PRESUMED for the
enable and the mask of the function, from the PCIe specification: log entry 95. -/
def State.sendVector (s : State) (p vec : Nat) : State :=
  if !(s.hp p).msixEnable then s
  else if vectorMasked (s.hp p) vec then s.modHp p fun h => msixRaise h vec
  else { s with irqs := s.irqs ++ [(p, vec)] }

/-- Count a drop in HQ_ERR.DOORBELL of a port (R351, R356): where HQ_ERR changes, ERROR is set and vector 0 is raised there. With both links down that
vector is dropped and not counted again: DESIGN CHOICE, log entry 95. -/
def State.countDoorbell (s : State) (p : Nat) : State :=
  if (s.hp p).doorbell = 0xFFFF then s
  else
    let s := s.modHp p fun h => { h with doorbell := stick 16 (h.doorbell + 1), causeError := true }
    if vectorDrops (s.hp p) 0 then s else s.sendVector p 0

/-- Raise a vector of a port: dropped and counted on the other port while the link is down. -/
def State.raiseVector (s : State) (p vec : Nat) : State :=
  if vectorDrops (s.hp p) vec then s.countDoorbell (1 - p) else s.sendVector p vec

/-- A vector number that a host wrote into a context field (R357). -/
def clampVector (v : Nat) : Nat := clampN 4 2047 v

/-- Set HQ_CAUSE.ERROR of a port and raise vector 0. -/
def State.causeError (s : State) (p : Nat) : State := (s.modHp p fun h => { h with causeError := true }).raiseVector p 0
/-- Set HQ_CAUSE.SERVICE on both ports and raise vector 3: a keeper state or SERVICE changed (R353). -/
def State.causeService (s : State) : State :=
  each [0, 1] s fun s p => (s.modHp p fun h => { h with causeService := true }).raiseVector p 3

/-- The three counts of HQ_ERR that requests raise (R353). -/
inductive ErrField where
  | malformed | unexpected | denied | doorbell
  deriving DecidableEq, Repr

/-- HQ_ERR with one more in a field; each count sticks at 0xFFFF. -/
def countErr (f : ErrField) (h : HostPort) : HostPort :=
  match f with
  | .malformed => { h with malformed := stick 16 (h.malformed + 1) }
  | .unexpected => { h with unexpected := stick 16 (h.unexpected + 1) }
  | .denied => { h with denied := stick 16 (h.denied + 1) }
  | .doorbell => { h with doorbell := stick 16 (h.doorbell + 1) }

/-- A new value of HQ_ERR: where it changes, ERROR is set and vector 0 is raised (R353). -/
def State.changeErr (s : State) (p : Nat) (f : HostPort → HostPort) : State :=
  if f (s.hp p) = s.hp p then s else (s.modHp p f).causeError p

/-- One more in a field of HQ_ERR. -/
def State.hqErr (s : State) (p : Nat) (f : ErrField) : State := s.changeErr p (countErr f)

/-! ## Queues (R364 to R371, R396) -/

def fetchCode : FetchSt → Nat
  | .idle => 0
  | .fetching => 1
  | .waiting => 2
  | .stopped => 3

/-- The address space of a queue's submission ring: the kernel's, or its context's (R389). -/
def State.sqSpace (s : State) : QRef → Nat
  | .kernel _ => 0
  | .normal c _ => s.space c

/-- The queue status record (R371). -/
def statusRecord (stamp : Nat) (x : Queue) : List Byte :=
  le 8 stamp ++ le 4 x.head.toNat ++ le 4 x.doneIdx.toNat ++ le 4 x.tail.toNat ++ le 1 (fetchCode x.st)
    ++ le 1 (b2n x.holdLink + 2 * b2n x.holdKeeper + 4 * b2n x.holdCq + 8 * b2n x.holdFull) ++ le 2 x.records.length ++ le 2 x.fault
    ++ List.replicate 38 0

/-- Write a record of a queue into its host's memory. CQ_BASE and STATUS are host addresses of a kernel command and name no PASID, so they lie in the kernel's
address space (R389), and the record is no DMA of the context (DEDUCED, log entry 115). -/
def State.queueWrite (s : State) (port a : Nat) (l : List Byte) : State := s.hostWrite port 0 a l

/-- Write a normal queue's status record where its page and port allow it (R371). -/
def State.writeStatus (s : State) (q : QRef) : State :=
  match q, s.queue? q with
  | .normal .., some x =>
    if x.statusOk && (s.hp x.port).up then s.queueWrite x.port x.status (statusRecord (s.count (96 + x.port)) x) else s
  | _, _ => s

/-- Change a queue, and write its status record when its fetch state or hold causes change (R371). -/
def State.putQueue (s : State) (q : QRef) (f : Queue → Queue) : State :=
  match s.queue? q with
  | none => s
  | some x =>
    let y := f x
    let s := s.setQueue q (some y)
    if y.st = x.st && y.holdLink == x.holdLink && y.holdKeeper == x.holdKeeper && y.holdCq == x.holdCq && y.holdFull == x.holdFull then s
    else s.writeStatus q

/-- Every command fetched from a context's queues ends, and the queues stop (R396): `status` FAULTED with its fault, or ABORTED. -/
def endCommands (status fault : Nat) (x : Queue) : Queue :=
  { x with cmds := x.cmds.map fun p => match p.outcome with
      | none => { p with outcome := some { status := status, fault := fault } }
      | some _ => p }

/-- The queues of a context. -/
def State.ctxQueues (s : State) (c : Nat) : List QRef :=
  (tabKeys s.queues fun k x => x.isSome && decide (k / 512 = c) && decide (k < 0x80000)).map qrefOf

/-- The queues of a faulted context stop (R370, R396). -/
def State.stopQueues (s : State) (c code : Nat) : State :=
  each (s.ctxQueues c) s fun s q => s.putQueue q fun x => { endCommands 3 code x with st := .stopped, fault := code }

/-! ## Faults (R496 to R501) -/

/-- A fault faults a job (Effect column of R501). Codes of effect Quarantine, Record or Command do not. -/
def faultIsJob (code : Nat) : Bool :=
  [0x0101, 0x0102, 0x0103, 0x0201, 0x0202, 0x0203, 0x0204, 0x0206, 0x0301, 0x0302, 0x0401, 0x0402, 0x0403, 0x0404, 0x0501, 0x0503,
   0x0601, 0x0602, 0x0701, 0x0702, 0x0804, 0x0902, 0x0903, 0x0A05, 0x0A07].contains code

/-- A fault is addressed to the kernel driver (R501). -/
def faultToDriver (code : Nat) : Bool :=
  [0x0205, 0x0206, 0x0303, 0x0502, 0x0801, 0x0802, 0x0803, 0x0901, 0x0A01, 0x0A02, 0x0A03, 0x0A04, 0x0A06, 0x0A07, 0x0B01, 0x0B02, 0x0B03,
   0x0B04, 0x0B05].contains code

/-- The sets of a job that is faulted or killed are to retire when its quench ends (R233). -/
def State.faultSets (s : State) (j : Nat) : State :=
  { s with sets := s.sets.map fun e => (e.1, e.2.map fun w => if w.job = j then { w with jobFaulted := true } else w) }

/-- A quench of a context is ordered (R499), with the fault code given when its job has none yet. -/
def State.orderQuench (s : State) (c code : Nat) (atOnce : Bool) : State :=
  s.modCtx c fun x => { x with
    quenchOrdered := true, forced := x.forced || atOnce,
    faulted := if code = 0 then x.faulted else (match x.faulted with | none => some code | some f => some f) }

/-- The ERR_VECTORs that a record for some contexts raises (R390, R497), as ports and vectors; they are those of the detection, so that a context that
is gone before the delivery is told too. -/
def State.errVectors (s : State) (ctxs : List Nat) : List (Nat × Nat) :=
  (ctxs.filter fun c => (s.ctx? c).isSome).map fun c => ((s.ctx c).port, clampVector (s.ctx c).errVector)

/-- A fault is addressed to contexts (R501): every one but those that name the kernel driver alone, and F_LAUNCH_SYNC, which names the coordinator.
F_RING_BREAK names both. -/
def faultToCtx (code : Nat) : Bool := (!faultToDriver code || code == 0x0A07) && code != 0x0204

/-- The owner of packets that no mover waits for. -/
def noOwner : Nat := 272

/-- No mover waits any more for packets that some cores own, and what their loads bring is not wanted (R190, R312). -/
def State.disown (s : State) (p : Nat → Bool) : State :=
  { s with
    tallyMsgs := s.tallyMsgs.map fun m => { m with mover := m.mover && !p m.core }
    flows := s.flows.map fun e => (e.1, e.2.map fun f =>
      { f with owners := f.owners.map (fun o => (if p o.1 then noOwner else o.1, o.2)), loads := f.loads.filter fun l => !p l.core })
    groups := s.groups.map fun e => (e.1, e.2.map fun g => { g with owners := g.owners.map fun o => if p o then noOwner else o }) }

/-- A core stops at once (R499, R301): it issues nothing, its operations leave no result, and its waits and those at its tallies are abandoned. -/
def stopCore (x : Core) : Core :=
  { x with running := false, wait := .none, scalar := [], eng0 := [], eng1 := [], mover := [], tallyQ := [], finish := [], delayed := [],
           tallies := x.tallies.map fun e => (e.1, { e.2 with waits := [] }) }

/-- A forced quench takes hold (R499): the context's job is faulted, its cores stop, its commands end FAULTED and its queues stop (R396), what is in flight to
its tallies is discarded on arrival (R301), and no mover of its waits or takes data. The end of the binding and the scrub follow with FAULT_QUENCH. -/
def State.stopCtx (s : State) (c code : Nat) : State :=
  let s := (s.orderQuench c code true).disown fun k => (s.core k).ctx == some c
  let s : State := { s with
    cores := s.cores.map fun e => (e.1, if e.2.ctx == some c then stopCore e.2 else e.2)
    tallyMsgs := s.tallyMsgs.map fun m => if m.ctx = c then { m with dead := true } else m }
  (s.faultSets (s.ctx c).job).stopQueues c ((s.ctx c).faulted.getD code)

/-- A record is held on its die for the handler. A die that already holds 256 records applies a job-faulting one itself, by a forced quench of the contexts, and
counts it (R498); any other record waits until one of the 256 is freed (DESIGN CHOICE, log entry 76). -/
def State.holdRec (s : State) (r : FaultRec) : State :=
  if (s.die r.die).ledger.held.length < 256 then s.modDie r.die fun x => { x with ledger := { x.ledger with held := x.ledger.held ++ [r] } }
  else if r.job then
    each r.ctxs (s.modDie r.die fun x => { x with ledger := { x.ledger with applied := x.ledger.applied + 1 } }) fun s c => s.stopCtx c r.code
  else s.modDie r.die fun x => { x with ledger := { x.ledger with queued := x.ledger.queued ++ [r] } }

/-- Raise a fault (R496): one ledger entry of KIND 0x01 on the detecting die, and the record held there for the handler. -/
def State.raiseTo (s : State) (d code : Nat) (ctxs : List Nat) (job driver : Bool) (detail : List Byte) : State :=
  let r : FaultRec := { code := code, die := d, count := s.count d, ctxs := ctxs, job := job, driver := driver,
                        vectors := if faultToCtx code then s.errVectors ctxs else [] }
  (s.note d 0x01 code (oneCtx ctxs) detail).holdRec r

/-- A place among a die's 256 records has become free: the first that waits takes it. -/
def freePlace (l : Ledger) : Ledger :=
  if l.held.length < 256 then { l with held := l.held ++ l.queued.take 1, queued := l.queued.drop 1 } else l

/-- Raise a fault with the address and effect that R501 gives its code. -/
def State.raise (s : State) (d code : Nat) (ctxs : List Nat) (detail : List Byte) : State :=
  s.raiseTo d code ctxs (faultIsJob code && !ctxs.isEmpty) (faultToDriver code) detail

/-! Fault codes by name (R501). -/

def fAddrUnmapped : Nat := 0x0101
def fScoreInvalid : Nat := 0x0102
def fWeightsPinned : Nat := 0x0103
def fSlotLate : Nat := 0x0201
def fSlotGuard : Nat := 0x0202
def fStretchLate : Nat := 0x0203
def fLaunchSync : Nat := 0x0204
def fTbSyncSlip : Nat := 0x0205
def fTbRefLost : Nat := 0x0206
def fArithCheck : Nat := 0x0301
def fSramUncorr : Nat := 0x0302
def fScrubFail : Nat := 0x0303
def fCrateHeader : Nat := 0x0401
def fCrateData : Nat := 0x0402
def fCaskCheck : Nat := 0x0403
def fCaskLength : Nat := 0x0404
def fMemUncorr : Nat := 0x0501
def fChFail : Nat := 0x0502
def fLarderUncorr : Nat := 0x0503
def fTallyUnderflow : Nat := 0x0601
def fTallyOverflow : Nat := 0x0602
def fStocktake : Nat := 0x0603
def fHostDma : Nat := 0x0701
def fContextKilled : Nat := 0x0702
def fLinkDown : Nat := 0x0801
def fLinkId : Nat := 0x0802
def fLinkProto : Nat := 0x0803
def fFabricUnreach : Nat := 0x0804
def fMcastPruned : Nat := 0x0805
def fRailFault : Nat := 0x0901
def fRailQuench : Nat := 0x0902
def fThermalTrip : Nat := 0x0903
def fKeeperFail : Nat := 0x0A01
def fKeeperTakeover : Nat := 0x0A02
def fNoKeeper : Nat := 0x0A03
def fDieFail : Nat := 0x0A04
def fDieRetired : Nat := 0x0A05
def fFaultLost : Nat := 0x0A06
def fRingBreak : Nat := 0x0A07
def fFwAuth : Nat := 0x0B01
def fFwRollback : Nat := 0x0B02
def fInventory : Nat := 0x0B03
def fKeyReject : Nat := 0x0B04
def fSelftest : Nat := 0x0B05

/-! ## DMA of a context (R360, R361, R542) -/

/-- F_HOST_DMA for a failed DMA of a context: one record in each 1 ms and job, further ones counted. -/
def State.dmaFail (s : State) (port c a : Nat) : State :=
  let x := s.ctx c
  let n := s.count (96 + port)
  let recent := (s.jobCtxs x.job).any fun d => ((s.ctx d).dmaLast.map fun t => decide (n < t + 1000000)).getD false
  if recent then s.modCtx c fun x => { x with dmaErrors := stick 16 (x.dmaErrors + 1) }
  else (s.raise (96 + port) fHostDma [c] (le 2 port ++ le 8 a ++ le 4 x.pasid)).modCtx c fun x => { x with dmaLast := some n }

/-- A TDI outside RUN: every host DMA of its context ends with error (R542). -/
def dmaBarred (x : Context) : Bool := x.sealed && x.tdisp && x.tdi != .run

/-- Write a context's own records into its host's memory. -/
def State.dmaWrite (s : State) (c port a : Nat) (l : List Byte) : State :=
  if dmaBarred (s.ctx c) then s.dmaFail port c a else s.hostWrite port (s.space c) a l

end Sys2Proof.Machine
end

