-- ==== Sys2Proof/Machine/Arith.lean ====
section
/-! DEFINITION. Chapter 4: element formats, the lane tree, fp32 arithmetic, narrowing, Microscaling conversion and the random generator. -/

namespace Sys2Proof.Machine

/-! ## Formats (R109, R110) -/

/-- A floating format: exponent bits, mantissa bits, bias, largest finite code without its sign, whether codes above it hold an infinity, and the
canonical NaN (R110, R118). -/
structure FloatFmt where
  ebits : Nat
  mbits : Nat
  bias : Nat
  maxCode : Nat
  inf : Bool
  hasNan : Bool
  nan : Nat
  deriving DecidableEq, Repr

def fp32 : FloatFmt := { ebits := 8, mbits := 23, bias := 127, maxCode := 0x7F7FFFFF, inf := true, hasNan := true, nan := 0x7FC00000 }
def bf16 : FloatFmt := { ebits := 8, mbits := 7, bias := 127, maxCode := 0x7F7F, inf := true, hasNan := true, nan := 0x7FC0 }
def fp16 : FloatFmt := { ebits := 5, mbits := 10, bias := 15, maxCode := 0x7BFF, inf := true, hasNan := true, nan := 0x7E00 }
def e4m3 : FloatFmt := { ebits := 4, mbits := 3, bias := 7, maxCode := 0x7E, inf := false, hasNan := true, nan := 0x7F }
def e5m2 : FloatFmt := { ebits := 5, mbits := 2, bias := 15, maxCode := 0x7B, inf := true, hasNan := true, nan := 0x7F }
def e3m2 : FloatFmt := { ebits := 3, mbits := 2, bias := 3, maxCode := 0x1F, inf := false, hasNan := false, nan := 0 }
def e2m3 : FloatFmt := { ebits := 2, mbits := 3, bias := 1, maxCode := 0x1F, inf := false, hasNan := false, nan := 0 }
def e2m1 : FloatFmt := { ebits := 2, mbits := 1, bias := 1, maxCode := 0x7, inf := false, hasNan := false, nan := 0 }

/-- The floating format of a code; MXINT8 (code 8) and reserved codes have none (R109). -/
def floatOf : Nat → Option FloatFmt
  | 0 => some bf16
  | 1 => some fp16
  | 2 => some fp32
  | 4 => some e4m3
  | 5 => some e5m2
  | 6 => some e3m2
  | 7 => some e2m3
  | 9 => some e2m1
  | _ => none

/-- A format code that is not reserved (R109). -/
def fmtOk (f : Nat) : Bool := [0, 1, 2, 4, 5, 6, 7, 8, 9].contains f
/-- A Microscaling format (R109). -/
def isMx (f : Nat) : Bool := 4 ≤ f && f ≤ 9
/-- A format that an engine takes as operand: every one but fp32 (R109). -/
def isOperand (f : Nat) : Bool := fmtOk f && f != 2
/-- Bits that an element takes in storage (R109). -/
def elemBits (f : Nat) : Nat := if f = 2 then 32 else if f < 2 then 16 else if f = 9 then 4 else 8
/-- Lanes of a format's class: 4, 8 or 16 for 16-bit, 8-bit and 4-bit elements (R75). -/
def lanesOf (f : Nat) : Nat := if f < 2 then 4 else if f = 9 then 16 else 8
/-- Two operand formats are of one lane class, so that one pass may mix them (R75, R109). -/
def sameClass (f g : Nat) : Bool := isOperand f && isOperand g && lanesOf f == lanesOf g

/-- A decoded element: NaN, an infinity with its sign, or ±m × 2^x. -/
inductive FV where
  | nan
  | inf (neg : Bool)
  | fin (neg : Bool) (m : Nat) (x : Int)
  deriving DecidableEq, Repr

/-- The value of a code of a floating format (R110, R113). -/
def decodeFloat (f : FloatFmt) (v : Nat) : FV :=
  let neg := bit v (f.ebits + f.mbits)
  let e := bits v f.mbits f.ebits
  let m := bits v 0 f.mbits
  let code := bits v 0 (f.ebits + f.mbits)
  if f.maxCode < code then (if f.inf && m == 0 then .inf neg else .nan)
  else if e = 0 then .fin neg m (1 - (f.bias : Int) - f.mbits)
  else .fin neg (m + 2 ^ f.mbits) ((e : Int) - f.bias - f.mbits)

/-- The value of an element code of a format, without its block scale (R110, R113). -/
def decodeElem (fmt v : Nat) : FV :=
  match floatOf fmt with
  | some f => decodeFloat f v
  | none => let i := toSigned 8 v; .fin (decide (i < 0)) i.natAbs (-6)

/-! ## Rounding -/

/-- Bits that a number takes. -/
def bitLen (m : Nat) : Nat := if m = 0 then 0 else Nat.log2 m + 1

/-- Nearest even, or stochastic with the 24-bit draw `r` (R119, R120). -/
inductive Round where
  | even
  | stochastic (r : Nat)
  deriving DecidableEq, Repr

/-- `m / 2^d` rounded: a tie goes to even; stochastic rounds up when r < floor(f × 2^24) (R119, R120). -/
def roundShift (mode : Round) (m d : Nat) : Nat :=
  let n := m / 2 ^ d
  let rem := m % 2 ^ d
  match mode with
  | .even => if 2 ^ d < 2 * rem ∨ (2 ^ d = 2 * rem ∧ n % 2 = 1) then n + 1 else n
  | .stochastic r => if r < rem * 2 ^ 24 / 2 ^ d then n + 1 else n

/-- The code without sign of m × 2^x rounded to a format, before overflow is looked at: codes rise with magnitude. -/
def magCode (f : FloatFmt) (mode : Round) (m : Nat) (x : Int) : Nat :=
  let qmin : Int := 1 - (f.bias : Int) - f.mbits
  let q : Int := max ((bitLen m : Int) + x - (f.mbits + 1 : Nat)) qmin
  let n := if q ≤ x then m * 2 ^ (x - q).toNat else roundShift mode m (q - x).toNat
  n + (q - qmin).toNat * 2 ^ f.mbits

/-- The code of ±m × 2^x in a format (R119): past the largest finite value an infinity, or that value with saturation on or with no
infinity in the format. -/
def encodeFloat (f : FloatFmt) (mode : Round) (sat : Bool) (neg : Bool) (m : Nat) (x : Int) : Nat :=
  let s := b2n neg * 2 ^ (f.ebits + f.mbits)
  if m = 0 then s
  else
    let c := magCode f mode m x
    if c ≤ f.maxCode then s + c
    else if sat || !f.inf then s + f.maxCode
    else s + (2 ^ f.ebits - 1) * 2 ^ f.mbits

/-- fp32 code of a value, rounded to nearest even (R114). -/
def toFp32 : FV → Nat
  | .nan => 0x7FC00000
  | .inf neg => b2n neg * 2 ^ 31 + 0x7F800000
  | .fin neg m x => encodeFloat fp32 .even false neg m x

def ofFp32 (v : Nat) : FV := decodeFloat fp32 v

/-- A narrowing conversion to bf16 or fp16 (R119); to fp32 it changes nothing. -/
def narrow (fmt : Nat) (mode : Round) (sat : Bool) (v : Nat) : Nat :=
  if fmt = 2 then v
  else match floatOf fmt with
    | none => 0
    | some f => match ofFp32 v with
      | .nan => f.nan
      | .inf neg => b2n neg * 2 ^ (f.ebits + f.mbits) + (2 ^ f.ebits - 1) * 2 ^ f.mbits
      | .fin neg m x => encodeFloat f mode sat neg m x

/-- An element widened to fp32 (R117): a scale of 0xFF, and a NaN, widen to the canonical NaN. -/
def widen (fmt scale v : Nat) : Nat :=
  if isMx fmt && scale == 0xFF then 0x7FC00000
  else match decodeElem fmt v with
    | .nan => 0x7FC00000
    | .inf neg => toFp32 (.inf neg)
    | .fin neg m x => toFp32 (.fin neg m (if isMx fmt then x + scale - 127 else x))

/-! ## fp32 arithmetic (R115, R117) -/

/-- The signed significand of m × 2^x at the exponent y ≤ x. -/
def atExp (neg : Bool) (m : Nat) (x y : Int) : Int :=
  let v : Int := (m * 2 ^ (x - y).toNat : Nat)
  if neg then -v else v

/-- The fp32 sum of two values, rounded once to nearest even (R115). -/
def addFV : FV → FV → Nat
  | .nan, _ => 0x7FC00000
  | _, .nan => 0x7FC00000
  | .inf a, .inf b => if a = b then toFp32 (.inf a) else 0x7FC00000
  | .inf a, _ => toFp32 (.inf a)
  | _, .inf b => toFp32 (.inf b)
  | .fin a m x, .fin b n y =>
    if m = 0 ∧ n = 0 then b2n (a && b) * 2 ^ 31
    else
      let e := min x y
      let s := atExp a m x e + atExp b n y e
      if s = 0 then 0 else toFp32 (.fin (decide (s < 0)) s.natAbs e)

/-- fp32_add (R115). -/
def fp32Add (a b : Nat) : Nat := addFV (ofFp32 a) (ofFp32 b)

/-- The sign changed. -/
def fp32Neg (a : Nat) : Nat := if a < 2 ^ 31 then a + 2 ^ 31 else a - 2 ^ 31
def fp32Sub (a b : Nat) : Nat := fp32Add a (fp32Neg b)

/-- The exact product of two values; one with a zero operand and a finite partner is +0 (R117). -/
def mulFV : FV → FV → FV
  | .nan, _ => .nan
  | _, .nan => .nan
  | .inf a, .inf b => .inf (xor a b)
  | .inf a, .fin b n _ => if n = 0 then .nan else .inf (xor a b)
  | .fin a m _, .inf b => if m = 0 then .nan else .inf (xor a b)
  | .fin a m x, .fin b n y => if m = 0 ∨ n = 0 then .fin false 0 0 else .fin (xor a b) (m * n) (x + y)

def fp32Mul (a b : Nat) : Nat := toFp32 (mulFV (ofFp32 a) (ofFp32 b))
/-- X × Y + Z with one rounding (R117). -/
def fp32Fma (a b c : Nat) : Nat := addFV (mulFV (ofFp32 a) (ofFp32 b)) (ofFp32 c)

/-- A total order of the codes that are no NaN, with −0 below +0. -/
def fp32Key (a : Nat) : Int := if a < 2 ^ 31 then (a : Int) else -(((a - 2 ^ 31 : Nat) : Int) + 1)

def isNan32 (a : Nat) : Bool := ofFp32 a == .nan
def fp32Max (a b : Nat) : Nat := if isNan32 a || isNan32 b then 0x7FC00000 else if fp32Key a < fp32Key b then b else a
def fp32Min (a b : Nat) : Nat := if isNan32 a || isNan32 b then 0x7FC00000 else if fp32Key b < fp32Key a then b else a

/-! ## The lane tree (R113) -/

/-- Product of significands and exponents of two finite lane operands. -/
structure LaneProd where
  neg : Bool
  m : Nat
  x : Int
  deriving DecidableEq, Repr

/-- Some operand is a NaN. -/
def lanesNan (l : List (FV × FV)) : Bool := l.any fun p => p.1 == .nan || p.2 == .nan

/-- An infinite operand. -/
def isInf : FV → Bool
  | .inf _ => true
  | _ => false
/-- A zero operand. -/
def isZero : FV → Bool
  | .fin _ m _ => m == 0
  | _ => false

/-- The infinite products of the lanes, by sign. -/
def lanesInf (l : List (FV × FV)) (neg : Bool) : Bool := l.any fun p => mulFV p.1 p.2 == .inf neg

/-- The live lanes: those whose significand product is not zero. -/
def liveLanes (l : List (FV × FV)) : List LaneProd :=
  l.filterMap fun p => match p with
    | (.fin a m x, .fin b n y) => if m * n = 0 then none else some { neg := xor a b, m := m * n, x := x + y }
    | _ => none

/-- A product aligned 48 bits below the top of the largest, what lies below cut off toward zero in magnitude. -/
def alignLane (top : Int) (p : LaneProd) : Int :=
  let sh := p.x - top + 48
  let q : Nat := if 0 ≤ sh then p.m * 2 ^ sh.toNat else p.m / 2 ^ (-sh).toNat
  if p.neg then -(q : Int) else q

/-- A cell's contribution of one step (R113), the lanes decoded. -/
def laneTree (l : List (FV × FV)) (sa sb : Nat) : Nat :=
  if lanesNan l || sa == 0xFF || sb == 0xFF then 0x7FC00000
  else if l.any fun p => (isInf p.1 && isZero p.2) || (isZero p.1 && isInf p.2) then 0x7FC00000
  else if lanesInf l false && lanesInf l true then 0x7FC00000
  else if lanesInf l false then toFp32 (.inf false)
  else if lanesInf l true then toFp32 (.inf true)
  else match liveLanes l with
    | [] => 0
    | p :: t =>
      let top : Int := t.foldl (fun (a : Int) q => max a (q.x + (bitLen q.m : Nat))) (p.x + (bitLen p.m : Nat))
      let s := ((p :: t).map (alignLane top)).sum
      if s = 0 then 0 else toFp32 (.fin (decide (s < 0)) s.natAbs (top - 48 + sa + sb - 254))

/-- One level of the column tree: neighbours added (R116). -/
def pairAdd : List Nat → List Nat
  | a :: b :: t => fp32Add a b :: pairAdd t
  | l => l

/-- The column tree over 2^n values (R116). -/
def columnTree : Nat → List Nat → Nat
  | 0, l => l.headD 0
  | n + 1, l => columnTree n (pairAdd l)

/-! ## Microscaling conversion (R121) -/

/-- emax of a Microscaling format (R121). -/
def emax (f : Nat) : Int := match f with | 4 => 8 | 5 => 15 | 6 => 4 | 7 => 2 | 9 => 2 | _ => 0

/-- Floor of log2 of the magnitude of a finite fp32 code that is not zero. -/
def log2Mag (v : Nat) : Option Int := match ofFp32 v with | .fin _ m x => if m = 0 then none else some ((bitLen m : Int) - 1 + x) | _ => none

/-- v × 2^(−X) rounded to a Microscaling element, always saturated (R121 step 4). -/
def mxElem (f : Nat) (x : Int) (v : Nat) : Nat :=
  match ofFp32 v with
  | .fin neg m e =>
    match floatOf f with
    | some g => encodeFloat g .even true neg m (e - x)
    | none =>
      let sh := e - x + 6
      let q := if 0 ≤ sh then m * 2 ^ sh.toNat else roundShift .even m (-sh).toNat
      if neg then ofSigned 8 (-(min 128 q : Nat)) else min 127 q
  | _ => 0

/-- A block of fp32 codes converted: its scale and its elements (R121). -/
def mxBlock (f : Nat) (l : List Nat) : Nat × List Nat :=
  if l.any fun v => match ofFp32 v with | .fin _ _ _ => false | _ => true then (0xFF, l.map fun _ => 0)
  else match l.filterMap log2Mag with
    | [] => (0, l.map fun _ => 0)
    | e :: t =>
      let x := max (-127) (min 127 (t.foldl max e - emax f))
      ((x + 127).toNat, l.map (mxElem f x))

/-! ## The generator (R122 to R125) -/

def genW1 : Word := 0x5A3C96E12D7B48F5
def genW2 : Word := 0xB14F0C8A73D5E269
def genM1 : Word := 0xC2B54A6E3F19D0A7
def genM2 : Word := 0x8E4D1F73B6A25C39

def genMix (v : Word) : Word :=
  let v := v ^^^ (v >>> 31)
  let v := v * genM1
  let v := v ^^^ (v >>> 29)
  let v := v * genM2
  v ^^^ (v >>> 32)

/-- The four rounds: k and a. -/
def genRounds : Nat → Word → Word → Word → Word × Word
  | 0, k, _, a => (k, a)
  | n + 1, k, s, a => genRounds n (k + genW1) s (genMix (a ^^^ s) + k)

/-- The four words of a draw (R122). -/
def genDraw (seed stream counter : Word) : List (BitVec 32) :=
  let k := genMix (seed + genW1)
  let s := genMix (k ^^^ (stream * genW2))
  let a := (genRounds 4 k s counter).2
  let b := genMix (a + s + genW2)
  [a.extractLsb' 0 32, a.extractLsb' 32 32, b.extractLsb' 0 32, b.extractLsb' 32 32]

/-- The stream id (R123): purpose, unit, logical core number, field. -/
def streamId (purpose unit core field : Nat) : Word :=
  BitVec.ofNat 64 (purpose * 2 ^ 56 + unit * 2 ^ 48 + core % 2 ^ 16 * 2 ^ 32 + field % 2 ^ 32)

/-- The word of element `x` (R124). -/
def genWord (seed stream c0 : Word) (x : Nat) : Nat :=
  ((genDraw seed stream (c0 + BitVec.ofNat 64 (x / 4))).getD (x % 4) 0).toNat

/-- Bits [31:8] of a generator word (R125). -/
def draw24 (w : Nat) : Nat := w / 256

end Sys2Proof.Machine
end

