-- ==== Sys2Proof/Machine/Mesh.lean ====
section
/-! DEFINITION. The joist mesh (R22 to R26): the place of each die, the path of a message, and the way round a router that has failed. -/

namespace Sys2Proof.Machine

/-- The die at each mesh coordinate, row by row (R22). -/
def meshDies : List Nat :=
  [98, 68, 88, 80, 16, 69, 81, 89, 70, 96] ++ ([79] ++ (List.range 8) ++ [71]) ++ ([95] ++ (List.range 8).map (8 + ·) ++ [90]) ++
  ([87] ++ (List.range 8).map (17 + ·) ++ [82]) ++ ([78] ++ (List.range 9).map (25 + ·)) ++ ([67] ++ (List.range 8).map (34 + ·) ++ [72]) ++
  ([86] ++ (List.range 8).map (42 + ·) ++ [83]) ++ ([94] ++ (List.range 8).map (51 + ·) ++ [91]) ++ ([77] ++ (List.range 8).map (59 + ·) ++ [73]) ++
  [97, 76, 93, 85, 75, 50, 84, 92, 74, 99]

/-- The place of a die: x and y (R22). -/
def meshX (d : Nat) : Nat := (meshDies.idxOf? d).getD 0 % 10
def meshY (d : Nat) : Nat := (meshDies.idxOf? d).getD 0 / 10

/-- The die at a place. -/
def dieAt (x y : Nat) : Nat := meshDies.getD (10 * y + x) 0

/-- The dies next to a die in x or y (R23). -/
def meshNext (d : Nat) : List Nat :=
  dieList.filter fun e => (meshX d = meshX e && (meshY d = meshY e + 1 || meshY e = meshY d + 1)) ||
    (meshY d = meshY e && (meshX d = meshX e + 1 || meshX e = meshX d + 1))

/-- Mesh hops between two dies (R25): along x, then along y. -/
def meshHops (a b : Nat) : Nat :=
  (max (meshX a) (meshX b) - min (meshX a) (meshX b)) + (max (meshY a) (meshY b) - min (meshY a) (meshY b))

/-- The places from `a` to `b` along one line, both ends included. -/
def stretchOf (a b : Nat) : List Nat :=
  if a ≤ b then (List.range (b - a + 1)).map (a + ·) else (List.range (a - b + 1)).map (a - ·)

/-- The dies of the path along x first, and along y first, both ends included. -/
def pathX (a b : Nat) : List Nat :=
  (stretchOf (meshX a) (meshX b)).map (fun x => dieAt x (meshY a)) ++ ((stretchOf (meshY a) (meshY b)).drop 1).map fun y => dieAt (meshX b) y
def pathY (a b : Nat) : List Nat :=
  (stretchOf (meshY a) (meshY b)).map (fun y => dieAt (meshX a) y) ++ ((stretchOf (meshX a) (meshX b)).drop 1).map fun x => dieAt x (meshY b)

/-- The path by way of one column, and by way of one row: along x or y to it, along it, and back to the other end. -/
def pathByCol (x a b : Nat) : List Nat := pathX a (dieAt x (meshY a)) ++ (pathY (dieAt x (meshY a)) (dieAt x (meshY b))).drop 1 ++ (pathX (dieAt x (meshY b)) b).drop 1
def pathByRow (y a b : Nat) : List Nat := pathY a (dieAt (meshX a) y) ++ (pathX (dieAt (meshX a) y) (dieAt (meshX b) y)).drop 1 ++ (pathY (dieAt (meshX b) y) b).drop 1

/-- The numbers from 0 to 9 by their distance from `a`, the higher first. -/
def outward (a : Nat) : List Nat := sortBy (fun p q => decide (max p a - min p a ≤ max q a - min q a)) ((List.range 10).reverse)

/-- The ways from `a` to `b` that the routers try, in order: x first, y first, and then by way of a row or a column aside, the nearest first. R26 gives the
way round one failed router, which these are at most 2 hops longer for; where several routers have failed the first way that is free is taken (DESIGN
CHOICE, log entry 105). -/
def meshWays (a b : Nat) : List (List Nat) :=
  [pathX a b, pathY a b] ++ (outward (meshY a)).map (fun y => pathByRow y a b) ++ (outward (meshX a)).map fun x => pathByCol x a b

/-- A router beside a die of the path holds a detour round this router (R26). -/
def State.detoured (s : State) (d : Nat) : Bool := (meshNext d).any fun e => (s.die e).detours.contains d

/-- The path of a message (R25): x first; where that crosses a router that has failed, the first way round it by the detour entries of the routers
beside it (R26). -/
def State.meshPath (s : State) (a b : Nat) : List Nat :=
  if !((pathX a b).any s.detoured) then pathX a b
  else ((meshWays a b).find? fun p => !p.any s.detoured).getD (pathX a b)

/-- A message is delivered: no router of its path, its two ends among them, is marked failed (R26). -/
def State.reaches (s : State) (a b : Nat) : Bool := a == b || (s.meshPath a b).all fun d => !s.inv.routers.contains d

/-- The keeper loads detour entries for a failed router into the routers beside it (R26). -/
def State.loadDetours (s : State) (d : Nat) : State :=
  each (meshNext d) s fun s e => s.modDie e fun x => { x with detours := addTo x.detours d }

/-- The bound of a mesh path of `n` hops in ns; while any router is marked failed, that of a detoured path (R24, R26). -/
def State.meshBound (s : State) (n : Nat) : Nat := if s.inv.routers.isEmpty then 30 + 12 * n else 270

/-- A compute die stands at OP0: a mesh request to its cores waits (R51). -/
def State.atOp0 (s : State) (d : Nat) : Bool := isCompute d && (s.die d).curOp == 0

end Sys2Proof.Machine
end

