-- ==== Sys2Proof/Machine/Tallies.lean ====
section
/-! DEFINITION. Chapter 10, and the links of chapter 11: tallies, the one operation that applies to a tally, link slots and their guards,
event signals. -/

namespace Sys2Proof.Machine

/-! ## Naming a tally -/

/-- The map entry of a virtual id (R292). -/
def findTally (l : Launch) (vid : Nat) : Option TallyEntry := l.tallies.find? fun e => e.vid == vid

/-- Home of a KIND 0 tally is its core; a ring-stop tally's home is 1000 + its die. -/
def ringHome (d : Nat) : Nat := 1000 + d

/-- The physical index of a ring-stop tally (R291). -/
def ringIndex (kind slot : Nat) : Nat := 48 + 3 * slot + kind - 1

/-- Where a map entry leads from a core of the context (R295): a KIND 1 to 3 entry names the tally of the core's own die. -/
def State.tallyHome (s : State) (e : TallyEntry) (die : Nat) : Option (Nat × Nat) :=
  if e.kind = 0 then (s.coreOf e.core).map fun c => (c, e.index) else some (ringHome die, ringIndex e.kind e.index)

/-- The uses that R296 permits of a tally kind. -/
def tallyUse (kind : Nat) (a : TallyAct) : Bool :=
  match kind, a with
  | 0, _ => true
  | 1, .inc => false
  | 1, _ => true
  | 2, .inc => true
  | 2, _ => false
  | 3, .inc => false
  | 3, _ => true
  | _, _ => false

/-- The die of a tally's home. -/
def homeDie (home : Nat) : Nat := if home < 1000 then home / 4 else home - 1000

def State.tally (s : State) (home i : Nat) : Tally :=
  if home < 1000 then tabGet {} (s.core home).tallies i else tabGet {} (s.die (home - 1000)).ringTallies i

def State.setTally (s : State) (home i : Nat) (t : Tally) : State :=
  if home < 1000 then s.modCore home fun c => { c with tallies := tabSet c.tallies i t }
  else s.modDie (home - 1000) fun d => { d with ringTallies := tabSet d.ringTallies i t }

/-- The launch of a context. -/
def State.launchOf (s : State) (c : Nat) : Option Launch := (s.ctx? c).bind (·.launch)

/-- The launch of a context runs in scheduled mode. -/
def State.schedCtx (s : State) (c : Nat) : Bool := ((s.launchOf c).map (·.scheduled)).getD false

/-- Update the launch of a context. -/
def State.modLaunch (s : State) (c : Nat) (f : Launch → Launch) : State :=
  s.modCtx c fun x => { x with launch := x.launch.map f }

/-! ## Slot guards (R333, R334) -/

/-- F_SLOT_GUARD: unit, cause, the link, slot or generation (2 bytes), the slot or block index, and the rest as the cause has it. -/
def State.slotGuard (s : State) (die core unit cause c id idx : Nat) (tail : List Byte) : State :=
  s.raise die fSlotGuard [c] (le 1 core ++ le 1 unit ++ le 1 cause ++ le 2 id ++ le 4 idx ++ tail)

/-- The link whose full tally, or whose empty tally, is this virtual id (R330). -/
def linkOfFull (l : Launch) (vid : Nat) : Option Link := l.links.find? fun k => k.fullVid == vid
def linkOfEmpty (l : Launch) (vid : Nat) : Option Link := l.links.find? fun k => k.emptyVid == vid

/-- A virtual id is a link's full or empty tally. -/
def isLinkVid (l : Launch) (vid : Nat) : Bool := (linkOfFull l vid).isSome || (linkOfEmpty l vid).isSome

/-- The slots that an INC of `n` marks from a pointer: as many as the link has, at most. -/
def slotRun (k : Link) (start n : Nat) : List Nat := (List.range (min n k.depth)).map fun i => (start + i) % k.depth

/-- An INC of `n` on FULL_VID would mark a FILLED slot (R333 cause 3). -/
def fillBlocked (k : Link) (n : Nat) : Bool := k.depth < n || (slotRun k k.fill n).any k.filled.contains
/-- An INC of `n` on EMPTY_VID would mark an EMPTY slot (R333 cause 3). -/
def drainBlocked (k : Link) (n : Nat) : Bool := k.depth < n || (slotRun k k.drain n).any fun i => !k.filled.contains i

/-- The fill: `n` slots from the fill pointer become FILLED and the pointer advances (R332). -/
def linkFill (k : Link) (n : Nat) : Link :=
  { k with filled := (slotRun k k.fill n).foldl addTo k.filled, fill := (k.fill + n) % k.depth }
/-- The drain: `n` slots from the drain pointer become EMPTY and the pointer advances (R332). -/
def linkDrain (k : Link) (n : Nat) : Link :=
  { k with filled := k.filled.filter fun i => !(slotRun k k.drain n).contains i, drain := (k.drain + n) % k.depth }

/-- Replace the link of the same id. -/
def putLink (l : Launch) (k : Link) : Launch := { l with links := l.links.map fun x => if x.id = k.id then k else x }

/-! ## The operation (R297, R298, R302) -/

/-- The source of a tally fault: kind byte and identifier (R302). -/
def srcBytes : TallySrc → List Byte
  | .core lc => le 1 0 ++ le 4 lc
  | .hostQueue p q => le 1 1 ++ le 4 (p * 65536 + q)
  | .ringStop ld => le 1 2 ++ le 4 ld
  | .fabric pkg => le 1 3 ++ le 4 pkg
  | .keeper => le 1 0xFF ++ le 4 0

/-- The operation code of a record: the score's own codes (R166). -/
def actCode : TallyAct → Nat
  | .wait => 1
  | .waitdec => 2
  | .inc => 3
  | .dec => 4
  | .set => 0

/-- The job of a context has had its one record for a tally (R302): it lasts through the job's launches. -/
def State.tallyTold (s : State) (c : Nat) (t : Nat × Nat) : Bool := (s.jobCtxs (s.ctx c).job).any fun k => (s.ctx k).talliesTold.contains t

/-- A tally fault: the first on each tally of the job makes a record, later ones are counted (R302). -/
def State.tallyFault (s : State) (m : TallyMsg) (code value : Nat) : State :=
  let d := homeDie m.home
  if s.tallyTold m.ctx (m.home, m.index) then
    if m.home < 1000 then s.modCore m.home fun c => { c with errTally := stick 16 (c.errTally + 1) }
    else s.modDie d fun x => { x with errRing := stick 16 (x.errRing + 1) }
  else
    (s.modCtx m.ctx fun x => { x with talliesTold := x.talliesTold ++ [(m.home, m.index)] }).raise d code [m.ctx]
      (le 1 (if m.home < 1000 then m.home % 4 else 0xFD) ++ le 1 m.index ++ le 2 m.vid ++ srcBytes m.src ++ le 1 (actCode m.act)
        ++ le 4 m.n ++ le 4 value)

/-- The registered waits that a value satisfies, in order of arrival: the waits left, the value left, and the cores satisfied (R298). -/
def runWaits : List WaitReg → Nat → List WaitReg × Nat × List Nat
  | [], v => ([], v, [])
  | w :: t, v =>
    if w.n ≤ v then
      let r := runWaits t (if w.dec then v - w.n else v)
      (r.1, r.2.1, w.core :: r.2.2)
    else
      let r := runWaits t v
      (w :: r.1, r.2.1, r.2.2)

/-- The satisfaction of a wait leaves for its core (R300). -/
def State.satisfy (s : State) (c : Nat) : State := s.modCore c fun x => { x with wait := .satisfied }

/-- A value that rises is put in place and the registered waits are checked (R298). -/
def State.raiseTally (s : State) (home i v : Nat) : State :=
  let t := s.tally home i
  let r := runWaits t.waits v
  each r.2.2 (s.setTally home i { t with waits := r.1, value := BitVec.ofNat 32 r.2.1 }) State.satisfy

/-- The value that an INC leaves: it saturates (R297). -/
def incValue (v n : Nat) : Nat := min (2 ^ 32 - 1) (v + n)

/-- INC at the tally (R297), with the fault of R302 where the sum passes 2^32 − 1. -/
def State.tallyInc (s : State) (m : TallyMsg) : State :=
  let v := (s.tally m.home m.index).value.toNat
  if v + m.n < 2 ^ 32 then s.raiseTally m.home m.index (v + m.n)
  else (s.tallyFault m fTallyOverflow v).raiseTally m.home m.index (2 ^ 32 - 1)

/-- DEC at the tally (R297): below zero nothing changes and R302's fault follows. -/
def State.tallyDec (s : State) (m : TallyMsg) : State :=
  let t := s.tally m.home m.index
  let v := t.value.toNat
  if m.n ≤ v then s.setTally m.home m.index { t with value := BitVec.ofNat 32 (v - m.n) }
  else s.tallyFault m fTallyUnderflow v

/-- A wait reaches its tally: satisfied, a guard violation on a link tally in scheduled mode (R333 cause 4), registered, or turned away while
eight waits stand (R299). -/
def State.tallyWait (s : State) (m : TallyMsg) : State :=
  let t := s.tally m.home m.index
  let v := t.value.toNat
  let dec := m.act == .waitdec
  if m.n ≤ v then
    (if dec then s.setTally m.home m.index { t with value := BitVec.ofNat 32 (v - m.n) } else s).satisfy m.core
  else if s.schedCtx m.ctx && ((s.launchOf m.ctx).map fun l => isLinkVid l m.vid).getD false then
    let id := ((s.launchOf m.ctx).bind fun l => (linkOfFull l m.vid).orElse fun _ => linkOfEmpty l m.vid).map (·.id)
    s.slotGuard (m.core / 4) (m.core % 4) 4 4 m.ctx (id.getD 0) 0 (le 4 m.beat)
  else if t.waits.length < 8 then
    (s.setTally m.home m.index { t with waits := t.waits ++ [{ core := m.core, n := m.n, dec := dec }] }).modCore m.core
      fun c => { c with wait := .registered }
  else s.modCore m.core fun c => { c with wait := .retry }

/-- An INC that marks link slots when it becomes visible: on FULL_VID, whatever its source (R332); in scheduled mode one that would mark a
FILLED slot is met at the consumer's die and no part of it is applied (R334). -/
def State.incWithLink (s : State) (m : TallyMsg) : State :=
  match (s.launchOf m.ctx).bind fun l => linkOfFull l m.vid with
  | none => s.tallyInc m
  | some k =>
    if s.schedCtx m.ctx && fillBlocked k m.n then
      let prod := match m.src with | .core lc => lc | _ => 0xFFFFFFFF
      s.slotGuard (homeDie m.home) (m.home % 4) 4 3 m.ctx k.id k.fill (le 4 prod ++ le 4 m.beat)
    else (s.modLaunch m.ctx fun l => putLink l (linkFill k m.n)).tallyInc m

/-- A tally operation at its tally (R297). -/
def State.applyTally (s : State) (m : TallyMsg) : State :=
  match m.act with
  | .wait => s.tallyWait m
  | .waitdec => s.tallyWait m
  | .inc => s.incWithLink m
  | .dec => s.tallyDec m
  | .set => s.raiseTally m.home m.index m.n

/-- A unit of a core has completed an operation: its progress flag, and the count of the context's last one (R317, R319). -/
def State.progressed (s : State) (c : Nat) : State :=
  (s.modCore c fun x => { x with progress := true }).modCtx ((s.core c).ctx.getD noCtx) fun k =>
    { k with stock := { k.stock with lastOp := s.kcount, progress := true } }

/-- A context's operations are no longer taken: it is quenched, or has no launch (R301). -/
def State.quenchedCtx (s : State) (c : Nat) : Bool := (s.ctx c).quenchOrdered || (s.launchOf c).isNone

/-- The command that waits for a message has its outcome, where it still stands at the head of its queue: the SIGNAL_TALLY whose INC became visible (R307,
R388), or the TALLY_FORCE whose set has applied (R312). -/
def messageDone (serial : Nat) (o : Done) (x : Queue) : Queue :=
  match x.cmds with
  | p :: t => if p.serial = serial then { x with cmds := { p with outcome := some (p.outcome.getD o) } :: t } else x
  | [] => x

/-- A force's ledger entry (R312, R562), by log entry 88: the target, the mode, and the old and new value or the unit whose operation was aborted. -/
def State.noteForce (s : State) (c : Nat) (target : List Byte) (mode : Nat) (what : List Byte) : State :=
  s.note s.serviceDie 0x07 312 c (target ++ le 1 mode ++ what)

/-- GO of the register whose force has completed reads 0 again, with its RESULT (R314, R509). -/
def State.regDone (s : State) (r : Option Nat) (result : Nat) : State := match r with
  | some 2 => { s with dgGo := false }
  | some i => s.modHatch i fun h => { h with go := false, result := result }
  | none => s

/-- What waits for a forced set has its answer: the TALLY_FORCE, or the register. -/
def State.forceDone (s : State) (m : TallyMsg) (o : Done) (result : Nat) : State :=
  (match m.result with | some q => s.modQueue q (messageDone m.serial o) | none => s).regDone m.reg result

/-- Mode 0 of a force at its tally: the tally takes the value and its waits are checked, and RESULT is the value it held (R312). -/
def State.forceArrive (s : State) (m : TallyMsg) : State :=
  let old := (s.tally m.home m.index).value.toNat
  ((((s.raiseTally m.home m.index m.n).modCtx m.ctx fun x => { x with tallyForced := true }).noteForce m.ctx
    (le 2 m.vid ++ le 1 (if m.home < 1000 then 0xFF else (s.logicalDie (m.home - 1000)).getD 0xFF)) 0 (le 4 old ++ le 4 m.n))).forceDone m { result := old } 0

/-- A tally message that waits: its tally's die stands at OP0 (R51; a ring-stop tally stands on VDD_SRAM, at every point, R47), or no path leads there from
its source (R26). -/
def State.tallyHeld (s : State) (m : TallyMsg) : Bool :=
  (m.home < 1000 && s.atOp0 (homeDie m.home)) || !s.reaches (m.rank / 4) (homeDie m.home)

/-- Two messages go from one source to one tally: they arrive in the order in which they left (R305). -/
def samePath (a b : TallyMsg) : Bool := a.src == b.src && a.rank == b.rank && a.home == b.home && a.index == b.index

/-- Of the messages in flight that an instant brings, by their places: those that an earlier message on the same path is not still ahead of, and that do
not wait at their tally's die. -/
def State.arriving (s : State) (l : List Nat) : List Nat :=
  (l.foldl addTo []).filter fun i => match s.tallyMsgs[i]? with
    | none => false
    | some m => !s.tallyHeld m && (List.range i).all fun j => l.contains j || !((s.tallyMsgs[j]?).map (samePath m)).getD false

/-- The messages at some places of a list, in their order there, and the list without them. -/
def takeAt (l : List TallyMsg) (is : List Nat) : List TallyMsg × List TallyMsg :=
  let p := l.zipIdx.partition fun e => is.contains e.2
  (p.1.map (·.1), p.2.map (·.1))

/-- One answer less for the mover operation at the head of a core's queue (R444). -/
def State.answered (s : State) (c : Nat) : State :=
  if isCore c then s.modCore c fun x => match x.mover with
    | e :: t => { x with mover := { e with waitAcks := e.waitAcks - 1 } :: t }
    | [] => x
  else s

/-- One message at its tally; one to a quenched context is discarded (R301), and a force of one is refused (R312). -/
def State.arriveOne (s : State) (m : TallyMsg) : State :=
  let s := if m.mover && !m.dead then s.answered m.core else s
  let gone := m.dead || s.quenchedCtx m.ctx
  if m.act == .set then (if gone then s.forceDone m { status := 1 } 2 else s.forceArrive m)
  else
    let s := match m.result with
      | some q => s.modQueue q (messageDone m.serial {})
      | none => s
    if gone then s else s.applyTally m

/-- The place of a message among those of its instant: by its source, forces last (R298). -/
def arriveRank (m : TallyMsg) : Nat := m.rank + if m.act == .set then 1000 else 0

/-- TALLY_MESSAGE_ARRIVE: the messages at `places` of those in flight reach their tallies at one instant, and apply one at a time in the order of R298:
ascending source die, and within it core order. -/
def tallyMessageArrive (places : List Nat) (s : State) : State :=
  let r := takeAt s.tallyMsgs (s.arriving places)
  each (sortBy (fun a b => decide (arriveRank a ≤ arriveRank b)) r.1) { s with tallyMsgs := r.2 } State.arriveOne

def execTallyMessageArrive (places : List Nat) (s : State) : Out := need true (tallyMessageArrive places s)

/-- WAIT_SATISFACTION_ARRIVE: the satisfaction reaches the issuing core, whose bundle may now be released (R300). -/
def waitSatisfactionArrive (c : Nat) (s : State) : State :=
  if (s.core c).wait = .satisfied then s.modCore c fun x => { x with wait := .granted } else s

def execWaitSatisfactionArrive (core : Nat) (s : State) : Out := need (isCore core) (waitSatisfactionArrive core s)

/-! ## Events (R308 to R310) -/

/-- The address of event `i` of a context (R308). -/
def eventAddr (x : Context) (i : Nat) : Nat := x.eventTable + 32 * i

/-- A handle table entry as the front end reads it (R377): base, size, kind, exact, read-only. -/
structure HandleEntry where
  base : Nat
  size : Nat
  kind : Nat
  exact : Bool
  readOnly : Bool
  deriving DecidableEq, Repr

/-- Entry `h` of a context's handle table in host memory (R377, R379). -/
def State.handle (s : State) (x : Context) (h : Nat) : HandleEntry :=
  let e := s.hostRead x.port 0 (x.handleTable + 32 * (h - 1)) 32
  { base := fieldAt e 0 8, size := fieldAt e 8 8, kind := fieldAt e 16 1, exact := bit (fieldAt e 17 1) 0, readOnly := bit (fieldAt e 17 1) 1 }

/-- A range of host memory lies within a buffer that the context's handle table maps (R310). -/
def State.hostMapped (s : State) (x : Context) (a n : Nat) : Bool :=
  (List.range x.handles).any fun i => let h := s.handle x (i + 1); h.kind == 1 && within a n h.base h.size

/-- A WAIT_EVENT at the head of a queue whose event has come to its target is done, with the SEQ as its RESULT (R311, R388). -/
def waitDone (event seq : Nat) (x : Queue) : Queue :=
  match x.cmds with
  | p :: t =>
    match p.cmd with
    | .waitEvent e v => if e = event ∧ v.toNat ≤ seq ∧ p.taken ∧ p.outcome.isNone then { x with cmds := { p with outcome := some { result := seq } } :: t } else x
    | _ => x
  | [] => x

/-- Signal event `i` of a context with `n` (R309): SEQ and STAMP, then the mirror record, then the vector. -/
def State.signalEvent (s : State) (c i n at_ : Nat) : State :=
  let x := s.ctx c
  let a := eventAddr x i
  let seq := (readLe s.mem a 8 + n) % 2 ^ 64
  let s := s.store a (le 8 seq ++ le 8 at_)
  let mirror := readLe s.mem (a + 16) 8
  let vector := clampVector (readLe s.mem (a + 24) 2)
  let flags := readLe s.mem (a + 26) 1
  let port := b2n (bit flags 2)
  let s :=
    if bit flags 0 && mirror != 0 && s.hostMapped x mirror 16 then
      (if (s.hp port).up then s.dmaWrite c port mirror (le 8 seq ++ le 8 at_) else s.countDoorbell (1 - port))
    else s
  let s := if bit flags 1 then s.raiseVector port vector else s
  each (s.ctxQueues c) s fun s q => s.modQueue q (waitDone i seq)

end Sys2Proof.Machine
end

