-- ==== Sys2Proof/Machine/Operands.lean ====
section
/-! DEFINITION. Every operand form: local addresses and the regions a unit may reach (R38 to R43, R152, R161, R175 to R187), the protection code
of shelves and lofts, streams and lines (R98 to R102), and the bundle with its slots (R136, R149 to R169) as the issue unit decodes it. -/

namespace Sys2Proof.Machine

/-! ## The local address map (R38, R39) -/

def cellarBase : Nat := 0
def larderBase : Nat := 0x100000000000
def computeBase : Nat := 0x200000000000
def windowBase : Nat := 0x300000000000
def dieWindow : Nat := 0x10000000
def shelfBytes : Nat := 25165824
def loftBytes : Nat := 50331648
def shelfPitch : Nat := 0x2000000
def loftOffset : Nat := 0x8000000

/-- What a local address names. -/
inductive Loc where
  | cellar (a : Nat)
  | larder (a : Nat)
  | shelf (core off : Nat)
  | loft (die off : Nat)
  | window
  | unmapped
  deriving DecidableEq, Repr

/-- First cellar address that is not mapped: (1,048,576 − SPARE) × 3 MiB (R269). -/
def State.cellarLimit (s : State) : Nat := (1048576 - s.spareFrames) * 3145728

/-- What a range of `n` bytes from local address `a` names; a range that is not wholly within one mapped range is unmapped (R42). -/
def State.locate (s : State) (a n : Nat) : Loc :=
  let n := max n 1
  if a < windowBase + 100 * 0x1000000 && windowBase < a + n then .window
  else if a + n ≤ s.cellarLimit then .cellar a
  else if larderBase ≤ a && a + n ≤ larderBase + 0x8000000000 then .larder a
  else if computeBase ≤ a && a + n ≤ computeBase + 64 * dieWindow then
    let off := (a - computeBase) % dieWindow
    let d := s.physDie ((a - computeBase) / dieWindow)
    if off < loftOffset then
      match (s.dieCores d)[off / shelfPitch]? with
      | some c => if off % shelfPitch + n ≤ shelfBytes then .shelf c (off % shelfPitch) else .unmapped
      | none => .unmapped
    else if off - loftOffset + n ≤ loftBytes then .loft d (off - loftOffset) else .unmapped
  else .unmapped

/-- Where the bytes of a shelf, and of a loft, stand in `mem`: by physical core and die. -/
def shelfKey (core off : Nat) : Nat := computeBase + core / 4 * dieWindow + core % 4 * shelfPitch + off
def loftKey (die off : Nat) : Nat := computeBase + die * dieWindow + loftOffset + off

/-- The local address of a stored byte, for records. -/
def State.localOf (s : State) (key : Nat) : Nat :=
  let d := (key - computeBase) / dieWindow
  let off := (key - computeBase) % dieWindow
  let base := computeBase + ((s.logicalDie d).getD 64) * dieWindow
  if off < loftOffset then base + ((s.coreSlot (4 * d + off / shelfPitch)).getD 4) * shelfPitch + off % shelfPitch else base + off

/-! ## Banks (R175, R176, R186, R187) -/

/-- The bank of a shelf row (R175), and of a loft row (R176). -/
def shelfBank (row : Nat) : Nat := row % 16 + 16 * (row / 12288)
def loftBank (row : Nat) : Nat := row % 64

/-- Rows that hold a core's score, from its score base (R134, R135). -/
def scoreRows (c : Core) : Nat := ceilDiv c.length 32

/-- A bank is enabled: by the mask, or because it holds score rows (R186). -/
def bankOn (c : Core) (row : Nat) : Bool :=
  c.bankMask.getLsbD (shelfBank row) || (List.range (scoreRows c)).any fun i => shelfBank (c.scoreRow + i) == shelfBank row

/-- Every row that a range of a shelf touches lies in an enabled bank (R187). -/
def banksOn (c : Core) (off n : Nat) : Bool :=
  c.bankMask == 0xFFFFFFFF || (List.range ((off + max n 1 - 1) / 1024 + 1 - off / 1024)).all fun i => bankOn c (off / 1024 + i)

/-- A range of a core's shelf meets the rows of its score (R135). -/
def inScore (c : Core) (off n : Nat) : Bool := 0 < c.length && meets off n (c.scoreRow * 1024) (scoreRows c * 1024)

/-! ## An access of a unit -/

/-- How an access is answered: the place in `mem`, F_ADDR_UNMAPPED, or F_SCORE_INVALID. -/
inductive Acc where
  | ok (key : Nat)
  | unmapped
  | invalid
  deriving DecidableEq, Repr

/-- An access of a unit of core `c` to its own shelf, and to its die's loft where `loft` says so (R152, R193): a mapped address elsewhere, the
register windows, a fabric space, and a range past the end of its region are invalid; a bank in retention rejects it as unmapped (R187), and so is a
local address that names a package (R438). -/
def State.unitAcc (s : State) (c a n : Nat) (loft : Bool) : Acc :=
  if bits a 48 2 ≠ 0 then .invalid
  else if 2 ^ 48 ≤ a then .unmapped
  else match s.locate a 1 with
    | .shelf k off =>
      if k ≠ c ∨ shelfBytes < off + n then .invalid
      else if banksOn (s.core c) off n then .ok (shelfKey c off) else .unmapped
    | .loft d off => if !loft || d ≠ c / 4 || decide (loftBytes < off + n) then .invalid else .ok (loftKey d off)
    | .unmapped => .unmapped
    | _ => .invalid

/-- A write of a unit: as an access, and never into the score rows of its shelf (R135). -/
def State.unitWrite (s : State) (c a n : Nat) (loft : Bool) : Acc :=
  match s.unitAcc c a n loft with
  | .ok k => if k < loftKey (c / 4) 0 && inScore (s.core c) (k - shelfKey c 0) n then .invalid else .ok k
  | r => r

/-! ## The protection code (R182 to R184) -/

/-- The core whose shelf a stored byte lies in; none for a loft. -/
def keyCore (key : Nat) : Option Nat :=
  let off := (key - computeBase) % dieWindow
  if off < loftOffset then some (4 * ((key - computeBase) / dieWindow) + off / shelfPitch) else none

/-- The die a stored byte lies on. -/
def keyDie (key : Nat) : Nat := (key - computeBase) / dieWindow

/-- The context and the job that own a store: the core's, or one of the die's (R184). -/
def State.storeCtxs (s : State) (key : Nat) : List Nat :=
  match keyCore key with
  | some c => (s.core c).ctx.toList
  | none => s.dieCtxs (keyDie key)

/-- A single-bit error in word `w`: corrected and written back, counted, and recorded when it is the first in its bank during the context (R183). -/
def State.eccCorrect (s : State) (w : Nat) : State :=
  let key := 8 * w
  let d := keyDie key
  let s := { s with marks := tabSet s.marks w .clean }
  match keyCore key with
  | some c =>
    let b := shelfBank ((key - shelfKey c 0) / 1024)
    let first := !(s.core c).eccBanks.contains b
    let s := s.modCore c fun x => { x with sramCe := stick 9 (x.sramCe + 1), eccBanks := addTo x.eccBanks b }
    if first then s.note d 0x02 0 ((s.core c).ctx.getD noCtx) (le 1 b ++ le 8 (s.localOf key)) else s
  | none =>
    let b := loftBank ((key - loftKey d 0) / 1024)
    let first := !(s.die d).loftEccBanks.contains b
    let s := s.modDie d fun x => { x with loftCe := stick 16 (x.loftCe + 1), loftEccBanks := addTo x.loftEccBanks b }
    if first then s.note d 0x02 0 (oneCtx (s.dieCtxs d)) (le 1 b ++ le 8 (s.localOf key)) else s

/-- A double-bit error in word `w`: F_SRAM_UNCORR with the core or the loft and the local address (R184). -/
def State.eccUncorr (s : State) (w : Nat) : State :=
  let key := 8 * w
  s.raise (keyDie key) fSramUncorr (s.storeCtxs key)
    (le 1 (match keyCore key with | some c => c % 4 | none => 0xFE) ++ le 8 (s.localOf key))

/-- A read checks every word that it touches (R182). -/
def State.eccRead (s : State) (key n : Nat) : State :=
  each (s.marks.filter fun e => key / 8 ≤ e.1 && decide (e.1 * 8 < key + n)) s fun s e =>
    match e.2 with
    | .single => s.eccCorrect e.1
    | .double => s.eccUncorr e.1
    | _ => s

/-- A write covers whole 64-bit words, the elements it does not write being zero (R178); a full-word write clears an error (R184). -/
def State.putWords (s : State) (key : Nat) (l : List Byte) : State :=
  let l := l ++ List.replicate (roundUp l.length 8 - l.length) 0
  { s with mem := writeBytes s.mem key l, marks := s.marks.filter fun e => e.1 < key / 8 || key + l.length ≤ 8 * e.1 }

/-! ## Link slots that an access meets (R333) -/

/-- The slots of a link that a range of local addresses touches. -/
def slotsMet (k : Link) (a n : Nat) : List Nat :=
  (List.range k.depth).filter fun i => meets a n (k.base + i * k.slotBytes) k.slotBytes

/-- A read of an EMPTY slot: the link and the slot (cause 1). -/
def readBlocked (l : Launch) (a n : Nat) : Option (Nat × Nat) :=
  (l.links.flatMap fun k => ((slotsMet k a n).filter fun i => !k.filled.contains i).map fun i => (k.id, i)).head?

/-- A write of a FILLED slot: the link and the slot (cause 2). -/
def writeBlocked (l : Launch) (a n : Nat) : Option (Nat × Nat) :=
  (l.links.flatMap fun k => ((slotsMet k a n).filter k.filled.contains).map fun i => (k.id, i)).head?

/-- The guard that an access of a scheduled launch meets, with its cause (R333). -/
def State.guardOf (s : State) (c : Nat) (write : Bool) (a n : Nat) : Option (Nat × Nat × Nat) :=
  match s.launchOf c with
  | none => none
  | some l =>
    if !l.scheduled then none
    else if write then (writeBlocked l a n).map fun r => (2, r.1, r.2)
    else (readBlocked l a n).map fun r => (1, r.1, r.2)

/-! ## Faults of a unit -/

/-- Unit codes (R314). -/
def uScalar : Nat := 0
def uE0 : Nat := 1
def uE1 : Nat := 2
def uMover : Nat := 3
def uTally : Nat := 4
def uFinish : Nat := 5

/-- The context of a core, as a list. -/
def State.coreCtxs (s : State) (c : Nat) : List Nat := (s.core c).ctx.toList

/-- F_SCORE_INVALID (R174): core name, bundle index, slot; the core issues nothing further. -/
def State.scoreInvalid (s : State) (c bundle slot : Nat) : State :=
  (s.raise (c / 4) fScoreInvalid (s.coreCtxs c) (le 1 (c % 4) ++ le 4 bundle ++ le 4 slot)).modCore c fun x => { x with stopped := true }

/-- F_ADDR_UNMAPPED of a unit (R42): core name, unit, address. -/
def State.unitUnmapped (s : State) (c unit a : Nat) : State :=
  s.raise (c / 4) fAddrUnmapped (s.coreCtxs c) (le 1 (c % 4) ++ le 1 unit ++ le 8 a)

/-- F_SLOT_LATE (R58): core name, issue offset, count of the boundary, R49_HELD. -/
def State.slotLate (s : State) (c beat : Nat) (held : Bool) : State :=
  s.raise (c / 4) fSlotLate (s.coreCtxs c) (le 1 (c % 4) ++ le 4 beat ++ le 8 (s.count (c / 4)) ++ le 1 (b2n held))

/-- The job of a core's context has had its one F_ARITH_CHECK of that core: it lasts through the job's launches (R131). -/
def State.arithTold (s : State) (c : Nat) : Bool := ((s.core c).ctx.map fun k => (s.jobCtxs (s.ctx k).job).any fun j => (s.ctx j).arithTold.contains c).getD false

/-- F_ARITH_CHECK: one record for each core and job, later ones counted (R130, R131); the cell's row and column for an engine. The check is numbered by the
rows of R128's table from 1 (DESIGN CHOICE, log entry 91). -/
def State.arithCheck (s : State) (c unit : Nat) (u : Upset) (beat : Nat) : State :=
  if s.arithTold c then s.modCore c fun x => { x with errArith := stick 16 (x.errArith + 1) }
  else (s.raise (c / 4) fArithCheck (s.coreCtxs c)
    (le 1 (c % 4) ++ le 1 unit ++ (if unit = uE0 || unit = uE1 then le 1 u.row ++ le 1 u.col else []) ++ le 1 u.check ++ le 4 beat)).modCtx ((s.core c).ctx.getD noCtx)
      fun x => { x with arithTold := addTo x.arithTold c }

/-- A check failed during an operation of a unit: the number of the free values that it leaves, and F_ARITH_CHECK (R128, R130). -/
def State.upsetUnit (s : State) (c unit : Nat) (u : Option Upset) (beat : Nat) : State :=
  match u with
  | none => s
  | some u => ({ s with fresh := s.fresh + 1 } : State).arithCheck c unit u beat

/-- A 64-bit value that a failed check leaves free; `v` where none failed. -/
def State.upsetWord (s : State) (u : Option Upset) (v : Word) : Word :=
  match u with
  | none => v
  | some _ => BitVec.ofNat 64 ((Config.upsetValue s.fresh 0).toNat + (Config.upsetValue s.fresh 1).toNat * 2 ^ 32)

/-! ## Engine buffers and finishing tables (R129) -/

/-- A single-bit error in an engine buffer or a finishing table: counted, and recorded when it is the first there during the context. The buffers of e0
are numbered 0 to 7, those of e1 8 to 15, the tables from 16 on. -/
def State.bufCorrect (s : State) (c buf word : Nat) : State :=
  let first := !(s.core c).bufTold.contains buf
  let s := (s.modDie (c / 4) fun x => { x with engineCe := stick 12 (x.engineCe + 1) }).modCore c fun x => { x with bufTold := addTo x.bufTold buf }
  if first then s.note (c / 4) 0x02 0 ((s.core c).ctx.getD noCtx) (le 1 (0x80 + buf) ++ le 8 (c % 4 * 2 ^ 32 + word)) else s

/-- What a read of one marked word of a buffer leaves: a correction, or a failed check. An accumulator holds parity alone, so that any error there fails. -/
def State.bufError (s : State) (c unit buf word beat : Nat) (m : ErrMark) (parity : Bool) (row col : Nat) : State :=
  if m == .single && !parity then s.bufCorrect c buf word
  else s.arithCheck c unit { row := row, col := col, check := if parity then 11 else 12 } beat

/-! ## Unit queues -/

def unitQueue (x : Core) : Nat → List QEntry
  | 0 => x.scalar
  | 1 => x.eng0
  | 2 => x.eng1
  | 3 => x.mover
  | 4 => x.tallyQ
  | 5 => x.finish
  | _ => []

def setUnitQueue (x : Core) (u : Nat) (q : List QEntry) : Core :=
  match u with
  | 0 => { x with scalar := q }
  | 1 => { x with eng0 := q }
  | 2 => { x with eng1 := q }
  | 3 => { x with mover := q }
  | 4 => { x with tallyQ := q }
  | 5 => { x with finish := q }
  | _ => x

/-- The operation at the head of a unit's queue that the unit has not performed yet; a stopped core's units still perform what was released. -/
def State.headOp (s : State) (c u : Nat) : Option QEntry :=
  match unitQueue (s.core c) u with
  | e :: _ => if e.done then none else some e
  | [] => none

/-- Replace the head entry of a unit's queue. -/
def State.setHead (s : State) (c u : Nat) (e : QEntry) : State :=
  s.modCore c fun x => match unitQueue x u with
    | _ :: t => setUnitQueue x u (e :: t)
    | [] => x

/-- The head operation has been performed. -/
def State.doneHead (s : State) (c u : Nat) (e : QEntry) : State := s.setHead c u { e with done := true, held := none }
/-- The head operation is held, with its blocked-head code (R315). -/
def State.holdHead (s : State) (c u : Nat) (e : QEntry) (code id : Nat) : State := s.setHead c u { e with held := some code, heldId := id }

/-- Perform nothing of the head operation, which is invalid. -/
def State.invalidHead (s : State) (c u : Nat) (e : QEntry) : State := (s.doneHead c u e).scoreInvalid c e.bundle u
/-- Perform nothing of the head operation, whose access is unmapped. -/
def State.unmappedHead (s : State) (c u : Nat) (e : QEntry) (a : Nat) : State := (s.doneHead c u e).unitUnmapped c u a

/-- Perform nothing of the head operation, which met a slot guard (R334). -/
def State.guardHead (s : State) (c u : Nat) (e : QEntry) (g : Nat × Nat × Nat) : State :=
  match (s.core c).ctx with
  | some x => (s.doneHead c u e).slotGuard (c / 4) (c % 4) u g.1 x g.2.1 g.2.2 (le 4 e.beat)
  | none => s.doneHead c u e

/-- Whether the access of a head operation goes on: its place, or what stands instead. -/
def State.headRead (s : State) (c u : Nat) (e : QEntry) (a n : Nat) (loft : Bool) : Nat ⊕ State :=
  match s.unitAcc c a n loft with
  | .invalid => .inr (s.invalidHead c u e)
  | .unmapped => .inr (s.unmappedHead c u e a)
  | .ok k => match s.guardOf ((s.core c).ctx.getD noCtx) false a n with
    | some g => .inr (s.guardHead c u e g)
    | none => .inl k

/-- As `headRead`, for a write. -/
def State.headWrite (s : State) (c u : Nat) (e : QEntry) (a n : Nat) (loft : Bool) : Nat ⊕ State :=
  match s.unitWrite c a n loft with
  | .invalid => .inr (s.invalidHead c u e)
  | .unmapped => .inr (s.unmappedHead c u e a)
  | .ok k => match s.guardOf ((s.core c).ctx.getD noCtx) true a n with
    | some g => .inr (s.guardHead c u e g)
    | none => .inl k

/-- Go on with the place of an access, or answer what stands instead. -/
def andThen (r : Nat ⊕ State) (f : Nat → State) : State :=
  match r with
  | .inl k => f k
  | .inr s => s

/-! ## Scalar registers (R148) -/

def reg (x : Core) (i : Nat) : Word := if i = 0 then 0 else tabGet 0 x.regs i
def setReg (x : Core) (i : Nat) (v : Word) : Core := if i = 0 then x else { x with regs := tabSet x.regs i v }

/-! ## The bundle (R136) -/

def bfield (b : BitVec 256) (lo w : Nat) : Nat := bits b.toNat lo w

def bDelta (b : BitVec 256) : Nat := bfield b 236 20
def bScalar (b : BitVec 256) : Nat := bfield b 192 32
def bEng (b : BitVec 256) (e : Nat) : Nat := if e = 0 then bfield b 152 40 else bfield b 112 40
def bMover (b : BitVec 256) : Nat := bfield b 64 48
def bTally (b : BitVec 256) : Nat := bfield b 32 32
def bFinish (b : BitVec 256) : Nat := bfield b 0 32

/-- What a slot decodes to at issue: a NOP, an operation with the registers it read, an encoding that the first list of R174 names, or an operation that
a register which it reads makes invalid by its value. -/
inductive SlotOp where
  | nop
  | op (o : UnitOp) (reads : List Nat)
  | bad
  | range (reads : List Nat)
  deriving DecidableEq, Repr

/-- The scalar opcodes (R149). -/
def scalarOf : Nat → Option ScalarK
  | 0x01 => some .add | 0x02 => some .sub | 0x03 => some .mul | 0x04 => some .and | 0x05 => some .or | 0x06 => some .xor
  | 0x07 => some .shl | 0x08 => some .shr | 0x09 => some .sltu | 0x10 => some .addi | 0x11 => some .ori | 0x12 => some .shli
  | 0x13 => some .shri | 0x18 => some .ld | 0x19 => some .st | 0x20 => some .bz | 0x21 => some .bnz | 0x22 => some .dbnz
  | 0x28 => some .rdtb | 0x29 => some .rdid | 0x3F => some .halt
  | _ => none

def isBranch : ScalarK → Bool
  | .bz => true
  | .bnz => true
  | .dbnz => true
  | _ => false

/-- The registers that a scalar operation reads. -/
def scalarReads (k : ScalarK) (rd ra rb : Nat) : List Nat :=
  match k with
  | .add | .sub | .mul | .and | .or | .xor | .shl | .shr | .sltu => [ra, rb]
  | .addi | .ori | .shli | .shri | .ld | .bz | .bnz | .dbnz => [ra]
  | .st => [ra, rd]
  | .rdtb | .rdid | .halt => []

/-- The bundle that a branch of bundle `b` names; none outside the score (R149, R150). -/
def branchTarget (b imm length : Nat) : Option Nat :=
  let t := (b : Int) + toSigned 16 imm
  if 0 ≤ t ∧ t < length then some t.toNat else none

def decodeScalar (x : Core) (b w : Nat) : SlotOp :=
  let op := bits w 26 6
  if op = 0 then .nop
  else match scalarOf op with
    | none => .bad
    | some k =>
      let rd := bits w 21 5
      let ra := bits w 16 5
      let rb := bits w 11 5
      let imm := bits w 0 16
      if isBranch k && (branchTarget b imm x.length).isNone then .bad
      else .op (.scalar { k := k, rd := rd, ra := ra, imm := BitVec.ofNat 16 imm, a := reg x ra, b := reg x rb, d := reg x rd }) (scalarReads k rd ra rb)

/-- The mode codes (R154). -/
def modeOf : Nat → Option EngMode
  | 0 => some .os128 | 1 => some .os64 | 2 => some .os32 | 3 => some .os16 | 4 => some .os8
  | 8 => some .wsN128 | 9 => some .wsN512 | 0xC => some .elementwise
  | _ => none

/-- A register with, for a Microscaling format, the one after it; none where the pair runs past s31 (R152). -/
def mxReads (fmt r : Nat) : List Nat := if isMx fmt then [r, r + 1] else [r]
def mxFits (fmt r : Nat) : Bool := !isMx fmt || r < 31

/-- A value within a range. -/
def inRange (lo hi : Nat) (v : Word) : Bool := lo ≤ v.toNat && v.toNat ≤ hi

/-- The engine slot (R152 to R159). -/
def decodeEng (x : Core) (w : Nat) : SlotOp :=
  match bits w 36 4 with
  | 0 => .nop
  | 1 => match modeOf (bits w 32 4) with
    | some m => .op (.engine (.shape m)) []
    | none => .bad
  | 2 =>
    let fw := bits w 30 4; let fn := bits w 26 4
    let ra := bits w 20 5; let rb := bits w 15 5; let rk := bits w 10 5
    let reads := mxReads fw ra ++ mxReads fn rb ++ [rk]
    if !(sameClass fw fn && mxFits fw ra && mxFits fn rb) then .bad
    else if inRange 1 65536 (reg x rk) then
      .op (.engine (.tileOs (bits w 35 1) (bit w 34) fw fn (bit w 25) (reg x ra) (reg x (ra + 1)) (reg x rb) (reg x (rb + 1)) (reg x rk).toNat)) reads
    else .range reads
  | 3 =>
    let ft := bits w 30 4; let rt := bits w 25 5; let rm := bits w 20 5
    let reads := mxReads ft rt ++ [rm]
    if !(isOperand ft && mxFits ft rt) then .bad
    else if inRange 1 1024 (reg x rm) then .op (.engine (.tileWs (bits w 35 1) (bit w 34) ft (reg x rt) (reg x (rt + 1)) (reg x rm).toNat)) reads
    else .range reads
  | 4 =>
    let f := bits w 32 4; let coded := bit w 31; let var := bit w 30
    let rs := bits w 25 5; let rv := bits w 20 5
    if isOperand f && mxFits f rs && (!var || coded) then
      .op (.engine (.loadShadow f coded var (reg x rs) (reg x (rs + 1)) (reg x rv))) (mxReads f rs ++ (if var then [rv] else []))
    else .bad
  | 5 => .op (.engine .swap) []
  | 6 =>
    let src := bits w 34 2; let f := bits w 30 4; let rnd := bit w 29
    let rd := bits w 23 5; let rn := bits w 18 5; let rc := bits w 13 5
    let useC := rnd && !isMx f
    let n := if src < 2 then 16384 else (reg x rn).toNat
    let reads := mxReads f rd ++ (if src < 2 then [] else [rn]) ++ (if useC then [rc, rc + 1] else [])
    if !(fmtOk f && mxFits f rd && (!useC || rc < 31)) then .bad
    else if (src < 2 || inRange 1 131072 (reg x rn)) && (!isMx f || n % 32 == 0) then
      .op (.engine (.drain src f useC (bit w 28) (reg x rd) (reg x (rd + 1)) n (reg x rc) (reg x (rc + 1)))) reads
    else .range reads
  | 7 =>
    let oper := bits w 33 3; let xs := bits w 31 2; let ysc := bit w 30
    let fx := bits w 25 4; let fy := bits w 21 4
    let rx := bits w 16 5; let ry := bits w 11 5; let rn := bits w 6 5
    let yPort := !ysc && oper < 6
    let yReg := ysc || oper == 6
    let reads := (if xs = 0 then mxReads fx rx else []) ++ (if yPort then mxReads fy ry else if yReg && oper != 7 then [ry] else []) ++ [rn]
    if !(xs < 3 && (xs != 0 || (fmtOk fx && mxFits fx rx)) && (!yPort || (isOperand fy && mxFits fy ry))) then .bad
    else if inRange 1 1048576 (reg x rn) then
      .op (.engine (.ew oper xs (!yPort) (bits w 29 1) fx fy (reg x rx) (reg x (rx + 1)) (reg x ry) (reg x (ry + 1)) (reg x rn).toNat)) reads
    else .range reads
  | _ => .bad

/-- The mover slot (R160 to R165). -/
def decodeMover (x : Core) (w : Nat) : SlotOp :=
  let t := bit w 43; let f := bits w 39 4
  let rs := bits w 34 5; let rd := bits w 29 5; let rg := bits w 24 5
  let mode := bits w 20 4; let first := bit w 19; let last := bit w 18
  let reads := mxReads f rs ++ mxReads f rd ++ [rg, rg + 1]
  let layoutOk := isOperand f && mxFits f rs && mxFits f rd && rg < 31
  let sizeOk := 0 < bits (reg x rg).toNat 48 16 && 0 < bits (reg x rg).toNat 32 16
  let layout := fun (modeOk : Bool) (o : MoverOp) => if !(layoutOk && modeOk) then SlotOp.bad else if sizeOk then .op (.mover o) reads else .range reads
  match bits w 44 4 with
  | 0 => .nop
  | 1 => .op (.mover (.copy (reg x rs) (reg x rd) (reg x rg))) [rs, rd, rg]
  | 2 => .op (.mover (.fill (reg x rs) (reg x rd) (reg x rg))) [rs, rd, rg]
  | 3 => layout (decide (mode < 5)) (.skewW t f (reg x rs) (reg x (rs + 1)) (reg x rd) (reg x (rd + 1)) (reg x rg) (reg x (rg + 1)) mode first last)
  | 4 => layout (decide (mode < 5)) (.skewN t f (reg x rs) (reg x (rs + 1)) (reg x rd) (reg x (rd + 1)) (reg x rg) (reg x (rg + 1)) mode first last)
  | 5 => layout (mode == 8 || mode == 9) (.layoutWs t f (reg x rs) (reg x (rs + 1)) (reg x rd) (reg x (rd + 1)) (reg x rg) (reg x (rg + 1)) mode)
  | _ => .bad

/-- The tally slot (R166). -/
def decodeTally (w : Nat) : SlotOp :=
  let n := if bits w 16 8 = 0 then 256 else bits w 16 8
  let wh := bits w 25 3
  let mk (k : TallyK) (wh : Nat) : SlotOp := .op (.tally { k := k, wh := wh, n := n, vid := bits w 0 16 }) []
  match bits w 28 4 with
  | 0 => .nop
  | 1 => mk .wait 0
  | 2 => mk .waitdec 0
  | 3 => if wh < 6 then mk .inc wh else .bad
  | 4 => if wh < 6 then mk .dec wh else .bad
  | 5 => if wh < 6 then mk .hsig wh else .bad
  | _ => .bad

/-- The finishing opcodes (R169). -/
def finOf : Nat → Option FinK
  | 1 => some .exp | 2 => some .rcp | 3 => some .rsqrt | 4 => some .gelu | 5 => some .silu | 6 => some .drop | 7 => some .sample | 8 => some .cvt
  | _ => none

/-- The finishing slot (R169 to R172). -/
def decodeFinish (x : Core) (w : Nat) : SlotOp :=
  let op := bits w 28 4
  if op = 0 then .nop
  else match finOf op with
    | none => .bad
    | some k =>
      let fi := bits w 24 4; let fo := bits w 20 4
      let rs := bits w 15 5; let rd := bits w 10 5; let rn := bits w 5 5; let rp := bits w 0 5
      let sample := k == .sample
      let params := if sample then [rp, rp + 1] else if k == .drop then [rp, rp + 1, rp + 2] else []
      let n := (reg x rn).toNat
      let reads := mxReads fi rs ++ (if sample then [rd] else mxReads fo rd) ++ [rn] ++ params
      if !(fmtOk fi && (if sample then fi == 2 else fmtOk fo && mxFits fo rd) && mxFits fi rs && (!sample || rp < 31) && (k != .drop || rp < 30)) then .bad
      else if (sample || !isMx fo || n % 32 == 0) && inRange 1 1048576 (reg x rn) then
        .op (.finish { k := k, fmtIn := fi, fmtOut := fo, s := reg x rs, ss := reg x (rs + 1), d := reg x rd, ds := reg x (rd + 1), n := n,
                       p0 := reg x rp, p1 := reg x (rp + 1), p2 := reg x (rp + 2) }) reads
      else .range reads

/-- The six slots of a bundle, by unit code, in bundle order. -/
def decodeBundle (x : Core) (b : Nat) (w : BitVec 256) : List (Nat × SlotOp) :=
  [(uScalar, decodeScalar x b (bScalar w)), (uE0, decodeEng x (bEng w 0)), (uE1, decodeEng x (bEng w 1)), (uMover, decodeMover x (bMover w)),
   (uTally, decodeTally (bTally w)), (uFinish, decodeFinish x (bFinish w))]

end Sys2Proof.Machine
end

