-- ==== Sys2Proof/Machine/Tiers.lean ====
section
/-! DEFINITION. Chapter 9, and the cellar part of chapter 18: frames and channels, granule owners, reads and writes of the cellar and larder with
their checks, scrub, migration, drains and the answers to module events. -/

namespace Sys2Proof.Machine

/-! ## Addresses (R268 to R270, R537) -/

def granuleBytes : Nat := 2097152
def frameBytes : Nat := 65536

/-- The cellar die of a cellar address, 0 to 11, and the address on that die (R268). -/
def cellarOf (a : Nat) : Nat := a / granuleBytes % 12
def dieAddr (a : Nat) : Nat := a / granuleBytes / 12 * granuleBytes + a % granuleBytes

/-- The frame of a cellar address, as one key: cellar die × 2^22 + frame of the die. -/
def frameKey (die f : Nat) : Nat := die * 4194304 + f
def frameOf (a : Nat) : Nat := frameKey (cellarOf a) (dieAddr a / frameBytes)

/-- The local address at which a frame of a die begins (the inverse of R268). -/
def frameAddr (die f : Nat) : Nat :=
  let d := f * frameBytes
  (d / granuleBytes * 12 + die) * granuleBytes + d % granuleBytes

/-- A frame's own channel, and the index it has on it. -/
def homeChannel (key : Nat) : Nat := 4 * (key / 4194304) + key % 4
def homeIndex (key : Nat) : Nat := key % 4194304 / 4

def State.frame (s : State) (key : Nat) : Frame64K := tabGet {} s.frames key
def State.modFrame (s : State) (key : Nat) (f : Frame64K → Frame64K) : State := { s with frames := tabSet s.frames key (f (s.frame key)) }

/-- The channel on which a frame lies now (R270). -/
def State.frameChannel (s : State) (key : Nat) : Nat := match (s.frame key).remap with | some r => r.1 | none => homeChannel key

/-- First frame index of a channel that is spare (R269). -/
def State.spareBase (s : State) : Nat := 1048576 - s.spareFrames

/-- D of R537: the data granules; G mapped granules less T of the tag store. -/
def State.dataGranules (s : State) : Nat :=
  let g := (1048576 - s.spareFrames) * 3 / 2
  g - roundUp (ceilDiv g 33) 12

/-- First address of the tag store (R537). -/
def State.tagBase (s : State) : Nat := s.dataGranules * granuleBytes

/-- A range of cellar bytes lies in the mapped data space, with no frame that a channel failed at start-up has left unmapped (R269, R282, R537). -/
def State.cellarMapped (s : State) (a n : Nat) : Bool :=
  a + max n 1 ≤ s.tagBase &&
  (List.range ((a + max n 1 - 1) / frameBytes + 1 - a / frameBytes)).all fun i =>
    let k := frameOf (a / frameBytes * frameBytes + i * frameBytes)
    (s.frame k).remap.isSome || !(s.channel (homeChannel k)).unmappedFrames

/-- A frame has no backing store: its channel failed in service and it had not been remapped, and no module that came back has been zeroed since (R280,
R282). -/
def State.unbacked (s : State) (key : Nat) : Bool := (s.channel (s.frameChannel key)).unbacked

/-- Where the tag of the sector at data address `a` lies (R537). -/
def State.tagAddr (s : State) (a : Nat) : Nat :=
  let g := a / granuleBytes
  let t := g / 12 * 65536 + a % granuleBytes / 512 * 16
  (s.dataGranules + 12 * (t / granuleBytes) + g % 12) * granuleBytes + t % granuleBytes

/-- The one frame that holds every tag of a granule (R537). -/
def State.tagFrame (s : State) (g : Nat) : Nat := frameOf (s.tagAddr (g * granuleBytes))

/-- The bytes of a range that lie in one frame, with the frame: the accesses that it takes. -/
def framePieces (a n : Nat) : List (Nat × Nat × Nat) :=
  (List.range ((a + max n 1 - 1) / frameBytes + 1 - a / frameBytes)).map fun i =>
    let lo := max a ((a / frameBytes + i) * frameBytes)
    (frameOf lo, lo, min (a + n) ((a / frameBytes + i + 1) * frameBytes) - lo)

/-- The first byte of a range whose frame, or the frame of whose tag, has no backing store (R282). -/
def State.lostAt (s : State) (a n : Nat) : Option Nat :=
  ((framePieces a n).find? fun p => s.unbacked p.1 || s.unbacked (s.tagFrame (p.2.1 / granuleBytes))).map (·.2.1)

/-- Class 2 and class 3 traffic to a range is held: by the temperature of a channel that it lies on (R283), or by that of its cellar or larder die (R490). -/
def State.trafficHeld (s : State) (a n : Nat) : Bool :=
  if a < 0x100000000000 then (framePieces a n).any fun p => (s.channel (s.frameChannel p.1)).held || (s.die (68 + cellarOf p.2.1)).heldTraffic
  else larderBase ≤ a && decide (a < larderBase + 0x8000000000) && (s.die (80 + (a - larderBase) / 0x1000000000)).heldTraffic

/-- All traffic to a range is held: its cellar or larder die has tripped (R491). -/
def State.trafficStopped (s : State) (a n : Nat) : Bool :=
  if a < 0x100000000000 then (framePieces a n).any fun p => (s.die (68 + cellarOf p.2.1)).tripped
  else larderBase ≤ a && decide (a < larderBase + 0x8000000000) && (s.die (80 + (a - larderBase) / 0x1000000000)).tripped

/-! ## Spare frames (R274, R278) -/

/-- The spare frames of a channel that frames have been remapped to. -/
def State.sparesTaken (s : State) (ch : Nat) : List Nat :=
  s.frames.filterMap fun e => match e.2.remap with
    | some r => if r.1 = ch then some r.2 else none
    | none => none

/-- Spare frames of a channel that are free, while it is ACTIVE. -/
def State.sparesFree (s : State) (ch : Nat) : Nat :=
  if (s.channel ch).st == .active then s.spareFrames - (s.sparesTaken ch).length else 0

/-- A free spare frame of a channel. -/
def State.freeSpare (s : State) (ch : Nat) : Option Nat :=
  if s.sparesFree ch = 0 then none
  else ((List.range ((s.sparesTaken ch).length + 1)).map (s.spareBase + ·)).find? fun i => !(s.sparesTaken ch).contains i

/-- Channels other than `ch`, those with the most free spare frames first being no part of the rule: in ascending order from the next one up. -/
def otherChannels (ch : Nat) : List Nat := (List.range 47).map fun i => (ch + 1 + i) % 48

/-- Frame `i` of a channel under its own address (R268). -/
def ownFrame (ch i : Nat) : Nat := frameKey (ch / 4) (4 * i + ch % 4)

/-- No error stands in the bytes of a frame's own place. -/
def State.cleanFrame (s : State) (k : Nat) : State :=
  let a := frameAddr (k / 4194304) (k % 4194304)
  { s with marks := s.marks.filter fun e => e.2 == .tag || e.1 * 8 < a || decide (a + frameBytes ≤ e.1 * 8) }

/-- The entries of cellar die `m`'s remap table, 0 to 11 (R270). -/
def State.tableUsed (s : State) (m : Nat) : Nat := (tabKeys s.frames fun k f => f.remap.isSome && k / 4194304 == m).length

/-- A cellar die's remap table has room for one more frame of its addresses, or holds this one (R270). -/
def State.tableRoom (s : State) (key : Nat) : Bool := (s.frame key).remap.isSome || decide (s.tableUsed (key / 4194304) < 1048576)

/-- A frame is remapped to a free spare frame of the first of some channels that has one, written there afresh. -/
def State.remapTo (s : State) (key : Nat) (l : List Nat) : Option State :=
  if !s.tableRoom key then none
  else ((l.filterMap fun ch => (s.freeSpare ch).map fun i => (ch, i)).head?).map fun r =>
    (s.cleanFrame (ownFrame r.1 r.2)).modFrame key fun f => { f with remap := some r, corrections := [] }

/-- The frames of a channel that hold mapped data and lie on it: not remapped away (R278). -/
def State.framesOn (s : State) (ch : Nat) : List Nat :=
  ((List.range s.spareBase).map (ownFrame ch)).filter fun k => (s.frame k).remap.isNone

/-- Frames of other channels that lie in spare frames of this one. -/
def State.guests (s : State) (ch : Nat) : List Nat := tabKeys s.frames fun _ f => (f.remap.map fun r => r.1 == ch).getD false

/-- What a drain has still to move: the channel's own frames in ascending order, and the frames of other channels that lie on it (DEDUCED, log entry 100). -/
def State.toMove (s : State) (ch : Nat) : List Nat := s.framesOn ch ++ s.guests ch

/-- The number of mapped frames of a channel that are not remapped already (R278 step 1). -/
def State.framesToMove (s : State) (ch : Nat) : Nat :=
  s.spareBase - (tabKeys s.frames fun k f => f.remap.isSome && decide (homeChannel k = ch) && decide (homeIndex k < s.spareBase)).length

/-- The free spare frames of the other channels (R278 step 1). -/
def State.sparesElsewhere (s : State) (ch : Nat) : Nat := ((otherChannels ch).map s.sparesFree).sum

/-- Frames of a channel that failed at start-up to spare frames of the others: the n-th goes to the n-th of them in turn (R282). -/
def State.remapAll (s : State) (ch : Nat) : State :=
  let others := (otherChannels ch).filter fun c => (s.channel c).st == .active
  let n := others.length
  each (s.framesOn ch).zipIdx s fun s p => (s.remapTo p.1 (others.drop (p.2 % max n 1) ++ others.take (p.2 % max n 1))).getD s

/-- A channel that fails at start-up: its frames are remapped where the spare frames, and the entries of its die's remap table, are enough, and else unmapped
(R270, R282). -/
def State.failedFrames (s : State) (ch : Nat) : State :=
  if s.framesToMove ch ≤ s.sparesElsewhere ch && s.tableUsed (ch / 4) + s.framesToMove ch ≤ 1048576 then s.remapAll ch
  else s.modChannel ch fun c => { c with unmappedFrames := true }

/-- A channel is FAILED since start-up: it has carried no data. -/
def failedAtStart (c : Channel) : Bool := c.st == .failed && !c.unbacked

/-- SPARE has changed before the first admission: the frames of a channel FAILED at start-up are remapped or unmapped anew (R282), and another frame whose spare frame
is one no more takes a free one. -/
def State.respare (s : State) : State :=
  let bad := (List.range 48).filter fun c => failedAtStart (s.channel c)
  let s := each (tabKeys s.frames fun k f => f.remap.isSome && bad.contains (homeChannel k)) s fun s k => s.modFrame k fun f => { f with remap := none }
  let s := each bad s fun s c => s.modChannel c fun x => { x with unmappedFrames := false }
  let s := each (tabKeys s.frames fun _ f => (f.remap.map fun r => decide (r.2 < s.spareBase)).getD false) s fun s k =>
    (s.remapTo k (otherChannels (homeChannel k))).getD s
  each bad s State.failedFrames

/-! ## Owners (R538) -/

def State.owner (s : State) (g : Nat) : Owner := tabGet .unowned s.owners g

/-- The key set of a context: its own when it is sealed, else the package's (R538). -/
def State.keySet (s : State) (c : Nat) : Owner := if (s.ctx c).sealed then .context c else .package

/-- The context whose key set an access uses. -/
def State.accCtx (s : State) : Accessor → Option Nat
  | .context c => some c
  | .injection w => (s.set? w).map (·.ctx)
  | .station w => (s.set? w).map (·.ctx)
  | .scrub => none
  | .keeper => none

/-- The key set of an access (R538); scrub and migration use none. -/
def State.accKeys (s : State) (x : Accessor) : Owner := match s.accCtx x with | some c => s.keySet c | none => .package

/-- The granules that a range touches. -/
def granules (a n : Nat) : List Nat := (List.range ((a + max n 1 - 1) / granuleBytes + 1 - a / granuleBytes)).map (a / granuleBytes + ·)

/-- A read of a granule is performed (R538). -/
def State.mayRead (s : State) (x : Accessor) (a n : Nat) : Bool := x == .scrub || (granules a n).all fun g => s.owner g == s.accKeys x

/-- A write of a granule is performed, claiming it where it is UNOWNED (R538). -/
def State.mayWrite (s : State) (x : Accessor) (a n : Nat) : Bool :=
  x == .scrub || (granules a n).all fun g => s.owner g == s.accKeys x || s.owner g == .unowned

/-- The claims of a write (R538). -/
def State.claim (s : State) (x : Accessor) (a n : Nat) : State :=
  each ((granules a n).filter fun g => s.owner g == .unowned) s fun s g => { s with owners := tabSet s.owners g (s.accKeys x) }

/-! ## Errors (R273 to R276, R286, R539) -/

/-- Access kinds of a cellar or larder record. -/
def accKind : Accessor → Nat
  | .context _ => 0
  | .injection _ => 1
  | .station _ => 2
  | .scrub => 3
  | .keeper => 3

/-- Access kind AUTH (R539). -/
def kindAuth : Nat := 4

/-- The contexts that R275 names for an access: the issuing one, those of the job that owns the set, or the owner of the region. -/
def State.memParty (s : State) (x : Accessor) (a : Nat) : List Nat :=
  match x with
  | .context c => [c]
  | .injection w => match s.set? w with | some k => s.jobCtxs k.job | none => []
  | .station w => match s.set? w with | some k => s.jobCtxs k.job | none => []
  | _ => match s.owner (a / granuleBytes) with | .context c => [c] | _ => []

/-- F_MEM_UNCORR or F_LARDER_UNCORR of one line: one record for each line and job; scrub and migration fault no job (R275, R286). -/
def State.memUncorr (s : State) (x : Accessor) (d code a chan kind : Nat) : State :=
  let line := alignTo 64 a
  let party := s.memParty x a
  let job := match x with | .scrub => false | .keeper => false | _ => !party.isEmpty
  if !party.isEmpty && party.all (fun c => (s.ctx c).memLines.contains line) then s
  else each party ((s.raiseTo d code party job party.isEmpty (le 8 line ++ le 1 chan ++ le 1 kind))) fun s c =>
    s.modCtx c fun k => { k with memLines := k.memLines ++ [line] }

/-- One hour and one day of counts. -/
def hourCounts : Nat := 3600000000000
def dayCounts : Nat := 86400000000000

/-- A correction on a channel, of a sub-channel access at `a` (R273, R274). -/
def State.cellarCorrectOn (s : State) (ch a : Nat) : State :=
  let key := frameOf a
  let d := 68 + cellarOf a
  let n := s.count d
  let f := s.frame key
  let s := s.modChannel ch fun c => { c with ce := stick 16 (c.ce + 1) }
  let first := match f.entryAt with | some t => decide (t + hourCounts ≤ n) | none => true
  let s := s.modFrame key fun f => { f with
    corrections := (f.corrections.filter fun t => n < t + dayCounts) ++ [n], entryAt := if first then some n else f.entryAt }
  if first then s.note d 0x02 0 noCtx (le 1 ch ++ le 8 a) else s

/-- A correction on the channel that a frame lies on. -/
def State.cellarCorrect (s : State) (a : Nat) : State := s.cellarCorrectOn (s.frameChannel (frameOf a)) a

/-- A channel has reported F_MEM_UNCORR (R284). -/
def State.channelUe (s : State) (a : Nat) : State := s.modChannel (s.frameChannel (frameOf a)) fun c => { c with ue := true }

/-- What a sub-channel access of one line meets (R267): every error that one ×4 device confines is corrected, one that two devices share is detected. -/
inductive LineErr where
  | good | corrected | uncorr | tag
  deriving DecidableEq, Repr

/-- The device that a mark confines its error to. -/
def markDevice : ErrMark → Option Nat
  | .single => some 0
  | .device n => some n
  | _ => none

/-- The marks of one line as one access. -/
def lineErrOf (l : List ErrMark) : LineErr :=
  let ds := (l.filterMap markDevice).foldl addTo []
  if l.contains .double || decide (1 < ds.length) then .uncorr
  else if l.contains .tag then .tag
  else if ds.isEmpty then .good else .corrected

/-- The lines of a range with an error standing in them. -/
def State.marksIn (s : State) (a n : Nat) : List (Nat × ErrMark) :=
  s.marks.filter fun e => e.2 != .clean && decide (a / 64 ≤ e.1 * 8 / 64) && decide (e.1 * 8 / 64 * 64 < a + n)

/-- The numbers of those lines, each once, with what an access of each meets. -/
def State.linesIn (s : State) (a n : Nat) : List (Nat × LineErr) :=
  let l := s.marksIn a n
  ((l.map fun e => e.1 / 8).foldl addTo []).map fun i => (i, lineErrOf ((l.filter fun e => e.1 / 8 == i).map (·.2)))

/-- The frames of a range. -/
def framesIn (a n : Nat) : List Nat := (List.range ((a + max n 1 - 1) / frameBytes + 1 - a / frameBytes)).map fun i => frameOf ((a / frameBytes + i) * frameBytes)

/-- Count bytes moved on the channels that a range lies on, in units of 64 (R570): `i` is 0 for reads and 4 for writes. -/
def State.countBytes (s : State) (i a n : Nat) : State :=
  each (List.range ((a + max n 1 - 1) / frameBytes + 1 - a / frameBytes)) s fun s j =>
    let lo := (a / frameBytes + j) * frameBytes
    let ch := s.frameChannel (frameOf lo)
    s.perfUnits (68 + ch / 4) (i + ch % 4) 64 (min (a + n) (lo + frameBytes) - max a lo)

/-- An uncorrectable error at `a`, or an access with no backing store: F_MEM_UNCORR to the party of R275, and the channel's UE. -/
def State.cellarUncorr (s : State) (x : Accessor) (a kind : Nat) : State :=
  (s.memUncorr x (68 + cellarOf a) fMemUncorr a (s.frameChannel (frameOf a)) kind).channelUe a

/-- A cellar read that the owner check lets through: errors reported, corrections counted, and the data where R275 delivers any. -/
def State.cellarGet (s : State) (x : Accessor) (a n : Nat) : State × Option (List Byte) :=
  match s.lostAt a n with
  | some b => (s.cellarUncorr x b (accKind x), none)
  | none =>
    let bad := s.linesIn a n
    let t := each bad (s.countBytes 0 a n) fun s e =>
      let p := e.1 * 64
      match e.2 with
      | .good => s
      | .corrected => s.cellarCorrect p
      | .uncorr => s.cellarUncorr x p (accKind x)
      | .tag => s.cellarUncorr x p kindAuth
    let lost := bad.any fun e => e.2 == .tag || (e.2 == .uncorr && match x with | .context _ => false | .keeper => false | _ => true)
    (t, if lost then none else some (readBytes s.mem a n))

/-- The sectors that a write covers are written (R536). -/
def State.tagSectors (s : State) (a n : Nat) : State :=
  each (List.range ((a + max n 1 - 1) / 512 + 1 - a / 512)) s fun s i => { s with written := tabSet s.written (a / 512 + i) true }

/-- The XTS pair and MAC key of the key set that owns a granule (R520, R536). -/
def State.ownerKeys (s : State) : Owner → List Byte × List Byte
  | .context c => ((s.ctx c).xts, (s.ctx c).mac)
  | _ => (slice s.packageKeys 0 64, slice s.packageKeys 64 32)

/-- A sector's tag (R536): of all zero bits it is stored with its last byte 0x01. -/
def sectorTag (mac : List Byte) (n : Nat) (text : List Byte) : List Byte :=
  let t := aesCmac mac (le 8 n ++ text)
  if t.all (· == 0) then t.set 15 1 else t

/-- What the modules hold of sector `n` outside the package (R519, R536): its ciphertext and its tag, under the keys of its granule's owner; a sector not written has a
tag of zero. `mem` holds the plaintext that those keys give (DESIGN CHOICE, log entry 122). -/
def State.moduleSector (s : State) (n : Nat) : Option (List Byte × List Byte) :=
  if tabGet false s.written n then
    let k := s.ownerKeys (s.owner (n / 4096))
    let text := xtsSeal k.1 n (readBytes s.mem (512 * n) 512)
    some (text, sectorTag k.2 n text)
  else none

/-- Bytes into frames that have backing store: the bytes, the tags, and the errors that whole lines replace (R275, R536). -/
def State.cellarStore (s : State) (a : Nat) (l : List Byte) : State :=
  let s := ((s.store a l).tagSectors a l.length).countBytes 4 a l.length
  { s with marks := s.marks.filter fun e => e.1 * 8 / 64 * 64 < a || a + l.length < (e.1 * 8 / 64 + 1) * 64 }

/-- A cellar write that the owner check lets through: the claim and the bytes (R538); what falls on frames without backing store is reported and not
written (R282). -/
def State.cellarPut (s : State) (x : Accessor) (a : Nat) (l : List Byte) : State :=
  if l.isEmpty then s
  else
    let s := s.claim x a l.length
    match s.lostAt a l.length with
    | none => s.cellarStore a l
    | some b => each ((framePieces a l.length).filter fun p => (s.lostAt p.2.1 p.2.2).isNone) (s.cellarUncorr x b (accKind x)) fun s p =>
        s.cellarStore p.2.1 ((l.drop (p.2.1 - a)).take p.2.2)

/-- How an access of the cellar or larder by an agent ends; where its data is lost, with the code of the fault. -/
inductive MemAns where
  | ok (s : State) (l : List Byte)
  | lost (s : State) (code : Nat)
  | unmapped
  deriving DecidableEq, Repr

/-! ## Larder pages (R286) -/

/-- The larder die of a local address. -/
def larderDieOf (a : Nat) : Nat := 80 + (a - larderBase) / 0x1000000000

/-- A page of more than 36 corrections: a weak page of its die (R286). -/
def State.larderWeak (s : State) (d a : Nat) : State :=
  (s.modDie d fun x => { x with weak := stick 16 (x.weak + 1) }).note d 0x02 0 noCtx (le 8 (alignTo 4096 a))

/-- The parts of a larder range by page: the first byte of each in the range, and how many. -/
def pagePieces (a n : Nat) : List (Nat × Nat) :=
  (List.range ((a + max n 1 - 1) / 4096 + 1 - a / 4096)).map fun i =>
    let lo := max a ((a / 4096 + i) * 4096)
    (lo, min (a + n) ((a / 4096 + i + 1) * 4096) - lo)

/-- A page is beyond correction, or lies on a failed die, whose user area cannot be read (R286, R513). -/
def State.pageBad (s : State) (a : Nat) : Bool := (s.die (larderDieOf a)).failed.isSome || decide (72 < tabGet 0 s.pageErrs (a / 4096))

/-- One page read: its bytes counted, a weak page recorded, one beyond correction reported. -/
def State.readPage (s : State) (x : Accessor) (p : Nat × Nat) : State :=
  let d := larderDieOf p.1
  let n := tabGet 0 s.pageErrs (p.1 / 4096)
  let s := s.perfUnits d 0 64 p.2
  if s.pageBad p.1 then s.memUncorr x d fLarderUncorr p.1 0xFF (accKind x)
  else if 36 < n then s.larderWeak d p.1 else s

/-- A larder read (R275, R286): the data of pages beyond correction reach a mover, a flow or the host alone, and a failed die gives none. -/
def State.larderGet (s : State) (x : Accessor) (a n : Nat) : State × Option (List Byte) :=
  let ps := pagePieces a n
  let t := each ps s fun s p => s.readPage x p
  let bad := ps.any fun p => s.pageBad p.1
  let gone := ps.any fun p => (s.die (larderDieOf p.1)).failed.isSome
  (t, if gone || (bad && !(match x with | .context _ => true | .keeper => true | _ => false)) then none else some (readBytes s.mem a n))

/-- A read of the cellar or the larder by local address (R42, R275, R286, R538). -/
def State.memRead (s : State) (x : Accessor) (a n : Nat) : MemAns :=
  match s.locate a n with
  | .cellar _ =>
    if s.cellarMapped a n && s.mayRead x a n then
      match s.cellarGet x a n with
      | (t, some l) => .ok t l
      | (t, none) => .lost t fMemUncorr
    else .unmapped
  | .larder _ =>
    match s.larderGet x a n with
    | (t, some l) => .ok t l
    | (t, none) => .lost t fLarderUncorr
  | _ => .unmapped

/-- A write of the cellar by local address; a store to the larder is rejected (R43). -/
def State.memWrite (s : State) (x : Accessor) (a : Nat) (l : List Byte) : Option State :=
  match s.locate a l.length with
  | .cellar _ => if s.cellarMapped a l.length && s.mayWrite x a l.length then some (s.cellarPut x a l) else none
  | _ => none

/-! ## Pinned regions (R232) -/

/-- Tiles that a set's STEPS and state records cover. -/
def setTiles (w : WeightSet) : List Nat := (w.entries.map (·.tile)).foldl addTo []

/-- A range meets a region that a bound set pins; `between` says that no launch of the set's job is in flight, which frees offsets 0 to 63 of
the optimizer block for the host (R222, R232). -/
def setPins (w : WeightSet) (a n : Nat) (between : Bool) : Bool :=
  meets a n w.planAddr (64 + 32 * w.entries.length) ||
  (w.entries.any fun e => meets a n e.src e.length) ||
  (w.kind != 0 &&
    ((if between then meets a n (w.opt + 64) (4 * ((setTiles w).foldl max 0 + 1)) else meets a n w.opt (64 + 4 * ((setTiles w).foldl max 0 + 1))) ||
     (setTiles w).any fun t => meets a n (w.state + t * 0x100000) 0x100000))

/-- A launch of a job is in flight on the package. -/
def State.jobRuns (s : State) (j : Nat) : Bool := (s.jobCtxs j).any fun c => (s.launchOf c).isSome

/-- A write of `n` bytes at `a` meets a pinned region. -/
def State.pinned (s : State) (a n : Nat) (host : Bool) : Bool :=
  s.sets.any fun e => match e.2 with
    | some w => setPins w a n (host && !s.jobRuns w.job)
    | none => false

/-! ## The rows -/

/-- F_ADDR_UNMAPPED of a cellar die or larder die to the party of an access (R42, R595): the address, the access kind. -/
def State.memUnmapped (s : State) (x : Accessor) (d a : Nat) : State :=
  s.raise d fAddrUnmapped (s.memParty x a) (le 8 a ++ le 1 (accKind x))

/-- The bytes of an answer as words. -/
def wordsOf (l : List Byte) : List Word := (List.range (ceilDiv l.length 8)).map fun i => BitVec.ofNat 64 (fieldAt l (8 * i) 8)

/-- An agent that the part has. -/
def accOk : Accessor → Bool
  | .context c => isContext c
  | .injection w => 1 ≤ w && w ≤ 0xFFFE
  | .station w => 1 ≤ w && w ≤ 0xFFFE
  | _ => true

/-- Traffic of class 1: injection and update. Every other agent's is of class 2 or 3 (R25, R271). -/
def classOne : Accessor → Bool
  | .injection _ => true
  | .station _ => true
  | _ => false

/-- CELLAR_READ: a cellar die serves a read (R272, R275, R538, R539); one of class 2 or 3 to a channel whose traffic is held waits (R283). -/
def cellarReadRow (x : Accessor) (a n : Nat) (s : State) : State :=
  if s.trafficStopped a n || (s.trafficHeld a n && !classOne x) then s
  else match s.locate a n, s.memRead x a n with
  | .cellar _, .ok t l => t.answer "cellarRead" a (wordsOf l)
  | .cellar _, .lost t _ => t
  | _, _ => s.memUnmapped x (68 + cellarOf a) a

def execCellarRead (acc : Accessor) (addr len : Nat) (s : State) : Out := need (accOk acc) (cellarReadRow acc addr len s)

/-- Writes that a pinned region takes: those of the update stations, and the write-back of scrub and migration (R232). -/
def writesPinned : Accessor → Bool
  | .station _ => true
  | .scrub => true
  | _ => false

/-- CELLAR_WRITE: a cellar die encrypts and tags a write (R536, R538), or holds it (R283); a write into a pinned region is not performed (R232). -/
def cellarWriteRow (x : Accessor) (a : Nat) (l : List Byte) (s : State) : State :=
  if s.trafficStopped a l.length || (s.trafficHeld a l.length && !classOne x) then s
  else if s.pinned a l.length false && !writesPinned x then s.raise (68 + cellarOf a) fWeightsPinned (s.memParty x a) (le 8 a)
  else (s.memWrite x a l).getD (s.memUnmapped x (68 + cellarOf a) a)

def execCellarWrite (acc : Accessor) (addr : Nat) (data : List Byte) (s : State) : Out := need (accOk acc) (cellarWriteRow acc addr data s)

/-- A channel in service: one that carries frames. -/
def inService (c : ChSt) : Bool := c == .active || c == .draining || c == .returning

/-- The frame whose bytes stand at index `i` of channel `ch` (R277): its own, the one remapped to that spare frame, or, where a spare frame is free, the
spare frame under its own address; none where a mapped frame has gone elsewhere. -/
def State.frameAt (s : State) (ch i : Nat) : Option Nat :=
  let k := ownFrame ch i
  if i < s.spareBase then (if (s.frame k).remap.isNone then some k else none)
  else some (((tabKeys s.frames fun _ f => f.remap == some (ch, i)).head?).getD k)

/-- The marks of a line are gone, but for a tag's. -/
def State.cleanLine (s : State) (i : Nat) : State := { s with marks := s.marks.filter fun e => e.1 / 8 != i || e.2 == .tag }

/-- PATROL_SCRUB (R277, R275): a frame of a channel that carries frames is read; `raced` lists the lines written since the read, whose write-back is dropped.
As class 3 traffic it waits while that is held (R283). -/
def patrolScrub (ch i : Nat) (raced : List Nat) (s : State) : State :=
  if !inService (s.channel ch).st || (s.channel ch).held then s
  else match s.frameAt ch i with
  | none => s
  | some k =>
    let a := frameAddr (k / 4194304) (k % 4194304)
    each (s.linesIn a frameBytes) s fun s e =>
      let p := e.1 * 64
      match e.2 with
      | .corrected =>
        let s := s.cellarCorrectOn ch p
        if raced.contains p then s else s.cleanLine e.1
      | .uncorr => (s.memUncorr .scrub (68 + cellarOf p) fMemUncorr p ch 3).modChannel ch fun c => { c with ue := true }
      | _ => s

def execPatrolScrub (ch frame : Nat) (raced : List Nat) (s : State) : Out := need (isChannel ch && decide (frame < 1048576)) (patrolScrub ch frame raced s)

/-- The copy of a frame: an uncorrectable line is reported and copied as read, with new check bits (R275, R281); tags move unchanged (R536). -/
def State.copyFrame (s : State) (k : Nat) : State :=
  let a := frameAddr (k / 4194304) (k % 4194304)
  each (s.linesIn a frameBytes) s fun s e =>
    let p := e.1 * 64
    match e.2 with
    | .uncorr => (s.cellarUncorr .scrub p 3).cleanLine e.1
    | .corrected => (s.cellarCorrect p).cleanLine e.1
    | _ => s

/-- Corrections of a frame within 24 hours (R274). -/
def State.recentCorrections (s : State) (k n : Nat) : Nat := ((s.frame k).corrections.filter fun t => n < t + dayCounts).length

/-- FRAME_MIGRATE (R274): a frame with 64 corrections within 24 hours moves to a spare frame on another channel, if one is free. A frame without backing
store has nothing to copy (R282), and a copy waits while its class is held on its channel, and goes to none that holds it (R283). -/
def frameMigrate (d f : Nat) (s : State) : State :=
  let k := frameKey (d - 68) f
  if s.recentCorrections k (s.count d) < 64 || s.unbacked k || (s.channel (s.frameChannel k)).held then s
  else
    let old := s.frameChannel k
    match (s.copyFrame k).remapTo k ((otherChannels old).filter fun c => !(s.channel c).held) with
    | none => s
    | some t => t.note d 0x0B 274 noCtx (le 8 (frameAddr (d - 68) f) ++ le 1 old ++ le 1 (t.frameChannel k))

def execFrameMigrate (die frame : Nat) (s : State) : Out := need (isCellar die && decide (frame < 4194304)) (frameMigrate die frame s)

/-- The outcome of the command that a queue is performing. -/
def State.finish (s : State) (q : QRef) (o : Done) : State :=
  s.modQueue q fun x => match x.cmds with
    | p :: t => { x with cmds := { p with outcome := some o } :: t }
    | [] => x

def chCode : ChSt → Nat
  | .absent => 0
  | .training => 1
  | .active => 2
  | .draining => 3
  | .drained => 4
  | .returning => 5
  | .failed => 6

/-- A channel takes a state; the change is recorded by its cellar die (R562 KIND 0x03). -/
def State.channelTo (s : State) (ch : Nat) (st : ChSt) : State :=
  (s.noteState (68 + ch / 4) 1 ch (chCode (s.channel ch).st) (chCode st)).modChannel ch fun c => { c with st := st }

/-- The command that drains or returns a channel ends. -/
def State.channelDone (s : State) (ch : Nat) (o : Done) : State :=
  match (s.channel ch).drainQ with
  | some q => (s.finish q o).modChannel ch fun c => { c with drainQ := none }
  | none => s

/-- Channels that the next frame of a drain may go to, in turn: ACTIVE, their traffic not held, with no more than ceiling(n ÷ 47) of its frames (R278 step
2). -/
def State.drainTargets (s : State) (ch : Nat) : List Nat :=
  let x := s.channel ch
  let l := (otherChannels ch).filter fun c =>
    (s.channel c).st == .active && !(s.channel c).held && decide (tabGet 0 x.movedTo c < ceilDiv x.drainN 47)
  l.drop (x.moved % max 1 l.length) ++ l.take (x.moved % max 1 l.length)

/-- The next frame of a draining channel is copied whole and its remap entry switches (R278 steps 2 and 3). A read meets the old copy until then and a write
reaches what is copied, so the 4 KiB pieces do not show (log entry 100). -/
def drainStep (ch : Nat) (s : State) : State :=
  if (s.channel ch).st != .draining || (s.channel ch).held then s
  else match s.toMove ch with
  | [] => s
  | k :: _ => match (s.copyFrame k).remapTo k (s.drainTargets ch) with
    | none => s
    | some t => t.modChannel ch fun x => { x with
        moved := x.moved + 1, movedTo := tabSet x.movedTo (t.frameChannel k) (tabGet 0 x.movedTo (t.frameChannel k) + 1) }

/-- Frames one after another, `n` of them. -/
def drainSteps (ch : Nat) : Nat → State → State
  | 0, s => s
  | n + 1, s => drainSteps ch n (drainStep ch s)

/-- CHANNEL_DRAINED (R278): the last frames of the channel are copied and remapped; with every frame remapped the channel is DRAINED, its module held in
reset without clocks (R280), and the command completes. -/
def channelDrained (ch : Nat) (s : State) : State :=
  if (s.channel ch).st != .draining then s
  else
    let s := drainSteps ch (s.toMove ch).length s
    if !(s.toMove ch).isEmpty then s
    else (((s.channelTo ch .drained).modChannel ch fun c => { c with resetN := true, clocksOff := true }).channelDone ch { result := (s.channel ch).moved })

def execChannelDrained (ch : Nat) (s : State) : Out := need (isChannel ch) (channelDrained ch s)

/-- F_CH_FAIL (R282): once; the channel FAILED, its frames that are not remapped unbacked, a drain or return in progress ended with error. -/
def State.failChannel (s : State) (ch : Nat) : State :=
  if (s.channel ch).st == .failed then s
  else
    let s := if (s.channel ch).failTold then s else s.raise (68 + ch / 4) fChFail [] (le 1 ch)
    let s := s.channelTo ch .failed
    (s.modChannel ch fun c => { c with failTold := true, unbacked := true }).channelDone ch { status := 1, result := (s.channel ch).moved }

/-- CHANNEL_FAIL (R282). -/
def channelFail (ch : Nat) (s : State) : State := if inService (s.channel ch).st then s.failChannel ch else s

def execChannelFail (ch : Nat) (s : State) : Out := need (isChannel ch) (channelFail ch s)

/-- SPD_TEMP_POLL (R283): above 85 °C refresh doubles, above 95 °C class 2 and 3 traffic is held, with a ledger entry. -/
def spdTempPoll (ch : Nat) (t : Int) (s : State) : State :=
  let hot := decide (380 < t)
  let s := if hot && !(s.channel ch).hot then s.note (68 + ch / 4) 0x0B 283 noCtx (le 1 ch ++ le 8 (ofSigned 64 t)) else s
  s.modChannel ch fun c => { c with temp := t, doubled := decide (340 < t), hot := hot, held := hot }

def execSpdTempPoll (ch : Nat) (temp : Int) (s : State) : Out := need (isChannel ch) (spdTempPoll ch temp s)

/-- CA_PARITY_ALERT and WRITE_CRC_ALERT (R283): up to four retries, each counted in CL_CE; one that persists fails the channel. -/
def retryAlert (ch retries : Nat) (recovered : Bool) (s : State) : State :=
  let s := s.modChannel ch fun c => { c with ce := stick 16 (c.ce + min retries 4) }
  if recovered && retries ≤ 4 then s else s.failChannel ch

def execCaParityAlert (ch retries : Nat) (recovered : Bool) (s : State) : Out := need (isChannel ch) (retryAlert ch retries recovered s)
/-- WRITE_CRC_ALERT (R283). -/
def execWriteCrcAlert (ch retries : Nat) (recovered : Bool) (s : State) : Out := need (isChannel ch) (retryAlert ch retries recovered s)

/-- MRCD_VIOLATION (R283): discarded, counted in the ledger, and on the sixteenth within 1 ms the channel fails. -/
def mrcdViolation (ch : Nat) (s : State) : State :=
  let d := 68 + ch / 4
  let n := s.count d
  let at_ := ((s.channel ch).mrcdAt.filter fun t => n < t + 1000000) ++ [n]
  let s := (s.note d 0x0B 283 noCtx (le 1 ch ++ le 8 at_.length)).modChannel ch fun c => { c with mrcdAt := at_ }
  if 16 ≤ at_.length then s.failChannel ch else s

def execMrcdViolation (ch : Nat) (s : State) : Out := need (isChannel ch) (mrcdViolation ch s)

/-- SPARE's clamp (R279, R284). -/
def clampSpare (v : Nat) : Nat := if v = 0 then 0 else if v < 21848 then 21848 else v / 8 * 8

/-- CL_CFG (R284): SCRUB_HOURS, and SPARE before the first admission, which recomputes the tag store (R548): the tags of the new tag store are zero,
so that no sector has been written. -/
def clCfgWrite (v : Word) (s : State) : State :=
  let s := { s with scrubHours := clampN 1 168 (bits v.toNat 16 8) }
  if s.admitted then s else ({ s with spareFrames := clampSpare (bits v.toNat 0 16), written := [] } : State).respare

def execClCfgWrite (value : Word) (s : State) : Out := need true (clCfgWrite value s)

/-- LARDER_READ (R286): `corr` are the bit errors that the code finds in the pages of the range, from the first on; a page not listed holds what it held. It waits while its die holds its class
of traffic, or all of it (R490, R491). -/
def larderReadRow (x : Accessor) (a n : Nat) (corr : List Nat) (s : State) : State :=
  if s.trafficStopped a n || (s.trafficHeld a n && !classOne x) then s
  else match s.locate a n with
  | .larder _ =>
    let s : State := { s with pageErrs := (List.zip (pagePieces a n) corr).foldl (fun t p => tabSet t (p.1.1 / 4096) p.2) s.pageErrs }
    match s.larderGet x a n with
    | (t, some l) => t.answer "larderRead" a (wordsOf l)
    | (t, none) => t
  | _ => s.memUnmapped x 80 a

def execLarderRead (acc : Accessor) (addr len : Nat) (corrections : List Nat) (s : State) : Out := need (accOk acc) (larderReadRow acc addr len corrections s)

/-- TAG_ERASE (R545): the tags of a cellar die's ERASING granules are zero; their sectors read as zero and they are UNOWNED. It is class 2
traffic: the granules whose tags lie on a channel that holds it wait (R283). -/
def tagErase (d : Nat) (s : State) : State :=
  each ((tabKeys s.owners fun g o => o == .erasing && decide (g % 12 = d - 68)).filter fun g => !(s.channel (s.frameChannel (s.tagFrame g))).held) s fun s g =>
    { s with
      owners := tabSet s.owners g .unowned
      mem := zeroBytes s.mem (g * granuleBytes) granuleBytes
      written := s.written.filter fun e => e.1 / 4096 ≠ g
      marks := s.marks.filter fun e => e.2 != .tag || decide (e.1 / 262144 ≠ g) }

def execTagErase (die : Nat) (s : State) : Out := need (isCellar die) (tagErase die s)

/-- The first property of R266 in which a module differs, in the order of that table from 1; 0xFE where its SPD hub does not answer and 0xFF where the
checksum fails (R283; DESIGN CHOICE, log entry 94). -/
def moduleFault (m : ModuleRead) : Option Nat :=
  if !m.answers then some 0xFE else if !m.checksum then some 0xFF
  else if !m.mrdimm then some 1 else if m.gib != 64 then some 2 else if m.mts != 12800 then some 3
  else if m.subChannels != 2 || m.dataBits != 32 || m.checkBits != 8 then some 4
  else if m.deviceBits != 4 || m.deviceGbit != 16 || m.ranks != 2 || m.devices != 20 then some 5 else none

/-- A module passes the check and the training, which is tried again up to 3 times (R266, R283). -/
def modulePasses (m : ModuleRead) : Bool := (moduleFault m).isNone && decide (m.trainFails ≤ 3)

/-- A module that returns: its SPD is read, its on-die error counts are not, and no row of it is repaired (R267). -/
def returning (m : ModuleRead) : ModuleRead := { m with odEcc := 0, repaired := [] }

/-- A module is read as its channel comes up or returns: what it shows is kept, and what it lacks is recorded (R283, R556). -/
def State.readModule (s : State) (ch : Nat) (m : ModuleRead) : State :=
  let s := s.modChannel ch fun c => { c with module := m, resetN := false, clocksOff := false }
  match moduleFault m with
  | some p => s.note (68 + ch / 4) 0x0B 283 noCtx (le 1 ch ++ le 1 p)
  | none => s

/-- A written sector whose data or whose tag lay in a frame that has been zeroed: a zero tag makes the sector read as zero, and a tag that stands over zeroed
data does not match (R536, R539). -/
def State.zeroSectors (s : State) (lost : List Nat) : State :=
  let bad := (tabKeys s.written fun _ w => w).filterMap fun i =>
    let t := lost.contains (s.tagFrame (i / 4096))
    if t then some (i, true) else if lost.contains (frameOf (512 * i)) then some (i, false) else none
  each bad s fun s e =>
    if e.2 then { s with
      written := s.written.filter (fun w => w.1 != e.1), mem := zeroBytes s.mem (512 * e.1) 512, marks := s.marks.filter fun m => m.1 / 64 != e.1 }
    else { s with marks := (List.range 8).foldl (fun t i => tabSet t (64 * e.1 + 8 * i) .tag) s.marks }

/-- Frames written with zero: no byte and no error of theirs is left, and what that does to the sectors there (R280 step 1). -/
def State.zeroFrames (s : State) (lost : List Nat) : State :=
  (each lost s fun s k => { s.cleanFrame k with mem := zeroBytes s.mem (frameAddr (k / 4194304) (k % 4194304)) frameBytes }).zeroSectors lost

/-- The spare frames of a channel that no frame lies in hold no error any more: they have been written with zero (R280 step 1). -/
def State.cleanSpares (s : State) (ch : Nat) : State :=
  { s with marks := s.marks.filter fun e =>
      let k := frameOf (8 * e.1)
      e.2 == .tag || homeChannel k != ch || decide (homeIndex k < s.spareBase) || (s.frame k).remap.isSome }

/-- Copying a channel's frames back waits while its class is held on the channel or on one that they come from (R283). -/
def State.returnHeld (s : State) (ch : Nat) : Bool :=
  (s.channel ch).held || s.frames.any fun e => e.2.remap.isSome && homeChannel e.1 == ch && (s.channel (s.frameChannel e.1)).held

/-- CHANNEL_RETURNED (R280): the frames of a module that passes are zeroed, remapped frames are copied back and their spare frames freed; one that fails the
check or the training leaves the channel FAILED with its frames still remapped, and the command ends with error status. A frame that lies on a channel FAILED
meanwhile has no data to copy: it is reported (R281) and stays where it is. -/
def channelReturned (ch : Nat) (m : ModuleRead) (s : State) : State :=
  if (s.channel ch).st != .returning then s
  else if modulePasses m && s.returnHeld ch then s
  else
    let s := s.readModule ch (returning m)
    if modulePasses m then
      let home := tabKeys s.frames fun k f => f.remap.isSome && decide (homeChannel k = ch)
      let back := home.filter fun k => s.frameChannel k == ch || !s.unbacked k
      let lost := if (s.channel ch).unbacked then s.framesOn ch ++ s.guests ch else []
      let s := (s.zeroFrames lost).cleanSpares ch
      let s := each (home.filter fun k => !back.contains k) s fun s k => s.cellarUncorr .scrub (frameAddr (k / 4194304) (k % 4194304)) 3
      let s := each back s fun s k => ((s.copyFrame k).cleanFrame k).modFrame k fun f => { f with remap := none, corrections := [] }
      ((s.modChannel ch fun c => { c with unbacked := false, unmappedFrames := false, failTold := false }).channelTo ch .active).channelDone ch { result := back.length }
    else (s.channelTo ch .failed).channelDone ch { status := 1 }

def execChannelReturned (ch : Nat) (shown : ModuleRead) (s : State) : Out := need (isChannel ch) (channelReturned ch shown s)

end Sys2Proof.Machine
end

