-- ==== Sys2Proof/Machine/Fabric.lean ====
section
/-! DEFINITION. Chapter 15, the source side: fabric addresses, flows and groups as a mover sends on them, and the atomics of a cellar die. -/

namespace Sys2Proof.Machine

/-! ## Fabric addresses (R436, R437) -/

def faPkg (a : Nat) : Nat := bits a 50 14
def faSpace (a : Nat) : Nat := bits a 48 2
def faLow (a : Nat) : Nat := bits a 0 48

/-- What a fabric address names. -/
inductive Far where
  | here (a : Nat)
  | remote (pkg a : Nat)
  | tally (pkg vid : Nat)
  | atomic (pkg a : Nat)
  | group (id off : Nat)
  | none
  deriving DecidableEq, Repr

/-- A fabric address; a SPACE 0 address whose PKG is not 0 names nothing (R438). -/
def farOf (a : Nat) : Far :=
  match faSpace a with
  | 0 => if faPkg a = 0 then .here (faLow a) else .none
  | 1 => .remote (faPkg a) (faLow a)
  | 2 => if bit a 47 then .atomic (faPkg a) (bits a 0 47) else .tally (faPkg a) (bits a 0 16)
  | _ => .group (bits a 32 16) (bits a 0 32)

/-! ## Where a request goes over the mesh (R25, R26, R51) -/

/-- The die that a local range is reached on: that of its shelf or loft, or of its memory. -/
def State.placeDie (s : State) (a n : Nat) : Option Nat :=
  match s.locate a n with
  | .shelf k _ => some (k / 4)
  | .loft d _ => some d
  | .cellar b => some (68 + cellarOf b)
  | .larder b => some (80 + (b - larderBase) / 0x1000000000)
  | _ => none

/-- A mesh request from die `d` to a local range goes nowhere: no path leads to its die (R26). -/
def State.cutOff (s : State) (d a n : Nat) : Bool := (s.placeDie a n).any fun e => !s.reaches d e

/-- A mesh request to a local range waits: it addresses the cores of a die at OP0 (R51). -/
def State.placeWaits (s : State) (a n : Nat) : Bool := match s.locate a n with
  | .shelf k _ => s.atOp0 (k / 4)
  | _ => false

/-! ## Flows at their source (R445, R447) -/

def State.flow? (s : State) (f : Nat) : Option Flow := tabGet none s.flows f
def State.setFlow (s : State) (f : Nat) (x : Option Flow) : State := { s with flows := tabSet s.flows f x }
def State.modFlow (s : State) (f : Nat) (g : Flow → Flow) : State :=
  match s.flow? f with
  | some x => s.setFlow f (some (g x))
  | none => s

/-- The key of a group: context × 65536 + id. -/
def groupKey (ctx id : Nat) : Nat := ctx * 65536 + id
def State.group? (s : State) (k : Nat) : Option Group := tabGet none s.groups k
def State.setGroup (s : State) (k : Nat) (x : Option Group) : State := { s with groups := tabSet s.groups k x }
def State.modGroup (s : State) (k : Nat) (g : Group → Group) : State :=
  match s.group? k with
  | some x => s.setGroup k (some (g x))
  | none => s

/-- The usable flow of a context to a package, on a path that carries class 1 where that is asked. -/
def State.flowTo (s : State) (c pkg : Nat) (class1 : Bool) : Option Nat :=
  (tabKeys s.flows fun _ x => match x with
    | some f => f.usable && f.ctx == c && f.dest == pkg && (!class1 || f.class1)
    | none => false).head?

/-- The first output port of a flow's present route. -/
def flowPort (x : Flow) : Nat := (x.routes.getD x.route []).headD 0

/-- The most packets that a flow may have unacknowledged: its window, and its share of the tracked requests (R445, R448). -/
def flowLimit (x : Flow) : Nat := min 256 x.tracked

/-- The tracked requests that a context holds: of its flows' packets that are not acknowledged, and of its movers' copies (R448). -/
def State.trackedHeld (s : State) (c : Nat) : Nat :=
  (s.flows.filterMap fun e => match e.2 with
    | some f => if f.ctx = c then some f.sent else none
    | none => none).sum + ((s.ctxCores c).map fun k => ((s.core k).mover.map (·.tracked)).sum).sum

/-- The tracked requests that a context may still take (R448): of the quota that its plan set; a context without a plan shares what the quotas leave of
the package's 1,048,576 (DESIGN CHOICE, log entry 108). -/
def State.trackedFree (s : State) (c : Nat) : Nat :=
  if (s.ctx c).tracked ≠ 0 then (s.ctx c).tracked - s.trackedHeld c
  else 1048576 - ((s.boundCtxs.map fun d => if (s.ctx d).tracked = 0 then s.trackedHeld d else (s.ctx d).tracked).sum)

/-- The owner of lanes that a flow, or a group, of a package reserves (R450). -/
def flowOwner (pkg f : Nat) : Nat := pkg * 2 ^ 32 + f
def groupOwner (pkg k : Nat) : Nat := pkg * 2 ^ 32 + 2 ^ 30 + k

/-- The lanes of an owner are shared again. -/
def State.freeLanes (s : State) (own : Nat) : State :=
  { s with ports := s.ports.map fun e => (e.1, { e.2 with lanesOwned := e.2.lanesOwned.filter fun l => l.2 != some own }) }

/-- The data of a SETUP message in the model's layout (DESIGN CHOICE, log entry 20): job, lanes, the hop that the message has reached, flags (bit 0
release, bit 1 group, bit 2 sync-tree edge, bit 3 a group member is pruned, bit 4 it is restored), the route's ports, the landing area, the bound so far, the
path and the job check of R544. -/
structure SetupMsg where
  job : Nat := 0
  lanes : Nat := 0
  hop : Nat := 0
  release : Bool := false
  group : Bool := false
  sync : Bool := false
  prune : Bool := false
  restore : Bool := false
  route : List Nat := []
  base : Nat := 0
  len : Nat := 0
  bound : Nat := 0
  path : Nat := 0
  mac : List Byte := []
  deriving DecidableEq, Repr

def setupBytes (m : SetupMsg) : List Byte :=
  be 4 m.job ++ be 1 m.lanes ++ be 1 m.hop ++ be 1 (b2n m.release + 2 * b2n m.group + 4 * b2n m.sync + 8 * b2n m.prune + 16 * b2n m.restore) ++ be 1 m.route.length ++ be 8 m.base ++ be 8 m.len ++ be 4 m.bound ++
    be 4 m.path ++ slice m.mac 0 16 ++ m.route.map (BitVec.ofNat 8)

def setupOf (l : List Byte) : SetupMsg :=
  { job := ofBe (slice l 0 4), lanes := ofBe (slice l 4 1), hop := ofBe (slice l 5 1), release := bit (ofBe (slice l 6 1)) 0, group := bit (ofBe (slice l 6 1)) 1,
    sync := bit (ofBe (slice l 6 1)) 2, prune := bit (ofBe (slice l 6 1)) 3, restore := bit (ofBe (slice l 6 1)) 4,
    route := (slice l 48 (min 40 (ofBe (slice l 7 1)))).map (·.toNat), base := ofBe (slice l 8 8), len := ofBe (slice l 16 8), bound := ofBe (slice l 24 4),
    path := ofBe (slice l 28 4), mac := slice l 32 16 }

/-- The key of a flow at its destination: source package, flow, and whether it is a group. -/
def rxKeyOf (srcPkg flow : Nat) (group : Bool) : Nat := (srcPkg * 2 + b2n group) * 2 ^ 32 + flow

/-- A packet that goes back to the source of its flow. -/
def goesBack (p : Packet) : Bool := [3, 6, 7, 8, 0x0A, 0x0C].contains p.ptype

/-- A packet of a group: its copies, its acknowledgements, and a NACK whose ADDR lies in the group space. -/
def groupPacket (p : Packet) : Bool := p.ptype == 0x0B || p.ptype == 0x0C || (p.ptype == 7 && faSpace p.addr.toNat == 3)

/-- The job of a packet that leaves the package: that of the flow or group that it belongs to, at its source, its destination or on its way. -/
def State.packetJob (s : State) (p : Packet) : Option Nat :=
  let src := if goesBack p then p.dstPkg else p.srcPkg
  if src = s.pkgId then
    if groupPacket p then (s.groups.findSome? fun e => e.2.bind fun g => if g.id = p.flow then some (s.ctx g.ctx).job else none)
    else (s.flow? p.flow).map fun f => (s.ctx f.ctx).job
  else match tabGet none s.rxFlows (rxKeyOf src p.flow (groupPacket p)) with
    | some x => some (s.ctx x.ctx).job
    | none => (s.transits.find? fun t => t.srcPkg == src && t.flow == p.flow && t.group == groupPacket p).map (·.job)

/-- A SETUP message sets out along a route: for a flow, or for a group's tree. -/
def State.sendSetup (s : State) (dst flow route : Nat) (m : SetupMsg) : State :=
  s.emit (m.route.headD 0) { s.packet 9 3 dst flow 0 (48 + m.route.length) (setupBytes m) with route := route }

/-- A flow goes: its own lanes are shared again, and a release sets out along each of its routes (R455). -/
def State.dropFlow (s : State) (f : Nat) : State :=
  match s.flow? f with
  | none => s
  | some x =>
    let s := (s.setFlow f none).freeLanes (flowOwner s.pkgId f)
    each x.routes.zipIdx s fun s r => s.sendSetup x.dest f r.2 { release := true, hop := 1, route := r.1 }

/-- The route 0 of a context's path. -/
def State.pathRoute (s : State) (c path : Nat) : List Nat :=
  (s.flows.filterMap fun e => match e.2 with
    | some f => if f.ctx = c && f.path = path then some (f.routes.getD 0 []) else none
    | none => none).headD []

/-- A SETUP message along a group member's branch of the tree: its release, its pruning or its return. -/
def State.sendMember (s : State) (g : Group) (x : SetupMsg) (m : Member) : State :=
  s.sendSetup m.pkg g.id 0 { x with group := true, hop := 1, route := s.pathRoute g.ctx m.path }

def State.dropGroup (s : State) (k : Nat) : State :=
  match s.group? k with
  | none => s
  | some g => each g.members ((s.setGroup k none).freeLanes (groupOwner s.pkgId k)) fun s m => s.sendMember g { release := true } m

/-- The flows of a context on one path, or on every path (R455). -/
def State.pathFlows (s : State) (c path : Nat) : List Nat := tabKeys s.flows fun _ x => match x with
  | some f => f.ctx == c && (path == 0xFFFFFFFF || f.path == path)
  | none => false

/-- The groups of a context that lose a member with a path, or every group (R461). -/
def State.pathGroups (s : State) (c path : Nat) : List Nat := tabKeys s.groups fun _ x => match x with
  | some g => g.ctx == c && (path == 0xFFFFFFFF || g.members.any fun m => m.path == path)
  | none => false

/-- Paths of a context are torn down, with the groups that use them, and with its last path its quota (R455). -/
def State.dropPaths (s : State) (c path : Nat) : State :=
  let fs := s.pathFlows c path
  let gs := s.pathGroups c path
  let s := each fs (each gs s State.dropGroup) State.dropFlow
  let s := if s.pathFlows c 0xFFFFFFFF = [] then s.modCtx c fun x => { x with tracked := 0 } else s
  if path = 0xFFFFFFFF then { s with pathJobs := s.pathJobs.filter fun (j : PathJob) => j.ctx != c } else s

/-- A set-up under way ends without its flows and groups, and its context has the quota that it had before (R454). -/
def State.dropJob (s : State) (j : PathJob) : State :=
  let s : State := { s with pathJobs := s.pathJobs.filter fun (k : PathJob) => k.q != j.q }
  (each j.flows (each j.groups s State.dropGroup) State.dropFlow).modCtx j.ctx fun x => { x with tracked := j.oldQuota }

/-- A packet as it leaves: by route, stamped when it is first issued (R446). -/
def stamped (route now : Nat) (p : Packet) : Packet :=
  { p with route := route, stamp := if p.retransmit then p.stamp else BitVec.ofNat 64 now }

/-- Send what the window, and the tracked requests that are left, let through of the packets not sent yet (R445, R448). -/
def State.pump (s : State) (f : Nat) : State :=
  match s.flow? f with
  | none => s
  | some x =>
    let n := min (min x.window.length (flowLimit x)) (x.sent + s.trackedFree x.ctx)
    let now := s.count (88 + flowPort x)
    let w := x.window.zipIdx.map fun p => if x.sent ≤ p.2 && decide (p.2 < n) then stamped x.route now p.1 else p.1
    let o := x.owners.zipIdx.map fun p => if x.sent ≤ p.2 && decide (p.2 < n) then (p.1.1, p.1.2 + 1) else p.1
    if n ≤ x.sent then s
    else (s.setFlow f (some { x with sent := n, window := w, owners := o })).post (flowPort x) ((w.take n).drop x.sent)

/-- Tracked requests of a context are free again: its flows go on (R448). -/
def State.pumpCtx (s : State) (c : Nat) : State :=
  each (tabKeys s.flows fun _ x => match x with
    | some f => f.ctx == c
    | none => false) s State.pump

/-- The link die that holds a flow: that of the first hop of its route 0 (R445). -/
def flowHome (x : Flow) : Nat := 88 + (x.routes.headD []).headD 0

/-- F_FABRIC_UNREACH of a flow, which the link die that holds it reports (R447, R501): the job is faulted. -/
def State.unreach (s : State) (f : Nat) : State :=
  match s.flow? f with
  | none => s
  | some x => s.raise (flowHome x) fFabricUnreach [x.ctx] (le 4 f ++ le 2 x.dest ++ le 4 x.oldest.toNat)

/-- Send again from the oldest packet that is not acknowledged; a packet already sent 8 times makes the destination unreachable (R447). -/
def State.resend (s : State) (f : Nat) : State :=
  match s.flow? f with
  | none => s
  | some x =>
    if x.window.isEmpty then s
    else if 8 ≤ ((x.owners.head?.map (·.2)).getD 0) then s.unreach f
    else (s.setFlow f (some { x with
      sent := 0, window := x.window.zipIdx.map fun p => if p.2 < x.sent then { p.1 with retransmit := true } else p.1 })).pump f

/-- Route `r` of a flow has failed: a flow that is on it moves to the lowest route above it that has not failed, and sends again (R459); with none
left the destination is unreachable (R460). -/
def State.flowRouteFail (s : State) (f r : Nat) : State :=
  match s.flow? f with
  | none => s
  | some x =>
    let failed := addTo x.failedRoutes r
    let s := s.setFlow f (some { x with failedRoutes := failed })
    if x.route ≠ r then s
    else match (List.range x.routes.length).find? fun k => r < k && !failed.contains k with
      | some k => (s.setFlow f (some { x with failedRoutes := failed, route := k, timeouts := 0 })).resend f
      | none => s.unreach f

/-- The flows whose present route leaves by a port. -/
def State.portFlows (s : State) (p : Nat) : List Nat := tabKeys s.flows fun _ x => match x with
  | some f => flowPort f == p
  | none => false

/-- A link die tells the source of a flow in transit that its route has failed, at most once in 10 µs (R459). -/
def State.tellRouteFail (s : State) (t : Transit) : State :=
  let n := s.count t.die
  if (t.failAt.map fun a => decide (n < a + 10000)).getD false then s
  else
    ({ s with transits := s.transits.map fun u => if u = t then { u with failAt := some n } else u } : State).emit (t.die - 88)
      { s.packet 8 0 t.srcPkg t.flow 0 0 [] with route := t.route }

/-- A port has left UP (R459): what would leave by it is dropped, flows of the package move to another route, and the sources of flows in transit are told. -/
def State.routesDown (s : State) (p : Nat) : State :=
  let s := { s with packetOut := s.packetOut.filter fun e => e.1 != p }
  let s := each (s.portFlows p) s fun s f => match s.flow? f with
    | some x => s.flowRouteFail f x.route
    | none => s
  each (s.transits.filter fun t => t.outPort = p && !t.group) s State.tellRouteFail

/-- A packet of a flow takes the next PSN and joins the window; core `owner` waits for its acknowledgement. -/
def enqueue (owner : Nat) (x : Flow) (p : Packet) : Flow :=
  { x with next := x.next + 1, window := x.window ++ [{ p with psn := x.next }], owners := x.owners ++ [(owner, 0)] }

/-- Packets of a flow in PSN order. -/
def State.sendOn (s : State) (f owner : Nat) (l : List Packet) : State := (s.modFlow f fun x => l.foldl (enqueue owner) x).pump f

/-- The bytes of data that one packet carries at most (R446). -/
def packetBytes : Nat := 936

/-- Data cut into packets, each with the address of its first byte. -/
def cutData : Nat → Nat → List Byte → List (Nat × List Byte)
  | 0, _, _ => []
  | n + 1, a, l => if l.isEmpty then [] else (a, l.take packetBytes) :: cutData n (a + packetBytes) (l.drop packetBytes)

/-! ## Groups at their root (R462, R463) -/

/-- The first output port of route 0 toward each member, once each (R462). -/
def State.groupPorts (s : State) (g : Group) : List Nat :=
  ((g.members.filter fun m => !m.pruned).filterMap fun m => (tabKeys s.flows fun _ x => match x with
    | some f => f.ctx == g.ctx && f.path == m.path
    | none => false).head?.bind fun f => (s.flow? f).map fun x => (x.routes.headD []).headD 0).foldl addTo []

/-- Send what a group's window lets through; when it fills, the prune timer starts (R463). -/
def State.pumpGroup (s : State) (k : Nat) : State :=
  match s.group? k with
  | none => s
  | some g =>
    let n := min g.window.length 256
    let out := (g.window.take n).drop g.sent
    let ports := s.groupPorts g
    let full := if n = 256 && g.fullAt.isNone then some s.kcount else g.fullAt
    each ports (s.setGroup k (some { g with sent := n, fullAt := full })) fun s q =>
      s.post q (out.map (stamped 0 (s.count (88 + q))))

/-- The root sends a group's packets again from the oldest that is not acknowledged; after 8 sendings without an acknowledgement the destination is unreachable
(R447, R462). -/
def State.resendGroup (s : State) (k : Nat) : State :=
  match s.group? k with
  | none => s
  | some g =>
    if g.sent = 0 then s
    else if 7 ≤ g.tries then s.raise (88 + ((s.groupPorts g).headD 0)) fFabricUnreach [g.ctx] (le 4 g.id ++ le 2 s.pkgId ++ le 4 g.oldest.toNat)
    else
      let out := (g.window.take g.sent).map fun p => { p with retransmit := true }
      each (s.groupPorts g) (s.modGroup k fun x => { x with tries := x.tries + 1 }) fun s q => s.post q out

def enqueueGroup (owner : Nat) (g : Group) (p : Packet) : Group :=
  { g with next := g.next + 1, window := g.window ++ [{ p with psn := g.next }], owners := g.owners ++ [owner] }

def State.sendGroup (s : State) (k owner : Nat) (l : List Packet) : State := (s.modGroup k fun g => l.foldl (enqueueGroup owner) g).pumpGroup k

/-! ## Atomics (R442) -/

/-- An operation code of R442. -/
def atomicOk (op : Nat) : Bool := op ≤ 7 || op == 0x10

/-- The new value of a word (R442). -/
def atomicValue (op : Nat) (w v : Word) : Word :=
  let lo := fun (x : Word) => x.toNat % 2 ^ 32
  let hi := fun (x : Word) => x.toNat / 2 ^ 32
  match op with
  | 1 => w + v
  | 2 => BitVec.ofNat 64 ((lo w + lo v) % 2 ^ 32 + (hi w + hi v) % 2 ^ 32 * 2 ^ 32)
  | 3 => w &&& v
  | 4 => w ||| v
  | 5 => w ^^^ v
  | 6 => if w.toNat < v.toNat then v else w
  | 7 => if v.toNat < w.toNat then v else w
  | 0x10 => BitVec.ofNat 64 (fp32Add (lo w) (lo v) + fp32Add (hi w) (hi v) * 2 ^ 32)
  | _ => w

/-- How the atomics of one COPY end. -/
inductive AtomicAns where
  | ok (s : State)
  | badOp
  | unmapped
  | pinned
  deriving DecidableEq, Repr

/-- Request `i` on the word at `a + 8 × i`, for a context. -/
def State.atomicOne (s : State) (c a : Nat) (l : List Byte) (i : Nat) : State :=
  match s.cellarGet (.context c) (a + 8 * i) 8 with
  | (t, some w) => t.cellarPut (.context c) (a + 8 * i)
      (le 8 (atomicValue (fieldAt l (16 * i) 1) (BitVec.ofNat 64 (ofLe w)) (BitVec.ofNat 64 (fieldAt l (16 * i + 8) 8))).toNat)
  | (t, none) => t

/-- The requests of an atomic COPY at a cellar target, all or none (R440, R442). -/
def State.atomics (s : State) (c a : Nat) (l : List Byte) : AtomicAns :=
  let n := l.length / 16
  match s.locate a (8 * n) with
  | .cellar _ =>
    if !s.cellarMapped a (8 * n) || !s.mayRead (.context c) a (8 * n) || a % 8 != 0 then .unmapped
    else if !(List.range n).all fun i => atomicOk (fieldAt l (16 * i) 1) then .badOp
    else if s.pinned a (8 * n) false then .pinned
    else .ok (each (List.range n) s fun s i => s.atomicOne c a l i)
  | _ => .unmapped

end Sys2Proof.Machine
end

