-- ==== Sys2Proof/Machine/Queues.lean ====
section
/-! DEFINITION. Chapter 13, the front end: queues, doorbells, descriptors and their clamps, handles and host buffers, completion records and the
causes that hold a queue. -/

namespace Sys2Proof.Machine

/-! ## Queue state (R364 to R371) -/

/-- A queue carries a hold cause, so that it fetches nothing new (R370). -/
def qHeld (x : Queue) : Bool := x.holdLink || x.holdKeeper || x.holdCq || x.holdFull

/-- Entries of a queue's rings. -/
def qSize (x : Queue) : Nat := 2 ^ x.log2

/-- Entries rung and not fetched (R364). -/
def qRung (x : Queue) : Nat := (x.tail - x.head).toNat

/-- Every queue of the package. -/
def State.allQueues (s : State) : List QRef := (tabKeys s.queues fun _ x => x.isSome).map qrefOf

/-- The hold cause FULL: held records and commands fetched reach 4,096 (R370, R398). -/
def fullNow (x : Queue) : Queue := { x with holdFull := decide (4096 ≤ x.records.length + x.cmds.length) }

/-! ## Doorbells (R351, R352, R354, R366, R367) -/

/-- The tail that a doorbell value gives (R366). -/
def tailOf (x : Queue) (t : Half) : Half :=
  let d := (t - x.head).toNat
  if d ≤ qSize x then t
  else if d < 2 ^ 31 then x.head + BitVec.ofNat 32 (qSize x)
  else x.head

/-- A doorbell updates the tail and then fires an armed watch; on an idle batched queue it starts the window (R367, R368). A queue that by it has no rung entry
left, and none fetched, goes idle with its watch armed (R366, R367). -/
def ringQueue (t : Half) (x : Queue) : Queue :=
  let x := { x with tail := tailOf x t }
  if x.st = .idle && x.armed && decide (0 < qRung x) then
    { x with armed := false, st := .fetching, batching := x.fetch == 2 && decide (0 < x.window) }
  else if x.st = .fetching && x.cmds.isEmpty && qRung x == 0 then { x with st := .idle, armed := true, batching := false }
  else x

/-- A memory request reaches a port whose front end is ready (R346, R560); a halted start-up ignores writes (R558). -/
def State.atPort (s : State) (p : Nat) (f : State → State) : State := if (s.hp p).ready && !s.halted then f s else s

/-- A doorbell write is ignored and counted (R351). -/
def State.dropDoorbell (s : State) (p : Nat) : State := s.hqErr p .doorbell

/-- DOORBELL_WRITE: a write to BAR2 (R351); `size` in bytes. -/
def doorbellWrite (p offset size : Nat) (v : Word) (s : State) : State :=
  let q : QRef := .normal (offset / 4096) (offset % 4096 / 8)
  if !(s.hp p).doorbellEn || !(s.hp p).up || (size != 4 && size != 8) || offset % 8 != 0 then s.dropDoorbell p
  else match s.queue? q with
    | some x => if x.port = p && (s.ctx? (offset / 4096)).isSome then s.putQueue q (ringQueue (BitVec.ofNat 32 v.toNat)) else s.dropDoorbell p
    | none => s.dropDoorbell p

def execDoorbellWrite (port offset size : Nat) (value : Word) (s : State) : Out :=
  need (isHostPort port && decide (offset < 0x400000)) (if s.halted then s.dropDoorbell port else s.atPort port (doorbellWrite port offset size value))

/-- KERNEL_DOORBELL (R354): the port's kernel queue is rung while it is enabled. -/
def kernelDoorbell (p size : Nat) (v : Word) (s : State) : State :=
  if !(s.hp p).kqEnable then s
  else if size ≠ 4 ∧ size ≠ 8 then s.dropDoorbell p
  else s.putQueue (.kernel p) (ringQueue (BitVec.ofNat 32 v.toNat))

def execKernelDoorbell (port size : Nat) (value : Word) (s : State) : Out :=
  need (isHostPort port) (s.atPort port (kernelDoorbell port size value))

/-- HQ_KQ_CFG (R353): LOG2_SIZE is taken while ENABLE is 0; setting ENABLE starts the kernel queue with its indices at zero (R364), clearing it
takes the queue away. -/
def hqKqEnable (p : Nat) (v : Word) (s : State) : State :=
  let h := s.hp p
  let en := bit v.toNat 0
  let h := if h.kqEnable then h else { h with kqLog2 := clampN 6 12 (bits v.toNat 24 4) }
  let s := s.setHp p { h with kqEnable := en }
  if en && (s.queue? (.kernel p)).isNone then
    s.setQueue (.kernel p) (some { port := p, log2 := h.kqLog2, cls := 2, vector := 1, sq := h.kqSq, cq := h.kqCq, statusOk := false,
                                   holdKeeper := s.holder.isNone })
  else if !en then s.setQueue (.kernel p) none
  else s

def execHqKqEnable (port : Nat) (value : Word) (s : State) : Out := need (isHostPort port) (s.atPort port (hqKqEnable port value))

/-! ## Descriptors (R372 to R376, R380, R389) -/

/-- A field with the nearest end of its range, and whether that moved it (R374). -/
def clampF (lo hi v : Nat) : Nat × Bool := (clampN lo hi v, decide (v < lo ∨ hi < v))

def brefAt (d : List Byte) (o : Nat) : Bref := { handle := fieldAt d o 4, offset := fieldAt d (o + 4) 8 }

/-- The commands of normal queues (R380); `x` is the queue's context, `e` the second entry of a SURVEY. -/
def decodeNormal (x : Context) (d e : List Byte) : Cmd × Bool :=
  let ev (o : Nat) := clampF 0 (x.events - 1) (fieldAt d o 4)
  let orOne (v : Nat) : Word := BitVec.ofNat 64 (if v = 0 then 1 else v)
  match fieldAt d 0 1 with
  | 0x00 => (.nop, false)
  | 0x01 =>
    let n := clampF 128 16777216 (fieldAt d 28 4)
    (.launch (brefAt d 16) n.1, n.2)
  | 0x02 => let v := ev 16; (.recordEvent v.1 (orOne (fieldAt d 24 8)), v.2)
  | 0x03 => let v := ev 16; (.waitEvent v.1 (BitVec.ofNat 64 (fieldAt d 24 8)), v.2)
  | 0x04 => let n := clampF 0 (2 ^ 40) (fieldAt d 40 8); (.copy (brefAt d 16) (brefAt d 28) n.1, n.2)
  | 0x05 =>
    let n := fieldAt d 40 8
    let r := brefAt d 16
    (.fill { r with offset := alignTo 8 r.offset } (BitVec.ofNat 64 (fieldAt d 32 8)) (alignTo 8 n), n % 8 != 0)
  | 0x06 =>
    let k := fieldAt d 16 1; let r := fieldAt d 17 1; let g := clampF 0 15 (fieldAt d 18 1); let o := fieldAt d 19 1
    (.survey (if k = 2 then 2 else 1) (min r 1) g.1 (bit o 0) (bit o 1) (fieldAt d 24 8) (fieldAt d 32 8) (fieldAt d 40 8) (fieldAt d 48 8) (fieldAt d 56 8)
      (fieldAt e 0 8) (fieldAt e 8 8), (k != 1 && k != 2) || decide (1 < r) || g.2)
  | 0x07 =>
    let v := fieldAt d 24 1
    (.tableLoad (fieldAt d 16 8) (if 15 < v then 0xFF else v) (bit (fieldAt d 25 1) 0) (fieldAt d 28 4), decide (15 < v) && v != 0xFF)
  | 0x08 =>
    let k := fieldAt d 16 1; let l := clampF 0 100 (fieldAt d 17 1); let t := clampF 0 10000 (fieldAt d 20 4); let u := clampF 1 1000000 (fieldAt d 24 4)
    (.hint (min k 1) l.1 t.1 u.1, decide (1 < k) || l.2 || t.2 || u.2)
  | 0x09 => (.signalTally (fieldAt d 16 2) (if fieldAt d 20 4 = 0 then 1 else fieldAt d 20 4), false)
  | 0x0A => (.fence, false)
  | 0x0B =>
    let sl := clampF 0 7 (fieldAt d 16 1)
    let en := bit (fieldAt d 17 1) 0
    let r := ev 20
    (.setWeights sl.1 en r.1 (fieldAt d 24 8), sl.2 || r.2)
  | _ => (.nop, true)

/-- The commands of kernel queues (R389). -/
def decodeKernel (d : List Byte) : Cmd × Bool :=
  let c := fieldAt d 16 2
  match fieldAt d 0 1 with
  | 0x00 => (.nop, false)
  | 0x80 => (.createContext c (fieldAt d 24 8), false)
  | 0x81 => (.destroyContext c (decide (0 < fieldAt d 18 1)), decide (1 < fieldAt d 18 1))
  | 0x82 =>
    let q := clampF 0 511 (fieldAt d 18 2); let m := fieldAt d 20 1; let l := clampF 6 16 (fieldAt d 21 1); let k := fieldAt d 22 1
    let f := clampF 0 2 (fieldAt d 23 1); let w := clampF 0 64 (fieldAt d 24 2); let v := fieldAt d 26 2
    (.createQueue c q.1 (decide (0 < m)) l.1 (if k < 2 then 0 else 2) f.1 w.1 (clampVector v) (alignTo 4096 (fieldAt d 32 8)) (alignTo 4096 (fieldAt d 40 8))
      (alignTo 64 (fieldAt d 48 8)),
     q.2 || decide (1 < m) || l.2 || (k != 0 && k != 2) || f.2 || w.2 || clampVector v != v)
  | 0x83 => (.pathSetup c (fieldAt d 24 8) (fieldAt d 32 4), false)
  | 0x84 => (.pathTeardown c (fieldAt d 20 4), false)
  | 0x85 => (.keyInstall c (fieldAt d 24 8) (fieldAt d 32 4), false)
  | 0x86 => (.tallyForce c (fieldAt d 18 1) (fieldAt d 19 1) (fieldAt d 20 2) (fieldAt d 22 1) (fieldAt d 24 4) (fieldAt d 28 4), false)
  | 0x87 => (.recover (fieldAt d 16 1) (fieldAt d 17 1) (fieldAt d 18 2), false)
  | 0x88 => (.inventoryRead (fieldAt d 16 8) (fieldAt d 24 4), false)
  | 0x89 => (.larderWrite (fieldAt d 16 8) (fieldAt d 24 8) (fieldAt d 32 8), false)
  | 0x8A => (.dieRetire (fieldAt d 16 1) (fieldAt d 17 1), false)
  | 0x8B => let ch := clampF 0 47 (fieldAt d 16 1); (.channelDrain ch.1 (bit (fieldAt d 17 1) 0), ch.2)
  | 0x8C => (.ledgerDrain (fieldAt d 16 8) (fieldAt d 24 4) (fieldAt d 32 8), false)
  | 0x8D =>
    let q := clampF 0 511 (fieldAt d 18 2); let o := fieldAt d 20 1
    (.resumeQueue c q.1 (bit o 0) (bit o 1), q.2)
  | _ => (.nop, true)

/-- The front end checks what it decodes (R375). -/
def State.checkMode (s : State) (q : QRef) : Bool :=
  s.service != .normal || s.recover.isSome || (match q with | .normal c _ => (s.ctx c).test | .kernel _ => false)

/-- A kernel opcode (R373). -/
def isKernelOp (op : Nat) : Bool := 0x80 ≤ op && op ≤ 0x8D

/-- A descriptor decoded: the command with its header, and the outcome that check mode gives it at once (R375). -/
def State.decodeEntry (s : State) (q : QRef) (x : Queue) (d e : List Byte) : Pending :=
  let op := fieldAt d 0 1
  let r := match q with
    | .normal c _ => decodeNormal (s.ctx c) d e
    | .kernel _ => decodeKernel d
  let flags := fieldAt d 1 1
  let bad := match q with | .normal .. => isKernelOp op | .kernel _ => false
  let known := match q with | .normal .. => decide (op ≤ 0x0B) | .kernel _ => op == 0 || isKernelOp op
  let check := s.checkMode q
  { index := x.head.toNat, opcode := if known then op else 0, quiet := bit flags 0, irq := bit flags 1, tag := fieldAt d 4 4,
    hostCount := BitVec.ofNat 64 (fieldAt d 8 8), clamped := r.2, cmd := r.1,
    outcome := if check && bad then some { status := 4 } else if check && r.2 then some { status := 5 } else none }

/-- BATCH_WINDOW_EXPIRE (R368): the window of an idle batched queue ends, and fetching proceeds. -/
def batchWindowExpire (q : QRef) (s : State) : State := s.modQueue q fun x => { x with batching := false }

def execBatchWindowExpire (q : QRef) (s : State) : Out := need (isQueue q) (batchWindowExpire q s)

/-! ## Commands at the head -/

/-- The command at the head of a queue, not ended yet. -/
def State.headCmd (s : State) (q : QRef) : Option Pending :=
  match (s.queue q).cmds with
  | p :: _ => if p.outcome.isNone then some p else none
  | [] => none

/-- Replace the command at the head. -/
def State.putHead (s : State) (q : QRef) (p : Pending) : State :=
  s.modQueue q fun x => match x.cmds with
    | _ :: t => { x with cmds := p :: t }
    | [] => x

/-- The active keeper writes a journal record to the standby and to both hatch sequencers (R505). -/
def State.journalRec (s : State) (subject key : Nat) : State :=
  { s with journalNext := s.journalNext + 1, journal := s.journal ++ [{ seq := s.journalNext, subject := subject, key := key }] }

/-- The holders of the journal that can be reached: 0 the standby, 1 and 2 the hatch sequencers (R505). -/
def State.journalHolders (s : State) : List Nat :=
  (if s.keeper0 = .standby ∨ s.keeper1 = .standby then [0] else []) ++ [1, 2].filter fun h => !(s.hatch (h - 1)).failed

/-- Each reachable holder has acknowledged a record (R505). -/
def State.journalled (s : State) (seq : Nat) : Bool := s.journalHolders.all fun h => s.journal.any fun r => r.seq == seq && r.acks.contains h

/-- The head of a kernel queue passes a command that has been journalled (R505). -/
def State.settleHead (s : State) (q : QRef) : State :=
  match (s.queue q).cmds with
  | p :: t => match p.journal with
    | some n => if s.journalled n then s.modQueue q fun x => { x with head := x.head + BitVec.ofNat 32 p.span, cmds := { p with journal := none } :: t } else s
    | none => s
  | [] => s

/-- The command at the head is taken: it gets its place in the order of the package (R369). -/
def State.takeCmd (s : State) (q : QRef) (p : Pending) : State :=
  if p.taken then s else ({ s with serial := s.serial + 1 } : State).putHead q { p with taken := true, serial := s.serial }

/-- The head command waits under its own rule (R370). -/
def State.waitCmd (s : State) (q : QRef) : State := s.putQueue q fun x => { x with st := .waiting }

/-- End the head command with a status and fault. -/
def State.endCmd (s : State) (q : QRef) (status fault result : Nat) : State := s.finish q { status := status, fault := fault, result := result }

/-- A fault whose effect is the command's status alone (R501): the record goes to the context, and the command ends. -/
def State.cmdFault (s : State) (q : QRef) (status code a : Nat) : State :=
  (s.raiseTo (96 + (s.queue q).port) code (ctxOf q).toList false false (le 8 a)).endCmd q status code 0

/-- A command of R355 that the secondary port completes with error status. -/
def primaryOnly : Cmd → Bool
  | .recover .. => true
  | .dieRetire .. => true
  | .channelDrain .. => true
  | .larderWrite .. => true
  | .pathSetup .. => true
  | .pathTeardown .. => true
  | _ => false

/-- The command of a queue's head goes on as `f` says: journalled, taken, and on the secondary port refused where R355 says so. -/
def State.command (s : State) (q : QRef) (f : State → Pending → State) : State :=
  let s := s.settleHead q
  match s.headCmd q with
  | none => s
  | some p =>
    -- the active keeper performs the commands of kernel queues, once they are journalled (R505, R508)
    if ctxOf q = none && (s.holder.isNone || p.journal.isSome) then s
    else
    let s := s.takeCmd q p
    let p := (s.headCmd q).getD p
    if primaryOnly p.cmd && (s.queue q).port != s.primary then s.endCmd q 4 0 0 else f s p

/-! ## Completion (R365, R394 to R398) -/

/-- A completion record (R394). -/
def completionRecord (x : Queue) (p : Pending) (o : Done) (forced held : Bool) (now : Nat) : List Byte :=
  let phase := p.index / qSize x % 2 == 0
  le 4 p.tag ++ le 4 p.index ++ le 1 o.status ++ le 1 (b2n phase + 2 * b2n forced + 4 * b2n p.clamped + 8 * b2n held) ++ le 1 p.opcode ++ le 1 0
    ++ le 2 o.fault ++ le 2 0 ++ le 8 now ++ le 8 o.result

/-- Where the record of an entry goes (R365). -/
def recordAddr (x : Queue) (index : Nat) : Nat := x.cq + 32 * (index % qSize x)

/-- Records of a queue are held: its ring's page or its link is gone (R370, R397). -/
def recordsHeld (x : Queue) : Bool := x.holdLink || x.holdCq

/-- Post a record, with its interrupt after it; or hold it on the device. -/
def State.postRecord (s : State) (q : QRef) (x : Queue) (p : Pending) (o : Done) : State :=
  let c := match q with | .normal c _ => some c | .kernel _ => none
  let forced := (c.map fun c => (s.ctx c).tallyForced).getD false
  let n := s.count (96 + x.port)
  if recordsHeld x || !(s.hp x.port).up then s.modQueue q fun y => { y with records := y.records ++ [(completionRecord x p o forced true n, p.irq)] }
  else
    let s := s.queueWrite x.port (recordAddr x p.index) (completionRecord x p o forced false n)
    let s := match q with
      | .kernel k => (s.modHp k fun h => { h with causeDone := true }).raiseVector k 1
      | .normal .. => s
    if p.irq then s.raiseVector x.port x.vector else s

/-- Every FENCE at a queue's head whose earlier commands have completed ends (R369). -/
def State.fenceDone (s : State) (c n : Nat) : Bool :=
  (s.ctxQueues c).all fun q => match (s.queue q).cmds with
    | p :: _ => !(p.taken && p.serial < n)
    | [] => true

def State.checkFences (s : State) (c : Nat) : State :=
  each (s.ctxQueues c) s fun s q => match s.headCmd q with
    | some p => if p.cmd = .fence ∧ p.taken ∧ s.fenceDone c p.serial then s.endCmd q 0 0 0 else s
    | none => s

/-- A queue that is being deleted goes once nothing is being performed (R391). -/
def State.deleteQueue (s : State) (q : QRef) : State :=
  match (s.queue? q).bind (·.deleting) with
  | some k => (s.setQueue q none).endCmd k 0 0 0
  | none => s

/-- The context that a kernel command names. -/
def cmdCtx : Cmd → Option Nat
  | .createContext c _ => some c
  | .destroyContext c _ => some c
  | .createQueue c .. => some c
  | .pathSetup c .. => some c
  | .pathTeardown c _ => some c
  | .keyInstall c .. => some c
  | .tallyForce c .. => some c
  | .resumeQueue c .. => some c
  | .recover t _ i => if t = 3 then some i else none
  | _ => none

/-- The ledger entry of a kernel command, or of one whose status is not OK (R396). -/
def State.noteCmd (s : State) (q : QRef) (x : Queue) (p : Pending) (o : Done) : State :=
  if o.status ≠ 0 ∨ ctxOf q = none then
    s.note (96 + x.port) 0x07 0 (((ctxOf q).orElse fun _ => cmdCtx p.cmd).getD noCtx) (le 2 (match q with | .normal _ n => n | .kernel _ => 0xFFFF) ++ le 4 p.index ++ le 1 p.opcode
      ++ le 1 o.status ++ le 8 p.hostCount.toNat)
  else s

/-- The record of a command that has ended, and its ledger entry where R396 asks for one. -/
def State.recordCmd (s : State) (q : QRef) (x : Queue) (p : Pending) (o : Done) : State :=
  (if p.quiet && o.status == 0 then s else s.postRecord q x p o).noteCmd q x p o

/-- COMMAND_COMPLETE: the command at the head has ended: its record is posted or held, its entry freed, the next command may start (R365, R368,
R396). -/
def commandComplete (q : QRef) (s : State) : State :=
  let s := s.settleHead q
  match s.queue? q with
  | none => s
  | some x =>
    match x.cmds with
    | [] => s
    | p :: t =>
      match p.outcome with
      | none => s
      | some o =>
        if p.journal.isSome then s
        else
        let s := match q with
          | .kernel k => s.journalRec p.opcode (k * 2 ^ 32 + p.index)
          | .normal .. => s
        let s := s.recordCmd q x p o
        let c := ctxOf q
        let s := s.putQueue q fun x =>
          let y := fullNow { x with cmds := t, doneIdx := BitVec.ofNat 32 (p.index + p.span) }
          if y.st = .stopped then y
          else if t.isEmpty && qRung y == 0 then { y with st := .idle, armed := true } else { y with st := .fetching }
        let s := s.deleteQueue q
        -- a LARDER_WRITE no longer writes its dies (R289)
        let s := if (match p.cmd with | .larderWrite .. => true | _ => false) then each larderDies s fun s d => s.modDie d fun x => { x with writeBusy := false }
          else s
        match c with
        | some c => s.checkFences c
        | none => s

def execCommandComplete (q : QRef) (s : State) : Out := need (isQueue q) (commandComplete q s)

/-- An invalidation meets a queue of a context (R397, R399): its completion ring's page sets the CQ cause and raises the context's error vector once; its
STATUS page alone has its records skipped. -/
def State.atsQueue (s : State) (p a n c : Nat) (q : QRef) : State :=
  let x := s.queue q
  let s := if meets a n x.status 64 then s.modQueue q fun x => { x with statusOk := false } else s
  if meets a n x.cq (32 * qSize x) && !x.holdCq then (s.putQueue q fun x => { x with holdCq := true }).raiseVector p (s.ctx c).errVector else s

/-- An invalidation request that names no PASID: the kernel's address space. -/
def noPasid (pasid : Nat) : Bool := 2 ^ 20 ≤ pasid

/-- ATS_INVALIDATION, of `n` bytes from `a`: the pages that CREATE_QUEUE translated on the port, which lie in the kernel's address space (R389) and are met by a
request without a PASID, a number that no PASID of 20 bits has (log entry 115; a kernel queue's pages are not translated); then the device returns the
invalidation completion (R397). -/
def atsInvalidation (p pasid a n : Nat) (s : State) : State :=
  if !(s.hp p).ats then s
  else
    let s := each s.allQueues s fun s q => match q with
      | .normal c _ => if (s.queue q).port = p ∧ noPasid pasid = true then s.atsQueue p a n c q else s
      | .kernel _ => s
    s.answer "ATS" p []

def execAtsInvalidation (port pasid addr len : Nat) (s : State) : Out := need (isHostPort port) (atsInvalidation port pasid addr len s)

/-! ## Buffers (R377 to R379, R540, R541) -/

/-- A buffer as relocated: its kind and the address of the first byte accessed; for host memory, the buffer's base and the offset. -/
structure Buf where
  kind : Nat
  base : Nat
  offset : Nat
  exact : Bool
  deriving DecidableEq, Repr

def Buf.addr (b : Buf) : Nat := b.base + b.offset

/-- Relocate a reference for an access of `n` bytes (R378); none where it is unmapped. -/
def State.relocate (s : State) (c : Nat) (r : Bref) (n : Nat) (write : Bool) : Option Buf :=
  let x := s.ctx c
  if r.handle = 0 ∨ x.handles < r.handle then none
  else
    let h := s.handle x r.handle
    let a := h.base + r.offset
    if h.kind = 0 ∨ 3 < h.kind ∨ h.size < r.offset + n then none
    else if write && (h.readOnly || h.kind == 3) then none
    else if h.kind = 2 && !(match s.locate a n with | .cellar _ => s.cellarMapped a n | _ => false) then none
    else if h.kind = 3 && !(match s.locate a n with | .larder _ => true | _ => false) then none
    else some { kind := h.kind, base := h.base, offset := r.offset, exact := h.exact }

/-- The context keeps its host buffers as sealed chunks (R540). -/
def stagingCtx (x : Context) : Bool := x.sealed && !x.tdisp

/-- A sealed chunk's initialisation vector and additional data (R540). -/
def chunkIv (writer : Nat) (counter : List Byte) : List Byte := [BitVec.ofNat 8 writer, 0, 0, 0] ++ counter.reverse
def chunkAad (job chunk : Nat) (tail : List Byte) : List Byte := le 4 job ++ le 8 chunk ++ tail

/-- The plaintext of chunk `i` of a sealed buffer; none where its tag fails (R541). -/
def State.openChunk (s : State) (port c base i : Nat) : Option (List Byte) :=
  let x := s.ctx c
  let k := s.hostRead port (s.space c) (base + i * 4128) 4128
  gcmOpen x.staging (chunkIv (fieldAt k 4104 1) (slice k 4096 8)) (chunkAad x.job i (slice k 4096 16)) (k.take 4096) (slice k 4112 16)

/-- Read a host buffer (R541, R542): none is a failed DMA read. -/
def State.readHost (s : State) (port c : Nat) (b : Buf) (n : Nat) : Option (List Byte) :=
  let x := s.ctx c
  if dmaBarred x then none
  else if stagingCtx x then
    let i := b.offset / 4096
    let parts := (List.range ((b.offset + max n 1 - 1) / 4096 + 1 - i)).map fun j => s.openChunk port c b.base (i + j)
    if parts.all Option.isSome then some (((parts.flatMap fun p => p.getD []).drop (b.offset % 4096)).take n) else none
  else some (s.hostRead port (s.space c) b.addr n)

/-- Seal one chunk under the context's next counter (R540). -/
def State.sealChunk (s : State) (port c base i : Nat) (l : List Byte) : State :=
  let x := s.ctx c
  let tail := le 8 x.sealCounter ++ le 1 1 ++ List.replicate 7 0
  let r := gcmSeal x.staging (chunkIv 1 (le 8 x.sealCounter)) (chunkAad x.job i tail) (l ++ List.replicate (4096 - l.length) 0)
  (s.hostWrite port (s.space c) (base + i * 4128) (slice r.1 0 4096 ++ tail ++ slice r.2 0 16)).modCtx c fun x => { x with sealCounter := x.sealCounter + 1 }

/-- The bytes of a write cut into chunks. -/
def cutChunks : Nat → List Byte → List (List Byte)
  | 0, _ => []
  | n + 1, l => if l.isEmpty then [] else l.take 4096 :: cutChunks n (l.drop 4096)

/-- Write a host buffer; none is a write that a sealed context may not begin there (R541). -/
def State.writeHost (s : State) (port c : Nat) (b : Buf) (l : List Byte) : Option State :=
  let x := s.ctx c
  if dmaBarred x then none
  else if stagingCtx x then
    if b.offset % 4096 ≠ 0 then none
    else some (each (cutChunks l.length l).zipIdx s fun s p => s.sealChunk port c b.base (b.offset / 4096 + p.2) p.1)
  else some (s.hostWrite port (s.space c) b.addr l)

/-- The bytes of a buffer (R360, R378): a failed DMA read is reported, an uncorrectable line as R275 has it. -/
def State.readBuf (s : State) (port c : Nat) (b : Buf) (n : Nat) : MemAns :=
  if b.kind = 1 then (match s.readHost port c b n with
    | some l => .ok s l
    | none => .lost (s.dmaFail port c b.addr) fHostDma)
  else s.memRead (.context c) b.addr n

/-! ## Fetching (R364, R368, R372 to R376, R505) -/

/-- The entries fetched ahead of the command being performed. -/
def fetchedAhead (x : Queue) : Nat := ((x.cmds.drop 1).map (·.span)).sum

/-- The front end of a queue's port fetches: in plain mode one command at a time, otherwise up to sixteen entries ahead of the one being performed (R368). -/
def mayFetch (x : Queue) : Bool :=
  !qHeld x && x.st != .stopped && x.deleting.isNone && !x.batching && decide (0 < qRung x) &&
    (x.cmds.isEmpty || (x.fetch != 0 && decide (fetchedAhead x < 16)))

/-- A normal queue whose context's DMA ends with error (R542). -/
def State.qBarred (s : State) (q : QRef) : Bool := ((ctxOf q).map fun c => dmaBarred (s.ctx c)).getD false

/-- The launch block of a LAUNCH that is fetched ahead (R368), by the handle's entry at this time (R379). A read that gives no data is made again when the command
is performed, and reported then (DESIGN CHOICE, log entry 117). -/
def State.blockAhead (s : State) (q : QRef) (x : Queue) (p : Pending) : Option (List Byte) :=
  match q, p.cmd with
  | .normal c _, .launch r n =>
    if x.fetch = 0 || x.cmds.isEmpty then none
    else (s.relocate c r n false).bind fun b => match s.readBuf x.port c b n with
      | .ok _ l => some l
      | _ => none
  | _, _ => none

/-- DESCRIPTOR_FETCH: a kernel command is journalled, and its queue's head passes it once that is acknowledged (R505). -/
def descriptorFetch (q : QRef) (s : State) : State :=
  match s.queue? q with
  | none => s
  | some x =>
    if !mayFetch x || !(s.hp x.port).up then s
    else if s.qBarred q then s.dmaFail x.port ((ctxOf q).getD 0) x.sq
    else
      let at_ := fun (i : Half) => s.hostRead x.port (s.sqSpace q) (x.sq + 64 * (i.toNat % qSize x)) 64
      let d := at_ x.head
      let two := match q with | .normal .. => fieldAt d 0 1 == 6 && decide (0 < fieldAt d 17 1) | .kernel _ => false
      if two && (decide (qRung x < 2) || decide (16 < fetchedAhead x + 2) && !x.cmds.isEmpty) then s
      else
        let p := { s.decodeEntry q x d (if two then at_ (x.head + 1) else []) with span := if two then 2 else 1 }
        let st := fun (x : Queue) => if x.st = .waiting then FetchSt.waiting else .fetching
        match q with
        | .normal .. =>
          let p := { p with block := s.blockAhead q x p }
          s.putQueue q fun x => fullNow { x with head := x.head + BitVec.ofNat 32 p.span, st := st x, cmds := x.cmds ++ [p] }
        | .kernel k =>
          let p := { p with journal := some s.journalNext }
          ((s.journalRec p.opcode (k * 2 ^ 32 + p.index)).putQueue q fun x => fullNow { x with st := st x, cmds := x.cmds ++ [p] }).settleHead q

def execDescriptorFetch (q : QRef) (s : State) : Out := need (isQueue q) (descriptorFetch q s)

end Sys2Proof.Machine
end

