-- ==== Sys2Proof/Machine/Cask.lean ====
section
/-! DEFINITION. Chapter 8: blocks, tables, decoding, the survey's coding, the checks of a coded stream and the table slots of an expander. -/

namespace Sys2Proof.Machine

/-! ## Blocks (R237 to R241) -/

/-- Code word width and block bytes of a kind: 1 is C11, 2 is C10 (R237, R239). -/
def caskWidth (kind : Nat) : Nat := if kind = 1 then 11 else 10
def caskBytes (kind : Nat) : Nat := if kind = 1 then 180 else 164
/-- Entries of a table of a kind (R242). -/
def caskEntries (kind : Nat) : Nat := if kind = 1 then 8 else 4

/-- One bit into the CRC (R241). -/
def crc12Bit (crc : Nat) (b : Bool) : Nat :=
  let f := xor (bit crc 11) b
  let c := crc * 2 % 4096
  if f then c ^^^ 0x80F else c

/-- One byte, from bit 7 down (R241). -/
def crc12Byte (crc : Nat) (v : Byte) : Nat := [7, 6, 5, 4, 3, 2, 1, 0].foldl (fun c i => crc12Bit c (bit v.toNat i)) crc

def crc12 (l : List Byte) : Nat := l.foldl crc12Byte 0xFFF

/-- Header fields (R238). -/
def hdrCrc (h : Nat) : Nat := bits h 20 12
def hdrCount (h : Nat) : Nat := bits h 12 8
def hdrGen (h : Nat) : Nat := bits h 8 4
def hdrBase (h : Nat) : Nat := bits h 0 8

/-- The header word and the payload of a block. -/
def blockHdr (b : List Byte) : Nat := fieldAt b 0 4
def blockPayload (kind : Nat) (b : List Byte) : List Byte := slice b 4 (caskBytes kind - 4)

/-- Code word `e` of a payload (R239). -/
def codeWord (kind : Nat) (p : List Byte) (e : Nat) : Nat := bits (ofLe p) (caskWidth kind * e) (caskWidth kind)

/-! ## Tables and decoding (R242 to R245) -/

/-- An entry as a distance below the base, 0 to 127; 128 is the zero entry 0x80 (R243). -/
def entryDist (b : Byte) : Nat := (256 - b.toNat) % 256

/-- The effective exponent of a table index over a base (R244). -/
def effExp (base : Nat) (b : Byte) : Nat := if entryDist b = 128 then 0 else base - entryDist b

/-- A record's table, or none where the record is invalid (R242, R243). -/
def tableOf (r : List Byte) : Option CaskTable :=
  let kind := fieldAt r 0 1
  let es := slice r 4 8
  if (kind == 1 || kind == 2) && (es.take (caskEntries kind)).all fun b => entryDist b ≤ 128 then
    some { kind := kind, gen := fieldAt r 1 1 % 16, entries := es }
  else none

/-- Element of a code word over a base (R244): the bf16 code. -/
def decodeCode (t : CaskTable) (base cw : Nat) : Nat :=
  let sign := bits cw (caskWidth t.kind - 1) 1
  let idx := bits cw 7 (caskWidth t.kind - 8)
  sign * 2 ^ 15 + effExp base (t.entries.getD idx 0) * 2 ^ 7 + bits cw 0 7

/-- Element `e` of a block (R244). -/
def decodeAt (t : CaskTable) (b : List Byte) (e : Nat) : Nat :=
  let h := blockHdr b
  if hdrCount h ≤ e then 0 else decodeCode t (hdrBase h) (codeWord t.kind (blockPayload t.kind b) e)

/-- The 128 elements of a block. -/
def decodeBlock (t : CaskTable) (b : List Byte) : List Nat := (List.range 128).map (decodeAt t b)

/-- A variant's weight: base plus difference in fp32, narrowed to bf16 (R245). -/
def variantAdd (base diff : Nat) : Nat := narrow 0 .even false (fp32Add (widen 0 127 base) (widen 0 127 diff))

/-! ## Encoding (R246 to R249) -/

/-- The exponent field of a bf16 code. -/
def expField (v : Nat) : Nat := bits v 7 8

/-- The base exponent of a block (R246). -/
def blockBase (l : List Nat) : Nat := ((l.map expField).filter fun e => 1 ≤ e && e ≤ 254).foldl max 0

/-- Distance between two exponents. -/
def expDist (a b : Nat) : Nat := max a b - min a b

/-- Index `i` is the better choice than `j` for a true exponent (R247): nearer, then the smaller exponent, then the lower index. -/
def betterIdx (e : Nat) (i j : Nat × Nat) : Bool :=
  let di := expDist i.2 e
  let dj := expDist j.2 e
  di < dj || (di == dj && (i.2 < j.2 || (i.2 == j.2 && decide (i.1 < j.1))))

/-- The code word of an element (R247), and whether its exponent is exact. -/
def encodeElem (t : CaskTable) (base v : Nat) : Nat × Bool :=
  let e := expField v
  let cands := (List.range (caskEntries t.kind)).map fun i => (i, effExp base (t.entries.getD i 0))
  let best := cands.foldl (fun a c => if betterIdx e c a then c else a) (cands.headD (0, 0))
  let mant := if best.2 = e then bits v 0 7 else if e < best.2 then 0 else 0x7F
  (bits v 15 1 * 2 ^ (caskWidth t.kind - 1) + best.1 * 2 ^ 7 + mant, best.2 == e)

/-- The bytes of a coded block of up to 128 elements (R238, R239). -/
def encodeBlock (t : CaskTable) (l : List Nat) : List Byte :=
  let base := blockBase l
  let w := caskWidth t.kind
  let n := (l.zipIdx.map fun p => (encodeElem t base p.1).1 * 2 ^ (w * p.2)).sum
  let payload := le (caskBytes t.kind - 4) n
  le 4 (crc12 payload * 2 ^ 20 + l.length * 2 ^ 12 + t.gen * 2 ^ 8 + base) ++ payload

/-- Split a list into runs of `n`, `fuel` of them at most. -/
def chunks {α : Type} (n : Nat) : Nat → List α → List (List α)
  | 0, _ => []
  | fuel + 1, l => if l.isEmpty then [] else l.take n :: chunks n fuel (l.drop n)

/-- The key of an element over its block's base, as a distance; 128 for a zero field; none below −127 or for a field of 255 (R251). -/
def elemKey (base v : Nat) : Option Nat :=
  let e := expField v
  if e = 0 then some 128 else if e ≤ base ∧ base - e ≤ 127 then some (base - e) else none

/-- The eligible key not yet taken with the most elements; the larger offset on a tie, the zero key last (R251). -/
def bestKey (keys : List Nat) (taken : List Nat) : Option Nat :=
  ((List.range 129).filter fun k => !taken.contains k && keys.contains k).foldl
    (fun a k => match a with
      | none => some k
      | some b => if keys.count b < keys.count k then some k else some b) none

/-- Take up to `n` keys (R251). -/
def takeKeys (keys : List Nat) : Nat → List Nat → List Nat
  | 0, taken => taken
  | n + 1, taken => match bestKey keys taken with
    | some k => takeKeys keys n (taken ++ [k])
    | none => taken

/-- The survey's table (R251). -/
def buildTable (kind gen : Nat) (zero : Bool) (blocks : List (List Nat)) : CaskTable :=
  let keys := blocks.flatMap fun l => l.filterMap (elemKey (blockBase l))
  let n := caskEntries kind
  let start := if zero then [128] else []
  let taken := takeKeys keys (n - start.length) start
  let all := taken ++ ((List.range 128).filter fun k => !taken.contains k).take (n - taken.length)
  { kind := kind, gen := gen, entries := (all.map fun k => BitVec.ofNat 8 (256 - k)) ++ List.replicate (8 - n) 0 }

/-- The record of a table (R242). -/
def tableRecord (t : CaskTable) (ref : Nat) : List Byte := le 1 t.kind ++ le 1 t.gen ++ le 1 ref ++ le 1 0 ++ slice t.entries 0 8 ++ le 4 0

/-! ## A coded stream at the expander (R255 to R258, R262) -/

def eng (x : Core) (e : Nat) : Engine := if e = 0 then x.e0 else x.e1
def setEng (x : Core) (e : Nat) (g : Engine) : Core := if e = 0 then { x with e0 := g } else { x with e1 := g }
def State.modEng (s : State) (c e : Nat) (f : Engine → Engine) : State := s.modCore c fun x => setEng x e (f (eng x e))

/-- Of two slots, the one that became RETIRING first: no operation need have been released between two marks. -/
def earlier (a b : Nat × TableSlot) : Nat × TableSlot := if b.2.order < a.2.order then b else a

/-- The table that generation `g` means to an operation with release number `seq`: that of the first slot to become RETIRING after its release, which was
LOADED then, else the LOADED slot (R259, R261). -/
def residentTable (x : Engine) (g seq : Nat) : Option CaskTable :=
  match x.tables.filter fun e => e.2.st == .retiring && e.2.table.gen == g && decide (seq ≤ e.2.mark) with
  | e :: t => some (t.foldl earlier e).2.table
  | [] => (x.tables.find? fun e => e.2.st == .loaded && e.2.table.gen == g).map (·.2.table)

/-- What a stream yields: its elements, a wait for a generation at a block of its base or its difference with the elements before it, or a failed check of a block with its fault code. -/
inductive Stream where
  | ok (elems : List Nat)
  | wait (block gen : Nat) (elems : List Nat) (diff : Bool)
  | fail (block check code : Nat) (diff : Bool)
  deriving DecidableEq, Repr

/-- Checks 2 to 6 of one block (R257): the order of the check that fails and its fault. -/
def blockFault (kind : Nat) (t : CaskTable) (hdrGenOf : Option Nat) (b : List Byte) : Option (Nat × Nat) :=
  let h := blockHdr b
  let p := blockPayload kind b
  if t.kind ≠ kind then some (2, fCaskLength)
  else if (hdrGenOf.map fun g => g != hdrGen h).getD false then some (3, fCaskCheck)
  else if hdrCrc h ≠ crc12 p then some (4, fCaskCheck)
  else if hdrCount h ≠ 128 then some (5, fCaskLength)
  else if hdrBase h = 0xFF then some (6, fCaskCheck)
  else none

/-- One block of a stream: its elements, or what stops the stream there. `kind` is the stream's kind, none at block 0 (R256). -/
def streamBlock (m : Memory) (x : Engine) (seq key : Nat) (kind : Option Nat) (gen : Option Nat) (b : Nat) (diff : Bool) : Stream × Nat :=
  let k := kind.getD 1
  let a := key + b * caskBytes k
  let h := readLe m a 4
  match residentTable x (hdrGen h) seq with
  | none => (.wait b (hdrGen h) [] diff, k)
  | some t =>
    let k := kind.getD t.kind
    let blk := readBytes m a (caskBytes k)
    match blockFault k t gen blk with
    | some f => (.fail b f.1 f.2 diff, k)
    | none => (.ok (decodeBlock t blk), k)

/-- Elements that come before those of the rest of a stream. -/
def Stream.after (l : List Nat) : Stream → Stream
  | .ok r => .ok (l ++ r)
  | .wait b g r d => .wait b g (l ++ r) d
  | .fail b c f d => .fail b c f d

/-- A stream of `n` more blocks from block `b`. -/
def readStream (m : Memory) (x : Engine) (seq key : Nat) (gen : Option Nat) : Nat → Nat → Option Nat → Stream
  | 0, _, _ => .ok []
  | n + 1, b, kind =>
    match streamBlock m x seq key kind gen b false with
    | (.ok l, k) => (readStream m x seq key gen n (b + 1) (some k)).after l
    | (r, _) => r

/-- A variant: base and difference blocks read as two streams and added (R245). -/
def readVariant (m : Memory) (x : Engine) (seq key dkey : Nat) (gen dgen : Option Nat) : Nat → Nat → Option Nat → Option Nat → Stream
  | 0, _, _, _ => .ok []
  | n + 1, b, kind, dkind =>
    match streamBlock m x seq key kind gen b false with
    | (.ok l, k) => match streamBlock m x seq dkey dkind dgen b true with
      | (.ok d, dk) => (readVariant m x seq key dkey gen dgen n (b + 1) (some k) (some dk)).after (List.zipWith variantAdd l d)
      | (r, _) => r
    | (r, _) => r

/-- The kind of a stream: that of block 0's table (R256); none while that table is not resident. -/
def streamKind (m : Memory) (x : Engine) (seq key : Nat) : Option Nat := (residentTable x (hdrGen (readLe m key 4)) seq).map (·.kind)

/-- The bytes of a stream of `n` blocks; of one whose kind is not known yet, those of a shortest block. -/
def streamBytes (m : Memory) (x : Engine) (seq key n : Nat) : Nat :=
  match streamKind m x seq key with
  | some k => n * caskBytes k
  | none => caskBytes 2

/-- The kind to go on with from block `b`: block 0 finds its own. -/
def kindFrom (m : Memory) (x : Engine) (seq key b : Nat) : Option Nat := if b = 0 then none else streamKind m x seq key

/-- Blocks of a stream of `n` that the expander reads as it goes on from block `b`, by whole lines of four: the rest of a line that it holds has been read
(R255). -/
def blocksRead (r : Stream) (b n : Nat) : Nat :=
  let start := roundUp b 4
  match r with
  | .ok _ => n - start
  | .wait k _ _ _ => roundUp (k + 1) 4 - start
  | .fail k _ _ _ => roundUp (k + 1) 4 - start

/-! ## Table slots (R259 to R263) -/

/-- The four slots with their indices. -/
def tableSlots (x : Engine) : List (Nat × TableSlot) := (List.range 4).map fun i => (i, tabGet {} x.tables i)

/-- A coded operation of an engine. -/
def isCoded (q : QEntry) : Bool :=
  match q.op with
  | .engine (.tileOs _ _ _ _ coded ..) => coded
  | .engine (.loadShadow _ coded ..) => coded
  | _ => false

/-- A RETIRING slot becomes FREE when every coded operation released before its mark has completed (R261); `l` are those that have not. -/
def freeRetired (l : List QEntry) (x : Engine) : Engine :=
  { x with tables := x.tables.map fun e => if e.2.st == .retiring && !(l.any fun q => isCoded q && decide (q.seq ≤ e.2.mark)) then (e.1, {}) else e }

/-- The slot of an evict generation becomes RETIRING, with the release number it was marked at (R260 step 1). -/
def retireGen (g released : Nat) (x : Engine) : Engine :=
  { x with
    retires := x.retires + 1
    tables := x.tables.map fun e =>
      if e.2.st == .loaded && e.2.table.gen == g then (e.1, { e.2 with st := .retiring, mark := released, order := x.retires }) else e }

/-- A generation is resident: a LOADED slot holds a table of it (R259). -/
def isResident (x : Engine) (g : Nat) : Bool := x.tables.any fun e => e.2.st == .loaded && e.2.table.gen == g

/-- A TABLE_LOAD comes to the head of the table queue: the evict generation retires; a conflict completes with error (R260, R263). -/
def startLoad (p : PendingTable) (released : Nat) (l : List QEntry) (x : Engine) : Engine × Bool :=
  if isResident x p.table.gen && p.retire != some p.table.gen then (x, true)
  else match p.retire with
    | some g => (freeRetired l (retireGen g released x), false)
    | none => (x, false)

/-- The lowest FREE slot takes the table of the head, if there is one (R260 step 2). -/
def fillSlot (p : PendingTable) (x : Engine) : Option Engine :=
  ((tableSlots x).find? fun e => e.2.st == .free).map fun e =>
    { x with tables := tabSet x.tables e.1 { st := .loaded, table := p.table } }

/-- Serve the table queue as far as it goes: the engine, and each command served with whether it ended in error. The head's eviction is made once:
its `retire` is then none. -/
def serveTables : Nat → Nat → List QEntry → Engine → Engine × List (QRef × Bool)
  | 0, _, _, x => (x, [])
  | fuel + 1, released, l, x =>
    match x.tableQueue with
    | [] => (x, [])
    | p :: t =>
      let r := startLoad p released l x
      if r.2 then
        let r' := serveTables fuel released l { r.1 with tableQueue := t }
        (r'.1, (p.q, true) :: r'.2)
      else match fillSlot p r.1 with
        | some y =>
          let r' := serveTables fuel released l { y with tableQueue := t }
          (r'.1, (p.q, false) :: r'.2)
        | none => ({ r.1 with tableQueue := { p with retire := none } :: t }, [])

/-- One expander has served a queue's TABLE_LOAD: the command completes with the last of them, in error when any refused it. -/
def tableServed (s : State) (r : QRef × Bool) : State :=
  s.modQueue r.1 fun x => match x.cmds with
    | p :: t =>
      let left := p.step - 1
      let bad := p.copied + b2n r.2
      { x with cmds := { p with step := left, copied := bad, outcome := if p.outcome.isSome || left != 0 then p.outcome else some { status := if bad = 0 then 0 else 1 } } :: t }
    | [] => x

/-- The expander of engine `e` moves on: slots that may free do, and the table queue is served, which is progress (R260, R261,
R317). -/
def State.expander (s : State) (c e : Nat) : State :=
  let x := s.core c
  let l := unitQueue x (1 + e)
  let released := tabGet 0 x.released (1 + e)
  let r := serveTables ((eng x e).tableQueue.length + 1) released l (freeRetired l (eng x e))
  let s := each r.2 (s.setCore c (setEng x e r.1)) tableServed
  if r.2.isEmpty then s else s.progressed c

end Sys2Proof.Machine
end

