-- ==== Sys2Proof/Machine/Engines.lean ====
section
/-! DEFINITION. Chapters 3 and 5: the engine operations SHAPE, TILE_OS, TILE_WS, LOAD_SHADOW, SWAP, DRAIN and EW, and the resumption of a coded
stream. Each performs the operation at the head of an engine's queue. -/

namespace Sys2Proof.Machine

/-! ## Shapes and forms (R81, R87) -/

/-- Rows M_t of an output-stationary shape; none in another mode (R81). -/
def osRows : EngMode → Option Nat
  | .os128 => some 128 | .os64 => some 64 | .os32 => some 32 | .os16 => some 16 | .os8 => some 8
  | _ => none

def isWs : EngMode → Bool
  | .wsN128 => true
  | .wsN512 => true
  | _ => false

/-- Largest row count of a weight-stationary form (R87). -/
def wsLimit (m : EngMode) : Nat := if m = .wsN128 then 1024 else 256

/-- The mode code of a mover's MODE field (R160). -/
def osRowsOf (code : Nat) : Nat := ((modeOf code).bind osRows).getD 128

/-! ## Elements of lines (R98 to R102) -/

/-- Element `e` of `b` bits from a byte address: a 4-bit element with an even index in the low nibble. -/
def readElem (m : Memory) (key b e : Nat) : Nat :=
  if b = 4 then bits (readByte m (key + e / 2)).toNat (4 * (e % 2)) 4 else readLe m (key + e * (b / 8)) (b / 8)

/-- The lanes of a slot, decoded (R98). -/
def slotLanes (fmt v : Nat) : List FV := (List.range (lanesOf fmt)).map fun l => decodeElem fmt (bits v (elemBits fmt * l) (elemBits fmt))

/-- Slot `r` of line `t` of a west stream of M_t rows (R99, R163). -/
def westSlot (m : Memory) (key mt t r : Nat) : Nat := readLe m (key + t / (128 / mt) * 1024 + t % (128 / mt) * (mt * 8) + r * 8) 8

/-- Slot `c` of the group-`g` line `t` of a raw north stream of G groups (R100, R164). -/
def northSlot (m : Memory) (key g' t g c : Nat) : Nat := readLe m (key + (t * g' + g) * 1024 + c * 8) 8

/-- Slot `c` of a line of an expanded stream: four bf16 weights (R108). -/
def codedSlot (elems : List Nat) (line c : Nat) : Nat :=
  ((List.range 4).map fun l => elems.getD (line * 512 + 4 * c + l) 0 * 2 ^ (16 * l)).sum

/-- The scale in slot `i` of scale line `t` (R101); 127 for a format without scales. -/
def scaleSlot (m : Memory) (fmt key t i : Nat) : Nat := if isMx fmt then (readByte m (key + t * 128 + i)).toNat else 127

/-- Bytes of a scale stream of `n` lines (R101). -/
def scaleBytes (n : Nat) : Nat := ceilDiv n 8 * 1024

/-- A table over keys 0 to n − 1, zeros not listed. -/
def buildLatch (n : Nat) (f : Nat → Nat) : Tab Nat := (List.range n).filterMap fun k => let v := f k; if v = 0 then none else some (k, v)

/-- A table of fp32 codes over keys 0 to n − 1, zero codes not listed. -/
def buildTab (n : Nat) (f : Nat → Nat) : Tab Half :=
  (List.range n).filterMap fun k => let v := f k; if v = 0 then none else some (k, BitVec.ofNat 32 v)

/-- A lane passes +0 without switching: an operand is zero and neither is an infinity or a NaN (R103). -/
def gated (p : FV × FV) : Bool :=
  (isZero p.1 || isZero p.2) && !(isInf p.1 || isInf p.2 || p.1 == .nan || p.2 == .nan)

/-! ## Heads -/

/-- The engine operation at the head of engine `e`'s queue, not performed yet, on a die that steps and is not quenched (R51, R478). -/
def State.headEng (s : State) (c e : Nat) : Option (QEntry × EngOp) :=
  if (s.die (c / 4)).curOp = 0 || (s.die (c / 4)).quenched then none
  else match s.headOp c (1 + e) with
    | some q => match q.op with
      | .engine o => some (q, o)
      | _ => none
    | none => none

/-- A guard met by an engine at a landing slot, or a hold (R198). -/
inductive SlotRead where
  | free
  | guard (set slot : Nat)
  | hold (set : Nat) (slots : List Nat)
  deriving DecidableEq, Repr

/-- The reservation that a landing slot of a die lies in (R195). -/
def State.reservation (s : State) (die slot : Nat) : Option (Nat × WeightSet) :=
  match s.sets.find? fun e => (e.2.map fun w => decide (some w.job = (s.die die).job) && w.base ≤ slot && decide (slot < w.base + w.slots)).getD false with
  | some e => e.2.map fun w => (e.1, w)
  | none => none

/-- The landing slots that a range of a loft touches and that lie in a reservation. -/
def State.slotsRead (s : State) (die off n : Nat) : List Nat :=
  ((List.range ((off + max n 1 - 1) / 131072 + 1 - off / 131072)).map (off / 131072 + ·)).filter fun i => (s.reservation die i).isSome

/-- An engine's read of a loft range against the slot states (R198): the first slot that is not FULL. -/
def State.slotRead (s : State) (die key n : Nat) (sched : Bool) : SlotRead :=
  if key < loftKey die 0 then .free
  else
    let l := s.slotsRead die (key - loftKey die 0) n
    match l.find? fun i => (tabGet {} (s.die die).slots i).st != .full with
    | none => .free
    | some i => let p := ((s.reservation die i).map (·.2.pointer)).getD 0; if sched then .guard p i else .hold p l

/-- A counted engine read of a payload slot: the last of its READS returns it to EMPTY (R197). -/
def countRead (l : LandSlot) : LandSlot := if l.readsLeft ≤ 1 then {} else { l with readsLeft := l.readsLeft - 1 }

/-- A LOAD_SHADOW or TILE_OS north stream at the first row of a reserved slot counts as a read of it (R197). -/
def State.slotDone (s : State) (die key : Nat) : State :=
  if key < loftKey die 0 then s
  else
    let off := key - loftKey die 0
    if off % 131072 = 0 && (s.reservation die (off / 131072)).isSome && (tabGet {} (s.die die).slots (off / 131072)).st == .full then
      s.modDie die fun d => { d with slots := tabSet d.slots (off / 131072) (countRead (tabGet {} d.slots (off / 131072))) }
    else s

/-- The generation of the crate header at whose slot a stream begins (R257 check 3). -/
def State.slotGen (s : State) (die key : Nat) : Option Nat :=
  if key < loftKey die 0 || (key - loftKey die 0) % 131072 != 0 then none
  else
    let i := (key - loftKey die 0) / 131072
    if (s.reservation die i).isSome then some (tabGet {} (s.die die).slots i).hdr.gen else none

/-- The place of a north read, after the region, the link slots and the landing slots; a wait holds the head with code 5. -/
def State.northRead (s : State) (c e : Nat) (q : QEntry) (a n : Nat) : Nat ⊕ State :=
  match s.headRead c (1 + e) q a n true with
  | .inr t => .inr t
  | .inl k => match s.slotRead (c / 4) k n (s.schedCtx ((s.core c).ctx.getD noCtx)) with
    | .free => .inl k
    | .hold set l => .inr (s.holdHead c (1 + e) { q with heldSlots := l } 5 set)
    | .guard set i => .inr (s.guardHead c (1 + e) q (5, set, i))

/-- The feeders and the expander hold nothing of a halted pass any longer. -/
def emptyFeeders (x : Engine) : Engine := { x with westPassed := [], westFeeder := [], northPassed := [], northFeeder := [], expanding := [] }

/-- The elements that a coded stream has yielded before it halted, and the west lines of its pass that have been taken. -/
def codedSoFar (x : Engine) : List Nat := x.northPassed ++ x.northFeeder ++ x.expanding
def westSoFar (x : Engine) : List Nat := x.westPassed ++ x.westFeeder

/-- What a coded stream of `g` lines a step leaves as it halts with the elements `el` (R255, R262): the steps that had all their lines are in the array, whole
lines beyond them stand in the north feeder, and the blocks of a line that is not whole at the expander. Of the west lines, as `west` makes them, those
steps have taken theirs, and the 64 after them stand in the west feeder, 64 too where a line is shorter than 8,192 bits: R77 gives the feeder's 64 lines, and
R262 does not say how many have entered when a stream halts (DESIGN CHOICE, log entry 109). -/
def haltFeeders (g : Nat) (west : Nat → List Nat) (el : List Nat) (x : Engine) : Engine :=
  let lines := el.length / 512
  let steps := lines / g
  let w := west (steps + 64)
  { x with westPassed := w.take steps, westFeeder := w.drop steps, northPassed := el.take (512 * (steps * g)),
           northFeeder := (el.take (512 * lines)).drop (512 * (steps * g)), expanding := el.drop (512 * lines) }

/-- F_CASK_CHECK or F_CASK_LENGTH (R258): engine, stream base, block, base or difference, check. The operation has halted: no slot boundary finds it late. -/
def State.caskFault (s : State) (c e : Nat) (q : QEntry) (code base block check : Nat) (diff : Bool) : State :=
  ((s.setHead c (1 + e) { q with done := true, held := none, halted := true }).modEng c e emptyFeeders).raise (c / 4) code (s.coreCtxs c) (le 1 (c % 4) ++ le 1 (1 + e) ++ le 8 base ++ le 4 block ++ le 1 (b2n diff) ++ le 1 check)

/-- F_SLOT_GUARD of a coded stream whose block names a generation that is not resident, cause 7: after the generation and the block index, the stream's
base address (R262, R334). -/
def State.streamGuard (s : State) (c e : Nat) (q : QEntry) (base gen block : Nat) : State :=
  match (s.core c).ctx with
  | some x => (s.doneHead c (1 + e) q).slotGuard (c / 4) (c % 4) (1 + e) 7 x gen block (le 8 base ++ le 4 q.beat)
  | none => s.doneHead c (1 + e) q

/-- What a stream that does not come through leaves: a guard, or a wait with the elements delivered so far and the west lines taken (R262), or a fault
with no result (R258). `base` is the stream's base address, `dbase` that of a variant's differences. -/
def State.streamStop (s : State) (c e : Nat) (q : QEntry) (base dbase g : Nat) (west : Nat → List Nat) (r : Stream) : State :=
  match r with
  | .ok _ => s
  | .wait b gen l diff =>
    if s.schedCtx ((s.core c).ctx.getD noCtx) then s.streamGuard c e q (if diff then dbase else base) gen b
    else (s.modEng c e fun x => haltFeeders g west (codedSoFar x ++ l) x).holdHead c (1 + e) q 3 gen
  | .fail b chk code diff => s.caskFault c e q code (if diff then dbase else base) b chk diff

/-- Reads of words `lo` to `lo + n − 1` of an engine buffer find what errors stand there (R129). -/
def State.bufRead (s : State) (c e : Nat) (beat b lo n : Nat) : State :=
  let l := (eng (s.core c) e).errs.filter fun m => m.1 / 2 ^ 20 == b && decide (lo ≤ m.1 % 2 ^ 20) && decide (m.1 % 2 ^ 20 < lo + n)
  each l s fun s m =>
    let w := m.1 % 2 ^ 20
    let cell := if b < 2 then w else if b < 4 then (if w < 16384 then w else (w - 16384) / 16 * 128 + (w - 16384) % 16 * 8) else 2 * w
    let s := if m.2 == .single && 2 ≤ b then s.modEng c e fun x => { x with errs := x.errs.filter fun k => k.1 != m.1 } else s
    s.bufError c (1 + e) (8 * e + b) w beat m.2 (b < 2) (cell / 128 % 128) (cell % 128)

/-- Words written afresh hold no error. -/
def bufWrite (b lo n : Nat) (x : Engine) : Engine :=
  { x with errs := x.errs.filter fun m => m.1 / 2 ^ 20 != b || decide (m.1 % 2 ^ 20 < lo) || decide (lo + n ≤ m.1 % 2 ^ 20) }

/-- Lines pass through the feeders of a pass: what errors stand there are found, and go with the lines. -/
def State.feed (s : State) (c e : Nat) (beat : Nat) (west north : Bool) : State :=
  let s := if west then (s.bufRead c e beat 6 0 8192).modEng c e (bufWrite 6 0 8192) else s
  if north then (s.bufRead c e beat 7 0 16384).modEng c e (bufWrite 7 0 16384) else s

/-! ## SHAPE and SWAP -/

/-- SHAPE (R92): the new mode; nothing held in the engine changes. The pass after it begins a new chain (R84). -/
def shapeOp (c e : Nat) (s : State) : State :=
  match s.headEng c e with
  | some (q, .shape m) => (s.modEng c e fun x => { x with mode := m, lastTileOs := false }).doneHead c (1 + e) q
  | _ => s

def execShape (core eng : Nat) (s : State) : Out := need (isCore core && decide (eng < 2)) (shapeOp core eng s)

/-- SWAP (R91, R93): held while no load has completed since the last one; weights and their scales and format move from the shadow. -/
def swapOp (c e : Nat) (s : State) : State :=
  match s.headEng c e with
  | some (q, .swap) =>
    let x := eng (s.core c) e
    if !isWs x.mode then s.invalidHead c (1 + e) q
    else if !x.shadowFull then s.holdHead c (1 + e) q 2 0
    else
      let s := s.bufRead c e q.beat 3 0 18432
      (s.modEng c e fun x => bufWrite 2 0 18432 { x with weights := x.shadow, wScales := x.sScales, wFmt := x.sFmt, shadowFull := false }).doneHead c (1 + e) q
  | _ => s

def execSwap (core eng : Nat) (s : State) : Out := need (isCore core && decide (eng < 2)) (swapOp core eng s)

/-! ## TILE_OS -/

/-- The operands of a pass as a cell meets them: the lanes and scales at k-step σ of group row r, group g, column c. -/
structure OsStream where
  west : Nat → Nat → Nat
  north : Nat → Nat → Nat → Nat
  wScale : Nat → Nat → Nat
  nScale : Nat → Nat → Nat → Nat

/-- One k-step of a cell (R83, R113). -/
def osStep (o : OsStream) (fw fn sg r g c : Nat) : Nat :=
  laneTree (List.zip (slotLanes fw (o.west (sg + r) r)) (slotLanes fn (o.north (sg + c) g c))) (o.wScale (sg + r) r) (o.nScale (sg + c) g c)

/-- A cell's accumulation over the k-steps of a pass (R115): `init` is the bank's value where the pass adds to it. -/
def osCell (o : OsStream) (fw fn s0 k r g c : Nat) (init : Option Nat) : Nat :=
  ((List.range k).foldl (fun (a : Option Nat) i =>
    let t := osStep o fw fn (s0 + i) r g c
    some (match a with | some v => fp32Add v t | none => t)) init).getD 0

/-- Gated lane-steps of a pass (R104): the lanes of the accumulating steps, and every lane in the steps that only padding passes. A lane of a cell that no
line has reached yet, or that every line has left, counts as gated in those steps (DESIGN CHOICE, log entry 90). Where each k-step takes as many steps as
the pass has groups, its operands stand in the array for all of them, and its lanes count in each. -/
def osGated (o : OsStream) (fw fn s0 k mt steps : Nat) : Nat :=
  ((List.range 16384).map fun i =>
    let r := i / 128 % mt; let g := i / 128 / mt; let c := i % 128
    ((List.range k).map fun j =>
      ((List.zip (slotLanes fw (o.west (s0 + j + r) r)) (slotLanes fn (o.north (s0 + j + c) g c))).filter gated).length).sum).sum
    + 16384 * lanesOf fw * (steps - k)

/-- The result of a pass in its bank. -/
def osResult (x : Engine) (o : OsStream) (bank : Nat) (acc : Bool) (fw fn s0 k mt : Nat) : Engine :=
  let old := if bank = 0 then x.bank0 else x.bank1
  let new := buildTab 16384 fun i =>
    osCell o fw fn s0 k (i / 128 % mt) (i / 128 / mt) (i % 128) (if acc then some (tabGet 0 old i).toNat else none)
  let x := bufWrite bank 0 16384 { x with lastTileOs := true, chainK := s0 + k }
  if bank = 0 then { x with bank0 := new, await0 := true } else { x with bank1 := new, await1 := true }

/-- The latches once the last lines have gone by: the slots of west line `wl` and of north line `nl` of each group (R73, R82). -/
def osLatches (o : OsStream) (mt wl nl : Nat) (x : Engine) : Engine :=
  { x with westLatch := buildLatch 128 (fun r => o.west wl (r % mt)), northLatch := buildLatch (128 / mt * 128) (fun i => o.north nl (i / 128) (i % 128)) }

/-- An upset in cell (row, column) of a bank: the value there is free (R130). -/
def upsetBank (n : Nat) (u : Upset) (bank : Nat) (x : Engine) : Engine :=
  let i := u.row % 128 * 128 + u.col % 128
  if bank = 0 then { x with bank0 := tabSet x.bank0 i (Config.upsetValue n i) } else { x with bank1 := tabSet x.bank1 i (Config.upsetValue n i) }

/-- The check of an operation that saw an upset: its free values, and F_ARITH_CHECK (R130). -/
def State.upsetEng (s : State) (c e : Nat) (q : QEntry) (u : Option Upset) (f : Nat → Upset → Engine → Engine) : State :=
  match u with
  | none => s
  | some u =>
    let n := s.fresh
    (({ s with fresh := n + 1 } : State).modEng c e (f n u)).arithCheck c (1 + e) u q.beat

/-- The pass with its streams in place. -/
def State.osPass (s : State) (c e : Nat) (q : QEntry) (o : OsStream) (bank : Nat) (acc : Bool) (fw fn s0 k mt gn nkey : Nat) (follow : Bool)
    (u : Option Upset) : State :=
  let steps := gn * (if follow then k else k + mt + 126)
  let n := 2 * (c % 4) + e
  let g := gn * osGated o fw fn s0 k mt (if follow then k else k + mt + 126)
  let s := if acc then s.bufRead c e q.beat bank 0 16384 else s
  let s := s.feed c e q.beat true true
  let s := s.modEng c e fun x => emptyFeeders (osLatches o mt (s0 + k + mt - 2) (s0 + k + 126) (osResult x o bank acc fw fn s0 k mt))
  let s := s.upsetEng c e q u fun n u => upsetBank n u bank
  let s := (s.slotDone (c / 4) nkey).doneHead c (1 + e) q
  (s.perfAdd (c / 4) n steps).perfUnits (c / 4) (8 + n) 65536 g

/-- Where a stream begins in `mem`; 0 where its address names no store that the engine reads. -/
def State.streamKey (s : State) (c a : Nat) : Nat := match s.unitAcc c a 1 true with | .ok k => k | _ => 0

/-- The check of the `n` blocks of a coded stream that the expander reads as it goes on from block `b` (R182). -/
def State.codedRead (s : State) (m : Memory) (x : Engine) (seq key b n : Nat) : State :=
  let w := caskBytes ((streamKind m x seq key).getD 1)
  s.eccRead (key + roundUp b 4 * w) (n * w)

/-- The first `n` lines of a west stream, each as its slots make it (R99). -/
def westLines (west : Nat → Nat → Nat) (mt n : Nat) : List Nat :=
  (List.range n).map fun t => ((List.range mt).map fun r => west t r * 2 ^ (64 * r)).sum

/-- TILE_OS (R84, R115). `follow` says that the pass reached the head before the last line of the earlier pass had entered, so that it goes on that
pass's chain; the streams are the chain's own, read from its base (R99, R100). -/
def tileOsOp (c e : Nat) (follow : Bool) (u : Option Upset) (s : State) : State :=
  match s.headEng c e with
  | some (q, .tileOs bank acc fw fn coded w ws n ns k) =>
    let x := eng (s.core c) e
    match osRows x.mode with
    | none => s.invalidHead c (1 + e) q
    | some mt =>
      let follow := (follow || q.follow) && x.lastTileOs
      let q := { q with follow := follow }
      let s0 := if follow then x.chainK else 0
      let g := 128 / mt
      let wl := s0 + k + mt - 1
      let nl := (s0 + k + 127) * g
      let w := alignTo 1024 w.toNat; let ws := alignTo 1024 ws.toNat
      let n := alignTo 1024 n.toNat; let ns := alignTo 1024 ns.toNat
      let wBytes := ceilDiv wl (128 / mt) * 1024
      if !acc && (if bank = 0 then x.await0 else x.await1) then s.holdHead c (1 + e) q 2 0
      else if coded && fn != 0 then s.caskFault c e q fCaskCheck n 0 0 false
      else
        andThen (s.headRead c (1 + e) q w wBytes false) fun wk =>
        andThen (if isMx fw then s.headRead c (1 + e) q ws (scaleBytes wl) false else .inl 0) fun wsk =>
        andThen (s.northRead c e q n (if coded then streamBytes s.mem x q.seq (s.streamKey c n) (4 * nl) else nl * 1024)) fun nk =>
        andThen (if isMx fn && !coded then s.northRead c e q ns (scaleBytes nl) else .inl 0) fun nsk =>
        let b := (codedSoFar x).length / 128
        let r := if coded then readStream s.mem x q.seq nk (s.slotGen (c / 4) nk) (4 * nl - b) b (kindFrom s.mem x q.seq nk b) else .ok []
        let m := s.mem
        let s := ((s.eccRead wk wBytes).eccRead wsk (if isMx fw then scaleBytes wl else 0)).eccRead nsk (if isMx fn && !coded then scaleBytes nl else 0)
        let s := if coded then s.codedRead m x q.seq nk b (blocksRead r b (4 * nl)) else s.eccRead nk (nl * 1024)
        let west := fun t r => match (westSoFar x)[t]? with | some l => bits l (64 * r) 64 | none => westSlot s.mem wk mt t r
        let wsc := fun t r => scaleSlot s.mem fw wsk t r
        let nsc := fun t gg cc => scaleSlot s.mem fn nsk (t * g + gg) cc
        if coded then
          match r with
          | .ok l => s.osPass c e q { west := west, north := fun t gg cc => codedSlot (codedSoFar x ++ l) (t * g + gg) cc, wScale := wsc, nScale := nsc }
              bank acc fw fn s0 k mt g nk follow u
          | r => s.streamStop c e q n n g (fun lines => westLines west mt (min wl lines)) r
        else
          s.osPass c e q { west := west, north := fun t gg cc => northSlot s.mem nk g t gg cc, wScale := wsc, nScale := nsc }
            bank acc fw fn s0 k mt (if nk < loftKey (c / 4) 0 then 1 else g) nk follow u
  | _ => s

def execTileOs (core eng : Nat) (follows : Bool) (upset : Option Upset) (s : State) : Out :=
  need (isCore core && decide (eng < 2)) (tileOsOp core eng follows upset s)

/-! ## TILE_WS -/

/-- One cell's contribution for a token (R87, R88): `row` is the row within its reduction range and `r` its physical row. -/
def wsCell (m : Memory) (x : Engine) (ft tk tsk row r c : Nat) : Nat :=
  let l := lanesOf ft
  let b := elemBits ft
  let toks := (List.range l).map fun i => decodeElem ft (readElem m tk b (l * row + i))
  let line := tabGet 0 x.weights r
  let wts := (List.range l).map fun i => decodeElem x.wFmt (bits line (elemBits x.wFmt * (c * l + i)) (elemBits x.wFmt))
  let ts := if isMx ft then (readByte m (tsk + l * row / 32)).toNat else 127
  let sc := if isMx x.wFmt then bits (tabGet 0 x.wScales r) (8 * c) 8 else 127
  laneTree (List.zip toks wts) ts sc

/-- Output `n` of a token (R87, R116). -/
def wsOut (m : Memory) (x : Engine) (ft tk tsk n : Nat) : Nat :=
  if x.mode = .wsN128 then columnTree 7 ((List.range 128).map fun r => wsCell m x ft tk tsk r r n)
  else columnTree 5 ((List.range 32).map fun r => wsCell m x ft tk tsk r (32 * (n / 128) + r) (n % 128))

/-- Outputs of a token, and bytes of a token line (R87, R102). -/
def wsWidth (m : EngMode) : Nat := if m = .wsN128 then 128 else 512
def tokenBytes (m : EngMode) : Nat := if m = .wsN128 then 1024 else 256

/-- A collector half with new values at its first indices. -/
def halfWith (old : Tab Half) (n : Nat) (f : Nat → Nat) : Tab Half := buildTab 131072 fun i => if i < n then f i else (tabGet 0 old i).toNat

def getHalf (x : Engine) (h : Nat) : Tab Half := if h = 0 then x.half0 else x.half1
/-- Put a half in place; its first `n` results await a DRAIN (R93). -/
def putHalf (x : Engine) (h : Nat) (t : Tab Half) (n : Nat) : Engine :=
  if h = 0 then { x with half0 := t, undrained0 := max x.undrained0 n } else { x with half1 := t, undrained1 := max x.undrained1 n }

/-- The pass over `m'` tokens (R88, R89, R116). -/
def wsResult (m : Memory) (x : Engine) (half : Nat) (acc : Bool) (ft tk tsk rows : Nat) : Engine :=
  let w := wsWidth x.mode
  let old := getHalf x half
  putHalf x half (halfWith old (rows * w) fun i =>
    let v := wsOut m x ft (tk + i / w * tokenBytes x.mode) (tsk + i / w * 128) (i % w)
    if acc then fp32Add (tabGet 0 old i).toNat v else v) (rows * w)

/-- The west latches once the last token has gone by: the lanes of row r (R73, R88). -/
def wsLatches (m : Memory) (ft tk : Nat) (x : Engine) : Engine :=
  { x with westLatch := buildLatch 128 fun r =>
      let row := if x.mode = .wsN128 then r else r % 32
      ((List.range (lanesOf ft)).map fun i => readElem m tk (elemBits ft) (lanesOf ft * row + i) * 2 ^ (elemBits ft * i)).sum }

/-- Gated lane-steps of a weight-stationary pass: a token row is in the array for one step (R104). -/
def wsGated (m : Memory) (x : Engine) (ft tk rows : Nat) : Nat :=
  let l := lanesOf ft
  ((List.range rows).map fun t =>
    ((List.range 16384).map fun i =>
      let r := i / 128
      let row := if x.mode = .wsN128 then r else r % 32
      let toks := (List.range l).map fun j => decodeElem ft (readElem m (tk + t * tokenBytes x.mode) (elemBits ft) (l * row + j))
      let wts := (List.range l).map fun j => decodeElem x.wFmt (bits (tabGet 0 x.weights r) (elemBits x.wFmt * (i % 128 * l + j)) (elemBits x.wFmt))
      ((List.zip toks wts).filter gated).length).sum).sum

/-- The output that a cell's column sums to: in the N512 form the quarter that the row lies in picks the group of columns (R87). -/
def cellOutput (m : EngMode) (row col : Nat) : Nat := if m = .wsN128 then col % 128 else 128 * (row % 128 / 32) + col % 128

/-- An upset in a cell: the outputs of its column are free (R130). -/
def upsetHalf (n : Nat) (u : Upset) (half rows : Nat) (x : Engine) : Engine :=
  let w := wsWidth x.mode
  putHalf x half ((List.range rows).foldl (fun t i => tabSet t (i * w + cellOutput x.mode u.row u.col) (Config.upsetValue n i)) (getHalf x half)) 0

/-- TILE_WS (R87 to R89, R156). -/
def tileWsOp (c e : Nat) (u : Option Upset) (s : State) : State :=
  match s.headEng c e with
  | some (q, .tileWs half acc ft t ts m) =>
    let x := eng (s.core c) e
    if !isWs x.mode || !sameClass ft x.wFmt || wsLimit x.mode < m then s.invalidHead c (1 + e) q
    else if !acc && decide (0 < (if half = 0 then x.undrained0 else x.undrained1)) then s.holdHead c (1 + e) q 2 0
    else
      let n := ceilDiv (m * tokenBytes x.mode) 1024 * 1024
      andThen (s.headRead c (1 + e) q (alignTo 1024 t.toNat) n false) fun tk =>
      andThen (if isMx ft then s.headRead c (1 + e) q (alignTo 1024 ts.toNat) (scaleBytes m) false else .inl 0) fun tsk =>
      let s := (s.eccRead tk n).eccRead tsk (if isMx ft then scaleBytes m else 0)
      let g := wsGated s.mem x ft tk m
      let p := 2 * (c % 4) + e
      let outs := ceilDiv (m * wsWidth x.mode) 2
      let s := (s.bufRead c e q.beat 2 0 18432).feed c e q.beat true false
      let s := if acc then s.bufRead c e q.beat (4 + half) 0 outs else s
      let s := s.modEng c e fun x => wsLatches s.mem ft (tk + (m - 1) * tokenBytes x.mode) (bufWrite (4 + half) 0 outs (wsResult s.mem x half acc ft tk tsk m))
      let s := (s.upsetEng c e q u fun n u => upsetHalf n u half m).doneHead c (1 + e) q
      (s.perfAdd (c / 4) p m).perfUnits (c / 4) (8 + p) 65536 g
  | _ => s

def execTileWs (core eng : Nat) (upset : Option Upset) (s : State) : Out :=
  need (isCore core && decide (eng < 2)) (tileWsOp core eng upset s)

/-! ## LOAD_SHADOW -/

/-- A line of 512 bf16 elements as a number. -/
def lineOf (l : List Nat) : Nat := ofLe (l.flatMap (le 2))

/-- The shadow filled (R90): 128 lines, their scale lines, the format. -/
def shadowWith (x : Engine) (fmt : Nat) (line scale : Nat → Nat) : Engine :=
  emptyFeeders { bufWrite 3 0 18432 x with shadow := (List.range 128).map (fun j => (j, line j)), sScales := (List.range 128).map (fun j => (j, scale j)), sFmt := fmt, shadowFull := true }

/-- An upset in row and column of the tile: the weights of that cell are free (R130). -/
def upsetShadow (n : Nat) (u : Upset) (x : Engine) : Engine :=
  let j := u.row % 128
  let sh := 64 * (u.col % 128)
  let old := tabGet 0 x.shadow j
  { x with shadow := tabSet x.shadow j (old - bits old sh 64 * 2 ^ sh + (Config.upsetValue n 0).toNat * 2 ^ sh + (Config.upsetValue n 1).toNat * 2 ^ (sh + 32)) }

/-- The load completes: its result, its checks, its reads of landing slots. -/
def State.shadowDone (s : State) (c e : Nat) (q : QEntry) (key : Nat) (u : Option Upset) (f : Engine → Engine) : State :=
  let s := (s.feed c e q.beat false true).modEng c e f
  ((s.upsetEng c e q u upsetShadow).slotDone (c / 4) key).doneHead c (1 + e) q

/-- LOAD_SHADOW (R90, R157): raw, cask-coded, or a variant over a base. -/
def loadShadowOp (c e : Nat) (u : Option Upset) (s : State) : State :=
  match s.headEng c e with
  | some (q, .loadShadow fmt coded var a as v) =>
    let x := eng (s.core c) e
    let a := alignTo 1024 a.toNat; let as := alignTo 1024 as.toNat; let v := alignTo 1024 v.toNat
    if !isWs x.mode then s.invalidHead c (1 + e) q
    else if x.shadowFull then s.holdHead c (1 + e) q 2 0
    else if coded && fmt != 0 then s.caskFault c e q fCaskCheck a 0 0 false
    else if !coded then
      andThen (s.northRead c e q a 131072) fun k =>
      andThen (if isMx fmt then s.northRead c e q as (scaleBytes 128) else .inl 0) fun sk =>
      let s := (s.eccRead k 131072).eccRead sk (if isMx fmt then scaleBytes 128 else 0)
      s.shadowDone c e q k u fun x => shadowWith x fmt (fun j => readLe s.mem (k + 1024 * j) 1024)
        (fun j => if isMx fmt then readLe s.mem (sk + 128 * j) 128 else 0)
    else
      let size := fun (a : Nat) => streamBytes s.mem x q.seq (s.streamKey c a) 512
      andThen (s.northRead c e q a (size a)) fun k =>
      andThen (if var then s.northRead c e q v (size v) else .inl 0) fun vk =>
      let b := (codedSoFar x).length / 128
      let kb := fun (k : Nat) => kindFrom s.mem x q.seq k b
      let r := if var then readVariant s.mem x q.seq k vk (s.slotGen (c / 4) k) (s.slotGen (c / 4) vk) (512 - b) b (kb k) (kb vk)
        else readStream s.mem x q.seq k (s.slotGen (c / 4) k) (512 - b) b (kb k)
      let m := s.mem
      let s := s.codedRead m x q.seq k b (blocksRead r b 512)
      let s := if var then s.codedRead m x q.seq vk b (blocksRead r b 512) else s
      match r with
      | .ok l =>
        let el := codedSoFar x ++ l
        let s := if var then s.slotDone (c / 4) vk else s
        s.shadowDone c e q k u fun x => shadowWith x fmt (fun j => lineOf ((el.drop (512 * j)).take 512)) (fun _ => 0)
      | r => s.streamStop c e q a v 1 (fun _ => []) r
  | _ => s

def execLoadShadow (core eng : Nat) (upset : Option Upset) (s : State) : Out :=
  need (isCore core && decide (eng < 2)) (loadShadowOp core eng upset s)

/-- CODED_STREAM_RESUME (R262): the operation whose stream halted goes on from the waiting block when the generation it waits for is resident. -/
def codedStreamResume (c e : Nat) (u : Option Upset) (s : State) : State :=
  match s.headEng c e with
  | some (q, .loadShadow ..) => if q.held = some 3 then loadShadowOp c e u s else s
  | some (q, .tileOs ..) => if q.held = some 3 then tileOsOp c e q.follow u s else s
  | _ => s

def execCodedStreamResume (core eng : Nat) (upset : Option Upset) (s : State) : Out :=
  need (isCore core && decide (eng < 2)) (codedStreamResume core eng upset s)

/-! ## DRAIN -/

/-- Value `x` of what DRAIN takes (R86, R89). -/
def drainValue (x : Engine) (src mt i : Nat) : Nat :=
  let nt := 16384 / mt
  let k := (i % nt / 128 * mt + i / nt) * 128 + i % nt % 128
  match src with
  | 0 => (tabGet 0 x.bank0 k).toNat
  | 1 => (tabGet 0 x.bank1 k).toNat
  | 2 => (tabGet 0 x.half0 i).toNat
  | _ => (tabGet 0 x.half1 i).toNat

/-- Pack element codes of `b` bits into bytes, from the lowest up (R98). -/
def packElems (b : Nat) (l : List Nat) : List Byte :=
  if b = 4 then (chunks 2 l.length l).map fun p => BitVec.ofNat 8 (p.headD 0 % 16 + p.getD 1 0 % 16 * 16) else l.flatMap (le (b / 8))

/-- Values converted to a format's element codes and scales: Microscaling by blocks of 32 (R121), others one by one. -/
def convertCodes (fmt : Nat) (l : List Nat) (f : Nat → Nat → Nat) : List Nat × List Nat :=
  if isMx fmt then
    let bl := (chunks 32 l.length l).map (mxBlock fmt)
    (bl.flatMap (·.2), bl.map (·.1))
  else (l.zipIdx.map fun p => f p.2 p.1, [])

/-- Element codes and scales as they are stored. -/
def packCodes (fmt : Nat) (r : List Nat × List Nat) : List Byte × List Byte := (packElems (elemBits fmt) r.1, r.2.flatMap (le 1))

/-- Values converted to a format's elements and scales, as bytes. -/
def convertAll (fmt : Nat) (l : List Nat) (f : Nat → Nat → Nat) : List Byte × List Byte := packCodes fmt (convertCodes fmt l f)

/-- A check failed in the conversion of element `i`: its code is free, and in a Microscaling format every code of its block with the block's scale
(R121, R128, R130). -/
def strike (fmt : Nat) (u : Option (Nat × Nat)) (r : List Nat × List Nat) : List Nat × List Nat :=
  match u with
  | none => r
  | some (n, i) =>
    let free := fun j => (Config.upsetValue n j).toNat % 2 ^ elemBits fmt
    if isMx fmt then
      (r.1.zipIdx.map fun p => if p.2 / 32 = i / 32 then free p.2 else p.1,
       r.2.zipIdx.map fun p => if p.2 = i / 32 then (Config.upsetValue n (2 ^ 20)).toNat % 256 else p.1)
    else (r.1.zipIdx.map fun p => if p.2 = i then free p.2 else p.1, r.2)

/-- The element of `n` that an upset strikes, with the number of its free values: that of the cell that it names, counted on by rows. -/
def State.struck (s : State) (u : Option Upset) (n : Nat) : Option (Nat × Nat) := u.map fun u => (s.fresh, (u.row * 128 + u.col) % n)

/-- Stochastic word of element `x` of a core's engine (R120, R123, R124). -/
def State.drainRound (s : State) (c e : Nat) (rnd : Bool) (c0 field : Word) (i : Nat) : Round :=
  if rnd then
    let seed := ((s.launchOf ((s.core c).ctx.getD noCtx)).map (·.seed)).getD 0
    .stochastic (draw24 (genWord seed (streamId 1 e ((s.logicalCore c).getD 0) (bits field.toNat 0 32)) c0 i))
  else .even

/-- What a DRAIN of `n` results took awaits one no longer (R85, R93). -/
def clearAwait (src n : Nat) (x : Engine) : Engine :=
  match src with
  | 0 => { x with await0 := false }
  | 1 => { x with await1 := false }
  | 2 => { x with undrained0 := if x.undrained0 ≤ n then 0 else x.undrained0 }
  | _ => { x with undrained1 := if x.undrained1 ≤ n then 0 else x.undrained1 }

/-- The half that takes a drained bank: one that holds no result awaiting a DRAIN, where there is just one; else either (R77, R85; DESIGN CHOICE, log
entry 92), by the DRAIN's place among the operations of its engine alone, so that two runs of a score stage alike (R126). -/
def stageHalf (n : Nat) (x : Engine) : Nat :=
  if x.undrained0 = 0 ∧ x.undrained1 ≠ 0 then 0 else if x.undrained1 = 0 ∧ x.undrained0 ≠ 0 then 1 else Config.staging n % 2

/-- DRAIN takes a bank into the south collector (R85): its 16,384 values stand in a run of a half, in the order in which they go out. -/
def stageBank (n src mt : Nat) (x : Engine) : Engine :=
  let h := stageHalf n x
  let lo := Config.staging n / 2 % 8 * 16384
  let t := buildTab 131072 fun i => if lo ≤ i ∧ i < lo + 16384 then drainValue x src mt (i - lo) else (tabGet 0 (getHalf x h) i).toNat
  bufWrite (4 + h) (lo / 2) 8192 (if h = 0 then { x with half0 := t } else { x with half1 := t })

/-- What a DRAIN reads: a bank, by way of the collector, or the first results of a half. -/
def State.drainRead (s : State) (c e : Nat) (beat seq src n mt : Nat) : State :=
  if src < 2 then
    let s := s.bufRead c e beat src 0 16384
    s.modEng c e (stageBank seq src mt)
  else s.bufRead c e beat (2 + src) 0 (ceilDiv n 2)

/-- DRAIN (R85, R86, R89, R158). -/
def drainOp (c e : Nat) (u : Option Upset) (s : State) : State :=
  match s.headEng c e with
  | some (q, .drain src fmt rnd sat d ds n c0 field) =>
    let x := eng (s.core c) e
    if decide (src < 2) != (osRows x.mode).isSome then s.invalidHead c (1 + e) q
    else
      let mt := (osRows x.mode).getD 128
      let vals := (List.range n).map (drainValue x src mt)
      let r := packCodes fmt (strike fmt (s.struck u n) (convertCodes fmt vals fun i v => narrow fmt (s.drainRound c e rnd c0 field i) sat v))
      andThen (s.headWrite c (1 + e) q (alignTo 1024 d.toNat) r.1.length false) fun k =>
      andThen (if isMx fmt then s.headWrite c (1 + e) q (alignTo 1024 ds.toNat) r.2.length false else .inl 0) fun sk =>
      let s := (s.upsetUnit c (1 + e) u q.beat).drainRead c e q.beat q.seq src n mt
      let s := s.putWords k r.1
      let s := if isMx fmt then s.putWords sk r.2 else s
      (s.modEng c e (clearAwait src n)).doneHead c (1 + e) q
  | _ => s

def execDrain (core eng : Nat) (upset : Option Upset) (s : State) : Out := need (isCore core && decide (eng < 2)) (drainOp core eng upset s)

/-! ## EW -/

/-- An element-wise operation (R106). -/
def ewValue (oper x y z : Nat) : Nat :=
  match oper with
  | 0 => fp32Add x y
  | 1 => fp32Sub x y
  | 2 => fp32Mul x y
  | 3 => fp32Fma x y z
  | 4 => fp32Max x y
  | 5 => fp32Min x y
  | 6 => fp32Mul x y
  | _ => x

/-- Element `e` of a port source, widened (R117, R159). -/
def portElem (m : Memory) (fmt key skey e : Nat) : Nat :=
  widen fmt (if isMx fmt then (readByte m (skey + e / 32)).toNat else 127) (readElem m key (elemBits fmt) e)

/-- Bytes of a port source of `n` elements, in whole rows of its line, and of its scales (R159). -/
def portBytes (fmt n : Nat) : Nat := ceilDiv (n * elemBits fmt) 8

/-- MUL, FMA and SCALE gate an element with a zero factor, by the elements alone, whatever their block scales (R103, R106). -/
def ewGates (oper : Nat) (ex ey : FV) : Bool := (oper == 2 || oper == 3 || oper == 6) && gated (ex, ey)

/-- Element `e` of a port source before it is widened. -/
def portFV (m : Memory) (fmt key e : Nat) : FV := decodeElem fmt (readElem m key (elemBits fmt) e)

/-- Elements 0 to n − 1 in order, with the number of gated ones; indices wrap within a half (R159). -/
def ewRun (m : Memory) (oper xsrc dest fx fy xk xsk yk ysk ys : Nat) (yscalar : Bool) (n : Nat) (x : Engine) : Engine × Nat :=
  (List.range n).foldl (fun a i =>
    let x := a.1
    let k := i % 131072
    let vx := if xsrc = 0 then portElem m fx xk xsk i else (tabGet 0 (getHalf x (xsrc - 1)) k).toNat
    let vy := if yscalar then ys else portElem m fy yk ysk i
    (putHalf x dest (tabSet (getHalf x dest) k (BitVec.ofNat 32 (ewValue oper vx vy (tabGet 0 (getHalf x dest) k).toNat))) (k + 1),
     a.2 + b2n (ewGates oper (if xsrc = 0 then portFV m fx xk i else ofFp32 vx) (if yscalar then ofFp32 vy else portFV m fy yk i)))) (x, 0)

/-- EW (R105, R106, R159). -/
def ewOp (c e : Nat) (u : Option Upset) (s : State) : State :=
  match s.headEng c e with
  | some (q, .ew oper xsrc yscalar dest fx fy a as y ys n) =>
    let x := eng (s.core c) e
    if x.mode ≠ .elementwise then s.invalidHead c (1 + e) q
    else
      let yport := !yscalar
      let yv := y.toNat % 2 ^ 32
      let xmx := xsrc == 0 && isMx fx
      let ymx := yport && isMx fy
      andThen (if xsrc = 0 then s.headRead c (1 + e) q (alignTo 1024 a.toNat) (portBytes fx n) false else .inl 0) fun xk =>
      andThen (if xmx then s.headRead c (1 + e) q (alignTo 1024 as.toNat) (ceilDiv n 32) false else .inl 0) fun xsk =>
      andThen (if yport then s.northRead c e q (alignTo 1024 y.toNat) (portBytes fy n) else .inl 0) fun yk =>
      andThen (if ymx then s.northRead c e q (alignTo 1024 ys.toNat) (ceilDiv n 32) else .inl 0) fun ysk =>
      let s := (s.eccRead xk (if xsrc = 0 then portBytes fx n else 0)).eccRead xsk (if xmx then ceilDiv n 32 else 0)
      let s := (s.eccRead yk (if yport then portBytes fy n else 0)).eccRead ysk (if ymx then ceilDiv n 32 else 0)
      let w := ceilDiv (min n 131072) 2
      let s := s.feed c e q.beat (xsrc == 0) yport
      let s := if xsrc = 0 then s else s.bufRead c e q.beat (3 + xsrc) 0 w
      let s := if oper = 3 then s.bufRead c e q.beat (4 + dest) 0 w else s
      let r := ewRun s.mem oper xsrc dest fx fy xk xsk yk ysk yv yscalar n (eng (s.core c) e)
      let s := s.modEng c e fun _ => bufWrite (4 + dest) 0 w r.1
      let s := s.upsetEng c e q u fun i u x => putHalf x dest (tabSet (getHalf x dest) ((u.row * 128 + u.col) % min n 131072) (Config.upsetValue i 0)) 0
      ((s.doneHead c (1 + e) q).perfAdd (c / 4) (2 * (c % 4) + e) (ceilDiv n 128)).perfUnits (c / 4) (8 + (2 * (c % 4) + e)) 65536 r.2
  | _ => s

def execEw (core eng : Nat) (upset : Option Upset) (s : State) : Out := need (isCore core && decide (eng < 2)) (ewOp core eng upset s)

end Sys2Proof.Machine
end

