-- ==== Sys2Proof/Machine/Time.lean ====
section
/-! DEFINITION. Chapter 2: the time base of each die, its corrections, and the operating points of a compute die. -/

namespace Sys2Proof.Machine

/-! ## The count -/

/-- The count of a time base `now` ns after its reset (R62). -/
def tbCount (now : Nat) (t : TimeBase) : Nat := (((now : Int) + t.disp) % (2 ^ 64 : Nat)).toNat

/-- SLEWING clears at a beat boundary once the offset is zero (R69). -/
def settleSlew (now : Nat) (t : TimeBase) : TimeBase :=
  if t.slew = 0 && tbCount now t % 4 = 0 then { t with slewing := false } else t

/-- One nanosecond of slewing, from the beat boundary of the write on: one count is absorbed in each 10,000 ns (R69, R71). -/
def slewTb (now : Nat) (t : TimeBase) : TimeBase :=
  if t.slew = 0 ∨ tbCount now t < t.slewFrom then t
  else if t.slewPhase + 1 < 10000 then { t with slewPhase := t.slewPhase + 1 }
  else if 0 < t.slew then { t with slewPhase := 0, slew := t.slew - 1, disp := t.disp + 1 }
  else { t with slewPhase := 0, slew := t.slew + 1, disp := t.disp - 1 }

/-- The nanosecond after `now` of a die's time base: a backward correction holds the count still (R467); else it advances, and slewing changes its rate. -/
def tickTb (now : Nat) (t : TimeBase) : TimeBase :=
  if 0 < t.hold then { t with hold := t.hold - 1, disp := t.disp - 1 } else settleSlew (now + 1) (slewTb now t)

/-- One nanosecond passes on every die. -/
def tick (s : State) : State :=
  { s with now := s.now + 1, dies := s.dies.map fun e => (e.1, { e.2 with tb := tickTb s.now e.2.tb }) }

/-- TB_SLEW's clamp (R69). -/
def clampSlew (i : Int) : Int := max (-1000000) (min 1000000 i)

/-- A time base whose offset is replaced: it absorbs the new one from count `b` on. -/
def startSlew (i : Int) (b : Nat) (t : TimeBase) : TimeBase :=
  { t with slew := clampSlew i, slewPhase := 0, slewFrom := b, slewing := t.slewing || clampSlew i != 0 }

/-- The next beat boundary that no die has passed (R71). -/
def State.nextBoundary (s : State) : Nat := roundUp ((dieList.map s.count).foldl max 0) 4

/-- A value written to TB_SLEW reaches every die and replaces what remains; every die applies it from the same beat boundary (R69, R71). -/
def State.writeSlew (s : State) (i : Int) : State :=
  let b := s.nextBoundary
  each dieList s fun s d => s.modDie d fun x => { x with tb := startSlew i b x.tb }

/-- ALIGNED on every die. -/
def State.setAligned (s : State) (v : Bool) : State :=
  each dieList s fun s d => s.modDie d fun x => { x with tb := { x.tb with aligned := v } }

/-- The time root is aligned while every die is LOCKED, has its epoch, and is not in holdover (R468). -/
def State.rootAligned (s : State) : State :=
  if s.time.root then
    s.setAligned (dieList.all fun d => let t := (s.die d).tb; t.locked && t.epochSet && !t.holdover)
  else s

/-- The contexts of jobs that span this package and another (R67). -/
def State.spanning (s : State) : List Nat :=
  tabKeys s.contexts fun _ x => ((x.bind (·.launch)).map fun l => decide (1 < l.packages)).getD false

/-- The distance of a count from the nearest expected RACK_SYNC count, as the difference to absorb (R64, R66). -/
def slipOf (t : TimeBase) (count : Nat) : Int :=
  let r := ((count : Int) - t.expect) % 1000000
  if r < 500000 then -r else 1000000 - r

/-- SYNC_EN as a die acts on it: 0 on a package that fabric alignment steers (R467). -/
def State.syncActs (s : State) (t : TimeBase) : Bool := t.syncEn && !(s.time.enable && !s.time.root)

/-- The epoch load of an armed die (R64). -/
def State.epochLoad (s : State) (d : Nat) : State :=
  let t := (s.die d).tb
  let old := s.count d
  let e := t.epochNext.toNat
  let s := s.modDie d fun x => { x with tb := { x.tb with
    disp := (e : Int) - s.now, epoch := e, expect := e, preLoad := old, epochArm := false, epochSet := true, syncSeen := true,
    hold := 0, slewFrom := 0 } }
  (s.note d 0x03 0 noCtx (le 8 old ++ le 8 e)).rootAligned

/-- RACK_SYNC_PULSE: a RACK_SYNC edge at a die (R64, R66); without REFCLK_RACK no edge is sampled (R560, R592). -/
def rackSyncPulse (d : Nat) (s : State) : State :=
  let t := (s.die d).tb
  if t.holdover then s
  else if t.epochArm then s.epochLoad d
  else
    let off := slipOf t (s.count d)
    let s := s.modDie d fun x => { x with tb := { x.tb with syncSeen := true } }
    if !t.epochSet || !s.syncActs t || off.natAbs ≤ 2 then s
    else
      let s := s.modDie d fun x => { x with tb := { x.tb with slipCount := stick 16 (x.tb.slipCount + 1) } }
      let s := (s.raise d fTbSyncSlip [] (le 8 (ofSigned 64 off))).note d 0x0B 66 noCtx (le 8 (ofSigned 64 off))
      if s.holder.isSome then s.writeSlew off else s

def execRackSyncPulse (die : Nat) (s : State) : Out := need (isDie die) (rackSyncPulse die s)

/-- REFCLK_LOSS: a die enters holdover (R67); ALIGNED clears (R468). -/
def refclkLoss (d : Nat) (s : State) : State :=
  let s := s.modDie d fun x => { x with tb := { x.tb with holdover := true, locked := false } }
  (s.raise d fTbRefLost s.spanning []).setAligned false

def execRefclkLoss (die : Nat) (s : State) : Out := need (isDie die) (refclkLoss die s)

/-- REFCLK_RELOCK: the die locks again, and what it drifted is absorbed by slewing, from its next beat boundary on (R67). `drift` is the signed difference
to absorb, which the operand gives: R67 bounds the oscillator's rate in holdover at 20 ppm and states no rate, and the model's count passes one count
per ns there too (DESIGN CHOICE, log entry 77). -/
def refclkRelock (d : Nat) (drift : Int) (s : State) : State :=
  if (s.die d).tb.holdover then
    (s.modDie d fun x => { x with tb := { startSlew drift (roundUp (s.count d) 4) x.tb with holdover := false, locked := true } }).rootAligned
  else s

def execRefclkRelock (die : Nat) (drift : Int) (s : State) : Out := need (isDie die) (refclkRelock die drift s)

/-- TB_SLEW_WRITE: a 32-bit signed offset, clamped, on every die (R69, R71). -/
def execTbSlewWrite (value : Word) (s : State) : Out := need true (s.writeSlew (toSigned 32 value.toNat))

/-- SLEW_COMPLETE: on every die whose offset has reached zero, at a beat boundary, SLEWING clears (R69). The count itself is only ever slewed (R62). -/
def slewComplete (s : State) : State :=
  each dieList s fun s d => s.modDie d fun x => { x with tb := settleSlew s.now x.tb }

def execSlewComplete (s : State) : Out := need true (slewComplete s)

/-- A write of TB_CTRL (R69): EPOCH_ARM arms this die alone, and is ignored once EPOCH_SET is 1. -/
def writeTbCtrl (d : Nat) (v : Nat) (s : State) : State :=
  s.modDie d fun x => { x with tb := { x.tb with syncEn := bit v 1, epochArm := if x.tb.epochSet then x.tb.epochArm else x.tb.epochArm || bit v 0 } }

/-- A write of TB_EPOCH_NEXT (R69): bits [1:0] forced to zero, ignored once EPOCH_SET is 1. -/
def writeTbEpochNext (d : Nat) (v : Nat) (s : State) : State :=
  s.modDie d fun x => { x with tb := { x.tb with epochNext := if x.tb.epochSet then x.tb.epochNext else BitVec.ofNat 64 (alignTo 4 v) } }

/-- EPOCH_ARM: a write of TB_CTRL.EPOCH_ARM = 1 (R64). -/
def epochArm (d : Nat) (s : State) : State :=
  s.modDie d fun x => { x with tb := { x.tb with epochArm := if x.tb.epochSet then x.tb.epochArm else true } }

def execEpochArm (die : Nat) (s : State) : Out := need (isDie die) (epochArm die s)

/-- TB_COUNT_LOW_READ: the low half is answered, the high half latched for the requester's next read of it (R68). -/
def tbCountLowRead (d requester : Nat) (s : State) : State :=
  let n := s.count d
  (s.modDie d fun x => { x with tb := { x.tb with latch := tabSet x.tb.latch requester (BitVec.ofNat 32 (n / 2 ^ 32)) } }).answer
    "TB_COUNT" requester [BitVec.ofNat 64 (n % 2 ^ 32)]

/-- Requesters 0 and 1 are the host ports, through their apertures: one whose front end is not ready sends no answer (R346). -/
def portSilent (s : State) (requester : Nat) : Bool := decide (requester < 2) && !s.configReady requester

def execTbCountLowRead (die requester : Nat) (s : State) : Out := need (isDie die) (if portSilent s requester then s else tbCountLowRead die requester s)

/-- The high half that a requester's 32-bit read of it answers: the one its read of the low half latched (R68). -/
def tbCountHigh (s : State) (d requester : Nat) : Half := tabGet (BitVec.ofNat 32 (s.count d / 2 ^ 32)) (s.die d).tb.latch requester

/-! ## The schedule grid (R323) -/

/-- The last anchor at or before a schedule beat; anchors stand newest last. -/
def anchorFor (l : List Anchor) (b : Nat) : Anchor := (l.filter fun a => a.beat ≤ b).getLast?.getD {}

/-- The grid instant of a schedule beat in sixteenths of a count (R323). -/
def gridAt (l : List Anchor) (b : Nat) : Nat := let a := anchorFor l b; a.at16 + (b - a.beat) * a.lam

/-- The first schedule beat whose grid instant is at or after count `t` (R337). -/
def firstBeat (a : Anchor) (t : Nat) : Nat := a.beat + ceilDiv (16 * t - a.at16) a.lam

/-! ## Operating points (R48 to R61) -/

/-- Every sensor reads from 0 to 105 °C (R49); readings are in quarter degrees. -/
def tempsGood (l : List Int) : Bool := l.all fun t => decide (0 ≤ t) && decide (t ≤ 420)

/-- Guaranteed step rate of a point in tenths of a G step per second (R48). -/
def rate10 (op : Nat) : Nat := if op = 0 then 0 else 6 + 2 * op

/-- Slot length in beats of an operation of at most `n` steps at point `p` (R54): (n / rate + 1 ns) / 4 ns, rounded up. -/
def slotBeats (n p : Nat) : Nat := ceilDiv (10 * n + rate10 p) (4 * rate10 p)

/-- Begin a move of a die toward a point, one point at a time (R52). While it moves down, the guaranteed point is the lower at once. -/
def startOp (target : Nat) (x : Die) : Die :=
  if x.transition then { x with targetOp := target }
  else if target = x.curOp then { x with targetOp := target }
  else if target < x.curOp then { x with targetOp := target, transition := true, curOp := x.curOp - 1 }
  else { x with targetOp := target, transition := true }

/-- A one-point change settles (R52): the die is guaranteed at the new point, and goes on toward its target. Where the target has moved to the other side
while a change was under way, that change ends as one in the new direction (DESIGN CHOICE, log entry 78: R52 does not say what a new target does then). -/
def opSettled (x : Die) : Die :=
  if !x.transition then x
  else if x.curOp < x.targetOp then { x with curOp := x.curOp + 1, transition := decide (x.curOp + 1 ≠ x.targetOp) }
  else if x.targetOp < x.curOp then { x with curOp := x.curOp - 1 }
  else { x with transition := false }

/-- The point of dynamic work: the requested point, raised where a raise is in force but never above MAX_OP (R59, R486), less what the cap allots (R484);
a request for retention is never raised; the schedule point while a scheduled context is bound (R57, R61). -/
def wantedOp (x : Die) : Nat :=
  if x.scheduled then x.curOp
  else if x.reqOp = 0 then 0
  else
    let p := match x.raiseOp with | some r => max x.reqOp (min r x.maxOp) | none => x.reqOp
    match x.capOp with | some c => min p c | none => p

/-- A reason is active on a die (R493). -/
def throttled (x : Die) (r : Nat) : Bool := (tabGet none x.throttle.active r).isSome

/-- A step that the rail current or the temperature forced is still in force: fixed-voltage mode does not lift it (R60). -/
def forcedDown (x : Die) : Bool := throttled x 0 || throttled x 3 || x.quenched

/-- A context is bound to a die. -/
def State.dieBound (s : State) (d : Nat) : Bool := (s.ctxOfDie d).isSome

/-- PW_OP_CTRL's clamps (R61): MIN_OP, then MAX_OP against it, then REQ_OP against both. -/
def writePwOpCtrl (bound : Bool) (v : Nat) (x : Die) : Die :=
  let lo := clampN 1 7 (bits v 4 3)
  let hi := clampN lo 7 (bits v 8 3)
  let r := bits v 0 3
  let req := if r = 0 then (if bound then lo else 0) else clampN lo hi r
  { x with fixed := bit v 15, minOp := lo, maxOp := hi, reqOp := req, raiseOp := if bit v 15 then none else x.raiseOp,
           capOp := if bit v 15 && !forcedDown x then none else x.capOp }

/-- A compute die holds OP0: a spare, or a die that has left the active set (R37). -/
def State.holdsOp0 (s : State) (d : Nat) : Bool := !s.inv.logical.contains d

/-! ## Throttle reasons (R493) -/

def rsRail : Nat := 0
def rsCap : Nat := 1
def rsPeak : Nat := 2
def rsThermal : Nat := 3
def rsSlope : Nat := 4
def rsDuty : Nat := 5
def rsTraffic : Nat := 6
def rsStretch : Nat := 7

/-- A reason becomes active: one entry of KIND 0x04. -/
def State.throttleOn (s : State) (d r : Nat) : State :=
  if throttled (s.die d) r then s
  else
    let n := s.count d
    (s.modDie d fun x => { x with throttle := { x.throttle with active := tabSet x.throttle.active r (some n) } }).note d 0x04 0 noCtx (le 1 r)

/-- A reason clears: one entry of KIND 0x05, and its duration joins PW_THROTTLE_TIME, which sticks at 2^48 − 1 with one KIND 0x08 entry (R572). -/
def State.throttleOff (s : State) (d r : Nat) : State :=
  match tabGet none (s.die d).throttle.active r with
  | none => s
  | some t =>
    let dur := s.count d - t
    let old := tabGet 0 (s.die d).throttle.time r
    let peg := decide (2 ^ 48 ≤ old + dur) && !(s.die d).throttle.stuck.contains r
    let s := s.modDie d fun x => { x with throttle :=
      { active := tabSet x.throttle.active r none, last := r, time := tabSet x.throttle.time r (stick 48 (old + dur)),
        stuck := if peg then x.throttle.stuck ++ [r] else x.throttle.stuck } }
    let s := s.note d 0x05 0 noCtx (le 1 r ++ le 8 t ++ le 8 dur)
    if peg then s.note d 0x08 0 noCtx (le 8 (0x010020 + 8 * r) ++ le 1 0) else s

/-- A reason is active exactly while `b` holds. -/
def State.throttle (s : State) (d r : Nat) (b : Bool) : State := if b then s.throttleOn d r else s.throttleOff d r

/-! ## Writing PW_OP_CTRL (R60, R61, R495) -/

/-- A written MIN_OP lies above the point that the last allocation gave a dynamic die (R495): no rail or thermal step holds it there. -/
def minAboveAlloc (x : Die) : Bool := !x.scheduled && !x.fixed && !forcedDown x && (x.capOp.map fun c => decide (c < x.minOp)).getD false

/-- The die takes MIN_OP and meets its allocation by DUTY holds (R495). -/
def takeMinOp (x : Die) : Die := if minAboveAlloc x then { x with capOp := some x.minOp, dutyHold := true } else x

/-- PW_OP_CTRL_WRITE: the fields are clamped, and a die of the active set with no scheduled context moves toward its requested point (R61). Fixed-voltage
mode holds REQ_OP, so that what the cap allotted no longer counts (R60). -/
def pwOpCtrlWrite (d v : Nat) (s : State) : State :=
  let above := minAboveAlloc (writePwOpCtrl (s.dieBound d) v (s.die d))
  let s := s.modDie d fun x => let x := takeMinOp (writePwOpCtrl (s.dieBound d) v x); if x.scheduled || s.holdsOp0 d then x else startOp (wantedOp x) x
  if above then s.throttleOn d rsDuty else s

def execPwOpCtrlWrite (die : Nat) (value : Word) (s : State) : Out := need (isCompute die) (pwOpCtrlWrite die value.toNat s)

end Sys2Proof.Machine
end

