-- ==== Sys2Proof/Machine/Ring.lean ====
section
/-! DEFINITION. Chapters 6 and 7: scrub at context end, landing slots, crates on the weight ring, carries, update stations and the retirement of
weight sets. -/

namespace Sys2Proof.Machine

/-! ## Scrub (R190 to R192) -/

/-- The loft ranges of a die that hold a filled park: a park keeps its contents until its set retires (R214). -/
def State.parksOn (s : State) (d : Nat) : List (Nat × Nat) :=
  s.sets.flatMap fun e => match e.2 with
    | some w => if w.park then (w.entries.zipIdx.filter fun p =>
        tabGet false w.parked p.2 && decide ((s.jobDies w.job)[p.1.parkPos]? = some d)).map fun p => (p.1.parkOff, p.1.length) else []
    | none => []

/-- Every word of a die's loft reads zero (R188, R190), but for those of the parks that bound sets hold there: R214 keeps a park until its set retires, and the
rules do not say which of the two gives way (DESIGN CHOICE, log entry 81). -/
def State.zeroLoft (s : State) (d : Nat) : State :=
  let keep := s.parksOn d
  let lost := fun (a : Nat) => decide (loftKey d 0 ≤ a) && decide (a < loftKey d 0 + loftBytes) &&
    !keep.any fun r => loftKey d r.1 ≤ a && a < loftKey d r.1 + r.2
  { s with mem := s.mem.filter fun c => !lost c.1, marks := s.marks.filter fun e => !lost (8 * e.1) }

/-- The parks of a die are lost with the contents of its loft: they are to be filled again (R214). -/
def State.emptyParks (s : State) (d : Nat) : State :=
  { s with sets := s.sets.map fun e => (e.1, e.2.map fun w => { w with
      parked := w.parked.filter fun p => (s.jobDies w.job)[(w.entries.getD p.1 {}).parkPos]? != some d }) }

/-- A core after its scrub: its buffers, registers, queues and bundles cleared (R190). Tallies, counts and the map's mask stay (R294, R571). -/
def scrubbed (fails : Bool) (x : Core) : Core :=
  { tallies := x.tallies, masked := x.masked, scrubbing := x.scrubbing, scrubFail := fails, openMesh := false, errArith := x.errArith,
    errTally := x.errTally, sramCe := x.sramCe, released := [], completed := [] }

/-- SCRUB: `store` 0 to 3 is a core of the die in core order, 4 its loft. Zero in every row and clean check bits; a row that fails its
verification raises F_SCRUB_FAIL with the store and the row; the bit of KP_SRAM_STATUS is that of the store's last scrub (R185, R192). -/
def scrubOp (d k : Nat) (bad : Option Nat) (s : State) : State :=
  if k < 4 then
    let c := 4 * d + k
    if !(s.core c).scrubbing then s
    else
      let s := (s.clear (shelfKey c 0) shelfBytes).modCore c (scrubbed bad.isSome)
      match bad with
      | none => s
      | some r => s.raise d fScrubFail [] (le 1 k ++ le 4 r)
  else if !(s.die d).loftBusy then s
  else
    let s := (s.zeroLoft d).modDie d fun x => { x with slots := [], loftEccBanks := [], loftFail := bad.isSome }
    match bad with
    | none => s
    | some r => s.raise d fScrubFail [] (le 1 0xFE ++ le 4 r)

def execScrub (die store : Nat) (badRow : Option Nat) (s : State) : Out := need (isCompute die && decide (store < 5)) (scrubOp die store badRow s)

/-- A scrub is under way on a die of a context. -/
def State.scrubbingCtx (s : State) (c : Nat) : Bool :=
  (s.ctxPhys c).any fun d => (s.die d).loftBusy || (List.range 4).any fun k => (s.core (4 * d + k)).scrubbing

/-- A destroyed context whose scrub has ended is gone, and the command that destroyed it ends (R392). -/
def State.endDestroy (s : State) (c : Nat) : State :=
  if (s.ctx c).dying && !s.scrubbingCtx c then
    let t := (s.setCoord (s.ctx c).job none).setCtx c none
    match (s.ctx c).destroying with
    | some q => t.finish q {}
    | none => t
  else s

/-- Stop service ends with the last context: SERVICE is 3 (R517). -/
def State.stopDone (s : State) : State :=
  if s.stopping && s.boundCtxs.isEmpty && s.holder.isSome then
    let t := ({ s with stopping := false, service := .stopped } : State).causeService
    match s.recover with
    | some (q, 3) => ({ t with recover := none } : State).finish q {}
    | _ => t
  else s

def State.endDestroys (s : State) : State := (each s.boundCtxs s State.endDestroy).stopDone

/-- A quenched die is admitted again once its scrub has ended, its 10 µs current reads below 384 A and it is not tripped (R478, R491). -/
def State.readmit (s : State) (d : Nat) : State :=
  let x := s.die d
  if x.quenched && x.lowAmps && !x.tripped && !x.loftBusy && !s.dieBound d && !((List.range 4).any fun k => (s.core (4 * d + k)).scrubbing) then
    s.modDie d fun x => { x with quenched := false }
  else s

/-- SCRUB_END (R191): the store may be admitted to again. -/
def scrubEnd (d k : Nat) (s : State) : State :=
  if k < 4 then
    if (s.core (4 * d + k)).scrubbing then ((s.modCore (4 * d + k) fun x => { x with scrubbing := false, openMesh := true }).readmit d).endDestroys else s
  else if (s.die d).loftBusy then ((s.modDie d fun x => { x with loftBusy := false }).readmit d).endDestroys else s

def execScrubEnd (die store : Nat) (s : State) : Out := need (isCompute die && decide (store < 5)) (scrubEnd die store s)

/-! ## Sets and stops -/

def isWsid (w : Nat) : Bool := 1 ≤ w && w ≤ 0xFFFE

/-- The contexts of the job that owns a set. -/
def State.setCtxs (s : State) (w : WeightSet) : List Nat := s.jobCtxs w.job

/-- A launch of the set's job is in scheduled mode. -/
def State.setSched (s : State) (w : WeightSet) : Bool := (s.setCtxs w).any s.schedCtx

/-- The die that injects an entry of a set (R206): the cellar or larder die of its source; for a park that is filled, the die that parks it. -/
def State.injectDie (s : State) (w : WeightSet) (i : Nat) (fills : Bool) : Nat :=
  let e := w.entries.getD i {}
  if w.park && !fills then (s.jobDies w.job).getD e.parkPos 0
  else if e.src < larderBase then 68 + cellarOf e.src else 80 + (e.src - larderBase) / 0x1000000000 % 8

/-- A tile's step count for the set's pass `q` (R227). -/
def passStep (w : WeightSet) (tile q : Nat) : Nat := (tabGet 0 w.steps0 tile + q) % 2 ^ 32

/-- The address of STEPS[T] (R222). -/
def stepsAddr (w : WeightSet) (tile : Nat) : Nat := w.opt + 64 + 4 * tile

/-- The pass in which entry `i` is injected next (R205). -/
def passOf (w : WeightSet) (i : Nat) : Nat := if i < w.nextEntry then w.passesDone + 1 else w.passesDone

/-- A training tile's crates may be read once the update of the pass before has been applied (R227): go on with `f` when STEPS[T] says so, else with
`wait`. A read of STEPS that the map rejects, or that is not correctable, injects nothing (R275, R595). -/
def State.withStep (s : State) (wsid : Nat) (w : WeightSet) (i : Nat) (f wait : State → State) : State :=
  let t := (w.entries.getD i {}).tile
  if w.kind = 0 then f s
  else match s.memRead (.injection wsid) (stepsAddr w t) 4 with
    | .ok s l => if ofLe l = passStep w t (passOf w i) then f s else wait s
    | .lost s _ => s
    | .unmapped => s.memUnmapped (.injection wsid) (68 + cellarOf (stepsAddr w t)) (stepsAddr w t)

/-- PAYLOAD_READ_START (R207): the owning die reads the payload; a read that the map rejects injects nothing (R595), nor does one with an
uncorrectable error (R275). A die that has tripped holds the read (R491). -/
def payloadReadStart (wsid i : Nat) (s : State) : State :=
  match s.set? wsid with
  | none => s
  | some w =>
    if !w.inLaunch && !(w.park && !tabGet false w.parked i) then s
    else match w.entries[i]? with
    | none => s
    | some e =>
      if s.trafficStopped e.src e.length || (w.kind != 0 && s.trafficStopped (stepsAddr w e.tile) 4) then s
      else s.withStep wsid w i (fun s => match s.memRead (.injection wsid) e.src e.length with
        | .ok t l => t.modSet wsid fun w => { w with ready := tabSet w.ready i l }
        | .lost t _ => t
        | .unmapped => s.memUnmapped (.injection wsid) (s.injectDie w i true) e.src) id

def execPayloadReadStart (wsid entry : Nat) (s : State) : Out := need (isWsid wsid) (payloadReadStart wsid entry s)

/-! ## Landing (R194 to R198) -/

/-- The first slot of a crate (R196). -/
def landSlotOf (w : WeightSet) (c : Nat) : Nat := w.base + w.span * (c % max 1 (w.slots / w.span))

def State.slot (s : State) (d i : Nat) : LandSlot := tabGet {} (s.die d).slots i
def State.setSlot (s : State) (d i : Nat) (x : LandSlot) : State := s.modDie d fun y => { y with slots := tabSet y.slots i x }

/-- Every slot of a crate's group is EMPTY. -/
def State.slotsEmpty (s : State) (d i n : Nat) : Bool := (List.range n).all fun j => (s.slot d (i + j)).st == .empty

/-- The bytes of a carry (R200). -/
def carryBytes (l : List Half) : List Byte := (List.range 65536).flatMap fun i => le 4 (l.getD i 0).toNat

/-- A crate lands at die `d`: the payload into the first slot, the carry into the next two, all LANDING (R196). -/
def State.land (s : State) (d : Nat) (w : WeightSet) (x : Crate) : State :=
  let i := landSlotOf w x.hdr.injCount
  let s := s.putWords (loftKey d (i * 131072)) x.payload
  let s := s.setSlot d i { st := .landing, hdr := x.hdr, readsLeft := w.reads }
  if x.hdr.carry then
    ((s.putWords (loftKey d ((i + 1) * 131072)) (carryBytes x.carry)).setSlot d (i + 1) { st := .landing, hdr := x.hdr }).setSlot d (i + 2)
      { st := .landing, hdr := x.hdr }
  else s

/-- The die position at which a carry lands next (R217, R218). -/
def carryPos (x : Crate) (j : Nat) : Nat :=
  if x.hdr.dir = 0 then (x.hdr.start + x.hdr.added) % j else (x.hdr.start + j - x.hdr.added % j) % j

/-- The crate is due to land at a die of its job: a carry at the position that adds next (R218); another crate in scheduled mode at every stop of its one lap,
where MISSED stays zero (R210, R213), and in dynamic mode where the die's bit of MISSED stands. The crate of a park leaves its own die before its
lap (R214). -/
def State.landsAt (s : State) (w : WeightSet) (x : Crate) (d : Nat) : Option Nat :=
  match s.jobPos w.job d with
  | none => none
  | some p =>
    let j := (s.jobDies w.job).length
    let due := if x.hdr.carry then decide (x.hdr.added < j) && carryPos x j == p
      else if s.setSched w then decide (x.hops < 88) else x.hdr.missed.getLsbD p
    if due then some p else none

def State.crate? (s : State) (k : Nat) : Option Crate := tabGet none s.crates k
def State.setCrate (s : State) (k : Nat) (x : Option Crate) : State := { s with crates := tabSet s.crates k x }

/-- The record of a slot guard about a crate (R334). -/
def crateTail (x : Crate) : List Byte := le 2 x.hdr.wsid ++ le 4 x.hdr.tile ++ le 8 x.hdr.injCount

/-- A crate at a stop whose die is one of its job's: it lands, or passes by slots that are not EMPTY (R198). A carry that lands stays at the die. -/
def State.tryLand (s : State) (k : Nat) (x : Crate) (w : WeightSet) (d : Nat) : State × Crate :=
  match s.landsAt w x d with
  | none => (s, x)
  | some p =>
    if s.slotsEmpty d (landSlotOf w x.hdr.injCount) w.span then
      let y := { x with hdr := { x.hdr with missed := x.hdr.missed &&& ~~~(BitVec.ofNat 64 (2 ^ p)) }, heldAt := if x.hdr.carry then some d else x.heldAt,
                            landHop := x.hops }
      ((s.land d w y).setCrate k (some y), y)
    else if s.setSched w then
      (each (s.setCtxs w).head?.toList s fun s c =>
        s.slotGuard d 0xFD 0x08 6 c w.pointer (landSlotOf w x.hdr.injCount) (crateTail x), x)
    else (s.perfAdd d 22 1, x)

/-! ## Injection (R205 to R209) -/

/-- A crate header as an entry gives it (R201, R205). -/
def crateHeader (w : WeightSet) (wsid i q home now : Nat) (missed : BitVec 64) : CrateHdr :=
  let e := w.entries.getD i {}
  { wsid := wsid, variant := if w.variant then w.variantId else 0, carry := e.carry, last := e.last, var := w.variant, coded := e.coded, dir := e.dir,
    park := w.park, tile := e.tile, injCount := (q * w.entries.length + i) % 2 ^ 64, injTime := now, home := home, start := if e.carry then e.start else 0,
    added := 0, fmt := e.fmt, gen := e.gen % 16, laps := 0, step := if e.carry then passStep w e.tile q else 0, length := e.length,
    missed := if e.carry then 0 else missed }

/-- An earlier crate of the set goes round again from this home in this direction, which holds back new injections until it has left (R213). -/
def State.heldBack (s : State) (wsid home dir : Nat) : Bool :=
  s.crates.any fun e => match e.2 with
    | some x => x.hdr.wsid == wsid && x.hdr.home == home && x.hdr.dir == dir && !x.hdr.carry && decide (0 < x.hdr.laps)
    | none => false

/-- Where a parked payload stands in `mem` (R214). -/
def State.parkKey (s : State) (w : WeightSet) (i : Nat) : Nat :=
  let e := w.entries.getD i {}
  loftKey ((s.jobDies w.job).getD e.parkPos 0) e.parkOff

/-- The landing port's read of a parked payload checks it as every read does (R182 to R184). -/
def State.checkPark (s : State) (w : WeightSet) (i : Nat) : State :=
  if w.park && tabGet false w.parked i then s.eccRead (s.parkKey w i) (w.entries.getD i {}).length else s

/-- The payload of entry `i` at its injection: held for recirculation, parked, or read (R207, R212, R214). A carry entry of a RECIRC set finds none after the
first pass of a launch: its crate has gone to the station, never to the buffer, and R212 has no crate of such a set read again (DESIGN CHOICE, log entry
111). -/
def State.payloadOf (s : State) (w : WeightSet) (i : Nat) : Option (List Byte) :=
  let e := w.entries.getD i {}
  if w.park then
    if tabGet false w.parked i then some (readBytes s.mem (s.parkKey w i) e.length) else none
  else if 0 < w.passInLaunch && w.recirc then (w.recirculating.find? fun p => p.1 == i).map (·.2)
  else (w.ready.find? fun p => p.1 == i).map (·.2)

/-- The next entry of the plan, and at the end of a pass the next pass (R205). -/
def advanceEntry (w : WeightSet) (i : Nat) : WeightSet :=
  let w := { w with ready := w.ready.filter fun p => p.1 ≠ i, recirculating := w.recirculating.filter fun p => p.1 ≠ i }
  if i + 1 < w.entries.length then { w with nextEntry := i + 1 }
  else { w with nextEntry := 0, passesDone := w.passesDone + 1, passInLaunch := w.passInLaunch + 1 }

/-- At the start of a pass of a training set the station reads offsets 0 to 63 of the optimizer block (R222, R595). -/
def State.readOpt (s : State) (wsid : Nat) (w : WeightSet) : State :=
  match s.memRead (.station wsid) w.opt 64 with
  | .ok t l => t.modSet wsid fun w => { w with optBlock := l }
  | .lost t _ => t.modSet wsid fun w => { w with optBlock := [] }
  | .unmapped => (s.memUnmapped (.station wsid) (68 + cellarOf w.opt) w.opt).modSet wsid fun w => { w with optBlock := [] }

/-- The seed of the launch that carries a set's crates. -/
def State.setSeed (s : State) (w : WeightSet) : Word := (((s.setCtxs w).filterMap s.launchOf).head?.map (·.seed)).getD w.lastLaunchSeed

/-- A crate enters the ring at the stop of die `d` (R200, R205); at a die of the job it is landed there as it leaves (R214). -/
def State.putCrate (s : State) (wsid i q d : Nat) (w : WeightSet) (payload : List Byte) (fills : Bool) : State :=
  let home := (dieStop d).getD 0
  let j := (s.jobDies w.job).length
  let missed := if s.setSched w then 0 else BitVec.ofNat 64 (2 ^ j - 1)
  let x : Crate := { hdr := crateHeader w wsid i q home (s.count d) missed, payload := payload, stop := home,
                     seed := s.setSeed w, entry := i, fillsPark := fills }
  let k := s.crateNext
  let s := { s with crateNext := k + 1, crates := tabSet s.crates k (some x) }
  let s := if isCellar d then s.perfAdd d 8 1 else s
  if fills then s else (s.tryLand k x w d).1

/-- The injection count of entry `i` of the pass that comes next has come at die `d`, on the grid of its launch (R205, R207, R324). -/
def State.injectDue (s : State) (w : WeightSet) (i d : Nat) : Bool :=
  let g := (s.die d).gridOf w.job
  g.started && decide (gridAt g.anchors (w.passInLaunch * w.passBeats + (w.entries.getD i {}).offsetBeats) ≤ 16 * s.count d)

/-- CRATE_INJECT: the entry that is next enters the ring, never before its injection count; one that is not ready at its count is late in scheduled mode and
waits in dynamic mode (R207). An entry of a park set that is not parked yet is injected to fill its park, whatever is in flight (R214). -/
def crateInject (wsid i : Nat) (s : State) : State :=
  match s.set? wsid with
  | none => s
  | some w =>
    match w.entries[i]? with
    | none => s
    | some e =>
      if w.park && !tabGet false w.parked i then
        match (w.ready.find? fun p => p.1 == i).map (·.2) with
        | some l => (s.modSet wsid fun w => { w with ready := w.ready.filter fun p => p.1 ≠ i }).putCrate wsid i 0 (s.injectDie w i true) w l true
        | none => s
      else if !w.inLaunch || w.nextEntry != i || w.passes ≤ w.passInLaunch then s
      else
        let d := s.injectDie w i false
        let late := fun (s : State) => if s.setSched w then s.raise d fSlotLate (s.setCtxs w) (le 2 wsid ++ le 4 e.tile ++ le 8 (s.count d)) else s
        if s.heldBack wsid ((dieStop d).getD 0) e.dir || !s.injectDue w i d then s
        else s.withStep wsid w i (fun s => match s.payloadOf w i with
          | none => late s
          | some l =>
            let s := if i = 0 && w.kind != 0 then s.readOpt wsid w else s
            ((s.checkPark w i).modSet wsid fun w => advanceEntry w i).putCrate wsid i w.passesDone d w l false) late

def execCrateInject (wsid entry : Nat) (s : State) : Out := need (isWsid wsid) (crateInject wsid entry s)

/-! ## Passage (R202, R210 to R214, R218) -/

/-- A crate with a double-bit error is removed: F_CRATE_HEADER or F_CRATE_DATA; for header word 0 every job with a bound set is named (R202). -/
def State.crateError (s : State) (k : Nat) (x : Crate) (u : CrateUpset) (stop : Nat) : State :=
  let d := stopDie stop
  let own := match s.set? x.hdr.wsid with | some w => s.setCtxs w | none => []
  let all := (s.sets.flatMap fun e => match e.2 with | some w => s.setCtxs w | none => []).foldl addTo []
  match u with
  | .clean => s
  | .headerWord w => (s.setCrate k none).raise d fCrateHeader (if w = 0 then all else own) (le 1 stop)
  | .dataWord w => (s.setCrate k none).raise d fCrateData own (le 1 stop ++ le 4 w)

/-- The pass of its launch that a crate belongs to (R205). -/
def passNo (w : WeightSet) (x : Crate) : Nat := x.hdr.injCount / w.entries.length - (w.passesDone - w.passInLaunch)

/-- A crate at its home stop (R212, R213, R218, R221). -/
def State.crateHome (s : State) (k : Nat) (x : Crate) (w : WeightSet) : State :=
  let x := { x with hdr := { x.hdr with laps := stick 8 (x.hdr.laps + 1) } }
  if x.hdr.carry then
    if x.hdr.added = (s.jobDies w.job).length then s.setCrate k (some { x with heldAt := some (stopDie x.hdr.home) }) else s.setCrate k (some x)
  else if x.hdr.missed ≠ 0 then s.setCrate k (some x)
  else if w.recirc && decide (passNo w x + 1 < w.passes) then
    (s.setCrate k none).modSet x.hdr.wsid fun w => { w with recirculating := tabSet w.recirculating x.entry x.payload }
  else s.setCrate k none

/-- A crate that fills a park: at its die the payload is stored at PARK_OFF; at home it leaves (R214). -/
def State.parkArrive (s : State) (k : Nat) (x : Crate) (w : WeightSet) (d : Nat) : State :=
  let e := w.entries.getD x.entry {}
  if (s.jobDies w.job)[e.parkPos]? = some d then
    ((s.putWords (loftKey d e.parkOff) x.payload).setCrate k none).modSet x.hdr.wsid fun w => { w with parked := tabSet w.parked x.entry true }
  else s

/-- CRATE_ARRIVE: the crate goes from the stop before to this one, which checks it and then lands it, forwards it, or takes it home. A stop in bypass
forwards it unchanged (R29). It lands at every operating point of the die, OP0 included (R47): the wait of R51 for the die's cores is that of the landed
crate, which no engine reads before the die steps (DEDUCED, log entry 110). -/
def crateArrive (k stop : Nat) (u : CrateUpset) (s : State) : State :=
  match s.crate? k with
  | none => s
  | some x =>
    if x.heldAt.isSome || nextStop x.stop x.hdr.dir != stop then s
    else
      let x := { x with stop := stop, hops := x.hops + 1 }
      let s := s.setCrate k (some x)
      if (s.die (stopDie stop)).bypass then s
      else if u != .clean then s.crateError k x u stop
      else match s.set? x.hdr.wsid with
      | none => s.setCrate k none
      | some w =>
        if x.fillsPark then s.parkArrive k x w (stopDie stop)
        else
          let r := s.tryLand k x w (stopDie stop)
          if stop = x.hdr.home && r.2.heldAt.isNone then r.1.crateHome k r.2 w else r.1

def execCrateArrive (crate stop : Nat) (upset : CrateUpset) (s : State) : Out := need (isStop stop) (crateArrive crate stop upset s)

/-- A ring stop's INC of 1 on a tally of pointer slot `i`, of KIND `k` (R196, R219, R303). -/
def State.stopInc (s : State) (d j i k : Nat) : State :=
  match (s.jobCtxs j).head? with
  | none => s
  | some c =>
    let vid := ((s.launchOf c).bind fun l => l.tallies.find? fun e => e.kind == k && e.index == i).map (·.vid)
    s.applyTally { ctx := c, home := ringHome d, index := ringIndex k i, vid := vid.getD 0xFFFF, act := .inc, n := 1, src := .ringStop ((s.logicalDie d).getD 0) }

/-- A ring stop's send is progress of the contexts of the set's job (R317), and their last operation (R319). -/
def State.stopProgress (s : State) (w : WeightSet) : State :=
  each (s.setCtxs w) s fun s c => s.modCtx c fun x => { x with stock := { x.stock with progress := true, lastOp := s.kcount } }

/-- CRATE_FULL: the landing at slot `i` ends; the slots are FULL and the landing tally rises by 1 (R196). -/
def crateFull (d i : Nat) (s : State) : State :=
  let x := s.slot d i
  if x.st != .landing || (s.die d).bypass then s
  else match s.set? x.hdr.wsid with
  | none => s
  | some w =>
    if landSlotOf w x.hdr.injCount ≠ i then s
    else
      let s := s.setSlot d i { x with st := .full }
      let s := if x.hdr.carry then each [i + 1, i + 2] s fun s j => s.setSlot d j { s.slot d j with st := .full } else s
      (s.stopInc d w.job w.pointer 1).perfAdd d 21 1

def execCrateFull (die slot : Nat) (s : State) : Out := need (isCompute die && decide (slot < 384)) (crateFull die slot s)

/-! ## Carries (R217 to R219) -/

/-- The set that a launch injects by pointer slot `i` of the job on a die, and that carries gradients. -/
def State.trainSet (s : State) (d i : Nat) : Option (Nat × WeightSet) :=
  match s.sets.find? fun e => (e.2.map fun w => decide (some w.job = (s.die d).job) && w.inLaunch && w.pointer == i && w.kind != 0).getD false with
  | some e => e.2.map fun w => (e.1, w)
  | none => none

/-- The held carry of a set at a die with the lowest INJ_COUNT (R219 step 2). -/
def State.heldCarry (s : State) (wsid d : Nat) : Option (Nat × Crate) :=
  (s.crates.filterMap fun e => match e.2 with
    | some x => if x.hdr.wsid = wsid ∧ x.heldAt = some d ∧ x.hdr.carry = true ∧ dieStop d ≠ none ∧ isCompute d then some (e.1, x) else none
    | none => none).foldl (fun a e => match a with
      | none => some e
      | some b => if e.2.hdr.injCount < b.2.hdr.injCount then some e else some b) none

/-- The contribution at `key` added to the carry that stands at `at_`, element by element (R217, R219 step 3). -/
def addCarry (m : Memory) (key at_ : Nat) : List Half :=
  (List.range 65536).map fun i => BitVec.ofNat 32 (fp32Add (readLe m (at_ + 4 * i) 4) (readLe m (key + 4 * i) 4))

/-- A send whose crate is not FULL: guarded in scheduled mode, held in dynamic mode (R219). -/
def State.sendHeld (s : State) (d i : Nat) (wsid : Nat) (w : WeightSet) (x : Option Crate) : State :=
  if s.setSched w then
    let y := x.getD { hdr := { wsid := wsid } }
    each (s.setCtxs w).head?.toList s fun s c => s.slotGuard d 0xFD 0x08 8 c i (landSlotOf w y.hdr.injCount) (crateTail y)
  else s

/-- CARRY_SEND: the send tally of pointer slot `i` at die `d` releases one send (R219). The stop reads the contribution, and the crate as it stands in its
slots, through the loft's checks (R182 to R184). The crate is FULL while its carry slots are: the payload slot frees under R197 by itself. The two tallies
are those of the set's pointer slot (R303), whatever the plan's SEND_VID and SENT_VID are mapped to: R219 has these name the same tallies, and no rule says
what happens where they do not (DESIGN CHOICE, log entry 112). -/
def carrySend (d i : Nat) (s : State) : State :=
  match s.trainSet d i with
  | none => s
  | some (wsid, w) =>
    let send := s.tally (ringHome d) (ringIndex 2 i)
    if send.value = 0 || (s.die d).bypass then s
    else match s.heldCarry wsid d with
    | none => s.sendHeld d i wsid w none
    | some (k, x) =>
      let slot := landSlotOf w x.hdr.injCount
      let at_ := loftKey d (slot * 131072)
      if (s.slot d (slot + 1)).st != .full then s.sendHeld d i wsid w (some x)
      else
        let key := loftKey d (w.contrib + tabGet 0 w.sends d % 2 * 0x40000)
        let s := ((s.eccRead key 0x40000).eccRead at_ x.hdr.length).eccRead (at_ + 131072) 0x40000
        let y := { x with payload := readBytes s.mem at_ x.hdr.length, carry := addCarry s.mem key (at_ + 131072),
                          hdr := { x.hdr with added := x.hdr.added + 1 }, heldAt := none, stop := (dieStop d).getD 0 }
        let s := (s.setCrate k (some y)).setTally (ringHome d) (ringIndex 2 i) { send with value := send.value - 1 }
        let s := each [slot + 1, slot + 2] s fun s j => s.setSlot d j {}
        let s := s.modSet wsid fun w => { w with sends := tabSet w.sends d (tabGet 0 w.sends d + 1) }
        ((s.stopInc d w.job i 3).perfAdd d 23 1).stopProgress w

def execCarrySend (die slot : Nat) (s : State) : Out := need (isCompute die && decide (slot < 8)) (carrySend die slot s)

/-! ## Update stations (R221 to R227) -/

/-- A product with the sign of IEEE 754 where it is zero (R223). -/
def stMul (a b : Nat) : Nat :=
  match ofFp32 a, ofFp32 b with
  | .fin x m _, .fin y n _ => if m = 0 ∨ n = 0 then b2n (xor x y) * 2 ^ 31 else fp32Mul a b
  | _, _ => fp32Mul a b

/-- A quotient, correctly rounded (R223): 64 further bits and a sticky one. -/
def stDiv (a b : Nat) : Nat :=
  match ofFp32 a, ofFp32 b with
  | .nan, _ => f32NanS
  | _, .nan => f32NanS
  | .inf _, .inf _ => f32NanS
  | .inf x, .fin y _ _ => b2n (xor x y) * 2 ^ 31 + 0x7F800000
  | .fin x _ _, .inf y => b2n (xor x y) * 2 ^ 31
  | .fin x m p, .fin y n q =>
    if n = 0 then (if m = 0 then f32NanS else b2n (xor x y) * 2 ^ 31 + 0x7F800000)
    else encodeFloat fp32 .even false (xor x y) (m * 2 ^ 64 / n * 2 + b2n (m * 2 ^ 64 % n != 0)) (p - q - 65)
where f32NanS : Nat := 0x7FC00000

/-- The integer square root below 2^48, bit by bit. -/
def isqrt (n : Nat) : Nat := (List.range 48).foldl (fun r i => let t := r + 2 ^ (47 - i); if t * t ≤ n then t else r) 0

/-- A square root, correctly rounded (R223). -/
def stSqrt (a : Nat) : Nat :=
  match ofFp32 a with
  | .nan => 0x7FC00000
  | .inf neg => if neg then 0x7FC00000 else 0x7F800000
  | .fin neg m x =>
    if m = 0 then a
    else if neg then 0x7FC00000
    else
      let e : Int := x % 2
      let v := m * 2 ^ (60 + e.toNat)
      let r := isqrt v
      encodeFloat fp32 .even false false (r * 2 + b2n (r * r != v)) ((x - e) / 2 - 31)

/-- pow32 (R223). -/
def pow32 (b t : Nat) : Nat :=
  (List.range 32).foldl (fun r i => let r := stMul r r; if bit t (31 - i) then stMul r b else r) 0x3F800000

/-- The parameters of the optimizer block (R222). -/
structure OptParams where
  lr : Nat
  wd : Nat
  gscale : Nat
  b1 : Nat
  b2 : Nat
  eps : Nat
  stochastic : Bool

def optParams (l : List Byte) : OptParams :=
  { lr := fieldAt l 0 4, wd := fieldAt l 4 4, gscale := fieldAt l 8 4, b1 := fieldAt l 12 4, b2 := fieldAt l 16 4, eps := fieldAt l 20 4,
    stochastic := bit (fieldAt l 24 4) 0 }

/-- SGD with momentum on one element: the new u and w (R224). -/
def sgdStep (p : OptParams) (carry w u : Nat) : Nat × Nat :=
  let g := fp32Add (stMul carry p.gscale) (stMul p.wd w)
  let u := fp32Add (stMul p.b1 u) g
  (u, fp32Sub w (stMul p.lr u))

/-- AdamW on one element: the new m, v and w (R225). -/
def adamStep (p : OptParams) (c1 c2 carry w m v : Nat) : Nat × Nat × Nat :=
  let g := stMul carry p.gscale
  let m := fp32Add (stMul p.b1 m) (stMul (fp32Sub 0x3F800000 p.b1) g)
  let v := fp32Add (stMul p.b2 v) (stMul (fp32Sub 0x3F800000 p.b2) (stMul g g))
  let d := stDiv (stDiv m c1) (fp32Add (stSqrt (stDiv v c2)) p.eps)
  (m, v, fp32Sub w (stMul p.lr (fp32Add d (stMul p.wd w))))

/-- An fp32 array of a record: element i. -/
def arr (l : List Byte) (i : Nat) : Nat := fieldAt l (4 * i) 4

/-- The rounding of the new copies (R226). -/
def copyRound (p : OptParams) (seed : Word) (wsid tile t i : Nat) : Round :=
  if p.stochastic then
    .stochastic (draw24 (genWord seed (BitVec.ofNat 64 (5 * 2 ^ 56 + wsid * 2 ^ 40 + tile * 2 ^ 8)) (BitVec.ofNat 64 (t * 65536)) i))
  else .even

/-- The forward copy in the N128 form: line j holds at element 4c + l the weight W[4j + l][c] (R165, R221). -/
def forwardCopy (f : Nat → Nat) : List Byte :=
  (List.range 128).flatMap fun j => (List.range 512).flatMap fun e => le 2 (f ((4 * j + e % 4) * 128 + e / 4))

/-- The backward copy, the N512 form of the transpose: line j holds at element 4c + l the weight W[128 (j div 32) + c][4 (j mod 32) + l]
(R165, R221). -/
def backwardCopy (f : Nat → Nat) : List Byte :=
  (List.range 128).flatMap fun j => (List.range 512).flatMap fun e => le 2 (f ((128 * (j / 32) + e / 4) * 128 + 4 * (j % 32) + e % 4))

/-- The new record of a tile: each array at its offset (R221, R224 to R226). -/
def newRecord (kind : Nat) (p : OptParams) (carry : List Half) (old8 : List Byte) (t : Nat) (free : Nat → Option Nat) (round : Nat → Round) : List (Nat × List Byte) :=
  let idx := List.range 65536
  let old := fun (o i : Nat) => arr old8 (o / 4 + i)
  let c1 := fp32Sub 0x3F800000 (pow32 p.b1 t)
  let c2 := fp32Sub 0x3F800000 (pow32 p.b2 t)
  let sgd := fun i => sgdStep p (carry.getD i 0).toNat (old 0 i) (old 0x40000 i)
  let adam := fun i => adamStep p c1 c2 (carry.getD i 0).toNat (old 0 i) (old 0x40000 i) (old 0x80000 i)
  let w := fun i => match free i with | some v => v | none => if kind = 1 then (sgd i).2 else (adam i).2.2
  let half := fun i => narrow 0 (round i) false (w i)
  let f := forwardCopy half
  let b := backwardCopy half
  if kind = 1 then
    [(0, idx.flatMap fun i => le 4 (w i)), (0x40000, idx.flatMap fun i => le 4 (sgd i).1), (0x80000, f), (0xA0000, b)]
  else
    [(0, idx.flatMap fun i => le 4 (w i)), (0x40000, idx.flatMap fun i => le 4 (adam i).1), (0x80000, idx.flatMap fun i => le 4 (adam i).2.1),
     (0xC0000, f), (0xE0000, b)]

/-- Several writes of the station, all or none (R595). -/
def State.stationWrite (s : State) (wsid : Nat) : List (Nat × List Byte) → Option State
  | [] => some s
  | (a, l) :: t => match s.memWrite (.station wsid) a l with
    | some s => s.stationWrite wsid t
    | none => none

/-- F_ARITH_CHECK of an update station, its die in place of a core (R223). -/
def State.stationCheck (s : State) (d : Nat) (w : WeightSet) (u : Option Upset) : State :=
  match u with
  | none => s
  | some u => s.raise d fArithCheck (s.setCtxs w) (le 1 0xFF ++ le 1 0xFF ++ le 1 u.row ++ le 1 u.col ++ le 1 u.check ++ le 4 0)

/-- UPDATE_APPLY: the station of the home cellar die applies the optimizer step of the carry that has come home (R221 to R227); it reads the
master weights and the moments, and not the old copies (R228). A read or write that
is rejected, or an uncorrectable record, applies nothing (R275, R595). A die that has tripped holds its traffic (R491). -/
def updateApply (k : Nat) (u : Option Upset) (s : State) : State :=
  match s.crate? k with
  | none => s
  | some x =>
    match s.set? x.hdr.wsid with
    | none => s
    | some w =>
      let d := stopDie x.hdr.home
      if x.heldAt ≠ some d ∨ !isCellar d ∨ w.kind = 0 ∨ (s.die d).tripped then s
      else
        let s := s.setCrate k none
        let wsid := x.hdr.wsid
        let tile := x.hdr.tile
        let recAddr := w.state + tile * 0x100000
        let t := (x.hdr.step + 1) % 2 ^ 32
        if w.optBlock.isEmpty then s
        else match s.memRead (.station wsid) recAddr (if w.kind = 1 then 0x80000 else 0xC0000) with
        | .unmapped => s.memUnmapped (.station wsid) d recAddr
        | .lost s _ => s
        | .ok s rec8 =>
          let p := optParams w.optBlock
          let n := s.fresh
          let free := fun i => match u with
            | some u => if i = (u.row * 128 + u.col) % 65536 then some (Config.upsetValue n i).toNat else none
            | none => none
          let out := newRecord w.kind p x.carry rec8 t free (copyRound p x.seed wsid tile t)
          let s := if u.isSome then { s with fresh := n + 1 } else s
          let s := s.stationCheck d w u
          -- the station neither reads nor writes what lies beyond an SGD record's arrays (R221)
          let lost := (s.lostAt recAddr (if w.kind = 1 then 0xC0000 else 0x100000)).or (s.lostAt (stepsAddr w tile) 4)
          if let some b := lost then s.cellarUncorr (.station wsid) b (accKind (.station wsid))
          else match s.stationWrite wsid ((out.map fun r => (recAddr + r.1, r.2)) ++ [(stepsAddr w tile, le 4 t)]) with
          | some s => s.perfAdd d 9 1
          | none => s.memUnmapped (.station wsid) d (stepsAddr w tile)

def execUpdateApply (crate : Nat) (upset : Option Upset) (s : State) : Out := need true (updateApply crate upset s)

/-! ## Retirement (R233) -/

/-- A set is current, or about to be, in a pointer slot of its job. -/
def State.setCurrent (s : State) (wsid : Nat) (w : WeightSet) : Bool :=
  (s.setCtxs w).any fun c =>
    (s.ctx c).pointers.any (fun e => e.2 == wsid) || (s.ctx c).nextPointers.any fun e => e.2 == some wsid

/-- The job of a set has ended, or was faulted while the set was bound and its quench has ended: no context of it is left, or every one is faulted and its
launch is over (R233). -/
def State.jobOver (s : State) (w : WeightSet) : Bool :=
  (s.setCtxs w).isEmpty || w.jobFaulted && (s.setCtxs w).all fun c => (s.ctx c).faulted.isSome && (s.launchOf c).isNone

/-- Every condition of R233. -/
def State.mayRetire (s : State) (wsid : Nat) (w : WeightSet) : Bool :=
  s.jobOver w ||
  (!s.setCurrent wsid w && !w.inLaunch
    && !(s.crates.any fun e => match e.2 with | some x => x.hdr.wsid == wsid | none => false)
    && !(s.sets.any fun e => match e.2 with | some v => v.variant && v.baseWsid == wsid | none => false))

/-- The set leaves: no pointer slot names it, its crates are discarded, its slots are plain loft, the retirement is recorded and its event signalled (R233). -/
def State.retireSet (s : State) (wsid : Nat) (w : WeightSet) : State :=
  let s := { s with crates := s.crates.filter fun e => match e.2 with | some x => x.hdr.wsid != wsid | none => false }
  let s := each (s.jobDies w.job) s fun s d =>
    s.modDie d fun x => { x with slots := x.slots.filter fun e => e.1 < w.base || w.base + w.slots ≤ e.1 }
  let s := each (s.setCtxs w) s fun s c => s.modCtx c fun x => { x with
    pointers := x.pointers.filter fun e => e.2 != wsid, nextPointers := x.nextPointers.filter fun e => e.2 != some wsid }
  let s := (s.setSet wsid none).note s.serviceDie 0x0B 233 w.ctx (le 2 wsid)
  match w.retireEvent with
  | some e => if (s.ctx? w.ctx).isSome then s.signalEvent w.ctx e 1 s.kcount else s
  | none => s

/-- SET_RETIRE (R233). -/
def setRetire (wsid : Nat) (s : State) : State :=
  match s.set? wsid with
  | none => s
  | some w => if s.mayRetire wsid w then s.retireSet wsid w else s

def execSetRetire (wsid : Nat) (s : State) : Out := need (isWsid wsid) (setRetire wsid s)

end Sys2Proof.Machine
end

