-- ==== Sys2Proof/Machine/Score.lean ====
section
/-! DEFINITION. Chapter 5: the fetcher, the issue unit, the scalar unit, the completion of operations and the slot boundaries. -/

namespace Sys2Proof.Machine

/-! ## Fetch (R137) -/

/-- The bundles of one score row from index `b` on, as the row stands in the core's shelf (R134). -/
def rowBundles (m : Memory) (c : Nat) (x : Core) (b : Nat) : List (BitVec 256) :=
  let n := min (32 - b % 32) (x.length - b)
  (List.range n).map fun i => BitVec.ofNat 256 (readLe m (shelfKey c (x.scoreRow * 1024) + 32 * (b + i)) 32)

/-- SCORE_FETCH: on a die that steps (R51), the next row of the score, up to 64 bundles ahead; after a branch to a bundle that is not held, the target's row (R137). -/
def scoreFetch (c : Nat) (s : State) : State :=
  let x := s.core c
  let b := x.head + x.held.length
  if x.ctx.isNone || x.length ≤ b || (s.die (c / 4)).curOp = 0 then s
  else
    let l := rowBundles s.mem c x b
    if 64 < x.held.length + l.length then s
    else (s.eccRead (shelfKey c (x.scoreRow * 1024) + 32 * (b / 32 * 32)) 1024).modCore c fun y => { y with held := y.held ++ l }

def execScoreFetch (core : Nat) (s : State) : Out := need (isCore core) (scoreFetch core s)

/-! ## Issue (R138 to R145) -/

/-- Every condition of R49 has held throughout a slot that began at schedule beat `b` of a job's grid (R58), as the die's temperature sensors, droop detector and time
base show it: no reading outside 0 to 105 °C and no droop since, and the count neither held nor slewed faster than one count in 10,000. -/
def r49Held (x : Die) (g : Grid) (b : Nat) : Bool :=
  let start := gridAt g.anchors b / 16
  let before := fun (o : Option Nat) => (o.map fun n => decide (n < start)).getD true
  tempsGood x.temps && before x.tempBad && before x.lastDroop && x.tb.hold == 0

/-- A branch or HALT that has issued and is not resolved holds the issue unit. -/
def unresolved (x : Core) : Bool :=
  x.scalar.any fun e => !e.done && match e.op with
    | .scalar o => isBranch o.k || o.k == .halt
    | _ => false

/-- The tally operation of a slot list, if it is a WAIT or WAITDEC. -/
def waitOf (l : List (Nat × SlotOp)) : Option TallyOp :=
  (l.filterMap fun e => match e.2 with
    | .op (.tally o) _ => if o.k == .wait || o.k == .waitdec then some o else none
    | _ => none).head?

/-- The operations of a bundle, with their units. -/
def bundleOps (l : List (Nat × SlotOp)) : List (Nat × UnitOp) :=
  l.filterMap fun e => match e.2 with
    | .op o _ => some (e.1, o)
    | _ => none

/-- A WAIT or WAITDEC, which the tally port performs at the head of issue (R144). -/
def isWait (o : UnitOp) : Bool :=
  match o with
  | .tally t => t.k == .wait || t.k == .waitdec
  | _ => false

/-- The operations of a bundle that go to a queue: all but a wait. -/
def releases (l : List (Nat × SlotOp)) : List (Nat × UnitOp) := (bundleOps l).filter fun e => !isWait e.2

/-- The registers that a bundle reads (R143). -/
def bundleReads (l : List (Nat × SlotOp)) : List Nat :=
  l.flatMap fun e => match e.2 with
    | .op _ r => r
    | .range r => r
    | _ => []

/-- Every unit that the bundle names has a free entry (R141). -/
def queuesFree (x : Core) (l : List (Nat × UnitOp)) : Bool := l.all fun e => (unitQueue x e.1).length < 4

/-- A register that the bundle reads has a write pending (R143); s0 never has. -/
def readsPending (x : Core) (l : List (Nat × SlotOp)) : Bool := (bundleReads l).any fun r => r != 0 && x.pendWrites.contains r

/-- The register that a scalar operation writes. -/
def scalarWrites (o : ScalarOp) : Option Nat :=
  match o.k with
  | .st | .bz | .bnz | .halt => none
  | .dbnz => some o.ra
  | _ => some o.rd

/-- The units that a WHEN code waits on (R166). -/
def whenUnits (wh : Nat) : List Nat := if wh = 0 then [] else if wh = 5 then [1, 2, 3, 5] else if wh = 4 then [5] else [wh]

/-- One operation into its unit's queue, with its release number; its register write is pending (R143). -/
def releaseOne (bundle beat : Nat) (x : Core) (r : Nat × UnitOp) : Core :=
  let n := tabGet 0 x.released r.1 + 1
  let x := setUnitQueue x r.1 (unitQueue x r.1 ++ [{ op := r.2, bundle := bundle, beat := beat, seq := n }])
  let x := { x with released := tabSet x.released r.1 n }
  match r.2 with
  | .scalar o => match scalarWrites o with
    | some d => if d = 0 then x else { x with pendWrites := x.pendWrites ++ [d] }
    | none => x
  | _ => x

/-- The release numbers that a WHEN waits on, once the bundle's other operations are released (R168). -/
def markWhen (x : Core) (e : QEntry) : QEntry :=
  match e.op with
  | .tally o => { e with op := .tally { o with marks := (whenUnits o.wh).map fun u => (u, tabGet 0 x.released u) } }
  | _ => e

/-- The tally operation just released carries its marks. -/
def markLast (x : Core) : Core :=
  { x with tallyQ := match x.tallyQ.reverse with | e :: t => (markWhen x e :: t).reverse | [] => [] }

/-- Release every operation of the bundle at the head and go on to the next (R138, R142). -/
def releaseBundle (x : Core) (l : List (Nat × UnitOp)) (beat : Nat) : Core :=
  let y := l.foldl (releaseOne x.head beat) x
  let y := if l.any (fun e => e.1 == uTally) then markLast y else y
  { y with head := x.head + 1, held := x.held.drop 1, lastBeat := beat, issuedAny := true, wait := .none, lateTold := false }

/-- The issue beat of the head bundle (R138). -/
def issueBeat (x : Core) (w : BitVec 256) : Nat := if x.issuedAny then x.lastBeat + bDelta w else bDelta w

/-- The bundle at the head of issue: the one held, or, while the fetcher has not brought it yet, the one that stands in the score (log entry 79). -/
def State.headWord (s : State) (c : Nat) : BitVec 256 :=
  let x := s.core c
  match x.held with
  | w :: _ => w
  | [] => BitVec.ofNat 256 (readLe s.mem (shelfKey c (x.scoreRow * 1024) + 32 * x.head) 32)

/-- The issue beat of the bundle at the head. -/
def State.headBeat (s : State) (c : Nat) : Nat := issueBeat (s.core c) (s.headWord c)

/-- The grid that a core runs on: its job's, on its die. -/
def State.coreGrid (s : State) (c : Nat) : Grid := (s.die (c / 4)).gridOf (s.ctx ((s.core c).ctx.getD noCtx)).job

/-- In scheduled mode, the instant of a beat on the core's grid has not come (R55, R323). -/
def State.early (s : State) (c beat : Nat) : Bool :=
  s.schedCtx ((s.core c).ctx.getD noCtx) && decide (16 * s.count (c / 4) < gridAt (s.coreGrid c).anchors beat)

/-- In scheduled mode, more than one count has passed since the instant of a beat (R55). -/
def State.pastWindow (s : State) (c beat : Nat) : Bool :=
  s.schedCtx ((s.core c).ctx.getD noCtx) && decide (gridAt (s.coreGrid c).anchors beat + 16 < 16 * s.count (c / 4))

/-- The head bundle of a scheduled core is late: one record for each bundle (R58). -/
def State.late (s : State) (c beat : Nat) : State :=
  if (s.core c).lateTold then s
  else (s.slotLate c beat (r49Held (s.die (c / 4)) (s.coreGrid c) beat)).modCore c fun x => { x with lateTold := true }

/-- A bundle that a scheduled core cannot issue at its beat is late; a dynamic one holds (R140, R143, R145). -/
def State.lateOrHold (s : State) (c beat : Nat) : State := if s.schedCtx ((s.core c).ctx.getD noCtx) then s.late c beat else s

/-- The core issues: it runs a launch, has not halted or been stopped, and its die steps (R51, R151, R174). -/
def State.issues (s : State) (c : Nat) : Bool :=
  let x := s.core c
  x.ctx.isSome && x.running && !x.halted && !x.stopped && decide ((s.die (c / 4)).curOp ≠ 0)

/-- The head bundle, found valid, at its beat: it holds or is late while a unit that it names has no free entry (R141, R145) or while a register that it
reads has a write pending past the window (R143), waits for its tally (R144), or issues. One that issues past its window is late (R140). A wait released
counts as progress (R317). -/
def issueHead (c beat : Nat) (d : List (Nat × SlotOp)) (s : State) : State :=
  let x := s.core c
  if !queuesFree x (bundleOps d) then s.lateOrHold c beat
  else if readsPending x d then (if s.pastWindow c beat then s.lateOrHold c beat else s)
  else if (waitOf d).isSome && x.wait != .granted then s
  else
    let s := if s.pastWindow c beat then s.late c beat else s
    let s := s.setCore c (releaseBundle (s.core c) (releases d) beat)
    if (waitOf d).isSome then s.progressed c else s

/-- The first slot, in bundle order, that makes the head bundle invalid (R174): by its encoding, or by the value of a count register, where no register that
the bundle reads has a write pending. R174 does not say which slot a record names: a DELTA of 0 names slot 0xFF, and comes first; of several invalid slots
the first in bundle order is named. Bundle 0 is the first bundle whenever it issues: a branch back to it may find a DELTA of 0 (DESIGN CHOICE, log entry
79). -/
def headInvalid (x : Core) (w : BitVec 256) : Option Nat :=
  if 0 < x.head && bDelta w == 0 then some 0xFF
  else
    let d := decodeBundle x x.head w
    (d.find? fun e => e.2 == .bad || match e.2 with | .range _ => !readsPending x d | _ => false).map (·.1)

/-- The head bundle is looked at once: past the end of the score (R150) or invalid as it stands (R174), not yet due (R55), not fetched yet (R140), or
found valid. The record of a fall-through carries slot 0xFF: R150 gives its bundle index and no slot; that of a bundle not fetched yet the issue offset that
the DELTA standing in the score gives (DESIGN CHOICE, log entry 79). -/
def bundleIssue (c : Nat) (s : State) : State :=
  let x := s.core c
  if !s.issues c || unresolved x then s
  else if x.length ≤ x.head then s.scoreInvalid c x.length 0xFF
  else
    let beat := s.headBeat c
    match x.held with
    | [] => if s.early c beat then s else s.lateOrHold c beat
    | w :: _ =>
      match headInvalid x w with
      | some slot => s.scoreInvalid c x.head slot
      | none => if s.early c beat then s else issueHead c beat (decodeBundle x x.head w) s

/-- BUNDLE_ISSUE: the head bundle releases its operations (R138, R141), or is found invalid (R174), late (R140, R143, R145), or holds. -/
def execBundleIssue (core : Nat) (s : State) : Out := need (isCore core) (bundleIssue core s)

/-! ## Scalar unit (R148 to R151) -/

/-- The scalar operation at the head of the scalar queue, when it is of kind `k`. -/
def State.headScalar (s : State) (c : Nat) (k : ScalarK) : Option (QEntry × ScalarOp) :=
  if (s.die (c / 4)).curOp = 0 then none
  else match s.headOp c uScalar with
    | some e => match e.op with
      | .scalar o => if o.k = k then some (e, o) else none
      | _ => none
    | none => none

/-- The immediate, sign-extended and zero-extended. -/
def simm (o : ScalarOp) : Word := o.imm.signExtend 64
def zimm (o : ScalarOp) : Word := o.imm.zeroExtend 64

/-- Write a scalar result as the operation performs; its write is pending no longer (R143). -/
def writeResult (r : Nat) (v : Word) (x : Core) : Core := { setReg x r v with pendWrites := x.pendWrites.erase r }

/-- A one-step operation that writes s(RD) (R149); a result that a check found wrong is free (R128, R130). -/
def alu (k : ScalarK) (f : ScalarOp → Word) (c : Nat) (u : Option Upset) (s : State) : State :=
  match s.headScalar c k with
  | some (e, o) => ((s.upsetUnit c uScalar u e.beat).modCore c (writeResult o.rd (s.upsetWord u (f o)))).doneHead c uScalar e
  | none => s

def execAdd (core : Nat) (upset : Option Upset) (s : State) : Out := need (isCore core) (alu .add (fun o => o.a + o.b) core upset s)
def execSub (core : Nat) (upset : Option Upset) (s : State) : Out := need (isCore core) (alu .sub (fun o => o.a - o.b) core upset s)
def execAndOp (core : Nat) (s : State) : Out := need (isCore core) (alu .and (fun o => o.a &&& o.b) core none s)
def execOrOp (core : Nat) (s : State) : Out := need (isCore core) (alu .or (fun o => o.a ||| o.b) core none s)
def execXor (core : Nat) (s : State) : Out := need (isCore core) (alu .xor (fun o => o.a ^^^ o.b) core none s)
def execShl (core : Nat) (s : State) : Out := need (isCore core) (alu .shl (fun o => o.a <<< (o.b.toNat % 64)) core none s)
def execShr (core : Nat) (s : State) : Out := need (isCore core) (alu .shr (fun o => o.a >>> (o.b.toNat % 64)) core none s)
def execSltu (core : Nat) (upset : Option Upset) (s : State) : Out := need (isCore core) (alu .sltu (fun o => if o.a.toNat < o.b.toNat then 1 else 0) core upset s)
def execAddi (core : Nat) (upset : Option Upset) (s : State) : Out := need (isCore core) (alu .addi (fun o => o.a + simm o) core upset s)
def execOri (core : Nat) (s : State) : Out := need (isCore core) (alu .ori (fun o => o.a ||| zimm o) core none s)
def execShli (core : Nat) (s : State) : Out := need (isCore core) (alu .shli (fun o => o.a <<< (o.imm.toNat % 64)) core none s)
def execShri (core : Nat) (s : State) : Out := need (isCore core) (alu .shri (fun o => o.a >>> (o.imm.toNat % 64)) core none s)

/-- An operation whose write stays pending until it completes: MUL, LD, RDTB (R143). -/
def aluLong (k : ScalarK) (f : ScalarOp → Word) (c : Nat) (u : Option Upset) (s : State) : State :=
  match s.headScalar c k with
  | some (e, o) => ((s.upsetUnit c uScalar u e.beat).modCore c fun x => setReg x o.rd (s.upsetWord u (f o))).doneHead c uScalar e
  | none => s

def execMul (core : Nat) (upset : Option Upset) (s : State) : Out := need (isCore core) (aluLong .mul (fun o => o.a * o.b) core upset s)

/-- RDTB: the count of the core's own die as it performs (R149). -/
def execRdtb (core : Nat) (s : State) : Out := need (isCore core) (aluLong .rdtb (fun _ => BitVec.ofNat 64 (s.count (core / 4))) core none s)

/-- What RDID reads, by IMM[1:0] (R149). -/
def rdidValue (s : State) (c : Nat) (o : ScalarOp) : Nat :=
  match o.imm.toNat % 4 with
  | 0 => (s.logicalCore c).getD 0
  | 1 => (s.logicalDie (c / 4)).getD 0
  | 2 => (s.coreSlot c).getD 0
  | _ => s.activeCores.length

def execRdid (core : Nat) (s : State) : Out := need (isCore core) (alu .rdid (fun o => BitVec.ofNat 64 (rdidValue s core o)) core none s)

/-- The address of an LD or ST (R149). -/
def lsAddr (o : ScalarOp) : Nat := (o.a + simm o).toNat

/-- LD (R150): one aligned 64-bit word of the core's own shelf. The address of an access whose addition failed a check is free (R130). A misaligned address
is looked at first, wherever it leads (DESIGN CHOICE, log entry 107). -/
def ldOp (c : Nat) (u : Option Upset) (s : State) : State :=
  match s.headScalar c .ld with
  | some (e, o) =>
    let a := (s.upsetWord u (BitVec.ofNat 64 (lsAddr o))).toNat
    let s := s.upsetUnit c uScalar u e.beat
    if a % 8 ≠ 0 then s.invalidHead c uScalar e
    else andThen (s.headRead c uScalar e a 8 false) fun k =>
      let v := BitVec.ofNat 64 (readLe s.mem k 8)
      ((s.eccRead k 8).modCore c fun x => setReg x o.rd v).doneHead c uScalar e
  | none => s

def execLd (core : Nat) (upset : Option Upset) (s : State) : Out := need (isCore core) (ldOp core upset s)

/-- ST (R150); a misaligned address first, as for LD (log entry 107). -/
def stOp (c : Nat) (u : Option Upset) (s : State) : State :=
  match s.headScalar c .st with
  | some (e, o) =>
    let a := (s.upsetWord u (BitVec.ofNat 64 (lsAddr o))).toNat
    let s := s.upsetUnit c uScalar u e.beat
    if a % 8 ≠ 0 then s.invalidHead c uScalar e
    else andThen (s.headWrite c uScalar e a 8 false) fun k => (s.putWords k (le 8 o.d.toNat)).doneHead c uScalar e
  | none => s

def execSt (core : Nat) (upset : Option Upset) (s : State) : Out := need (isCore core) (stOp core upset s)

/-- A branch is taken: the target is issued next; where it is not held the fetcher starts over at its row (R137). -/
def takeBranch (b : Nat) (o : ScalarOp) (x : Core) : Core :=
  let t := (branchTarget b o.imm.toNat x.length).getD x.length
  if x.head ≤ t && t < x.head + x.held.length then { x with head := t, held := x.held.drop (t - x.head) }
  else { x with head := t, held := [] }

/-- BZ and BNZ (R149). -/
def branchOp (k : ScalarK) (p : Word → Bool) (c : Nat) (s : State) : State :=
  match s.headScalar c k with
  | some (e, o) => (s.modCore c fun x => if p o.a then takeBranch e.bundle o x else x).doneHead c uScalar e
  | none => s

def execBz (core : Nat) (s : State) : Out := need (isCore core) (branchOp .bz (fun v => v == 0) core s)
def execBnz (core : Nat) (s : State) : Out := need (isCore core) (branchOp .bnz (fun v => v != 0) core s)

/-- DBNZ: s(RA) less one, and the branch when it is not zero (R149). A decrement of s0 is discarded, so its new value reads zero. -/
def dbnzOp (c : Nat) (u : Option Upset) (s : State) : State :=
  match s.headScalar c .dbnz with
  | some (e, o) =>
    let v := if o.ra = 0 then 0 else s.upsetWord u (o.a - 1)
    ((s.upsetUnit c uScalar u e.beat).modCore c fun x => let x := writeResult o.ra v x; if v ≠ 0 then takeBranch e.bundle o x else x).doneHead c uScalar e
  | none => s

def execDbnz (core : Nat) (upset : Option Upset) (s : State) : Out := need (isCore core) (dbnzOp core upset s)

/-- HALT: the core issues no further bundle of this launch (R149, R151). -/
def haltOp (c : Nat) (s : State) : State :=
  match s.headScalar c .halt with
  | some (e, _) => (s.modCore c fun x => { x with halted := true }).doneHead c uScalar e
  | none => s

def execHalt (core : Nat) (s : State) : Out := need (isCore core) (haltOp core s)

/-! ## Completion (R143, R168, R173, R261) -/

/-- A scalar operation whose write is pending until it completes: MUL, LD and RDTB (R143). -/
def longWrite (k : ScalarK) : Bool := k == .mul || k == .ld || k == .rdtb

/-- The write of a scalar operation that leaves its queue is pending no longer: that of a long one, and that of one aborted before it performed (R312). -/
def endPending (e : QEntry) (x : Core) : Core :=
  match e.op with
  | .scalar o => match scalarWrites o with
    | some d => if longWrite o.k || !e.done then { x with pendWrites := x.pendWrites.erase d } else x
    | none => x
  | _ => x

/-- The head of a unit's queue leaves it. -/
def State.completeHead (s : State) (c u : Nat) : State :=
  let x := s.core c
  match unitQueue x u with
  | e :: t =>
    let y := endPending e { setUnitQueue x u t with completed := tabSet x.completed u (tabGet 0 x.completed u + 1) }
    let s := (s.setCore c y).progressed c
    if u = 1 ∨ u = 2 then s.expander c (u - 1) else s
  | [] => s

/-! ## Slot boundaries (R58, R335) -/

/-- SLOT_BOUNDARY: the operation of a bundle on a unit whose slot ends has not completed, its stream not halted by a failed check (R258), an operation still waits for its WHEN, or a wait has not been satisfied within its window: late. -/
def slotBoundary (c u b : Nat) (s : State) : State :=
  let x := s.core c
  if !s.schedCtx (x.ctx.getD noCtx) then s
  else match (unitQueue x u ++ (if u = uTally then x.delayed else [])).find? fun e => e.bundle == b && !e.halted with
    | some e => s.slotLate c e.beat (r49Held (s.die (c / 4)) (s.coreGrid c) e.beat)
    | none =>
      if u = uTally && x.head = b && (x.wait == .sent || x.wait == .registered || x.wait == .retry || x.wait == .satisfied) then
        let beat := match x.held with | w :: _ => issueBeat x w | [] => x.lastBeat
        s.slotLate c beat (r49Held (s.die (c / 4)) (s.coreGrid c) beat)
      else s

def execSlotBoundary (core unit bundle : Nat) (s : State) : Out := need (isCore core && decide (unit < 6)) (slotBoundary core unit bundle s)

end Sys2Proof.Machine
end

