-- ==== Sys2Proof/Machine/Launch.lean ====
section
/-! DEFINITION. LAUNCH from its descriptor to its completion (R381 to R384), binding and its end, launches over packages (R326 to R329), and
stretch (R337 to R342). -/

namespace Sys2Proof.Machine

/-! ## The launch block (R381, R382, R292, R330) -/

def tallyEntryAt (l : List Byte) (o : Nat) : TallyEntry :=
  { vid := fieldAt l o 2, kind := fieldAt l (o + 2) 1, index := fieldAt l (o + 3) 1, core := fieldAt l (o + 4) 4, init := fieldAt l (o + 8) 4 }

def linkAt (l : List Byte) (o : Nat) : Link :=
  { id := fieldAt l o 2, depth := fieldAt l (o + 2) 1, slotBytes := fieldAt l (o + 4) 4, base := fieldAt l (o + 8) 8, fullVid := fieldAt l (o + 16) 2,
    emptyVid := fieldAt l (o + 18) 2, producer := fieldAt l (o + 20) 4, consumer := fieldAt l (o + 24) 4 }

def coreEntryAt (l : List Byte) (o : Nat) : CoreEntry :=
  { core := fieldAt l o 4, bundles := fieldAt l (o + 4) 4, scoreRow := fieldAt l (o + 8) 4, score := brefAt l (o + 12), inRow := fieldAt l (o + 24) 4,
    input := brefAt l (o + 28), inBytes := fieldAt l (o + 40) 4, outRow := fieldAt l (o + 44) 4, output := brefAt l (o + 48), outBytes := fieldAt l (o + 60) 4 }

/-- A launch as its block spells it (R381). -/
def launchOfBlock (q : QRef) (l : List Byte) : Launch :=
  { q := q, st := .checked, scheduled := decide (0 < fieldAt l 4 1), schedOp := fieldAt l 5 1, packages := fieldAt l 6 2, root := bits (fieldAt l 8 2) 0 14,
    bankMask := BitVec.ofNat 32 (fieldAt l 12 4), seed := BitVec.ofNat 64 (fieldAt l 16 8), build := BitVec.ofNat 64 (fieldAt l 24 8),
    args := (List.range 8).map fun i => BitVec.ofNat 64 (fieldAt l (64 + 8 * i) 8),
    tallies := (List.range (fieldAt l 36 2)).map fun i => tallyEntryAt l (fieldAt l 32 4 + 16 * i),
    links := (List.range (fieldAt l 38 2)).map fun i => linkAt l (fieldAt l 40 4 + 32 * i),
    cores := (List.range (fieldAt l 10 2)).map fun i => coreEntryAt l (fieldAt l 44 4 + 64 * i) }

/-- Every table of a block lies within its bytes (R384). -/
def tablesFit (l : List Byte) (n : Nat) : Bool :=
  fieldAt l 32 4 + 16 * fieldAt l 36 2 ≤ n && fieldAt l 40 4 + 32 * fieldAt l 38 2 ≤ n && fieldAt l 44 4 + 64 * fieldAt l 10 2 ≤ n

/-- No element of a list stands twice. -/
def noRepeat (l : List Nat) : Bool := l.foldl addTo [] == l

/-- The tally map is one that R293 does not refuse, for a context with these logical cores. -/
def mapOk (cores : List Nat) (m : List TallyEntry) : Bool :=
  1 ≤ m.length && m.length ≤ 1024 && noRepeat (m.map (·.vid)) &&
  m.all (fun e => e.vid != 0xFFFF && e.kind ≤ 3 && (if e.kind = 0 then e.index < 48 && cores.contains e.core else e.index < 8)) &&
  noRepeat ((m.filter fun e => e.kind == 0).map fun e => e.core * 48 + e.index)

/-- The rows of a core entry's images: those of its input and of its output, where a handle names one (R382). -/
def imageRanges (e : CoreEntry) : List (Nat × Nat) :=
  (if e.input.handle = 0 then [] else [(e.inRow, ceilDiv e.inBytes 1024)]) ++ (if e.output.handle = 0 then [] else [(e.outRow, ceilDiv e.outBytes 1024)])

/-- The rows of a core entry's score and images (R382). -/
def entryRanges (e : CoreEntry) : List (Nat × Nat) := (e.scoreRow, ceilDiv e.bundles 32) :: imageRanges e

def rowsMeet (a b : Nat × Nat) : Bool := meets a.1 a.2 b.1 b.2

/-- No range of a list meets a later one. -/
def apart : List (Nat × Nat) → Bool
  | [] => true
  | a :: t => !t.any (rowsMeet a) && apart t

/-- A core entry's ranges lie in the shelf, apart from each other, and its images in enabled banks (R384, R186). -/
def entryOk (mask : BitVec 32) (e : CoreEntry) : Bool :=
  (entryRanges e).all (fun r => r.1 + r.2 ≤ 24576) && apart (entryRanges e) &&
  ((imageRanges e).all fun r =>
    (List.range r.2).all fun i => bankOn { bankMask := mask, scoreRow := e.scoreRow, length := e.bundles } (r.1 + i))

/-- A link's buffer and tallies are ones that R331 does not refuse. -/
def State.linkOk (s : State) (job : Nat) (cores : List Nat) (l : Launch) (k : Link) : Bool :=
  let size := k.depth * k.slotBytes
  let cons := s.coreOf k.consumer
  let place := match s.locate k.base size, cons with
    | .shelf c _, some x => c == x
    | .loft d _, some x => d == x / 4
    | _, _ => false
  let score := l.cores.any fun e => match s.locate k.base size with
    | .shelf c off => s.coreOf e.core == some c && meets off size (e.scoreRow * 1024) (ceilDiv e.bundles 32 * 1024)
    | _ => false
  let landing := match s.locate k.base size with
    | .loft _ off => s.sets.any fun e => match e.2 with
        | some w => w.job == job && meets off size (w.base * 131072) (w.slots * 131072)
        | none => false
    | _ => false
  let full := (findTally l k.fullVid).map fun e => e.kind == 0 && e.core == k.consumer && e.init == 0
  let empty := (findTally l k.emptyVid).map fun e => e.kind == 0 && e.core == k.producer && e.init == k.depth
  1 ≤ k.depth && k.depth ≤ 64 && k.slotBytes % 1024 == 0 && 1024 ≤ k.slotBytes && k.slotBytes ≤ 16777216
    && cores.contains k.producer && cores.contains k.consumer && place && !score && !landing && full == some true && empty == some true

/-- The link table is one that R331 does not refuse. -/
def State.linksOk (s : State) (job : Nat) (cores : List Nat) (l : Launch) : Bool :=
  l.links.length ≤ 2048 && noRepeat (l.links.map (·.id)) && noRepeat (l.links.flatMap fun k => [k.fullVid, k.emptyVid]) &&
  l.links.all (s.linkOk job cores l) &&
  (l.links.zipIdx.all fun a => l.links.zipIdx.all fun b =>
    a.2 == b.2 || !meets a.1.base (a.1.depth * a.1.slotBytes) b.1.base (b.1.depth * b.1.slotBytes))

/-- Every die shows LOCKED and EPOCH_SET (R70); for a job over packages also ALIGNED, without HOLDOVER (R67). -/
def State.timeOk (s : State) (packages : Nat) : Bool :=
  dieList.all fun d => let t := (s.die d).tb; t.locked && t.epochSet && (packages ≤ 1 || (t.aligned && !t.holdover))

/-- An expected port is missing (R430). -/
def portMissing (p : Port) : Bool := p.expectValid && p.st != .up

/-- A first-hop port of route 0 of a flow of the context is missing (R430, R460). -/
def State.pathMissing (s : State) (c : Nat) : Bool :=
  s.flows.any fun e => match e.2 with
    | some f => f.ctx == c && portMissing (s.port ((f.routes.getD 0 []).headD 0))
    | none => false

/-- One-way bound of the sync tree (R327): the mesh term, the package's longest edge of the tree, and what the chain has beyond it, which the package is not told
(log entry 85). -/
def State.syncBound (s : State) (c : Nat) : Nat :=
  let mesh := if s.inv.routers.isEmpty && !Config.peerRouterFailed s.fresh then 250 else 280
  mesh + Config.syncRest s.fresh + ((s.flows.filterMap fun e => match e.2 with
    | some f => if f.ctx = c && f.sync then some (600 * (f.routes.getD 0 []).length + 500) else none
    | none => none).foldl max 0)

/-- The outputs of a launch begin where a sealed context may begin a host write (R541). -/
def State.outputsOk (s : State) (c : Nat) (x : Launch) : Bool :=
  x.cores.all fun e => !stagingCtx (s.ctx c) || e.outBytes == 0 || e.output.offset % 4096 == 0 ||
    ((s.relocate c e.output e.outBytes true).map fun b => b.kind != 1).getD true

/-- The checks of R384, R293, R331 and R70. -/
def State.launchOk (s : State) (c : Nat) (l : List Byte) (n : Nat) (x : Launch) : Bool :=
  let cores := (s.ctxCores c).filterMap s.logicalCore
  fieldAt l 0 4 == (s.ctx c).job && tablesFit l n && 1 ≤ x.cores.length && x.cores.length ≤ cores.length
    && x.cores.all (fun e => cores.contains e.core && entryOk x.bankMask e) && noRepeat (x.cores.map (·.core))
    && (s.ctxPhys c).all (fun d => (s.die d).failed.isNone) && mapOk cores x.tallies && s.linksOk (s.ctx c).job cores x && s.timeOk x.packages && !s.pathMissing c && s.outputsOk c x
    && (!x.scheduled || (1 ≤ x.schedOp && x.schedOp ≤ 7)) && 1 ≤ x.packages && x.packages ≤ 16384
    && (x.packages == 1 || s.syncBound c ≤ 8000)

/-- The image references of a launch are mapped (R384, R378). -/
def State.imagesOk (s : State) (c : Nat) (x : Launch) : Bool :=
  x.cores.all fun e =>
    (s.relocate c e.score (32 * e.bundles) false).isSome &&
    (e.input.handle == 0 || (s.relocate c e.input e.inBytes false).isSome) &&
    (e.output.handle == 0 || (s.relocate c e.output e.outBytes true).isSome)

/-- The kind and base of a buffer; kind 0 where a reference names none. -/
def State.bufOf (s : State) (c : Nat) (r : Bref) (n : Nat) (write : Bool) : Nat × Nat := ((s.relocate c r n write).map fun b => (b.kind, b.base)).getD (0, 0)

/-- A core entry with its buffers as the launch relocates them: the entries of the handle table are read once for the whole command (R379). -/
def State.relocCore (s : State) (c : Nat) (e : CoreEntry) : CoreEntry :=
  let a := s.bufOf c e.score (32 * e.bundles) false
  let b := s.bufOf c e.input e.inBytes false
  let d := s.bufOf c e.output e.outBytes true
  { e with scoreKind := a.1, scoreBase := a.2, inKind := b.1, inBase := b.2, outKind := d.1, outBase := d.2 }

/-! ## Reading and writing buffers of a command -/

/-- Bytes into a buffer; none where a host write may not begin there or the owner check rejects it. -/
def State.writeBuf (s : State) (port c : Nat) (b : Buf) (l : List Byte) : Option State :=
  if b.kind = 1 then s.writeHost port c b l else s.memWrite (.context c) b.addr l

/-! ## LAUNCH (R383) -/

/-- A die of the context is bound to another context, or a scrub of it is under way, or it admits nothing after a quench or a trip (R478, R491), or a park of its sets
is not filled: being refilled (R383 step 1), or, which the rule does not name, being filled for the first time (DESIGN CHOICE, log entry 83). -/
def State.launchHeld (s : State) (c : Nat) : Bool :=
  (s.ctxPhys c).any (fun d =>
    (s.dieCtxs d).any (· != c) || (s.die d).loftBusy || (s.die d).quenched || (s.die d).tripped || ((List.range 4).any fun k => (s.core (4 * d + k)).scrubbing)) ||
  (s.sets.any fun e => match e.2 with
    | some w => w.job == (s.ctx c).job && w.park && s.setCurrent e.1 w && (List.range w.entries.length).any fun i => !tabGet false w.parked i
    | none => false)

/-- A launch block is checked: the launch, or the command's end (R383 step 2, R384). -/
def State.checkBlock (t : State) (q : QRef) (c : Nat) (l : List Byte) (n : Nat) : State :=
  let x := launchOfBlock q l
  let ok := t.launchOk c l n x
  let t := if x.packages ≤ 1 then t else t.takeFresh.2
  if !ok then t.endCmd q 1 0 0
  else if !t.imagesOk c x then t.cmdFault q 2 fAddrUnmapped 0
  else (t.modCtx c fun y => { y with launch := some { x with cores := x.cores.map (t.relocCore c) } }).waitCmd q

/-- The dies of a launch are no longer held: its block, which may have been read ahead (R368), is read and checked. -/
def State.checkLaunch (s : State) (q : QRef) (c : Nat) (r : Bref) (n : Nat) : State :=
  match (s.queue q).cmds.head?.bind (·.block) with
  | some l => s.checkBlock q c l n
  | none => match s.relocate c r n false with
    | none => s.cmdFault q 2 fAddrUnmapped r.offset
    | some b => match s.readBuf (s.queue q).port c b n with
      | .unmapped => s.cmdFault q 2 fAddrUnmapped b.addr
      | .lost t code => t.endCmd q (if b.kind = 1 then 3 else 7) code 0
      | .ok t l => t.checkBlock q c l n

/-- A context runs no launch until debug, stop service and the epoch permit it (R70, R517). -/
def launchRow (q : QRef) (s : State) : State :=
  s.command q fun s p => match p.cmd, q with
    | .launch r n, .normal c _ =>
      if s.holder.isNone || (s.launchOf c).isSome || s.launchHeld c then s.waitCmd q
      else s.checkLaunch q c r n
    | _, _ => s

def execLaunch (q : QRef) (s : State) : Out := need (isQueue q) (launchRow q s)

/-! ## Binding -/

/-- A core as binding leaves it (R148, R186, R188, R259, R294, R571). -/
def boundCore (c : Nat) (x : Launch) (e : Option CoreEntry) (lc : Nat) (old : Core) : Core :=
  { ctx := some c
    regs := (x.args.zipIdx.map fun p => (p.2 + 1, p.1)).foldl (fun t p => tabSet t p.1 p.2) []
    scoreRow := (e.map (·.scoreRow)).getD 0
    length := (e.map (·.bundles)).getD 0
    halted := e.isNone
    partEnded := e.isNone
    bankMask := x.bankMask
    tallies := (x.tallies.filter fun t => t.kind == 0 && t.core == lc).foldl (fun (u : Tab Tally) t => tabSet u t.index { value := BitVec.ofNat 32 t.init }) []
    masked := old.masked
    scrubFail := old.scrubFail
    sramCe := old.sramCe }

/-- The first context of a job on a die: the loft reads zero, its slots are EMPTY, its ring-stop error count is zero (R188, R194, R571). -/
def State.bindDie (s : State) (d j : Nat) : State :=
  let s := if (s.die d).job = some j then s else s.zeroLoft d
  s.modDie d fun x => { x with
    job := some j
    slots := if x.job = some j then x.slots else []
    errRing := if x.job = some j then x.errRing else 0
    loftEccBanks := if x.job = some j then x.loftEccBanks else []
    ringTallies := [] }

/-- The larder die of a larder address. -/
def larderDie (a : Nat) : Nat := 80 + (a - larderBase) / 0x1000000000

/-- The dies whose memory a buffer lies in: the host die of its port, its cellar dies or its larder dies. -/
def bufDies (port : Nat) (b : Buf) (n : Nat) : List Nat :=
  if b.kind = 1 then [96 + port]
  else if b.kind = 2 then (granules b.addr n).map fun g => 68 + g % 12
  else [larderDie b.addr, larderDie (b.addr + (n - 1))]

/-- A core's mover may place or copy out an image (R383 steps 4 and 6): its die does not stand at OP0 (R51), the mesh leads to the memory (R26), and no channel of
it holds class 2 traffic (R283). -/
def State.moverFree (s : State) (port core : Nat) (b : Buf) (n : Nat) : Bool :=
  b.kind == 0 || n == 0 ||
    (!s.atOp0 (core / 4) && (bufDies port b n).all (s.reaches (core / 4)) && !(b.kind == 2 && s.trafficHeld b.addr n))

/-- An image placed in a core's shelf by its mover (R383 step 4). -/
def State.place (s : State) (port c core row : Nat) (b : Buf) (n : Nat) : State :=
  if b.kind = 0 ∨ n = 0 then s
  else match s.readBuf port c b n with
    | .ok t l => t.putWords (shelfKey core (row * 1024)) l
    | .lost t _ => t
    | .unmapped => s.raise (core / 4) fAddrUnmapped [c] (le 1 (core % 4) ++ le 1 uMover ++ le 8 b.addr)

/-- Bind one core (R188). -/
def State.bindCore (s : State) (c : Nat) (x : Launch) (core : Nat) : State :=
  let lc := (s.logicalCore core).getD 0
  (s.clear (shelfKey core 0) shelfBytes).modCore core (boundCore c x (x.cores.find? fun e => e.core == lc) lc)

/-- The buffers of a core entry's score, input and output. -/
def scoreBuf (e : CoreEntry) : Buf := { kind := e.scoreKind, base := e.scoreBase, offset := e.score.offset, exact := false }
def inBuf (e : CoreEntry) : Buf := { kind := e.inKind, base := e.inBase, offset := e.input.offset, exact := false }
def outBuf (e : CoreEntry) : Buf := { kind := e.outKind, base := e.outBase, offset := e.output.offset, exact := false }

/-- Every placement of a launch may be made. -/
def State.placeable (s : State) (x : Launch) : Bool :=
  let port := (s.queue x.q).port
  x.cores.all fun e => match s.coreOf e.core with
    | some k => s.moverFree port k (scoreBuf e) (32 * e.bundles) && s.moverFree port k (inBuf e) e.inBytes
    | none => true

/-- The score and the input of each core of a launch are placed (R383 step 4). -/
def State.placeAll (s : State) (c : Nat) (x : Launch) : State :=
  let port := (s.queue x.q).port
  each x.cores s fun s e => match s.coreOf e.core with
    | some k => (s.place port c k e.scoreRow (scoreBuf e) (32 * e.bundles)).place port c k e.inRow (inBuf e) e.inBytes
    | none => s

/-- The pointer slots of the job at a launch boundary, and the sets that the launch injects (R231). -/
def launchPointers (x : Context) : Tab Nat :=
  x.nextPointers.foldl (fun t p => match p.2 with
    | some w => tabSet t p.1 w
    | none => t.filter fun e => e.1 ≠ p.1) x.pointers

/-- The sets of a launch begin its passes; a base set's READS is the number of its variants, and that of its plan while it has none (R205, R230). -/
def State.startSets (s : State) (c : Nat) (seed : Word) : State :=
  let p := launchPointers (s.ctx c)
  let s := s.modCtx c fun x => { x with pointers := p, nextPointers := [] }
  each (p.map (·.2)) s fun s w =>
    let v := (s.sets.filter fun e => match e.2 with | some y => y.variant && y.baseWsid == w | none => false).length
    s.modSet w fun y => { y with inLaunch := true, passInLaunch := 0, nextEntry := 0, lastLaunchSeed := seed, reads := if 0 < v then v else y.planReads }

/-- The link dies that carry a context's flows and groups, outbound and inbound (R341). -/
def State.linkDiesOf (s : State) (c : Nat) : List Nat :=
  (s.flows.filterMap fun e => match e.2 with
    | some f => if f.ctx = c then some (88 + flowPort f) else none
    | none => none) ++
  (s.rxFlows.filterMap fun e => match e.2 with
    | some f => if f.ctx = c then some (88 + f.link) else none
    | none => none) ++
  s.groups.flatMap fun e => match e.2 with
    | some g => if g.ctx = c then (s.groupPorts g).map (88 + ·) else []
    | none => []

/-- The dies of a launch's grid (R341): the job's compute dies, the cellar and larder dies that inject its sets, the link dies of its flows and groups. -/
def State.gridDies (s : State) (c : Nat) : List Nat :=
  let inj := (s.ctx c).pointers.flatMap fun p => match s.set? p.2 with
    | some w => (List.range w.entries.length).map fun i => s.injectDie w i true
    | none => []
  (s.ctxPhys c ++ inj ++ s.linkDiesOf c).foldl addTo []

/-- The first multiple of 4 at or after a count (R326). -/
def launchCount (n : Nat) : Nat := roundUp n 4

/-- Arm the dies of a launch with L (R326, R328 step 3). -/
def State.armLaunch (s : State) (c l : Nat) : State :=
  let j := (s.ctx c).job
  let s := s.modLaunch c fun x => { x with st := .armed, l := some l }
  each (s.gridDies c) s fun s d => s.modDie d fun y => y.armGrid j l

/-- The time-base flags of READY and ARMED (R328). -/
def State.readyMsg (s : State) (c : Nat) (x : Launch) : ReadyMsg :=
  let any := fun (f : TimeBase → Bool) => dieList.any fun d => f (s.die d).tb
  { job := (s.ctx c).job, pkg := s.pkgId, schedOp := x.schedOp, seed := x.seed, build := x.build, holdover := any (·.holdover),
    locked := !any (fun t => !t.locked), epochSet := !any (fun t => !t.epochSet), aligned := !any (fun t => !t.aligned),
    dies := s.gridDies c, timeRoot := if s.time.root then some s.pkgId else s.time.rootPkg }

/-- A die runs at the schedule point while a scheduled context is bound (R57); what an allocation did to it as a dynamic die is over, CAP and DUTY with it (R484,
R493). -/
def State.schedDies (s : State) (c : Nat) (x : Launch) : State :=
  if !x.scheduled then s
  else each (s.ctxPhys c) s fun s d =>
    ((s.modDie d fun y => startOp x.schedOp { y with scheduled := true, schedOp := x.schedOp, raiseOp := none, capOp := none, dutyHold := false, stretch := .idle }).throttleOff
      d rsCap).throttleOff d rsDuty

/-- A dynamic die that stands at OP0 goes to its requested point, which MIN_OP bounds while a context is bound (R61). -/
def State.dynDies (s : State) (c : Nat) (x : Launch) : State :=
  if x.scheduled then s
  else each (s.ctxPhys c) s fun s d => s.modDie d fun y =>
    let y := { y with reqOp := if y.reqOp = 0 then y.minOp else y.reqOp }
    startOp (wantedOp y) y

/-- The notes on an earlier launch of the job over packages are those of no launch any more; the READY messages of one to come stay. -/
def oldCoord (k : Coord) : Coord := { collect := k.collect, ended := true }

/-- The bound launch: one package arms at once; more send READY (R326, R328 step 1). -/
def State.launchGo (s : State) (c : Nat) (x : Launch) : State :=
  let n := s.kcount
  let s := s.modLaunch c fun y => { y with st := .bound, sets := (s.ctx c).pointers.map (·.2) }
  if x.packages ≤ 1 then (s.modCoord (s.ctx c).job oldCoord).armLaunch c (launchCount (n + 20000)) else s.send (.ready (s.readyMsg c x))

/-- Every flow of the context starts again on route 0, and every pruned member returns, from the root's next PSN on (R460, R464): the member takes the first packet
that comes as the next (DEDUCED, log entry 98). -/
def State.restoreFlows (s : State) (c : Nat) : State :=
  let s := each (s.groups.filterMap fun e => e.2.filter fun g => g.ctx == c) s fun s g =>
    each (g.members.filter (·.pruned)) s fun s m => s.sendMember g { restore := true } m
  { s with
    flows := s.flows.map fun e => (e.1, e.2.map fun f => if f.ctx = c then { f with route := 0, failedRoutes := [], timeouts := 0 } else f)
    groups := s.groups.map fun e => (e.1, e.2.map fun g =>
      if g.ctx = c then { g with members := g.members.map fun m => if m.pruned then { m with pruned := false, acked := g.next } else m } else g)
    rxFlows := s.rxFlows.map fun e => (e.1, e.2.map fun f => if f.ctx = c then { f with pruned := false, resync := f.resync || f.pruned } else f) }

/-- Bind the context (R383 step 3), its dies on their way to their points. The job's earlier fault is over with its quench. -/
def State.bindLaunch (s : State) (c : Nat) (x : Launch) : State :=
  let j := (s.ctx c).job
  let s := s.modCtx c fun y => { y with faulted := none, quenchOrdered := false, forced := false, stock := {},
                                        debugOn := y.debugOn || (s.inv.debugAllowed && y.debugReq && (!y.sealed || y.consent)), launched := true }
  let s := each (s.ctxPhys c) s fun s d => s.bindDie d j
  let s := each (s.ctxCores c) s fun s k => s.bindCore c x k
  let s := ((s.startSets c x.seed).restoreFlows c).schedDies c x
  let s := s.putQueue x.q fun y => if y.st = .waiting then { y with st := .fetching } else y
  (s.dynDies c x).modLaunch c fun y => { y with st := .placing }

/-- Binding completes when every placement has been made; it waits while one may not be (R383 steps 4 and 5). -/
def State.placeLaunch (s : State) (c : Nat) (x : Launch) : State := if s.placeable x then (s.placeAll c x).launchGo c x else s

/-- The oldest LAUNCH that waits at the head of one of the context's queues. -/
def State.waitingLaunch (s : State) (c : Nat) : Option (QRef × Bref × Nat) :=
  ((s.ctxQueues c).filterMap fun q => match s.headCmd q with
    | some p => match p.cmd with
      | .launch r n => if p.taken then some (p.serial, q, r, n) else none
      | _ => none
    | none => none).foldl (fun (a : Option (Nat × QRef × Bref × Nat)) e => match a with
      | none => some e
      | some b => if e.1 < b.1 then some e else some b) none |>.map (·.2)

/-- A launch is refused when it is about to bind and a die of its context has failed since it was checked (R512). -/
def State.refuseLaunch (s : State) (c : Nat) (x : Launch) : State := (s.endCmd x.q 1 0 0).modCtx c fun y => { y with launch := none }

/-- LAUNCH_BIND: the wait conditions are clear: a LAUNCH that waited is read and checked, and the launch binds (R383 steps 1 to 5); placements that waited are made.
A job whose quench is ordered binds nothing. -/
def launchBind (c : Nat) (s : State) : State :=
  let placing := (s.launchOf c).any fun x => x.st == .placing
  if s.holder.isNone || (s.ctx c).quenchOrdered || (!placing && s.launchHeld c) then s
  else
    let s := if (s.launchOf c).isSome then s
      else match s.waitingLaunch c with
        | some (q, r, n) => s.checkLaunch q c r n
        | none => s
    match s.launchOf c with
    | some x =>
      if x.st = .placing then s.placeLaunch c x
      else if x.st ≠ .checked then s
      else if (s.ctxPhys c).any fun d => (s.die d).failed.isSome then s.refuseLaunch c x
      else (s.bindLaunch c x).placeLaunch c x
    | none => s

def execLaunchBind (ctx : Nat) (s : State) : Out := need (isContext ctx) (launchBind ctx s)

/-- The grid of a job may start: its launch is armed or runs, and one over packages has taken GO (R328 step 6). -/
def State.mayStart (s : State) (j : Nat) : Bool :=
  (s.jobCtxs j).any fun c => !(s.ctx c).forced && (s.launchOf c).any fun x => (x.st == .armed || x.st == .running) && (decide (x.packages ≤ 1) || x.go)

/-- Of the armed grids of a die that may start, the job and L of the one whose L comes first. -/
def State.startsNext (s : State) (d : Nat) : Option (Nat × Nat) :=
  ((s.die d).grids.filterMap fun g => match g.armed, g.job with
    | some l, some j => if s.mayStart j then some (j, l) else none
    | _, _ => none).foldl (fun a e => match a with
      | some b => if e.2 < b.2 then some e else some b
      | none => some e) none

/-- The grid of a launch at its start (R323). -/
def startedGrid (l : Nat) (g : Grid) : Grid := { g with started := true, armed := none, anchors := [{ beat := 0, at16 := 16 * l, lam := 64 }], seq := 0 }

/-- GRID_START: at L an armed die starts its grid, and its cores begin to issue; a die of a job over packages needs GO (R326, R328 step 6). -/
def gridStart (d : Nat) (s : State) : State :=
  match s.startsNext d with
  | some (j, l) =>
    let cs := s.jobCtxs j
    let s := s.modDie d fun y => y.modGrid j (startedGrid l)
    let s := each cs s fun s c => s.modLaunch c fun x => if x.st = .armed then { x with st := .running } else x
    each ((List.range 4).map (4 * d + ·)) s fun s k =>
      if (s.core k).ctx.any fun c => (s.ctx c).job == j then s.modCore k fun x => { x with running := true } else s
  | none => s

def execGridStart (die : Nat) (s : State) : Out := need (isDie die) (gridStart die s)

/-! ## The end of a binding -/

/-- Every operation released to a core's units has completed, and none waits on a WHEN (R151). -/
def unitsIdle (x : Core) : Bool :=
  x.scalar.isEmpty && x.eng0.isEmpty && x.eng1.isEmpty && x.mover.isEmpty && x.tallyQ.isEmpty && x.finish.isEmpty && x.delayed.isEmpty

/-- CORE_PART_END: the core's part ends and its output image is copied out (R151, R383 step 6), once its mover may. -/
def corePartEnd (k : Nat) (s : State) : State :=
  let x := s.core k
  match x.ctx with
  | none => s
  | some c =>
    if !x.halted || x.partEnded || !unitsIdle x || (s.ctx c).forced then s
    else
      let end_ := fun (s : State) => s.modCore k fun y => { y with partEnded := true }
      match (s.launchOf c).bind fun l => (l.cores.find? fun e => s.coreOf e.core == some k).map fun e => (l, e) with
      | none => end_ s
      | some (l, e) =>
        let b := outBuf e
        if e.outKind = 0 ∨ e.outBytes = 0 then end_ s
        else if !s.moverFree (s.queue l.q).port k b e.outBytes then s
        else
          let key := shelfKey k (e.outRow * 1024)
          let s := (end_ s).eccRead key e.outBytes
          -- no one writes into a pinned region (R232)
          if b.kind = 2 && s.pinned b.addr e.outBytes false then s.raise (k / 4) fWeightsPinned [c] (le 1 (k % 4) ++ le 1 uMover ++ le 8 b.addr)
          else match s.writeBuf (s.queue l.q).port c b (readBytes s.mem key e.outBytes) with
          | some t => t
          | none =>
            if b.kind = 1 then s.dmaFail (s.queue l.q).port c b.addr
            else s.raise (k / 4) fAddrUnmapped [c] (le 1 (k % 4) ++ le 1 uMover ++ le 8 b.addr)

def execCorePartEnd (core : Nat) (s : State) : Out := need (isCore core) (corePartEnd core s)

/-- The counts of the context's binding, in one entry of KIND 0x0A (R571). -/
def State.contextEnd (s : State) (c : Nat) : State :=
  let cs := s.ctxCores c
  let sum := fun (f : Core → Nat) => stick 16 ((cs.map fun k => f (s.core k)).sum)
  let ring := stick 16 (((s.ctxPhys c).map fun d => (s.die d).errRing).sum)
  s.note s.serviceDie 0x0A 0 c (le 8 (sum (·.errArith)) ++ le 8 (stick 16 (sum (·.errTally) + ring)) ++ le 8 (s.ctx c).dmaErrors)

/-- A core leaves its binding: it issues nothing, its waits and operations are abandoned, its scrub is to follow (R190, R301). -/
def leaveCore (x : Core) : Core :=
  { stopCore x with ctx := none, scrubbing := true, openMesh := false, lateTold := false, eccBanks := [], bufTold := [] }

/-- Where the rail of a die that is free again goes (R339, R340): down to the point that it had asked for and not yet been granted, else to what dynamic work
asks. -/
def freeOp (asked : StretchSt) (y : Die) : Nat :=
  match asked with
  | .sent q _ _ => min q (wantedOp y)
  | .answered q _ _ => min q (wantedOp y)
  | _ => wantedOp y

/-- A die leaves its binding with the last context on it: the loft's scrub is to follow, the waits at its ring stop are abandoned, and its rail is free (R57, R189,
R301, R339, R340). SCHED_OP keeps the point of the last scheduled context: R61 does not say what it reads then (DESIGN CHOICE, log entry 86). -/
def State.leaveDie (s : State) (d : Nat) : State :=
  if (s.dieCtxs d).isEmpty then
    (s.throttleOff d rsStretch).modDie d fun y =>
      let asked := y.stretch
      let y := { y with job := none, loftBusy := true, scheduled := false, stretch := .idle, grids := y.grids.map endedGrid,
                        ringTallies := y.ringTallies.map fun e => (e.1, { e.2 with waits := [] }) }
      startOp (freeOp asked y) y
  else s

/-- The notes on a launch of this package alone end with it (R340), and the READY messages of the next stay; those of a job over packages stay until its next
launch. -/
def State.endCoord (s : State) (j : Nat) : State := match s.coord? j with
  | some k => if k.readies.any fun r => r.pkg != s.pkgId then s else s.setCoord j (if k.collect.isEmpty then none else some (oldCoord k))
  | none => s

/-- What is in flight for a context that leaves its binding is discarded on arrival (R190, R301): its tally messages, and the data of its loads. -/
def State.dropInFlight (s : State) (c : Nat) : State :=
  let cores := s.ctxCores c
  ({ s with tallyMsgs := s.tallyMsgs.map fun m => if m.ctx = c then { m with dead := true } else m } : State).disown cores.contains

/-- The binding of a context ends (R190): its cores and dies leave it, its launch is over, and the transfers of power that its job had lapse (R489). -/
def State.unbind (s : State) (c : Nat) : State :=
  let s := s.contextEnd c
  let dies := (s.gridDies c).filter fun d => !isCompute d
  let s := each (s.ctxCores c) s fun s k => if (s.core k).ctx = some c then s.modCore k leaveCore else s
  let s := each (s.ctxPhys c) s State.leaveDie
  let s := each dies s fun s d => s.modDie d fun y => y.endGrid (s.ctx c).job
  let s := each ((s.launchOf c).map (·.sets)).toList.flatten s fun s w => s.modSet w fun y => { y with inLaunch := false, recirculating := [], ready := [] }
  let s : State := { s with power := { s.power with pools := tabSet s.power.pools (s.ctx c).job 0, poolsNext := tabSet s.power.poolsNext (s.ctx c).job 0 } }
  ((s.dropInFlight c).endCoord (s.ctx c).job).modCtx c fun y => { y with launch := none, quenchOrdered := false, forced := false, dmaErrors := 0 }

/-- The sets of a launch are done with it: every pass injected, every crate off the ring, every carry applied (R233, R383 step 7). -/
def State.setsDone (s : State) (l : Launch) : Bool :=
  l.sets.all fun w => match s.set? w with
    | some y => decide (y.passes ≤ y.passInLaunch) && !(s.crates.any fun e => match e.2 with | some x => x.hdr.wsid == w | none => false)
    | none => true

/-- LAUNCH_COMPLETE (R383 step 7): RESULT is L. A launch whose quench is ordered ends by that. -/
def launchComplete (c : Nat) (s : State) : State :=
  match s.launchOf c with
  | none => s
  | some l =>
    if l.st = .running && !(s.ctx c).quenchOrdered && (s.ctxCores c).all (fun k => (s.core k).partEnded) && s.setsDone l then
      (s.endCmd l.q 0 0 (l.l.getD 0)).unbind c
    else s

def execLaunchComplete (ctx : Nat) (s : State) : Out := need (isContext ctx) (launchComplete ctx s)

/-! ## Quench (R499, R301) -/

/-- The values that a quenched context's tallies held, one entry for each tally of its map (R301). -/
def State.noteTallies (s : State) (c : Nat) : State :=
  match s.launchOf c with
  | none => s
  | some l => each l.tallies s fun s t =>
    if t.kind = 0 then match s.coreOf t.core with
      | some k => s.note (k / 4) 0x0B 301 c (le 1 (k % 4) ++ le 1 t.index ++ le 2 t.vid ++ le 4 (s.tally k t.index).value.toNat)
      | none => s
    else each (s.ctxPhys c) s fun s d =>
      let i := ringIndex t.kind t.index
      s.note d 0x0B 301 c (le 1 0xFD ++ le 1 i ++ le 2 t.vid ++ le 4 (s.tally (ringHome d) i).value.toNat)

/-- A quench: operations leave no result, waits are abandoned, the binding ends and its scrub follows; a context that is not bound has nothing
to stop (R499). -/
def State.quench (s : State) (c : Nat) : State :=
  match s.launchOf c with
  | some l => if l.st = .checked then s.modCtx c fun y => { y with launch := none, quenchOrdered := false, forced := false } else (s.noteTallies c).unbind c
  | none => s.modCtx c fun y => { y with quenchOrdered := false, forced := false }

/-- The answers that the dies of a job hold are discarded (R340). -/
def State.dropAnswers (s : State) (j : Nat) : State :=
  each dieList s fun s d => s.modDie d fun x => x.modGrid j fun g => { g with pending := [] }

/-- The job is faulted (R132, R500): the first fault sets the code of its records; its contexts are to be quenched, their queues stop, and its sets retire with the
quench (R233). After an emergency quench on any die of the job the answers that its dies hold are discarded (R340). -/
def State.faultJob (s : State) (j code : Nat) : State :=
  let s := s.faultSets j
  let s := if code = fRailQuench then s.dropAnswers j else s
  each (s.jobCtxs j) s fun s c =>
    let x := s.ctx c
    let first := x.faulted.getD code
    let s := s.modCtx c fun y => { y with faulted := some first, quenchOrdered := true }
    s.stopQueues c first

/-- FAULT_QUENCH (R499): at the slot boundary, or the end of the operation, an ordered quench takes place. -/
def faultQuench (c : Nat) (s : State) : State := if (s.ctx c).quenchOrdered then s.quench c else s

def execFaultQuench (ctx : Nat) (s : State) : Out := need (isContext ctx) (faultQuench ctx s)

/-! ## Launches over packages (R328, R329) -/

/-- The launch of a job on this package. -/
def State.jobLaunch (s : State) (j : Nat) : Option (Nat × Launch) :=
  (s.jobCtxs j).head?.bind fun c => (s.launchOf c).map fun l => (c, l)

/-- A time-base condition that READY or ARMED shows (R329). -/
def badFlags (m : ReadyMsg) : Bool := m.holdover || !m.locked || !m.epochSet || !m.aligned

/-- Two READY messages agree (R329), and their packages are aligned to one root (R471; DEDUCED, log entry 116: READY names the root). -/
def agree (a b : ReadyMsg) : Bool := a.schedOp == b.schedOp && a.seed == b.seed && a.build == b.build && a.timeRoot == b.timeRoot

/-- ABORT in place of ARM, and in place of GO (R329). -/
def State.abortReady (s : State) (j : Nat) : State := (s.modCoord j fun k => { k with collect := [] }).send (.abort j)
def State.abortArmed (s : State) (j : Nat) : State := (s.modCoord j fun k => { k with ended := true }).send (.abort j)

/-- The notes on a launch that arms with L (R328 step 2). -/
def armedNotes (l : List ReadyMsg) (schedOp n : Nat) : Coord :=
  { readies := l, schedOp := schedOp, l := some n, anchors := [{ beat := 0, at16 := 16 * n, lam := 64 }] }

/-- READY reaches the coordinator (R328 step 2, R329). -/
def readyRow (m : ReadyMsg) (s : State) : State :=
  let k := (s.coord? m.job).getD {}
  if s.holder.isNone || k.collect.any fun r => r.pkg == m.pkg then s
  else
    let l := k.collect ++ [m]
    let s := s.setCoord m.job (some { k with collect := l })
    if l.any badFlags || !l.all (agree m) then s.abortReady m.job
    else match s.jobLaunch m.job with
      | some (_, x) =>
        if x.st = .bound && decide (l.length = x.packages) then
          let n := launchCount (s.kcount + 200000)
          (s.setCoord m.job (some (armedNotes l m.schedOp n))).send (.arm m.job n)
        else s
      | none => s

def execReady (msg : ReadyMsg) (s : State) : Out := need true (readyRow msg s)

/-- ARM reaches a keeper (R328 step 3). -/
def armRow (j l : Nat) (s : State) : State :=
  match s.jobLaunch j with
  | some (c, x) => if x.st = .bound && s.holder.isSome then (s.armLaunch c l).send (.armed (s.readyMsg c x)) else s
  | none => s

def execArm (job l : Nat) (s : State) : Out := need true (armRow job l s)

/-- ARMED reaches the coordinator (R328 step 3, R329). -/
def armedRow (m : ReadyMsg) (s : State) : State :=
  s.modCoord m.job fun k => { k with armedBy := addTo k.armedBy m.pkg, armedBad := k.armedBad || badFlags m }

def execArmed (msg : ReadyMsg) (s : State) : Out := need true (armedRow msg s)

/-- GO reaches a package's keeper (R328 step 4); with no keeper acting it is lost (R506, R508). -/
def goRow (j : Nat) (s : State) : State :=
  match s.jobLaunch j with
  | some (c, x) => if x.st = .armed && s.holder.isSome then s.modLaunch c fun y => { y with go := true } else s
  | none => s

def execGo (job : Nat) (s : State) : Out := need true (goRow job s)

/-- A launch that does not start: disarmed, LAUNCH completed with error status, the binding ended where there is one (R328 step 5). -/
def State.dropLaunch (s : State) (c : Nat) (x : Launch) : State :=
  let s := s.endCmd x.q 1 0 0
  if x.st = .checked then s.modCtx c fun y => { y with launch := none } else s.unbind c

/-- A launch that has not begun to run. -/
def notStarted (x : Launch) : Bool := x.st == .checked || x.st == .placing || x.st == .bound || x.st == .armed

/-- ABORT reaches a package's keeper (R328 step 5); with no keeper acting it is lost (R506, R508). -/
def abortRow (j : Nat) (s : State) : State :=
  match s.jobLaunch j with
  | some (c, x) => if notStarted x && s.holder.isSome then s.dropLaunch c x else s
  | none => s

def execAbort (job : Nat) (s : State) : Out := need true (abortRow job s)

/-- READY_COLLECT_TIMEOUT (R329): 100 ms after the first READY some READY is missing. -/
def readyCollectTimeout (j : Nat) (s : State) : State :=
  match s.coord? j with
  | some k => if s.holder.isNone || k.collect.isEmpty then s else s.abortReady j
  | none => s

def execReadyCollectTimeout (job : Nat) (s : State) : Out := need true (readyCollectTimeout job s)

/-- ARMED_DEADLINE (R328 step 4, R329): at L − 50,000 the coordinator sends GO, or ABORT. -/
def armedDeadline (j : Nat) (s : State) : State :=
  match s.coord? j with
  | some k =>
    if k.ended || k.l.isNone || s.holder.isNone then s
    else if k.readies.all (fun r => k.armedBy.contains r.pkg) && !k.armedBad then s.send (.go j)
    else s.abortArmed j
  | none => s

def execArmedDeadline (job : Nat) (s : State) : Out := need true (armedDeadline job s)

/-- F_LAUNCH_SYNC to the coordinator, which faults the job on every package, and the launch dropped (R328 step 5, R329). -/
def State.launchSync (s : State) (c : Nat) (x : Launch) : State :=
  ((s.send (.jobFault (s.ctx c).job fLaunchSync s.pkgId s.kcount)).raise s.serviceDie fLaunchSync [c] (le 4 (s.ctx c).job)).dropLaunch c x

/-- ARM_DISARM_DEADLINE (R328 step 5): at L − 20,000 an armed package has neither GO nor ABORT. -/
def armDisarmDeadline (j : Nat) (s : State) : State :=
  match s.jobLaunch j with
  | some (c, x) => if x.st = .armed && decide (1 < x.packages) && !x.go then s.launchSync c x else s
  | none => s

def execArmDisarmDeadline (job : Nat) (s : State) : Out := need true (armDisarmDeadline job s)

/-- READY_ANSWER_TIMEOUT (R328 step 5): 200 ms after READY a package has neither ARM nor ABORT. -/
def readyAnswerTimeout (j : Nat) (s : State) : State :=
  match s.jobLaunch j with
  | some (c, x) => if x.st = .bound && decide (1 < x.packages) then s.launchSync c x else s
  | none => s

def execReadyAnswerTimeout (job : Nat) (s : State) : Out := need true (readyAnswerTimeout job s)

/-! ## Stretch (R337 to R342) -/

/-- λ_req (R337 step 2). -/
def lambdaReq (p q : Nat) : Nat := ceilDiv (64 * rate10 p) (rate10 q)

/-- The notes on a launch of this package alone: its keeper coordinates it. -/
def State.ownCoord (s : State) (j : Nat) : Option Coord := match s.jobLaunch j with
  | some (c, x) =>
    if 1 < x.packages then none
    else x.l.map fun l =>
      { collect := ((s.coord? j).map (·.collect)).getD [], l := some l, anchors := [{ beat := 0, at16 := 16 * l, lam := 64 }], lam := 64, schedOp := x.schedOp, readies := [s.readyMsg c x] }
  | none => none

/-- The coordinator's notes on a job: those of a launch over packages, or of the package's own launch. -/
def State.coordOf (s : State) (j : Nat) : Option Coord :=
  match s.coord? j with
  | some k => if k.ended then s.ownCoord j else some k
  | none => s.ownCoord j

/-- DETAIL of a KIND 0x06 entry (R562). -/
def gridDetail (a : StretchAns) (at16 : Nat) : List Byte := le 8 a.seq ++ le 1 a.lam ++ le 8 a.bT ++ le 8 (at16 / 16) ++ le 1 (at16 % 16)

/-- STRETCH_REQUEST (R337 steps 2 to 4): T, b_T, λ' and k. -/
def stretchRequest (r : StretchReq) (s : State) : State :=
  match s.coordOf r.job with
  | none => s
  | some k =>
    if r.q = 0 ∨ 7 ≤ r.q ∨ s.holder = none then s
    else
      let n := s.kcount
      let lam := max k.lam (lambdaReq k.schedOp r.q)
      let t := launchCount (max (max (n + 20000) (match k.lastT with | some t => t + 4 | none => 0)) (k.l.getD 0))
      let b := firstBeat (k.anchors.getLast?.getD {}) t
      let at16 := gridAt k.anchors b
      let a : StretchAns := { job := r.job, seq := k.seq + 1, k := lam - k.lam, lam := lam, t := t, bT := b, die := r.die, pkg := r.pkg }
      let k := { k with seq := k.seq + 1, lam := lam, lastT := some t, anchors := k.anchors ++ [{ beat := b, at16 := at16, lam := lam }], answers := k.answers ++ [a] }
      ((s.setCoord r.job (some k)).note s.serviceDie 0x06 0 (oneCtx (s.jobCtxs r.job)) (gridDetail a at16 ++ le 1 r.die ++ le 8 r.count)).send
        (.stretchAns r.job a (decide (a.k ≠ 0)))

def execStretchRequest (req : StretchReq) (s : State) : Out := need true (stretchRequest req s)

/-- F_STRETCH_LATE (R339). -/
def State.stretchLate (s : State) (d j : Nat) : State := s.raise d fStretchLate (s.jobCtxs j) (le 4 j)

/-- STRETCH_ANSWER (R337 step 5, R339): the die acknowledges and holds the answer; one that comes after its instant is late. -/
def stretchAnswer (d : Nat) (a : StretchAns) (s : State) : State :=
  let g := (s.die d).gridOf a.job
  if g.job.isNone then s
  else
    let at16 := if g.started then gridAt g.anchors a.bT else 16 * a.t
    let late := decide (at16 < 16 * s.count d)
    let s := s.modDie d fun y => { y.modGrid a.job (fun g => { g with pending := g.pending ++ [a] }) with
      stretch := match y.stretch with
        | .sent q reason _ => if a.die = d ∧ a.pkg = s.pkgId then .answered q reason a.bT else y.stretch
        | _ => y.stretch }
    let s := s.send (.stretchAck a.job d a.seq)
    if late then s.stretchLate d a.job else s

def execStretchAnswer (die : Nat) (ans : StretchAns) (s : State) : Out := need (isDie die) (stretchAnswer die ans s)

/-- STRETCH_ACK (R337 step 5). -/
def stretchAck (j pkg d seq : Nat) (s : State) : State := s.modCoord j fun k => { k with acks := k.acks ++ [(pkg, d, seq)] }

def execStretchAck (job pkg die seq : Nat) (s : State) : Out := need true (stretchAck job pkg die seq s)

/-- The answer due first among the started grids of a die, with its job and its grid instant. -/
def State.anchorDue (s : State) (d : Nat) : Option (Nat × StretchAns × Nat) :=
  ((s.die d).grids.filterMap fun g => match g.pending, g.job with
    | a :: _, some j => if g.started then some (j, a, gridAt g.anchors a.bT) else none
    | _, _ => none).foldl (fun x e => match x with
      | some y => if e.2.2 < y.2.2 then some e else some y
      | none => some e) none

/-- A grid with the answer at its front applied (R337 step 5). -/
def applied (a : StretchAns) (at16 : Nat) (g : Grid) : Grid :=
  { g with pending := g.pending.drop 1, seq := a.seq, anchors := g.anchors ++ [{ beat := a.bT, at16 := at16, lam := a.lam }] }

/-- ANCHOR_APPLY (R337 steps 5 and 6, R341): the answer due first adds its anchor; the die that asked begins to step to its point. -/
def anchorApply (d : Nat) (s : State) : State :=
  match s.anchorDue d with
  | some (j, a, at16) =>
    let s := s.modDie d fun y => y.modGrid j (applied a at16)
    let s := s.note d 0x06 0 (oneCtx (s.jobCtxs j)) (gridDetail a at16)
    let n := s.count d
    if a.die = d ∧ a.pkg = s.pkgId then
      match (s.die d).stretch with
      | .answered q _ _ => (s.modDie d fun y => startOp q { y with stretch := .holds q n }).throttleOn d rsStretch
      | _ => s
    else s
  | none => s

def execAnchorApply (die : Nat) (s : State) : Out := need (isDie die) (anchorApply die s)

/-- STRETCH_ANSWER_TIMEOUT (R339): 40 µs after its request a die has no answer. -/
def stretchAnswerTimeout (d : Nat) (s : State) : State :=
  match (s.die d).stretch, (s.die d).job with
  | .sent .., some j => s.stretchLate d j
  | _, _ => s

def execStretchAnswerTimeout (die : Nat) (s : State) : Out := need (isCompute die) (stretchAnswerTimeout die s)

/-- The dies that acknowledge an answer, with their packages: the die that asked, or every die that the job's packages armed (R337). -/
def ackDies (k : Coord) (a : StretchAns) : List (Nat × Nat) :=
  if a.k = 0 then [(a.pkg, a.die)] else k.readies.flatMap fun r => r.dies.map fun d => (r.pkg, d)

/-- An acknowledgement is missing of an answer whose count T has come by count `n` (R339). -/
def ackMissing (k : Coord) (n : Nat) : Bool :=
  k.answers.any fun a => decide (a.t ≤ n) && (ackDies k a).any fun e => !k.acks.contains (e.1, e.2, a.seq)

/-- STRETCH_ACK_DEADLINE (R339): answers that were judged are done with. -/
def stretchAckDeadline (j : Nat) (s : State) : State :=
  match s.coord? j with
  | some k =>
    if k.ended then s
    else
      let n := s.kcount
      let s' := s.modCoord j fun k => { k with answers := k.answers.filter fun a => decide (n < a.t) }
      if ackMissing k n then s'.stretchLate s.serviceDie j else s'
  | none => s

def execStretchAckDeadline (job : Nat) (s : State) : Out := need true (stretchAckDeadline job s)

end Sys2Proof.Machine
end

