-- ==== Sys2Proof/Machine/Commands.lean ====
section
/-! DEFINITION. The commands of normal queues other than LAUNCH (R380, R385 to R388): events, copies, the survey, table loads, hints, signals, fences
and the binding of weight sets. -/

namespace Sys2Proof.Machine

/-- NOP (R373). -/
def nopRow (q : QRef) (s : State) : State := s.command q fun s p => if p.cmd = .nop then s.endCmd q 0 0 0 else s

def execNop (q : QRef) (s : State) : Out := need (isQueue q) (nopRow q s)

/-! ## Events (R307 to R311, R388) -/

/-- SEQ of an event of a context. -/
def State.eventSeq (s : State) (c e : Nat) : Nat := readLe s.mem (eventAddr (s.ctx c) e) 8

/-- RECORD_EVENT (R309, R311): its event is signalled, and RESULT is the SEQ after its addition. -/
def recordEvent (q : QRef) (s : State) : State :=
  s.command q fun s p => match p.cmd, q with
    | .recordEvent e v, .normal c _ =>
      let t := s.signalEvent c e v.toNat (s.count (96 + (s.queue q).port))
      t.endCmd q 0 0 (t.eventSeq c e)
    | _, _ => s

def execRecordEvent (q : QRef) (s : State) : Out := need (isQueue q) (recordEvent q s)

/-- WAIT_EVENT (R311): ends with the SEQ that satisfies it, or waits at the head. -/
def waitEvent (q : QRef) (s : State) : State :=
  s.command q fun s p => match p.cmd, q with
    | .waitEvent e v, .normal c _ => if v.toNat ≤ s.eventSeq c e then s.endCmd q 0 0 (s.eventSeq c e) else s.waitCmd q
    | _, _ => s

def execWaitEvent (q : QRef) (s : State) : Out := need (isQueue q) (waitEvent q s)

/-- SIGNAL_TALLY (R307): the addition leaves for its tally, once, ranked by the host die that takes it (R298); the command ends when it is visible
(R304, R388). -/
def signalTally (q : QRef) (s : State) : State :=
  s.command q fun s p => match p.cmd, q with
    | .signalTally vid v, .normal c n =>
      if p.step != 0 then s
      else match (s.launchOf c).bind fun l => if l.st = .checked then none else findTally l vid with
      | some t =>
        match (if t.kind = 0 then s.coreOf t.core else none) with
        | some h =>
          let m : TallyMsg :=
            { ctx := c, home := h, index := t.index, vid := vid, act := .inc, n := v, src := .hostQueue (s.queue q).port n,
              rank := 4 * (96 + (s.queue q).port), result := some q, serial := p.serial }
          ({ s with tallyMsgs := s.tallyMsgs ++ [m] } : State).putHead q { p with step := 1 }
        | none => s.endCmd q 1 0 0
      | none => s.endCmd q 1 0 0
    | _, _ => s

def execSignalTally (q : QRef) (s : State) : Out := need (isQueue q) (signalTally q s)

/-- FENCE (R369): ends once every command of its context that was taken before it has completed. -/
def fenceRow (q : QRef) (s : State) : State :=
  s.command q fun s p => match p.cmd, q with
    | .fence, .normal c _ => s.checkFences c
    | _, _ => s

def execFence (q : QRef) (s : State) : Out := need (isQueue q) (fenceRow q s)

/-- HINT (R488): recorded, one ledger entry, and it ends when it is taken; it replaces an earlier one of the context. -/
def hintRow (q : QRef) (s : State) : State :=
  s.command q fun s p => match p.cmd, q with
    | .hint kind level lead dur, .normal c _ =>
      let n := s.kcount
      let t := n + 1000 * lead
      let s := s.modCtx c fun x => { x with hint := some { kind := kind, level := level, start := t, stop := t + 1000 * dur, taken := s.power.hints } }
      let s : State := { s with power := { s.power with hints := s.power.hints + 1 } }
      (s.note s.serviceDie 0x0B 488 c (le 1 kind ++ le 1 level ++ le 4 lead ++ le 4 dur)).endCmd q 0 0 0
    | _, _ => s

def execHint (q : QRef) (s : State) : Out := need (isQueue q) (hintRow q s)

/-! ## COPY and FILL (R385) -/

/-- The local address of a line of a source that no correction mends: the first in a range of cellar or larder (R275, R286). -/
def State.firstBad (s : State) (kind a n : Nat) : Option Nat :=
  if kind = 1 then none
  else
    let bad := if kind = 2 then ((s.linesIn a n).filter fun e => e.2 == .uncorr || e.2 == .tag).map (fun e => e.1 * 64) ++ (s.lostAt a n).toList
      else ((pagePieces a n).filter fun p => s.pageBad p.1).map (·.1)
    (bad.map (max a)).foldl (fun m x => match m with
      | none => some x
      | some y => some (min x y)) none

/-- Bytes into a buffer, and the end of the command with the number written; a host write that a TDI outside RUN stops is F_HOST_DMA, and one that a sealed
context may not begin there is refused (R541, R542). -/
def State.finishWrite (s : State) (q : QRef) (c : Nat) (d : Buf) (l : List Byte) (status fault : Nat) : State :=
  match s.writeBuf (s.queue q).port c d l with
  | some t => if d.kind = 2 && (s.lostAt d.addr l.length).isSome then t.endCmd q 7 fMemUncorr 0 else t.endCmd q status fault l.length
  | none =>
    if d.kind ≠ 1 then s.cmdFault q 2 fAddrUnmapped d.addr
    else if dmaBarred (s.ctx c) then (s.dmaFail (s.queue q).port c d.addr).endCmd q 3 fHostDma 0
    else s.endCmd q 1 0 0

/-- The move of a COPY: the whole source, or what stands before its first uncorrectable line. -/
def State.copyBytes (s : State) (q : QRef) (c : Nat) (a d : Buf) (n : Nat) : State :=
  let port := (s.queue q).port
  match s.firstBad a.kind a.addr n with
  | none => match s.readBuf port c a n with
    | .ok t l => t.finishWrite q c d l 0 0
    | .lost t code => t.endCmd q (if a.kind = 1 then 3 else 7) code 0
    | .unmapped => s.cmdFault q 2 fAddrUnmapped a.addr
  | some b =>
    match s.readBuf port c a (b - a.addr) with
    | .ok t l =>
      let t := match t.readBuf port c { a with offset := a.offset + (b - a.addr) } 1 with
        | .ok u _ => u
        | .lost u _ => u
        | .unmapped => t
      let fault := if a.kind = 2 then fMemUncorr else fLarderUncorr
      if l.isEmpty then t.endCmd q 7 fault 0 else t.finishWrite q c d l 7 fault
    | .lost t code => t.endCmd q 7 code 0
    | .unmapped => s.cmdFault q 2 fAddrUnmapped a.addr

/-- COPY_CMD (R385, R232), in class 2, which a hot channel holds (R283): refused where source and destination overlap; a pinned destination is F_WEIGHTS_PINNED. -/
def copyCmd (q : QRef) (s : State) : State :=
  s.command q fun s p => match p.cmd, q with
    | .copy r w n, .normal c _ =>
      match s.relocate c r n false, s.relocate c w n true with
      | some a, some d =>
        if a.kind = d.kind && meets a.addr n d.addr n then s.endCmd q 1 0 0
        else if d.kind = 2 && s.pinned d.addr n true then s.cmdFault q 1 fWeightsPinned d.addr
        else if n = 0 then s.endCmd q 0 0 0
        else if (a.kind = 2 && s.trafficHeld a.addr n) || (d.kind = 2 && s.trafficHeld d.addr n) then s
        else s.copyBytes q c a d n
      | none, _ => s.cmdFault q 2 fAddrUnmapped r.offset
      | _, none => s.cmdFault q 2 fAddrUnmapped w.offset
    | _, _ => s

def execCopyCmd (q : QRef) (s : State) : Out := need (isQueue q) (copyCmd q s)

/-- FILL_CMD (R385, R232). -/
def fillCmd (q : QRef) (s : State) : State :=
  s.command q fun s p => match p.cmd, q with
    | .fill w v n, .normal c _ =>
      match s.relocate c w n true with
      | some d =>
        if d.kind = 2 && s.pinned d.addr n true then s.cmdFault q 1 fWeightsPinned d.addr
        else if n = 0 then s.endCmd q 0 0 0
        else if d.kind = 2 && s.trafficHeld d.addr n then s
        else s.finishWrite q c d ((List.range (n / 8)).flatMap fun _ => le 8 v.toNat) 0 0
      | none => s.cmdFault q 2 fAddrUnmapped w.offset
    | _, _ => s

def execFillCmd (q : QRef) (s : State) : Out := need (isQueue q) (fillCmd q s)

/-! ## SURVEY (R250 to R254, R265) -/

/-- A range of the cellar or larder meets a protected region (R265): a state record or optimizer block of a bound training set, or a cellar region whose handle, of
whichever context, carries EXACT. -/
def State.protected (s : State) (a n : Nat) : Bool :=
  (s.sets.any fun e => match e.2 with
    | some w => w.kind != 0 &&
        (meets a n w.opt (64 + 4 * ((setTiles w).foldl max 0 + 1)) || (setTiles w).any fun t => meets a n (w.state + t * 0x100000) 0x100000)
    | none => false) ||
  s.boundCtxs.any fun c => (List.range (s.ctx c).handles).any fun i =>
    let h := s.handle (s.ctx c) (i + 1); h.kind == 2 && h.exact && meets a n h.base h.size

/-- A range lies in the mapped cellar. -/
def State.inCellar (s : State) (a n : Nat) : Bool := match s.locate a n with
  | .cellar _ => s.cellarMapped a n
  | _ => false

/-- The elements of a survey: bf16 codes in address order. -/
def elems16 (l : List Byte) : List Nat := (List.range (l.length / 2)).map fun i => fieldAt l (2 * i) 2

/-- Target differences of a difference survey (R249). -/
def diffTargets (t : CaskTable) (base : List Byte) (l : List Nat) : List Nat :=
  l.zipIdx.map fun p =>
    let b := decodeAt t (slice base (p.2 / 128 * caskBytes t.kind) (caskBytes t.kind)) (p.2 % 128)
    narrow 0 .even false (fp32Sub (widen 0 127 p.1) (widen 0 127 b))

/-- The report (R252). -/
def surveyReport (total exact nonfinite blocks coverage : Nat) (rec16 : List Byte) : List Byte :=
  le 8 total ++ le 8 exact ++ le 8 nonfinite ++ le 8 blocks ++ le 4 coverage ++ List.replicate 12 0 ++ slice rec16 0 16

/-- Elements of a block that a table codes exactly (R247, R248). -/
def exactIn (t : CaskTable) (l : List Nat) : Nat := let b := blockBase l; (l.filter fun v => (encodeElem t b v).2).length

/-- Several writes, all or none. -/
def State.writeAll (s : State) (c : Nat) : List (Nat × List Byte) → Option State
  | [] => some s
  | (a, l) :: t => match s.memWrite (.context c) a l with
    | some s => s.writeAll c t
    | none => none

/-- The writes of a survey and its end: none into a pinned region (R232). -/
def State.surveyEnd (s : State) (q : QRef) (c status result : Nat) (l : List (Nat × List Byte)) : State :=
  match l.find? fun e => s.pinned e.1 e.2.length true with
  | some e => s.cmdFault q 1 fWeightsPinned e.1
  | none => match s.writeAll c l with
    | some t => t.endCmd q status 0 result
    | none => s.cmdFault q 1 fAddrUnmapped ((l.head?.map (·.1)).getD 0)

/-- The passes of a survey over its source (R250 to R253): `l` are the source's elements, `d` the elements to code. -/
def State.surveyCode (s : State) (q : QRef) (c kind ref gen : Nat) (zero encode : Bool) (l d : List Nat) (dest table report : Nat) : State :=
  let blocks := chunks 128 d.length d
  let t := buildTable kind gen zero blocks
  let rec16 := tableRecord t ref
  let exact := (blocks.map (exactIn t)).sum
  let bad := ((l.zip d).filter fun p => expField p.1 == 255 || expField p.2 == 255).length
  let cov := exact * 2 ^ 24 / max 1 d.length
  let rep := fun n => surveyReport d.length exact bad n cov rec16
  if bad ≠ 0 then s.surveyEnd q c 1 cov [(report, rep 0)]
  else
    let code := if encode then [(dest, blocks.flatMap (encodeBlock t))] else []
    s.surveyEnd q c 0 cov (code ++ [(table, rec16), (report, rep (if encode then blocks.length else 0))])

/-- A read of a survey's source, table or base, and what ends the command where it gives no data (R253, R275, R286). -/
def State.surveyRead (s : State) (q : QRef) (c a n : Nat) (f : State → List Byte → State) : State :=
  match s.memRead (.context c) a n with
  | .ok t l => match s.firstBad (if a < larderBase then 2 else 3) a n with
    | some _ => t.endCmd q 7 (if a < larderBase then fMemUncorr else fLarderUncorr) 0
    | none => f t l
  | .lost t code => t.endCmd q 7 code 0
  | .unmapped => s.cmdFault q 1 fAddrUnmapped a

/-- The passes over a source: one, and with ENCODE a second, which reads it again (R254). -/
def State.surveyPass (s : State) (q : QRef) (c a n : Nat) (encode : Bool) (f : State → List Byte → State) : State :=
  s.surveyRead q c a n fun s l => if encode then s.surveyRead q c a n fun s _ => f s l else f s l

/-- The base of a difference survey (R253, R265): refused where its table record is invalid, of another kind, or where it lies in a protected region; its stream is
read on each pass (R254). -/
def State.surveyBase (s : State) (q : QRef) (c kind src table blocks : Nat) (encode : Bool) (f : State → CaskTable → List Byte → State) : State :=
  let n := blocks * caskBytes kind
  if s.protected table 16 || s.protected src n then s.endCmd q 1 0 0
  else s.surveyRead q c table 16 fun s r => match tableOf r with
    | some t => if t.kind ≠ kind then s.endCmd q 1 0 0 else s.surveyPass q c src n encode fun s l => f s t l
    | none => s.endCmd q 1 0 0

/-- SURVEY (R250 to R254). -/
def surveyRow (q : QRef) (s : State) : State :=
  s.command q fun s p => match p.cmd, q with
    | .survey kind ref gen zero encode src n dest table report baseSrc baseTable, .normal c _ =>
      let blocks := ceilDiv n 128
      let out := fun a m => !s.inCellar a m || s.protected a m
      let held := fun a m => s.trafficHeld a m
      if n = 0 ∨ 2 ^ 36 < n ∨ out dest (blocks * caskBytes kind) ∨ out table 16 ∨ out report 64 then s.endCmd q 1 0 0
      -- class 2 traffic waits while its channels hold it (R254, R283)
      else if held src (2 * n) || held table 16 || held report 64 || (encode && held dest (blocks * caskBytes kind)) ||
          (ref != 0 && (held baseSrc (blocks * caskBytes kind) || held baseTable 16)) then s
      else
        let code := fun (s : State) (l d : List Nat) => s.surveyCode q c kind ref gen zero encode l d dest table report
        s.surveyPass q c src (2 * n) encode fun s b =>
          let l := elems16 b
          if ref = 0 then code s l l
          else s.surveyBase q c kind baseSrc baseTable blocks encode fun s t bs => code s l (diffTargets t bs l)
    | _, _ => s

def execSurvey (q : QRef) (s : State) : Out := need (isQueue q) (surveyRow q s)

/-! ## TABLE_LOAD (R260, R263, R386) -/

/-- TABLE_LOAD: the record is read and checked, and the load takes its place among those of the job. -/
def tableLoad (q : QRef) (s : State) : State :=
  s.command q fun s p => match p.cmd, q with
    | .tableLoad a evict at_ beat, .normal c _ =>
      if (s.ctx c).tableWaits.any (fun w => w.q == q && w.serial == p.serial) || p.step != 0 then s
      else if s.protected a 16 then s.endCmd q 1 0 0
      else match s.memRead (.context c) a 16 with
      | .unmapped => s.cmdFault q 1 fAddrUnmapped a
      | .lost t code => t.endCmd q 7 code 0
      | .ok t r => match tableOf r with
        | none => t.endCmd q 1 0 0
        | some k =>
          let w : TableWait :=
            { q := q, serial := p.serial, table := k, retire := if evict ≤ 15 then some evict else none, at_ := if at_ then some beat else none }
          (t.modCtx c fun x => { x with tableWaits := x.tableWaits ++ [w] }).waitCmd q
    | _, _ => s

def execTableLoad (q : QRef) (s : State) : Out := need (isQueue q) (tableLoad q s)

/-- The command of a waiting load still stands at its queue's head. -/
def State.loadStands (s : State) (w : TableWait) : Bool := match s.headCmd w.q with
  | some p => p.taken && p.serial == w.serial
  | none => false

/-- A load's instant has come: at once in dynamic mode or with AT = 0, else at the grid instant of its beat (R386). -/
def State.loadDue (s : State) (c : Nat) (l : Launch) (w : TableWait) : Bool :=
  match w.at_ with
  | none => true
  | some b => !l.scheduled || (s.ctxPhys c).head?.any fun d =>
      let g := (s.die d).gridOf (s.ctx c).job
      g.started && decide (gridAt g.anchors b ≤ 16 * s.count d)

/-- A load joins the table queue of every expander of the job, each of which moves on (R260). -/
def State.deliverLoad (s : State) (c : Nat) (w : TableWait) : State :=
  let cores := s.ctxCores c
  let s := s.modQueue w.q fun x => match x.cmds with
    | p :: t => { x with cmds := { p with step := 2 * cores.length, copied := 0 } :: t }
    | [] => x
  each (cores.flatMap fun k => [(k, 0), (k, 1)]) s fun s e =>
    (s.modEng e.1 e.2 fun x => { x with tableQueue := x.tableQueue ++ [{ table := w.table, retire := w.retire, q := w.q }] }).expander e.1 e.2

/-- TABLE_LOAD_DELIVER: the first load of the context whose instant has come is delivered, while a launch is bound (R260, R386). -/
def tableLoadDeliver (c : Nat) (s : State) : State :=
  match s.launchOf c with
  | none => s
  | some l =>
    if l.st = .checked then s
    else
      let s := s.modCtx c fun x => { x with tableWaits := x.tableWaits.filter s.loadStands }
      match (s.ctx c).tableWaits.find? (s.loadDue c l) with
      | some w => (s.modCtx c fun x => { x with tableWaits := x.tableWaits.filter fun y => y.serial != w.serial }).deliverLoad c w
      | none => s

def execTableLoadDeliver (ctx : Nat) (s : State) : Out := need (isContext ctx) (tableLoadDeliver ctx s)

/-! ## SET_WEIGHTS (R203 to R208, R229 to R234, R264, R265, R387) -/

/-- A plan entry (R205). -/
def planEntryAt (l : List Byte) (o : Nat) : PlanEntry :=
  let f := fieldAt l (o + 4) 1
  { tile := fieldAt l o 4, dir := b2n (bit f 0), carry := bit f 1, last := bit f 2, coded := bit f 3, start := fieldAt l (o + 5) 1, fmt := fieldAt l (o + 6) 1,
    gen := fieldAt l (o + 7) 1, src := fieldAt l (o + 8) 8, offsetBeats := fieldAt l (o + 16) 4, length := fieldAt l (o + 20) 4,
    parkPos := fieldAt l (o + 24) 1, parkOff := fieldAt l (o + 28) 4 }

/-- A plan's header (R204), with the entries that follow it. -/
def planOf (job ctx addr : Nat) (h : List Byte) (entries : List PlanEntry) : WeightSet :=
  let f := fieldAt h 3 1
  { job := job, ctx := ctx, kind := fieldAt h 2 1, variant := bit f 0, recirc := bit f 1, park := bit f 2, slots := fieldAt h 4 2, reads := fieldAt h 6 1,
    passBeats := fieldAt h 12 4, baseWsid := fieldAt h 16 2, passes := fieldAt h 18 2, sendVid := fieldAt h 20 2, sentVid := fieldAt h 22 2,
    opt := fieldAt h 24 8, state := fieldAt h 32 8, contrib := fieldAt h 40 4, entries := entries, planAddr := addr,
    span := if entries.any (·.carry) then 3 else 1 }

/-- Payload bytes of a payload kind (R200). -/
def payloadBytes : Nat → Nat
  | 0 => 131072
  | 1 => 92160
  | 2 => 83968
  | _ => 0

/-- An entry's fields lie in their ranges (R200, R205, R208, R264) for a job of `j` dies. A carry belongs to training: no rule says that a serving plan has none, and
the model refuses it (DESIGN CHOICE, log entry 82). -/
def entryFits (w : WeightSet) (j : Nat) (e : PlanEntry) : Bool :=
  let kind := e.fmt % 16
  kind < 3 && e.coded == (kind != 0) && e.length == payloadBytes kind && isOperand (e.fmt / 16) &&
  (!e.coded || (e.fmt / 16 == 0 && w.kind == 0)) &&
  (!e.carry || (w.kind != 0 && kind == 0 && e.fmt / 16 < 2 && decide (e.start < j))) &&
  decide (e.offsetBeats < w.passBeats) &&
  (!w.park || (decide (e.parkPos < j) && decide (e.parkOff + e.length ≤ loftBytes)))

/-- Numbers rise or stay. -/
def ascending : List Nat → Bool
  | a :: b :: t => a ≤ b && ascending (b :: t)
  | _ => true

/-- The fields of a plan lie in their ranges (R204, R205, R208). -/
def planFits (w : WeightSet) (wsid j : Nat) : Bool :=
  1 ≤ wsid && wsid ≤ 0xFFFE && w.kind ≤ 2 && 1 ≤ w.reads && 1 ≤ w.passBeats && 1 ≤ w.passes && 1 ≤ w.slots && w.slots % w.span == 0 &&
  w.variant == (w.baseWsid != 0) && w.entries.all (entryFits w j) && ascending (w.entries.map (·.offsetBeats))

/-- The crate bytes of an entry on the ring (R200). -/
def crateBytes (e : PlanEntry) : Nat := 64 + e.length + if e.carry then 262144 else 0

/-- The most that events (count, bytes) add up to in a window of 1,000 counts (R208). -/
def windowPeak (l : List (Nat × Nat)) : Nat :=
  (l.map fun a => ((l.filter fun b => a.1 ≤ b.1 && b.1 < a.1 + 1000).map (·.2)).sum).foldl max 0

/-- Injection counts of a plan's entries over its first `n` passes (R205). -/
def planTimes (n : Nat) (w : WeightSet) (f : PlanEntry → Nat) (p : PlanEntry → Bool) : List (Nat × Nat) :=
  (List.range n).flatMap fun i => (w.entries.filter p).map fun e => (4 * (i * w.passBeats + e.offsetBeats), f e)

/-- As many passes as one window can meet. -/
def windowPasses (w : WeightSet) : Nat := min w.passes (ceilDiv 1000 (4 * w.passBeats) + 1)

/-- The most crate bytes that sets of one job, whose passes begin at one launch beat, put into a direction in a window. -/
def dirPeak (l : List WeightSet) (dir : Nat) : Nat :=
  windowPeak (l.flatMap fun w => planTimes w.passes w crateBytes fun e => e.dir == dir)

/-- A die kind's injection limit in 1,000 counts (R208). -/
def State.injectionFits (s : State) (w : WeightSet) : Bool :=
  w.park ||
  let dies := ((List.range w.entries.length).map fun i => s.injectDie w i true).foldl addTo []
  dies.all fun d =>
    let mine := fun (e : PlanEntry) => (if e.src < larderBase then 68 + cellarOf e.src else 80 + (e.src - larderBase) / 0x1000000000 % 8) == d
    windowPeak (planTimes (if w.recirc then 1 else windowPasses w) w (·.length) mine) ≤ if isCellar d then 384000 else 128000

/-- The bound sets of a job. -/
def State.jobSets (s : State) (j : Nat) : List WeightSet := s.sets.filterMap fun e => match e.2 with
  | some v => if v.job = j then some v else none
  | none => none

/-- A direction carries the plan beside every bound set (R208): those of its own job in one window, since a launch begins their passes together; those of each
other job, whose launch beats bear no relation to it, at the job's peak (DESIGN CHOICE, log entry 84). -/
def State.directionFits (s : State) (w : WeightSet) : Bool :=
  let others := ((s.sets.filterMap fun e => e.2.map (·.job)).foldl addTo []).filter (· != w.job)
  [0, 1].all fun d => dirPeak (s.jobSets w.job ++ [w]) d + (others.map fun j => dirPeak (s.jobSets j) d).sum ≤ 4000000

/-- Counts that a lap takes (R28, R210). -/
def lapCounts : Nat := 7040

/-- The bytes that a home stop holds for recirculation at once (R212): each crate from its lap's end to its next injection. -/
def State.recircFits (s : State) (w : WeightSet) : Bool :=
  !w.recirc || w.passes ≤ 1 || 4 * w.passBeats ≤ lapCounts ||
  let l := w.entries.zipIdx.map fun p => (s.injectDie w p.2 false, 4 * p.1.offsetBeats, crateBytes p.1)
  let pass := 4 * w.passBeats
  l.all fun a => ((l.filter fun b => b.1 == a.1 && decide ((a.2.1 + pass - b.2.1) % pass < pass - lapCounts)).map (·.2.2)).sum ≤ 8388608

/-- A range lies in the cellar's data space, below the tag store, whatever has become of its channels (R208, R269, R595). -/
def State.inData (s : State) (a n : Nat) : Bool := (match s.locate a n with
  | .cellar _ => true
  | _ => false) && decide (a + max n 1 ≤ s.tagBase)

/-- Sources, optimizer block and state records lie where R208 asks, and coded sources in no protected region (R265). -/
def State.sourcesFit (s : State) (w : WeightSet) : Bool :=
  let top := (setTiles w).foldl max 0 + 1
  (w.entries.all fun e =>
    (match s.locate e.src e.length with
      | .cellar _ => s.inData e.src e.length && e.src / granuleBytes == (e.src + e.length - 1) / granuleBytes
      | .larder _ => true
      | _ => false) && !(e.coded && s.protected e.src e.length)) &&
  (w.kind == 0 || (s.inData w.opt (64 + 4 * top) && s.inData w.state (top * 0x100000) && w.state % 0x100000 == 0))

/-- Loft ranges that a set holds on every die of its job (R195, R219), and those of its parks with the die of each (R214). -/
def setRanges (w : WeightSet) : List (Nat × Nat) := (w.base * 131072, w.slots * 131072) :: if w.kind = 0 then [] else [(w.contrib, 524288)]
def State.parkRanges (s : State) (w : WeightSet) : List (Nat × Nat × Nat) :=
  if w.park then w.entries.map fun e => ((s.jobDies w.job).getD e.parkPos 100, e.parkOff, e.length) else []

/-- Two loft ranges meet. -/
def rangesMeet (a b : Nat × Nat) : Bool := meets a.1 a.2 b.1 b.2

/-- The loft ranges that bound sets, of whichever job, hold on a die. -/
def State.heldOn (s : State) (d : Nat) : List (Nat × Nat) := s.sets.flatMap fun e => match e.2 with
  | some v => (if (s.jobDies v.job).contains d then setRanges v else []) ++ ((s.parkRanges v).filter fun p => p.1 == d).map (·.2)
  | none => []

/-- What a plan brings to a die beside its reservation lies in the loft, apart from what is held there and from itself. -/
def State.ownFits (s : State) (w : WeightSet) (d : Nat) : Bool :=
  let own := (if w.kind = 0 then [] else [(w.contrib, 524288)]) ++ ((s.parkRanges w).filter fun p => p.1 == d).map (·.2)
  own.zipIdx.all fun a => a.1.1 + a.1.2 ≤ loftBytes && !(s.heldOn d).any (rangesMeet a.1) && own.zipIdx.all fun b => a.2 == b.2 || !rangesMeet a.1 b.1

/-- A base slot at which the reservation of a set fits, on each die of its job, beside every other reservation, buffer and park there and its own (R195, R208): the
lowest. -/
def State.baseFor (s : State) (w : WeightSet) : Option Nat :=
  let dies := s.jobDies w.job
  let taken := dies.flatMap s.heldOn ++ (if w.kind = 0 then [] else [(w.contrib, 524288)]) ++ (s.parkRanges w).map (·.2)
  if !dies.all (s.ownFits w) || 384 < w.slots then none
  else (List.range (385 - w.slots)).find? fun b => !taken.any (rangesMeet (b * 131072, w.slots * 131072))

/-- The variants bound to a base. -/
def State.variantsOf (s : State) (wsid : Nat) : List WeightSet := s.sets.filterMap fun e => match e.2 with
  | some v => if v.variant && v.baseWsid == wsid then some v else none
  | none => none

/-- A variant set names a bound base of its job that has fewer than eight variants (R208, R229, R230). -/
def State.variantFits (s : State) (w : WeightSet) : Bool :=
  !w.variant || (match s.set? w.baseWsid with
    | some b => b.job == w.job && !b.variant && decide ((s.variantsOf w.baseWsid).length < 8)
    | none => false)

/-- STEPS of the tiles of a training set as host software wrote them before binding (R227), or what ends the command: the rules do not say what becomes of a
binding whose STEPS cannot be read, and the model refuses it, with F_ADDR_UNMAPPED where the map or the owner check rejects the read and as a media error
where it is not correctable (DESIGN CHOICE, log entry 114). -/
def State.readSteps (s : State) (q : QRef) (c : Nat) (w : WeightSet) : List Nat → Tab Nat → State ⊕ (State × Tab Nat)
  | [], acc => .inr (s, acc)
  | t :: l, acc => match s.memRead (.context c) (stepsAddr w t) 4 with
    | .ok s b => s.readSteps q c w l (tabSet acc t (ofLe b))
    | .lost s code => .inl (s.endCmd q 7 code 0)
    | .unmapped => .inl (s.cmdFault q 1 fAddrUnmapped (stepsAddr w t))

/-- The set as it is bound to pointer slot `k`: its reservation, its variant id (the lowest that the base has free), READS, which is 1 for a variant (R230), and its
tiles' step counts (R195, R227, R229). A variant plan that names another READS within R204's range is bound with 1: R230 gives a variant's READS, and R208 does
not list such a plan among those it refuses (DESIGN CHOICE, log entry 113). -/
def State.boundSet (s : State) (w : WeightSet) (k base : Nat) (steps : Tab Nat) : WeightSet :=
  let used := (s.variantsOf w.baseWsid).map (·.variantId)
  { w with
    base := base
    pointer := k
    reads := if w.variant then 1 else w.reads
    planReads := if w.variant then 1 else w.reads
    variantId := if w.variant then ((List.range 8).find? fun i => !used.contains i).getD 0 else 0
    steps0 := steps }

/-- A set that leaves a slot takes the retire event of the command that makes it leave (R387); one that never injected retires at once (R234). -/
def State.leaveSlot (s : State) (wsid : Nat) (ev : Option Nat) : State := s.modSet wsid fun w => { w with retireEvent := ev }

def State.retireNow (s : State) (wsid : Nat) : State := match s.set? wsid with
  | some w => if s.mayRetire wsid w then s.retireSet wsid w else s
  | none => s

/-- Pointer slot `k` takes `new` from the next launch boundary (R231, R234). -/
def State.point (s : State) (c k : Nat) (new ev : Option Nat) : State :=
  let x := s.ctx c
  let cur := (x.pointers.find? fun e => e.1 == k).map (·.2)
  let next := (x.nextPointers.find? fun e => e.1 == k).map (·.2)
  let s := s.modCtx c fun x => { x with
    nextPointers := if cur = new then x.nextPointers.filter fun e => e.1 ≠ k else tabSet x.nextPointers k new }
  let s := match cur with
    | some w => s.leaveSlot w (if new = some w then none else ev)
    | none => s
  match next with
  | some (some w) => if new = some w then s else (s.leaveSlot w ev).retireNow w
  | _ => s

/-- A set is current, or to be, in pointer slot `k`. -/
def inSlot (x : Context) (k wsid : Nat) : Bool := x.pointers.any (fun e => e.1 == k && e.2 == wsid) || x.nextPointers.any fun e => e.1 == k && e.2 == some wsid

/-- Read a plan of a context, or what ends the command (R203, R204): entries past 2^24 are refused before they are read. -/
def State.readPlan (s : State) (q : QRef) (c a : Nat) : State ⊕ (State × Nat × WeightSet) :=
  match s.memRead (.context c) a 64 with
  | .ok t h =>
    let n := fieldAt h 8 4
    if n = 0 ∨ 2 ^ 24 < n then .inl (t.endCmd q 1 0 0)
    else match t.memRead (.context c) (a + 64) (32 * n) with
      | .ok u l => .inr (u, fieldAt h 0 2, planOf (u.ctx c).job c a h ((List.range n).map fun i => planEntryAt l (32 * i)))
      | .lost u code => .inl (u.endCmd q 7 code 0)
      | .unmapped => .inl (t.cmdFault q 1 fAddrUnmapped a)
  | .lost t code => .inl (t.endCmd q 7 code 0)
  | .unmapped => .inl (s.cmdFault q 1 fAddrUnmapped a)

/-- SET_WEIGHTS. -/
def setWeights (q : QRef) (s : State) : State :=
  s.command q fun s p => match p.cmd, q with
    | .setWeights k en ev a, .normal c _ =>
      let ev := if en then some ev else none
      if a = 0 then (s.point c k none ev).endCmd q 0 0 0
      else match s.readPlan q c a with
      | .inl t => t
      | .inr (s, wsid, w) =>
        match s.set? wsid with
        | some old =>
          if old.job = w.job && old.planAddr = a && inSlot (s.ctx c) k wsid then (s.point c k (some wsid) ev).endCmd q 0 0 old.base
          else s.endCmd q 1 0 0
        | none =>
          if !planFits w wsid (s.jobDies w.job).length || !s.sourcesFit w || !s.injectionFits w || !s.directionFits w || !s.recircFits w
            || !s.variantFits w then s.endCmd q 1 0 0
          else match s.baseFor w with
            | none => s.endCmd q 1 0 0
            | some b => match s.readSteps q c w (if w.kind = 0 then [] else setTiles w) [] with
              | .inl t => t
              | .inr (s, steps) => ((s.setSet wsid (some (s.boundSet w k b steps))).point c k (some wsid) ev).endCmd q 0 0 b
    | _, _ => s

def execSetWeights (q : QRef) (s : State) : Out := need (isQueue q) (setWeights q s)

end Sys2Proof.Machine
end

