-- ==== Sys2Proof/Machine/Finish.lean ====
section
/-! DEFINITION. Chapter 5, the finishing unit (R169 to R172). -/

namespace Sys2Proof.Machine

/-- The finishing operation at the head of core `c`'s finishing queue, not performed yet, on a die that steps (R51, R478). -/
def State.headFin (s : State) (c : Nat) (k : FinK) : Option (QEntry × FinOp) :=
  if (s.die (c / 4)).curOp = 0 || (s.die (c / 4)).quenched then none
  else match s.headOp c uFinish with
    | some q => match q.op with
      | .finish o => if o.k = k then some (q, o) else none
      | _ => none
    | none => none

/-! fp32 codes by name. -/
def f32Inf : Nat := 0x7F800000
def f32NegInf : Nat := 0xFF800000
def f32Nan : Nat := 0x7FC00000
def f32NegZero : Nat := 0x80000000
def f32IsNan (x : Nat) : Bool := f32Inf < x % 0x80000000

/-! ### The bounds of R170

A real is kept between two integers in units of 2^−400, the lower never above it and the upper never below. -/

/-- An enclosure: lower and upper bound, in units of 2^−400. -/
abbrev Encl := Int × Int

/-- One, in those units. -/
def enclOne : Int := 2 ^ 400

/-- ±m × 2^x enclosed. -/
def enclOf (neg : Bool) (m : Nat) (x : Int) : Encl :=
  let sh := x + 400
  let lo : Int := if 0 ≤ sh then m * 2 ^ sh.toNat else m / 2 ^ (-sh).toNat
  let hi : Int := if 0 ≤ sh then m * 2 ^ sh.toNat else ceilDiv m (2 ^ (-sh).toNat)
  if neg then (-hi, -lo) else (lo, hi)

/-- Division of integers rounded up, the divisor positive. -/
def ceilDivI (a b : Int) : Int := -((-a) / b)

/-- The product of two enclosures, of reals that are not negative. -/
def enclMul (a b : Encl) : Encl := (a.1 * b.1 / enclOne, ceilDivI (a.2 * b.2) enclOne)
/-- The quotient of two enclosures, of reals not negative and positive. -/
def enclDiv (a b : Encl) : Encl := (a.1 * enclOne / b.2, ceilDivI (a.2 * enclOne) b.1)
def enclAdd (a b : Encl) : Encl := (a.1 + b.1, a.2 + b.2)
def enclNeg (a : Encl) : Encl := (-a.2, -a.1)

/-- e^y for an enclosed y of 0 to 1/2: the series to its 80th term, and what is left of it. -/
def enclExpSmall (y : Encl) : Encl :=
  let r := (List.range 80).foldl (fun (a : Encl × Encl) i =>
    let t := enclMul a.2 y
    let t := (t.1 / (i + 1 : Nat), ceilDivI t.2 (i + 1 : Nat))
    (enclAdd a.1 t, t)) ((enclOne, enclOne), (enclOne, enclOne))
  (r.1.1, r.1.2 + r.2.2)

/-- e^y for an enclosed y of 0 to 128: 2^8 times the eighth part. -/
def enclExp (y : Encl) : Encl :=
  (List.range 8).foldl (fun a _ => enclMul a a) (enclExpSmall (y.1 / 256, ceilDivI y.2 256))

/-- 1/√(2π), cut off below 2^−400. -/
def rootTwoPi : Int := 0x662114CF50D942343F2CF1402EAE38BFD3829F30512706D8C0471B4802639D2E9DF8AC55447D3DB723F5D3ABB374E88DEB14

/-- (Φ(x) − 1/2) for an enclosed x of 0 to 16: the alternating series to its 900th term, and what is left of it. -/
def enclPhi (x : Encl) : Encl :=
  let q := enclMul x x
  -- the n-th term without its sign is t_n / (2n + 1), t_n = x^(2n+1) / (n! 2^n)
  let r := (List.range 900).foldl (fun (a : Encl × Encl) n =>
    let d : Encl := (a.2.1 / (2 * n + 1 : Nat), ceilDivI a.2.2 (2 * n + 1 : Nat))
    let t := enclMul a.2 q
    (enclAdd a.1 (if n % 2 = 0 then d else enclNeg d), (t.1 / (2 * (n + 1) : Nat), ceilDivI t.2 (2 * (n + 1) : Nat)))) ((0, 0), x)
  let sum : Encl := (max 0 (r.1.1 - r.2.2), r.1.2 + r.2.2)
  enclMul sum (rootTwoPi, rootTwoPi + 1)

/-- The largest integer whose square is at most `v`, bit by bit. -/
def rootFloor : Nat → Nat → Nat → Nat
  | 0, _, r => r
  | b + 1, v, r => rootFloor b v (if (r + 2 ^ b) * (r + 2 ^ b) ≤ v then r + 2 ^ b else r)

/-- The value of a finishing function at ±m × 2^x, no special input, enclosed (R170); −(x) stands for a sign taken out. Beyond ±120 e^x lies past
both ends of fp32, and beyond 15 Φ(x) within 2^−160 of its limit. -/
def finEncl (k : FinK) (neg : Bool) (m : Nat) (x : Int) : Encl :=
  let v := enclOf false m x
  let far := decide (120 * enclOne < v.1)
  let tail := decide (15 * enclOne < v.1)
  let ex : Encl := if far then (enclOne * 2 ^ 170, enclOne * 2 ^ 180) else enclExp v
  match k with
  | .exp => if !neg then ex else if far then (0, enclOne / 2 ^ 170) else enclDiv (enclOne, enclOne) ex
  | .rcp =>
    let q : Encl := (2 ^ (400 - x).toNat / (m : Int), ceilDivI (2 ^ (400 - x).toNat) m)
    if neg then enclNeg q else q
  | .rsqrt => let r := rootFloor 600 (2 ^ (800 - x).toNat / m) 0; (r, r + 1)
  | .gelu =>
    let p : Encl := if tail then (enclOne / 2 - enclOne / 2 ^ 160, enclOne / 2) else enclPhi v
    if neg && tail then (-(enclOne / 2 ^ 155), 0)
    else if neg then enclNeg (enclMul v (enclOne / 2 - p.2, enclOne / 2 - p.1)) else enclMul v (enclAdd p (enclOne / 2, enclOne / 2))
  | .silu =>
    if neg then
      if far then (-(enclOne / 2 ^ 160), 0) else enclNeg (enclDiv v (enclAdd (enclOne, enclOne) ex))
    else if far then (v.1 - v.1 / 2 ^ 160 - 1, v.2)
    else enclDiv (enclMul v ex) (enclAdd (enclOne, enclOne) ex)
  | _ => v

/-- The bound on the error in the units of an enclosure: in ulp of the exact value, and an absolute bound of GELU and SILU, whichever is larger (R170).
An ulp is the step of fp32 in the exact value's binade, 2^−149 at least (DEDUCED, log entry 12). -/
def finError (k : FinK) (v : Encl) : Int :=
  let a := max v.2.natAbs v.1.natAbs
  let ulp : Int := 2 ^ max 251 (bitLen a - 24)
  match k with
  | .exp => 2 * ulp
  | .rcp => ulp
  | .rsqrt => ulp
  | _ => max (4 * ulp) (2 ^ 274)

/-- The largest fp32 code without sign whose value is at most `n` × 2^−149; past the largest finite value the infinity. -/
def codeBelow (n : Nat) : Nat :=
  if n < 2 ^ 24 then n else min f32Inf (n / 2 ^ (bitLen n - 24) + (bitLen n - 24) * 2 ^ 23)

/-- The smallest fp32 code without sign whose value is at least `n` × 2^−149. -/
def codeAbove (n : Nat) : Nat := if n = 0 then 0 else codeBelow (n - 1) + 1

/-- The places in the order of the codes (`fp32Key`) of the smallest and of the largest value from `lo` to `hi`; a zero has either sign. -/
def keyFrom (lo : Int) : Int := let n := ceilDivI lo (2 ^ 251); if n ≤ 0 then -((codeBelow n.natAbs : Int) + 1) else min f32Inf (codeAbove n.natAbs)
def keyTo (hi : Int) : Int := let n := hi / 2 ^ 251; if 0 ≤ n then codeBelow n.natAbs else -((min f32Inf (codeAbove n.natAbs) : Nat) + 1)

/-- The code at a place in the order. -/
def keyCode (k : Int) : Nat := if 0 ≤ k then k.natAbs else (-k - 1).natAbs + 2 ^ 31

/-- A code held within the values that R170 allows for function `k` at ±m × 2^x. -/
def finHeld (k : FinK) (neg : Bool) (m : Nat) (x : Int) (v : Nat) : Nat :=
  let r := finEncl k neg m x
  let d := finError k r
  keyCode (max (keyFrom (r.1 - d)) (min (keyTo (r.2 + d)) (fp32Key v)))

/-- The result of function `k`, numbered `n`, on an ordinary input: a value that the manual leaves open, a function of the input alone, within its bound
(R170). -/
def finFree (k : FinK) (n x : Nat) : Nat :=
  let v := (Config.finish n (BitVec.ofNat 32 x)).toNat
  match ofFp32 x with
  | .fin neg m e => if m = 0 && k != .exp then keyCode (max (keyFrom (-(2 ^ 274))) (min (keyTo (2 ^ 274)) (fp32Key v))) else finHeld k neg m e v
  | _ => v

/-- The special inputs of R170, where the manual fixes the result; on every other input EXP, RCP, RSQRT, GELU and SILU answer a value that the
manual leaves open within a bound. -/
def finValue (k : FinK) (x : Nat) : Nat :=
  if f32IsNan x then f32Nan
  else match k with
    | .exp => if x = f32NegInf then 0 else if x = f32Inf then f32Inf else finFree .exp 1 x
    | .rcp =>
      if x = 0 then f32Inf else if x = f32NegZero then f32NegInf else if x = f32Inf then 0 else if x = f32NegInf then f32NegZero
      else finFree .rcp 2 x
    | .rsqrt =>
      if x = 0 then f32Inf else if x = f32NegZero then f32NegInf else if x = f32Inf then 0 else if 0x80000000 ≤ x then f32Nan
      else finFree .rsqrt 3 x
    | .gelu => if x = f32NegInf then 0 else if x = f32Inf then f32Inf else finFree .gelu 4 x
    | .silu => if x = f32NegInf then 0 else if x = f32Inf then f32Inf else finFree .silu 5 x
    | _ => x

/-- An output element narrowed: nearest even, saturation off (R119, R170). -/
def finNarrow (fmt v : Nat) : Nat := narrow fmt .even false v

/-- The number of a function's table. -/
def finCode : FinK → Nat
  | .exp => 1 | .rcp => 2 | .rsqrt => 3 | .gelu => 4 | .silu => 5 | .drop => 6 | .sample => 7 | .cvt => 8

/-- A function reads its table: what errors stand there are found (R129). The manual does not publish the tables, so an operation counts as reading all of its
own (DESIGN CHOICE, log entry 91). -/
def State.tableRead (s : State) (c : Nat) (e : QEntry) (k : FinK) : State :=
  each ((s.core c).finErrs.filter fun m => m.1 / 2 ^ 16 == finCode k) s fun s m =>
    let s := if m.2 == .single then s.modCore c fun x => { x with finErrs := x.finErrs.filter fun j => j.1 != m.1 } else s
    s.bufError c uFinish (16 + finCode k) (m.1 % 2 ^ 16) e.beat m.2 false 0 0

/-- The input values, the outputs by `f` from index and value, and the outputs in place (R170). An output that a check found wrong is free (R130). -/
def State.finMap (s : State) (c : Nat) (e : QEntry) (o : FinOp) (u : Option Upset) (f : Nat → Nat → Nat) : State :=
  andThen (s.headRead c uFinish e (alignTo 1024 o.s.toNat) (portBytes o.fmtIn o.n) false) fun k =>
  andThen (if isMx o.fmtIn then s.headRead c uFinish e (alignTo 1024 o.ss.toNat) (ceilDiv o.n 32) false else .inl 0) fun sk =>
  let vals := (List.range o.n).map fun i => f i (portElem s.mem o.fmtIn k sk i)
  let r := packCodes o.fmtOut (strike o.fmtOut (s.struck u o.n) (convertCodes o.fmtOut vals fun _ v => finNarrow o.fmtOut v))
  andThen (s.headWrite c uFinish e (alignTo 1024 o.d.toNat) r.1.length false) fun dk =>
  andThen (if isMx o.fmtOut then s.headWrite c uFinish e (alignTo 1024 o.ds.toNat) r.2.length false else .inl 0) fun dsk =>
  let s := ((s.upsetUnit c uFinish u e.beat).tableRead c e o.k).eccRead k (portBytes o.fmtIn o.n)
  let s := s.eccRead sk (if isMx o.fmtIn then ceilDiv o.n 32 else 0)
  let s := s.putWords dk r.1
  let s := if isMx o.fmtOut then s.putWords dsk r.2 else s
  s.doneHead c uFinish e

/-- A function of R170 over n elements. -/
def finOp (k : FinK) (c : Nat) (u : Option Upset) (s : State) : State :=
  match s.headFin c k with
  | some (e, o) => s.finMap c e o u fun _ v => finValue k v
  | none => s

def execExp (core : Nat) (upset : Option Upset) (s : State) : Out := need (isCore core) (finOp .exp core upset s)
/-- RCP (R170). -/
def execRcp (core : Nat) (upset : Option Upset) (s : State) : Out := need (isCore core) (finOp .rcp core upset s)
/-- RSQRT (R170). -/
def execRsqrt (core : Nat) (upset : Option Upset) (s : State) : Out := need (isCore core) (finOp .rsqrt core upset s)
/-- GELU (R170). -/
def execGelu (core : Nat) (upset : Option Upset) (s : State) : Out := need (isCore core) (finOp .gelu core upset s)
/-- SILU (R170). -/
def execSilu (core : Nat) (upset : Option Upset) (s : State) : Out := need (isCore core) (finOp .silu core upset s)
/-- CVT (R170). -/
def execCvt (core : Nat) (upset : Option Upset) (s : State) : Out := need (isCore core) (finOp .cvt core upset s)

/-- The seed of the launch that a core runs (R122). -/
def State.seedOf (s : State) (c : Nat) : Word := ((s.launchOf ((s.core c).ctx.getD noCtx)).map (·.seed)).getD 0

/-- The stream of a finishing operation (R123): PURPOSE 2 for DROP and 3 for SAMPLE, UNIT 2. -/
def State.finStream (s : State) (c purpose : Nat) (o : FinOp) : Word :=
  streamId purpose 2 ((s.logicalCore c).getD 0) (bits o.p1.toNat 0 32)

/-- DROP (R125, R171): an element is kept, times the factor, where its draw lies below T; else it is +0. -/
def dropOp (c : Nat) (u : Option Upset) (s : State) : State :=
  match s.headFin c .drop with
  | some (e, o) =>
    let seed := s.seedOf c
    let stream := s.finStream c 2 o
    s.finMap c e o u fun i v =>
      if draw24 (genWord seed stream o.p0 i) < bits o.p2.toNat 0 24 then fp32Mul v (bits o.p1.toNat 32 32) else 0
  | none => s

def execDrop (core : Nat) (upset : Option Upset) (s : State) : Out := need (isCore core) (dropOp core upset s)

/-- A weight of SAMPLE: a negative or NaN one counts as +0 (R172). -/
def sampleWeight (w : Nat) : Nat := if f32IsNan w || 0x80000000 ≤ w then 0 else w

/-- An fp32 code, positive or zero, lies above another (R172). -/
def f32Above (a b : Nat) : Bool := b < a

/-- The index that SAMPLE selects (R172); `u24` is the draw. -/
def sampleIndex (l : List Nat) (u24 : Nat) : Nat :=
  let total := l.foldl fp32Add 0
  if total = 0 ∨ total = f32Inf then 0xFFFFFFFF
  else
    let u := encodeFloat fp32 .even false false u24 (-24)
    let target := fp32Mul u total
    let r := l.zipIdx.foldl (fun (a : Nat × Option Nat) p =>
      let q := fp32Add a.1 p.1
      (q, match a.2 with | some i => some i | none => if f32Above q target then some p.2 else none)) (0, none)
    match r.2 with
    | some i => i
    | none => ((l.zipIdx.filter fun p => 0 < p.1).map (·.2)).foldl max 0

/-- SAMPLE (R172). -/
def sampleOp (c : Nat) (u : Option Upset) (s : State) : State :=
  match s.headFin c .sample with
  | some (e, o) =>
    andThen (s.headRead c uFinish e (alignTo 1024 o.s.toNat) (4 * o.n) false) fun k =>
    andThen (s.headWrite c uFinish e (alignTo 8 o.d.toNat) 8 false) fun dk =>
    let l := (List.range o.n).map fun i => sampleWeight (readLe s.mem (k + 4 * i) 4)
    let v := (s.upsetWord u (BitVec.ofNat 64 (sampleIndex l (draw24 (genWord (s.seedOf c) (s.finStream c 3 o) o.p0 0))))).toNat
    ((((s.upsetUnit c uFinish u e.beat).tableRead c e o.k).eccRead k (4 * o.n)).putWords dk (le 8 v)).doneHead c uFinish e
  | none => s

def execSample (core : Nat) (upset : Option Upset) (s : State) : Out := need (isCore core) (sampleOp core upset s)

end Sys2Proof.Machine
end

