-- ==== Sys2Proof/Machine/Mover.lean ====
section
/-! DEFINITION. Chapter 5, the mover (R160 to R165), with its fabric ends (R436 to R444): COPY, FILL, SKEW_W, SKEW_N and LAYOUT_WS. -/

namespace Sys2Proof.Machine

/-! ## Ends of a copy (R161, R174) -/

/-- How an end is answered. -/
inductive End where
  | store (key : Nat)
  | cellar (a : Nat)
  | larder (a : Nat)
  | unmapped
  | invalid
  deriving DecidableEq, Repr

/-- A local end of `n` bytes at `a` for core `c`: any shelf or loft of the context; the cellar where `cellar` permits it, the larder as a source
where `larder` does (R40 to R43, R161). -/
def State.moverEnd (s : State) (c a n : Nat) (write cellar : Bool) : End :=
  let x := (s.core c).ctx
  match s.locate a n with
  | .shelf k off =>
    if (s.core k).ctx ≠ x ∨ x = none then .invalid
    else if write && !(s.core k).openMesh then .unmapped
    else if write && inScore (s.core k) off n then .invalid
    else if banksOn (s.core k) off n then .store (shelfKey k off) else .unmapped
  | .loft d off => if (s.ctxPhys (x.getD noCtx)).contains d then .store (loftKey d off) else .invalid
  | .cellar b => if cellar then (if s.cellarMapped b n then .cellar b else .unmapped) else .invalid
  | .larder b => if !cellar then .invalid else if write then .unmapped else .larder b
  | .window => .invalid
  | .unmapped => .unmapped

/-- A core's shelf is open to a fabric access of a context: bound to it, and for a write not yet closed (R190, R193). -/
def State.shelfOpen (s : State) (c k : Nat) (write : Bool) : Bool := (s.core k).ctx == some c && !(write && !(s.core k).openMesh)

/-- A die's loft is open to a fabric access of a context: it serves the context's job, and for a write is not being scrubbed (R189, R190, R193). -/
def State.loftOpen (s : State) (c d : Nat) (write : Bool) : Bool :=
  (s.die d).job == some (s.ctx c).job && (s.ctxPhys c).contains d && !(write && (s.die d).loftBusy)

/-- A range lies in a shelf, loft or cellar region that the flows of a context, and its REMOTE addresses of its own package, reach now (R193, R438, R440); the answer is the end that it names. The rows of
a score take no write (R135). -/
def State.farEnd (s : State) (c a n : Nat) (write : Bool) : End :=
  match s.locate a n with
  | .shelf k off =>
    if !s.shelfOpen c k write || !banksOn (s.core k) off n then .unmapped
    else if write && inScore (s.core k) off n then .invalid
    else .store (shelfKey k off)
  | .loft d off => if s.loftOpen c d write then .store (loftKey d off) else .unmapped
  | .cellar b =>
    let x := Accessor.context c
    if s.cellarMapped b n && (if write then s.mayWrite x b n else s.mayRead x b n) then .cellar b else .unmapped
  | _ => .unmapped

/-- The mover operation at the head of core `c`'s mover queue, not performed yet, on a die that steps (R51, R478). -/
def State.headMover (s : State) (c : Nat) : Option (QEntry × MoverOp) :=
  if (s.die (c / 4)).curOp = 0 || (s.die (c / 4)).quenched then none
  else match s.headOp c uMover with
    | some q => match q.op with
      | .mover o => some (q, o)
      | _ => none
    | none => none

/-- The mover performs nothing of a head that meets a pinned region (R161, R232). -/
def State.pinnedHead (s : State) (c : Nat) (e : QEntry) (a : Nat) : State :=
  (s.doneHead c uMover e).raise (c / 4) fWeightsPinned (s.coreCtxs c) (le 1 (c % 4) ++ le 1 uMover ++ le 8 a)

/-- Go on with an end, or perform nothing (R42, R174). -/
def State.withEnd (s : State) (c : Nat) (e : QEntry) (a : Nat) (r : End) (f : End → State) : State :=
  match r with
  | .unmapped => s.unmappedHead c uMover e a
  | .invalid => s.invalidHead c uMover e
  | r => f r

/-- The data of a source: the state after its checks, and the bytes where any are delivered; none where the owner check rejects it. -/
def State.readEnd (s : State) (c : Nat) (r : End) (n : Nat) : MemAns :=
  let x := Accessor.context ((s.core c).ctx.getD noCtx)
  match r with
  | .store k => .ok (s.eccRead k n) (readBytes s.mem k n)
  | .cellar a => s.memRead x a n
  | .larder a => s.memRead x a n
  | _ => .unmapped

/-- Bytes at a destination; none where the owner check rejects it. -/
def State.writeEnd (s : State) (c : Nat) (r : End) (l : List Byte) : Option State :=
  match r with
  | .store k => some (s.putWords k l)
  | .cellar a => s.memWrite (.context ((s.core c).ctx.getD noCtx)) a l
  | _ => none

/-- The slot guard of a shelf or loft range in a scheduled launch; none for the other stores, which hold no link slots. -/
def State.endGuard (s : State) (c : Nat) (write : Bool) (a n : Nat) : Option (Nat × Nat × Nat) := s.guardOf ((s.core c).ctx.getD noCtx) write a n

/-- Go on when a range meets no slot guard (R334). -/
def State.withGuard (s : State) (c : Nat) (e : QEntry) (g : Option (Nat × Nat × Nat)) (f : State) : State :=
  match g with
  | some g => s.guardHead c uMover e g
  | none => f

/-- A source's data, or what stands instead. -/
def State.withData (s : State) (c : Nat) (e : QEntry) (a : Nat) (r : MemAns) (f : State → List Byte → State) : State :=
  match r with
  | .ok t l => f t l
  | .lost t _ => t.doneHead c uMover e
  | .unmapped => s.unmappedHead c uMover e a

/-! ## Destinations in the fabric -/

/-- The mover's operation waits for `n` answers. -/
def State.waitHead (s : State) (c : Nat) (e : QEntry) (n : Nat) : State := s.setHead c uMover { e with done := true, held := none, waitAcks := n }

/-- The INC of a tally signal on this package: a message that ranks by its issuing core, and whose arrival the mover waits for (R298, R438, R441, R444);
none where the VID is not mapped or not of KIND 0. -/
def State.signalHere (s : State) (c : Nat) (e : QEntry) (vid n : Nat) : Option State :=
  let x := (s.core c).ctx.getD noCtx
  match (s.launchOf x).bind fun l => findTally l vid with
  | some t =>
    if t.kind = 0 then (s.coreOf t.core).map fun h =>
      let s := s.waitHead c e 1
      { s with tallyMsgs := s.tallyMsgs ++ [{ ctx := x, home := h, index := t.index, vid := vid, act := .inc, n := if n = 0 then 1 else n,
                                              src := .core ((s.logicalCore c).getD 0), core := c, beat := e.beat, rank := c, mover := true }] }
    else none
  | none => none

/-- A COPY with a fabric destination, its source read (R439 to R442, R457). -/
def State.copyFar (s : State) (c : Nat) (e : QEntry) (d : Nat) (l : List Byte) : State :=
  let x := (s.core c).ctx.getD noCtx
  let sched := s.schedCtx x
  let cls := if sched then 1 else 2
  let bad := s.invalidHead c uMover e
  let none_ := s.unmappedHead c uMover e d
  match farOf d with
  | .remote pkg _ =>
    match s.flowTo x pkg sched with
    | some f =>
      let ps := (cutData (ceilDiv l.length packetBytes) d l).map fun p => s.packet 1 cls pkg f p.1 p.2.length p.2
      (s.waitHead c e ps.length).sendOn f c ps
    | none => if (s.flowTo x pkg false).isSome then bad else none_
  | .tally pkg vid =>
    if pkg = s.pkgId then (s.signalHere c e vid (fieldAt l 0 4)).getD none_
    else match s.flowTo x pkg false with
    | some f => (s.waitHead c e 1).sendOn f c [s.packet 5 0 pkg f d 8 l]
    | none => none_
  | .atomic pkg a =>
    if l.length % 16 ≠ 0 ∨ 928 < l.length ∨ a % 8 ≠ 0 then bad
    else if pkg = s.pkgId then (match s.atomics x a l with
      | .ok t => t.doneHead c uMover e
      | .badOp => bad
      | .unmapped => none_
      | .pinned => s.pinnedHead c e d)
    else match s.flowTo x pkg sched with
    | some f => (s.waitHead c e 1).sendOn f c [s.packet 4 cls pkg f d l.length l]
    | none => if (s.flowTo x pkg false).isSome then bad else none_
  | .group id _ =>
    match (s.group? (groupKey x id)).filter (·.usable) with
    | some g =>
      if sched && !g.class1 then bad
      else
        let ps := (cutData (ceilDiv l.length packetBytes) d l).map fun p => s.packet 0x0B cls s.pkgId id p.1 p.2.length p.2
        (s.waitHead c e ps.length).sendGroup (groupKey x id) c ps
    | none => none_
  | _ => none_

/-- A COPY whose source is REMOTE, in dynamic mode: loads of at most 936 bytes, answered by READ_DATA (R439). -/
def State.copyLoad (s : State) (c : Nat) (e : QEntry) (a pkg n d : Nat) (dest : End) : State :=
  let x := (s.core c).ctx.getD noCtx
  match s.flowTo x pkg false with
  | none => s.unmappedHead c uMover e a
  | some f =>
    let place := match dest with | .store k => k | .cellar b => b | _ => d
    let parts := (List.range (ceilDiv n packetBytes)).map fun i => (i * packetBytes, min packetBytes (n - i * packetBytes))
    let s := s.modFlow f fun y => { y with loads := y.loads ++ parts.map fun p => { addr := a + p.1, len := p.2, dest := place + p.1, core := c } }
    (s.waitHead c e (2 * parts.length)).sendOn f c (parts.map fun p => s.packet 2 2 pkg f (a + p.1) p.2 [])

/-! ## COPY and FILL (R161) -/

/-- A SPACE 1 address that names the package itself is the local address there (R438). -/
def State.nearest (s : State) (a : Nat) : Far :=
  match farOf a with
  | .remote p b => if p = s.pkgId then .here b else .remote p b
  | r => r

/-- An end lies in the fabric: SPACE 1, 2 or 3 (R437). -/
def isFar (a : Nat) : Bool := faSpace a != 0

/-- The part of a COPY or FILL at `a` waits: its range lies in the shelf of a die at OP0 (R51) or on a channel that holds class 2 traffic (R283), or no path
leads there, or to the link dies that it leaves by (R26). -/
def State.copyWaits (s : State) (c a n : Nat) : Bool :=
  let x := (s.core c).ctx.getD noCtx
  let out := fun (pkg : Nat) => (((s.flowTo x pkg false).bind s.flow?).map fun f => !s.reaches (c / 4) (88 + flowPort f)).getD false
  match s.nearest a with
  | .here b => s.placeWaits b n || s.cutOff (c / 4) b n || s.trafficHeld b n
  | .tally pkg vid =>
    if pkg = s.pkgId then (((s.launchOf x).bind fun l => findTally l vid).bind fun t => s.coreOf t.core).any fun h => !s.reaches (c / 4) (h / 4)
    else out pkg
  | .atomic pkg b => if pkg = s.pkgId then s.cutOff (c / 4) b (8 * (n / 16)) || s.trafficHeld b (8 * (n / 16)) else out pkg
  | .remote pkg _ => out pkg
  | .group id _ => ((s.group? (groupKey x id)).map fun g => (s.groupPorts g).any fun p => !s.reaches (c / 4) (88 + p)).getD false
  | .none => false

/-- An end of a COPY that lies on this package: a local address as R161 has it, or REMOTE with the package's own id, which has the meaning of a remote
store or load of the context's own regions (R438 to R440). -/
def State.copyEnd (s : State) (c a low n : Nat) (write : Bool) : End :=
  let x := (s.core c).ctx.getD noCtx
  let dyn := !s.schedCtx x
  if !isFar a then s.moverEnd c low n write dyn
  else if !write && !dyn then .invalid
  else s.farEnd x low n write

/-- The other end of a COPY with a fabric end is no larder address (R439). -/
def notLarder (far : Bool) (r : End) : End := match r with
  | .larder _ => if far then .invalid else r
  | r => r

/-- An end lies in the cellar or the larder. -/
def inTier (r : End) : Bool := match r with
  | .cellar _ => true
  | .larder _ => true
  | _ => false

/-- COPY between two ends on this package, `a'` and `d'` their local addresses: with an end in the cellar or the larder it holds a tracked request for each
4 KiB piece, as many as are free, until it completes, and is held while none is (R448). -/
def State.copyNear (s : State) (c : Nat) (e : QEntry) (a d a' d' n : Nat) : State :=
  let x := (s.core c).ctx.getD noCtx
  let far := isFar a || isFar d
  if meets a' n d' n then s.invalidHead c uMover e
  else
    s.withEnd c e a (notLarder far (s.copyEnd c a a' n false)) fun src =>
    s.withEnd c e d (s.copyEnd c d d' n true) fun dst =>
    let tier := (inTier src || inTier dst) && !s.schedCtx x
    if s.pinned d' n false then s.pinnedHead c e d
    else if s.copyWaits c a n || s.copyWaits c d n || (tier && s.trackedFree x == 0) then s
    else
      let e := if tier then { e with tracked := min (ceilDiv n 4096) (s.trackedFree x) } else e
      s.withGuard c e (s.endGuard c false a' n) <|
      s.withGuard c e (s.endGuard c true d' n) <|
      s.withData c e a (s.readEnd c src n) fun t l =>
        match t.writeEnd c dst l with
        | some t => t.doneHead c uMover e
        | none => s.unmappedHead c uMover e d

/-- COPY (R161, R438, R439). R174 does not say which fault an operation with two of them raises: operands that the encoding of the operation rules out come
first, then the alignment, then an overlap, then the two ends (DESIGN CHOICE, log entry 107). -/
def copyOp (c : Nat) (s : State) : State :=
  match s.headMover c with
  | some (e, .copy a d n) =>
    let a := a.toNat; let d := d.toNat; let n := n.toNat
    let x := (s.core c).ctx.getD noCtx
    let dyn := !s.schedCtx x
    let tally := match farOf d with | .tally _ _ => true | _ => false
    if isFar a && isFar d then s.invalidHead c uMover e
    else if tally && n != 8 then s.invalidHead c uMover e
    else if n = 0 then s.doneHead c uMover e
    else if a % 8 ≠ 0 ∨ n % 8 ≠ 0 ∨ (d % 8 ≠ 0 ∧ tally = false) then s.invalidHead c uMover e
    else match s.nearest a, s.nearest d with
      | .here a', .here d' => s.copyNear c e a d a' d' n
      | .here a', .none => s.withEnd c e a (notLarder (isFar a) (s.copyEnd c a a' n false)) fun _ => s.unmappedHead c uMover e d
      | .here a', _ =>
        s.withEnd c e a (notLarder true (s.copyEnd c a a' n false)) fun src =>
        if s.copyWaits c a n || s.copyWaits c d n then s
        else
          s.withGuard c e (s.endGuard c false a' n) <|
          s.withData c e a (s.readEnd c src n) fun t l => t.copyFar c e d l
      | .remote pkg _, .here d' =>
        if !dyn then s.invalidHead c uMover e
        else s.withEnd c e d (s.copyEnd c d d' n true) fun dst =>
          if s.pinned d' n false then s.pinnedHead c e d
          else if s.copyWaits c a n || s.copyWaits c d n then s
          else s.copyLoad c e a pkg n d' dst
      | .remote _ _, .none => if !dyn then s.invalidHead c uMover e else s.unmappedHead c uMover e d
      | .none, _ => s.unmappedHead c uMover e a
      | _, _ => s.invalidHead c uMover e
  | _ => s

def execCopy (core : Nat) (s : State) : Out := need (isCore core) (copyOp core s)

/-- FILL (R161): the 64-bit pattern over a local range; of two faults the first as for COPY (log entry 107). -/
def fillOp (c : Nat) (s : State) : State :=
  match s.headMover c with
  | some (e, .fill p d n) =>
    let d := d.toNat; let n := n.toNat
    if isFar d then s.invalidHead c uMover e
    else if n = 0 then s.doneHead c uMover e
    else if d % 8 ≠ 0 ∨ n % 8 ≠ 0 then s.invalidHead c uMover e
    else match farOf d with
      | .here d' =>
        s.withEnd c e d' (s.moverEnd c d' n true (!s.schedCtx ((s.core c).ctx.getD noCtx))) fun dst =>
        if s.pinned d' n false then s.pinnedHead c e d
        else if s.copyWaits c d n then s
        else
          s.withGuard c e (s.endGuard c true d' n) <|
          match s.writeEnd c dst ((List.range (n / 8)).flatMap fun _ => le 8 p.toNat) with
          | some t => t.doneHead c uMover e
          | none => s.unmappedHead c uMover e d
      | _ => s.unmappedHead c uMover e d
  | _ => s

def execFill (core : Nat) (s : State) : Out := need (isCore core) (fillOp core s)

/-! ## Completion (R168, R173, R448) -/

/-- The head of a unit's queue leaves it, and the tracked requests that it held are free again. -/
def State.endHead (s : State) (c u : Nat) : State :=
  let held := u = uMover && (s.core c).mover.head?.any fun e => decide (0 < e.tracked)
  let s := s.completeHead c u
  if held then s.pumpCtx ((s.core c).ctx.getD noCtx) else s

/-- OPERATION_COMPLETE: the performed head of a unit's queue leaves it; register writes are no longer pending, WHEN conditions and table slots
see the completion, and the unit's progress flag is set (R168, R173, R261, R317). An operation that waits for a fabric answer has not
completed (R444); at OP0 no unit steps (R51). The tracked requests of a COPY are free again (R448). -/
def operationComplete (c u : Nat) (s : State) : State :=
  match unitQueue (s.core c) u with
  | e :: _ => if !e.done || decide (0 < e.waitAcks) || decide ((s.die (c / 4)).curOp = 0) then s else s.endHead c u
  | [] => s

def execOperationComplete (core unit : Nat) (s : State) : Out := need (isCore core && decide (unit < 6)) (operationComplete core unit s)

/-! ## Layouts (R162 to R165) -/

/-- The source of a layout operation as stored: its place in `mem`, its rows, columns and strides. -/
structure Stored where
  key : Nat
  skey : Nat
  t : Bool
  fmt : Nat
  rows : Nat
  cols : Nat
  stride : Nat
  sstride : Nat
  deriving DecidableEq, Repr

/-- Rows and columns of the operand: those stored, exchanged where the source is transposed (R162). -/
def Stored.opRows (g : Stored) : Nat := if g.t then g.cols else g.rows
def Stored.opCols (g : Stored) : Nat := if g.t then g.rows else g.cols

/-- Operand element (i, j), zero beyond the operand (R162 to R165). -/
def Stored.elem (g : Stored) (m : Memory) (i j : Nat) : Nat :=
  if g.opRows ≤ i ∨ g.opCols ≤ j then 0
  else
    let r := if g.t then j else i
    let c := if g.t then i else j
    readElem m (g.key + r * g.stride) (elemBits g.fmt) c

/-- The scale of the block that operand element (i, j) lies in; zero beyond the operand (R162). -/
def Stored.scale (g : Stored) (m : Memory) (i j : Nat) : Nat :=
  if g.opRows ≤ i ∨ g.opCols ≤ j then 0
  else
    let r := if g.t then j else i
    let c := if g.t then i else j
    (readByte m (g.skey + r * g.sstride + c / 32)).toNat

/-- A 64-bit slot of L element codes (R98, R163). -/
def packSlot (fmt : Nat) (f : Nat → Nat) : Nat := ((List.range (lanesOf fmt)).map fun l => f l * 2 ^ (elemBits fmt * l)).sum

/-- Rows and columns of the source as stored that a layout operation of an operand of at most `r` rows and `c` columns reads: what lies beyond is
not read (R163). -/
def Stored.rowsRead (g : Stored) (r c : Nat) : Nat := min g.rows (if g.t then c else r)
def Stored.colsRead (g : Stored) (r c : Nat) : Nat := min g.cols (if g.t then r else c)
/-- Bytes that it reads of each stored row, and of each stored row of scales. -/
def Stored.rowBytes (g : Stored) (r c : Nat) : Nat := ceilDiv (g.colsRead r c * elemBits g.fmt) 8
def Stored.rowScales (g : Stored) (r c : Nat) : Nat := ceilDiv (g.colsRead r c) 32

/-- Slots of a stream to be written: their byte offsets from the stream's base and their values. -/
abbrev Slots := List (Nat × Nat)

/-- The k-steps σ that a pass writes at slot r, as offsets from 0 (R163, R164): its own, the zeros before a chain's first and after its last. -/
def sigmas (s0 k reach : Nat) (first last : Bool) (r : Nat) : List (Nat × Bool) :=
  -- (line, whether σ is one of the pass's own)
  (if first then (List.range r).map fun t => (t, false) else []) ++
  ((List.range k).map fun i => (s0 + i + r, true)) ++
  (if last then (List.range (reach - r)).map fun i => (s0 + k + i + r, false) else [])

/-- The west stream of SKEW_W (R163): M_t rows, at line t and slot r. -/
def westSlots (m : Memory) (g : Stored) (mt s0 k : Nat) (first last : Bool) : Slots :=
  (List.range mt).flatMap fun r =>
    (sigmas s0 k (mt - 1) first last r).map fun p =>
      let t := p.1
      (t / (128 / mt) * 1024 + t % (128 / mt) * (mt * 8) + r * 8,
       if p.2 then packSlot g.fmt (fun l => if lanesOf g.fmt * (t - r - s0) + l < g.opCols then g.elem m r (lanesOf g.fmt * (t - r - s0) + l) else 0) else 0)

/-- The north stream of SKEW_N (R164). -/
def northSlots (m : Memory) (g : Stored) (gr s0 k : Nat) (first last : Bool) : Slots :=
  (List.range gr).flatMap fun gi => (List.range 128).flatMap fun c =>
    (sigmas s0 k 127 first last c).map fun p =>
      let t := p.1
      ((t * gr + gi) * 1024 + c * 8,
       if p.2 then packSlot g.fmt (fun l => g.elem m (lanesOf g.fmt * (t - c - s0) + l) (128 * gi + c)) else 0)

/-- Write slots of a stream, each `n` bytes. -/
def State.putSlots (s : State) (key n : Nat) (l : Slots) : State := each l s fun s p => s.putWords (key + p.1) (le n p.2)

/-- Write scales, one byte each, into the eight words of a scale line that hold one of them. R178 rules out a read-modify-write, so the other bytes of
such a word are written as zero, also where R163 has a slot keep its content (DEDUCED, log entry 93). -/
def State.putScaleLine (s : State) (key : Nat) (l : List (Nat × Nat)) : State :=
  each ((List.range 16).filter fun w => l.any fun p => p.1 / 8 == w) s fun s w =>
    s.putWords (key + 8 * w) ((List.range 8).map fun i => BitVec.ofNat 8 (((l.find? fun p => p.1 == 8 * w + i).map (·.2)).getD 0))

/-- Reads of `rows` rows of `n` bytes, `stride` apart: each is answered as a read of its own, and all lie in one store with the first (R162). -/
def State.headRows (s : State) (c : Nat) (e : QEntry) (a stride rows n : Nat) : Nat ⊕ State :=
  match s.headRead c uMover e a n true with
  | .inr t => .inr t
  | .inl k => (List.range rows).foldl (fun r i => match r with
    | .inr t => .inr t
    | .inl k => match s.headRead c uMover e (a + i * stride) n true with
      | .inr t => .inr t
      | .inl j => if j = k + i * stride then .inl k else .inr (s.invalidHead c uMover e)) (.inl k)

/-- The protection code's check of those rows (R182). -/
def State.eccRows (s : State) (key stride rows n : Nat) : State := each (List.range rows) s fun s i => s.eccRead (key + i * stride) n

/-- Whether a layout operation's source, of an operand of at most `r` rows and `cc` columns, and its destination may be reached: the issuing core's own shelf
or its die's loft (R162). The destination and its scales are written from `lo` and `slo` on. -/
def State.layoutEnds (s : State) (c : Nat) (e : QEntry) (g : Stored) (r cc : Nat) (a sa d sd lo slo db sdb : Nat)
    (f : State → Nat → Nat → Nat → Nat → State) : State :=
  let mx := isMx g.fmt
  andThen (s.headRows c e a g.stride (g.rowsRead r cc) (g.rowBytes r cc)) fun k =>
  andThen (if mx then s.headRows c e sa g.sstride (g.rowsRead r cc) (g.rowScales r cc) else .inl 0) fun sk =>
  andThen (s.headWrite c uMover e (d + lo) (db - lo) true) fun dk =>
  andThen (if mx then s.headWrite c uMover e (sd + slo) (sdb - slo) true else .inl 0) fun sdk =>
  let s := s.eccRows k g.stride (g.rowsRead r cc) (g.rowBytes r cc)
  f (if mx then s.eccRows sk g.sstride (g.rowsRead r cc) (g.rowScales r cc) else s) k sk (dk - lo) (sdk - slo)

/-- The geometry pair (R162). -/
def storedOf (t : Bool) (fmt k sk geo geo2 : Nat) : Stored :=
  { key := k, skey := sk, t := t, fmt := fmt, rows := bits geo 48 16, cols := bits geo 32 16, stride := bits geo 0 32, sstride := bits geo2 32 32 }

/-- Scale line `t` of a skewed stream: slot r holds the scale of the k-step σ = t − r (R101, R163, R164); slots not written keep their content. -/
def skewScales (reach s0 k slots : Nat) (first last : Bool) (f : Nat → Nat → Nat) (t : Nat) : List (Nat × Nat) :=
  ((List.range slots).filterMap fun r =>
    if r + s0 ≤ t ∧ t < r + s0 + k then some (r, f (t - r - s0) r)
    else if (first ∧ t < r) ∨ (last ∧ r + s0 + k ≤ t ∧ t < s0 + k + reach) then some (r, 0)
    else none) ++ ((List.range (128 - slots)).map fun i => (slots + i, 0))

/-- SKEW_W (R163). -/
def skewWOp (c : Nat) (s : State) : State :=
  match s.headMover c with
  | some (e, .skewW t fmt a sa d sd geo geo2 mode first last) =>
    let mt := osRowsOf mode
    let g0 := storedOf t fmt 0 0 geo.toNat geo2.toNat
    let s0 := bits geo2.toNat 0 32
    let k := ceilDiv g0.opCols (lanesOf fmt)
    let lines := s0 + k + mt - 1
    let lo := if first then 0 else s0
    let d := alignTo 1024 d.toNat; let sd := alignTo 1024 sd.toNat
    s.layoutEnds c e g0 mt g0.opCols a.toNat sa.toNat d sd (lo / (128 / mt) * 1024) (lo / 8 * 1024)
      (ceilDiv lines (128 / mt) * 1024) (scaleBytes lines) fun s key skey dk sdk =>
    let g := { g0 with key := key, skey := skey }
    let m := s.mem
    let s := s.putSlots dk 8 (westSlots m g mt s0 k first last)
    let s := if isMx fmt then each ((List.range (lines - lo)).map (lo + ·)) s fun s t =>
        s.putScaleLine (sdk + t * 128)
          (skewScales (mt - 1) s0 k mt first last (fun i r => g.scale m r (lanesOf fmt * i)) t)
      else s
    s.doneHead c uMover e
  | _ => s

def execSkewW (core : Nat) (s : State) : Out := need (isCore core) (skewWOp core s)

/-- SKEW_N (R164). -/
def skewNOp (c : Nat) (s : State) : State :=
  match s.headMover c with
  | some (e, .skewN t fmt a sa d sd geo geo2 mode first last) =>
    let gr := 128 / osRowsOf mode
    let g0 := storedOf t fmt 0 0 geo.toNat geo2.toNat
    let s0 := bits geo2.toNat 0 32
    let k := ceilDiv g0.opRows (lanesOf fmt)
    let lines := s0 + k + 127
    let lo := if first then 0 else s0
    let d := alignTo 1024 d.toNat; let sd := alignTo 1024 sd.toNat
    s.layoutEnds c e g0 g0.opRows (128 * gr) a.toNat sa.toNat d sd (lo * gr * 1024) (lo * gr / 8 * 1024)
      (lines * gr * 1024) (scaleBytes (lines * gr)) fun s key skey dk sdk =>
    let g := { g0 with key := key, skey := skey }
    let m := s.mem
    let s := s.putSlots dk 8 (northSlots m g gr s0 k first last)
    let s := if isMx fmt then each (((List.range (lines - lo)).map (lo + ·)).flatMap fun t => (List.range gr).map fun gi => (t, gi)) s fun s p =>
        s.putScaleLine (sdk + (p.1 * gr + p.2) * 128)
          (skewScales 127 s0 k 128 first last (fun i cc => g.scale m (lanesOf fmt * i) (128 * p.2 + cc)) p.1)
      else s
    s.doneHead c uMover e
  | _ => s

def execSkewN (core : Nat) (s : State) : Out := need (isCore core) (skewNOp core s)

/-- Element c × L + l of line j (R165): the row and column of W. -/
def wsPlace (fmt mode j c l : Nat) : Nat × Nat :=
  if mode = 8 then (lanesOf fmt * j + l, c) else (lanesOf fmt * (j % 32) + l, 128 * (j / 32) + c)

/-- LAYOUT_WS (R165). -/
def layoutWsOp (c : Nat) (s : State) : State :=
  match s.headMover c with
  | some (e, .layoutWs t fmt a sa d sd geo geo2 mode) =>
    let g0 := storedOf t fmt 0 0 geo.toNat geo2.toNat
    let d := alignTo 1024 d.toNat; let sd := alignTo 1024 sd.toNat
    s.layoutEnds c e g0 (lanesOf fmt * (if mode = 8 then 128 else 32)) (if mode = 8 then 128 else 512) a.toNat sa.toNat d sd 0 0
      131072 (scaleBytes 128) fun s key skey dk sdk =>
    let g := { g0 with key := key, skey := skey }
    let m := s.mem
    let s := s.putSlots dk 8 ((List.range 128).flatMap fun j => (List.range 128).map fun cc =>
      (j * 1024 + cc * 8, packSlot fmt fun l => let p := wsPlace fmt mode j cc l; g.elem m p.1 p.2))
    let s := if isMx fmt then each (List.range 128) s fun s j =>
        s.putScaleLine (sdk + j * 128) ((List.range 128).map fun cc => let p := wsPlace fmt mode j cc 0; (cc, g.scale m p.1 p.2))
      else s
    s.doneHead c uMover e
  | _ => s

def execLayoutWs (core : Nat) (s : State) : Out := need (isCore core) (layoutWsOp core s)

end Sys2Proof.Machine
end

