-- ==== Sys2Proof/Machine/Kernel.lean ====
section
/-! DEFINITION. Kernel commands on contexts, queues, keys, tallies, channels, the larder, the ledger and the inventory record (R278, R288, R312 to R314,
R389 to R393, R530, R533, R568). -/

namespace Sys2Proof.Machine

/-- Bytes of kernel host memory at a kernel queue's port (R389). -/
def State.kernelRead (s : State) (q : QRef) (a n : Nat) : List Byte := s.hostRead (s.queue q).port 0 a n

/-- A TDI outside UNLOCKED locks its context's block, queues, vectors and PASID (R543). -/
def tdiLocked (x : Context) : Bool := x.tdi == .locked || x.tdi == .run

/-! ## Stopping and destroying a context (R392, R499, R543, R545) -/

/-- A job over packages is told of by JOB_FAULT, with this package as the one that detected the fault and the count of the detection (R500). -/
def State.tellJob (s : State) (c code count : Nat) : State :=
  match s.launchOf c with
  | some l => if 1 < l.packages then s.send (.jobFault (s.ctx c).job code s.pkgId count) else s
  | none => s

/-- A forced quench with a fault code (R499): the record goes to the context, its job is faulted and the context is stopped at once. -/
def State.forceQuench (s : State) (c code : Nat) : State :=
  if (s.ctx? c).isNone then s
  else
    let t := (s.raiseTo s.serviceDie code [c] false false []).tellJob c code s.kcount
    (t.faultJob (t.ctx c).job code).quench c

/-- Every command of a context's queues ends ABORTED, its record written where records are not held; the queues go (R392 steps 1 and 2, R398). -/
def State.abortQueue (s : State) (code : Nat) (q : QRef) : State :=
  let x := endCommands 6 code (s.queue q)
  let s := each x.cmds s fun s p => if recordsHeld x then s.noteCmd q x p (p.outcome.getD {}) else s.recordCmd q x p (p.outcome.getD {})
  let s := match x.deleting with
    | some k => s.endCmd k 0 0 0
    | none => s
  s.setQueue q none

/-- The granules of a sealed context are ERASING (R545). -/
def State.eraseGranules (s : State) (c : Nat) : State :=
  { s with owners := s.owners.map fun e => if e.2 = .context c then (e.1, .erasing) else e }

/-- The key set of a context is destroyed (R545 step 1). -/
def eraseKeys (x : Context) : Context := { x with jobKey := [], staging := [], xts := [], mac := [], debugOn := false, tdi := .unlocked }

/-- The wrapped copies of a context's key set leave the journal with it (R520, R545). -/
def State.dropWrapped (s : State) (c : Nat) : State :=
  { s with journal := s.journal.map fun (r : JournalRec) => if r.subject = 9 ∧ r.key = c then { r with wrapped := [] } else r }

/-- The weight sets of a context retire (R233). -/
def State.retireAll (s : State) (c : Nat) : State :=
  each (tabKeys s.sets fun _ x => (x.map fun w => decide (w.ctx = c)).getD false) s fun s w => match s.set? w with
    | some y => s.retireSet w y
    | none => s

/-- A context is destroyed; `kill` faults its job with F_CONTEXT_KILLED first, and `q` is the command that destroys it (R392). -/
def State.destroy (s : State) (kill : Bool) (q : Option QRef) (c : Nat) : State :=
  if (s.ctx? c).isNone || (s.ctx c).dying then s
  else
    let s := if kill then (s.raiseTo s.serviceDie fContextKilled [c] false false []).tellJob c fContextKilled s.kcount else s
    let s := each (s.ctxQueues c) s fun s r => s.abortQueue (if kill then fContextKilled else 0) r
    let s := ((s.quench c).retireAll c).dropPaths c 0xFFFFFFFF
    let s := if (s.ctx c).sealed then s.eraseGranules c else s
    (s.modCtx c fun x => { eraseKeys x with dying := true, destroying := q, crit := 0, hint := none, tableWaits := [], pointers := [], nextPointers := [] }).dropWrapped c |>.endDestroys

/-- A kernel command meets a locked TDI: the TDI goes to ERROR, the job is faulted and the context stopped (R543). -/
def State.tdiError (s : State) (c : Nat) : State := (s.modCtx c fun x => { x with tdi := .error }).forceQuench c fContextKilled

/-! ## CREATE_CONTEXT, DESTROY_CONTEXT (R390, R392) -/

/-- A context as its block spells it (R390), and whether a field was clamped. -/
def contextOf (port : Nat) (b : List Byte) : Context × Bool :=
  let f := clampF 0 63 (fieldAt b 8 1)
  let n := clampF 1 (64 - f.1) (fieldAt b 9 1)
  let h := clampF 1 65535 (fieldAt b 24 4)
  let e := clampF 1 65536 (fieldAt b 28 4)
  let v := fieldAt b 10 2
  ({ job := fieldAt b 0 4, pasid := bits (fieldAt b 4 4) 0 20, dieFirst := f.1, dieCount := n.1, errVector := clampVector v,
     test := bit (fieldAt b 12 1) 0, debugReq := bit (fieldAt b 12 1) 1, handleTable := fieldAt b 16 8, handles := h.1, events := e.1,
     eventTable := fieldAt b 32 8, report := alignTo 4096 (fieldAt b 40 8), port := port },
   f.2 || n.2 || h.2 || e.2 || clampVector v != v)

/-- SEQ and STAMP of every event start at zero (R308). -/
def State.zeroEvents (s : State) (a n : Nat) : State :=
  { s with mem := s.mem.filter fun c => c.1 < a || a + 32 * n ≤ c.1 || decide (16 ≤ (c.1 - a) % 32) }

/-- The head command was clamped: it ends FORMAT in check mode, else its record shows CLAMPED (R374, R375). -/
def State.clampHead (s : State) (q : QRef) (p : Pending) (clamped : Bool) (f : State → State) : State :=
  if !clamped then f s
  else if s.checkMode q then s.endCmd q 5 0 0
  else f (s.putHead q { p with clamped := true })

/-- Every die shows EPOCH_SET: contexts are admitted (R70). -/
def State.epochSet (s : State) : Bool := dieList.all fun d => (s.die d).tb.epochSet

/-- A LARDER_WRITE runs (R288, R289). -/
def State.larderBusy (s : State) : Bool := larderDies.any fun d => (s.die d).writeBusy

/-- From the first admission on the count is neither stepped nor held: what a backward correction has still to hold is left to slewing (R62, R467). -/
def State.endHold (s : State) : State :=
  let b := s.nextBoundary
  each dieList s fun s d => if (s.die d).tb.hold = 0 then s
    else s.modDie d fun x => { x with tb := { startSlew (x.tb.slew - x.tb.hold) b x.tb with hold := 0 } }

/-- CREATE_CONTEXT. -/
def createContext (q : QRef) (s : State) : State :=
  s.command q fun s p => match p.cmd with
    | .createContext c a =>
      let b := contextOf (s.queue q).port (s.kernelRead q a 64)
      s.clampHead q p b.2 fun s =>
        if !isContext c || (s.ctx? c).isSome || !(s.jobCtxs b.1.job).isEmpty || s.service == .stopped || s.stopping || !s.epochSet || s.larderBusy ||
            !(match s.locate b.1.eventTable (32 * b.1.events) with | .cellar _ => s.cellarMapped b.1.eventTable (32 * b.1.events) | _ => false) then
          s.endCmd q 1 0 0
        else (({ s.endHold with admitted := true } : State).zeroEvents b.1.eventTable b.1.events |>.setCtx c (some b.1)).endCmd q 0 0 0
    | _ => s

def execCreateContext (q : QRef) (s : State) : Out := need (isQueue q) (createContext q s)

/-- DESTROY_CONTEXT: ends when the scrub has ended (R392). -/
def destroyContext (q : QRef) (s : State) : State :=
  s.command q fun s p => match p.cmd with
    | .destroyContext c kill =>
      if (s.ctx? c).isNone then s.endCmd q 1 0 0
      else if (s.ctx c).dying then s
      else if !kill && (s.launchOf c).isSome then s.endCmd q 1 0 0
      -- the command would change a locked TDI (R543)
      else if tdiLocked (s.ctx c) then (s.modCtx c fun x => { x with tdi := .error }).destroy true (some q) c
      else s.destroy kill (some q) c
    | _ => s

def execDestroyContext (q : QRef) (s : State) : Out := need (isQueue q) (destroyContext q s)

/-! ## CREATE_QUEUE, RESUME_QUEUE (R391, R393) -/

/-- The normal queues of the package, and those of class 0 on a port. -/
def State.normalQueues (s : State) : Nat := (s.queues.filter fun e => e.2.isSome && decide (e.1 < 0x80000)).length
def State.class0Queues (s : State) (port : Nat) : Nat :=
  (s.queues.filter fun e => decide (e.1 < 0x80000) && (e.2.map fun x => x.port == port && x.cls == 0).getD false).length

/-- ATS translates a queue's pages where it is enabled (R391, R393, R397). -/
def State.translates (s : State) (port : Nat) : Bool × State :=
  if (s.hp port).ats then let r := s.takeFresh; (Config.translated r.1, r.2) else (true, s)

/-- The context number is one that exists and is not being destroyed. -/
def State.alive (s : State) (c : Nat) : Bool := (s.ctx? c).isSome && !(s.ctx c).dying

/-- What waits at a queue's head goes with the queue: a LAUNCH for its cores, a TABLE_LOAD in the expanders' queues. -/
def State.dropWaiting (s : State) (q : QRef) : State :=
  let strip := fun (x : Engine) => { x with tableQueue := x.tableQueue.filter fun p => p.q != q }
  let s : State := { s with cores := s.cores.map fun e => (e.1, { e.2 with e0 := strip e.2.e0, e1 := strip e.2.e1 }) }
  match ctxOf q with
  | some c => if (s.launchOf c).any fun l => l.q == q && l.st == .checked then s.modCtx c fun x => { x with launch := none } else s
  | none => s

/-- A queue is deleted: at once, or when the command being performed has completed (R391). A head command that waits under its own rule is not being performed
(R370). -/
def State.removeQueue (s : State) (k q : QRef) : State :=
  match (s.queue q).cmds with
  | p :: _ =>
    if p.taken && (s.queue q).st != .waiting then s.modQueue q fun x => { x with deleting := some k, cmds := x.cmds.take 1 }
    else ((s.dropWaiting q).setQueue q none).endCmd k 0 0 0
  | [] => (s.setQueue q none).endCmd k 0 0 0

/-- CREATE_QUEUE. -/
def createQueue (k : QRef) (s : State) : State :=
  s.command k fun s p => match p.cmd with
    | .createQueue c n del log2 cls fetch window vector sq cq status =>
      let port := (s.queue k).port
      let q : QRef := .normal c n
      if !s.alive c then s.endCmd k 1 0 0
      else if tdiLocked (s.ctx c) then (s.tdiError c).endCmd k 1 0 0
      else if del then
        match s.queue? q with
        | some x => if x.deleting.isSome then s else s.removeQueue k q
        | none => s.endCmd k 1 0 0
      else if (s.queue? q).isSome || decide (16384 ≤ s.normalQueues) || (cls == 0 && decide (64 ≤ s.class0Queues port)) then s.endCmd k 1 0 0
      else
        let t := s.translates port
        if !t.1 then t.2.endCmd k 1 0 0
        else
          let x : Queue :=
            { port := port, log2 := log2, cls := cls, fetch := fetch, window := window, vector := vector, sq := sq, cq := cq, status := status,
              holdKeeper := s.holder.isNone }
          (t.2.setQueue q (some x)).endCmd k 0 0 0
    | _ => s

def execCreateQueue (q : QRef) (s : State) : Out := need (isQueue q) (createQueue q s)

/-- The held records of a queue written in index order, each with its interrupt (R393 step 2). -/
def State.writeHeld (s : State) (q : QRef) : State :=
  let x := s.queue q
  each x.records s fun s r =>
    let s := s.queueWrite x.port (recordAddr x (fieldAt r.1 4 4)) r.1
    if r.2 then s.raiseVector x.port x.vector else s

/-- The queue after its records are dealt with: causes cleared, and with RESTART a stopped queue fetches again (R393). The page of STATUS is good again where the
CQ cause had it translated. -/
def resumed (restart : Bool) (x : Queue) : Queue :=
  let x := fullNow { x with records := [], holdCq := false, holdLink := false, statusOk := x.statusOk || x.holdCq }
  if restart && x.st == .stopped then
    let busy := decide (0 < qRung x) || !x.cmds.isEmpty
    { x with st := if busy then .fetching else .idle, armed := !busy, fault := 0 }
  else x

/-- RESUME_QUEUE. -/
def resumeQueue (k : QRef) (s : State) : State :=
  s.command k fun s p => match p.cmd with
    | .resumeQueue c n discard restart =>
      let q : QRef := .normal c n
      match s.queue? q with
      | none => s.endCmd k 1 0 0
      | some x =>
        let t := if x.holdCq then s.translates x.port else (true, s)
        if !t.1 || !(s.hp x.port).up then t.2.endCmd k 1 0 0
        else
          let s := if discard then t.2 else t.2.writeHeld q
          (s.putQueue q (resumed restart)).endCmd k 0 0 (if discard then 0 else x.records.length)
    | _ => s

def execResumeQueue (q : QRef) (s : State) : Out := need (isQueue q) (resumeQueue q s)

/-! ## KEY_INSTALL (R533, R534) -/

/-- The session of a port's transport with an id. -/
def State.session (s : State) (transport id : Nat) : Option Session := s.sessions.find? fun x => x.transport == transport && x.id == id

/-- The text that derives KI (R533). -/
def keyInstallInfo : List Byte := "k64-key-install".toList.map (fun ch => BitVec.ofNat 8 ch.toNat) ++ [0]

/-- A blob's plaintext keys; none where a check of R534 fails. -/
def State.keyBlob (s : State) (port c n : Nat) (b : List Byte) : Option (List Byte) :=
  let x := s.ctx c
  match s.session port (fieldAt b 0 4) with
  | none => none
  | some k =>
    if n ≠ 208 ∨ fieldAt b 6 1 ≠ 1 ∨ fieldAt b 4 2 ≠ c ∨ fieldAt b 8 4 ≠ x.job ∨ x.sealed ∨ x.launched then none
    else if (k.lastSeq.map fun m => decide (fieldAt b 12 4 ≤ m)).getD false then none
    else gcmOpen (hkdf k.ems keyInstallInfo 32) (slice b 16 12) (slice b 0 32) (slice b 32 160) (slice b 192 16)

/-- A context's key set goes into the journal, under the journal key alone (R520); the Isazen engine draws the IV. -/
def State.journalKeys (s : State) (c : Nat) (keys : List Byte) : State :=
  let r := s.takeFresh
  let iv := slice (Config.random r.1) 0 12
  let x := gcmSeal journalKey iv [] keys
  { r.2 with journalNext := r.2.journalNext + 1, journal := r.2.journal ++ [{ seq := r.2.journalNext, subject := 9, key := c, wrapped := iv ++ x.1 ++ x.2 }] }

/-- KEY_INSTALL: the context is sealed. -/
def keyInstall (q : QRef) (s : State) : State :=
  s.command q fun s p => match p.cmd with
    | .keyInstall c a n =>
      let port := (s.queue q).port
      let b := s.kernelRead q a 208
      if !s.alive c then s.endCmd q 1 0 0
      else match s.keyBlob port c n b with
      | none => (s.raiseTo s.serviceDie fKeyReject [c] false true []).endCmd q 1 fKeyReject 0
      | some t =>
        let f := fieldAt b 7 1
        let s : State := { s with sessions := s.sessions.map fun (x : Session) =>
          if x.transport == port && x.id == fieldAt b 0 4 then { x with lastSeq := some (fieldAt b 12 4) } else x }
        (s.modCtx c fun x => { x with
          sealed := true, tdisp := bit f 0, consent := bit f 1, xts := slice t 0 64, mac := slice t 64 32, staging := slice t 96 32,
          jobKey := slice t 128 32, sealCounter := 0 }).journalKeys c t |>.endCmd q 0 0 0
    | _ => s

def execKeyInstall (q : QRef) (s : State) : Out := need (isQueue q) (keyInstall q s)

/-! ## Forcing a tally (R312 to R314) -/

/-- The tally that a force names, with LDIE for a die-relative one; none is refused. -/
def State.forceHome (s : State) (c vid : Nat) (ldie : Option Nat) : Option (Nat × Nat) :=
  match (s.launchOf c).bind fun l => if l.st = .checked then none else findTally l vid with
  | none => none
  | some e =>
    if e.kind = 0 then s.tallyHome e 0
    else match ldie with
      | some d => if (ctxDies (s.ctx c)).contains d then s.tallyHome e (s.physDie d) else none
      | none => none

/-- Mode 0: the tally takes the value at once, or, where its core's die stands at OP0, as soon as that has left it (R51). Operations of the same instant
apply before it (R298 item 3). -/
def State.forceSet (s : State) (c vid v : Nat) (h : Nat × Nat) (result : Option QRef) (serial : Nat) (reg : Option Nat) : State :=
  let m : TallyMsg := { ctx := c, home := h.1, index := h.2, vid := vid, act := .set, n := v % 2 ^ 32, src := .keeper, core := noOwner, rank := 4 * s.serviceDie,
                        result := result, serial := serial, reg := reg }
  if h.1 < 1000 && s.atOp0 (h.1 / 4) then
    let s := { s with tallyMsgs := s.tallyMsgs ++ [m] }
    match reg with
    | some 2 => { s with dgGo := true }
    | some i => s.modHatch i fun x => { x with go := true }
    | none => s
  else s.arriveOne m

/-- The head of a unit's queue leaves with no result (R312): units 0 to 5 of a core, where a wait at the issue unit counts as the tally port's head. -/
def State.abortUnit (s : State) (core u : Nat) : State :=
  match unitQueue (s.core core) u with
  | _ :: _ =>
    let s := if u = uMover then s.disown (· == core) else s
    let s := if u = 1 ∨ u = 2 then s.modEng core (u - 1) emptyFeeders else s
    s.endHead core u
  | [] =>
    if u = uTally && (s.core core).wait != .none && (s.core core).wait != .granted then
      let s := s.modCore core fun x => { x with wait := .granted }
      let strip := fun (t : Tab Tally) => t.map fun e => (e.1, { e.2 with waits := e.2.waits.filter fun w => w.core != core })
      { s with
        tallyMsgs := s.tallyMsgs.filter fun m => !(m.core == core && (m.act == .wait || m.act == .waitdec))
        cores := s.cores.map fun e => (e.1, { e.2 with tallies := strip e.2.tallies })
        dies := s.dies.map fun e => (e.1, { e.2 with ringTallies := strip e.2.ringTallies }) }
    else s

/-- The TABLE_LOAD at the head of an expander's table queue leaves it, not loaded there (R312). -/
def State.abortTable (s : State) (core e : Nat) : State :=
  match (eng (s.core core) e).tableQueue with
  | p :: t => (tableServed (s.modEng core e fun x => { x with tableQueue := t }) (p.q, true)).expander core e
  | [] => s

/-- Mode 1 (R312). -/
def State.forceAbort (s : State) (c core u : Nat) : State :=
  let lc := (s.logicalCore core).getD 0
  let s := if u < 6 then s.abortUnit core u else s.abortTable core (u - 6)
  (s.modCtx c fun x => { x with tallyForced := true }).noteForce c (le 4 lc) 1 (le 1 u)

/-- The core of a context with a logical core number. -/
def State.ctxCoreOf (s : State) (c lcore : Nat) : Option Nat :=
  (s.coreOf lcore).bind fun k => if (s.ctxCores c).contains k then some k else none

/-- A launch of the context is bound. -/
def State.isBound (s : State) (c : Nat) : Bool := match s.launchOf c with
  | some l => l.st != .checked
  | none => false

/-- TALLY_FORCE (R312, R395). -/
def tallyForce (q : QRef) (s : State) : State :=
  s.command q fun s p => match p.cmd with
    | .tallyForce c mode unit vid ldie v lcore =>
      if 1 < mode || !s.isBound c then s.endCmd q 1 0 0
      else if mode = 0 then
        match s.forceHome c vid (some ldie) with
        | some h => s.forceSet c vid v h (some q) p.serial none
        | none => s.endCmd q 1 0 0
      else match s.ctxCoreOf c lcore with
        | some k => if 7 < unit then s.endCmd q 1 0 0 else (s.forceAbort c k unit).endCmd q 0 0 unit
        | none => s.endCmd q 1 0 0
    | _ => s

def execTallyForce (q : QRef) (s : State) : Out := need (isQueue q) (tallyForce q s)

/-- A write of DG_TALLY_FORCE (R314): ignored while GO reads 1; its fields are kept. -/
def dgFields (v : Nat) (s : State) : State :=
  { s with dgValue := BitVec.ofNat 32 (v / 2 ^ 32), dgMode := bit v 30, dgCtx := bits v 16 10, dgVid := bits v 0 16 }

/-- The force of DG_TALLY_FORCE, for a context in debug mode (R314): the write is kept, and the force performed while a launch is bound (R312). -/
def dgForce (v : Nat) (s : State) : State :=
  let c := bits v 16 10
  if s.dgGo then s
  else if !bit v 31 then dgFields v s
  else if !(s.ctx c).debugOn then s
  else
    let s := dgFields v s
    if !s.isBound c then s
    else if bit v 30 then
      match s.ctxCoreOf c (bits v 40 8) with
      | some k => s.forceAbort c k (bits v 32 3)
      | none => s
    else match s.forceHome c (bits v 0 16) none with
      | some h => s.forceSet c (bits v 0 16) (v / 2 ^ 32) h none 0 (some 2)
      | none => s

/-- DG_TALLY_FORCE_SET (R314): a write with MODE 0. -/
def execDgTallyForceSet (value : Word) (s : State) : Out := need true (if bit value.toNat 30 then s else dgForce value.toNat s)

/-- DG_TALLY_FORCE_ABORT (R314): a write with MODE 1. -/
def execDgTallyForceAbort (value : Word) (s : State) : Out := need true (if bit value.toNat 30 then dgForce value.toNat s else s)

/-! ## CHANNEL_DRAIN (R278 to R281) -/

/-- Another channel is DRAINING or RETURNING. -/
def State.otherMoves (s : State) (ch : Nat) : Bool :=
  (List.range 48).any fun i => i != ch && ((s.channel i).st == .draining || (s.channel i).st == .returning)

/-- CHANNEL_DRAIN: the channel begins to drain, or with RETURN to come back. -/
def channelDrain (q : QRef) (s : State) : State :=
  s.command q fun s p => match p.cmd with
    | .channelDrain ch ret =>
      let st := (s.channel ch).st
      if (s.channel ch).drainQ = some q then s
      else if ret then
        if st == .drained || st == .failed then (s.channelTo ch .returning).modChannel ch fun x => { x with drainQ := some q, resetN := false, clocksOff := false }
        else s.endCmd q 1 0 0
      else if st != .active || s.otherMoves ch || decide (s.sparesElsewhere ch < s.framesToMove ch) then s.endCmd q 1 0 0
      else (s.channelTo ch .draining).modChannel ch fun x => { x with drainQ := some q, drainN := (s.toMove ch).length, moved := 0, movedTo := [] }
    | _ => s

def execChannelDrain (q : QRef) (s : State) : Out := need (isQueue q) (channelDrain q s)

/-! ## LARDER_WRITE (R288, R289) -/

/-- One page: written, so that no bit error is left in it, and where it does not verify replaced from the reserve; none when the reserve is exhausted. -/
def State.larderPage (s : State) (bad : Bool) (src dst : Nat) : Option State :=
  let d := larderDie dst
  let s := { s with mem := writeBytes (zeroBytes s.mem dst 4096) dst (readBytes s.mem src 4096), pageErrs := s.pageErrs.filter fun e => e.1 != dst / 4096 }
  let s := s.modDie d fun x => { x with wornPages := x.wornPages + 1 }
  if !bad then some s
  else if (s.die d).reserveUsed < Config.larderReserve then some (s.modDie d fun x => { x with reserveUsed := x.reserveUsed + 1 })
  else none

/-- Pages from `i` on; the state, and the first address that could not be written. -/
def State.larderPages (s : State) (bad : List Nat) (src dst : Nat) : Nat → Nat → State × Option Nat
  | 0, _ => (s, none)
  | n + 1, i => match s.larderPage (bad.contains i) (src + 4096 * i) (dst + 4096 * i) with
    | some t => t.larderPages bad src dst n (i + 1)
    -- the page that no spare page replaces does not read back: it is beyond correction (DESIGN CHOICE, log entry 94)
    | none => (({ s with pageErrs := tabSet s.pageErrs ((dst + 4096 * i) / 4096) 73 } : State).modDie (larderDie (dst + 4096 * i)) fun x =>
        { x with writeFail := true }, some (dst + 4096 * i))

/-- LARDER_WRITE; `bad` lists the pages of the command that fail verification. -/
def larderWrite (q : QRef) (bad : List Nat) (s : State) : State :=
  s.command q fun s p => match p.cmd with
    | .larderWrite src dst n =>
      let user := match s.locate dst n with | .larder _ => true | _ => false
      let srcOk := match s.locate src n with | .cellar _ => s.cellarMapped src n | _ => false
      if s.service != .stopped || !s.boundCtxs.isEmpty || s.sets.any (fun e => e.2.isSome) || src % 4096 != 0 || dst % 4096 != 0 || n % 4096 != 0
        || !srcOk || !user then s.endCmd q 1 0 0
      else match s.memRead .keeper src n with
        | .ok t _ =>
          let dies := larderDies.filter fun d => larderDie dst ≤ d && d ≤ larderDie (dst + (n - 1))
          let t := each dies t fun s d => s.modDie d fun x => { x with writeFail := false, writeBusy := true }
          let r := t.larderPages bad src dst (n / 4096) 0
          (match r.2 with
            | some a => r.1.endCmd q 1 0 a
            | none => r.1.endCmd q 0 0 0)
        | .lost t code => t.endCmd q 7 code 0
        | .unmapped => s.cmdFault q 1 fAddrUnmapped src
    | _ => s

def execLarderWrite (q : QRef) (badPages : List Nat) (s : State) : Out := need (isQueue q) (larderWrite q badPages s)

/-! ## LEDGER_DRAIN (R561, R568) -/

/-- The 64 bytes of an entry (R561). -/
def entryBytes (e : LedgerEntry) : List Byte :=
  le 8 e.count ++ le 8 e.seq ++ le 1 e.die ++ le 1 e.kind ++ le 2 e.code ++ le 2 e.ctx ++ le 2 (b2n e.mirrored + 2 * b2n e.preEpoch + 4 * b2n e.continued)
    ++ slice e.detail 0 40

/-- The gap entry of a drain (R568). -/
def State.drainGap (s : State) (since : Nat) : List LedgerEntry :=
  match s.dropped with
  | some n => if since ≤ n then
      [{ count := since, seq := 2 ^ 64 - 1, die := s.keeperDie, kind := 0x09, detail := le 8 ((s.merged.head?.map (·.count)).getD 0) }]
    else []
  | none => []

/-- The entries that a drain writes. -/
def State.drainEntries (s : State) (since max : Nat) : List LedgerEntry :=
  (s.drainGap since ++ s.merged.filter fun e => decide (since ≤ e.count)).take max

/-- LEDGER_DRAIN. -/
def ledgerDrain (q : QRef) (s : State) : State :=
  s.command q fun s p => match p.cmd with
    | .ledgerDrain dest max since =>
      let l := s.drainEntries since max
      (s.hostWrite (s.queue q).port 0 (alignTo 64 dest) (l.flatMap entryBytes)).endCmd q 0 0 l.length
    | _ => s

def execLedgerDrain (q : QRef) (s : State) : Out := need (isQueue q) (ledgerDrain q s)

/-! ## The inventory record (R528 to R530) -/

/-- A set of numbers below 8 × n as a bit string of n bytes. -/
def bitBytes (n : Nat) (l : List Nat) : List Byte := le n ((l.map fun i => 2 ^ i).sum)

/-- The bytes of a record that the factory signs: offsets 0 to 191. -/
def factoryPart (idKey : List Byte) (x : Inventory) : List Byte :=
  le 2 1 ++ le 1 x.grade ++ le 1 x.stepping ++ slice x.serial 0 12 ++ le 34 ((x.coreMap.map fun e => e.2 * 16 ^ e.1).sum)
    ++ slice (x.factorySpares.map (BitVec.ofNat 8)) 0 4 ++ le 2 (b2n x.debugAllowed) ++ slice (sha256 idKey) 0 32 ++ List.replicate 104 0

/-- The 512 bytes of a record (R528). -/
def inventoryBytes (idKey : List Byte) (x : Inventory) : List Byte :=
  let f := factoryPart idKey x
  let a := f ++ slice (Config.factorySign f) 0 64 ++ le 8 x.seq ++ (x.spares.map (BitVec.ofNat 8) ++ List.replicate 4 0xFF).take 4 ++ bitBytes 9 x.retired
    ++ List.replicate 3 0 ++ slice (x.logical.map (BitVec.ofNat 8)) 0 64 ++ le 8 x.written ++ bitBytes 13 x.routers ++ List.replicate 83 0
  a ++ slice (identitySign a) 0 64

/-- A rewrite of the record (R529): SEQ rises, and both copies hold it; the copy of a larder die that has failed stays as it was. -/
def State.rewriteInventory (s : State) (f : Inventory → Inventory) : State :=
  let x := f s.inv
  let x := { x with seq := s.inv.seq + 1, written := s.kcount }
  { s with inv := x, invL0 := if (s.die 80).failed.isNone then { inv := x, ok := true } else s.invL0
           invL1 := if (s.die 81).failed.isNone then { inv := x, ok := true } else s.invL1 }

/-- INVENTORY_READ (R530). -/
def inventoryRead (q : QRef) (s : State) : State :=
  s.command q fun s p => match p.cmd with
    | .inventoryRead dest n =>
      let l := (inventoryBytes s.idKey s.inv ++ slice s.idKey 0 64).take (min n 576)
      (s.hostWrite (s.queue q).port 0 dest l).endCmd q 0 0 l.length
    | _ => s

def execInventoryRead (q : QRef) (s : State) : Out := need (isQueue q) (inventoryRead q s)

end Sys2Proof.Machine
end

