-- ==== Sys2Proof/Machine/Host.lean ====
section
/-! DEFINITION. Chapter 12: the host ports. Configuration requests, roles, link loss and return, resets of a port, PCIe violations, and the status block. -/

namespace Sys2Proof.Machine

/-! ## Configuration space (R344, R346, R347, R558) -/

/-- The device ID of the part's grade (R344). -/
def deviceId (s : State) : Nat := match s.inv.grade with | 0x42 => 0x0B64 | 0x43 => 0x0C64 | _ => 0x0A64

/-- The type bits of a base address register, and the bits that a host may set (R347): 32 MiB, 64-bit; 4 MiB, 64-bit, prefetchable. -/
def barMask (offset : Nat) : Option (Nat × Nat) :=
  match offset with
  | 0x10 => some (0xFE000000, 0x4)
  | 0x14 => some (0xFFFFFFFF, 0)
  | 0x18 => some (0xFFC00000, 0xC)
  | 0x1C => some (0xFFFFFFFF, 0)
  | 0x20 => some (0, 0)
  | 0x24 => some (0, 0)
  | _ => none

/-- A word of configuration space: the bits that a host may set, those that writing 1 clears, the value of the others, and the reset value of the first.
PRESUMED: the capabilities that R345 supports have the formats of the PCI Express specification; DESIGN CHOICE: their places (log entry 95). -/
structure ConfigField where
  rw : Nat := 0
  w1c : Nat := 0
  fixed : Nat := 0
  reset : Nat := 0

def configField (offset : Nat) : ConfigField :=
  match offset with
  -- command and status; the capability list
  | 0x04 => { rw := 0x0546, w1c := 0xF9000000, fixed := 0x00100000 }
  | 0x0C => { rw := 0xFF }
  | 0x34 => { fixed := 0x40 }
  | 0x3C => { rw := 0xFF }
  -- PCI Express capability: FLIT mode, payload to 512 bytes, read request to 4,096, function level reset; no ASPM, no AtomicOps
  | 0x40 => { fixed := 0x80028010 }
  | 0x44 => { fixed := 0x10008022 }
  | 0x48 => { rw := 0x79FF, w1c := 0x000F0000, reset := 0x2810 }
  | 0x4C => { fixed := 0x00000106 }
  | 0x50 => { rw := 0x00C0 }
  | 0x64 => { fixed := 0x00030000 }
  | 0x68 => { rw := 0x1000 }
  -- link capabilities 2 and link control 2: 2.5 to 64 GT/s
  | 0x6C => { fixed := 0x0000007E }
  | 0x70 => { rw := 0x000F, reset := 0x0006 }
  -- MSI-X: 2,048 vectors; its enable and mask are HostPort's
  | 0x80 => { fixed := 0x07FF0011 }
  | 0x84 => { fixed := 0x00010000 }
  | 0x88 => { fixed := 0x00018000 }
  -- AER: status, mask, severity, control (ECRC generation)
  | 0x100 => { fixed := 0x15020001 }
  | 0x104 => { w1c := 0xFFFFFFFF }
  | 0x108 => { rw := 0xFFFFFFFF }
  | 0x10C => { rw := 0xFFFFFFFF, reset := 0x00462030 }
  | 0x110 => { w1c := 0xFFFFFFFF }
  | 0x114 => { rw := 0xFFFFFFFF, reset := 0x2000 }
  | 0x118 => { rw := 0x0140, fixed := 0x00A0 }
  -- ATS; its enable is HostPort's
  | 0x150 => { fixed := 0x1601000F }
  | 0x154 => { rw := 0x001F0000 }
  -- PASID, 20 bits; PTM responder; DOE; IDE: link and 4 selective streams
  | 0x160 => { fixed := 0x1701001B }
  | 0x164 => { rw := 0x00010000, fixed := 0x1400 }
  | 0x170 => { fixed := 0x1801001F }
  | 0x174 => { fixed := 0x2 }
  | 0x178 => { rw := 0x1 }
  | 0x180 => { fixed := 0x1A01002E }
  | 0x1A0 => { fixed := 0x2C010030 }
  | 0x1A4 => { fixed := 0x00030043 }
  -- device 3: 14-bit tags as completer and requester, L0p
  | 0x2C0 => { fixed := 0x0001002F }
  | 0x2C4 => { fixed := 0x0000000E }
  | 0x2C8 => { rw := 0x0000007C }
  | o => match barMask o with
    | some m => { rw := m.1, fixed := m.2 }
    | none => {}

/-- The bits of a configuration word that a host has set, or that errors have set. -/
def HostPort.configBits (h : HostPort) (offset : Nat) : Nat := (tabGet (BitVec.ofNat 64 (configField offset).reset) h.config offset).toNat

/-- The link runs in FLIT mode: at 64 GT/s (R345). -/
def HostPort.flitMode (h : HostPort) : Bool := h.rate == 6
/-- The bits of the tags of the port's requests: 14 in FLIT mode and 10 otherwise, where the host has enabled them (R345). -/
def HostPort.tagBits (h : HostPort) : Nat := if h.flitMode && bit (h.configBits 0x2C8) 2 then 14 else if bit (h.configBits 0x68) 12 then 10 else 8
/-- L0p may narrow the link: in FLIT mode, where the host has enabled it (R345). -/
def HostPort.l0p (h : HostPort) : Bool := h.flitMode && bit (h.configBits 0x2C8) 3
/-- The relaxed-ordering attribute of a DMA: data reads and writes carry it where the host has enabled it; completion records, mirror records and MSI-X
writes, which are no data, never do (R345). -/
def HostPort.relaxed (h : HostPort) (data : Bool) : Bool := data && bit (h.configBits 0x48) 4

/-- A 32-bit word of configuration space. Link status has the trained rate (1 for 2.5 GT/s to 6 for 64 GT/s) and width. -/
def State.configWord (s : State) (p offset : Nat) : Nat :=
  let h := s.hp p
  match offset with
  | 0 => Config.vendorId.toNat + deviceId s * 2 ^ 16
  | 8 => s.inv.stepping % 256 + 0x120000 * 256
  | 0x50 => h.configBits 0x50 + h.rate % 16 * 2 ^ 16 + h.width % 64 * 2 ^ 20
  | 0x70 => h.configBits 0x70 + b2n h.flitMode * 2 ^ 26
  | 0x80 => 0x07FF0011 + b2n h.msixMask * 2 ^ 30 + b2n h.msixEnable * 2 ^ 31
  | 0x154 => h.configBits 0x154 + b2n h.ats * 2 ^ 31
  | o => h.configBits o + (configField o).fixed

/-- The largest payload and read request, in bytes, that the host has set (R345). -/
def HostPort.maxPayload (h : HostPort) : Nat := 128 * 2 ^ min 2 (bits (h.configBits 0x48) 5 3)
def HostPort.maxRead (h : HostPort) : Nat := 128 * 2 ^ min 5 (bits (h.configBits 0x48) 12 3)
/-- ECRC is generated (R345). -/
def HostPort.ecrcOn (h : HostPort) : Bool := bit (h.configBits 0x118) 6

/-- A write to a word of configuration space: a field that a host may not set keeps its value (R360). -/
def configWrite (h : HostPort) (offset v : Nat) : HostPort :=
  let f := configField offset
  let old := h.configBits offset
  let h := { h with config := tabSet h.config offset (BitVec.ofNat 64 (Nat.land v f.rw + Nat.land (Nat.land old f.w1c) (2 ^ 32 - 1 - v))) }
  match offset with
  | 0x80 => { h with msixMask := bit v 30, msixEnable := bit v 31 }
  | 0x154 => { h with ats := bit v 31 }
  | _ => h

/-- The vectors that wait pending and are no longer masked are sent. -/
def State.sendPending (s : State) (p : Nat) : State :=
  let h := s.hp p
  if h.msixMask || !h.msixEnable then s
  else each (tabKeys h.msix fun _ e => e.pending && !e.mask) s fun s i =>
    (s.modHp p fun h => { h with msix := tabSet h.msix i { tabGet {} h.msix i with pending := false } }).raiseVector p i

/-- CONFIG_REQUEST: a read of a word, or a write; a write to a read-only field is ignored (R360). -/
def configRequest (p offset : Nat) (w : Option Word) (s : State) : State :=
  let o := alignTo 4 offset
  if !s.configReady p then s.answer "CRS" p []
  else match w with
    | none => s.answer "CONFIG" p [BitVec.ofNat 64 (s.configWord p o)]
    | some v =>
      if o = 0 || o = 8 then s.answer "CONFIG" p []
      else ((s.modHp p fun h => configWrite h o (v.toNat % 2 ^ 32)).sendPending p).answer "CONFIG" p []

def execConfigRequest (port offset : Nat) (write : Option Word) (s : State) : Out :=
  need (isHostPort port && decide (offset < 4096)) (configRequest port offset write s)

/-! ## Roles (R355, R356) -/

/-- PRIMARY changes: HQ_CAUSE.ROLE and vector 2 on a port. -/
def State.roleCause (s : State) (p : Nat) : State := (s.modHp p fun h => { h with causeRole := true }).raiseVector p 2

/-- HQ_ROLE_WRITE (R355): on the secondary port it is performed only while the primary port's link is down. -/
def hqRoleWrite (p : Nat) (v : Word) (s : State) : State :=
  let n := bits v.toNat 0 1
  if p ≠ s.primary && (s.hp s.primary).up then s.hqErr p .denied
  else if n = s.primary then s
  else (({ s with primary := n } : State).roleCause 0).roleCause 1

def execHqRoleWrite (port : Nat) (value : Word) (s : State) : Out := need (isHostPort port) (s.atPort port (hqRoleWrite port value))

/-! ## Links (R356) -/

/-- PCIE_LINK_DOWN: the port's queues stop fetching, and the other port is told. -/
def pcieLinkDown (p : Nat) (s : State) : State :=
  if !(s.hp p).up then s
  else
    let s := s.modHp p fun h => { h with up := false, rate := 0, width := 0 }
    let s := each s.allQueues s fun s q => if (s.queue q).port = p then s.putQueue q fun x => { x with holdLink := true } else s
    (s.modHp (1 - p) fun h => { h with causePeer := true }).raiseVector (1 - p) 2

def execPcieLinkDown (port : Nat) (s : State) : Out := need (isHostPort port) (pcieLinkDown port s)

/-- FAILOVER_TIMEOUT (R356 step 4): PRIMARY moves to the surviving port; with both links down there is none. -/
def failoverTimeout (p : Nat) (s : State) : State :=
  let o := 1 - p
  if (s.hp p).up || !(s.hp o).up || s.primary ≠ p || !(s.hp o).autoFailover then s
  else (({ s with primary := o } : State).roleCause o).note s.serviceDie 0x0B 356 noCtx (le 2 p ++ le 2 o)

def execFailoverTimeout (port : Nat) (s : State) : Out := need (isHostPort port) (failoverTimeout port s)

/-- PCIE_LINK_UP: the link has trained to a rate and a width (R345). The port's queues stay held; its kernel queue, through which they are resumed, writes the records that it held, each with
its own vector 1, and goes on. -/
def pcieLinkUp (p rate width : Nat) (s : State) : State :=
  if (s.hp p).up || (s.hp p).perstLow || (s.die (96 + p)).failed.isSome then s
  else
    let s := s.modHp p fun h => { h with up := true, rate := rate, width := width }
    match s.queue? (.kernel p) with
    | none => s
    | some x =>
      let s := s.writeHeld (.kernel p)
      let s := each x.records s fun s _ => (s.modHp p fun h => { h with causeDone := true }).raiseVector p 1
      s.modQueue (.kernel p) fun x => fullNow { x with records := [], holdLink := false }

/-- A link rate of R345, 1 (2.5 GT/s) to 6 (64 GT/s), and a width that it trains to. -/
def linkTrains (rate width : Nat) : Bool := decide (1 ≤ rate ∧ rate ≤ 6) && [1, 4, 8, 16].contains width

def execPcieLinkUp (port rate width : Nat) (s : State) : Out := need (isHostPort port && linkTrains rate width) (pcieLinkUp port rate width s)

/-! ## Resets of a port (R359, R549) -/

/-- The contexts that have a queue on a port. -/
def State.portCtxs (s : State) (p : Nat) : List Nat :=
  s.boundCtxs.filter fun c => (s.ctxQueues c).any fun q => (s.queue q).port == p

/-- A port's registers at reset, except HQ_ROLE: its link and front end stay as they are. -/
def resetPort (p : Nat) (h : HostPort) : HostPort :=
  { winSel := 96 + p, up := h.up, perstLow := h.perstLow, ready := h.ready, config := h.config, ats := h.ats, msixEnable := h.msixEnable,
    msixMask := h.msixMask, rate := h.rate, width := h.width }

/-- FUNCTION_LEVEL_RESET. -/
def functionLevelReset (p : Nat) (s : State) : State :=
  let s := each (s.portCtxs p) s fun s c => s.destroy false none c
  let s := s.setQueue (.kernel p) none
  let s : State := { s with sessions := s.sessions.filter fun (x : Session) => x.transport != p,
                            contexts := s.contexts.map fun e => (e.1, e.2.map fun x => if x.port = p then { x with tdi := .unlocked } else x) }
  s.modHp p (resetPort p)

def execFunctionLevelReset (port : Nat) (s : State) : Out := need (isHostPort port) (functionLevelReset port s)

/-- PERST_ASSERT (R549): the PHY is held in reset and the link is down; after start-up it acts as a function level reset. -/
def perstAssert (p : Nat) (s : State) : State :=
  let s := pcieLinkDown p (s.modHp p fun h => { h with perstLow := true })
  if s.phase = 0 then functionLevelReset p s else s

def execPerstAssert (port : Nat) (s : State) : Out := need (isHostPort port) (perstAssert port s)

/-- PERST_RELEASE (R549): the link may train. -/
def execPerstRelease (port : Nat) (s : State) : Out := need (isHostPort port) (s.modHp port fun h => { h with perstLow := false })

/-! ## Violations and DMA (R360, R361) -/

/-- One more error in the port's AER log: an uncorrectable error by its bit in AER's status, fatal or non-fatal as the severity word has that bit. -/
def State.aerLog (s : State) (p n : Nat) : State :=
  s.modHp p fun h =>
    let h := { h with aer := h.aer + 1, config := tabSet h.config 0x104 (BitVec.ofNat 64 (Nat.lor (h.configBits 0x104) (2 ^ n))) }
    if bit (h.configBits 0x10C) n then { h with aerFatal := h.aerFatal + 1 } else { h with aerNonFatal := h.aerNonFatal + 1 }

/-- One more advisory error: bit 13 of AER's correctable status, and the error's own bit of the uncorrectable status. -/
def State.aerAdvise (s : State) (p n : Nat) : State :=
  s.modHp p fun h => { h with
    aer := h.aer + 1, aerAdvisory := h.aerAdvisory + 1,
    config := tabSet (tabSet h.config 0x104 (BitVec.ofNat 64 (Nat.lor (h.configBits 0x104) (2 ^ n)))) 0x110
      (BitVec.ofNat 64 (Nat.lor (h.configBits 0x110) 0x2000)) }

/-- DMA_COMPLETION: the data of a read by the device, as the host's memory gives them; an error or poisoned data are not used. -/
def dmaCompletion (p c a : Nat) (d : Option (List Byte)) (s : State) : State :=
  if (s.ctx? c).isNone then (s.aerLog p 16).hqErr p .unexpected
  else match d with
    | some l => if dmaBarred (s.ctx c) then s.dmaFail p c a else s.hostWrite p (s.space c) a l
    | none => s.dmaFail p c a

def execDmaCompletion (port ctx addr : Nat) (data : Option (List Byte)) (s : State) : Out :=
  need (isHostPort port && isContext ctx) (dmaCompletion port ctx addr data s)

/-- DMA_TIMEOUT: no completion for 50 ms. -/
def execDmaTimeout (port ctx addr : Nat) (s : State) : Out :=
  need (isHostPort port && isContext ctx) (if (s.ctx? ctx).isNone then s else s.dmaFail port ctx addr)

/-- IDE_INTEGRITY_FAIL: stream 0 is link IDE, 1 to 4 the selective streams. The stream is insecure and its key is gone; the TDIs that were locked to it
go to ERROR, and their contexts are faulted, within the limit of R361. -/
def ideIntegrityFail (p i : Nat) (s : State) : State :=
  let s := s.modHp p fun h => { h with insecure := addTo h.insecure i, ide := tabSet h.ide i {} }
  each (s.boundCtxs.filter fun c => (s.ctx c).port == p && (s.ctx c).tdiStream == i && tdiLocked (s.ctx c)) s fun s c =>
    (s.modCtx c fun x => { x with tdi := .error }).dmaFail p c 0

def execIdeIntegrityFail (port stream : Nat) (s : State) : Out := need (isHostPort port && decide (stream < 5)) (ideIntegrityFail port stream s)

/-! ## Status block (R358) -/

def serviceCode : Service → Nat
  | .startUp => 0 | .normal => 1 | .hatch => 2 | .stopped => 3

def keeperCode : KeeperSt → Nat
  | .off => 0 | .booting => 1 | .active => 2 | .standby => 3 | .failed => 4 | .resetting => 5

/-- The block as the serving unit would write it now. -/
def State.statusNow (s : State) : StatusBlock :=
  { stamp := s.kcount, service := serviceCode s.service, phase := s.phase, k0 := keeperCode s.keeper0, k1 := keeperCode s.keeper1,
    ports := b2n s.host0.up + 2 * b2n s.host1.up + 4 * s.primary, lastFault := s.lastFault, activeCores := s.activeCores.length,
    contexts := (s.boundCtxs.filter s.isBound).length, lastFaultCount := s.lastFaultCount,
    epoch := if (s.die s.serviceDie).tb.epochSet then (s.die s.serviceDie).tb.epoch else 0 }

/-- STATUS_BLOCK_REWRITE. -/
def execStatusBlockRewrite (s : State) : Out := need true { s with block := s.statusNow }

/-- The bytes of the block as stored. -/
def blockBytes (b : StatusBlock) : List Byte :=
  le 8 b.stamp ++ le 1 b.service ++ le 1 b.phase ++ le 1 b.k0 ++ le 1 b.k1 ++ le 1 b.ports ++ le 3 0 ++ le 2 b.lastFault ++ le 2 b.activeCores ++ le 2 b.contexts ++
    le 2 0 ++ le 8 b.lastFaultCount ++ le 8 b.epoch

end Sys2Proof.Machine
end

