-- ==== Sys2Proof/Machine/Firmware.lean ====
section
/-! DEFINITION. Chapter 18, firmware: copies of images in the larder system area, their validity, anti-rollback counters, and what each loader runs.
The key of a copy is kind × 4 + slot × 2 + larder die; the key of a loader is the kind, and 5 for the keeper image of K1. -/

namespace Sys2Proof.Machine

/-- SVN and FLOOR of an image (R523). -/
def imageSvn (l : List Byte) : Nat := fieldAt l 8 4
def imageFloor (l : List Byte) : Nat := fieldAt l 12 4

def fwSvn (x : FwCopy) : Nat := imageSvn x.bytes

/-- An anti-rollback counter reads as the larger of its two copies (R525). -/
def State.svn (s : State) (kind : Nat) : Nat := max (tabGet 0 s.svn0 kind) (tabGet 0 s.svn1 kind)

/-- Both copies of a counter. -/
def State.setSvn (s : State) (kind v : Nat) : State := { s with svn0 := tabSet s.svn0 kind v, svn1 := tabSet s.svn1 kind v }

/-- The copies of a kind in the order of preference: slot A before B, L0 before L1. -/
def fwKeys (kind : Nat) : List Nat := (List.range 4).map (4 * kind + ·)

def State.fwCopy (s : State) (k : Nat) : FwCopy := tabGet {} s.fw k

/-- A copy is valid (R524). -/
def State.fwValid (s : State) (k : Nat) : Bool :=
  let x := s.fwCopy k
  !x.bytes.isEmpty && (s.die (80 + k % 2)).failed.isNone && x.sigOk && x.digestOk && decide (s.svn (k / 4) ≤ fwSvn x)

/-- The copy that the loader runs: of the valid ones, the highest SVN, the first in order among equals. -/
def State.fwPick (s : State) (kind : Nat) : Option Nat :=
  ((fwKeys kind).filter s.fwValid).foldl (fun a k => match a with
    | some b => if fwSvn (s.fwCopy b) < fwSvn (s.fwCopy k) then some k else some b
    | none => some k) none

/-- The faults that the loader raises about the copies of a kind (R524). -/
def State.fwFaults (s : State) (kind : Nat) : State :=
  each ((fwKeys kind).filter fun k => !(s.fwCopy k).bytes.isEmpty && (s.die (80 + k % 2)).failed.isNone) s fun s k =>
    let x := s.fwCopy k
    if !x.sigOk || !x.digestOk then s.raise s.keeperDie fFwAuth [] []
    else if fwSvn x < s.svn kind then s.raise s.keeperDie fFwRollback [] []
    else s

/-- The image of a kind begins to run on a loader: the copy picked, or none. -/
def State.runImage (s : State) (loader kind : Nat) : State :=
  { s with fwRunning := tabSet s.fwRunning loader ((s.fwPick kind).map fun k => { key := k, bytes := (s.fwCopy k).bytes }) }

/-- The loader looks at the copies of a kind and runs what it picks. -/
def State.loadKind (s : State) (kind : Nat) : State := (s.fwFaults kind).runImage kind kind

/-- The image that runs on a loader. -/
def State.running (s : State) (loader : Nat) : Option FwRun := tabGet none s.fwRunning loader

/-- The loader of a keeper. -/
def keeperLoader (k : Nat) : Nat := if k = 0 then 1 else 5

/-- The loader whose image of a kind is meant: for keeper images, the active keeper's. -/
def State.loaderOf (s : State) (kind : Nat) : Nat := if kind = 1 then keeperLoader (s.holder.getD 0) else kind

/-- The slot of the active keeper's image: 0 A, 1 B (SC_STATUS.BOOT_SLOT). -/
def State.bootSlot (s : State) : Nat := match s.running (s.loaderOf 1) with
  | some r => r.key / 2 % 2
  | none => 0

/-- The digest of the image that runs on a loader; zero where none runs. -/
def State.fwDigest (s : State) (loader : Nat) : List Byte := match s.running loader with
  | some r => sha256 r.bytes
  | none => List.replicate 32 0

end Sys2Proof.Machine
end

