-- ==== Sys2Proof/Machine/Ledger.lean ====
section
/-! DEFINITION. Chapter 20: the merged ledger, its order, its merge runs, and its rebuilding after a takeover. -/

namespace Sys2Proof.Machine

/-- The ledger order (R567): entries flagged PRE_EPOCH first; within each group by COUNT, then DIE, then SEQ. -/
def ledgerBefore (a b : LedgerEntry) : Bool :=
  if a.preEpoch != b.preEpoch then a.preEpoch
  else if a.count ≠ b.count then decide (a.count < b.count)
  else if a.die ≠ b.die then decide (a.die < b.die)
  else decide (a.seq ≤ b.seq)

/-- A run at count `n` takes an entry of a die (R566): flagged PRE_EPOCH, 20,000 counts after the die's epoch load, or by the horizon before that load;
any other by the horizon. -/
def merges (n : Nat) (t : TimeBase) (e : LedgerEntry) : Bool :=
  if e.preEpoch && t.epochSet then decide (t.epoch + 20000 ≤ n) else decide (e.count + 20000 < n)

/-- Consecutive SEQs as runs of first and last. -/
def seqRuns : List Nat → List (Nat × Nat)
  | [] => []
  | q :: t => match seqRuns t with
    | (a, b) :: r => if q + 1 = a then (q, b) :: r else (q, q) :: (a, b) :: r
    | [] => [(q, q)]

/-- The gap entries of a die that lost entries which no run had merged (R565). -/
def gapEntries (d : Nat) (l : Ledger) : List LedgerEntry :=
  let head := l.ring.head?.getD {}
  (seqRuns l.lostSeqs).map fun r => { count := head.count, seq := r.1, die := d, kind := 0x09, preEpoch := head.preEpoch, detail := le 8 r.1 ++ le 8 r.2 }

/-- The entries of a die that a run takes. -/
def takenBy (n : Nat) (t : TimeBase) (l : Ledger) : List LedgerEntry := l.ring.filter fun e => l.unmerged.contains e.seq && merges n t e

/-- The later of two counts kept as options. -/
def laterCount (a : Option Nat) (n : Nat) : Option Nat := match a with
  | some m => some (max m n)
  | none => some n

/-- The merged ledger holds 262,144 entries; the oldest beyond that are dropped, and the COUNT of the newest dropped is kept (R566, R568). -/
def State.putMerged (s : State) (l : List LedgerEntry) : State :=
  let over_ := l.length - 262144
  { s with merged := l.drop over_, dropped := (l.take over_).foldl (fun a e => laterCount a e.count) s.dropped }

/-- The part of a run on one die: its gap entries and the entries taken join the merged ledger, and the merge position moves. -/
def State.mergeDie (s : State) (n d : Nat) : State :=
  let l := (s.die d).ledger
  let new := takenBy n (s.die d).tb l
  let gaps := gapEntries d l
  if new.isEmpty && gaps.isEmpty then s
  else
    let done := new.map (·.seq)
    let s := s.modDie d fun x => { x with ledger := { x.ledger with
      unmerged := x.ledger.unmerged.filter fun q => !done.contains q, lostSeqs := [], mergedTo := done.foldl laterCount x.ledger.mergedTo } }
    s.putMerged ((gaps ++ new).foldl (fun m e => insertBy ledgerBefore e m) s.merged)

/-- LEDGER_MERGE (R566): the active keeper takes from every die that answers what lies below the horizon, and journals its position. -/
def ledgerMerge (s : State) : State :=
  if s.holder.isNone then s
  else
    let n := s.count s.keeperDie
    (each (dieList.filter fun d => !(s.die d).railOff) s fun s d => s.mergeDie n d).journalRec 8 n

def execLedgerMerge (s : State) : Out := need true (ledgerMerge s)

/-- The entries of a die that a new active keeper finds again (R566): those merged, from the journalled position less 4,096 on. -/
def foundAgain (l : Ledger) : List LedgerEntry :=
  l.ring.filter fun e => !l.unmerged.contains e.seq && decide (l.mergedTo.getD 0 < e.seq + 4096)

/-- After a takeover the merged ledger is built again from the rings; the COUNT of the newest entry found absent is kept (R566, R568). -/
def State.rebuildMerged (s : State) : State :=
  let new := sortBy ledgerBefore ((dieList.filter fun d => !(s.die d).railOff).flatMap fun d => foundAgain (s.die d).ledger)
  let gone := s.merged.filter fun e => !new.contains e
  { s with merged := new, dropped := gone.foldl (fun a e => laterCount a e.count) s.dropped }

end Sys2Proof.Machine
end

