-- ==== Sys2Proof/Machine/Links.lean ====
section
/-! DEFINITION. Chapter 14: the optical ports. Training, identification, frames and their checks, retry, credits, rekeying and fault injection. -/

namespace Sys2Proof.Machine

/-! ## Codes -/

/-- STATE of LK_STATUS (R435). -/
def portCode : PortSt → Nat
  | .down => 0 | .dark => 1 | .signal => 2 | .align => 3 | .identify => 4 | .up => 5 | .held => 6 | .failed => 7

/-- Why a port leaves UP (R428); the numbers are the model's, in the entry's DETAIL. -/
inductive Cause where
  | hold | light | retry | fctr | identity | violation | retrain | disable | partner | training | service
  deriving DecidableEq, Repr

def causeCode : Cause → Nat
  | .hold => 1 | .light => 2 | .retry => 3 | .fctr => 4 | .identity => 5 | .violation => 6 | .retrain => 7 | .disable => 8 | .partner => 9 | .training => 10
  | .service => 11

/-- Every departure but HOLD, RETRAIN and ENABLE = 0, and a partner's DOWN, raises F_LINK_DOWN (R428, R429). -/
def causeFaults : Cause → Bool
  | .hold | .retrain | .disable | .partner => false
  | _ => true

/-- MGMT kinds (R424). -/
def mgHello : Nat := 1
def mgIdent : Nat := 2
def mgConfirm : Nat := 3
def mgEcho : Nat := 4
def mgEchoReply : Nat := 5
def mgRekey : Nat := 6
def mgRekeyAck : Nat := 7
def mgDown : Nat := 8

/-- The KIND of an MGMT payload. -/
def kindOf (f : Frame) : Nat := ofBe (slice f.payload 0 2)

/-! ## Ports -/

/-- In DOWN, DARK and FAILED no receive lane is locked. -/
def noLanes (st : PortSt) : Bool := st == .down || st == .dark || st == .failed

/-- An entry and the new state (R420, R562). -/
def State.setPortSt (s : State) (p : Nat) (st : PortSt) : State :=
  if (s.port p).st = st then s
  else (s.noteState (88 + p) 2 p (portCode (s.port p).st) (portCode st)).modPort p fun x => { x with st := st, lanes := if noLanes st then 0 else x.lanes }

/-- The port's lasers are on (R420, R435): ENABLE = 0 turns them off, and a port that HOLD keeps down leaves them on. -/
def lasersOn (x : Port) : Bool := x.enable

/-- The frames that a port sends in each state, by TYPE (R420); in the others it sends training patterns, or nothing. -/
def maySend (st : PortSt) (ftype : Nat) : Bool :=
  match st with
  | .align | .held => ftype == 0
  | .identify => ftype == 0 || ftype == 3
  | .up => true
  | .down | .dark | .signal | .failed => false

/-- The keys of a port are destroyed. -/
def dropKeys (x : Port) : Port :=
  { x with txKey := [], rxKey := [], oldRxKey := [], oldTxKey := [], oldTxFctr := 0, rekeySeq := none, rekey := .idle, rekeyNonce := [], rekeyEph := [], rekeyAsked := none, downWaits := false, txFctr := 0, rxFctr := none, oldRxFctr := none,
           keyPhase := false, rxPhase := false, ident := {} }

/-- Frames still held go back to the transport, with their SEQ values (R416); sequence numbers and credits start afresh with the next UP. -/
def handBack (x : Port) : Port :=
  { x with handedBack := x.handedBack ++ x.replay, replay := [], resends := [], txSeq := 0, rxSeq := 0, holdTimer := false, nakAt := none,
           reordered := none, credits := [64, 512, 2048, 64], owed := [0, 0, 0, 0] }

/-- A port begins training from DARK. -/
def toDark (x : Port) : Port := { x with trainings := stick 8 (x.trainings + 1), retrainInPlace := false, reason := 0 }

/-- A port leaves UP for state `dest` (R428): an entry with the cause, F_LINK_DOWN unless the cause is one of those that raise none; its traffic is rerouted
(R459), and ALIGNED clears where it is the port toward the time parent (R468). -/
def State.leaveUp (s : State) (p : Nat) (cause : Cause) (dest : PortSt) : State :=
  let s := s.note (88 + p) 0x0B 428 noCtx (le 2 p ++ le 1 (causeCode cause))
  let s := if causeFaults cause then s.raise (88 + p) fLinkDown [] (le 2 p ++ le 1 (causeCode cause)) else s
  let s := (s.setPortSt p dest).modPort p fun x => handBack (dropKeys x)
  let s := if s.time.enable && !s.time.root && s.time.parent = p then
      ({ s with time := { s.time with depth := 0xFF, good := 0, outstanding := none } } : State).setAligned false else s
  s.routesDown p

/-- A port goes to DARK and trains again (R420). -/
def State.trainAgain (s : State) (p : Nat) (cause : Cause) : State :=
  let s := if portUp (s.port p) then s.leaveUp p cause .dark else (s.setPortSt p .dark).modPort p dropKeys
  s.modPort p toDark

/-! ## Lanes (R406, R421, R422) -/

/-- The lane groups of a width code (0 is 16, 1 is 8, 2 is 4), as first lane and lanes. -/
def laneGroups (w : Nat) : List (Nat × Nat) :=
  match w with
  | 0 => [(0, 16)]
  | 1 => [(0, 8), (8, 8)]
  | _ => [(0, 4), (4, 4), (8, 4), (12, 4)]

/-- Every lane of a group is set in a mask. -/
def groupLit (m : BitVec 16) (g : Nat × Nat) : Bool := (List.range g.2).all fun i => m.getLsbD (g.1 + i)

/-- Some lane group of R406 is set whole. -/
def anyGroup (m : BitVec 16) : Bool := (laneGroups 2).any (groupLit m)

/-- The widest width no narrower than `minW` with a group locked at both ends, and its lowest group (R406). -/
def chooseWidth (minW : Nat) (m : BitVec 16) : Option (Nat × Nat) :=
  (((List.range 3).filter (· ≤ minW)).filterMap fun w => ((laneGroups w).find? (groupLit m)).map fun g => (w, g.1)).head?

/-- LIGHT_GAIN (R421): light on some lanes. Where there was none before, training counts its bounds anew, and a held or failed port trains again. -/
def lightGain (p : Nat) (lanes : BitVec 16) (s : State) : State :=
  let x := s.port p
  let dark := !anyGroup x.light
  let s := s.modPort p fun x => { x with light := x.light ||| lanes, misses := if dark then 0 else x.misses, seen := if dark then false else x.seen }
  if dark && anyGroup (x.light ||| lanes) && (x.st == .held || x.st == .failed) then s.trainAgain p .light else s

def execLightGain (port : Nat) (lanes : BitVec 16) (s : State) : Out := need (isPort port) (lightGain port lanes s)

/-- LANE_LOCK (R421, R435): lit lanes lock, and a port in DARK whose locked lanes make a group goes to SIGNAL. -/
def laneLock (p : Nat) (lanes : BitVec 16) (s : State) : State :=
  let x := s.port p
  let l := x.lanes ||| (lanes &&& x.light)
  if x.st = .down || x.st = .failed then s
  else (if x.st = .dark && anyGroup l then s.setPortSt p .signal else s).modPort p fun x => { x with lanes := l }

def execLaneLock (port : Nat) (lanes : BitVec 16) (s : State) : Out := need (isPort port) (laneLock port lanes s)

/-- A transition has missed its bound, or no width serves (R421): back to DARK, and on the third return since light was gained to FAILED with
F_LINK_DOWN. -/
def State.missBound (s : State) (p : Nat) : State :=
  let n := (s.port p).misses + 1
  let s := if portUp (s.port p) then s.leaveUp p .training .dark else s
  let s := s.modPort p fun x => { dropKeys x with misses := n, retrainInPlace := false }
  if n < 3 then (s.setPortSt p .dark).modPort p toDark
  else (s.setPortSt p .failed).raise (88 + p) fLinkDown [] (le 2 p ++ le 1 (causeCode .training))

/-! ## Frames as bytes (R407, R409) -/

/-- A payload of 968 bytes. -/
def pad968 (l : List Byte) : List Byte := slice l 0 968

/-- Bytes 0 to 31 of a frame. -/
def frameHeader (f : Frame) : List Byte :=
  be 1 f.ftype ++ be 1 (f.cls % 4 + 4 * b2n f.enc + 8 * b2n f.keyPhase + 16 * b2n f.replay) ++ be 2 f.len ++ be 4 f.seq.toNat ++ be 4 f.ack.toNat ++
    (List.range 4).map (fun i => BitVec.ofNat 8 (f.credit.getD i 0)) ++ be 8 f.count.toNat ++ be 8 f.fctr

/-- One bit-serial step of the CRC of R408: the register, and the bit that enters it. -/
def crcStep (r : Word) (b : Bool) : Word := if r.msb != b then (r <<< 1) ^^^ 0x42F0E1EBA9EA3693 else r <<< 1

/-- The CRC-64 of R408: from all ones, each byte from bit 7 down, inverted at the end. -/
def crc64 (l : List Byte) : Word :=
  ~~~ (l.foldl (fun r b => (List.range 8).foldl (fun r i => crcStep r (b.getLsbD (7 - i))) r) (BitVec.allOnes 64))

/-- The initialisation vector of a direction (R409). -/
def linkIv (pkg port fctr : Nat) : List Byte := be 2 (pkg % 2 ^ 14) ++ be 1 port ++ be 1 0 ++ be 8 fctr

/-- One byte of a payload inverted (R432). -/
def flip32 (f : Frame) : Frame := { f with payload := f.payload.set 32 (~~~ (f.payload.getD 32 0)) }

/-- The 1,024 bytes of a frame on the lanes (R407, R408). The only frame that a port sends with a CRC that does not match is one that injection corrupted after its
CRC was computed (R432); of a received frame, `crcOk` says that its CRC is this one. -/
def wireBytes (f : Frame) : List Byte :=
  let cover := fun (f : Frame) => frameHeader f ++ pad968 f.payload ++ slice f.tag 0 16
  cover f ++ be 8 (crc64 (cover (if f.crcOk then f else flip32 f))).toNat

/-- The lane that carries a byte of a frame at a width code, counted from the group's first lane (R407). -/
def laneOf (width j : Nat) : Nat := j / 8 % (16 / 2 ^ width)

/-! ## Sending (R408 to R415, R418, R432) -/

/-- Frames leave encrypted: from the port's first CONFIRM onward (R409). -/
def encOn (x : Port) : Bool := !x.txKey.isEmpty && (portUp x || x.ident.confirmSent)

/-- A sequenced frame goes under the keys before a rekey: the REKEY_ACK, and what came before it, when they are sent again (R412, R415). -/
def oldPhase (x : Port) (f : Frame) : Bool :=
  !x.oldTxKey.isEmpty && f.ftype != 0 && f.ftype != 2 && (x.rekeySeq.map fun q => decide ((q - f.seq).toNat < 2 ^ 31)).getD false

/-- A frame as the port puts it on the lanes now: ACK, credits, FCTR, and, with keys, encrypted and tagged. -/
def State.dress (s : State) (p : Nat) (f : Frame) : Frame :=
  let x := s.port p
  let old := oldPhase x f
  let n := if old then x.oldTxFctr else x.txFctr
  let f := { f with ack := x.rxSeq, credit := x.owed, enc := encOn x, keyPhase := x.keyPhase != old, fctr := if encOn x then n else 0, crcOk := true }
  if !encOn x then { f with payload := pad968 f.payload }
  else
    let r := gcmSeal (if old then x.oldTxKey else x.txKey) (linkIv s.pkgId p n) (frameHeader f) (pad968 f.payload)
    { f with payload := r.1, tag := r.2 }

/-- A dressed frame spends a count of its key's frame counter. -/
def spendFctr (f : Frame) (x : Port) : Port :=
  if !f.enc then x else if f.keyPhase = x.keyPhase then { x with txFctr := x.txFctr + 1 } else { x with oldTxFctr := x.oldTxFctr + 1 }

/-- A dressed frame leaves the port, where the port's state sends frames of its type (R420); the credits owed have been returned. -/
def State.onLanes (s : State) (p : Nat) (f : Frame) : State :=
  if !maySend (s.port p).st f.ftype then s
  else { s.modPort p fun x => { spendFctr f x with owed := [0, 0, 0, 0] } with frameOut := s.frameOut ++ [(p, f)] }

/-- An injection entry: port, settings (R432). -/
def State.noteInject (s : State) (p : Nat) : State :=
  let x := s.port p
  s.note (88 + p) 0x0B 432 noCtx (le 2 p ++ le 1 (b2n x.injArm) ++ le 1 (b2n x.injDir) ++ le 1 x.injKind ++ le 1 x.classes.toNat ++ le 4 x.period ++ le 2 x.limit ++
    le 2 x.injected)

/-- An eligible frame is counted in a direction; the answer says whether the port acts on it. INJECTED rises, and ARM clears at LIMIT (R432). -/
def State.injects (s : State) (p : Nat) (rx : Bool) (f : Frame) : State × Bool :=
  let x := s.port p
  if x.injArm && x.injDir == rx && f.ftype == 1 && x.classes.getLsbD f.cls then
    let n := x.injSeen + 1
    let act := n % x.period == 0
    let inj := if act then stick 16 (x.injected + 1) else x.injected
    let clear := act && x.limit != 0 && x.limit ≤ inj
    let s := s.modPort p fun x => { x with injSeen := n, injected := inj, injArm := x.injArm && !clear }
    (if clear then s.noteInject p else s, act)
  else (s, false)

/-- Injection holds a frame for reordering (R432). -/
def holdFrame (f : Frame) (x : Port) : Port := { x with reordered := some f }

/-- A frame that transmit-side reordering held follows the frame that has just been taken to be sent (R432), and takes its FCTR and credits then. -/
def State.sendReordered (s : State) (p : Nat) : State :=
  match (s.port p).injDir, (s.port p).reordered with
  | false, some h =>
    let s := s.modPort p fun x => { x with reordered := none }
    s.onLanes p (s.dress p h)
  | _, _ => s

/-- A sequenced frame goes out, through injection on the transmit side (R432). A frame that reordering holds is sent after the next sequenced frame: where that
one is held too, in its place (DESIGN CHOICE, log entry 119), so that reordering alone never keeps frames from the partner (R433). -/
def State.sendRaw (s : State) (p : Nat) (f : Frame) : State :=
  let r := s.injects p false f
  let s := r.1
  if r.2 then
    match (s.port p).injKind with
    | 0 => s.sendReordered p
    | 1 => (s.onLanes p { flip32 (s.dress p f) with crcOk := false }).sendReordered p
    | 2 => (s.sendReordered p).modPort p (holdFrame f)
    | _ => (s.onLanes p (flip32 (s.dress p f))).sendReordered p
  else (s.onLanes p (s.dress p f)).sendReordered p

/-- A frame before it is dressed. -/
def State.newFrame (s : State) (p ftype cls len : Nat) (seq : BitVec 32) (payload : List Byte) : Frame :=
  { ftype := ftype, cls := cls, enc := false, keyPhase := false, replay := false, len := len, seq := seq, ack := 0, credit := [], fctr := 0,
    count := BitVec.ofNat 64 (s.count (88 + p)), payload := pad968 payload, tag := List.replicate 16 0, crcOk := true }

/-- An IDLE, or a NAK whose ACK names the SEQ expected: neither takes a SEQ (R414). -/
def State.sendIdle (s : State) (p : Nat) : State := s.onLanes p (s.dress p (s.newFrame p 0 0 0 0 []))
def State.sendNak (s : State) (p : Nat) : State := s.onLanes p (s.dress p (s.newFrame p 2 0 0 0 []))

/-- A port is held with a reason of LK_STATUS (R427, R434), and sends IDLE with ENC = 0 (R420); from UP it also departs under R428. One IDLE stands for those that
a port sends while it has nothing else to send (DESIGN CHOICE, log entry 15). -/
def State.holdPort (s : State) (p reason : Nat) (cause : Cause) : State :=
  let s := if portUp (s.port p) then s.leaveUp p cause .held else (s.setPortSt p .held).modPort p dropKeys
  (s.modPort p fun x => { x with reason := reason, retrainInPlace := false }).sendIdle p

/-- FRAME_ALIGN (R406, R422): FEC and deskew lock, the width is chosen, and the port goes to ALIGN, where it sends IDLE (R420); a retraining in place goes back to UP and replays. -/
def frameAlign (p : Nat) (partner : BitVec 16) (reversed : Bool) (s : State) : State :=
  let x := s.port p
  if x.st ≠ .signal then s
  else match chooseWidth (min 2 x.minWidth) (x.lanes &&& partner) with
    | none => s.missBound p
    | some (w, g) =>
      let s := s.modPort p fun x => { x with width := w, group := g, reversed := reversed }
      if x.retrainInPlace then
        let s := if w ≠ x.width then s.note (88 + p) 0x0B 422 noCtx (le 2 p ++ le 1 x.width ++ le 1 w) else s
        (s.setPortSt p .up).modPort p fun x => { x with retrainInPlace := false, replay := x.replay.map fun f => { f with replay := true } }
      else (s.setPortSt p .align).sendIdle p

/-- A sequenced frame of a class can be sent: there is room in the replay buffer, and a credit (R415, R418). -/
def sendable (x : Port) (c : Nat) : Bool := decide (x.replay.length < 4096) && decide (0 < x.credits.getD c 0)

/-- A sequenced frame after UP: it spends a credit of its class, takes the next SEQ and stays in the replay buffer until an ACK passes it (R414, R415, R418). -/
def State.sendSeq (s : State) (p ftype cls len : Nat) (payload : List Byte) : State :=
  let x := s.port p
  let f := s.newFrame p ftype cls len x.txSeq payload
  ((s.modPort p fun x => { x with txSeq := x.txSeq + 1, replay := x.replay ++ [f], credits := x.credits.set cls (x.credits.getD cls 0 - 1) }).perfAdd
    (88 + p) 0 1).sendRaw p f

/-- An MGMT message, sequenced once the port is UP. -/
def State.sendMgmt (s : State) (p kind : Nat) (body : List Byte) : State :=
  let l := be 2 kind ++ body
  if (s.port p).st = .up then s.sendSeq p 3 0 l.length l else s.onLanes p (s.dress p (s.newFrame p 3 0 l.length 0 l))

/-- A packet as bytes (R446). -/
def packetBytesOf (p : Packet) : List Byte :=
  be 1 p.ptype ++ be 1 (p.cls % 4 + 4 * (p.route % 4) + 16 * b2n p.retransmit) ++ be 2 p.len ++ be 2 p.srcPkg ++ be 2 p.dstPkg ++ be 4 p.flow ++
    be 4 p.psn.toNat ++ be 8 p.addr.toNat ++ be 8 p.stamp.toNat ++ p.data

/-- The packets that share the first frame: those of the first's class that follow it in the queue, whole, up to 968 bytes (R446). -/
def packFrame : List Packet → Nat → List Packet
  | [], _ => []
  | p :: t, room => if p.data.length + 32 ≤ room then p :: packFrame t (room - p.data.length - 32) else []

/-- The transport lane of the next frame slot: one slot for each count (DESIGN CHOICE, log entry 15), 16 to a cycle (R449). -/
def State.slotLane (s : State) : Nat := s.now % 16

/-- The job that a lane of a port is reserved to; none where it is shared (R450). -/
def laneJob (x : Port) (i : Nat) : Option Nat := (tabGet none x.lanesOwned i).map fun _ => tabGet 0 x.laneJobs i

/-- A packet of class 1 rides reserved lanes: it is on route 0, where its job has lanes of the port. On an alternate (R460), and where its job has none, as
an answer that goes back against a path, it rides shared lanes after class 0 (DESIGN CHOICE for the second, log entry 120). -/
def State.ridesOwn (s : State) (x : Port) (q : Packet) : Bool :=
  q.route == 0 && (List.range 15).any fun i => laneJob x i == s.packetJob q && (laneJob x i).isSome

/-- Class 3 has not been served for 80 slots: its turn comes before those of classes 0 to 2, so that it has 1 % of the frames over any 10 µs (R25). -/
def State.mgmtDue (s : State) (x : Port) : Bool := decide (x.cls3At + 80 ≤ s.now)

/-- Who may send in a slot of a lane, in order (R25, R450). A shared lane: class 0, class 1 that has no lanes of its own, classes 2 and 3, with class 3 first when
its guarantee is due. A reserved one: classes 1, 2 and 3 of its owner, then classes 2 and 3 of any other job, which take a slot that the owner leaves empty. -/
def State.laneTurns (s : State) (x : Port) (i : Nat) : List (Packet → Bool) :=
  match laneJob x i with
  | none => [fun q => q.cls == 3 && s.mgmtDue x, fun q => q.cls == 0, fun q => q.cls == 1 && !s.ridesOwn x q, fun q => q.cls == 2, fun q => q.cls == 3]
  | some j =>
    let own := fun (q : Packet) => s.packetJob q == some j
    [fun q => q.cls == 1 && own q && s.ridesOwn x q, fun q => q.cls == 2 && own q, fun q => q.cls == 3 && own q, fun q => q.cls == 2, fun q => q.cls == 3]

/-- The port sends one DATA frame of the packets waiting in the next frame slot: of the first turn of the slot's lane with a packet whose class holds a credit (R25,
R418, R450), while the replay buffer has room and no HOLD waits. A replay takes every slot, before any new frame. A hot die holds classes 2 and 3, and one that
has tripped everything (R490, R491). -/
def State.transmit (s : State) (p : Nat) : State :=
  let x := s.port p
  let mine := (s.packetOut.filter fun e => e.1 == p).map (·.2)
  if x.st ≠ .up || x.holdTimer || mine.isEmpty || (s.die (88 + p)).tripped then s
  else match ((s.laneTurns x s.slotLane).map fun f => mine.filter fun q => f q && sendable x q.cls && !(2 ≤ q.cls && (s.die (88 + p)).heldTraffic)).find? fun l => !l.isEmpty with
    | none => s
    | some fit =>
      let c := (fit.map (·.cls)).headD 0
      let l := packFrame fit 968
      let rest := s.packetOut.filter fun e => !(e.1 == p && l.contains e.2)
      let body := l.flatMap packetBytesOf
      (({ s with packetOut := rest } : State).modPort p fun x => { x with cls3At := if c = 3 then s.now else x.cls3At }).sendSeq p 1 c body.length body

/-! ## Retry (R415) -/

/-- How often a SEQ has been resent. -/
def resent (x : Port) (q : BitVec 32) : Nat := tabGet 0 x.resends q.toNat

/-- Resend every held frame in order; a SEQ already resent 32 times takes the port out of UP (R415). -/
def State.replayAll (s : State) (p : Nat) : State :=
  let x := s.port p
  if x.replay.isEmpty then s
  else if x.replay.any fun f => decide (32 ≤ resent x f.seq) then (s.leaveUp p .retry .dark).modPort p toDark
  else
    let l := x.replay.map fun f => { f with replay := true }
    let s := s.modPort p fun x => { x with
      replays := stick 16 (x.replays + 1), replay := l,
      resends := l.foldl (fun t f => tabSet t f.seq.toNat (tabGet 0 t f.seq.toNat + 1)) x.resends }
    each l (s.perfAdd (88 + p) 2 l.length) fun s f => s.sendRaw p f

def execFrameAlign (port : Nat) (partner : BitVec 16) (reversed : Bool) (s : State) : Out :=
  need (isPort port) (
    let back := (s.port port).retrainInPlace
    let s := frameAlign port partner reversed s
    if back && (s.port port).st == .up then s.replayAll port else s)

/-- REPLAY_TIMEOUT (R415). -/
def execReplayTimeout (port : Nat) (s : State) : Out := need (isPort port) (if (s.port port).st = .up then s.replayAll port else s)

/-- TRAINING_BOUND_MISS (R421): the bound of ALIGN to UP runs only while a keeper is active (R431). -/
def trainingBoundMiss (p : Nat) (s : State) : State :=
  match (s.port p).st with
  | .dark => if anyGroup (s.port p).light then s.missBound p else s
  | .signal => s.missBound p
  | .align | .identify => if s.holder.isSome then s.missBound p else s
  | _ => s

def execTrainingBoundMiss (port : Nat) (s : State) : Out := need (isPort port) (trainingBoundMiss port s)

/-- LIGHT_LOSS (R422): UP and IDENTIFY go to DARK with F_LINK_DOWN, their keys discarded; SIGNAL and ALIGN go to DARK. -/
def lightLoss (p : Nat) (s : State) : State :=
  let st := (s.port p).st
  let up := portUp (s.port p)
  let s := s.modPort p fun x => { x with light := 0, lanes := 0, seen := false }
  if up then s.trainAgain p .light
  else match st with
    | .identify => (s.trainAgain p .light).raise (88 + p) fLinkDown [] (le 2 p ++ le 1 (causeCode .light))
    | .signal | .align => s.trainAgain p .light
    | _ => s

def execLightLoss (port : Nat) (s : State) : Out := need (isPort port) (lightLoss port s)

/-- LANE_GROUP_LOSS (R422): a port in UP whose group is no longer whole retrains in place from SIGNAL while some group keeps light; one that already retrains goes on
with the lanes that are left. With no group whole, some lanes lit, it is taken as having lost its light (DESIGN CHOICE, log entry 97). -/
def laneGroupLoss (p : Nat) (lanes : BitVec 16) (s : State) : State :=
  let x := s.port p
  if !portUp x then s
  else
    let s := s.modPort p fun x => { x with light := lanes, lanes := lanes }
    if x.st = .up && groupLit lanes (x.group, 16 / 2 ^ x.width) then s
    else if !anyGroup lanes then lightLoss p s
    else if x.retrainInPlace then s
    else (s.setPortSt p .signal).modPort p fun x => { x with retrainInPlace := true, trainings := stick 8 (x.trainings + 1) }

def execLaneGroupLoss (port : Nat) (lanes : BitVec 16) (s : State) : Out := need (isPort port) (laneGroupLoss port lanes s)

/-! ## LK_CTRL (R420, R421, R429, R431) -/

/-- LK_ENABLE: a write of LK_CTRL.ENABLE. -/
def lkEnable (p : Nat) (b : Bool) (s : State) : State :=
  let s := s.modPort p fun x => { x with enable := b }
  let x := s.port p
  if b then (if x.st = .down && !x.hold then (s.setPortSt p .dark).modPort p toDark else s)
  else
    let s := if portUp x then s.leaveUp p .disable .down else (s.setPortSt p .down).modPort p dropKeys
    s.modPort p fun x => { x with retrainInPlace := false, reason := 0 }

def execLkEnable (port : Nat) (bit : Bool) (s : State) : Out := need (isPort port) (lkEnable port bit s)

/-- A port in UP that HOLD takes down sends DOWN and waits for its replay buffer to empty; with the buffer full, or no credit, DOWN waits too (R415, R418, R429). -/
def State.sendDown (s : State) (p : Nat) : State :=
  let can := sendable (s.port p) 0
  (if can then s.sendMgmt p mgDown [] else s).modPort p fun x => { x with holdTimer := true, downWaits := !can }

/-- LK_HOLD: HOLD = 1 on a port in UP sends DOWN and waits for the replay buffer to empty; in training, a
retraining in place with it, it stops training, with DOWN where the port has passed ALIGN (R431); HOLD = 0 lets the port train. -/
def lkHold (p : Nat) (b : Bool) (s : State) : State :=
  let s := s.modPort p fun x => { x with hold := b }
  let x := s.port p
  if b then
    if x.st = .up then (if x.holdTimer then s else s.sendDown p)
    else if x.retrainInPlace then (s.leaveUp p .hold .down).modPort p fun x => { x with retrainInPlace := false }
    else
      let s := if x.st = .identify then s.sendMgmt p mgDown [] else s
      (s.setPortSt p .down).modPort p fun x => { dropKeys x with reason := 0 }
  else if x.st = .down && x.enable then (s.setPortSt p .dark).modPort p toDark
  else s

def execLkHold (port : Nat) (bit : Bool) (s : State) : Out := need (isPort port) (lkHold port bit s)

/-- The replay buffer has emptied, or 2 µs have passed: a port that HOLD takes down enters DOWN (R429). -/
def State.holdDone (s : State) (p : Nat) : State :=
  let s := (s.leaveUp p .hold .down).modPort p fun x => { x with retrainInPlace := false }
  -- HOLD was written to 0 meanwhile: the port trains again
  if !(s.port p).hold && (s.port p).enable then (s.setPortSt p .dark).modPort p toDark else s

/-- HOLD_REPLAY_TIMEOUT (R429). -/
def execHoldReplayTimeout (port : Nat) (s : State) : Out := need (isPort port) (if (s.port port).holdTimer then s.holdDone port else s)

/-- LK_RETRAIN: a write of 1 restarts training from DARK (R421, R427). -/
def lkRetrain (p : Nat) (b : Bool) (s : State) : State :=
  let x := s.port p
  if b && x.enable && !x.hold then s.trainAgain p .retrain else s

def execLkRetrain (port : Nat) (bit : Bool) (s : State) : Out := need (isPort port) (lkRetrain port bit s)

/-- LK_INJECT_ARM: a write of LK_INJECT. INJECTED is set to 0, PERIOD 0 is taken as 1, counting starts at 0, and the write of ARM is in the ledger (R432, R435). -/
def lkInjectArm (p v : Nat) (s : State) : State :=
  (s.modPort p fun x => { x with
    injected := 0, limit := bits v 32 16, period := max 1 (bits v 12 20), classes := BitVec.ofNat 4 (bits v 8 4), injKind := bits v 4 2, injDir := bit v 1,
    injArm := bit v 0, injSeen := 0, reordered := none }).noteInject p

def execLkInjectArm (port : Nat) (value : Word) (s : State) : Out := need (isPort port) (lkInjectArm port value.toNat s)

/-! ## Receiving (R411, R414, R426, R434) -/

/-- Events of a list within the last 1 ms. -/
def lastMs (n : Nat) (l : List Nat) : List Nat := l.filter fun t => decide (n < t + 1000000)

/-- A port that has had 256 violations, or 16 authentication failures, within 1 ms is held with F_LINK_PROTO (R434). -/
def State.protoCheck (s : State) (p : Nat) : State :=
  let x := s.port p
  if 256 ≤ x.violationAt.length || 16 ≤ x.authAt.length then
    (((s.raise (88 + p) fLinkProto [] (le 2 p)).holdPort p 4 .violation)).modPort p fun x => { x with violationAt := [], authAt := [] }
  else s

/-- One violation by the partner. -/
def State.violation (s : State) (p : Nat) : State :=
  let n := s.count (88 + p)
  (s.modPort p fun x => { x with violations := stick 16 (x.violations + 1), violationAt := lastMs n x.violationAt ++ [n] }).protoCheck p

/-- One authentication failure. -/
def State.authFailure (s : State) (p : Nat) : State :=
  let n := s.count (88 + p)
  (s.modPort p fun x => { x with authFail := stick 16 (x.authFail + 1), authAt := lastMs n x.authAt ++ [n] }).protoCheck p

/-- A gap (R414): one NAK, and no further within 2 µs. -/
def State.gap (s : State) (p : Nat) : State :=
  let n := s.count (88 + p)
  let x := s.port p
  if x.st ≠ .up || (x.nakAt.map fun t => decide (n < t + 2000)).getD false then s
  else (s.modPort p fun x => { x with nakAt := some n }).sendNak p

/-- A frame that may come with ENC = 0 (R426). -/
def clearOk (x : Port) (f : Frame) : Bool :=
  (x.st == .align || x.st == .identify) &&
    (f.ftype == 0 || (f.ftype == 3 && [mgHello, mgIdent, mgEcho, mgEchoReply, mgDown].contains (kindOf f)))

/-- Both directions' keys from a shared secret and the two nonces (R425): the low side's transmit key first. -/
def linkKeys (low : Bool) (priv pub own peer : List Byte) : List Byte × List Byte :=
  let salt := if low then own ++ peer else peer ++ own
  let prk := hmac salt (p256Shared priv pub)
  let label : List Byte := [0x6D, 0x79, 0x61, 0x6E, 0x6F, 0x2D, 0x6C, 0x69, 0x6E, 0x6B, 0x2D, 0x31]
  let a := slice (hkdf prk (label ++ [0]) 32) 0 32
  let b := slice (hkdf prk (label ++ [1]) 32) 0 32
  if low then (a, b) else (b, a)

/-- The port is the low side (R425). -/
def State.lowSide (s : State) (p : Nat) : Bool :=
  let x := s.port p
  s.pkgId < x.partnerPkg || (s.pkgId == x.partnerPkg && p < x.partnerPort)

/-- New keys in both directions: KEY_PHASE inverts and FCTR starts at 0; the old receive key stays until the first frame of the new phase (R412). -/
def newKeys (k : List Byte × List Byte) (x : Port) : Port :=
  { x with oldRxKey := x.rxKey, oldRxFctr := x.rxFctr, txKey := k.1, rxKey := k.2, txFctr := 0, rxFctr := none, keyPhase := !x.keyPhase, rxPhase := !x.rxPhase,
           oldTxKey := [], oldTxFctr := 0, rekeySeq := none, rekey := .answered, rekeyNonce := [], rekeyEph := [] }

/-- New keys at the partner that answers: its REKEY_ACK, of SEQ `q`, and what came before it are sent again under the present keys (R412, R415). -/
def answerKeys (q : BitVec 32) (k : List Byte × List Byte) (x : Port) : Port :=
  { newKeys k x with oldTxKey := x.txKey, oldTxFctr := x.txFctr, rekeySeq := some q }

/-- A REKEY is answered under the present keys with a new ephemeral key and nonce, and the new keys follow (R412). -/
def State.answerRekey (s : State) (p : Nat) (payload : List Byte) : State :=
  let a := s.takeFresh
  let b := a.2.takeFresh
  let nonce := slice (Config.random a.1) 0 32
  let eph := slice (Config.random b.1) 0 32
  let q := (s.port p).txSeq
  let s := b.2.sendMgmt p mgRekeyAck (List.replicate 6 0 ++ nonce ++ slice (p256Public eph) 0 64)
  s.modPort p (answerKeys q (linkKeys (s.lowSide p) eph (slice payload 40 64) nonce (slice payload 8 32)))

/-- The replay buffer has room again, and class 0 a credit: the REKEY that waits is answered, and the DOWN that waits is sent (R415, R418). -/
def State.sendWaiting (s : State) (p : Nat) : State :=
  let x := s.port p
  if x.st ≠ .up || !sendable x 0 then s
  else
    let s := match x.rekeyAsked with
      | some l => (s.modPort p fun x => { x with rekeyAsked := none }).answerRekey p l
      | none => s
    if x.downWaits && sendable (s.port p) 0 then (s.sendMgmt p mgDown []).modPort p fun x => { x with downWaits := false } else s

/-- An ACK has passed the REKEY_ACK: the old transmit key is not needed any more (R412). -/
def ackedKey (a : BitVec 32) (x : Port) : Port :=
  match x.rekeySeq with
  | some q => if (a - (q + 1)).toNat < 2 ^ 31 then { x with oldTxKey := [], oldTxFctr := 0, rekeySeq := none } else x
  | none => x

/-- ACK of a frame (R415): frames below it leave the replay buffer; an ACK for a SEQ not yet sent is a violation. A port that HOLD takes down enters DOWN
once its buffer is empty (R429). -/
def State.takeAck (s : State) (p : Nat) (a : BitVec 32) : State :=
  let x := s.port p
  let base := x.txSeq - BitVec.ofNat 32 x.replay.length
  let n := (a - base).toNat
  if n ≤ x.replay.length then
    let s := s.modPort p fun x => ackedKey a { x with
      replay := x.replay.drop n, resends := x.resends.filter fun e => (x.replay.drop n).any fun f => f.seq.toNat == e.1 }
    if x.holdTimer && !x.downWaits && (s.port p).replay.isEmpty then s.holdDone p else s
  else if n < 2 ^ 31 then s.violation p
  else s

/-- Receive buffers of each class (R418). -/
def creditMax : List Nat := [64, 512, 2048, 64]

/-- Credits of a frame (R418); beyond the buffer sizes the excess is ignored, and is a violation. -/
def State.takeCredits (s : State) (p : Nat) (c : List Nat) : State :=
  let x := s.port p
  let sum := (List.range 4).map fun i => x.credits.getD i 0 + c.getD i 0
  let excess := (List.range 4).any fun i => decide (creditMax.getD i 0 < sum.getD i 0)
  let s := s.modPort p fun x => { x with credits := (List.range 4).map fun i => min (creditMax.getD i 0) (sum.getD i 0) }
  if excess then s.violation p else s

/-- A COUNT more than 1 ms from the port's own: one entry per 60 s (R434). -/
def State.skewCheck (s : State) (p : Nat) (f : Frame) : State :=
  let n := s.count (88 + p)
  if ((f.count.toNat : Int) - n).natAbs ≤ 1000000 then s
  else
    let s := if ((s.port p).skewEntryAt.map fun t => decide (n < t + 60000000000)).getD false then s
      else (s.note (88 + p) 0x0B 434 noCtx (le 2 p ++ le 8 f.count.toNat)).modPort p fun x => { x with skewEntryAt := some n }
    s.violation p

/-- The payload of an encrypted frame under the key that KEY_PHASE selects, with its FCTR above every one accepted before under that key (R411); the answer
says whether the frame is of the present phase. -/
def openFrame (x : Port) (f : Frame) : Option (List Byte × Bool) :=
  let now := f.keyPhase == x.rxPhase
  let key := if now then x.rxKey else x.oldRxKey
  let last := if now then x.rxFctr else x.oldRxFctr
  if key.isEmpty || (last.map fun n => decide (f.fctr ≤ n)).getD false then none
  else (gcmOpen key (linkIv x.partnerPkg x.partnerPort f.fctr) (frameHeader f) f.payload f.tag).map fun t => (t, now)

/-- The first frame of the present phase destroys the old receive key and ends the rekey (R412). -/
def acceptFctr (now : Bool) (n : Nat) (x : Port) : Port :=
  if now then { x with rxFctr := some n, oldRxKey := [], oldRxFctr := none, rekey := if x.rekey = .answered then .idle else x.rekey }
  else { x with oldRxFctr := some n }

/-- The ACK and the credits of a frame at a port in UP (R415, R418), and what waited for them. -/
def State.takeReturns (s : State) (p : Nat) (f : Frame) : State :=
  let s := if (s.port p).st = .up then s.takeAck p f.ack else s
  let s := if (s.port p).st = .up then s.takeCredits p f.credit else s
  s.sendWaiting p

/-- A frame that no SEQ orders is accepted where it passes the checks (R411): IDLE, NAK, and every frame before UP. -/
def unordered (x : Port) (f : Frame) : Bool := f.ftype == 0 || f.ftype == 2 || x.st != .up

/-- The checks of every frame, in order: CRC, TYPE, LEN, ENC, tag and FCTR; then its count, ACK and credits. What it answers is the frame with its payload in
the clear, or none where it is discarded. `forged` says that injection has made the tag fail (R432). -/
def State.receive (s : State) (p : Nat) (f : Frame) (forged : Bool) : State × Option Frame :=
  let x := s.port p
  if !(x.st == .align || x.st == .identify || x.st == .up) then (s, none)
  else if !f.crcOk then ((s.modPort p fun x => { x with crcFail := stick 16 (x.crcFail + 1) }).gap p, none)
  else if 4 < f.ftype then (s.violation p, none)
  else if 968 < f.len then ((s.violation p).gap p, none)
  else if !f.enc then
    (if clearOk x f then (s.skewCheck p f, some f) else (s.violation p, none))
  else
    match if forged then none else openFrame x f with
    | none => ((s.authFailure p).gap p, none)
    | some (t, now) =>
      let s := if unordered x f then s.modPort p (acceptFctr now f.fctr) else s
      ((s.skewCheck p f).takeReturns p f, some { f with payload := t })

/-- One buffer of a class is free again, and its credit is owed to the partner (R418). -/
def owe (c : Nat) (x : Port) : Port := { x with owed := x.owed.set c (x.owed.getD c 0 + 1) }

/-- A sequenced frame is accepted: the next SEQ is expected, its FCTR counts for those after it (R411), and its buffer is freed (R418). -/
def acceptSeq (f : Frame) (x : Port) : Port :=
  owe f.cls { (if f.enc then acceptFctr (f.keyPhase == x.rxPhase) f.fctr x else x) with rxSeq := x.rxSeq + 1, nakAt := none }

/-- A sequenced frame at a port in UP (R414): accepted when it is the next; ahead of it a gap; behind it discarded. An IDLE carries the ACK back. -/
def State.inOrder (s : State) (p : Nat) (f : Frame) : State × Bool :=
  let x := s.port p
  if x.st ≠ .up then (s, false)
  else if f.seq = x.rxSeq then ((s.modPort p (acceptSeq f)).perfAdd (88 + p) 1 1, true)
  else if (f.seq - x.rxSeq).toNat < 2 ^ 31 then (s.gap p, false)
  else (s, false)

/-- A DATA or TIME frame, or a message of a reserved KIND, that has passed injection; a message of the other kinds is taken by a row of its own. -/
def State.takeData (s₀ : State) (p : Nat) (f : Frame) (forged : Bool) : State :=
  match s₀.receive p f forged with
  | (s, none) => s
  | (s, some g) =>
    if g.ftype = 3 && 1 ≤ kindOf g && kindOf g ≤ 8 then s₀
    else if g.ftype = 3 && (s.port p).st == .identify then s.violation p
    else match s.inOrder p g with
    | (s, false) => s
    | (s, true) =>
      if g.ftype = 3 then (s.sendIdle p).violation p
      else ({ s with delivered := s.delivered ++ [(p, g)] } : State).sendIdle p

/-- A frame that receive-side reordering held follows the next frame (R432). -/
def State.afterHeld (s : State) (p : Nat) : State :=
  match (s.port p).injDir, (s.port p).reordered with
  | true, some h => (s.modPort p fun x => { x with reordered := none }).takeData p h false
  | _, _ => s

/-- DATA_FRAME: a sequenced frame from the lanes, through receive-side injection (R432). -/
def dataFrame (p : Nat) (f : Frame) (s : State) : State :=
  let r := s.injects p true f
  let s := r.1
  if r.2 then
    match (s.port p).injKind with
    | 0 => s.afterHeld p
    | 1 => (s.takeData p { flip32 f with crcOk := false } false).afterHeld p
    | 2 => (s.afterHeld p).modPort p (holdFrame f)
    | _ => (s.takeData p { flip32 f with crcOk := true } true).afterHeld p
  else if f.ftype = 1 || f.ftype = 3 || 4 ≤ f.ftype then (s.takeData p f false).afterHeld p
  else s

def execDataFrame (port : Nat) (f : Frame) (s : State) : Out := need (isPort port) (dataFrame port f s)

/-- IDLE_FRAME: its ACK and credits (R418). -/
def idleFrame (p : Nat) (f : Frame) (s : State) : State := if f.ftype = 0 then (s.receive p f false).1.afterHeld p else s

def execIdleFrame (port : Nat) (f : Frame) (s : State) : Out := need (isPort port) (idleFrame port f s)

/-- NAK_FRAME (R415): every held frame is resent from the SEQ named; a NAK for a SEQ already acknowledged is a violation (R434). -/
def State.takeNak (s : State) (p : Nat) (f : Frame) : State :=
  let x := s.port p
  let base := x.txSeq - BitVec.ofNat 32 x.replay.length
  match s.receive p f false with
  | (s, none) => s
  | (s, some g) =>
    if (s.port p).st ≠ .up then s
    else if 2 ^ 31 ≤ (g.ack - base).toNat then s.violation p
    else if (g.ack - base).toNat ≤ x.replay.length then s.replayAll p
    else s

def nakFrame (p : Nat) (f : Frame) (s : State) : State := if f.ftype ≠ 2 then s else (s.takeNak p f).afterHeld p

def execNakFrame (port : Nat) (f : Frame) (s : State) : Out := need (isPort port) (nakFrame port f s)

/-! ## Identification (R423 to R427) -/

/-- The first bytes of HELLO and IDENT: PKG_ID, PORT, VERSION. -/
def State.whoBytes (s : State) (p : Nat) : List Byte := be 2 s.pkgId ++ be 1 p ++ be 1 1 ++ be 2 0

/-- A port enters IDENTIFY with a new nonce and a new ephemeral key, and sends HELLO. -/
def State.startIdentify (s : State) (p : Nat) : State :=
  let a := s.takeFresh
  let b := a.2.takeFresh
  let s := (b.2.setPortSt p .identify).modPort p fun x => { dropKeys x with ident := { ownNonce := slice (Config.random a.1) 0 32, ownEph := slice (Config.random b.1) 0 32 } }
  s.sendMgmt p mgHello (s.whoBytes p ++ (s.port p).ident.ownNonce)

/-- HELLO_RESEND (R423, R431): the first HELLO of a port in ALIGN, and every 10 µs until the partner's HELLO has come. -/
def helloResend (p : Nat) (s : State) : State :=
  match (s.port p).st with
  | .align => s.startIdentify p
  | .identify => if (s.port p).ident.peerNonce.isNone then s.sendMgmt p mgHello (s.whoBytes p ++ (s.port p).ident.ownNonce) else s
  | _ => s

def execHelloResend (port : Nat) (s : State) : Out := need (isPort port) (helloResend port s)

/-- An MGMT frame of one kind at a port: received, in order where the port is UP; a frame that reordering held follows it. -/
def State.mgmt (s₀ : State) (p kind : Nat) (f : Frame) (g : State → Frame → State) : State :=
  if f.ftype ≠ 3 then s₀
  else match s₀.receive p f false with
    | (s, none) => s.afterHeld p
    | (s, some h) =>
      if kindOf h ≠ kind || (s.port p).st == .held then s
      else if (s.port p).st = .up then
        match s.inOrder p h with
        | (s, true) => (g (s.sendIdle p) h).afterHeld p
        | (s, false) => s.afterHeld p
      else g s h

/-- HELLO (R423): the partner's nonce, and four ECHO messages; after UP a violation (R434). -/
def hello (p : Nat) (f : Frame) (s : State) : State :=
  s.mgmt p mgHello f fun s h =>
    if (s.port p).st = .up then s.violation p
    else
      let s := if (s.port p).st = .align then s.startIdentify p else s
      if (s.port p).ident.peerNonce.isSome then s
      else
        let s := s.modPort p fun x => { x with
          ident := { x.ident with peerNonce := some (slice h.payload 8 32) }, partnerPkg := ofBe (slice h.payload 2 2) % 2 ^ 14, partnerPort := ofBe (slice h.payload 4 1) % 8 }
        each (List.range 4) s fun s k => s.sendMgmt p mgEcho (be 2 k)

def execHello (port : Nat) (f : Frame) (s : State) : Out := need (isPort port) (hello port f s)

/-- ECHO is answered with its number (R423). -/
def echo (p : Nat) (f : Frame) (s : State) : State :=
  s.mgmt p mgEcho f fun s h => if (s.port p).st = .identify then s.sendMgmt p mgEchoReply (slice h.payload 2 2) else s

def execEcho (port : Nat) (f : Frame) (s : State) : Out := need (isPort port) (echo port f s)

/-- ECHO_REPLY (R423): after four, LK_DELAY is half of the smallest round trip less 300 ns. -/
def echoReply (p : Nat) (f : Frame) (rtt : Nat) (s : State) : State :=
  s.mgmt p mgEchoReply f fun s _ =>
    let i := (s.port p).ident
    if (s.port p).st ≠ .identify || 4 ≤ i.echoes then s
    else
      let best := if i.echoes = 0 then rtt else min i.bestRtt rtt
      s.modPort p fun x => { x with
        ident := { x.ident with echoes := i.echoes + 1, bestRtt := best },
        delay := if i.echoes + 1 = 4 then stick 16 (best / 2 - 300) else x.delay }

def execEchoReply (port : Nat) (f : Frame) (rtt : Nat) (s : State) : Out := need (isPort port) (echoReply port f rtt s)

/-- Payload bytes 0 to 199 of the port's own IDENT. -/
def State.identBody (s : State) (p : Nat) : List Byte :=
  let i := (s.port p).ident
  be 2 mgIdent ++ s.whoBytes p ++ slice i.ownNonce 0 32 ++ slice (i.peerNonce.getD []) 0 32 ++ slice s.idKey 0 64 ++ slice (p256Public i.ownEph) 0 64

/-- CONFIRM goes out under the new keys (R423). -/
def State.sendConfirm (s : State) (p : Nat) : State :=
  (s.modPort p fun x => { x with ident := { x.ident with confirmSent := true } }).sendMgmt p mgConfirm []

/-- IDENT_SIGNED (R423): the active keeper's engine has signed the IDENT, and it goes out; CONFIRM follows where the partner's IDENT has passed. -/
def identSigned (p : Nat) (s : State) : State :=
  let i := (s.port p).ident
  if (s.port p).st = .identify && s.holder.isSome && i.echoes = 4 && i.peerNonce.isSome && !i.identSent then
    let b := s.identBody p
    let s := s.sendMgmt p mgIdent (b.drop 2 ++ slice (identitySign b) 0 64)
    let s := s.modPort p fun x => { x with ident := { x.ident with identSent := true, ownEph := if i.peerOk then [] else x.ident.ownEph } }
    if i.peerOk then s.sendConfirm p else s
  else s

def execIdentSigned (port : Nat) (s : State) : Out := need (isPort port) (identSigned port s)

/-- What the checks of R427 say of an IDENT. -/
inductive IdentAns where
  | pass | auth | extra | mismatch
  deriving DecidableEq, Repr

def State.identCheck (s : State) (p : Nat) (l : List Byte) : IdentAns :=
  let x := s.port p
  let key := slice l 72 64
  let hash := slice (sha256 key) 0 32
  let want := (List.range 4).flatMap fun k => be 8 (tabGet 0 x.digest k).toNat
  if slice l 40 32 ≠ slice x.ident.ownNonce 0 32 ∨ some (slice l 8 32) ≠ x.ident.peerNonce then .auth
  else if !ecdsaVerify key (slice l 0 200) (slice l 200 64) then .auth
  else if !x.expectValid then .extra
  else if ofBe (slice l 2 2) ≠ x.expectPkg ∨ ofBe (slice l 4 1) ≠ x.expectPort ∨ hash ≠ want then .mismatch
  else .pass

/-- IDENT (R427). -/
def ident (p : Nat) (f : Frame) (s : State) : State :=
  s.mgmt p mgIdent f fun s h =>
    if (s.port p).st = .up then s.violation p
    else if (s.port p).st ≠ .identify || (s.port p).ident.peerNonce.isNone then s
    else
      let l := h.payload
      let key := slice l 72 64
      let ans := s.identCheck p l
      let detail := le 2 (ofBe (slice l 2 2)) ++ le 2 (ofBe (slice l 4 1)) ++ slice (sha256 key) 0 8
      let s := s.modPort p fun x => { x with
        seen := x.seen || ans != .auth, partnerPkg := ofBe (slice l 2 2) % 2 ^ 14, partnerPort := ofBe (slice l 4 1) % 8 }
      match ans with
      | .auth => (s.raise (88 + p) fLinkId [] (le 2 p ++ detail)).holdPort p 3 .identity
      | .extra => (s.note (88 + p) 0x0B 427 noCtx (le 2 p ++ detail)).holdPort p 1 .identity
      | .mismatch => (s.raise (88 + p) fLinkId [] (le 2 p ++ detail)).holdPort p 2 .identity
      | .pass =>
        let i := (s.port p).ident
        let k := linkKeys (s.lowSide p) i.ownEph (slice l 136 64) i.ownNonce (i.peerNonce.getD [])
        let s := s.modPort p fun x => { x with txKey := k.1, rxKey := k.2, txFctr := 0, rxFctr := none,
                                               ident := { x.ident with peerOk := true, ownEph := if x.ident.identSent then [] else x.ident.ownEph } }
        if i.identSent then s.sendConfirm p else s

def execIdent (port : Nat) (f : Frame) (s : State) : Out := need (isPort port) (ident port f s)

/-- CONFIRM (R423): accepted under the new keys, it takes the port to UP. -/
def confirm (p : Nat) (f : Frame) (s : State) : State :=
  s.mgmt p mgConfirm f fun s h =>
    if (s.port p).st = .identify && h.enc && (s.port p).ident.confirmSent then
      (s.modPort p fun x => { handBack x with ident := {} }).setPortSt p .up
    else s

def execConfirm (port : Nat) (f : Frame) (s : State) : Out := need (isPort port) (confirm port f s)

/-! ## Rekeying (R410, R412) -/

/-- The initiator sends REKEY with a new ephemeral key and a new nonce. -/
def State.startRekey (s : State) (p : Nat) : State :=
  let a := s.takeFresh
  let b := a.2.takeFresh
  let s := b.2.modPort p fun x => { x with rekey := .sent, rekeyNonce := slice (Config.random a.1) 0 32, rekeyEph := slice (Config.random b.1) 0 32 }
  s.sendMgmt p mgRekey (List.replicate 6 0 ++ (s.port p).rekeyNonce ++ slice (p256Public (s.port p).rekeyEph) 0 64)

/-- FCTR_REKEY_THRESHOLD (R410). -/
def fctrRekeyThreshold (p : Nat) (s : State) : State :=
  let x := s.port p
  if x.st = .up && 2 ^ 32 ≤ x.txFctr && x.rekey = .idle && x.rekeyAsked.isNone && x.oldRxKey.isEmpty && x.oldTxKey.isEmpty && sendable x 0 then s.startRekey p else s

def execFctrRekeyThreshold (port : Nat) (s : State) : Out := need (isPort port) (fctrRekeyThreshold port s)

/-- FCTR_LIMIT (R410). -/
def fctrLimit (p : Nat) (s : State) : State :=
  if portUp (s.port p) && 2 ^ 32 + 2 ^ 20 ≤ (s.port p).txFctr then s.trainAgain p .fctr else s

def execFctrLimit (port : Nat) (s : State) : Out := need (isPort port) (fctrLimit port s)

/-- REKEY (R412): answered; of two that cross, the one from the lower pair proceeds; another during a rekey is a violation (R434). -/
def rekeyMsg (p : Nat) (f : Frame) (s : State) : State :=
  s.mgmt p mgRekey f fun s h =>
    let x := s.port p
    if x.st ≠ .up then s
    else if x.rekey = .answered || x.rekeyAsked.isSome then s.violation p
    else if x.rekey = .sent && s.lowSide p then s
    else if !sendable x 0 then s.modPort p fun x => { x with rekeyAsked := some h.payload }
    else s.answerRekey p h.payload

def execRekey (port : Nat) (f : Frame) (s : State) : Out := need (isPort port) (rekeyMsg port f s)

/-- REKEY_ACK (R412); with no REKEY outstanding a violation (R434). -/
def rekeyAck (p : Nat) (f : Frame) (s : State) : State :=
  s.mgmt p mgRekeyAck f fun s h =>
    let x := s.port p
    if x.st ≠ .up then s
    else if x.rekey ≠ .sent then s.violation p
    else s.modPort p (newKeys (linkKeys (s.lowSide p) x.rekeyEph (slice h.payload 40 64) x.rekeyNonce (slice h.payload 8 32)))

def execRekeyAck (port : Nat) (f : Frame) (s : State) : Out := need (isPort port) (rekeyAck port f s)

/-- DOWN of the partner (R429): to DARK without F_LINK_DOWN, with an entry. -/
def downMsg (p : Nat) (f : Frame) (s : State) : State :=
  s.mgmt p mgDown f fun s _ =>
    if portUp (s.port p) then s.trainAgain p .partner
    else (s.note (88 + p) 0x0B 428 noCtx (le 2 p ++ le 1 (causeCode .partner))).trainAgain p .partner

def execDown (port : Nat) (f : Frame) (s : State) : Out := need (isPort port) (downMsg port f s)

/-- A keeper takeover restarts identification from HELLO with new nonces (R431). -/
def State.restartIdentify (s : State) : State :=
  each (List.range 8) s fun s p => if (s.port p).st = .identify then s.startIdentify p else s

end Sys2Proof.Machine
end

