-- ==== Sys2Proof/Machine/Power.lean ====
section
/-! DEFINITION. Chapter 16: rail currents, package power, temperature, the sharing of the package cap, and throttle reasons. Powers are in milliwatts. -/

namespace Sys2Proof.Machine

/-! ## Operating points (R475) -/

/-- The most that a compute die draws at a point, and its core current, in amperes. -/
def diePower (op : Nat) : Nat := [0, 113700, 143000, 179300, 222600, 275000, 335800, 405600].getD op 0
def coreAmps (op : Nat) : Nat := [0, 143, 180, 222, 268, 320, 376, 436].getD op 0

/-! ## Steps of a die (R476, R477) -/

/-- A die may send a stretch request: none is outstanding, and 100 µs have passed since its last answer applied (R477). -/
def mayStretch (x : Die) (n : Nat) : Bool :=
  match x.stretch with
  | .idle => true
  | .holds _ t => decide (t + 100000 ≤ n)
  | _ => false

/-- A stretch request of a die for point `q` (R337 step 1). -/
def State.askStretch (s : State) (d q reason : Nat) : State :=
  match (s.die d).job with
  | none => s
  | some j =>
    let n := s.count d
    (s.modDie d fun x => { x with stretch := .sent q reason n }).send
      (.stretchReq { job := j, pkg := s.pkgId, die := d, ldie := (s.logicalDie d).getD 0, q := q, reason := reason, count := n })

/-- A fixed-mode exception (R60). -/
def State.noteFixed (s : State) (d reason : Nat) : State := if (s.die d).fixed then s.note d 0x0B 60 noCtx (le 1 reason) else s

/-- One point down for a reason: a scheduled die asks for a stretch, any other steps at once; at OP1 nothing happens, and a step under way is not doubled. -/
def State.stepDown (s : State) (d reason : Nat) : State :=
  let x := s.die d
  if x.curOp ≤ 1 then s
  else if x.scheduled then
    if mayStretch x (s.count d) then (s.noteFixed d reason).askStretch d (x.curOp - 1) reason else s
  else if x.transition then s
  else (s.noteFixed d reason).modDie d fun x => startOp (x.curOp - 1) { x with capOp := some (x.curOp - 1), raiseOp := none }

/-! ## Rails (R472 to R480) -/

/-- The limit of a fixed rail in amperes: 0 VDD_CORE of a die other than compute, 1 VDD_SRAM, 2 VDD_IO, 3 VDD_OPT of a link die. -/
def railLimit (rail : Nat) : Nat := [120, 60, 40, 30].getD rail 0

/-- The die has that rail. -/
def hasRail (d rail : Nat) : Bool := rail < 3 || (rail == 3 && isLink d)

/-- Every engine of a die stops (R94, R478). -/
def State.quenchEngines (s : State) (d : Nat) : State := s.modDie d fun x => { x with quenched := true }

/-- EMERGENCY_QUENCH and F_RAIL_QUENCH (R478): the rail goes to OP1. -/
def State.railQuench (s : State) (d amps : Nat) : State :=
  let s := match (s.die d).job with | some j => s.dropAnswers j | none => s
  ((s.quenchEngines d).raise d fRailQuench (s.dieCtxs d) (le 4 amps)).modDie d fun x => startOp 1 { x with stretch := .idle, capOp := some 1, raiseOp := none }

/-- A reading of a compute die's core rail: `amps1` over 1 µs, `amps10` over 10 µs. -/
def State.coreCurrent (s : State) (d amps1 amps10 : Nat) : State :=
  let x := s.die d
  let slope := decide (x.slopeAmps + 120 < amps1 || amps1 + 120 < x.slopeAmps)
  let s := s.modDie d fun x => { x with slopeAmps := amps1, lowAmps := decide (amps10 < 384) }
  let s := s.throttle d rsSlope (slope && x.scheduled)
  if 480 ≤ amps1 then (if x.quenched then s else s.railQuench d amps1)
  else
    let s := s.throttle d rsRail (384 ≤ amps10)
    let s := if 384 ≤ amps10 then s.stepDown d rsRail else s
    s.readmit d

/-- CURRENT_SAMPLE. -/
def currentSample (d rail amps1 amps10 : Nat) (s : State) : State :=
  if isCompute d && rail = 0 then s.coreCurrent d amps1 amps10
  else if railLimit rail < amps1 then s.raise d fRailFault [] (le 1 rail ++ le 4 amps1)
  else s

def execCurrentSample (die rail amps1 amps10 : Nat) (s : State) : Out := need (isDie die && hasRail die rail) (currentSample die rail amps1 amps10 s)

/-- DROOP_DETECT (R479): counted, and in the ledger at most once in 1 ms. -/
def droopDetect (d : Nat) (s : State) : State :=
  let n := s.count d
  let s := (s.modDie d fun x => { x with lastDroop := some n }).perfAdd d 20 1
  if ((s.die d).lastDroopEntry.map fun t => decide (n < t + 1000000)).getD false then s
  else (s.modDie d fun x => { x with lastDroopEntry := some n }).note d 0x0B 479 noCtx []

def execDroopDetect (die : Nat) (s : State) : Out := need (isCompute die) (droopDetect die s)

/-! ## Package power (R473, R476, R489, R494) -/

/-- The cap in force, in watts (R489): transfers of pools move it, never above POOL_MAX. -/
def capInForce (p : PackagePower) : Nat :=
  let i : Int := (p.cap : Int) + (p.pools.map (·.2)).sum
  min (max p.cap p.poolMax) i.toNat

/-- The largest reading of the last 1 s: readings that none of the later ones reaches. -/
def keepPeaks (n w : Nat) (l : List (Nat × Nat)) : List (Nat × Nat) := (l.filter fun e => decide (n < e.1 + 1000000000) && decide (w < e.2)) ++ [(n, w)]

/-- PACKAGE_POWER_SAMPLE: a 50 µs reading and its edges, and the 1 ms average, reach every die. -/
def packagePowerSample (watts edge0 edge1 avg : Nat) (s : State) : State :=
  let hit := decide (21500 ≤ watts || 1000 ≤ edge0 || 1000 ≤ edge1)
  let low := decide (watts < 20855 && edge0 < 970 && edge1 < 970)
  let p := s.power
  let s : State := { s with power := { p with
    peaks := keepPeaks s.kcount watts p.peaks, avg := stick 16 avg, edge0 := edge0, edge1 := edge1, overCap := decide (capInForce p < avg), peakHeld := hit || (p.peakHeld && !low) } }
  let held := s.power.peakHeld
  each computeDies s fun s d =>
    let s := s.throttle d rsPeak held
    if hit then s.stepDown d rsPeak else s

def execPackagePowerSample (watts edge0 edge1 avg1ms : Nat) (s : State) : Out := need true (packagePowerSample watts edge0 edge1 avg1ms s)

/-! ## Leaving service and losing power (R492, R515, R551) -/

/-- Every port leaves UP because the package leaves service (R459, R492). -/
def State.dropLinks (s : State) : State :=
  each (List.range 8) s fun s p =>
    let s := if portUp (s.port p) then s.leaveUp p .service .down else (s.setPortSt p .down).modPort p dropKeys
    s.modPort p fun x => { x with retrainInPlace := false, light := 0, lanes := 0 }

/-- What a die keeps without power: a larder die its wear and the reserve it has used. -/
def nonVolatile (x : Die) : Die := { wornPages := x.wornPages, reserveUsed := x.reserveUsed }

/-- Every register, buffer, table and store at its reset value (R559). What lasts is what the larder holds (its bytes, the inventory record, firmware and
anti-rollback counters), the pins, host memory, and what the part has already put out. -/
def State.cleared (s : State) : State :=
  { State.reset with
    pending := s.pending, fresh := s.fresh, pins := s.pins, hostMem := s.hostMem, invL0 := s.invL0, invL1 := s.invL1, fw := s.fw, svn0 := s.svn0, svn1 := s.svn1,
    smbusAddr := s.smbusAddr, pageErrs := s.pageErrs, irqs := s.irqs, frameOut := s.frameOut, delivered := s.delivered, answers := s.answers,
    mem := s.mem.filter fun c => larderBase ≤ c.1 && decide (c.1 < larderBase + 0x8000000000)
    dies := larderDies.map fun d => (d, nonVolatile (s.die d))
    host0 := { State.reset.host0 with perstLow := s.host0.perstLow }
    host1 := { State.reset.host1 with perstLow := s.host1.perstLow } }

/-- Every die's rails turn off: what it held is gone, and the package has left service. -/
def State.railsOff (s : State) : State :=
  let t := s.cleared
  { t with pins := { t.pins with railSram := false, railCore := false, railIo := false, railOpt := false } }

/-- A package trip (R492): THERM_TRIP_N goes low and latches, every rail turns off, and the package leaves service. -/
def State.packageTrip (s : State) : State :=
  let s := s.dropLinks
  ({ s with pins := { s.pins with thermTripLow := true } } : State).railsOff

/-! ## Temperature (R490 to R492); readings are in quarter degrees -/

/-- A handle of a context lies, in part, in a cellar or larder die's memory (R268, R378). -/
def State.handleOn (s : State) (c d : Nat) : Bool :=
  (List.range (s.ctx c).handles).any fun i =>
    let h := s.handle (s.ctx c) (i + 1)
    (h.kind == 2 && isCellar d && ((List.range (min 12 (h.size / granuleBytes + 2))).any fun k => cellarOf (h.base + k * granuleBytes) == d - 68)) ||
    (h.kind == 3 && isLarder d && decide (larderDieOf h.base ≤ d) && decide (d ≤ larderDieOf (h.base + h.size - 1)))

/-- The contexts whose jobs a trip of a die faults (R491): those bound to it, or whose traffic it carries: a host die that of
its port, a link, cellar or larder die that of its jobs' flows, injections and buffers. -/
def State.tripCtxs (s : State) (d : Nat) : List Nat :=
  let live := s.boundCtxs.filter fun c => (s.launchOf c).isSome
  if isCompute d then s.dieCtxs d
  else if isHost d then live.filter fun c => (s.ctx c).port == d - 96
  else if isKeeper d then []
  else live.filter fun c => (s.gridDies c).contains d || s.handleOn c d

/-- The first sensor at its highest reading. -/
def hottest (l : List Int) : Nat × Int := l.zipIdx.foldl (fun m e => if m.2 < e.1 then (e.2, e.1) else m) (0, l.headD 0)

/-- A thermal trip (R491). -/
def State.thermalTrip (s : State) (d : Nat) (l : List Int) : State :=
  if (s.die d).tripped then s
  else
    let m := hottest l
    let cs := s.tripCtxs d
    let s := s.modDie d fun x => { x with tripped := true, coolSince := none, testTrip := x.testTrip || s.phase == 5 }
    let s := if isCompute d then s.quenchEngines d else (s.modDie d fun x => { x with heldTraffic := true }).throttleOn d rsTraffic
    s.raise d fThermalTrip cs (le 1 m.1 ++ le 8 (ofSigned 64 m.2))

/-- How long a condition has held: the count at which it began. -/
def since (now : Nat) (holds : Bool) (old : Option Nat) : Option Nat := if holds then (match old with | some t => some t | none => some now) else none

/-- TEMP_SAMPLE: `tempBad` is the last count up to which the sensors showed a reading outside R49's range. -/
def tempSample (d : Nat) (l : List Int) (s : State) : State :=
  let n := s.count d
  let hot := l.any fun t => decide (400 ≤ t)
  let cool := l.all fun t => decide (t < 380)
  let s := s.modDie d fun x => { x with temps := l, tempBad := if tempsGood l && tempsGood x.temps then x.tempBad else some n, hotSince := since n hot x.hotSince, coolSince := since n cool x.coolSince }
  if l.any fun t => decide (500 ≤ t) then (if s.pins.thermTripLow then s else s.packageTrip)
  else if l.any fun t => decide (440 ≤ t) then s.thermalTrip d l
  else
    let x := s.die d
    let hotLong := (x.hotSince.map fun t => decide (t + 100000 ≤ n)).getD false
    let coolLong := (x.coolSince.map fun t => decide (t + 1000000 ≤ n)).getD false
    let s := if coolLong then s.modDie d fun x => { x with tripped := false } else s
    if isCompute d then
      let s := if hotLong then (s.throttleOn d rsThermal).stepDown d rsThermal else if coolLong then s.throttleOff d rsThermal else s
      s.readmit d
    else if hotLong then (s.modDie d fun x => { x with heldTraffic := true }).throttleOn d rsTraffic
    else if coolLong then
      (s.modDie d fun x => { x with heldTraffic := false }).throttle d rsTraffic (s.die d).dutyHold
    else s

/-- A die has 16 sensors where it computes, and 4 elsewhere (R490). -/
def sensorCount (d : Nat) : Nat := if isCompute d then 16 else 4

def execTempSample (die : Nat) (readings : List Int) (s : State) : Out :=
  need (isDie die && readings.length == sensorCount die) (tempSample die readings s)

/-! ## The allocation pass (R481 to R486) -/

/-- An active compute die's logical die, or none for a spare. -/
def State.activeDie (s : State) (d : Nat) : Bool := isCompute d && s.inv.logical.contains d && (s.die d).failed.isNone

/-- Raises are open to a die: dynamic, not fixed, every sensor below 95 °C, no RAIL or THERMAL reason (R59, R486). -/
def raiseOpen (x : Die) : Bool := !x.scheduled && !x.fixed && !throttled x rsRail && !throttled x rsThermal && x.temps.all fun t => decide (t < 380)

/-- The point that a dynamic die requests (R482). -/
def asksOp (x : Die) : Nat := if raiseOpen x then max x.reqOp x.maxOp else x.reqOp

/-- Floor and demand of a die, from its measured power (R482). The demand of a memory or link die is the measured power that the operand gives, which counts
the traffic that it holds. -/
def dieFloor (d : Nat) (x : Die) (mw : Nat) : Nat :=
  if isCompute d then (if x.scheduled then mw else 40000) else if isCellar d then 40000 else if isLarder d then 12000 else 62000

def dieDemand (d : Nat) (x : Die) (mw : Nat) : Nat :=
  if isCompute d then (if x.scheduled then mw else if x.curOp = 0 then 40000 else max 40000 (mw * diePower (asksOp x) / diePower x.curOp))
  else max (dieFloor d x mw) mw

/-- Share `left` equally among dies that still want more, none beyond its demand, until it is spent or none wants (R483). Entries are die, allocation, demand. -/
def shareOut : Nat → Nat → List (Nat × Nat × Nat) → Nat × List (Nat × Nat × Nat)
  | 0, left, l => (left, l)
  | fuel + 1, left, l =>
    let want := (l.filter fun e => decide (e.2.1 < e.2.2)).length
    if want = 0 || left / want = 0 then (left, l)
    else
      let part := left / want
      let l' := l.map fun e => if e.2.1 < e.2.2 then (e.1, min e.2.2 (e.2.1 + part), e.2.2) else e
      shareOut fuel (left - ((l'.map (·.2.1)).sum - (l.map (·.2.1)).sum)) l'

/-- The highest point whose die power fits, none below OP1. -/
def pointFor (mw : Nat) : Nat := ((List.range 8).filter fun p => decide (diePower p ≤ mw)).foldl max 0

/-- A dynamic die's allocation is rounded down to the power of the highest point that fits; below OP1 it stays as it is. -/
def rounded (mw : Nat) : Nat := if pointFor mw = 0 then mw else diePower (pointFor mw)

/-- A HINT is in force at a count (R488). -/
def hintOn (n : Nat) (x : Context) : Option Hint := x.hint.bind fun h => if h.start ≤ n && n < h.stop then some h else none

/-- Tier of a compute die: 0 critical, 1 under a heavy reservation, 2 any other (R483, R487, R488). -/
def State.dieTier (s : State) (n d : Nat) : Nat :=
  let cs := s.boundCtxs.filter fun c => (s.ctxPhys c).contains d
  if cs.any fun c => (((s.logicalDie d).map (s.ctx c).crit.getLsbD).getD false) then 0
  else if !(s.die d).scheduled && cs.any fun c => ((hintOn n (s.ctx c)).map (·.kind)) == some 0 then 1
  else 2

/-- The dies of a group in tier order (R481, R483). -/
def State.groupTiers (s : State) (n g : Nat) : List (List Nat) :=
  match g with
  | 0 => [0, 1, 2].map fun t => computeDies.filter fun d => s.activeDie d && s.dieTier n d == t
  | 1 => [cellarDies ++ larderDies]
  | _ => [linkDies]

/-- The heavy hints of dynamic contexts in the order in which they were taken: the context, and what LEVEL % of the cap is (R488). -/
def State.heavyHints (s : State) (n : Nat) : List (Nat × Nat) :=
  let l := s.boundCtxs.filterMap fun c => (hintOn n (s.ctx c)).bind fun h =>
    if h.kind = 0 && !s.schedCtx c then some (h.taken, c, capInForce s.power * 1000 * h.level / 100) else none
  (l.foldl (fun t e => insertBy (fun a b => decide (a.1 < b.1)) e t) []).map (·.2)

/-- What each heavy hint reserves: up to what the floors and the reserves taken before it leave (R488). -/
def grants : Nat → List (Nat × Nat) → List (Nat × Nat)
  | _, [] => []
  | left, (c, w) :: l => (c, min left w) :: grants (left - min left w) l

/-- The dynamic contexts under a light hint, each with what LEVEL % of the cap is (R488). -/
def State.lightHints (s : State) (n : Nat) : List (Nat × Nat) :=
  s.boundCtxs.filterMap fun c => if s.schedCtx c then none
    else (hintOn n (s.ctx c)).bind fun h => if h.kind = 1 then some (c, capInForce s.power * 1000 * h.level / 100) else none

/-- The most that the dies under light hints may have: each context's dies together no more than its hint leaves them above their floors, shared as a tier shares
(R483, R488). -/
def State.lightLimits (s : State) (n : Nat) (floor demand : Nat → Nat) : Tab (Option Nat) :=
  (s.lightHints n).foldl (fun t e =>
    let ds := (s.ctxPhys e.1).filter s.activeDie
    (shareOut 128 (e.2 - (ds.map floor).sum) (ds.map fun d => (d, floor d, demand d))).2.foldl (fun t r => tabSet t r.1 (some r.2.1)) t) []

/-- What an allocation pass has shared out so far. -/
structure Shares where
  left : Nat := 0
  alloc : Tab Nat := []
  deriving DecidableEq, Repr

/-- Dies of a tier take their shares of so much of what is left (R483). -/
def serveTier (demand : Nat → Nat) (most : Nat) (s : Shares) (ds : List Nat) : Shares :=
  let avail := min most s.left
  let l := ds.map fun d => (d, tabGet 0 s.alloc d, demand d)
  let r := shareOut 128 avail l
  { left := s.left - (avail - r.1), alloc := r.2.foldl (fun t e => tabSet t e.1 e.2.1) s.alloc }

/-- Dynamic compute dies are rounded down before the next group is served (R483). -/
def roundTier (dyn : Nat → Bool) (s : Shares) (ds : List Nat) : Shares :=
  ds.foldl (fun s d => if dyn d then
    let a := tabGet 0 s.alloc d
    { left := s.left + (a - rounded a), alloc := tabSet s.alloc d (rounded a) } else s) s

/-- The compute group (R483, R488): critical dies take from what the reserves leave, each heavy context's dies from its own reserve, its critical ones first, then that
tier and the other dies from what the reserves still leave. -/
def State.serveCompute (s : State) (n : Nat) (demand : Nat → Nat) (acc : Shares) : Shares :=
  let tier := fun t => computeDies.filter fun d => s.activeDie d && s.dieTier n d == t
  let held := grants acc.left (s.heavyHints n)
  let total := (held.map (·.2)).sum
  let acc := serveTier demand (acc.left - total) acc (tier 0)
  let own := held.foldl (fun a e =>
    let ds := s.ctxPhys e.1
    let crit := serveTier demand e.2 a ((tier 0).filter fun d => ds.contains d && !(s.die d).scheduled)
    serveTier demand (e.2 - (a.left - crit.left)) crit ((tier 1).filter ds.contains)) acc
  let idle := total - (acc.left - own.left)
  let own := serveTier demand (own.left - idle) own (tier 1)
  serveTier demand (own.left - idle) own (tier 2)

/-- The last loop: one step up for each dynamic compute die that what is left covers, within its demand (R483). -/
def raiseLoop (dyn : Nat → Bool) (demand : Nat → Nat) (s : Shares) (ds : List Nat) : Shares :=
  ds.foldl (fun s d =>
    let a := tabGet 0 s.alloc d
    let p := pointFor a
    let next := diePower (p + 1)
    if dyn d && p < 7 && next ≤ demand d && next - a ≤ s.left then { left := s.left - (next - a), alloc := tabSet s.alloc d next } else s) s

/-- The budget, in milliwatts: the cap in force less what hosts, keepers and spares draw (R483). -/
def State.budget (s : State) (mw : Nat → Nat) : Int :=
  (capInForce s.power * 1000 : Nat) - ((dieList.filter fun d => isHost d || isKeeper d || (isCompute d && !s.activeDie d)).map mw).sum

/-- The dies that an allocation pass serves. -/
def State.served (s : State) : List Nat := computeDies.filter s.activeDie ++ cellarDies ++ larderDies ++ linkDies

/-- The allocation (R483): what is left, negative where the floors alone exceed the budget, and each die's share. -/
def State.allocate (s : State) (n : Nat) (mw : Nat → Nat) : Int × Tab Nat :=
  let floor := fun d => dieFloor d (s.die d) (mw d)
  let wants := fun d => dieDemand d (s.die d) (mw d)
  let light := s.lightLimits n floor wants
  let demand := fun d => (tabGet none light d).getD (wants d)
  let dyn := fun d => isCompute d && !(s.die d).scheduled
  let ds := s.served
  let left := s.budget mw - ((ds.map floor).sum : Nat)
  let start := ds.foldl (fun t d => tabSet t d (floor d)) []
  if left < 0 then (left, start)
  else
    let group := fun (acc : Shares) (g : Nat) =>
      let ds := (s.groupTiers n g).flatten
      if g = 0 then roundTier dyn (s.serveCompute n demand acc) ds else serveTier demand acc.left acc ds
    let acc := [s.power.first, s.power.second, s.power.third].foldl group { left := left.toNat, alloc := start }
    let acc := raiseLoop dyn demand acc (s.groupTiers n 0).flatten
    (acc.left, acc.alloc)

/-- The highest point from MIN_OP up that fits an allocation at the die's measured activity; MIN_OP where none does, and whether it fits (R484). -/
def fitOp (x : Die) (mw alloc : Nat) : Nat × Bool :=
  let need := fun p => if x.curOp = 0 then diePower p else diePower p * mw / diePower x.curOp
  match ((List.range 8).reverse.find? fun p => decide (x.minOp ≤ p) && decide (need p ≤ alloc)) with
  | some p => (p, true)
  | none => (x.minOp, false)

/-- A dynamic compute die applies its allocation (R484, R486), with the reason CAP while that is below its demand (R476); one in fixed-voltage mode holds REQ_OP
whatever it is allotted, without a CAP step (R60, R477). -/
def State.applyCompute (s : State) (d mw alloc demand : Nat) : State :=
  let x := s.die d
  let f := fitOp x mw alloc
  let short := decide (alloc < demand)
  if x.fixed then
    let over_ := short && !(fitOp { x with minOp := x.reqOp } mw alloc).2
    (s.modDie d fun x =>
      let y := { x with dutyHold := over_, capOp := if forcedDown x then x.capOp else none, raiseOp := none }
      if x.curOp = 0 then y else startOp (wantedOp y) y).throttle d rsDuty over_ |>.throttleOff d rsCap
  else
    let p := if throttled x rsRail || throttled x rsThermal then min f.1 (max 1 x.curOp) else f.1
    let next := x.curOp + 1
    let raise := raiseOpen x && x.reqOp ≤ x.curOp && next ≤ x.maxOp && x.curOp ≠ 0 &&
      decide (diePower next * mw / diePower x.curOp ≤ alloc) && decide (coreAmps next * mw / diePower x.curOp < 384)
    let s := s.modDie d fun x =>
      let y := { x with capOp := some p, dutyHold := !f.2,
                        raiseOp := if raise then some next else if raiseOpen x then (match x.raiseOp with | some r => some (min r p) | none => none) else none }
      if x.curOp = 0 then y else startOp (wantedOp y) y
    (s.throttle d rsDuty (!f.2)).throttle d rsCap short

/-- A memory or link die applies its allocation (R484). -/
def State.applyTraffic (s : State) (d alloc demand : Nat) : State :=
  let short := decide (alloc < demand)
  let s := s.modDie d fun x => { x with dutyHold := short }
  s.throttle d rsTraffic (short || (s.die d).heldTraffic)

/-- The scheduled job of the package whose dies draw most, none of them in fixed-voltage mode (R485). -/
def State.topJob (s : State) (mw : Nat → Nat) : Option Nat :=
  let js := ((s.boundCtxs.filter s.schedCtx).map fun c => (s.ctx c).job).foldl addTo []
  let js := js.filter fun j => !(s.jobDies j).any fun d => (s.die d).fixed
  (js.foldl (fun (m : Option (Nat × Nat)) j =>
    let p := ((s.jobDies j).map mw).sum
    match m with
    | some (_, q) => if q < p then some (j, p) else m
    | none => some (j, p)) none).map (·.1)

/-- The beat length of a job after every answer of its launch, and its schedule point, as this package knows them: from the coordinator's notes where it is here,
else from the anchors and answers of the job's grids and from its launch (R337). -/
def State.beatLength (s : State) (j : Nat) : Nat × Nat :=
  match s.coordOf j with
  | some k => (k.lam, k.schedOp)
  | none =>
    ((s.jobDies j).foldl (fun n d => let g := (s.die d).gridOf j; ((g.anchors.map (·.lam)) ++ g.pending.map (·.lam)).foldl max n) 64,
     ((s.jobCtxs j).findSome? s.launchOf).elim 5 (·.schedOp))

/-- CAP_STRETCH (R485): one die of the job asks for the highest point at which the job's power fits, OP1 where none does. -/
def State.capStretch (s : State) (left : Int) (mw : Nat → Nat) : State :=
  match s.topJob mw with
  | none => s
  | some j =>
    let p : Nat := ((s.jobDies j).map mw).sum
    let k := s.beatLength j
    let fits := fun q => decide ((p * 64 : Int) ≤ ((p : Int) + left) * (max k.1 (lambdaReq k.2 q) : Nat))
    let q := (([6, 5, 4, 3, 2, 1].find? fits).getD 1)
    match (s.jobDies j).find? fun d => (s.die d).scheduled && decide (1 < (s.die d).curOp) && mayStretch (s.die d) (s.count d) with
    | some d => if q < (s.die d).curOp then s.askStretch d q rsCap else s
    | none => s

/-- A CAP request is outstanding on some die. -/
def State.capAsked (s : State) : Bool := computeDies.any fun d => match (s.die d).stretch with
  | .sent _ r _ => r == rsCap
  | .answered _ r _ => r == rsCap
  | _ => false

/-- The transfers of pools that wait apply (R489). -/
def applyPools (p : PackagePower) : PackagePower :=
  { p with pools := p.poolsNext.foldl (fun t e => tabSet t e.1 (tabGet 0 t e.1 + e.2)) p.pools, poolsNext := [] }

/-- ALLOCATION_PASS: the operand gives each die's measured average power, in milliwatts. No keeper, no pass (R495). -/
def allocationPass (power : List Nat) (s : State) : State :=
  if s.holder.isNone then s
  else
    let s : State := { s with power := applyPools s.power }
    let mw := fun d => power.getD d 0
    let n := s.kcount
    let r := s.allocate n mw
    let s := each s.served s fun s d =>
      let demand := dieDemand d (s.die d) (mw d)
      let a := tabGet 0 r.2 d
      let s := s.modDie d fun x => { x with alloc := a, demand := demand, measured := mw d }
      if isCompute d then (if (s.die d).scheduled then s else s.applyCompute d (mw d) a demand) else s.applyTraffic d a demand
    let s := if r.1 < 0 then s.capStretch r.1 mw else s
    { s with power := { s.power with unalloc := stick 16 (r.1.toNat / 1000) } }

def execAllocationPass (power : List Nat) (s : State) : Out := need (power.length == 100) (allocationPass power s)

/-! ## Job pools (R489) -/

/-- A job's unmet demand, that on critical dies, and what it was allocated and did not draw, in watts, as the last pass left them. -/
def State.poolNeeds (s : State) (j : Nat) : Nat × Nat × Nat :=
  let ds := s.jobDies j
  let unmet := fun d => (s.die d).demand - (s.die d).alloc
  let crit := ds.filter fun d => s.dieTier s.kcount d == 0
  ((ds.map unmet).sum / 1000, (crit.map unmet).sum / 1000, (ds.map fun d => (s.die d).alloc - (s.die d).measured).sum / 1000)

/-- Jobs of the package that span packages. -/
def State.poolJobs (s : State) : List Nat := (s.spanning.map fun c => (s.ctx c).job).foldl addTo []

/-- POOL_REPORT_TIMER. -/
def poolReportTimer (s : State) : State :=
  if s.holder.isNone then s
  else each s.poolJobs s fun s j => let p := s.poolNeeds j; s.send (.pool j p.1 p.2.1 p.2.2)

def execPoolReportTimer (s : State) : Out := need true (poolReportTimer s)

/-- What a transfer may move at most, as far as this package can tell: its own cap in force never exceeds POOL_MAX, is not raised while POOL_MAX ≤ CAP, and is not
lowered below zero (R489). -/
def State.poolRoom (s : State) (source dest : Nat) : Option Nat :=
  let cap := capInForce (applyPools s.power)
  if dest = s.pkgId then some (if s.power.poolMax ≤ s.power.cap then 0 else s.power.poolMax - cap)
  else if source = s.pkgId then some cap
  else none

/-- A transfer between two packages of a job; where this package is one of them, its cap in force moves by the same amount at its next allocation pass (R489). -/
def State.transfer (s : State) (j source dest w : Nat) : State :=
  let old := tabGet 0 s.power.poolsNext j
  let i : Int := if dest = s.pkgId then (w : Int) else if source = s.pkgId then -(w : Int) else 0
  ({ s with power := { s.power with poolsNext := if i = 0 then s.power.poolsNext else tabSet s.power.poolsNext j (old + i) } } : State).send (.transfer j source dest w)

/-- Unused power goes to unmet demand, that on critical dies first, packages in ascending order (R489). -/
def State.movePower (s : State) (j : Nat) (k : Coord) : State :=
  let needs := (k.pools.filter fun e => 0 < e.2.2.1).map (fun e => (e.1, e.2.2.1)) ++ (k.pools.filter fun e => e.2.2.1 < e.2.1).map fun e => (e.1, e.2.1 - e.2.2.1)
  let spare := (k.pools.filter fun e => 0 < e.2.2.2).map fun e => (e.1, e.2.2.2)
  (needs.foldl (fun (acc : State × List (Nat × Nat)) nd =>
    (acc.2.foldl (fun (a : State × List (Nat × Nat) × Nat) sp =>
      let w := if sp.1 = nd.1 then 0 else min (min sp.2 a.2.2) ((a.1.poolRoom sp.1 nd.1).getD sp.2)
      (if w = 0 then a.1 else a.1.transfer j sp.1 nd.1 w, a.2.1 ++ [(sp.1, sp.2 - w)], a.2.2 - w)) (acc.1, [], nd.2)) |> fun r => (r.1, r.2.1)) (s, spare)).1

/-- POOL_REPORT at the coordinator. -/
def poolReport (j pkg unmet crit unused : Nat) (s : State) : State :=
  match s.coord? j with
  | none => s
  | some k =>
    let k := { k with pools := tabSet k.pools pkg (unmet, min unmet crit, unused) }
    let s := (s.setCoord j (some k)).movePower j k
    s.modCoord j fun k => { k with pools := k.pools.filter fun e => e.2.2.2 == 0 }

def execPoolReport (job pkg unmet critUnmet unused : Nat) (s : State) : Out := need true (poolReport job pkg unmet critUnmet unused s)

end Sys2Proof.Machine
end

