-- ==== Sys2Proof/Machine/Transport.lean ====
section
/-! DEFINITION. Chapter 15: packets at their destination and in transit, acknowledgement and resending, path set-up and teardown, groups, and the time tree. -/

namespace Sys2Proof.Machine

/-! ## Packets in transit (R453, R459) -/

/-- A packet goes over the mesh from the link die that received it to the one that it leaves by; it is lost where no path leads there (R26). -/
def State.cross (s : State) (port out : Nat) (l : List Packet) : State := if s.reaches (88 + port) (88 + out) then s.post out l else s

/-- A packet of a flow on its way from the source, at a package that its route passes: by the transit entry of the link die that received it. -/
def State.forward (s : State) (port : Nat) (p : Packet) : State :=
  match s.transits.find? fun t => t.srcPkg == p.srcPkg && t.flow == p.flow && t.route == p.route && t.die == 88 + port && !t.group with
  | none => s
  | some t => if portUp (s.port t.outPort) then s.cross port t.outPort [p] else s.tellRouteFail t

/-- An answer on its way back to the source, along the reverse of the route. -/
def State.backward (s : State) (port : Nat) (p : Packet) (group : Bool) : State :=
  match s.transits.find? fun t => t.srcPkg == p.dstPkg && t.flow == p.flow && t.route == p.route && t.outPort == port && t.group == group with
  | none => s
  | some t => s.cross port (t.die - 88) [p]

/-! ## Acceptance in PSN order (R447) -/

def State.rx? (s : State) (k : Nat) : Option RxFlow := tabGet none s.rxFlows k
def State.setRx (s : State) (k : Nat) (x : Option RxFlow) : State := { s with rxFlows := tabSet s.rxFlows k x }
def State.modRx (s : State) (k : Nat) (f : RxFlow → RxFlow) : State :=
  match s.rx? k with
  | some x => s.setRx k (some (f x))
  | none => s

/-- The answer of a flow's destination: an ACK or a NACK, or a group's GROUP_ACK, with the next PSN expected; a group's NACK has an ADDR of the group space
(DESIGN CHOICE, log entry 121). `data` is empty, or the fault of a rejected access. -/
def State.answerRx (s : State) (k : Nat) (nack : Bool) (data : List Byte) : State :=
  match s.rx? k with
  | none => s
  | some x =>
    let ty := if nack then 7 else if x.group then 0x0C else 6
    let addr := if nack && x.group then 3 * 2 ^ 48 + x.flow * 2 ^ 32 else 0
    (s.setRx k (some { x with unacked := 0, nackAt := if nack then some (s.count (88 + x.link)) else x.nackAt })).emit x.link
      { s.packet ty x.cls x.srcPkg x.flow addr data.length data with route := x.route, psn := x.expect }

/-- Accept a packet whose PSN is the next of its flow and perform it with `f`; one ahead is answered with a NACK, at most one in 2 µs, and one behind with an
ACK (R447). An ACK follows every 32 packets. -/
def State.accept (s : State) (port k : Nat) (p : Packet) (f : State → RxFlow → State) : State :=
  match s.rx? k with
  | none => s
  | some x =>
    let x := { x with link := port, cls := p.cls, route := p.route }
    let s := s.setRx k (some x)
    let x := if x.resync then { x with resync := false, expect := p.psn } else x
    let gap := (p.psn - x.expect).toNat
    if x.pruned then s
    else if gap = 0 then
      let s := f ((s.setRx k (some { x with expect := x.expect + 1, unacked := x.unacked + 1 })).perfAdd (88 + port) 3 1) x
      if 32 ≤ x.unacked + 1 then s.answerRx k false [] else s
    else if gap < 2 ^ 31 then
      if (x.nackAt.map fun t => decide (s.count (88 + port) < t + 2000)).getD false then s else s.answerRx k true []
    else s.answerRx k false []

/-- A remote access is rejected at its destination (R42, R440 to R442, R232): the link die that delivered it records the fault, which faults the job, and the
answer carries its code and address back, since the fault goes to the context that issued the access (how it gets there is a DESIGN CHOICE, log entry 40). -/
def State.farReject (s : State) (port : Nat) (x : RxFlow) (code a : Nat) : State :=
  let d := 88 + port
  let s := (s.note d 0x01 code noCtx (le 8 a ++ le 1 0)).holdRec { code := code, die := d, count := s.count d, ctxs := [x.ctx], job := true }
  s.answerRx (rxKeyOf x.srcPkg x.flow x.group) false (be 2 code ++ be 8 a)

/-- F_ADDR_UNMAPPED of a remote access. -/
def State.farUnmapped (s : State) (port : Nat) (x : RxFlow) (a : Nat) : State := s.farReject port x fAddrUnmapped a

/-- The answer to a rejected access reaches the package that issued it: the fault goes to the issuing context, with an entry of KIND 0x0B and no second fault
record of the ledger (as R464 has it for a forwarded record; log entry 40). -/
def State.adopt (s : State) (port c : Nat) (data : List Byte) : State :=
  if data.length < 10 then s
  else
    let d := 88 + port
    let code := ofBe (slice data 0 2)
    (s.note d 0x0B 440 c (le 2 code ++ le 8 (ofBe (slice data 2 8)))).holdRec
      { code := code, die := d, count := s.count d, ctxs := [c], job := true, vectors := s.errVectors [c] }

/-- A landing area that a path names lies in a shelf, loft or cellar region of a context, bound or not (R453). -/
def State.landable (s : State) (c a n : Nat) : Bool :=
  match s.locate a n with
  | .shelf k _ => (s.ctxCores c).contains k
  | .loft d _ => (s.ctxPhys c).contains d
  | .cellar b => s.cellarMapped b n && s.mayWrite (.context c) b n
  | _ => false

/-- A target lies in a flow's landing area, and `farEnd` names it (R440). -/
def State.landing (s : State) (x : RxFlow) (a n : Nat) (write : Bool) : End :=
  if within a n x.landBase x.landBytes then s.farEnd x.ctx a n write else .unmapped

/-- F_SLOT_GUARD of an inbound fabric store, met at the consumer's die (R333 cause 2, R334). R334 does not say which unit or which issue offset the record of
a store from another package holds: the record names the mover, and an offset of all ones (DESIGN CHOICE, log entry 80). -/
def State.farGuard (s : State) (c k : Nat) (g : Nat × Nat × Nat) : State :=
  s.slotGuard (keyDie k) (match keyCore k with | some o => o % 4 | none => 0xFE) uMover g.1 c g.2.1 g.2.2 (le 4 0xFFFFFFFF)

/-- A remote store (R440): whole or not at all; a pinned region takes none (R232), nor in scheduled mode a FILLED link slot (R333). -/
def State.farStore (s : State) (port : Nat) (x : RxFlow) (a : Nat) (l : List Byte) : State :=
  match s.landing x a l.length true with
  | .store k =>
    match s.guardOf x.ctx true a l.length with
    | some g => s.farGuard x.ctx k g
    | none => s.putWords k l
  | .cellar b =>
    if s.pinned b l.length false then s.farReject port x fWeightsPinned b
    else s.cellarPut (.context x.ctx) b l
  | .invalid => s.farReject port x fScoreInvalid a
  | _ => s.farUnmapped port x a

/-- A packet that arrived on `port` for a local range waits at its die, behind those of its flow that wait already (R51, R443). -/
def State.packetWaits (s : State) (p : Packet) (a n : Nat) : Bool :=
  s.placeWaits a n || s.meshWait.any fun e => e.2.srcPkg == p.srcPkg && e.2.flow == p.flow

/-- Take a packet to a local range: it is lost where no path leads to its die, as one that a link loses is (R26, R447), waits where that die's cores do not
run, and else goes on with `f`. -/
def State.towards (s : State) (port : Nat) (p : Packet) (a n : Nat) (f : State) : State :=
  if s.cutOff (88 + port) a n then s
  else if s.packetWaits p a n then { s with meshWait := s.meshWait ++ [(port, p)] }
  else f

/-- WRITE (R440, R447). -/
def write (port : Nat) (p : Packet) (s : State) : State :=
  let a := faLow p.addr.toNat
  let l := p.data.take 936
  if p.dstPkg ≠ s.pkgId then s.forward port p
  else s.towards port p a l.length (s.accept port (rxKeyOf p.srcPkg p.flow false) p fun s x => s.farStore port x a l)

def execWrite (port : Nat) (p : Packet) (s : State) : Out := need (isPort port) (write port p s)

/-- A remote load's data, answered with READ_DATA. -/
def State.answerRead (s : State) (port : Nat) (x : RxFlow) (p : Packet) (l : List Byte) : State :=
  s.emit port { s.packet 3 p.cls x.srcPkg p.flow p.addr.toNat l.length l with route := p.route, psn := p.psn }

/-- READ_REQ (R440). -/
def readReq (port : Nat) (p : Packet) (s : State) : State :=
  let a := faLow p.addr.toNat
  let n := min 936 p.len
  if p.dstPkg ≠ s.pkgId then s.forward port p
  else s.towards port p a n <| s.accept port (rxKeyOf p.srcPkg p.flow false) p fun s x =>
    match s.landing x a n false with
    | .store k => match s.guardOf x.ctx false a n with
      | some g => s.farGuard x.ctx k g
      | none => (s.eccRead k n).answerRead port x p (readBytes s.mem k n)
    | .cellar b => match s.cellarGet (.context x.ctx) b n with
      | (t, some l) => t.answerRead port x p l
      | (t, none) => t
    | _ => s.farUnmapped port x a

def execReadReq (port : Nat) (p : Packet) (s : State) : Out := need (isPort port) (readReq port p s)

/-- The data of a load at their place, while that is still open to the context; the mover waits for one answer less (R190, R193, R439). A region pinned by then
takes none (R232). -/
def State.loadLands (s : State) (port : Nat) (c : Nat) (x : Load) (l : List Byte) : State :=
  let s := if x.dest < computeBase then
      (if s.pinned x.dest l.length false then s.raise (68 + cellarOf x.dest) fWeightsPinned [c] (le 8 x.dest) else s.cellarPut (.context c) x.dest l)
    else if (match keyCore x.dest with | some k => s.shelfOpen c k true | none => s.loftOpen c (keyDie x.dest) true) then s.putWords x.dest l
    else s.raise (88 + port) fAddrUnmapped [c] (le 8 (s.localOf x.dest) ++ le 1 0)
  s.answered x.core

/-- READ_DATA (R439): the data of a load that still waits reach their place. -/
def readData (port : Nat) (p : Packet) (s : State) : State :=
  if p.dstPkg ≠ s.pkgId then s.backward port p false
  else match s.flow? p.flow with
    | none => s
    | some x =>
      match x.loads.find? fun l => l.addr == p.addr.toNat && l.len == p.data.length with
      | none => s
      | some l =>
        let a := if l.dest < computeBase then l.dest else s.localOf l.dest
        s.towards port p a p.data.length ((s.modFlow p.flow fun y => { y with loads := y.loads.erase l }).loadLands port x.ctx l p.data)

def execReadData (port : Nat) (p : Packet) (s : State) : Out := need (isPort port) (readData port p s)

/-- ATOMIC (R440, R442): every request as one indivisible step; a reserved OP rejects the whole with F_SCORE_INVALID. -/
def atomic (port : Nat) (p : Packet) (s : State) : State :=
  let a := bits p.addr.toNat 0 47
  let n := 8 * (p.data.length / 16)
  if p.dstPkg ≠ s.pkgId then s.forward port p
  else s.towards port p a n <| s.accept port (rxKeyOf p.srcPkg p.flow false) p fun s x =>
    if !within a n x.landBase x.landBytes then s.farUnmapped port x a
    else match s.atomics x.ctx a p.data with
      | .ok t => t
      | .badOp => s.farReject port x fScoreInvalid a
      | .unmapped => s.farUnmapped port x a
      | .pinned => s.farReject port x fWeightsPinned a

def execAtomic (port : Nat) (p : Packet) (s : State) : Out := need (isPort port) (atomic port p s)

/-- The tally that a SIGNAL names: a KIND 0 tally of the flow's context (R441). -/
def State.signalTo (s : State) (c vid port : Nat) : Option (Nat × Nat) :=
  (((s.launchOf c).bind fun l => findTally l vid).filter fun e => e.kind == 0).bind fun e => s.tallyHome e (88 + port)

/-- SIGNAL (R441): an INC of the source word's low half, 0 taken as 1, as a mesh operation from the link die, in the order of that die's index (R298); one to
a quenched context is discarded (R301). -/
def signal (port : Nat) (p : Packet) (s : State) : State :=
  if p.dstPkg ≠ s.pkgId then s.forward port p
  else s.accept port (rxKeyOf p.srcPkg p.flow false) p fun s x =>
    let vid := bits p.addr.toNat 0 16
    if s.quenchedCtx x.ctx then s
    else match s.signalTo x.ctx vid port with
      | none => s.farUnmapped port x p.addr.toNat
      | some h => { s with tallyMsgs := s.tallyMsgs ++
          [{ ctx := x.ctx, home := h.1, index := h.2, vid := vid, act := .inc, n := max 1 (fieldAt p.data 0 4), src := .fabric p.srcPkg, rank := 4 * (88 + port) }] }

def execSignal (port : Nat) (p : Packet) (s : State) : Out := need (isPort port) (signal port p s)

/-! ## Groups at their root: acknowledgements (R462, R463) -/

/-- How far a member has acknowledged, above a group's oldest PSN. -/
def ackedOf (g : Group) (m : Member) : Nat := (m.acked - g.oldest).toNat

/-- The members still in the group, and the lowest that they have acknowledged; all that was sent where none is left. -/
def inGroup (g : Group) : List Member := g.members.filter fun m => !m.pruned
def lowestAck (g : Group) : Nat := match inGroup g with
  | [] => g.sent
  | m :: t => t.foldl (fun n x => min n (ackedOf g x)) (ackedOf g m)

/-- What every member still in the group has acknowledged leaves the window; the prune timer restarts (R463). -/
def State.advanceGroup (s : State) (k : Nat) : State :=
  match s.group? k with
  | none => s
  | some g =>
    let n := min g.sent (lowestAck g)
    let now := s.kcount
    let s := each (g.owners.take n) s fun s c => s.answered c
    let w := g.window.drop n
    let full := if n = 0 then g.fullAt else if w.length < 256 then none else some now
    (s.setGroup k (some { g with
      oldest := g.oldest + BitVec.ofNat 32 n, window := w, owners := g.owners.drop n, sent := g.sent - n, fullAt := full
      tries := if n = 0 then g.tries else 0 })).pumpGroup k

/-- The group that a member's answer is for: of its id, with that member, and with the PSN among those sent. -/
def State.groupOf (s : State) (p : Packet) : Option Nat :=
  (tabKeys s.groups fun k x => match x with
    | some g => k % 65536 == p.flow && (g.members.any fun m => m.pkg == p.srcPkg && decide ((p.psn - g.oldest).toNat ≤ g.sent))
    | none => false).head?

/-- A member has acknowledged every PSN below the one that it expects (R462). -/
def State.memberAck (s : State) (k : Nat) (p : Packet) : State :=
  (s.modGroup k fun g => { g with members := g.members.map fun m =>
    if m.pkg = p.srcPkg && ackedOf g m < (p.psn - g.oldest).toNat then { m with acked := p.psn } else m }).advanceGroup k

/-! ## Acknowledgement and resending (R447) -/

/-- ACK: every PSN below the one expected is acknowledged. -/
def State.acknowledge (s : State) (f : Nat) (psn : BitVec 32) : State :=
  match s.flow? f with
  | none => s
  | some x =>
    let n := (psn - x.oldest).toNat
    if n = 0 || x.sent < n then s
    else
      let s := each ((x.owners.take n).map (·.1)) s fun s c => s.answered c
      (s.setFlow f (some { x with
        oldest := psn, window := x.window.drop n, owners := x.owners.drop n, sent := x.sent - n, timeouts := 0 })).pump f

def ack (port : Nat) (p : Packet) (s : State) : State :=
  if p.dstPkg ≠ s.pkgId then s.backward port p false
  else match s.flow? p.flow with
    | some x => (s.acknowledge p.flow p.psn).adopt port x.ctx p.data
    | none => s

def execAck (port : Nat) (p : Packet) (s : State) : Out := need (isPort port) (ack port p s)

/-- NACK: what lies below the PSN is acknowledged, and the source, or a group's root, resends. -/
def nack (port : Nat) (p : Packet) (s : State) : State :=
  if p.dstPkg ≠ s.pkgId then s.backward port p (groupPacket p)
  else if groupPacket p then
    match s.groupOf p with
    | some k => (s.memberAck k p).resendGroup k
    | none => s
  else (s.acknowledge p.flow p.psn).resend p.flow

def execNack (port : Nat) (p : Packet) (s : State) : Out := need (isPort port) (nack port p s)

/-- ACK_TIMER: 2 µs after accepting a packet, the destination answers (R447, R462). `flow` is the key of the flow at its destination. -/
def execAckTimer (flow : Nat) (s : State) : Out :=
  need true (match s.rx? flow with
    | some x => if 0 < x.unacked then s.answerRx flow false [] else s
    | none => s)

/-- PSN_RESEND_TIMEOUT (R447, R459): the source resends; two on one route without an advance are a route failure. The number of a group's sequence is 2^30 above
its key (DESIGN CHOICE, log entry 121): its root resends. -/
def psnResendTimeout (f : Nat) (s : State) : State :=
  match s.flow? f with
  | none => if 2 ^ 30 ≤ f then s.resendGroup (f - 2 ^ 30) else s
  | some x =>
    if x.window.isEmpty then s
    else if 2 ≤ x.timeouts + 1 then (s.setFlow f (some { x with timeouts := 0 })).flowRouteFail f x.route
    else (s.setFlow f (some { x with timeouts := x.timeouts + 1 })).resend f

def execPsnResendTimeout (flow : Nat) (s : State) : Out := need true (psnResendTimeout flow s)

/-- ROUTE_FAIL (R459). -/
def routeFail (port : Nat) (p : Packet) (s : State) : State :=
  if p.dstPkg ≠ s.pkgId then s.backward port p false else s.flowRouteFail p.flow p.route

def execRouteFail (port : Nat) (p : Packet) (s : State) : Out := need (isPort port) (routeFail port p s)

/-! ## Bounds (R458) -/

/-- The mesh part of a bound from a link die to the farthest die of a context. -/
def State.meshPart (s : State) (c port : Nat) : Nat := s.meshBound (((s.ctxPhys c).map fun d => meshHops d (88 + port)).foldl max 0)

/-- One hop of a bound. -/
def State.hopPart (s : State) (port : Nat) : Nat := 300 + (s.port port).delay

/-! ## PATH_SETUP (R451 to R454) -/

/-- A path entry of a plan, with its LANES as the rules take them (R452). -/
structure PlanPath where
  path : Nat := 0
  dest : Nat := 0
  lanes : Nat := 0
  class1 : Bool := false
  sync : Bool := false
  routes : List (List Nat) := []
  hopsOk : Bool := false
  base : Nat := 0
  len : Nat := 0
  tracked : Nat := 0
  deriving DecidableEq, Repr

/-- A group entry of a plan (R461). -/
structure PlanGroup where
  id : Nat := 0
  class1 : Bool := false
  lanes : Nat := 0
  pruneUs : Nat := 10
  members : List (Nat × Nat) := []
  base : Nat := 0
  len : Nat := 0
  deriving DecidableEq, Repr

/-- A route record: HOPS in byte 0, then three bits for each hop (R452). -/
def routeOf (l : List Byte) (o : Nat) : List Nat :=
  let v := fieldAt l (o + 1) 15
  (List.range (min 40 (fieldAt l o 1))).map fun i => bits v (3 * i) 3

/-- LANES of an entry: above 14 is 14; a class 1 path, and one that transits a package, take at least 1 (R452). -/
def lanesOfEntry (n : Nat) (class1 transit : Bool) : Nat := if (class1 || transit) && n = 0 then 1 else min 14 n

def planPath (l : List Byte) (o : Nat) : PlanPath :=
  let k := fieldAt l (o + 8) 1
  let r := fieldAt l (o + 12) 4
  let recs := (List.range (min 4 k)).map fun i => r + 16 * i
  let routes := recs.map (routeOf l)
  { path := fieldAt l o 4, dest := fieldAt l (o + 4) 2 % 2 ^ 14, class1 := bit (fieldAt l (o + 7) 1) 0, sync := bit (fieldAt l (o + 7) 1) 1,
    lanes := lanesOfEntry (fieldAt l (o + 6) 1) (bit (fieldAt l (o + 7) 1) 0) (1 < (routes.headD []).length),
    routes := routes, hopsOk := 1 ≤ k && k ≤ 4 && recs.all fun a => a + 16 ≤ l.length && 1 ≤ fieldAt l a 1 && fieldAt l a 1 ≤ 40,
    base := fieldAt l (o + 16) 8, len := fieldAt l (o + 24) 8, tracked := fieldAt l (o + 32) 4 }

def planGroup (l : List Byte) (ps : List PlanPath) (o : Nat) : PlanGroup :=
  let n := fieldAt l (o + 6) 2
  let m := fieldAt l (o + 8) 4
  let mem := if m + 8 * n ≤ l.length then (List.range n).map fun i => (fieldAt l (m + 8 * i) 2, fieldAt l (m + 8 * i + 2) 4) else []
  let transit := mem.any fun e => (ps.find? fun p => p.path == e.2).any fun p => decide (1 < (p.routes.headD []).length)
  { id := fieldAt l o 2, class1 := bit (fieldAt l (o + 2) 1) 0, lanes := lanesOfEntry (fieldAt l (o + 3) 1) (bit (fieldAt l (o + 2) 1) 0) transit,
    pruneUs := fieldAt l (o + 4) 2, members := mem, base := fieldAt l (o + 16) 8, len := fieldAt l (o + 24) 8 }

/-- A group entry's fields lie in their ranges, and its members within the plan (R461). -/
def groupRange (g : PlanGroup) : Bool := 10 ≤ g.pruneUs && g.pruneUs ≤ 1000 && 1 ≤ g.members.length && g.members.length ≤ 16383

/-- A group entry is valid (R461). -/
def groupOk (ps : List PlanPath) (g : PlanGroup) : Bool :=
  noRepeat (g.members.map (·.1)) &&
    g.members.all fun m => ps.any fun p => p.path == m.2 && p.dest == m.1

/-- Free lanes of a port's direction, lowest first (R450). -/
def laneFree (x : Port) : List Nat := (List.range 15).filter fun i => (tabGet none x.lanesOwned i).isNone

/-- Reserve `n` lanes of a port for an owner, of a job. -/
def State.reserve (s : State) (port own job n : Nat) : State :=
  s.modPort port fun x => { x with
    lanesOwned := ((laneFree x).take n).foldl (fun t i => tabSet t i (some own)) x.lanesOwned
    laneJobs := ((laneFree x).take n).foldl (fun t i => tabSet t i job) x.laneJobs }

/-- The RESULT of a refusal (R454). -/
def refusal (reason port pkg : Nat) : Nat := reason * 2 ^ 32 + port * 2 ^ 40 + pkg * 2 ^ 48

/-- Checks that need no answer from another package: the first that fails, as reason and port. -/
def State.planRefused (s : State) (c quota : Nat) (ps : List PlanPath) (gs : List PlanGroup) : Option (Nat × Nat) :=
  let ports := ps.flatMap fun p => p.routes.map (·.headD 0)
  let used := fun (p : PlanPath) => s.flows.any fun e => match e.2 with
    | some f => f.ctx == c && f.path == p.path
    | none => false
  let others := (s.boundCtxs.filter (· != c)).foldl (fun n k => n + (s.ctx k).tracked) 0
  if !(ps.all fun p => p.hopsOk && p.path != 0xFFFFFFFF && !used p) || !noRepeat (ps.map (·.path)) || !gs.all groupRange then some (1, 0)
  else if (gs.any fun g => !groupOk ps g) || !noRepeat (gs.map (·.id)) || gs.any fun g => (s.group? (groupKey c g.id)).isSome then some (6, 0)
  else match ports.find? fun p => (s.port p).st ≠ .up with
    | some p => some (2, p)
    | none =>
      let n := (s.flows.filter fun e => e.2.isSome).length
      let homes := s.flows.filterMap fun e => e.2.map fun f => (f.routes.headD []).headD 0
      let mine := (s.flows.filterMap fun e => match e.2 with
        | some f => if f.ctx = c then some f.tracked else none
        | none => none).sum
      let onDie := fun (p : Nat) => (homes.filter (· == p)).length + (ps.filter fun q => (q.routes.headD []).headD 0 == p).length
      let ngroups := (s.groups.filter fun e => e.2.isSome).length
      if 262144 < n + ps.length || (ports.any fun p => decide (32768 < onDie p)) || 4096 < ngroups + gs.length ||
          1048576 < others + quota || quota < mine + (ps.map (·.tracked)).sum then some (4, 0)
      else
        let want := fun (p : Nat) =>
          ((ps.filter fun q => (q.routes.headD []).headD 0 == p).map (·.lanes)).sum +
          ((gs.filter fun g => g.members.any fun m => ps.any fun q => q.path == m.2 && (q.routes.headD []).headD 0 == p).map (·.lanes)).sum
        (ports.find? fun p => decide ((laneFree (s.port p)).length < want p)).map fun p => (3, p)

/-- The job check of R544 over JOB, SRC_PKG, DST_PKG, PATH and ROUTE; the answer's is over those followed by 0x01. -/
def jobCheck (key : List Byte) (job src dst path route : Nat) (tail : List Byte) : List Byte :=
  slice (hmac key (be 4 job ++ be 2 src ++ be 2 dst ++ be 4 path ++ be 1 route ++ tail)) 0 16

/-- The least flow number above every one in use. -/
def State.nextFlow (s : State) : Nat := (s.flows.map (·.1 + 1)).foldl max 0

/-- One path of a plan: its flow, its own lanes on the first hop of route 0, and a SETUP along every route. -/
def State.openPath (s : State) (c f : Nat) (p : PlanPath) : State :=
  let x := s.ctx c
  let s := s.setFlow f (some { ctx := c, path := p.path, dest := p.dest, lanes := p.lanes, class1 := p.class1, sync := p.sync, routes := p.routes,
                               landBase := p.base, landBytes := p.len, tracked := p.tracked })
  let first := (p.routes.headD []).headD 0
  let s := s.reserve first (flowOwner s.pkgId f) x.job p.lanes
  each p.routes.zipIdx s fun s r =>
    let port := r.1.headD 0
    s.sendSetup p.dest f r.2
      { job := x.job, lanes := p.lanes, hop := 1, sync := p.sync, route := r.1, base := p.base, len := p.len, bound := s.meshPart c port + s.hopPart port, path := p.path,
        mac := if x.sealed then jobCheck x.jobKey x.job s.pkgId p.dest p.path r.2 [] else [] }

/-- One group of a plan at its root: lanes on every first hop of its tree, and a SETUP along route 0 of every member's path (R462). -/
def State.openGroup (s : State) (c : Nat) (ps : List PlanPath) (g : PlanGroup) : State :=
  let k := groupKey c g.id
  let x := s.ctx c
  let s := s.setGroup k (some { ctx := c, id := g.id, class1 := g.class1, lanes := g.lanes, pruneUs := g.pruneUs, landBase := g.base, landBytes := g.len,
                                members := g.members.map fun m => { pkg := m.1, path := m.2 } })
  let routes := g.members.map fun m => (m.1, ((ps.find? fun p => p.path == m.2).map fun p => p.routes.headD []).getD [], m.2)
  let s := each ((routes.map fun r => r.2.1.headD 0).foldl addTo []) s fun s p => s.reserve p (groupOwner s.pkgId k) x.job g.lanes
  each routes s fun s r =>
    s.sendSetup r.1 g.id 0
      { job := x.job, lanes := g.lanes, hop := 1, group := true, route := r.2.1, base := g.base, len := g.len, path := r.2.2,
        mac := if x.sealed then jobCheck x.jobKey x.job s.pkgId r.1 r.2.2 0 [] else [] }

/-- PATH_SETUP. -/
def pathSetup (q : QRef) (s : State) : State :=
  s.command q fun s p => match p.cmd with
    | .pathSetup c a n =>
      if s.pathJobs.any fun j => j.q == q then s
      else if !s.alive c then s.endCmd q 1 0 0
      else
        let l := s.kernelRead q a n
        let np := fieldAt l 6 2
        let ng := fieldAt l 8 2
        let po := fieldAt l 12 4
        let go := fieldAt l 16 4
        let quota := fieldAt l 20 4
        if n < 64 || fieldAt l 0 4 ≠ (s.ctx c).job || fieldAt l 4 1 ≠ 1 || np = 0 || 4096 < np || 256 < ng || n < po + 64 * np || n < go + 32 * ng then
          s.endCmd q 1 0 (refusal 1 0 s.pkgId)
        else
          let ps := (List.range np).map fun i => planPath l (po + 64 * i)
          let gs := (List.range ng).map fun i => planGroup l ps (go + 32 * i)
          match s.planRefused c quota ps gs with
          | some r => s.endCmd q 1 0 (refusal r.1 r.2 s.pkgId)
          | none =>
            let f0 := s.nextFlow
            let old := (s.ctx c).tracked
            let s := s.modCtx c fun x => { x with tracked := quota }
            let s := each ps.zipIdx s fun s p => s.openPath c (f0 + p.2) p.1
            let s := each gs s fun s g => s.openGroup c ps g
            { s with pathJobs := s.pathJobs ++ [{ q := q, ctx := c, flows := (List.range np).map (f0 + ·), groups := gs.map fun g => groupKey c g.id, oldQuota := old,
                                                  awaited := (ps.map fun p => p.routes.length).sum + (gs.map fun g => g.members.length).sum }] }
    | _ => s

def execPathSetup (q : QRef) (s : State) : Out := need (isQueue q) (pathSetup q s)

/-- A set-up is refused: nothing that it reserved stays reserved (R454). -/
def State.refusePath (s : State) (j : PathJob) (result : Nat) : State := (s.dropJob j).endCmd j.q 1 0 result

/-- The SETUP messages of a set-up that nothing has answered: each one's first port and destination, paths before groups. -/
def State.unanswered (s : State) (j : PathJob) : List (Nat × Nat) :=
  (j.flows.flatMap fun f =>
    let x := (s.flow? f).getD {}
    (x.routes.zipIdx.filter fun r => !j.answers.contains (false, f, x.dest, r.2)).map fun r => (r.1.headD 0, x.dest)) ++
  j.groups.flatMap fun k =>
    let g := (s.group? k).getD {}
    (g.members.filter fun m => !j.answers.contains (true, k % 65536, m.pkg, 0)).map fun m => ((s.pathRoute j.ctx m.path).headD 0, m.pkg)

/-- PATH_SETUP_TIMEOUT (R454 reason 7): the port and package named are those of the first SETUP that has not been answered. -/
def pathSetupTimeout (q : QRef) (s : State) : State :=
  match s.pathJobs.find? fun j => j.q == q with
  | none => s
  | some j => let e := (s.unanswered j).headD (0, s.pkgId); s.refusePath j (refusal 7 e.1 e.2)

def execPathSetupTimeout (q : QRef) (s : State) : Out := need (isQueue q) (pathSetupTimeout q s)

/-- SETUP_ANS: reason, port, package, bound, and the answer of the job check. -/
def State.answerSetup (s : State) (port : Nat) (p : Packet) (m : SetupMsg) (reason badPort bound : Nat) (mac : List Byte) : State :=
  s.emit port { s.packet 0x0A 3 p.srcPkg p.flow 0 28 (be 1 reason ++ be 1 badPort ++ be 2 s.pkgId ++ be 4 bound ++ be 1 (b2n m.group) ++ be 3 0 ++ slice mac 0 16) with route := p.route }

/-- SETUP at DEST, taken by its keeper (R453 step 3, R544): the job has a context here, the landing area lies within it, and the job check agrees. -/
def State.setupHere (s : State) (port : Nat) (p : Packet) (m : SetupMsg) : State :=
  let k := rxKeyOf p.srcPkg p.flow m.group
  if m.release then s.setRx k none
  else if m.prune then s.modRx k fun x => { x with pruned := true }
  else if m.restore then s.modRx k fun x => { x with pruned := false, resync := x.resync || x.pruned }
  else if s.holder.isNone then s
  else match (s.jobCtxs m.job).find? fun c =>
      let x := s.ctx c
      let ok := if x.sealed then slice m.mac 0 16 == jobCheck x.jobKey m.job p.srcPkg p.dstPkg m.path p.route [] else m.mac.all (· == 0)
      ok && !x.dying && s.landable c m.base m.len with
    | none => s.answerSetup port p m 5 port 0 []
    | some c =>
      let x := s.ctx c
      let s := match s.rx? k with
        | some _ => s
        | none => s.setRx k (some { srcPkg := p.srcPkg, flow := p.flow, ctx := c, landBase := m.base, landBytes := m.len, link := port, group := m.group, sync := m.sync })
      s.answerSetup port p m 0 0 (m.bound + s.meshPart c port) (if x.sealed then jobCheck x.jobKey m.job p.srcPkg p.dstPkg m.path p.route [1] else [])

/-- A member leaves a transit entry, is pruned there, or returns (R455, R463, R464). -/
def leaveTransit (pkg : Nat) (m : SetupMsg) (t : Transit) : Transit :=
  if m.release then { t with members := t.members.filter (· != pkg), pruned := t.pruned.filter (· != pkg) }
  else if m.prune then { t with pruned := addTo t.pruned pkg }
  else { t with pruned := t.pruned.filter (· != pkg) }

/-- Transit entries go, and with the last of an owner's on a port its lanes there. -/
def State.dropTransits (s : State) (own : Nat) (p : Transit → Bool) : State :=
  let s : State := { s with transits := s.transits.filter fun t => !p t }
  if s.transits.any fun t => (if t.group then groupOwner t.srcPkg t.flow else flowOwner t.srcPkg t.flow) == own then s else s.freeLanes own

/-- SETUP at a package that the route passes: a transit entry, and on route 0 lanes on the outbound link (R453 step 2); or the release of both (R455). A group's entry
is shared by the members whose branches pass by it, and goes with the last of them. A message that no path of the mesh carries on is lost (R26). -/
def State.setupThrough (s : State) (port : Nat) (p : Packet) (m : SetupMsg) : State :=
  let out := m.route.getD m.hop 0
  let own := if m.group then groupOwner p.srcPkg p.flow else flowOwner p.srcPkg p.flow
  let mine := fun (t : Transit) => t.srcPkg == p.srcPkg && t.flow == p.flow && t.route == p.route && t.group == m.group && t.die == 88 + port && t.outPort == out
  let next := { m with hop := m.hop + 1, bound := m.bound + s.meshBound (meshHops (88 + port) (88 + out)) + s.hopPart out }
  let onward := fun (s : State) => s.cross port out [{ p with data := setupBytes next }]
  let change := fun (s : State) (f : Transit → Transit) => ({ s with transits := s.transits.map fun t => if mine t then f t else t } : State)
  if m.release || m.prune || m.restore then
    onward ((change s (leaveTransit p.dstPkg m)).dropTransits own fun t => mine t && m.release && t.members.isEmpty)
  else if (s.port out).st ≠ .up then s.answerSetup port p m 2 out 0 []
  else if s.transits.any mine then onward (change s fun t => { t with members := addTo t.members p.dstPkg })
  else if 65536 ≤ (s.transits.filter fun t => t.die == 88 + port).length then s.answerSetup port p m 4 port 0 []
  else
    let held := m.group && s.transits.any fun t => t.srcPkg == p.srcPkg && t.flow == p.flow && t.group && t.outPort == out
    let n := if p.route = 0 && !held then m.lanes else 0
    if (laneFree (s.port out)).length < n then s.answerSetup port p m 3 out 0 []
    else
      let s : State := { s with transits := s.transits ++
        [{ srcPkg := p.srcPkg, flow := p.flow, route := p.route, die := 88 + port, outPort := out, lanes := n, group := m.group, job := m.job, members := [p.dstPkg] }] }
      onward (s.reserve out own m.job n)

/-- SETUP. -/
def setup (port : Nat) (p : Packet) (s : State) : State :=
  let m := setupOf p.data
  if p.dstPkg = s.pkgId && m.route.length ≤ m.hop then s.setupHere port p m else s.setupThrough port p m

def execSetup (port : Nat) (p : Packet) (s : State) : Out := need (isPort port) (setup port p s)

/-- Every answer of a set-up is positive: its flows and groups become usable and the command completes with the largest bound over route 0 (R453 step 4). -/
def State.pathDone (s : State) (j : PathJob) : State :=
  if j.awaited ≠ 0 then s
  else
    let s : State := { s with pathJobs := s.pathJobs.filter fun (k : PathJob) => k.q != j.q }
    let s := each j.groups s fun s k => s.modGroup k fun g => { g with usable := true }
    (each j.flows s fun s f => s.modFlow f fun x => { x with usable := true }).endCmd j.q 0 0 j.bound

/-- SETUP_ANS at the source. -/
def setupAns (port : Nat) (p : Packet) (s : State) : State :=
  let group := bit (ofBe (slice p.data 8 1)) 0
  if p.dstPkg ≠ s.pkgId then s.backward port p group
  else
    match s.pathJobs.find? fun j => if group then j.groups.any fun k => k % 65536 == p.flow else j.flows.contains p.flow with
    | none => s
    | some j =>
      let x := s.ctx j.ctx
      let reason := ofBe (slice p.data 0 1)
      let path := if group then
          (((s.group? ((j.groups.find? fun k => k % 65536 == p.flow).getD 0)).getD {}).members.find? fun m => m.pkg == p.srcPkg).map (·.path) |>.getD 0
        else ((s.flow? p.flow).getD {}).path
      let good := !x.sealed || slice p.data 12 16 == jobCheck x.jobKey x.job s.pkgId p.srcPkg path p.route [1]
      if reason ≠ 0 then s.refusePath j (refusal reason (ofBe (slice p.data 1 1)) (ofBe (slice p.data 2 2)))
      else if !good then s.refusePath j (refusal 5 port p.srcPkg)
      else
        let b := if p.route = 0 && !group then max j.bound (ofBe (slice p.data 4 4)) else j.bound
        let j := { j with awaited := j.awaited - 1, bound := b, answers := j.answers ++ [(group, p.flow, p.srcPkg, p.route)] }
        ({ s with pathJobs := s.pathJobs.map fun (k : PathJob) => if k.q = j.q then j else k } : State).pathDone j

def execSetupAns (port : Nat) (p : Packet) (s : State) : Out := need (isPort port) (setupAns port p s)

/-- PATH_TEARDOWN (R455): refused while a LAUNCH of the context is in flight; it waits until its flows' tracked requests are released. -/
def pathTeardown (q : QRef) (s : State) : State :=
  s.command q fun s p => match p.cmd with
    | .pathTeardown c path =>
      let fs := s.pathFlows c path
      if !s.alive c || (s.launchOf c).isSome || (fs.isEmpty && path != 0xFFFFFFFF) then s.endCmd q 1 0 0
      else if fs.any fun f => ((s.flow? f).map fun x => !x.window.isEmpty).getD false then s
      else (s.dropPaths c path).endCmd q 0 0 0
    | _ => s

def execPathTeardown (q : QRef) (s : State) : Out := need (isQueue q) (pathTeardown q s)

/-! ## Groups (R462 to R464) -/

/-- A member lands a group's packet (R462). -/
def State.groupLand (s : State) (port : Nat) (p : Packet) : State :=
  let k := rxKeyOf p.srcPkg p.flow true
  let l := p.data.take 936
  match s.rx? k with
  | none => s
  | some x =>
    let a := x.landBase + bits p.addr.toNat 0 32
    s.towards port p a l.length (s.accept port k p fun s x => s.farStore port x a l)

/-- GROUP_WRITE: copies go on by every transit entry of the group on the link die that leads to a member not pruned, and a member lands its own (R462, R463). -/
def groupWrite (port : Nat) (p : Packet) (s : State) : State :=
  let outs := s.transits.filter fun t => t.srcPkg == p.srcPkg && t.flow == p.flow && t.group && t.die == 88 + port && t.members.any fun m => !t.pruned.contains m
  (each ((outs.map (·.outPort)).foldl addTo []) s fun s o => s.cross port o [p]).groupLand port p

def execGroupWrite (port : Nat) (p : Packet) (s : State) : Out := need (isPort port) (groupWrite port p s)

/-- GROUP_ACK at the root (R462). -/
def groupAck (port : Nat) (p : Packet) (s : State) : State :=
  if p.dstPkg ≠ s.pkgId then s.backward port p true
  else match s.groupOf p with
    | none => s
    | some k => (s.memberAck k p).adopt port ((s.group? k).getD {}).ctx p.data

def execGroupAck (port : Nat) (p : Packet) (s : State) : Out := need (isPort port) (groupAck port p s)

/-- One member is pruned (R463, R464): F_MCAST_PRUNED with the first group offset that it has not acknowledged, the record forwarded to it, and the replicators of its
branch told (how they learn of it is a DESIGN CHOICE, log entry 39). -/
def State.pruneMember (s : State) (k : Nat) (g : Group) (m : Member) : State :=
  let first := ((g.window[ackedOf g m]?).map fun p => bits p.addr.toNat 0 32).getD 0
  let s := s.modGroup k fun g => { g with members := g.members.map fun x => if x.pkg = m.pkg then { x with pruned := true } else x }
  ((s.sendMember g { prune := true } m).raise s.keeperDie fMcastPruned [g.ctx] (le 2 g.id ++ le 2 m.pkg ++ le 8 first)).send (.prune (s.ctx g.ctx).job g.id m.pkg first (s.count s.keeperDie))

/-- PRUNE_TIMER (R463): members at the lowest PSN of a full window are pruned, and sending resumes. -/
def pruneTimer (c id : Nat) (s : State) : State :=
  let k := groupKey c id
  match s.group? k with
  | none => s
  | some g =>
    if g.fullAt.isNone then s
    else (each ((inGroup g).filter fun m => ackedOf g m == lowestAck g) s fun s m => s.pruneMember k g m).advanceGroup k

def execPruneTimer (ctx group : Nat) (s : State) : Out := need (isContext ctx) (pruneTimer ctx group s)

/-! ## Time tree (R466 to R468) -/

/-- A TIME payload (R466). -/
def timeBytes (kind : Nat) (m : TimeMsg) : List Byte :=
  be 2 kind ++ be 1 m.depth ++ be 1 (b2n m.aligned) ++ be 4 m.seq ++ be 8 m.t1.toNat ++ be 8 m.t2.toNat ++ be 8 m.t3.toNat

/-- DEPTH and ALIGNED as the package shows them: 0 for the root, 0xFF where not aligned. -/
def State.alignedNow (s : State) : Bool := (s.die 88).tb.aligned
def State.depthNow (s : State) : Nat := if !s.alignedNow then 0xFF else if s.time.root then 0 else s.time.depth

/-- The package takes part as a child. -/
def State.timeChild (s : State) : Bool := s.time.enable && !s.time.root

/-- TIME_EXCHANGE_START (R466): SYNC_REQ to the parent, across a port that is UP. -/
def timeExchangeStart (s : State) : State :=
  let p := s.time.parent
  if !s.timeChild || (s.port p).st ≠ .up || !sendable (s.port p) 0 then s
  else
    let n := (s.time.seq + 1) % 2 ^ 32
    let t1 := s.count (88 + p)
    let s := { s with time := { s.time with seq := n, outstanding := some n, t1 := t1 } }
    s.sendSeq p 4 0 32 (timeBytes 0x0101 { depth := s.depthNow, aligned := s.alignedNow, seq := n, t1 := BitVec.ofNat 64 t1, t2 := 0, t3 := 0, replay := false })

def execTimeExchangeStart (s : State) : Out := need true (timeExchangeStart s)

/-- A time message whose COUNT lies more than 1 ms from the port's own is ignored (R434). -/
def State.farCount (s : State) (port : Nat) (m : TimeMsg) : Bool := decide (1000000 < ((m.count : Int) - s.count (88 + port)).natAbs)

/-- SYNC_REQ at the parent: answered with SYNC_RESP, stamped T3 (R466). A frame that was replayed is discarded. -/
def syncReq (port : Nat) (m : TimeMsg) (t2 : Word) (s : State) : State :=
  if m.replay || s.farCount port m || (s.port port).st ≠ .up || !sendable (s.port port) 0 then s
  else s.sendSeq port 4 0 32 (timeBytes 0x0102
    { depth := s.depthNow, aligned := s.alignedNow, seq := m.seq, t1 := m.t1, t2 := t2, t3 := BitVec.ofNat 64 (s.count (88 + port)), replay := false })

def execSyncReq (port : Nat) (m : TimeMsg) (t2 : Word) (s : State) : Out := need (isPort port) (syncReq port m t2 s)

/-- θ, rounded to the nearest count (R467); which way a half goes the manual does not say. -/
def theta (t1 t2 t3 t4 : Nat) : Int :=
  let n := ((t2 : Int) - t1) - ((t4 : Int) - t3)
  if n % 2 = 0 then n / 2 else if Config.thetaTie n then n / 2 + 1 else n / 2

/-- TIME_STEP_CORRECTION (R467): every die's count steps forward, or holds still; its expected RACK_SYNC counts move with it. -/
def State.stepCount (s : State) (i : Int) : State :=
  each dieList s fun s d =>
    let s := s.note d 0x03 467 noCtx (le 8 (ofSigned 64 i) ++ le 8 (s.count d))
    s.modDie d fun x => { x with tb :=
      if 0 < i then { x.tb with disp := x.tb.disp + i, expect := x.tb.expect + i }
      else { x.tb with hold := x.tb.hold + i.natAbs, expect := x.tb.expect + i } }

/-- OFFSET's range (R470). -/
def clampOffset (i : Int) : Int := max (-0x7FFFFFFF) (min 0x7FFFFFFF i)

/-- ALIGNED after an exchange (R468), and the root that the package is aligned to (R471). -/
def State.alignAfter (s : State) (i : Int) (m : TimeMsg) : State :=
  let good := if i.natAbs ≤ 2 then s.time.good + 1 else 0
  let s : State := { s with time := { s.time with good := good } }
  if 3 < i.natAbs || !m.aligned then ({ s with time := { s.time with depth := 0xFF, rootPkg := none } } : State).setAligned false
  else if 2 ≤ good && m.depth ≤ 9 then ({ s with time := { s.time with depth := m.depth + 1, rootPkg := some m.root } } : State).setAligned true
  else s

/-- SYNC_RESP at the child (R467, R468). -/
def syncResp (port : Nat) (m : TimeMsg) (t4 : Word) (s : State) : State :=
  if !s.timeChild || port ≠ s.time.parent || s.time.outstanding ≠ some m.seq || s.farCount port m then s
  else
    let s : State := { s with time := { s.time with outstanding := none } }
    if m.replay then s
    else
      let i := theta m.t1.toNat m.t2.toNat m.t3.toNat t4.toNat
      let s : State := { s with time := { s.time with offset := clampOffset i, exchanges := stick 16 (s.time.exchanges + 1) } }
      let s := if !s.admitted && 1000 < i.natAbs then s.stepCount i else if s.holder.isSome then s.writeSlew i else s
      s.alignAfter i m

def execSyncResp (port : Nat) (m : TimeMsg) (t4 : Word) (s : State) : Out := need (isPort port) (syncResp port m t4 s)

/-- TIME_EXCHANGE_TIMEOUT (R466). -/
def execTimeExchangeTimeout (s : State) : Out := need true { s with time := { s.time with outstanding := none } }

/-- ALIGNMENT_TIMEOUT (R468). -/
def alignmentTimeout (s : State) : State :=
  if s.timeChild then ({ s with time := { s.time with good := 0, depth := 0xFF } } : State).setAligned false else s

def execAlignmentTimeout (s : State) : Out := need true (alignmentTimeout s)

end Sys2Proof.Machine
end

