-- ==== Sys2Proof/Machine/Keepers.lean ====
section
/-! DEFINITION. Chapter 17, supervision: delivery of fault records and their effects, quarantine, the keepers and their token, the hatch sequencers, and the
continuity of the ring. -/

namespace Sys2Proof.Machine

/-! ## Keepers that stop (R503, R507, R508) -/

def keeperNo (k : Nat) : Bool := k < 2

/-- The serving hatch sequencer: H0's, or H1's where H0's has failed (R498). -/
def State.servingHatch (s : State) : Nat := if s.hatch0.failed then 1 else 0

/-- A keeper's state changes: an entry, and HQ_CAUSE.SERVICE (R353, R562). -/
def State.keeperTo (s : State) (k : Nat) (st : KeeperSt) : State :=
  if s.keeper k = st then s
  else ((s.noteState s.serviceDie 3 k (keeperCode (s.keeper k)) (keeperCode st)).setKeeper k st).causeService

/-- Every queue takes, or loses, the hold cause KEEPER (R370). -/
def State.holdKeeper (s : State) (b : Bool) : State := each s.allQueues s fun s q => s.putQueue q fun x => { x with holdKeeper := b }

/-- Neither keeper holds the token: hatch service begins and F_NO_KEEPER is raised by the serving hatch sequencer (R508). Start-up halts, unless a keeper is
still to boot (R558). -/
def State.noKeeper (s : State) : State :=
  let s := s.holdKeeper true
  if s.service = .startUp then { s with halted := s.halted || (s.keeper0 != .booting && s.keeper1 != .booting) }
  else (({ s with service := .hatch, wasStopped := s.service == .stopped } : State).raise (96 + s.servingHatch) fNoKeeper [] []).causeService

/-- A keeper stops: it loses the token where it held it; with no standby to take it, no keeper is left. -/
def State.loseKeeper (s : State) (k : Nat) (st : KeeperSt) : State :=
  let stood := s.keeper k == .active || s.keeper k == .standby
  let s := s.keeperTo k st
  let s := if s.holder = some k then { s with holder := none, sessions := [] } else s
  if !stood || s.holder.isSome || s.keeper (1 - k) = .standby || s.service = .hatch then s else s.noKeeper

/-- The die of the unit that declares a keeper failed: its peer's, or that of the serving hatch sequencer. -/
def State.declarer (s : State) (k : Nat) : Nat :=
  if s.keeper (1 - k) = .active || s.keeper (1 - k) = .standby then 98 + (1 - k) else 96 + s.servingHatch

/-- A keeper is declared failed by its peer, or by H0's hatch sequencer (R503, R507). -/
def State.keeperFails (s : State) (k : Nat) : State :=
  (s.raise (s.declarer k) fKeeperFail [] (le 1 k)).loseKeeper k .failed

/-! ## Die failure (R511 to R513) -/

/-- The job of a context is faulted, as detected at a count; a job over packages is told of (R132, R500). -/
def State.faultCtx (s : State) (c code count : Nat) : State :=
  if (s.ctx? c).isNone then s
  else
    let s := if (s.ctx c).faulted.isNone then s.tellJob c code count else s
    s.faultJob (s.ctx c).job code

/-- A compute die is quarantined (R512) with the code of the fault behind it, of which every job bound to it is told. -/
def State.quarantine (s : State) (d code : Nat) : State :=
  if (s.die d).failed.isSome then s
  else
    let s := ((s.noteState s.serviceDie 4 d 0 1).journalRec 4 d).modDie d fun x => { x with failed := some code, bypass := true, railOff := x.railOff || code == fRailFault }
    each (s.dieCtxs d) s fun s c => s.faultCtx c code s.kcount

/-- A die of another kind fails (R513): a cellar die's channels fail, a link die's port leaves UP and its flows are lost, a host die's link is down and its
hatch sequencer out of service. -/
def State.otherFails (s : State) (d code : Nat) : State :=
  if (s.die d).failed.isSome then s
  else
    if isKeeper d then (if s.keeper (d - 98) = .active || s.keeper (d - 98) = .standby then s.keeperFails (d - 98) else s)
    else
    let s := s.modDie d fun x => { x with failed := some code }
    if isCellar d then each (List.range 4) s fun s i => let ch := 4 * (d - 68) + i; if inService (s.channel ch).st then s.failChannel ch else s
    else if isLink d then
      let p := d - 88
      let lost := tabKeys s.flows fun _ x => match x with
        | some f => (f.routes.getD 0 []).headD 0 == p
        | none => false
      let s := each lost s fun s f => (s.unreach f).setFlow f none
      let s := if portUp (s.port p) then s.leaveUp p .service .failed else s.setPortSt p .failed
      s.modPort p fun x => { x with retrainInPlace := false }
    else if isHost d then (pcieLinkDown (d - 96) s).modHatch (d - 96) fun h => { h with failed := true }
    else s

/-- Codes after which a quarantine is not released without a self-test that passes (R516). -/
def neverReleased (code : Nat) : Bool := code == fScrubFail || code == fRailFault || code == fSelftest

/-- The active keeper declares a compute die failed (R511); under hatch service the next one does (R506). -/
def State.declareDie (s : State) (d code : Nat) : State := if s.holder.isSome then s.raise s.keeperDie fDieFail [] (le 1 d ++ le 2 code) else s

/-- F_DIE_FAIL and the quarantine of a compute die, or the failure of another (R511, R513). -/
def State.dieFails (s : State) (d code : Nat) : State :=
  if isCompute d then
    if (s.die d).failed.isSome then (if neverReleased code then s.modDie d fun x => { x with failed := some code, railOff := x.railOff || code == fRailFault } else s)
    else (s.declareDie d code).quarantine d code
  else s.otherFails d code

/-- DIE_POLL_TIMEOUT (R511). -/
def execDiePollTimeout (die : Nat) (s : State) : Out := need (isDie die) (if s.holder.isSome then s.dieFails die fDieFail else s)

/-! ## Delivery and effect (R497, R500, R511) -/

/-- What a record's delivery does: the vectors of the contexts that it is addressed to, cause of the kernel driver, and LAST_FAULT (R497). -/
def State.deliver (s : State) (r : FaultRec) : State :=
  let s := each r.vectors s fun s v => s.raiseVector v.1 v.2
  let s := if r.driver then (s.causeError 0).causeError 1 else s
  { s with lastFault := r.code, lastFaultCount := r.count }

/-- Codes that count toward a die's failure (R511). -/
def countsToFail (code : Nat) : Bool := code == fArithCheck || code == fSramUncorr || code == fThermalTrip

/-- A third record of a code from a die within 24 h: the active keeper declares the die failed (R511). -/
def State.thirdFails (s : State) (d code : Nat) : State :=
  if s.holder.isSome && decide (3 ≤ ((s.die d).faultTimes.filter fun e => e.1 == code).length) then s.dieFails d code else s

/-- Records of a code from a die within 24 h. -/
def State.tallyFails (s : State) (r : FaultRec) : State :=
  if !countsToFail r.code || !isCompute r.die then s
  else
    let l := ((s.die r.die).faultTimes.filter fun e => decide (r.count < e.2 + 86400000000000)) ++ [(r.code, r.count)]
    (s.modDie r.die fun x => { x with faultTimes := l }).thirdFails r.die r.code

/-- What a new active keeper declares of a record that the hatch sequencers held (R506, R511). -/
def State.heldFails (s : State) (r : FaultRec) : State :=
  if !isCompute r.die then s
  else if neverReleased r.code then s.declareDie r.die r.code
  else if countsToFail r.code then s.thirdFails r.die r.code
  else s

/-- The effect of a record (R501). -/
def State.effect (s : State) (r : FaultRec) : State :=
  let s := if r.job then each r.ctxs s fun s c => s.faultCtx c r.code r.count else s
  let s := if neverReleased r.code then s.dieFails r.die r.code else s
  s.tallyFails r

/-- The first record of a die that no handler has taken. -/
def nextRec (x : Die) : Option FaultRec := x.ledger.held.find? fun r => !r.delivered

/-- The records of a die with the first untaken one marked. -/
def markTaken : List FaultRec → List FaultRec
  | [] => []
  | r :: t => if r.delivered then r :: markTaken t else { r with delivered := true } :: t

/-- FAULT_RECORD_DELIVER (R497): a record reaches the active keeper, where the mesh leads to it (R26). -/
def faultRecordDeliver (d : Nat) (s : State) : State :=
  if s.holder.isNone || !s.reaches d s.keeperDie then s
  else match nextRec (s.die d) with
    | none => s
    | some r =>
      let s := s.modDie d fun x => { x with ledger := { x.ledger with held := markTaken x.ledger.held } }
      (s.deliver r).effect r

def execFaultRecordDeliver (die : Nat) (s : State) : Out := need (isDie die) (faultRecordDeliver die s)

/-- The records that a die applied without delivering, reported once (R498). -/
def State.reportLost (s : State) (d : Nat) : State :=
  let n := (s.die d).ledger.applied
  if n = 0 then s
  else (s.modDie d fun x => { x with ledger := { x.ledger with applied := 0 } }).raise d fFaultLost [] (le 8 n)

/-- FAULT_RECORD_ACK (R498): a taken record is freed. -/
def faultRecordAck (d : Nat) (s : State) : State :=
  match (s.die d).ledger.held with
  | r :: t => if r.delivered then (s.modDie d fun x => { x with ledger := freePlace { x.ledger with held := t } }).reportLost d else s
  | [] => s

def execFaultRecordAck (die : Nat) (s : State) : Out := need (isDie die) (faultRecordAck die s)

/-- The entry of a record in its die's ring, with the one that continues it (R561, R562). -/
def recordEntries (r : FaultRec) (l : List LedgerEntry) : List LedgerEntry :=
  match l.find? fun e => e.kind == 1 && e.code == r.code && e.count == r.count && !e.continued with
  | some e => e :: l.filter fun f => f.continued && f.seq == e.seq + 1
  | none => []

/-- FAULT_RECORD_TIMEOUT (R498): the oldest record that no keeper has acknowledged goes to the hatch sequencers, which hold up to 1,024; each writes the record's
entry into its own die's ring, flagged MIRRORED (R561). They apply its effect, unless a keeper had taken it and applied it before. -/
def faultRecordTimeout (d : Nat) (s : State) : State :=
  let stands := fun (i : Nat) => !(s.hatch i).failed && s.reaches d (96 + i)
  match (if stands 0 || stands 1 then (s.die d).ledger.held.head? else none) with
  | none => s
  | some r =>
    let s := s.modDie d fun x => { x with ledger := freePlace { x.ledger with held := x.ledger.held.drop 1 } }
    let es := recordEntries r (s.die d).ledger.ring
    let copies := fun (s : State) (i : Nat) => if stands i then each es s fun s e => s.ledgerEntry (96 + i) { e with mirrored := true } else s
    let s := each [0, 1] s copies
    let keep := fun (i : Nat) (h : Hatch) => if !stands i || decide (1024 ≤ h.held.length) then h else { h with held := h.held ++ [r] }
    let s : State := { s with hatch0 := keep 0 s.hatch0, hatch1 := keep 1 s.hatch1 }
    (if r.delivered then s else (s.deliver r).effect r).reportLost d

def execFaultRecordTimeout (die : Nat) (s : State) : Out := need (isDie die) (faultRecordTimeout die s)

/-- JOB_FAULT (R500): the package applies the fault to the job; the job's root sends it on to every package, with the package and count of the detection. -/
def jobFault (j code pkg n : Nat) (s : State) : State :=
  let root := ((s.coord? j).any fun k => k.readies.any fun r => r.pkg != s.pkgId) ||
    (s.jobCtxs j).any fun c => ((s.launchOf c).map fun l => decide (l.root = s.pkgId ∧ 1 < l.packages)).getD false
  let first := (s.jobCtxs j).any fun c => (s.ctx c).faulted.isNone
  let s := if root && first then s.send (.jobFault j code pkg n) else s
  if pkg = s.pkgId && !first then s else s.faultJob j code

def execJobFault (job code pkg count : Nat) (s : State) : Out := need true (jobFault job code pkg count s)

/-- MCAST_PRUNE_FORWARD (R464): the member's keeper delivers the root's record, with its count, to the member's context, and writes an entry of its own; the member
takes no more of the group's packets. -/
def mcastPruneForward (j rootPkg id : Nat) (m : PruneMsg) (s : State) : State :=
  each (s.jobCtxs j) s fun s c =>
    let s := s.modRx (rxKeyOf rootPkg id true) fun x => { x with pruned := true }
    (s.note s.serviceDie 0x0B 464 c (le 2 id ++ le 2 s.pkgId ++ le 8 m.firstMissing)).deliver
      { code := fMcastPruned, die := s.serviceDie, count := m.count, ctxs := [c], vectors := s.errVectors [c] }

def execMcastPruneForward (job rootPkg group : Nat) (firstMissing : PruneMsg) (s : State) : Out := need true (mcastPruneForward job rootPkg group firstMissing s)

/-! ## Keepers (R503 to R508) -/

/-- KEEPER_HEARTBEAT. -/
def keeperHeartbeat (s : State) : State :=
  match s.holder with
  | some k => ({ s with lastBeat := s.kcount } : State).send (.heartbeat k s.keeperEpoch)
  | none => s

def execKeeperHeartbeat (s : State) : Out := need true (keeperHeartbeat s)

/-- HEARTBEAT_TIMEOUT: the keeper watched is declared failed. -/
def heartbeatTimeout (k : Nat) (s : State) : State :=
  if s.keeper k = .active || s.keeper k = .standby then s.keeperFails k else s

def execHeartbeatTimeout (watched : Nat) (s : State) : Out := need (keeperNo watched) (heartbeatTimeout watched s)

/-- The epoch of a keeper's failure message that is on its way (R504). -/
def State.failureEpoch (s : State) (k : Nat) : Option Nat :=
  (s.sent.find? fun m => match m with | .failure j _ => j == k | _ => false).bind fun m => match m with | .failure _ e => some e | _ => none

/-- KEEPER_FAILURE_MESSAGE: the sender has stopped acting; it is declared failed, once (R17). A message of a lower epoch than the receiving die knows is ignored
and recorded (R504). -/
def keeperFailureMessage (k : Nat) (s : State) : State :=
  match s.failureEpoch k with
  | some e =>
    let s : State := { s with sent := s.sent.erase (.failure k e) }
    if e < (s.die (s.declarer k)).keeperEpoch then s.note (s.declarer k) 0x0B 504 noCtx (le 4 e) else s.keeperFails k
  | none => if s.keeper k = .active || s.keeper k = .standby then s.keeperFails k else s

def execKeeperFailureMessage (k : Nat) (s : State) : Out := need (keeperNo k) (keeperFailureMessage k s)

/-- KEEPER_WATCHDOG_EXPIRE: the keeper sends its failure message, stops acting and enters state 4. -/
def keeperWatchdogExpire (k : Nat) (s : State) : State :=
  if s.keeper k = .active || s.keeper k = .standby then (s.send (.failure k s.keeperEpoch)).loseKeeper k .failed else s

def execKeeperWatchdogExpire (k : Nat) (s : State) : Out := need (keeperNo k) (keeperWatchdogExpire k s)

/-- Stop service: every context is destroyed with F_CONTEXT_KILLED; SERVICE becomes 3 once their scrubs have ended. -/
def State.stopService (s : State) : State :=
  (each s.boundCtxs ({ s with stopping := true } : State) fun s c => s.destroy true none c).stopDone

/-- What the active keeper does while the ring is broken (R515): it stops service and holds every port. -/
def State.leaveRing (s : State) : State :=
  each (List.range 8) (if s.service = .stopped then s else s.stopService) fun s p => lkHold p true s

/-- A keeper stands by; it holds a copy of the journal (R505, R507). -/
def State.standBy (s : State) (k : Nat) : State :=
  { s.keeperTo k .standby with journal := s.journal.map fun r => { r with acks := addTo r.acks 0 } }

/-- A keeper takes the token: the epoch rises by one at both hatch sequencers, it is active, a former holder that still stands goes to standby, and normal
service returns after hatch service (R504, R506, R508), unless the ring is broken: service is then stopped (R515). -/
def State.takeToken (s : State) (k : Nat) : State :=
  let e := s.keeperEpoch + 1
  let was := s.holder
  let s := match was with
    | some j => if j = k then s else s.standBy j
    | none => s
  let s : State := { s with keeperEpoch := e, holder := some k, taking := decide (1 < e), hatch0 := { s.hatch0 with epoch := e }, hatch1 := { s.hatch1 with epoch := e },
                            sessions := [] }
  let s := (s.keeperTo k .active).send (.epoch e)
  let s := if s.service = .hatch then ({ s with service := if s.wasStopped then .stopped else .normal, wasStopped := false } : State).causeService else s
  let s := if s.broken then s.leaveRing else s
  (s.holdKeeper false).stopDone

/-- A keeper that may take the token: it stands by, or has booted as far as the attempt. -/
def mayTake (st : KeeperSt) : Bool := st == .standby || st == .booting

/-- KEEPER_TOKEN_CAS (R504): the swap takes place only where the epoch is the one expected, at H0's hatch sequencer, or H1's while H0's has failed. -/
def keeperTokenCas (k expected : Nat) (s : State) : State :=
  if mayTake (s.keeper k) && expected = s.keeperEpoch && !(s.hatch0.failed && s.hatch1.failed) then s.takeToken k else s

def execKeeperTokenCas (k expected : Nat) (s : State) : Out := need (keeperNo k) (keeperTokenCas k expected s)

/-- EPOCH_NOTICE (R504): the die takes a higher epoch; it ignores a message with a lower one, and records it. -/
def epochNotice (d e : Nat) (s : State) : State :=
  if e < (s.die d).keeperEpoch then s.note d 0x0B 504 noCtx (le 4 e)
  else s.modDie d fun x => { x with keeperEpoch := e }

def execEpochNotice (die epoch : Nat) (s : State) : Out := need (isDie die) (epochNotice die epoch s)

/-- JOURNAL_RECORD (R505): a holder (0 the standby, 1 and 2 the hatch sequencers) stores a record and acknowledges it. -/
def journalRecord (holder seq : Nat) (s : State) : State :=
  let reach := if holder = 0 then (s.keeper0 == .standby || s.keeper1 == .standby) else !(s.hatch (holder - 1)).failed
  if reach then { s with journal := s.journal.map fun (r : JournalRec) => if r.seq = seq then { r with acks := addTo r.acks holder } else r } else s

def execJournalRecord (holder seq : Nat) (s : State) : Out := need (decide (holder < 3)) (journalRecord holder seq s)

/-- A PATH_SETUP that a takeover meets releases what it had reserved and ends ABORTED (R506). -/
def State.abortPaths (s : State) : State :=
  each s.pathJobs s fun s j =>
    (s.dropJob j).endCmd j.q 6 0 0

/-- The stock-take begins again, a complete stall counted from the takeover (R506). -/
def State.restartStock (s : State) : State :=
  { s with contexts := s.contexts.map fun e => (e.1, e.2.map fun x => { x with stock := { x.stock with stalledPrev := false } }) }

/-! ## Stopping service (R515, R517) -/

/-- The ring is broken (R515): every job is faulted and stopped at once, the keeper stops service, and holds every port. -/
def State.ringBreak (s : State) (p dir last : Nat) : State :=
  let d := stopDie p
  if (s.die d).ringBreakTold then s
  else
    let s := s.modDie d fun x => { x with ringBreakTold := true }
    let cs := s.boundCtxs
    let s := s.raiseTo d fRingBreak cs false true (le 2 p ++ le 1 dir ++ le 8 last)
    let s : State := { s with broken := true }
    let s := each cs s fun s c => if (s.ctx? c).isSome then ((s.tellJob c fRingBreak (s.count d)).faultJob (s.ctx c).job fRingBreak).quench c else s
    if s.holder.isNone then s else s.leaveRing

/-- What a takeover loses (R340, R506): stretch requests and answers, and ARM and GO, that are in flight, and the acknowledgements that were awaited. -/
def lostInFlight : Sent → Bool
  | .stretchReq _ | .stretchAns .. | .stretchAck .. | .ready _ | .arm .. | .armed _ | .go _ | .abort _ => true
  | _ => false

/-- The coordinator's notes after a takeover: no READY is collected, no acknowledgement awaited, and a launch that has not taken GO has lost it. -/
def State.takeCoord (s : State) (j : Nat) : State :=
  let open_ := (s.jobLaunch j).any fun e => notStarted e.2 && !e.2.go
  s.modCoord j fun k => { k with collect := [], answers := [], acks := [], ended := k.ended || open_ }

/-- KEEPER_TAKEOVER (R506). -/
def keeperTakeover (s : State) : State :=
  match s.holder with
  | none => s
  | some k =>
    if !s.taking then s
    else
      let held := if s.hatch0.failed then s.hatch1.held else s.hatch0.held
      let s : State := { s with
        taking := false, hatch0 := { s.hatch0 with held := [] }, hatch1 := { s.hatch1 with held := [] },
        time := { s.time with outstanding := none }, power := { s.power with pools := [], poolsNext := [] }, sent := s.sent.filter fun m => !lostInFlight m }
      let s := each (tabKeys s.coords fun _ x => x.isSome) s State.takeCoord
      let s := each (held.filter fun r => !r.delivered) s State.heldFails
      (((s.abortPaths.restartIdentify).restartStock.rebuildMerged).raise (98 + k) fKeeperTakeover [] (le 1 k)).causeService

def execKeeperTakeover (s : State) : Out := need true (keeperTakeover s)

/-- A keeper is reset (R507): it passes through states 5 and 1, and boots. -/
def State.resetKeeper (s : State) (k : Nat) : State := s.loseKeeper k .resetting

/-- KEEPER_BOOT_COMPLETE (R507): a good image enters standby beside an active keeper, else takes the token; a bad one is failed. The command that reset it ends. -/
def keeperBootComplete (k : Nat) (good : Bool) (s : State) : State :=
  if !(s.keeper k = .resetting || s.keeper k = .booting) then s
  else
    let s := (s.keeperTo k .booting).fwFaults 1
    let good := good && (s.fwPick 1).isSome
    let s := if good then (let s := s.runImage (keeperLoader k) 1; if s.holder.isSome then s.standBy k else s.takeToken k) else s.keeperFails k
    let s := each [0, 1] s fun s i => if (s.hatch i).resets = some k then s.modHatch i fun h => { h with go := false, resets := none, result := 0 } else s
    match s.recover with
    | some (q, n) => if n = k then ({ s with recover := none } : State).endCmd q (if good then 0 else 1) 0 0 else s
    | none => s

def execKeeperBootComplete (k : Nat) (good : Bool) (s : State) : Out := need (keeperNo k) (keeperBootComplete k good s)

/-! ## Hatch registers (R509) -/

/-- The fields of KP_HATCH_CTRL as written; OP 4 to 7 are taken as 3. GO stays 1 while an operation is under way. -/
def hatchFields (v : Nat) (h : Hatch) : Hatch :=
  { h with value := BitVec.ofNat 32 (v / 2 ^ 32), op := min 3 (bits v 28 3), ctx := bits v 16 10, vid := bits v 0 16 }

/-- An operation's RESULT. -/
def State.hatchResult (s : State) (i r : Nat) : State := s.modHatch i fun h => { h with result := r }

/-- A write of KP_HATCH_CTRL whose OP is `op`: its fields are kept, and with GO = 1 the operation is performed, only under hatch service. A write with GO = 1
while an operation is under way is ignored. -/
def State.hatchWrite (s : State) (i op : Nat) (v : Word) (f : State → State) : State :=
  let n := v.toNat
  if (s.hatch i).failed || min 3 (bits n 28 3) ≠ op || (s.hatch i).go && bit n 31 then s
  else
    let s := s.modHatch i (hatchFields n)
    if !bit n 31 then s
    else if s.service ≠ .hatch then s.hatchResult i 1
    else f s

/-- A forced quench of CONTEXT (OP 0). -/
def hatchQuench (i v : Nat) (s : State) : State :=
  if s.isBound (bits v 16 10) then (s.forceQuench (bits v 16 10) fContextKilled).hatchResult i 0 else s.hatchResult i 2

/-- A forced quench of every context (OP 1). -/
def hatchQuenchAll (i : Nat) (s : State) : State := (each (s.boundCtxs.filter s.isBound) s fun s c => s.forceQuench c fContextKilled).hatchResult i 0

/-- A reset of a keeper (OP 2), which is under way until that keeper has booted (R507). -/
def hatchReset (i k : Nat) (s : State) : State := (s.modHatch i fun h => { h with go := true, resets := some k }).resetKeeper k

/-- A tally force (OP 3), with the effects of R312 and R313. -/
def hatchForce (i v : Nat) (s : State) : State :=
  let c := bits v 16 10
  let vid := bits v 0 16
  if !s.isBound c then s.hatchResult i 2
  else match (s.launchOf c).bind fun l => findTally l vid with
    | some e => if e.kind ≠ 0 then s.hatchResult i 3 else match s.forceHome c vid none with
      | some h => s.forceSet c vid (v / 2 ^ 32) h none 0 (some i)
      | none => s.hatchResult i 3
    | none => s.hatchResult i 3

/-- What GO performs, by OP. -/
def hatchGo (i op v : Nat) (s : State) : State :=
  match op with
  | 0 => hatchQuench i v s
  | 1 => hatchQuenchAll i s
  | 2 => hatchReset i (bits v 0 1) s
  | _ => hatchForce i v s

/-- A write of KP_HATCH_CTRL of a host die. -/
def hatchCtrl (i : Nat) (v : Word) (s : State) : State :=
  let op := min 3 (bits v.toNat 28 3)
  s.hatchWrite i op v (hatchGo i op v.toNat)

/-- KP_HATCH_QUENCH: OP 0. -/
def execKpHatchQuench (host : Nat) (value : Word) (s : State) : Out := need (isHostPort host) (s.hatchWrite host 0 value (hatchGo host 0 value.toNat))

/-- KP_HATCH_QUENCH_ALL: OP 1. -/
def execKpHatchQuenchAll (host : Nat) (value : Word) (s : State) : Out := need (isHostPort host) (s.hatchWrite host 1 value (hatchGo host 1 value.toNat))

/-- KP_HATCH_KEEPER_RESET: OP 2, keeper VID[0]. -/
def execKpHatchKeeperReset (host : Nat) (value : Word) (s : State) : Out := need (isHostPort host) (s.hatchWrite host 2 value (hatchGo host 2 value.toNat))

/-- KP_HATCH_TALLY_FORCE: OP 3. -/
def execKpHatchTallyForce (host : Nat) (value : Word) (s : State) : Out := need (isHostPort host) (s.hatchWrite host 3 value (hatchGo host 3 value.toNat))

/-! ## The ring (R515) -/

/-- RING_MARKER_SEND (R515): the next stop in the direction receives the marker, unless this stop's bypass path has failed. -/
def ringMarkerSend (p : Nat) (ccw : Bool) (s : State) : State :=
  let d := stopDie (nextStop p (b2n ccw))
  if (s.die (stopDie p)).bypassFailed then s
  else
    let n := s.count d
    (s.modDie d fun x => if ccw then { x with markerCcw := n } else { x with markerCw := n }).send (.marker p ccw)

def execRingMarkerSend (stop : Nat) (ccw : Bool) (s : State) : Out := need (isStop stop) (ringMarkerSend stop ccw s)

/-- RING_MARKER_TIMEOUT: no marker from the stop before in a direction for 25 µs. -/
def execRingMarkerTimeout (stop : Nat) (ccw : Bool) (s : State) : Out :=
  need (isStop stop) (s.ringBreak stop (b2n ccw) (if ccw then (s.die (stopDie stop)).markerCcw else (s.die (stopDie stop)).markerCw))

/-- BYPASS_SELF_CHECK: of a stop in bypass. -/
def bypassSelfCheck (p : Nat) (good : Bool) (s : State) : State :=
  let d := stopDie p
  if !(s.die d).bypass || good then s
  else (s.modDie d fun x => { x with bypassFailed := true }).ringBreak p 0 (s.die d).markerCw

def execBypassSelfCheck (stop : Nat) (good : Bool) (s : State) : Out := need (isStop stop) (bypassSelfCheck stop good s)

end Sys2Proof.Machine
end

