-- ==== Sys2Proof/Machine/Points.lean ====
section
/-! DEFINITION. Chapter 2: the end of a one-point change, which lets the mesh requests that waited for the die go on. -/

namespace Sys2Proof.Machine

/-- A packet that waited is taken up again (R51): by its TYPE (R446). -/
def State.retake (s : State) (e : Nat × Packet) : State :=
  match e.2.ptype with
  | 1 => write e.1 e.2 s
  | 2 => readReq e.1 e.2 s
  | 3 => readData e.1 e.2 s
  | 4 => atomic e.1 e.2 s
  | 0x0B => s.groupLand e.1 e.2
  | _ => s

/-- Mesh requests that wait go on in the order of their arrival; those whose die still stands at OP0 wait again (R51). -/
def State.releaseMesh (s : State) : State := each s.meshWait { s with meshWait := [] } State.retake

/-- OP_CHANGE_COMPLETE (R52): the die is guaranteed at the next point; one that has left OP0 takes the mesh requests that waited for it (R51). -/
def opChangeComplete (d : Nat) (s : State) : State := (s.modDie d opSettled).releaseMesh

def execOpChangeComplete (die : Nat) (s : State) : Out := need (isCompute die) (opChangeComplete die s)

end Sys2Proof.Machine
end

