-- ==== Sys2Proof/Machine/Recover.lean ====
section
/-! DEFINITION. Chapter 17, recovery and repair: RECOVER (R516, R517) and DIE_RETIRE (R514). -/

namespace Sys2Proof.Machine

/-! ## Quarantine (R512, R516) -/

/-- A compute die is quarantined; one that DIE_RETIRE has taken out is not. -/
def State.heldOut (s : State) (d : Nat) : Bool := (s.die d).failed.isSome && isCompute d && !s.inv.retired.contains d

/-- A quarantined die returns to service: its stop leaves bypass, but for a spare's, and its rails are on. -/
def State.releaseDie (s : State) (d : Nat) : State :=
  ((s.noteState s.serviceDie 4 d 1 0).journalRec 4 d).modDie d fun x => { x with failed := none, bypass := s.inv.spares.contains d, railOff := false }

/-- RECOVER, die action 1: refused after F_SCRUB_FAIL, F_RAIL_FAULT or F_SELFTEST. -/
def State.recoverRelease (s : State) (q : QRef) (d : Nat) : State :=
  if s.heldOut d && !((s.die d).failed.map neverReleased).getD false then (s.releaseDie d).endCmd q 0 0 0 else s.endCmd q 1 0 0

/-- The reset of a compute die before its test (R559): the rail steps to OP0, its logic is reset, and its stores are left at zero. -/
def State.resetCompute (s : State) (d : Nat) : State :=
  let s := ((s.emptyParks d).clear (shelfKey (4 * d) 0) (4 * 0x2000000)).clear (loftKey d 0) loftBytes
  let s := each (List.range 4) s fun s k => s.modCore (4 * d + k) fun x => { masked := x.masked }
  s.modDie d fun x => { x with curOp := 0, targetOp := 0, transition := false, slots := [], ringTallies := [], loftBusy := false, loftFail := false, loftEccBanks := [],
                               quenched := false, capOp := none, raiseOp := none, reqOp := 5, maxOp := 7, minOp := 1, fixed := false }

/-- A die that passes its test moves from OP0 to REQ_OP, one point at a time (R52); a spare stays at OP0 (R37, R61). -/
def State.testedDie (s : State) (d : Nat) : State :=
  (s.releaseDie d).modDie d fun x => if s.inv.spares.contains d then x else startOp (wantedOp x) x

/-- RECOVER, die action 2: the outcome of the die's test is its own. -/
def State.recoverTest (s : State) (q : QRef) (d : Nat) : State :=
  if !s.heldOut d then s.endCmd q 1 0 0
  else
    let r := (s.resetCompute d).takeFresh
    (if Config.testPasses r.1 then r.2.testedDie d else r.2.raise d fSelftest [] []).endCmd q 0 0 0

/-! ## Keepers and service (R507, R516, R517) -/

/-- No stretch answer is pending on a die, and no launch is arming. -/
def State.handoverClear (s : State) : Bool :=
  (dieList.all fun d => (s.die d).grids.all fun g => g.pending.isEmpty) &&
  s.boundCtxs.all fun c => match s.launchOf c with
    | some l => l.st != .bound && l.st != .armed
    | none => true

/-- The token goes to the standby, and the active keeper becomes standby. -/
def State.handover (s : State) (q : QRef) (k : Nat) : State :=
  let t := s.takeToken k
  ({ t with taking := false, recover := none } : State).endCmd q 0 0 0

/-- RECOVER, keeper action 1: at once, or as soon as the conditions clear. -/
def State.recoverHandover (s : State) (q : QRef) : State :=
  match s.holder with
  | some k =>
    if s.keeper (1 - k) ≠ .standby then ({ s with recover := none } : State).endCmd q 1 0 0
    else if s.handoverClear then s.handover q (1 - k)
    else { s with recover := some (q, 2) }
  | none => s

/-- RECOVER, keeper action 2. -/
def State.recoverStop (s : State) (q : QRef) : State :=
  if s.service = .stopped then s.endCmd q 0 0 0 else ({ s with recover := some (q, 3) } : State).stopService

/-- RECOVER, keeper action 3: refused while the ring is broken (R515), and while service is being stopped. -/
def State.recoverResume (s : State) (q : QRef) : State :=
  if s.broken || s.stopping then s.endCmd q 1 0 0
  else if s.service = .stopped then ({ s with service := .normal } : State).causeService.endCmd q 0 0 0
  else s.endCmd q 0 0 0

/-- The pairs of R516; any other is refused. -/
def State.recoverPair (s : State) (q : QRef) (target action id : Nat) : State :=
  match target, action with
  | 0, 0 => if id < 2 then ({ s with recover := some (q, id) } : State).resetKeeper id else s.endCmd q 1 0 0
  | 0, 1 => s.recoverHandover q
  | 0, 2 => s.recoverStop q
  | 0, 3 => s.recoverResume q
  | 1, 0 => if isCompute id then (s.quarantine id fDieFail).endCmd q 0 0 0 else s.endCmd q 1 0 0
  | 1, 1 => s.recoverRelease q id
  | 1, 2 => s.recoverTest q id
  | 2, 0 => if isPort id then (lkHold id true s).endCmd q 0 0 0 else s.endCmd q 1 0 0
  | 2, 1 => if isPort id then (lkHold id false s).endCmd q 0 0 0 else s.endCmd q 1 0 0
  | 3, 0 => if (s.ctx? id).isSome then (s.forceQuench id fContextKilled).endCmd q 0 0 0 else s.endCmd q 1 0 0
  | _, _ => s.endCmd q 1 0 0

/-- RECOVER: one that is under way goes on; another keeper action waits for it. -/
def recoverRow (q : QRef) (s : State) : State :=
  s.command q fun s p => match p.cmd with
    | .recover target action id =>
      match s.recover with
      | some (r, n) => if r = q then (if n = 2 then s.recoverHandover q else s) else if target = 0 then s else s.recoverPair q target action id
      | none => s.recoverPair q target action id
    | _ => s

def execRecover (q : QRef) (s : State) : Out := need (isQueue q) (recoverRow q s)

/-- HANDOVER_WAIT_TIMEOUT (R516): 100 ms have passed. -/
def handoverWaitTimeout (q : QRef) (s : State) : State :=
  if s.recover = some (q, 2) then ({ s with recover := none } : State).endCmd q 1 0 0 else s

def execHandoverWaitTimeout (q : QRef) (s : State) : Out := need (isQueue q) (handoverWaitTimeout q s)

/-! ## DIE_RETIRE (R514) -/

/-- The spares with at least `n` good cores, the fewest first, and the lowest die index among equals. -/
def State.sparesFor (s : State) (n : Nat) : List Nat :=
  sortBy (fun a b => decide (s.goodCores a < s.goodCores b) || (s.goodCores a == s.goodCores b && decide (a ≤ b)))
    (s.inv.spares.filter fun d => decide (n ≤ s.goodCores d))

/-- The contexts with a launch in flight on a die. -/
def State.launchesOn (s : State) (d : Nat) : List Nat := s.boundCtxs.filter fun c => (s.launchOf c).isSome && (s.ctxPhys c).contains d

/-- Steps 2 and 3: launches on the die are force-quenched; the die is scrubbed if it answers, its rails go off and its stop stays in bypass. -/
def State.takeOut (s : State) (d : Nat) (answers : Bool) : State :=
  let s := each (s.launchesOn d) s fun s c => s.forceQuench c fDieRetired
  let s := if answers then each (List.range 5) s fun s k => scrubEnd d k (scrubOp d k none s) else s
  s.modDie d fun x => { x with bypass := true, railOff := true, curOp := 0, targetOp := 0, transition := false,
                               failed := match x.failed with | some f => some f | none => some fDieRetired }

/-- A spare that fails its test is consumed (R36). -/
def State.loseSpare (s : State) (d : Nat) : State :=
  let s := (s.noteState s.serviceDie 5 d 1 0).journalRec 5 d
  (s.rewriteInventory fun x => { x with spares := x.spares.filter (· != d), retired := addTo x.retired d }).modDie d fun x => { x with railOff := true, curOp := 0 }

/-- Steps 4 to 6: the spare steps to OP1 with its first `n` good cores, leaves bypass, and takes the logical index of the die. -/
def State.bringIn (s : State) (old new n : Nat) : State :=
  let s := s.emptyParks old
  let good := ((List.range 4).map (4 * new + ·)).filter fun c => bit (tabGet 0 s.inv.coreMap new) (c % 4)
  let s := each (good.drop n) s fun s c => s.modCore c fun x => { x with masked := true }
  let s := s.modDie new fun x => { x with curOp := 1, targetOp := 1, transition := false, bypass := false, railOff := false, failed := none, slots := [] }
  let s := (s.noteState s.serviceDie 5 new 1 0).journalRec 5 new
  s.rewriteInventory fun x =>
    { x with spares := x.spares.filter (· != new), retired := addTo x.retired old, logical := x.logical.map fun e => if e = old then new else e }

/-- The spares in turn, until one passes. -/
def State.trySpares (s : State) (q : QRef) (old n : Nat) (bad : List Nat) : List Nat → State
  | [] => s.endCmd q 1 0 0
  | d :: t => if bad.contains d then (s.loseSpare d).trySpares q old n bad t else (s.bringIn old d n).releaseMesh.endCmd q 0 0 d

/-- DIE_RETIRE: `bad` lists the spares that fail step 4, `answers` says whether the old die answers. -/
def dieRetire (q : QRef) (bad : List Nat) (answers : Bool) (s : State) : State :=
  s.command q fun s p => match p.cmd with
    | .dieRetire d spare =>
      let n := (s.dieCores d).length
      let l := s.sparesFor n
      if !s.inv.logical.contains d || l.isEmpty || (spare != 0xFF && !l.contains spare) then s.endCmd q 1 0 0
      else (s.takeOut d answers).trySpares q d n bad (if spare = 0xFF then l else [spare])
    | _ => s

def execDieRetire (q : QRef) (failedSpares : List Nat) (answers : Bool) (s : State) : Out := need (isQueue q) (dieRetire q failedSpares answers s)

end Sys2Proof.Machine
end

