-- ==== Sys2Proof/Machine/TallyPort.lean ====
section
/-! DEFINITION. Chapters 5 and 10: the tally port of a core (R144, R166 to R168, R295 to R300, R309). -/

namespace Sys2Proof.Machine

/-- The tally operation at the head of core `c`'s issue unit: the WAIT or WAITDEC of the bundle at the head (R144). -/
def headWait (x : Core) : Option TallyOp :=
  match x.held with
  | w :: _ =>
    if (headInvalid x w).isNone then waitOf (decodeBundle x x.head w) else none
  | [] => none

/-- A wait is sent: it waits for its tally. -/
def State.waitSent (s : State) (c : Nat) : State := s.modCore c fun x => { x with wait := .sent }

/-- A wait on a link's empty tally lets the producer write the slots that it names no longer: the wait itself marks nothing (R332). -/
def State.sendWait (s : State) (c : Nat) (k : TallyK) (o : TallyOp) : State :=
  let x := s.core c
  match x.ctx.bind s.launchOf with
  | none => s
  | some l =>
    match findTally l o.vid with
    | none => s.scoreInvalid c x.head uTally
    | some t =>
      let act := if k = .waitdec then TallyAct.waitdec else TallyAct.wait
      match s.tallyHome t (c / 4) with
      | none => s.scoreInvalid c x.head uTally
      | some h =>
        if !tallyUse t.kind act then s.scoreInvalid c x.head uTally
        else
          let beat := match x.held with | w :: _ => issueBeat x w | [] => x.lastBeat
          let m : TallyMsg := { ctx := x.ctx.getD noCtx, home := h.1, index := h.2, vid := o.vid, act := act, n := o.n,
                                src := .core ((s.logicalCore c).getD 0), core := c, beat := beat, rank := c }
          let s := s.waitSent c
          if h.1 = c then
            let s := s.applyTally m
            if (s.core c).wait == .satisfied then s.modCore c fun x => { x with wait := .granted } else s
          else { s with tallyMsgs := s.tallyMsgs ++ [m] }

/-- WAIT and WAITDEC: the wait of the bundle at the head goes to its tally; one on the core's own tally takes effect at once, one on its die's ring stop
is a message that ranks with those of the other cores (R144, R167, R298). The port performs its operations in release order, so those of its queue come first (R133); no wait passes a branch
that is not resolved, nor its own issue beat in scheduled mode (R138). -/
def State.waitReady (s : State) (c : Nat) : Bool :=
  let x := s.core c
  s.issues c && !unresolved x && x.tallyQ.all (·.done) && !s.early c (s.headBeat c)

def waitOp (k : TallyK) (c : Nat) (s : State) : State :=
  match headWait (s.core c) with
  | some o => if s.waitReady c && o.k == k && (s.core c).wait == .none then s.sendWait c k o else s
  | none => s

def execWait (core : Nat) (s : State) : Out := need (isCore core) (waitOp .wait core s)
/-- WAITDEC (R167). -/
def execWaitdec (core : Nat) (s : State) : Out := need (isCore core) (waitOp .waitdec core s)

/-- WAIT_REGISTER_RETRY (R299): a wait that found the list full is sent again. -/
def waitRegisterRetry (c : Nat) (s : State) : State :=
  match headWait (s.core c) with
  | some o => if s.issues c && (s.core c).wait == .retry then s.sendWait c o.k o else s
  | none => s

def execWaitRegisterRetry (core : Nat) (s : State) : Out := need (isCore core) (waitRegisterRetry core s)

/-! ## INC, DEC and HSIG -/

/-- Every release number that a WHEN waits on has completed (R168). -/
def whenMet (x : Core) (o : TallyOp) : Bool := o.marks.all fun m => m.2 ≤ tabGet 0 x.completed m.1

/-- The core issues an INC or DEC of its context: invalid where the map has no such tally or R296 does not permit the use; guarded where it would
mark a link slot wrongly (R333 cause 3); at once on the core's own tallies, as a message to others (R298). -/
def State.sendTally (s : State) (c : Nat) (e : QEntry) (o : TallyOp) (act : TallyAct) : State :=
  let x := s.core c
  match x.ctx.bind s.launchOf with
  | none => s
  | some l =>
    match findTally l o.vid with
    | none => s.scoreInvalid c e.bundle uTally
    | some t =>
      match s.tallyHome t (c / 4) with
      | none => s.scoreInvalid c e.bundle uTally
      | some h =>
        if !tallyUse t.kind act then s.scoreInvalid c e.bundle uTally
        else
          let ctx := x.ctx.getD noCtx
          let drain := if act = .inc then (linkOfEmpty l o.vid).filter fun k => s.coreOf k.consumer == some c else none
          let m : TallyMsg := { ctx := ctx, home := h.1, index := h.2, vid := o.vid, act := act, n := o.n,
                                src := .core ((s.logicalCore c).getD 0), core := c, beat := e.beat, rank := c }
          let go := fun (s : State) => if h.1 = c then s.applyTally m else { s with tallyMsgs := s.tallyMsgs ++ [m] }
          match drain with
          | none => go s
          | some k =>
            if l.scheduled && drainBlocked k o.n then
              s.slotGuard (c / 4) (c % 4) uTally 3 ctx k.id k.drain (le 4 e.beat)
            else go (s.modLaunch ctx fun l => putLink l (linkDrain k o.n))

/-- HSIG: host event VID of the context, signalled with N (R309). -/
def State.hostSignal (s : State) (c : Nat) (e : QEntry) (o : TallyOp) : State :=
  match (s.core c).ctx with
  | none => s
  | some x => if o.vid < (s.ctx x).events then s.signalEvent x o.vid o.n (s.count (c / 4)) else s.scoreInvalid c e.bundle uTally

/-- Perform a tally-port operation whose WHEN is met. -/
def State.performTally (s : State) (c : Nat) (e : QEntry) (o : TallyOp) : State :=
  match o.k with
  | .inc => s.sendTally c e o .inc
  | .dec => s.sendTally c e o .dec
  | .hsig => s.hostSignal c e o
  | _ => s

/-- The first operation waiting on its WHEN that is met and of kind `k`; they perform in release order, so only the first counts (R168). -/
def State.delayedHead (s : State) (c : Nat) (k : TallyK) : Option (QEntry × TallyOp) :=
  match (s.core c).delayed with
  | e :: _ => match e.op with
    | .tally o => if o.k = k && whenMet (s.core c) o then some (e, o) else none
    | _ => none
  | [] => none

/-- INC, DEC and HSIG: the operation at the front of those waiting on WHEN performs when it is met; else the head of the tally queue performs, or
joins those that wait, from where it holds the port no longer (R168). An operation released behind one that waits performs after it, whatever it names
and also with WHEN = 0 (R133, R168: DEDUCED, log entry 106), and one that waits has left the four entries of the port's queue, so that any number may wait
(DESIGN CHOICE, log entry 106). -/
def tallyPortOp (k : TallyK) (c : Nat) (s : State) : State :=
  if (s.die (c / 4)).curOp = 0 || (s.die (c / 4)).quenched then s
  else match s.delayedHead c k with
  | some (e, o) => ((s.modCore c fun x => { x with delayed := x.delayed.drop 1 }).progressed c).performTally c e o
  | none =>
    match s.headOp c uTally with
    | none => s
    | some e => match e.op with
      | .tally o =>
        if o.k ≠ k then s
        else if whenMet (s.core c) o && (s.core c).delayed.isEmpty then (s.doneHead c uTally e).performTally c e o
        else (s.doneHead c uTally e).modCore c fun x => { x with delayed := x.delayed ++ [e] }
      | _ => s

def execInc (core : Nat) (s : State) : Out := need (isCore core) (tallyPortOp .inc core s)
/-- DEC (R297). -/
def execDec (core : Nat) (s : State) : Out := need (isCore core) (tallyPortOp .dec core s)
/-- HSIG (R309). -/
def execHsig (core : Nat) (s : State) : Out := need (isCore core) (tallyPortOp .hsig core s)

end Sys2Proof.Machine
end

