-- ==== Sys2Proof/Machine/Stocktake.lean ====
section
/-! DEFINITION. The stock-take (R315 to R320). -/

namespace Sys2Proof.Machine

/-- A blocked head as a report lists it (R319). -/
structure Head where
  code : Nat
  unit : Nat
  id : Nat := 0
  place : Nat := 0
  value : Nat := 0
  need : Nat := 0
  deriving DecidableEq, Repr

/-! ## Blocked heads (R315) -/

/-- The issue unit at a WAIT or WAITDEC that does not hold (codes 0 and 1). -/
def State.waitHeads (s : State) (c lc : Nat) : List Head :=
  let x := s.core c
  if x.wait != .registered && x.wait != .retry then []
  else match headWait x, x.ctx.bind s.launchOf with
    | some o, some l =>
      let v := match (findTally l o.vid).bind fun t => s.tallyHome t (c / 4) with
        | some h => (s.tally h.1 h.2).value.toNat
        | none => 0
      if o.n ≤ v then [] else [{ code := if o.k == .waitdec then 1 else 0, unit := uTally, id := o.vid, place := lc, value := v, need := o.n }]
    | _, _ => []

/-- What a head engine operation was held on still holds it: of code 3 the generation is not resident, of code 5 some slot that its read touches is not FULL. -/
def State.stillHeld (s : State) (c e : Nat) (q : QEntry) : Bool := match q.held with
  | none => false
  | some k =>
    if k = 3 then !isResident (eng (s.core c) e) q.heldId
    else if k = 5 then q.heldSlots.any fun i => (tabGet {} (s.die (c / 4)).slots i).st != .full
    else true

/-- An engine operation held at its head (codes 2, 3 and 5), and a TABLE_LOAD that waits for a slot (code 4). -/
def State.engineHeads (s : State) (c e lc : Nat) : List Head :=
  let x := s.core c
  (match unitQueue x (1 + e) with
    | q :: _ => if s.stillHeld c e q then [{ code := q.held.getD 0, unit := 1 + e, id := q.heldId, place := lc }] else []
    | [] => []) ++
  match (eng x e).tableQueue with
  | p :: _ => [{ code := 4, unit := 6 + e, id := p.table.gen, place := lc }]
  | [] => []

/-- The blocked heads of a core. -/
def State.coreHeads (s : State) (c : Nat) : List Head :=
  let lc := (s.logicalCore c).getD 0
  s.engineHeads c 0 lc ++ s.engineHeads c 1 lc ++ s.waitHeads c lc

/-- A ring-stop send held on a crate that is not FULL (code 7). -/
def State.stopHeads (s : State) (d : Nat) : List Head :=
  (List.range 8).flatMap fun i => match s.trainSet d i with
    | none => []
    | some (wsid, w) =>
      let full := match s.heldCarry wsid d with
        | some (_, x) => (s.slot d (landSlotOf w x.hdr.injCount + 1)).st == .full
        | none => false
      let v := (s.tally (ringHome d) (ringIndex 2 i)).value.toNat
      if v = 0 || full then [] else [{ code := 7, unit := 8, id := i, place := (s.logicalDie d).getD 0, value := v }]

/-- The head of a queue as the stock-take sees it: a blocked head (codes 6, 8 and 9), a command under way, or nothing that counts. The LAUNCH in flight
waits on its own context (DEDUCED, log entry 30). -/
def State.queueHead (s : State) (c qn : Nat) : List Head × Bool :=
  let q : QRef := .normal c qn
  let x := s.queue q
  match x.cmds with
  | [] => ([], x.st == .fetching && !qHeld x && decide (0 < qRung x))
  | p :: _ =>
    if p.outcome.isSome || !p.taken then ([], true)
    else match p.cmd with
      | .waitEvent e v => if v.toNat ≤ s.eventSeq c e then ([], true) else ([{ code := 6, unit := 0xFF, id := e, place := qn, value := s.eventSeq c e % 2 ^ 32, need := v.toNat % 2 ^ 32 }], false)
      | .launch .. => match s.launchOf c with
        | some l => if l.q = q then ([], false) else ([{ code := 8, unit := 0xFF, place := qn }], false)
        | none => ([], true)
      | .tableLoad .. =>
        let waiting := (s.ctxCores c).flatMap fun k => (s.core k).e0.tableQueue ++ (s.core k).e1.tableQueue
        let gen := if p.step = 0 then ((s.ctx c).tableWaits.find? fun w => w.q == q && !waiting.isEmpty).map (·.table.gen)
          else (waiting.find? fun t => t.q == q).map (·.table.gen)
        (match gen with
          | some g => ([{ code := 9, unit := 0xFF, id := g, place := qn }], false)
          | none => ([], true))
      | _ => ([], true)

/-- The queue numbers of a context. -/
def State.queueNos (s : State) (c : Nat) : List Nat := (s.ctxQueues c).filterMap fun q => match q with
  | .normal _ n => some n
  | .kernel _ => none

/-! ## Stalls (R316) -/

/-- An operation of a core is performing: a head that is not held, or one whose WHEN is met. -/
def State.performing (s : State) (c : Nat) : Bool :=
  let x := s.core c
  ((List.range 6).any fun u => match unitQueue x u with
    | q :: _ => if u = 1 ∨ u = 2 then !s.stillHeld c (u - 1) q else q.held.isNone
    | [] => false) ||
  match x.delayed with
  | q :: _ => match q.op with
    | .tally o => whenMet x o
    | _ => true
  | [] => false

/-- A message to the context is in flight. -/
def State.inFlight (s : State) (c : Nat) : Bool :=
  s.tallyMsgs.any (·.ctx == c) || (s.ctxCores c).any fun k => (s.core k).wait == .sent || (s.core k).wait == .satisfied

/-- A crate has completed a lap since it last landed, or since it entered the ring. -/
def lappedUnlanded (x : Crate) : Bool := x.landHop + 88 ≤ x.hops

/-- A crate of the job's sets is on the ring, and has not gone round without landing. -/
def State.cratesMove (s : State) (j : Nat) : Bool :=
  s.crates.any fun e => match e.2 with
    | some x => x.heldAt.isNone && !lappedUnlanded x && ((s.set? x.hdr.wsid).map fun w => w.job == j).getD false
    | none => false

/-- The blocked heads of a context, in the order of R319: by WHERE, then by UNIT. -/
def State.heads (s : State) (c : Nat) : List Head :=
  sortBy (fun a b => decide (a.place < b.place) || (a.place == b.place && decide (a.unit ≤ b.unit)))
    ((s.ctxCores c).flatMap s.coreHeads ++ (s.ctxPhys c).flatMap s.stopHeads ++ (s.queueNos c).flatMap fun n => (s.queueHead c n).1)

/-- The context is stalled now. -/
def State.stalled (s : State) (c : Nat) : Bool :=
  let cores := s.ctxCores c
  cores.any (fun k => !(s.coreHeads k).isEmpty) && cores.all (fun k => (s.core k).halted || !(s.coreHeads k).isEmpty) &&
  !(cores.any s.performing) && !s.inFlight c && !s.cratesMove (s.ctx c).job && !((s.queueNos c).any fun n => (s.queueHead c n).2)

/-! ## Reports (R318, R319) -/

def headBytes (h : Head) : List Byte := le 1 h.code ++ le 1 h.unit ++ le 2 h.id ++ le 4 h.place ++ le 4 h.value ++ le 4 h.need

/-- The 4 KiB of a report. -/
def stockReport (now last c : Nat) (job : Bool) (l : List Head) : List Byte :=
  let m := l.take 252
  let b := le 8 now ++ le 8 last ++ le 2 c ++ le 2 m.length ++ le 4 (b2n (decide (252 < l.length)) + 2 * b2n job) ++ List.replicate 40 0 ++ m.flatMap headBytes
  b ++ List.replicate (4096 - b.length) 0

/-- The report goes to the context's report area on its host. -/
def State.writeReport (s : State) (c : Nat) (job : Bool) : State :=
  s.dmaWrite c (s.ctx c).port (s.ctx c).report (stockReport s.kcount (s.ctx c).stock.lastOp c job (s.heads c))

/-- A report in a context's area, recorded as F_STOCKTAKE (R318, R320). -/
def State.report (s : State) (c : Nat) (job : Bool) : State := (s.writeReport c job).raiseTo s.keeperDie fStocktake [c] false false []

/-- Word to the coordinator of a job over packages (R320): a context is detected stalled, or has made progress since, which withdraws it (DESIGN CHOICE, log
entry 89). -/
def State.tellStall (s : State) (c : Nat) (stalled : Bool) : State :=
  match s.launchOf c with
  | some l => if 1 < l.packages then s.send (.stocktake (s.ctx c).job c stalled) else s
  | none => s

/-- A detection. -/
def State.detect (s : State) (c : Nat) : State := (s.report c false).tellStall c true

/-- One context at a run: progress clears and rearms; two stalled samples with none between are a detection, told once (R317, R318). -/
def State.sample (s : State) (c : Nat) : State :=
  let x := s.ctx c
  let prog := x.stock.progress || (s.ctxCores c).any fun k => (s.core k).progress
  let now := s.stalled c
  let hit := now && x.stock.stalledPrev && !prog && !x.stock.reported
  let s := each (s.ctxCores c) s fun s k => s.modCore k fun y => { y with progress := false }
  let s := s.modCtx c fun y => { y with stock := { y.stock with progress := false, stalledPrev := now, reported := (y.stock.reported && !prog) || hit } }
  let s := if prog && x.stock.reported then s.tellStall c false else s
  if hit then s.detect c else s

/-- STOCKTAKE_RUN: no keeper, no run (R508). -/
def stocktakeRun (s : State) : State :=
  if s.holder.isNone then s
  else
    each (s.boundCtxs.filter s.isBound) s State.sample

def execStocktakeRun (s : State) : Out := need true (stocktakeRun s)

/-! ## Jobs over packages (R320) -/

/-- Every package of the job is detected stalled. -/
def State.allStalled (s : State) (j : Nat) (k : Coord) : Bool :=
  let pk := (((s.jobCtxs j).filterMap s.launchOf).head?.map (·.packages)).getD 1
  decide (pk ≤ ((k.stalled.map (·.1)).foldl addTo []).length)

/-- Another package coordinates a job: its launch here names another root. -/
def State.rootElsewhere (s : State) (j : Nat) : Bool :=
  (s.jobCtxs j).any fun c => (s.launchOf c).any fun l => decide (1 < l.packages) && l.root != s.pkgId

/-- The job-level report in the area of each context of the job on this package. -/
def State.jobReport (s : State) (j : Nat) : State := each (s.jobCtxs j) s fun s c => s.report c true

/-- STOCKTAKE_FORWARD: a detection reaches the coordinator, or the word that one is over. Once every package is stalled it writes job-level reports: to the context
of its own package, and by a message to each other package (R320). At another package the row is that message (DESIGN CHOICE, log entry 89). -/
def stocktakeForward (j pkg c : Nat) (stalled : Bool) (s : State) : State :=
  if s.holder.isNone then s
  else if s.rootElsewhere j then (if stalled then s.jobReport j else s)
  else match s.coord? j with
  | none => s
  | some k =>
    let rest := k.stalled.filter fun e => e != (pkg, c)
    let k := { k with stalled := if stalled then rest ++ [(pkg, c)] else rest }
    let s := s.setCoord j (some k)
    if !stalled || !s.allStalled j k then s
    else
      let s := (s.setCoord j (some { k with stalled := [] })).jobReport j
      each (((k.stalled.map (·.1)).foldl addTo []).filter (· != s.pkgId)) s fun s p => s.send (.stockReport j p)

def execStocktakeForward (job pkg ctx : Nat) (stalled : Bool) (s : State) : Out := need true (stocktakeForward job pkg ctx stalled s)

end Sys2Proof.Machine
end

