-- ==== Sys2Proof/Machine/Registers.lean ====
section
/-! DEFINITION. Every register of the package as software reads and writes it (R13, R14): the die windows at the offsets of R350 and of the chapters that add to
it, the registers of BAR0 (R348, R353), and the accesses that reach them. -/

namespace Sys2Proof.Machine

/-- Fields from the least significant bit up: (width, value). -/
def pack : List (Nat × Nat) → Nat
  | [] => 0
  | (w, v) :: t => v % 2 ^ w + 2 ^ w * pack t

/-- The flags of a list, the first in bit 0. -/
def flagBits (l : List Bool) : Nat := pack (l.map fun b => (1, b2n b))

/-! ## Time base (R69) -/

def tbStatus (t : TimeBase) : Nat :=
  pack [(6, flagBits [t.locked, t.syncSeen, t.epochSet, t.holdover, t.slewing, t.aligned]), (10, 0), (16, t.slipCount)]

/-- The time-base block of a die. -/
def State.readTb (s : State) (d off : Nat) : Option Nat :=
  let t := (s.die d).tb
  match off with
  | 0x00 => some (s.count d)
  | 0x08 => some t.epochNext.toNat
  | 0x10 => some (flagBits [t.epochArm, t.syncEn])
  | 0x18 => some (ofSigned 32 t.slew)
  | 0x20 => some (tbStatus t)
  | _ => none

def State.writeTb (s : State) (d off v : Nat) : State :=
  match off with
  | 0x08 => writeTbEpochNext d v s
  | 0x10 => writeTbCtrl d v s
  | 0x18 => s.writeSlew (toSigned 32 v)
  | _ => s

/-! ## Power (R61, R494) -/

def opCtrl (x : Die) : Nat := pack [(3, x.reqOp), (1, 0), (3, x.minOp), (1, 0), (3, x.maxOp), (4, 0), (1, b2n x.fixed)]
def opStatus (x : Die) : Nat :=
  pack [(3, x.curOp), (1, 0), (3, x.targetOp), (3, x.schedOp), (1, b2n x.scheduled), (1, b2n x.transition)]
def throttleReg (x : Die) : Nat := pack [(8, flagBits ((List.range 8).map (throttled x))), (8, x.throttle.last)]

def pkgCap (p : PackagePower) : Nat := pack [(16, p.cap), (2, p.first), (2, p.second), (2, p.third), (10, 0), (16, p.poolMax)]

def State.pkgStatus (s : State) : Nat :=
  let p := s.power
  let peak := ((p.peaks.filter fun e => decide (s.kcount < e.1 + 1000000000)).map (·.2)).foldl max 0
  pack [(4, flagBits [p.overCap, s.capAsked, s.holder.isNone, p.pools.any fun e => e.2 != 0]), (12, 0), (16, p.avg), (16, p.unalloc), (16, stick 16 peak)]

/-- PW_PKG_CAP's clamps. -/
def writePkgCap (v : Nat) (p : PackagePower) : PackagePower :=
  let cap := clampN 2000 21500 (bits v 0 16)
  let f := (bits v 16 2, bits v 18 2, bits v 20 2)
  let g := if sortNats [f.1, f.2.1, f.2.2] == [0, 1, 2] then f else (0, 1, 2)
  { p with cap := cap, first := g.1, second := g.2.1, third := g.2.2, poolMax := clampN cap 21500 (bits v 32 16) }

/-- The logical dies of a context as a mask. -/
def ctxMask (x : Context) : Nat := ((ctxDies x).map fun d => 2 ^ d).sum

/-- A PW_CRIT_MAP entry (R487). -/
def State.writeCrit (s : State) (c v : Nat) : State :=
  (s.modCtx c fun x => { x with crit := BitVec.ofNat 64 (Nat.land v (ctxMask x)) }).journalRec 7 c

/-! ## Compute, cellar and larder (R185, R284, R289, R342) -/

def State.sramCe (s : State) (d : Nat) : Nat :=
  pack ((List.range 4).map (fun k => (9, (s.core (4 * d + k)).sramCe)) ++ [(12, (s.die d).engineCe), (16, (s.die d).loftCe)])

def State.sramStatus (s : State) (d : Nat) : Nat :=
  let cs := (List.range 4).map fun k => s.core (4 * d + k)
  pack [(4, flagBits (cs.map (·.scrubbing))), (4, flagBits (cs.map (·.scrubFail))), (1, b2n (s.die d).loftBusy), (1, b2n (s.die d).loftFail)]

def gridStatus (g : Grid) : Nat :=
  let a := g.anchors.getLast?.getD {}
  pack [(8, a.lam), (8, (g.pending.head?.map (·.lam)).getD 0), (1, b2n (!g.pending.isEmpty)), (11, 0), (4, a.at16 % 16), (16, 0), (16, g.seq)]

def State.chStatus (s : State) (d : Nat) : Nat :=
  pack ((List.range 4).map fun i => let c := s.channel (4 * (d - 68) + i); (8, pack [(3, chCode c.st), (3, 0), (1, b2n c.ue), (1, b2n c.hot)]))

/-- LD_STATUS: WEAR is in percent of 10,000 writes of the user area's 2^24 pages (R287). -/
def ldStatus (x : Die) : Nat :=
  pack [(1, b2n x.writeBusy), (1, b2n x.writeFail), (6, 0), (16, x.weak), (8, min 100 (x.wornPages * 100 / (16777216 * 10000)))]

/-! ## Links (R435, R470) -/

def lkCtrl (x : Port) : Nat := pack [(3, flagBits [x.enable, x.hold]), (5, 0), (2, x.minWidth)]
def lkStatus (x : Port) : Nat :=
  pack [(16, x.lanes.toNat), (5, 0), (1, b2n x.keyPhase), (1, b2n x.reversed), (2, x.width), (4, x.reason), (3, portCode x.st), (8, x.trainings)]
def lkExpect (x : Port) : Nat := pack [(3, x.expectPort), (13, 0), (14, x.expectPkg), (1, 0), (1, b2n x.expectValid)]
def lkPartner (x : Port) : Nat := pack [(3, x.partnerPort), (13, 0), (14, x.partnerPkg), (1, 0), (1, b2n x.seen)]
def lkInject (x : Port) : Nat :=
  pack [(2, flagBits [x.injArm, x.injDir]), (2, 0), (2, x.injKind), (2, 0), (4, x.classes.toNat), (20, x.period), (16, x.limit), (16, x.injected)]
def lkErr (x : Port) : Nat := pack [(16, x.violations), (16, x.replays), (16, x.authFail), (16, x.crcFail)]
def timeCtrl (t : TimeTree) : Nat := pack [(3, t.parent), (1, b2n t.enable), (1, b2n t.root)]
def State.timeStatus (s : State) : Nat := pack [(16, s.time.exchanges), (8, 0), (8, s.depthNow), (32, ofSigned 32 s.time.offset)]

def State.readLink (s : State) (p off : Nat) : Option Nat :=
  let x := s.port p
  match off with
  | 0x00 => if p = 0 then some s.pkgId else none
  | 0x08 => some (lkCtrl x)
  | 0x10 => some (lkStatus x)
  | 0x18 => some (lkExpect x)
  | 0x20 => some (tabGet 0 x.digest 0).toNat
  | 0x28 => some (tabGet 0 x.digest 1).toNat
  | 0x30 => some (tabGet 0 x.digest 2).toNat
  | 0x38 => some (tabGet 0 x.digest 3).toNat
  | 0x40 => some (lkPartner x)
  | 0x48 => some x.delay
  | 0x50 => some (lkInject x)
  | 0x58 => some (lkErr x)
  | 0x60 => if p = 0 then some (timeCtrl s.time) else none
  | 0x68 => if p = 0 then some s.timeStatus else none
  | _ => none

/-- LK_CTRL: MIN_WIDTH, then HOLD, ENABLE and RETRAIN as their own rows have them. -/
def writeLkCtrl (p v : Nat) (s : State) : State :=
  let s := s.modPort p fun x => { x with minWidth := min 2 (bits v 8 2) }
  let s := if bit v 1 = (s.port p).hold then s else lkHold p (bit v 1) s
  let s := if bit v 0 = (s.port p).enable then s else lkEnable p (bit v 0) s
  lkRetrain p (bit v 2) s

/-- LK_TIME_CTRL: ALIGNED clears when PARENT or ROOT is written, and a root is then aligned as its dies allow (R468). -/
def writeTimeCtrl (v : Nat) (s : State) : State :=
  (({ s with time := { s.time with parent := bits v 0 3, enable := bit v 3, root := bit v 4, depth := 0xFF, good := 0, outstanding := none } } : State).setAligned
    false).rootAligned

def State.writeLink (s : State) (p off v : Nat) : State :=
  let dig := fun k => s.modPort p fun x => { x with digest := tabSet x.digest k (BitVec.ofNat 64 v) }
  match off with
  | 0x00 => if p = 0 && (List.range 8).all (fun i => (s.port i).st == .down) then { s with pkgId := bits v 0 14 } else s
  | 0x08 => writeLkCtrl p v s
  | 0x18 => s.modPort p fun x => { x with expectValid := bit v 31, expectPkg := bits v 16 14, expectPort := bits v 0 3 }
  | 0x20 => dig 0
  | 0x28 => dig 1
  | 0x30 => dig 2
  | 0x38 => dig 3
  | 0x50 => lkInjectArm p v s
  | 0x58 => s.modPort p fun x => { x with crcFail := 0, authFail := 0, replays := 0, violations := 0 }
  | 0x60 => if p = 0 then writeTimeCtrl v s else s
  | _ => s

/-! ## Hatch, security, debug (R314, R509, R547, R564, R569, R571) -/

def hatchCtrlReg (h : Hatch) : Nat := pack [(16, h.vid), (10, h.ctx), (2, 0), (3, h.op), (1, b2n h.go), (32, h.value.toNat)]
def hatchStatus (h : Hatch) : Nat := pack [(1, b2n h.go), (7, 0), (8, h.result), (16, stick 16 h.held.length), (32, h.epoch)]

def State.scStatus (s : State) : Nat :=
  let erasing := (s.owners.filter fun e => e.2 == .erasing).length
  let ctxs := s.contexts.filterMap (·.2)
  pack [(5, flagBits [s.bootSlot == 1, s.identityOk, s.inventoryOk, ctxs.any (·.debugOn), s.inv.debugAllowed]), (11, (ctxs.filter (·.sealed)).length), (8, 0),
    (8, max (tabGet 0 s.svn0 1) (tabGet 0 s.svn1 1)), (32, erasing)]

def State.errArithReg (s : State) (d : Nat) : Nat := pack ((List.range 4).map fun k => (16, (s.core (4 * d + k)).errArith))
def State.errTallyReg (s : State) (d : Nat) : Nat := pack ((List.range 4).map fun k => (16, (s.core (4 * d + k)).errTally))

/-- The performance counters that a die kind has (R570). -/
def perfIndex (d i : Nat) : Bool :=
  if isCompute d then i < 24 else if isCellar d then i < 10 else if isLarder d then i < 1 else if isLink d then i < 4 else false

def perfReg (p : Perf) : Nat := pack [(48, p.value), (15, 0), (1, b2n p.pegged)]

/-- The 8 bytes of the ledger ring at a place (R564): entry SEQ s at 64 × (s mod 4,096). -/
def ringWord (l : Ledger) (o : Nat) : Nat :=
  match l.ring.find? fun e => e.seq % 4096 == o / 64 with
  | some e => fieldAt (entryBytes e) (o % 64) 8
  | none => 0

/-! ## The window of a die (R350) -/

/-- The register at a window offset; none where the die has none (R42). -/
def State.readWindow (s : State) (d off : Nat) : Option Nat :=
  let x := s.die d
  if off < 0x28 then s.readTb d off
  else if off = 0x010000 then (if isCompute d then some (opCtrl x) else none)
  else if off = 0x010008 then (if isCompute d then some (opStatus x) else none)
  else if off = 0x010010 then some (throttleReg x)
  else if 0x010020 ≤ off ∧ off < 0x010060 then some (tabGet 0 x.throttle.time ((off - 0x010020) / 8))
  else if off = 0x010100 then (if isKeeper d then some (pkgCap s.power) else none)
  else if off = 0x010108 then (if isKeeper d then some s.pkgStatus else none)
  else if 0x011000 ≤ off ∧ off < 0x013000 then (if isKeeper d then some (s.ctx ((off - 0x011000) / 8)).crit.toNat else none)
  else if off = 0x020000 then (if isCompute d then some (s.sramCe d) else none)
  else if off = 0x020008 then (if isCompute d then some (s.sramStatus d) else none)
  else if 0x020100 ≤ off ∧ off < 0x020118 then
    if isHost d || isKeeper d then none
    else
      let a := x.grid.anchors.getLast?.getD { lam := 64 }
      some (if off = 0x020100 then gridStatus x.grid else if off = 0x020108 then a.at16 / 16 else a.beat)
  else if off = 0x030000 then (if d = 68 then some (pack [(16, s.spareFrames), (8, s.scrubHours)]) else none)
  else if off = 0x030008 then (if isCellar d then some (s.chStatus d) else none)
  else if off = 0x030010 then (if isCellar d then some (pack ((List.range 4).map fun i => (16, (s.channel (4 * (d - 68) + i)).ce))) else none)
  else if off = 0x040000 then (if isLarder d then some (ldStatus x) else none)
  else if 0x050000 ≤ off ∧ off < 0x050070 then (if isLink d then s.readLink (d - 88) (off - 0x050000) else none)
  else if off = 0x060000 then (if isHost d then some (hatchCtrlReg (s.hatch (d - 96))) else none)
  else if off = 0x060008 then (if isHost d then some (hatchStatus (s.hatch (d - 96))) else none)
  else if off = 0x070000 then (if isKeeper d then some s.scStatus else none)
  else if off = 0x070008 then (if isKeeper d then some s.tagBase else none)
  else if off = 0x080000 then some x.ledger.next
  else if off = 0x080008 then some (pack [(13, x.ledger.unmerged.length), (3, 0), (16, x.ledger.lost)])
  else if off = 0x080010 then (if isCompute d then some (s.errArithReg d) else none)
  else if off = 0x080018 then (if isCompute d then some (s.errTallyReg d) else none)
  else if off = 0x080020 then (if isCompute d then some x.errRing else none)
  else if 0x090000 ≤ off ∧ off < 0x090100 then
    (if perfIndex d ((off - 0x090000) / 8) then some (perfReg (tabGet {} x.perf ((off - 0x090000) / 8))) else none)
  else if off = 0x0F0000 then (if d = 96 then some (pack [(16, s.dgVid), (10, s.dgCtx), (4, 0), (1, b2n s.dgMode), (1, b2n s.dgGo), (32, s.dgValue.toNat)]) else none)
  else if 0x400000 ≤ off ∧ off < 0x440000 then some (ringWord x.ledger (off - 0x400000))
  else none

/-- A write at a window offset: fields clamped, read-only fields and offsets with no register ignored. The package registers are written through K0's
window. -/
def State.writeWindow (s : State) (d off : Nat) (w : Word) : State :=
  let v := w.toNat
  if off < 0x28 then s.writeTb d off v
  else if off = 0x010000 then (if isCompute d then pwOpCtrlWrite d v s else s)
  else if 0x010020 ≤ off ∧ off < 0x010060 then
    let r := (off - 0x010020) / 8
    s.modDie d fun x => { x with throttle := { x.throttle with time := tabSet x.throttle.time r 0, stuck := x.throttle.stuck.filter (· != r) } }
  else if off = 0x010100 then (if d = 98 then { s with power := writePkgCap v s.power } else s)
  else if 0x011000 ≤ off ∧ off < 0x013000 then (if d = 98 then s.writeCrit ((off - 0x011000) / 8) v else s)
  else if off = 0x020000 then
    if isCompute d then
      each (List.range 4) (s.modDie d fun x => { x with loftCe := 0, engineCe := 0 }) fun s k => s.modCore (4 * d + k) fun x => { x with sramCe := 0 }
    else s
  else if off = 0x030000 then (if d = 68 then clCfgWrite w s else s)
  else if off = 0x030010 then
    (if isCellar d then each (List.range 4) s fun s i => s.modChannel (4 * (d - 68) + i) fun c => { c with ce := 0 } else s)
  else if off = 0x040000 then (if isLarder d then s.modDie d fun x => { x with weak := 0 } else s)
  else if 0x050000 ≤ off ∧ off < 0x050070 then (if isLink d then s.writeLink (d - 88) (off - 0x050000) v else s)
  else if off = 0x060000 then (if isHost d then hatchCtrl (d - 96) w s else s)
  else if off = 0x080008 then s.modDie d fun x => { x with ledger := { x.ledger with lost := 0 } }
  else if off = 0x080010 then (if isCompute d then each (List.range 4) s fun s k => s.modCore (4 * d + k) fun x => { x with errArith := 0 } else s)
  else if off = 0x080018 then (if isCompute d then each (List.range 4) s fun s k => s.modCore (4 * d + k) fun x => { x with errTally := 0 } else s)
  else if off = 0x080020 then (if isCompute d then s.modDie d fun x => { x with errRing := 0 } else s)
  else if 0x090000 ≤ off ∧ off < 0x090100 then
    let i := (off - 0x090000) / 8
    if perfIndex d i then s.modDie d fun x => { x with perf := tabSet x.perf i {} } else s
  else if off = 0x0F0000 then (if d = 96 then dgForce v s else s)
  else s

/-! ## The registers of BAR0 (R348, R353) -/

/-- An HQ_ register of a port. -/
def State.readHq (s : State) (p off : Nat) : Nat :=
  let h := s.hp p
  match off with
  | 0x00 => pack [(16, 0x0400), (16, s.activeCores.length), (1, p), (7, 0), (8, s.inv.grade), (8, s.inv.stepping)]
  | 0x10 => pack [(2, flagBits [h.doorbellEn, h.autoFailover]), (14, 0), (16, h.failoverMs)]
  | 0x18 => pack [(1, s.primary), (7, 0), (1, b2n s.host0.up), (1, b2n s.host1.up)]
  | 0x20 => h.winSel
  | 0x28 => b2n h.winTimeout
  | 0x30 => h.kqSq
  | 0x38 => h.kqCq
  | 0x40 => pack [(24, b2n h.kqEnable), (4, h.kqLog2)]
  | 0x48 => flagBits [h.causeError, h.causeDone, h.causeRole, h.causeService, h.causePeer]
  | 0x50 => pack [(16, h.doorbell), (16, h.denied), (16, h.unexpected), (16, h.malformed)]
  | _ => 0

/-- A write of an HQ_ register. -/
def State.writeHq (s : State) (p off : Nat) (w : Word) : State :=
  let v := w.toNat
  match off with
  | 0x10 => s.modHp p fun h => { h with failoverMs := clampN 1 1000 (bits v 16 16), autoFailover := bit v 1, doorbellEn := bit v 0 }
  | 0x18 => hqRoleWrite p w s
  | 0x20 => s.modHp p fun h => { h with winSel := min 99 (bits v 0 7) }
  | 0x28 => s.modHp p fun h => { h with winTimeout := false }
  | 0x30 => s.modHp p fun h => { h with kqSq := if h.kqEnable then h.kqSq else alignTo 4096 v }
  | 0x38 => s.modHp p fun h => { h with kqCq := if h.kqEnable then h.kqCq else alignTo 4096 v }
  | 0x40 => hqKqEnable p w s
  | 0x48 => s.modHp p fun h =>
      { h with causeError := h.causeError && !bit v 0, causeDone := h.causeDone && !bit v 1, causeRole := h.causeRole && !bit v 2,
               causeService := h.causeService && !bit v 3, causePeer := h.causePeer && !bit v 4 }
  | 0x50 => s.changeErr p fun h => { h with malformed := 0, unexpected := 0, denied := 0, doorbell := 0 }
  | _ => s

/-- A half of an MSI-X entry: address, or data and mask. An entry that is unmasked with its bit pending is sent (R357). -/
def State.writeMsix (s : State) (p i : Nat) (upper : Bool) (v : Nat) : State :=
  let e := tabGet {} (s.hp p).msix i
  let e := if upper then { e with data := BitVec.ofNat 32 v, mask := bit v 32 } else { e with addr := BitVec.ofNat 64 (alignTo 4 v) }
  let go := !e.mask && e.pending && !(s.hp p).msixMask && (s.hp p).msixEnable
  let s := s.modHp p fun h => { h with msix := tabSet h.msix i { e with pending := e.pending && !go } }
  if go then s.raiseVector p i else s

/-- The word at a BAR0 offset outside the aperture. -/
def State.readBar0 (s : State) (p off : Nat) : Nat :=
  if off < 0x1000 then fieldAt (blockBytes s.block) off 8
  else if off < 0x2000 then s.readHq p (off - 0x1000)
  else if off = 0x2004 then (tbCountHigh s (96 + p) p).toNat
  else if off < 0x3000 then (s.readTb (96 + p) (off - 0x2000)).getD 0
  else if 0x10000 ≤ off ∧ off < 0x18000 then
    let e := tabGet {} (s.hp p).msix ((off - 0x10000) / 16)
    if off % 16 = 0 then e.addr.toNat else pack [(32, e.data.toNat), (1, b2n e.mask)]
  else if 0x18000 ≤ off ∧ off < 0x18100 then flagBits ((List.range 64).map fun i => (tabGet {} (s.hp p).msix (8 * (off - 0x18000) + i)).pending)
  else 0

/-- A write at a BAR0 offset outside the aperture; the time-base block follows R355 as the aperture does. -/
def State.writeBar0 (s : State) (p off : Nat) (w : Word) : State :=
  if off < 0x1000 then s
  else if off < 0x2000 then s.writeHq p (off - 0x1000) w
  else if off < 0x3000 then (if p ≠ s.primary then s.hqErr p .denied else s.writeTb (96 + p) (off - 0x2000) w.toNat)
  else if off < 0x3008 then kernelDoorbell p 8 w s
  else if 0x10000 ≤ off ∧ off < 0x18000 then s.writeMsix p ((off - 0x10000) / 16) (off % 16 == 8) w.toNat
  else s

/-! ## Accesses (R68, R349, R355) -/

/-- A read that is a BAR0 read lies outside the aperture, and a BAR2 read within BAR2 (R347). -/
def tlpOk : Tlp → Bool
  | .readBar0 o => decide (o < 0x1000000)
  | .readBar2 o => decide (o < 0x400000)
  | _ => true

/-- The 32-bit read of TB_COUNT's high half: what the requester's read of the low half latched, once. -/
def tbCountHighRead (d p : Nat) (s : State) : State :=
  let v := tbCountHigh s d p
  (s.modDie d fun x => { x with tb := { x.tb with latch := x.tb.latch.filter fun e => e.1 != p } }).answer "APERTURE" p [BitVec.ofNat 64 v.toNat]

/-- A read of BAR0 outside the aperture: the time-base block is answered by the host die under R68, and takes the high half of TB_COUNT from the latch.
A halted start-up has the status block, the time-base block and HQ_ID (R558). -/
def bar0Read (p off : Nat) (s : State) : State :=
  let ok := !s.halted || decide (off < 0x1008) || decide (0x2000 ≤ off ∧ off < 0x3000)
  if !ok then s.answer "BAR0" p [0]
  else if off = 0x2004 then
    (s.modDie (96 + p) fun x => { x with tb := { x.tb with latch := x.tb.latch.filter fun e => e.1 != p } }).answer "BAR0" p
      [BitVec.ofNat 64 (s.readBar0 p off)]
  else s.answer "BAR0" p [BitVec.ofNat 64 (s.readBar0 p (alignTo 8 off))]

/-- PCIE_TLP_RECEIVE (R345, R351, R360): nothing but a configuration request is answered until the front end is ready (R346). -/
def pcieTlpReceive (p : Nat) (t : Tlp) (s : State) : State :=
  let reply := fun (s : State) (f : State → State) => if s.configReady p then f s else s
  match t with
  | .malformed => (s.aerLog p 18).hqErr p .malformed
  | .ecrcError => (s.aerLog p 19).hqErr p .malformed
  | .outsideBars => reply (s.aerAdvise p 20) fun s => s.answer "UR" p []
  | .poisonedWrite => s.aerLog p 12
  | .unexpectedCompletion => (s.aerLog p 16).hqErr p .unexpected
  | .configWriteReadOnly => s
  | .readBar0 off => reply s (bar0Read p off)
  | .readBar2 _ => reply s fun s => s.answer "BAR2" p [0]
  | .ptmRequest => reply s fun s => s.answer "PTM" p [BitVec.ofNat 64 (s.count (96 + p))]
  | .atomicOp => reply (s.aerAdvise p 20) fun s => s.answer "UR" p []

def execPcieTlpReceive (port : Nat) (tlp : Tlp) (s : State) : Out :=
  need (isHostPort port && tlpOk tlp) (pcieTlpReceive port tlp s)

/-- APERTURE_READ: a die that does not answer, or that no path leads to (R26), lets the read time out (R349); offset 4 is the high half of TB_COUNT; a read of no register ends in error (R42). -/
def apertureRead (p off : Nat) (answered : Bool) (s : State) : State :=
  let d := (s.hp p).winSel
  if !answered || (s.die d).railOff || !s.reaches (96 + p) d then (s.modHp p fun h => { h with winTimeout := true }).answer "APERTURE" p [BitVec.allOnes 64]
  else if off = 4 then tbCountHighRead d p s
  else match s.readWindow d (alignTo 8 off) with
    | some v => s.answer "APERTURE" p [BitVec.ofNat 64 v]
    | none => s.answer "APERTURE_ERROR" p []

def execApertureRead (port offset : Nat) (answered : Bool) (s : State) : Out :=
  need (isHostPort port && decide (offset < 0x1000000))
    (if s.halted then (if s.configReady port then s.answer "APERTURE" port [0] else s) else s.atPort port (apertureRead port offset answered))

/-- APERTURE_WRITE. -/
def apertureWrite (p off : Nat) (w : Word) (s : State) : State :=
  if p ≠ s.primary then s.hqErr p .denied
  else if (s.die (s.hp p).winSel).railOff || !s.reaches (96 + p) (s.hp p).winSel then s
  else s.writeWindow (s.hp p).winSel (alignTo 8 off) w

def execApertureWrite (port offset : Nat) (value : Word) (s : State) : Out :=
  need (isHostPort port && decide (offset < 0x1000000)) (s.atPort port (apertureWrite port offset value))

/-- The register space and offset exist. -/
def spaceOk : RegSpace → Nat → Bool
  | .window d, o => isDie d && decide (o < 0x1000000)
  | .bar0 p, o => isHostPort p && decide (o < 0x1000000)

/-- REGISTER_WRITE: a write that has reached the die, or a port's BAR0. -/
def registerWrite (r : RegSpace) (off : Nat) (w : Word) (s : State) : State :=
  match r with
  | .window d => s.writeWindow d (alignTo 8 off) w
  | .bar0 p => s.atPort p fun s => s.writeBar0 p (alignTo 8 off) w

def execRegisterWrite (space : RegSpace) (offset : Nat) (value : Word) (s : State) : Out := need (spaceOk space offset) (registerWrite space offset value s)

end Sys2Proof.Machine
end

