-- ==== Sys2Proof/Machine/Startup.lean ====
section
/-! DEFINITION. Chapter 19: pins, power, the phases of start-up, and the resets of the package. -/

namespace Sys2Proof.Machine

/-! ## Pins and power (R549 to R551, R583) -/

/-- Every rail is in regulation. -/
def railsUp (p : Pins) : Bool := p.railSram && p.railCore && p.railIo && p.railOpt

/-- EDGES_VALID: the rails come up one after the other, unless the THERM_TRIP_N latch holds them off (R550, R583). -/
def edgesValid (s : State) : State :=
  let on := !s.pins.thermTripLow
  { s with pins := { s.pins with edge0 := true, edge1 := true, railSram := s.pins.railSram || on, railCore := s.pins.railCore || on, railIo := s.pins.railIo || on,
                                 railOpt := s.pins.railOpt || on } }

def execEdgesValid (s : State) : Out := need true (edgesValid s)

/-- Die reset is released: every counter starts at zero, every loop shows LOCKED, and phase 2 begins (R550). -/
def State.release (s : State) : State :=
  each dieList ({ s with now := 0, phase := 2 } : State) fun s d => s.modDie d fun x => { x with tb := { x.tb with locked := true } }

/-- DIE_RESET_RELEASE: at the end of phase 1, with every rail in regulation and PKG_RESET_N high. -/
def dieResetRelease (s : State) : State := if s.phase = 1 && railsUp s.pins && !s.pins.pkgResetLow then s.release else s

def execDieResetRelease (s : State) : Out := need true (dieResetRelease s)

/-- EDGE_UNDERVOLTAGE (R551): the package leaves service as at a package trip, and every rail turns off. -/
def edgeUndervoltage (e : Nat) (s : State) : State :=
  let p := if e = 0 then { s.pins with edge0 := false } else { s.pins with edge1 := false }
  ({ s with pins := p } : State).dropLinks.railsOff

def execEdgeUndervoltage (edge : Nat) (s : State) : Out := need (decide (edge < 2)) (edgeUndervoltage edge s)

/-- PKG_RESET_ASSERT (R549): every die is held in reset; the rails stay as they are. -/
def pkgResetAssert (s : State) : State :=
  let t := s.cleared
  { t with pins := { t.pins with pkgResetLow := true } }

def execPkgResetAssert (s : State) : Out := need true (pkgResetAssert s)

/-- PKG_RESET_RELEASE (R549): start-up goes on from phase 2, or from phase 1 where a rail is off. -/
def pkgResetRelease (s : State) : State :=
  if !s.pins.pkgResetLow then s
  else
    let t : State := { s with pins := { s.pins with pkgResetLow := false } }
    if railsUp t.pins then t.release else t

def execPkgResetRelease (s : State) : Out := need true (pkgResetRelease s)

/-- THERM_TRIP_LATCH_CLEAR (R583): both edges have been below 2.0 V. -/
def thermTripLatchClear (s : State) : State :=
  let t := s.railsOff
  { t with pins := { t.pins with edge0 := false, edge1 := false, thermTripLow := false } }

def execThermTripLatchClear (s : State) : Out := need true (thermTripLatchClear s)

/-! ## Phase 2: keeper ROM (R552, R553) -/

/-- Start-up stands in a phase, and has not halted. -/
def State.inPhase (s : State) (n : Nat) : Bool := s.phase == n && !s.halted && !s.pins.pkgResetLow

/-- A keeper takes the token for the first time: phase 3. -/
def State.firstToken (s : State) (k : Nat) : State := { s.takeToken k with phase := 3 }

/-- KEEPER_ROM: both keepers run ROM and derive or unwrap the identity, and an Isazen engine draws the package key set, its XTS pair, MAC key and staging key (R520); the SMBus address is read from its straps (R582); K0 makes its attempt; with neither good, start-up halts. -/
def keeperRom (k0Ok k1Ok : Bool) (s : State) : State :=
  if !s.inPhase 2 || s.keeper0 != .off || s.keeper1 != .off then s
  else
    let s := (s.keeperTo 0 (if k0Ok then .booting else .failed)).keeperTo 1 (if k1Ok then .booting else .failed)
    if !k0Ok && !k1Ok then { s with halted := true }
    else
      let r := s.takeFresh
      let s : State := { r.2 with
        idKey := slice identityKey 0 64, packageKeys := slice (Config.random r.1) 0 128
        smbusAddr := 0x60 + 2 * b2n s.pins.mgmtAddr1 + b2n s.pins.mgmtAddr0 }
      if k0Ok then s.firstToken 0 else s

def execKeeperRom (k0Ok k1Ok : Bool) (s : State) : Out := need true (keeperRom k0Ok k1Ok s)

/-- K1_TOKEN_WAIT (R553): only while epoch 0 is still in place. -/
def k1TokenWait (s : State) : State :=
  if s.inPhase 2 && s.keeperEpoch == 0 && s.keeper1 == .booting then s.firstToken 1 else s

def execK1TokenWait (s : State) : Out := need true (k1TokenWait s)

/-! ## Phase 3: measured boot (R523 to R525, R532) -/

/-- Contexts in debug mode. -/
def State.debugging (s : State) : Nat := (s.contexts.filter fun e => (e.2.map (·.debugOn)).getD false).length

/-- The measurement blocks 7 to 9, which follow the state (R532). -/
def State.remeasure (s : State) : State :=
  { s with measured := tabSet (tabSet (tabSet s.measured 7 (sha256 ((List.range 4).map fun i => BitVec.ofNat 8 (s.svn (i + 1)))))
      8 (sha256 (inventoryBytes s.idKey s.inv))) 9 (sha256 (le 1 (b2n s.inv.debugAllowed) ++ le 1 s.debugging)) }

/-- The measurement blocks (R532). -/
def State.measure (s : State) : State :=
  let standby := if s.keeper0 = .standby || s.keeper1 = .standby then s.fwDigest (keeperLoader (1 - s.holder.getD 0)) else List.replicate 32 0
  ({ s with measured := [(1, Config.romDigest), (2, s.fwDigest (s.loaderOf 1)), (3, standby), (4, s.fwDigest 2), (5, s.fwDigest 3), (6, s.fwDigest 4)] } : State).remeasure

/-- A keeper without a valid image enters state 4; with no keeper left, start-up halts (R524, R558). -/
def State.noKeeperImage (s : State) : State :=
  let s : State := { s with holder := none }
  { ((s.keeperTo 0 .failed).keeperTo 1 .failed).holdKeeper true with halted := true }

/-- MEASURED_BOOT: the active keeper's image, the other kinds, the measurements; the other keeper boots its own image and stands by. -/
def measuredBoot (s : State) : State :=
  if !s.inPhase 3 || s.holder.isNone then s
  else
    let s := each [1, 2, 3, 4] s fun s k => s.setSvn k (s.svn k)
    let s := s.fwFaults 1
    if (s.fwPick 1).isNone then s.noKeeperImage
    else
      let s := each [0, 1] s fun s j => if s.keeper j = .booting || s.keeper j = .active then s.runImage (keeperLoader j) 1 else s
      let s := each [2, 3, 4] s State.loadKind
      let s := each [0, 1] s fun s j => if s.keeper j = .booting then s.standBy j else s
      { s.measure with phase := 4 }

def execMeasuredBoot (s : State) : Out := need true (measuredBoot s)

/-! ## Phase 4: the inventory record (R529, R32 to R35) -/

/-- A copy that the keeper can use: its larder die stands, its signatures verify and its key digest matches. -/
def State.invUsable (s : State) (l : Nat) : Option Inventory :=
  let c := if l = 0 then s.invL0 else s.invL1
  if c.ok && (s.die (80 + l)).failed.isNone then some c.inv else none

/-- The record that the keeper uses: of the valid copies the one with the higher SEQ. -/
def State.invPick (s : State) : Option Inventory :=
  match s.invUsable 0, s.invUsable 1 with
  | some a, some b => if a.seq < b.seq then some b else some a
  | some a, none => some a
  | none, b => b

/-- The cores of a spare that stands in for a die with fewer active cores are masked beyond the first of that number, in core order (R34). -/
def State.maskSpares (s : State) : State :=
  let factory := computeDies.filter fun d => !s.inv.factorySpares.contains d
  each (factory.zip s.inv.logical) s fun s p =>
    if p.1 = p.2 then s
    else
      let good := ((List.range 4).map (4 * p.2 + ·)).filter fun c => bit (tabGet 0 s.inv.coreMap p.2) (c % 4)
      each (good.drop (s.goodCores p.1)) s fun s c => s.modCore c fun x => { x with masked := true }

/-- INVENTORY_LOAD: the other copy is rewritten to match; with no valid copy, F_INVENTORY and a halt. -/
def inventoryLoad (s : State) : State :=
  if !s.inPhase 4 || s.holder.isNone then s
  else match s.invPick with
    | none => { s.raise s.keeperDie fInventory [] [] with halted := true }
    | some x =>
      let c : InvCopy := { inv := x, ok := true }
      let s : State := { s with inv := x, inventoryOk := true, identityOk := true,
                                invL0 := if (s.die 80).failed.isNone then c else s.invL0, invL1 := if (s.die 81).failed.isNone then c else s.invL1 }
      { s.maskSpares.remeasure with phase := 5 }

def execInventoryLoad (s : State) : Out := need true (inventoryLoad s)

/-! ## Phase 5: self-test (R554, R555) -/

/-- Every compute die moves toward REQ_OP for its test; spares return to OP0 and stay in bypass (R37, R61, R554). -/
def State.testPoints (s : State) : State :=
  each computeDies s fun s d => s.modDie d fun x =>
    if s.inv.logical.contains d then { x with curOp := x.reqOp, targetOp := x.reqOp, transition := false }
    else { x with curOp := 0, targetOp := 0, transition := false, bypass := true }

/-- A die that fails its test (R555). -/
def State.testFails (s : State) (d : Nat) : State :=
  let s := s.raise d fSelftest [] []
  if isCompute d then
    if s.inv.logical.contains d then s.dieFails d fSelftest else if s.inv.spares.contains d then s.loseSpare d else s
  else if isKeeper d then s.keeperFails (d - 98)
  else s.otherFails d fSelftest

/-- Start-up cannot go on: both L0 and L1 have failed, or both host dies (R558). -/
def State.testHalts (s : State) : Bool :=
  ((s.die 80).failed.isSome && (s.die 81).failed.isSome) || ((s.die 96).failed.isSome && (s.die 97).failed.isSome)

/-- SELF_TEST: `failed` lists the dies that fail, beside which one that trips meanwhile counts as failed (R560), `routers` those whose mesh router does. Every store is left at zero. -/
def selfTest (failed routers : List Nat) (s : State) : State :=
  if !s.inPhase 5 || s.holder.isNone then s
  else
    let s : State := { s.testPoints with mem := s.mem.filter fun c => c.1 < 0x200000000000 }
    let s := each (dieList.filter fun d => failed.contains d || (s.die d).testTrip) s State.testFails
    let s := if routers.isEmpty then s else s.rewriteInventory fun x => { x with routers := routers.foldl addTo x.routers }
    let s := each s.inv.routers s State.loadDetours
    if s.testHalts || s.halted then { s with halted := true } else { s with phase := 6 }

def execSelfTest (failed routers : List Nat) (s : State) : Out := need (failed.all isDie && routers.all isDie) (selfTest failed routers s)

/-! ## Phase 6: the cellar (R282, R556) -/

/-- The module of a channel as start-up reads it: a channel not listed shows R266's values and trains at once. -/
def moduleOf (l : List ModuleRead) (ch : Nat) : ModuleRead := (l.find? fun m => m.ch == ch).getD { ch := ch }

/-- A channel comes up: its die stands, its image runs, and the module passes every step. -/
def State.channelGood (s : State) (l : List ModuleRead) (ch : Nat) : Bool :=
  modulePasses (moduleOf l ch) && (s.die (68 + ch / 4)).failed.isNone && (tabGet none s.fwRunning 4).isSome

/-- A channel that fails at start-up is FAILED, and its frames are remapped or unmapped (R282). -/
def State.channelDown (s : State) (ch : Nat) : State := (if (s.channel ch).st = .failed then s else s.channelTo ch .failed).failedFrames ch

/-- CELLAR_BRINGUP: every module is read (R267, R283); every granule is UNOWNED, and its tags are zero. -/
def cellarBringup (l : List ModuleRead) (s : State) : State :=
  if !s.inPhase 6 || s.holder.isNone then s
  else
    let good := (List.range 48).filter (s.channelGood l)
    let bad := (List.range 48).filter fun c => !s.channelGood l c
    let s := each (List.range 48) s fun s c => s.readModule c (moduleOf l c)
    let s := each good s fun s c => (s.channelTo c .training).channelTo c .active
    { each bad s State.channelDown with owners := [], written := [], phase := 7 }

def execCellarBringup (modules : List ModuleRead) (s : State) : Out := need (modules.all fun m => isChannel m.ch) (cellarBringup modules s)

/-! ## Phases 7 and 8 (R552, R557) -/

/-- HOST_LINK_START: a front end is ready where its die passed its test and its image runs; with none ready, start-up halts. -/
def hostLinkStart (ok0 ok1 : Bool) (s : State) : State :=
  if !s.inPhase 7 || s.holder.isNone then s
  else
    let can := fun (p : Nat) (ok : Bool) => ok && (s.die (96 + p)).failed.isNone && (tabGet none s.fwRunning 2).isSome
    let a := can 0 ok0
    let b := can 1 ok1
    let s := (s.modHp 0 fun h => { h with ready := a }).modHp 1 fun h => { h with ready := b }
    if a || b then { s with phase := 8 } else { s with halted := true }

def execHostLinkStart (ok0 ok1 : Bool) (s : State) : Out := need true (hostLinkStart ok0 ok1 s)

/-- Two dies loaded one epoch at one edge: their counts just before the load differ by no more than 2 (R64, R65). -/
def sameLoad (a b : TimeBase) : Bool := a.epoch == b.epoch && a.preLoad ≤ b.preLoad + 2 && b.preLoad ≤ a.preLoad + 2

/-- The first die whose epoch load differs from that of a die before it. -/
def State.epochDiffers (s : State) : Option Nat :=
  dieList.find? fun d => !((List.range d).all fun e => sameLoad (s.die e).tb (s.die d).tb)

/-- EPOCH_CHECK: phase 8 completes, or the first die that differs is recorded, and the package stays in phase 8 until it is reset. -/
def epochCheck (s : State) : State :=
  if !s.inPhase 8 || s.epochBad || s.holder.isNone || !(dieList.all fun d => (s.die d).tb.epochSet) then s
  else match s.epochDiffers with
    | some d => ({ s with epochBad := true } : State).note s.keeperDie 0x03 64 noCtx (le 1 d)
    | none => ({ s with phase := 0, service := .normal } : State).causeService

def execEpochCheck (s : State) : Out := need true (epochCheck s)

end Sys2Proof.Machine
end

