-- ==== Sys2Proof/Machine/Security.lean ====
section
/-! DEFINITION. Chapter 18: the SPDM responder, firmware update, anti-rollback counters and TDISP. -/

namespace Sys2Proof.Machine

/-- Bytes as the 64-bit words of an answer, the last filled with zeros. -/
def toWords : List Byte → List Word
  | a :: b :: c :: d :: e :: f :: g :: h :: t => BitVec.ofNat 64 (ofLe [a, b, c, d, e, f, g, h]) :: toWords t
  | [] => []
  | l => [BitVec.ofNat 64 (ofLe l)]

/-! ## SPDM (R522, R531, R532) -/

/-- A transport instance reaches the responder: DOE of a port whose front end is ready, or MCTP; and a keeper is active. -/
def State.spdmReach (s : State) (tr : Nat) : Bool := s.holder.isSome && (tr == 2 || (s.hp tr).ready)

/-- DMTF's value type of a measurement block, a digest: 0 immutable ROM, 1 mutable firmware, 2 and 3 hardware and firmware configuration, 5 debug mode. -/
def blockType (i : Nat) : Nat := if i = 1 then 0 else if i ≤ 6 then 1 else if i = 7 then 3 else if i = 8 then 2 else 5

/-- The measurement blocks, in index order, each in the DMTF measurement format (R532): index, specification, size, value type, value size, digest. -/
def State.blocks (s : State) : List Byte :=
  (List.range 9).flatMap fun i => le 1 (i + 1) ++ le 1 1 ++ le 2 35 ++ le 1 (blockType (i + 1)) ++ le 2 32 ++ tabGet [] s.measured (i + 1)

/-- An answer to an SPDM request. -/
def State.spdmAnswer (s : State) (tr : Nat) (kind : String) (l : List Byte) : State := s.answer kind tr (toWords l)

def State.spdmError (s : State) (tr : Nat) : State := s.spdmAnswer tr "SPDM_ERROR" []

/-- MEASUREMENTS: taken at the request, and signed with the requester's nonce where it gives one. -/
def State.spdmMeasure (s : State) (tr : Nat) (nonce : List Byte) : State :=
  let s := s.measure
  s.spdmAnswer tr "SPDM_MEASUREMENTS" (s.blocks ++ if nonce.isEmpty then [] else identitySign (s.blocks ++ nonce))

/-- A session opens: at most 64 on a transport instance, each under an id of its own. -/
def State.spdmOpen (s : State) (tr id : Nat) (ems : List Byte) : State :=
  if 64 ≤ (s.sessions.filter fun x => x.transport == tr).length || (s.session tr id).isSome then s.spdmError tr
  else ({ s with sessions := s.sessions ++ [{ transport := tr, id := id, ems := ems }] } : State).spdmAnswer tr "SPDM_KEY_EXCHANGE" (le 4 id)

def State.spdmEnd (s : State) (tr id : Nat) : State :=
  if (s.session tr id).isNone then s.spdmError tr
  else ({ s with sessions := s.sessions.filter fun (x : Session) => !(x.transport == tr && x.id == id) } : State).spdmAnswer tr "SPDM_END_SESSION" (le 4 id)

/-- A request to program, start or stop an IDE stream of a DOE port, stream 0 (link IDE) to 4; a stream is secure while it is started under a key.
An integrity failure ends with the next start under a new key. -/
def State.ideMove (s : State) (tr i : Nat) (ok : IdeStream → Bool) (f : IdeStream → IdeStream) : State :=
  if tr < 2 && i < 5 && ok (tabGet {} (s.hp tr).ide i) then
    (s.modHp tr fun h =>
      let x := f (tabGet {} h.ide i)
      { h with ide := tabSet h.ide i x, insecure := if x.started then h.insecure.filter (· != i) else h.insecure }).spdmAnswer tr "IDE_KM" (le 1 i)
  else s.spdmError tr

/-- A keep-alive or a key update of an open session is acknowledged; the export master secret of the session stays (R531). -/
def State.spdmInSession (s : State) (tr id : Nat) (kind : String) : State := if (s.session tr id).isSome then s.spdmAnswer tr kind (le 4 id) else s.spdmError tr

/-- A context whose TDI belongs to a port's function (R542). -/
def State.ownTdi (s : State) (tr c : Nat) : Bool := (s.ctx? c).isSome && (s.ctx c).port == tr

/-- TDI_STATE of a TDISP answer. -/
def tdiCode : TdiSt → Nat
  | .unlocked => 0 | .locked => 1 | .run => 2 | .error => 3

/-- A TDISP request about a context on its own port, in state `want`, moves the TDI. -/
def State.tdiMove (s : State) (tr c : Nat) (ok : Context → Bool) (to_ : TdiSt) (stream : Nat) : State :=
  if s.ownTdi tr c && ok (s.ctx c) then
    (s.modCtx c fun x => { x with tdi := to_, tdiStream := stream }).spdmAnswer tr "TDISP" (le 4 c)
  else s.spdmAnswer tr "TDISP_ERROR" (le 4 c)

/-- SPDM_REQUEST: what the responder does not support is answered with an error. -/
def spdmRequest (tr : Nat) (r : SpdmReq) (s : State) : State :=
  if !s.spdmReach tr then s
  else match r with
    | .getVersion => s.spdmAnswer tr "SPDM_VERSION" [0x12]
    | .getCertificate slot => if slot = 0 then s.spdmAnswer tr "SPDM_CERTIFICATE" (Config.certificates s.inv.serial s.idKey) else s.spdmError tr
    | .challenge => let s := s.measure; s.spdmAnswer tr "SPDM_CHALLENGE_AUTH" (identitySign s.blocks)
    | .measurements nonce => s.spdmMeasure tr nonce
    | .keyExchange id ems => s.spdmOpen tr id ems
    | .endSession id => s.spdmEnd tr id
    | .getCapabilities => s.spdmAnswer tr "SPDM_CAPABILITIES" (le 4 0x62F6)
    | .negotiateAlgorithms => s.spdmAnswer tr "SPDM_ALGORITHMS" (le 4 0x10 ++ le 4 1 ++ le 2 8 ++ le 2 2)
    | .getDigests => s.spdmAnswer tr "SPDM_DIGESTS" (le 1 1 ++ sha256 (Config.certificates s.inv.serial s.idKey))
    | .heartbeat id => s.spdmInSession tr id "SPDM_HEARTBEAT_ACK"
    | .keyUpdate id => s.spdmInSession tr id "SPDM_KEY_UPDATE_ACK"
    | .interfaceState c => if s.ownTdi tr c then s.spdmAnswer tr "TDISP_STATE" (le 4 c ++ le 1 (tdiCode (s.ctx c).tdi)) else s.spdmAnswer tr "TDISP_ERROR" (le 4 c)
    | .interfaceReport c =>
      if s.ownTdi tr c then s.spdmAnswer tr "TDISP_REPORT" (le 4 c ++ le 8 (c * 4096) ++ le 4 (s.ctx c).pasid) else s.spdmAnswer tr "TDISP_ERROR" (le 4 c)
    | .startInterface c => s.tdiMove tr c (fun x => x.tdi == .locked) .run (s.ctx c).tdiStream
    | .stopInterface c => s.tdiMove tr c (fun x => x.sealed && x.tdisp) .unlocked 0
    | .ideKeyProg i key => s.ideMove tr i (fun _ => !key.isEmpty) (fun x => { x with key := key })
    | .ideKeyGo i => s.ideMove tr i (fun x => !x.key.isEmpty) (fun x => { x with started := true })
    | .ideKeyStop i => s.ideMove tr i (fun _ => true) (fun _ => {})
    | .unsupported => s.spdmError tr

def execSpdmRequest (transport : Nat) (req : SpdmReq) (s : State) : Out := need (decide (transport < 3)) (spdmRequest transport req s)

/-- LOCK_INTERFACE_REQUEST (R542): only for a sealed context with the TDISP flag, before its first LAUNCH. It names the IDE stream that the TDI is
bound to. -/
def lockInterfaceRequest (p c stream : Nat) (s : State) : State :=
  if !s.spdmReach p then s
  else s.tdiMove p c (fun x => x.sealed && x.tdisp && !x.launched && x.tdi == .unlocked) .locked stream

def execLockInterfaceRequest (port ctx stream : Nat) (s : State) : Out :=
  need (isHostPort port && isContext ctx && decide (stream < 5)) (lockInterfaceRequest port ctx stream s)

/-! ## Firmware (R523 to R526, R558) -/

/-- An image as stored: whether its signature verifies and its digest matches its body, and its header names the kind of its slot. -/
def fwCheck (kind : Nat) (l : List Byte) : FwCopy :=
  { bytes := l, sigOk := ecdsaVerify Config.firmwareKey (slice l 0 192) (slice l 192 64)
    digestOk := fieldAt l 0 2 == kind && fieldAt l 4 4 == l.length - 256 && sha256 (l.drop 256) == slice l 16 32 }

/-- The image is valid (R524). -/
def State.imageValid (s : State) (kind : Nat) (x : FwCopy) : Bool := x.sigOk && x.digestOk && decide (s.svn kind ≤ fwSvn x)

/-- An image in a slot, on L0 and on L1. -/
def State.putImage (s : State) (kind slot : Nat) (x : FwCopy) : State :=
  each [0, 1] s fun s l => if (s.die (80 + l)).failed.isSome then s else { s with fw := tabSet s.fw (4 * kind + 2 * slot + l) x }

/-- Keeper firmware writes the slot that is not running, and reports whether the image verifies there (R526). -/
def State.updateSlot (s : State) (kind : Nat) (l : List Byte) : State :=
  let x := fwCheck kind l
  let slot := match s.running (s.loaderOf kind) with
    | some r => 1 - r.key / 2 % 2
    | none => 0
  let s := s.putImage kind slot x
  s.answer "PLDM_FW_UPDATE" kind [BitVec.ofNat 64 (b2n (s.imageValid kind x))]

/-- The keeper ROM, with no valid keeper image in a halted start-up: it takes a keeper image that verifies into slot A, and start-up goes on from
phase 2 (R558). -/
def State.romUpdate (s : State) (l : List Byte) : State :=
  let x := fwCheck 1 l
  if !s.imageValid 1 x then s.answer "PLDM_FW_UPDATE" 1 [0]
  else
    let s := (s.putImage 1 0 x).answer "PLDM_FW_UPDATE" 1 [1]
    (((({ s with halted := false, phase := 2, keeperEpoch := 0, holder := none, taking := false } : State).keeperTo 0 .off).keeperTo 1 .off).holdKeeper true)

/-- PLDM_FW_UPDATE. -/
def pldmFwUpdate (kind : Nat) (l : List Byte) (s : State) : State :=
  if s.holder.isSome then s.updateSlot kind l
  else if s.halted && kind = 1 && (s.fwPick 1).isNone then s.romUpdate l
  else s

def execPldmFwUpdate (kind : Nat) (image : List Byte) (s : State) : Out := need (decide (1 ≤ kind ∧ kind ≤ 4)) (pldmFwUpdate kind image s)

/-- FW_FLOOR_TIMER (R524): the counter of the kind rises to FLOOR of the image that runs, where FLOOR is the higher; it has 256 bits (R525). -/
def fwFloorTimer (kind : Nat) (s : State) : State :=
  if s.holder.isNone then s
  else match s.running (s.loaderOf kind) with
    | none => s
    | some r => s.setSvn kind (max (s.svn kind) (min 256 (imageFloor r.bytes)))

def execFwFloorTimer (kind : Nat) (s : State) : Out := need (decide (1 ≤ kind ∧ kind ≤ 4)) (fwFloorTimer kind s)

end Sys2Proof.Machine
end

