-- ==== Sys2Proof/Machine/Telemetry.lean ====
section
/-! DEFINITION. Chapter 20: the sensors and platform events of the management endpoint. Temperatures are in quarter degrees, powers in tenths of a
watt, currents in tenths of an ampere, received lane power in tenths of a dBm, package power and cap in watts. -/

namespace Sys2Proof.Machine

/-! ## Sensors (R574) -/

/-- A die whose sensors report the state unavailable: off, retired, or quarantined after F_RAIL_FAULT. -/
def State.sensorOff (s : State) (d : Nat) : Bool := (s.die d).railOff || s.inv.retired.contains d || (s.die d).failed == some fRailFault

/-- One sensor for each element of a list, from `id` up. -/
def sensorRow (id : Nat) (l : List (Option Int)) : Tab (Option Int) := l.zipIdx.map fun p => (id + p.2, p.1)

/-- A reading of each die, or unavailable. -/
def State.dieRow (s : State) (l : List Int) : List (Option Int) := l.zipIdx.map fun p => if s.sensorOff p.2 then none else some p.1

/-- The numeric sensors as refreshed. -/
def State.readSensors (s : State) (dieTemps : List Int) (diePower : List Nat) (modTemps lanePower : List Int) : Tab (Option Int) :=
  [(1, some (s.power.avg : Int)), (2, some (10 * s.power.edge0 : Int)), (3, some (10 * s.power.edge1 : Int)), (4, some (capInForce s.power : Int))] ++
    sensorRow 0x100 (s.dieRow dieTemps) ++ sensorRow 0x200 (s.dieRow (diePower.map fun n => (n : Int))) ++ sensorRow 0x300 (modTemps.map some) ++
      sensorRow 0x400 (lanePower.map some)

/-- The state sensors, by numbers of the model's own (R575 gives none): 0 SERVICE, 1 PHASE, 2 and 3 the keepers, 0x100 + k a channel, 0x200 + n a port. -/
def State.stateSensor (s : State) (id : Nat) : Option Nat :=
  if id = 0 then some (serviceCode s.service)
  else if id = 1 then some s.phase
  else if id = 2 then some (keeperCode s.keeper0)
  else if id = 3 then some (keeperCode s.keeper1)
  else if 0x100 ≤ id && isChannel (id - 0x100) then some (chCode (s.channel (id - 0x100)).st)
  else if 0x200 ≤ id && isPort (id - 0x200) then some (portCode (s.port (id - 0x200)).st)
  else none

/-! ## Platform events (R575) -/

/-- A ledger entry that the controller is told of: a throttle reason that ends, a state change of a keeper, channel or port, and three faults. -/
def tells (e : LedgerEntry) : Bool :=
  !e.mirrored && !e.continued && (e.kind == 5 || (e.kind == 3 && (e.code == 1 || e.code == 2 || e.code == 3)) || (e.kind == 1 && (e.code == fThermalTrip || e.code == fRailFault || e.code == fRailQuench)))

/-- Entries of the merged ledger that the endpoint has not gone through. -/
def State.newEntries (s : State) : List LedgerEntry := s.merged.filter fun e => e.kind != 9 && decide (tabGet 0 s.eventsFrom e.die ≤ e.seq)

/-- SERVICE or PHASE as last told, and now. -/
def State.serviceEvents (s : State) : List PlatformEvent :=
  [0, 1].filterMap fun i => match s.stateSensor i with
    | some v => if v = tabGet 0 s.stateSensors i then none else some (.state i v s.kcount)
    | none => none

/-- A threshold in quarter degrees lies between two readings. -/
def crosses (a b t : Int) : Bool := decide (a < t) != decide (b < t)

/-- The temperature sensors that cross 100 °C or 95 °C. -/
def State.crossings (s : State) (new : Tab (Option Int)) : List PlatformEvent :=
  new.filterMap fun e =>
    if !((0x100 ≤ e.1 && e.1 < 0x164) || (0x300 ≤ e.1 && e.1 < 0x330)) then none
    else match tabGet none s.sensors e.1, e.2 with
      | some a, some b => if crosses a b 400 || crosses a b 380 then some (.crossing e.1 b s.kcount) else none
      | _, _ => none

/-- The words of a platform event on the boundary. -/
def eventWords : PlatformEvent → List Word
  | .entry e => BitVec.ofNat 64 e.count :: BitVec.ofNat 64 (e.die + 2 ^ 8 * e.kind + 2 ^ 16 * e.code) :: BitVec.ofNat 64 e.seq ::
      [BitVec.ofNat 64 (ofLe (slice e.detail 0 8)), BitVec.ofNat 64 (ofLe (slice e.detail 8 8)), BitVec.ofNat 64 (ofLe (slice e.detail 16 8)),
       BitVec.ofNat 64 (ofLe (slice e.detail 24 8)), BitVec.ofNat 64 (ofLe (slice e.detail 32 8))]
  | .state i v n => [BitVec.ofNat 64 n, BitVec.ofNat 64 i, BitVec.ofNat 64 v]
  | .crossing i v n => [BitVec.ofNat 64 n, BitVec.ofNat 64 i, BitVec.ofNat 64 (ofSigned 64 v)]

/-- Events are offered in order until the controller does not accept one; up to 256 stay unsent, the oldest beyond that dropped. -/
def State.sendEvents : List PlatformEvent → State → State
  | [], s => { s with events := [] }
  | e :: t, s =>
    let r := s.takeFresh
    if Config.eventAccepted r.1 then State.sendEvents t (r.2.answer "PLDM_EVENT" 2 (eventWords e))
    else { r.2 with events := (e :: t).drop ((e :: t).length - 256) }

/-- SENSOR_REFRESH. -/
def sensorRefresh (dieTemps : List Int) (diePower : List Nat) (modTemps lanePower : List Int) (s : State) : State :=
  if s.holder.isNone then s
  else
    let new := s.readSensors dieTemps diePower modTemps lanePower
    let es := s.newEntries
    let l := s.events ++ (es.filter tells).map .entry ++ s.serviceEvents ++ s.crossings new
    let s : State := { s with
      sensors := new, stateSensors := [(0, serviceCode s.service), (1, s.phase)]
      eventsFrom := es.foldl (fun t e => tabSet t e.die (max (tabGet 0 t e.die) (e.seq + 1))) s.eventsFrom }
    s.sendEvents l

def execSensorRefresh (dieTemps : List Int) (diePower : List Nat) (modTemps lanePower : List Int) (s : State) : Out :=
  need (decide (dieTemps.length = 100) && decide (diePower.length = 100) && decide (modTemps.length = 48) && decide (lanePower.length = 8))
    (sensorRefresh dieTemps diePower modTemps lanePower s)

/-! ## Requests (R573) -/

/-- MCTP_REQUEST: no answer while no keeper is active. -/
def mctpRequest (r : MctpReq) (s : State) : State :=
  if s.holder.isNone then s
  else match r with
    | .control => s.answer "MCTP_CONTROL" 2 []
    | .numericSensor id => if s.sensors.any fun e => e.1 == id then
        (match tabGet none s.sensors id with
          | some v => s.answer "PLDM_SENSOR" 2 [BitVec.ofNat 64 (ofSigned 64 v)]
          | none => s.answer "PLDM_UNAVAILABLE" 2 [])
      else s.answer "PLDM_ERROR" 2 []
    | .stateSensor id => match s.stateSensor id with
      | some v => s.answer "PLDM_STATE" 2 [BitVec.ofNat 64 v]
      | none => s.answer "PLDM_ERROR" 2 []
    | .unsupported => s.answer "PLDM_ERROR" 2 []

def execMctpRequest (req : MctpReq) (s : State) : Out := need true (mctpRequest req s)

end Sys2Proof.Machine
end

