-- ==== Sys2Proof/Machine/Dispatch.lean ====
section
/-! DEFINITION. The dispatcher: one arm per command, each a direct call of its meaning. -/

namespace Sys2Proof.Machine

open Sys2Proof

def exec (i : Instr) (s : State) : Host.Outcome State Fault Refusal :=
  match i with
  | .edgesValid => Sys2Proof.Machine.execEdgesValid s
  | .dieResetRelease => Sys2Proof.Machine.execDieResetRelease s
  | .edgeUndervoltage edge => Sys2Proof.Machine.execEdgeUndervoltage edge s
  | .pkgResetAssert => Sys2Proof.Machine.execPkgResetAssert s
  | .pkgResetRelease => Sys2Proof.Machine.execPkgResetRelease s
  | .perstAssert port => Sys2Proof.Machine.execPerstAssert port s
  | .perstRelease port => Sys2Proof.Machine.execPerstRelease port s
  | .keeperRom k0Ok k1Ok => Sys2Proof.Machine.execKeeperRom k0Ok k1Ok s
  | .k1TokenWait => Sys2Proof.Machine.execK1TokenWait s
  | .measuredBoot => Sys2Proof.Machine.execMeasuredBoot s
  | .inventoryLoad => Sys2Proof.Machine.execInventoryLoad s
  | .selfTest failed routers => Sys2Proof.Machine.execSelfTest failed routers s
  | .cellarBringup modules => Sys2Proof.Machine.execCellarBringup modules s
  | .hostLinkStart ok0 ok1 => Sys2Proof.Machine.execHostLinkStart ok0 ok1 s
  | .epochCheck => Sys2Proof.Machine.execEpochCheck s
  | .thermTripLatchClear => Sys2Proof.Machine.execThermTripLatchClear s
  | .rackSyncPulse die => Sys2Proof.Machine.execRackSyncPulse die s
  | .refclkLoss die => Sys2Proof.Machine.execRefclkLoss die s
  | .refclkRelock die drift => Sys2Proof.Machine.execRefclkRelock die drift s
  | .tbSlewWrite value => Sys2Proof.Machine.execTbSlewWrite value s
  | .slewComplete => Sys2Proof.Machine.execSlewComplete s
  | .epochArm die => Sys2Proof.Machine.execEpochArm die s
  | .tbCountLowRead die requester => Sys2Proof.Machine.execTbCountLowRead die requester s
  | .pwOpCtrlWrite die value => Sys2Proof.Machine.execPwOpCtrlWrite die value s
  | .opChangeComplete die => Sys2Proof.Machine.execOpChangeComplete die s
  | .slotBoundary core unit bundle => Sys2Proof.Machine.execSlotBoundary core unit bundle s
  | .gridStart die => Sys2Proof.Machine.execGridStart die s
  | .scoreFetch core => Sys2Proof.Machine.execScoreFetch core s
  | .bundleIssue core => Sys2Proof.Machine.execBundleIssue core s
  | .add core upset => Sys2Proof.Machine.execAdd core upset s
  | .sub core upset => Sys2Proof.Machine.execSub core upset s
  | .mul core upset => Sys2Proof.Machine.execMul core upset s
  | .andOp core => Sys2Proof.Machine.execAndOp core s
  | .orOp core => Sys2Proof.Machine.execOrOp core s
  | .xor core => Sys2Proof.Machine.execXor core s
  | .shl core => Sys2Proof.Machine.execShl core s
  | .shr core => Sys2Proof.Machine.execShr core s
  | .sltu core upset => Sys2Proof.Machine.execSltu core upset s
  | .addi core upset => Sys2Proof.Machine.execAddi core upset s
  | .ori core => Sys2Proof.Machine.execOri core s
  | .shli core => Sys2Proof.Machine.execShli core s
  | .shri core => Sys2Proof.Machine.execShri core s
  | .ld core upset => Sys2Proof.Machine.execLd core upset s
  | .st core upset => Sys2Proof.Machine.execSt core upset s
  | .bz core => Sys2Proof.Machine.execBz core s
  | .bnz core => Sys2Proof.Machine.execBnz core s
  | .dbnz core upset => Sys2Proof.Machine.execDbnz core upset s
  | .rdtb core => Sys2Proof.Machine.execRdtb core s
  | .rdid core => Sys2Proof.Machine.execRdid core s
  | .halt core => Sys2Proof.Machine.execHalt core s
  | .operationComplete core unit => Sys2Proof.Machine.execOperationComplete core unit s
  | .corePartEnd core => Sys2Proof.Machine.execCorePartEnd core s
  | .shape core eng => Sys2Proof.Machine.execShape core eng s
  | .tileOs core eng follows upset => Sys2Proof.Machine.execTileOs core eng follows upset s
  | .tileWs core eng upset => Sys2Proof.Machine.execTileWs core eng upset s
  | .loadShadow core eng upset => Sys2Proof.Machine.execLoadShadow core eng upset s
  | .codedStreamResume core eng upset => Sys2Proof.Machine.execCodedStreamResume core eng upset s
  | .swap core eng => Sys2Proof.Machine.execSwap core eng s
  | .drain core eng upset => Sys2Proof.Machine.execDrain core eng upset s
  | .ew core eng upset => Sys2Proof.Machine.execEw core eng upset s
  | .copy core => Sys2Proof.Machine.execCopy core s
  | .fill core => Sys2Proof.Machine.execFill core s
  | .skewW core => Sys2Proof.Machine.execSkewW core s
  | .skewN core => Sys2Proof.Machine.execSkewN core s
  | .layoutWs core => Sys2Proof.Machine.execLayoutWs core s
  | .wait core => Sys2Proof.Machine.execWait core s
  | .waitdec core => Sys2Proof.Machine.execWaitdec core s
  | .inc core => Sys2Proof.Machine.execInc core s
  | .dec core => Sys2Proof.Machine.execDec core s
  | .hsig core => Sys2Proof.Machine.execHsig core s
  | .tallyMessageArrive places => Sys2Proof.Machine.execTallyMessageArrive places s
  | .waitSatisfactionArrive core => Sys2Proof.Machine.execWaitSatisfactionArrive core s
  | .waitRegisterRetry core => Sys2Proof.Machine.execWaitRegisterRetry core s
  | .exp core upset => Sys2Proof.Machine.execExp core upset s
  | .rcp core upset => Sys2Proof.Machine.execRcp core upset s
  | .rsqrt core upset => Sys2Proof.Machine.execRsqrt core upset s
  | .gelu core upset => Sys2Proof.Machine.execGelu core upset s
  | .silu core upset => Sys2Proof.Machine.execSilu core upset s
  | .cvt core upset => Sys2Proof.Machine.execCvt core upset s
  | .drop core upset => Sys2Proof.Machine.execDrop core upset s
  | .sample core upset => Sys2Proof.Machine.execSample core upset s
  | .scrub die store badRow => Sys2Proof.Machine.execScrub die store badRow s
  | .scrubEnd die store => Sys2Proof.Machine.execScrubEnd die store s
  | .payloadReadStart wsid entry => Sys2Proof.Machine.execPayloadReadStart wsid entry s
  | .crateInject wsid entry => Sys2Proof.Machine.execCrateInject wsid entry s
  | .crateArrive crate stop upset => Sys2Proof.Machine.execCrateArrive crate stop upset s
  | .crateFull die slot => Sys2Proof.Machine.execCrateFull die slot s
  | .carrySend die slot => Sys2Proof.Machine.execCarrySend die slot s
  | .updateApply crate upset => Sys2Proof.Machine.execUpdateApply crate upset s
  | .setRetire wsid => Sys2Proof.Machine.execSetRetire wsid s
  | .tableLoadDeliver ctx => Sys2Proof.Machine.execTableLoadDeliver ctx s
  | .cellarRead acc addr len => Sys2Proof.Machine.execCellarRead acc addr len s
  | .cellarWrite acc addr data => Sys2Proof.Machine.execCellarWrite acc addr data s
  | .patrolScrub ch frame raced => Sys2Proof.Machine.execPatrolScrub ch frame raced s
  | .frameMigrate die frame => Sys2Proof.Machine.execFrameMigrate die frame s
  | .channelDrained ch => Sys2Proof.Machine.execChannelDrained ch s
  | .channelFail ch => Sys2Proof.Machine.execChannelFail ch s
  | .spdTempPoll ch temp => Sys2Proof.Machine.execSpdTempPoll ch temp s
  | .caParityAlert ch retries recovered => Sys2Proof.Machine.execCaParityAlert ch retries recovered s
  | .writeCrcAlert ch retries recovered => Sys2Proof.Machine.execWriteCrcAlert ch retries recovered s
  | .mrcdViolation ch => Sys2Proof.Machine.execMrcdViolation ch s
  | .clCfgWrite value => Sys2Proof.Machine.execClCfgWrite value s
  | .larderRead acc addr len corrections => Sys2Proof.Machine.execLarderRead acc addr len corrections s
  | .tagErase die => Sys2Proof.Machine.execTagErase die s
  | .stocktakeRun => Sys2Proof.Machine.execStocktakeRun s
  | .stocktakeForward job pkg ctx stalled => Sys2Proof.Machine.execStocktakeForward job pkg ctx stalled s
  | .launchBind ctx => Sys2Proof.Machine.execLaunchBind ctx s
  | .launchComplete ctx => Sys2Proof.Machine.execLaunchComplete ctx s
  | .ready msg => Sys2Proof.Machine.execReady msg s
  | .arm job l => Sys2Proof.Machine.execArm job l s
  | .armed msg => Sys2Proof.Machine.execArmed msg s
  | .go job => Sys2Proof.Machine.execGo job s
  | .abort job => Sys2Proof.Machine.execAbort job s
  | .readyCollectTimeout job => Sys2Proof.Machine.execReadyCollectTimeout job s
  | .armedDeadline job => Sys2Proof.Machine.execArmedDeadline job s
  | .armDisarmDeadline job => Sys2Proof.Machine.execArmDisarmDeadline job s
  | .readyAnswerTimeout job => Sys2Proof.Machine.execReadyAnswerTimeout job s
  | .stretchRequest req => Sys2Proof.Machine.execStretchRequest req s
  | .stretchAnswer die ans => Sys2Proof.Machine.execStretchAnswer die ans s
  | .stretchAck job pkg die seq => Sys2Proof.Machine.execStretchAck job pkg die seq s
  | .anchorApply die => Sys2Proof.Machine.execAnchorApply die s
  | .stretchAnswerTimeout die => Sys2Proof.Machine.execStretchAnswerTimeout die s
  | .stretchAckDeadline job => Sys2Proof.Machine.execStretchAckDeadline job s
  | .configRequest port offset write => Sys2Proof.Machine.execConfigRequest port offset write s
  | .doorbellWrite port offset size value => Sys2Proof.Machine.execDoorbellWrite port offset size value s
  | .kernelDoorbell port size value => Sys2Proof.Machine.execKernelDoorbell port size value s
  | .apertureRead port offset answered => Sys2Proof.Machine.execApertureRead port offset answered s
  | .apertureWrite port offset value => Sys2Proof.Machine.execApertureWrite port offset value s
  | .hqRoleWrite port value => Sys2Proof.Machine.execHqRoleWrite port value s
  | .hqKqEnable port value => Sys2Proof.Machine.execHqKqEnable port value s
  | .registerWrite space offset value => Sys2Proof.Machine.execRegisterWrite space offset value s
  | .pcieLinkDown port => Sys2Proof.Machine.execPcieLinkDown port s
  | .failoverTimeout port => Sys2Proof.Machine.execFailoverTimeout port s
  | .pcieLinkUp port rate width => Sys2Proof.Machine.execPcieLinkUp port rate width s
  | .functionLevelReset port => Sys2Proof.Machine.execFunctionLevelReset port s
  | .pcieTlpReceive port tlp => Sys2Proof.Machine.execPcieTlpReceive port tlp s
  | .dmaCompletion port ctx addr data => Sys2Proof.Machine.execDmaCompletion port ctx addr data s
  | .dmaTimeout port ctx addr => Sys2Proof.Machine.execDmaTimeout port ctx addr s
  | .ideIntegrityFail port stream => Sys2Proof.Machine.execIdeIntegrityFail port stream s
  | .statusBlockRewrite => Sys2Proof.Machine.execStatusBlockRewrite s
  | .descriptorFetch q => Sys2Proof.Machine.execDescriptorFetch q s
  | .batchWindowExpire q => Sys2Proof.Machine.execBatchWindowExpire q s
  | .atsInvalidation port pasid addr len => Sys2Proof.Machine.execAtsInvalidation port pasid addr len s
  | .commandComplete q => Sys2Proof.Machine.execCommandComplete q s
  | .nop q => Sys2Proof.Machine.execNop q s
  | .launch q => Sys2Proof.Machine.execLaunch q s
  | .recordEvent q => Sys2Proof.Machine.execRecordEvent q s
  | .waitEvent q => Sys2Proof.Machine.execWaitEvent q s
  | .copyCmd q => Sys2Proof.Machine.execCopyCmd q s
  | .fillCmd q => Sys2Proof.Machine.execFillCmd q s
  | .survey q => Sys2Proof.Machine.execSurvey q s
  | .tableLoad q => Sys2Proof.Machine.execTableLoad q s
  | .hint q => Sys2Proof.Machine.execHint q s
  | .signalTally q => Sys2Proof.Machine.execSignalTally q s
  | .fence q => Sys2Proof.Machine.execFence q s
  | .setWeights q => Sys2Proof.Machine.execSetWeights q s
  | .createContext q => Sys2Proof.Machine.execCreateContext q s
  | .destroyContext q => Sys2Proof.Machine.execDestroyContext q s
  | .createQueue q => Sys2Proof.Machine.execCreateQueue q s
  | .pathSetup q => Sys2Proof.Machine.execPathSetup q s
  | .pathTeardown q => Sys2Proof.Machine.execPathTeardown q s
  | .keyInstall q => Sys2Proof.Machine.execKeyInstall q s
  | .tallyForce q => Sys2Proof.Machine.execTallyForce q s
  | .recover q => Sys2Proof.Machine.execRecover q s
  | .inventoryRead q => Sys2Proof.Machine.execInventoryRead q s
  | .larderWrite q badPages => Sys2Proof.Machine.execLarderWrite q badPages s
  | .dieRetire q failedSpares answers => Sys2Proof.Machine.execDieRetire q failedSpares answers s
  | .channelDrain q => Sys2Proof.Machine.execChannelDrain q s
  | .ledgerDrain q => Sys2Proof.Machine.execLedgerDrain q s
  | .resumeQueue q => Sys2Proof.Machine.execResumeQueue q s
  | .lightGain port lanes => Sys2Proof.Machine.execLightGain port lanes s
  | .laneLock port lanes => Sys2Proof.Machine.execLaneLock port lanes s
  | .frameAlign port partner reversed => Sys2Proof.Machine.execFrameAlign port partner reversed s
  | .trainingBoundMiss port => Sys2Proof.Machine.execTrainingBoundMiss port s
  | .lightLoss port => Sys2Proof.Machine.execLightLoss port s
  | .laneGroupLoss port lanes => Sys2Proof.Machine.execLaneGroupLoss port lanes s
  | .lkEnable port bit => Sys2Proof.Machine.execLkEnable port bit s
  | .lkHold port bit => Sys2Proof.Machine.execLkHold port bit s
  | .lkRetrain port bit => Sys2Proof.Machine.execLkRetrain port bit s
  | .lkInjectArm port value => Sys2Proof.Machine.execLkInjectArm port value s
  | .idleFrame port f => Sys2Proof.Machine.execIdleFrame port f s
  | .dataFrame port f => Sys2Proof.Machine.execDataFrame port f s
  | .nakFrame port f => Sys2Proof.Machine.execNakFrame port f s
  | .replayTimeout port => Sys2Proof.Machine.execReplayTimeout port s
  | .fctrRekeyThreshold port => Sys2Proof.Machine.execFctrRekeyThreshold port s
  | .fctrLimit port => Sys2Proof.Machine.execFctrLimit port s
  | .hello port f => Sys2Proof.Machine.execHello port f s
  | .helloResend port => Sys2Proof.Machine.execHelloResend port s
  | .echo port f => Sys2Proof.Machine.execEcho port f s
  | .echoReply port f rtt => Sys2Proof.Machine.execEchoReply port f rtt s
  | .ident port f => Sys2Proof.Machine.execIdent port f s
  | .confirm port f => Sys2Proof.Machine.execConfirm port f s
  | .rekey port f => Sys2Proof.Machine.execRekey port f s
  | .rekeyAck port f => Sys2Proof.Machine.execRekeyAck port f s
  | .down port f => Sys2Proof.Machine.execDown port f s
  | .write port p => Sys2Proof.Machine.execWrite port p s
  | .readReq port p => Sys2Proof.Machine.execReadReq port p s
  | .readData port p => Sys2Proof.Machine.execReadData port p s
  | .atomic port p => Sys2Proof.Machine.execAtomic port p s
  | .signal port p => Sys2Proof.Machine.execSignal port p s
  | .ack port p => Sys2Proof.Machine.execAck port p s
  | .nack port p => Sys2Proof.Machine.execNack port p s
  | .ackTimer flow => Sys2Proof.Machine.execAckTimer flow s
  | .psnResendTimeout flow => Sys2Proof.Machine.execPsnResendTimeout flow s
  | .routeFail port p => Sys2Proof.Machine.execRouteFail port p s
  | .setup port p => Sys2Proof.Machine.execSetup port p s
  | .setupAns port p => Sys2Proof.Machine.execSetupAns port p s
  | .groupWrite port p => Sys2Proof.Machine.execGroupWrite port p s
  | .groupAck port p => Sys2Proof.Machine.execGroupAck port p s
  | .pruneTimer ctx group => Sys2Proof.Machine.execPruneTimer ctx group s
  | .mcastPruneForward job rootPkg group firstMissing => Sys2Proof.Machine.execMcastPruneForward job rootPkg group firstMissing s
  | .timeExchangeStart => Sys2Proof.Machine.execTimeExchangeStart s
  | .syncReq port m t2 => Sys2Proof.Machine.execSyncReq port m t2 s
  | .syncResp port m t4 => Sys2Proof.Machine.execSyncResp port m t4 s
  | .timeExchangeTimeout => Sys2Proof.Machine.execTimeExchangeTimeout s
  | .alignmentTimeout => Sys2Proof.Machine.execAlignmentTimeout s
  | .currentSample die rail amps1 amps10 => Sys2Proof.Machine.execCurrentSample die rail amps1 amps10 s
  | .packagePowerSample watts edge0 edge1 avg1ms => Sys2Proof.Machine.execPackagePowerSample watts edge0 edge1 avg1ms s
  | .tempSample die readings => Sys2Proof.Machine.execTempSample die readings s
  | .droopDetect die => Sys2Proof.Machine.execDroopDetect die s
  | .allocationPass power => Sys2Proof.Machine.execAllocationPass power s
  | .poolReportTimer => Sys2Proof.Machine.execPoolReportTimer s
  | .poolReport job pkg unmet critUnmet unused => Sys2Proof.Machine.execPoolReport job pkg unmet critUnmet unused s
  | .faultRecordDeliver die => Sys2Proof.Machine.execFaultRecordDeliver die s
  | .faultRecordAck die => Sys2Proof.Machine.execFaultRecordAck die s
  | .faultRecordTimeout die => Sys2Proof.Machine.execFaultRecordTimeout die s
  | .jobFault job code pkg count => Sys2Proof.Machine.execJobFault job code pkg count s
  | .faultQuench ctx => Sys2Proof.Machine.execFaultQuench ctx s
  | .keeperHeartbeat => Sys2Proof.Machine.execKeeperHeartbeat s
  | .heartbeatTimeout watched => Sys2Proof.Machine.execHeartbeatTimeout watched s
  | .keeperFailureMessage k => Sys2Proof.Machine.execKeeperFailureMessage k s
  | .keeperWatchdogExpire k => Sys2Proof.Machine.execKeeperWatchdogExpire k s
  | .keeperTokenCas k expected => Sys2Proof.Machine.execKeeperTokenCas k expected s
  | .epochNotice die epoch => Sys2Proof.Machine.execEpochNotice die epoch s
  | .journalRecord holder seq => Sys2Proof.Machine.execJournalRecord holder seq s
  | .keeperTakeover => Sys2Proof.Machine.execKeeperTakeover s
  | .keeperBootComplete k good => Sys2Proof.Machine.execKeeperBootComplete k good s
  | .kpHatchQuench host value => Sys2Proof.Machine.execKpHatchQuench host value s
  | .kpHatchQuenchAll host value => Sys2Proof.Machine.execKpHatchQuenchAll host value s
  | .kpHatchKeeperReset host value => Sys2Proof.Machine.execKpHatchKeeperReset host value s
  | .kpHatchTallyForce host value => Sys2Proof.Machine.execKpHatchTallyForce host value s
  | .dgTallyForceSet value => Sys2Proof.Machine.execDgTallyForceSet value s
  | .dgTallyForceAbort value => Sys2Proof.Machine.execDgTallyForceAbort value s
  | .diePollTimeout die => Sys2Proof.Machine.execDiePollTimeout die s
  | .ringMarkerSend stop ccw => Sys2Proof.Machine.execRingMarkerSend stop ccw s
  | .ringMarkerTimeout stop ccw => Sys2Proof.Machine.execRingMarkerTimeout stop ccw s
  | .bypassSelfCheck stop good => Sys2Proof.Machine.execBypassSelfCheck stop good s
  | .spdmRequest transport req => Sys2Proof.Machine.execSpdmRequest transport req s
  | .pldmFwUpdate kind image => Sys2Proof.Machine.execPldmFwUpdate kind image s
  | .lockInterfaceRequest port ctx stream => Sys2Proof.Machine.execLockInterfaceRequest port ctx stream s
  | .fwFloorTimer kind => Sys2Proof.Machine.execFwFloorTimer kind s
  | .ledgerMerge => Sys2Proof.Machine.execLedgerMerge s
  | .sensorRefresh dieTemps diePower modTemps lanePower => Sys2Proof.Machine.execSensorRefresh dieTemps diePower modTemps lanePower s
  | .mctpRequest req => Sys2Proof.Machine.execMctpRequest req s
  | .channelReturned ch shown => Sys2Proof.Machine.execChannelReturned ch shown s
  | .pathSetupTimeout q => Sys2Proof.Machine.execPathSetupTimeout q s
  | .handoverWaitTimeout q => Sys2Proof.Machine.execHandoverWaitTimeout q s
  | .holdReplayTimeout port => Sys2Proof.Machine.execHoldReplayTimeout port s
  | .identSigned port => Sys2Proof.Machine.execIdentSigned port s

end Sys2Proof.Machine
end

