-- ==== Sys2Proof/Machine/Tick.lean ====
section
/-! DEFINITION. What happens of itself in one count of the time base, while no command waits (DESIGN CHOICE, log entry 1). -/

namespace Sys2Proof.Machine

/-- The issue unit of a core spins on a wait (R300). -/
def spins (w : IssueWait) : Bool := w == .sent || w == .registered || w == .satisfied || w == .retry

/-- The steps that spinning issue units pass in one count, at the guaranteed rate of their dies' points (R48, R570). -/
def State.spin (s : State) : State :=
  each (tabKeys s.cores fun _ x => spins x.wait) s fun s c => s.perfUnits (c / 4) (16 + c % 4) 10 (rate10 (s.die (c / 4)).curOp)

/-- One count: the time bases advance, issue units spin, a draining channel moves its next frame (R278), and every port in UP sends a frame of the packets
waiting. Before die reset is released nothing runs. -/
def idle (s : State) : State :=
  if s.phase = 1 then s
  else each (List.range 8) (each (List.range 48) (tick s).spin fun s ch => drainStep ch s) State.transmit

end Sys2Proof.Machine
end

