-- ==== Sys2Proof/Laws/Tables.lean ====
section
/-! SUPPORT. Laws of the sparse tables, of folds over parts, and of memory: a read after a write, and the canonical form. -/

namespace Sys2Proof.Machine

variable {α β : Type}

/-! ## Sparse tables -/

theorem tabGet_tabSet_same (d : α) (t : Tab α) (i : Nat) (v : α) : tabGet d (tabSet t i v) i = v := by
  induction t with
  | nil => simp [tabSet, tabGet]
  | cons e t ih =>
    obtain ⟨k, x⟩ := e
    unfold tabSet
    split
    · simp [tabGet]
    · split
      · simp [tabGet]
      · simp only [tabGet]; rw [if_neg (by omega)]; exact ih

theorem tabGet_tabSet_ne (d : α) (t : Tab α) (v : α) {i j : Nat} (h : j ≠ i) : tabGet d (tabSet t i v) j = tabGet d t j := by
  induction t with
  | nil => simp only [tabSet, tabGet]; rw [if_neg (by omega)]
  | cons e t ih =>
    obtain ⟨k, x⟩ := e
    unfold tabSet
    split
    · simp only [tabGet]; rw [if_neg (by omega)]
    · split
      · simp only [tabGet]; rw [if_neg (by omega), if_neg (by omega)]
      · simp only [tabGet]; split
        · rfl
        · exact ih

/-- Reading a table after a write of one key. -/
theorem tabGet_tabSet (d : α) (t : Tab α) (i j : Nat) (v : α) : tabGet d (tabSet t i v) j = if j = i then v else tabGet d t j := by
  split
  · subst j; exact tabGet_tabSet_same d t i v
  · exact tabGet_tabSet_ne d t v ‹_›

/-- A second write of a key replaces the first. -/
theorem tabSet_tabSet (t : Tab α) (i : Nat) (v w : α) : tabSet (tabSet t i v) i w = tabSet t i w := by
  induction t with
  | nil => simp [tabSet]
  | cons e t ih =>
    obtain ⟨k, x⟩ := e
    by_cases h : i < k
    · simp [tabSet, h]
    · by_cases h2 : i = k
      · simp [tabSet, h2]
      · simp [tabSet, h, h2, ih]

/-- A key stands in `tabKeys` exactly when the value that a read of it gives satisfies the test, for a test that the default value fails. -/
theorem mem_tabKeys (d : α) (p : Nat → α → Bool) (k : Nat) (hd : p k d = false) (t : Tab α) : k ∈ tabKeys t p ↔ p k (tabGet d t k) = true := by
  induction t with
  | nil => simp [tabKeys, tabGet, hd]
  | cons e t ih =>
    obtain ⟨j, x⟩ := e
    simp only [tabKeys, tabGet, List.mem_append, List.mem_filter]
    by_cases h : j = k
    · subst h
      cases hp : p j x <;> simp [hp]
    · have h2 : k ≠ j := fun e => h e.symm
      rw [if_neg h, ih]
      cases hp : p j x <;> simp [h2]

/-- `tabKeys` lists each key once. -/
theorem tabKeys_nodup (t : Tab α) (p : Nat → α → Bool) : (tabKeys t p).Nodup := by
  induction t with
  | nil => exact List.nodup_nil
  | cons e t ih =>
    obtain ⟨j, x⟩ := e
    simp only [tabKeys]
    refine List.nodup_append.2 ⟨by split <;> simp, ih.filter _, ?_⟩
    intro a ha b hb e
    subst e
    split at ha <;> simp_all

/-! ## Folds over parts -/

@[simp] theorem each_nil (s : State) (f : State → α → State) : each [] s f = s := rfl
@[simp] theorem each_cons (a : α) (l : List α) (s : State) (f : State → α → State) : each (a :: l) s f = each l (f s a) f := rfl

/-- What every update of a fold keeps, the fold keeps. -/
theorem each_keeps (P : State → Prop) (f : State → α → State) (hf : ∀ s a, P s → P (f s a)) : ∀ (l : List α) (s : State), P s → P (each l s f)
  | [], _, h => h
  | a :: l, s, h => each_keeps P f hf l (f s a) (hf s a h)

/-- A field that every update of a fold leaves, the fold leaves. -/
theorem each_same (g : State → β) (f : State → α → State) (hf : ∀ s a, g (f s a) = g s) : ∀ (l : List α) (s : State), g (each l s f) = g s
  | [], _ => rfl
  | a :: l, s => (each_same g f hf l (f s a)).trans (hf s a)

/-- One update for each die of a list: those named are updated, every other stays. -/
theorem each_modDie (f : Die → Die) (l : List Nat) (hl : l.Nodup) (s : State) (e : Nat) :
    (each l s fun s d => s.modDie d f).die e = if e ∈ l then f (s.die e) else s.die e := by
  induction l generalizing s with
  | nil => simp
  | cons d l ih =>
    rw [List.nodup_cons] at hl
    rw [each_cons, ih hl.2]
    by_cases h : e = d
    · subst h
      rw [if_neg hl.1, if_pos (by simp)]
      exact tabGet_tabSet_same _ _ _ _
    · have hd : (s.modDie d f).die e = s.die e := tabGet_tabSet_ne _ _ _ h
      rw [hd]
      by_cases he : e ∈ l
      · rw [if_pos he, if_pos (by simp [he])]
      · rw [if_neg he, if_neg (by simp [h, he])]

/-! ## Memory -/

/-- No address of the memory lies below `a`. -/
def Memory.above (a : Nat) (m : Memory) : Prop := ∀ e ∈ m, a < e.1

theorem Memory.wf_cons {k : Nat} {v : Byte} {t : Memory} : Memory.wf ((k, v) :: t) = true ↔ v ≠ 0 ∧ Memory.above k t ∧ Memory.wf t = true := by
  induction t generalizing k v with
  | nil => simp [Memory.wf, Memory.above]
  | cons e t ih =>
    obtain ⟨j, w⟩ := e
    have hw : Memory.wf ((k, v) :: (j, w) :: t) = (v != 0 && decide (k < j) && Memory.wf ((j, w) :: t)) := rfl
    rw [hw, Bool.and_eq_true, Bool.and_eq_true, bne_iff_ne, decide_eq_true_eq]
    constructor
    · rintro ⟨⟨h1, h2⟩, h3⟩
      refine ⟨h1, fun e he => ?_, h3⟩
      rcases List.mem_cons.1 he with he | he
      · subst he; exact h2
      · exact Nat.lt_trans h2 ((ih.1 h3).2.1 e he)
    · rintro ⟨h1, h2, h3⟩
      exact ⟨⟨h1, h2 (j, w) (by simp)⟩, h3⟩

theorem Memory.wf_filter (p : Host.Cell → Bool) (m : Memory) (h : m.wf = true) : Memory.wf (m.filter p) = true := by
  induction m with
  | nil => exact h
  | cons e t ih =>
    obtain ⟨k, v⟩ := e
    rw [Memory.wf_cons] at h
    rw [List.filter_cons]
    split
    · rw [Memory.wf_cons]
      exact ⟨h.1, fun e he => h.2.1 e (List.mem_filter.1 he).1, ih h.2.2⟩
    · exact ih h.2.2

theorem Memory.mem_writeByte {m : Memory} {a : Nat} {b : Byte} {e : Host.Cell} (h : e ∈ writeByte m a b) : e = (a, b) ∨ e ∈ m := by
  induction m with
  | nil =>
    unfold writeByte at h
    split at h
    · exact absurd h (by simp)
    · exact .inl (by simpa using h)
  | cons x t ih =>
    obtain ⟨k, v⟩ := x
    unfold writeByte at h
    split at h
    · split at h
      · exact .inr h
      · rcases List.mem_cons.1 h with h | h
        · exact .inl h
        · exact .inr h
    · split at h
      · split at h
        · exact .inr (List.mem_cons_of_mem _ h)
        · rcases List.mem_cons.1 h with h | h
          · exact .inl h
          · exact .inr (List.mem_cons_of_mem _ h)
      · rcases List.mem_cons.1 h with h | h
        · exact .inr (by simp [h])
        · rcases ih h with h | h
          · exact .inl h
          · exact .inr (List.mem_cons_of_mem _ h)

theorem Memory.wf_writeByte (m : Memory) (a : Nat) (b : Byte) (h : m.wf = true) : Memory.wf (writeByte m a b) = true := by
  induction m with
  | nil =>
    unfold writeByte
    split
    · rfl
    · rw [Memory.wf_cons]; exact ⟨‹_›, by simp [Memory.above], rfl⟩
  | cons x t ih =>
    obtain ⟨k, v⟩ := x
    have h' := Memory.wf_cons.1 h
    unfold writeByte
    split
    · split
      · exact h
      · rw [Memory.wf_cons]
        refine ⟨‹_›, fun e he => ?_, h⟩
        rcases List.mem_cons.1 he with he | he
        · subst he; assumption
        · exact Nat.lt_trans ‹a < k› (h'.2.1 e he)
    · split
      · split
        · exact h'.2.2
        · rw [Memory.wf_cons]
          exact ⟨‹_›, by subst a; exact h'.2.1, h'.2.2⟩
      · rw [Memory.wf_cons]
        refine ⟨h'.1, fun e he => ?_, ih h'.2.2⟩
        rcases Memory.mem_writeByte he with he | he
        · subst he; show k < a; omega
        · exact h'.2.1 e he

theorem Memory.wf_writeBytes (l : List Byte) : ∀ (m : Memory) (a : Nat), m.wf = true → Memory.wf (writeBytes m a l) = true := by
  induction l with
  | nil => intro m a h; exact h
  | cons b l ih => intro m a h; exact ih _ _ (Memory.wf_writeByte m a b h)

theorem Memory.wf_zeroBytes (m : Memory) (a n : Nat) (h : m.wf = true) : Memory.wf (zeroBytes m a n) = true := Memory.wf_filter _ m h

theorem readByte_absent {m : Memory} {a : Nat} (h : Memory.above a m) : readByte m a = 0 := by
  induction m with
  | nil => rfl
  | cons e t ih =>
    obtain ⟨k, v⟩ := e
    have hk : a < k := h (k, v) (by simp)
    unfold readByte
    rw [if_neg (by omega)]
    exact ih fun e he => h e (by simp [he])

theorem readByte_writeByte_ne (m : Memory) (b : Byte) {a j : Nat} (h : j ≠ a) : readByte (writeByte m a b) j = readByte m j := by
  induction m with
  | nil =>
    unfold writeByte
    split
    · rfl
    · simp only [readByte]; rw [if_neg (by omega)]
  | cons e t ih =>
    obtain ⟨k, v⟩ := e
    unfold writeByte
    split
    · split
      · rfl
      · simp only [readByte]; rw [if_neg (by omega)]
    · split
      · subst a
        split
        · simp only [readByte]; rw [if_neg (by omega)]
        · simp only [readByte]; rw [if_neg (by omega), if_neg (by omega)]
      · simp only [readByte]; rw [ih]

/-- A read of the byte written gives the byte written. -/
theorem readByte_writeByte_same (m : Memory) (a : Nat) (b : Byte) (h : m.wf = true) : readByte (writeByte m a b) a = b := by
  induction m with
  | nil =>
    unfold writeByte
    split
    · subst b; rfl
    · simp [readByte]
  | cons e t ih =>
    obtain ⟨k, v⟩ := e
    have h' := Memory.wf_cons.1 h
    unfold writeByte
    split
    · split
      · subst b
        exact readByte_absent fun e he => by
          rcases List.mem_cons.1 he with he | he
          · subst he; assumption
          · exact Nat.lt_trans ‹a < k› (h'.2.1 e he)
      · simp [readByte]
    · split
      · subst a
        split
        · subst b; exact readByte_absent h'.2.1
        · simp [readByte]
      · simp only [readByte]; rw [if_neg (by omega)]; exact ih h'.2.2

/-- Bytes written leave every byte outside them. -/
theorem readByte_writeBytes_out (l : List Byte) : ∀ (m : Memory) (a : Nat) {j : Nat}, j < a ∨ a + l.length ≤ j → readByte (writeBytes m a l) j = readByte m j := by
  induction l with
  | nil => intro m a j _; rfl
  | cons b l ih =>
    intro m a j h
    have h2 : j < a + 1 ∨ a + 1 + l.length ≤ j := by simp only [List.length_cons] at h; omega
    rw [writeBytes, ih _ _ h2]
    exact readByte_writeByte_ne m b (by simp only [List.length_cons] at h; omega)

/-- Bytes written are read back. -/
theorem readByte_writeBytes_in (l : List Byte) : ∀ (m : Memory) (a i : Nat) (hi : i < l.length), m.wf = true →
    readByte (writeBytes m a l) (a + i) = l[i] := by
  induction l with
  | nil => intro m a i hi; simp at hi
  | cons b l ih =>
    intro m a i hi h
    rw [writeBytes]
    cases i with
    | zero =>
      rw [readByte_writeBytes_out l _ _ (.inl (by omega))]
      exact readByte_writeByte_same m a b h
    | succ i =>
      have := ih (writeByte m a b) (a + 1) i (by simpa using hi) (Memory.wf_writeByte m a b h)
      rw [show a + (i + 1) = a + 1 + i by omega, this]
      rfl

/-- The whole of what is written is read back. -/
theorem readBytes_writeBytes (l : List Byte) (m : Memory) (a : Nat) (h : m.wf = true) : readBytes (writeBytes m a l) a l.length = l := by
  apply List.ext_getElem (by simp [readBytes])
  intro i _ hi
  simp only [readBytes, List.getElem_map, List.getElem_range]
  exact readByte_writeBytes_in l m a i hi h

end Sys2Proof.Machine
end

