-- ==== Sys2Proof/Laws/State.lean ====
section
/-! SUPPORT. One lemma per field and update of the state, each true by unfolding, so that no proof unfolds a record update; and the reads of a part
after an update of that part. -/

namespace Sys2Proof.Machine

/-! ## `State.setDie` changes `dies` only -/

@[simp] theorem State.setDie_pending (s : State) (d : Nat) (x : Die) : (s.setDie d x).pending = s.pending := rfl
@[simp] theorem State.setDie_now (s : State) (d : Nat) (x : Die) : (s.setDie d x).now = s.now := rfl
@[simp] theorem State.setDie_fresh (s : State) (d : Nat) (x : Die) : (s.setDie d x).fresh = s.fresh := rfl
@[simp] theorem State.setDie_pins (s : State) (d : Nat) (x : Die) : (s.setDie d x).pins = s.pins := rfl
@[simp] theorem State.setDie_service (s : State) (d : Nat) (x : Die) : (s.setDie d x).service = s.service := rfl
@[simp] theorem State.setDie_phase (s : State) (d : Nat) (x : Die) : (s.setDie d x).phase = s.phase := rfl
@[simp] theorem State.setDie_halted (s : State) (d : Nat) (x : Die) : (s.setDie d x).halted = s.halted := rfl
@[simp] theorem State.setDie_epochBad (s : State) (d : Nat) (x : Die) : (s.setDie d x).epochBad = s.epochBad := rfl
@[simp] theorem State.setDie_broken (s : State) (d : Nat) (x : Die) : (s.setDie d x).broken = s.broken := rfl
@[simp] theorem State.setDie_admitted (s : State) (d : Nat) (x : Die) : (s.setDie d x).admitted = s.admitted := rfl
@[simp] theorem State.setDie_mem (s : State) (d : Nat) (x : Die) : (s.setDie d x).mem = s.mem := rfl
@[simp] theorem State.setDie_hostMem (s : State) (d : Nat) (x : Die) : (s.setDie d x).hostMem = s.hostMem := rfl
@[simp] theorem State.setDie_marks (s : State) (d : Nat) (x : Die) : (s.setDie d x).marks = s.marks := rfl
@[simp] theorem State.setDie_pageErrs (s : State) (d : Nat) (x : Die) : (s.setDie d x).pageErrs = s.pageErrs := rfl
@[simp] theorem State.setDie_cores (s : State) (d : Nat) (x : Die) : (s.setDie d x).cores = s.cores := rfl
@[simp] theorem State.setDie_channels (s : State) (d : Nat) (x : Die) : (s.setDie d x).channels = s.channels := rfl
@[simp] theorem State.setDie_frames (s : State) (d : Nat) (x : Die) : (s.setDie d x).frames = s.frames := rfl
@[simp] theorem State.setDie_owners (s : State) (d : Nat) (x : Die) : (s.setDie d x).owners = s.owners := rfl
@[simp] theorem State.setDie_written (s : State) (d : Nat) (x : Die) : (s.setDie d x).written = s.written := rfl
@[simp] theorem State.setDie_scrubHours (s : State) (d : Nat) (x : Die) : (s.setDie d x).scrubHours = s.scrubHours := rfl
@[simp] theorem State.setDie_spareFrames (s : State) (d : Nat) (x : Die) : (s.setDie d x).spareFrames = s.spareFrames := rfl
@[simp] theorem State.setDie_contexts (s : State) (d : Nat) (x : Die) : (s.setDie d x).contexts = s.contexts := rfl
@[simp] theorem State.setDie_queues (s : State) (d : Nat) (x : Die) : (s.setDie d x).queues = s.queues := rfl
@[simp] theorem State.setDie_serial (s : State) (d : Nat) (x : Die) : (s.setDie d x).serial = s.serial := rfl
@[simp] theorem State.setDie_sets (s : State) (d : Nat) (x : Die) : (s.setDie d x).sets = s.sets := rfl
@[simp] theorem State.setDie_crates (s : State) (d : Nat) (x : Die) : (s.setDie d x).crates = s.crates := rfl
@[simp] theorem State.setDie_crateNext (s : State) (d : Nat) (x : Die) : (s.setDie d x).crateNext = s.crateNext := rfl
@[simp] theorem State.setDie_tallyMsgs (s : State) (d : Nat) (x : Die) : (s.setDie d x).tallyMsgs = s.tallyMsgs := rfl
@[simp] theorem State.setDie_meshWait (s : State) (d : Nat) (x : Die) : (s.setDie d x).meshWait = s.meshWait := rfl
@[simp] theorem State.setDie_ports (s : State) (d : Nat) (x : Die) : (s.setDie d x).ports = s.ports := rfl
@[simp] theorem State.setDie_pkgId (s : State) (d : Nat) (x : Die) : (s.setDie d x).pkgId = s.pkgId := rfl
@[simp] theorem State.setDie_flows (s : State) (d : Nat) (x : Die) : (s.setDie d x).flows = s.flows := rfl
@[simp] theorem State.setDie_rxFlows (s : State) (d : Nat) (x : Die) : (s.setDie d x).rxFlows = s.rxFlows := rfl
@[simp] theorem State.setDie_transits (s : State) (d : Nat) (x : Die) : (s.setDie d x).transits = s.transits := rfl
@[simp] theorem State.setDie_groups (s : State) (d : Nat) (x : Die) : (s.setDie d x).groups = s.groups := rfl
@[simp] theorem State.setDie_pathJobs (s : State) (d : Nat) (x : Die) : (s.setDie d x).pathJobs = s.pathJobs := rfl
@[simp] theorem State.setDie_time (s : State) (d : Nat) (x : Die) : (s.setDie d x).time = s.time := rfl
@[simp] theorem State.setDie_keeper0 (s : State) (d : Nat) (x : Die) : (s.setDie d x).keeper0 = s.keeper0 := rfl
@[simp] theorem State.setDie_keeper1 (s : State) (d : Nat) (x : Die) : (s.setDie d x).keeper1 = s.keeper1 := rfl
@[simp] theorem State.setDie_keeperEpoch (s : State) (d : Nat) (x : Die) : (s.setDie d x).keeperEpoch = s.keeperEpoch := rfl
@[simp] theorem State.setDie_holder (s : State) (d : Nat) (x : Die) : (s.setDie d x).holder = s.holder := rfl
@[simp] theorem State.setDie_lastBeat (s : State) (d : Nat) (x : Die) : (s.setDie d x).lastBeat = s.lastBeat := rfl
@[simp] theorem State.setDie_hatch0 (s : State) (d : Nat) (x : Die) : (s.setDie d x).hatch0 = s.hatch0 := rfl
@[simp] theorem State.setDie_hatch1 (s : State) (d : Nat) (x : Die) : (s.setDie d x).hatch1 = s.hatch1 := rfl
@[simp] theorem State.setDie_journal (s : State) (d : Nat) (x : Die) : (s.setDie d x).journal = s.journal := rfl
@[simp] theorem State.setDie_journalNext (s : State) (d : Nat) (x : Die) : (s.setDie d x).journalNext = s.journalNext := rfl
@[simp] theorem State.setDie_recover (s : State) (d : Nat) (x : Die) : (s.setDie d x).recover = s.recover := rfl
@[simp] theorem State.setDie_stopping (s : State) (d : Nat) (x : Die) : (s.setDie d x).stopping = s.stopping := rfl
@[simp] theorem State.setDie_wasStopped (s : State) (d : Nat) (x : Die) : (s.setDie d x).wasStopped = s.wasStopped := rfl
@[simp] theorem State.setDie_taking (s : State) (d : Nat) (x : Die) : (s.setDie d x).taking = s.taking := rfl
@[simp] theorem State.setDie_merged (s : State) (d : Nat) (x : Die) : (s.setDie d x).merged = s.merged := rfl
@[simp] theorem State.setDie_dropped (s : State) (d : Nat) (x : Die) : (s.setDie d x).dropped = s.dropped := rfl
@[simp] theorem State.setDie_power (s : State) (d : Nat) (x : Die) : (s.setDie d x).power = s.power := rfl
@[simp] theorem State.setDie_coords (s : State) (d : Nat) (x : Die) : (s.setDie d x).coords = s.coords := rfl
@[simp] theorem State.setDie_host0 (s : State) (d : Nat) (x : Die) : (s.setDie d x).host0 = s.host0 := rfl
@[simp] theorem State.setDie_host1 (s : State) (d : Nat) (x : Die) : (s.setDie d x).host1 = s.host1 := rfl
@[simp] theorem State.setDie_primary (s : State) (d : Nat) (x : Die) : (s.setDie d x).primary = s.primary := rfl
@[simp] theorem State.setDie_dgValue (s : State) (d : Nat) (x : Die) : (s.setDie d x).dgValue = s.dgValue := rfl
@[simp] theorem State.setDie_dgMode (s : State) (d : Nat) (x : Die) : (s.setDie d x).dgMode = s.dgMode := rfl
@[simp] theorem State.setDie_dgCtx (s : State) (d : Nat) (x : Die) : (s.setDie d x).dgCtx = s.dgCtx := rfl
@[simp] theorem State.setDie_dgVid (s : State) (d : Nat) (x : Die) : (s.setDie d x).dgVid = s.dgVid := rfl
@[simp] theorem State.setDie_dgGo (s : State) (d : Nat) (x : Die) : (s.setDie d x).dgGo = s.dgGo := rfl
@[simp] theorem State.setDie_block (s : State) (d : Nat) (x : Die) : (s.setDie d x).block = s.block := rfl
@[simp] theorem State.setDie_lastFault (s : State) (d : Nat) (x : Die) : (s.setDie d x).lastFault = s.lastFault := rfl
@[simp] theorem State.setDie_lastFaultCount (s : State) (d : Nat) (x : Die) : (s.setDie d x).lastFaultCount = s.lastFaultCount := rfl
@[simp] theorem State.setDie_inv (s : State) (d : Nat) (x : Die) : (s.setDie d x).inv = s.inv := rfl
@[simp] theorem State.setDie_invL0 (s : State) (d : Nat) (x : Die) : (s.setDie d x).invL0 = s.invL0 := rfl
@[simp] theorem State.setDie_invL1 (s : State) (d : Nat) (x : Die) : (s.setDie d x).invL1 = s.invL1 := rfl
@[simp] theorem State.setDie_inventoryOk (s : State) (d : Nat) (x : Die) : (s.setDie d x).inventoryOk = s.inventoryOk := rfl
@[simp] theorem State.setDie_identityOk (s : State) (d : Nat) (x : Die) : (s.setDie d x).identityOk = s.identityOk := rfl
@[simp] theorem State.setDie_idKey (s : State) (d : Nat) (x : Die) : (s.setDie d x).idKey = s.idKey := rfl
@[simp] theorem State.setDie_packageKeys (s : State) (d : Nat) (x : Die) : (s.setDie d x).packageKeys = s.packageKeys := rfl
@[simp] theorem State.setDie_fw (s : State) (d : Nat) (x : Die) : (s.setDie d x).fw = s.fw := rfl
@[simp] theorem State.setDie_fwRunning (s : State) (d : Nat) (x : Die) : (s.setDie d x).fwRunning = s.fwRunning := rfl
@[simp] theorem State.setDie_svn0 (s : State) (d : Nat) (x : Die) : (s.setDie d x).svn0 = s.svn0 := rfl
@[simp] theorem State.setDie_svn1 (s : State) (d : Nat) (x : Die) : (s.setDie d x).svn1 = s.svn1 := rfl
@[simp] theorem State.setDie_measured (s : State) (d : Nat) (x : Die) : (s.setDie d x).measured = s.measured := rfl
@[simp] theorem State.setDie_sessions (s : State) (d : Nat) (x : Die) : (s.setDie d x).sessions = s.sessions := rfl
@[simp] theorem State.setDie_sensors (s : State) (d : Nat) (x : Die) : (s.setDie d x).sensors = s.sensors := rfl
@[simp] theorem State.setDie_stateSensors (s : State) (d : Nat) (x : Die) : (s.setDie d x).stateSensors = s.stateSensors := rfl
@[simp] theorem State.setDie_eventsFrom (s : State) (d : Nat) (x : Die) : (s.setDie d x).eventsFrom = s.eventsFrom := rfl
@[simp] theorem State.setDie_events (s : State) (d : Nat) (x : Die) : (s.setDie d x).events = s.events := rfl
@[simp] theorem State.setDie_smbusAddr (s : State) (d : Nat) (x : Die) : (s.setDie d x).smbusAddr = s.smbusAddr := rfl
@[simp] theorem State.setDie_irqs (s : State) (d : Nat) (x : Die) : (s.setDie d x).irqs = s.irqs := rfl
@[simp] theorem State.setDie_frameOut (s : State) (d : Nat) (x : Die) : (s.setDie d x).frameOut = s.frameOut := rfl
@[simp] theorem State.setDie_delivered (s : State) (d : Nat) (x : Die) : (s.setDie d x).delivered = s.delivered := rfl
@[simp] theorem State.setDie_packetOut (s : State) (d : Nat) (x : Die) : (s.setDie d x).packetOut = s.packetOut := rfl
@[simp] theorem State.setDie_sent (s : State) (d : Nat) (x : Die) : (s.setDie d x).sent = s.sent := rfl
@[simp] theorem State.setDie_answers (s : State) (d : Nat) (x : Die) : (s.setDie d x).answers = s.answers := rfl

/-! ## `State.setCore` changes `cores` only -/

@[simp] theorem State.setCore_pending (s : State) (c : Nat) (x : Core) : (s.setCore c x).pending = s.pending := rfl
@[simp] theorem State.setCore_now (s : State) (c : Nat) (x : Core) : (s.setCore c x).now = s.now := rfl
@[simp] theorem State.setCore_fresh (s : State) (c : Nat) (x : Core) : (s.setCore c x).fresh = s.fresh := rfl
@[simp] theorem State.setCore_pins (s : State) (c : Nat) (x : Core) : (s.setCore c x).pins = s.pins := rfl
@[simp] theorem State.setCore_service (s : State) (c : Nat) (x : Core) : (s.setCore c x).service = s.service := rfl
@[simp] theorem State.setCore_phase (s : State) (c : Nat) (x : Core) : (s.setCore c x).phase = s.phase := rfl
@[simp] theorem State.setCore_halted (s : State) (c : Nat) (x : Core) : (s.setCore c x).halted = s.halted := rfl
@[simp] theorem State.setCore_epochBad (s : State) (c : Nat) (x : Core) : (s.setCore c x).epochBad = s.epochBad := rfl
@[simp] theorem State.setCore_broken (s : State) (c : Nat) (x : Core) : (s.setCore c x).broken = s.broken := rfl
@[simp] theorem State.setCore_admitted (s : State) (c : Nat) (x : Core) : (s.setCore c x).admitted = s.admitted := rfl
@[simp] theorem State.setCore_mem (s : State) (c : Nat) (x : Core) : (s.setCore c x).mem = s.mem := rfl
@[simp] theorem State.setCore_hostMem (s : State) (c : Nat) (x : Core) : (s.setCore c x).hostMem = s.hostMem := rfl
@[simp] theorem State.setCore_marks (s : State) (c : Nat) (x : Core) : (s.setCore c x).marks = s.marks := rfl
@[simp] theorem State.setCore_pageErrs (s : State) (c : Nat) (x : Core) : (s.setCore c x).pageErrs = s.pageErrs := rfl
@[simp] theorem State.setCore_dies (s : State) (c : Nat) (x : Core) : (s.setCore c x).dies = s.dies := rfl
@[simp] theorem State.setCore_channels (s : State) (c : Nat) (x : Core) : (s.setCore c x).channels = s.channels := rfl
@[simp] theorem State.setCore_frames (s : State) (c : Nat) (x : Core) : (s.setCore c x).frames = s.frames := rfl
@[simp] theorem State.setCore_owners (s : State) (c : Nat) (x : Core) : (s.setCore c x).owners = s.owners := rfl
@[simp] theorem State.setCore_written (s : State) (c : Nat) (x : Core) : (s.setCore c x).written = s.written := rfl
@[simp] theorem State.setCore_scrubHours (s : State) (c : Nat) (x : Core) : (s.setCore c x).scrubHours = s.scrubHours := rfl
@[simp] theorem State.setCore_spareFrames (s : State) (c : Nat) (x : Core) : (s.setCore c x).spareFrames = s.spareFrames := rfl
@[simp] theorem State.setCore_contexts (s : State) (c : Nat) (x : Core) : (s.setCore c x).contexts = s.contexts := rfl
@[simp] theorem State.setCore_queues (s : State) (c : Nat) (x : Core) : (s.setCore c x).queues = s.queues := rfl
@[simp] theorem State.setCore_serial (s : State) (c : Nat) (x : Core) : (s.setCore c x).serial = s.serial := rfl
@[simp] theorem State.setCore_sets (s : State) (c : Nat) (x : Core) : (s.setCore c x).sets = s.sets := rfl
@[simp] theorem State.setCore_crates (s : State) (c : Nat) (x : Core) : (s.setCore c x).crates = s.crates := rfl
@[simp] theorem State.setCore_crateNext (s : State) (c : Nat) (x : Core) : (s.setCore c x).crateNext = s.crateNext := rfl
@[simp] theorem State.setCore_tallyMsgs (s : State) (c : Nat) (x : Core) : (s.setCore c x).tallyMsgs = s.tallyMsgs := rfl
@[simp] theorem State.setCore_meshWait (s : State) (c : Nat) (x : Core) : (s.setCore c x).meshWait = s.meshWait := rfl
@[simp] theorem State.setCore_ports (s : State) (c : Nat) (x : Core) : (s.setCore c x).ports = s.ports := rfl
@[simp] theorem State.setCore_pkgId (s : State) (c : Nat) (x : Core) : (s.setCore c x).pkgId = s.pkgId := rfl
@[simp] theorem State.setCore_flows (s : State) (c : Nat) (x : Core) : (s.setCore c x).flows = s.flows := rfl
@[simp] theorem State.setCore_rxFlows (s : State) (c : Nat) (x : Core) : (s.setCore c x).rxFlows = s.rxFlows := rfl
@[simp] theorem State.setCore_transits (s : State) (c : Nat) (x : Core) : (s.setCore c x).transits = s.transits := rfl
@[simp] theorem State.setCore_groups (s : State) (c : Nat) (x : Core) : (s.setCore c x).groups = s.groups := rfl
@[simp] theorem State.setCore_pathJobs (s : State) (c : Nat) (x : Core) : (s.setCore c x).pathJobs = s.pathJobs := rfl
@[simp] theorem State.setCore_time (s : State) (c : Nat) (x : Core) : (s.setCore c x).time = s.time := rfl
@[simp] theorem State.setCore_keeper0 (s : State) (c : Nat) (x : Core) : (s.setCore c x).keeper0 = s.keeper0 := rfl
@[simp] theorem State.setCore_keeper1 (s : State) (c : Nat) (x : Core) : (s.setCore c x).keeper1 = s.keeper1 := rfl
@[simp] theorem State.setCore_keeperEpoch (s : State) (c : Nat) (x : Core) : (s.setCore c x).keeperEpoch = s.keeperEpoch := rfl
@[simp] theorem State.setCore_holder (s : State) (c : Nat) (x : Core) : (s.setCore c x).holder = s.holder := rfl
@[simp] theorem State.setCore_lastBeat (s : State) (c : Nat) (x : Core) : (s.setCore c x).lastBeat = s.lastBeat := rfl
@[simp] theorem State.setCore_hatch0 (s : State) (c : Nat) (x : Core) : (s.setCore c x).hatch0 = s.hatch0 := rfl
@[simp] theorem State.setCore_hatch1 (s : State) (c : Nat) (x : Core) : (s.setCore c x).hatch1 = s.hatch1 := rfl
@[simp] theorem State.setCore_journal (s : State) (c : Nat) (x : Core) : (s.setCore c x).journal = s.journal := rfl
@[simp] theorem State.setCore_journalNext (s : State) (c : Nat) (x : Core) : (s.setCore c x).journalNext = s.journalNext := rfl
@[simp] theorem State.setCore_recover (s : State) (c : Nat) (x : Core) : (s.setCore c x).recover = s.recover := rfl
@[simp] theorem State.setCore_stopping (s : State) (c : Nat) (x : Core) : (s.setCore c x).stopping = s.stopping := rfl
@[simp] theorem State.setCore_wasStopped (s : State) (c : Nat) (x : Core) : (s.setCore c x).wasStopped = s.wasStopped := rfl
@[simp] theorem State.setCore_taking (s : State) (c : Nat) (x : Core) : (s.setCore c x).taking = s.taking := rfl
@[simp] theorem State.setCore_merged (s : State) (c : Nat) (x : Core) : (s.setCore c x).merged = s.merged := rfl
@[simp] theorem State.setCore_dropped (s : State) (c : Nat) (x : Core) : (s.setCore c x).dropped = s.dropped := rfl
@[simp] theorem State.setCore_power (s : State) (c : Nat) (x : Core) : (s.setCore c x).power = s.power := rfl
@[simp] theorem State.setCore_coords (s : State) (c : Nat) (x : Core) : (s.setCore c x).coords = s.coords := rfl
@[simp] theorem State.setCore_host0 (s : State) (c : Nat) (x : Core) : (s.setCore c x).host0 = s.host0 := rfl
@[simp] theorem State.setCore_host1 (s : State) (c : Nat) (x : Core) : (s.setCore c x).host1 = s.host1 := rfl
@[simp] theorem State.setCore_primary (s : State) (c : Nat) (x : Core) : (s.setCore c x).primary = s.primary := rfl
@[simp] theorem State.setCore_dgValue (s : State) (c : Nat) (x : Core) : (s.setCore c x).dgValue = s.dgValue := rfl
@[simp] theorem State.setCore_dgMode (s : State) (c : Nat) (x : Core) : (s.setCore c x).dgMode = s.dgMode := rfl
@[simp] theorem State.setCore_dgCtx (s : State) (c : Nat) (x : Core) : (s.setCore c x).dgCtx = s.dgCtx := rfl
@[simp] theorem State.setCore_dgVid (s : State) (c : Nat) (x : Core) : (s.setCore c x).dgVid = s.dgVid := rfl
@[simp] theorem State.setCore_dgGo (s : State) (c : Nat) (x : Core) : (s.setCore c x).dgGo = s.dgGo := rfl
@[simp] theorem State.setCore_block (s : State) (c : Nat) (x : Core) : (s.setCore c x).block = s.block := rfl
@[simp] theorem State.setCore_lastFault (s : State) (c : Nat) (x : Core) : (s.setCore c x).lastFault = s.lastFault := rfl
@[simp] theorem State.setCore_lastFaultCount (s : State) (c : Nat) (x : Core) : (s.setCore c x).lastFaultCount = s.lastFaultCount := rfl
@[simp] theorem State.setCore_inv (s : State) (c : Nat) (x : Core) : (s.setCore c x).inv = s.inv := rfl
@[simp] theorem State.setCore_invL0 (s : State) (c : Nat) (x : Core) : (s.setCore c x).invL0 = s.invL0 := rfl
@[simp] theorem State.setCore_invL1 (s : State) (c : Nat) (x : Core) : (s.setCore c x).invL1 = s.invL1 := rfl
@[simp] theorem State.setCore_inventoryOk (s : State) (c : Nat) (x : Core) : (s.setCore c x).inventoryOk = s.inventoryOk := rfl
@[simp] theorem State.setCore_identityOk (s : State) (c : Nat) (x : Core) : (s.setCore c x).identityOk = s.identityOk := rfl
@[simp] theorem State.setCore_idKey (s : State) (c : Nat) (x : Core) : (s.setCore c x).idKey = s.idKey := rfl
@[simp] theorem State.setCore_packageKeys (s : State) (c : Nat) (x : Core) : (s.setCore c x).packageKeys = s.packageKeys := rfl
@[simp] theorem State.setCore_fw (s : State) (c : Nat) (x : Core) : (s.setCore c x).fw = s.fw := rfl
@[simp] theorem State.setCore_fwRunning (s : State) (c : Nat) (x : Core) : (s.setCore c x).fwRunning = s.fwRunning := rfl
@[simp] theorem State.setCore_svn0 (s : State) (c : Nat) (x : Core) : (s.setCore c x).svn0 = s.svn0 := rfl
@[simp] theorem State.setCore_svn1 (s : State) (c : Nat) (x : Core) : (s.setCore c x).svn1 = s.svn1 := rfl
@[simp] theorem State.setCore_measured (s : State) (c : Nat) (x : Core) : (s.setCore c x).measured = s.measured := rfl
@[simp] theorem State.setCore_sessions (s : State) (c : Nat) (x : Core) : (s.setCore c x).sessions = s.sessions := rfl
@[simp] theorem State.setCore_sensors (s : State) (c : Nat) (x : Core) : (s.setCore c x).sensors = s.sensors := rfl
@[simp] theorem State.setCore_stateSensors (s : State) (c : Nat) (x : Core) : (s.setCore c x).stateSensors = s.stateSensors := rfl
@[simp] theorem State.setCore_eventsFrom (s : State) (c : Nat) (x : Core) : (s.setCore c x).eventsFrom = s.eventsFrom := rfl
@[simp] theorem State.setCore_events (s : State) (c : Nat) (x : Core) : (s.setCore c x).events = s.events := rfl
@[simp] theorem State.setCore_smbusAddr (s : State) (c : Nat) (x : Core) : (s.setCore c x).smbusAddr = s.smbusAddr := rfl
@[simp] theorem State.setCore_irqs (s : State) (c : Nat) (x : Core) : (s.setCore c x).irqs = s.irqs := rfl
@[simp] theorem State.setCore_frameOut (s : State) (c : Nat) (x : Core) : (s.setCore c x).frameOut = s.frameOut := rfl
@[simp] theorem State.setCore_delivered (s : State) (c : Nat) (x : Core) : (s.setCore c x).delivered = s.delivered := rfl
@[simp] theorem State.setCore_packetOut (s : State) (c : Nat) (x : Core) : (s.setCore c x).packetOut = s.packetOut := rfl
@[simp] theorem State.setCore_sent (s : State) (c : Nat) (x : Core) : (s.setCore c x).sent = s.sent := rfl
@[simp] theorem State.setCore_answers (s : State) (c : Nat) (x : Core) : (s.setCore c x).answers = s.answers := rfl

/-! ## `State.setPort` changes `ports` only -/

@[simp] theorem State.setPort_pending (s : State) (p : Nat) (x : Port) : (s.setPort p x).pending = s.pending := rfl
@[simp] theorem State.setPort_now (s : State) (p : Nat) (x : Port) : (s.setPort p x).now = s.now := rfl
@[simp] theorem State.setPort_fresh (s : State) (p : Nat) (x : Port) : (s.setPort p x).fresh = s.fresh := rfl
@[simp] theorem State.setPort_pins (s : State) (p : Nat) (x : Port) : (s.setPort p x).pins = s.pins := rfl
@[simp] theorem State.setPort_service (s : State) (p : Nat) (x : Port) : (s.setPort p x).service = s.service := rfl
@[simp] theorem State.setPort_phase (s : State) (p : Nat) (x : Port) : (s.setPort p x).phase = s.phase := rfl
@[simp] theorem State.setPort_halted (s : State) (p : Nat) (x : Port) : (s.setPort p x).halted = s.halted := rfl
@[simp] theorem State.setPort_epochBad (s : State) (p : Nat) (x : Port) : (s.setPort p x).epochBad = s.epochBad := rfl
@[simp] theorem State.setPort_broken (s : State) (p : Nat) (x : Port) : (s.setPort p x).broken = s.broken := rfl
@[simp] theorem State.setPort_admitted (s : State) (p : Nat) (x : Port) : (s.setPort p x).admitted = s.admitted := rfl
@[simp] theorem State.setPort_mem (s : State) (p : Nat) (x : Port) : (s.setPort p x).mem = s.mem := rfl
@[simp] theorem State.setPort_hostMem (s : State) (p : Nat) (x : Port) : (s.setPort p x).hostMem = s.hostMem := rfl
@[simp] theorem State.setPort_marks (s : State) (p : Nat) (x : Port) : (s.setPort p x).marks = s.marks := rfl
@[simp] theorem State.setPort_pageErrs (s : State) (p : Nat) (x : Port) : (s.setPort p x).pageErrs = s.pageErrs := rfl
@[simp] theorem State.setPort_dies (s : State) (p : Nat) (x : Port) : (s.setPort p x).dies = s.dies := rfl
@[simp] theorem State.setPort_cores (s : State) (p : Nat) (x : Port) : (s.setPort p x).cores = s.cores := rfl
@[simp] theorem State.setPort_channels (s : State) (p : Nat) (x : Port) : (s.setPort p x).channels = s.channels := rfl
@[simp] theorem State.setPort_frames (s : State) (p : Nat) (x : Port) : (s.setPort p x).frames = s.frames := rfl
@[simp] theorem State.setPort_owners (s : State) (p : Nat) (x : Port) : (s.setPort p x).owners = s.owners := rfl
@[simp] theorem State.setPort_written (s : State) (p : Nat) (x : Port) : (s.setPort p x).written = s.written := rfl
@[simp] theorem State.setPort_scrubHours (s : State) (p : Nat) (x : Port) : (s.setPort p x).scrubHours = s.scrubHours := rfl
@[simp] theorem State.setPort_spareFrames (s : State) (p : Nat) (x : Port) : (s.setPort p x).spareFrames = s.spareFrames := rfl
@[simp] theorem State.setPort_contexts (s : State) (p : Nat) (x : Port) : (s.setPort p x).contexts = s.contexts := rfl
@[simp] theorem State.setPort_queues (s : State) (p : Nat) (x : Port) : (s.setPort p x).queues = s.queues := rfl
@[simp] theorem State.setPort_serial (s : State) (p : Nat) (x : Port) : (s.setPort p x).serial = s.serial := rfl
@[simp] theorem State.setPort_sets (s : State) (p : Nat) (x : Port) : (s.setPort p x).sets = s.sets := rfl
@[simp] theorem State.setPort_crates (s : State) (p : Nat) (x : Port) : (s.setPort p x).crates = s.crates := rfl
@[simp] theorem State.setPort_crateNext (s : State) (p : Nat) (x : Port) : (s.setPort p x).crateNext = s.crateNext := rfl
@[simp] theorem State.setPort_tallyMsgs (s : State) (p : Nat) (x : Port) : (s.setPort p x).tallyMsgs = s.tallyMsgs := rfl
@[simp] theorem State.setPort_meshWait (s : State) (p : Nat) (x : Port) : (s.setPort p x).meshWait = s.meshWait := rfl
@[simp] theorem State.setPort_pkgId (s : State) (p : Nat) (x : Port) : (s.setPort p x).pkgId = s.pkgId := rfl
@[simp] theorem State.setPort_flows (s : State) (p : Nat) (x : Port) : (s.setPort p x).flows = s.flows := rfl
@[simp] theorem State.setPort_rxFlows (s : State) (p : Nat) (x : Port) : (s.setPort p x).rxFlows = s.rxFlows := rfl
@[simp] theorem State.setPort_transits (s : State) (p : Nat) (x : Port) : (s.setPort p x).transits = s.transits := rfl
@[simp] theorem State.setPort_groups (s : State) (p : Nat) (x : Port) : (s.setPort p x).groups = s.groups := rfl
@[simp] theorem State.setPort_pathJobs (s : State) (p : Nat) (x : Port) : (s.setPort p x).pathJobs = s.pathJobs := rfl
@[simp] theorem State.setPort_time (s : State) (p : Nat) (x : Port) : (s.setPort p x).time = s.time := rfl
@[simp] theorem State.setPort_keeper0 (s : State) (p : Nat) (x : Port) : (s.setPort p x).keeper0 = s.keeper0 := rfl
@[simp] theorem State.setPort_keeper1 (s : State) (p : Nat) (x : Port) : (s.setPort p x).keeper1 = s.keeper1 := rfl
@[simp] theorem State.setPort_keeperEpoch (s : State) (p : Nat) (x : Port) : (s.setPort p x).keeperEpoch = s.keeperEpoch := rfl
@[simp] theorem State.setPort_holder (s : State) (p : Nat) (x : Port) : (s.setPort p x).holder = s.holder := rfl
@[simp] theorem State.setPort_lastBeat (s : State) (p : Nat) (x : Port) : (s.setPort p x).lastBeat = s.lastBeat := rfl
@[simp] theorem State.setPort_hatch0 (s : State) (p : Nat) (x : Port) : (s.setPort p x).hatch0 = s.hatch0 := rfl
@[simp] theorem State.setPort_hatch1 (s : State) (p : Nat) (x : Port) : (s.setPort p x).hatch1 = s.hatch1 := rfl
@[simp] theorem State.setPort_journal (s : State) (p : Nat) (x : Port) : (s.setPort p x).journal = s.journal := rfl
@[simp] theorem State.setPort_journalNext (s : State) (p : Nat) (x : Port) : (s.setPort p x).journalNext = s.journalNext := rfl
@[simp] theorem State.setPort_recover (s : State) (p : Nat) (x : Port) : (s.setPort p x).recover = s.recover := rfl
@[simp] theorem State.setPort_stopping (s : State) (p : Nat) (x : Port) : (s.setPort p x).stopping = s.stopping := rfl
@[simp] theorem State.setPort_wasStopped (s : State) (p : Nat) (x : Port) : (s.setPort p x).wasStopped = s.wasStopped := rfl
@[simp] theorem State.setPort_taking (s : State) (p : Nat) (x : Port) : (s.setPort p x).taking = s.taking := rfl
@[simp] theorem State.setPort_merged (s : State) (p : Nat) (x : Port) : (s.setPort p x).merged = s.merged := rfl
@[simp] theorem State.setPort_dropped (s : State) (p : Nat) (x : Port) : (s.setPort p x).dropped = s.dropped := rfl
@[simp] theorem State.setPort_power (s : State) (p : Nat) (x : Port) : (s.setPort p x).power = s.power := rfl
@[simp] theorem State.setPort_coords (s : State) (p : Nat) (x : Port) : (s.setPort p x).coords = s.coords := rfl
@[simp] theorem State.setPort_host0 (s : State) (p : Nat) (x : Port) : (s.setPort p x).host0 = s.host0 := rfl
@[simp] theorem State.setPort_host1 (s : State) (p : Nat) (x : Port) : (s.setPort p x).host1 = s.host1 := rfl
@[simp] theorem State.setPort_primary (s : State) (p : Nat) (x : Port) : (s.setPort p x).primary = s.primary := rfl
@[simp] theorem State.setPort_dgValue (s : State) (p : Nat) (x : Port) : (s.setPort p x).dgValue = s.dgValue := rfl
@[simp] theorem State.setPort_dgMode (s : State) (p : Nat) (x : Port) : (s.setPort p x).dgMode = s.dgMode := rfl
@[simp] theorem State.setPort_dgCtx (s : State) (p : Nat) (x : Port) : (s.setPort p x).dgCtx = s.dgCtx := rfl
@[simp] theorem State.setPort_dgVid (s : State) (p : Nat) (x : Port) : (s.setPort p x).dgVid = s.dgVid := rfl
@[simp] theorem State.setPort_dgGo (s : State) (p : Nat) (x : Port) : (s.setPort p x).dgGo = s.dgGo := rfl
@[simp] theorem State.setPort_block (s : State) (p : Nat) (x : Port) : (s.setPort p x).block = s.block := rfl
@[simp] theorem State.setPort_lastFault (s : State) (p : Nat) (x : Port) : (s.setPort p x).lastFault = s.lastFault := rfl
@[simp] theorem State.setPort_lastFaultCount (s : State) (p : Nat) (x : Port) : (s.setPort p x).lastFaultCount = s.lastFaultCount := rfl
@[simp] theorem State.setPort_inv (s : State) (p : Nat) (x : Port) : (s.setPort p x).inv = s.inv := rfl
@[simp] theorem State.setPort_invL0 (s : State) (p : Nat) (x : Port) : (s.setPort p x).invL0 = s.invL0 := rfl
@[simp] theorem State.setPort_invL1 (s : State) (p : Nat) (x : Port) : (s.setPort p x).invL1 = s.invL1 := rfl
@[simp] theorem State.setPort_inventoryOk (s : State) (p : Nat) (x : Port) : (s.setPort p x).inventoryOk = s.inventoryOk := rfl
@[simp] theorem State.setPort_identityOk (s : State) (p : Nat) (x : Port) : (s.setPort p x).identityOk = s.identityOk := rfl
@[simp] theorem State.setPort_idKey (s : State) (p : Nat) (x : Port) : (s.setPort p x).idKey = s.idKey := rfl
@[simp] theorem State.setPort_packageKeys (s : State) (p : Nat) (x : Port) : (s.setPort p x).packageKeys = s.packageKeys := rfl
@[simp] theorem State.setPort_fw (s : State) (p : Nat) (x : Port) : (s.setPort p x).fw = s.fw := rfl
@[simp] theorem State.setPort_fwRunning (s : State) (p : Nat) (x : Port) : (s.setPort p x).fwRunning = s.fwRunning := rfl
@[simp] theorem State.setPort_svn0 (s : State) (p : Nat) (x : Port) : (s.setPort p x).svn0 = s.svn0 := rfl
@[simp] theorem State.setPort_svn1 (s : State) (p : Nat) (x : Port) : (s.setPort p x).svn1 = s.svn1 := rfl
@[simp] theorem State.setPort_measured (s : State) (p : Nat) (x : Port) : (s.setPort p x).measured = s.measured := rfl
@[simp] theorem State.setPort_sessions (s : State) (p : Nat) (x : Port) : (s.setPort p x).sessions = s.sessions := rfl
@[simp] theorem State.setPort_sensors (s : State) (p : Nat) (x : Port) : (s.setPort p x).sensors = s.sensors := rfl
@[simp] theorem State.setPort_stateSensors (s : State) (p : Nat) (x : Port) : (s.setPort p x).stateSensors = s.stateSensors := rfl
@[simp] theorem State.setPort_eventsFrom (s : State) (p : Nat) (x : Port) : (s.setPort p x).eventsFrom = s.eventsFrom := rfl
@[simp] theorem State.setPort_events (s : State) (p : Nat) (x : Port) : (s.setPort p x).events = s.events := rfl
@[simp] theorem State.setPort_smbusAddr (s : State) (p : Nat) (x : Port) : (s.setPort p x).smbusAddr = s.smbusAddr := rfl
@[simp] theorem State.setPort_irqs (s : State) (p : Nat) (x : Port) : (s.setPort p x).irqs = s.irqs := rfl
@[simp] theorem State.setPort_frameOut (s : State) (p : Nat) (x : Port) : (s.setPort p x).frameOut = s.frameOut := rfl
@[simp] theorem State.setPort_delivered (s : State) (p : Nat) (x : Port) : (s.setPort p x).delivered = s.delivered := rfl
@[simp] theorem State.setPort_packetOut (s : State) (p : Nat) (x : Port) : (s.setPort p x).packetOut = s.packetOut := rfl
@[simp] theorem State.setPort_sent (s : State) (p : Nat) (x : Port) : (s.setPort p x).sent = s.sent := rfl
@[simp] theorem State.setPort_answers (s : State) (p : Nat) (x : Port) : (s.setPort p x).answers = s.answers := rfl

/-! ## `State.setChannel` changes `channels` only -/

@[simp] theorem State.setChannel_pending (s : State) (c : Nat) (x : Channel) : (s.setChannel c x).pending = s.pending := rfl
@[simp] theorem State.setChannel_now (s : State) (c : Nat) (x : Channel) : (s.setChannel c x).now = s.now := rfl
@[simp] theorem State.setChannel_fresh (s : State) (c : Nat) (x : Channel) : (s.setChannel c x).fresh = s.fresh := rfl
@[simp] theorem State.setChannel_pins (s : State) (c : Nat) (x : Channel) : (s.setChannel c x).pins = s.pins := rfl
@[simp] theorem State.setChannel_service (s : State) (c : Nat) (x : Channel) : (s.setChannel c x).service = s.service := rfl
@[simp] theorem State.setChannel_phase (s : State) (c : Nat) (x : Channel) : (s.setChannel c x).phase = s.phase := rfl
@[simp] theorem State.setChannel_halted (s : State) (c : Nat) (x : Channel) : (s.setChannel c x).halted = s.halted := rfl
@[simp] theorem State.setChannel_epochBad (s : State) (c : Nat) (x : Channel) : (s.setChannel c x).epochBad = s.epochBad := rfl
@[simp] theorem State.setChannel_broken (s : State) (c : Nat) (x : Channel) : (s.setChannel c x).broken = s.broken := rfl
@[simp] theorem State.setChannel_admitted (s : State) (c : Nat) (x : Channel) : (s.setChannel c x).admitted = s.admitted := rfl
@[simp] theorem State.setChannel_mem (s : State) (c : Nat) (x : Channel) : (s.setChannel c x).mem = s.mem := rfl
@[simp] theorem State.setChannel_hostMem (s : State) (c : Nat) (x : Channel) : (s.setChannel c x).hostMem = s.hostMem := rfl
@[simp] theorem State.setChannel_marks (s : State) (c : Nat) (x : Channel) : (s.setChannel c x).marks = s.marks := rfl
@[simp] theorem State.setChannel_pageErrs (s : State) (c : Nat) (x : Channel) : (s.setChannel c x).pageErrs = s.pageErrs := rfl
@[simp] theorem State.setChannel_dies (s : State) (c : Nat) (x : Channel) : (s.setChannel c x).dies = s.dies := rfl
@[simp] theorem State.setChannel_cores (s : State) (c : Nat) (x : Channel) : (s.setChannel c x).cores = s.cores := rfl
@[simp] theorem State.setChannel_frames (s : State) (c : Nat) (x : Channel) : (s.setChannel c x).frames = s.frames := rfl
@[simp] theorem State.setChannel_owners (s : State) (c : Nat) (x : Channel) : (s.setChannel c x).owners = s.owners := rfl
@[simp] theorem State.setChannel_written (s : State) (c : Nat) (x : Channel) : (s.setChannel c x).written = s.written := rfl
@[simp] theorem State.setChannel_scrubHours (s : State) (c : Nat) (x : Channel) : (s.setChannel c x).scrubHours = s.scrubHours := rfl
@[simp] theorem State.setChannel_spareFrames (s : State) (c : Nat) (x : Channel) : (s.setChannel c x).spareFrames = s.spareFrames := rfl
@[simp] theorem State.setChannel_contexts (s : State) (c : Nat) (x : Channel) : (s.setChannel c x).contexts = s.contexts := rfl
@[simp] theorem State.setChannel_queues (s : State) (c : Nat) (x : Channel) : (s.setChannel c x).queues = s.queues := rfl
@[simp] theorem State.setChannel_serial (s : State) (c : Nat) (x : Channel) : (s.setChannel c x).serial = s.serial := rfl
@[simp] theorem State.setChannel_sets (s : State) (c : Nat) (x : Channel) : (s.setChannel c x).sets = s.sets := rfl
@[simp] theorem State.setChannel_crates (s : State) (c : Nat) (x : Channel) : (s.setChannel c x).crates = s.crates := rfl
@[simp] theorem State.setChannel_crateNext (s : State) (c : Nat) (x : Channel) : (s.setChannel c x).crateNext = s.crateNext := rfl
@[simp] theorem State.setChannel_tallyMsgs (s : State) (c : Nat) (x : Channel) : (s.setChannel c x).tallyMsgs = s.tallyMsgs := rfl
@[simp] theorem State.setChannel_meshWait (s : State) (c : Nat) (x : Channel) : (s.setChannel c x).meshWait = s.meshWait := rfl
@[simp] theorem State.setChannel_ports (s : State) (c : Nat) (x : Channel) : (s.setChannel c x).ports = s.ports := rfl
@[simp] theorem State.setChannel_pkgId (s : State) (c : Nat) (x : Channel) : (s.setChannel c x).pkgId = s.pkgId := rfl
@[simp] theorem State.setChannel_flows (s : State) (c : Nat) (x : Channel) : (s.setChannel c x).flows = s.flows := rfl
@[simp] theorem State.setChannel_rxFlows (s : State) (c : Nat) (x : Channel) : (s.setChannel c x).rxFlows = s.rxFlows := rfl
@[simp] theorem State.setChannel_transits (s : State) (c : Nat) (x : Channel) : (s.setChannel c x).transits = s.transits := rfl
@[simp] theorem State.setChannel_groups (s : State) (c : Nat) (x : Channel) : (s.setChannel c x).groups = s.groups := rfl
@[simp] theorem State.setChannel_pathJobs (s : State) (c : Nat) (x : Channel) : (s.setChannel c x).pathJobs = s.pathJobs := rfl
@[simp] theorem State.setChannel_time (s : State) (c : Nat) (x : Channel) : (s.setChannel c x).time = s.time := rfl
@[simp] theorem State.setChannel_keeper0 (s : State) (c : Nat) (x : Channel) : (s.setChannel c x).keeper0 = s.keeper0 := rfl
@[simp] theorem State.setChannel_keeper1 (s : State) (c : Nat) (x : Channel) : (s.setChannel c x).keeper1 = s.keeper1 := rfl
@[simp] theorem State.setChannel_keeperEpoch (s : State) (c : Nat) (x : Channel) : (s.setChannel c x).keeperEpoch = s.keeperEpoch := rfl
@[simp] theorem State.setChannel_holder (s : State) (c : Nat) (x : Channel) : (s.setChannel c x).holder = s.holder := rfl
@[simp] theorem State.setChannel_lastBeat (s : State) (c : Nat) (x : Channel) : (s.setChannel c x).lastBeat = s.lastBeat := rfl
@[simp] theorem State.setChannel_hatch0 (s : State) (c : Nat) (x : Channel) : (s.setChannel c x).hatch0 = s.hatch0 := rfl
@[simp] theorem State.setChannel_hatch1 (s : State) (c : Nat) (x : Channel) : (s.setChannel c x).hatch1 = s.hatch1 := rfl
@[simp] theorem State.setChannel_journal (s : State) (c : Nat) (x : Channel) : (s.setChannel c x).journal = s.journal := rfl
@[simp] theorem State.setChannel_journalNext (s : State) (c : Nat) (x : Channel) : (s.setChannel c x).journalNext = s.journalNext := rfl
@[simp] theorem State.setChannel_recover (s : State) (c : Nat) (x : Channel) : (s.setChannel c x).recover = s.recover := rfl
@[simp] theorem State.setChannel_stopping (s : State) (c : Nat) (x : Channel) : (s.setChannel c x).stopping = s.stopping := rfl
@[simp] theorem State.setChannel_wasStopped (s : State) (c : Nat) (x : Channel) : (s.setChannel c x).wasStopped = s.wasStopped := rfl
@[simp] theorem State.setChannel_taking (s : State) (c : Nat) (x : Channel) : (s.setChannel c x).taking = s.taking := rfl
@[simp] theorem State.setChannel_merged (s : State) (c : Nat) (x : Channel) : (s.setChannel c x).merged = s.merged := rfl
@[simp] theorem State.setChannel_dropped (s : State) (c : Nat) (x : Channel) : (s.setChannel c x).dropped = s.dropped := rfl
@[simp] theorem State.setChannel_power (s : State) (c : Nat) (x : Channel) : (s.setChannel c x).power = s.power := rfl
@[simp] theorem State.setChannel_coords (s : State) (c : Nat) (x : Channel) : (s.setChannel c x).coords = s.coords := rfl
@[simp] theorem State.setChannel_host0 (s : State) (c : Nat) (x : Channel) : (s.setChannel c x).host0 = s.host0 := rfl
@[simp] theorem State.setChannel_host1 (s : State) (c : Nat) (x : Channel) : (s.setChannel c x).host1 = s.host1 := rfl
@[simp] theorem State.setChannel_primary (s : State) (c : Nat) (x : Channel) : (s.setChannel c x).primary = s.primary := rfl
@[simp] theorem State.setChannel_dgValue (s : State) (c : Nat) (x : Channel) : (s.setChannel c x).dgValue = s.dgValue := rfl
@[simp] theorem State.setChannel_dgMode (s : State) (c : Nat) (x : Channel) : (s.setChannel c x).dgMode = s.dgMode := rfl
@[simp] theorem State.setChannel_dgCtx (s : State) (c : Nat) (x : Channel) : (s.setChannel c x).dgCtx = s.dgCtx := rfl
@[simp] theorem State.setChannel_dgVid (s : State) (c : Nat) (x : Channel) : (s.setChannel c x).dgVid = s.dgVid := rfl
@[simp] theorem State.setChannel_dgGo (s : State) (c : Nat) (x : Channel) : (s.setChannel c x).dgGo = s.dgGo := rfl
@[simp] theorem State.setChannel_block (s : State) (c : Nat) (x : Channel) : (s.setChannel c x).block = s.block := rfl
@[simp] theorem State.setChannel_lastFault (s : State) (c : Nat) (x : Channel) : (s.setChannel c x).lastFault = s.lastFault := rfl
@[simp] theorem State.setChannel_lastFaultCount (s : State) (c : Nat) (x : Channel) : (s.setChannel c x).lastFaultCount = s.lastFaultCount := rfl
@[simp] theorem State.setChannel_inv (s : State) (c : Nat) (x : Channel) : (s.setChannel c x).inv = s.inv := rfl
@[simp] theorem State.setChannel_invL0 (s : State) (c : Nat) (x : Channel) : (s.setChannel c x).invL0 = s.invL0 := rfl
@[simp] theorem State.setChannel_invL1 (s : State) (c : Nat) (x : Channel) : (s.setChannel c x).invL1 = s.invL1 := rfl
@[simp] theorem State.setChannel_inventoryOk (s : State) (c : Nat) (x : Channel) : (s.setChannel c x).inventoryOk = s.inventoryOk := rfl
@[simp] theorem State.setChannel_identityOk (s : State) (c : Nat) (x : Channel) : (s.setChannel c x).identityOk = s.identityOk := rfl
@[simp] theorem State.setChannel_idKey (s : State) (c : Nat) (x : Channel) : (s.setChannel c x).idKey = s.idKey := rfl
@[simp] theorem State.setChannel_packageKeys (s : State) (c : Nat) (x : Channel) : (s.setChannel c x).packageKeys = s.packageKeys := rfl
@[simp] theorem State.setChannel_fw (s : State) (c : Nat) (x : Channel) : (s.setChannel c x).fw = s.fw := rfl
@[simp] theorem State.setChannel_fwRunning (s : State) (c : Nat) (x : Channel) : (s.setChannel c x).fwRunning = s.fwRunning := rfl
@[simp] theorem State.setChannel_svn0 (s : State) (c : Nat) (x : Channel) : (s.setChannel c x).svn0 = s.svn0 := rfl
@[simp] theorem State.setChannel_svn1 (s : State) (c : Nat) (x : Channel) : (s.setChannel c x).svn1 = s.svn1 := rfl
@[simp] theorem State.setChannel_measured (s : State) (c : Nat) (x : Channel) : (s.setChannel c x).measured = s.measured := rfl
@[simp] theorem State.setChannel_sessions (s : State) (c : Nat) (x : Channel) : (s.setChannel c x).sessions = s.sessions := rfl
@[simp] theorem State.setChannel_sensors (s : State) (c : Nat) (x : Channel) : (s.setChannel c x).sensors = s.sensors := rfl
@[simp] theorem State.setChannel_stateSensors (s : State) (c : Nat) (x : Channel) : (s.setChannel c x).stateSensors = s.stateSensors := rfl
@[simp] theorem State.setChannel_eventsFrom (s : State) (c : Nat) (x : Channel) : (s.setChannel c x).eventsFrom = s.eventsFrom := rfl
@[simp] theorem State.setChannel_events (s : State) (c : Nat) (x : Channel) : (s.setChannel c x).events = s.events := rfl
@[simp] theorem State.setChannel_smbusAddr (s : State) (c : Nat) (x : Channel) : (s.setChannel c x).smbusAddr = s.smbusAddr := rfl
@[simp] theorem State.setChannel_irqs (s : State) (c : Nat) (x : Channel) : (s.setChannel c x).irqs = s.irqs := rfl
@[simp] theorem State.setChannel_frameOut (s : State) (c : Nat) (x : Channel) : (s.setChannel c x).frameOut = s.frameOut := rfl
@[simp] theorem State.setChannel_delivered (s : State) (c : Nat) (x : Channel) : (s.setChannel c x).delivered = s.delivered := rfl
@[simp] theorem State.setChannel_packetOut (s : State) (c : Nat) (x : Channel) : (s.setChannel c x).packetOut = s.packetOut := rfl
@[simp] theorem State.setChannel_sent (s : State) (c : Nat) (x : Channel) : (s.setChannel c x).sent = s.sent := rfl
@[simp] theorem State.setChannel_answers (s : State) (c : Nat) (x : Channel) : (s.setChannel c x).answers = s.answers := rfl

/-! ## `State.setCtx` changes `contexts` only -/

@[simp] theorem State.setCtx_pending (s : State) (c : Nat) (x : Option Context) : (s.setCtx c x).pending = s.pending := rfl
@[simp] theorem State.setCtx_now (s : State) (c : Nat) (x : Option Context) : (s.setCtx c x).now = s.now := rfl
@[simp] theorem State.setCtx_fresh (s : State) (c : Nat) (x : Option Context) : (s.setCtx c x).fresh = s.fresh := rfl
@[simp] theorem State.setCtx_pins (s : State) (c : Nat) (x : Option Context) : (s.setCtx c x).pins = s.pins := rfl
@[simp] theorem State.setCtx_service (s : State) (c : Nat) (x : Option Context) : (s.setCtx c x).service = s.service := rfl
@[simp] theorem State.setCtx_phase (s : State) (c : Nat) (x : Option Context) : (s.setCtx c x).phase = s.phase := rfl
@[simp] theorem State.setCtx_halted (s : State) (c : Nat) (x : Option Context) : (s.setCtx c x).halted = s.halted := rfl
@[simp] theorem State.setCtx_epochBad (s : State) (c : Nat) (x : Option Context) : (s.setCtx c x).epochBad = s.epochBad := rfl
@[simp] theorem State.setCtx_broken (s : State) (c : Nat) (x : Option Context) : (s.setCtx c x).broken = s.broken := rfl
@[simp] theorem State.setCtx_admitted (s : State) (c : Nat) (x : Option Context) : (s.setCtx c x).admitted = s.admitted := rfl
@[simp] theorem State.setCtx_mem (s : State) (c : Nat) (x : Option Context) : (s.setCtx c x).mem = s.mem := rfl
@[simp] theorem State.setCtx_hostMem (s : State) (c : Nat) (x : Option Context) : (s.setCtx c x).hostMem = s.hostMem := rfl
@[simp] theorem State.setCtx_marks (s : State) (c : Nat) (x : Option Context) : (s.setCtx c x).marks = s.marks := rfl
@[simp] theorem State.setCtx_pageErrs (s : State) (c : Nat) (x : Option Context) : (s.setCtx c x).pageErrs = s.pageErrs := rfl
@[simp] theorem State.setCtx_dies (s : State) (c : Nat) (x : Option Context) : (s.setCtx c x).dies = s.dies := rfl
@[simp] theorem State.setCtx_cores (s : State) (c : Nat) (x : Option Context) : (s.setCtx c x).cores = s.cores := rfl
@[simp] theorem State.setCtx_channels (s : State) (c : Nat) (x : Option Context) : (s.setCtx c x).channels = s.channels := rfl
@[simp] theorem State.setCtx_frames (s : State) (c : Nat) (x : Option Context) : (s.setCtx c x).frames = s.frames := rfl
@[simp] theorem State.setCtx_owners (s : State) (c : Nat) (x : Option Context) : (s.setCtx c x).owners = s.owners := rfl
@[simp] theorem State.setCtx_written (s : State) (c : Nat) (x : Option Context) : (s.setCtx c x).written = s.written := rfl
@[simp] theorem State.setCtx_scrubHours (s : State) (c : Nat) (x : Option Context) : (s.setCtx c x).scrubHours = s.scrubHours := rfl
@[simp] theorem State.setCtx_spareFrames (s : State) (c : Nat) (x : Option Context) : (s.setCtx c x).spareFrames = s.spareFrames := rfl
@[simp] theorem State.setCtx_queues (s : State) (c : Nat) (x : Option Context) : (s.setCtx c x).queues = s.queues := rfl
@[simp] theorem State.setCtx_serial (s : State) (c : Nat) (x : Option Context) : (s.setCtx c x).serial = s.serial := rfl
@[simp] theorem State.setCtx_sets (s : State) (c : Nat) (x : Option Context) : (s.setCtx c x).sets = s.sets := rfl
@[simp] theorem State.setCtx_crates (s : State) (c : Nat) (x : Option Context) : (s.setCtx c x).crates = s.crates := rfl
@[simp] theorem State.setCtx_crateNext (s : State) (c : Nat) (x : Option Context) : (s.setCtx c x).crateNext = s.crateNext := rfl
@[simp] theorem State.setCtx_tallyMsgs (s : State) (c : Nat) (x : Option Context) : (s.setCtx c x).tallyMsgs = s.tallyMsgs := rfl
@[simp] theorem State.setCtx_meshWait (s : State) (c : Nat) (x : Option Context) : (s.setCtx c x).meshWait = s.meshWait := rfl
@[simp] theorem State.setCtx_ports (s : State) (c : Nat) (x : Option Context) : (s.setCtx c x).ports = s.ports := rfl
@[simp] theorem State.setCtx_pkgId (s : State) (c : Nat) (x : Option Context) : (s.setCtx c x).pkgId = s.pkgId := rfl
@[simp] theorem State.setCtx_flows (s : State) (c : Nat) (x : Option Context) : (s.setCtx c x).flows = s.flows := rfl
@[simp] theorem State.setCtx_rxFlows (s : State) (c : Nat) (x : Option Context) : (s.setCtx c x).rxFlows = s.rxFlows := rfl
@[simp] theorem State.setCtx_transits (s : State) (c : Nat) (x : Option Context) : (s.setCtx c x).transits = s.transits := rfl
@[simp] theorem State.setCtx_groups (s : State) (c : Nat) (x : Option Context) : (s.setCtx c x).groups = s.groups := rfl
@[simp] theorem State.setCtx_pathJobs (s : State) (c : Nat) (x : Option Context) : (s.setCtx c x).pathJobs = s.pathJobs := rfl
@[simp] theorem State.setCtx_time (s : State) (c : Nat) (x : Option Context) : (s.setCtx c x).time = s.time := rfl
@[simp] theorem State.setCtx_keeper0 (s : State) (c : Nat) (x : Option Context) : (s.setCtx c x).keeper0 = s.keeper0 := rfl
@[simp] theorem State.setCtx_keeper1 (s : State) (c : Nat) (x : Option Context) : (s.setCtx c x).keeper1 = s.keeper1 := rfl
@[simp] theorem State.setCtx_keeperEpoch (s : State) (c : Nat) (x : Option Context) : (s.setCtx c x).keeperEpoch = s.keeperEpoch := rfl
@[simp] theorem State.setCtx_holder (s : State) (c : Nat) (x : Option Context) : (s.setCtx c x).holder = s.holder := rfl
@[simp] theorem State.setCtx_lastBeat (s : State) (c : Nat) (x : Option Context) : (s.setCtx c x).lastBeat = s.lastBeat := rfl
@[simp] theorem State.setCtx_hatch0 (s : State) (c : Nat) (x : Option Context) : (s.setCtx c x).hatch0 = s.hatch0 := rfl
@[simp] theorem State.setCtx_hatch1 (s : State) (c : Nat) (x : Option Context) : (s.setCtx c x).hatch1 = s.hatch1 := rfl
@[simp] theorem State.setCtx_journal (s : State) (c : Nat) (x : Option Context) : (s.setCtx c x).journal = s.journal := rfl
@[simp] theorem State.setCtx_journalNext (s : State) (c : Nat) (x : Option Context) : (s.setCtx c x).journalNext = s.journalNext := rfl
@[simp] theorem State.setCtx_recover (s : State) (c : Nat) (x : Option Context) : (s.setCtx c x).recover = s.recover := rfl
@[simp] theorem State.setCtx_stopping (s : State) (c : Nat) (x : Option Context) : (s.setCtx c x).stopping = s.stopping := rfl
@[simp] theorem State.setCtx_wasStopped (s : State) (c : Nat) (x : Option Context) : (s.setCtx c x).wasStopped = s.wasStopped := rfl
@[simp] theorem State.setCtx_taking (s : State) (c : Nat) (x : Option Context) : (s.setCtx c x).taking = s.taking := rfl
@[simp] theorem State.setCtx_merged (s : State) (c : Nat) (x : Option Context) : (s.setCtx c x).merged = s.merged := rfl
@[simp] theorem State.setCtx_dropped (s : State) (c : Nat) (x : Option Context) : (s.setCtx c x).dropped = s.dropped := rfl
@[simp] theorem State.setCtx_power (s : State) (c : Nat) (x : Option Context) : (s.setCtx c x).power = s.power := rfl
@[simp] theorem State.setCtx_coords (s : State) (c : Nat) (x : Option Context) : (s.setCtx c x).coords = s.coords := rfl
@[simp] theorem State.setCtx_host0 (s : State) (c : Nat) (x : Option Context) : (s.setCtx c x).host0 = s.host0 := rfl
@[simp] theorem State.setCtx_host1 (s : State) (c : Nat) (x : Option Context) : (s.setCtx c x).host1 = s.host1 := rfl
@[simp] theorem State.setCtx_primary (s : State) (c : Nat) (x : Option Context) : (s.setCtx c x).primary = s.primary := rfl
@[simp] theorem State.setCtx_dgValue (s : State) (c : Nat) (x : Option Context) : (s.setCtx c x).dgValue = s.dgValue := rfl
@[simp] theorem State.setCtx_dgMode (s : State) (c : Nat) (x : Option Context) : (s.setCtx c x).dgMode = s.dgMode := rfl
@[simp] theorem State.setCtx_dgCtx (s : State) (c : Nat) (x : Option Context) : (s.setCtx c x).dgCtx = s.dgCtx := rfl
@[simp] theorem State.setCtx_dgVid (s : State) (c : Nat) (x : Option Context) : (s.setCtx c x).dgVid = s.dgVid := rfl
@[simp] theorem State.setCtx_dgGo (s : State) (c : Nat) (x : Option Context) : (s.setCtx c x).dgGo = s.dgGo := rfl
@[simp] theorem State.setCtx_block (s : State) (c : Nat) (x : Option Context) : (s.setCtx c x).block = s.block := rfl
@[simp] theorem State.setCtx_lastFault (s : State) (c : Nat) (x : Option Context) : (s.setCtx c x).lastFault = s.lastFault := rfl
@[simp] theorem State.setCtx_lastFaultCount (s : State) (c : Nat) (x : Option Context) : (s.setCtx c x).lastFaultCount = s.lastFaultCount := rfl
@[simp] theorem State.setCtx_inv (s : State) (c : Nat) (x : Option Context) : (s.setCtx c x).inv = s.inv := rfl
@[simp] theorem State.setCtx_invL0 (s : State) (c : Nat) (x : Option Context) : (s.setCtx c x).invL0 = s.invL0 := rfl
@[simp] theorem State.setCtx_invL1 (s : State) (c : Nat) (x : Option Context) : (s.setCtx c x).invL1 = s.invL1 := rfl
@[simp] theorem State.setCtx_inventoryOk (s : State) (c : Nat) (x : Option Context) : (s.setCtx c x).inventoryOk = s.inventoryOk := rfl
@[simp] theorem State.setCtx_identityOk (s : State) (c : Nat) (x : Option Context) : (s.setCtx c x).identityOk = s.identityOk := rfl
@[simp] theorem State.setCtx_idKey (s : State) (c : Nat) (x : Option Context) : (s.setCtx c x).idKey = s.idKey := rfl
@[simp] theorem State.setCtx_packageKeys (s : State) (c : Nat) (x : Option Context) : (s.setCtx c x).packageKeys = s.packageKeys := rfl
@[simp] theorem State.setCtx_fw (s : State) (c : Nat) (x : Option Context) : (s.setCtx c x).fw = s.fw := rfl
@[simp] theorem State.setCtx_fwRunning (s : State) (c : Nat) (x : Option Context) : (s.setCtx c x).fwRunning = s.fwRunning := rfl
@[simp] theorem State.setCtx_svn0 (s : State) (c : Nat) (x : Option Context) : (s.setCtx c x).svn0 = s.svn0 := rfl
@[simp] theorem State.setCtx_svn1 (s : State) (c : Nat) (x : Option Context) : (s.setCtx c x).svn1 = s.svn1 := rfl
@[simp] theorem State.setCtx_measured (s : State) (c : Nat) (x : Option Context) : (s.setCtx c x).measured = s.measured := rfl
@[simp] theorem State.setCtx_sessions (s : State) (c : Nat) (x : Option Context) : (s.setCtx c x).sessions = s.sessions := rfl
@[simp] theorem State.setCtx_sensors (s : State) (c : Nat) (x : Option Context) : (s.setCtx c x).sensors = s.sensors := rfl
@[simp] theorem State.setCtx_stateSensors (s : State) (c : Nat) (x : Option Context) : (s.setCtx c x).stateSensors = s.stateSensors := rfl
@[simp] theorem State.setCtx_eventsFrom (s : State) (c : Nat) (x : Option Context) : (s.setCtx c x).eventsFrom = s.eventsFrom := rfl
@[simp] theorem State.setCtx_events (s : State) (c : Nat) (x : Option Context) : (s.setCtx c x).events = s.events := rfl
@[simp] theorem State.setCtx_smbusAddr (s : State) (c : Nat) (x : Option Context) : (s.setCtx c x).smbusAddr = s.smbusAddr := rfl
@[simp] theorem State.setCtx_irqs (s : State) (c : Nat) (x : Option Context) : (s.setCtx c x).irqs = s.irqs := rfl
@[simp] theorem State.setCtx_frameOut (s : State) (c : Nat) (x : Option Context) : (s.setCtx c x).frameOut = s.frameOut := rfl
@[simp] theorem State.setCtx_delivered (s : State) (c : Nat) (x : Option Context) : (s.setCtx c x).delivered = s.delivered := rfl
@[simp] theorem State.setCtx_packetOut (s : State) (c : Nat) (x : Option Context) : (s.setCtx c x).packetOut = s.packetOut := rfl
@[simp] theorem State.setCtx_sent (s : State) (c : Nat) (x : Option Context) : (s.setCtx c x).sent = s.sent := rfl
@[simp] theorem State.setCtx_answers (s : State) (c : Nat) (x : Option Context) : (s.setCtx c x).answers = s.answers := rfl

/-! ## `State.setQueue` changes `queues` only -/

@[simp] theorem State.setQueue_pending (s : State) (q : QRef) (x : Option Queue) : (s.setQueue q x).pending = s.pending := rfl
@[simp] theorem State.setQueue_now (s : State) (q : QRef) (x : Option Queue) : (s.setQueue q x).now = s.now := rfl
@[simp] theorem State.setQueue_fresh (s : State) (q : QRef) (x : Option Queue) : (s.setQueue q x).fresh = s.fresh := rfl
@[simp] theorem State.setQueue_pins (s : State) (q : QRef) (x : Option Queue) : (s.setQueue q x).pins = s.pins := rfl
@[simp] theorem State.setQueue_service (s : State) (q : QRef) (x : Option Queue) : (s.setQueue q x).service = s.service := rfl
@[simp] theorem State.setQueue_phase (s : State) (q : QRef) (x : Option Queue) : (s.setQueue q x).phase = s.phase := rfl
@[simp] theorem State.setQueue_halted (s : State) (q : QRef) (x : Option Queue) : (s.setQueue q x).halted = s.halted := rfl
@[simp] theorem State.setQueue_epochBad (s : State) (q : QRef) (x : Option Queue) : (s.setQueue q x).epochBad = s.epochBad := rfl
@[simp] theorem State.setQueue_broken (s : State) (q : QRef) (x : Option Queue) : (s.setQueue q x).broken = s.broken := rfl
@[simp] theorem State.setQueue_admitted (s : State) (q : QRef) (x : Option Queue) : (s.setQueue q x).admitted = s.admitted := rfl
@[simp] theorem State.setQueue_mem (s : State) (q : QRef) (x : Option Queue) : (s.setQueue q x).mem = s.mem := rfl
@[simp] theorem State.setQueue_hostMem (s : State) (q : QRef) (x : Option Queue) : (s.setQueue q x).hostMem = s.hostMem := rfl
@[simp] theorem State.setQueue_marks (s : State) (q : QRef) (x : Option Queue) : (s.setQueue q x).marks = s.marks := rfl
@[simp] theorem State.setQueue_pageErrs (s : State) (q : QRef) (x : Option Queue) : (s.setQueue q x).pageErrs = s.pageErrs := rfl
@[simp] theorem State.setQueue_dies (s : State) (q : QRef) (x : Option Queue) : (s.setQueue q x).dies = s.dies := rfl
@[simp] theorem State.setQueue_cores (s : State) (q : QRef) (x : Option Queue) : (s.setQueue q x).cores = s.cores := rfl
@[simp] theorem State.setQueue_channels (s : State) (q : QRef) (x : Option Queue) : (s.setQueue q x).channels = s.channels := rfl
@[simp] theorem State.setQueue_frames (s : State) (q : QRef) (x : Option Queue) : (s.setQueue q x).frames = s.frames := rfl
@[simp] theorem State.setQueue_owners (s : State) (q : QRef) (x : Option Queue) : (s.setQueue q x).owners = s.owners := rfl
@[simp] theorem State.setQueue_written (s : State) (q : QRef) (x : Option Queue) : (s.setQueue q x).written = s.written := rfl
@[simp] theorem State.setQueue_scrubHours (s : State) (q : QRef) (x : Option Queue) : (s.setQueue q x).scrubHours = s.scrubHours := rfl
@[simp] theorem State.setQueue_spareFrames (s : State) (q : QRef) (x : Option Queue) : (s.setQueue q x).spareFrames = s.spareFrames := rfl
@[simp] theorem State.setQueue_contexts (s : State) (q : QRef) (x : Option Queue) : (s.setQueue q x).contexts = s.contexts := rfl
@[simp] theorem State.setQueue_serial (s : State) (q : QRef) (x : Option Queue) : (s.setQueue q x).serial = s.serial := rfl
@[simp] theorem State.setQueue_sets (s : State) (q : QRef) (x : Option Queue) : (s.setQueue q x).sets = s.sets := rfl
@[simp] theorem State.setQueue_crates (s : State) (q : QRef) (x : Option Queue) : (s.setQueue q x).crates = s.crates := rfl
@[simp] theorem State.setQueue_crateNext (s : State) (q : QRef) (x : Option Queue) : (s.setQueue q x).crateNext = s.crateNext := rfl
@[simp] theorem State.setQueue_tallyMsgs (s : State) (q : QRef) (x : Option Queue) : (s.setQueue q x).tallyMsgs = s.tallyMsgs := rfl
@[simp] theorem State.setQueue_meshWait (s : State) (q : QRef) (x : Option Queue) : (s.setQueue q x).meshWait = s.meshWait := rfl
@[simp] theorem State.setQueue_ports (s : State) (q : QRef) (x : Option Queue) : (s.setQueue q x).ports = s.ports := rfl
@[simp] theorem State.setQueue_pkgId (s : State) (q : QRef) (x : Option Queue) : (s.setQueue q x).pkgId = s.pkgId := rfl
@[simp] theorem State.setQueue_flows (s : State) (q : QRef) (x : Option Queue) : (s.setQueue q x).flows = s.flows := rfl
@[simp] theorem State.setQueue_rxFlows (s : State) (q : QRef) (x : Option Queue) : (s.setQueue q x).rxFlows = s.rxFlows := rfl
@[simp] theorem State.setQueue_transits (s : State) (q : QRef) (x : Option Queue) : (s.setQueue q x).transits = s.transits := rfl
@[simp] theorem State.setQueue_groups (s : State) (q : QRef) (x : Option Queue) : (s.setQueue q x).groups = s.groups := rfl
@[simp] theorem State.setQueue_pathJobs (s : State) (q : QRef) (x : Option Queue) : (s.setQueue q x).pathJobs = s.pathJobs := rfl
@[simp] theorem State.setQueue_time (s : State) (q : QRef) (x : Option Queue) : (s.setQueue q x).time = s.time := rfl
@[simp] theorem State.setQueue_keeper0 (s : State) (q : QRef) (x : Option Queue) : (s.setQueue q x).keeper0 = s.keeper0 := rfl
@[simp] theorem State.setQueue_keeper1 (s : State) (q : QRef) (x : Option Queue) : (s.setQueue q x).keeper1 = s.keeper1 := rfl
@[simp] theorem State.setQueue_keeperEpoch (s : State) (q : QRef) (x : Option Queue) : (s.setQueue q x).keeperEpoch = s.keeperEpoch := rfl
@[simp] theorem State.setQueue_holder (s : State) (q : QRef) (x : Option Queue) : (s.setQueue q x).holder = s.holder := rfl
@[simp] theorem State.setQueue_lastBeat (s : State) (q : QRef) (x : Option Queue) : (s.setQueue q x).lastBeat = s.lastBeat := rfl
@[simp] theorem State.setQueue_hatch0 (s : State) (q : QRef) (x : Option Queue) : (s.setQueue q x).hatch0 = s.hatch0 := rfl
@[simp] theorem State.setQueue_hatch1 (s : State) (q : QRef) (x : Option Queue) : (s.setQueue q x).hatch1 = s.hatch1 := rfl
@[simp] theorem State.setQueue_journal (s : State) (q : QRef) (x : Option Queue) : (s.setQueue q x).journal = s.journal := rfl
@[simp] theorem State.setQueue_journalNext (s : State) (q : QRef) (x : Option Queue) : (s.setQueue q x).journalNext = s.journalNext := rfl
@[simp] theorem State.setQueue_recover (s : State) (q : QRef) (x : Option Queue) : (s.setQueue q x).recover = s.recover := rfl
@[simp] theorem State.setQueue_stopping (s : State) (q : QRef) (x : Option Queue) : (s.setQueue q x).stopping = s.stopping := rfl
@[simp] theorem State.setQueue_wasStopped (s : State) (q : QRef) (x : Option Queue) : (s.setQueue q x).wasStopped = s.wasStopped := rfl
@[simp] theorem State.setQueue_taking (s : State) (q : QRef) (x : Option Queue) : (s.setQueue q x).taking = s.taking := rfl
@[simp] theorem State.setQueue_merged (s : State) (q : QRef) (x : Option Queue) : (s.setQueue q x).merged = s.merged := rfl
@[simp] theorem State.setQueue_dropped (s : State) (q : QRef) (x : Option Queue) : (s.setQueue q x).dropped = s.dropped := rfl
@[simp] theorem State.setQueue_power (s : State) (q : QRef) (x : Option Queue) : (s.setQueue q x).power = s.power := rfl
@[simp] theorem State.setQueue_coords (s : State) (q : QRef) (x : Option Queue) : (s.setQueue q x).coords = s.coords := rfl
@[simp] theorem State.setQueue_host0 (s : State) (q : QRef) (x : Option Queue) : (s.setQueue q x).host0 = s.host0 := rfl
@[simp] theorem State.setQueue_host1 (s : State) (q : QRef) (x : Option Queue) : (s.setQueue q x).host1 = s.host1 := rfl
@[simp] theorem State.setQueue_primary (s : State) (q : QRef) (x : Option Queue) : (s.setQueue q x).primary = s.primary := rfl
@[simp] theorem State.setQueue_dgValue (s : State) (q : QRef) (x : Option Queue) : (s.setQueue q x).dgValue = s.dgValue := rfl
@[simp] theorem State.setQueue_dgMode (s : State) (q : QRef) (x : Option Queue) : (s.setQueue q x).dgMode = s.dgMode := rfl
@[simp] theorem State.setQueue_dgCtx (s : State) (q : QRef) (x : Option Queue) : (s.setQueue q x).dgCtx = s.dgCtx := rfl
@[simp] theorem State.setQueue_dgVid (s : State) (q : QRef) (x : Option Queue) : (s.setQueue q x).dgVid = s.dgVid := rfl
@[simp] theorem State.setQueue_dgGo (s : State) (q : QRef) (x : Option Queue) : (s.setQueue q x).dgGo = s.dgGo := rfl
@[simp] theorem State.setQueue_block (s : State) (q : QRef) (x : Option Queue) : (s.setQueue q x).block = s.block := rfl
@[simp] theorem State.setQueue_lastFault (s : State) (q : QRef) (x : Option Queue) : (s.setQueue q x).lastFault = s.lastFault := rfl
@[simp] theorem State.setQueue_lastFaultCount (s : State) (q : QRef) (x : Option Queue) : (s.setQueue q x).lastFaultCount = s.lastFaultCount := rfl
@[simp] theorem State.setQueue_inv (s : State) (q : QRef) (x : Option Queue) : (s.setQueue q x).inv = s.inv := rfl
@[simp] theorem State.setQueue_invL0 (s : State) (q : QRef) (x : Option Queue) : (s.setQueue q x).invL0 = s.invL0 := rfl
@[simp] theorem State.setQueue_invL1 (s : State) (q : QRef) (x : Option Queue) : (s.setQueue q x).invL1 = s.invL1 := rfl
@[simp] theorem State.setQueue_inventoryOk (s : State) (q : QRef) (x : Option Queue) : (s.setQueue q x).inventoryOk = s.inventoryOk := rfl
@[simp] theorem State.setQueue_identityOk (s : State) (q : QRef) (x : Option Queue) : (s.setQueue q x).identityOk = s.identityOk := rfl
@[simp] theorem State.setQueue_idKey (s : State) (q : QRef) (x : Option Queue) : (s.setQueue q x).idKey = s.idKey := rfl
@[simp] theorem State.setQueue_packageKeys (s : State) (q : QRef) (x : Option Queue) : (s.setQueue q x).packageKeys = s.packageKeys := rfl
@[simp] theorem State.setQueue_fw (s : State) (q : QRef) (x : Option Queue) : (s.setQueue q x).fw = s.fw := rfl
@[simp] theorem State.setQueue_fwRunning (s : State) (q : QRef) (x : Option Queue) : (s.setQueue q x).fwRunning = s.fwRunning := rfl
@[simp] theorem State.setQueue_svn0 (s : State) (q : QRef) (x : Option Queue) : (s.setQueue q x).svn0 = s.svn0 := rfl
@[simp] theorem State.setQueue_svn1 (s : State) (q : QRef) (x : Option Queue) : (s.setQueue q x).svn1 = s.svn1 := rfl
@[simp] theorem State.setQueue_measured (s : State) (q : QRef) (x : Option Queue) : (s.setQueue q x).measured = s.measured := rfl
@[simp] theorem State.setQueue_sessions (s : State) (q : QRef) (x : Option Queue) : (s.setQueue q x).sessions = s.sessions := rfl
@[simp] theorem State.setQueue_sensors (s : State) (q : QRef) (x : Option Queue) : (s.setQueue q x).sensors = s.sensors := rfl
@[simp] theorem State.setQueue_stateSensors (s : State) (q : QRef) (x : Option Queue) : (s.setQueue q x).stateSensors = s.stateSensors := rfl
@[simp] theorem State.setQueue_eventsFrom (s : State) (q : QRef) (x : Option Queue) : (s.setQueue q x).eventsFrom = s.eventsFrom := rfl
@[simp] theorem State.setQueue_events (s : State) (q : QRef) (x : Option Queue) : (s.setQueue q x).events = s.events := rfl
@[simp] theorem State.setQueue_smbusAddr (s : State) (q : QRef) (x : Option Queue) : (s.setQueue q x).smbusAddr = s.smbusAddr := rfl
@[simp] theorem State.setQueue_irqs (s : State) (q : QRef) (x : Option Queue) : (s.setQueue q x).irqs = s.irqs := rfl
@[simp] theorem State.setQueue_frameOut (s : State) (q : QRef) (x : Option Queue) : (s.setQueue q x).frameOut = s.frameOut := rfl
@[simp] theorem State.setQueue_delivered (s : State) (q : QRef) (x : Option Queue) : (s.setQueue q x).delivered = s.delivered := rfl
@[simp] theorem State.setQueue_packetOut (s : State) (q : QRef) (x : Option Queue) : (s.setQueue q x).packetOut = s.packetOut := rfl
@[simp] theorem State.setQueue_sent (s : State) (q : QRef) (x : Option Queue) : (s.setQueue q x).sent = s.sent := rfl
@[simp] theorem State.setQueue_answers (s : State) (q : QRef) (x : Option Queue) : (s.setQueue q x).answers = s.answers := rfl

/-! ## `State.setSet` changes `sets` only -/

@[simp] theorem State.setSet_pending (s : State) (w : Nat) (x : Option WeightSet) : (s.setSet w x).pending = s.pending := rfl
@[simp] theorem State.setSet_now (s : State) (w : Nat) (x : Option WeightSet) : (s.setSet w x).now = s.now := rfl
@[simp] theorem State.setSet_fresh (s : State) (w : Nat) (x : Option WeightSet) : (s.setSet w x).fresh = s.fresh := rfl
@[simp] theorem State.setSet_pins (s : State) (w : Nat) (x : Option WeightSet) : (s.setSet w x).pins = s.pins := rfl
@[simp] theorem State.setSet_service (s : State) (w : Nat) (x : Option WeightSet) : (s.setSet w x).service = s.service := rfl
@[simp] theorem State.setSet_phase (s : State) (w : Nat) (x : Option WeightSet) : (s.setSet w x).phase = s.phase := rfl
@[simp] theorem State.setSet_halted (s : State) (w : Nat) (x : Option WeightSet) : (s.setSet w x).halted = s.halted := rfl
@[simp] theorem State.setSet_epochBad (s : State) (w : Nat) (x : Option WeightSet) : (s.setSet w x).epochBad = s.epochBad := rfl
@[simp] theorem State.setSet_broken (s : State) (w : Nat) (x : Option WeightSet) : (s.setSet w x).broken = s.broken := rfl
@[simp] theorem State.setSet_admitted (s : State) (w : Nat) (x : Option WeightSet) : (s.setSet w x).admitted = s.admitted := rfl
@[simp] theorem State.setSet_mem (s : State) (w : Nat) (x : Option WeightSet) : (s.setSet w x).mem = s.mem := rfl
@[simp] theorem State.setSet_hostMem (s : State) (w : Nat) (x : Option WeightSet) : (s.setSet w x).hostMem = s.hostMem := rfl
@[simp] theorem State.setSet_marks (s : State) (w : Nat) (x : Option WeightSet) : (s.setSet w x).marks = s.marks := rfl
@[simp] theorem State.setSet_pageErrs (s : State) (w : Nat) (x : Option WeightSet) : (s.setSet w x).pageErrs = s.pageErrs := rfl
@[simp] theorem State.setSet_dies (s : State) (w : Nat) (x : Option WeightSet) : (s.setSet w x).dies = s.dies := rfl
@[simp] theorem State.setSet_cores (s : State) (w : Nat) (x : Option WeightSet) : (s.setSet w x).cores = s.cores := rfl
@[simp] theorem State.setSet_channels (s : State) (w : Nat) (x : Option WeightSet) : (s.setSet w x).channels = s.channels := rfl
@[simp] theorem State.setSet_frames (s : State) (w : Nat) (x : Option WeightSet) : (s.setSet w x).frames = s.frames := rfl
@[simp] theorem State.setSet_owners (s : State) (w : Nat) (x : Option WeightSet) : (s.setSet w x).owners = s.owners := rfl
@[simp] theorem State.setSet_written (s : State) (w : Nat) (x : Option WeightSet) : (s.setSet w x).written = s.written := rfl
@[simp] theorem State.setSet_scrubHours (s : State) (w : Nat) (x : Option WeightSet) : (s.setSet w x).scrubHours = s.scrubHours := rfl
@[simp] theorem State.setSet_spareFrames (s : State) (w : Nat) (x : Option WeightSet) : (s.setSet w x).spareFrames = s.spareFrames := rfl
@[simp] theorem State.setSet_contexts (s : State) (w : Nat) (x : Option WeightSet) : (s.setSet w x).contexts = s.contexts := rfl
@[simp] theorem State.setSet_queues (s : State) (w : Nat) (x : Option WeightSet) : (s.setSet w x).queues = s.queues := rfl
@[simp] theorem State.setSet_serial (s : State) (w : Nat) (x : Option WeightSet) : (s.setSet w x).serial = s.serial := rfl
@[simp] theorem State.setSet_crates (s : State) (w : Nat) (x : Option WeightSet) : (s.setSet w x).crates = s.crates := rfl
@[simp] theorem State.setSet_crateNext (s : State) (w : Nat) (x : Option WeightSet) : (s.setSet w x).crateNext = s.crateNext := rfl
@[simp] theorem State.setSet_tallyMsgs (s : State) (w : Nat) (x : Option WeightSet) : (s.setSet w x).tallyMsgs = s.tallyMsgs := rfl
@[simp] theorem State.setSet_meshWait (s : State) (w : Nat) (x : Option WeightSet) : (s.setSet w x).meshWait = s.meshWait := rfl
@[simp] theorem State.setSet_ports (s : State) (w : Nat) (x : Option WeightSet) : (s.setSet w x).ports = s.ports := rfl
@[simp] theorem State.setSet_pkgId (s : State) (w : Nat) (x : Option WeightSet) : (s.setSet w x).pkgId = s.pkgId := rfl
@[simp] theorem State.setSet_flows (s : State) (w : Nat) (x : Option WeightSet) : (s.setSet w x).flows = s.flows := rfl
@[simp] theorem State.setSet_rxFlows (s : State) (w : Nat) (x : Option WeightSet) : (s.setSet w x).rxFlows = s.rxFlows := rfl
@[simp] theorem State.setSet_transits (s : State) (w : Nat) (x : Option WeightSet) : (s.setSet w x).transits = s.transits := rfl
@[simp] theorem State.setSet_groups (s : State) (w : Nat) (x : Option WeightSet) : (s.setSet w x).groups = s.groups := rfl
@[simp] theorem State.setSet_pathJobs (s : State) (w : Nat) (x : Option WeightSet) : (s.setSet w x).pathJobs = s.pathJobs := rfl
@[simp] theorem State.setSet_time (s : State) (w : Nat) (x : Option WeightSet) : (s.setSet w x).time = s.time := rfl
@[simp] theorem State.setSet_keeper0 (s : State) (w : Nat) (x : Option WeightSet) : (s.setSet w x).keeper0 = s.keeper0 := rfl
@[simp] theorem State.setSet_keeper1 (s : State) (w : Nat) (x : Option WeightSet) : (s.setSet w x).keeper1 = s.keeper1 := rfl
@[simp] theorem State.setSet_keeperEpoch (s : State) (w : Nat) (x : Option WeightSet) : (s.setSet w x).keeperEpoch = s.keeperEpoch := rfl
@[simp] theorem State.setSet_holder (s : State) (w : Nat) (x : Option WeightSet) : (s.setSet w x).holder = s.holder := rfl
@[simp] theorem State.setSet_lastBeat (s : State) (w : Nat) (x : Option WeightSet) : (s.setSet w x).lastBeat = s.lastBeat := rfl
@[simp] theorem State.setSet_hatch0 (s : State) (w : Nat) (x : Option WeightSet) : (s.setSet w x).hatch0 = s.hatch0 := rfl
@[simp] theorem State.setSet_hatch1 (s : State) (w : Nat) (x : Option WeightSet) : (s.setSet w x).hatch1 = s.hatch1 := rfl
@[simp] theorem State.setSet_journal (s : State) (w : Nat) (x : Option WeightSet) : (s.setSet w x).journal = s.journal := rfl
@[simp] theorem State.setSet_journalNext (s : State) (w : Nat) (x : Option WeightSet) : (s.setSet w x).journalNext = s.journalNext := rfl
@[simp] theorem State.setSet_recover (s : State) (w : Nat) (x : Option WeightSet) : (s.setSet w x).recover = s.recover := rfl
@[simp] theorem State.setSet_stopping (s : State) (w : Nat) (x : Option WeightSet) : (s.setSet w x).stopping = s.stopping := rfl
@[simp] theorem State.setSet_wasStopped (s : State) (w : Nat) (x : Option WeightSet) : (s.setSet w x).wasStopped = s.wasStopped := rfl
@[simp] theorem State.setSet_taking (s : State) (w : Nat) (x : Option WeightSet) : (s.setSet w x).taking = s.taking := rfl
@[simp] theorem State.setSet_merged (s : State) (w : Nat) (x : Option WeightSet) : (s.setSet w x).merged = s.merged := rfl
@[simp] theorem State.setSet_dropped (s : State) (w : Nat) (x : Option WeightSet) : (s.setSet w x).dropped = s.dropped := rfl
@[simp] theorem State.setSet_power (s : State) (w : Nat) (x : Option WeightSet) : (s.setSet w x).power = s.power := rfl
@[simp] theorem State.setSet_coords (s : State) (w : Nat) (x : Option WeightSet) : (s.setSet w x).coords = s.coords := rfl
@[simp] theorem State.setSet_host0 (s : State) (w : Nat) (x : Option WeightSet) : (s.setSet w x).host0 = s.host0 := rfl
@[simp] theorem State.setSet_host1 (s : State) (w : Nat) (x : Option WeightSet) : (s.setSet w x).host1 = s.host1 := rfl
@[simp] theorem State.setSet_primary (s : State) (w : Nat) (x : Option WeightSet) : (s.setSet w x).primary = s.primary := rfl
@[simp] theorem State.setSet_dgValue (s : State) (w : Nat) (x : Option WeightSet) : (s.setSet w x).dgValue = s.dgValue := rfl
@[simp] theorem State.setSet_dgMode (s : State) (w : Nat) (x : Option WeightSet) : (s.setSet w x).dgMode = s.dgMode := rfl
@[simp] theorem State.setSet_dgCtx (s : State) (w : Nat) (x : Option WeightSet) : (s.setSet w x).dgCtx = s.dgCtx := rfl
@[simp] theorem State.setSet_dgVid (s : State) (w : Nat) (x : Option WeightSet) : (s.setSet w x).dgVid = s.dgVid := rfl
@[simp] theorem State.setSet_dgGo (s : State) (w : Nat) (x : Option WeightSet) : (s.setSet w x).dgGo = s.dgGo := rfl
@[simp] theorem State.setSet_block (s : State) (w : Nat) (x : Option WeightSet) : (s.setSet w x).block = s.block := rfl
@[simp] theorem State.setSet_lastFault (s : State) (w : Nat) (x : Option WeightSet) : (s.setSet w x).lastFault = s.lastFault := rfl
@[simp] theorem State.setSet_lastFaultCount (s : State) (w : Nat) (x : Option WeightSet) : (s.setSet w x).lastFaultCount = s.lastFaultCount := rfl
@[simp] theorem State.setSet_inv (s : State) (w : Nat) (x : Option WeightSet) : (s.setSet w x).inv = s.inv := rfl
@[simp] theorem State.setSet_invL0 (s : State) (w : Nat) (x : Option WeightSet) : (s.setSet w x).invL0 = s.invL0 := rfl
@[simp] theorem State.setSet_invL1 (s : State) (w : Nat) (x : Option WeightSet) : (s.setSet w x).invL1 = s.invL1 := rfl
@[simp] theorem State.setSet_inventoryOk (s : State) (w : Nat) (x : Option WeightSet) : (s.setSet w x).inventoryOk = s.inventoryOk := rfl
@[simp] theorem State.setSet_identityOk (s : State) (w : Nat) (x : Option WeightSet) : (s.setSet w x).identityOk = s.identityOk := rfl
@[simp] theorem State.setSet_idKey (s : State) (w : Nat) (x : Option WeightSet) : (s.setSet w x).idKey = s.idKey := rfl
@[simp] theorem State.setSet_packageKeys (s : State) (w : Nat) (x : Option WeightSet) : (s.setSet w x).packageKeys = s.packageKeys := rfl
@[simp] theorem State.setSet_fw (s : State) (w : Nat) (x : Option WeightSet) : (s.setSet w x).fw = s.fw := rfl
@[simp] theorem State.setSet_fwRunning (s : State) (w : Nat) (x : Option WeightSet) : (s.setSet w x).fwRunning = s.fwRunning := rfl
@[simp] theorem State.setSet_svn0 (s : State) (w : Nat) (x : Option WeightSet) : (s.setSet w x).svn0 = s.svn0 := rfl
@[simp] theorem State.setSet_svn1 (s : State) (w : Nat) (x : Option WeightSet) : (s.setSet w x).svn1 = s.svn1 := rfl
@[simp] theorem State.setSet_measured (s : State) (w : Nat) (x : Option WeightSet) : (s.setSet w x).measured = s.measured := rfl
@[simp] theorem State.setSet_sessions (s : State) (w : Nat) (x : Option WeightSet) : (s.setSet w x).sessions = s.sessions := rfl
@[simp] theorem State.setSet_sensors (s : State) (w : Nat) (x : Option WeightSet) : (s.setSet w x).sensors = s.sensors := rfl
@[simp] theorem State.setSet_stateSensors (s : State) (w : Nat) (x : Option WeightSet) : (s.setSet w x).stateSensors = s.stateSensors := rfl
@[simp] theorem State.setSet_eventsFrom (s : State) (w : Nat) (x : Option WeightSet) : (s.setSet w x).eventsFrom = s.eventsFrom := rfl
@[simp] theorem State.setSet_events (s : State) (w : Nat) (x : Option WeightSet) : (s.setSet w x).events = s.events := rfl
@[simp] theorem State.setSet_smbusAddr (s : State) (w : Nat) (x : Option WeightSet) : (s.setSet w x).smbusAddr = s.smbusAddr := rfl
@[simp] theorem State.setSet_irqs (s : State) (w : Nat) (x : Option WeightSet) : (s.setSet w x).irqs = s.irqs := rfl
@[simp] theorem State.setSet_frameOut (s : State) (w : Nat) (x : Option WeightSet) : (s.setSet w x).frameOut = s.frameOut := rfl
@[simp] theorem State.setSet_delivered (s : State) (w : Nat) (x : Option WeightSet) : (s.setSet w x).delivered = s.delivered := rfl
@[simp] theorem State.setSet_packetOut (s : State) (w : Nat) (x : Option WeightSet) : (s.setSet w x).packetOut = s.packetOut := rfl
@[simp] theorem State.setSet_sent (s : State) (w : Nat) (x : Option WeightSet) : (s.setSet w x).sent = s.sent := rfl
@[simp] theorem State.setSet_answers (s : State) (w : Nat) (x : Option WeightSet) : (s.setSet w x).answers = s.answers := rfl

/-! ## `State.setCoord` changes `coords` only -/

@[simp] theorem State.setCoord_pending (s : State) (j : Nat) (x : Option Coord) : (s.setCoord j x).pending = s.pending := rfl
@[simp] theorem State.setCoord_now (s : State) (j : Nat) (x : Option Coord) : (s.setCoord j x).now = s.now := rfl
@[simp] theorem State.setCoord_fresh (s : State) (j : Nat) (x : Option Coord) : (s.setCoord j x).fresh = s.fresh := rfl
@[simp] theorem State.setCoord_pins (s : State) (j : Nat) (x : Option Coord) : (s.setCoord j x).pins = s.pins := rfl
@[simp] theorem State.setCoord_service (s : State) (j : Nat) (x : Option Coord) : (s.setCoord j x).service = s.service := rfl
@[simp] theorem State.setCoord_phase (s : State) (j : Nat) (x : Option Coord) : (s.setCoord j x).phase = s.phase := rfl
@[simp] theorem State.setCoord_halted (s : State) (j : Nat) (x : Option Coord) : (s.setCoord j x).halted = s.halted := rfl
@[simp] theorem State.setCoord_epochBad (s : State) (j : Nat) (x : Option Coord) : (s.setCoord j x).epochBad = s.epochBad := rfl
@[simp] theorem State.setCoord_broken (s : State) (j : Nat) (x : Option Coord) : (s.setCoord j x).broken = s.broken := rfl
@[simp] theorem State.setCoord_admitted (s : State) (j : Nat) (x : Option Coord) : (s.setCoord j x).admitted = s.admitted := rfl
@[simp] theorem State.setCoord_mem (s : State) (j : Nat) (x : Option Coord) : (s.setCoord j x).mem = s.mem := rfl
@[simp] theorem State.setCoord_hostMem (s : State) (j : Nat) (x : Option Coord) : (s.setCoord j x).hostMem = s.hostMem := rfl
@[simp] theorem State.setCoord_marks (s : State) (j : Nat) (x : Option Coord) : (s.setCoord j x).marks = s.marks := rfl
@[simp] theorem State.setCoord_pageErrs (s : State) (j : Nat) (x : Option Coord) : (s.setCoord j x).pageErrs = s.pageErrs := rfl
@[simp] theorem State.setCoord_dies (s : State) (j : Nat) (x : Option Coord) : (s.setCoord j x).dies = s.dies := rfl
@[simp] theorem State.setCoord_cores (s : State) (j : Nat) (x : Option Coord) : (s.setCoord j x).cores = s.cores := rfl
@[simp] theorem State.setCoord_channels (s : State) (j : Nat) (x : Option Coord) : (s.setCoord j x).channels = s.channels := rfl
@[simp] theorem State.setCoord_frames (s : State) (j : Nat) (x : Option Coord) : (s.setCoord j x).frames = s.frames := rfl
@[simp] theorem State.setCoord_owners (s : State) (j : Nat) (x : Option Coord) : (s.setCoord j x).owners = s.owners := rfl
@[simp] theorem State.setCoord_written (s : State) (j : Nat) (x : Option Coord) : (s.setCoord j x).written = s.written := rfl
@[simp] theorem State.setCoord_scrubHours (s : State) (j : Nat) (x : Option Coord) : (s.setCoord j x).scrubHours = s.scrubHours := rfl
@[simp] theorem State.setCoord_spareFrames (s : State) (j : Nat) (x : Option Coord) : (s.setCoord j x).spareFrames = s.spareFrames := rfl
@[simp] theorem State.setCoord_contexts (s : State) (j : Nat) (x : Option Coord) : (s.setCoord j x).contexts = s.contexts := rfl
@[simp] theorem State.setCoord_queues (s : State) (j : Nat) (x : Option Coord) : (s.setCoord j x).queues = s.queues := rfl
@[simp] theorem State.setCoord_serial (s : State) (j : Nat) (x : Option Coord) : (s.setCoord j x).serial = s.serial := rfl
@[simp] theorem State.setCoord_sets (s : State) (j : Nat) (x : Option Coord) : (s.setCoord j x).sets = s.sets := rfl
@[simp] theorem State.setCoord_crates (s : State) (j : Nat) (x : Option Coord) : (s.setCoord j x).crates = s.crates := rfl
@[simp] theorem State.setCoord_crateNext (s : State) (j : Nat) (x : Option Coord) : (s.setCoord j x).crateNext = s.crateNext := rfl
@[simp] theorem State.setCoord_tallyMsgs (s : State) (j : Nat) (x : Option Coord) : (s.setCoord j x).tallyMsgs = s.tallyMsgs := rfl
@[simp] theorem State.setCoord_meshWait (s : State) (j : Nat) (x : Option Coord) : (s.setCoord j x).meshWait = s.meshWait := rfl
@[simp] theorem State.setCoord_ports (s : State) (j : Nat) (x : Option Coord) : (s.setCoord j x).ports = s.ports := rfl
@[simp] theorem State.setCoord_pkgId (s : State) (j : Nat) (x : Option Coord) : (s.setCoord j x).pkgId = s.pkgId := rfl
@[simp] theorem State.setCoord_flows (s : State) (j : Nat) (x : Option Coord) : (s.setCoord j x).flows = s.flows := rfl
@[simp] theorem State.setCoord_rxFlows (s : State) (j : Nat) (x : Option Coord) : (s.setCoord j x).rxFlows = s.rxFlows := rfl
@[simp] theorem State.setCoord_transits (s : State) (j : Nat) (x : Option Coord) : (s.setCoord j x).transits = s.transits := rfl
@[simp] theorem State.setCoord_groups (s : State) (j : Nat) (x : Option Coord) : (s.setCoord j x).groups = s.groups := rfl
@[simp] theorem State.setCoord_pathJobs (s : State) (j : Nat) (x : Option Coord) : (s.setCoord j x).pathJobs = s.pathJobs := rfl
@[simp] theorem State.setCoord_time (s : State) (j : Nat) (x : Option Coord) : (s.setCoord j x).time = s.time := rfl
@[simp] theorem State.setCoord_keeper0 (s : State) (j : Nat) (x : Option Coord) : (s.setCoord j x).keeper0 = s.keeper0 := rfl
@[simp] theorem State.setCoord_keeper1 (s : State) (j : Nat) (x : Option Coord) : (s.setCoord j x).keeper1 = s.keeper1 := rfl
@[simp] theorem State.setCoord_keeperEpoch (s : State) (j : Nat) (x : Option Coord) : (s.setCoord j x).keeperEpoch = s.keeperEpoch := rfl
@[simp] theorem State.setCoord_holder (s : State) (j : Nat) (x : Option Coord) : (s.setCoord j x).holder = s.holder := rfl
@[simp] theorem State.setCoord_lastBeat (s : State) (j : Nat) (x : Option Coord) : (s.setCoord j x).lastBeat = s.lastBeat := rfl
@[simp] theorem State.setCoord_hatch0 (s : State) (j : Nat) (x : Option Coord) : (s.setCoord j x).hatch0 = s.hatch0 := rfl
@[simp] theorem State.setCoord_hatch1 (s : State) (j : Nat) (x : Option Coord) : (s.setCoord j x).hatch1 = s.hatch1 := rfl
@[simp] theorem State.setCoord_journal (s : State) (j : Nat) (x : Option Coord) : (s.setCoord j x).journal = s.journal := rfl
@[simp] theorem State.setCoord_journalNext (s : State) (j : Nat) (x : Option Coord) : (s.setCoord j x).journalNext = s.journalNext := rfl
@[simp] theorem State.setCoord_recover (s : State) (j : Nat) (x : Option Coord) : (s.setCoord j x).recover = s.recover := rfl
@[simp] theorem State.setCoord_stopping (s : State) (j : Nat) (x : Option Coord) : (s.setCoord j x).stopping = s.stopping := rfl
@[simp] theorem State.setCoord_wasStopped (s : State) (j : Nat) (x : Option Coord) : (s.setCoord j x).wasStopped = s.wasStopped := rfl
@[simp] theorem State.setCoord_taking (s : State) (j : Nat) (x : Option Coord) : (s.setCoord j x).taking = s.taking := rfl
@[simp] theorem State.setCoord_merged (s : State) (j : Nat) (x : Option Coord) : (s.setCoord j x).merged = s.merged := rfl
@[simp] theorem State.setCoord_dropped (s : State) (j : Nat) (x : Option Coord) : (s.setCoord j x).dropped = s.dropped := rfl
@[simp] theorem State.setCoord_power (s : State) (j : Nat) (x : Option Coord) : (s.setCoord j x).power = s.power := rfl
@[simp] theorem State.setCoord_host0 (s : State) (j : Nat) (x : Option Coord) : (s.setCoord j x).host0 = s.host0 := rfl
@[simp] theorem State.setCoord_host1 (s : State) (j : Nat) (x : Option Coord) : (s.setCoord j x).host1 = s.host1 := rfl
@[simp] theorem State.setCoord_primary (s : State) (j : Nat) (x : Option Coord) : (s.setCoord j x).primary = s.primary := rfl
@[simp] theorem State.setCoord_dgValue (s : State) (j : Nat) (x : Option Coord) : (s.setCoord j x).dgValue = s.dgValue := rfl
@[simp] theorem State.setCoord_dgMode (s : State) (j : Nat) (x : Option Coord) : (s.setCoord j x).dgMode = s.dgMode := rfl
@[simp] theorem State.setCoord_dgCtx (s : State) (j : Nat) (x : Option Coord) : (s.setCoord j x).dgCtx = s.dgCtx := rfl
@[simp] theorem State.setCoord_dgVid (s : State) (j : Nat) (x : Option Coord) : (s.setCoord j x).dgVid = s.dgVid := rfl
@[simp] theorem State.setCoord_dgGo (s : State) (j : Nat) (x : Option Coord) : (s.setCoord j x).dgGo = s.dgGo := rfl
@[simp] theorem State.setCoord_block (s : State) (j : Nat) (x : Option Coord) : (s.setCoord j x).block = s.block := rfl
@[simp] theorem State.setCoord_lastFault (s : State) (j : Nat) (x : Option Coord) : (s.setCoord j x).lastFault = s.lastFault := rfl
@[simp] theorem State.setCoord_lastFaultCount (s : State) (j : Nat) (x : Option Coord) : (s.setCoord j x).lastFaultCount = s.lastFaultCount := rfl
@[simp] theorem State.setCoord_inv (s : State) (j : Nat) (x : Option Coord) : (s.setCoord j x).inv = s.inv := rfl
@[simp] theorem State.setCoord_invL0 (s : State) (j : Nat) (x : Option Coord) : (s.setCoord j x).invL0 = s.invL0 := rfl
@[simp] theorem State.setCoord_invL1 (s : State) (j : Nat) (x : Option Coord) : (s.setCoord j x).invL1 = s.invL1 := rfl
@[simp] theorem State.setCoord_inventoryOk (s : State) (j : Nat) (x : Option Coord) : (s.setCoord j x).inventoryOk = s.inventoryOk := rfl
@[simp] theorem State.setCoord_identityOk (s : State) (j : Nat) (x : Option Coord) : (s.setCoord j x).identityOk = s.identityOk := rfl
@[simp] theorem State.setCoord_idKey (s : State) (j : Nat) (x : Option Coord) : (s.setCoord j x).idKey = s.idKey := rfl
@[simp] theorem State.setCoord_packageKeys (s : State) (j : Nat) (x : Option Coord) : (s.setCoord j x).packageKeys = s.packageKeys := rfl
@[simp] theorem State.setCoord_fw (s : State) (j : Nat) (x : Option Coord) : (s.setCoord j x).fw = s.fw := rfl
@[simp] theorem State.setCoord_fwRunning (s : State) (j : Nat) (x : Option Coord) : (s.setCoord j x).fwRunning = s.fwRunning := rfl
@[simp] theorem State.setCoord_svn0 (s : State) (j : Nat) (x : Option Coord) : (s.setCoord j x).svn0 = s.svn0 := rfl
@[simp] theorem State.setCoord_svn1 (s : State) (j : Nat) (x : Option Coord) : (s.setCoord j x).svn1 = s.svn1 := rfl
@[simp] theorem State.setCoord_measured (s : State) (j : Nat) (x : Option Coord) : (s.setCoord j x).measured = s.measured := rfl
@[simp] theorem State.setCoord_sessions (s : State) (j : Nat) (x : Option Coord) : (s.setCoord j x).sessions = s.sessions := rfl
@[simp] theorem State.setCoord_sensors (s : State) (j : Nat) (x : Option Coord) : (s.setCoord j x).sensors = s.sensors := rfl
@[simp] theorem State.setCoord_stateSensors (s : State) (j : Nat) (x : Option Coord) : (s.setCoord j x).stateSensors = s.stateSensors := rfl
@[simp] theorem State.setCoord_eventsFrom (s : State) (j : Nat) (x : Option Coord) : (s.setCoord j x).eventsFrom = s.eventsFrom := rfl
@[simp] theorem State.setCoord_events (s : State) (j : Nat) (x : Option Coord) : (s.setCoord j x).events = s.events := rfl
@[simp] theorem State.setCoord_smbusAddr (s : State) (j : Nat) (x : Option Coord) : (s.setCoord j x).smbusAddr = s.smbusAddr := rfl
@[simp] theorem State.setCoord_irqs (s : State) (j : Nat) (x : Option Coord) : (s.setCoord j x).irqs = s.irqs := rfl
@[simp] theorem State.setCoord_frameOut (s : State) (j : Nat) (x : Option Coord) : (s.setCoord j x).frameOut = s.frameOut := rfl
@[simp] theorem State.setCoord_delivered (s : State) (j : Nat) (x : Option Coord) : (s.setCoord j x).delivered = s.delivered := rfl
@[simp] theorem State.setCoord_packetOut (s : State) (j : Nat) (x : Option Coord) : (s.setCoord j x).packetOut = s.packetOut := rfl
@[simp] theorem State.setCoord_sent (s : State) (j : Nat) (x : Option Coord) : (s.setCoord j x).sent = s.sent := rfl
@[simp] theorem State.setCoord_answers (s : State) (j : Nat) (x : Option Coord) : (s.setCoord j x).answers = s.answers := rfl

/-! ## `State.answer` changes `answers` only -/

@[simp] theorem State.answer_pending (s : State) (kind : String) (who : Nat) (words : List Word) : (s.answer kind who words).pending = s.pending := rfl
@[simp] theorem State.answer_now (s : State) (kind : String) (who : Nat) (words : List Word) : (s.answer kind who words).now = s.now := rfl
@[simp] theorem State.answer_fresh (s : State) (kind : String) (who : Nat) (words : List Word) : (s.answer kind who words).fresh = s.fresh := rfl
@[simp] theorem State.answer_pins (s : State) (kind : String) (who : Nat) (words : List Word) : (s.answer kind who words).pins = s.pins := rfl
@[simp] theorem State.answer_service (s : State) (kind : String) (who : Nat) (words : List Word) : (s.answer kind who words).service = s.service := rfl
@[simp] theorem State.answer_phase (s : State) (kind : String) (who : Nat) (words : List Word) : (s.answer kind who words).phase = s.phase := rfl
@[simp] theorem State.answer_halted (s : State) (kind : String) (who : Nat) (words : List Word) : (s.answer kind who words).halted = s.halted := rfl
@[simp] theorem State.answer_epochBad (s : State) (kind : String) (who : Nat) (words : List Word) : (s.answer kind who words).epochBad = s.epochBad := rfl
@[simp] theorem State.answer_broken (s : State) (kind : String) (who : Nat) (words : List Word) : (s.answer kind who words).broken = s.broken := rfl
@[simp] theorem State.answer_admitted (s : State) (kind : String) (who : Nat) (words : List Word) : (s.answer kind who words).admitted = s.admitted := rfl
@[simp] theorem State.answer_mem (s : State) (kind : String) (who : Nat) (words : List Word) : (s.answer kind who words).mem = s.mem := rfl
@[simp] theorem State.answer_hostMem (s : State) (kind : String) (who : Nat) (words : List Word) : (s.answer kind who words).hostMem = s.hostMem := rfl
@[simp] theorem State.answer_marks (s : State) (kind : String) (who : Nat) (words : List Word) : (s.answer kind who words).marks = s.marks := rfl
@[simp] theorem State.answer_pageErrs (s : State) (kind : String) (who : Nat) (words : List Word) : (s.answer kind who words).pageErrs = s.pageErrs := rfl
@[simp] theorem State.answer_dies (s : State) (kind : String) (who : Nat) (words : List Word) : (s.answer kind who words).dies = s.dies := rfl
@[simp] theorem State.answer_cores (s : State) (kind : String) (who : Nat) (words : List Word) : (s.answer kind who words).cores = s.cores := rfl
@[simp] theorem State.answer_channels (s : State) (kind : String) (who : Nat) (words : List Word) : (s.answer kind who words).channels = s.channels := rfl
@[simp] theorem State.answer_frames (s : State) (kind : String) (who : Nat) (words : List Word) : (s.answer kind who words).frames = s.frames := rfl
@[simp] theorem State.answer_owners (s : State) (kind : String) (who : Nat) (words : List Word) : (s.answer kind who words).owners = s.owners := rfl
@[simp] theorem State.answer_written (s : State) (kind : String) (who : Nat) (words : List Word) : (s.answer kind who words).written = s.written := rfl
@[simp] theorem State.answer_scrubHours (s : State) (kind : String) (who : Nat) (words : List Word) : (s.answer kind who words).scrubHours = s.scrubHours := rfl
@[simp] theorem State.answer_spareFrames (s : State) (kind : String) (who : Nat) (words : List Word) : (s.answer kind who words).spareFrames = s.spareFrames := rfl
@[simp] theorem State.answer_contexts (s : State) (kind : String) (who : Nat) (words : List Word) : (s.answer kind who words).contexts = s.contexts := rfl
@[simp] theorem State.answer_queues (s : State) (kind : String) (who : Nat) (words : List Word) : (s.answer kind who words).queues = s.queues := rfl
@[simp] theorem State.answer_serial (s : State) (kind : String) (who : Nat) (words : List Word) : (s.answer kind who words).serial = s.serial := rfl
@[simp] theorem State.answer_sets (s : State) (kind : String) (who : Nat) (words : List Word) : (s.answer kind who words).sets = s.sets := rfl
@[simp] theorem State.answer_crates (s : State) (kind : String) (who : Nat) (words : List Word) : (s.answer kind who words).crates = s.crates := rfl
@[simp] theorem State.answer_crateNext (s : State) (kind : String) (who : Nat) (words : List Word) : (s.answer kind who words).crateNext = s.crateNext := rfl
@[simp] theorem State.answer_tallyMsgs (s : State) (kind : String) (who : Nat) (words : List Word) : (s.answer kind who words).tallyMsgs = s.tallyMsgs := rfl
@[simp] theorem State.answer_meshWait (s : State) (kind : String) (who : Nat) (words : List Word) : (s.answer kind who words).meshWait = s.meshWait := rfl
@[simp] theorem State.answer_ports (s : State) (kind : String) (who : Nat) (words : List Word) : (s.answer kind who words).ports = s.ports := rfl
@[simp] theorem State.answer_pkgId (s : State) (kind : String) (who : Nat) (words : List Word) : (s.answer kind who words).pkgId = s.pkgId := rfl
@[simp] theorem State.answer_flows (s : State) (kind : String) (who : Nat) (words : List Word) : (s.answer kind who words).flows = s.flows := rfl
@[simp] theorem State.answer_rxFlows (s : State) (kind : String) (who : Nat) (words : List Word) : (s.answer kind who words).rxFlows = s.rxFlows := rfl
@[simp] theorem State.answer_transits (s : State) (kind : String) (who : Nat) (words : List Word) : (s.answer kind who words).transits = s.transits := rfl
@[simp] theorem State.answer_groups (s : State) (kind : String) (who : Nat) (words : List Word) : (s.answer kind who words).groups = s.groups := rfl
@[simp] theorem State.answer_pathJobs (s : State) (kind : String) (who : Nat) (words : List Word) : (s.answer kind who words).pathJobs = s.pathJobs := rfl
@[simp] theorem State.answer_time (s : State) (kind : String) (who : Nat) (words : List Word) : (s.answer kind who words).time = s.time := rfl
@[simp] theorem State.answer_keeper0 (s : State) (kind : String) (who : Nat) (words : List Word) : (s.answer kind who words).keeper0 = s.keeper0 := rfl
@[simp] theorem State.answer_keeper1 (s : State) (kind : String) (who : Nat) (words : List Word) : (s.answer kind who words).keeper1 = s.keeper1 := rfl
@[simp] theorem State.answer_keeperEpoch (s : State) (kind : String) (who : Nat) (words : List Word) : (s.answer kind who words).keeperEpoch = s.keeperEpoch := rfl
@[simp] theorem State.answer_holder (s : State) (kind : String) (who : Nat) (words : List Word) : (s.answer kind who words).holder = s.holder := rfl
@[simp] theorem State.answer_lastBeat (s : State) (kind : String) (who : Nat) (words : List Word) : (s.answer kind who words).lastBeat = s.lastBeat := rfl
@[simp] theorem State.answer_hatch0 (s : State) (kind : String) (who : Nat) (words : List Word) : (s.answer kind who words).hatch0 = s.hatch0 := rfl
@[simp] theorem State.answer_hatch1 (s : State) (kind : String) (who : Nat) (words : List Word) : (s.answer kind who words).hatch1 = s.hatch1 := rfl
@[simp] theorem State.answer_journal (s : State) (kind : String) (who : Nat) (words : List Word) : (s.answer kind who words).journal = s.journal := rfl
@[simp] theorem State.answer_journalNext (s : State) (kind : String) (who : Nat) (words : List Word) : (s.answer kind who words).journalNext = s.journalNext := rfl
@[simp] theorem State.answer_recover (s : State) (kind : String) (who : Nat) (words : List Word) : (s.answer kind who words).recover = s.recover := rfl
@[simp] theorem State.answer_stopping (s : State) (kind : String) (who : Nat) (words : List Word) : (s.answer kind who words).stopping = s.stopping := rfl
@[simp] theorem State.answer_wasStopped (s : State) (kind : String) (who : Nat) (words : List Word) : (s.answer kind who words).wasStopped = s.wasStopped := rfl
@[simp] theorem State.answer_taking (s : State) (kind : String) (who : Nat) (words : List Word) : (s.answer kind who words).taking = s.taking := rfl
@[simp] theorem State.answer_merged (s : State) (kind : String) (who : Nat) (words : List Word) : (s.answer kind who words).merged = s.merged := rfl
@[simp] theorem State.answer_dropped (s : State) (kind : String) (who : Nat) (words : List Word) : (s.answer kind who words).dropped = s.dropped := rfl
@[simp] theorem State.answer_power (s : State) (kind : String) (who : Nat) (words : List Word) : (s.answer kind who words).power = s.power := rfl
@[simp] theorem State.answer_coords (s : State) (kind : String) (who : Nat) (words : List Word) : (s.answer kind who words).coords = s.coords := rfl
@[simp] theorem State.answer_host0 (s : State) (kind : String) (who : Nat) (words : List Word) : (s.answer kind who words).host0 = s.host0 := rfl
@[simp] theorem State.answer_host1 (s : State) (kind : String) (who : Nat) (words : List Word) : (s.answer kind who words).host1 = s.host1 := rfl
@[simp] theorem State.answer_primary (s : State) (kind : String) (who : Nat) (words : List Word) : (s.answer kind who words).primary = s.primary := rfl
@[simp] theorem State.answer_dgValue (s : State) (kind : String) (who : Nat) (words : List Word) : (s.answer kind who words).dgValue = s.dgValue := rfl
@[simp] theorem State.answer_dgMode (s : State) (kind : String) (who : Nat) (words : List Word) : (s.answer kind who words).dgMode = s.dgMode := rfl
@[simp] theorem State.answer_dgCtx (s : State) (kind : String) (who : Nat) (words : List Word) : (s.answer kind who words).dgCtx = s.dgCtx := rfl
@[simp] theorem State.answer_dgVid (s : State) (kind : String) (who : Nat) (words : List Word) : (s.answer kind who words).dgVid = s.dgVid := rfl
@[simp] theorem State.answer_dgGo (s : State) (kind : String) (who : Nat) (words : List Word) : (s.answer kind who words).dgGo = s.dgGo := rfl
@[simp] theorem State.answer_block (s : State) (kind : String) (who : Nat) (words : List Word) : (s.answer kind who words).block = s.block := rfl
@[simp] theorem State.answer_lastFault (s : State) (kind : String) (who : Nat) (words : List Word) : (s.answer kind who words).lastFault = s.lastFault := rfl
@[simp] theorem State.answer_lastFaultCount (s : State) (kind : String) (who : Nat) (words : List Word) : (s.answer kind who words).lastFaultCount = s.lastFaultCount := rfl
@[simp] theorem State.answer_inv (s : State) (kind : String) (who : Nat) (words : List Word) : (s.answer kind who words).inv = s.inv := rfl
@[simp] theorem State.answer_invL0 (s : State) (kind : String) (who : Nat) (words : List Word) : (s.answer kind who words).invL0 = s.invL0 := rfl
@[simp] theorem State.answer_invL1 (s : State) (kind : String) (who : Nat) (words : List Word) : (s.answer kind who words).invL1 = s.invL1 := rfl
@[simp] theorem State.answer_inventoryOk (s : State) (kind : String) (who : Nat) (words : List Word) : (s.answer kind who words).inventoryOk = s.inventoryOk := rfl
@[simp] theorem State.answer_identityOk (s : State) (kind : String) (who : Nat) (words : List Word) : (s.answer kind who words).identityOk = s.identityOk := rfl
@[simp] theorem State.answer_idKey (s : State) (kind : String) (who : Nat) (words : List Word) : (s.answer kind who words).idKey = s.idKey := rfl
@[simp] theorem State.answer_packageKeys (s : State) (kind : String) (who : Nat) (words : List Word) : (s.answer kind who words).packageKeys = s.packageKeys := rfl
@[simp] theorem State.answer_fw (s : State) (kind : String) (who : Nat) (words : List Word) : (s.answer kind who words).fw = s.fw := rfl
@[simp] theorem State.answer_fwRunning (s : State) (kind : String) (who : Nat) (words : List Word) : (s.answer kind who words).fwRunning = s.fwRunning := rfl
@[simp] theorem State.answer_svn0 (s : State) (kind : String) (who : Nat) (words : List Word) : (s.answer kind who words).svn0 = s.svn0 := rfl
@[simp] theorem State.answer_svn1 (s : State) (kind : String) (who : Nat) (words : List Word) : (s.answer kind who words).svn1 = s.svn1 := rfl
@[simp] theorem State.answer_measured (s : State) (kind : String) (who : Nat) (words : List Word) : (s.answer kind who words).measured = s.measured := rfl
@[simp] theorem State.answer_sessions (s : State) (kind : String) (who : Nat) (words : List Word) : (s.answer kind who words).sessions = s.sessions := rfl
@[simp] theorem State.answer_sensors (s : State) (kind : String) (who : Nat) (words : List Word) : (s.answer kind who words).sensors = s.sensors := rfl
@[simp] theorem State.answer_stateSensors (s : State) (kind : String) (who : Nat) (words : List Word) : (s.answer kind who words).stateSensors = s.stateSensors := rfl
@[simp] theorem State.answer_eventsFrom (s : State) (kind : String) (who : Nat) (words : List Word) : (s.answer kind who words).eventsFrom = s.eventsFrom := rfl
@[simp] theorem State.answer_events (s : State) (kind : String) (who : Nat) (words : List Word) : (s.answer kind who words).events = s.events := rfl
@[simp] theorem State.answer_smbusAddr (s : State) (kind : String) (who : Nat) (words : List Word) : (s.answer kind who words).smbusAddr = s.smbusAddr := rfl
@[simp] theorem State.answer_irqs (s : State) (kind : String) (who : Nat) (words : List Word) : (s.answer kind who words).irqs = s.irqs := rfl
@[simp] theorem State.answer_frameOut (s : State) (kind : String) (who : Nat) (words : List Word) : (s.answer kind who words).frameOut = s.frameOut := rfl
@[simp] theorem State.answer_delivered (s : State) (kind : String) (who : Nat) (words : List Word) : (s.answer kind who words).delivered = s.delivered := rfl
@[simp] theorem State.answer_packetOut (s : State) (kind : String) (who : Nat) (words : List Word) : (s.answer kind who words).packetOut = s.packetOut := rfl
@[simp] theorem State.answer_sent (s : State) (kind : String) (who : Nat) (words : List Word) : (s.answer kind who words).sent = s.sent := rfl

/-! ## `State.modDie` changes `dies` only -/

@[simp] theorem State.modDie_pending (s : State) (d : Nat) (f : Die → Die) : (s.modDie d f).pending = s.pending := rfl
@[simp] theorem State.modDie_now (s : State) (d : Nat) (f : Die → Die) : (s.modDie d f).now = s.now := rfl
@[simp] theorem State.modDie_fresh (s : State) (d : Nat) (f : Die → Die) : (s.modDie d f).fresh = s.fresh := rfl
@[simp] theorem State.modDie_pins (s : State) (d : Nat) (f : Die → Die) : (s.modDie d f).pins = s.pins := rfl
@[simp] theorem State.modDie_service (s : State) (d : Nat) (f : Die → Die) : (s.modDie d f).service = s.service := rfl
@[simp] theorem State.modDie_phase (s : State) (d : Nat) (f : Die → Die) : (s.modDie d f).phase = s.phase := rfl
@[simp] theorem State.modDie_halted (s : State) (d : Nat) (f : Die → Die) : (s.modDie d f).halted = s.halted := rfl
@[simp] theorem State.modDie_epochBad (s : State) (d : Nat) (f : Die → Die) : (s.modDie d f).epochBad = s.epochBad := rfl
@[simp] theorem State.modDie_broken (s : State) (d : Nat) (f : Die → Die) : (s.modDie d f).broken = s.broken := rfl
@[simp] theorem State.modDie_admitted (s : State) (d : Nat) (f : Die → Die) : (s.modDie d f).admitted = s.admitted := rfl
@[simp] theorem State.modDie_mem (s : State) (d : Nat) (f : Die → Die) : (s.modDie d f).mem = s.mem := rfl
@[simp] theorem State.modDie_hostMem (s : State) (d : Nat) (f : Die → Die) : (s.modDie d f).hostMem = s.hostMem := rfl
@[simp] theorem State.modDie_marks (s : State) (d : Nat) (f : Die → Die) : (s.modDie d f).marks = s.marks := rfl
@[simp] theorem State.modDie_pageErrs (s : State) (d : Nat) (f : Die → Die) : (s.modDie d f).pageErrs = s.pageErrs := rfl
@[simp] theorem State.modDie_cores (s : State) (d : Nat) (f : Die → Die) : (s.modDie d f).cores = s.cores := rfl
@[simp] theorem State.modDie_channels (s : State) (d : Nat) (f : Die → Die) : (s.modDie d f).channels = s.channels := rfl
@[simp] theorem State.modDie_frames (s : State) (d : Nat) (f : Die → Die) : (s.modDie d f).frames = s.frames := rfl
@[simp] theorem State.modDie_owners (s : State) (d : Nat) (f : Die → Die) : (s.modDie d f).owners = s.owners := rfl
@[simp] theorem State.modDie_written (s : State) (d : Nat) (f : Die → Die) : (s.modDie d f).written = s.written := rfl
@[simp] theorem State.modDie_scrubHours (s : State) (d : Nat) (f : Die → Die) : (s.modDie d f).scrubHours = s.scrubHours := rfl
@[simp] theorem State.modDie_spareFrames (s : State) (d : Nat) (f : Die → Die) : (s.modDie d f).spareFrames = s.spareFrames := rfl
@[simp] theorem State.modDie_contexts (s : State) (d : Nat) (f : Die → Die) : (s.modDie d f).contexts = s.contexts := rfl
@[simp] theorem State.modDie_queues (s : State) (d : Nat) (f : Die → Die) : (s.modDie d f).queues = s.queues := rfl
@[simp] theorem State.modDie_serial (s : State) (d : Nat) (f : Die → Die) : (s.modDie d f).serial = s.serial := rfl
@[simp] theorem State.modDie_sets (s : State) (d : Nat) (f : Die → Die) : (s.modDie d f).sets = s.sets := rfl
@[simp] theorem State.modDie_crates (s : State) (d : Nat) (f : Die → Die) : (s.modDie d f).crates = s.crates := rfl
@[simp] theorem State.modDie_crateNext (s : State) (d : Nat) (f : Die → Die) : (s.modDie d f).crateNext = s.crateNext := rfl
@[simp] theorem State.modDie_tallyMsgs (s : State) (d : Nat) (f : Die → Die) : (s.modDie d f).tallyMsgs = s.tallyMsgs := rfl
@[simp] theorem State.modDie_meshWait (s : State) (d : Nat) (f : Die → Die) : (s.modDie d f).meshWait = s.meshWait := rfl
@[simp] theorem State.modDie_ports (s : State) (d : Nat) (f : Die → Die) : (s.modDie d f).ports = s.ports := rfl
@[simp] theorem State.modDie_pkgId (s : State) (d : Nat) (f : Die → Die) : (s.modDie d f).pkgId = s.pkgId := rfl
@[simp] theorem State.modDie_flows (s : State) (d : Nat) (f : Die → Die) : (s.modDie d f).flows = s.flows := rfl
@[simp] theorem State.modDie_rxFlows (s : State) (d : Nat) (f : Die → Die) : (s.modDie d f).rxFlows = s.rxFlows := rfl
@[simp] theorem State.modDie_transits (s : State) (d : Nat) (f : Die → Die) : (s.modDie d f).transits = s.transits := rfl
@[simp] theorem State.modDie_groups (s : State) (d : Nat) (f : Die → Die) : (s.modDie d f).groups = s.groups := rfl
@[simp] theorem State.modDie_pathJobs (s : State) (d : Nat) (f : Die → Die) : (s.modDie d f).pathJobs = s.pathJobs := rfl
@[simp] theorem State.modDie_time (s : State) (d : Nat) (f : Die → Die) : (s.modDie d f).time = s.time := rfl
@[simp] theorem State.modDie_keeper0 (s : State) (d : Nat) (f : Die → Die) : (s.modDie d f).keeper0 = s.keeper0 := rfl
@[simp] theorem State.modDie_keeper1 (s : State) (d : Nat) (f : Die → Die) : (s.modDie d f).keeper1 = s.keeper1 := rfl
@[simp] theorem State.modDie_keeperEpoch (s : State) (d : Nat) (f : Die → Die) : (s.modDie d f).keeperEpoch = s.keeperEpoch := rfl
@[simp] theorem State.modDie_holder (s : State) (d : Nat) (f : Die → Die) : (s.modDie d f).holder = s.holder := rfl
@[simp] theorem State.modDie_lastBeat (s : State) (d : Nat) (f : Die → Die) : (s.modDie d f).lastBeat = s.lastBeat := rfl
@[simp] theorem State.modDie_hatch0 (s : State) (d : Nat) (f : Die → Die) : (s.modDie d f).hatch0 = s.hatch0 := rfl
@[simp] theorem State.modDie_hatch1 (s : State) (d : Nat) (f : Die → Die) : (s.modDie d f).hatch1 = s.hatch1 := rfl
@[simp] theorem State.modDie_journal (s : State) (d : Nat) (f : Die → Die) : (s.modDie d f).journal = s.journal := rfl
@[simp] theorem State.modDie_journalNext (s : State) (d : Nat) (f : Die → Die) : (s.modDie d f).journalNext = s.journalNext := rfl
@[simp] theorem State.modDie_recover (s : State) (d : Nat) (f : Die → Die) : (s.modDie d f).recover = s.recover := rfl
@[simp] theorem State.modDie_stopping (s : State) (d : Nat) (f : Die → Die) : (s.modDie d f).stopping = s.stopping := rfl
@[simp] theorem State.modDie_wasStopped (s : State) (d : Nat) (f : Die → Die) : (s.modDie d f).wasStopped = s.wasStopped := rfl
@[simp] theorem State.modDie_taking (s : State) (d : Nat) (f : Die → Die) : (s.modDie d f).taking = s.taking := rfl
@[simp] theorem State.modDie_merged (s : State) (d : Nat) (f : Die → Die) : (s.modDie d f).merged = s.merged := rfl
@[simp] theorem State.modDie_dropped (s : State) (d : Nat) (f : Die → Die) : (s.modDie d f).dropped = s.dropped := rfl
@[simp] theorem State.modDie_power (s : State) (d : Nat) (f : Die → Die) : (s.modDie d f).power = s.power := rfl
@[simp] theorem State.modDie_coords (s : State) (d : Nat) (f : Die → Die) : (s.modDie d f).coords = s.coords := rfl
@[simp] theorem State.modDie_host0 (s : State) (d : Nat) (f : Die → Die) : (s.modDie d f).host0 = s.host0 := rfl
@[simp] theorem State.modDie_host1 (s : State) (d : Nat) (f : Die → Die) : (s.modDie d f).host1 = s.host1 := rfl
@[simp] theorem State.modDie_primary (s : State) (d : Nat) (f : Die → Die) : (s.modDie d f).primary = s.primary := rfl
@[simp] theorem State.modDie_dgValue (s : State) (d : Nat) (f : Die → Die) : (s.modDie d f).dgValue = s.dgValue := rfl
@[simp] theorem State.modDie_dgMode (s : State) (d : Nat) (f : Die → Die) : (s.modDie d f).dgMode = s.dgMode := rfl
@[simp] theorem State.modDie_dgCtx (s : State) (d : Nat) (f : Die → Die) : (s.modDie d f).dgCtx = s.dgCtx := rfl
@[simp] theorem State.modDie_dgVid (s : State) (d : Nat) (f : Die → Die) : (s.modDie d f).dgVid = s.dgVid := rfl
@[simp] theorem State.modDie_dgGo (s : State) (d : Nat) (f : Die → Die) : (s.modDie d f).dgGo = s.dgGo := rfl
@[simp] theorem State.modDie_block (s : State) (d : Nat) (f : Die → Die) : (s.modDie d f).block = s.block := rfl
@[simp] theorem State.modDie_lastFault (s : State) (d : Nat) (f : Die → Die) : (s.modDie d f).lastFault = s.lastFault := rfl
@[simp] theorem State.modDie_lastFaultCount (s : State) (d : Nat) (f : Die → Die) : (s.modDie d f).lastFaultCount = s.lastFaultCount := rfl
@[simp] theorem State.modDie_inv (s : State) (d : Nat) (f : Die → Die) : (s.modDie d f).inv = s.inv := rfl
@[simp] theorem State.modDie_invL0 (s : State) (d : Nat) (f : Die → Die) : (s.modDie d f).invL0 = s.invL0 := rfl
@[simp] theorem State.modDie_invL1 (s : State) (d : Nat) (f : Die → Die) : (s.modDie d f).invL1 = s.invL1 := rfl
@[simp] theorem State.modDie_inventoryOk (s : State) (d : Nat) (f : Die → Die) : (s.modDie d f).inventoryOk = s.inventoryOk := rfl
@[simp] theorem State.modDie_identityOk (s : State) (d : Nat) (f : Die → Die) : (s.modDie d f).identityOk = s.identityOk := rfl
@[simp] theorem State.modDie_idKey (s : State) (d : Nat) (f : Die → Die) : (s.modDie d f).idKey = s.idKey := rfl
@[simp] theorem State.modDie_packageKeys (s : State) (d : Nat) (f : Die → Die) : (s.modDie d f).packageKeys = s.packageKeys := rfl
@[simp] theorem State.modDie_fw (s : State) (d : Nat) (f : Die → Die) : (s.modDie d f).fw = s.fw := rfl
@[simp] theorem State.modDie_fwRunning (s : State) (d : Nat) (f : Die → Die) : (s.modDie d f).fwRunning = s.fwRunning := rfl
@[simp] theorem State.modDie_svn0 (s : State) (d : Nat) (f : Die → Die) : (s.modDie d f).svn0 = s.svn0 := rfl
@[simp] theorem State.modDie_svn1 (s : State) (d : Nat) (f : Die → Die) : (s.modDie d f).svn1 = s.svn1 := rfl
@[simp] theorem State.modDie_measured (s : State) (d : Nat) (f : Die → Die) : (s.modDie d f).measured = s.measured := rfl
@[simp] theorem State.modDie_sessions (s : State) (d : Nat) (f : Die → Die) : (s.modDie d f).sessions = s.sessions := rfl
@[simp] theorem State.modDie_sensors (s : State) (d : Nat) (f : Die → Die) : (s.modDie d f).sensors = s.sensors := rfl
@[simp] theorem State.modDie_stateSensors (s : State) (d : Nat) (f : Die → Die) : (s.modDie d f).stateSensors = s.stateSensors := rfl
@[simp] theorem State.modDie_eventsFrom (s : State) (d : Nat) (f : Die → Die) : (s.modDie d f).eventsFrom = s.eventsFrom := rfl
@[simp] theorem State.modDie_events (s : State) (d : Nat) (f : Die → Die) : (s.modDie d f).events = s.events := rfl
@[simp] theorem State.modDie_smbusAddr (s : State) (d : Nat) (f : Die → Die) : (s.modDie d f).smbusAddr = s.smbusAddr := rfl
@[simp] theorem State.modDie_irqs (s : State) (d : Nat) (f : Die → Die) : (s.modDie d f).irqs = s.irqs := rfl
@[simp] theorem State.modDie_frameOut (s : State) (d : Nat) (f : Die → Die) : (s.modDie d f).frameOut = s.frameOut := rfl
@[simp] theorem State.modDie_delivered (s : State) (d : Nat) (f : Die → Die) : (s.modDie d f).delivered = s.delivered := rfl
@[simp] theorem State.modDie_packetOut (s : State) (d : Nat) (f : Die → Die) : (s.modDie d f).packetOut = s.packetOut := rfl
@[simp] theorem State.modDie_sent (s : State) (d : Nat) (f : Die → Die) : (s.modDie d f).sent = s.sent := rfl
@[simp] theorem State.modDie_answers (s : State) (d : Nat) (f : Die → Die) : (s.modDie d f).answers = s.answers := rfl

/-! ## `State.modCore` changes `cores` only -/

@[simp] theorem State.modCore_pending (s : State) (c : Nat) (f : Core → Core) : (s.modCore c f).pending = s.pending := rfl
@[simp] theorem State.modCore_now (s : State) (c : Nat) (f : Core → Core) : (s.modCore c f).now = s.now := rfl
@[simp] theorem State.modCore_fresh (s : State) (c : Nat) (f : Core → Core) : (s.modCore c f).fresh = s.fresh := rfl
@[simp] theorem State.modCore_pins (s : State) (c : Nat) (f : Core → Core) : (s.modCore c f).pins = s.pins := rfl
@[simp] theorem State.modCore_service (s : State) (c : Nat) (f : Core → Core) : (s.modCore c f).service = s.service := rfl
@[simp] theorem State.modCore_phase (s : State) (c : Nat) (f : Core → Core) : (s.modCore c f).phase = s.phase := rfl
@[simp] theorem State.modCore_halted (s : State) (c : Nat) (f : Core → Core) : (s.modCore c f).halted = s.halted := rfl
@[simp] theorem State.modCore_epochBad (s : State) (c : Nat) (f : Core → Core) : (s.modCore c f).epochBad = s.epochBad := rfl
@[simp] theorem State.modCore_broken (s : State) (c : Nat) (f : Core → Core) : (s.modCore c f).broken = s.broken := rfl
@[simp] theorem State.modCore_admitted (s : State) (c : Nat) (f : Core → Core) : (s.modCore c f).admitted = s.admitted := rfl
@[simp] theorem State.modCore_mem (s : State) (c : Nat) (f : Core → Core) : (s.modCore c f).mem = s.mem := rfl
@[simp] theorem State.modCore_hostMem (s : State) (c : Nat) (f : Core → Core) : (s.modCore c f).hostMem = s.hostMem := rfl
@[simp] theorem State.modCore_marks (s : State) (c : Nat) (f : Core → Core) : (s.modCore c f).marks = s.marks := rfl
@[simp] theorem State.modCore_pageErrs (s : State) (c : Nat) (f : Core → Core) : (s.modCore c f).pageErrs = s.pageErrs := rfl
@[simp] theorem State.modCore_dies (s : State) (c : Nat) (f : Core → Core) : (s.modCore c f).dies = s.dies := rfl
@[simp] theorem State.modCore_channels (s : State) (c : Nat) (f : Core → Core) : (s.modCore c f).channels = s.channels := rfl
@[simp] theorem State.modCore_frames (s : State) (c : Nat) (f : Core → Core) : (s.modCore c f).frames = s.frames := rfl
@[simp] theorem State.modCore_owners (s : State) (c : Nat) (f : Core → Core) : (s.modCore c f).owners = s.owners := rfl
@[simp] theorem State.modCore_written (s : State) (c : Nat) (f : Core → Core) : (s.modCore c f).written = s.written := rfl
@[simp] theorem State.modCore_scrubHours (s : State) (c : Nat) (f : Core → Core) : (s.modCore c f).scrubHours = s.scrubHours := rfl
@[simp] theorem State.modCore_spareFrames (s : State) (c : Nat) (f : Core → Core) : (s.modCore c f).spareFrames = s.spareFrames := rfl
@[simp] theorem State.modCore_contexts (s : State) (c : Nat) (f : Core → Core) : (s.modCore c f).contexts = s.contexts := rfl
@[simp] theorem State.modCore_queues (s : State) (c : Nat) (f : Core → Core) : (s.modCore c f).queues = s.queues := rfl
@[simp] theorem State.modCore_serial (s : State) (c : Nat) (f : Core → Core) : (s.modCore c f).serial = s.serial := rfl
@[simp] theorem State.modCore_sets (s : State) (c : Nat) (f : Core → Core) : (s.modCore c f).sets = s.sets := rfl
@[simp] theorem State.modCore_crates (s : State) (c : Nat) (f : Core → Core) : (s.modCore c f).crates = s.crates := rfl
@[simp] theorem State.modCore_crateNext (s : State) (c : Nat) (f : Core → Core) : (s.modCore c f).crateNext = s.crateNext := rfl
@[simp] theorem State.modCore_tallyMsgs (s : State) (c : Nat) (f : Core → Core) : (s.modCore c f).tallyMsgs = s.tallyMsgs := rfl
@[simp] theorem State.modCore_meshWait (s : State) (c : Nat) (f : Core → Core) : (s.modCore c f).meshWait = s.meshWait := rfl
@[simp] theorem State.modCore_ports (s : State) (c : Nat) (f : Core → Core) : (s.modCore c f).ports = s.ports := rfl
@[simp] theorem State.modCore_pkgId (s : State) (c : Nat) (f : Core → Core) : (s.modCore c f).pkgId = s.pkgId := rfl
@[simp] theorem State.modCore_flows (s : State) (c : Nat) (f : Core → Core) : (s.modCore c f).flows = s.flows := rfl
@[simp] theorem State.modCore_rxFlows (s : State) (c : Nat) (f : Core → Core) : (s.modCore c f).rxFlows = s.rxFlows := rfl
@[simp] theorem State.modCore_transits (s : State) (c : Nat) (f : Core → Core) : (s.modCore c f).transits = s.transits := rfl
@[simp] theorem State.modCore_groups (s : State) (c : Nat) (f : Core → Core) : (s.modCore c f).groups = s.groups := rfl
@[simp] theorem State.modCore_pathJobs (s : State) (c : Nat) (f : Core → Core) : (s.modCore c f).pathJobs = s.pathJobs := rfl
@[simp] theorem State.modCore_time (s : State) (c : Nat) (f : Core → Core) : (s.modCore c f).time = s.time := rfl
@[simp] theorem State.modCore_keeper0 (s : State) (c : Nat) (f : Core → Core) : (s.modCore c f).keeper0 = s.keeper0 := rfl
@[simp] theorem State.modCore_keeper1 (s : State) (c : Nat) (f : Core → Core) : (s.modCore c f).keeper1 = s.keeper1 := rfl
@[simp] theorem State.modCore_keeperEpoch (s : State) (c : Nat) (f : Core → Core) : (s.modCore c f).keeperEpoch = s.keeperEpoch := rfl
@[simp] theorem State.modCore_holder (s : State) (c : Nat) (f : Core → Core) : (s.modCore c f).holder = s.holder := rfl
@[simp] theorem State.modCore_lastBeat (s : State) (c : Nat) (f : Core → Core) : (s.modCore c f).lastBeat = s.lastBeat := rfl
@[simp] theorem State.modCore_hatch0 (s : State) (c : Nat) (f : Core → Core) : (s.modCore c f).hatch0 = s.hatch0 := rfl
@[simp] theorem State.modCore_hatch1 (s : State) (c : Nat) (f : Core → Core) : (s.modCore c f).hatch1 = s.hatch1 := rfl
@[simp] theorem State.modCore_journal (s : State) (c : Nat) (f : Core → Core) : (s.modCore c f).journal = s.journal := rfl
@[simp] theorem State.modCore_journalNext (s : State) (c : Nat) (f : Core → Core) : (s.modCore c f).journalNext = s.journalNext := rfl
@[simp] theorem State.modCore_recover (s : State) (c : Nat) (f : Core → Core) : (s.modCore c f).recover = s.recover := rfl
@[simp] theorem State.modCore_stopping (s : State) (c : Nat) (f : Core → Core) : (s.modCore c f).stopping = s.stopping := rfl
@[simp] theorem State.modCore_wasStopped (s : State) (c : Nat) (f : Core → Core) : (s.modCore c f).wasStopped = s.wasStopped := rfl
@[simp] theorem State.modCore_taking (s : State) (c : Nat) (f : Core → Core) : (s.modCore c f).taking = s.taking := rfl
@[simp] theorem State.modCore_merged (s : State) (c : Nat) (f : Core → Core) : (s.modCore c f).merged = s.merged := rfl
@[simp] theorem State.modCore_dropped (s : State) (c : Nat) (f : Core → Core) : (s.modCore c f).dropped = s.dropped := rfl
@[simp] theorem State.modCore_power (s : State) (c : Nat) (f : Core → Core) : (s.modCore c f).power = s.power := rfl
@[simp] theorem State.modCore_coords (s : State) (c : Nat) (f : Core → Core) : (s.modCore c f).coords = s.coords := rfl
@[simp] theorem State.modCore_host0 (s : State) (c : Nat) (f : Core → Core) : (s.modCore c f).host0 = s.host0 := rfl
@[simp] theorem State.modCore_host1 (s : State) (c : Nat) (f : Core → Core) : (s.modCore c f).host1 = s.host1 := rfl
@[simp] theorem State.modCore_primary (s : State) (c : Nat) (f : Core → Core) : (s.modCore c f).primary = s.primary := rfl
@[simp] theorem State.modCore_dgValue (s : State) (c : Nat) (f : Core → Core) : (s.modCore c f).dgValue = s.dgValue := rfl
@[simp] theorem State.modCore_dgMode (s : State) (c : Nat) (f : Core → Core) : (s.modCore c f).dgMode = s.dgMode := rfl
@[simp] theorem State.modCore_dgCtx (s : State) (c : Nat) (f : Core → Core) : (s.modCore c f).dgCtx = s.dgCtx := rfl
@[simp] theorem State.modCore_dgVid (s : State) (c : Nat) (f : Core → Core) : (s.modCore c f).dgVid = s.dgVid := rfl
@[simp] theorem State.modCore_dgGo (s : State) (c : Nat) (f : Core → Core) : (s.modCore c f).dgGo = s.dgGo := rfl
@[simp] theorem State.modCore_block (s : State) (c : Nat) (f : Core → Core) : (s.modCore c f).block = s.block := rfl
@[simp] theorem State.modCore_lastFault (s : State) (c : Nat) (f : Core → Core) : (s.modCore c f).lastFault = s.lastFault := rfl
@[simp] theorem State.modCore_lastFaultCount (s : State) (c : Nat) (f : Core → Core) : (s.modCore c f).lastFaultCount = s.lastFaultCount := rfl
@[simp] theorem State.modCore_inv (s : State) (c : Nat) (f : Core → Core) : (s.modCore c f).inv = s.inv := rfl
@[simp] theorem State.modCore_invL0 (s : State) (c : Nat) (f : Core → Core) : (s.modCore c f).invL0 = s.invL0 := rfl
@[simp] theorem State.modCore_invL1 (s : State) (c : Nat) (f : Core → Core) : (s.modCore c f).invL1 = s.invL1 := rfl
@[simp] theorem State.modCore_inventoryOk (s : State) (c : Nat) (f : Core → Core) : (s.modCore c f).inventoryOk = s.inventoryOk := rfl
@[simp] theorem State.modCore_identityOk (s : State) (c : Nat) (f : Core → Core) : (s.modCore c f).identityOk = s.identityOk := rfl
@[simp] theorem State.modCore_idKey (s : State) (c : Nat) (f : Core → Core) : (s.modCore c f).idKey = s.idKey := rfl
@[simp] theorem State.modCore_packageKeys (s : State) (c : Nat) (f : Core → Core) : (s.modCore c f).packageKeys = s.packageKeys := rfl
@[simp] theorem State.modCore_fw (s : State) (c : Nat) (f : Core → Core) : (s.modCore c f).fw = s.fw := rfl
@[simp] theorem State.modCore_fwRunning (s : State) (c : Nat) (f : Core → Core) : (s.modCore c f).fwRunning = s.fwRunning := rfl
@[simp] theorem State.modCore_svn0 (s : State) (c : Nat) (f : Core → Core) : (s.modCore c f).svn0 = s.svn0 := rfl
@[simp] theorem State.modCore_svn1 (s : State) (c : Nat) (f : Core → Core) : (s.modCore c f).svn1 = s.svn1 := rfl
@[simp] theorem State.modCore_measured (s : State) (c : Nat) (f : Core → Core) : (s.modCore c f).measured = s.measured := rfl
@[simp] theorem State.modCore_sessions (s : State) (c : Nat) (f : Core → Core) : (s.modCore c f).sessions = s.sessions := rfl
@[simp] theorem State.modCore_sensors (s : State) (c : Nat) (f : Core → Core) : (s.modCore c f).sensors = s.sensors := rfl
@[simp] theorem State.modCore_stateSensors (s : State) (c : Nat) (f : Core → Core) : (s.modCore c f).stateSensors = s.stateSensors := rfl
@[simp] theorem State.modCore_eventsFrom (s : State) (c : Nat) (f : Core → Core) : (s.modCore c f).eventsFrom = s.eventsFrom := rfl
@[simp] theorem State.modCore_events (s : State) (c : Nat) (f : Core → Core) : (s.modCore c f).events = s.events := rfl
@[simp] theorem State.modCore_smbusAddr (s : State) (c : Nat) (f : Core → Core) : (s.modCore c f).smbusAddr = s.smbusAddr := rfl
@[simp] theorem State.modCore_irqs (s : State) (c : Nat) (f : Core → Core) : (s.modCore c f).irqs = s.irqs := rfl
@[simp] theorem State.modCore_frameOut (s : State) (c : Nat) (f : Core → Core) : (s.modCore c f).frameOut = s.frameOut := rfl
@[simp] theorem State.modCore_delivered (s : State) (c : Nat) (f : Core → Core) : (s.modCore c f).delivered = s.delivered := rfl
@[simp] theorem State.modCore_packetOut (s : State) (c : Nat) (f : Core → Core) : (s.modCore c f).packetOut = s.packetOut := rfl
@[simp] theorem State.modCore_sent (s : State) (c : Nat) (f : Core → Core) : (s.modCore c f).sent = s.sent := rfl
@[simp] theorem State.modCore_answers (s : State) (c : Nat) (f : Core → Core) : (s.modCore c f).answers = s.answers := rfl

/-! ## `State.modPort` changes `ports` only -/

@[simp] theorem State.modPort_pending (s : State) (p : Nat) (f : Port → Port) : (s.modPort p f).pending = s.pending := rfl
@[simp] theorem State.modPort_now (s : State) (p : Nat) (f : Port → Port) : (s.modPort p f).now = s.now := rfl
@[simp] theorem State.modPort_fresh (s : State) (p : Nat) (f : Port → Port) : (s.modPort p f).fresh = s.fresh := rfl
@[simp] theorem State.modPort_pins (s : State) (p : Nat) (f : Port → Port) : (s.modPort p f).pins = s.pins := rfl
@[simp] theorem State.modPort_service (s : State) (p : Nat) (f : Port → Port) : (s.modPort p f).service = s.service := rfl
@[simp] theorem State.modPort_phase (s : State) (p : Nat) (f : Port → Port) : (s.modPort p f).phase = s.phase := rfl
@[simp] theorem State.modPort_halted (s : State) (p : Nat) (f : Port → Port) : (s.modPort p f).halted = s.halted := rfl
@[simp] theorem State.modPort_epochBad (s : State) (p : Nat) (f : Port → Port) : (s.modPort p f).epochBad = s.epochBad := rfl
@[simp] theorem State.modPort_broken (s : State) (p : Nat) (f : Port → Port) : (s.modPort p f).broken = s.broken := rfl
@[simp] theorem State.modPort_admitted (s : State) (p : Nat) (f : Port → Port) : (s.modPort p f).admitted = s.admitted := rfl
@[simp] theorem State.modPort_mem (s : State) (p : Nat) (f : Port → Port) : (s.modPort p f).mem = s.mem := rfl
@[simp] theorem State.modPort_hostMem (s : State) (p : Nat) (f : Port → Port) : (s.modPort p f).hostMem = s.hostMem := rfl
@[simp] theorem State.modPort_marks (s : State) (p : Nat) (f : Port → Port) : (s.modPort p f).marks = s.marks := rfl
@[simp] theorem State.modPort_pageErrs (s : State) (p : Nat) (f : Port → Port) : (s.modPort p f).pageErrs = s.pageErrs := rfl
@[simp] theorem State.modPort_dies (s : State) (p : Nat) (f : Port → Port) : (s.modPort p f).dies = s.dies := rfl
@[simp] theorem State.modPort_cores (s : State) (p : Nat) (f : Port → Port) : (s.modPort p f).cores = s.cores := rfl
@[simp] theorem State.modPort_channels (s : State) (p : Nat) (f : Port → Port) : (s.modPort p f).channels = s.channels := rfl
@[simp] theorem State.modPort_frames (s : State) (p : Nat) (f : Port → Port) : (s.modPort p f).frames = s.frames := rfl
@[simp] theorem State.modPort_owners (s : State) (p : Nat) (f : Port → Port) : (s.modPort p f).owners = s.owners := rfl
@[simp] theorem State.modPort_written (s : State) (p : Nat) (f : Port → Port) : (s.modPort p f).written = s.written := rfl
@[simp] theorem State.modPort_scrubHours (s : State) (p : Nat) (f : Port → Port) : (s.modPort p f).scrubHours = s.scrubHours := rfl
@[simp] theorem State.modPort_spareFrames (s : State) (p : Nat) (f : Port → Port) : (s.modPort p f).spareFrames = s.spareFrames := rfl
@[simp] theorem State.modPort_contexts (s : State) (p : Nat) (f : Port → Port) : (s.modPort p f).contexts = s.contexts := rfl
@[simp] theorem State.modPort_queues (s : State) (p : Nat) (f : Port → Port) : (s.modPort p f).queues = s.queues := rfl
@[simp] theorem State.modPort_serial (s : State) (p : Nat) (f : Port → Port) : (s.modPort p f).serial = s.serial := rfl
@[simp] theorem State.modPort_sets (s : State) (p : Nat) (f : Port → Port) : (s.modPort p f).sets = s.sets := rfl
@[simp] theorem State.modPort_crates (s : State) (p : Nat) (f : Port → Port) : (s.modPort p f).crates = s.crates := rfl
@[simp] theorem State.modPort_crateNext (s : State) (p : Nat) (f : Port → Port) : (s.modPort p f).crateNext = s.crateNext := rfl
@[simp] theorem State.modPort_tallyMsgs (s : State) (p : Nat) (f : Port → Port) : (s.modPort p f).tallyMsgs = s.tallyMsgs := rfl
@[simp] theorem State.modPort_meshWait (s : State) (p : Nat) (f : Port → Port) : (s.modPort p f).meshWait = s.meshWait := rfl
@[simp] theorem State.modPort_pkgId (s : State) (p : Nat) (f : Port → Port) : (s.modPort p f).pkgId = s.pkgId := rfl
@[simp] theorem State.modPort_flows (s : State) (p : Nat) (f : Port → Port) : (s.modPort p f).flows = s.flows := rfl
@[simp] theorem State.modPort_rxFlows (s : State) (p : Nat) (f : Port → Port) : (s.modPort p f).rxFlows = s.rxFlows := rfl
@[simp] theorem State.modPort_transits (s : State) (p : Nat) (f : Port → Port) : (s.modPort p f).transits = s.transits := rfl
@[simp] theorem State.modPort_groups (s : State) (p : Nat) (f : Port → Port) : (s.modPort p f).groups = s.groups := rfl
@[simp] theorem State.modPort_pathJobs (s : State) (p : Nat) (f : Port → Port) : (s.modPort p f).pathJobs = s.pathJobs := rfl
@[simp] theorem State.modPort_time (s : State) (p : Nat) (f : Port → Port) : (s.modPort p f).time = s.time := rfl
@[simp] theorem State.modPort_keeper0 (s : State) (p : Nat) (f : Port → Port) : (s.modPort p f).keeper0 = s.keeper0 := rfl
@[simp] theorem State.modPort_keeper1 (s : State) (p : Nat) (f : Port → Port) : (s.modPort p f).keeper1 = s.keeper1 := rfl
@[simp] theorem State.modPort_keeperEpoch (s : State) (p : Nat) (f : Port → Port) : (s.modPort p f).keeperEpoch = s.keeperEpoch := rfl
@[simp] theorem State.modPort_holder (s : State) (p : Nat) (f : Port → Port) : (s.modPort p f).holder = s.holder := rfl
@[simp] theorem State.modPort_lastBeat (s : State) (p : Nat) (f : Port → Port) : (s.modPort p f).lastBeat = s.lastBeat := rfl
@[simp] theorem State.modPort_hatch0 (s : State) (p : Nat) (f : Port → Port) : (s.modPort p f).hatch0 = s.hatch0 := rfl
@[simp] theorem State.modPort_hatch1 (s : State) (p : Nat) (f : Port → Port) : (s.modPort p f).hatch1 = s.hatch1 := rfl
@[simp] theorem State.modPort_journal (s : State) (p : Nat) (f : Port → Port) : (s.modPort p f).journal = s.journal := rfl
@[simp] theorem State.modPort_journalNext (s : State) (p : Nat) (f : Port → Port) : (s.modPort p f).journalNext = s.journalNext := rfl
@[simp] theorem State.modPort_recover (s : State) (p : Nat) (f : Port → Port) : (s.modPort p f).recover = s.recover := rfl
@[simp] theorem State.modPort_stopping (s : State) (p : Nat) (f : Port → Port) : (s.modPort p f).stopping = s.stopping := rfl
@[simp] theorem State.modPort_wasStopped (s : State) (p : Nat) (f : Port → Port) : (s.modPort p f).wasStopped = s.wasStopped := rfl
@[simp] theorem State.modPort_taking (s : State) (p : Nat) (f : Port → Port) : (s.modPort p f).taking = s.taking := rfl
@[simp] theorem State.modPort_merged (s : State) (p : Nat) (f : Port → Port) : (s.modPort p f).merged = s.merged := rfl
@[simp] theorem State.modPort_dropped (s : State) (p : Nat) (f : Port → Port) : (s.modPort p f).dropped = s.dropped := rfl
@[simp] theorem State.modPort_power (s : State) (p : Nat) (f : Port → Port) : (s.modPort p f).power = s.power := rfl
@[simp] theorem State.modPort_coords (s : State) (p : Nat) (f : Port → Port) : (s.modPort p f).coords = s.coords := rfl
@[simp] theorem State.modPort_host0 (s : State) (p : Nat) (f : Port → Port) : (s.modPort p f).host0 = s.host0 := rfl
@[simp] theorem State.modPort_host1 (s : State) (p : Nat) (f : Port → Port) : (s.modPort p f).host1 = s.host1 := rfl
@[simp] theorem State.modPort_primary (s : State) (p : Nat) (f : Port → Port) : (s.modPort p f).primary = s.primary := rfl
@[simp] theorem State.modPort_dgValue (s : State) (p : Nat) (f : Port → Port) : (s.modPort p f).dgValue = s.dgValue := rfl
@[simp] theorem State.modPort_dgMode (s : State) (p : Nat) (f : Port → Port) : (s.modPort p f).dgMode = s.dgMode := rfl
@[simp] theorem State.modPort_dgCtx (s : State) (p : Nat) (f : Port → Port) : (s.modPort p f).dgCtx = s.dgCtx := rfl
@[simp] theorem State.modPort_dgVid (s : State) (p : Nat) (f : Port → Port) : (s.modPort p f).dgVid = s.dgVid := rfl
@[simp] theorem State.modPort_dgGo (s : State) (p : Nat) (f : Port → Port) : (s.modPort p f).dgGo = s.dgGo := rfl
@[simp] theorem State.modPort_block (s : State) (p : Nat) (f : Port → Port) : (s.modPort p f).block = s.block := rfl
@[simp] theorem State.modPort_lastFault (s : State) (p : Nat) (f : Port → Port) : (s.modPort p f).lastFault = s.lastFault := rfl
@[simp] theorem State.modPort_lastFaultCount (s : State) (p : Nat) (f : Port → Port) : (s.modPort p f).lastFaultCount = s.lastFaultCount := rfl
@[simp] theorem State.modPort_inv (s : State) (p : Nat) (f : Port → Port) : (s.modPort p f).inv = s.inv := rfl
@[simp] theorem State.modPort_invL0 (s : State) (p : Nat) (f : Port → Port) : (s.modPort p f).invL0 = s.invL0 := rfl
@[simp] theorem State.modPort_invL1 (s : State) (p : Nat) (f : Port → Port) : (s.modPort p f).invL1 = s.invL1 := rfl
@[simp] theorem State.modPort_inventoryOk (s : State) (p : Nat) (f : Port → Port) : (s.modPort p f).inventoryOk = s.inventoryOk := rfl
@[simp] theorem State.modPort_identityOk (s : State) (p : Nat) (f : Port → Port) : (s.modPort p f).identityOk = s.identityOk := rfl
@[simp] theorem State.modPort_idKey (s : State) (p : Nat) (f : Port → Port) : (s.modPort p f).idKey = s.idKey := rfl
@[simp] theorem State.modPort_packageKeys (s : State) (p : Nat) (f : Port → Port) : (s.modPort p f).packageKeys = s.packageKeys := rfl
@[simp] theorem State.modPort_fw (s : State) (p : Nat) (f : Port → Port) : (s.modPort p f).fw = s.fw := rfl
@[simp] theorem State.modPort_fwRunning (s : State) (p : Nat) (f : Port → Port) : (s.modPort p f).fwRunning = s.fwRunning := rfl
@[simp] theorem State.modPort_svn0 (s : State) (p : Nat) (f : Port → Port) : (s.modPort p f).svn0 = s.svn0 := rfl
@[simp] theorem State.modPort_svn1 (s : State) (p : Nat) (f : Port → Port) : (s.modPort p f).svn1 = s.svn1 := rfl
@[simp] theorem State.modPort_measured (s : State) (p : Nat) (f : Port → Port) : (s.modPort p f).measured = s.measured := rfl
@[simp] theorem State.modPort_sessions (s : State) (p : Nat) (f : Port → Port) : (s.modPort p f).sessions = s.sessions := rfl
@[simp] theorem State.modPort_sensors (s : State) (p : Nat) (f : Port → Port) : (s.modPort p f).sensors = s.sensors := rfl
@[simp] theorem State.modPort_stateSensors (s : State) (p : Nat) (f : Port → Port) : (s.modPort p f).stateSensors = s.stateSensors := rfl
@[simp] theorem State.modPort_eventsFrom (s : State) (p : Nat) (f : Port → Port) : (s.modPort p f).eventsFrom = s.eventsFrom := rfl
@[simp] theorem State.modPort_events (s : State) (p : Nat) (f : Port → Port) : (s.modPort p f).events = s.events := rfl
@[simp] theorem State.modPort_smbusAddr (s : State) (p : Nat) (f : Port → Port) : (s.modPort p f).smbusAddr = s.smbusAddr := rfl
@[simp] theorem State.modPort_irqs (s : State) (p : Nat) (f : Port → Port) : (s.modPort p f).irqs = s.irqs := rfl
@[simp] theorem State.modPort_frameOut (s : State) (p : Nat) (f : Port → Port) : (s.modPort p f).frameOut = s.frameOut := rfl
@[simp] theorem State.modPort_delivered (s : State) (p : Nat) (f : Port → Port) : (s.modPort p f).delivered = s.delivered := rfl
@[simp] theorem State.modPort_packetOut (s : State) (p : Nat) (f : Port → Port) : (s.modPort p f).packetOut = s.packetOut := rfl
@[simp] theorem State.modPort_sent (s : State) (p : Nat) (f : Port → Port) : (s.modPort p f).sent = s.sent := rfl
@[simp] theorem State.modPort_answers (s : State) (p : Nat) (f : Port → Port) : (s.modPort p f).answers = s.answers := rfl

/-! ## `State.modChannel` changes `channels` only -/

@[simp] theorem State.modChannel_pending (s : State) (c : Nat) (f : Channel → Channel) : (s.modChannel c f).pending = s.pending := rfl
@[simp] theorem State.modChannel_now (s : State) (c : Nat) (f : Channel → Channel) : (s.modChannel c f).now = s.now := rfl
@[simp] theorem State.modChannel_fresh (s : State) (c : Nat) (f : Channel → Channel) : (s.modChannel c f).fresh = s.fresh := rfl
@[simp] theorem State.modChannel_pins (s : State) (c : Nat) (f : Channel → Channel) : (s.modChannel c f).pins = s.pins := rfl
@[simp] theorem State.modChannel_service (s : State) (c : Nat) (f : Channel → Channel) : (s.modChannel c f).service = s.service := rfl
@[simp] theorem State.modChannel_phase (s : State) (c : Nat) (f : Channel → Channel) : (s.modChannel c f).phase = s.phase := rfl
@[simp] theorem State.modChannel_halted (s : State) (c : Nat) (f : Channel → Channel) : (s.modChannel c f).halted = s.halted := rfl
@[simp] theorem State.modChannel_epochBad (s : State) (c : Nat) (f : Channel → Channel) : (s.modChannel c f).epochBad = s.epochBad := rfl
@[simp] theorem State.modChannel_broken (s : State) (c : Nat) (f : Channel → Channel) : (s.modChannel c f).broken = s.broken := rfl
@[simp] theorem State.modChannel_admitted (s : State) (c : Nat) (f : Channel → Channel) : (s.modChannel c f).admitted = s.admitted := rfl
@[simp] theorem State.modChannel_mem (s : State) (c : Nat) (f : Channel → Channel) : (s.modChannel c f).mem = s.mem := rfl
@[simp] theorem State.modChannel_hostMem (s : State) (c : Nat) (f : Channel → Channel) : (s.modChannel c f).hostMem = s.hostMem := rfl
@[simp] theorem State.modChannel_marks (s : State) (c : Nat) (f : Channel → Channel) : (s.modChannel c f).marks = s.marks := rfl
@[simp] theorem State.modChannel_pageErrs (s : State) (c : Nat) (f : Channel → Channel) : (s.modChannel c f).pageErrs = s.pageErrs := rfl
@[simp] theorem State.modChannel_dies (s : State) (c : Nat) (f : Channel → Channel) : (s.modChannel c f).dies = s.dies := rfl
@[simp] theorem State.modChannel_cores (s : State) (c : Nat) (f : Channel → Channel) : (s.modChannel c f).cores = s.cores := rfl
@[simp] theorem State.modChannel_frames (s : State) (c : Nat) (f : Channel → Channel) : (s.modChannel c f).frames = s.frames := rfl
@[simp] theorem State.modChannel_owners (s : State) (c : Nat) (f : Channel → Channel) : (s.modChannel c f).owners = s.owners := rfl
@[simp] theorem State.modChannel_written (s : State) (c : Nat) (f : Channel → Channel) : (s.modChannel c f).written = s.written := rfl
@[simp] theorem State.modChannel_scrubHours (s : State) (c : Nat) (f : Channel → Channel) : (s.modChannel c f).scrubHours = s.scrubHours := rfl
@[simp] theorem State.modChannel_spareFrames (s : State) (c : Nat) (f : Channel → Channel) : (s.modChannel c f).spareFrames = s.spareFrames := rfl
@[simp] theorem State.modChannel_contexts (s : State) (c : Nat) (f : Channel → Channel) : (s.modChannel c f).contexts = s.contexts := rfl
@[simp] theorem State.modChannel_queues (s : State) (c : Nat) (f : Channel → Channel) : (s.modChannel c f).queues = s.queues := rfl
@[simp] theorem State.modChannel_serial (s : State) (c : Nat) (f : Channel → Channel) : (s.modChannel c f).serial = s.serial := rfl
@[simp] theorem State.modChannel_sets (s : State) (c : Nat) (f : Channel → Channel) : (s.modChannel c f).sets = s.sets := rfl
@[simp] theorem State.modChannel_crates (s : State) (c : Nat) (f : Channel → Channel) : (s.modChannel c f).crates = s.crates := rfl
@[simp] theorem State.modChannel_crateNext (s : State) (c : Nat) (f : Channel → Channel) : (s.modChannel c f).crateNext = s.crateNext := rfl
@[simp] theorem State.modChannel_tallyMsgs (s : State) (c : Nat) (f : Channel → Channel) : (s.modChannel c f).tallyMsgs = s.tallyMsgs := rfl
@[simp] theorem State.modChannel_meshWait (s : State) (c : Nat) (f : Channel → Channel) : (s.modChannel c f).meshWait = s.meshWait := rfl
@[simp] theorem State.modChannel_ports (s : State) (c : Nat) (f : Channel → Channel) : (s.modChannel c f).ports = s.ports := rfl
@[simp] theorem State.modChannel_pkgId (s : State) (c : Nat) (f : Channel → Channel) : (s.modChannel c f).pkgId = s.pkgId := rfl
@[simp] theorem State.modChannel_flows (s : State) (c : Nat) (f : Channel → Channel) : (s.modChannel c f).flows = s.flows := rfl
@[simp] theorem State.modChannel_rxFlows (s : State) (c : Nat) (f : Channel → Channel) : (s.modChannel c f).rxFlows = s.rxFlows := rfl
@[simp] theorem State.modChannel_transits (s : State) (c : Nat) (f : Channel → Channel) : (s.modChannel c f).transits = s.transits := rfl
@[simp] theorem State.modChannel_groups (s : State) (c : Nat) (f : Channel → Channel) : (s.modChannel c f).groups = s.groups := rfl
@[simp] theorem State.modChannel_pathJobs (s : State) (c : Nat) (f : Channel → Channel) : (s.modChannel c f).pathJobs = s.pathJobs := rfl
@[simp] theorem State.modChannel_time (s : State) (c : Nat) (f : Channel → Channel) : (s.modChannel c f).time = s.time := rfl
@[simp] theorem State.modChannel_keeper0 (s : State) (c : Nat) (f : Channel → Channel) : (s.modChannel c f).keeper0 = s.keeper0 := rfl
@[simp] theorem State.modChannel_keeper1 (s : State) (c : Nat) (f : Channel → Channel) : (s.modChannel c f).keeper1 = s.keeper1 := rfl
@[simp] theorem State.modChannel_keeperEpoch (s : State) (c : Nat) (f : Channel → Channel) : (s.modChannel c f).keeperEpoch = s.keeperEpoch := rfl
@[simp] theorem State.modChannel_holder (s : State) (c : Nat) (f : Channel → Channel) : (s.modChannel c f).holder = s.holder := rfl
@[simp] theorem State.modChannel_lastBeat (s : State) (c : Nat) (f : Channel → Channel) : (s.modChannel c f).lastBeat = s.lastBeat := rfl
@[simp] theorem State.modChannel_hatch0 (s : State) (c : Nat) (f : Channel → Channel) : (s.modChannel c f).hatch0 = s.hatch0 := rfl
@[simp] theorem State.modChannel_hatch1 (s : State) (c : Nat) (f : Channel → Channel) : (s.modChannel c f).hatch1 = s.hatch1 := rfl
@[simp] theorem State.modChannel_journal (s : State) (c : Nat) (f : Channel → Channel) : (s.modChannel c f).journal = s.journal := rfl
@[simp] theorem State.modChannel_journalNext (s : State) (c : Nat) (f : Channel → Channel) : (s.modChannel c f).journalNext = s.journalNext := rfl
@[simp] theorem State.modChannel_recover (s : State) (c : Nat) (f : Channel → Channel) : (s.modChannel c f).recover = s.recover := rfl
@[simp] theorem State.modChannel_stopping (s : State) (c : Nat) (f : Channel → Channel) : (s.modChannel c f).stopping = s.stopping := rfl
@[simp] theorem State.modChannel_wasStopped (s : State) (c : Nat) (f : Channel → Channel) : (s.modChannel c f).wasStopped = s.wasStopped := rfl
@[simp] theorem State.modChannel_taking (s : State) (c : Nat) (f : Channel → Channel) : (s.modChannel c f).taking = s.taking := rfl
@[simp] theorem State.modChannel_merged (s : State) (c : Nat) (f : Channel → Channel) : (s.modChannel c f).merged = s.merged := rfl
@[simp] theorem State.modChannel_dropped (s : State) (c : Nat) (f : Channel → Channel) : (s.modChannel c f).dropped = s.dropped := rfl
@[simp] theorem State.modChannel_power (s : State) (c : Nat) (f : Channel → Channel) : (s.modChannel c f).power = s.power := rfl
@[simp] theorem State.modChannel_coords (s : State) (c : Nat) (f : Channel → Channel) : (s.modChannel c f).coords = s.coords := rfl
@[simp] theorem State.modChannel_host0 (s : State) (c : Nat) (f : Channel → Channel) : (s.modChannel c f).host0 = s.host0 := rfl
@[simp] theorem State.modChannel_host1 (s : State) (c : Nat) (f : Channel → Channel) : (s.modChannel c f).host1 = s.host1 := rfl
@[simp] theorem State.modChannel_primary (s : State) (c : Nat) (f : Channel → Channel) : (s.modChannel c f).primary = s.primary := rfl
@[simp] theorem State.modChannel_dgValue (s : State) (c : Nat) (f : Channel → Channel) : (s.modChannel c f).dgValue = s.dgValue := rfl
@[simp] theorem State.modChannel_dgMode (s : State) (c : Nat) (f : Channel → Channel) : (s.modChannel c f).dgMode = s.dgMode := rfl
@[simp] theorem State.modChannel_dgCtx (s : State) (c : Nat) (f : Channel → Channel) : (s.modChannel c f).dgCtx = s.dgCtx := rfl
@[simp] theorem State.modChannel_dgVid (s : State) (c : Nat) (f : Channel → Channel) : (s.modChannel c f).dgVid = s.dgVid := rfl
@[simp] theorem State.modChannel_dgGo (s : State) (c : Nat) (f : Channel → Channel) : (s.modChannel c f).dgGo = s.dgGo := rfl
@[simp] theorem State.modChannel_block (s : State) (c : Nat) (f : Channel → Channel) : (s.modChannel c f).block = s.block := rfl
@[simp] theorem State.modChannel_lastFault (s : State) (c : Nat) (f : Channel → Channel) : (s.modChannel c f).lastFault = s.lastFault := rfl
@[simp] theorem State.modChannel_lastFaultCount (s : State) (c : Nat) (f : Channel → Channel) : (s.modChannel c f).lastFaultCount = s.lastFaultCount := rfl
@[simp] theorem State.modChannel_inv (s : State) (c : Nat) (f : Channel → Channel) : (s.modChannel c f).inv = s.inv := rfl
@[simp] theorem State.modChannel_invL0 (s : State) (c : Nat) (f : Channel → Channel) : (s.modChannel c f).invL0 = s.invL0 := rfl
@[simp] theorem State.modChannel_invL1 (s : State) (c : Nat) (f : Channel → Channel) : (s.modChannel c f).invL1 = s.invL1 := rfl
@[simp] theorem State.modChannel_inventoryOk (s : State) (c : Nat) (f : Channel → Channel) : (s.modChannel c f).inventoryOk = s.inventoryOk := rfl
@[simp] theorem State.modChannel_identityOk (s : State) (c : Nat) (f : Channel → Channel) : (s.modChannel c f).identityOk = s.identityOk := rfl
@[simp] theorem State.modChannel_idKey (s : State) (c : Nat) (f : Channel → Channel) : (s.modChannel c f).idKey = s.idKey := rfl
@[simp] theorem State.modChannel_packageKeys (s : State) (c : Nat) (f : Channel → Channel) : (s.modChannel c f).packageKeys = s.packageKeys := rfl
@[simp] theorem State.modChannel_fw (s : State) (c : Nat) (f : Channel → Channel) : (s.modChannel c f).fw = s.fw := rfl
@[simp] theorem State.modChannel_fwRunning (s : State) (c : Nat) (f : Channel → Channel) : (s.modChannel c f).fwRunning = s.fwRunning := rfl
@[simp] theorem State.modChannel_svn0 (s : State) (c : Nat) (f : Channel → Channel) : (s.modChannel c f).svn0 = s.svn0 := rfl
@[simp] theorem State.modChannel_svn1 (s : State) (c : Nat) (f : Channel → Channel) : (s.modChannel c f).svn1 = s.svn1 := rfl
@[simp] theorem State.modChannel_measured (s : State) (c : Nat) (f : Channel → Channel) : (s.modChannel c f).measured = s.measured := rfl
@[simp] theorem State.modChannel_sessions (s : State) (c : Nat) (f : Channel → Channel) : (s.modChannel c f).sessions = s.sessions := rfl
@[simp] theorem State.modChannel_sensors (s : State) (c : Nat) (f : Channel → Channel) : (s.modChannel c f).sensors = s.sensors := rfl
@[simp] theorem State.modChannel_stateSensors (s : State) (c : Nat) (f : Channel → Channel) : (s.modChannel c f).stateSensors = s.stateSensors := rfl
@[simp] theorem State.modChannel_eventsFrom (s : State) (c : Nat) (f : Channel → Channel) : (s.modChannel c f).eventsFrom = s.eventsFrom := rfl
@[simp] theorem State.modChannel_events (s : State) (c : Nat) (f : Channel → Channel) : (s.modChannel c f).events = s.events := rfl
@[simp] theorem State.modChannel_smbusAddr (s : State) (c : Nat) (f : Channel → Channel) : (s.modChannel c f).smbusAddr = s.smbusAddr := rfl
@[simp] theorem State.modChannel_irqs (s : State) (c : Nat) (f : Channel → Channel) : (s.modChannel c f).irqs = s.irqs := rfl
@[simp] theorem State.modChannel_frameOut (s : State) (c : Nat) (f : Channel → Channel) : (s.modChannel c f).frameOut = s.frameOut := rfl
@[simp] theorem State.modChannel_delivered (s : State) (c : Nat) (f : Channel → Channel) : (s.modChannel c f).delivered = s.delivered := rfl
@[simp] theorem State.modChannel_packetOut (s : State) (c : Nat) (f : Channel → Channel) : (s.modChannel c f).packetOut = s.packetOut := rfl
@[simp] theorem State.modChannel_sent (s : State) (c : Nat) (f : Channel → Channel) : (s.modChannel c f).sent = s.sent := rfl
@[simp] theorem State.modChannel_answers (s : State) (c : Nat) (f : Channel → Channel) : (s.modChannel c f).answers = s.answers := rfl

/-! ## Updates of what a function keeps to itself -/

@[simp] theorem State.modCtx_pending (s : State) (c : Nat) (f : Context → Context) : (s.modCtx c f).pending = s.pending := by unfold State.modCtx; split <;> rfl
@[simp] theorem State.modCtx_now (s : State) (c : Nat) (f : Context → Context) : (s.modCtx c f).now = s.now := by unfold State.modCtx; split <;> rfl
@[simp] theorem State.modCtx_fresh (s : State) (c : Nat) (f : Context → Context) : (s.modCtx c f).fresh = s.fresh := by unfold State.modCtx; split <;> rfl
@[simp] theorem State.modCtx_pins (s : State) (c : Nat) (f : Context → Context) : (s.modCtx c f).pins = s.pins := by unfold State.modCtx; split <;> rfl
@[simp] theorem State.modCtx_service (s : State) (c : Nat) (f : Context → Context) : (s.modCtx c f).service = s.service := by unfold State.modCtx; split <;> rfl
@[simp] theorem State.modCtx_phase (s : State) (c : Nat) (f : Context → Context) : (s.modCtx c f).phase = s.phase := by unfold State.modCtx; split <;> rfl
@[simp] theorem State.modCtx_halted (s : State) (c : Nat) (f : Context → Context) : (s.modCtx c f).halted = s.halted := by unfold State.modCtx; split <;> rfl
@[simp] theorem State.modCtx_epochBad (s : State) (c : Nat) (f : Context → Context) : (s.modCtx c f).epochBad = s.epochBad := by unfold State.modCtx; split <;> rfl
@[simp] theorem State.modCtx_broken (s : State) (c : Nat) (f : Context → Context) : (s.modCtx c f).broken = s.broken := by unfold State.modCtx; split <;> rfl
@[simp] theorem State.modCtx_admitted (s : State) (c : Nat) (f : Context → Context) : (s.modCtx c f).admitted = s.admitted := by unfold State.modCtx; split <;> rfl
@[simp] theorem State.modCtx_mem (s : State) (c : Nat) (f : Context → Context) : (s.modCtx c f).mem = s.mem := by unfold State.modCtx; split <;> rfl
@[simp] theorem State.modCtx_hostMem (s : State) (c : Nat) (f : Context → Context) : (s.modCtx c f).hostMem = s.hostMem := by unfold State.modCtx; split <;> rfl
@[simp] theorem State.modCtx_marks (s : State) (c : Nat) (f : Context → Context) : (s.modCtx c f).marks = s.marks := by unfold State.modCtx; split <;> rfl
@[simp] theorem State.modCtx_pageErrs (s : State) (c : Nat) (f : Context → Context) : (s.modCtx c f).pageErrs = s.pageErrs := by unfold State.modCtx; split <;> rfl
@[simp] theorem State.modCtx_dies (s : State) (c : Nat) (f : Context → Context) : (s.modCtx c f).dies = s.dies := by unfold State.modCtx; split <;> rfl
@[simp] theorem State.modCtx_cores (s : State) (c : Nat) (f : Context → Context) : (s.modCtx c f).cores = s.cores := by unfold State.modCtx; split <;> rfl
@[simp] theorem State.modCtx_channels (s : State) (c : Nat) (f : Context → Context) : (s.modCtx c f).channels = s.channels := by unfold State.modCtx; split <;> rfl
@[simp] theorem State.modCtx_frames (s : State) (c : Nat) (f : Context → Context) : (s.modCtx c f).frames = s.frames := by unfold State.modCtx; split <;> rfl
@[simp] theorem State.modCtx_owners (s : State) (c : Nat) (f : Context → Context) : (s.modCtx c f).owners = s.owners := by unfold State.modCtx; split <;> rfl
@[simp] theorem State.modCtx_written (s : State) (c : Nat) (f : Context → Context) : (s.modCtx c f).written = s.written := by unfold State.modCtx; split <;> rfl
@[simp] theorem State.modCtx_scrubHours (s : State) (c : Nat) (f : Context → Context) : (s.modCtx c f).scrubHours = s.scrubHours := by unfold State.modCtx; split <;> rfl
@[simp] theorem State.modCtx_spareFrames (s : State) (c : Nat) (f : Context → Context) : (s.modCtx c f).spareFrames = s.spareFrames := by unfold State.modCtx; split <;> rfl
@[simp] theorem State.modCtx_queues (s : State) (c : Nat) (f : Context → Context) : (s.modCtx c f).queues = s.queues := by unfold State.modCtx; split <;> rfl
@[simp] theorem State.modCtx_serial (s : State) (c : Nat) (f : Context → Context) : (s.modCtx c f).serial = s.serial := by unfold State.modCtx; split <;> rfl
@[simp] theorem State.modCtx_sets (s : State) (c : Nat) (f : Context → Context) : (s.modCtx c f).sets = s.sets := by unfold State.modCtx; split <;> rfl
@[simp] theorem State.modCtx_crates (s : State) (c : Nat) (f : Context → Context) : (s.modCtx c f).crates = s.crates := by unfold State.modCtx; split <;> rfl
@[simp] theorem State.modCtx_crateNext (s : State) (c : Nat) (f : Context → Context) : (s.modCtx c f).crateNext = s.crateNext := by unfold State.modCtx; split <;> rfl
@[simp] theorem State.modCtx_tallyMsgs (s : State) (c : Nat) (f : Context → Context) : (s.modCtx c f).tallyMsgs = s.tallyMsgs := by unfold State.modCtx; split <;> rfl
@[simp] theorem State.modCtx_meshWait (s : State) (c : Nat) (f : Context → Context) : (s.modCtx c f).meshWait = s.meshWait := by unfold State.modCtx; split <;> rfl
@[simp] theorem State.modCtx_ports (s : State) (c : Nat) (f : Context → Context) : (s.modCtx c f).ports = s.ports := by unfold State.modCtx; split <;> rfl
@[simp] theorem State.modCtx_pkgId (s : State) (c : Nat) (f : Context → Context) : (s.modCtx c f).pkgId = s.pkgId := by unfold State.modCtx; split <;> rfl
@[simp] theorem State.modCtx_flows (s : State) (c : Nat) (f : Context → Context) : (s.modCtx c f).flows = s.flows := by unfold State.modCtx; split <;> rfl
@[simp] theorem State.modCtx_rxFlows (s : State) (c : Nat) (f : Context → Context) : (s.modCtx c f).rxFlows = s.rxFlows := by unfold State.modCtx; split <;> rfl
@[simp] theorem State.modCtx_transits (s : State) (c : Nat) (f : Context → Context) : (s.modCtx c f).transits = s.transits := by unfold State.modCtx; split <;> rfl
@[simp] theorem State.modCtx_groups (s : State) (c : Nat) (f : Context → Context) : (s.modCtx c f).groups = s.groups := by unfold State.modCtx; split <;> rfl
@[simp] theorem State.modCtx_pathJobs (s : State) (c : Nat) (f : Context → Context) : (s.modCtx c f).pathJobs = s.pathJobs := by unfold State.modCtx; split <;> rfl
@[simp] theorem State.modCtx_time (s : State) (c : Nat) (f : Context → Context) : (s.modCtx c f).time = s.time := by unfold State.modCtx; split <;> rfl
@[simp] theorem State.modCtx_keeper0 (s : State) (c : Nat) (f : Context → Context) : (s.modCtx c f).keeper0 = s.keeper0 := by unfold State.modCtx; split <;> rfl
@[simp] theorem State.modCtx_keeper1 (s : State) (c : Nat) (f : Context → Context) : (s.modCtx c f).keeper1 = s.keeper1 := by unfold State.modCtx; split <;> rfl
@[simp] theorem State.modCtx_keeperEpoch (s : State) (c : Nat) (f : Context → Context) : (s.modCtx c f).keeperEpoch = s.keeperEpoch := by unfold State.modCtx; split <;> rfl
@[simp] theorem State.modCtx_holder (s : State) (c : Nat) (f : Context → Context) : (s.modCtx c f).holder = s.holder := by unfold State.modCtx; split <;> rfl
@[simp] theorem State.modCtx_lastBeat (s : State) (c : Nat) (f : Context → Context) : (s.modCtx c f).lastBeat = s.lastBeat := by unfold State.modCtx; split <;> rfl
@[simp] theorem State.modCtx_hatch0 (s : State) (c : Nat) (f : Context → Context) : (s.modCtx c f).hatch0 = s.hatch0 := by unfold State.modCtx; split <;> rfl
@[simp] theorem State.modCtx_hatch1 (s : State) (c : Nat) (f : Context → Context) : (s.modCtx c f).hatch1 = s.hatch1 := by unfold State.modCtx; split <;> rfl
@[simp] theorem State.modCtx_journal (s : State) (c : Nat) (f : Context → Context) : (s.modCtx c f).journal = s.journal := by unfold State.modCtx; split <;> rfl
@[simp] theorem State.modCtx_journalNext (s : State) (c : Nat) (f : Context → Context) : (s.modCtx c f).journalNext = s.journalNext := by unfold State.modCtx; split <;> rfl
@[simp] theorem State.modCtx_recover (s : State) (c : Nat) (f : Context → Context) : (s.modCtx c f).recover = s.recover := by unfold State.modCtx; split <;> rfl
@[simp] theorem State.modCtx_stopping (s : State) (c : Nat) (f : Context → Context) : (s.modCtx c f).stopping = s.stopping := by unfold State.modCtx; split <;> rfl
@[simp] theorem State.modCtx_wasStopped (s : State) (c : Nat) (f : Context → Context) : (s.modCtx c f).wasStopped = s.wasStopped := by unfold State.modCtx; split <;> rfl
@[simp] theorem State.modCtx_taking (s : State) (c : Nat) (f : Context → Context) : (s.modCtx c f).taking = s.taking := by unfold State.modCtx; split <;> rfl
@[simp] theorem State.modCtx_merged (s : State) (c : Nat) (f : Context → Context) : (s.modCtx c f).merged = s.merged := by unfold State.modCtx; split <;> rfl
@[simp] theorem State.modCtx_dropped (s : State) (c : Nat) (f : Context → Context) : (s.modCtx c f).dropped = s.dropped := by unfold State.modCtx; split <;> rfl
@[simp] theorem State.modCtx_power (s : State) (c : Nat) (f : Context → Context) : (s.modCtx c f).power = s.power := by unfold State.modCtx; split <;> rfl
@[simp] theorem State.modCtx_coords (s : State) (c : Nat) (f : Context → Context) : (s.modCtx c f).coords = s.coords := by unfold State.modCtx; split <;> rfl
@[simp] theorem State.modCtx_host0 (s : State) (c : Nat) (f : Context → Context) : (s.modCtx c f).host0 = s.host0 := by unfold State.modCtx; split <;> rfl
@[simp] theorem State.modCtx_host1 (s : State) (c : Nat) (f : Context → Context) : (s.modCtx c f).host1 = s.host1 := by unfold State.modCtx; split <;> rfl
@[simp] theorem State.modCtx_primary (s : State) (c : Nat) (f : Context → Context) : (s.modCtx c f).primary = s.primary := by unfold State.modCtx; split <;> rfl
@[simp] theorem State.modCtx_dgValue (s : State) (c : Nat) (f : Context → Context) : (s.modCtx c f).dgValue = s.dgValue := by unfold State.modCtx; split <;> rfl
@[simp] theorem State.modCtx_dgMode (s : State) (c : Nat) (f : Context → Context) : (s.modCtx c f).dgMode = s.dgMode := by unfold State.modCtx; split <;> rfl
@[simp] theorem State.modCtx_dgCtx (s : State) (c : Nat) (f : Context → Context) : (s.modCtx c f).dgCtx = s.dgCtx := by unfold State.modCtx; split <;> rfl
@[simp] theorem State.modCtx_dgVid (s : State) (c : Nat) (f : Context → Context) : (s.modCtx c f).dgVid = s.dgVid := by unfold State.modCtx; split <;> rfl
@[simp] theorem State.modCtx_dgGo (s : State) (c : Nat) (f : Context → Context) : (s.modCtx c f).dgGo = s.dgGo := by unfold State.modCtx; split <;> rfl
@[simp] theorem State.modCtx_block (s : State) (c : Nat) (f : Context → Context) : (s.modCtx c f).block = s.block := by unfold State.modCtx; split <;> rfl
@[simp] theorem State.modCtx_lastFault (s : State) (c : Nat) (f : Context → Context) : (s.modCtx c f).lastFault = s.lastFault := by unfold State.modCtx; split <;> rfl
@[simp] theorem State.modCtx_lastFaultCount (s : State) (c : Nat) (f : Context → Context) : (s.modCtx c f).lastFaultCount = s.lastFaultCount := by unfold State.modCtx; split <;> rfl
@[simp] theorem State.modCtx_inv (s : State) (c : Nat) (f : Context → Context) : (s.modCtx c f).inv = s.inv := by unfold State.modCtx; split <;> rfl
@[simp] theorem State.modCtx_invL0 (s : State) (c : Nat) (f : Context → Context) : (s.modCtx c f).invL0 = s.invL0 := by unfold State.modCtx; split <;> rfl
@[simp] theorem State.modCtx_invL1 (s : State) (c : Nat) (f : Context → Context) : (s.modCtx c f).invL1 = s.invL1 := by unfold State.modCtx; split <;> rfl
@[simp] theorem State.modCtx_inventoryOk (s : State) (c : Nat) (f : Context → Context) : (s.modCtx c f).inventoryOk = s.inventoryOk := by unfold State.modCtx; split <;> rfl
@[simp] theorem State.modCtx_identityOk (s : State) (c : Nat) (f : Context → Context) : (s.modCtx c f).identityOk = s.identityOk := by unfold State.modCtx; split <;> rfl
@[simp] theorem State.modCtx_idKey (s : State) (c : Nat) (f : Context → Context) : (s.modCtx c f).idKey = s.idKey := by unfold State.modCtx; split <;> rfl
@[simp] theorem State.modCtx_packageKeys (s : State) (c : Nat) (f : Context → Context) : (s.modCtx c f).packageKeys = s.packageKeys := by unfold State.modCtx; split <;> rfl
@[simp] theorem State.modCtx_fw (s : State) (c : Nat) (f : Context → Context) : (s.modCtx c f).fw = s.fw := by unfold State.modCtx; split <;> rfl
@[simp] theorem State.modCtx_fwRunning (s : State) (c : Nat) (f : Context → Context) : (s.modCtx c f).fwRunning = s.fwRunning := by unfold State.modCtx; split <;> rfl
@[simp] theorem State.modCtx_svn0 (s : State) (c : Nat) (f : Context → Context) : (s.modCtx c f).svn0 = s.svn0 := by unfold State.modCtx; split <;> rfl
@[simp] theorem State.modCtx_svn1 (s : State) (c : Nat) (f : Context → Context) : (s.modCtx c f).svn1 = s.svn1 := by unfold State.modCtx; split <;> rfl
@[simp] theorem State.modCtx_measured (s : State) (c : Nat) (f : Context → Context) : (s.modCtx c f).measured = s.measured := by unfold State.modCtx; split <;> rfl
@[simp] theorem State.modCtx_sessions (s : State) (c : Nat) (f : Context → Context) : (s.modCtx c f).sessions = s.sessions := by unfold State.modCtx; split <;> rfl
@[simp] theorem State.modCtx_sensors (s : State) (c : Nat) (f : Context → Context) : (s.modCtx c f).sensors = s.sensors := by unfold State.modCtx; split <;> rfl
@[simp] theorem State.modCtx_stateSensors (s : State) (c : Nat) (f : Context → Context) : (s.modCtx c f).stateSensors = s.stateSensors := by unfold State.modCtx; split <;> rfl
@[simp] theorem State.modCtx_eventsFrom (s : State) (c : Nat) (f : Context → Context) : (s.modCtx c f).eventsFrom = s.eventsFrom := by unfold State.modCtx; split <;> rfl
@[simp] theorem State.modCtx_events (s : State) (c : Nat) (f : Context → Context) : (s.modCtx c f).events = s.events := by unfold State.modCtx; split <;> rfl
@[simp] theorem State.modCtx_smbusAddr (s : State) (c : Nat) (f : Context → Context) : (s.modCtx c f).smbusAddr = s.smbusAddr := by unfold State.modCtx; split <;> rfl
@[simp] theorem State.modCtx_irqs (s : State) (c : Nat) (f : Context → Context) : (s.modCtx c f).irqs = s.irqs := by unfold State.modCtx; split <;> rfl
@[simp] theorem State.modCtx_frameOut (s : State) (c : Nat) (f : Context → Context) : (s.modCtx c f).frameOut = s.frameOut := by unfold State.modCtx; split <;> rfl
@[simp] theorem State.modCtx_delivered (s : State) (c : Nat) (f : Context → Context) : (s.modCtx c f).delivered = s.delivered := by unfold State.modCtx; split <;> rfl
@[simp] theorem State.modCtx_packetOut (s : State) (c : Nat) (f : Context → Context) : (s.modCtx c f).packetOut = s.packetOut := by unfold State.modCtx; split <;> rfl
@[simp] theorem State.modCtx_sent (s : State) (c : Nat) (f : Context → Context) : (s.modCtx c f).sent = s.sent := by unfold State.modCtx; split <;> rfl
@[simp] theorem State.modCtx_answers (s : State) (c : Nat) (f : Context → Context) : (s.modCtx c f).answers = s.answers := by unfold State.modCtx; split <;> rfl

@[simp] theorem State.modQueue_pending (s : State) (q : QRef) (f : Queue → Queue) : (s.modQueue q f).pending = s.pending := by unfold State.modQueue; split <;> rfl
@[simp] theorem State.modQueue_now (s : State) (q : QRef) (f : Queue → Queue) : (s.modQueue q f).now = s.now := by unfold State.modQueue; split <;> rfl
@[simp] theorem State.modQueue_fresh (s : State) (q : QRef) (f : Queue → Queue) : (s.modQueue q f).fresh = s.fresh := by unfold State.modQueue; split <;> rfl
@[simp] theorem State.modQueue_pins (s : State) (q : QRef) (f : Queue → Queue) : (s.modQueue q f).pins = s.pins := by unfold State.modQueue; split <;> rfl
@[simp] theorem State.modQueue_service (s : State) (q : QRef) (f : Queue → Queue) : (s.modQueue q f).service = s.service := by unfold State.modQueue; split <;> rfl
@[simp] theorem State.modQueue_phase (s : State) (q : QRef) (f : Queue → Queue) : (s.modQueue q f).phase = s.phase := by unfold State.modQueue; split <;> rfl
@[simp] theorem State.modQueue_halted (s : State) (q : QRef) (f : Queue → Queue) : (s.modQueue q f).halted = s.halted := by unfold State.modQueue; split <;> rfl
@[simp] theorem State.modQueue_epochBad (s : State) (q : QRef) (f : Queue → Queue) : (s.modQueue q f).epochBad = s.epochBad := by unfold State.modQueue; split <;> rfl
@[simp] theorem State.modQueue_broken (s : State) (q : QRef) (f : Queue → Queue) : (s.modQueue q f).broken = s.broken := by unfold State.modQueue; split <;> rfl
@[simp] theorem State.modQueue_admitted (s : State) (q : QRef) (f : Queue → Queue) : (s.modQueue q f).admitted = s.admitted := by unfold State.modQueue; split <;> rfl
@[simp] theorem State.modQueue_mem (s : State) (q : QRef) (f : Queue → Queue) : (s.modQueue q f).mem = s.mem := by unfold State.modQueue; split <;> rfl
@[simp] theorem State.modQueue_hostMem (s : State) (q : QRef) (f : Queue → Queue) : (s.modQueue q f).hostMem = s.hostMem := by unfold State.modQueue; split <;> rfl
@[simp] theorem State.modQueue_marks (s : State) (q : QRef) (f : Queue → Queue) : (s.modQueue q f).marks = s.marks := by unfold State.modQueue; split <;> rfl
@[simp] theorem State.modQueue_pageErrs (s : State) (q : QRef) (f : Queue → Queue) : (s.modQueue q f).pageErrs = s.pageErrs := by unfold State.modQueue; split <;> rfl
@[simp] theorem State.modQueue_dies (s : State) (q : QRef) (f : Queue → Queue) : (s.modQueue q f).dies = s.dies := by unfold State.modQueue; split <;> rfl
@[simp] theorem State.modQueue_cores (s : State) (q : QRef) (f : Queue → Queue) : (s.modQueue q f).cores = s.cores := by unfold State.modQueue; split <;> rfl
@[simp] theorem State.modQueue_channels (s : State) (q : QRef) (f : Queue → Queue) : (s.modQueue q f).channels = s.channels := by unfold State.modQueue; split <;> rfl
@[simp] theorem State.modQueue_frames (s : State) (q : QRef) (f : Queue → Queue) : (s.modQueue q f).frames = s.frames := by unfold State.modQueue; split <;> rfl
@[simp] theorem State.modQueue_owners (s : State) (q : QRef) (f : Queue → Queue) : (s.modQueue q f).owners = s.owners := by unfold State.modQueue; split <;> rfl
@[simp] theorem State.modQueue_written (s : State) (q : QRef) (f : Queue → Queue) : (s.modQueue q f).written = s.written := by unfold State.modQueue; split <;> rfl
@[simp] theorem State.modQueue_scrubHours (s : State) (q : QRef) (f : Queue → Queue) : (s.modQueue q f).scrubHours = s.scrubHours := by unfold State.modQueue; split <;> rfl
@[simp] theorem State.modQueue_spareFrames (s : State) (q : QRef) (f : Queue → Queue) : (s.modQueue q f).spareFrames = s.spareFrames := by unfold State.modQueue; split <;> rfl
@[simp] theorem State.modQueue_contexts (s : State) (q : QRef) (f : Queue → Queue) : (s.modQueue q f).contexts = s.contexts := by unfold State.modQueue; split <;> rfl
@[simp] theorem State.modQueue_serial (s : State) (q : QRef) (f : Queue → Queue) : (s.modQueue q f).serial = s.serial := by unfold State.modQueue; split <;> rfl
@[simp] theorem State.modQueue_sets (s : State) (q : QRef) (f : Queue → Queue) : (s.modQueue q f).sets = s.sets := by unfold State.modQueue; split <;> rfl
@[simp] theorem State.modQueue_crates (s : State) (q : QRef) (f : Queue → Queue) : (s.modQueue q f).crates = s.crates := by unfold State.modQueue; split <;> rfl
@[simp] theorem State.modQueue_crateNext (s : State) (q : QRef) (f : Queue → Queue) : (s.modQueue q f).crateNext = s.crateNext := by unfold State.modQueue; split <;> rfl
@[simp] theorem State.modQueue_tallyMsgs (s : State) (q : QRef) (f : Queue → Queue) : (s.modQueue q f).tallyMsgs = s.tallyMsgs := by unfold State.modQueue; split <;> rfl
@[simp] theorem State.modQueue_meshWait (s : State) (q : QRef) (f : Queue → Queue) : (s.modQueue q f).meshWait = s.meshWait := by unfold State.modQueue; split <;> rfl
@[simp] theorem State.modQueue_ports (s : State) (q : QRef) (f : Queue → Queue) : (s.modQueue q f).ports = s.ports := by unfold State.modQueue; split <;> rfl
@[simp] theorem State.modQueue_pkgId (s : State) (q : QRef) (f : Queue → Queue) : (s.modQueue q f).pkgId = s.pkgId := by unfold State.modQueue; split <;> rfl
@[simp] theorem State.modQueue_flows (s : State) (q : QRef) (f : Queue → Queue) : (s.modQueue q f).flows = s.flows := by unfold State.modQueue; split <;> rfl
@[simp] theorem State.modQueue_rxFlows (s : State) (q : QRef) (f : Queue → Queue) : (s.modQueue q f).rxFlows = s.rxFlows := by unfold State.modQueue; split <;> rfl
@[simp] theorem State.modQueue_transits (s : State) (q : QRef) (f : Queue → Queue) : (s.modQueue q f).transits = s.transits := by unfold State.modQueue; split <;> rfl
@[simp] theorem State.modQueue_groups (s : State) (q : QRef) (f : Queue → Queue) : (s.modQueue q f).groups = s.groups := by unfold State.modQueue; split <;> rfl
@[simp] theorem State.modQueue_pathJobs (s : State) (q : QRef) (f : Queue → Queue) : (s.modQueue q f).pathJobs = s.pathJobs := by unfold State.modQueue; split <;> rfl
@[simp] theorem State.modQueue_time (s : State) (q : QRef) (f : Queue → Queue) : (s.modQueue q f).time = s.time := by unfold State.modQueue; split <;> rfl
@[simp] theorem State.modQueue_keeper0 (s : State) (q : QRef) (f : Queue → Queue) : (s.modQueue q f).keeper0 = s.keeper0 := by unfold State.modQueue; split <;> rfl
@[simp] theorem State.modQueue_keeper1 (s : State) (q : QRef) (f : Queue → Queue) : (s.modQueue q f).keeper1 = s.keeper1 := by unfold State.modQueue; split <;> rfl
@[simp] theorem State.modQueue_keeperEpoch (s : State) (q : QRef) (f : Queue → Queue) : (s.modQueue q f).keeperEpoch = s.keeperEpoch := by unfold State.modQueue; split <;> rfl
@[simp] theorem State.modQueue_holder (s : State) (q : QRef) (f : Queue → Queue) : (s.modQueue q f).holder = s.holder := by unfold State.modQueue; split <;> rfl
@[simp] theorem State.modQueue_lastBeat (s : State) (q : QRef) (f : Queue → Queue) : (s.modQueue q f).lastBeat = s.lastBeat := by unfold State.modQueue; split <;> rfl
@[simp] theorem State.modQueue_hatch0 (s : State) (q : QRef) (f : Queue → Queue) : (s.modQueue q f).hatch0 = s.hatch0 := by unfold State.modQueue; split <;> rfl
@[simp] theorem State.modQueue_hatch1 (s : State) (q : QRef) (f : Queue → Queue) : (s.modQueue q f).hatch1 = s.hatch1 := by unfold State.modQueue; split <;> rfl
@[simp] theorem State.modQueue_journal (s : State) (q : QRef) (f : Queue → Queue) : (s.modQueue q f).journal = s.journal := by unfold State.modQueue; split <;> rfl
@[simp] theorem State.modQueue_journalNext (s : State) (q : QRef) (f : Queue → Queue) : (s.modQueue q f).journalNext = s.journalNext := by unfold State.modQueue; split <;> rfl
@[simp] theorem State.modQueue_recover (s : State) (q : QRef) (f : Queue → Queue) : (s.modQueue q f).recover = s.recover := by unfold State.modQueue; split <;> rfl
@[simp] theorem State.modQueue_stopping (s : State) (q : QRef) (f : Queue → Queue) : (s.modQueue q f).stopping = s.stopping := by unfold State.modQueue; split <;> rfl
@[simp] theorem State.modQueue_wasStopped (s : State) (q : QRef) (f : Queue → Queue) : (s.modQueue q f).wasStopped = s.wasStopped := by unfold State.modQueue; split <;> rfl
@[simp] theorem State.modQueue_taking (s : State) (q : QRef) (f : Queue → Queue) : (s.modQueue q f).taking = s.taking := by unfold State.modQueue; split <;> rfl
@[simp] theorem State.modQueue_merged (s : State) (q : QRef) (f : Queue → Queue) : (s.modQueue q f).merged = s.merged := by unfold State.modQueue; split <;> rfl
@[simp] theorem State.modQueue_dropped (s : State) (q : QRef) (f : Queue → Queue) : (s.modQueue q f).dropped = s.dropped := by unfold State.modQueue; split <;> rfl
@[simp] theorem State.modQueue_power (s : State) (q : QRef) (f : Queue → Queue) : (s.modQueue q f).power = s.power := by unfold State.modQueue; split <;> rfl
@[simp] theorem State.modQueue_coords (s : State) (q : QRef) (f : Queue → Queue) : (s.modQueue q f).coords = s.coords := by unfold State.modQueue; split <;> rfl
@[simp] theorem State.modQueue_host0 (s : State) (q : QRef) (f : Queue → Queue) : (s.modQueue q f).host0 = s.host0 := by unfold State.modQueue; split <;> rfl
@[simp] theorem State.modQueue_host1 (s : State) (q : QRef) (f : Queue → Queue) : (s.modQueue q f).host1 = s.host1 := by unfold State.modQueue; split <;> rfl
@[simp] theorem State.modQueue_primary (s : State) (q : QRef) (f : Queue → Queue) : (s.modQueue q f).primary = s.primary := by unfold State.modQueue; split <;> rfl
@[simp] theorem State.modQueue_dgValue (s : State) (q : QRef) (f : Queue → Queue) : (s.modQueue q f).dgValue = s.dgValue := by unfold State.modQueue; split <;> rfl
@[simp] theorem State.modQueue_dgMode (s : State) (q : QRef) (f : Queue → Queue) : (s.modQueue q f).dgMode = s.dgMode := by unfold State.modQueue; split <;> rfl
@[simp] theorem State.modQueue_dgCtx (s : State) (q : QRef) (f : Queue → Queue) : (s.modQueue q f).dgCtx = s.dgCtx := by unfold State.modQueue; split <;> rfl
@[simp] theorem State.modQueue_dgVid (s : State) (q : QRef) (f : Queue → Queue) : (s.modQueue q f).dgVid = s.dgVid := by unfold State.modQueue; split <;> rfl
@[simp] theorem State.modQueue_dgGo (s : State) (q : QRef) (f : Queue → Queue) : (s.modQueue q f).dgGo = s.dgGo := by unfold State.modQueue; split <;> rfl
@[simp] theorem State.modQueue_block (s : State) (q : QRef) (f : Queue → Queue) : (s.modQueue q f).block = s.block := by unfold State.modQueue; split <;> rfl
@[simp] theorem State.modQueue_lastFault (s : State) (q : QRef) (f : Queue → Queue) : (s.modQueue q f).lastFault = s.lastFault := by unfold State.modQueue; split <;> rfl
@[simp] theorem State.modQueue_lastFaultCount (s : State) (q : QRef) (f : Queue → Queue) : (s.modQueue q f).lastFaultCount = s.lastFaultCount := by unfold State.modQueue; split <;> rfl
@[simp] theorem State.modQueue_inv (s : State) (q : QRef) (f : Queue → Queue) : (s.modQueue q f).inv = s.inv := by unfold State.modQueue; split <;> rfl
@[simp] theorem State.modQueue_invL0 (s : State) (q : QRef) (f : Queue → Queue) : (s.modQueue q f).invL0 = s.invL0 := by unfold State.modQueue; split <;> rfl
@[simp] theorem State.modQueue_invL1 (s : State) (q : QRef) (f : Queue → Queue) : (s.modQueue q f).invL1 = s.invL1 := by unfold State.modQueue; split <;> rfl
@[simp] theorem State.modQueue_inventoryOk (s : State) (q : QRef) (f : Queue → Queue) : (s.modQueue q f).inventoryOk = s.inventoryOk := by unfold State.modQueue; split <;> rfl
@[simp] theorem State.modQueue_identityOk (s : State) (q : QRef) (f : Queue → Queue) : (s.modQueue q f).identityOk = s.identityOk := by unfold State.modQueue; split <;> rfl
@[simp] theorem State.modQueue_idKey (s : State) (q : QRef) (f : Queue → Queue) : (s.modQueue q f).idKey = s.idKey := by unfold State.modQueue; split <;> rfl
@[simp] theorem State.modQueue_packageKeys (s : State) (q : QRef) (f : Queue → Queue) : (s.modQueue q f).packageKeys = s.packageKeys := by unfold State.modQueue; split <;> rfl
@[simp] theorem State.modQueue_fw (s : State) (q : QRef) (f : Queue → Queue) : (s.modQueue q f).fw = s.fw := by unfold State.modQueue; split <;> rfl
@[simp] theorem State.modQueue_fwRunning (s : State) (q : QRef) (f : Queue → Queue) : (s.modQueue q f).fwRunning = s.fwRunning := by unfold State.modQueue; split <;> rfl
@[simp] theorem State.modQueue_svn0 (s : State) (q : QRef) (f : Queue → Queue) : (s.modQueue q f).svn0 = s.svn0 := by unfold State.modQueue; split <;> rfl
@[simp] theorem State.modQueue_svn1 (s : State) (q : QRef) (f : Queue → Queue) : (s.modQueue q f).svn1 = s.svn1 := by unfold State.modQueue; split <;> rfl
@[simp] theorem State.modQueue_measured (s : State) (q : QRef) (f : Queue → Queue) : (s.modQueue q f).measured = s.measured := by unfold State.modQueue; split <;> rfl
@[simp] theorem State.modQueue_sessions (s : State) (q : QRef) (f : Queue → Queue) : (s.modQueue q f).sessions = s.sessions := by unfold State.modQueue; split <;> rfl
@[simp] theorem State.modQueue_sensors (s : State) (q : QRef) (f : Queue → Queue) : (s.modQueue q f).sensors = s.sensors := by unfold State.modQueue; split <;> rfl
@[simp] theorem State.modQueue_stateSensors (s : State) (q : QRef) (f : Queue → Queue) : (s.modQueue q f).stateSensors = s.stateSensors := by unfold State.modQueue; split <;> rfl
@[simp] theorem State.modQueue_eventsFrom (s : State) (q : QRef) (f : Queue → Queue) : (s.modQueue q f).eventsFrom = s.eventsFrom := by unfold State.modQueue; split <;> rfl
@[simp] theorem State.modQueue_events (s : State) (q : QRef) (f : Queue → Queue) : (s.modQueue q f).events = s.events := by unfold State.modQueue; split <;> rfl
@[simp] theorem State.modQueue_smbusAddr (s : State) (q : QRef) (f : Queue → Queue) : (s.modQueue q f).smbusAddr = s.smbusAddr := by unfold State.modQueue; split <;> rfl
@[simp] theorem State.modQueue_irqs (s : State) (q : QRef) (f : Queue → Queue) : (s.modQueue q f).irqs = s.irqs := by unfold State.modQueue; split <;> rfl
@[simp] theorem State.modQueue_frameOut (s : State) (q : QRef) (f : Queue → Queue) : (s.modQueue q f).frameOut = s.frameOut := by unfold State.modQueue; split <;> rfl
@[simp] theorem State.modQueue_delivered (s : State) (q : QRef) (f : Queue → Queue) : (s.modQueue q f).delivered = s.delivered := by unfold State.modQueue; split <;> rfl
@[simp] theorem State.modQueue_packetOut (s : State) (q : QRef) (f : Queue → Queue) : (s.modQueue q f).packetOut = s.packetOut := by unfold State.modQueue; split <;> rfl
@[simp] theorem State.modQueue_sent (s : State) (q : QRef) (f : Queue → Queue) : (s.modQueue q f).sent = s.sent := by unfold State.modQueue; split <;> rfl
@[simp] theorem State.modQueue_answers (s : State) (q : QRef) (f : Queue → Queue) : (s.modQueue q f).answers = s.answers := by unfold State.modQueue; split <;> rfl

@[simp] theorem State.modSet_pending (s : State) (w : Nat) (f : WeightSet → WeightSet) : (s.modSet w f).pending = s.pending := by unfold State.modSet; split <;> rfl
@[simp] theorem State.modSet_now (s : State) (w : Nat) (f : WeightSet → WeightSet) : (s.modSet w f).now = s.now := by unfold State.modSet; split <;> rfl
@[simp] theorem State.modSet_fresh (s : State) (w : Nat) (f : WeightSet → WeightSet) : (s.modSet w f).fresh = s.fresh := by unfold State.modSet; split <;> rfl
@[simp] theorem State.modSet_pins (s : State) (w : Nat) (f : WeightSet → WeightSet) : (s.modSet w f).pins = s.pins := by unfold State.modSet; split <;> rfl
@[simp] theorem State.modSet_service (s : State) (w : Nat) (f : WeightSet → WeightSet) : (s.modSet w f).service = s.service := by unfold State.modSet; split <;> rfl
@[simp] theorem State.modSet_phase (s : State) (w : Nat) (f : WeightSet → WeightSet) : (s.modSet w f).phase = s.phase := by unfold State.modSet; split <;> rfl
@[simp] theorem State.modSet_halted (s : State) (w : Nat) (f : WeightSet → WeightSet) : (s.modSet w f).halted = s.halted := by unfold State.modSet; split <;> rfl
@[simp] theorem State.modSet_epochBad (s : State) (w : Nat) (f : WeightSet → WeightSet) : (s.modSet w f).epochBad = s.epochBad := by unfold State.modSet; split <;> rfl
@[simp] theorem State.modSet_broken (s : State) (w : Nat) (f : WeightSet → WeightSet) : (s.modSet w f).broken = s.broken := by unfold State.modSet; split <;> rfl
@[simp] theorem State.modSet_admitted (s : State) (w : Nat) (f : WeightSet → WeightSet) : (s.modSet w f).admitted = s.admitted := by unfold State.modSet; split <;> rfl
@[simp] theorem State.modSet_mem (s : State) (w : Nat) (f : WeightSet → WeightSet) : (s.modSet w f).mem = s.mem := by unfold State.modSet; split <;> rfl
@[simp] theorem State.modSet_hostMem (s : State) (w : Nat) (f : WeightSet → WeightSet) : (s.modSet w f).hostMem = s.hostMem := by unfold State.modSet; split <;> rfl
@[simp] theorem State.modSet_marks (s : State) (w : Nat) (f : WeightSet → WeightSet) : (s.modSet w f).marks = s.marks := by unfold State.modSet; split <;> rfl
@[simp] theorem State.modSet_pageErrs (s : State) (w : Nat) (f : WeightSet → WeightSet) : (s.modSet w f).pageErrs = s.pageErrs := by unfold State.modSet; split <;> rfl
@[simp] theorem State.modSet_dies (s : State) (w : Nat) (f : WeightSet → WeightSet) : (s.modSet w f).dies = s.dies := by unfold State.modSet; split <;> rfl
@[simp] theorem State.modSet_cores (s : State) (w : Nat) (f : WeightSet → WeightSet) : (s.modSet w f).cores = s.cores := by unfold State.modSet; split <;> rfl
@[simp] theorem State.modSet_channels (s : State) (w : Nat) (f : WeightSet → WeightSet) : (s.modSet w f).channels = s.channels := by unfold State.modSet; split <;> rfl
@[simp] theorem State.modSet_frames (s : State) (w : Nat) (f : WeightSet → WeightSet) : (s.modSet w f).frames = s.frames := by unfold State.modSet; split <;> rfl
@[simp] theorem State.modSet_owners (s : State) (w : Nat) (f : WeightSet → WeightSet) : (s.modSet w f).owners = s.owners := by unfold State.modSet; split <;> rfl
@[simp] theorem State.modSet_written (s : State) (w : Nat) (f : WeightSet → WeightSet) : (s.modSet w f).written = s.written := by unfold State.modSet; split <;> rfl
@[simp] theorem State.modSet_scrubHours (s : State) (w : Nat) (f : WeightSet → WeightSet) : (s.modSet w f).scrubHours = s.scrubHours := by unfold State.modSet; split <;> rfl
@[simp] theorem State.modSet_spareFrames (s : State) (w : Nat) (f : WeightSet → WeightSet) : (s.modSet w f).spareFrames = s.spareFrames := by unfold State.modSet; split <;> rfl
@[simp] theorem State.modSet_contexts (s : State) (w : Nat) (f : WeightSet → WeightSet) : (s.modSet w f).contexts = s.contexts := by unfold State.modSet; split <;> rfl
@[simp] theorem State.modSet_queues (s : State) (w : Nat) (f : WeightSet → WeightSet) : (s.modSet w f).queues = s.queues := by unfold State.modSet; split <;> rfl
@[simp] theorem State.modSet_serial (s : State) (w : Nat) (f : WeightSet → WeightSet) : (s.modSet w f).serial = s.serial := by unfold State.modSet; split <;> rfl
@[simp] theorem State.modSet_crates (s : State) (w : Nat) (f : WeightSet → WeightSet) : (s.modSet w f).crates = s.crates := by unfold State.modSet; split <;> rfl
@[simp] theorem State.modSet_crateNext (s : State) (w : Nat) (f : WeightSet → WeightSet) : (s.modSet w f).crateNext = s.crateNext := by unfold State.modSet; split <;> rfl
@[simp] theorem State.modSet_tallyMsgs (s : State) (w : Nat) (f : WeightSet → WeightSet) : (s.modSet w f).tallyMsgs = s.tallyMsgs := by unfold State.modSet; split <;> rfl
@[simp] theorem State.modSet_meshWait (s : State) (w : Nat) (f : WeightSet → WeightSet) : (s.modSet w f).meshWait = s.meshWait := by unfold State.modSet; split <;> rfl
@[simp] theorem State.modSet_ports (s : State) (w : Nat) (f : WeightSet → WeightSet) : (s.modSet w f).ports = s.ports := by unfold State.modSet; split <;> rfl
@[simp] theorem State.modSet_pkgId (s : State) (w : Nat) (f : WeightSet → WeightSet) : (s.modSet w f).pkgId = s.pkgId := by unfold State.modSet; split <;> rfl
@[simp] theorem State.modSet_flows (s : State) (w : Nat) (f : WeightSet → WeightSet) : (s.modSet w f).flows = s.flows := by unfold State.modSet; split <;> rfl
@[simp] theorem State.modSet_rxFlows (s : State) (w : Nat) (f : WeightSet → WeightSet) : (s.modSet w f).rxFlows = s.rxFlows := by unfold State.modSet; split <;> rfl
@[simp] theorem State.modSet_transits (s : State) (w : Nat) (f : WeightSet → WeightSet) : (s.modSet w f).transits = s.transits := by unfold State.modSet; split <;> rfl
@[simp] theorem State.modSet_groups (s : State) (w : Nat) (f : WeightSet → WeightSet) : (s.modSet w f).groups = s.groups := by unfold State.modSet; split <;> rfl
@[simp] theorem State.modSet_pathJobs (s : State) (w : Nat) (f : WeightSet → WeightSet) : (s.modSet w f).pathJobs = s.pathJobs := by unfold State.modSet; split <;> rfl
@[simp] theorem State.modSet_time (s : State) (w : Nat) (f : WeightSet → WeightSet) : (s.modSet w f).time = s.time := by unfold State.modSet; split <;> rfl
@[simp] theorem State.modSet_keeper0 (s : State) (w : Nat) (f : WeightSet → WeightSet) : (s.modSet w f).keeper0 = s.keeper0 := by unfold State.modSet; split <;> rfl
@[simp] theorem State.modSet_keeper1 (s : State) (w : Nat) (f : WeightSet → WeightSet) : (s.modSet w f).keeper1 = s.keeper1 := by unfold State.modSet; split <;> rfl
@[simp] theorem State.modSet_keeperEpoch (s : State) (w : Nat) (f : WeightSet → WeightSet) : (s.modSet w f).keeperEpoch = s.keeperEpoch := by unfold State.modSet; split <;> rfl
@[simp] theorem State.modSet_holder (s : State) (w : Nat) (f : WeightSet → WeightSet) : (s.modSet w f).holder = s.holder := by unfold State.modSet; split <;> rfl
@[simp] theorem State.modSet_lastBeat (s : State) (w : Nat) (f : WeightSet → WeightSet) : (s.modSet w f).lastBeat = s.lastBeat := by unfold State.modSet; split <;> rfl
@[simp] theorem State.modSet_hatch0 (s : State) (w : Nat) (f : WeightSet → WeightSet) : (s.modSet w f).hatch0 = s.hatch0 := by unfold State.modSet; split <;> rfl
@[simp] theorem State.modSet_hatch1 (s : State) (w : Nat) (f : WeightSet → WeightSet) : (s.modSet w f).hatch1 = s.hatch1 := by unfold State.modSet; split <;> rfl
@[simp] theorem State.modSet_journal (s : State) (w : Nat) (f : WeightSet → WeightSet) : (s.modSet w f).journal = s.journal := by unfold State.modSet; split <;> rfl
@[simp] theorem State.modSet_journalNext (s : State) (w : Nat) (f : WeightSet → WeightSet) : (s.modSet w f).journalNext = s.journalNext := by unfold State.modSet; split <;> rfl
@[simp] theorem State.modSet_recover (s : State) (w : Nat) (f : WeightSet → WeightSet) : (s.modSet w f).recover = s.recover := by unfold State.modSet; split <;> rfl
@[simp] theorem State.modSet_stopping (s : State) (w : Nat) (f : WeightSet → WeightSet) : (s.modSet w f).stopping = s.stopping := by unfold State.modSet; split <;> rfl
@[simp] theorem State.modSet_wasStopped (s : State) (w : Nat) (f : WeightSet → WeightSet) : (s.modSet w f).wasStopped = s.wasStopped := by unfold State.modSet; split <;> rfl
@[simp] theorem State.modSet_taking (s : State) (w : Nat) (f : WeightSet → WeightSet) : (s.modSet w f).taking = s.taking := by unfold State.modSet; split <;> rfl
@[simp] theorem State.modSet_merged (s : State) (w : Nat) (f : WeightSet → WeightSet) : (s.modSet w f).merged = s.merged := by unfold State.modSet; split <;> rfl
@[simp] theorem State.modSet_dropped (s : State) (w : Nat) (f : WeightSet → WeightSet) : (s.modSet w f).dropped = s.dropped := by unfold State.modSet; split <;> rfl
@[simp] theorem State.modSet_power (s : State) (w : Nat) (f : WeightSet → WeightSet) : (s.modSet w f).power = s.power := by unfold State.modSet; split <;> rfl
@[simp] theorem State.modSet_coords (s : State) (w : Nat) (f : WeightSet → WeightSet) : (s.modSet w f).coords = s.coords := by unfold State.modSet; split <;> rfl
@[simp] theorem State.modSet_host0 (s : State) (w : Nat) (f : WeightSet → WeightSet) : (s.modSet w f).host0 = s.host0 := by unfold State.modSet; split <;> rfl
@[simp] theorem State.modSet_host1 (s : State) (w : Nat) (f : WeightSet → WeightSet) : (s.modSet w f).host1 = s.host1 := by unfold State.modSet; split <;> rfl
@[simp] theorem State.modSet_primary (s : State) (w : Nat) (f : WeightSet → WeightSet) : (s.modSet w f).primary = s.primary := by unfold State.modSet; split <;> rfl
@[simp] theorem State.modSet_dgValue (s : State) (w : Nat) (f : WeightSet → WeightSet) : (s.modSet w f).dgValue = s.dgValue := by unfold State.modSet; split <;> rfl
@[simp] theorem State.modSet_dgMode (s : State) (w : Nat) (f : WeightSet → WeightSet) : (s.modSet w f).dgMode = s.dgMode := by unfold State.modSet; split <;> rfl
@[simp] theorem State.modSet_dgCtx (s : State) (w : Nat) (f : WeightSet → WeightSet) : (s.modSet w f).dgCtx = s.dgCtx := by unfold State.modSet; split <;> rfl
@[simp] theorem State.modSet_dgVid (s : State) (w : Nat) (f : WeightSet → WeightSet) : (s.modSet w f).dgVid = s.dgVid := by unfold State.modSet; split <;> rfl
@[simp] theorem State.modSet_dgGo (s : State) (w : Nat) (f : WeightSet → WeightSet) : (s.modSet w f).dgGo = s.dgGo := by unfold State.modSet; split <;> rfl
@[simp] theorem State.modSet_block (s : State) (w : Nat) (f : WeightSet → WeightSet) : (s.modSet w f).block = s.block := by unfold State.modSet; split <;> rfl
@[simp] theorem State.modSet_lastFault (s : State) (w : Nat) (f : WeightSet → WeightSet) : (s.modSet w f).lastFault = s.lastFault := by unfold State.modSet; split <;> rfl
@[simp] theorem State.modSet_lastFaultCount (s : State) (w : Nat) (f : WeightSet → WeightSet) : (s.modSet w f).lastFaultCount = s.lastFaultCount := by unfold State.modSet; split <;> rfl
@[simp] theorem State.modSet_inv (s : State) (w : Nat) (f : WeightSet → WeightSet) : (s.modSet w f).inv = s.inv := by unfold State.modSet; split <;> rfl
@[simp] theorem State.modSet_invL0 (s : State) (w : Nat) (f : WeightSet → WeightSet) : (s.modSet w f).invL0 = s.invL0 := by unfold State.modSet; split <;> rfl
@[simp] theorem State.modSet_invL1 (s : State) (w : Nat) (f : WeightSet → WeightSet) : (s.modSet w f).invL1 = s.invL1 := by unfold State.modSet; split <;> rfl
@[simp] theorem State.modSet_inventoryOk (s : State) (w : Nat) (f : WeightSet → WeightSet) : (s.modSet w f).inventoryOk = s.inventoryOk := by unfold State.modSet; split <;> rfl
@[simp] theorem State.modSet_identityOk (s : State) (w : Nat) (f : WeightSet → WeightSet) : (s.modSet w f).identityOk = s.identityOk := by unfold State.modSet; split <;> rfl
@[simp] theorem State.modSet_idKey (s : State) (w : Nat) (f : WeightSet → WeightSet) : (s.modSet w f).idKey = s.idKey := by unfold State.modSet; split <;> rfl
@[simp] theorem State.modSet_packageKeys (s : State) (w : Nat) (f : WeightSet → WeightSet) : (s.modSet w f).packageKeys = s.packageKeys := by unfold State.modSet; split <;> rfl
@[simp] theorem State.modSet_fw (s : State) (w : Nat) (f : WeightSet → WeightSet) : (s.modSet w f).fw = s.fw := by unfold State.modSet; split <;> rfl
@[simp] theorem State.modSet_fwRunning (s : State) (w : Nat) (f : WeightSet → WeightSet) : (s.modSet w f).fwRunning = s.fwRunning := by unfold State.modSet; split <;> rfl
@[simp] theorem State.modSet_svn0 (s : State) (w : Nat) (f : WeightSet → WeightSet) : (s.modSet w f).svn0 = s.svn0 := by unfold State.modSet; split <;> rfl
@[simp] theorem State.modSet_svn1 (s : State) (w : Nat) (f : WeightSet → WeightSet) : (s.modSet w f).svn1 = s.svn1 := by unfold State.modSet; split <;> rfl
@[simp] theorem State.modSet_measured (s : State) (w : Nat) (f : WeightSet → WeightSet) : (s.modSet w f).measured = s.measured := by unfold State.modSet; split <;> rfl
@[simp] theorem State.modSet_sessions (s : State) (w : Nat) (f : WeightSet → WeightSet) : (s.modSet w f).sessions = s.sessions := by unfold State.modSet; split <;> rfl
@[simp] theorem State.modSet_sensors (s : State) (w : Nat) (f : WeightSet → WeightSet) : (s.modSet w f).sensors = s.sensors := by unfold State.modSet; split <;> rfl
@[simp] theorem State.modSet_stateSensors (s : State) (w : Nat) (f : WeightSet → WeightSet) : (s.modSet w f).stateSensors = s.stateSensors := by unfold State.modSet; split <;> rfl
@[simp] theorem State.modSet_eventsFrom (s : State) (w : Nat) (f : WeightSet → WeightSet) : (s.modSet w f).eventsFrom = s.eventsFrom := by unfold State.modSet; split <;> rfl
@[simp] theorem State.modSet_events (s : State) (w : Nat) (f : WeightSet → WeightSet) : (s.modSet w f).events = s.events := by unfold State.modSet; split <;> rfl
@[simp] theorem State.modSet_smbusAddr (s : State) (w : Nat) (f : WeightSet → WeightSet) : (s.modSet w f).smbusAddr = s.smbusAddr := by unfold State.modSet; split <;> rfl
@[simp] theorem State.modSet_irqs (s : State) (w : Nat) (f : WeightSet → WeightSet) : (s.modSet w f).irqs = s.irqs := by unfold State.modSet; split <;> rfl
@[simp] theorem State.modSet_frameOut (s : State) (w : Nat) (f : WeightSet → WeightSet) : (s.modSet w f).frameOut = s.frameOut := by unfold State.modSet; split <;> rfl
@[simp] theorem State.modSet_delivered (s : State) (w : Nat) (f : WeightSet → WeightSet) : (s.modSet w f).delivered = s.delivered := by unfold State.modSet; split <;> rfl
@[simp] theorem State.modSet_packetOut (s : State) (w : Nat) (f : WeightSet → WeightSet) : (s.modSet w f).packetOut = s.packetOut := by unfold State.modSet; split <;> rfl
@[simp] theorem State.modSet_sent (s : State) (w : Nat) (f : WeightSet → WeightSet) : (s.modSet w f).sent = s.sent := by unfold State.modSet; split <;> rfl
@[simp] theorem State.modSet_answers (s : State) (w : Nat) (f : WeightSet → WeightSet) : (s.modSet w f).answers = s.answers := by unfold State.modSet; split <;> rfl

@[simp] theorem State.modCoord_pending (s : State) (j : Nat) (f : Coord → Coord) : (s.modCoord j f).pending = s.pending := by unfold State.modCoord; split <;> rfl
@[simp] theorem State.modCoord_now (s : State) (j : Nat) (f : Coord → Coord) : (s.modCoord j f).now = s.now := by unfold State.modCoord; split <;> rfl
@[simp] theorem State.modCoord_fresh (s : State) (j : Nat) (f : Coord → Coord) : (s.modCoord j f).fresh = s.fresh := by unfold State.modCoord; split <;> rfl
@[simp] theorem State.modCoord_pins (s : State) (j : Nat) (f : Coord → Coord) : (s.modCoord j f).pins = s.pins := by unfold State.modCoord; split <;> rfl
@[simp] theorem State.modCoord_service (s : State) (j : Nat) (f : Coord → Coord) : (s.modCoord j f).service = s.service := by unfold State.modCoord; split <;> rfl
@[simp] theorem State.modCoord_phase (s : State) (j : Nat) (f : Coord → Coord) : (s.modCoord j f).phase = s.phase := by unfold State.modCoord; split <;> rfl
@[simp] theorem State.modCoord_halted (s : State) (j : Nat) (f : Coord → Coord) : (s.modCoord j f).halted = s.halted := by unfold State.modCoord; split <;> rfl
@[simp] theorem State.modCoord_epochBad (s : State) (j : Nat) (f : Coord → Coord) : (s.modCoord j f).epochBad = s.epochBad := by unfold State.modCoord; split <;> rfl
@[simp] theorem State.modCoord_broken (s : State) (j : Nat) (f : Coord → Coord) : (s.modCoord j f).broken = s.broken := by unfold State.modCoord; split <;> rfl
@[simp] theorem State.modCoord_admitted (s : State) (j : Nat) (f : Coord → Coord) : (s.modCoord j f).admitted = s.admitted := by unfold State.modCoord; split <;> rfl
@[simp] theorem State.modCoord_mem (s : State) (j : Nat) (f : Coord → Coord) : (s.modCoord j f).mem = s.mem := by unfold State.modCoord; split <;> rfl
@[simp] theorem State.modCoord_hostMem (s : State) (j : Nat) (f : Coord → Coord) : (s.modCoord j f).hostMem = s.hostMem := by unfold State.modCoord; split <;> rfl
@[simp] theorem State.modCoord_marks (s : State) (j : Nat) (f : Coord → Coord) : (s.modCoord j f).marks = s.marks := by unfold State.modCoord; split <;> rfl
@[simp] theorem State.modCoord_pageErrs (s : State) (j : Nat) (f : Coord → Coord) : (s.modCoord j f).pageErrs = s.pageErrs := by unfold State.modCoord; split <;> rfl
@[simp] theorem State.modCoord_dies (s : State) (j : Nat) (f : Coord → Coord) : (s.modCoord j f).dies = s.dies := by unfold State.modCoord; split <;> rfl
@[simp] theorem State.modCoord_cores (s : State) (j : Nat) (f : Coord → Coord) : (s.modCoord j f).cores = s.cores := by unfold State.modCoord; split <;> rfl
@[simp] theorem State.modCoord_channels (s : State) (j : Nat) (f : Coord → Coord) : (s.modCoord j f).channels = s.channels := by unfold State.modCoord; split <;> rfl
@[simp] theorem State.modCoord_frames (s : State) (j : Nat) (f : Coord → Coord) : (s.modCoord j f).frames = s.frames := by unfold State.modCoord; split <;> rfl
@[simp] theorem State.modCoord_owners (s : State) (j : Nat) (f : Coord → Coord) : (s.modCoord j f).owners = s.owners := by unfold State.modCoord; split <;> rfl
@[simp] theorem State.modCoord_written (s : State) (j : Nat) (f : Coord → Coord) : (s.modCoord j f).written = s.written := by unfold State.modCoord; split <;> rfl
@[simp] theorem State.modCoord_scrubHours (s : State) (j : Nat) (f : Coord → Coord) : (s.modCoord j f).scrubHours = s.scrubHours := by unfold State.modCoord; split <;> rfl
@[simp] theorem State.modCoord_spareFrames (s : State) (j : Nat) (f : Coord → Coord) : (s.modCoord j f).spareFrames = s.spareFrames := by unfold State.modCoord; split <;> rfl
@[simp] theorem State.modCoord_contexts (s : State) (j : Nat) (f : Coord → Coord) : (s.modCoord j f).contexts = s.contexts := by unfold State.modCoord; split <;> rfl
@[simp] theorem State.modCoord_queues (s : State) (j : Nat) (f : Coord → Coord) : (s.modCoord j f).queues = s.queues := by unfold State.modCoord; split <;> rfl
@[simp] theorem State.modCoord_serial (s : State) (j : Nat) (f : Coord → Coord) : (s.modCoord j f).serial = s.serial := by unfold State.modCoord; split <;> rfl
@[simp] theorem State.modCoord_sets (s : State) (j : Nat) (f : Coord → Coord) : (s.modCoord j f).sets = s.sets := by unfold State.modCoord; split <;> rfl
@[simp] theorem State.modCoord_crates (s : State) (j : Nat) (f : Coord → Coord) : (s.modCoord j f).crates = s.crates := by unfold State.modCoord; split <;> rfl
@[simp] theorem State.modCoord_crateNext (s : State) (j : Nat) (f : Coord → Coord) : (s.modCoord j f).crateNext = s.crateNext := by unfold State.modCoord; split <;> rfl
@[simp] theorem State.modCoord_tallyMsgs (s : State) (j : Nat) (f : Coord → Coord) : (s.modCoord j f).tallyMsgs = s.tallyMsgs := by unfold State.modCoord; split <;> rfl
@[simp] theorem State.modCoord_meshWait (s : State) (j : Nat) (f : Coord → Coord) : (s.modCoord j f).meshWait = s.meshWait := by unfold State.modCoord; split <;> rfl
@[simp] theorem State.modCoord_ports (s : State) (j : Nat) (f : Coord → Coord) : (s.modCoord j f).ports = s.ports := by unfold State.modCoord; split <;> rfl
@[simp] theorem State.modCoord_pkgId (s : State) (j : Nat) (f : Coord → Coord) : (s.modCoord j f).pkgId = s.pkgId := by unfold State.modCoord; split <;> rfl
@[simp] theorem State.modCoord_flows (s : State) (j : Nat) (f : Coord → Coord) : (s.modCoord j f).flows = s.flows := by unfold State.modCoord; split <;> rfl
@[simp] theorem State.modCoord_rxFlows (s : State) (j : Nat) (f : Coord → Coord) : (s.modCoord j f).rxFlows = s.rxFlows := by unfold State.modCoord; split <;> rfl
@[simp] theorem State.modCoord_transits (s : State) (j : Nat) (f : Coord → Coord) : (s.modCoord j f).transits = s.transits := by unfold State.modCoord; split <;> rfl
@[simp] theorem State.modCoord_groups (s : State) (j : Nat) (f : Coord → Coord) : (s.modCoord j f).groups = s.groups := by unfold State.modCoord; split <;> rfl
@[simp] theorem State.modCoord_pathJobs (s : State) (j : Nat) (f : Coord → Coord) : (s.modCoord j f).pathJobs = s.pathJobs := by unfold State.modCoord; split <;> rfl
@[simp] theorem State.modCoord_time (s : State) (j : Nat) (f : Coord → Coord) : (s.modCoord j f).time = s.time := by unfold State.modCoord; split <;> rfl
@[simp] theorem State.modCoord_keeper0 (s : State) (j : Nat) (f : Coord → Coord) : (s.modCoord j f).keeper0 = s.keeper0 := by unfold State.modCoord; split <;> rfl
@[simp] theorem State.modCoord_keeper1 (s : State) (j : Nat) (f : Coord → Coord) : (s.modCoord j f).keeper1 = s.keeper1 := by unfold State.modCoord; split <;> rfl
@[simp] theorem State.modCoord_keeperEpoch (s : State) (j : Nat) (f : Coord → Coord) : (s.modCoord j f).keeperEpoch = s.keeperEpoch := by unfold State.modCoord; split <;> rfl
@[simp] theorem State.modCoord_holder (s : State) (j : Nat) (f : Coord → Coord) : (s.modCoord j f).holder = s.holder := by unfold State.modCoord; split <;> rfl
@[simp] theorem State.modCoord_lastBeat (s : State) (j : Nat) (f : Coord → Coord) : (s.modCoord j f).lastBeat = s.lastBeat := by unfold State.modCoord; split <;> rfl
@[simp] theorem State.modCoord_hatch0 (s : State) (j : Nat) (f : Coord → Coord) : (s.modCoord j f).hatch0 = s.hatch0 := by unfold State.modCoord; split <;> rfl
@[simp] theorem State.modCoord_hatch1 (s : State) (j : Nat) (f : Coord → Coord) : (s.modCoord j f).hatch1 = s.hatch1 := by unfold State.modCoord; split <;> rfl
@[simp] theorem State.modCoord_journal (s : State) (j : Nat) (f : Coord → Coord) : (s.modCoord j f).journal = s.journal := by unfold State.modCoord; split <;> rfl
@[simp] theorem State.modCoord_journalNext (s : State) (j : Nat) (f : Coord → Coord) : (s.modCoord j f).journalNext = s.journalNext := by unfold State.modCoord; split <;> rfl
@[simp] theorem State.modCoord_recover (s : State) (j : Nat) (f : Coord → Coord) : (s.modCoord j f).recover = s.recover := by unfold State.modCoord; split <;> rfl
@[simp] theorem State.modCoord_stopping (s : State) (j : Nat) (f : Coord → Coord) : (s.modCoord j f).stopping = s.stopping := by unfold State.modCoord; split <;> rfl
@[simp] theorem State.modCoord_wasStopped (s : State) (j : Nat) (f : Coord → Coord) : (s.modCoord j f).wasStopped = s.wasStopped := by unfold State.modCoord; split <;> rfl
@[simp] theorem State.modCoord_taking (s : State) (j : Nat) (f : Coord → Coord) : (s.modCoord j f).taking = s.taking := by unfold State.modCoord; split <;> rfl
@[simp] theorem State.modCoord_merged (s : State) (j : Nat) (f : Coord → Coord) : (s.modCoord j f).merged = s.merged := by unfold State.modCoord; split <;> rfl
@[simp] theorem State.modCoord_dropped (s : State) (j : Nat) (f : Coord → Coord) : (s.modCoord j f).dropped = s.dropped := by unfold State.modCoord; split <;> rfl
@[simp] theorem State.modCoord_power (s : State) (j : Nat) (f : Coord → Coord) : (s.modCoord j f).power = s.power := by unfold State.modCoord; split <;> rfl
@[simp] theorem State.modCoord_host0 (s : State) (j : Nat) (f : Coord → Coord) : (s.modCoord j f).host0 = s.host0 := by unfold State.modCoord; split <;> rfl
@[simp] theorem State.modCoord_host1 (s : State) (j : Nat) (f : Coord → Coord) : (s.modCoord j f).host1 = s.host1 := by unfold State.modCoord; split <;> rfl
@[simp] theorem State.modCoord_primary (s : State) (j : Nat) (f : Coord → Coord) : (s.modCoord j f).primary = s.primary := by unfold State.modCoord; split <;> rfl
@[simp] theorem State.modCoord_dgValue (s : State) (j : Nat) (f : Coord → Coord) : (s.modCoord j f).dgValue = s.dgValue := by unfold State.modCoord; split <;> rfl
@[simp] theorem State.modCoord_dgMode (s : State) (j : Nat) (f : Coord → Coord) : (s.modCoord j f).dgMode = s.dgMode := by unfold State.modCoord; split <;> rfl
@[simp] theorem State.modCoord_dgCtx (s : State) (j : Nat) (f : Coord → Coord) : (s.modCoord j f).dgCtx = s.dgCtx := by unfold State.modCoord; split <;> rfl
@[simp] theorem State.modCoord_dgVid (s : State) (j : Nat) (f : Coord → Coord) : (s.modCoord j f).dgVid = s.dgVid := by unfold State.modCoord; split <;> rfl
@[simp] theorem State.modCoord_dgGo (s : State) (j : Nat) (f : Coord → Coord) : (s.modCoord j f).dgGo = s.dgGo := by unfold State.modCoord; split <;> rfl
@[simp] theorem State.modCoord_block (s : State) (j : Nat) (f : Coord → Coord) : (s.modCoord j f).block = s.block := by unfold State.modCoord; split <;> rfl
@[simp] theorem State.modCoord_lastFault (s : State) (j : Nat) (f : Coord → Coord) : (s.modCoord j f).lastFault = s.lastFault := by unfold State.modCoord; split <;> rfl
@[simp] theorem State.modCoord_lastFaultCount (s : State) (j : Nat) (f : Coord → Coord) : (s.modCoord j f).lastFaultCount = s.lastFaultCount := by unfold State.modCoord; split <;> rfl
@[simp] theorem State.modCoord_inv (s : State) (j : Nat) (f : Coord → Coord) : (s.modCoord j f).inv = s.inv := by unfold State.modCoord; split <;> rfl
@[simp] theorem State.modCoord_invL0 (s : State) (j : Nat) (f : Coord → Coord) : (s.modCoord j f).invL0 = s.invL0 := by unfold State.modCoord; split <;> rfl
@[simp] theorem State.modCoord_invL1 (s : State) (j : Nat) (f : Coord → Coord) : (s.modCoord j f).invL1 = s.invL1 := by unfold State.modCoord; split <;> rfl
@[simp] theorem State.modCoord_inventoryOk (s : State) (j : Nat) (f : Coord → Coord) : (s.modCoord j f).inventoryOk = s.inventoryOk := by unfold State.modCoord; split <;> rfl
@[simp] theorem State.modCoord_identityOk (s : State) (j : Nat) (f : Coord → Coord) : (s.modCoord j f).identityOk = s.identityOk := by unfold State.modCoord; split <;> rfl
@[simp] theorem State.modCoord_idKey (s : State) (j : Nat) (f : Coord → Coord) : (s.modCoord j f).idKey = s.idKey := by unfold State.modCoord; split <;> rfl
@[simp] theorem State.modCoord_packageKeys (s : State) (j : Nat) (f : Coord → Coord) : (s.modCoord j f).packageKeys = s.packageKeys := by unfold State.modCoord; split <;> rfl
@[simp] theorem State.modCoord_fw (s : State) (j : Nat) (f : Coord → Coord) : (s.modCoord j f).fw = s.fw := by unfold State.modCoord; split <;> rfl
@[simp] theorem State.modCoord_fwRunning (s : State) (j : Nat) (f : Coord → Coord) : (s.modCoord j f).fwRunning = s.fwRunning := by unfold State.modCoord; split <;> rfl
@[simp] theorem State.modCoord_svn0 (s : State) (j : Nat) (f : Coord → Coord) : (s.modCoord j f).svn0 = s.svn0 := by unfold State.modCoord; split <;> rfl
@[simp] theorem State.modCoord_svn1 (s : State) (j : Nat) (f : Coord → Coord) : (s.modCoord j f).svn1 = s.svn1 := by unfold State.modCoord; split <;> rfl
@[simp] theorem State.modCoord_measured (s : State) (j : Nat) (f : Coord → Coord) : (s.modCoord j f).measured = s.measured := by unfold State.modCoord; split <;> rfl
@[simp] theorem State.modCoord_sessions (s : State) (j : Nat) (f : Coord → Coord) : (s.modCoord j f).sessions = s.sessions := by unfold State.modCoord; split <;> rfl
@[simp] theorem State.modCoord_sensors (s : State) (j : Nat) (f : Coord → Coord) : (s.modCoord j f).sensors = s.sensors := by unfold State.modCoord; split <;> rfl
@[simp] theorem State.modCoord_stateSensors (s : State) (j : Nat) (f : Coord → Coord) : (s.modCoord j f).stateSensors = s.stateSensors := by unfold State.modCoord; split <;> rfl
@[simp] theorem State.modCoord_eventsFrom (s : State) (j : Nat) (f : Coord → Coord) : (s.modCoord j f).eventsFrom = s.eventsFrom := by unfold State.modCoord; split <;> rfl
@[simp] theorem State.modCoord_events (s : State) (j : Nat) (f : Coord → Coord) : (s.modCoord j f).events = s.events := by unfold State.modCoord; split <;> rfl
@[simp] theorem State.modCoord_smbusAddr (s : State) (j : Nat) (f : Coord → Coord) : (s.modCoord j f).smbusAddr = s.smbusAddr := by unfold State.modCoord; split <;> rfl
@[simp] theorem State.modCoord_irqs (s : State) (j : Nat) (f : Coord → Coord) : (s.modCoord j f).irqs = s.irqs := by unfold State.modCoord; split <;> rfl
@[simp] theorem State.modCoord_frameOut (s : State) (j : Nat) (f : Coord → Coord) : (s.modCoord j f).frameOut = s.frameOut := by unfold State.modCoord; split <;> rfl
@[simp] theorem State.modCoord_delivered (s : State) (j : Nat) (f : Coord → Coord) : (s.modCoord j f).delivered = s.delivered := by unfold State.modCoord; split <;> rfl
@[simp] theorem State.modCoord_packetOut (s : State) (j : Nat) (f : Coord → Coord) : (s.modCoord j f).packetOut = s.packetOut := by unfold State.modCoord; split <;> rfl
@[simp] theorem State.modCoord_sent (s : State) (j : Nat) (f : Coord → Coord) : (s.modCoord j f).sent = s.sent := by unfold State.modCoord; split <;> rfl
@[simp] theorem State.modCoord_answers (s : State) (j : Nat) (f : Coord → Coord) : (s.modCoord j f).answers = s.answers := by unfold State.modCoord; split <;> rfl

@[simp] theorem State.setHp_pending (s : State) (p : Nat) (x : HostPort) : (s.setHp p x).pending = s.pending := by unfold State.setHp; split <;> rfl
@[simp] theorem State.setHp_now (s : State) (p : Nat) (x : HostPort) : (s.setHp p x).now = s.now := by unfold State.setHp; split <;> rfl
@[simp] theorem State.setHp_fresh (s : State) (p : Nat) (x : HostPort) : (s.setHp p x).fresh = s.fresh := by unfold State.setHp; split <;> rfl
@[simp] theorem State.setHp_pins (s : State) (p : Nat) (x : HostPort) : (s.setHp p x).pins = s.pins := by unfold State.setHp; split <;> rfl
@[simp] theorem State.setHp_service (s : State) (p : Nat) (x : HostPort) : (s.setHp p x).service = s.service := by unfold State.setHp; split <;> rfl
@[simp] theorem State.setHp_phase (s : State) (p : Nat) (x : HostPort) : (s.setHp p x).phase = s.phase := by unfold State.setHp; split <;> rfl
@[simp] theorem State.setHp_halted (s : State) (p : Nat) (x : HostPort) : (s.setHp p x).halted = s.halted := by unfold State.setHp; split <;> rfl
@[simp] theorem State.setHp_epochBad (s : State) (p : Nat) (x : HostPort) : (s.setHp p x).epochBad = s.epochBad := by unfold State.setHp; split <;> rfl
@[simp] theorem State.setHp_broken (s : State) (p : Nat) (x : HostPort) : (s.setHp p x).broken = s.broken := by unfold State.setHp; split <;> rfl
@[simp] theorem State.setHp_admitted (s : State) (p : Nat) (x : HostPort) : (s.setHp p x).admitted = s.admitted := by unfold State.setHp; split <;> rfl
@[simp] theorem State.setHp_mem (s : State) (p : Nat) (x : HostPort) : (s.setHp p x).mem = s.mem := by unfold State.setHp; split <;> rfl
@[simp] theorem State.setHp_hostMem (s : State) (p : Nat) (x : HostPort) : (s.setHp p x).hostMem = s.hostMem := by unfold State.setHp; split <;> rfl
@[simp] theorem State.setHp_marks (s : State) (p : Nat) (x : HostPort) : (s.setHp p x).marks = s.marks := by unfold State.setHp; split <;> rfl
@[simp] theorem State.setHp_pageErrs (s : State) (p : Nat) (x : HostPort) : (s.setHp p x).pageErrs = s.pageErrs := by unfold State.setHp; split <;> rfl
@[simp] theorem State.setHp_dies (s : State) (p : Nat) (x : HostPort) : (s.setHp p x).dies = s.dies := by unfold State.setHp; split <;> rfl
@[simp] theorem State.setHp_cores (s : State) (p : Nat) (x : HostPort) : (s.setHp p x).cores = s.cores := by unfold State.setHp; split <;> rfl
@[simp] theorem State.setHp_channels (s : State) (p : Nat) (x : HostPort) : (s.setHp p x).channels = s.channels := by unfold State.setHp; split <;> rfl
@[simp] theorem State.setHp_frames (s : State) (p : Nat) (x : HostPort) : (s.setHp p x).frames = s.frames := by unfold State.setHp; split <;> rfl
@[simp] theorem State.setHp_owners (s : State) (p : Nat) (x : HostPort) : (s.setHp p x).owners = s.owners := by unfold State.setHp; split <;> rfl
@[simp] theorem State.setHp_written (s : State) (p : Nat) (x : HostPort) : (s.setHp p x).written = s.written := by unfold State.setHp; split <;> rfl
@[simp] theorem State.setHp_scrubHours (s : State) (p : Nat) (x : HostPort) : (s.setHp p x).scrubHours = s.scrubHours := by unfold State.setHp; split <;> rfl
@[simp] theorem State.setHp_spareFrames (s : State) (p : Nat) (x : HostPort) : (s.setHp p x).spareFrames = s.spareFrames := by unfold State.setHp; split <;> rfl
@[simp] theorem State.setHp_contexts (s : State) (p : Nat) (x : HostPort) : (s.setHp p x).contexts = s.contexts := by unfold State.setHp; split <;> rfl
@[simp] theorem State.setHp_queues (s : State) (p : Nat) (x : HostPort) : (s.setHp p x).queues = s.queues := by unfold State.setHp; split <;> rfl
@[simp] theorem State.setHp_serial (s : State) (p : Nat) (x : HostPort) : (s.setHp p x).serial = s.serial := by unfold State.setHp; split <;> rfl
@[simp] theorem State.setHp_sets (s : State) (p : Nat) (x : HostPort) : (s.setHp p x).sets = s.sets := by unfold State.setHp; split <;> rfl
@[simp] theorem State.setHp_crates (s : State) (p : Nat) (x : HostPort) : (s.setHp p x).crates = s.crates := by unfold State.setHp; split <;> rfl
@[simp] theorem State.setHp_crateNext (s : State) (p : Nat) (x : HostPort) : (s.setHp p x).crateNext = s.crateNext := by unfold State.setHp; split <;> rfl
@[simp] theorem State.setHp_tallyMsgs (s : State) (p : Nat) (x : HostPort) : (s.setHp p x).tallyMsgs = s.tallyMsgs := by unfold State.setHp; split <;> rfl
@[simp] theorem State.setHp_meshWait (s : State) (p : Nat) (x : HostPort) : (s.setHp p x).meshWait = s.meshWait := by unfold State.setHp; split <;> rfl
@[simp] theorem State.setHp_ports (s : State) (p : Nat) (x : HostPort) : (s.setHp p x).ports = s.ports := by unfold State.setHp; split <;> rfl
@[simp] theorem State.setHp_pkgId (s : State) (p : Nat) (x : HostPort) : (s.setHp p x).pkgId = s.pkgId := by unfold State.setHp; split <;> rfl
@[simp] theorem State.setHp_flows (s : State) (p : Nat) (x : HostPort) : (s.setHp p x).flows = s.flows := by unfold State.setHp; split <;> rfl
@[simp] theorem State.setHp_rxFlows (s : State) (p : Nat) (x : HostPort) : (s.setHp p x).rxFlows = s.rxFlows := by unfold State.setHp; split <;> rfl
@[simp] theorem State.setHp_transits (s : State) (p : Nat) (x : HostPort) : (s.setHp p x).transits = s.transits := by unfold State.setHp; split <;> rfl
@[simp] theorem State.setHp_groups (s : State) (p : Nat) (x : HostPort) : (s.setHp p x).groups = s.groups := by unfold State.setHp; split <;> rfl
@[simp] theorem State.setHp_pathJobs (s : State) (p : Nat) (x : HostPort) : (s.setHp p x).pathJobs = s.pathJobs := by unfold State.setHp; split <;> rfl
@[simp] theorem State.setHp_time (s : State) (p : Nat) (x : HostPort) : (s.setHp p x).time = s.time := by unfold State.setHp; split <;> rfl
@[simp] theorem State.setHp_keeper0 (s : State) (p : Nat) (x : HostPort) : (s.setHp p x).keeper0 = s.keeper0 := by unfold State.setHp; split <;> rfl
@[simp] theorem State.setHp_keeper1 (s : State) (p : Nat) (x : HostPort) : (s.setHp p x).keeper1 = s.keeper1 := by unfold State.setHp; split <;> rfl
@[simp] theorem State.setHp_keeperEpoch (s : State) (p : Nat) (x : HostPort) : (s.setHp p x).keeperEpoch = s.keeperEpoch := by unfold State.setHp; split <;> rfl
@[simp] theorem State.setHp_holder (s : State) (p : Nat) (x : HostPort) : (s.setHp p x).holder = s.holder := by unfold State.setHp; split <;> rfl
@[simp] theorem State.setHp_lastBeat (s : State) (p : Nat) (x : HostPort) : (s.setHp p x).lastBeat = s.lastBeat := by unfold State.setHp; split <;> rfl
@[simp] theorem State.setHp_hatch0 (s : State) (p : Nat) (x : HostPort) : (s.setHp p x).hatch0 = s.hatch0 := by unfold State.setHp; split <;> rfl
@[simp] theorem State.setHp_hatch1 (s : State) (p : Nat) (x : HostPort) : (s.setHp p x).hatch1 = s.hatch1 := by unfold State.setHp; split <;> rfl
@[simp] theorem State.setHp_journal (s : State) (p : Nat) (x : HostPort) : (s.setHp p x).journal = s.journal := by unfold State.setHp; split <;> rfl
@[simp] theorem State.setHp_journalNext (s : State) (p : Nat) (x : HostPort) : (s.setHp p x).journalNext = s.journalNext := by unfold State.setHp; split <;> rfl
@[simp] theorem State.setHp_recover (s : State) (p : Nat) (x : HostPort) : (s.setHp p x).recover = s.recover := by unfold State.setHp; split <;> rfl
@[simp] theorem State.setHp_stopping (s : State) (p : Nat) (x : HostPort) : (s.setHp p x).stopping = s.stopping := by unfold State.setHp; split <;> rfl
@[simp] theorem State.setHp_wasStopped (s : State) (p : Nat) (x : HostPort) : (s.setHp p x).wasStopped = s.wasStopped := by unfold State.setHp; split <;> rfl
@[simp] theorem State.setHp_taking (s : State) (p : Nat) (x : HostPort) : (s.setHp p x).taking = s.taking := by unfold State.setHp; split <;> rfl
@[simp] theorem State.setHp_merged (s : State) (p : Nat) (x : HostPort) : (s.setHp p x).merged = s.merged := by unfold State.setHp; split <;> rfl
@[simp] theorem State.setHp_dropped (s : State) (p : Nat) (x : HostPort) : (s.setHp p x).dropped = s.dropped := by unfold State.setHp; split <;> rfl
@[simp] theorem State.setHp_power (s : State) (p : Nat) (x : HostPort) : (s.setHp p x).power = s.power := by unfold State.setHp; split <;> rfl
@[simp] theorem State.setHp_coords (s : State) (p : Nat) (x : HostPort) : (s.setHp p x).coords = s.coords := by unfold State.setHp; split <;> rfl
@[simp] theorem State.setHp_primary (s : State) (p : Nat) (x : HostPort) : (s.setHp p x).primary = s.primary := by unfold State.setHp; split <;> rfl
@[simp] theorem State.setHp_dgValue (s : State) (p : Nat) (x : HostPort) : (s.setHp p x).dgValue = s.dgValue := by unfold State.setHp; split <;> rfl
@[simp] theorem State.setHp_dgMode (s : State) (p : Nat) (x : HostPort) : (s.setHp p x).dgMode = s.dgMode := by unfold State.setHp; split <;> rfl
@[simp] theorem State.setHp_dgCtx (s : State) (p : Nat) (x : HostPort) : (s.setHp p x).dgCtx = s.dgCtx := by unfold State.setHp; split <;> rfl
@[simp] theorem State.setHp_dgVid (s : State) (p : Nat) (x : HostPort) : (s.setHp p x).dgVid = s.dgVid := by unfold State.setHp; split <;> rfl
@[simp] theorem State.setHp_dgGo (s : State) (p : Nat) (x : HostPort) : (s.setHp p x).dgGo = s.dgGo := by unfold State.setHp; split <;> rfl
@[simp] theorem State.setHp_block (s : State) (p : Nat) (x : HostPort) : (s.setHp p x).block = s.block := by unfold State.setHp; split <;> rfl
@[simp] theorem State.setHp_lastFault (s : State) (p : Nat) (x : HostPort) : (s.setHp p x).lastFault = s.lastFault := by unfold State.setHp; split <;> rfl
@[simp] theorem State.setHp_lastFaultCount (s : State) (p : Nat) (x : HostPort) : (s.setHp p x).lastFaultCount = s.lastFaultCount := by unfold State.setHp; split <;> rfl
@[simp] theorem State.setHp_inv (s : State) (p : Nat) (x : HostPort) : (s.setHp p x).inv = s.inv := by unfold State.setHp; split <;> rfl
@[simp] theorem State.setHp_invL0 (s : State) (p : Nat) (x : HostPort) : (s.setHp p x).invL0 = s.invL0 := by unfold State.setHp; split <;> rfl
@[simp] theorem State.setHp_invL1 (s : State) (p : Nat) (x : HostPort) : (s.setHp p x).invL1 = s.invL1 := by unfold State.setHp; split <;> rfl
@[simp] theorem State.setHp_inventoryOk (s : State) (p : Nat) (x : HostPort) : (s.setHp p x).inventoryOk = s.inventoryOk := by unfold State.setHp; split <;> rfl
@[simp] theorem State.setHp_identityOk (s : State) (p : Nat) (x : HostPort) : (s.setHp p x).identityOk = s.identityOk := by unfold State.setHp; split <;> rfl
@[simp] theorem State.setHp_idKey (s : State) (p : Nat) (x : HostPort) : (s.setHp p x).idKey = s.idKey := by unfold State.setHp; split <;> rfl
@[simp] theorem State.setHp_packageKeys (s : State) (p : Nat) (x : HostPort) : (s.setHp p x).packageKeys = s.packageKeys := by unfold State.setHp; split <;> rfl
@[simp] theorem State.setHp_fw (s : State) (p : Nat) (x : HostPort) : (s.setHp p x).fw = s.fw := by unfold State.setHp; split <;> rfl
@[simp] theorem State.setHp_fwRunning (s : State) (p : Nat) (x : HostPort) : (s.setHp p x).fwRunning = s.fwRunning := by unfold State.setHp; split <;> rfl
@[simp] theorem State.setHp_svn0 (s : State) (p : Nat) (x : HostPort) : (s.setHp p x).svn0 = s.svn0 := by unfold State.setHp; split <;> rfl
@[simp] theorem State.setHp_svn1 (s : State) (p : Nat) (x : HostPort) : (s.setHp p x).svn1 = s.svn1 := by unfold State.setHp; split <;> rfl
@[simp] theorem State.setHp_measured (s : State) (p : Nat) (x : HostPort) : (s.setHp p x).measured = s.measured := by unfold State.setHp; split <;> rfl
@[simp] theorem State.setHp_sessions (s : State) (p : Nat) (x : HostPort) : (s.setHp p x).sessions = s.sessions := by unfold State.setHp; split <;> rfl
@[simp] theorem State.setHp_sensors (s : State) (p : Nat) (x : HostPort) : (s.setHp p x).sensors = s.sensors := by unfold State.setHp; split <;> rfl
@[simp] theorem State.setHp_stateSensors (s : State) (p : Nat) (x : HostPort) : (s.setHp p x).stateSensors = s.stateSensors := by unfold State.setHp; split <;> rfl
@[simp] theorem State.setHp_eventsFrom (s : State) (p : Nat) (x : HostPort) : (s.setHp p x).eventsFrom = s.eventsFrom := by unfold State.setHp; split <;> rfl
@[simp] theorem State.setHp_events (s : State) (p : Nat) (x : HostPort) : (s.setHp p x).events = s.events := by unfold State.setHp; split <;> rfl
@[simp] theorem State.setHp_smbusAddr (s : State) (p : Nat) (x : HostPort) : (s.setHp p x).smbusAddr = s.smbusAddr := by unfold State.setHp; split <;> rfl
@[simp] theorem State.setHp_irqs (s : State) (p : Nat) (x : HostPort) : (s.setHp p x).irqs = s.irqs := by unfold State.setHp; split <;> rfl
@[simp] theorem State.setHp_frameOut (s : State) (p : Nat) (x : HostPort) : (s.setHp p x).frameOut = s.frameOut := by unfold State.setHp; split <;> rfl
@[simp] theorem State.setHp_delivered (s : State) (p : Nat) (x : HostPort) : (s.setHp p x).delivered = s.delivered := by unfold State.setHp; split <;> rfl
@[simp] theorem State.setHp_packetOut (s : State) (p : Nat) (x : HostPort) : (s.setHp p x).packetOut = s.packetOut := by unfold State.setHp; split <;> rfl
@[simp] theorem State.setHp_sent (s : State) (p : Nat) (x : HostPort) : (s.setHp p x).sent = s.sent := by unfold State.setHp; split <;> rfl
@[simp] theorem State.setHp_answers (s : State) (p : Nat) (x : HostPort) : (s.setHp p x).answers = s.answers := by unfold State.setHp; split <;> rfl

@[simp] theorem State.modHp_pending (s : State) (p : Nat) (f : HostPort → HostPort) : (s.modHp p f).pending = s.pending := by unfold State.modHp State.setHp; split <;> rfl
@[simp] theorem State.modHp_now (s : State) (p : Nat) (f : HostPort → HostPort) : (s.modHp p f).now = s.now := by unfold State.modHp State.setHp; split <;> rfl
@[simp] theorem State.modHp_fresh (s : State) (p : Nat) (f : HostPort → HostPort) : (s.modHp p f).fresh = s.fresh := by unfold State.modHp State.setHp; split <;> rfl
@[simp] theorem State.modHp_pins (s : State) (p : Nat) (f : HostPort → HostPort) : (s.modHp p f).pins = s.pins := by unfold State.modHp State.setHp; split <;> rfl
@[simp] theorem State.modHp_service (s : State) (p : Nat) (f : HostPort → HostPort) : (s.modHp p f).service = s.service := by unfold State.modHp State.setHp; split <;> rfl
@[simp] theorem State.modHp_phase (s : State) (p : Nat) (f : HostPort → HostPort) : (s.modHp p f).phase = s.phase := by unfold State.modHp State.setHp; split <;> rfl
@[simp] theorem State.modHp_halted (s : State) (p : Nat) (f : HostPort → HostPort) : (s.modHp p f).halted = s.halted := by unfold State.modHp State.setHp; split <;> rfl
@[simp] theorem State.modHp_epochBad (s : State) (p : Nat) (f : HostPort → HostPort) : (s.modHp p f).epochBad = s.epochBad := by unfold State.modHp State.setHp; split <;> rfl
@[simp] theorem State.modHp_broken (s : State) (p : Nat) (f : HostPort → HostPort) : (s.modHp p f).broken = s.broken := by unfold State.modHp State.setHp; split <;> rfl
@[simp] theorem State.modHp_admitted (s : State) (p : Nat) (f : HostPort → HostPort) : (s.modHp p f).admitted = s.admitted := by unfold State.modHp State.setHp; split <;> rfl
@[simp] theorem State.modHp_mem (s : State) (p : Nat) (f : HostPort → HostPort) : (s.modHp p f).mem = s.mem := by unfold State.modHp State.setHp; split <;> rfl
@[simp] theorem State.modHp_hostMem (s : State) (p : Nat) (f : HostPort → HostPort) : (s.modHp p f).hostMem = s.hostMem := by unfold State.modHp State.setHp; split <;> rfl
@[simp] theorem State.modHp_marks (s : State) (p : Nat) (f : HostPort → HostPort) : (s.modHp p f).marks = s.marks := by unfold State.modHp State.setHp; split <;> rfl
@[simp] theorem State.modHp_pageErrs (s : State) (p : Nat) (f : HostPort → HostPort) : (s.modHp p f).pageErrs = s.pageErrs := by unfold State.modHp State.setHp; split <;> rfl
@[simp] theorem State.modHp_dies (s : State) (p : Nat) (f : HostPort → HostPort) : (s.modHp p f).dies = s.dies := by unfold State.modHp State.setHp; split <;> rfl
@[simp] theorem State.modHp_cores (s : State) (p : Nat) (f : HostPort → HostPort) : (s.modHp p f).cores = s.cores := by unfold State.modHp State.setHp; split <;> rfl
@[simp] theorem State.modHp_channels (s : State) (p : Nat) (f : HostPort → HostPort) : (s.modHp p f).channels = s.channels := by unfold State.modHp State.setHp; split <;> rfl
@[simp] theorem State.modHp_frames (s : State) (p : Nat) (f : HostPort → HostPort) : (s.modHp p f).frames = s.frames := by unfold State.modHp State.setHp; split <;> rfl
@[simp] theorem State.modHp_owners (s : State) (p : Nat) (f : HostPort → HostPort) : (s.modHp p f).owners = s.owners := by unfold State.modHp State.setHp; split <;> rfl
@[simp] theorem State.modHp_written (s : State) (p : Nat) (f : HostPort → HostPort) : (s.modHp p f).written = s.written := by unfold State.modHp State.setHp; split <;> rfl
@[simp] theorem State.modHp_scrubHours (s : State) (p : Nat) (f : HostPort → HostPort) : (s.modHp p f).scrubHours = s.scrubHours := by unfold State.modHp State.setHp; split <;> rfl
@[simp] theorem State.modHp_spareFrames (s : State) (p : Nat) (f : HostPort → HostPort) : (s.modHp p f).spareFrames = s.spareFrames := by unfold State.modHp State.setHp; split <;> rfl
@[simp] theorem State.modHp_contexts (s : State) (p : Nat) (f : HostPort → HostPort) : (s.modHp p f).contexts = s.contexts := by unfold State.modHp State.setHp; split <;> rfl
@[simp] theorem State.modHp_queues (s : State) (p : Nat) (f : HostPort → HostPort) : (s.modHp p f).queues = s.queues := by unfold State.modHp State.setHp; split <;> rfl
@[simp] theorem State.modHp_serial (s : State) (p : Nat) (f : HostPort → HostPort) : (s.modHp p f).serial = s.serial := by unfold State.modHp State.setHp; split <;> rfl
@[simp] theorem State.modHp_sets (s : State) (p : Nat) (f : HostPort → HostPort) : (s.modHp p f).sets = s.sets := by unfold State.modHp State.setHp; split <;> rfl
@[simp] theorem State.modHp_crates (s : State) (p : Nat) (f : HostPort → HostPort) : (s.modHp p f).crates = s.crates := by unfold State.modHp State.setHp; split <;> rfl
@[simp] theorem State.modHp_crateNext (s : State) (p : Nat) (f : HostPort → HostPort) : (s.modHp p f).crateNext = s.crateNext := by unfold State.modHp State.setHp; split <;> rfl
@[simp] theorem State.modHp_tallyMsgs (s : State) (p : Nat) (f : HostPort → HostPort) : (s.modHp p f).tallyMsgs = s.tallyMsgs := by unfold State.modHp State.setHp; split <;> rfl
@[simp] theorem State.modHp_meshWait (s : State) (p : Nat) (f : HostPort → HostPort) : (s.modHp p f).meshWait = s.meshWait := by unfold State.modHp State.setHp; split <;> rfl
@[simp] theorem State.modHp_ports (s : State) (p : Nat) (f : HostPort → HostPort) : (s.modHp p f).ports = s.ports := by unfold State.modHp State.setHp; split <;> rfl
@[simp] theorem State.modHp_pkgId (s : State) (p : Nat) (f : HostPort → HostPort) : (s.modHp p f).pkgId = s.pkgId := by unfold State.modHp State.setHp; split <;> rfl
@[simp] theorem State.modHp_flows (s : State) (p : Nat) (f : HostPort → HostPort) : (s.modHp p f).flows = s.flows := by unfold State.modHp State.setHp; split <;> rfl
@[simp] theorem State.modHp_rxFlows (s : State) (p : Nat) (f : HostPort → HostPort) : (s.modHp p f).rxFlows = s.rxFlows := by unfold State.modHp State.setHp; split <;> rfl
@[simp] theorem State.modHp_transits (s : State) (p : Nat) (f : HostPort → HostPort) : (s.modHp p f).transits = s.transits := by unfold State.modHp State.setHp; split <;> rfl
@[simp] theorem State.modHp_groups (s : State) (p : Nat) (f : HostPort → HostPort) : (s.modHp p f).groups = s.groups := by unfold State.modHp State.setHp; split <;> rfl
@[simp] theorem State.modHp_pathJobs (s : State) (p : Nat) (f : HostPort → HostPort) : (s.modHp p f).pathJobs = s.pathJobs := by unfold State.modHp State.setHp; split <;> rfl
@[simp] theorem State.modHp_time (s : State) (p : Nat) (f : HostPort → HostPort) : (s.modHp p f).time = s.time := by unfold State.modHp State.setHp; split <;> rfl
@[simp] theorem State.modHp_keeper0 (s : State) (p : Nat) (f : HostPort → HostPort) : (s.modHp p f).keeper0 = s.keeper0 := by unfold State.modHp State.setHp; split <;> rfl
@[simp] theorem State.modHp_keeper1 (s : State) (p : Nat) (f : HostPort → HostPort) : (s.modHp p f).keeper1 = s.keeper1 := by unfold State.modHp State.setHp; split <;> rfl
@[simp] theorem State.modHp_keeperEpoch (s : State) (p : Nat) (f : HostPort → HostPort) : (s.modHp p f).keeperEpoch = s.keeperEpoch := by unfold State.modHp State.setHp; split <;> rfl
@[simp] theorem State.modHp_holder (s : State) (p : Nat) (f : HostPort → HostPort) : (s.modHp p f).holder = s.holder := by unfold State.modHp State.setHp; split <;> rfl
@[simp] theorem State.modHp_lastBeat (s : State) (p : Nat) (f : HostPort → HostPort) : (s.modHp p f).lastBeat = s.lastBeat := by unfold State.modHp State.setHp; split <;> rfl
@[simp] theorem State.modHp_hatch0 (s : State) (p : Nat) (f : HostPort → HostPort) : (s.modHp p f).hatch0 = s.hatch0 := by unfold State.modHp State.setHp; split <;> rfl
@[simp] theorem State.modHp_hatch1 (s : State) (p : Nat) (f : HostPort → HostPort) : (s.modHp p f).hatch1 = s.hatch1 := by unfold State.modHp State.setHp; split <;> rfl
@[simp] theorem State.modHp_journal (s : State) (p : Nat) (f : HostPort → HostPort) : (s.modHp p f).journal = s.journal := by unfold State.modHp State.setHp; split <;> rfl
@[simp] theorem State.modHp_journalNext (s : State) (p : Nat) (f : HostPort → HostPort) : (s.modHp p f).journalNext = s.journalNext := by unfold State.modHp State.setHp; split <;> rfl
@[simp] theorem State.modHp_recover (s : State) (p : Nat) (f : HostPort → HostPort) : (s.modHp p f).recover = s.recover := by unfold State.modHp State.setHp; split <;> rfl
@[simp] theorem State.modHp_stopping (s : State) (p : Nat) (f : HostPort → HostPort) : (s.modHp p f).stopping = s.stopping := by unfold State.modHp State.setHp; split <;> rfl
@[simp] theorem State.modHp_wasStopped (s : State) (p : Nat) (f : HostPort → HostPort) : (s.modHp p f).wasStopped = s.wasStopped := by unfold State.modHp State.setHp; split <;> rfl
@[simp] theorem State.modHp_taking (s : State) (p : Nat) (f : HostPort → HostPort) : (s.modHp p f).taking = s.taking := by unfold State.modHp State.setHp; split <;> rfl
@[simp] theorem State.modHp_merged (s : State) (p : Nat) (f : HostPort → HostPort) : (s.modHp p f).merged = s.merged := by unfold State.modHp State.setHp; split <;> rfl
@[simp] theorem State.modHp_dropped (s : State) (p : Nat) (f : HostPort → HostPort) : (s.modHp p f).dropped = s.dropped := by unfold State.modHp State.setHp; split <;> rfl
@[simp] theorem State.modHp_power (s : State) (p : Nat) (f : HostPort → HostPort) : (s.modHp p f).power = s.power := by unfold State.modHp State.setHp; split <;> rfl
@[simp] theorem State.modHp_coords (s : State) (p : Nat) (f : HostPort → HostPort) : (s.modHp p f).coords = s.coords := by unfold State.modHp State.setHp; split <;> rfl
@[simp] theorem State.modHp_primary (s : State) (p : Nat) (f : HostPort → HostPort) : (s.modHp p f).primary = s.primary := by unfold State.modHp State.setHp; split <;> rfl
@[simp] theorem State.modHp_dgValue (s : State) (p : Nat) (f : HostPort → HostPort) : (s.modHp p f).dgValue = s.dgValue := by unfold State.modHp State.setHp; split <;> rfl
@[simp] theorem State.modHp_dgMode (s : State) (p : Nat) (f : HostPort → HostPort) : (s.modHp p f).dgMode = s.dgMode := by unfold State.modHp State.setHp; split <;> rfl
@[simp] theorem State.modHp_dgCtx (s : State) (p : Nat) (f : HostPort → HostPort) : (s.modHp p f).dgCtx = s.dgCtx := by unfold State.modHp State.setHp; split <;> rfl
@[simp] theorem State.modHp_dgVid (s : State) (p : Nat) (f : HostPort → HostPort) : (s.modHp p f).dgVid = s.dgVid := by unfold State.modHp State.setHp; split <;> rfl
@[simp] theorem State.modHp_dgGo (s : State) (p : Nat) (f : HostPort → HostPort) : (s.modHp p f).dgGo = s.dgGo := by unfold State.modHp State.setHp; split <;> rfl
@[simp] theorem State.modHp_block (s : State) (p : Nat) (f : HostPort → HostPort) : (s.modHp p f).block = s.block := by unfold State.modHp State.setHp; split <;> rfl
@[simp] theorem State.modHp_lastFault (s : State) (p : Nat) (f : HostPort → HostPort) : (s.modHp p f).lastFault = s.lastFault := by unfold State.modHp State.setHp; split <;> rfl
@[simp] theorem State.modHp_lastFaultCount (s : State) (p : Nat) (f : HostPort → HostPort) : (s.modHp p f).lastFaultCount = s.lastFaultCount := by unfold State.modHp State.setHp; split <;> rfl
@[simp] theorem State.modHp_inv (s : State) (p : Nat) (f : HostPort → HostPort) : (s.modHp p f).inv = s.inv := by unfold State.modHp State.setHp; split <;> rfl
@[simp] theorem State.modHp_invL0 (s : State) (p : Nat) (f : HostPort → HostPort) : (s.modHp p f).invL0 = s.invL0 := by unfold State.modHp State.setHp; split <;> rfl
@[simp] theorem State.modHp_invL1 (s : State) (p : Nat) (f : HostPort → HostPort) : (s.modHp p f).invL1 = s.invL1 := by unfold State.modHp State.setHp; split <;> rfl
@[simp] theorem State.modHp_inventoryOk (s : State) (p : Nat) (f : HostPort → HostPort) : (s.modHp p f).inventoryOk = s.inventoryOk := by unfold State.modHp State.setHp; split <;> rfl
@[simp] theorem State.modHp_identityOk (s : State) (p : Nat) (f : HostPort → HostPort) : (s.modHp p f).identityOk = s.identityOk := by unfold State.modHp State.setHp; split <;> rfl
@[simp] theorem State.modHp_idKey (s : State) (p : Nat) (f : HostPort → HostPort) : (s.modHp p f).idKey = s.idKey := by unfold State.modHp State.setHp; split <;> rfl
@[simp] theorem State.modHp_packageKeys (s : State) (p : Nat) (f : HostPort → HostPort) : (s.modHp p f).packageKeys = s.packageKeys := by unfold State.modHp State.setHp; split <;> rfl
@[simp] theorem State.modHp_fw (s : State) (p : Nat) (f : HostPort → HostPort) : (s.modHp p f).fw = s.fw := by unfold State.modHp State.setHp; split <;> rfl
@[simp] theorem State.modHp_fwRunning (s : State) (p : Nat) (f : HostPort → HostPort) : (s.modHp p f).fwRunning = s.fwRunning := by unfold State.modHp State.setHp; split <;> rfl
@[simp] theorem State.modHp_svn0 (s : State) (p : Nat) (f : HostPort → HostPort) : (s.modHp p f).svn0 = s.svn0 := by unfold State.modHp State.setHp; split <;> rfl
@[simp] theorem State.modHp_svn1 (s : State) (p : Nat) (f : HostPort → HostPort) : (s.modHp p f).svn1 = s.svn1 := by unfold State.modHp State.setHp; split <;> rfl
@[simp] theorem State.modHp_measured (s : State) (p : Nat) (f : HostPort → HostPort) : (s.modHp p f).measured = s.measured := by unfold State.modHp State.setHp; split <;> rfl
@[simp] theorem State.modHp_sessions (s : State) (p : Nat) (f : HostPort → HostPort) : (s.modHp p f).sessions = s.sessions := by unfold State.modHp State.setHp; split <;> rfl
@[simp] theorem State.modHp_sensors (s : State) (p : Nat) (f : HostPort → HostPort) : (s.modHp p f).sensors = s.sensors := by unfold State.modHp State.setHp; split <;> rfl
@[simp] theorem State.modHp_stateSensors (s : State) (p : Nat) (f : HostPort → HostPort) : (s.modHp p f).stateSensors = s.stateSensors := by unfold State.modHp State.setHp; split <;> rfl
@[simp] theorem State.modHp_eventsFrom (s : State) (p : Nat) (f : HostPort → HostPort) : (s.modHp p f).eventsFrom = s.eventsFrom := by unfold State.modHp State.setHp; split <;> rfl
@[simp] theorem State.modHp_events (s : State) (p : Nat) (f : HostPort → HostPort) : (s.modHp p f).events = s.events := by unfold State.modHp State.setHp; split <;> rfl
@[simp] theorem State.modHp_smbusAddr (s : State) (p : Nat) (f : HostPort → HostPort) : (s.modHp p f).smbusAddr = s.smbusAddr := by unfold State.modHp State.setHp; split <;> rfl
@[simp] theorem State.modHp_irqs (s : State) (p : Nat) (f : HostPort → HostPort) : (s.modHp p f).irqs = s.irqs := by unfold State.modHp State.setHp; split <;> rfl
@[simp] theorem State.modHp_frameOut (s : State) (p : Nat) (f : HostPort → HostPort) : (s.modHp p f).frameOut = s.frameOut := by unfold State.modHp State.setHp; split <;> rfl
@[simp] theorem State.modHp_delivered (s : State) (p : Nat) (f : HostPort → HostPort) : (s.modHp p f).delivered = s.delivered := by unfold State.modHp State.setHp; split <;> rfl
@[simp] theorem State.modHp_packetOut (s : State) (p : Nat) (f : HostPort → HostPort) : (s.modHp p f).packetOut = s.packetOut := by unfold State.modHp State.setHp; split <;> rfl
@[simp] theorem State.modHp_sent (s : State) (p : Nat) (f : HostPort → HostPort) : (s.modHp p f).sent = s.sent := by unfold State.modHp State.setHp; split <;> rfl
@[simp] theorem State.modHp_answers (s : State) (p : Nat) (f : HostPort → HostPort) : (s.modHp p f).answers = s.answers := by unfold State.modHp State.setHp; split <;> rfl

@[simp] theorem State.setHatch_pending (s : State) (h : Nat) (x : Hatch) : (s.setHatch h x).pending = s.pending := by unfold State.setHatch; split <;> rfl
@[simp] theorem State.setHatch_now (s : State) (h : Nat) (x : Hatch) : (s.setHatch h x).now = s.now := by unfold State.setHatch; split <;> rfl
@[simp] theorem State.setHatch_fresh (s : State) (h : Nat) (x : Hatch) : (s.setHatch h x).fresh = s.fresh := by unfold State.setHatch; split <;> rfl
@[simp] theorem State.setHatch_pins (s : State) (h : Nat) (x : Hatch) : (s.setHatch h x).pins = s.pins := by unfold State.setHatch; split <;> rfl
@[simp] theorem State.setHatch_service (s : State) (h : Nat) (x : Hatch) : (s.setHatch h x).service = s.service := by unfold State.setHatch; split <;> rfl
@[simp] theorem State.setHatch_phase (s : State) (h : Nat) (x : Hatch) : (s.setHatch h x).phase = s.phase := by unfold State.setHatch; split <;> rfl
@[simp] theorem State.setHatch_halted (s : State) (h : Nat) (x : Hatch) : (s.setHatch h x).halted = s.halted := by unfold State.setHatch; split <;> rfl
@[simp] theorem State.setHatch_epochBad (s : State) (h : Nat) (x : Hatch) : (s.setHatch h x).epochBad = s.epochBad := by unfold State.setHatch; split <;> rfl
@[simp] theorem State.setHatch_broken (s : State) (h : Nat) (x : Hatch) : (s.setHatch h x).broken = s.broken := by unfold State.setHatch; split <;> rfl
@[simp] theorem State.setHatch_admitted (s : State) (h : Nat) (x : Hatch) : (s.setHatch h x).admitted = s.admitted := by unfold State.setHatch; split <;> rfl
@[simp] theorem State.setHatch_mem (s : State) (h : Nat) (x : Hatch) : (s.setHatch h x).mem = s.mem := by unfold State.setHatch; split <;> rfl
@[simp] theorem State.setHatch_hostMem (s : State) (h : Nat) (x : Hatch) : (s.setHatch h x).hostMem = s.hostMem := by unfold State.setHatch; split <;> rfl
@[simp] theorem State.setHatch_marks (s : State) (h : Nat) (x : Hatch) : (s.setHatch h x).marks = s.marks := by unfold State.setHatch; split <;> rfl
@[simp] theorem State.setHatch_pageErrs (s : State) (h : Nat) (x : Hatch) : (s.setHatch h x).pageErrs = s.pageErrs := by unfold State.setHatch; split <;> rfl
@[simp] theorem State.setHatch_dies (s : State) (h : Nat) (x : Hatch) : (s.setHatch h x).dies = s.dies := by unfold State.setHatch; split <;> rfl
@[simp] theorem State.setHatch_cores (s : State) (h : Nat) (x : Hatch) : (s.setHatch h x).cores = s.cores := by unfold State.setHatch; split <;> rfl
@[simp] theorem State.setHatch_channels (s : State) (h : Nat) (x : Hatch) : (s.setHatch h x).channels = s.channels := by unfold State.setHatch; split <;> rfl
@[simp] theorem State.setHatch_frames (s : State) (h : Nat) (x : Hatch) : (s.setHatch h x).frames = s.frames := by unfold State.setHatch; split <;> rfl
@[simp] theorem State.setHatch_owners (s : State) (h : Nat) (x : Hatch) : (s.setHatch h x).owners = s.owners := by unfold State.setHatch; split <;> rfl
@[simp] theorem State.setHatch_written (s : State) (h : Nat) (x : Hatch) : (s.setHatch h x).written = s.written := by unfold State.setHatch; split <;> rfl
@[simp] theorem State.setHatch_scrubHours (s : State) (h : Nat) (x : Hatch) : (s.setHatch h x).scrubHours = s.scrubHours := by unfold State.setHatch; split <;> rfl
@[simp] theorem State.setHatch_spareFrames (s : State) (h : Nat) (x : Hatch) : (s.setHatch h x).spareFrames = s.spareFrames := by unfold State.setHatch; split <;> rfl
@[simp] theorem State.setHatch_contexts (s : State) (h : Nat) (x : Hatch) : (s.setHatch h x).contexts = s.contexts := by unfold State.setHatch; split <;> rfl
@[simp] theorem State.setHatch_queues (s : State) (h : Nat) (x : Hatch) : (s.setHatch h x).queues = s.queues := by unfold State.setHatch; split <;> rfl
@[simp] theorem State.setHatch_serial (s : State) (h : Nat) (x : Hatch) : (s.setHatch h x).serial = s.serial := by unfold State.setHatch; split <;> rfl
@[simp] theorem State.setHatch_sets (s : State) (h : Nat) (x : Hatch) : (s.setHatch h x).sets = s.sets := by unfold State.setHatch; split <;> rfl
@[simp] theorem State.setHatch_crates (s : State) (h : Nat) (x : Hatch) : (s.setHatch h x).crates = s.crates := by unfold State.setHatch; split <;> rfl
@[simp] theorem State.setHatch_crateNext (s : State) (h : Nat) (x : Hatch) : (s.setHatch h x).crateNext = s.crateNext := by unfold State.setHatch; split <;> rfl
@[simp] theorem State.setHatch_tallyMsgs (s : State) (h : Nat) (x : Hatch) : (s.setHatch h x).tallyMsgs = s.tallyMsgs := by unfold State.setHatch; split <;> rfl
@[simp] theorem State.setHatch_meshWait (s : State) (h : Nat) (x : Hatch) : (s.setHatch h x).meshWait = s.meshWait := by unfold State.setHatch; split <;> rfl
@[simp] theorem State.setHatch_ports (s : State) (h : Nat) (x : Hatch) : (s.setHatch h x).ports = s.ports := by unfold State.setHatch; split <;> rfl
@[simp] theorem State.setHatch_pkgId (s : State) (h : Nat) (x : Hatch) : (s.setHatch h x).pkgId = s.pkgId := by unfold State.setHatch; split <;> rfl
@[simp] theorem State.setHatch_flows (s : State) (h : Nat) (x : Hatch) : (s.setHatch h x).flows = s.flows := by unfold State.setHatch; split <;> rfl
@[simp] theorem State.setHatch_rxFlows (s : State) (h : Nat) (x : Hatch) : (s.setHatch h x).rxFlows = s.rxFlows := by unfold State.setHatch; split <;> rfl
@[simp] theorem State.setHatch_transits (s : State) (h : Nat) (x : Hatch) : (s.setHatch h x).transits = s.transits := by unfold State.setHatch; split <;> rfl
@[simp] theorem State.setHatch_groups (s : State) (h : Nat) (x : Hatch) : (s.setHatch h x).groups = s.groups := by unfold State.setHatch; split <;> rfl
@[simp] theorem State.setHatch_pathJobs (s : State) (h : Nat) (x : Hatch) : (s.setHatch h x).pathJobs = s.pathJobs := by unfold State.setHatch; split <;> rfl
@[simp] theorem State.setHatch_time (s : State) (h : Nat) (x : Hatch) : (s.setHatch h x).time = s.time := by unfold State.setHatch; split <;> rfl
@[simp] theorem State.setHatch_keeper0 (s : State) (h : Nat) (x : Hatch) : (s.setHatch h x).keeper0 = s.keeper0 := by unfold State.setHatch; split <;> rfl
@[simp] theorem State.setHatch_keeper1 (s : State) (h : Nat) (x : Hatch) : (s.setHatch h x).keeper1 = s.keeper1 := by unfold State.setHatch; split <;> rfl
@[simp] theorem State.setHatch_keeperEpoch (s : State) (h : Nat) (x : Hatch) : (s.setHatch h x).keeperEpoch = s.keeperEpoch := by unfold State.setHatch; split <;> rfl
@[simp] theorem State.setHatch_holder (s : State) (h : Nat) (x : Hatch) : (s.setHatch h x).holder = s.holder := by unfold State.setHatch; split <;> rfl
@[simp] theorem State.setHatch_lastBeat (s : State) (h : Nat) (x : Hatch) : (s.setHatch h x).lastBeat = s.lastBeat := by unfold State.setHatch; split <;> rfl
@[simp] theorem State.setHatch_journal (s : State) (h : Nat) (x : Hatch) : (s.setHatch h x).journal = s.journal := by unfold State.setHatch; split <;> rfl
@[simp] theorem State.setHatch_journalNext (s : State) (h : Nat) (x : Hatch) : (s.setHatch h x).journalNext = s.journalNext := by unfold State.setHatch; split <;> rfl
@[simp] theorem State.setHatch_recover (s : State) (h : Nat) (x : Hatch) : (s.setHatch h x).recover = s.recover := by unfold State.setHatch; split <;> rfl
@[simp] theorem State.setHatch_stopping (s : State) (h : Nat) (x : Hatch) : (s.setHatch h x).stopping = s.stopping := by unfold State.setHatch; split <;> rfl
@[simp] theorem State.setHatch_wasStopped (s : State) (h : Nat) (x : Hatch) : (s.setHatch h x).wasStopped = s.wasStopped := by unfold State.setHatch; split <;> rfl
@[simp] theorem State.setHatch_taking (s : State) (h : Nat) (x : Hatch) : (s.setHatch h x).taking = s.taking := by unfold State.setHatch; split <;> rfl
@[simp] theorem State.setHatch_merged (s : State) (h : Nat) (x : Hatch) : (s.setHatch h x).merged = s.merged := by unfold State.setHatch; split <;> rfl
@[simp] theorem State.setHatch_dropped (s : State) (h : Nat) (x : Hatch) : (s.setHatch h x).dropped = s.dropped := by unfold State.setHatch; split <;> rfl
@[simp] theorem State.setHatch_power (s : State) (h : Nat) (x : Hatch) : (s.setHatch h x).power = s.power := by unfold State.setHatch; split <;> rfl
@[simp] theorem State.setHatch_coords (s : State) (h : Nat) (x : Hatch) : (s.setHatch h x).coords = s.coords := by unfold State.setHatch; split <;> rfl
@[simp] theorem State.setHatch_host0 (s : State) (h : Nat) (x : Hatch) : (s.setHatch h x).host0 = s.host0 := by unfold State.setHatch; split <;> rfl
@[simp] theorem State.setHatch_host1 (s : State) (h : Nat) (x : Hatch) : (s.setHatch h x).host1 = s.host1 := by unfold State.setHatch; split <;> rfl
@[simp] theorem State.setHatch_primary (s : State) (h : Nat) (x : Hatch) : (s.setHatch h x).primary = s.primary := by unfold State.setHatch; split <;> rfl
@[simp] theorem State.setHatch_dgValue (s : State) (h : Nat) (x : Hatch) : (s.setHatch h x).dgValue = s.dgValue := by unfold State.setHatch; split <;> rfl
@[simp] theorem State.setHatch_dgMode (s : State) (h : Nat) (x : Hatch) : (s.setHatch h x).dgMode = s.dgMode := by unfold State.setHatch; split <;> rfl
@[simp] theorem State.setHatch_dgCtx (s : State) (h : Nat) (x : Hatch) : (s.setHatch h x).dgCtx = s.dgCtx := by unfold State.setHatch; split <;> rfl
@[simp] theorem State.setHatch_dgVid (s : State) (h : Nat) (x : Hatch) : (s.setHatch h x).dgVid = s.dgVid := by unfold State.setHatch; split <;> rfl
@[simp] theorem State.setHatch_dgGo (s : State) (h : Nat) (x : Hatch) : (s.setHatch h x).dgGo = s.dgGo := by unfold State.setHatch; split <;> rfl
@[simp] theorem State.setHatch_block (s : State) (h : Nat) (x : Hatch) : (s.setHatch h x).block = s.block := by unfold State.setHatch; split <;> rfl
@[simp] theorem State.setHatch_lastFault (s : State) (h : Nat) (x : Hatch) : (s.setHatch h x).lastFault = s.lastFault := by unfold State.setHatch; split <;> rfl
@[simp] theorem State.setHatch_lastFaultCount (s : State) (h : Nat) (x : Hatch) : (s.setHatch h x).lastFaultCount = s.lastFaultCount := by unfold State.setHatch; split <;> rfl
@[simp] theorem State.setHatch_inv (s : State) (h : Nat) (x : Hatch) : (s.setHatch h x).inv = s.inv := by unfold State.setHatch; split <;> rfl
@[simp] theorem State.setHatch_invL0 (s : State) (h : Nat) (x : Hatch) : (s.setHatch h x).invL0 = s.invL0 := by unfold State.setHatch; split <;> rfl
@[simp] theorem State.setHatch_invL1 (s : State) (h : Nat) (x : Hatch) : (s.setHatch h x).invL1 = s.invL1 := by unfold State.setHatch; split <;> rfl
@[simp] theorem State.setHatch_inventoryOk (s : State) (h : Nat) (x : Hatch) : (s.setHatch h x).inventoryOk = s.inventoryOk := by unfold State.setHatch; split <;> rfl
@[simp] theorem State.setHatch_identityOk (s : State) (h : Nat) (x : Hatch) : (s.setHatch h x).identityOk = s.identityOk := by unfold State.setHatch; split <;> rfl
@[simp] theorem State.setHatch_idKey (s : State) (h : Nat) (x : Hatch) : (s.setHatch h x).idKey = s.idKey := by unfold State.setHatch; split <;> rfl
@[simp] theorem State.setHatch_packageKeys (s : State) (h : Nat) (x : Hatch) : (s.setHatch h x).packageKeys = s.packageKeys := by unfold State.setHatch; split <;> rfl
@[simp] theorem State.setHatch_fw (s : State) (h : Nat) (x : Hatch) : (s.setHatch h x).fw = s.fw := by unfold State.setHatch; split <;> rfl
@[simp] theorem State.setHatch_fwRunning (s : State) (h : Nat) (x : Hatch) : (s.setHatch h x).fwRunning = s.fwRunning := by unfold State.setHatch; split <;> rfl
@[simp] theorem State.setHatch_svn0 (s : State) (h : Nat) (x : Hatch) : (s.setHatch h x).svn0 = s.svn0 := by unfold State.setHatch; split <;> rfl
@[simp] theorem State.setHatch_svn1 (s : State) (h : Nat) (x : Hatch) : (s.setHatch h x).svn1 = s.svn1 := by unfold State.setHatch; split <;> rfl
@[simp] theorem State.setHatch_measured (s : State) (h : Nat) (x : Hatch) : (s.setHatch h x).measured = s.measured := by unfold State.setHatch; split <;> rfl
@[simp] theorem State.setHatch_sessions (s : State) (h : Nat) (x : Hatch) : (s.setHatch h x).sessions = s.sessions := by unfold State.setHatch; split <;> rfl
@[simp] theorem State.setHatch_sensors (s : State) (h : Nat) (x : Hatch) : (s.setHatch h x).sensors = s.sensors := by unfold State.setHatch; split <;> rfl
@[simp] theorem State.setHatch_stateSensors (s : State) (h : Nat) (x : Hatch) : (s.setHatch h x).stateSensors = s.stateSensors := by unfold State.setHatch; split <;> rfl
@[simp] theorem State.setHatch_eventsFrom (s : State) (h : Nat) (x : Hatch) : (s.setHatch h x).eventsFrom = s.eventsFrom := by unfold State.setHatch; split <;> rfl
@[simp] theorem State.setHatch_events (s : State) (h : Nat) (x : Hatch) : (s.setHatch h x).events = s.events := by unfold State.setHatch; split <;> rfl
@[simp] theorem State.setHatch_smbusAddr (s : State) (h : Nat) (x : Hatch) : (s.setHatch h x).smbusAddr = s.smbusAddr := by unfold State.setHatch; split <;> rfl
@[simp] theorem State.setHatch_irqs (s : State) (h : Nat) (x : Hatch) : (s.setHatch h x).irqs = s.irqs := by unfold State.setHatch; split <;> rfl
@[simp] theorem State.setHatch_frameOut (s : State) (h : Nat) (x : Hatch) : (s.setHatch h x).frameOut = s.frameOut := by unfold State.setHatch; split <;> rfl
@[simp] theorem State.setHatch_delivered (s : State) (h : Nat) (x : Hatch) : (s.setHatch h x).delivered = s.delivered := by unfold State.setHatch; split <;> rfl
@[simp] theorem State.setHatch_packetOut (s : State) (h : Nat) (x : Hatch) : (s.setHatch h x).packetOut = s.packetOut := by unfold State.setHatch; split <;> rfl
@[simp] theorem State.setHatch_sent (s : State) (h : Nat) (x : Hatch) : (s.setHatch h x).sent = s.sent := by unfold State.setHatch; split <;> rfl
@[simp] theorem State.setHatch_answers (s : State) (h : Nat) (x : Hatch) : (s.setHatch h x).answers = s.answers := by unfold State.setHatch; split <;> rfl

@[simp] theorem State.modHatch_pending (s : State) (h : Nat) (f : Hatch → Hatch) : (s.modHatch h f).pending = s.pending := by unfold State.modHatch State.setHatch; split <;> rfl
@[simp] theorem State.modHatch_now (s : State) (h : Nat) (f : Hatch → Hatch) : (s.modHatch h f).now = s.now := by unfold State.modHatch State.setHatch; split <;> rfl
@[simp] theorem State.modHatch_fresh (s : State) (h : Nat) (f : Hatch → Hatch) : (s.modHatch h f).fresh = s.fresh := by unfold State.modHatch State.setHatch; split <;> rfl
@[simp] theorem State.modHatch_pins (s : State) (h : Nat) (f : Hatch → Hatch) : (s.modHatch h f).pins = s.pins := by unfold State.modHatch State.setHatch; split <;> rfl
@[simp] theorem State.modHatch_service (s : State) (h : Nat) (f : Hatch → Hatch) : (s.modHatch h f).service = s.service := by unfold State.modHatch State.setHatch; split <;> rfl
@[simp] theorem State.modHatch_phase (s : State) (h : Nat) (f : Hatch → Hatch) : (s.modHatch h f).phase = s.phase := by unfold State.modHatch State.setHatch; split <;> rfl
@[simp] theorem State.modHatch_halted (s : State) (h : Nat) (f : Hatch → Hatch) : (s.modHatch h f).halted = s.halted := by unfold State.modHatch State.setHatch; split <;> rfl
@[simp] theorem State.modHatch_epochBad (s : State) (h : Nat) (f : Hatch → Hatch) : (s.modHatch h f).epochBad = s.epochBad := by unfold State.modHatch State.setHatch; split <;> rfl
@[simp] theorem State.modHatch_broken (s : State) (h : Nat) (f : Hatch → Hatch) : (s.modHatch h f).broken = s.broken := by unfold State.modHatch State.setHatch; split <;> rfl
@[simp] theorem State.modHatch_admitted (s : State) (h : Nat) (f : Hatch → Hatch) : (s.modHatch h f).admitted = s.admitted := by unfold State.modHatch State.setHatch; split <;> rfl
@[simp] theorem State.modHatch_mem (s : State) (h : Nat) (f : Hatch → Hatch) : (s.modHatch h f).mem = s.mem := by unfold State.modHatch State.setHatch; split <;> rfl
@[simp] theorem State.modHatch_hostMem (s : State) (h : Nat) (f : Hatch → Hatch) : (s.modHatch h f).hostMem = s.hostMem := by unfold State.modHatch State.setHatch; split <;> rfl
@[simp] theorem State.modHatch_marks (s : State) (h : Nat) (f : Hatch → Hatch) : (s.modHatch h f).marks = s.marks := by unfold State.modHatch State.setHatch; split <;> rfl
@[simp] theorem State.modHatch_pageErrs (s : State) (h : Nat) (f : Hatch → Hatch) : (s.modHatch h f).pageErrs = s.pageErrs := by unfold State.modHatch State.setHatch; split <;> rfl
@[simp] theorem State.modHatch_dies (s : State) (h : Nat) (f : Hatch → Hatch) : (s.modHatch h f).dies = s.dies := by unfold State.modHatch State.setHatch; split <;> rfl
@[simp] theorem State.modHatch_cores (s : State) (h : Nat) (f : Hatch → Hatch) : (s.modHatch h f).cores = s.cores := by unfold State.modHatch State.setHatch; split <;> rfl
@[simp] theorem State.modHatch_channels (s : State) (h : Nat) (f : Hatch → Hatch) : (s.modHatch h f).channels = s.channels := by unfold State.modHatch State.setHatch; split <;> rfl
@[simp] theorem State.modHatch_frames (s : State) (h : Nat) (f : Hatch → Hatch) : (s.modHatch h f).frames = s.frames := by unfold State.modHatch State.setHatch; split <;> rfl
@[simp] theorem State.modHatch_owners (s : State) (h : Nat) (f : Hatch → Hatch) : (s.modHatch h f).owners = s.owners := by unfold State.modHatch State.setHatch; split <;> rfl
@[simp] theorem State.modHatch_written (s : State) (h : Nat) (f : Hatch → Hatch) : (s.modHatch h f).written = s.written := by unfold State.modHatch State.setHatch; split <;> rfl
@[simp] theorem State.modHatch_scrubHours (s : State) (h : Nat) (f : Hatch → Hatch) : (s.modHatch h f).scrubHours = s.scrubHours := by unfold State.modHatch State.setHatch; split <;> rfl
@[simp] theorem State.modHatch_spareFrames (s : State) (h : Nat) (f : Hatch → Hatch) : (s.modHatch h f).spareFrames = s.spareFrames := by unfold State.modHatch State.setHatch; split <;> rfl
@[simp] theorem State.modHatch_contexts (s : State) (h : Nat) (f : Hatch → Hatch) : (s.modHatch h f).contexts = s.contexts := by unfold State.modHatch State.setHatch; split <;> rfl
@[simp] theorem State.modHatch_queues (s : State) (h : Nat) (f : Hatch → Hatch) : (s.modHatch h f).queues = s.queues := by unfold State.modHatch State.setHatch; split <;> rfl
@[simp] theorem State.modHatch_serial (s : State) (h : Nat) (f : Hatch → Hatch) : (s.modHatch h f).serial = s.serial := by unfold State.modHatch State.setHatch; split <;> rfl
@[simp] theorem State.modHatch_sets (s : State) (h : Nat) (f : Hatch → Hatch) : (s.modHatch h f).sets = s.sets := by unfold State.modHatch State.setHatch; split <;> rfl
@[simp] theorem State.modHatch_crates (s : State) (h : Nat) (f : Hatch → Hatch) : (s.modHatch h f).crates = s.crates := by unfold State.modHatch State.setHatch; split <;> rfl
@[simp] theorem State.modHatch_crateNext (s : State) (h : Nat) (f : Hatch → Hatch) : (s.modHatch h f).crateNext = s.crateNext := by unfold State.modHatch State.setHatch; split <;> rfl
@[simp] theorem State.modHatch_tallyMsgs (s : State) (h : Nat) (f : Hatch → Hatch) : (s.modHatch h f).tallyMsgs = s.tallyMsgs := by unfold State.modHatch State.setHatch; split <;> rfl
@[simp] theorem State.modHatch_meshWait (s : State) (h : Nat) (f : Hatch → Hatch) : (s.modHatch h f).meshWait = s.meshWait := by unfold State.modHatch State.setHatch; split <;> rfl
@[simp] theorem State.modHatch_ports (s : State) (h : Nat) (f : Hatch → Hatch) : (s.modHatch h f).ports = s.ports := by unfold State.modHatch State.setHatch; split <;> rfl
@[simp] theorem State.modHatch_pkgId (s : State) (h : Nat) (f : Hatch → Hatch) : (s.modHatch h f).pkgId = s.pkgId := by unfold State.modHatch State.setHatch; split <;> rfl
@[simp] theorem State.modHatch_flows (s : State) (h : Nat) (f : Hatch → Hatch) : (s.modHatch h f).flows = s.flows := by unfold State.modHatch State.setHatch; split <;> rfl
@[simp] theorem State.modHatch_rxFlows (s : State) (h : Nat) (f : Hatch → Hatch) : (s.modHatch h f).rxFlows = s.rxFlows := by unfold State.modHatch State.setHatch; split <;> rfl
@[simp] theorem State.modHatch_transits (s : State) (h : Nat) (f : Hatch → Hatch) : (s.modHatch h f).transits = s.transits := by unfold State.modHatch State.setHatch; split <;> rfl
@[simp] theorem State.modHatch_groups (s : State) (h : Nat) (f : Hatch → Hatch) : (s.modHatch h f).groups = s.groups := by unfold State.modHatch State.setHatch; split <;> rfl
@[simp] theorem State.modHatch_pathJobs (s : State) (h : Nat) (f : Hatch → Hatch) : (s.modHatch h f).pathJobs = s.pathJobs := by unfold State.modHatch State.setHatch; split <;> rfl
@[simp] theorem State.modHatch_time (s : State) (h : Nat) (f : Hatch → Hatch) : (s.modHatch h f).time = s.time := by unfold State.modHatch State.setHatch; split <;> rfl
@[simp] theorem State.modHatch_keeper0 (s : State) (h : Nat) (f : Hatch → Hatch) : (s.modHatch h f).keeper0 = s.keeper0 := by unfold State.modHatch State.setHatch; split <;> rfl
@[simp] theorem State.modHatch_keeper1 (s : State) (h : Nat) (f : Hatch → Hatch) : (s.modHatch h f).keeper1 = s.keeper1 := by unfold State.modHatch State.setHatch; split <;> rfl
@[simp] theorem State.modHatch_keeperEpoch (s : State) (h : Nat) (f : Hatch → Hatch) : (s.modHatch h f).keeperEpoch = s.keeperEpoch := by unfold State.modHatch State.setHatch; split <;> rfl
@[simp] theorem State.modHatch_holder (s : State) (h : Nat) (f : Hatch → Hatch) : (s.modHatch h f).holder = s.holder := by unfold State.modHatch State.setHatch; split <;> rfl
@[simp] theorem State.modHatch_lastBeat (s : State) (h : Nat) (f : Hatch → Hatch) : (s.modHatch h f).lastBeat = s.lastBeat := by unfold State.modHatch State.setHatch; split <;> rfl
@[simp] theorem State.modHatch_journal (s : State) (h : Nat) (f : Hatch → Hatch) : (s.modHatch h f).journal = s.journal := by unfold State.modHatch State.setHatch; split <;> rfl
@[simp] theorem State.modHatch_journalNext (s : State) (h : Nat) (f : Hatch → Hatch) : (s.modHatch h f).journalNext = s.journalNext := by unfold State.modHatch State.setHatch; split <;> rfl
@[simp] theorem State.modHatch_recover (s : State) (h : Nat) (f : Hatch → Hatch) : (s.modHatch h f).recover = s.recover := by unfold State.modHatch State.setHatch; split <;> rfl
@[simp] theorem State.modHatch_stopping (s : State) (h : Nat) (f : Hatch → Hatch) : (s.modHatch h f).stopping = s.stopping := by unfold State.modHatch State.setHatch; split <;> rfl
@[simp] theorem State.modHatch_wasStopped (s : State) (h : Nat) (f : Hatch → Hatch) : (s.modHatch h f).wasStopped = s.wasStopped := by unfold State.modHatch State.setHatch; split <;> rfl
@[simp] theorem State.modHatch_taking (s : State) (h : Nat) (f : Hatch → Hatch) : (s.modHatch h f).taking = s.taking := by unfold State.modHatch State.setHatch; split <;> rfl
@[simp] theorem State.modHatch_merged (s : State) (h : Nat) (f : Hatch → Hatch) : (s.modHatch h f).merged = s.merged := by unfold State.modHatch State.setHatch; split <;> rfl
@[simp] theorem State.modHatch_dropped (s : State) (h : Nat) (f : Hatch → Hatch) : (s.modHatch h f).dropped = s.dropped := by unfold State.modHatch State.setHatch; split <;> rfl
@[simp] theorem State.modHatch_power (s : State) (h : Nat) (f : Hatch → Hatch) : (s.modHatch h f).power = s.power := by unfold State.modHatch State.setHatch; split <;> rfl
@[simp] theorem State.modHatch_coords (s : State) (h : Nat) (f : Hatch → Hatch) : (s.modHatch h f).coords = s.coords := by unfold State.modHatch State.setHatch; split <;> rfl
@[simp] theorem State.modHatch_host0 (s : State) (h : Nat) (f : Hatch → Hatch) : (s.modHatch h f).host0 = s.host0 := by unfold State.modHatch State.setHatch; split <;> rfl
@[simp] theorem State.modHatch_host1 (s : State) (h : Nat) (f : Hatch → Hatch) : (s.modHatch h f).host1 = s.host1 := by unfold State.modHatch State.setHatch; split <;> rfl
@[simp] theorem State.modHatch_primary (s : State) (h : Nat) (f : Hatch → Hatch) : (s.modHatch h f).primary = s.primary := by unfold State.modHatch State.setHatch; split <;> rfl
@[simp] theorem State.modHatch_dgValue (s : State) (h : Nat) (f : Hatch → Hatch) : (s.modHatch h f).dgValue = s.dgValue := by unfold State.modHatch State.setHatch; split <;> rfl
@[simp] theorem State.modHatch_dgMode (s : State) (h : Nat) (f : Hatch → Hatch) : (s.modHatch h f).dgMode = s.dgMode := by unfold State.modHatch State.setHatch; split <;> rfl
@[simp] theorem State.modHatch_dgCtx (s : State) (h : Nat) (f : Hatch → Hatch) : (s.modHatch h f).dgCtx = s.dgCtx := by unfold State.modHatch State.setHatch; split <;> rfl
@[simp] theorem State.modHatch_dgVid (s : State) (h : Nat) (f : Hatch → Hatch) : (s.modHatch h f).dgVid = s.dgVid := by unfold State.modHatch State.setHatch; split <;> rfl
@[simp] theorem State.modHatch_dgGo (s : State) (h : Nat) (f : Hatch → Hatch) : (s.modHatch h f).dgGo = s.dgGo := by unfold State.modHatch State.setHatch; split <;> rfl
@[simp] theorem State.modHatch_block (s : State) (h : Nat) (f : Hatch → Hatch) : (s.modHatch h f).block = s.block := by unfold State.modHatch State.setHatch; split <;> rfl
@[simp] theorem State.modHatch_lastFault (s : State) (h : Nat) (f : Hatch → Hatch) : (s.modHatch h f).lastFault = s.lastFault := by unfold State.modHatch State.setHatch; split <;> rfl
@[simp] theorem State.modHatch_lastFaultCount (s : State) (h : Nat) (f : Hatch → Hatch) : (s.modHatch h f).lastFaultCount = s.lastFaultCount := by unfold State.modHatch State.setHatch; split <;> rfl
@[simp] theorem State.modHatch_inv (s : State) (h : Nat) (f : Hatch → Hatch) : (s.modHatch h f).inv = s.inv := by unfold State.modHatch State.setHatch; split <;> rfl
@[simp] theorem State.modHatch_invL0 (s : State) (h : Nat) (f : Hatch → Hatch) : (s.modHatch h f).invL0 = s.invL0 := by unfold State.modHatch State.setHatch; split <;> rfl
@[simp] theorem State.modHatch_invL1 (s : State) (h : Nat) (f : Hatch → Hatch) : (s.modHatch h f).invL1 = s.invL1 := by unfold State.modHatch State.setHatch; split <;> rfl
@[simp] theorem State.modHatch_inventoryOk (s : State) (h : Nat) (f : Hatch → Hatch) : (s.modHatch h f).inventoryOk = s.inventoryOk := by unfold State.modHatch State.setHatch; split <;> rfl
@[simp] theorem State.modHatch_identityOk (s : State) (h : Nat) (f : Hatch → Hatch) : (s.modHatch h f).identityOk = s.identityOk := by unfold State.modHatch State.setHatch; split <;> rfl
@[simp] theorem State.modHatch_idKey (s : State) (h : Nat) (f : Hatch → Hatch) : (s.modHatch h f).idKey = s.idKey := by unfold State.modHatch State.setHatch; split <;> rfl
@[simp] theorem State.modHatch_packageKeys (s : State) (h : Nat) (f : Hatch → Hatch) : (s.modHatch h f).packageKeys = s.packageKeys := by unfold State.modHatch State.setHatch; split <;> rfl
@[simp] theorem State.modHatch_fw (s : State) (h : Nat) (f : Hatch → Hatch) : (s.modHatch h f).fw = s.fw := by unfold State.modHatch State.setHatch; split <;> rfl
@[simp] theorem State.modHatch_fwRunning (s : State) (h : Nat) (f : Hatch → Hatch) : (s.modHatch h f).fwRunning = s.fwRunning := by unfold State.modHatch State.setHatch; split <;> rfl
@[simp] theorem State.modHatch_svn0 (s : State) (h : Nat) (f : Hatch → Hatch) : (s.modHatch h f).svn0 = s.svn0 := by unfold State.modHatch State.setHatch; split <;> rfl
@[simp] theorem State.modHatch_svn1 (s : State) (h : Nat) (f : Hatch → Hatch) : (s.modHatch h f).svn1 = s.svn1 := by unfold State.modHatch State.setHatch; split <;> rfl
@[simp] theorem State.modHatch_measured (s : State) (h : Nat) (f : Hatch → Hatch) : (s.modHatch h f).measured = s.measured := by unfold State.modHatch State.setHatch; split <;> rfl
@[simp] theorem State.modHatch_sessions (s : State) (h : Nat) (f : Hatch → Hatch) : (s.modHatch h f).sessions = s.sessions := by unfold State.modHatch State.setHatch; split <;> rfl
@[simp] theorem State.modHatch_sensors (s : State) (h : Nat) (f : Hatch → Hatch) : (s.modHatch h f).sensors = s.sensors := by unfold State.modHatch State.setHatch; split <;> rfl
@[simp] theorem State.modHatch_stateSensors (s : State) (h : Nat) (f : Hatch → Hatch) : (s.modHatch h f).stateSensors = s.stateSensors := by unfold State.modHatch State.setHatch; split <;> rfl
@[simp] theorem State.modHatch_eventsFrom (s : State) (h : Nat) (f : Hatch → Hatch) : (s.modHatch h f).eventsFrom = s.eventsFrom := by unfold State.modHatch State.setHatch; split <;> rfl
@[simp] theorem State.modHatch_events (s : State) (h : Nat) (f : Hatch → Hatch) : (s.modHatch h f).events = s.events := by unfold State.modHatch State.setHatch; split <;> rfl
@[simp] theorem State.modHatch_smbusAddr (s : State) (h : Nat) (f : Hatch → Hatch) : (s.modHatch h f).smbusAddr = s.smbusAddr := by unfold State.modHatch State.setHatch; split <;> rfl
@[simp] theorem State.modHatch_irqs (s : State) (h : Nat) (f : Hatch → Hatch) : (s.modHatch h f).irqs = s.irqs := by unfold State.modHatch State.setHatch; split <;> rfl
@[simp] theorem State.modHatch_frameOut (s : State) (h : Nat) (f : Hatch → Hatch) : (s.modHatch h f).frameOut = s.frameOut := by unfold State.modHatch State.setHatch; split <;> rfl
@[simp] theorem State.modHatch_delivered (s : State) (h : Nat) (f : Hatch → Hatch) : (s.modHatch h f).delivered = s.delivered := by unfold State.modHatch State.setHatch; split <;> rfl
@[simp] theorem State.modHatch_packetOut (s : State) (h : Nat) (f : Hatch → Hatch) : (s.modHatch h f).packetOut = s.packetOut := by unfold State.modHatch State.setHatch; split <;> rfl
@[simp] theorem State.modHatch_sent (s : State) (h : Nat) (f : Hatch → Hatch) : (s.modHatch h f).sent = s.sent := by unfold State.modHatch State.setHatch; split <;> rfl
@[simp] theorem State.modHatch_answers (s : State) (h : Nat) (f : Hatch → Hatch) : (s.modHatch h f).answers = s.answers := by unfold State.modHatch State.setHatch; split <;> rfl

@[simp] theorem State.setKeeper_pending (s : State) (k : Nat) (x : KeeperSt) : (s.setKeeper k x).pending = s.pending := by unfold State.setKeeper; split <;> rfl
@[simp] theorem State.setKeeper_now (s : State) (k : Nat) (x : KeeperSt) : (s.setKeeper k x).now = s.now := by unfold State.setKeeper; split <;> rfl
@[simp] theorem State.setKeeper_fresh (s : State) (k : Nat) (x : KeeperSt) : (s.setKeeper k x).fresh = s.fresh := by unfold State.setKeeper; split <;> rfl
@[simp] theorem State.setKeeper_pins (s : State) (k : Nat) (x : KeeperSt) : (s.setKeeper k x).pins = s.pins := by unfold State.setKeeper; split <;> rfl
@[simp] theorem State.setKeeper_service (s : State) (k : Nat) (x : KeeperSt) : (s.setKeeper k x).service = s.service := by unfold State.setKeeper; split <;> rfl
@[simp] theorem State.setKeeper_phase (s : State) (k : Nat) (x : KeeperSt) : (s.setKeeper k x).phase = s.phase := by unfold State.setKeeper; split <;> rfl
@[simp] theorem State.setKeeper_halted (s : State) (k : Nat) (x : KeeperSt) : (s.setKeeper k x).halted = s.halted := by unfold State.setKeeper; split <;> rfl
@[simp] theorem State.setKeeper_epochBad (s : State) (k : Nat) (x : KeeperSt) : (s.setKeeper k x).epochBad = s.epochBad := by unfold State.setKeeper; split <;> rfl
@[simp] theorem State.setKeeper_broken (s : State) (k : Nat) (x : KeeperSt) : (s.setKeeper k x).broken = s.broken := by unfold State.setKeeper; split <;> rfl
@[simp] theorem State.setKeeper_admitted (s : State) (k : Nat) (x : KeeperSt) : (s.setKeeper k x).admitted = s.admitted := by unfold State.setKeeper; split <;> rfl
@[simp] theorem State.setKeeper_mem (s : State) (k : Nat) (x : KeeperSt) : (s.setKeeper k x).mem = s.mem := by unfold State.setKeeper; split <;> rfl
@[simp] theorem State.setKeeper_hostMem (s : State) (k : Nat) (x : KeeperSt) : (s.setKeeper k x).hostMem = s.hostMem := by unfold State.setKeeper; split <;> rfl
@[simp] theorem State.setKeeper_marks (s : State) (k : Nat) (x : KeeperSt) : (s.setKeeper k x).marks = s.marks := by unfold State.setKeeper; split <;> rfl
@[simp] theorem State.setKeeper_pageErrs (s : State) (k : Nat) (x : KeeperSt) : (s.setKeeper k x).pageErrs = s.pageErrs := by unfold State.setKeeper; split <;> rfl
@[simp] theorem State.setKeeper_dies (s : State) (k : Nat) (x : KeeperSt) : (s.setKeeper k x).dies = s.dies := by unfold State.setKeeper; split <;> rfl
@[simp] theorem State.setKeeper_cores (s : State) (k : Nat) (x : KeeperSt) : (s.setKeeper k x).cores = s.cores := by unfold State.setKeeper; split <;> rfl
@[simp] theorem State.setKeeper_channels (s : State) (k : Nat) (x : KeeperSt) : (s.setKeeper k x).channels = s.channels := by unfold State.setKeeper; split <;> rfl
@[simp] theorem State.setKeeper_frames (s : State) (k : Nat) (x : KeeperSt) : (s.setKeeper k x).frames = s.frames := by unfold State.setKeeper; split <;> rfl
@[simp] theorem State.setKeeper_owners (s : State) (k : Nat) (x : KeeperSt) : (s.setKeeper k x).owners = s.owners := by unfold State.setKeeper; split <;> rfl
@[simp] theorem State.setKeeper_written (s : State) (k : Nat) (x : KeeperSt) : (s.setKeeper k x).written = s.written := by unfold State.setKeeper; split <;> rfl
@[simp] theorem State.setKeeper_scrubHours (s : State) (k : Nat) (x : KeeperSt) : (s.setKeeper k x).scrubHours = s.scrubHours := by unfold State.setKeeper; split <;> rfl
@[simp] theorem State.setKeeper_spareFrames (s : State) (k : Nat) (x : KeeperSt) : (s.setKeeper k x).spareFrames = s.spareFrames := by unfold State.setKeeper; split <;> rfl
@[simp] theorem State.setKeeper_contexts (s : State) (k : Nat) (x : KeeperSt) : (s.setKeeper k x).contexts = s.contexts := by unfold State.setKeeper; split <;> rfl
@[simp] theorem State.setKeeper_queues (s : State) (k : Nat) (x : KeeperSt) : (s.setKeeper k x).queues = s.queues := by unfold State.setKeeper; split <;> rfl
@[simp] theorem State.setKeeper_serial (s : State) (k : Nat) (x : KeeperSt) : (s.setKeeper k x).serial = s.serial := by unfold State.setKeeper; split <;> rfl
@[simp] theorem State.setKeeper_sets (s : State) (k : Nat) (x : KeeperSt) : (s.setKeeper k x).sets = s.sets := by unfold State.setKeeper; split <;> rfl
@[simp] theorem State.setKeeper_crates (s : State) (k : Nat) (x : KeeperSt) : (s.setKeeper k x).crates = s.crates := by unfold State.setKeeper; split <;> rfl
@[simp] theorem State.setKeeper_crateNext (s : State) (k : Nat) (x : KeeperSt) : (s.setKeeper k x).crateNext = s.crateNext := by unfold State.setKeeper; split <;> rfl
@[simp] theorem State.setKeeper_tallyMsgs (s : State) (k : Nat) (x : KeeperSt) : (s.setKeeper k x).tallyMsgs = s.tallyMsgs := by unfold State.setKeeper; split <;> rfl
@[simp] theorem State.setKeeper_meshWait (s : State) (k : Nat) (x : KeeperSt) : (s.setKeeper k x).meshWait = s.meshWait := by unfold State.setKeeper; split <;> rfl
@[simp] theorem State.setKeeper_ports (s : State) (k : Nat) (x : KeeperSt) : (s.setKeeper k x).ports = s.ports := by unfold State.setKeeper; split <;> rfl
@[simp] theorem State.setKeeper_pkgId (s : State) (k : Nat) (x : KeeperSt) : (s.setKeeper k x).pkgId = s.pkgId := by unfold State.setKeeper; split <;> rfl
@[simp] theorem State.setKeeper_flows (s : State) (k : Nat) (x : KeeperSt) : (s.setKeeper k x).flows = s.flows := by unfold State.setKeeper; split <;> rfl
@[simp] theorem State.setKeeper_rxFlows (s : State) (k : Nat) (x : KeeperSt) : (s.setKeeper k x).rxFlows = s.rxFlows := by unfold State.setKeeper; split <;> rfl
@[simp] theorem State.setKeeper_transits (s : State) (k : Nat) (x : KeeperSt) : (s.setKeeper k x).transits = s.transits := by unfold State.setKeeper; split <;> rfl
@[simp] theorem State.setKeeper_groups (s : State) (k : Nat) (x : KeeperSt) : (s.setKeeper k x).groups = s.groups := by unfold State.setKeeper; split <;> rfl
@[simp] theorem State.setKeeper_pathJobs (s : State) (k : Nat) (x : KeeperSt) : (s.setKeeper k x).pathJobs = s.pathJobs := by unfold State.setKeeper; split <;> rfl
@[simp] theorem State.setKeeper_time (s : State) (k : Nat) (x : KeeperSt) : (s.setKeeper k x).time = s.time := by unfold State.setKeeper; split <;> rfl
@[simp] theorem State.setKeeper_keeperEpoch (s : State) (k : Nat) (x : KeeperSt) : (s.setKeeper k x).keeperEpoch = s.keeperEpoch := by unfold State.setKeeper; split <;> rfl
@[simp] theorem State.setKeeper_holder (s : State) (k : Nat) (x : KeeperSt) : (s.setKeeper k x).holder = s.holder := by unfold State.setKeeper; split <;> rfl
@[simp] theorem State.setKeeper_lastBeat (s : State) (k : Nat) (x : KeeperSt) : (s.setKeeper k x).lastBeat = s.lastBeat := by unfold State.setKeeper; split <;> rfl
@[simp] theorem State.setKeeper_hatch0 (s : State) (k : Nat) (x : KeeperSt) : (s.setKeeper k x).hatch0 = s.hatch0 := by unfold State.setKeeper; split <;> rfl
@[simp] theorem State.setKeeper_hatch1 (s : State) (k : Nat) (x : KeeperSt) : (s.setKeeper k x).hatch1 = s.hatch1 := by unfold State.setKeeper; split <;> rfl
@[simp] theorem State.setKeeper_journal (s : State) (k : Nat) (x : KeeperSt) : (s.setKeeper k x).journal = s.journal := by unfold State.setKeeper; split <;> rfl
@[simp] theorem State.setKeeper_journalNext (s : State) (k : Nat) (x : KeeperSt) : (s.setKeeper k x).journalNext = s.journalNext := by unfold State.setKeeper; split <;> rfl
@[simp] theorem State.setKeeper_recover (s : State) (k : Nat) (x : KeeperSt) : (s.setKeeper k x).recover = s.recover := by unfold State.setKeeper; split <;> rfl
@[simp] theorem State.setKeeper_stopping (s : State) (k : Nat) (x : KeeperSt) : (s.setKeeper k x).stopping = s.stopping := by unfold State.setKeeper; split <;> rfl
@[simp] theorem State.setKeeper_wasStopped (s : State) (k : Nat) (x : KeeperSt) : (s.setKeeper k x).wasStopped = s.wasStopped := by unfold State.setKeeper; split <;> rfl
@[simp] theorem State.setKeeper_taking (s : State) (k : Nat) (x : KeeperSt) : (s.setKeeper k x).taking = s.taking := by unfold State.setKeeper; split <;> rfl
@[simp] theorem State.setKeeper_merged (s : State) (k : Nat) (x : KeeperSt) : (s.setKeeper k x).merged = s.merged := by unfold State.setKeeper; split <;> rfl
@[simp] theorem State.setKeeper_dropped (s : State) (k : Nat) (x : KeeperSt) : (s.setKeeper k x).dropped = s.dropped := by unfold State.setKeeper; split <;> rfl
@[simp] theorem State.setKeeper_power (s : State) (k : Nat) (x : KeeperSt) : (s.setKeeper k x).power = s.power := by unfold State.setKeeper; split <;> rfl
@[simp] theorem State.setKeeper_coords (s : State) (k : Nat) (x : KeeperSt) : (s.setKeeper k x).coords = s.coords := by unfold State.setKeeper; split <;> rfl
@[simp] theorem State.setKeeper_host0 (s : State) (k : Nat) (x : KeeperSt) : (s.setKeeper k x).host0 = s.host0 := by unfold State.setKeeper; split <;> rfl
@[simp] theorem State.setKeeper_host1 (s : State) (k : Nat) (x : KeeperSt) : (s.setKeeper k x).host1 = s.host1 := by unfold State.setKeeper; split <;> rfl
@[simp] theorem State.setKeeper_primary (s : State) (k : Nat) (x : KeeperSt) : (s.setKeeper k x).primary = s.primary := by unfold State.setKeeper; split <;> rfl
@[simp] theorem State.setKeeper_dgValue (s : State) (k : Nat) (x : KeeperSt) : (s.setKeeper k x).dgValue = s.dgValue := by unfold State.setKeeper; split <;> rfl
@[simp] theorem State.setKeeper_dgMode (s : State) (k : Nat) (x : KeeperSt) : (s.setKeeper k x).dgMode = s.dgMode := by unfold State.setKeeper; split <;> rfl
@[simp] theorem State.setKeeper_dgCtx (s : State) (k : Nat) (x : KeeperSt) : (s.setKeeper k x).dgCtx = s.dgCtx := by unfold State.setKeeper; split <;> rfl
@[simp] theorem State.setKeeper_dgVid (s : State) (k : Nat) (x : KeeperSt) : (s.setKeeper k x).dgVid = s.dgVid := by unfold State.setKeeper; split <;> rfl
@[simp] theorem State.setKeeper_dgGo (s : State) (k : Nat) (x : KeeperSt) : (s.setKeeper k x).dgGo = s.dgGo := by unfold State.setKeeper; split <;> rfl
@[simp] theorem State.setKeeper_block (s : State) (k : Nat) (x : KeeperSt) : (s.setKeeper k x).block = s.block := by unfold State.setKeeper; split <;> rfl
@[simp] theorem State.setKeeper_lastFault (s : State) (k : Nat) (x : KeeperSt) : (s.setKeeper k x).lastFault = s.lastFault := by unfold State.setKeeper; split <;> rfl
@[simp] theorem State.setKeeper_lastFaultCount (s : State) (k : Nat) (x : KeeperSt) : (s.setKeeper k x).lastFaultCount = s.lastFaultCount := by unfold State.setKeeper; split <;> rfl
@[simp] theorem State.setKeeper_inv (s : State) (k : Nat) (x : KeeperSt) : (s.setKeeper k x).inv = s.inv := by unfold State.setKeeper; split <;> rfl
@[simp] theorem State.setKeeper_invL0 (s : State) (k : Nat) (x : KeeperSt) : (s.setKeeper k x).invL0 = s.invL0 := by unfold State.setKeeper; split <;> rfl
@[simp] theorem State.setKeeper_invL1 (s : State) (k : Nat) (x : KeeperSt) : (s.setKeeper k x).invL1 = s.invL1 := by unfold State.setKeeper; split <;> rfl
@[simp] theorem State.setKeeper_inventoryOk (s : State) (k : Nat) (x : KeeperSt) : (s.setKeeper k x).inventoryOk = s.inventoryOk := by unfold State.setKeeper; split <;> rfl
@[simp] theorem State.setKeeper_identityOk (s : State) (k : Nat) (x : KeeperSt) : (s.setKeeper k x).identityOk = s.identityOk := by unfold State.setKeeper; split <;> rfl
@[simp] theorem State.setKeeper_idKey (s : State) (k : Nat) (x : KeeperSt) : (s.setKeeper k x).idKey = s.idKey := by unfold State.setKeeper; split <;> rfl
@[simp] theorem State.setKeeper_packageKeys (s : State) (k : Nat) (x : KeeperSt) : (s.setKeeper k x).packageKeys = s.packageKeys := by unfold State.setKeeper; split <;> rfl
@[simp] theorem State.setKeeper_fw (s : State) (k : Nat) (x : KeeperSt) : (s.setKeeper k x).fw = s.fw := by unfold State.setKeeper; split <;> rfl
@[simp] theorem State.setKeeper_fwRunning (s : State) (k : Nat) (x : KeeperSt) : (s.setKeeper k x).fwRunning = s.fwRunning := by unfold State.setKeeper; split <;> rfl
@[simp] theorem State.setKeeper_svn0 (s : State) (k : Nat) (x : KeeperSt) : (s.setKeeper k x).svn0 = s.svn0 := by unfold State.setKeeper; split <;> rfl
@[simp] theorem State.setKeeper_svn1 (s : State) (k : Nat) (x : KeeperSt) : (s.setKeeper k x).svn1 = s.svn1 := by unfold State.setKeeper; split <;> rfl
@[simp] theorem State.setKeeper_measured (s : State) (k : Nat) (x : KeeperSt) : (s.setKeeper k x).measured = s.measured := by unfold State.setKeeper; split <;> rfl
@[simp] theorem State.setKeeper_sessions (s : State) (k : Nat) (x : KeeperSt) : (s.setKeeper k x).sessions = s.sessions := by unfold State.setKeeper; split <;> rfl
@[simp] theorem State.setKeeper_sensors (s : State) (k : Nat) (x : KeeperSt) : (s.setKeeper k x).sensors = s.sensors := by unfold State.setKeeper; split <;> rfl
@[simp] theorem State.setKeeper_stateSensors (s : State) (k : Nat) (x : KeeperSt) : (s.setKeeper k x).stateSensors = s.stateSensors := by unfold State.setKeeper; split <;> rfl
@[simp] theorem State.setKeeper_eventsFrom (s : State) (k : Nat) (x : KeeperSt) : (s.setKeeper k x).eventsFrom = s.eventsFrom := by unfold State.setKeeper; split <;> rfl
@[simp] theorem State.setKeeper_events (s : State) (k : Nat) (x : KeeperSt) : (s.setKeeper k x).events = s.events := by unfold State.setKeeper; split <;> rfl
@[simp] theorem State.setKeeper_smbusAddr (s : State) (k : Nat) (x : KeeperSt) : (s.setKeeper k x).smbusAddr = s.smbusAddr := by unfold State.setKeeper; split <;> rfl
@[simp] theorem State.setKeeper_irqs (s : State) (k : Nat) (x : KeeperSt) : (s.setKeeper k x).irqs = s.irqs := by unfold State.setKeeper; split <;> rfl
@[simp] theorem State.setKeeper_frameOut (s : State) (k : Nat) (x : KeeperSt) : (s.setKeeper k x).frameOut = s.frameOut := by unfold State.setKeeper; split <;> rfl
@[simp] theorem State.setKeeper_delivered (s : State) (k : Nat) (x : KeeperSt) : (s.setKeeper k x).delivered = s.delivered := by unfold State.setKeeper; split <;> rfl
@[simp] theorem State.setKeeper_packetOut (s : State) (k : Nat) (x : KeeperSt) : (s.setKeeper k x).packetOut = s.packetOut := by unfold State.setKeeper; split <;> rfl
@[simp] theorem State.setKeeper_sent (s : State) (k : Nat) (x : KeeperSt) : (s.setKeeper k x).sent = s.sent := by unfold State.setKeeper; split <;> rfl
@[simp] theorem State.setKeeper_answers (s : State) (k : Nat) (x : KeeperSt) : (s.setKeeper k x).answers = s.answers := by unfold State.setKeeper; split <;> rfl

/-! ## A packet that leaves changes `packetOut` only, and a message that leaves changes `sent` beside it -/

@[simp] theorem State.post_pending (s : State) (p : Nat) (l : List Packet) : (s.post p l).pending = s.pending := by unfold State.post; split <;> rfl
@[simp] theorem State.post_now (s : State) (p : Nat) (l : List Packet) : (s.post p l).now = s.now := by unfold State.post; split <;> rfl
@[simp] theorem State.post_fresh (s : State) (p : Nat) (l : List Packet) : (s.post p l).fresh = s.fresh := by unfold State.post; split <;> rfl
@[simp] theorem State.post_pins (s : State) (p : Nat) (l : List Packet) : (s.post p l).pins = s.pins := by unfold State.post; split <;> rfl
@[simp] theorem State.post_service (s : State) (p : Nat) (l : List Packet) : (s.post p l).service = s.service := by unfold State.post; split <;> rfl
@[simp] theorem State.post_phase (s : State) (p : Nat) (l : List Packet) : (s.post p l).phase = s.phase := by unfold State.post; split <;> rfl
@[simp] theorem State.post_halted (s : State) (p : Nat) (l : List Packet) : (s.post p l).halted = s.halted := by unfold State.post; split <;> rfl
@[simp] theorem State.post_epochBad (s : State) (p : Nat) (l : List Packet) : (s.post p l).epochBad = s.epochBad := by unfold State.post; split <;> rfl
@[simp] theorem State.post_broken (s : State) (p : Nat) (l : List Packet) : (s.post p l).broken = s.broken := by unfold State.post; split <;> rfl
@[simp] theorem State.post_admitted (s : State) (p : Nat) (l : List Packet) : (s.post p l).admitted = s.admitted := by unfold State.post; split <;> rfl
@[simp] theorem State.post_mem (s : State) (p : Nat) (l : List Packet) : (s.post p l).mem = s.mem := by unfold State.post; split <;> rfl
@[simp] theorem State.post_hostMem (s : State) (p : Nat) (l : List Packet) : (s.post p l).hostMem = s.hostMem := by unfold State.post; split <;> rfl
@[simp] theorem State.post_marks (s : State) (p : Nat) (l : List Packet) : (s.post p l).marks = s.marks := by unfold State.post; split <;> rfl
@[simp] theorem State.post_pageErrs (s : State) (p : Nat) (l : List Packet) : (s.post p l).pageErrs = s.pageErrs := by unfold State.post; split <;> rfl
@[simp] theorem State.post_dies (s : State) (p : Nat) (l : List Packet) : (s.post p l).dies = s.dies := by unfold State.post; split <;> rfl
@[simp] theorem State.post_cores (s : State) (p : Nat) (l : List Packet) : (s.post p l).cores = s.cores := by unfold State.post; split <;> rfl
@[simp] theorem State.post_channels (s : State) (p : Nat) (l : List Packet) : (s.post p l).channels = s.channels := by unfold State.post; split <;> rfl
@[simp] theorem State.post_frames (s : State) (p : Nat) (l : List Packet) : (s.post p l).frames = s.frames := by unfold State.post; split <;> rfl
@[simp] theorem State.post_owners (s : State) (p : Nat) (l : List Packet) : (s.post p l).owners = s.owners := by unfold State.post; split <;> rfl
@[simp] theorem State.post_written (s : State) (p : Nat) (l : List Packet) : (s.post p l).written = s.written := by unfold State.post; split <;> rfl
@[simp] theorem State.post_scrubHours (s : State) (p : Nat) (l : List Packet) : (s.post p l).scrubHours = s.scrubHours := by unfold State.post; split <;> rfl
@[simp] theorem State.post_spareFrames (s : State) (p : Nat) (l : List Packet) : (s.post p l).spareFrames = s.spareFrames := by unfold State.post; split <;> rfl
@[simp] theorem State.post_contexts (s : State) (p : Nat) (l : List Packet) : (s.post p l).contexts = s.contexts := by unfold State.post; split <;> rfl
@[simp] theorem State.post_queues (s : State) (p : Nat) (l : List Packet) : (s.post p l).queues = s.queues := by unfold State.post; split <;> rfl
@[simp] theorem State.post_serial (s : State) (p : Nat) (l : List Packet) : (s.post p l).serial = s.serial := by unfold State.post; split <;> rfl
@[simp] theorem State.post_sets (s : State) (p : Nat) (l : List Packet) : (s.post p l).sets = s.sets := by unfold State.post; split <;> rfl
@[simp] theorem State.post_crates (s : State) (p : Nat) (l : List Packet) : (s.post p l).crates = s.crates := by unfold State.post; split <;> rfl
@[simp] theorem State.post_crateNext (s : State) (p : Nat) (l : List Packet) : (s.post p l).crateNext = s.crateNext := by unfold State.post; split <;> rfl
@[simp] theorem State.post_tallyMsgs (s : State) (p : Nat) (l : List Packet) : (s.post p l).tallyMsgs = s.tallyMsgs := by unfold State.post; split <;> rfl
@[simp] theorem State.post_meshWait (s : State) (p : Nat) (l : List Packet) : (s.post p l).meshWait = s.meshWait := by unfold State.post; split <;> rfl
@[simp] theorem State.post_ports (s : State) (p : Nat) (l : List Packet) : (s.post p l).ports = s.ports := by unfold State.post; split <;> rfl
@[simp] theorem State.post_pkgId (s : State) (p : Nat) (l : List Packet) : (s.post p l).pkgId = s.pkgId := by unfold State.post; split <;> rfl
@[simp] theorem State.post_flows (s : State) (p : Nat) (l : List Packet) : (s.post p l).flows = s.flows := by unfold State.post; split <;> rfl
@[simp] theorem State.post_rxFlows (s : State) (p : Nat) (l : List Packet) : (s.post p l).rxFlows = s.rxFlows := by unfold State.post; split <;> rfl
@[simp] theorem State.post_transits (s : State) (p : Nat) (l : List Packet) : (s.post p l).transits = s.transits := by unfold State.post; split <;> rfl
@[simp] theorem State.post_groups (s : State) (p : Nat) (l : List Packet) : (s.post p l).groups = s.groups := by unfold State.post; split <;> rfl
@[simp] theorem State.post_pathJobs (s : State) (p : Nat) (l : List Packet) : (s.post p l).pathJobs = s.pathJobs := by unfold State.post; split <;> rfl
@[simp] theorem State.post_time (s : State) (p : Nat) (l : List Packet) : (s.post p l).time = s.time := by unfold State.post; split <;> rfl
@[simp] theorem State.post_keeper0 (s : State) (p : Nat) (l : List Packet) : (s.post p l).keeper0 = s.keeper0 := by unfold State.post; split <;> rfl
@[simp] theorem State.post_keeper1 (s : State) (p : Nat) (l : List Packet) : (s.post p l).keeper1 = s.keeper1 := by unfold State.post; split <;> rfl
@[simp] theorem State.post_keeperEpoch (s : State) (p : Nat) (l : List Packet) : (s.post p l).keeperEpoch = s.keeperEpoch := by unfold State.post; split <;> rfl
@[simp] theorem State.post_holder (s : State) (p : Nat) (l : List Packet) : (s.post p l).holder = s.holder := by unfold State.post; split <;> rfl
@[simp] theorem State.post_lastBeat (s : State) (p : Nat) (l : List Packet) : (s.post p l).lastBeat = s.lastBeat := by unfold State.post; split <;> rfl
@[simp] theorem State.post_hatch0 (s : State) (p : Nat) (l : List Packet) : (s.post p l).hatch0 = s.hatch0 := by unfold State.post; split <;> rfl
@[simp] theorem State.post_hatch1 (s : State) (p : Nat) (l : List Packet) : (s.post p l).hatch1 = s.hatch1 := by unfold State.post; split <;> rfl
@[simp] theorem State.post_journal (s : State) (p : Nat) (l : List Packet) : (s.post p l).journal = s.journal := by unfold State.post; split <;> rfl
@[simp] theorem State.post_journalNext (s : State) (p : Nat) (l : List Packet) : (s.post p l).journalNext = s.journalNext := by unfold State.post; split <;> rfl
@[simp] theorem State.post_recover (s : State) (p : Nat) (l : List Packet) : (s.post p l).recover = s.recover := by unfold State.post; split <;> rfl
@[simp] theorem State.post_stopping (s : State) (p : Nat) (l : List Packet) : (s.post p l).stopping = s.stopping := by unfold State.post; split <;> rfl
@[simp] theorem State.post_wasStopped (s : State) (p : Nat) (l : List Packet) : (s.post p l).wasStopped = s.wasStopped := by unfold State.post; split <;> rfl
@[simp] theorem State.post_taking (s : State) (p : Nat) (l : List Packet) : (s.post p l).taking = s.taking := by unfold State.post; split <;> rfl
@[simp] theorem State.post_merged (s : State) (p : Nat) (l : List Packet) : (s.post p l).merged = s.merged := by unfold State.post; split <;> rfl
@[simp] theorem State.post_dropped (s : State) (p : Nat) (l : List Packet) : (s.post p l).dropped = s.dropped := by unfold State.post; split <;> rfl
@[simp] theorem State.post_power (s : State) (p : Nat) (l : List Packet) : (s.post p l).power = s.power := by unfold State.post; split <;> rfl
@[simp] theorem State.post_coords (s : State) (p : Nat) (l : List Packet) : (s.post p l).coords = s.coords := by unfold State.post; split <;> rfl
@[simp] theorem State.post_host0 (s : State) (p : Nat) (l : List Packet) : (s.post p l).host0 = s.host0 := by unfold State.post; split <;> rfl
@[simp] theorem State.post_host1 (s : State) (p : Nat) (l : List Packet) : (s.post p l).host1 = s.host1 := by unfold State.post; split <;> rfl
@[simp] theorem State.post_primary (s : State) (p : Nat) (l : List Packet) : (s.post p l).primary = s.primary := by unfold State.post; split <;> rfl
@[simp] theorem State.post_dgValue (s : State) (p : Nat) (l : List Packet) : (s.post p l).dgValue = s.dgValue := by unfold State.post; split <;> rfl
@[simp] theorem State.post_dgMode (s : State) (p : Nat) (l : List Packet) : (s.post p l).dgMode = s.dgMode := by unfold State.post; split <;> rfl
@[simp] theorem State.post_dgCtx (s : State) (p : Nat) (l : List Packet) : (s.post p l).dgCtx = s.dgCtx := by unfold State.post; split <;> rfl
@[simp] theorem State.post_dgVid (s : State) (p : Nat) (l : List Packet) : (s.post p l).dgVid = s.dgVid := by unfold State.post; split <;> rfl
@[simp] theorem State.post_dgGo (s : State) (p : Nat) (l : List Packet) : (s.post p l).dgGo = s.dgGo := by unfold State.post; split <;> rfl
@[simp] theorem State.post_block (s : State) (p : Nat) (l : List Packet) : (s.post p l).block = s.block := by unfold State.post; split <;> rfl
@[simp] theorem State.post_lastFault (s : State) (p : Nat) (l : List Packet) : (s.post p l).lastFault = s.lastFault := by unfold State.post; split <;> rfl
@[simp] theorem State.post_lastFaultCount (s : State) (p : Nat) (l : List Packet) : (s.post p l).lastFaultCount = s.lastFaultCount := by unfold State.post; split <;> rfl
@[simp] theorem State.post_inv (s : State) (p : Nat) (l : List Packet) : (s.post p l).inv = s.inv := by unfold State.post; split <;> rfl
@[simp] theorem State.post_invL0 (s : State) (p : Nat) (l : List Packet) : (s.post p l).invL0 = s.invL0 := by unfold State.post; split <;> rfl
@[simp] theorem State.post_invL1 (s : State) (p : Nat) (l : List Packet) : (s.post p l).invL1 = s.invL1 := by unfold State.post; split <;> rfl
@[simp] theorem State.post_inventoryOk (s : State) (p : Nat) (l : List Packet) : (s.post p l).inventoryOk = s.inventoryOk := by unfold State.post; split <;> rfl
@[simp] theorem State.post_identityOk (s : State) (p : Nat) (l : List Packet) : (s.post p l).identityOk = s.identityOk := by unfold State.post; split <;> rfl
@[simp] theorem State.post_idKey (s : State) (p : Nat) (l : List Packet) : (s.post p l).idKey = s.idKey := by unfold State.post; split <;> rfl
@[simp] theorem State.post_packageKeys (s : State) (p : Nat) (l : List Packet) : (s.post p l).packageKeys = s.packageKeys := by unfold State.post; split <;> rfl
@[simp] theorem State.post_fw (s : State) (p : Nat) (l : List Packet) : (s.post p l).fw = s.fw := by unfold State.post; split <;> rfl
@[simp] theorem State.post_fwRunning (s : State) (p : Nat) (l : List Packet) : (s.post p l).fwRunning = s.fwRunning := by unfold State.post; split <;> rfl
@[simp] theorem State.post_svn0 (s : State) (p : Nat) (l : List Packet) : (s.post p l).svn0 = s.svn0 := by unfold State.post; split <;> rfl
@[simp] theorem State.post_svn1 (s : State) (p : Nat) (l : List Packet) : (s.post p l).svn1 = s.svn1 := by unfold State.post; split <;> rfl
@[simp] theorem State.post_measured (s : State) (p : Nat) (l : List Packet) : (s.post p l).measured = s.measured := by unfold State.post; split <;> rfl
@[simp] theorem State.post_sessions (s : State) (p : Nat) (l : List Packet) : (s.post p l).sessions = s.sessions := by unfold State.post; split <;> rfl
@[simp] theorem State.post_sensors (s : State) (p : Nat) (l : List Packet) : (s.post p l).sensors = s.sensors := by unfold State.post; split <;> rfl
@[simp] theorem State.post_stateSensors (s : State) (p : Nat) (l : List Packet) : (s.post p l).stateSensors = s.stateSensors := by unfold State.post; split <;> rfl
@[simp] theorem State.post_eventsFrom (s : State) (p : Nat) (l : List Packet) : (s.post p l).eventsFrom = s.eventsFrom := by unfold State.post; split <;> rfl
@[simp] theorem State.post_events (s : State) (p : Nat) (l : List Packet) : (s.post p l).events = s.events := by unfold State.post; split <;> rfl
@[simp] theorem State.post_smbusAddr (s : State) (p : Nat) (l : List Packet) : (s.post p l).smbusAddr = s.smbusAddr := by unfold State.post; split <;> rfl
@[simp] theorem State.post_irqs (s : State) (p : Nat) (l : List Packet) : (s.post p l).irqs = s.irqs := by unfold State.post; split <;> rfl
@[simp] theorem State.post_frameOut (s : State) (p : Nat) (l : List Packet) : (s.post p l).frameOut = s.frameOut := by unfold State.post; split <;> rfl
@[simp] theorem State.post_delivered (s : State) (p : Nat) (l : List Packet) : (s.post p l).delivered = s.delivered := by unfold State.post; split <;> rfl
@[simp] theorem State.post_sent (s : State) (p : Nat) (l : List Packet) : (s.post p l).sent = s.sent := by unfold State.post; split <;> rfl
@[simp] theorem State.post_answers (s : State) (p : Nat) (l : List Packet) : (s.post p l).answers = s.answers := by unfold State.post; split <;> rfl
@[simp] theorem State.emit_pending (s : State) (p : Nat) (x : Packet) : (s.emit p x).pending = s.pending := s.post_pending _ _
@[simp] theorem State.emit_now (s : State) (p : Nat) (x : Packet) : (s.emit p x).now = s.now := s.post_now _ _
@[simp] theorem State.emit_fresh (s : State) (p : Nat) (x : Packet) : (s.emit p x).fresh = s.fresh := s.post_fresh _ _
@[simp] theorem State.emit_pins (s : State) (p : Nat) (x : Packet) : (s.emit p x).pins = s.pins := s.post_pins _ _
@[simp] theorem State.emit_service (s : State) (p : Nat) (x : Packet) : (s.emit p x).service = s.service := s.post_service _ _
@[simp] theorem State.emit_phase (s : State) (p : Nat) (x : Packet) : (s.emit p x).phase = s.phase := s.post_phase _ _
@[simp] theorem State.emit_halted (s : State) (p : Nat) (x : Packet) : (s.emit p x).halted = s.halted := s.post_halted _ _
@[simp] theorem State.emit_epochBad (s : State) (p : Nat) (x : Packet) : (s.emit p x).epochBad = s.epochBad := s.post_epochBad _ _
@[simp] theorem State.emit_broken (s : State) (p : Nat) (x : Packet) : (s.emit p x).broken = s.broken := s.post_broken _ _
@[simp] theorem State.emit_admitted (s : State) (p : Nat) (x : Packet) : (s.emit p x).admitted = s.admitted := s.post_admitted _ _
@[simp] theorem State.emit_mem (s : State) (p : Nat) (x : Packet) : (s.emit p x).mem = s.mem := s.post_mem _ _
@[simp] theorem State.emit_hostMem (s : State) (p : Nat) (x : Packet) : (s.emit p x).hostMem = s.hostMem := s.post_hostMem _ _
@[simp] theorem State.emit_marks (s : State) (p : Nat) (x : Packet) : (s.emit p x).marks = s.marks := s.post_marks _ _
@[simp] theorem State.emit_pageErrs (s : State) (p : Nat) (x : Packet) : (s.emit p x).pageErrs = s.pageErrs := s.post_pageErrs _ _
@[simp] theorem State.emit_dies (s : State) (p : Nat) (x : Packet) : (s.emit p x).dies = s.dies := s.post_dies _ _
@[simp] theorem State.emit_cores (s : State) (p : Nat) (x : Packet) : (s.emit p x).cores = s.cores := s.post_cores _ _
@[simp] theorem State.emit_channels (s : State) (p : Nat) (x : Packet) : (s.emit p x).channels = s.channels := s.post_channels _ _
@[simp] theorem State.emit_frames (s : State) (p : Nat) (x : Packet) : (s.emit p x).frames = s.frames := s.post_frames _ _
@[simp] theorem State.emit_owners (s : State) (p : Nat) (x : Packet) : (s.emit p x).owners = s.owners := s.post_owners _ _
@[simp] theorem State.emit_written (s : State) (p : Nat) (x : Packet) : (s.emit p x).written = s.written := s.post_written _ _
@[simp] theorem State.emit_scrubHours (s : State) (p : Nat) (x : Packet) : (s.emit p x).scrubHours = s.scrubHours := s.post_scrubHours _ _
@[simp] theorem State.emit_spareFrames (s : State) (p : Nat) (x : Packet) : (s.emit p x).spareFrames = s.spareFrames := s.post_spareFrames _ _
@[simp] theorem State.emit_contexts (s : State) (p : Nat) (x : Packet) : (s.emit p x).contexts = s.contexts := s.post_contexts _ _
@[simp] theorem State.emit_queues (s : State) (p : Nat) (x : Packet) : (s.emit p x).queues = s.queues := s.post_queues _ _
@[simp] theorem State.emit_serial (s : State) (p : Nat) (x : Packet) : (s.emit p x).serial = s.serial := s.post_serial _ _
@[simp] theorem State.emit_sets (s : State) (p : Nat) (x : Packet) : (s.emit p x).sets = s.sets := s.post_sets _ _
@[simp] theorem State.emit_crates (s : State) (p : Nat) (x : Packet) : (s.emit p x).crates = s.crates := s.post_crates _ _
@[simp] theorem State.emit_crateNext (s : State) (p : Nat) (x : Packet) : (s.emit p x).crateNext = s.crateNext := s.post_crateNext _ _
@[simp] theorem State.emit_tallyMsgs (s : State) (p : Nat) (x : Packet) : (s.emit p x).tallyMsgs = s.tallyMsgs := s.post_tallyMsgs _ _
@[simp] theorem State.emit_meshWait (s : State) (p : Nat) (x : Packet) : (s.emit p x).meshWait = s.meshWait := s.post_meshWait _ _
@[simp] theorem State.emit_ports (s : State) (p : Nat) (x : Packet) : (s.emit p x).ports = s.ports := s.post_ports _ _
@[simp] theorem State.emit_pkgId (s : State) (p : Nat) (x : Packet) : (s.emit p x).pkgId = s.pkgId := s.post_pkgId _ _
@[simp] theorem State.emit_flows (s : State) (p : Nat) (x : Packet) : (s.emit p x).flows = s.flows := s.post_flows _ _
@[simp] theorem State.emit_rxFlows (s : State) (p : Nat) (x : Packet) : (s.emit p x).rxFlows = s.rxFlows := s.post_rxFlows _ _
@[simp] theorem State.emit_transits (s : State) (p : Nat) (x : Packet) : (s.emit p x).transits = s.transits := s.post_transits _ _
@[simp] theorem State.emit_groups (s : State) (p : Nat) (x : Packet) : (s.emit p x).groups = s.groups := s.post_groups _ _
@[simp] theorem State.emit_pathJobs (s : State) (p : Nat) (x : Packet) : (s.emit p x).pathJobs = s.pathJobs := s.post_pathJobs _ _
@[simp] theorem State.emit_time (s : State) (p : Nat) (x : Packet) : (s.emit p x).time = s.time := s.post_time _ _
@[simp] theorem State.emit_keeper0 (s : State) (p : Nat) (x : Packet) : (s.emit p x).keeper0 = s.keeper0 := s.post_keeper0 _ _
@[simp] theorem State.emit_keeper1 (s : State) (p : Nat) (x : Packet) : (s.emit p x).keeper1 = s.keeper1 := s.post_keeper1 _ _
@[simp] theorem State.emit_keeperEpoch (s : State) (p : Nat) (x : Packet) : (s.emit p x).keeperEpoch = s.keeperEpoch := s.post_keeperEpoch _ _
@[simp] theorem State.emit_holder (s : State) (p : Nat) (x : Packet) : (s.emit p x).holder = s.holder := s.post_holder _ _
@[simp] theorem State.emit_lastBeat (s : State) (p : Nat) (x : Packet) : (s.emit p x).lastBeat = s.lastBeat := s.post_lastBeat _ _
@[simp] theorem State.emit_hatch0 (s : State) (p : Nat) (x : Packet) : (s.emit p x).hatch0 = s.hatch0 := s.post_hatch0 _ _
@[simp] theorem State.emit_hatch1 (s : State) (p : Nat) (x : Packet) : (s.emit p x).hatch1 = s.hatch1 := s.post_hatch1 _ _
@[simp] theorem State.emit_journal (s : State) (p : Nat) (x : Packet) : (s.emit p x).journal = s.journal := s.post_journal _ _
@[simp] theorem State.emit_journalNext (s : State) (p : Nat) (x : Packet) : (s.emit p x).journalNext = s.journalNext := s.post_journalNext _ _
@[simp] theorem State.emit_recover (s : State) (p : Nat) (x : Packet) : (s.emit p x).recover = s.recover := s.post_recover _ _
@[simp] theorem State.emit_stopping (s : State) (p : Nat) (x : Packet) : (s.emit p x).stopping = s.stopping := s.post_stopping _ _
@[simp] theorem State.emit_wasStopped (s : State) (p : Nat) (x : Packet) : (s.emit p x).wasStopped = s.wasStopped := s.post_wasStopped _ _
@[simp] theorem State.emit_taking (s : State) (p : Nat) (x : Packet) : (s.emit p x).taking = s.taking := s.post_taking _ _
@[simp] theorem State.emit_merged (s : State) (p : Nat) (x : Packet) : (s.emit p x).merged = s.merged := s.post_merged _ _
@[simp] theorem State.emit_dropped (s : State) (p : Nat) (x : Packet) : (s.emit p x).dropped = s.dropped := s.post_dropped _ _
@[simp] theorem State.emit_power (s : State) (p : Nat) (x : Packet) : (s.emit p x).power = s.power := s.post_power _ _
@[simp] theorem State.emit_coords (s : State) (p : Nat) (x : Packet) : (s.emit p x).coords = s.coords := s.post_coords _ _
@[simp] theorem State.emit_host0 (s : State) (p : Nat) (x : Packet) : (s.emit p x).host0 = s.host0 := s.post_host0 _ _
@[simp] theorem State.emit_host1 (s : State) (p : Nat) (x : Packet) : (s.emit p x).host1 = s.host1 := s.post_host1 _ _
@[simp] theorem State.emit_primary (s : State) (p : Nat) (x : Packet) : (s.emit p x).primary = s.primary := s.post_primary _ _
@[simp] theorem State.emit_dgValue (s : State) (p : Nat) (x : Packet) : (s.emit p x).dgValue = s.dgValue := s.post_dgValue _ _
@[simp] theorem State.emit_dgMode (s : State) (p : Nat) (x : Packet) : (s.emit p x).dgMode = s.dgMode := s.post_dgMode _ _
@[simp] theorem State.emit_dgCtx (s : State) (p : Nat) (x : Packet) : (s.emit p x).dgCtx = s.dgCtx := s.post_dgCtx _ _
@[simp] theorem State.emit_dgVid (s : State) (p : Nat) (x : Packet) : (s.emit p x).dgVid = s.dgVid := s.post_dgVid _ _
@[simp] theorem State.emit_dgGo (s : State) (p : Nat) (x : Packet) : (s.emit p x).dgGo = s.dgGo := s.post_dgGo _ _
@[simp] theorem State.emit_block (s : State) (p : Nat) (x : Packet) : (s.emit p x).block = s.block := s.post_block _ _
@[simp] theorem State.emit_lastFault (s : State) (p : Nat) (x : Packet) : (s.emit p x).lastFault = s.lastFault := s.post_lastFault _ _
@[simp] theorem State.emit_lastFaultCount (s : State) (p : Nat) (x : Packet) : (s.emit p x).lastFaultCount = s.lastFaultCount := s.post_lastFaultCount _ _
@[simp] theorem State.emit_inv (s : State) (p : Nat) (x : Packet) : (s.emit p x).inv = s.inv := s.post_inv _ _
@[simp] theorem State.emit_invL0 (s : State) (p : Nat) (x : Packet) : (s.emit p x).invL0 = s.invL0 := s.post_invL0 _ _
@[simp] theorem State.emit_invL1 (s : State) (p : Nat) (x : Packet) : (s.emit p x).invL1 = s.invL1 := s.post_invL1 _ _
@[simp] theorem State.emit_inventoryOk (s : State) (p : Nat) (x : Packet) : (s.emit p x).inventoryOk = s.inventoryOk := s.post_inventoryOk _ _
@[simp] theorem State.emit_identityOk (s : State) (p : Nat) (x : Packet) : (s.emit p x).identityOk = s.identityOk := s.post_identityOk _ _
@[simp] theorem State.emit_idKey (s : State) (p : Nat) (x : Packet) : (s.emit p x).idKey = s.idKey := s.post_idKey _ _
@[simp] theorem State.emit_packageKeys (s : State) (p : Nat) (x : Packet) : (s.emit p x).packageKeys = s.packageKeys := s.post_packageKeys _ _
@[simp] theorem State.emit_fw (s : State) (p : Nat) (x : Packet) : (s.emit p x).fw = s.fw := s.post_fw _ _
@[simp] theorem State.emit_fwRunning (s : State) (p : Nat) (x : Packet) : (s.emit p x).fwRunning = s.fwRunning := s.post_fwRunning _ _
@[simp] theorem State.emit_svn0 (s : State) (p : Nat) (x : Packet) : (s.emit p x).svn0 = s.svn0 := s.post_svn0 _ _
@[simp] theorem State.emit_svn1 (s : State) (p : Nat) (x : Packet) : (s.emit p x).svn1 = s.svn1 := s.post_svn1 _ _
@[simp] theorem State.emit_measured (s : State) (p : Nat) (x : Packet) : (s.emit p x).measured = s.measured := s.post_measured _ _
@[simp] theorem State.emit_sessions (s : State) (p : Nat) (x : Packet) : (s.emit p x).sessions = s.sessions := s.post_sessions _ _
@[simp] theorem State.emit_sensors (s : State) (p : Nat) (x : Packet) : (s.emit p x).sensors = s.sensors := s.post_sensors _ _
@[simp] theorem State.emit_stateSensors (s : State) (p : Nat) (x : Packet) : (s.emit p x).stateSensors = s.stateSensors := s.post_stateSensors _ _
@[simp] theorem State.emit_eventsFrom (s : State) (p : Nat) (x : Packet) : (s.emit p x).eventsFrom = s.eventsFrom := s.post_eventsFrom _ _
@[simp] theorem State.emit_events (s : State) (p : Nat) (x : Packet) : (s.emit p x).events = s.events := s.post_events _ _
@[simp] theorem State.emit_smbusAddr (s : State) (p : Nat) (x : Packet) : (s.emit p x).smbusAddr = s.smbusAddr := s.post_smbusAddr _ _
@[simp] theorem State.emit_irqs (s : State) (p : Nat) (x : Packet) : (s.emit p x).irqs = s.irqs := s.post_irqs _ _
@[simp] theorem State.emit_frameOut (s : State) (p : Nat) (x : Packet) : (s.emit p x).frameOut = s.frameOut := s.post_frameOut _ _
@[simp] theorem State.emit_delivered (s : State) (p : Nat) (x : Packet) : (s.emit p x).delivered = s.delivered := s.post_delivered _ _
@[simp] theorem State.emit_sent (s : State) (p : Nat) (x : Packet) : (s.emit p x).sent = s.sent := s.post_sent _ _
@[simp] theorem State.emit_answers (s : State) (p : Nat) (x : Packet) : (s.emit p x).answers = s.answers := s.post_answers _ _
@[simp] theorem State.send_sent (s : State) (m : Sent) : (s.send m).sent = s.sent ++ [m] := each_same State.sent _ (fun s _ => s.emit_sent _ _) _ _
@[simp] theorem State.send_pending (s : State) (m : Sent) : (s.send m).pending = s.pending := each_same State.pending _ (fun s _ => s.emit_pending _ _) _ _
@[simp] theorem State.send_now (s : State) (m : Sent) : (s.send m).now = s.now := each_same State.now _ (fun s _ => s.emit_now _ _) _ _
@[simp] theorem State.send_fresh (s : State) (m : Sent) : (s.send m).fresh = s.fresh := each_same State.fresh _ (fun s _ => s.emit_fresh _ _) _ _
@[simp] theorem State.send_pins (s : State) (m : Sent) : (s.send m).pins = s.pins := each_same State.pins _ (fun s _ => s.emit_pins _ _) _ _
@[simp] theorem State.send_service (s : State) (m : Sent) : (s.send m).service = s.service := each_same State.service _ (fun s _ => s.emit_service _ _) _ _
@[simp] theorem State.send_phase (s : State) (m : Sent) : (s.send m).phase = s.phase := each_same State.phase _ (fun s _ => s.emit_phase _ _) _ _
@[simp] theorem State.send_halted (s : State) (m : Sent) : (s.send m).halted = s.halted := each_same State.halted _ (fun s _ => s.emit_halted _ _) _ _
@[simp] theorem State.send_epochBad (s : State) (m : Sent) : (s.send m).epochBad = s.epochBad := each_same State.epochBad _ (fun s _ => s.emit_epochBad _ _) _ _
@[simp] theorem State.send_broken (s : State) (m : Sent) : (s.send m).broken = s.broken := each_same State.broken _ (fun s _ => s.emit_broken _ _) _ _
@[simp] theorem State.send_admitted (s : State) (m : Sent) : (s.send m).admitted = s.admitted := each_same State.admitted _ (fun s _ => s.emit_admitted _ _) _ _
@[simp] theorem State.send_mem (s : State) (m : Sent) : (s.send m).mem = s.mem := each_same State.mem _ (fun s _ => s.emit_mem _ _) _ _
@[simp] theorem State.send_hostMem (s : State) (m : Sent) : (s.send m).hostMem = s.hostMem := each_same State.hostMem _ (fun s _ => s.emit_hostMem _ _) _ _
@[simp] theorem State.send_marks (s : State) (m : Sent) : (s.send m).marks = s.marks := each_same State.marks _ (fun s _ => s.emit_marks _ _) _ _
@[simp] theorem State.send_pageErrs (s : State) (m : Sent) : (s.send m).pageErrs = s.pageErrs := each_same State.pageErrs _ (fun s _ => s.emit_pageErrs _ _) _ _
@[simp] theorem State.send_dies (s : State) (m : Sent) : (s.send m).dies = s.dies := each_same State.dies _ (fun s _ => s.emit_dies _ _) _ _
@[simp] theorem State.send_cores (s : State) (m : Sent) : (s.send m).cores = s.cores := each_same State.cores _ (fun s _ => s.emit_cores _ _) _ _
@[simp] theorem State.send_channels (s : State) (m : Sent) : (s.send m).channels = s.channels := each_same State.channels _ (fun s _ => s.emit_channels _ _) _ _
@[simp] theorem State.send_frames (s : State) (m : Sent) : (s.send m).frames = s.frames := each_same State.frames _ (fun s _ => s.emit_frames _ _) _ _
@[simp] theorem State.send_owners (s : State) (m : Sent) : (s.send m).owners = s.owners := each_same State.owners _ (fun s _ => s.emit_owners _ _) _ _
@[simp] theorem State.send_written (s : State) (m : Sent) : (s.send m).written = s.written := each_same State.written _ (fun s _ => s.emit_written _ _) _ _
@[simp] theorem State.send_scrubHours (s : State) (m : Sent) : (s.send m).scrubHours = s.scrubHours := each_same State.scrubHours _ (fun s _ => s.emit_scrubHours _ _) _ _
@[simp] theorem State.send_spareFrames (s : State) (m : Sent) : (s.send m).spareFrames = s.spareFrames := each_same State.spareFrames _ (fun s _ => s.emit_spareFrames _ _) _ _
@[simp] theorem State.send_contexts (s : State) (m : Sent) : (s.send m).contexts = s.contexts := each_same State.contexts _ (fun s _ => s.emit_contexts _ _) _ _
@[simp] theorem State.send_queues (s : State) (m : Sent) : (s.send m).queues = s.queues := each_same State.queues _ (fun s _ => s.emit_queues _ _) _ _
@[simp] theorem State.send_serial (s : State) (m : Sent) : (s.send m).serial = s.serial := each_same State.serial _ (fun s _ => s.emit_serial _ _) _ _
@[simp] theorem State.send_sets (s : State) (m : Sent) : (s.send m).sets = s.sets := each_same State.sets _ (fun s _ => s.emit_sets _ _) _ _
@[simp] theorem State.send_crates (s : State) (m : Sent) : (s.send m).crates = s.crates := each_same State.crates _ (fun s _ => s.emit_crates _ _) _ _
@[simp] theorem State.send_crateNext (s : State) (m : Sent) : (s.send m).crateNext = s.crateNext := each_same State.crateNext _ (fun s _ => s.emit_crateNext _ _) _ _
@[simp] theorem State.send_tallyMsgs (s : State) (m : Sent) : (s.send m).tallyMsgs = s.tallyMsgs := each_same State.tallyMsgs _ (fun s _ => s.emit_tallyMsgs _ _) _ _
@[simp] theorem State.send_meshWait (s : State) (m : Sent) : (s.send m).meshWait = s.meshWait := each_same State.meshWait _ (fun s _ => s.emit_meshWait _ _) _ _
@[simp] theorem State.send_ports (s : State) (m : Sent) : (s.send m).ports = s.ports := each_same State.ports _ (fun s _ => s.emit_ports _ _) _ _
@[simp] theorem State.send_pkgId (s : State) (m : Sent) : (s.send m).pkgId = s.pkgId := each_same State.pkgId _ (fun s _ => s.emit_pkgId _ _) _ _
@[simp] theorem State.send_flows (s : State) (m : Sent) : (s.send m).flows = s.flows := each_same State.flows _ (fun s _ => s.emit_flows _ _) _ _
@[simp] theorem State.send_rxFlows (s : State) (m : Sent) : (s.send m).rxFlows = s.rxFlows := each_same State.rxFlows _ (fun s _ => s.emit_rxFlows _ _) _ _
@[simp] theorem State.send_transits (s : State) (m : Sent) : (s.send m).transits = s.transits := each_same State.transits _ (fun s _ => s.emit_transits _ _) _ _
@[simp] theorem State.send_groups (s : State) (m : Sent) : (s.send m).groups = s.groups := each_same State.groups _ (fun s _ => s.emit_groups _ _) _ _
@[simp] theorem State.send_pathJobs (s : State) (m : Sent) : (s.send m).pathJobs = s.pathJobs := each_same State.pathJobs _ (fun s _ => s.emit_pathJobs _ _) _ _
@[simp] theorem State.send_time (s : State) (m : Sent) : (s.send m).time = s.time := each_same State.time _ (fun s _ => s.emit_time _ _) _ _
@[simp] theorem State.send_keeper0 (s : State) (m : Sent) : (s.send m).keeper0 = s.keeper0 := each_same State.keeper0 _ (fun s _ => s.emit_keeper0 _ _) _ _
@[simp] theorem State.send_keeper1 (s : State) (m : Sent) : (s.send m).keeper1 = s.keeper1 := each_same State.keeper1 _ (fun s _ => s.emit_keeper1 _ _) _ _
@[simp] theorem State.send_keeperEpoch (s : State) (m : Sent) : (s.send m).keeperEpoch = s.keeperEpoch := each_same State.keeperEpoch _ (fun s _ => s.emit_keeperEpoch _ _) _ _
@[simp] theorem State.send_holder (s : State) (m : Sent) : (s.send m).holder = s.holder := each_same State.holder _ (fun s _ => s.emit_holder _ _) _ _
@[simp] theorem State.send_lastBeat (s : State) (m : Sent) : (s.send m).lastBeat = s.lastBeat := each_same State.lastBeat _ (fun s _ => s.emit_lastBeat _ _) _ _
@[simp] theorem State.send_hatch0 (s : State) (m : Sent) : (s.send m).hatch0 = s.hatch0 := each_same State.hatch0 _ (fun s _ => s.emit_hatch0 _ _) _ _
@[simp] theorem State.send_hatch1 (s : State) (m : Sent) : (s.send m).hatch1 = s.hatch1 := each_same State.hatch1 _ (fun s _ => s.emit_hatch1 _ _) _ _
@[simp] theorem State.send_journal (s : State) (m : Sent) : (s.send m).journal = s.journal := each_same State.journal _ (fun s _ => s.emit_journal _ _) _ _
@[simp] theorem State.send_journalNext (s : State) (m : Sent) : (s.send m).journalNext = s.journalNext := each_same State.journalNext _ (fun s _ => s.emit_journalNext _ _) _ _
@[simp] theorem State.send_recover (s : State) (m : Sent) : (s.send m).recover = s.recover := each_same State.recover _ (fun s _ => s.emit_recover _ _) _ _
@[simp] theorem State.send_stopping (s : State) (m : Sent) : (s.send m).stopping = s.stopping := each_same State.stopping _ (fun s _ => s.emit_stopping _ _) _ _
@[simp] theorem State.send_wasStopped (s : State) (m : Sent) : (s.send m).wasStopped = s.wasStopped := each_same State.wasStopped _ (fun s _ => s.emit_wasStopped _ _) _ _
@[simp] theorem State.send_taking (s : State) (m : Sent) : (s.send m).taking = s.taking := each_same State.taking _ (fun s _ => s.emit_taking _ _) _ _
@[simp] theorem State.send_merged (s : State) (m : Sent) : (s.send m).merged = s.merged := each_same State.merged _ (fun s _ => s.emit_merged _ _) _ _
@[simp] theorem State.send_dropped (s : State) (m : Sent) : (s.send m).dropped = s.dropped := each_same State.dropped _ (fun s _ => s.emit_dropped _ _) _ _
@[simp] theorem State.send_power (s : State) (m : Sent) : (s.send m).power = s.power := each_same State.power _ (fun s _ => s.emit_power _ _) _ _
@[simp] theorem State.send_coords (s : State) (m : Sent) : (s.send m).coords = s.coords := each_same State.coords _ (fun s _ => s.emit_coords _ _) _ _
@[simp] theorem State.send_host0 (s : State) (m : Sent) : (s.send m).host0 = s.host0 := each_same State.host0 _ (fun s _ => s.emit_host0 _ _) _ _
@[simp] theorem State.send_host1 (s : State) (m : Sent) : (s.send m).host1 = s.host1 := each_same State.host1 _ (fun s _ => s.emit_host1 _ _) _ _
@[simp] theorem State.send_primary (s : State) (m : Sent) : (s.send m).primary = s.primary := each_same State.primary _ (fun s _ => s.emit_primary _ _) _ _
@[simp] theorem State.send_dgValue (s : State) (m : Sent) : (s.send m).dgValue = s.dgValue := each_same State.dgValue _ (fun s _ => s.emit_dgValue _ _) _ _
@[simp] theorem State.send_dgMode (s : State) (m : Sent) : (s.send m).dgMode = s.dgMode := each_same State.dgMode _ (fun s _ => s.emit_dgMode _ _) _ _
@[simp] theorem State.send_dgCtx (s : State) (m : Sent) : (s.send m).dgCtx = s.dgCtx := each_same State.dgCtx _ (fun s _ => s.emit_dgCtx _ _) _ _
@[simp] theorem State.send_dgVid (s : State) (m : Sent) : (s.send m).dgVid = s.dgVid := each_same State.dgVid _ (fun s _ => s.emit_dgVid _ _) _ _
@[simp] theorem State.send_dgGo (s : State) (m : Sent) : (s.send m).dgGo = s.dgGo := each_same State.dgGo _ (fun s _ => s.emit_dgGo _ _) _ _
@[simp] theorem State.send_block (s : State) (m : Sent) : (s.send m).block = s.block := each_same State.block _ (fun s _ => s.emit_block _ _) _ _
@[simp] theorem State.send_lastFault (s : State) (m : Sent) : (s.send m).lastFault = s.lastFault := each_same State.lastFault _ (fun s _ => s.emit_lastFault _ _) _ _
@[simp] theorem State.send_lastFaultCount (s : State) (m : Sent) : (s.send m).lastFaultCount = s.lastFaultCount := each_same State.lastFaultCount _ (fun s _ => s.emit_lastFaultCount _ _) _ _
@[simp] theorem State.send_inv (s : State) (m : Sent) : (s.send m).inv = s.inv := each_same State.inv _ (fun s _ => s.emit_inv _ _) _ _
@[simp] theorem State.send_invL0 (s : State) (m : Sent) : (s.send m).invL0 = s.invL0 := each_same State.invL0 _ (fun s _ => s.emit_invL0 _ _) _ _
@[simp] theorem State.send_invL1 (s : State) (m : Sent) : (s.send m).invL1 = s.invL1 := each_same State.invL1 _ (fun s _ => s.emit_invL1 _ _) _ _
@[simp] theorem State.send_inventoryOk (s : State) (m : Sent) : (s.send m).inventoryOk = s.inventoryOk := each_same State.inventoryOk _ (fun s _ => s.emit_inventoryOk _ _) _ _
@[simp] theorem State.send_identityOk (s : State) (m : Sent) : (s.send m).identityOk = s.identityOk := each_same State.identityOk _ (fun s _ => s.emit_identityOk _ _) _ _
@[simp] theorem State.send_idKey (s : State) (m : Sent) : (s.send m).idKey = s.idKey := each_same State.idKey _ (fun s _ => s.emit_idKey _ _) _ _
@[simp] theorem State.send_packageKeys (s : State) (m : Sent) : (s.send m).packageKeys = s.packageKeys := each_same State.packageKeys _ (fun s _ => s.emit_packageKeys _ _) _ _
@[simp] theorem State.send_fw (s : State) (m : Sent) : (s.send m).fw = s.fw := each_same State.fw _ (fun s _ => s.emit_fw _ _) _ _
@[simp] theorem State.send_fwRunning (s : State) (m : Sent) : (s.send m).fwRunning = s.fwRunning := each_same State.fwRunning _ (fun s _ => s.emit_fwRunning _ _) _ _
@[simp] theorem State.send_svn0 (s : State) (m : Sent) : (s.send m).svn0 = s.svn0 := each_same State.svn0 _ (fun s _ => s.emit_svn0 _ _) _ _
@[simp] theorem State.send_svn1 (s : State) (m : Sent) : (s.send m).svn1 = s.svn1 := each_same State.svn1 _ (fun s _ => s.emit_svn1 _ _) _ _
@[simp] theorem State.send_measured (s : State) (m : Sent) : (s.send m).measured = s.measured := each_same State.measured _ (fun s _ => s.emit_measured _ _) _ _
@[simp] theorem State.send_sessions (s : State) (m : Sent) : (s.send m).sessions = s.sessions := each_same State.sessions _ (fun s _ => s.emit_sessions _ _) _ _
@[simp] theorem State.send_sensors (s : State) (m : Sent) : (s.send m).sensors = s.sensors := each_same State.sensors _ (fun s _ => s.emit_sensors _ _) _ _
@[simp] theorem State.send_stateSensors (s : State) (m : Sent) : (s.send m).stateSensors = s.stateSensors := each_same State.stateSensors _ (fun s _ => s.emit_stateSensors _ _) _ _
@[simp] theorem State.send_eventsFrom (s : State) (m : Sent) : (s.send m).eventsFrom = s.eventsFrom := each_same State.eventsFrom _ (fun s _ => s.emit_eventsFrom _ _) _ _
@[simp] theorem State.send_events (s : State) (m : Sent) : (s.send m).events = s.events := each_same State.events _ (fun s _ => s.emit_events _ _) _ _
@[simp] theorem State.send_smbusAddr (s : State) (m : Sent) : (s.send m).smbusAddr = s.smbusAddr := each_same State.smbusAddr _ (fun s _ => s.emit_smbusAddr _ _) _ _
@[simp] theorem State.send_irqs (s : State) (m : Sent) : (s.send m).irqs = s.irqs := each_same State.irqs _ (fun s _ => s.emit_irqs _ _) _ _
@[simp] theorem State.send_frameOut (s : State) (m : Sent) : (s.send m).frameOut = s.frameOut := each_same State.frameOut _ (fun s _ => s.emit_frameOut _ _) _ _
@[simp] theorem State.send_delivered (s : State) (m : Sent) : (s.send m).delivered = s.delivered := each_same State.delivered _ (fun s _ => s.emit_delivered _ _) _ _
@[simp] theorem State.send_answers (s : State) (m : Sent) : (s.send m).answers = s.answers := each_same State.answers _ (fun s _ => s.emit_answers _ _) _ _

/-! ## Reads of a part after an update of a part -/

@[simp] theorem State.die_setDie (s : State) (d : Nat) (x : Die) : (s.setDie d x).die d = x := tabGet_tabSet_same _ _ _ _
theorem State.die_setDie_ne (s : State) (x : Die) {d e : Nat} (h : e ≠ d) : (s.setDie d x).die e = s.die e := tabGet_tabSet_ne _ _ _ h
@[simp] theorem State.die_modDie (s : State) (d : Nat) (f : Die → Die) : (s.modDie d f).die d = f (s.die d) := tabGet_tabSet_same _ _ _ _
theorem State.die_modDie_ne (s : State) (f : Die → Die) {d e : Nat} (h : e ≠ d) : (s.modDie d f).die e = s.die e := tabGet_tabSet_ne _ _ _ h
@[simp] theorem State.core_setCore (s : State) (c : Nat) (x : Core) : (s.setCore c x).core c = x := tabGet_tabSet_same _ _ _ _
theorem State.core_setCore_ne (s : State) (x : Core) {c e : Nat} (h : e ≠ c) : (s.setCore c x).core e = s.core e := tabGet_tabSet_ne _ _ _ h
@[simp] theorem State.core_modCore (s : State) (c : Nat) (f : Core → Core) : (s.modCore c f).core c = f (s.core c) := tabGet_tabSet_same _ _ _ _
theorem State.core_modCore_ne (s : State) (f : Core → Core) {c e : Nat} (h : e ≠ c) : (s.modCore c f).core e = s.core e := tabGet_tabSet_ne _ _ _ h
@[simp] theorem State.port_modPort (s : State) (p : Nat) (f : Port → Port) : (s.modPort p f).port p = f (s.port p) := tabGet_tabSet_same _ _ _ _
theorem State.port_modPort_ne (s : State) (f : Port → Port) {p e : Nat} (h : e ≠ p) : (s.modPort p f).port e = s.port e := tabGet_tabSet_ne _ _ _ h
@[simp] theorem State.channel_modChannel (s : State) (c : Nat) (f : Channel → Channel) : (s.modChannel c f).channel c = f (s.channel c) := tabGet_tabSet_same _ _ _ _
theorem State.channel_modChannel_ne (s : State) (f : Channel → Channel) {c e : Nat} (h : e ≠ c) : (s.modChannel c f).channel e = s.channel e :=
  tabGet_tabSet_ne _ _ _ h
@[simp] theorem State.ctx?_setCtx (s : State) (c : Nat) (x : Option Context) : (s.setCtx c x).ctx? c = x := tabGet_tabSet_same _ _ _ _
theorem State.ctx?_setCtx_ne (s : State) (x : Option Context) {c e : Nat} (h : e ≠ c) : (s.setCtx c x).ctx? e = s.ctx? e := tabGet_tabSet_ne _ _ _ h
@[simp] theorem State.ctx?_modCtx (s : State) (c : Nat) (f : Context → Context) : (s.modCtx c f).ctx? c = (s.ctx? c).map f := by
  unfold State.modCtx
  cases h : s.ctx? c with
  | some x => exact State.ctx?_setCtx s c (some (f x))
  | none => exact h
theorem State.ctx?_modCtx_ne (s : State) (f : Context → Context) {c e : Nat} (h : e ≠ c) : (s.modCtx c f).ctx? e = s.ctx? e := by
  unfold State.modCtx
  split
  · exact State.ctx?_setCtx_ne s _ h
  · rfl
@[simp] theorem State.queue?_setQueue (s : State) (q : QRef) (x : Option Queue) : (s.setQueue q x).queue? q = x := tabGet_tabSet_same _ _ _ _
@[simp] theorem State.queue?_modQueue (s : State) (q : QRef) (f : Queue → Queue) : (s.modQueue q f).queue? q = (s.queue? q).map f := by
  unfold State.modQueue
  cases h : s.queue? q with
  | some x => exact State.queue?_setQueue s q (some (f x))
  | none => exact h
@[simp] theorem State.set?_setSet (s : State) (w : Nat) (x : Option WeightSet) : (s.setSet w x).set? w = x := tabGet_tabSet_same _ _ _ _
@[simp] theorem State.coord?_setCoord (s : State) (j : Nat) (x : Option Coord) : (s.setCoord j x).coord? j = x := tabGet_tabSet_same _ _ _ _

@[simp] theorem State.hp_modHp (s : State) (p : Nat) (f : HostPort → HostPort) : (s.modHp p f).hp p = f (s.hp p) := by
  unfold State.modHp State.setHp State.hp
  split <;> simp_all

@[simp] theorem State.hatch_modHatch (s : State) (p : Nat) (f : Hatch → Hatch) : (s.modHatch p f).hatch p = f (s.hatch p) := by
  unfold State.modHatch State.setHatch State.hatch
  split <;> simp_all

@[simp] theorem State.keeper_setKeeper (s : State) (k : Nat) (x : KeeperSt) : (s.setKeeper k x).keeper k = x := by
  unfold State.setKeeper State.keeper
  split <;> simp_all

end Sys2Proof.Machine
end

