-- ==== Sys2Proof/Safety.lean ====
section
/-! DEFINITION. What counts as a legal state, what it means that a command completes, and that a fault stands recorded, in the terms that statements use. -/

namespace Sys2Proof.Machine

/-- A legal state: both memories in canonical form, PHASE one of 0 to 8 (R358), PRIMARY one of the two ports (R355), and the keeper token held by
K0, by K1 or by neither (R504). -/
abbrev State.Legal (s : State) : Prop :=
  s.mem.wf = true ∧ s.hostMem.wf = true ∧ s.phase ≤ 8 ∧ s.primary < 2 ∧ s.holder.getD 0 < 2

/-- The command answers a next state, and `P` holds of it. -/
def Runs (i : Instr) (s : State) (P : State → Prop) : Prop := ∃ t, exec i s = .next t ∧ P t

/-- The die has room for one more fault record (R498). -/
abbrev State.hasRoom (s : State) (d : Nat) : Prop := (s.die d).ledger.held.length < 256

/-- From `s` to `t` a die has raised a fault: one more record, with the code and the die's count, at the end of those that it holds (R496, R498). -/
def raised (s t : State) (d code : Nat) : Prop :=
  ∃ r, (t.die d).ledger.held = (s.die d).ledger.held ++ [r] ∧ r.code = code ∧ r.die = d ∧ r.count = s.count d

/-- The head operation of a unit of a core is performed: it stands at the head as done, and the entries behind it are as before. -/
def performed (s t : State) (c u : Nat) : Prop :=
  ∃ e q, unitQueue (s.core c) u = e :: q ∧ unitQueue (t.core c) u = { e with done := true, held := none } :: q

/-- A queue's command at the head has ended with a status (R394). -/
def ended (t : State) (q : QRef) (status : Nat) : Prop := ∃ p l, (t.queue q).cmds = p :: l ∧ p.outcome.map (·.status) = some status

end Sys2Proof.Machine
end

