-- ==== Sys2Proof/Laws/Records.lean ====
section
/-! SUPPORT. What the operations that every family shares can do: a ledger entry, a fault record, a counter, an interrupt. -/

namespace Sys2Proof.Machine

@[simp] theorem State.setDie_setDie (s : State) (d : Nat) (x y : Die) : (s.setDie d x).setDie d y = s.setDie d y := by
  unfold State.setDie; rw [tabSet_tabSet]

@[simp] theorem State.setDie_modDie (s : State) (d : Nat) (x : Die) (f : Die → Die) : (s.setDie d x).modDie d f = s.setDie d (f x) := by
  unfold State.modDie; rw [State.die_setDie, State.setDie_setDie]

@[simp] theorem State.modDie_modDie (s : State) (d : Nat) (f g : Die → Die) : (s.modDie d f).modDie d g = s.modDie d fun x => g (f x) := State.setDie_modDie _ _ _ _

/-! ## Ledger entries touch one die's ledger, and none of the records that it holds -/

theorem ringMakeRoom_held (l : Ledger) : (ringMakeRoom l).held = l.held := by
  unfold ringMakeRoom; split
  · rfl
  · split
    · rfl
    · split <;> rfl

@[simp] theorem ringAppend_held (l : Ledger) (e : LedgerEntry) : (ringAppend l e).held = l.held := ringMakeRoom_held l

theorem State.ledgerEntry_die (s : State) (d : Nat) (e : LedgerEntry) :
    ∃ l : Ledger, l.held = (s.die d).ledger.held ∧ s.ledgerEntry d e = s.setDie d { s.die d with ledger := l } := by
  refine ⟨_, ?_, rfl⟩
  dsimp only
  split <;> simp

theorem State.note_die (s : State) (d kind code ctx : Nat) (detail : List Byte) :
    ∃ l : Ledger, l.held = (s.die d).ledger.held ∧ s.note d kind code ctx detail = s.setDie d { s.die d with ledger := l } := s.ledgerEntry_die d _

@[simp] theorem State.note_die_same (s : State) (d kind code ctx : Nat) (detail : List Byte) :
    (s.note d kind code ctx detail).die d = { s.die d with ledger := ((s.note d kind code ctx detail).die d).ledger } := by
  obtain ⟨l, _, h⟩ := s.note_die d kind code ctx detail
  rw [h, State.die_setDie]

@[simp] theorem State.note_held (s : State) (d kind code ctx : Nat) (detail : List Byte) :
    ((s.note d kind code ctx detail).die d).ledger.held = (s.die d).ledger.held := by
  obtain ⟨l, hl, h⟩ := s.note_die d kind code ctx detail
  rw [h, State.die_setDie]; exact hl

@[simp] theorem State.note_tb (s : State) (d e kind code ctx : Nat) (detail : List Byte) : ((s.note d kind code ctx detail).die e).tb = (s.die e).tb := by
  obtain ⟨l, hl, h⟩ := s.note_die d kind code ctx detail
  rw [h]
  by_cases he : e = d
  · subst he; rw [State.die_setDie]
  · rw [State.die_setDie_ne _ _ he]

theorem State.note_die_ne (s : State) (kind code ctx : Nat) (detail : List Byte) {d e : Nat} (he : e ≠ d) :
    (s.note d kind code ctx detail).die e = s.die e := by
  obtain ⟨l, _, h⟩ := s.note_die d kind code ctx detail
  rw [h, State.die_setDie_ne _ _ he]

@[simp] theorem State.note_count (s : State) (d e kind code ctx : Nat) (detail : List Byte) : (s.note d kind code ctx detail).count e = s.count e := by
  unfold State.count; rw [State.note_tb]; rfl

/-- A ledger entry changes nothing but the dies. -/
theorem State.note_frame (s : State) (d kind code ctx : Nat) (detail : List Byte) :
    s.note d kind code ctx detail = { s with dies := (s.note d kind code ctx detail).dies } := rfl

/-! ## A fault raised with room for its record -/

theorem State.raiseTo_room (s : State) (d code : Nat) (ctxs : List Nat) (job driver : Bool) (detail : List Byte) (h : s.hasRoom d) :
    ∃ l : Ledger, l.held = (s.die d).ledger.held ++ [{ code := code, die := d, count := s.count d, ctxs := ctxs, job := job, driver := driver, vectors := if faultToCtx code then s.errVectors ctxs else [] }] ∧
      s.raiseTo d code ctxs job driver detail = s.setDie d { s.die d with ledger := l } := by
  obtain ⟨l, hl, hn⟩ := s.note_die d 0x01 code (oneCtx ctxs) detail
  refine ⟨{ l with held := l.held ++ [{ code := code, die := d, count := s.count d, ctxs := ctxs, job := job, driver := driver, vectors := if faultToCtx code then s.errVectors ctxs else [] }] }, ?_, ?_⟩
  · simp only [hl]
  · have hr : (s.note d 0x01 code (oneCtx ctxs) detail).die d = { s.die d with ledger := l } := by rw [hn, State.die_setDie]
    unfold State.raiseTo State.holdRec
    dsimp only
    rw [if_pos (by rw [hr, hl]; exact h), hn, State.setDie_modDie]

theorem State.raise_room (s : State) (d code : Nat) (ctxs : List Nat) (detail : List Byte) (h : s.hasRoom d) :
    ∃ l : Ledger, (∃ r, l.held = (s.die d).ledger.held ++ [r] ∧ r.code = code ∧ r.die = d ∧ r.count = s.count d) ∧
      s.raise d code ctxs detail = s.setDie d { s.die d with ledger := l } := by
  obtain ⟨l, hl, h⟩ := s.raiseTo_room d code ctxs _ _ detail h
  exact ⟨l, ⟨_, hl, rfl, rfl, rfl⟩, h⟩

/-- A fault raised on a die with room stands recorded there. -/
theorem State.raised_raise (s : State) (d code : Nat) (ctxs : List Nat) (detail : List Byte) (h : s.hasRoom d) : raised s (s.raise d code ctxs detail) d code := by
  obtain ⟨l, ⟨r, hl, h1⟩, hr⟩ := s.raise_room d code ctxs detail h
  exact ⟨r, by rw [hr, State.die_setDie]; exact hl, h1⟩

theorem State.raise_room_tb (s : State) (d e code : Nat) (ctxs : List Nat) (detail : List Byte) (h : s.hasRoom d) :
    ((s.raise d code ctxs detail).die e).tb = (s.die e).tb := by
  obtain ⟨l, _, hr⟩ := s.raise_room d code ctxs detail h
  rw [hr]
  by_cases he : e = d
  · subst he; rw [State.die_setDie]
  · rw [State.die_setDie_ne _ _ he]

theorem State.raise_room_frame (s : State) (d code : Nat) (ctxs : List Nat) (detail : List Byte) (h : s.hasRoom d) :
    s.raise d code ctxs detail = { s with dies := (s.raise d code ctxs detail).dies } := by
  obtain ⟨l, _, hr⟩ := s.raise_room d code ctxs detail h
  rw [hr]; rfl

end Sys2Proof.Machine
end

