-- ==== Sys2Proof/WellFormed.lean ====
section
/-! DEFINITION. When a command names parts that the package has: the dies, cores, ports, channels, stops, contexts, queues, stores and registers of
R18 to R22, R344, R362 and R363, and lists of readings of the length that their rule gives. A command that is not well formed stops the block. -/

namespace Sys2Proof

open Machine

/-- The command's operands name parts of the package. -/
def Instr.wf (i : Instr) : Bool :=
  match i with
  | .edgesValid => true
  | .dieResetRelease => true
  | .edgeUndervoltage edge => decide (edge < 2)
  | .pkgResetAssert => true
  | .pkgResetRelease => true
  | .perstAssert port => isHostPort port
  | .perstRelease port => isHostPort port
  | .keeperRom _ _ => true
  | .k1TokenWait => true
  | .measuredBoot => true
  | .inventoryLoad => true
  | .selfTest failed routers => failed.all isDie && routers.all isDie
  | .cellarBringup modules => modules.all fun m => isChannel m.ch
  | .hostLinkStart _ _ => true
  | .epochCheck => true
  | .thermTripLatchClear => true
  | .rackSyncPulse die => isDie die
  | .refclkLoss die => isDie die
  | .refclkRelock die _ => isDie die
  | .tbSlewWrite _ => true
  | .slewComplete => true
  | .epochArm die => isDie die
  | .tbCountLowRead die _ => isDie die
  | .pwOpCtrlWrite die _ => isCompute die
  | .opChangeComplete die => isCompute die
  | .slotBoundary core unit _ => isCore core && decide (unit < 6)
  | .gridStart die => isDie die
  | .scoreFetch core => isCore core
  | .bundleIssue core => isCore core
  | .add core _ => isCore core
  | .sub core _ => isCore core
  | .mul core _ => isCore core
  | .andOp core => isCore core
  | .orOp core => isCore core
  | .xor core => isCore core
  | .shl core => isCore core
  | .shr core => isCore core
  | .sltu core _ => isCore core
  | .addi core _ => isCore core
  | .ori core => isCore core
  | .shli core => isCore core
  | .shri core => isCore core
  | .ld core _ => isCore core
  | .st core _ => isCore core
  | .bz core => isCore core
  | .bnz core => isCore core
  | .dbnz core _ => isCore core
  | .rdtb core => isCore core
  | .rdid core => isCore core
  | .halt core => isCore core
  | .operationComplete core unit => isCore core && decide (unit < 6)
  | .corePartEnd core => isCore core
  | .shape core eng => isCore core && decide (eng < 2)
  | .tileOs core eng _ _ => isCore core && decide (eng < 2)
  | .tileWs core eng _ => isCore core && decide (eng < 2)
  | .loadShadow core eng _ => isCore core && decide (eng < 2)
  | .codedStreamResume core eng _ => isCore core && decide (eng < 2)
  | .swap core eng => isCore core && decide (eng < 2)
  | .drain core eng _ => isCore core && decide (eng < 2)
  | .ew core eng _ => isCore core && decide (eng < 2)
  | .copy core => isCore core
  | .fill core => isCore core
  | .skewW core => isCore core
  | .skewN core => isCore core
  | .layoutWs core => isCore core
  | .wait core => isCore core
  | .waitdec core => isCore core
  | .inc core => isCore core
  | .dec core => isCore core
  | .hsig core => isCore core
  | .tallyMessageArrive _ => true
  | .waitSatisfactionArrive core => isCore core
  | .waitRegisterRetry core => isCore core
  | .exp core _ => isCore core
  | .rcp core _ => isCore core
  | .rsqrt core _ => isCore core
  | .gelu core _ => isCore core
  | .silu core _ => isCore core
  | .cvt core _ => isCore core
  | .drop core _ => isCore core
  | .sample core _ => isCore core
  | .scrub die store _ => isCompute die && decide (store < 5)
  | .scrubEnd die store => isCompute die && decide (store < 5)
  | .payloadReadStart wsid _ => isWsid wsid
  | .crateInject wsid _ => isWsid wsid
  | .crateArrive _ stop _ => isStop stop
  | .crateFull die slot => isCompute die && decide (slot < 384)
  | .carrySend die slot => isCompute die && decide (slot < 8)
  | .updateApply _ _ => true
  | .setRetire wsid => isWsid wsid
  | .tableLoadDeliver ctx => isContext ctx
  | .cellarRead acc _ _ => accOk acc
  | .cellarWrite acc _ _ => accOk acc
  | .patrolScrub ch frame _ => isChannel ch && decide (frame < 1048576)
  | .frameMigrate die frame => isCellar die && decide (frame < 4194304)
  | .channelDrained ch => isChannel ch
  | .channelFail ch => isChannel ch
  | .spdTempPoll ch _ => isChannel ch
  | .caParityAlert ch _ _ => isChannel ch
  | .writeCrcAlert ch _ _ => isChannel ch
  | .mrcdViolation ch => isChannel ch
  | .clCfgWrite _ => true
  | .larderRead acc _ _ _ => accOk acc
  | .tagErase die => isCellar die
  | .stocktakeRun => true
  | .stocktakeForward _ _ _ _ => true
  | .launchBind ctx => isContext ctx
  | .launchComplete ctx => isContext ctx
  | .ready _ => true
  | .arm _ _ => true
  | .armed _ => true
  | .go _ => true
  | .abort _ => true
  | .readyCollectTimeout _ => true
  | .armedDeadline _ => true
  | .armDisarmDeadline _ => true
  | .readyAnswerTimeout _ => true
  | .stretchRequest _ => true
  | .stretchAnswer die _ => isDie die
  | .stretchAck _ _ _ _ => true
  | .anchorApply die => isDie die
  | .stretchAnswerTimeout die => isCompute die
  | .stretchAckDeadline _ => true
  | .configRequest port offset _ => isHostPort port && decide (offset < 4096)
  | .doorbellWrite port offset _ _ => isHostPort port && decide (offset < 0x400000)
  | .kernelDoorbell port _ _ => isHostPort port
  | .apertureRead port offset _ => isHostPort port && decide (offset < 0x1000000)
  | .apertureWrite port offset _ => isHostPort port && decide (offset < 0x1000000)
  | .hqRoleWrite port _ => isHostPort port
  | .hqKqEnable port _ => isHostPort port
  | .registerWrite space offset _ => spaceOk space offset
  | .pcieLinkDown port => isHostPort port
  | .failoverTimeout port => isHostPort port
  | .pcieLinkUp port rate width => isHostPort port && linkTrains rate width
  | .functionLevelReset port => isHostPort port
  | .pcieTlpReceive port tlp => isHostPort port && tlpOk tlp
  | .dmaCompletion port ctx _ _ => isHostPort port && isContext ctx
  | .dmaTimeout port ctx _ => isHostPort port && isContext ctx
  | .ideIntegrityFail port stream => isHostPort port && decide (stream < 5)
  | .statusBlockRewrite => true
  | .descriptorFetch q => isQueue q
  | .batchWindowExpire q => isQueue q
  | .atsInvalidation port _ _ _ => isHostPort port
  | .commandComplete q => isQueue q
  | .nop q => isQueue q
  | .launch q => isQueue q
  | .recordEvent q => isQueue q
  | .waitEvent q => isQueue q
  | .copyCmd q => isQueue q
  | .fillCmd q => isQueue q
  | .survey q => isQueue q
  | .tableLoad q => isQueue q
  | .hint q => isQueue q
  | .signalTally q => isQueue q
  | .fence q => isQueue q
  | .setWeights q => isQueue q
  | .createContext q => isQueue q
  | .destroyContext q => isQueue q
  | .createQueue q => isQueue q
  | .pathSetup q => isQueue q
  | .pathTeardown q => isQueue q
  | .keyInstall q => isQueue q
  | .tallyForce q => isQueue q
  | .recover q => isQueue q
  | .inventoryRead q => isQueue q
  | .larderWrite q _ => isQueue q
  | .dieRetire q _ _ => isQueue q
  | .channelDrain q => isQueue q
  | .ledgerDrain q => isQueue q
  | .resumeQueue q => isQueue q
  | .lightGain port _ => isPort port
  | .laneLock port _ => isPort port
  | .frameAlign port _ _ => isPort port
  | .trainingBoundMiss port => isPort port
  | .lightLoss port => isPort port
  | .laneGroupLoss port _ => isPort port
  | .lkEnable port _ => isPort port
  | .lkHold port _ => isPort port
  | .lkRetrain port _ => isPort port
  | .lkInjectArm port _ => isPort port
  | .idleFrame port _ => isPort port
  | .dataFrame port _ => isPort port
  | .nakFrame port _ => isPort port
  | .replayTimeout port => isPort port
  | .fctrRekeyThreshold port => isPort port
  | .fctrLimit port => isPort port
  | .hello port _ => isPort port
  | .helloResend port => isPort port
  | .echo port _ => isPort port
  | .echoReply port _ _ => isPort port
  | .ident port _ => isPort port
  | .confirm port _ => isPort port
  | .rekey port _ => isPort port
  | .rekeyAck port _ => isPort port
  | .down port _ => isPort port
  | .write port _ => isPort port
  | .readReq port _ => isPort port
  | .readData port _ => isPort port
  | .atomic port _ => isPort port
  | .signal port _ => isPort port
  | .ack port _ => isPort port
  | .nack port _ => isPort port
  | .ackTimer _ => true
  | .psnResendTimeout _ => true
  | .routeFail port _ => isPort port
  | .setup port _ => isPort port
  | .setupAns port _ => isPort port
  | .groupWrite port _ => isPort port
  | .groupAck port _ => isPort port
  | .pruneTimer ctx _ => isContext ctx
  | .mcastPruneForward _ _ _ _ => true
  | .timeExchangeStart => true
  | .syncReq port _ _ => isPort port
  | .syncResp port _ _ => isPort port
  | .timeExchangeTimeout => true
  | .alignmentTimeout => true
  | .currentSample die rail _ _ => isDie die && hasRail die rail
  | .packagePowerSample _ _ _ _ => true
  | .tempSample die readings => isDie die && readings.length == sensorCount die
  | .droopDetect die => isCompute die
  | .allocationPass power => power.length == 100
  | .poolReportTimer => true
  | .poolReport _ _ _ _ _ => true
  | .faultRecordDeliver die => isDie die
  | .faultRecordAck die => isDie die
  | .faultRecordTimeout die => isDie die
  | .jobFault _ _ _ _ => true
  | .faultQuench ctx => isContext ctx
  | .keeperHeartbeat => true
  | .heartbeatTimeout watched => keeperNo watched
  | .keeperFailureMessage k => keeperNo k
  | .keeperWatchdogExpire k => keeperNo k
  | .keeperTokenCas k _ => keeperNo k
  | .epochNotice die _ => isDie die
  | .journalRecord holder _ => decide (holder < 3)
  | .keeperTakeover => true
  | .keeperBootComplete k _ => keeperNo k
  | .kpHatchQuench host _ => isHostPort host
  | .kpHatchQuenchAll host _ => isHostPort host
  | .kpHatchKeeperReset host _ => isHostPort host
  | .kpHatchTallyForce host _ => isHostPort host
  | .dgTallyForceSet _ => true
  | .dgTallyForceAbort _ => true
  | .diePollTimeout die => isDie die
  | .ringMarkerSend stop _ => isStop stop
  | .ringMarkerTimeout stop _ => isStop stop
  | .bypassSelfCheck stop _ => isStop stop
  | .spdmRequest transport _ => decide (transport < 3)
  | .pldmFwUpdate kind _ => decide (1 ≤ kind ∧ kind ≤ 4)
  | .lockInterfaceRequest port ctx stream => isHostPort port && isContext ctx && decide (stream < 5)
  | .fwFloorTimer kind => decide (1 ≤ kind ∧ kind ≤ 4)
  | .ledgerMerge => true
  | .sensorRefresh dieTemps diePower modTemps lanePower => decide (dieTemps.length = 100) && decide (diePower.length = 100) && decide (modTemps.length = 48) && decide (lanePower.length = 8)
  | .mctpRequest _ => true
  | .channelReturned ch _ => isChannel ch
  | .pathSetupTimeout q => isQueue q
  | .handoverWaitTimeout q => isQueue q
  | .holdReplayTimeout port => isPort port
  | .identSigned port => isPort port

end Sys2Proof
end

