-- ==== Sys2Proof/Certificates/Slice0/Obligations.lean ====
section
/-! DEFINITION. The statements for the provers. -/

open Sys2Proof Sys2Proof.Machine

/-! ## Time bases and operating points (R48 to R71) -/

/-- Between two states every die but `d` is the same. -/
def Sys2Proof.Machine.othersSame (s t : State) (d : Nat) : Prop := ∀ e, e ≠ d → t.die e = s.die e

/-- R64. EPOCH_ARM arms one die alone, and does nothing once EPOCH_SET is 1. A RACK_SYNC edge at an armed die loads that die's own TB_EPOCH_NEXT into its count,
clears EPOCH_ARM, sets EPOCH_SET, keeps the count before it, and moves no other die's count. At a die that is not armed the edge loads nothing: within 2 counts
of an expected count it only sets SYNC_SEEN. A die in holdover samples no edge (R592). -/
def Sys2Proof.Machine.EpochLoadsOnTheArmedDieAlone : Prop :=
  ∀ (d : Nat) (s : State), isDie d = true →
    ((s.die d).tb.epochSet = false → Runs (.epochArm d) s fun t =>
      t.die d = { s.die d with tb := { (s.die d).tb with epochArm := true } } ∧ othersSame s t d ∧ t = { s with dies := t.dies }) ∧
    ((s.die d).tb.epochSet = true → Runs (.epochArm d) s fun t => t.die d = s.die d ∧ othersSame s t d ∧ t = { s with dies := t.dies }) ∧
    ((s.die d).tb.holdover = true → Runs (.rackSyncPulse d) s fun t => t = s) ∧
    ((s.die d).tb.holdover = false → (s.die d).tb.epochArm = true → Runs (.rackSyncPulse d) s fun t =>
      t.count d = (s.die d).tb.epochNext.toNat ∧ (t.die d).tb.epochSet = true ∧ (t.die d).tb.epochArm = false ∧ (t.die d).tb.syncSeen = true ∧
      (t.die d).tb.preLoad = s.count d ∧ t.die d = { s.die d with tb := (t.die d).tb, ledger := (t.die d).ledger } ∧
      (∀ e, e ≠ d → t.die e = { s.die e with tb := { (s.die e).tb with aligned := (t.die e).tb.aligned } }) ∧
      t = { s with dies := t.dies }) ∧
    ((s.die d).tb.holdover = false → (s.die d).tb.epochArm = false → (slipOf (s.die d).tb (s.count d)).natAbs ≤ 2 → Runs (.rackSyncPulse d) s fun t =>
      t.die d = { s.die d with tb := { (s.die d).tb with syncSeen := true } } ∧ othersSame s t d ∧ t = { s with dies := t.dies })

/-- R66. A RACK_SYNC edge more than 2 counts from its expected count does not step the counter: SLIP_COUNT goes up by 1 and sticks at 0xFFFF, F_TB_SYNC_SLIP is
raised, and the active keeper puts the difference into TB_SLEW of every die. -/
def Sys2Proof.Machine.SyncSlipIsSlewedAway : Prop :=
  ∀ (d : Nat) (s : State), isDie d = true → (s.die d).tb.holdover = false → (s.die d).tb.epochArm = false → (s.die d).tb.epochSet = true → s.syncActs (s.die d).tb = true →
    2 < (slipOf (s.die d).tb (s.count d)).natAbs → s.hasRoom d → Runs (.rackSyncPulse d) s fun t =>
      t.count d = s.count d ∧ (t.die d).tb.slipCount = min 0xFFFF ((s.die d).tb.slipCount + 1) ∧ raised s t d fTbSyncSlip ∧
      (∀ e, e < 100 → s.holder.isSome → (t.die e).tb.slew = clampSlew (slipOf (s.die d).tb (s.count d))) ∧
      (s.holder = none → othersSame s t d) ∧ t = { s with dies := t.dies }

/-- R67, R468. With the reference lost a die enters HOLDOVER, raises F_TB_REF_LOST, and no die of the package shows ALIGNED; when the reference returns it leaves
HOLDOVER and slews away what it drifted. -/
def Sys2Proof.Machine.HoldoverBeginsAndEnds : Prop :=
  ∀ (d : Nat) (s : State), isDie d = true →
    (s.hasRoom d → Runs (.refclkLoss d) s fun t =>
      (t.die d).tb.holdover = true ∧ (t.die d).tb.locked = false ∧ raised s t d fTbRefLost ∧ (∀ e, e < 100 → (t.die e).tb.aligned = false) ∧
      (∀ e, t.count e = s.count e) ∧ t = { s with dies := t.dies }) ∧
    (∀ i, (s.die d).tb.holdover = true → Runs (.refclkRelock d i) s fun t =>
      (t.die d).tb.holdover = false ∧ (t.die d).tb.locked = true ∧ (t.die d).tb.slew = clampSlew i ∧
      (∀ e, t.count e = s.count e) ∧ t = { s with dies := t.dies })

/-- R69, R71. A write of TB_SLEW replaces what remains to be absorbed on every die, within −1,000,000 to +1,000,000, and every die absorbs it from one and the same
beat boundary, which no die has passed. SLEW_COMPLETE clears SLEWING on a die whose offset is zero, at a beat boundary; it moves no count and no offset. -/
def Sys2Proof.Machine.SlewIsWrittenAndAbsorbed : Prop :=
  ∀ (s : State),
    (∀ v : Word, Runs (.tbSlewWrite v) s fun t =>
      (∀ e, e < 100 → (t.die e).tb.slew = clampSlew (toSigned 32 v.toNat) ∧ -1000000 ≤ (t.die e).tb.slew ∧ (t.die e).tb.slew ≤ 1000000 ∧
        t.die e = { s.die e with tb := { (s.die e).tb with slew := (t.die e).tb.slew, slewPhase := 0, slewFrom := (t.die e).tb.slewFrom, slewing := (t.die e).tb.slewing } } ∧
        ((t.die e).tb.slew ≠ 0 → (t.die e).tb.slewing = true) ∧ (t.die e).tb.slewFrom = (t.die 0).tb.slewFrom ∧ s.count e ≤ (t.die e).tb.slewFrom) ∧
      (t.die 0).tb.slewFrom % 4 = 0 ∧ (∀ e, t.count e = s.count e) ∧ t = { s with dies := t.dies }) ∧
    Runs .slewComplete s fun t =>
      (∀ e, e < 100 → t.die e = { s.die e with tb := { (s.die e).tb with slewing := (t.die e).tb.slewing } } ∧
        ((s.die e).tb.slew = 0 → s.count e % 4 = 0 → (t.die e).tb.slewing = false) ∧
        ((s.die e).tb.slew ≠ 0 ∨ s.count e % 4 ≠ 0 → (t.die e).tb.slewing = (s.die e).tb.slewing)) ∧ t = { s with dies := t.dies }

/-- R68. A read of the low half of TB_COUNT answers the low 32 bits of the die's count, and whatever the count is by then, the same requester's next read of the
high half answers the high 32 bits of that same count. A requester that is a host port whose front end is not ready gets no answer (R346). -/
def Sys2Proof.Machine.PairOfCountReadsNeverTears : Prop :=
  ∀ (d r : Nat) (s : State), isDie d = true → (portSilent s r = true → Runs (.tbCountLowRead d r) s fun t => t = s) ∧
    (portSilent s r = false → Runs (.tbCountLowRead d r) s fun t =>
    t.answers = s.answers ++ [{ kind := "TB_COUNT", who := r, words := [BitVec.ofNat 64 (s.count d % 2 ^ 32)] }] ∧
    (∀ u : State, (u.die d).tb.latch = (t.die d).tb.latch → (tbCountHigh u d r).toNat = s.count d / 2 ^ 32) ∧
    (∀ (u : State) (q : Nat), q ≠ r → tbCountHigh { u with dies := t.dies } d q = tbCountHigh { u with dies := s.dies } d q) ∧
    othersSame s t d ∧ t = { s with dies := t.dies, answers := t.answers })

/-- R61. A write of PW_OP_CTRL clamps MIN_OP to 1 to 7, MAX_OP to MIN_OP to 7, and REQ_OP to MIN_OP to MAX_OP, but for a REQ_OP of 0 on a die with no context
bound. A die with a scheduled context does not move for it, nor does one that holds OP0 because it is no logical die's (R37); else the die's target becomes the
requested point, held to its cap. Where the MIN_OP written lies above what the last allocation gave the die, that is raised to MIN_OP and the die holds DUTY
(R495). -/
def Sys2Proof.Machine.OperatingPointWriteIsClamped : Prop :=
  ∀ (d : Nat) (v : Word) (s : State), isCompute d = true → Runs (.pwOpCtrlWrite d v) s fun t =>
    1 ≤ (t.die d).minOp ∧ (t.die d).minOp ≤ (t.die d).maxOp ∧ (t.die d).maxOp ≤ 7 ∧ (t.die d).reqOp ≤ (t.die d).maxOp ∧
    ((t.die d).minOp ≤ (t.die d).reqOp ∨ (t.die d).reqOp = 0 ∧ s.dieBound d = false ∧ bits v.toNat 0 3 = 0) ∧ (t.die d).fixed = v.toNat.testBit 15 ∧
    (1 ≤ bits v.toNat 4 3 → bits v.toNat 4 3 ≤ bits v.toNat 8 3 → bits v.toNat 4 3 ≤ bits v.toNat 0 3 → bits v.toNat 0 3 ≤ bits v.toNat 8 3 →
      (t.die d).minOp = bits v.toNat 4 3 ∧ (t.die d).maxOp = bits v.toNat 8 3 ∧ (t.die d).reqOp = bits v.toNat 0 3) ∧
    (minAboveAlloc (writePwOpCtrl (s.dieBound d) v.toNat (s.die d)) = true →
      (t.die d).capOp = some (t.die d).minOp ∧ (t.die d).dutyHold = true ∧ throttled (t.die d) rsDuty = true) ∧
    ((s.die d).scheduled = true ∨ s.holdsOp0 d = true → (t.die d).curOp = (s.die d).curOp ∧ (t.die d).targetOp = (s.die d).targetOp ∧ (t.die d).transition = (s.die d).transition) ∧
    ((s.die d).scheduled = false → s.holdsOp0 d = false → (t.die d).raiseOp = none → (t.die d).capOp = none → (t.die d).targetOp = (t.die d).reqOp) ∧
    othersSame s t d ∧ t = { s with dies := t.dies }

/-- R52. While a change is under way, OP_CHANGE_COMPLETE moves the guaranteed point of a die by at most one point, always toward its target, and the change ends
exactly when the target is reached. Mesh requests that waited for a die are then taken up again (R51); with none, nothing else changes. What a target on the other
side of the change under way does is the model's choice (log entry 78). -/
def Sys2Proof.Machine.PointsChangeOneAtATime : Prop :=
  ∀ (d : Nat) (s : State), isCompute d = true → (s.die d).transition = true → Runs (.opChangeComplete d) s fun t => ∃ x : Die,
    ((s.die d).curOp < (s.die d).targetOp → x.curOp = (s.die d).curOp + 1 ∧ (x.transition = true ↔ x.curOp < (s.die d).targetOp)) ∧
    ((s.die d).targetOp < (s.die d).curOp → x.curOp + 1 = (s.die d).curOp ∧ x.transition = true) ∧
    ((s.die d).targetOp = (s.die d).curOp → x.curOp = (s.die d).curOp ∧ x.transition = false) ∧
    x = { s.die d with curOp := x.curOp, transition := x.transition } ∧ t = (s.setDie d x).releaseMesh ∧
    (s.meshWait = [] → t.die d = x ∧ othersSame s t d ∧ t = { s with dies := t.dies })

/-- R54. The slot length of an operation of at most `n` steps at schedule point `p` is the fewest beats of 4 ns that hold its steps at the guaranteed rate of
R48 (in tenths of a G step per second) and the 1 ns of its release. -/
def Obligations.SlotLengthHoldsTheSteps : Prop :=
  ∀ n p, 1 ≤ p → p ≤ 7 →
    10 * n + rate10 p ≤ 4 * rate10 p * slotBeats n p ∧ (∀ b, 10 * n + rate10 p ≤ 4 * rate10 p * b → slotBeats n p ≤ b) ∧
    rate10 1 = 8 ∧ rate10 5 = 16 ∧ rate10 7 = 20 ∧ slotBeats 1030 5 = 162 ∧ slotBeats 1030 7 = 129

/-! ## The scalar unit (R149, R150) -/

/-- What a scalar operation that writes s(RD) does: the value goes to the register (none to s0), every other register, core and field of the state stays,
and the operation is performed. -/
def Sys2Proof.Machine.scalarWritesResult (i : Nat → Instr) (k : ScalarK) (f : State → Nat → ScalarOp → Word) : Prop :=
  ∀ (c : Nat) (s : State) (e : QEntry) (o : ScalarOp), isCore c = true → s.headScalar c k = some (e, o) →
    Runs (i c) s fun t =>
      reg (t.core c) o.rd = (if o.rd = 0 then 0 else f s c o) ∧ (∀ j, j ≠ o.rd → reg (t.core c) j = reg (s.core c) j) ∧
      performed s t c uScalar ∧ (∀ d, d ≠ c → t.core d = s.core d) ∧ t = { s with cores := t.cores }


/-- What a scalar operation does in which a check fails (R128, R130): the first of the core and job raises F_ARITH_CHECK, and the operation is performed, with a result
that is free. -/
def Sys2Proof.Machine.scalarUpset (i : Nat → Option Upset → Instr) (k : ScalarK) : Prop :=
  ∀ (c : Nat) (s : State) (e : QEntry) (o : ScalarOp) (u : Upset), isCore c = true → s.headScalar c k = some (e, o) → s.arithTold c = false → s.hasRoom (c / 4) →
    Runs (i c (some u)) s fun t =>
      raised s t (c / 4) fArithCheck ∧ reg (t.core c) o.rd = (if o.rd = 0 then 0 else s.upsetWord (some u) 0) ∧ t.fresh = s.fresh + 1 ∧
      (∀ j, j ≠ o.rd → reg (t.core c) j = reg (s.core c) j) ∧ performed s t c uScalar ∧ (∀ d, d ≠ c → t.core d = s.core d) ∧
      t = { s with cores := t.cores, dies := t.dies, contexts := t.contexts, fresh := t.fresh }

/-- R149, R130. The operations of the scalar unit that write s(RD): each writes the value of its row and changes nothing else. One whose addition, multiplication or
comparison failed a check completes too, with F_ARITH_CHECK and a result that is free. -/
def Sys2Proof.Machine.ScalarOperationsWriteTheirResult : Prop :=
  scalarWritesResult (.add · none) .add (fun _ _ o => o.a + o.b) ∧ scalarWritesResult (.sub · none) .sub (fun _ _ o => o.a - o.b) ∧
  scalarWritesResult (.mul · none) .mul (fun _ _ o => o.a * o.b) ∧ scalarWritesResult .andOp .and (fun _ _ o => o.a &&& o.b) ∧
  scalarWritesResult .orOp .or (fun _ _ o => o.a ||| o.b) ∧ scalarWritesResult .xor .xor (fun _ _ o => o.a ^^^ o.b) ∧
  scalarWritesResult .shl .shl (fun _ _ o => o.a <<< (o.b.toNat % 64)) ∧ scalarWritesResult .shr .shr (fun _ _ o => o.a >>> (o.b.toNat % 64)) ∧
  scalarWritesResult (.sltu · none) .sltu (fun _ _ o => if o.a.toNat < o.b.toNat then 1 else 0) ∧
  scalarWritesResult (.addi · none) .addi (fun _ _ o => o.a + o.imm.signExtend 64) ∧ scalarWritesResult .ori .ori (fun _ _ o => o.a ||| o.imm.zeroExtend 64) ∧
  scalarWritesResult .shli .shli (fun _ _ o => o.a <<< (o.imm.toNat % 64)) ∧ scalarWritesResult .shri .shri (fun _ _ o => o.a >>> (o.imm.toNat % 64)) ∧
  scalarWritesResult .rdtb .rdtb (fun s c _ => BitVec.ofNat 64 (s.count (c / 4))) ∧
  scalarWritesResult .rdid .rdid (fun s c o => BitVec.ofNat 64 (rdidValue s c o)) ∧
  scalarUpset .add .add ∧ scalarUpset .sub .sub ∧ scalarUpset .mul .mul ∧ scalarUpset .sltu .sltu ∧ scalarUpset .addi .addi

/-- R149, R150. LD reads one aligned word of the core's own shelf into s(RD), and ST writes s(RD) there; no other byte of memory changes. Where the word holds
no error mark, nothing else changes but the performing core. -/
def Sys2Proof.Machine.LoadAndStoreMoveOneShelfWord : Prop :=
  ∀ (c : Nat) (s : State) (e : QEntry) (o : ScalarOp) (k : Nat), isCore c = true → lsAddr o % 8 = 0 → s.marks = [] →
    (s.headScalar c .ld = some (e, o) → s.headRead c uScalar e (lsAddr o) 8 false = .inl k →
      Runs (.ld c none) s fun t =>
        reg (t.core c) o.rd = (if o.rd = 0 then 0 else BitVec.ofNat 64 (readLe s.mem k 8)) ∧ (∀ j, j ≠ o.rd → reg (t.core c) j = reg (s.core c) j) ∧
        performed s t c uScalar ∧ t = { s with cores := t.cores }) ∧
    (s.headScalar c .st = some (e, o) → s.mem.wf = true → s.headWrite c uScalar e (lsAddr o) 8 false = .inl k →
      Runs (.st c none) s fun t =>
        readLe t.mem k 8 = o.d.toNat ∧ (∀ a, a < k ∨ k + 8 ≤ a → readByte t.mem a = readByte s.mem a) ∧
        (∀ j, reg (t.core c) j = reg (s.core c) j) ∧ performed s t c uScalar ∧ t = { s with cores := t.cores, mem := t.mem })

/-- What a branch does: where its condition holds the issue unit goes on at the bundle that it names, else at the bundle after the present one. -/
def Sys2Proof.Machine.branches (i : Nat → Instr) (k : ScalarK) (p : ScalarOp → Bool) : Prop :=
  ∀ (c : Nat) (s : State) (e : QEntry) (o : ScalarOp) (b : Nat), isCore c = true → s.headScalar c k = some (e, o) →
    branchTarget e.bundle o.imm.toNat (s.core c).length = some b →
    Runs (i c) s fun t => (t.core c).head = (if p o then b else (s.core c).head) ∧ performed s t c uScalar ∧ t = { s with cores := t.cores }

/-- R149, R151. The branches go to the bundle named where their condition holds; DBNZ decrements s(RA) (s0 reads zero after it); HALT ends issue. -/
def Sys2Proof.Machine.BranchesAndHalt : Prop :=
  branches .bz .bz (fun o => o.a == 0) ∧ branches .bnz .bnz (fun o => o.a != 0) ∧
  branches (.dbnz · none) .dbnz (fun o => o.ra != 0 && o.a - 1 != 0) ∧
  (∀ (c : Nat) (s : State) (e : QEntry) (o : ScalarOp), isCore c = true → s.headScalar c .dbnz = some (e, o) →
    Runs (.dbnz c none) s fun t => reg (t.core c) o.ra = (if o.ra = 0 then 0 else o.a - 1) ∧ ∀ j, j ≠ o.ra → reg (t.core c) j = reg (s.core c) j) ∧
  (∀ (c : Nat) (s : State) (e : QEntry) (o : ScalarOp), isCore c = true → s.headScalar c .halt = some (e, o) →
    Runs (.halt c) s fun t => (t.core c).halted = true ∧ performed s t c uScalar ∧ t = { s with cores := t.cores })

/-- R137, R138, R142. SCORE_FETCH takes the rest of a score row behind the bundles held; BUNDLE_ISSUE releases every operation of the head bundle into the
queue of its unit, at its issue beat, and goes on to the next bundle; on a scheduled grid, where the beat's instant has come and its window has not passed. A
head bundle found invalid raises F_SCORE_INVALID at its slot and stops the core (R174; which slot of several is named is the model's choice, log entry 79). -/
def Sys2Proof.Machine.FetchAndIssue : Prop :=
  (∀ (c : Nat) (s : State), isCore c = true → (s.core c).ctx.isSome → (s.die (c / 4)).curOp ≠ 0 → s.marks = [] → (s.core c).head + (s.core c).held.length < (s.core c).length →
    (s.core c).held.length + (rowBundles s.mem c (s.core c) ((s.core c).head + (s.core c).held.length)).length ≤ 64 →
    Runs (.scoreFetch c) s fun t =>
      (t.core c).held = (s.core c).held ++ rowBundles s.mem c (s.core c) ((s.core c).head + (s.core c).held.length) ∧
      (t.core c).head = (s.core c).head ∧ t = { s with cores := t.cores }) ∧
  (∀ (c : Nat) (s : State) (w : BitVec 256) (l : List (BitVec 256)) (d : List (Nat × SlotOp)), isCore c = true → s.issues c = true →
    unresolved (s.core c) = false → (s.core c).head < (s.core c).length → (s.core c).held = w :: l → headInvalid (s.core c) w = none →
    d = decodeBundle (s.core c) (s.core c).head w → waitOf d = none → queuesFree (s.core c) (bundleOps d) = true → readsPending (s.core c) d = false →
    s.early c (issueBeat (s.core c) w) = false → s.pastWindow c (issueBeat (s.core c) w) = false →
    Runs (.bundleIssue c) s fun t =>
      (t.core c).head = (s.core c).head + 1 ∧ (t.core c).held = l ∧ (t.core c).lastBeat = issueBeat (s.core c) w ∧
      (∀ u, u < 6 → (unitQueue (t.core c) u).length = (unitQueue (s.core c) u).length + ((releases d).filter fun r => r.1 == u).length) ∧
      (∀ e, e ≠ c → t.core e = s.core e) ∧ t = { s with cores := t.cores }) ∧
  (∀ (c : Nat) (s : State) (w : BitVec 256) (l : List (BitVec 256)) (n : Nat), isCore c = true → s.issues c = true → unresolved (s.core c) = false →
    (s.core c).head < (s.core c).length → (s.core c).held = w :: l → headInvalid (s.core c) w = some n → s.hasRoom (c / 4) →
    Runs (.bundleIssue c) s fun t =>
      raised s t (c / 4) fScoreInvalid ∧ t.core c = { s.core c with stopped := true } ∧ (∀ e, e ≠ c → t.core e = s.core e) ∧
      t = { s with dies := t.dies, cores := t.cores })

/-- R168, R173. OPERATION_COMPLETE takes the performed head from its unit's queue and counts it as completed. -/
def Sys2Proof.Machine.OperationCompletes : Prop :=
  ∀ (c u : Nat) (s : State) (e : QEntry) (q : List QEntry), isCore c = true → u < 6 → unitQueue (s.core c) u = e :: q → e.done = true → e.waitAcks = 0 → (s.die (c / 4)).curOp ≠ 0 →
    Runs (.operationComplete c u) s fun t =>
      unitQueue (t.core c) u = q ∧ tabGet 0 (t.core c).completed u = tabGet 0 (s.core c).completed u + 1 ∧ (t.core c).progress = true ∧
      (∀ j, reg (t.core c) j = reg (s.core c) j) ∧ (∀ d, d ≠ c → t.core d = s.core d)

/-- R58, R258. SLOT_BOUNDARY raises F_SLOT_LATE for an operation of a scheduled context that has not completed when its slot ends, and does nothing where it has, or
where a check of its stream halted it. For the tally unit an operation that still waits for its WHEN counts too. -/
def Sys2Proof.Machine.SlotBoundaryFindsLateOperations : Prop :=
  ∀ (c u b : Nat) (s : State), isCore c = true → u < 6 → s.schedCtx ((s.core c).ctx.getD noCtx) = true →
    ((∃ e ∈ unitQueue (s.core c) u ++ (if u = uTally then (s.core c).delayed else []), e.bundle = b ∧ e.halted = false) → s.hasRoom (c / 4) → Runs (.slotBoundary c u b) s fun t => raised s t (c / 4) fSlotLate) ∧
    ((∀ e ∈ unitQueue (s.core c) u, e.bundle ≠ b ∨ e.halted = true) → u ≠ uTally → Runs (.slotBoundary c u b) s fun t => t = s)

/-! ## Tallies, waits and events (R166 to R168, R291 to R312, R330 to R334) -/

/-- The virtual id that core `c` names leads, for a use that R296 permits, to the tally of index `i` at home `h`, and it is no link's. -/
def Sys2Proof.Machine.namesTally (s : State) (c vid : Nat) (act : TallyAct) (h i : Nat) : Prop :=
  ∃ x l e, (s.core c).ctx = some x ∧ s.launchOf x = some l ∧ findTally l vid = some e ∧ s.tallyHome e (c / 4) = some (h, i) ∧
    tallyUse e.kind act = true ∧ isLinkVid l vid = false

/-- Every tally but one has its value, its waits and its fault mark as before, and no register of a core changes. -/
def Sys2Proof.Machine.otherTallies (s t : State) (h i : Nat) : Prop :=
  (∀ g j, (g, j) ≠ (h, i) → t.tally g j = s.tally g j) ∧ ∀ c j, reg (t.core c) j = reg (s.core c) j

/-- A message in flight of a job that runs, which may arrive: its tally's die and the path there are up, and no message ahead of it goes from the same source to the
same tally (R26, R51, R305). -/
def Sys2Proof.Machine.mayArrive (s : State) (k : Nat) (m : TallyMsg) : Prop :=
  s.tallyMsgs[k]? = some m ∧ m.dead = false ∧ m.result = none ∧ s.quenchedCtx m.ctx = false ∧ s.tallyHeld m = false ∧
    ∀ j n, j < k → s.tallyMsgs[j]? = some n → samePath m n = false

/-- One whose virtual id is no link's. -/
def Sys2Proof.Machine.messageAt (s : State) (k : Nat) (m : TallyMsg) : Prop :=
  mayArrive s k m ∧ ((s.launchOf m.ctx).map fun l => isLinkVid l m.vid) = some false

/-- R297, R298, R302. An INC that arrives adds N, saturating at 2^32 − 1 with F_TALLY_OVERFLOW; a DEC that arrives subtracts N, and one that would go below zero
changes nothing and raises F_TALLY_UNDERFLOW, a second fault of the job on one tally being counted only; a forced set (R312) replaces the value, and GO of the register
that asked for it reads 0 again. The message is in flight no longer. -/
def Sys2Proof.Machine.TallyMessagesAreApplied : Prop :=
  ∀ (k : Nat) (s : State) (m : TallyMsg), messageAt s k m → (s.tally m.home m.index).waits = [] →
    (m.act = .inc → (s.tally m.home m.index).value.toNat + m.n < 2 ^ 32 → Runs (.tallyMessageArrive [k]) s fun t =>
      (t.tally m.home m.index).value.toNat = (s.tally m.home m.index).value.toNat + m.n ∧ (t.tally m.home m.index).waits = [] ∧
      otherTallies s t m.home m.index ∧ t = { s with tallyMsgs := s.tallyMsgs.eraseIdx k, cores := t.cores, dies := t.dies }) ∧
    (m.act = .inc → 2 ^ 32 ≤ (s.tally m.home m.index).value.toNat + m.n → s.tallyTold m.ctx (m.home, m.index) = false → s.hasRoom (homeDie m.home) →
      Runs (.tallyMessageArrive [k]) s fun t =>
        (t.tally m.home m.index).value = 0xFFFFFFFF ∧ t.tallyTold m.ctx (m.home, m.index) = true ∧ raised s t (homeDie m.home) fTallyOverflow ∧
        otherTallies s t m.home m.index ∧ t = { s with tallyMsgs := s.tallyMsgs.eraseIdx k, cores := t.cores, dies := t.dies, contexts := t.contexts }) ∧
    (m.act = .dec → m.n ≤ (s.tally m.home m.index).value.toNat → Runs (.tallyMessageArrive [k]) s fun t =>
      (t.tally m.home m.index).value.toNat = (s.tally m.home m.index).value.toNat - m.n ∧
      otherTallies s t m.home m.index ∧ t = { s with tallyMsgs := s.tallyMsgs.eraseIdx k, cores := t.cores, dies := t.dies }) ∧
    (m.act = .dec → (s.tally m.home m.index).value.toNat < m.n → s.tallyTold m.ctx (m.home, m.index) = false → s.hasRoom (homeDie m.home) →
      Runs (.tallyMessageArrive [k]) s fun t =>
        (t.tally m.home m.index).value = (s.tally m.home m.index).value ∧ t.tallyTold m.ctx (m.home, m.index) = true ∧ raised s t (homeDie m.home) fTallyUnderflow ∧
        otherTallies s t m.home m.index ∧ t = { s with tallyMsgs := s.tallyMsgs.eraseIdx k, cores := t.cores, dies := t.dies, contexts := t.contexts }) ∧
    (m.act = .dec → (s.tally m.home m.index).value.toNat < m.n → s.tallyTold m.ctx (m.home, m.index) = true → m.home < 1000 → Runs (.tallyMessageArrive [k]) s fun t =>
      (t.core m.home).errTally = min 0xFFFF ((s.core m.home).errTally + 1) ∧ (t.tally m.home m.index).value = (s.tally m.home m.index).value ∧
      otherTallies s t m.home m.index ∧ t = { s with tallyMsgs := s.tallyMsgs.eraseIdx k, cores := t.cores }) ∧
    (m.act = .set → m.n < 2 ^ 32 → Runs (.tallyMessageArrive [k]) s fun t =>
      (t.tally m.home m.index).value.toNat = m.n ∧ otherTallies s t m.home m.index ∧
      (∀ i, i < 2 → m.reg = some i → (t.hatch i).go = false ∧ (t.hatch i).result = 0) ∧ (m.reg = some 2 → t.dgGo = false) ∧
      (m.reg = none → t = { s with tallyMsgs := s.tallyMsgs.eraseIdx k, cores := t.cores, dies := t.dies, contexts := t.contexts }))

/-- R298, R299. A wait that arrives is satisfied where the tally holds N, a WAITDEC then subtracting N; else it joins the tally's waits at the end while fewer than
eight stand, and is turned away, to be sent again, when eight do. -/
def Sys2Proof.Machine.WaitMessagesAreApplied : Prop :=
  ∀ (k : Nat) (s : State) (m : TallyMsg), messageAt s k m → (m.act = .wait ∨ m.act = .waitdec) →
    (m.n ≤ (s.tally m.home m.index).value.toNat → Runs (.tallyMessageArrive [k]) s fun t =>
      (t.core m.core).wait = .satisfied ∧
      (t.tally m.home m.index).value.toNat = (s.tally m.home m.index).value.toNat - (if m.act = .waitdec then m.n else 0) ∧
      otherTallies s t m.home m.index ∧ t = { s with tallyMsgs := s.tallyMsgs.eraseIdx k, cores := t.cores, dies := t.dies }) ∧
    ((s.tally m.home m.index).value.toNat < m.n → (s.tally m.home m.index).waits.length < 8 → Runs (.tallyMessageArrive [k]) s fun t =>
      (t.core m.core).wait = .registered ∧ (t.tally m.home m.index).value = (s.tally m.home m.index).value ∧
      (t.tally m.home m.index).waits = (s.tally m.home m.index).waits ++ [{ core := m.core, n := m.n, dec := m.act == .waitdec }] ∧
      otherTallies s t m.home m.index ∧ t = { s with tallyMsgs := s.tallyMsgs.eraseIdx k, cores := t.cores, dies := t.dies }) ∧
    ((s.tally m.home m.index).value.toNat < m.n → 8 ≤ (s.tally m.home m.index).waits.length → Runs (.tallyMessageArrive [k]) s fun t =>
      (t.core m.core).wait = .retry ∧ (t.tally m.home m.index) = (s.tally m.home m.index) ∧
      otherTallies s t m.home m.index ∧ t = { s with tallyMsgs := s.tallyMsgs.eraseIdx k, cores := t.cores, dies := t.dies })

/-- R298. The waits that stand at a tally are checked in order of arrival as its value rises: every one whose N the value reaches is satisfied, a WAITDEC among them
lowering the value for those behind it, and every other stays, in order. -/
def Sys2Proof.Machine.WaitsAreCheckedInOrderOfArrival : Prop :=
  ∀ (w : WaitReg) (l : List WaitReg) (v : Nat),
    runWaits [] v = ([], v, []) ∧
    (v < w.n → runWaits (w :: l) v = (w :: (runWaits l v).1, (runWaits l v).2.1, (runWaits l v).2.2)) ∧
    (w.n ≤ v → runWaits (w :: l) v = ((runWaits l (if w.dec then v - w.n else v)).1, (runWaits l (if w.dec then v - w.n else v)).2.1,
      w.core :: (runWaits l (if w.dec then v - w.n else v)).2.2)) ∧
    (runWaits l v).1.Sublist l ∧ (runWaits l v).1.length + (runWaits l v).2.2.length = l.length ∧ (runWaits l v).2.1 ≤ v ∧
    (∀ (s : State) (k : Nat) (m : TallyMsg), messageAt s k m → m.act = .inc → (s.tally m.home m.index).value.toNat + m.n < 2 ^ 32 →
      Runs (.tallyMessageArrive [k]) s fun t =>
        let r := runWaits (s.tally m.home m.index).waits ((s.tally m.home m.index).value.toNat + m.n)
        (t.tally m.home m.index).waits = r.1 ∧ (t.tally m.home m.index).value.toNat = r.2.1 ∧ ∀ c ∈ r.2.2, (t.core c).wait = .satisfied)

/-- R144, R167, R295, R298 to R300. WAIT, WAITDEC and WAIT_REGISTER_RETRY send the wait of the head bundle to its tally: on a tally of the core's own, it is granted at
once where the tally holds N (a WAITDEC subtracting N); to a tally elsewhere, its die's ring stop among them, it leaves as a message. A satisfaction that arrives lets the bundle go. -/
def Sys2Proof.Machine.WaitsAreSent : Prop :=
  ∀ (c : Nat) (s : State) (o : TallyOp) (h i : Nat), isCore c = true → headWait (s.core c) = some o →
    ∀ (r : Nat → Instr) (act : TallyAct), namesTally s c o.vid act h i →
      (r = .wait ∧ o.k = .wait ∧ act = .wait ∧ s.waitReady c = true ∧ (s.core c).wait = .none ∨
       r = .waitdec ∧ o.k = .waitdec ∧ act = .waitdec ∧ s.waitReady c = true ∧ (s.core c).wait = .none ∨
       r = .waitRegisterRetry ∧ (o.k = .wait ∧ act = .wait ∨ o.k = .waitdec ∧ act = .waitdec) ∧ s.issues c = true ∧ (s.core c).wait = .retry) →
      (h = c → o.n ≤ (s.tally h i).value.toNat → Runs (r c) s fun t =>
        (t.core c).wait = .granted ∧ (t.tally h i).value.toNat = (s.tally h i).value.toNat - (if act = .waitdec then o.n else 0) ∧
        otherTallies s t h i ∧ t = { s with cores := t.cores, dies := t.dies }) ∧
      (h ≠ c → Runs (r c) s fun t =>
        (t.core c).wait = .sent ∧ (∃ m, t.tallyMsgs = s.tallyMsgs ++ [m] ∧ m.home = h ∧ m.index = i ∧ m.act = act ∧ m.n = o.n ∧ m.core = c) ∧
        (∀ g j, t.tally g j = s.tally g j) ∧ t = { s with cores := t.cores, tallyMsgs := t.tallyMsgs })

/-- R300. The satisfaction of a wait, arriving at the issuing core, grants it; nothing else changes. -/
def Sys2Proof.Machine.SatisfactionGrantsTheWait : Prop :=
  ∀ (c : Nat) (s : State), isCore c = true → (s.core c).wait = .satisfied → Runs (.waitSatisfactionArrive c) s fun t =>
    t.core c = { s.core c with wait := .granted } ∧ (∀ d, d ≠ c → t.core d = s.core d) ∧ t = { s with cores := t.cores }

/-- The INC, DEC or HSIG at the head of a core's tally port, whose WHEN is met and behind which nothing waits. -/
def Sys2Proof.Machine.tallyHead (s : State) (c : Nat) (k : TallyK) (e : QEntry) (o : TallyOp) : Prop :=
  (s.die (c / 4)).curOp ≠ 0 ∧ (s.die (c / 4)).quenched = false ∧ (s.core c).delayed = [] ∧ s.headOp c uTally = some e ∧ e.op = .tally o ∧ o.k = k ∧
    whenMet (s.core c) o = true

/-- R168, R295, R297, R298. INC and DEC on a tally of the core's own take effect at once; on a tally elsewhere they leave as a message. An operation whose
WHEN is not met leaves the port and waits for it behind those that wait already. -/
def Sys2Proof.Machine.IncAndDecAreSent : Prop :=
  ∀ (c : Nat) (s : State) (e : QEntry) (o : TallyOp) (h i : Nat), isCore c = true →
    (tallyHead s c .inc e o → namesTally s c o.vid .inc h i →
      (h = c → (s.tally h i).waits = [] → (s.tally h i).value.toNat + o.n < 2 ^ 32 → Runs (.inc c) s fun t =>
        (t.tally h i).value.toNat = (s.tally h i).value.toNat + o.n ∧ otherTallies s t h i ∧ performed s t c uTally ∧
        t = { s with cores := t.cores, dies := t.dies }) ∧
      (h ≠ c → Runs (.inc c) s fun t =>
        (∃ m, t.tallyMsgs = s.tallyMsgs ++ [m] ∧ m.home = h ∧ m.index = i ∧ m.act = .inc ∧ m.n = o.n) ∧ performed s t c uTally ∧
        (∀ g j, t.tally g j = s.tally g j) ∧ t = { s with cores := t.cores, tallyMsgs := t.tallyMsgs })) ∧
    (tallyHead s c .dec e o → namesTally s c o.vid .dec h i →
      (h = c → o.n ≤ (s.tally h i).value.toNat → Runs (.dec c) s fun t =>
        (t.tally h i).value.toNat = (s.tally h i).value.toNat - o.n ∧ otherTallies s t h i ∧ performed s t c uTally ∧
        t = { s with cores := t.cores, dies := t.dies }) ∧
      (h ≠ c → Runs (.dec c) s fun t =>
        (∃ m, t.tallyMsgs = s.tallyMsgs ++ [m] ∧ m.home = h ∧ m.index = i ∧ m.act = .dec ∧ m.n = o.n) ∧ performed s t c uTally ∧
        (∀ g j, t.tally g j = s.tally g j) ∧ t = { s with cores := t.cores, tallyMsgs := t.tallyMsgs })) ∧
    ((s.die (c / 4)).curOp ≠ 0 → (s.die (c / 4)).quenched = false → s.delayedHead c o.k = none → s.headOp c uTally = some e → e.op = .tally o →
      whenMet (s.core c) o = false → ∀ r : Nat → Instr, (r = .inc ∧ o.k = .inc ∨ r = .dec ∧ o.k = .dec ∨ r = .hsig ∧ o.k = .hsig) → Runs (r c) s fun t =>
        (t.core c).delayed = (s.core c).delayed ++ [e] ∧ performed s t c uTally ∧ (∀ g j, t.tally g j = s.tally g j) ∧ t = { s with cores := t.cores })

/-- R309. HSIG signals host event VID of the context: SEQ gains N and STAMP becomes the count of the core's die; no other byte of the part's memory changes. -/
def Sys2Proof.Machine.HostSignalUpdatesTheEvent : Prop :=
  ∀ (c x : Nat) (s : State) (e : QEntry) (o : TallyOp), isCore c = true → tallyHead s c .hsig e o → (s.core c).ctx = some x → o.vid < (s.ctx x).events →
    s.mem.wf = true → Runs (.hsig c) s fun t =>
      let a := eventAddr (s.ctx x) o.vid
      readLe t.mem a 8 = (readLe s.mem a 8 + o.n) % 2 ^ 64 ∧ readLe t.mem (a + 8) 8 = s.count (c / 4) % 2 ^ 64 ∧
      (∀ b, b < a ∨ a + 16 ≤ b → readByte t.mem b = readByte s.mem b) ∧ performed s t c uTally ∧ (∀ j, reg (t.core c) j = reg (s.core c) j)

/-- R332, R333. An INC that becomes visible on a link's full tally fills N slots from the fill pointer, which moves on by N round the link; in scheduled mode one
that would fill a FILLED slot raises F_SLOT_GUARD and no part of it is applied. -/
def Sys2Proof.Machine.LinkSlotsFillInOrder : Prop :=
  ∀ (i : Nat) (s : State) (m : TallyMsg) (l : Launch) (k : Link), mayArrive s i m → m.act = .inc →
    s.launchOf m.ctx = some l → linkOfFull l m.vid = some k →
    (fillBlocked k m.n = false → (s.tally m.home m.index).value.toNat + m.n < 2 ^ 32 → (s.tally m.home m.index).waits = [] →
      Runs (.tallyMessageArrive [i]) s fun t =>
        (∃ l', t.launchOf m.ctx = some l' ∧ (∀ k' ∈ l'.links, if k'.id = k.id then
            k'.fill = (k.fill + m.n) % k.depth ∧ k'.drain = k.drain ∧ (∀ j, j ∈ k'.filled ↔ j ∈ k.filled ∨ j ∈ slotRun k k.fill m.n) else k' ∈ l.links)) ∧
        (t.tally m.home m.index).value.toNat = (s.tally m.home m.index).value.toNat + m.n) ∧
    (fillBlocked k m.n = true → l.scheduled = true → s.hasRoom (homeDie m.home) → Runs (.tallyMessageArrive [i]) s fun t =>
      raised s t (homeDie m.home) fSlotGuard ∧ (∀ g j, t.tally g j = s.tally g j) ∧ t.launchOf m.ctx = some l)

/-! ## Matrix engines (R81 to R106, R154 to R159) -/

/-- The head operation of a unit of a core is done. -/
def Sys2Proof.Machine.headDone (t : State) (c u : Nat) : Prop := ∃ e q, unitQueue (t.core c) u = e :: q ∧ e.done = true

/-- What an engine operation leaves as it was: every register, the other engine, every other core, and every byte of memory. -/
def Sys2Proof.Machine.engineFrame (s t : State) (c e : Nat) : Prop :=
  (∀ j, reg (t.core c) j = reg (s.core c) j) ∧ (∀ f, f < 2 → f ≠ e → eng (t.core c) f = eng (s.core c) f) ∧ (∀ d, d ≠ c → t.core d = s.core d) ∧
    (∀ a, readByte t.mem a = readByte s.mem a) ∧ headDone t c (1 + e)

/-- R91, R92, R93. SHAPE gives the engine its mode and leaves what it holds. SWAP moves the shadow's weights, scales and format into the weight registers and the
shadow holds no tile from then on; with no tile in the shadow it holds, and changes nothing else. -/
def Sys2Proof.Machine.ShapeAndSwap : Prop :=
  ∀ (c e : Nat) (s : State) (q : QEntry), isCore c = true → e < 2 → (eng (s.core c) e).errs = [] →
    (∀ m, s.headEng c e = some (q, .shape m) → Runs (.shape c e) s fun t =>
      eng (t.core c) e = { eng (s.core c) e with mode := m, lastTileOs := false } ∧ engineFrame s t c e ∧ t = { s with cores := t.cores }) ∧
    (s.headEng c e = some (q, .swap) → isWs (eng (s.core c) e).mode = true → (eng (s.core c) e).shadowFull = true → Runs (.swap c e) s fun t =>
      (eng (t.core c) e).weights = (eng (s.core c) e).shadow ∧ (eng (t.core c) e).wScales = (eng (s.core c) e).sScales ∧
      (eng (t.core c) e).wFmt = (eng (s.core c) e).sFmt ∧ (eng (t.core c) e).shadowFull = false ∧ (eng (t.core c) e).shadow = (eng (s.core c) e).shadow ∧
      (eng (t.core c) e).bank0 = (eng (s.core c) e).bank0 ∧ (eng (t.core c) e).half0 = (eng (s.core c) e).half0 ∧
      engineFrame s t c e ∧ t = { s with cores := t.cores }) ∧
    (s.headEng c e = some (q, .swap) → isWs (eng (s.core c) e).mode = true → (eng (s.core c) e).shadowFull = false → Runs (.swap c e) s fun t =>
      eng (t.core c) e = eng (s.core c) e ∧ (∃ p, s.headOp c (1 + e) = some p ∧ t.headOp c (1 + e) = some { p with held := some 2, heldId := 0 }) ∧
      t = { s with cores := t.cores })

/-- The value of a cell of an accumulator bank, by row, group and column (R85). -/
def Sys2Proof.Machine.bankCell (x : Engine) (bank mt r g c : Nat) : Half := tabGet 0 (if bank = 0 then x.bank0 else x.bank1) ((g * mt + r) * 128 + c)

/-- The blocks of a halted coded stream whose elements have come through already (R262). -/
def Sys2Proof.Machine.blocksIn (x : Engine) : Nat := (codedSoFar x).length / 128

/-- Slot `r` of west line `t`: of a halted pass, as it came through already; else as it stands in the stream (R99, R262). -/
def Sys2Proof.Machine.westIn (m : Memory) (x : Engine) (key mt t r : Nat) : Nat :=
  ((westSoFar x)[t]?.map fun l => bits l (64 * r) 64).getD (westSlot m key mt t r)

/-- R83, R84, R113, R115, R262. A TILE_OS whose streams can be read leaves in every cell of its bank the sum, in order of the k-steps, of the lane trees of its west and north slots,
over the bank's value where ACC is 1, from the next k-step of the chain where the pass follows the one before it; the bank then awaits a DRAIN. A pass whose coded stream halted goes on from what has come through. No buffer holds an error. -/
def Sys2Proof.Machine.OutputStationaryPassAccumulates : Prop :=
  ∀ (c e : Nat) (fo : Bool) (s : State) (q : QEntry) (bank : Nat) (acc : Bool) (fw fn : Nat) (coded : Bool) (w ws n ns : Word) (k mt s0 wk wsk nk nsk : Nat)
    (north : Nat → Nat → Nat → Nat) (el : List Nat),
    isCore c = true → e < 2 → s.marks = [] → (eng (s.core c) e).errs = [] → bank < 2 → s.headEng c e = some (q, .tileOs bank acc fw fn coded w ws n ns k) →
    osRows (eng (s.core c) e).mode = some mt → (acc = true ∨ (if bank = 0 then (eng (s.core c) e).await0 else (eng (s.core c) e).await1) = false) →
    s0 = (if (fo || q.follow) && (eng (s.core c) e).lastTileOs then (eng (s.core c) e).chainK else 0) →
    s.headRead c (1 + e) { q with follow := (fo || q.follow) && (eng (s.core c) e).lastTileOs } (alignTo 1024 w.toNat)
      (ceilDiv (s0 + k + mt - 1) (128 / mt) * 1024) false = .inl wk →
    (if isMx fw then s.headRead c (1 + e) { q with follow := (fo || q.follow) && (eng (s.core c) e).lastTileOs } (alignTo 1024 ws.toNat)
      (scaleBytes (s0 + k + mt - 1)) false else .inl 0) = .inl wsk →
    (coded = false ∧
      s.northRead c e { q with follow := (fo || q.follow) && (eng (s.core c) e).lastTileOs } (alignTo 1024 n.toNat) ((s0 + k + 127) * (128 / mt) * 1024) = .inl nk ∧
      (if isMx fn then s.northRead c e { q with follow := (fo || q.follow) && (eng (s.core c) e).lastTileOs } (alignTo 1024 ns.toNat)
        (scaleBytes ((s0 + k + 127) * (128 / mt))) else .inl 0) = .inl nsk ∧
      north = (fun t g cc => northSlot s.mem nk (128 / mt) t g cc) ∨
     coded = true ∧ fn = 0 ∧ nsk = 0 ∧ s.unitAcc c (alignTo 1024 n.toNat) 1 true = .ok nk ∧
      s.northRead c e { q with follow := (fo || q.follow) && (eng (s.core c) e).lastTileOs } (alignTo 1024 n.toNat)
        (streamBytes s.mem (eng (s.core c) e) q.seq nk (4 * ((s0 + k + 127) * (128 / mt)))) = .inl nk ∧
      readStream s.mem (eng (s.core c) e) q.seq nk (s.slotGen (c / 4) nk) (4 * ((s0 + k + 127) * (128 / mt)) - blocksIn (eng (s.core c) e))
        (blocksIn (eng (s.core c) e)) (kindFrom s.mem (eng (s.core c) e) q.seq nk (blocksIn (eng (s.core c) e))) = .ok el ∧
      north = (fun t g cc => codedSlot (codedSoFar (eng (s.core c) e) ++ el) (t * (128 / mt) + g) cc)) →
    Runs (.tileOs c e fo none) s fun t =>
      let o : OsStream := { west := westIn s.mem (eng (s.core c) e) wk mt, north := north, wScale := scaleSlot s.mem fw wsk,
                            nScale := fun u g cc => scaleSlot s.mem fn nsk (u * (128 / mt) + g) cc }
      (∀ r g cc, r < mt → g < 128 / mt → cc < 128 → bankCell (eng (t.core c) e) bank mt r g cc =
        BitVec.ofNat 32 (osCell o fw fn s0 k r g cc (if acc then some (bankCell (eng (s.core c) e) bank mt r g cc).toNat else none))) ∧
      (if bank = 0 then (eng (t.core c) e).await0 else (eng (t.core c) e).await1) = true ∧ (eng (t.core c) e).chainK = s0 + k ∧
      (∀ r g cc, bankCell (eng (t.core c) e) (1 - bank) mt r g cc = bankCell (eng (s.core c) e) (1 - bank) mt r g cc) ∧
      engineFrame s t c e ∧ t = { s with cores := t.cores, dies := t.dies }

/-- How many results of a half no DRAIN has taken (R93). -/
def Sys2Proof.Machine.awaiting (x : Engine) (half : Nat) : Nat := if half = 0 then x.undrained0 else x.undrained1

/-- R87, R88, R89, R93, R116. A TILE_WS whose streams can be read leaves, for each of its tokens, the outputs of its form's column trees in its collector half, added to what the half held
where ACC is 1; every other value of the half stays; its results await a DRAIN. -/
def Sys2Proof.Machine.WeightStationaryPassFillsItsHalf : Prop :=
  ∀ (c e : Nat) (s : State) (q : QEntry) (half : Nat) (acc : Bool) (ft : Nat) (a as : Word) (m tk tsk : Nat),
    isCore c = true → e < 2 → s.marks = [] → (eng (s.core c) e).errs = [] → half < 2 → s.headEng c e = some (q, .tileWs half acc ft a as m) →
    isWs (eng (s.core c) e).mode = true → sameClass ft (eng (s.core c) e).wFmt = true → m ≤ wsLimit (eng (s.core c) e).mode →
    (acc = true ∨ awaiting (eng (s.core c) e) half = 0) →
    s.headRead c (1 + e) q (alignTo 1024 a.toNat) (ceilDiv (m * tokenBytes (eng (s.core c) e).mode) 1024 * 1024) false = .inl tk →
    (if isMx ft then s.headRead c (1 + e) q (alignTo 1024 as.toNat) (scaleBytes m) false else .inl 0) = .inl tsk →
    Runs (.tileWs c e none) s fun t =>
      let x := eng (s.core c) e
      let w := wsWidth x.mode
      (∀ i n, i < m → n < w →
        let v := wsOut s.mem x ft (tk + i * tokenBytes x.mode) (tsk + i * 128) n
        tabGet 0 (getHalf (eng (t.core c) e) half) (i * w + n) =
          BitVec.ofNat 32 (if acc then fp32Add (tabGet 0 (getHalf x half) (i * w + n)).toNat v else v)) ∧
      (∀ j, m * w ≤ j → j < 131072 → tabGet 0 (getHalf (eng (t.core c) e) half) j = tabGet 0 (getHalf x half) j) ∧
      awaiting (eng (t.core c) e) half = max (awaiting x half) (m * w) ∧
      (eng (t.core c) e).weights = x.weights ∧ engineFrame s t c e ∧ t = { s with cores := t.cores, dies := t.dies }

/-- R90, R245, R255, R262. A LOAD_SHADOW that can read its stream fills the 128 shadow lines: from a raw stream line by line with its scales, from a coded stream with the elements
that it decodes, from a variant with base plus difference. A coded load that halted on a generation goes on with CODED_STREAM_RESUME from the block that it waits for, with the same effect. -/
def Sys2Proof.Machine.ShadowIsLoaded : Prop :=
  ∀ (c e : Nat) (s : State) (q : QEntry) (fmt : Nat) (coded var : Bool) (a as v : Word) (k sk : Nat) (el : List Nat) (i : Instr),
    isCore c = true → e < 2 → s.marks = [] → (eng (s.core c) e).errs = [] → s.headEng c e = some (q, .loadShadow fmt coded var a as v) → isWs (eng (s.core c) e).mode = true →
    (eng (s.core c) e).shadowFull = false → (i = .loadShadow c e none ∨ i = .codedStreamResume c e none ∧ q.held = some 3) →
    (coded = false → s.northRead c e q (alignTo 1024 a.toNat) 131072 = .inl k →
      (if isMx fmt then s.northRead c e q (alignTo 1024 as.toNat) (scaleBytes 128) else .inl 0) = .inl sk →
      Runs i s fun t =>
        (∀ j, j < 128 → tabGet 0 (eng (t.core c) e).shadow j = readLe s.mem (k + 1024 * j) 1024 ∧
          tabGet 0 (eng (t.core c) e).sScales j = if isMx fmt then readLe s.mem (sk + 128 * j) 128 else 0) ∧
        (eng (t.core c) e).sFmt = fmt ∧ (eng (t.core c) e).shadowFull = true ∧ (eng (t.core c) e).weights = (eng (s.core c) e).weights ∧
        engineFrame s t c e ∧ t = { s with cores := t.cores, dies := t.dies }) ∧
    (∀ b, b = blocksIn (eng (s.core c) e) → coded = true → fmt = 0 → s.unitAcc c (alignTo 1024 a.toNat) 1 true = .ok k →
      s.northRead c e q (alignTo 1024 a.toNat) (streamBytes s.mem (eng (s.core c) e) q.seq k 512) = .inl k →
      (var = false ∧ readStream s.mem (eng (s.core c) e) q.seq k (s.slotGen (c / 4) k) (512 - b) b (kindFrom s.mem (eng (s.core c) e) q.seq k b) = .ok el ∨
       var = true ∧ s.unitAcc c (alignTo 1024 v.toNat) 1 true = .ok sk ∧
        s.northRead c e q (alignTo 1024 v.toNat) (streamBytes s.mem (eng (s.core c) e) q.seq sk 512) = .inl sk ∧
        readVariant s.mem (eng (s.core c) e) q.seq k sk (s.slotGen (c / 4) k) (s.slotGen (c / 4) sk) (512 - b) b (kindFrom s.mem (eng (s.core c) e) q.seq k b)
          (kindFrom s.mem (eng (s.core c) e) q.seq sk b) = .ok el) →
      Runs i s fun t =>
        (∀ j, j < 128 → tabGet 0 (eng (t.core c) e).shadow j = lineOf (((codedSoFar (eng (s.core c) e) ++ el).drop (512 * j)).take 512)) ∧
        (eng (t.core c) e).sFmt = 0 ∧ (eng (t.core c) e).shadowFull = true ∧ (eng (t.core c) e).weights = (eng (s.core c) e).weights ∧
        engineFrame s t c e ∧ t = { s with cores := t.cores, dies := t.dies })

/-- What a DRAIN takes awaits one no longer: its bank, or the first `n` results of its half where no more await it; the banks hold what they held (R85, R93). -/
def Sys2Proof.Machine.drainedOf (src n : Nat) (x y : Engine) : Prop :=
  y.bank0 = x.bank0 ∧ y.bank1 = x.bank1 ∧ y.await0 = (x.await0 && src != 0) ∧ y.await1 = (x.await1 && src != 1) ∧
  y.undrained0 = (if src = 2 ∧ x.undrained0 ≤ n then 0 else x.undrained0) ∧ y.undrained1 = (if src = 3 ∧ x.undrained1 ≤ n then 0 else x.undrained1) ∧
  y.weights = x.weights ∧ y.shadow = x.shadow ∧ y.mode = x.mode

/-- A drained bank stands in a run of one half, in the order in which it goes out; every other value of the halves is as before (R77, R85; which half and which run is
the model's choice, log entry 92). -/
def Sys2Proof.Machine.stagedIn (v : Nat → Nat) (x y : Engine) : Prop :=
  ∃ h lo, h < 2 ∧ lo + 16384 ≤ 131072 ∧ (∀ i, i < 16384 → (tabGet 0 (getHalf y h) (lo + i)).toNat = v i) ∧
    (∀ i, i < 131072 → i < lo ∨ lo + 16384 ≤ i → tabGet 0 (getHalf y h) i = tabGet 0 (getHalf x h) i) ∧ getHalf y (1 - h) = getHalf x (1 - h)

/-- R77, R85, R86, R89, R93, R121, R178. A DRAIN to a place that can be written stores what its bank or half holds, converted to its format, at D rounded down to a row (and the scales of a
Microscaling format at DS), whole 64-bit words with zeros after the last element; no other byte changes, and what it took awaits a DRAIN no longer. A bank goes out by way of the south collector. -/
def Sys2Proof.Machine.DrainStoresTheBank : Prop :=
  ∀ (c e : Nat) (s : State) (q : QEntry) (src fmt : Nat) (rnd sat : Bool) (d ds : Word) (n : Nat) (c0 field : Word) (k sk : Nat),
    isCore c = true → e < 2 → s.mem.wf = true → (eng (s.core c) e).errs = [] → src < 4 → s.headEng c e = some (q, .drain src fmt rnd sat d ds n c0 field) →
    (src < 2 ↔ (osRows (eng (s.core c) e).mode).isSome = true) →
    let r := convertAll fmt ((List.range n).map (drainValue (eng (s.core c) e) src ((osRows (eng (s.core c) e).mode).getD 128)))
      fun i v => narrow fmt (s.drainRound c e rnd c0 field i) sat v
    s.headWrite c (1 + e) q (alignTo 1024 d.toNat) r.1.length false = .inl k →
    (if isMx fmt then s.headWrite c (1 + e) q (alignTo 1024 ds.toNat) r.2.length false else .inl 0) = .inl sk →
    Runs (.drain c e none) s fun t =>
      (isMx fmt = false → readBytes t.mem k r.1.length = r.1 ∧ ∀ a, a < k ∨ k + roundUp r.1.length 8 ≤ a → readByte t.mem a = readByte s.mem a) ∧
      (isMx fmt = true → readBytes t.mem sk r.2.length = r.2 ∧ (∀ a, (a < k ∨ k + roundUp r.1.length 8 ≤ a) → (a < sk ∨ sk + roundUp r.2.length 8 ≤ a) →
        readByte t.mem a = readByte s.mem a) ∧ ((k + r.1.length ≤ sk ∨ sk + roundUp r.2.length 8 ≤ k) → readBytes t.mem k r.1.length = r.1)) ∧
      drainedOf src n (eng (s.core c) e) (eng (t.core c) e) ∧
      (src < 2 → stagedIn (drainValue (eng (s.core c) e) src ((osRows (eng (s.core c) e).mode).getD 128)) (eng (s.core c) e) (eng (t.core c) e)) ∧
      (2 ≤ src → ∀ h i, tabGet 0 (getHalf (eng (t.core c) e) h) i = tabGet 0 (getHalf (eng (s.core c) e) h) i) ∧
      performed s t c (1 + e) ∧ (∀ j, reg (t.core c) j = reg (s.core c) j) ∧
      (∀ g, g ≠ c → t.core g = s.core g) ∧ t = { s with cores := t.cores, mem := t.mem, marks := t.marks, fresh := t.fresh }

/-- R128, R129, R130, R131. An operation in which a check failed is performed all the same, and raises F_ARITH_CHECK, the first time of the core and job: a DRAIN and an EW on their halves whose
check failed, and a SWAP of a shadow that holds a double-bit error. A single-bit error in the shadow is corrected and counted by ENGINE. -/
def Sys2Proof.Machine.FailedChecksAreReported : Prop :=
  ∀ (c e : Nat) (s : State) (q : QEntry), isCore c = true → e < 2 →
    (s.arithTold c = false → s.hasRoom (c / 4) →
      (∀ src fmt rnd sat (d ds : Word) n (c0 field : Word) k u, (eng (s.core c) e).errs = [] → isMx fmt = false →
        (src < 2 ↔ (osRows (eng (s.core c) e).mode).isSome = true) → s.headEng c e = some (q, .drain src fmt rnd sat d ds n c0 field) →
        s.headWrite c (1 + e) q (alignTo 1024 d.toNat) (packElems (elemBits fmt) (List.replicate n 0)).length false = .inl k →
        Runs (.drain c e (some u)) s fun t => raised s t (c / 4) fArithCheck ∧ headDone t c (1 + e) ∧ s.fresh < t.fresh) ∧
      (∀ oper dest fx fy (a as y ys : Word) n u, (eng (s.core c) e).errs = [] → (eng (s.core c) e).mode = .elementwise →
        s.headEng c e = some (q, .ew oper 1 true dest fx fy a as y ys n) →
        Runs (.ew c e (some u)) s fun t => raised s t (c / 4) fArithCheck ∧ headDone t c (1 + e) ∧ t.fresh = s.fresh + 1) ∧
      (∀ w, w < 18432 → (eng (s.core c) e).errs = [(3 * 2 ^ 20 + w, .double)] → s.headEng c e = some (q, .swap) → isWs (eng (s.core c) e).mode = true →
        (eng (s.core c) e).shadowFull = true → Runs (.swap c e) s fun t =>
          raised s t (c / 4) fArithCheck ∧ headDone t c (1 + e) ∧ (eng (t.core c) e).weights = (eng (s.core c) e).shadow)) ∧
    (∀ w, w < 18432 → (eng (s.core c) e).errs = [(3 * 2 ^ 20 + w, .single)] → s.headEng c e = some (q, .swap) → isWs (eng (s.core c) e).mode = true →
      (eng (s.core c) e).shadowFull = true → Runs (.swap c e) s fun t =>
        (t.die (c / 4)).engineCe = min 0xFFF ((s.die (c / 4)).engineCe + 1) ∧ (t.die (c / 4)).ledger.held = (s.die (c / 4)).ledger.held ∧
        (eng (t.core c) e).errs = [] ∧ headDone t c (1 + e) ∧ (eng (t.core c) e).weights = (eng (s.core c) e).shadow)

/-- R105, R106, R159. An EW of up to one half's elements leaves, at every index of its half, the operation of its row on the element of its first source, of its second source (a port
element, or the scalar) and of the half; a source that is a half is read as it was; every other index stays. -/
def Obligations.ElementWiseOperationsApplyToEveryElement : Prop :=
  ∀ (c e : Nat) (s : State) (q : QEntry) (oper xsrc : Nat) (ysc : Bool) (dest fx fy : Nat) (a as y ys : Word) (n xk xsk yk ysk : Nat),
    isCore c = true → e < 2 → s.marks = [] → (eng (s.core c) e).errs = [] → dest < 2 → xsrc < 3 → n ≤ 131072 → s.headEng c e = some (q, .ew oper xsrc ysc dest fx fy a as y ys n) →
    (eng (s.core c) e).mode = .elementwise →
    (if xsrc = 0 then s.headRead c (1 + e) q (alignTo 1024 a.toNat) (portBytes fx n) false else .inl 0) = .inl xk →
    (if xsrc = 0 ∧ isMx fx = true then s.headRead c (1 + e) q (alignTo 1024 as.toNat) (ceilDiv n 32) false else .inl 0) = .inl xsk →
    (if ysc = false then s.northRead c e q (alignTo 1024 y.toNat) (portBytes fy n) else .inl 0) = .inl yk →
    (if ysc = false ∧ isMx fy = true then s.northRead c e q (alignTo 1024 ys.toNat) (ceilDiv n 32) else .inl 0) = .inl ysk →
    Runs (.ew c e none) s fun t =>
      let x := eng (s.core c) e
      (∀ i, i < n →
        let vx := if xsrc = 0 then portElem s.mem fx xk xsk i else (tabGet 0 (getHalf x (xsrc - 1)) i).toNat
        let vy := if ysc then y.toNat % 2 ^ 32 else portElem s.mem fy yk ysk i
        tabGet 0 (getHalf (eng (t.core c) e) dest) i = BitVec.ofNat 32 (ewValue oper vx vy (tabGet 0 (getHalf x dest) i).toNat)) ∧
      (∀ i, n ≤ i → tabGet 0 (getHalf (eng (t.core c) e) dest) i = tabGet 0 (getHalf x dest) i) ∧
      (∀ i, tabGet 0 (getHalf (eng (t.core c) e) (1 - dest)) i = tabGet 0 (getHalf x (1 - dest)) i) ∧
      engineFrame s t c e ∧ t = { s with cores := t.cores, dies := t.dies }

/-! ## The finishing unit and the mover (R160 to R172) -/

/-- A stream of elements stands at `k`, and for a Microscaling format its scales at `sk`, whole 64-bit words with zeros after the last byte; no other byte of
memory has changed. Where the two ranges meet, the scales, written last, stand. -/
def Sys2Proof.Machine.streamStored (s t : State) (fmt : Nat) (r : List Byte × List Byte) (k sk : Nat) : Prop :=
  (isMx fmt = false → readBytes t.mem k r.1.length = r.1 ∧ ∀ a, a < k ∨ k + roundUp r.1.length 8 ≤ a → readByte t.mem a = readByte s.mem a) ∧
  (isMx fmt = true → readBytes t.mem sk r.2.length = r.2 ∧ (k + r.1.length ≤ sk ∨ sk + roundUp r.2.length 8 ≤ k → readBytes t.mem k r.1.length = r.1) ∧
    ∀ a, a < k ∨ k + roundUp r.1.length 8 ≤ a → a < sk ∨ sk + roundUp r.2.length 8 ≤ a → readByte t.mem a = readByte s.mem a)

/-- A finishing operation whose streams can be reached applies `f` to every element, by index and value, narrows to FMT_OUT, and stores the result at D (its
scales at DS); no register changes. -/
def Sys2Proof.Machine.finishes (i : Nat → Instr) (k : FinK) (f : State → Nat → FinOp → Nat → Nat → Nat) : Prop :=
  ∀ (c : Nat) (s : State) (e : QEntry) (o : FinOp) (rk rsk dk dsk : Nat), isCore c = true → s.marks = [] → s.mem.wf = true → (s.core c).finErrs = [] → s.headFin c k = some (e, o) →
    s.headRead c uFinish e (alignTo 1024 o.s.toNat) (portBytes o.fmtIn o.n) false = .inl rk →
    (if isMx o.fmtIn then s.headRead c uFinish e (alignTo 1024 o.ss.toNat) (ceilDiv o.n 32) false else .inl 0) = .inl rsk →
    let r := convertAll o.fmtOut ((List.range o.n).map fun j => f s c o j (portElem s.mem o.fmtIn rk rsk j)) fun _ v => finNarrow o.fmtOut v
    s.headWrite c uFinish e (alignTo 1024 o.d.toNat) r.1.length false = .inl dk →
    (if isMx o.fmtOut then s.headWrite c uFinish e (alignTo 1024 o.ds.toNat) r.2.length false else .inl 0) = .inl dsk →
    Runs (i c) s fun t =>
      streamStored s t o.fmtOut r dk dsk ∧ (∀ j, reg (t.core c) j = reg (s.core c) j) ∧ performed s t c uFinish ∧ (∀ g, g ≠ c → t.core g = s.core g) ∧
      t = { s with cores := t.cores, mem := t.mem }

/-- A finishing operation in which a check fails (R128, R130): the first of the core and job raises F_ARITH_CHECK, and the operation is performed. FMT_OUT has no scales. -/
def Sys2Proof.Machine.finishUpset (i : Nat → Option Upset → Instr) (k : FinK) : Prop :=
  ∀ (c : Nat) (s : State) (e : QEntry) (o : FinOp) (u : Upset) (rk rsk dk : Nat), isCore c = true → s.marks = [] → (s.core c).finErrs = [] →
    s.headFin c k = some (e, o) → isMx o.fmtOut = false → s.arithTold c = false → s.hasRoom (c / 4) →
    s.headRead c uFinish e (alignTo 1024 o.s.toNat) (portBytes o.fmtIn o.n) false = .inl rk →
    (if isMx o.fmtIn then s.headRead c uFinish e (alignTo 1024 o.ss.toNat) (ceilDiv o.n 32) false else .inl 0) = .inl rsk →
    s.headWrite c uFinish e (alignTo 1024 o.d.toNat) (packElems (elemBits o.fmtOut) (List.replicate o.n 0)).length false = .inl dk →
    Runs (i c (some u)) s fun t => raised s t (c / 4) fArithCheck ∧ t.fresh = s.fresh + 1 ∧ performed s t c uFinish ∧ (∀ j, reg (t.core c) j = reg (s.core c) j)

/-- R129, R130, R170, R171. The functions of the finishing unit over their elements, and generator dropout: an element is kept, times the factor, exactly where its draw lies
below the threshold. One in which a check fails completes too, with F_ARITH_CHECK. -/
def Sys2Proof.Machine.FinishingFunctionsApplyToEveryElement : Prop :=
  finishes (.exp · none) .exp (fun _ _ _ _ v => finValue .exp v) ∧ finishes (.rcp · none) .rcp (fun _ _ _ _ v => finValue .rcp v) ∧
  finishes (.rsqrt · none) .rsqrt (fun _ _ _ _ v => finValue .rsqrt v) ∧ finishes (.gelu · none) .gelu (fun _ _ _ _ v => finValue .gelu v) ∧
  finishes (.silu · none) .silu (fun _ _ _ _ v => finValue .silu v) ∧ finishes (.cvt · none) .cvt (fun _ _ _ _ v => finValue .cvt v) ∧
  finishes (.drop · none) .drop (fun s c o i v => if draw24 (genWord (s.seedOf c) (s.finStream c 2 o) o.p0 i) < bits o.p2.toNat 0 24
    then fp32Mul v (bits o.p1.toNat 32 32) else 0) ∧
  finishUpset .exp .exp ∧ finishUpset .rcp .rcp ∧ finishUpset .rsqrt .rsqrt ∧ finishUpset .gelu .gelu ∧ finishUpset .silu .silu ∧ finishUpset .cvt .cvt ∧
  finishUpset .drop .drop

/-- R170. The special inputs of the functions: a NaN gives the quiet NaN, and the infinities and zeros give what the table says. On every other
input the result of EXP, RCP, RSQRT, GELU and SILU is free within the bound of its function: no smaller and no larger, in the order of fp32, than the outermost values there. -/
def Sys2Proof.Machine.FinishingSpecialInputs : Prop :=
  (∀ k v, f32IsNan v = true → finValue k v = f32Nan) ∧
  finValue .exp f32NegInf = 0 ∧ finValue .exp f32Inf = f32Inf ∧
  finValue .rcp 0 = f32Inf ∧ finValue .rcp f32NegZero = f32NegInf ∧ finValue .rcp f32Inf = 0 ∧ finValue .rcp f32NegInf = f32NegZero ∧
  finValue .rsqrt 0 = f32Inf ∧ finValue .rsqrt f32NegZero = f32NegInf ∧ finValue .rsqrt f32Inf = 0 ∧
  (∀ v, f32IsNan v = false → f32NegZero < v → finValue .rsqrt v = f32Nan) ∧
  finValue .gelu f32NegInf = 0 ∧ finValue .gelu f32Inf = f32Inf ∧ finValue .silu f32NegInf = 0 ∧ finValue .silu f32Inf = f32Inf ∧
  (∀ v, f32IsNan v = false → finValue .cvt v = v) ∧
  (∀ k v neg m x, k ∈ [FinK.exp, .rcp, .rsqrt, .gelu, .silu] → v < 2 ^ 32 → ofFp32 v = .fin neg m x → (m ≠ 0 ∨ k = .exp) → (k = .rsqrt → neg = false) →
    let r := finEncl k neg m x
    let lo := keyFrom (r.1 - finError k r)
    let hi := keyTo (r.2 + finError k r)
    lo ≤ hi → lo ≤ fp32Key (finValue k v) ∧ fp32Key (finValue k v) ≤ hi)

/-- R172. SAMPLE stores the index that it selects, as one 64-bit word at D rounded down to 8 bytes; an index is one of its weights', or 0xFFFF_FFFF where the total is zero or
infinite. No other byte changes. -/
def Sys2Proof.Machine.SampleStoresItsIndex : Prop :=
  (∀ (c : Nat) (s : State) (e : QEntry) (o : FinOp) (rk dk : Nat), isCore c = true → s.marks = [] → s.mem.wf = true → (s.core c).finErrs = [] → s.headFin c .sample = some (e, o) →
    s.headRead c uFinish e (alignTo 1024 o.s.toNat) (4 * o.n) false = .inl rk → s.headWrite c uFinish e (alignTo 8 o.d.toNat) 8 false = .inl dk →
    Runs (.sample c none) s fun t =>
      readBytes t.mem dk 8 = le 8 (sampleIndex ((List.range o.n).map fun i => sampleWeight (readLe s.mem (rk + 4 * i) 4))
        (draw24 (genWord (s.seedOf c) (s.finStream c 3 o) o.p0 0))) ∧
      (∀ a, a < dk ∨ dk + 8 ≤ a → readByte t.mem a = readByte s.mem a) ∧ (∀ j, reg (t.core c) j = reg (s.core c) j) ∧ performed s t c uFinish ∧
      t = { s with cores := t.cores, mem := t.mem }) ∧
  (∀ l u, (l.foldl fp32Add 0 = 0 ∨ l.foldl fp32Add 0 = f32Inf → sampleIndex l u = 0xFFFFFFFF) ∧
    (l ≠ [] → l.foldl fp32Add 0 ≠ 0 → l.foldl fp32Add 0 ≠ f32Inf → sampleIndex l u < l.length))

/-- R161, R178, R448. A COPY between two places of the shelves and lofts that it may reach moves its bytes, and a FILL writes its pattern over its range; no other byte changes. Where an end lies
in the cellar or the larder, the mover reads and writes by the accesses of those stores, in dynamic mode with a tracked request for each 4 KiB piece, as many as are free, and waits while none is.
A length of 0 moves nothing. None of the places waits (R26, R51, R283). -/
def Obligations.CopyAndFillMoveTheirBytes : Prop :=
  ∀ (c : Nat) (s : State) (e : QEntry) (p a d n : Word), isCore c = true →
    (s.headMover c = some (e, .copy a d n) → (isFar a.toNat && isFar d.toNat) = false → a.toNat % 8 = 0 → d.toNat % 8 = 0 → n.toNat % 8 = 0 → n ≠ 0 →
      s.copyWaits c a.toNat n.toNat = false → s.copyWaits c d.toNat n.toNat = false → ∀ a' d', s.nearest a.toNat = .here a' → s.nearest d.toNat = .here d' →
      meets a' n.toNat d' n.toNat = false → s.pinned d' n.toNat false = false → s.endGuard c false a' n.toNat = none → s.endGuard c true d' n.toNat = none →
      (∀ k l, s.marks = [] → s.mem.wf = true → s.copyEnd c a.toNat a' n.toNat false = .store k → s.copyEnd c d.toNat d' n.toNat true = .store l →
        Runs (.copy c) s fun t =>
          readBytes t.mem l n.toNat = readBytes s.mem k n.toNat ∧ (∀ b, b < l ∨ l + n.toNat ≤ b → readByte t.mem b = readByte s.mem b) ∧
          (∀ j, reg (t.core c) j = reg (s.core c) j) ∧ performed s t c uMover ∧ t = { s with cores := t.cores, mem := t.mem }) ∧
      (∀ src dst x tier, notLarder (isFar a.toNat || isFar d.toNat) (s.copyEnd c a.toNat a' n.toNat false) = src → s.copyEnd c d.toNat d' n.toNat true = dst →
        src ≠ .unmapped → src ≠ .invalid → dst ≠ .unmapped → dst ≠ .invalid → x = (s.core c).ctx.getD noCtx → tier = ((inTier src || inTier dst) && !s.schedCtx x) →
        (tier = true → s.trackedFree x = 0 → Runs (.copy c) s fun t => t = s) ∧
        (∀ u w l, (tier = true → s.trackedFree x ≠ 0) → s.readEnd c src n.toNat = .ok u l → u.writeEnd c dst l = some w → Runs (.copy c) s fun t =>
          t = w.doneHead c uMover (if tier then { e with tracked := min (ceilDiv n.toNat 4096) (s.trackedFree x) } else e)))) ∧
    (s.headMover c = some (e, .fill p d n) → s.marks = [] → s.mem.wf = true → isFar d.toNat = false → d.toNat % 8 = 0 → n.toNat % 8 = 0 → n ≠ 0 →
      s.copyWaits c d.toNat n.toNat = false → ∀ d' k, farOf d.toNat = .here d' → s.moverEnd c d' n.toNat true (!s.schedCtx ((s.core c).ctx.getD noCtx)) = .store k → s.pinned d' n.toNat false = false →
      s.endGuard c true d' n.toNat = none → Runs (.fill c) s fun t =>
        (∀ i, i < n.toNat / 8 → readLe t.mem (k + 8 * i) 8 = p.toNat) ∧ (∀ b, b < k ∨ k + n.toNat ≤ b → readByte t.mem b = readByte s.mem b) ∧
        (∀ j, reg (t.core c) j = reg (s.core c) j) ∧ performed s t c uMover ∧ t = { s with cores := t.cores, mem := t.mem }) ∧
    (s.headMover c = some (e, .copy a d 0) → (isFar a.toNat && isFar d.toNat) = false → (∀ g v, farOf d.toNat ≠ .tally g v) → Runs (.copy c) s fun t =>
      performed s t c uMover ∧ t = { s with cores := t.cores }) ∧
    (s.headMover c = some (e, .fill p d 0) → isFar d.toNat = false → Runs (.fill c) s fun t => performed s t c uMover ∧ t = { s with cores := t.cores })

/-- The places of a layout operation of an operand of at most `r` rows and `cc` columns can be reached: source, scales, and what it writes of its stream and its scale
stream, from `lo` and `slo` up to `db` and `sdb` in them. -/
def Sys2Proof.Machine.layoutReady (s : State) (c : Nat) (e : QEntry) (g : Stored) (r cc : Nat) (a sa d sd : Word) (lo slo db sdb dk sdk : Nat) : Prop :=
  s.marks = [] ∧ s.mem.wf = true ∧ s.headRows c e a.toNat g.stride (g.rowsRead r cc) (g.rowBytes r cc) = .inl g.key ∧
  (if isMx g.fmt then s.headRows c e sa.toNat g.sstride (g.rowsRead r cc) (g.rowScales r cc) else .inl 0) = .inl g.skey ∧
  s.headWrite c uMover e (alignTo 1024 d.toNat + lo) (db - lo) true = .inl (dk + lo) ∧
  (isMx g.fmt = true → s.headWrite c uMover e (alignTo 1024 sd.toNat + slo) (sdb - slo) true = .inl (sdk + slo)) ∧
  (isMx g.fmt = true → dk + db ≤ sdk + slo ∨ sdk + sdb ≤ dk + lo)

/-- What a layout operation leaves: no register changes, no byte outside what it writes of its stream and its scale stream. -/
def Sys2Proof.Machine.layoutFrame (s t : State) (c : Nat) (g : Stored) (lo slo db sdb dk sdk : Nat) : Prop :=
  (∀ a, a < dk + lo ∨ dk + db ≤ a → isMx g.fmt = false ∨ a < sdk + slo ∨ sdk + sdb ≤ a → readByte t.mem a = readByte s.mem a) ∧
  (∀ j, reg (t.core c) j = reg (s.core c) j) ∧ performed s t c uMover ∧ t = { s with cores := t.cores, mem := t.mem }

/-- R162, R163. SKEW_W puts k-step σ of operand row r into slot r of line σ + r of the west stream, from the next line of its chain on, zero beyond the operand; the first pass of a chain zeroes the slots
before it, the last those after it; the scales of a Microscaling format stand likewise. -/
def Sys2Proof.Machine.SkewWestWritesItsStream : Prop :=
  ∀ (c : Nat) (s : State) (e : QEntry) (t : Bool) (fmt : Nat) (a sa d sd geo geo2 : Word) (mode : Nat) (first last : Bool) (key skey dk sdk mt s0 k lo slo : Nat) (g : Stored),
    isCore c = true → mode < 5 → isOperand fmt = true → s.headMover c = some (e, .skewW t fmt a sa d sd geo geo2 mode first last) →
    g = storedOf t fmt key skey geo.toNat geo2.toNat → mt = osRowsOf mode → s0 = bits geo2.toNat 0 32 → k = ceilDiv g.opCols (lanesOf fmt) →
    lo = (if first then 0 else s0) / (128 / mt) * 1024 → slo = (if first then 0 else s0) / 8 * 1024 →
    layoutReady s c e g mt g.opCols a sa d sd lo slo (ceilDiv (s0 + k + mt - 1) (128 / mt) * 1024) (scaleBytes (s0 + k + mt - 1)) dk sdk →
    Runs (.skewW c) s fun u =>
      (∀ r i, r < mt → i < k → westSlot u.mem dk mt (s0 + i + r) r = packSlot fmt fun l => g.elem s.mem r (lanesOf fmt * i + l)) ∧
      (first = true → ∀ r l, r < mt → l < r → westSlot u.mem dk mt l r = 0) ∧
      (last = true → ∀ r l, r < mt → s0 + k + r ≤ l → l < s0 + k + mt - 1 → westSlot u.mem dk mt l r = 0) ∧
      (isMx fmt = true → ∀ r i, r < mt → i < k → scaleSlot u.mem fmt sdk (s0 + i + r) r = g.scale s.mem r (lanesOf fmt * i)) ∧
      layoutFrame s u c g lo slo (ceilDiv (s0 + k + mt - 1) (128 / mt) * 1024) (scaleBytes (s0 + k + mt - 1)) dk sdk

/-- R162, R164. SKEW_N puts k-step σ of operand column 128 × g + c into slot c of group line (σ + c, g) of the north stream, zero beyond the operand; the first and last passes of a chain zero the slots
before and after. -/
def Sys2Proof.Machine.SkewNorthWritesItsStream : Prop :=
  ∀ (c : Nat) (s : State) (e : QEntry) (t : Bool) (fmt : Nat) (a sa d sd geo geo2 : Word) (mode : Nat) (first last : Bool) (key skey dk sdk gr s0 k lo slo : Nat) (g : Stored),
    isCore c = true → mode < 5 → isOperand fmt = true → s.headMover c = some (e, .skewN t fmt a sa d sd geo geo2 mode first last) →
    g = storedOf t fmt key skey geo.toNat geo2.toNat → gr = 128 / osRowsOf mode → s0 = bits geo2.toNat 0 32 → k = ceilDiv g.opRows (lanesOf fmt) →
    lo = (if first then 0 else s0) * gr * 1024 → slo = (if first then 0 else s0) * gr / 8 * 1024 →
    layoutReady s c e g g.opRows (128 * gr) a sa d sd lo slo ((s0 + k + 127) * gr * 1024) (scaleBytes ((s0 + k + 127) * gr)) dk sdk →
    Runs (.skewN c) s fun u =>
      (∀ gi j i, gi < gr → j < 128 → i < k → northSlot u.mem dk gr (s0 + i + j) gi j = packSlot fmt fun l => g.elem s.mem (lanesOf fmt * i + l) (128 * gi + j)) ∧
      (first = true → ∀ gi j l, gi < gr → j < 128 → l < j → northSlot u.mem dk gr l gi j = 0) ∧
      (last = true → ∀ gi j l, gi < gr → j < 128 → s0 + k + j ≤ l → l < s0 + k + 127 → northSlot u.mem dk gr l gi j = 0) ∧
      (isMx fmt = true → ∀ gi j i, gi < gr → j < 128 → i < k →
        scaleSlot u.mem fmt sdk ((s0 + i + j) * gr + gi) j = g.scale s.mem (lanesOf fmt * i) (128 * gi + j)) ∧
      layoutFrame s u c g lo slo ((s0 + k + 127) * gr * 1024) (scaleBytes ((s0 + k + 127) * gr)) dk sdk

/-- R162, R165. LAYOUT_WS writes the 128 lines of a weight tile: slot c of line j holds the operand elements of its rows and column by form, zero beyond the operand, and the scales stand likewise. -/
def Sys2Proof.Machine.LayoutWritesTheWeightTile : Prop :=
  ∀ (c : Nat) (s : State) (e : QEntry) (t : Bool) (fmt : Nat) (a sa d sd geo geo2 : Word) (mode key skey dk sdk : Nat) (g : Stored),
    isCore c = true → (mode = 8 ∨ mode = 9) → isOperand fmt = true → s.headMover c = some (e, .layoutWs t fmt a sa d sd geo geo2 mode) →
    g = storedOf t fmt key skey geo.toNat geo2.toNat → 
    layoutReady s c e g (lanesOf fmt * (if mode = 8 then 128 else 32)) (if mode = 8 then 128 else 512) a sa d sd 0 0 131072 (scaleBytes 128) dk sdk →
    Runs (.layoutWs c) s fun u =>
      (∀ j cc, j < 128 → cc < 128 → readLe u.mem (dk + j * 1024 + cc * 8) 8 =
        packSlot fmt fun l => g.elem s.mem (wsPlace fmt mode j cc l).1 (wsPlace fmt mode j cc l).2) ∧
      (isMx fmt = true → ∀ j cc, j < 128 → cc < 128 → (readByte u.mem (sdk + j * 128 + cc)).toNat = g.scale s.mem (wsPlace fmt mode j cc 0).1 (wsPlace fmt mode j cc 0).2) ∧
      layoutFrame s u c g 0 0 131072 (scaleBytes 128) dk sdk

/-! ## Cellar and larder (R266 to R289, R534 to R548) -/

/-- An access that does not wait: no die that it reaches has tripped (R491), and its traffic is of class 1 or nothing there holds the others (R283, R490). -/
def Sys2Proof.Machine.notHeld (s : State) (x : Accessor) (a n : Nat) : Prop :=
  s.trafficStopped a n = false ∧ (s.trafficHeld a n = false ∨ classOne x = true)

/-- A write that no pin turns away (R232). -/
def Sys2Proof.Machine.notPinned (s : State) (x : Accessor) (a n : Nat) : Prop := s.pinned a n false = false ∨ writesPinned x = true

/-- A range of mapped cellar bytes that an agent may read, where nothing is lost and no error stands (R269, R282, R538). -/
def Sys2Proof.Machine.clearRead (s : State) (x : Accessor) (a n : Nat) : Prop :=
  s.locate a n = .cellar a ∧ s.cellarMapped a n = true ∧ s.mayRead x a n = true ∧ s.lostAt a n = none ∧ s.marksIn a n = []

/-- A range of mapped cellar bytes that an agent may write, where nothing is lost. -/
def Sys2Proof.Machine.clearWrite (s : State) (x : Accessor) (a n : Nat) : Prop :=
  s.locate a n = .cellar a ∧ s.cellarMapped a n = true ∧ s.mayWrite x a n = true ∧ s.lostAt a n = none

/-- R232, R272, R282, R538. A read of mapped cellar bytes that its key set owns, with no error in them, answers them and changes no byte. A write of bytes that its key set owns or nobody owns
puts them in place, changes no other byte, and claims the granules that nobody owned; one of a context that falls on frames without backing store alone writes nothing and raises F_MEM_UNCORR.
A write that is neither an update station's nor scrub's into a pinned region is not performed, and raises F_WEIGHTS_PINNED. -/
def Sys2Proof.Machine.CellarReadsAndWrites : Prop :=
  ∀ (x : Accessor) (a n : Nat) (l : List Byte) (s : State), accOk x = true →
    (s.locate a n = .cellar a → s.cellarMapped a n = true → s.mayRead x a n = true → s.lostAt a n = none → s.marksIn a n = [] → notHeld s x a n →
      Runs (.cellarRead x a n) s fun t =>
        t.answers = s.answers ++ [{ kind := "cellarRead", who := a, words := wordsOf (readBytes s.mem a n) }] ∧
        t = { s with dies := t.dies, answers := t.answers }) ∧
    (s.mem.wf = true → l ≠ [] → s.locate a l.length = .cellar a → s.cellarMapped a l.length = true → s.mayWrite x a l.length = true → s.lostAt a l.length = none →
      notHeld s x a l.length → notPinned s x a l.length → Runs (.cellarWrite x a l) s fun t =>
        readBytes t.mem a l.length = l ∧ (∀ b, b < a ∨ a + l.length ≤ b → readByte t.mem b = readByte s.mem b) ∧
        (∀ g, t.owner g = if g ∈ granules a l.length ∧ s.owner g = .unowned then s.accKeys x else s.owner g) ∧
        t = { s with dies := t.dies, mem := t.mem, owners := t.owners, written := t.written, marks := t.marks }) ∧
    (∀ c b, x = .context c → (s.ctx c).memLines = [] → s.hasRoom (68 + cellarOf b) → l ≠ [] → s.locate a l.length = .cellar a → s.cellarMapped a l.length = true →
      s.mayWrite x a l.length = true → s.lostAt a l.length = some b → (∀ p ∈ framePieces a l.length, (s.lostAt p.2.1 p.2.2).isSome = true) → notHeld s x a l.length → notPinned s x a l.length →
      Runs (.cellarWrite x a l) s fun t => raised s t (68 + cellarOf b) fMemUncorr ∧ t.mem = s.mem ∧ t.written = s.written) ∧
    (s.pinned a l.length false = true → writesPinned x = false → notHeld s x a l.length → s.hasRoom (68 + cellarOf a) →
      Runs (.cellarWrite x a l) s fun t => raised s t (68 + cellarOf a) fWeightsPinned ∧ t = { s with dies := t.dies }) ∧
    (s.trafficStopped a n = true → Runs (.cellarRead x a n) s fun t => t = s)

/-- R42, R538. An access whose key set does not own the granule is not performed: F_ADDR_UNMAPPED is raised on the cellar die, and memory and its owners stay. -/
def Sys2Proof.Machine.ForeignGranulesAreRefused : Prop :=
  ∀ (x : Accessor) (a n : Nat) (l : List Byte) (s : State), accOk x = true → s.hasRoom (68 + cellarOf a) →
    (s.mayRead x a n = false → s.locate a n = .cellar a → notHeld s x a n → Runs (.cellarRead x a n) s fun t =>
      raised s t (68 + cellarOf a) fAddrUnmapped ∧ t = { s with dies := t.dies }) ∧
    (s.mayWrite x a l.length = false → s.locate a l.length = .cellar a → notHeld s x a l.length → notPinned s x a l.length → Runs (.cellarWrite x a l) s fun t =>
      raised s t (68 + cellarOf a) fAddrUnmapped ∧ t = { s with dies := t.dies })

/-- R273, R275, R277. Patrol scrub, on a channel that carries frames, of a frame with one single-bit error corrects it, counts it on the channel, and writes the line back unless it was written meanwhile; with one double-bit error
in a line that nobody owns it raises F_MEM_UNCORR; it changes no byte. -/
def Sys2Proof.Machine.PatrolScrubCorrectsAndReports : Prop :=
  ∀ (ch i k w : Nat) (raced : List Nat) (s : State), isChannel ch = true → i < 1048576 → inService (s.channel ch).st = true → (s.channel ch).held = false →
    s.frameAt ch i = some k →
    (s.marksIn (frameAddr (k / 4194304) (k % 4194304)) frameBytes = [(w, .single)] → Runs (.patrolScrub ch i raced) s fun t =>
      (t.channel ch).ce = min 0xFFFF ((s.channel ch).ce + 1) ∧
      tabGet .clean t.marks w = (if alignTo 64 (w * 8) ∈ raced then tabGet .clean s.marks w else .clean) ∧
      t = { s with dies := t.dies, channels := t.channels, frames := t.frames, marks := t.marks }) ∧
    (s.marksIn (frameAddr (k / 4194304) (k % 4194304)) frameBytes = [(w, .double)] → s.memParty .scrub (w * 8) = [] → s.hasRoom (68 + cellarOf (w * 8)) →
      Runs (.patrolScrub ch i raced) s fun t =>
        (t.channel ch).ue = true ∧ raised s t (68 + cellarOf (w * 8)) fMemUncorr ∧ t = { s with dies := t.dies, channels := t.channels })

/-- R274, R283. A frame with 64 corrections within 24 hours moves to a free spare frame of another channel, one that holds no traffic of its class, and counts from nothing there; one with fewer stays, and so does one without backing store, or whose die's
remap table is full (R270, R282). -/
def Sys2Proof.Machine.WornFramesMove : Prop :=
  ∀ (d f : Nat) (s : State), isCellar d = true → f < 4194304 →
    (64 ≤ s.recentCorrections (frameKey (d - 68) f) (s.count d) → s.marks = [] → s.unbacked (frameKey (d - 68) f) = false →
      (s.channel (s.frameChannel (frameKey (d - 68) f))).held = false → s.tableRoom (frameKey (d - 68) f) = true →
      (∃ c ∈ otherChannels (s.frameChannel (frameKey (d - 68) f)), (s.channel c).held = false ∧ (s.freeSpare c).isSome = true) → Runs (.frameMigrate d f) s fun t =>
        (∃ c j, (t.frame (frameKey (d - 68) f)).remap = some (c, j) ∧ c ∈ otherChannels (s.frameChannel (frameKey (d - 68) f)) ∧ (s.channel c).held = false ∧ s.freeSpare c = some j ∧
          t.frameChannel (frameKey (d - 68) f) = c) ∧
        (t.frame (frameKey (d - 68) f)).corrections = [] ∧ (∀ k, k ≠ frameKey (d - 68) f → t.frame k = s.frame k) ∧ t = { s with dies := t.dies, frames := t.frames }) ∧
    (s.recentCorrections (frameKey (d - 68) f) (s.count d) < 64 ∨ s.unbacked (frameKey (d - 68) f) = true ∨ s.tableRoom (frameKey (d - 68) f) = false → Runs (.frameMigrate d f) s fun t => t = s)

/-- R278, R280, R282, R395. CHANNEL_DRAINED moves what still lies on a draining channel; with no frame left on it the channel is DRAINED, in reset and without clocks, and its command ends
with the number of frames moved. A channel in service that fails is FAILED, with its frames that are not remapped unbacked, F_CH_FAIL raised once, and a command on it ended with error. The return of a module
that passes makes its channel ACTIVE with its own frames back on it, those that had lost their store reading zero, but for a frame whose spare frame has no backing store, which stays there; one that does
not pass leaves it FAILED. -/
def Sys2Proof.Machine.ChannelsDrainFailAndReturn : Prop :=
  ∀ (ch : Nat) (s : State) (q : QRef) (x : Queue) (p : Pending) (l : List Pending) (m : ModuleRead), isChannel ch = true → (s.channel ch).drainQ = some q → s.queue? q = some x →
    x.cmds = p :: l →
    ((s.channel ch).st = .draining → Runs (.channelDrained ch) s fun t =>
      (t.toMove ch = [] ∧ (t.channel ch).st = .drained ∧ (t.channel ch).drainQ = none ∧ (t.channel ch).resetN = true ∧ (t.channel ch).clocksOff = true ∨
       t.toMove ch ≠ [] ∧ (t.channel ch).st = .draining ∧ (t.channel ch).drainQ = some q) ∧
      (s.toMove ch = [] → (t.queue q).cmds = { p with outcome := some { result := (s.channel ch).moved } } :: l) ∧
      t.mem = s.mem ∧ (∀ c, c ≠ ch → (t.channel c).st = (s.channel c).st)) ∧
    (inService (s.channel ch).st = true → (s.channel ch).failTold = false → s.hasRoom (68 + ch / 4) → Runs (.channelFail ch) s fun t =>
      (t.channel ch).st = .failed ∧ (t.channel ch).unbacked = true ∧ (t.channel ch).failTold = true ∧ raised s t (68 + ch / 4) fChFail ∧
      (t.queue q).cmds = { p with outcome := some { status := 1, result := (s.channel ch).moved } } :: l ∧
      t = { s with dies := t.dies, channels := t.channels, queues := t.queues }) ∧
    ((s.channel ch).st = .returning → modulePasses m = true → s.returnHeld ch = false → s.mem.wf = true → Runs (.channelReturned ch m) s fun t =>
      (t.channel ch).st = .active ∧ (t.channel ch).unbacked = false ∧ (t.channel ch).module = returning m ∧
      (∀ k, homeChannel k = ch → (t.frame k).remap = if s.frameChannel k = ch ∨ s.unbacked k = false then none else (s.frame k).remap) ∧
      (∀ k, homeChannel k ≠ ch → (t.frame k).remap = (s.frame k).remap) ∧
      (t.queue q).cmds = { p with outcome := some { result := ((tabKeys s.frames fun k f => f.remap.isSome && decide (homeChannel k = ch)).filter fun k =>
        s.frameChannel k == ch || !s.unbacked k).length } } :: l ∧
      ((s.channel ch).unbacked = false → t.mem = s.mem) ∧
      ((s.channel ch).unbacked = true → ∀ k ∈ s.framesOn ch ++ s.guests ch, ∀ b, b < frameBytes → readByte t.mem (frameAddr (k / 4194304) (k % 4194304) + b) = 0)) ∧
    ((s.channel ch).st = .returning → modulePasses m = true → s.returnHeld ch = true → Runs (.channelReturned ch m) s fun t => t = s) ∧
    ((s.channel ch).st = .returning → modulePasses m = false → Runs (.channelReturned ch m) s fun t =>
      (t.channel ch).st = .failed ∧ (∀ k, t.frame k = s.frame k) ∧ (t.queue q).cmds = { p with outcome := some { status := 1 } } :: l ∧ t.mem = s.mem)

/-- R283. A module above 85 °C refreshes at the double rate, above 95 °C it is HOT and holds class 2 and 3 traffic (quarter degrees); a parity or CRC alert counts its retries, up to four, and fails the
channel where they do not recover it; sixteen MRCD violations within 1 ms fail it. -/
def Sys2Proof.Machine.ModuleEvents : Prop :=
  ∀ (ch : Nat) (s : State), isChannel ch = true →
    (∀ v, Runs (.spdTempPoll ch v) s fun t =>
      (t.channel ch).temp = v ∧ ((t.channel ch).doubled = true ↔ 4 * 85 < v) ∧ ((t.channel ch).hot = true ↔ 4 * 95 < v) ∧ ((t.channel ch).held = true ↔ 4 * 95 < v) ∧
      (t.channel ch).st = (s.channel ch).st ∧ (∀ c, c ≠ ch → t.channel c = s.channel c) ∧ t = { s with dies := t.dies, channels := t.channels }) ∧
    (∀ i n, (i = .caParityAlert ch n true ∨ i = .writeCrcAlert ch n true) → n ≤ 4 → Runs i s fun t =>
      t.channel ch = { s.channel ch with ce := min 0xFFFF ((s.channel ch).ce + n) } ∧ (∀ c, c ≠ ch → t.channel c = s.channel c) ∧ t = { s with channels := t.channels }) ∧
    (∀ i n, (i = .caParityAlert ch n false ∨ i = .writeCrcAlert ch n false) → Runs i s fun t => (t.channel ch).st = .failed ∧ (∀ c, c ≠ ch → t.channel c = s.channel c)) ∧
    (Runs (.mrcdViolation ch) s fun t =>
      (t.channel ch).mrcdAt = ((s.channel ch).mrcdAt.filter fun u => s.count (68 + ch / 4) < u + 1000000) ++ [s.count (68 + ch / 4)] ∧
      ((t.channel ch).st = if 16 ≤ (t.channel ch).mrcdAt.length then .failed else (s.channel ch).st) ∧ (∀ c, c ≠ ch → t.channel c = s.channel c))

/-- R279, R284, R548. CL_CFG takes SCRUB_HOURS from 1 to 168 at any time, and SPARE, 0 or a multiple of 8 from 21,848 up, before the first context is admitted; the tag store then starts with no sector written,
and frames of channels that failed at start-up are remapped or unmapped anew (R282). -/
def Sys2Proof.Machine.CellarConfigurationIsClamped : Prop :=
  ∀ (v : Word) (s : State), Runs (.clCfgWrite v) s fun t =>
    1 ≤ t.scrubHours ∧ t.scrubHours ≤ 168 ∧ (1 ≤ bits v.toNat 16 8 → bits v.toNat 16 8 ≤ 168 → t.scrubHours = bits v.toNat 16 8) ∧
    (s.admitted = true → t = { s with scrubHours := t.scrubHours }) ∧
    (s.admitted = false → t.spareFrames % 8 = 0 ∧ (t.spareFrames = 0 ∨ 21848 ≤ t.spareFrames) ∧ t.written = [] ∧
      (bits v.toNat 0 16 % 8 = 0 → 21848 ≤ bits v.toNat 0 16 → t.spareFrames = bits v.toNat 0 16)) ∧
    t = { s with scrubHours := t.scrubHours, spareFrames := t.spareFrames, written := t.written, frames := t.frames, channels := t.channels, marks := t.marks }

/-- R286. A read within one page of the larder answers its bytes while the page has at most 72 corrections, and counts a page with more than 36 as weak; beyond 72 it raises F_LARDER_UNCORR:
a context still gets the data, and an injection or an update none. -/
def Sys2Proof.Machine.LarderReads : Prop :=
  ∀ (x : Accessor) (a n corr : Nat) (s : State), accOk x = true → s.locate a n = .larder a → notHeld s x a n → a / 4096 = (a + max n 1 - 1) / 4096 → (s.die (larderDieOf a)).failed = none →
    (corr ≤ 72 → Runs (.larderRead x a n [corr]) s fun t =>
      t.answers = s.answers ++ [{ kind := "larderRead", who := a, words := wordsOf (readBytes s.mem a n) }] ∧ tabGet 0 t.pageErrs (a / 4096) = corr ∧
      (t.die (larderDieOf a)).weak = (if 36 < corr then min 0xFFFF ((s.die (larderDieOf a)).weak + 1) else (s.die (larderDieOf a)).weak) ∧
      t = { s with dies := t.dies, answers := t.answers, pageErrs := t.pageErrs }) ∧
    (∀ c, 72 < corr → x = .context c → (s.ctx c).memLines = [] → s.hasRoom (larderDieOf a) → Runs (.larderRead x a n [corr]) s fun t =>
      raised s t (larderDieOf a) fLarderUncorr ∧
      t.answers = s.answers ++ [{ kind := "larderRead", who := a, words := wordsOf (readBytes s.mem a n) }] ∧ t.mem = s.mem) ∧
    (∀ w, 72 < corr → x = .injection w ∨ x = .station w → s.memParty x a = [] → s.hasRoom (larderDieOf a) → Runs (.larderRead x a n [corr]) s fun t =>
      raised s t (larderDieOf a) fLarderUncorr ∧ t.answers = s.answers ∧ t.mem = s.mem)

/-- R283, R545. Once a cellar die has zeroed the tags of its ERASING granules, each of them whose tags no channel holds back reads as zero and is UNOWNED; every granule that was not ERASING, or lies on another die, keeps its owner and its bytes. -/
def Sys2Proof.Machine.ErasedGranulesReadZero : Prop :=
  ∀ (d : Nat) (s : State), isCellar d = true → Runs (.tagErase d) s fun t =>
    (∀ g, g % 12 = d - 68 → s.owner g = .erasing → (s.channel (s.frameChannel (s.tagFrame g))).held = false → t.owner g = .unowned ∧ ∀ b, b < granuleBytes → readByte t.mem (g * granuleBytes + b) = 0) ∧
    (∀ a, (∀ e ∈ s.owners, e.1 = a / granuleBytes → e.2 = .erasing → e.1 % 12 ≠ d - 68) →
      readByte t.mem a = readByte s.mem a ∧ t.owner (a / granuleBytes) = s.owner (a / granuleBytes)) ∧
    t = { s with owners := t.owners, mem := t.mem, written := t.written, marks := t.marks }

/-! ## Scrub, the weight ring and training (R190 to R235) -/

/-- R190, R192. A scrub of a core's shelf, or of a die's loft, leaves every byte of it zero and every other byte as it was; the core's registers, queues and engines are cleared, and its tallies stay.
The parks of bound sets in a loft keep their contents (R214; the model's choice, log entry 81). A row that fails its verification raises F_SCRUB_FAIL and marks the store. -/
def Sys2Proof.Machine.ScrubZeroesTheStore : Prop :=
  ∀ (d k : Nat) (s : State), isCompute d = true →
    (k < 4 → (s.core (4 * d + k)).scrubbing = true → Runs (.scrub d k none) s fun t =>
      (∀ a, a < shelfBytes → readByte t.mem (shelfKey (4 * d + k) 0 + a) = 0) ∧
      (∀ a, a < shelfKey (4 * d + k) 0 ∨ shelfKey (4 * d + k) 0 + shelfBytes ≤ a → readByte t.mem a = readByte s.mem a) ∧
      (∀ j, reg (t.core (4 * d + k)) j = 0) ∧ (∀ u, unitQueue (t.core (4 * d + k)) u = []) ∧ (∀ e, eng (t.core (4 * d + k)) e = {}) ∧
      (t.core (4 * d + k)).tallies = (s.core (4 * d + k)).tallies ∧ (∀ c, c ≠ 4 * d + k → t.core c = s.core c) ∧
      t = { s with cores := t.cores, mem := t.mem, marks := t.marks }) ∧
    (k < 4 → (s.core (4 * d + k)).scrubbing = true → s.hasRoom d → ∀ r, Runs (.scrub d k (some r)) s fun t =>
      raised s t d fScrubFail ∧ (t.core (4 * d + k)).scrubFail = true ∧ ∀ a, a < shelfBytes → readByte t.mem (shelfKey (4 * d + k) 0 + a) = 0) ∧
    ((s.die d).loftBusy = true → Runs (.scrub d 4 none) s fun t =>
      (∀ a, a < loftBytes → (∀ r ∈ s.parksOn d, a < r.1 ∨ r.1 + r.2 ≤ a) → readByte t.mem (loftKey d a) = 0) ∧
      (∀ r ∈ s.parksOn d, ∀ a, r.1 ≤ a → a < r.1 + r.2 → readByte t.mem (loftKey d a) = readByte s.mem (loftKey d a)) ∧ (∀ a, a < loftKey d 0 ∨ loftKey d 0 + loftBytes ≤ a → readByte t.mem a = readByte s.mem a) ∧
      (∀ i, (s.slot d i).st ≠ .empty → (t.slot d i).st = .empty) ∧ t = { s with dies := t.dies, mem := t.mem, marks := t.marks }) ∧
    (k < 4 → (s.core (4 * d + k)).scrubbing = true → Runs (.scrubEnd d k) s fun t =>
      (t.core (4 * d + k)).scrubbing = false ∧ (t.core (4 * d + k)).openMesh = true ∧ t.mem = s.mem) ∧
    ((s.die d).loftBusy = true → Runs (.scrubEnd d 4) s fun t => (t.die d).loftBusy = false ∧ t.mem = s.mem)

/-- STEPS of the tile of entry `i` of a set reads as `q` says, after which the state is `v`; a serving set has no STEPS (R222, R227). -/
def Sys2Proof.Machine.stepsSay (s : State) (k : Nat) (w : WeightSet) (i : Nat) (q : Nat → Prop) (v : State) : Prop :=
  w.kind ≠ 0 ∧ ∃ l, s.memRead (.injection k) (stepsAddr w (w.entries.getD i {}).tile) 4 = .ok v l ∧ q (ofLe l)

/-- The update of the pass before has been applied to the tile of entry `i`, and the state is `v` once that is known (R227). -/
def Sys2Proof.Machine.stepDone (s : State) (k : Nat) (w : WeightSet) (i : Nat) (v : State) : Prop :=
  w.kind = 0 ∧ v = s ∨ stepsSay s k w i (· = passStep w (w.entries.getD i {}).tile (passOf w i)) v

/-- It has not. -/
def Sys2Proof.Machine.stepWaits (s : State) (k : Nat) (w : WeightSet) (i : Nat) (v : State) : Prop :=
  stepsSay s k w i (· ≠ passStep w (w.entries.getD i {}).tile (passOf w i)) v

/-- R207, R227, R275, R595. 4 µs before its injection count a crate's payload is read from the entry's source, and stands ready, a training tile's once its step has been applied; a read that the map or the
owner rejects raises F_ADDR_UNMAPPED at the die that would inject it, and nothing stands ready. A cellar or larder die that has tripped holds the read (R491). -/
def Sys2Proof.Machine.PayloadsAreReadAhead : Prop :=
  ∀ (k i : Nat) (s v : State) (w : WeightSet) (e : PlanEntry), isWsid k = true → s.set? k = some w → w.inLaunch = true → w.entries[i]? = some e →
    (s.trafficStopped e.src e.length = true → Runs (.payloadReadStart k i) s fun t => t = s) ∧
    (s.trafficStopped e.src e.length = false → (w.kind = 0 ∨ s.trafficStopped (stepsAddr w e.tile) 4 = false) →
    (stepDone s k w i v →
      (∀ u l, v.memRead (.injection k) e.src e.length = .ok u l → Runs (.payloadReadStart k i) s fun t =>
        (∃ w', t.set? k = some w' ∧ tabGet [] w'.ready i = l ∧ w' = { w with ready := w'.ready }) ∧ t.mem = s.mem ∧ t.crates = s.crates) ∧
      (v.memRead (.injection k) e.src e.length = .unmapped → v.hasRoom (s.injectDie w i true) → Runs (.payloadReadStart k i) s fun t =>
        raised v t (s.injectDie w i true) fAddrUnmapped ∧ t = { v with dies := t.dies })) ∧
    (stepWaits s k w i v → Runs (.payloadReadStart k i) s fun t => t = v) ∧
    (w.kind ≠ 0 → s.memRead (.injection k) (stepsAddr w e.tile) 4 = .unmapped → s.hasRoom (68 + cellarOf (stepsAddr w e.tile)) → Runs (.payloadReadStart k i) s fun t =>
      raised s t (68 + cellarOf (stepsAddr w e.tile)) fAddrUnmapped ∧ t = { s with dies := t.dies }))

/-- R200, R201, R205, R207. The entry that is next enters the ring, once its injection count has come, as a new crate with the header that its plan entry gives it, the count of its die and the number of the
injection, and the set goes on to the next entry; before the count nothing happens. One that is not ready is late in scheduled mode, and waits in dynamic mode. -/
def Sys2Proof.Machine.CratesAreInjectedInPlanOrder : Prop :=
  ∀ (k i : Nat) (s v : State) (w : WeightSet) (e : PlanEntry), isWsid k = true → s.set? k = some w → w.entries[i]? = some e → w.park = false → w.inLaunch = true →
    w.nextEntry = i → w.passInLaunch < w.passes → s.heldBack k ((dieStop (s.injectDie w i false)).getD 0) e.dir = false →
    (s.injectDue w i (s.injectDie w i false) = false → Runs (.crateInject k i) s fun t => t = s) ∧
    (∀ l, s.injectDue w i (s.injectDie w i false) = true → stepDone s k w i v → s.payloadOf w i = some l → (w.kind = 0 ∨ i ≠ 0) → Runs (.crateInject k i) s fun t =>
      (∃ x, t.crate? s.crateNext = some x ∧ x.payload = l ∧ x.hdr.wsid = k ∧ x.hdr.tile = e.tile ∧ x.hdr.length = e.length ∧ x.hdr.dir = e.dir ∧ x.hdr.laps = 0 ∧
        x.hdr.injTime = s.count (s.injectDie w i false) ∧ x.hdr.injCount = (w.passesDone * w.entries.length + i) % 2 ^ 64 ∧
        x.stop = (dieStop (s.injectDie w i false)).getD 0) ∧
      (∀ j, j ≠ s.crateNext → t.crate? j = s.crate? j) ∧ t.crateNext = s.crateNext + 1 ∧
      (∃ w', t.set? k = some w' ∧ (if i + 1 < w.entries.length then w'.nextEntry = i + 1 ∧ w'.passesDone = w.passesDone
        else w'.nextEntry = 0 ∧ w'.passesDone = w.passesDone + 1 ∧ w'.passInLaunch = w.passInLaunch + 1))) ∧
    (s.injectDue w i (s.injectDie w i false) = true → (stepDone s k w i v ∧ s.payloadOf w i = none ∨ stepWaits s k w i v) →
      (v.setSched w = true → v.hasRoom (s.injectDie w i false) → Runs (.crateInject k i) s fun t =>
        raised v t (s.injectDie w i false) fSlotLate ∧ (∀ j, t.crate? j = s.crate? j)) ∧
      (v.setSched w = false → Runs (.crateInject k i) s fun t => t = v))

/-- R29, R196, R202, R210, R212, R213. At each stop in its direction a crate in error is removed and reported, by header or by data; one that is due at no die there goes on; one that is due, with its slots EMPTY,
lands: its payload stands in the loft of the die, the slot is LANDING, and the die is missed no longer; one that no die misses leaves at its home stop, into recirculation while a later pass takes it, and one
that some die misses goes round again. A stop in bypass forwards it unchanged. -/
def Sys2Proof.Machine.CratesPassLandOrLeave : Prop :=
  ∀ (k p : Nat) (s : State) (x y : Crate), isStop p = true → s.crate? k = some x → x.heldAt = none → nextStop x.stop x.hdr.dir = p → y = { x with stop := p, hops := x.hops + 1 } →
    (∀ u, (s.die (stopDie p)).bypass = true → Runs (.crateArrive k p u) s fun t =>
      t.crate? k = some y ∧ (∀ j, j ≠ k → t.crate? j = s.crate? j) ∧ t = { s with crates := t.crates }) ∧
    ((s.die (stopDie p)).bypass = false →
      (∀ n, s.hasRoom (stopDie p) → Runs (.crateArrive k p (.headerWord n)) s fun t =>
        t.crate? k = none ∧ raised s t (stopDie p) fCrateHeader ∧ ∀ j, j ≠ k → t.crate? j = s.crate? j) ∧
      (∀ n, s.hasRoom (stopDie p) → Runs (.crateArrive k p (.dataWord n)) s fun t =>
        t.crate? k = none ∧ raised s t (stopDie p) fCrateData ∧ ∀ j, j ≠ k → t.crate? j = s.crate? j) ∧
      (∀ w, s.set? x.hdr.wsid = some w → x.fillsPark = false →
        (s.landsAt w y (stopDie p) = none → p ≠ x.hdr.home → Runs (.crateArrive k p .clean) s fun t =>
          t.crate? k = some y ∧ (∀ j, j ≠ k → t.crate? j = s.crate? j) ∧ t = { s with crates := t.crates }) ∧
        (∀ n, s.landsAt w y (stopDie p) = some n → s.slotsEmpty (stopDie p) (landSlotOf w x.hdr.injCount) w.span = true → x.hdr.carry = false → p ≠ x.hdr.home →
          s.mem.wf = true → Runs (.crateArrive k p .clean) s fun t =>
            (t.slot (stopDie p) (landSlotOf w x.hdr.injCount)).st = .landing ∧ (t.slot (stopDie p) (landSlotOf w x.hdr.injCount)).readsLeft = w.reads ∧
            readBytes t.mem (loftKey (stopDie p) (landSlotOf w x.hdr.injCount * 131072)) x.payload.length = x.payload ∧
            (∃ z, t.crate? k = some z ∧ z.stop = p ∧ z.payload = x.payload ∧ z.hdr = { x.hdr with missed := x.hdr.missed &&& ~~~(BitVec.ofNat 64 (2 ^ n)) }) ∧
            (∀ j, j ≠ k → t.crate? j = s.crate? j)) ∧
        (s.landsAt w y (stopDie p) = none → p = x.hdr.home → x.hdr.carry = false →
          (x.hdr.missed = 0 → (w.recirc && decide (passNo w x + 1 < w.passes)) = false → Runs (.crateArrive k p .clean) s fun t =>
            t.crate? k = none ∧ (∀ j, j ≠ k → t.crate? j = s.crate? j) ∧ t = { s with crates := t.crates }) ∧
          (x.hdr.missed = 0 → (w.recirc && decide (passNo w x + 1 < w.passes)) = true → Runs (.crateArrive k p .clean) s fun t =>
            t.crate? k = none ∧ (∃ w', t.set? x.hdr.wsid = some w' ∧ tabGet [] w'.recirculating x.entry = x.payload) ∧ (∀ j, j ≠ k → t.crate? j = s.crate? j)) ∧
          (x.hdr.missed ≠ 0 → Runs (.crateArrive k p .clean) s fun t =>
            t.crate? k = some { y with hdr := { x.hdr with laps := min 255 (x.hdr.laps + 1) } } ∧ (∀ j, j ≠ k → t.crate? j = s.crate? j) ∧
            t = { s with crates := t.crates }))))

/-- R196, R303. The end of a landing makes the crate's slots FULL and adds 1 to the landing tally of the set's pointer slot. -/
def Sys2Proof.Machine.LandedCratesAreFull : Prop :=
  ∀ (d i c : Nat) (s : State) (w : WeightSet) (l : Launch), isCompute d = true → i < 384 → (s.die d).bypass = false → (s.slot d i).st = .landing → s.set? (s.slot d i).hdr.wsid = some w →
    landSlotOf w (s.slot d i).hdr.injCount = i → (s.jobCtxs w.job).head? = some c → s.launchOf c = some l → l.links = [] →
    (s.tally (ringHome d) (ringIndex 1 w.pointer)).value.toNat + 1 < 2 ^ 32 → (s.tally (ringHome d) (ringIndex 1 w.pointer)).waits = [] → Runs (.crateFull d i) s fun t =>
      (t.slot d i).st = .full ∧ ((s.slot d i).hdr.carry = true → (t.slot d (i + 1)).st = .full ∧ (t.slot d (i + 2)).st = .full) ∧
      (t.tally (ringHome d) (ringIndex 1 w.pointer)).value.toNat = (s.tally (ringHome d) (ringIndex 1 w.pointer)).value.toNat + 1 ∧
      (∀ j, j ≠ i → j ≠ i + 1 → j ≠ i + 2 → t.slot d j = s.slot d j) ∧ (∀ e, e ≠ d → t.die e = s.die e) ∧ t = { s with dies := t.dies, cores := t.cores }

/-- R217, R219. A send that its tally releases adds the die's contribution to every element of the carry that stands in its slots there, counts the die in ADDED, puts the crate back on the ring, empties the
carry's two slots, and takes 1 from the send tally and gives 1 to the sent tally. -/
def Sys2Proof.Machine.CarriesAreSent : Prop :=
  ∀ (d i k wsid c n : Nat) (s : State) (w : WeightSet) (x : Crate) (l : Launch), isCompute d = true → i < 8 → s.marks = [] → (s.die d).bypass = false → s.trainSet d i = some (wsid, w) →
    (s.tally (ringHome d) (ringIndex 2 i)).value ≠ 0 → s.heldCarry wsid d = some (k, x) → n = landSlotOf w x.hdr.injCount → (s.slot d (n + 1)).st = .full →
    (s.jobCtxs w.job).head? = some c → s.launchOf c = some l → l.links = [] → (s.tally (ringHome d) (ringIndex 3 i)).value.toNat + 1 < 2 ^ 32 →
    (s.tally (ringHome d) (ringIndex 3 i)).waits = [] → Runs (.carrySend d i) s fun t =>
      (∃ y, t.crate? k = some y ∧ y.heldAt = none ∧ y.hdr = { x.hdr with added := x.hdr.added + 1 } ∧ y.stop = (dieStop d).getD 0 ∧
        y.payload = readBytes s.mem (loftKey d (n * 131072)) x.hdr.length ∧
        ∀ j, j < 65536 → (y.carry.getD j 0) = BitVec.ofNat 32 (fp32Add (readLe s.mem (loftKey d (n * 131072) + 131072 + 4 * j) 4)
          (readLe s.mem (loftKey d (w.contrib + tabGet 0 w.sends d % 2 * 0x40000) + 4 * j) 4))) ∧
      (t.tally (ringHome d) (ringIndex 2 i)).value.toNat + 1 = (s.tally (ringHome d) (ringIndex 2 i)).value.toNat ∧
      (t.tally (ringHome d) (ringIndex 3 i)).value.toNat = (s.tally (ringHome d) (ringIndex 3 i)).value.toNat + 1 ∧
      (t.slot d (n + 1)).st = .empty ∧ (t.slot d (n + 2)).st = .empty ∧ (t.slot d n).st = (s.slot d n).st ∧ t.mem = s.mem ∧
      (∀ j, j ≠ k → t.crate? j = s.crate? j)

/-- R221 to R228. The update station of a carry that is home applies the optimizer step of its tile: it writes the new record and its two bf16 copies, and sets STEPS[T] to the crate's STEP plus 1; the crate leaves. -/
def Sys2Proof.Machine.UpdatesAreApplied : Prop :=
  (∀ (k : Nat) (s : State) (x : Crate) (w : WeightSet), s.crate? k = some x → s.set? x.hdr.wsid = some w → x.heldAt = some (stopDie x.hdr.home) →
    isCellar (stopDie x.hdr.home) = true → (s.die (stopDie x.hdr.home)).tripped = false → w.kind ≠ 0 → w.optBlock ≠ [] → s.mem.wf = true →
    ∀ u rec8 v, (s.setCrate k none).memRead (.station x.hdr.wsid) (w.state + x.hdr.tile * 0x100000) (if w.kind = 1 then 0x80000 else 0xC0000) = .ok u rec8 →
      u.lostAt (w.state + x.hdr.tile * 0x100000) (if w.kind = 1 then 0xC0000 else 0x100000) = none → u.lostAt (stepsAddr w x.hdr.tile) 4 = none →
      u.stationWrite x.hdr.wsid (((newRecord w.kind (optParams w.optBlock) x.carry rec8 ((x.hdr.step + 1) % 2 ^ 32) (fun _ => none)
        (copyRound (optParams w.optBlock) x.seed x.hdr.wsid x.hdr.tile ((x.hdr.step + 1) % 2 ^ 32))).map fun r => (w.state + x.hdr.tile * 0x100000 + r.1, r.2)) ++
          [(stepsAddr w x.hdr.tile, le 4 ((x.hdr.step + 1) % 2 ^ 32))]) = some v →
      Runs (.updateApply k none) s fun t =>
        t.crate? k = none ∧ (∀ j, j ≠ k → t.crate? j = s.crate? j) ∧ t.mem = v.mem ∧ readLe t.mem (stepsAddr w x.hdr.tile) 4 = (x.hdr.step + 1) % 2 ^ 32) ∧
  (∀ (f : Nat → Nat), (∀ i, f i < 2 ^ 16) → ∀ j c n, j < 128 → c < 128 → n < 4 →
    fieldAt (forwardCopy f) (j * 1024 + 2 * (4 * c + n)) 2 = f ((4 * j + n) * 128 + c) ∧
    fieldAt (backwardCopy f) (j * 1024 + 2 * (4 * c + n)) 2 = f ((128 * (j / 32) + c) * 128 + (4 * (j % 32) + n)))

/-- R203, R233. A set that may retire leaves with its crates and its landing slots, and no pointer slot of its job names it any longer; every other set stays. -/
def Sys2Proof.Machine.RetiredSetsLeave : Prop :=
  ∀ (k : Nat) (s : State) (w : WeightSet), isWsid k = true → s.set? k = some w →
    (s.mayRetire k w = true → Runs (.setRetire k) s fun t =>
      t.set? k = none ∧ (∀ j, j ≠ k → t.set? j = s.set? j) ∧ (∀ e ∈ t.crates, ∀ x, e.2 = some x → x.hdr.wsid ≠ k) ∧
      (∀ c ∈ s.jobCtxs w.job, ∀ e ∈ (t.ctx c).pointers, e.2 ≠ k) ∧
      (∀ d i, d ∈ s.jobDies w.job → w.base ≤ i → i < w.base + w.slots → (t.slot d i).st = .empty)) ∧
    (s.mayRetire k w = false → Runs (.setRetire k) s fun t => t = s)

/-! ## Queues and their commands (R351 to R354, R364 to R399) -/

/-- Every queue but one is as before. -/
def Sys2Proof.Machine.otherQueues (s t : State) (q : QRef) : Prop := ∀ r, qkey r ≠ qkey q → t.queue? r = s.queue? r

/-- The tail that a doorbell value gives a queue (R366). -/
def Sys2Proof.Machine.newTail (x : Queue) (v : Half) : Half :=
  if (v - x.head).toNat ≤ 2 ^ x.log2 then v else if (v - x.head).toNat < 2 ^ 31 then x.head + BitVec.ofNat 32 (2 ^ x.log2) else x.head

/-- R351, R352, R353, R354, R364, R366. A doorbell write of 4 or 8 bytes gives its queue the tail that R366 states, whatever the value, and touches no other queue; while DOORBELL_EN is 0 it is ignored and counted. The kernel
doorbell does the same for the port's kernel queue while that is enabled. Enabling the kernel queue starts it empty, with a LOG2_SIZE from 6 to 12; disabling takes it away. -/
def Sys2Proof.Machine.DoorbellsMoveTheTail : Prop :=
  ∀ (p c k n : Nat) (v : Word) (s : State) (x : Queue), isHostPort p = true → c < 1024 → k < 512 → (n = 4 ∨ n = 8) → (s.hp p).ready = true → s.halted = false →
    ((s.hp p).doorbellEn = true → (s.hp p).up = true → s.queue? (.normal c k) = some x → x.port = p → (s.ctx? c).isSome = true →
      Runs (.doorbellWrite p (4096 * c + 8 * k) n v) s fun t =>
        (t.queue (.normal c k)).tail = newTail x (BitVec.ofNat 32 v.toNat) ∧ (t.queue (.normal c k)).head = x.head ∧ (t.queue (.normal c k)).cmds = x.cmds ∧
        otherQueues s t (.normal c k) ∧ t = { s with queues := t.queues, hostMem := t.hostMem }) ∧
    ((s.hp p).doorbellEn = false → Runs (.doorbellWrite p (4096 * c + 8 * k) n v) s fun t =>
      (t.hp p).doorbell = min 0xFFFF ((s.hp p).doorbell + 1) ∧ ((s.hp p).doorbell ≠ 0xFFFF → (t.hp p).causeError = true) ∧ ((s.hp p).doorbell = 0xFFFF → t = s) ∧ t = { s with host0 := t.host0, host1 := t.host1, irqs := t.irqs }) ∧
    ((s.hp p).kqEnable = true → s.queue? (.kernel p) = some x → Runs (.kernelDoorbell p n v) s fun t =>
      (t.queue (.kernel p)).tail = newTail x (BitVec.ofNat 32 v.toNat) ∧ (t.queue (.kernel p)).head = x.head ∧ (t.queue (.kernel p)).cmds = x.cmds ∧
      otherQueues s t (.kernel p) ∧ t = { s with queues := t.queues }) ∧
    (bit v.toNat 0 = true → (s.hp p).kqEnable = false → s.queue? (.kernel p) = none → Runs (.hqKqEnable p v) s fun t =>
      (∃ y, t.queue? (.kernel p) = some y ∧ y.head = 0 ∧ y.tail = 0 ∧ y.doneIdx = 0 ∧ y.cmds = [] ∧ 6 ≤ y.log2 ∧ y.log2 ≤ 12 ∧
        (6 ≤ bits v.toNat 24 4 → bits v.toNat 24 4 ≤ 12 → y.log2 = bits v.toNat 24 4)) ∧
      (t.hp p).kqEnable = true ∧ otherQueues s t (.kernel p) ∧ t = { s with queues := t.queues, host0 := t.host0, host1 := t.host1 }) ∧
    (bit v.toNat 0 = false → Runs (.hqKqEnable p v) s fun t =>
      t.queue? (.kernel p) = none ∧ (t.hp p).kqEnable = false ∧ otherQueues s t (.kernel p) ∧ t = { s with queues := t.queues, host0 := t.host0, host1 := t.host1 })

/-- R364, R368, R372, R375, R505, R542. A fetch reads the entry at HEAD from the ring in host memory, and puts the command with its index and tag behind those fetched; outside check mode it has no outcome yet. HEAD of a normal
queue goes on by one; a kernel command is journalled first, and its queue's HEAD passes it once every holder that can be reached has acknowledged the record. A queue that may not fetch is left as it is, and the fetch of a context
whose TDI is outside RUN ends in F_HOST_DMA. The end of a window only ends it. -/
def Sys2Proof.Machine.DescriptorsAreFetchedInOrder : Prop :=
  ∀ (q : QRef) (s : State) (x : Queue), isQueue q = true → s.queue? q = some x →
    (mayFetch x = true → (s.hp x.port).up = true → s.qBarred q = false → ∀ d, s.hostRead x.port (s.sqSpace q) (x.sq + 64 * (x.head.toNat % 2 ^ x.log2)) 64 = d → fieldAt d 0 1 ≠ 6 →
      (∀ k, q = .kernel k → x.cmds = []) → Runs (.descriptorFetch q) s fun t =>
        ∃ p, (t.queue q).cmds = x.cmds ++ [p] ∧ p.index = x.head.toNat ∧ p.tag = fieldAt d 4 4 ∧ p.taken = false ∧
          (s.checkMode q = false → p.outcome = none) ∧ (fieldAt d 0 1 = 0 → p.cmd = .nop) ∧
          (t.queue q).tail = x.tail ∧ (t.queue q).st = (if x.st = .waiting then .waiting else .fetching) ∧ otherQueues s t q ∧
          (∀ c k, q = .normal c k → (t.queue q).head = x.head + 1 ∧ p.journal = none ∧ t = { s with queues := t.queues, hostMem := t.hostMem }) ∧
          (∀ k, q = .kernel k →
            (∃ r, t.journal = s.journal ++ [r] ∧ r.seq = s.journalNext ∧ r.acks = []) ∧ t.journalNext = s.journalNext + 1 ∧
            (t.journalled s.journalNext = false → (t.queue q).head = x.head ∧ p.journal = some s.journalNext) ∧
            (t.journalled s.journalNext = true → (t.queue q).head = x.head + 1 ∧ p.journal = none) ∧
            t = { s with queues := t.queues, journal := t.journal, journalNext := t.journalNext })) ∧
    (∀ c k, q = .normal c k → mayFetch x = true → (s.hp x.port).up = true → s.qBarred q = true → (∀ d ∈ s.jobCtxs (s.ctx c).job, (s.ctx d).dmaLast = none) →
      s.hasRoom (96 + x.port) → Runs (.descriptorFetch q) s fun t =>
        raised s t (96 + x.port) fHostDma ∧ t = { s with dies := t.dies, contexts := t.contexts }) ∧
    (mayFetch x = false → Runs (.descriptorFetch q) s fun t => t = s) ∧
    (Runs (.batchWindowExpire q) s fun t => t.queue? q = some { x with batching := false } ∧ otherQueues s t q ∧ t = { s with queues := t.queues })

/-- R365, R394, R396, R397. A command that has ended leaves its queue, which counts it done: its record, with tag, index, phase and status, stands in the completion ring of host memory at the index's place; while the ring's page or its
link is gone, it is held at the queue instead, marked so. The entry behind it is next. -/
def Sys2Proof.Machine.CommandsComplete : Prop :=
  ∀ (q : QRef) (s : State) (x : Queue) (p : Pending) (l : List Pending) (o : Done), isQueue q = true → s.queue? q = some x → x.cmds = p :: l → p.outcome = some o →
    p.journal = none → x.deleting = none → (p.quiet = false ∨ o.status ≠ 0) →
    (∀ k, q = .kernel k → recordsHeld x = false → (s.hp x.port).up = true → s.hostMem.wf = true → Runs (.commandComplete q) s fun t =>
      (∀ r, t.hostRead x.port 0 (x.cq + 32 * (p.index % 2 ^ x.log2)) 32 = r →
        fieldAt r 0 4 = p.tag % 2 ^ 32 ∧ fieldAt r 4 4 = p.index % 2 ^ 32 ∧ fieldAt r 8 1 = o.status % 256 ∧
        (bit (fieldAt r 9 1) 0 = true ↔ p.index / 2 ^ x.log2 % 2 = 0) ∧ fieldAt r 24 8 = o.result % 2 ^ 64) ∧
      (t.queue q).doneIdx = BitVec.ofNat 32 (p.index + p.span) ∧ (t.queue q).cmds = l ∧ otherQueues s t q ∧ t.mem = s.mem) ∧
    (recordsHeld x = true → Runs (.commandComplete q) s fun t =>
      (∃ r, (t.queue q).records = x.records ++ [(r, p.irq)] ∧ bit (fieldAt r 9 1) 3 = true ∧ fieldAt r 8 1 = o.status % 256) ∧
      (t.queue q).doneIdx = BitVec.ofNat 32 (p.index + p.span) ∧ (t.queue q).cmds.length = l.length ∧ t.mem = s.mem)

/-- R389, R397. An invalidation without a PASID, which names the kernel's address space, sets the CQ cause of every normal queue of the port whose completion ring its bytes meet, and of no other queue; one with a PASID
names no page that CREATE_QUEUE translated (the model's reading of R389, log entry 115). The invalidation's completion goes back. -/
def Sys2Proof.Machine.InvalidationsHoldTheirQueues : Prop :=
  ∀ (p pasid a n : Nat) (s : State), isHostPort p = true →
    ((s.hp p).ats = true → noPasid pasid = true → Runs (.atsInvalidation p pasid a n) s fun t =>
      (∀ c k x, isQueue (.normal c k) = true → s.queue? (.normal c k) = some x →
        (x.port = p → meets a n x.cq (32 * 2 ^ x.log2) = true → (t.queue (.normal c k)).holdCq = true) ∧
        (x.port = p → meets a n x.cq (32 * 2 ^ x.log2) = false → (t.queue (.normal c k)).holdCq = x.holdCq) ∧
        (x.port ≠ p → t.queue? (.normal c k) = s.queue? (.normal c k))) ∧
      (∀ k, isQueue (.kernel k) = true → t.queue? (.kernel k) = s.queue? (.kernel k)) ∧ t.answers = s.answers ++ [{ kind := "ATS", who := p }] ∧
      t = { s with queues := t.queues, hostMem := t.hostMem, host0 := t.host0, host1 := t.host1, irqs := t.irqs, answers := t.answers }) ∧
    ((s.hp p).ats = true → noPasid pasid = false → Runs (.atsInvalidation p pasid a n) s fun t =>
      t = { s with answers := s.answers ++ [{ kind := "ATS", who := p }] }) ∧
    ((s.hp p).ats = false → Runs (.atsInvalidation p pasid a n) s fun t => t = s)

/-- A command stands at the head of a queue of a context, not ended, with others behind it. -/
def Sys2Proof.Machine.atHead (s : State) (q : QRef) (c : Nat) (p : Pending) (l : List Pending) : Prop :=
  ctxOf q = some c ∧ isQueue q = true ∧ (s.ctx? c).isSome = true ∧ p.outcome = none ∧ p.journal = none ∧ ∃ x, s.queue? q = some x ∧ x.cmds = p :: l

/-- The command at the head is taken and has ended, with a status, a fault and a result; those behind it stand as before. -/
def Sys2Proof.Machine.endsWith (t : State) (q : QRef) (p : Pending) (l : List Pending) (status fault result : Nat) : Prop :=
  ∃ n, (t.queue q).cmds = { p with taken := true, serial := n, outcome := some { status := status, fault := fault, result := result } } :: l

/-- R369, R505. A command at the head is taken first: it takes the next place in the order of its package, and everything else that its row does is as for a command that was taken before. -/
def Sys2Proof.Machine.CommandsAreTakenInOrder : Prop :=
  ∀ (q : QRef) (c : Nat) (s : State) (p : Pending) (l : List Pending), atHead s q c p l → p.taken = false →
    (s.takeCmd q p).serial = s.serial + 1 ∧ ((s.takeCmd q p).queue q).cmds = { p with taken := true, serial := s.serial } :: l ∧ otherQueues s (s.takeCmd q p) q ∧
    s.takeCmd q p = { s with queues := (s.takeCmd q p).queues, serial := s.serial + 1 } ∧
    ∀ i ∈ [Instr.nop q, .recordEvent q, .waitEvent q, .signalTally q, .fence q, .hint q, .copyCmd q, .fillCmd q, .survey q, .tableLoad q, .setWeights q, .launch q],
      exec i s = exec i (s.takeCmd q p)

/-- R369, R373, R388, R488. NOP ends. RECORD_EVENT adds its value to its event's SEQ, stamps it with the count and answers the new SEQ. WAIT_EVENT ends with the SEQ that satisfies it, and otherwise waits at the head. SIGNAL_TALLY sends an
INC to its tally once, and is refused where no launch binds one. A FENCE ends once every command taken before it has completed, and stays otherwise. A HINT replaces the context's hint and ends. -/
def Sys2Proof.Machine.SimpleCommandsTakeEffect : Prop :=
  ∀ (q : QRef) (c : Nat) (s : State) (p : Pending) (l : List Pending), atHead s q c p l →
    (p.cmd = .nop → Runs (.nop q) s fun t => endsWith t q p l 0 0 0 ∧ otherQueues s t q ∧ t = { s with queues := t.queues, serial := t.serial }) ∧
    (∀ e v, p.cmd = .recordEvent e v → s.mem.wf = true → dmaBarred (s.ctx c) = false → Runs (.recordEvent q) s fun t =>
      t.eventSeq c e = (s.eventSeq c e + v.toNat) % 2 ^ 64 ∧ readLe t.mem (eventAddr (s.ctx c) e + 8) 8 = s.count (96 + (s.queue q).port) % 2 ^ 64 ∧
      endsWith t q p l 0 0 (t.eventSeq c e) ∧ (∀ b, b < eventAddr (s.ctx c) e ∨ eventAddr (s.ctx c) e + 16 ≤ b → readByte t.mem b = readByte s.mem b)) ∧
    (∀ e v, p.cmd = .waitEvent e v → v.toNat ≤ s.eventSeq c e → Runs (.waitEvent q) s fun t =>
      endsWith t q p l 0 0 (s.eventSeq c e) ∧ t = { s with queues := t.queues, serial := t.serial }) ∧
    (∀ e v, p.cmd = .waitEvent e v → s.eventSeq c e < v.toNat → Runs (.waitEvent q) s fun t =>
      (t.queue q).st = .waiting ∧ (∃ n, (t.queue q).cmds = { p with taken := true, serial := n } :: l) ∧ t = { s with queues := t.queues, serial := t.serial, hostMem := t.hostMem }) ∧
    (∀ vid v x e h, p.cmd = .signalTally vid v → p.step = 0 → s.launchOf c = some x → x.st ≠ .checked → findTally x vid = some e → e.kind = 0 → s.coreOf e.core = some h →
      Runs (.signalTally q) s fun t =>
        (∃ m, t.tallyMsgs = s.tallyMsgs ++ [m] ∧ m.ctx = c ∧ m.home = h ∧ m.index = e.index ∧ m.vid = vid ∧ m.act = .inc ∧ m.n = v ∧ m.result = some q) ∧
        (∃ n, (t.queue q).cmds = { p with taken := true, serial := n, step := 1 } :: l) ∧
        t = { s with queues := t.queues, serial := t.serial, tallyMsgs := t.tallyMsgs }) ∧
    (∀ vid v, p.cmd = .signalTally vid v → p.step = 0 → s.launchOf c = none → Runs (.signalTally q) s fun t => endsWith t q p l 1 0 0 ∧ t = { s with queues := t.queues, serial := t.serial }) ∧
    (∀ n, p.cmd = .fence → n = (if p.taken then p.serial else s.serial) → Runs (.fence q) s fun t =>
      (s.fenceDone c n = true → endsWith t q p l 0 0 0) ∧ (s.fenceDone c n = false → (t.queue q).cmds = { p with taken := true, serial := n } :: l) ∧
      t = { s with queues := t.queues, serial := t.serial }) ∧
    (∀ kind level lead dur, p.cmd = .hint kind level lead dur → Runs (.hint q) s fun t =>
      (t.ctx c).hint = some { kind := kind, level := level, start := s.kcount + 1000 * lead, stop := s.kcount + 1000 * lead + 1000 * dur, taken := s.power.hints } ∧
      t.power.hints = s.power.hints + 1 ∧ endsWith t q p l 0 0 0 ∧
      t = { s with queues := t.queues, serial := t.serial, contexts := t.contexts, power := t.power, dies := t.dies })

/-- A buffer in host memory that an unsealed context reaches, of a copy or fill. -/
def Sys2Proof.Machine.plainHost (s : State) (c : Nat) (b : Buf) : Prop := b.kind = 1 ∧ (s.ctx c).sealed = false

/-- R385, R232. COPY between buffers of host memory, or of the cellar, moves its bytes, RESULT the number written; FILL writes its pattern over its range; no other byte of memory changes. Overlapping ends are refused, a length of 0
moves nothing, a destination in a pinned region raises F_WEIGHTS_PINNED, and a buffer that nothing maps raises F_ADDR_UNMAPPED; nothing is moved. -/
def Sys2Proof.Machine.CopyAndFillCommands : Prop :=
  ∀ (q : QRef) (c : Nat) (s : State) (p : Pending) (l : List Pending), atHead s q c p l →
    (∀ r w n a d, p.cmd = .copy r w n → s.relocate c r n false = some a → s.relocate c w n true = some d →
      (plainHost s c a → plainHost s c d → meets a.addr n d.addr n = false → 0 < n → s.hostMem.wf = true → Runs (.copyCmd q) s fun t =>
        t.hostRead (s.queue q).port (s.space c) d.addr n = s.hostRead (s.queue q).port (s.space c) a.addr n ∧ endsWith t q p l 0 0 n ∧
        (∀ b, b < hostKey (s.queue q).port (s.space c) d.addr ∨ hostKey (s.queue q).port (s.space c) d.addr + n ≤ b → readByte t.hostMem b = readByte s.hostMem b) ∧
        t = { s with queues := t.queues, serial := t.serial, hostMem := t.hostMem }) ∧
      (a.kind = 2 → d.kind = 2 → meets a.addr n d.addr n = false → 0 < n → s.mem.wf = true → s.pinned d.addr n true = false → s.trafficHeld a.addr n = false →
        s.trafficHeld d.addr n = false → clearRead s (.context c) a.addr n → clearWrite s (.context c) d.addr n → Runs (.copyCmd q) s fun t =>
          readBytes t.mem d.addr n = readBytes s.mem a.addr n ∧ endsWith t q p l 0 0 n ∧ (∀ b, b < d.addr ∨ d.addr + n ≤ b → readByte t.mem b = readByte s.mem b) ∧
          t = { s with queues := t.queues, serial := t.serial, dies := t.dies, mem := t.mem, owners := t.owners, written := t.written, marks := t.marks }) ∧
      (a.kind = d.kind → meets a.addr n d.addr n = true → Runs (.copyCmd q) s fun t => endsWith t q p l 1 0 0 ∧ t = { s with queues := t.queues, serial := t.serial }) ∧
      (n = 0 → meets a.addr n d.addr n = false → s.pinned d.addr n true = false → Runs (.copyCmd q) s fun t =>
        endsWith t q p l 0 0 0 ∧ t = { s with queues := t.queues, serial := t.serial })) ∧
    (∀ r w n, p.cmd = .copy r w n → s.relocate c r n false = none → s.hasRoom (96 + (s.queue q).port) → Runs (.copyCmd q) s fun t =>
      raised s t (96 + (s.queue q).port) fAddrUnmapped ∧ endsWith t q p l 2 fAddrUnmapped 0 ∧ t = { s with queues := t.queues, serial := t.serial, dies := t.dies }) ∧
    (∀ w v n d, p.cmd = .fill w v n → s.relocate c w n true = some d →
      (plainHost s c d → n % 8 = 0 → 0 < n → d.addr + n ≤ 2 ^ 64 → s.hostMem.wf = true → Runs (.fillCmd q) s fun t =>
        (∀ i, i < n / 8 → ofLe (t.hostRead (s.queue q).port (s.space c) (d.addr + 8 * i) 8) = v.toNat) ∧ endsWith t q p l 0 0 n ∧
        (∀ b, b < hostKey (s.queue q).port (s.space c) d.addr ∨ hostKey (s.queue q).port (s.space c) d.addr + n ≤ b → readByte t.hostMem b = readByte s.hostMem b) ∧
        t = { s with queues := t.queues, serial := t.serial, hostMem := t.hostMem }) ∧
      (d.kind = 2 → n % 8 = 0 → 0 < n → s.mem.wf = true → s.pinned d.addr n true = false → s.trafficHeld d.addr n = false → clearWrite s (.context c) d.addr n →
        Runs (.fillCmd q) s fun t =>
          (∀ i, i < n / 8 → readLe t.mem (d.addr + 8 * i) 8 = v.toNat) ∧ endsWith t q p l 0 0 n ∧
          (∀ b, b < d.addr ∨ d.addr + n ≤ b → readByte t.mem b = readByte s.mem b) ∧
          t = { s with queues := t.queues, serial := t.serial, dies := t.dies, mem := t.mem, owners := t.owners, written := t.written, marks := t.marks }) ∧
      (d.kind = 2 → s.pinned d.addr n true = true → s.hasRoom (96 + (s.queue q).port) → Runs (.fillCmd q) s fun t =>
        raised s t (96 + (s.queue q).port) fWeightsPinned ∧ endsWith t q p l 1 fWeightsPinned 0 ∧ t = { s with queues := t.queues, serial := t.serial, dies := t.dies }))

/-- The reads of a survey's source: one, and with ENCODE a second, each without an error; they leave `v` (R254). -/
def Sys2Proof.Machine.sourceRead (s : State) (c a n : Nat) (encode : Bool) (v : State) (b : List Byte) : Prop :=
  ∃ u, s.memRead (.context c) a n = .ok u b ∧ s.firstBad (if a < larderBase then 2 else 3) a n = none ∧
    (encode = false ∧ v = u ∨ encode = true ∧ u.firstBad (if a < larderBase then 2 else 3) a n = none ∧ ∃ b', u.memRead (.context c) a n = .ok v b')

/-- What a survey of the elements `e` writes where none is an infinity or a NaN: with ENCODE the coded blocks, the table's record, the report. -/
def Sys2Proof.Machine.surveyWrites (kind gen : Nat) (zero encode : Bool) (e : List Nat) (dest table report : Nat) : List (Nat × List Byte) :=
  let k := buildTable kind gen zero (chunks 128 e.length e)
  let exact := ((chunks 128 e.length e).map (exactIn k)).sum
  (if encode then [(dest, (chunks 128 e.length e).flatMap (encodeBlock k))] else []) ++
    [(table, tableRecord k 0), (report, surveyReport e.length exact 0 (if encode then (chunks 128 e.length e).length else 0) (exact * 2 ^ 24 / max 1 e.length) (tableRecord k 0))]

/-- The part of them that the table codes exactly, in units of 2^−24 (R252). -/
def Sys2Proof.Machine.surveyCover (kind gen : Nat) (zero : Bool) (e : List Nat) : Nat :=
  ((chunks 128 e.length e).map (exactIn (buildTable kind gen zero (chunks 128 e.length e)))).sum * 2 ^ 24 / max 1 e.length

/-- The places that a survey without a base reads and writes. -/
def Sys2Proof.Machine.surveyPlaces (kind : Nat) (encode : Bool) (src n dest table report : Nat) : List (Nat × Nat) :=
  [(src, 2 * n), (table, 16), (report, 64)] ++ if encode then [(dest, ceilDiv n 128 * caskBytes kind)] else []

/-- R250 to R254, R283. A survey whose source, read without an error, holds no infinity and no NaN builds the table of its elements, puts the table's record and the report, with totals and blocks, where the command says, and with ENCODE
the coded blocks; its result is the coverage. One with a NaN or infinity writes the report alone, with the number of those, and is refused; so is one of no element, which writes nothing. While a channel or die that it reads
or writes holds traffic of its class it waits. -/
def Sys2Proof.Machine.SurveyWritesTableAndReport : Prop :=
  ∀ (q : QRef) (c : Nat) (s : State) (p : Pending) (l : List Pending) (kind gen src n dest table report bs bt : Nat) (zero encode : Bool), atHead s q c p l → p.taken = true →
    p.cmd = .survey kind 0 gen zero encode src n dest table report bs bt →
    (n = 0 → Runs (.survey q) s fun t => endsWith t q p l 1 0 0 ∧ t = { s with queues := t.queues }) ∧
    (0 < n → n ≤ 2 ^ 36 → (∀ a m, (a, m) ∈ [(dest, ceilDiv n 128 * caskBytes kind), (table, 16), (report, 64)] → s.inCellar a m = true ∧ s.protected a m = false) →
      ((∃ a m, (a, m) ∈ surveyPlaces kind encode src n dest table report ∧ s.trafficHeld a m = true) → Runs (.survey q) s fun t => t = s) ∧
      ((∀ a m, (a, m) ∈ surveyPlaces kind encode src n dest table report → s.trafficHeld a m = false) →
      (∀ v b w e, sourceRead s c src (2 * n) encode v b → e = elems16 b → (∀ x ∈ e, expField x ≠ 255) →
        (∀ f ∈ surveyWrites kind gen zero encode e dest table report, v.pinned f.1 f.2.length true = false) →
        v.writeAll c (surveyWrites kind gen zero encode e dest table report) = some w → Runs (.survey q) s fun t => t = w.endCmd q 0 0 (surveyCover kind gen zero e)) ∧
      (∀ v b w e k, sourceRead s c src (2 * n) encode v b → e = elems16 b → k = buildTable kind gen zero (chunks 128 e.length e) → (e.filter fun x => expField x == 255) ≠ [] →
        v.pinned report 64 true = false →
        v.writeAll c [(report, surveyReport e.length (((chunks 128 e.length e).map (exactIn k)).sum) (e.filter fun x => expField x == 255).length 0
          (surveyCover kind gen zero e) (tableRecord k 0))] = some w → Runs (.survey q) s fun t => t = w.endCmd q 1 0 (surveyCover kind gen zero e))))

/-- R250 to R254, R394. A survey of a source in the cellar that its context can read, where no error stands and no element is an infinity or a NaN, into places that it may write, which no set pins or protects and which lie apart,
ends as OK with the coverage as its result; what it writes stands there, and no other byte of memory changes. -/
def Sys2Proof.Machine.SurveysEnd : Prop :=
  ∀ (q : QRef) (c : Nat) (s : State) (p : Pending) (l : List Pending) (kind gen src n dest table report bs bt : Nat) (zero encode : Bool) (e : List Nat) (w : List (Nat × List Byte)),
    atHead s q c p l → p.taken = true → p.cmd = .survey kind 0 gen zero encode src n dest table report bs bt → 0 < n → n ≤ 2 ^ 36 → s.mem.wf = true →
    (∀ a m, (a, m) ∈ [(dest, ceilDiv n 128 * caskBytes kind), (table, 16), (report, 64)] → s.inCellar a m = true ∧ s.protected a m = false) →
    (∀ a m, (a, m) ∈ surveyPlaces kind encode src n dest table report → s.trafficHeld a m = false) →
    clearRead s (.context c) src (2 * n) → e = elems16 (readBytes s.mem src (2 * n)) → (∀ x ∈ e, expField x ≠ 255) → w = surveyWrites kind gen zero encode e dest table report →
    (∀ f ∈ w, s.pinned f.1 f.2.length true = false ∧ clearWrite s (.context c) f.1 f.2.length) → w.Pairwise (fun f g => meets f.1 f.2.length g.1 g.2.length = false) →
    Runs (.survey q) s fun t =>
      (∀ f ∈ w, readBytes t.mem f.1 f.2.length = f.2) ∧ (∀ b, (∀ f ∈ w, b < f.1 ∨ f.1 + f.2.length ≤ b) → readByte t.mem b = readByte s.mem b) ∧
      endsWith t q p l 0 0 (surveyCover kind gen zero e) ∧ otherQueues s t q ∧
      t = { s with queues := t.queues, dies := t.dies, mem := t.mem, owners := t.owners, written := t.written, marks := t.marks }

/-- R260, R386. A TABLE_LOAD whose record is a table's waits at its queue's head, with the loads of its job behind those that came before; one that is no table's is refused. A load whose instant has come is delivered once a launch is
bound: the command then waits for every expander of the context, and no load waits that was delivered; where every
expander has a free slot and nothing before it, each holds the table at once, and the command ends. -/
def Sys2Proof.Machine.TableLoadsWaitAndAreDelivered : Prop :=
  (∀ (q : QRef) (c : Nat) (s : State) (p : Pending) (l : List Pending) (a ev beat : Nat) (at_ : Bool), atHead s q c p l → p.taken = true → p.step = 0 →
    p.cmd = .tableLoad a ev at_ beat → ((s.ctx c).tableWaits.any fun w => w.q == q && w.serial == p.serial) = false → s.protected a 16 = false →
    (∀ r, clearRead s (.context c) a 16 → r = readBytes s.mem a 16 →
      (∀ k, tableOf r = some k → Runs (.tableLoad q) s fun t =>
        (t.ctx c).tableWaits = (s.ctx c).tableWaits ++ [{ q := q, serial := p.serial, table := k, retire := if ev ≤ 15 then some ev else none, at_ := if at_ then some beat else none }] ∧
        (t.queue q).st = .waiting ∧ (t.queue q).cmds = p :: l ∧ otherQueues s t q ∧ t.mem = s.mem) ∧
      (tableOf r = none → Runs (.tableLoad q) s fun t => endsWith t q p l 1 0 0 ∧ otherQueues s t q ∧ t.contexts = s.contexts ∧ t.mem = s.mem)) ∧
    (∀ u r, s.memRead (.context c) a 16 = .ok u r → u.queues = s.queues → u.contexts = s.contexts →
      (∀ k, tableOf r = some k → Runs (.tableLoad q) s fun t =>
        (t.ctx c).tableWaits = (s.ctx c).tableWaits ++ [{ q := q, serial := p.serial, table := k, retire := if ev ≤ 15 then some ev else none, at_ := if at_ then some beat else none }] ∧
        (t.queue q).st = .waiting ∧ (t.queue q).cmds = p :: l ∧ otherQueues s t q) ∧
      (tableOf r = none → Runs (.tableLoad q) s fun t => endsWith t q p l 1 0 0 ∧ otherQueues s t q ∧ t.contexts = s.contexts))) ∧
  (∀ (c : Nat) (s : State) (x : Launch) (w : TableWait) (r : List TableWait), isContext c = true → s.launchOf c = some x → x.st ≠ .checked →
    (s.ctx c).tableWaits = w :: r → s.loadStands w = true → w.at_ = none → Runs (.tableLoadDeliver c) s fun t =>
      (∀ y ∈ (t.ctx c).tableWaits, y ∈ r ∧ y.serial ≠ w.serial) ∧ t.mem = s.mem) ∧
  (∀ (c : Nat) (s : State) (x : Launch) (w : TableWait) (r : List TableWait), isContext c = true → s.launchOf c = some x → x.st ≠ .checked →
    (s.ctx c).tableWaits = w :: r → s.loadStands w = true → w.at_ = none → w.retire = none → (s.ctxCores c).Nodup → s.ctxCores c ≠ [] →
    (∀ k ∈ s.ctxCores c, ∀ e, e < 2 → (eng (s.core k) e).tableQueue = [] ∧ isResident (eng (s.core k) e) w.table.gen = false ∧
      ∃ i, i < 4 ∧ (tabGet {} (eng (s.core k) e).tables i).st = .free) →
    Runs (.tableLoadDeliver c) s fun t =>
      (∀ k ∈ s.ctxCores c, ∀ e, e < 2 → (eng (t.core k) e).tableQueue = [] ∧ isResident (eng (t.core k) e) w.table.gen = true) ∧ ended t w.q 0) ∧
  (∀ (c : Nat) (s : State), isContext c = true → s.launchOf c = none → Runs (.tableLoadDeliver c) s fun t => t = s)

/-- A plan in the cellar that its context can read, where no error stands: its header of set id `i`, then its entries (R203 to R205). -/
def Sys2Proof.Machine.planAt (s : State) (c a i : Nat) (w : WeightSet) : Prop :=
  ∃ h n, h = readBytes s.mem a 64 ∧ n = fieldAt h 8 4 ∧ 0 < n ∧ n ≤ 2 ^ 24 ∧ clearRead s (.context c) a 64 ∧ clearRead s (.context c) (a + 64) (32 * n) ∧ i = fieldAt h 0 2 ∧
    w = planOf (s.ctx c).job c a h ((List.range n).map fun j => planEntryAt (readBytes s.mem (a + 64) (32 * n)) (32 * j))

/-- R203 to R208, R227, R231, R387. SET_WEIGHTS with a plan address of 0 empties its pointer slot from the next launch boundary, and a set that was there takes the command's retire event. One whose plan is read and can be carried binds the set under its id, at a
base slot that meets no other reservation, and points the slot at it; a plan that does not fit is refused and binds nothing. -/
def Sys2Proof.Machine.WeightSetsAreBound : Prop :=
  ∀ (q : QRef) (c : Nat) (s : State) (p : Pending) (l : List Pending) (k ev a : Nat) (en : Bool), atHead s q c p l → p.taken = true → p.cmd = .setWeights k en ev a →
    (a = 0 → (s.ctx c).pointers = [] → (s.ctx c).nextPointers = [] → Runs (.setWeights q) s fun t =>
      endsWith t q p l 0 0 0 ∧ (t.ctx c).nextPointers = [] ∧ t.sets = s.sets) ∧
    (∀ w y, a = 0 → (s.ctx c).pointers = [(k, w)] → (s.ctx c).nextPointers = [] → s.set? w = some y → Runs (.setWeights q) s fun t =>
      endsWith t q p l 0 0 0 ∧ (t.ctx c).nextPointers = [(k, none)] ∧ (t.ctx c).pointers = [(k, w)] ∧
      t.set? w = some { y with retireEvent := if en then some ev else none } ∧ ∀ v, v ≠ w → t.set? v = s.set? v) ∧
    (∀ i w, a ≠ 0 → planAt s c a i w → s.set? i = none →
      (planFits w i (s.jobDies w.job).length && s.sourcesFit w && s.injectionFits w && s.directionFits w && s.recircFits w && s.variantFits w) = true →
      (∀ b, s.baseFor w = some b → (w.kind = 0 ∨ ∀ x ∈ setTiles w, clearRead s (.context c) (stepsAddr w x) 4) → (s.ctx c).pointers = [] → (s.ctx c).nextPointers = [] →
        Runs (.setWeights q) s fun t =>
          endsWith t q p l 0 0 b ∧ (∃ y, t.set? i = some y ∧ y.base = b ∧ y.pointer = k ∧ y.entries = w.entries ∧ y.job = w.job ∧ y.passesDone = w.passesDone ∧
            (w.kind ≠ 0 → ∀ x ∈ setTiles w, tabGet 0 y.steps0 x = readLe s.mem (stepsAddr w x) 4)) ∧
          (t.ctx c).nextPointers = [(k, some i)] ∧ (∀ v, v ≠ i → t.set? v = s.set? v) ∧ t.mem = s.mem) ∧
      (s.baseFor w = none → Runs (.setWeights q) s fun t => endsWith t q p l 1 0 0 ∧ (∀ v, t.set? v = s.set? v) ∧ t.mem = s.mem)) ∧
    (∀ u i w, a ≠ 0 → s.readPlan q c a = .inr (u, i, w) → u.queues = s.queues → u.contexts = s.contexts → u.sets = s.sets → u.set? i = none →
      (planFits w i (u.jobDies w.job).length && u.sourcesFit w && u.injectionFits w && u.directionFits w && u.recircFits w && u.variantFits w) = true →
      (∀ b, u.baseFor w = some b → w.kind = 0 → (s.ctx c).pointers = [] → (s.ctx c).nextPointers = [] → Runs (.setWeights q) s fun t =>
        endsWith t q p l 0 0 b ∧ (∃ y, t.set? i = some y ∧ y.base = b ∧ y.entries = w.entries ∧ y.job = w.job ∧ y.passesDone = w.passesDone) ∧
        (t.ctx c).nextPointers = [(k, some i)] ∧ (∀ v, v ≠ i → t.set? v = s.set? v)) ∧
      (u.baseFor w = none → Runs (.setWeights q) s fun t => endsWith t q p l 1 0 0 ∧ ∀ v, t.set? v = s.set? v)) ∧
    (∀ u i w, a ≠ 0 → s.readPlan q c a = .inr (u, i, w) → u.queues = s.queues → u.sets = s.sets → u.set? i = none →
      planFits w i (u.jobDies w.job).length = false → Runs (.setWeights q) s fun t => endsWith t q p l 1 0 0 ∧ ∀ v, t.set? v = s.set? v)

/-! ## Launches (R326 to R329, R337 to R342, R381 to R384, R499) -/

/-- R368, R383, R384. A LAUNCH waits at its queue's head while its context has a launch or a die of it is held, or no keeper is active. Otherwise its block, which may have been read ahead, is read: one that the checks pass is noted as the
context's launch, with the fields of the block; one that they do not pass is refused; one that no buffer maps raises F_ADDR_UNMAPPED. -/
def Sys2Proof.Machine.LaunchBlocksAreReadAndChecked : Prop :=
  ∀ (q : QRef) (c : Nat) (s : State) (p : Pending) (l : List Pending) (r : Bref) (n : Nat), atHead s q c p l → p.taken = true → p.cmd = .launch r n →
    ((s.launchOf c).isSome = true ∨ s.launchHeld c = true ∨ s.holder = none → Runs (.launch q) s fun t =>
      (t.queue q).st = .waiting ∧ (t.queue q).cmds = p :: l ∧ otherQueues s t q ∧ t = { s with queues := t.queues, hostMem := t.hostMem }) ∧
    (s.launchOf c = none → s.launchHeld c = false → s.holder ≠ none → p.block = none → s.relocate c r n false = none → s.hasRoom (96 + (s.queue q).port) → Runs (.launch q) s fun t =>
      raised s t (96 + (s.queue q).port) fAddrUnmapped ∧ endsWith t q p l 2 fAddrUnmapped 0 ∧ t = { s with queues := t.queues, dies := t.dies }) ∧
    (∀ b u m, s.launchOf c = none → s.launchHeld c = false → s.holder ≠ none →
      (p.block = none ∧ s.relocate c r n false = some b ∧ s.readBuf (s.queue q).port c b n = .ok u m ∨ p.block = some m ∧ u = s) → u.queues = s.queues → u.contexts = s.contexts →
      (u.launchOk c m n (launchOfBlock q m) = true → u.imagesOk c (launchOfBlock q m) = true → Runs (.launch q) s fun t =>
        (∃ x, t.launchOf c = some x ∧ x.q = q ∧ x.st = .checked ∧ x.seed.toNat = fieldAt m 16 8 ∧ x.packages = fieldAt m 6 2 ∧ x.l = none ∧
          (x.scheduled = true ↔ 0 < fieldAt m 4 1)) ∧
        (t.queue q).st = .waiting ∧ (t.queue q).cmds = p :: l ∧ (∀ e, e ≠ c → t.ctx? e = s.ctx? e)) ∧
      (u.launchOk c m n (launchOfBlock q m) = false → Runs (.launch q) s fun t => endsWith t q p l 1 0 0 ∧ t.contexts = s.contexts))

/-- What a launch whose placements are made does: one package is armed with the first multiple of 4 at or after the count plus 20,000, more send READY. -/
def Sys2Proof.Machine.goesOn (s t : State) (c : Nat) (x : Launch) : Prop :=
  (x.packages ≤ 1 → ∃ y, t.launchOf c = some y ∧ y.st = .armed ∧ y.l = some (roundUp (s.kcount + 20000) 4) ∧ y.seed = x.seed) ∧
  (1 < x.packages → ∃ y m, t.launchOf c = some y ∧ y.st = .bound ∧ t.sent = s.sent ++ [.ready m] ∧ m.pkg = s.pkgId ∧ m.seed = x.seed ∧ m.build = x.build)

/-- R188, R326, R328, R383, R512. A launch that was checked binds once nothing holds its dies: each core of the context is bound to it, not yet running, with the launch's arguments in its registers from 1 up. Its placements are made once
every mover that makes one is free to (R26, R51, R283), and the launch then goes on to its start. One of whose dies has failed since it was checked ends with error status. While a die is held, no keeper is active or a quench is
ordered, nothing is done. -/
def Sys2Proof.Machine.LaunchesBind : Prop :=
  ∀ (c : Nat) (s : State) (x : Launch), isContext c = true → s.launchOf c = some x →
    (s.holder ≠ none → s.launchHeld c = false → (s.ctx c).quenchOrdered = false → x.st = .checked →
      ((∀ d ∈ s.ctxPhys c, (s.die d).failed = none) →
        (∀ k ∈ s.ctxCores c, ((s.bindLaunch c x).core k).ctx = some c ∧ ((s.bindLaunch c x).core k).running = false ∧
          ∀ i, i < x.args.length → reg ((s.bindLaunch c x).core k) (i + 1) = x.args.getD i 0) ∧
        (∀ k, k ∉ s.ctxCores c → (s.bindLaunch c x).core k = s.core k) ∧
        ((s.bindLaunch c x).placeable x = false → Runs (.launchBind c) s fun t => t = s.bindLaunch c x ∧ ∃ y, t.launchOf c = some y ∧ y.st = .placing) ∧
        ((s.bindLaunch c x).placeable x = true → Runs (.launchBind c) s fun t => goesOn s t c x ∧ t.cores = ((s.bindLaunch c x).placeAll c x).cores)) ∧
      ((∃ d ∈ s.ctxPhys c, (s.die d).failed ≠ none) → Runs (.launchBind c) s fun t => t.launchOf c = none ∧ t.cores = s.cores ∧ t.dies = s.dies ∧
        ∀ y p l, s.queue? x.q = some y → y.cmds = p :: l → (t.queue x.q).cmds = { p with outcome := some { status := 1 } } :: l)) ∧
    (s.holder ≠ none → (s.ctx c).quenchOrdered = false → x.st = .placing →
      (s.placeable x = false → Runs (.launchBind c) s fun t => t = s) ∧
      (s.placeable x = true → Runs (.launchBind c) s fun t => goesOn s t c x ∧ t.cores = (s.placeAll c x).cores)) ∧
    (s.holder = none ∨ (s.ctx c).quenchOrdered = true ∨ (x.st ≠ .placing ∧ s.launchHeld c = true) → Runs (.launchBind c) s fun t => t = s)

/-- R323, R326, R328. At L an armed die starts the grid of the job whose L comes first among those that may start, with the anchor (0, L) and λ 64: the job's cores there begin to issue and its armed launches run. The grids of other jobs
stay as they are. Where no job that the die is armed for may start, nothing happens. -/
def Sys2Proof.Machine.GridsStartAtL : Prop :=
  ∀ (d : Nat) (s : State), isDie d = true →
    (∀ j l, s.startsNext d = some (j, l) →
      (∃ g ∈ (s.die d).grids, g.job = some j ∧ g.armed = some l) ∧ s.mayStart j = true ∧
      (∀ g ∈ (s.die d).grids, ∀ i m, g.job = some i → g.armed = some m → s.mayStart i = true → l ≤ m) ∧
      Runs (.gridStart d) s fun t =>
        ((t.die d).gridOf j).started = true ∧ ((t.die d).gridOf j).armed = none ∧ ((t.die d).gridOf j).anchors = [{ beat := 0, at16 := 16 * l, lam := 64 }] ∧
        (∀ i, i ≠ j → (t.die d).gridOf i = (s.die d).gridOf i) ∧
        (∀ k, k < 4 → (t.core (4 * d + k)).running = ((s.core (4 * d + k)).running || (s.core (4 * d + k)).ctx.any fun c => (s.ctx c).job == j)) ∧
        (∀ e ∈ s.jobCtxs j, ∀ y, s.launchOf e = some y → t.launchOf e = some (if y.st = .armed then { y with st := .running } else y)) ∧
        (∀ e, e ≠ d → t.die e = s.die e) ∧ t = { s with dies := t.dies, cores := t.cores, contexts := t.contexts }) ∧
    ((∀ g ∈ (s.die d).grids, ∀ i m, g.job = some i → g.armed = some m → s.mayStart i = false) → Runs (.gridStart d) s fun t => t = s) ∧
    (∀ j, s.mayStart j = true ↔ ∃ c ∈ s.jobCtxs j, (s.ctx c).forced = false ∧ ∃ x, s.launchOf c = some x ∧ (x.st = .armed ∨ x.st = .running) ∧ (x.packages ≤ 1 ∨ x.go = true))

/-- The binding of a context has ended: its cores hold it no longer, run nothing and await their scrub, every other core is as before, and its launch is over. -/
def Sys2Proof.Machine.unbound (s t : State) (c : Nat) : Prop :=
  t.launchOf c = none ∧ (∀ k ∈ s.ctxCores c, (s.core k).ctx = some c → (t.core k).ctx = none ∧ (t.core k).running = false ∧ (t.core k).scrubbing = true ∧
    ∀ u, unitQueue (t.core k) u = []) ∧
  ∀ k, (s.core k).ctx ≠ some c → t.core k = s.core k

/-- R151, R190, R383, R499. A core that has halted with every unit idle ends its part, and its output image stands in the host buffer that its entry names, once its mover may write it (R26, R51, R283). When every part has ended and the
sets are done, the LAUNCH ends with L as its result, and the binding ends. A quench that is ordered ends the binding as well, without a result. -/
def Sys2Proof.Machine.BindingsEnd : Prop :=
  (∀ (k c : Nat) (s : State) (l : Launch) (e : CoreEntry), isCore k = true → (s.core k).ctx = some c → s.launchOf c = some l → (s.core k).partEnded = false → (s.ctx c).forced = false →
    l.cores.find? (fun e => s.coreOf e.core == some k) = some e →
    ((s.core k).halted = true → unitsIdle (s.core k) = true → e.outKind = 1 → e.outBytes ≠ 0 → s.moverFree (s.queue l.q).port k (outBuf e) e.outBytes = true →
      (s.ctx c).sealed = false → dmaBarred (s.ctx c) = false → s.marks = [] → s.hostMem.wf = true →
      Runs (.corePartEnd k) s fun t =>
        (t.core k).partEnded = true ∧
        t.hostRead (s.queue l.q).port (s.space c) (e.outBase + e.output.offset) e.outBytes = readBytes s.mem (shelfKey k (e.outRow * 1024)) e.outBytes ∧
        (∀ i, i ≠ k → t.core i = s.core i) ∧ t = { s with cores := t.cores, hostMem := t.hostMem }) ∧
    ((s.core k).halted = true → unitsIdle (s.core k) = true → e.outKind ≠ 0 → e.outBytes ≠ 0 → s.moverFree (s.queue l.q).port k (outBuf e) e.outBytes = false →
      Runs (.corePartEnd k) s fun t => t = s) ∧
    ((s.core k).halted = true → unitsIdle (s.core k) = true → e.outKind = 0 → Runs (.corePartEnd k) s fun t =>
      t.core k = { s.core k with partEnded := true } ∧ (∀ i, i ≠ k → t.core i = s.core i) ∧ t = { s with cores := t.cores }) ∧
    ((s.core k).halted = false ∨ unitsIdle (s.core k) = false → Runs (.corePartEnd k) s fun t => t = s)) ∧
  (∀ (c : Nat) (s : State) (l : Launch) (x : Queue) (p : Pending) (r : List Pending), isContext c = true → s.launchOf c = some l → s.queue? l.q = some x → x.cmds = p :: r →
    (l.st = .running → (s.ctx c).quenchOrdered = false → (∀ k ∈ s.ctxCores c, (s.core k).partEnded = true) → s.setsDone l = true → Runs (.launchComplete c) s fun t =>
      unbound s t c ∧ (t.queue l.q).cmds = { p with outcome := some { result := l.l.getD 0 } } :: r ∧ t.mem = s.mem) ∧
    (∀ k ∈ s.ctxCores c, (s.core k).partEnded = false → Runs (.launchComplete c) s fun t => t = s) ∧
    ((s.ctx c).quenchOrdered = true → l.st ≠ .checked → Runs (.faultQuench c) s fun t => unbound s t c ∧ t.queues = s.queues ∧ t.mem = s.mem) ∧
    ((s.ctx c).quenchOrdered = false → Runs (.faultQuench c) s fun t => t = s))

/-- R328, R329. The coordinator of a job collects READY of every package, sends ARM with the first multiple of 4 at or after its count plus 200,000 when all have come and agree, with λ 64, the anchor (0, L) and the sequence begun anew, and ABORT where a
time-base flag is bad or two messages disagree. ARMED is noted. At L − 50,000 it sends GO where every package is armed and none bad, else ABORT; ABORT also when a READY is missing 100 ms after the first. -/
def Sys2Proof.Machine.CoordinatorsCollectReadies : Prop :=
  ∀ (s : State) (m : ReadyMsg) (k : Coord), s.holder ≠ none →
    (k = (s.coord? m.job).getD {} → m.pkg ∉ k.collect.map (·.pkg) →
      (∀ c x, (∀ r ∈ k.collect ++ [m], badFlags r = false) → (∀ r ∈ k.collect, agree m r = true) → s.jobLaunch m.job = some (c, x) →
        (x.st = .bound → k.collect.length + 1 = x.packages → Runs (.ready m) s fun t =>
          t.sent = s.sent ++ [.arm m.job (roundUp (s.kcount + 200000) 4)] ∧
          (∃ y, t.coord? m.job = some y ∧ y.l = some (roundUp (s.kcount + 200000) 4) ∧ y.readies = k.collect ++ [m] ∧ y.collect = [] ∧ y.armedBy = [] ∧ y.ended = false ∧
            y.lam = 64 ∧ y.seq = 0 ∧ y.lastT = none ∧ y.anchors = [{ beat := 0, at16 := 16 * roundUp (s.kcount + 200000) 4, lam := 64 }] ∧ y.answers = [] ∧ y.schedOp = m.schedOp) ∧
          t = { s with coords := t.coords, sent := t.sent, packetOut := t.packetOut }) ∧
        (k.collect.length + 1 < x.packages → Runs (.ready m) s fun t =>
          t.coord? m.job = some { k with collect := k.collect ++ [m] } ∧ t = { s with coords := t.coords })) ∧
      ((∃ r ∈ k.collect ++ [m], badFlags r = true) ∨ (∃ r ∈ k.collect, agree m r = false) → Runs (.ready m) s fun t =>
        t.sent = s.sent ++ [.abort m.job] ∧ t.coord? m.job = some { k with collect := [] } ∧ t = { s with coords := t.coords, sent := t.sent, packetOut := t.packetOut })) ∧
    (s.coord? m.job = some k →
      (Runs (.armed m) s fun t =>
        (∃ y, t.coord? m.job = some y ∧ m.pkg ∈ y.armedBy ∧ y.armedBad = (k.armedBad || badFlags m) ∧ y.readies = k.readies) ∧ t = { s with coords := t.coords }) ∧
      (k.collect ≠ [] → Runs (.readyCollectTimeout m.job) s fun t =>
        t.sent = s.sent ++ [.abort m.job] ∧ t.coord? m.job = some { k with collect := [] } ∧ t = { s with coords := t.coords, sent := t.sent, packetOut := t.packetOut }) ∧
      (k.ended = false → ∀ n, k.l = some n →
        ((∀ r ∈ k.readies, r.pkg ∈ k.armedBy) → k.armedBad = false → Runs (.armedDeadline m.job) s fun t => t = { s with sent := s.sent ++ [.go m.job], packetOut := t.packetOut }) ∧
        ((∃ r ∈ k.readies, r.pkg ∉ k.armedBy) ∨ k.armedBad = true → Runs (.armedDeadline m.job) s fun t =>
          t.sent = s.sent ++ [.abort m.job] ∧ t.coord? m.job = some { k with ended := true } ∧ t = { s with coords := t.coords, sent := t.sent, packetOut := t.packetOut })))

/-- R328, R329. ARM arms a bound launch and every die of its grid with L, and the package answers ARMED. GO is noted. ABORT, and a deadline that passes with no answer, end the LAUNCH with error status and its binding; a deadline raises F_LAUNCH_SYNC
besides, and JOB_FAULT with the package and its count goes to the job's other packages (R500). GO and ABORT that meet no active keeper are lost (R506, R508). -/
def Sys2Proof.Machine.PackagesFollowTheCoordinator : Prop :=
  ∀ (j c n : Nat) (s : State) (x : Launch) (y : Queue) (p : Pending) (r : List Pending), s.jobLaunch j = some (c, x) → s.queue? x.q = some y → y.cmds = p :: r →
    (x.st = .bound → s.holder ≠ none → Runs (.arm j n) s fun t =>
      t.launchOf c = some { x with st := .armed, l := some n } ∧ (∀ d ∈ s.gridDies c, (t.die d).gridOf (s.ctx c).job = { job := some (s.ctx c).job, armed := some n } ∧
        t.die d = { s.die d with grids := (t.die d).grids } ∧ ∀ i, i ≠ (s.ctx c).job → (t.die d).gridOf i = (s.die d).gridOf i) ∧
      (∀ d, d ∉ s.gridDies c → t.die d = s.die d) ∧ (∃ m, t.sent = s.sent ++ [.armed m] ∧ m.job = (s.ctx c).job ∧ m.pkg = s.pkgId) ∧
      t = { s with contexts := t.contexts, dies := t.dies, sent := t.sent, packetOut := t.packetOut }) ∧
    (x.st = .armed → s.holder ≠ none → Runs (.go j) s fun t => t.launchOf c = some { x with go := true } ∧ (∀ e, e ≠ c → t.ctx? e = s.ctx? e) ∧ t = { s with contexts := t.contexts }) ∧
    (x.st = .placing ∨ x.st = .bound ∨ x.st = .armed → s.holder ≠ none → Runs (.abort j) s fun t =>
      unbound s t c ∧ (t.queue x.q).cmds = { p with outcome := some { status := 1 } } :: r ∧ t.mem = s.mem) ∧
    (s.holder = none → (Runs (.go j) s fun t => t = s) ∧ Runs (.abort j) s fun t => t = s) ∧
    (x.st = .checked → s.holder ≠ none → Runs (.abort j) s fun t =>
      t.launchOf c = none ∧ (t.queue x.q).cmds = { p with outcome := some { status := 1 } } :: r ∧ t.mem = s.mem ∧ t.cores = s.cores ∧ t.dies = s.dies) ∧
    (s.hasRoom s.serviceDie → 1 < x.packages → (x.st = .armed → x.go = false → Runs (.armDisarmDeadline j) s fun t =>
        unbound s t c ∧ (t.queue x.q).cmds = { p with outcome := some { status := 1 } } :: r ∧ raised s t s.serviceDie fLaunchSync ∧ t.sent = s.sent ++ [.jobFault (s.ctx c).job fLaunchSync s.pkgId s.kcount]) ∧
      (x.st = .bound → Runs (.readyAnswerTimeout j) s fun t =>
        unbound s t c ∧ (t.queue x.q).cmds = { p with outcome := some { status := 1 } } :: r ∧ raised s t s.serviceDie fLaunchSync ∧ t.sent = s.sent ++ [.jobFault (s.ctx c).job fLaunchSync s.pkgId s.kcount]))

/-- R337. The answer to a request for point q has the next SEQ, the λ that is the larger of the present one and 64 times the rate of the schedule point over that of q, rounded up, and a T that is a multiple of 4, at least 20,000 counts ahead and 4 past the last
answer's; it goes to every die where λ changes, to the requester alone where it does not. -/
def Sys2Proof.Machine.StretchRequestsAreAnswered : Prop :=
  ∀ (r : StretchReq) (s : State) (k : Coord), s.holder ≠ none → s.coordOf r.job = some k → 1 ≤ r.q → r.q ≤ 6 → Runs (.stretchRequest r) s fun t =>
    (∃ a b, t.sent = s.sent ++ [.stretchAns r.job a b] ∧ a.seq = k.seq + 1 ∧ a.lam = max k.lam (ceilDiv (64 * rate10 k.schedOp) (rate10 r.q)) ∧ a.k = a.lam - k.lam ∧
      (b = true ↔ a.lam ≠ k.lam) ∧ a.t % 4 = 0 ∧ s.kcount + 20000 ≤ a.t ∧ (∀ u, k.lastT = some u → u + 4 ≤ a.t) ∧ (∀ n, k.l = some n → n ≤ a.t) ∧ a.die = r.die ∧ a.pkg = r.pkg ∧
      ∃ y, t.coord? r.job = some y ∧ y.seq = a.seq ∧ y.lam = a.lam ∧ y.lastT = some a.t ∧ y.answers = k.answers ++ [a]) ∧
    t = { s with coords := t.coords, dies := t.dies, sent := t.sent, packetOut := t.packetOut }

/-- Every answer of a coordinator whose count T has come by count `n` is acknowledged: by the die that asked where λ did not change, else by every die that the packages' READY named (R337, R339). -/
def Sys2Proof.Machine.allAcked (k : Coord) (n : Nat) : Prop :=
  ∀ a ∈ k.answers, a.t ≤ n → (a.k = 0 → (a.pkg, a.die, a.seq) ∈ k.acks) ∧ (a.k ≠ 0 → ∀ r ∈ k.readies, ∀ d ∈ r.dies, (r.pkg, d, a.seq) ∈ k.acks)

/-- R337, R339, R341. A die holds an answer on the grid of its job and acknowledges it, and one that comes after its instant raises F_STRETCH_LATE. The answer due first among the started grids of a die adds its anchor there, and the die
that asked moves to its point. A request without an answer, and an answer without its acknowledgements, raise F_STRETCH_LATE when their time has passed. -/
def Sys2Proof.Machine.AnswersBecomeAnchors : Prop :=
  ∀ (d j : Nat) (a : StretchAns) (s : State),
    (isDie d = true → ((s.die d).gridOf a.job).job = some a.job → ((s.die d).gridOf a.job).started = true → 16 * s.count d ≤ gridAt ((s.die d).gridOf a.job).anchors a.bT →
      Runs (.stretchAnswer d a) s fun t =>
        (t.die d).gridOf a.job = { (s.die d).gridOf a.job with pending := ((s.die d).gridOf a.job).pending ++ [a] } ∧ (∀ i, i ≠ a.job → (t.die d).gridOf i = (s.die d).gridOf i) ∧
        (t.die d).ledger = (s.die d).ledger ∧
        (∀ q w u, (s.die d).stretch = .sent q w u → (t.die d).stretch = if a.die = d ∧ a.pkg = s.pkgId then .answered q w a.bT else .sent q w u) ∧
        t.sent = s.sent ++ [.stretchAck a.job d a.seq] ∧ (∀ e, e ≠ d → t.die e = s.die e) ∧ t = { s with dies := t.dies, sent := t.sent, packetOut := t.packetOut }) ∧
    (isDie d = true → ((s.die d).gridOf a.job).job = some a.job → ((s.die d).gridOf a.job).started = true → gridAt ((s.die d).gridOf a.job).anchors a.bT < 16 * s.count d → s.hasRoom d →
      Runs (.stretchAnswer d a) s fun t => raised s t d fStretchLate ∧ t.sent = s.sent ++ [.stretchAck a.job d a.seq]) ∧
    (∀ at16, isDie d = true → s.anchorDue d = some (j, a, at16) →
      (∃ g ∈ (s.die d).grids, g.job = some j ∧ g.started = true ∧ g.pending.head? = some a ∧ at16 = gridAt g.anchors a.bT) ∧
      (∀ g ∈ (s.die d).grids, ∀ b, g.job ≠ none → g.started = true → g.pending.head? = some b → at16 ≤ gridAt g.anchors b.bT) ∧
      Runs (.anchorApply d) s fun t =>
        (t.die d).gridOf j = { (s.die d).gridOf j with
          pending := ((s.die d).gridOf j).pending.drop 1, seq := a.seq, anchors := ((s.die d).gridOf j).anchors ++ [{ beat := a.bT, at16 := at16, lam := a.lam }] } ∧
        (∀ i, i ≠ j → (t.die d).gridOf i = (s.die d).gridOf i) ∧
        (∀ q w b, a.die = d → a.pkg = s.pkgId → (s.die d).stretch = .answered q w b → (t.die d).stretch = .holds q (s.count d) ∧ (t.die d).targetOp = q) ∧
        (∀ e, e ≠ d → t.die e = s.die e) ∧ t = { s with dies := t.dies }) ∧
    (∀ q w u, isCompute d = true → (s.die d).stretch = .sent q w u → (s.die d).job = some j → s.hasRoom d → Runs (.stretchAnswerTimeout d) s fun t =>
      raised s t d fStretchLate ∧ t = { s with dies := t.dies }) ∧
    (∀ k, s.coord? j = some k → (∀ p n, Runs (.stretchAck j p n a.seq) s fun t =>
        t.coord? j = some { k with acks := k.acks ++ [(p, n, a.seq)] } ∧ t = { s with coords := t.coords }) ∧
      (k.ended = false → ¬ allAcked k s.kcount → s.hasRoom s.serviceDie → Runs (.stretchAckDeadline j) s fun t =>
        raised s t s.serviceDie fStretchLate ∧ t.coord? j = some { k with answers := k.answers.filter fun a => decide (s.kcount < a.t) } ∧ t = { s with coords := t.coords, dies := t.dies }) ∧
      (k.ended = false → allAcked k s.kcount → Runs (.stretchAckDeadline j) s fun t =>
        t.coord? j = some { k with answers := k.answers.filter fun a => decide (s.kcount < a.t) } ∧ t = { s with coords := t.coords }) ∧
      (k.ended = true → Runs (.stretchAckDeadline j) s fun t => t = s))

/-! ## Commands of kernel queues (R278 to R289, R312 to R314, R389 to R393, R505, R508, R512 to R517, R530 to R534, R545, R568) -/

/-- A command stands at the head of a kernel queue, journalled, not ended, taken, with others behind it; one that R355 gives to the primary port stands on that port. A keeper acts. -/
def Sys2Proof.Machine.kernelHead (s : State) (q : QRef) (p : Pending) (l : List Pending) : Prop :=
  (q = .kernel 0 ∨ q = .kernel 1) ∧ s.holder.isSome = true ∧ p.outcome = none ∧ p.taken = true ∧ p.journal = none ∧
  ∃ x, s.queue? q = some x ∧ x.cmds = p :: l ∧ (primaryOnly p.cmd = true → x.port = s.primary)

/-- The rows of kernel commands. -/
def Sys2Proof.Machine.kernelRows (q : QRef) : List Instr :=
  [.createContext q, .destroyContext q, .createQueue q, .resumeQueue q, .keyInstall q, .tallyForce q, .channelDrain q, .larderWrite q [], .ledgerDrain q, .inventoryRead q,
   .pathSetup q, .pathTeardown q, .recover q, .dieRetire q [] true, .nop q]

/-- R355, R369, R505, R508. A kernel command acts only once its journal record is acknowledged: while it is not, each row leaves everything as it is; once it is, HEAD passes its entry, and the row acts as for one that HEAD had passed before. A command that is taken
gets the next place in the order of its package, and the rest is as for one that was taken before. While no keeper acts it stays as it is. On the secondary port a command that R355 gives to the primary ends at once with status 4, and has no other effect. -/
def Sys2Proof.Machine.KernelCommandsAreJournalled : Prop :=
  ∀ (k : Nat) (s : State) (x : Queue) (p : Pending) (l : List Pending), k < 2 → s.queue? (.kernel k) = some x → x.cmds = p :: l → p.outcome = none →
    (∀ n, p.journal = some n →
      (s.journalled n = false → ∀ i ∈ kernelRows (.kernel k), Runs i s fun t => t = s) ∧
      (s.journalled n = true → (s.settleHead (.kernel k)).queue? (.kernel k) = some { x with head := x.head + BitVec.ofNat 32 p.span, cmds := { p with journal := none } :: l } ∧
        otherQueues s (s.settleHead (.kernel k)) (.kernel k) ∧ s.settleHead (.kernel k) = { s with queues := (s.settleHead (.kernel k)).queues } ∧
        ∀ i ∈ kernelRows (.kernel k), exec i s = exec i (s.settleHead (.kernel k)))) ∧
    (p.journal = none →
      (p.taken = false → (s.takeCmd (.kernel k) p).serial = s.serial + 1 ∧ ((s.takeCmd (.kernel k) p).queue (.kernel k)).cmds = { p with taken := true, serial := s.serial } :: l ∧
        (s.holder.isSome = true → ∀ i ∈ kernelRows (.kernel k), exec i s = exec i (s.takeCmd (.kernel k) p))) ∧
      (s.holder = none → ∀ i ∈ kernelRows (.kernel k), Runs i s fun t => t = s) ∧
      (s.holder.isSome = true → p.taken = true → primaryOnly p.cmd = true → x.port ≠ s.primary → ∀ i ∈ kernelRows (.kernel k), Runs i s fun t =>
        endsWith t (.kernel k) p l 4 0 0 ∧ otherQueues s t (.kernel k) ∧ t = { s with queues := t.queues }))

/-- R62, R308, R390. CREATE_CONTEXT makes the context that its block spells, and its events' SEQ and STAMP are zero; from then on no die's count is held. It is refused where the context exists, and before the epoch is set or while a LARDER_WRITE runs (R70, R288). -/
def Sys2Proof.Machine.ContextsAreCreated : Prop :=
  ∀ (q : QRef) (s : State) (p : Pending) (l : List Pending) (c a : Nat) (x : Context), kernelHead s q p l → p.cmd = .createContext c a →
    contextOf (s.queue q).port (s.kernelRead q a 64) = (x, false) → isContext c = true →
    (s.ctx? c = none → s.jobCtxs x.job = [] → s.service ≠ .stopped → s.stopping = false → s.epochSet = true → s.larderBusy = false → s.locate x.eventTable (32 * x.events) = .cellar x.eventTable →
      s.cellarMapped x.eventTable (32 * x.events) = true → s.mem.wf = true → Runs (.createContext q) s fun t =>
        t.ctx? c = some x ∧ endsWith t q p l 0 0 0 ∧ t.admitted = true ∧ (∀ e, e < x.events → readLe t.mem (eventAddr x e) 8 = 0 ∧ readLe t.mem (eventAddr x e + 8) 8 = 0) ∧
        (∀ b, b < x.eventTable ∨ x.eventTable + 32 * x.events ≤ b → readByte t.mem b = readByte s.mem b) ∧ (∀ e, e ≠ c → t.ctx? e = s.ctx? e) ∧
        (∀ d, isDie d = true → (t.die d).tb.hold = 0 ∧ t.die d = { s.die d with tb := (t.die d).tb }) ∧
        t = { s with queues := t.queues, contexts := t.contexts, mem := t.mem, dies := t.dies, admitted := true }) ∧
    ((s.ctx? c).isSome = true ∨ s.epochSet = false ∨ s.larderBusy = true → Runs (.createContext q) s fun t => endsWith t q p l 1 0 0 ∧ t = { s with queues := t.queues })

/-- R392, R545. DESTROY_CONTEXT of a context with no launch takes its queues away and erases its keys, the wrapped copies in the journal too (R520), and its cellar granules become ERASING where it is sealed; the context is gone and the command ends once no scrub of its dies is under way. Without KILL a context
whose launch is bound is not destroyed, and one that does not exist is refused. -/
def Sys2Proof.Machine.ContextsAreDestroyed : Prop :=
  ∀ (q : QRef) (s : State) (p : Pending) (l : List Pending) (c : Nat) (kill : Bool), kernelHead s q p l → p.cmd = .destroyContext c kill →
    (s.ctx? c = none → Runs (.destroyContext q) s fun t => endsWith t q p l 1 0 0 ∧ t = { s with queues := t.queues }) ∧
    (kill = false → (s.launchOf c).isSome = true → (s.ctx c).dying = false → Runs (.destroyContext q) s fun t => endsWith t q p l 1 0 0 ∧ t = { s with queues := t.queues }) ∧
    (isContext c = true → (s.ctx? c).isSome = true → (s.ctx c).dying = false → s.launchOf c = none → s.ctxQueues c = [] → (∀ e, e ≠ c → (s.ctx e).dying = false) →
      (∀ e ∈ s.sets, ∀ w, e.2 = some w → w.ctx ≠ c) → Runs (.destroyContext q) s fun t =>
        (s.scrubbingCtx c = false → t.ctx? c = none ∧ endsWith t q p l 0 0 0) ∧
        (s.scrubbingCtx c = true → (∃ x, t.ctx? c = some x ∧ x.dying = true ∧ x.jobKey = [] ∧ x.staging = [] ∧ x.xts = [] ∧ x.mac = []) ∧ (t.queue q).cmds = p :: l) ∧
        (∀ e, e ≠ c → t.ctx? e = s.ctx? e) ∧ (∀ r ∈ t.journal, r.subject = 9 → r.key = c → r.wrapped = []) ∧
        ((s.ctx c).sealed = true → ∀ g, t.owner g = if s.owner g = .context c then .erasing else s.owner g) ∧ t.mem = s.mem)

/-- R391, R393. CREATE_QUEUE makes an empty queue with the attributes of its command, and with DELETE takes one away that performs nothing, while one whose command is being performed goes when that has completed; it is refused past 16,384 queues. RESUME_QUEUE clears the causes of a queue whose link is up, writes its held records or discards them, and
with RESTART lets a stopped queue fetch again; its result is the number written. -/
def Sys2Proof.Machine.QueuesAreCreatedAndResumed : Prop :=
  ∀ (q : QRef) (s : State) (p : Pending) (l : List Pending) (c n : Nat), kernelHead s q p l → isQueue (.normal c n) = true → (s.hp (s.queue q).port).ats = false →
    (∀ log2 cls fetch window vector sq cq status, p.cmd = .createQueue c n false log2 cls fetch window vector sq cq status → s.alive c = true → tdiLocked (s.ctx c) = false →
      s.queue? (.normal c n) = none →
      (s.normalQueues < 16384 → (cls ≠ 0 ∨ s.class0Queues (s.queue q).port < 64) → Runs (.createQueue q) s fun t =>
        (∃ y, t.queue? (.normal c n) = some y ∧ y.head = 0 ∧ y.tail = 0 ∧ y.doneIdx = 0 ∧ y.cmds = [] ∧ y.records = [] ∧ y.st = .idle ∧ y.port = (s.queue q).port ∧
          y.log2 = log2 ∧ y.cls = cls ∧ y.fetch = fetch ∧ y.sq = sq ∧ y.cq = cq ∧ y.status = status) ∧
        endsWith t q p l 0 0 0 ∧ t = { s with queues := t.queues }) ∧
      (16384 ≤ s.normalQueues → Runs (.createQueue q) s fun t => endsWith t q p l 1 0 0 ∧ t.queue? (.normal c n) = none ∧ t = { s with queues := t.queues })) ∧
    (∀ log2 cls fetch window vector sq cq status x, p.cmd = .createQueue c n true log2 cls fetch window vector sq cq status → s.alive c = true → tdiLocked (s.ctx c) = false →
      s.queue? (.normal c n) = some x → x.port = (s.queue q).port → x.deleting = none → x.cmds = [] → Runs (.createQueue q) s fun t =>
        t.queue? (.normal c n) = none ∧ endsWith t q p l 0 0 0 ∧ t = { s with queues := t.queues }) ∧
    (∀ log2 cls fetch window vector sq cq status x w r, p.cmd = .createQueue c n true log2 cls fetch window vector sq cq status → s.alive c = true → tdiLocked (s.ctx c) = false →
      s.queue? (.normal c n) = some x → x.port = (s.queue q).port → x.deleting = none → x.cmds = w :: r → w.taken = true → x.st ≠ .waiting → Runs (.createQueue q) s fun t =>
        (∃ y, t.queue? (.normal c n) = some y ∧ y.deleting = some q ∧ y.cmds = [w] ∧ y.records = x.records) ∧ (t.queue q).cmds = p :: l ∧ t = { s with queues := t.queues }) ∧
    (∀ discard restart x, p.cmd = .resumeQueue c n discard restart → s.queue? (.normal c n) = some x → x.holdCq = false → (s.hp x.port).up = true →
      Runs (.resumeQueue q) s fun t =>
        (∃ y, t.queue? (.normal c n) = some y ∧ y.records = [] ∧ y.holdCq = false ∧ y.holdLink = false ∧ y.cmds = x.cmds ∧ y.head = x.head ∧ y.tail = x.tail ∧
          (x.st = .stopped → (y.st = .stopped ↔ restart = false))) ∧
        endsWith t q p l 0 0 (if discard then 0 else x.records.length) ∧ t.mem = s.mem)

/-- R520, R533, R534. KEY_INSTALL seals the context with the keys that its blob opens to, once, and journals them under the journal key alone; a blob that a check rejects raises F_KEY_REJECT, ends the command with error status, and no key changes. -/
def Sys2Proof.Machine.KeysAreInstalled : Prop :=
  ∀ (q : QRef) (s : State) (p : Pending) (l : List Pending) (c a n : Nat), kernelHead s q p l → p.cmd = .keyInstall c a n → s.alive c = true →
    (∀ k, s.keyBlob (s.queue q).port c n (s.kernelRead q a 208) = some k → Runs (.keyInstall q) s fun t =>
      (t.ctx c).sealed = true ∧ (t.ctx c).xts = slice k 0 64 ∧ (t.ctx c).mac = slice k 64 32 ∧ (t.ctx c).staging = slice k 96 32 ∧ (t.ctx c).jobKey = slice k 128 32 ∧
      (∀ e, e ≠ c → t.ctx? e = s.ctx? e) ∧ endsWith t q p l 0 0 0 ∧
      (∃ iv, t.journal = s.journal ++ [{ seq := s.journalNext, subject := 9, key := c, wrapped := iv ++ (gcmSeal journalKey iv [] k).1 ++ (gcmSeal journalKey iv [] k).2 }]) ∧
      t = { s with queues := t.queues, contexts := t.contexts, sessions := t.sessions, journal := t.journal, journalNext := s.journalNext + 1, fresh := t.fresh }) ∧
    (s.keyBlob (s.queue q).port c n (s.kernelRead q a 208) = none → s.hasRoom s.serviceDie → Runs (.keyInstall q) s fun t =>
      raised s t s.serviceDie fKeyReject ∧ endsWith t q p l 1 fKeyReject 0 ∧ t = { s with queues := t.queues, dies := t.dies })

/-- R51, R312, R313, R314. A force of mode 0 gives its tally the value, RESULT the one it held, and marks the context FORCED; one of mode 1 takes the head of a unit's queue away without a result. DG_TALLY_FORCE does the same where the context is in debug mode and bound, only notes its fields
where GO is 0 or no launch is bound, and is ignored where the context is not in debug mode or GO reads 1. Where the tally's core stands on a die at OP0 the force waits in flight (R51), TALLY_FORCE at the head and the register with GO = 1. -/
def Sys2Proof.Machine.TalliesAreForced : Prop :=
  (∀ (q : QRef) (s : State) (p : Pending) (l : List Pending) (c unit vid ldie v lcore : Nat), kernelHead s q p l → (s.ctx? c).isSome = true →
    (∀ h i, p.cmd = .tallyForce c 0 unit vid ldie v lcore → s.isBound c = true → s.forceHome c vid (some ldie) = some (h, i) → (s.ctx c).quenchOrdered = false → (h < 1000 → s.atOp0 (h / 4) = false) → (s.tally h i).waits = [] →
      Runs (.tallyForce q) s fun t =>
        (t.tally h i).value.toNat = v % 2 ^ 32 ∧ otherTallies s t h i ∧ (t.ctx c).tallyForced = true ∧ endsWith t q p l 0 0 (s.tally h i).value.toNat ∧
        t = { s with queues := t.queues, contexts := t.contexts, cores := t.cores, dies := t.dies }) ∧
    (∀ h i, p.cmd = .tallyForce c 0 unit vid ldie v lcore → s.isBound c = true → s.forceHome c vid (some ldie) = some (h, i) → h < 1000 → s.atOp0 (h / 4) = true →
      Runs (.tallyForce q) s fun t => (∃ m, t.tallyMsgs = s.tallyMsgs ++ [m] ∧ m.act = .set ∧ m.ctx = c ∧ m.home = h ∧ m.index = i ∧ m.n = v % 2 ^ 32 ∧ m.result = some q ∧ m.serial = p.serial) ∧
        t = { s with tallyMsgs := t.tallyMsgs }) ∧
    (∀ k e r, p.cmd = .tallyForce c 1 unit vid ldie v lcore → s.isBound c = true → s.ctxCoreOf c lcore = some k → unit < 6 → unitQueue (s.core k) unit = e :: r →
      (unit = 1 ∨ unit = 2 → (eng (s.core k) (unit - 1)).tableQueue = []) →
      Runs (.tallyForce q) s fun t =>
        unitQueue (t.core k) unit = r ∧ (t.ctx c).tallyForced = true ∧ endsWith t q p l 0 0 unit ∧ (∀ j, j ≠ k → t.core j = s.core j) ∧ t.mem = s.mem) ∧
    (∀ mode, p.cmd = .tallyForce c mode unit vid ldie v lcore → s.isBound c = false → Runs (.tallyForce q) s fun t => endsWith t q p l 1 0 0 ∧ t = { s with queues := t.queues })) ∧
  (∀ (v : Word) (s : State) (c : Nat), bits v.toNat 16 10 = c →
    (s.dgGo = true → ∀ i, (i = .dgTallyForceSet v ∨ i = .dgTallyForceAbort v) → Runs i s fun t => t = s) ∧ (s.dgGo = false →
    (∀ h i, bit v.toNat 30 = false → bit v.toNat 31 = true → (s.ctx c).debugOn = true → s.isBound c = true → s.forceHome c (bits v.toNat 0 16) none = some (h, i) →
      ((s.ctx c).quenchOrdered = false → (h < 1000 → s.atOp0 (h / 4) = false) → (s.tally h i).waits = [] → Runs (.dgTallyForceSet v) s fun t =>
        (t.tally h i).value.toNat = v.toNat / 2 ^ 32 ∧ otherTallies s t h i ∧ (t.ctx c).tallyForced = true ∧ t.dgGo = false) ∧
      (h < 1000 → s.atOp0 (h / 4) = true → Runs (.dgTallyForceSet v) s fun t => t.dgGo = true ∧ (∃ m, t.tallyMsgs = s.tallyMsgs ++ [m] ∧ m.act = .set ∧ m.home = h ∧ m.index = i ∧
        m.n = v.toNat / 2 ^ 32) ∧ t = { s with tallyMsgs := t.tallyMsgs, dgGo := t.dgGo, dgValue := t.dgValue, dgMode := t.dgMode, dgCtx := t.dgCtx, dgVid := t.dgVid })) ∧
    (∀ k e r, bit v.toNat 30 = true → bit v.toNat 31 = true → (s.ctx c).debugOn = true → s.isBound c = true → s.ctxCoreOf c (bits v.toNat 40 8) = some k →
      bits v.toNat 32 3 < 6 → unitQueue (s.core k) (bits v.toNat 32 3) = e :: r → Runs (.dgTallyForceAbort v) s fun t =>
        unitQueue (t.core k) (bits v.toNat 32 3) = r ∧ (t.ctx c).tallyForced = true ∧ (∀ j, j ≠ k → t.core j = s.core j) ∧ t.mem = s.mem) ∧
    (∀ i, (i = .dgTallyForceSet v ∨ i = .dgTallyForceAbort v) → bit v.toNat 31 = true → (s.ctx c).debugOn = false → Runs i s fun t => t = s) ∧
    (∀ i, (i = .dgTallyForceSet v ∧ bit v.toNat 30 = false ∨ i = .dgTallyForceAbort v ∧ bit v.toNat 30 = true) → bit v.toNat 31 = true → (s.ctx c).debugOn = true → s.isBound c = false → Runs i s fun t =>
      t.dgCtx = c ∧ t = { s with dgValue := t.dgValue, dgMode := t.dgMode, dgCtx := t.dgCtx, dgVid := t.dgVid }) ∧
    (bit v.toNat 30 = false → bit v.toNat 31 = false → Runs (.dgTallyForceSet v) s fun t =>
      t.dgVid = bits v.toNat 0 16 ∧ t.dgCtx = c ∧ t.dgMode = false ∧ t = { s with dgValue := t.dgValue, dgMode := t.dgMode, dgCtx := t.dgCtx, dgVid := t.dgVid })))

/-- R278, R280. CHANNEL_DRAIN begins the drain of an active channel whose frames find spare frames elsewhere while no other moves, and with RETURN the return of one that is DRAINED or FAILED; else it is refused. -/
def Sys2Proof.Machine.DrainsBegin : Prop :=
  ∀ (q : QRef) (s : State) (p : Pending) (l : List Pending) (ch : Nat) (ret : Bool), kernelHead s q p l → p.cmd = .channelDrain ch ret → (s.channel ch).drainQ ≠ some q →
    (ret = false → (s.channel ch).st = .active → s.otherMoves ch = false → s.framesToMove ch ≤ s.sparesElsewhere ch → Runs (.channelDrain q) s fun t =>
      (t.channel ch).st = .draining ∧ (t.channel ch).drainQ = some q ∧ (∀ c, c ≠ ch → t.channel c = s.channel c) ∧ t = { s with dies := t.dies, channels := t.channels }) ∧
    (ret = true → (s.channel ch).st = .drained ∨ (s.channel ch).st = .failed → Runs (.channelDrain q) s fun t =>
      (t.channel ch).st = .returning ∧ (t.channel ch).drainQ = some q ∧ (∀ c, c ≠ ch → t.channel c = s.channel c) ∧ t = { s with dies := t.dies, channels := t.channels }) ∧
    (ret = false → (s.channel ch).st ≠ .active → Runs (.channelDrain q) s fun t => endsWith t q p l 1 0 0 ∧ t = { s with queues := t.queues })

/-- R288, R530, R568. LARDER_WRITE copies whole pages from the cellar to the user area of the larder while service is stopped and nothing is bound; it is refused while it is not. LEDGER_DRAIN writes 64-byte entries of the merged log, and INVENTORY_READ the record and the identity key, to
host memory; their results are the entries and the bytes written. -/
def Sys2Proof.Machine.LarderLedgerAndInventory : Prop :=
  ∀ (q : QRef) (s : State) (p : Pending) (l : List Pending), kernelHead s q p l →
    (∀ src dst n, p.cmd = .larderWrite src dst n →
      (∀ u b, s.service = .stopped → s.boundCtxs = [] → (s.sets.any fun e => e.2.isSome) = false → src % 4096 = 0 → dst % 4096 = 0 → n % 4096 = 0 → s.locate src n = .cellar src →
        s.cellarMapped src n = true → s.locate dst n = .larder dst → s.memRead .keeper src n = .ok u b → u.mem = s.mem → u.queues = s.queues → s.mem.wf = true →
        Runs (.larderWrite q []) s fun t =>
          readBytes t.mem dst n = readBytes s.mem src n ∧ (∀ a, a < dst ∨ dst + n ≤ a → readByte t.mem a = readByte s.mem a) ∧ endsWith t q p l 0 0 0) ∧
      (∀ bad, s.service ≠ .stopped → Runs (.larderWrite q bad) s fun t => endsWith t q p l 1 0 0 ∧ t = { s with queues := t.queues })) ∧
    (∀ dest max since, p.cmd = .ledgerDrain dest max since → s.hostMem.wf = true → Runs (.ledgerDrain q) s fun t =>
      t.hostRead (s.queue q).port 0 (alignTo 64 dest) (64 * (s.drainEntries since max).length) = (s.drainEntries since max).flatMap entryBytes ∧
      endsWith t q p l 0 0 (s.drainEntries since max).length ∧ t = { s with queues := t.queues, hostMem := t.hostMem }) ∧
    (∀ dest n, p.cmd = .inventoryRead dest n → s.hostMem.wf = true → Runs (.inventoryRead q) s fun t =>
      t.hostRead (s.queue q).port 0 dest (min n 576) = (inventoryBytes s.idKey s.inv ++ slice s.idKey 0 64).take (min n 576) ∧
      endsWith t q p l 0 0 (min n 576) ∧ t = { s with queues := t.queues, hostMem := t.hostMem })

/-- R512, R516. RECOVER quarantines a compute die; releases one whose fault allows it, a spare staying in bypass; tests one anew, which is released where it passes and raises F_SELFTEST where it does not; holds an optical port and lets it go; and quenches a
context by force. A pair that the manual does not list is refused. -/
def Sys2Proof.Machine.RecoverActs : Prop :=
  ∀ (q : QRef) (s : State) (p : Pending) (l : List Pending), kernelHead s q p l → s.recover = none →
    (∀ d, p.cmd = .recover 1 0 d → isCompute d = true → Runs (.recover q) s fun t =>
      (t.die d).failed = some ((s.die d).failed.getD fDieFail) ∧ ((s.die d).failed = none → (t.die d).bypass = true) ∧ endsWith t q p l 0 0 0) ∧
    (∀ d f, p.cmd = .recover 1 1 d → s.heldOut d = true → (s.die d).failed = some f → neverReleased f = false → Runs (.recover q) s fun t =>
      (t.die d).failed = none ∧ (t.die d).bypass = s.inv.spares.contains d ∧ (t.die d).railOff = false ∧ endsWith t q p l 0 0 0) ∧
    (∀ d f, p.cmd = .recover 1 1 d → (s.die d).failed = some f → neverReleased f = true → Runs (.recover q) s fun t =>
      (t.die d).failed = some f ∧ endsWith t q p l 1 0 0 ∧ t = { s with queues := t.queues }) ∧
    (∀ d, p.cmd = .recover 1 2 d → s.heldOut d = true → Runs (.recover q) s fun t =>
      (Config.testPasses s.fresh = true → (t.die d).failed = none ∧ (t.die d).bypass = s.inv.spares.contains d ∧ (t.die d).railOff = false) ∧
      (Config.testPasses s.fresh = false → (t.die d).failed = (s.die d).failed ∧ (s.hasRoom d → raised s t d fSelftest)) ∧ endsWith t q p l 0 0 0) ∧
    (∀ d a, p.cmd = .recover 1 a d → 0 < a → s.heldOut d = false → Runs (.recover q) s fun t => endsWith t q p l 1 0 0 ∧ t = { s with queues := t.queues }) ∧
    (∀ n a, p.cmd = .recover 2 a n → a < 2 → isPort n = true → Runs (.recover q) s fun t => (t.port n).hold = decide (a = 0) ∧ endsWith t q p l 0 0 0) ∧
    (∀ c, p.cmd = .recover 3 0 c → (s.ctx? c).isSome = true → Runs (.recover q) s fun t => t.launchOf c = none ∧ (t.ctx? c).isSome = true ∧ endsWith t q p l 0 0 0) ∧
    (∀ target action id, p.cmd = .recover target action id → (target, action) ∉ [(0, 0), (0, 1), (0, 2), (0, 3), (1, 0), (1, 1), (1, 2), (2, 0), (2, 1), (3, 0)] →
      Runs (.recover q) s fun t => endsWith t q p l 1 0 0 ∧ t = { s with queues := t.queues })

/-- R507, R508, R516, R517. RECOVER resets a keeper, which loses the token where it held it; hands the token to a standby keeper, at once where no stretch answer is pending and no launch arms, and refuses where the other is no standby; stops service, which is
STOPPED at once where no context is left and destroys each that is; and resumes it. A hand-over that has waited 100 ms ends with error status. -/
def Sys2Proof.Machine.RecoverMovesKeepersAndService : Prop :=
  ∀ (q : QRef) (s : State) (p : Pending) (l : List Pending), kernelHead s q p l → s.recover = none →
    (∀ k, p.cmd = .recover 0 0 k → k < 2 → Runs (.recover q) s fun t =>
      t.keeper k = .resetting ∧ t.recover = some (q, k) ∧ (t.queue q).cmds = p :: l ∧ t.holder = if s.holder = some k then none else s.holder) ∧
    (∀ k, p.cmd = .recover 0 1 0 → s.holder = some k → k < 2 → s.keeper (1 - k) ≠ .standby → Runs (.recover q) s fun t =>
      t.holder = some k ∧ endsWith t q p l 1 0 0 ∧ t = { s with queues := t.queues }) ∧
    (∀ k, p.cmd = .recover 0 1 0 → s.holder = some k → k < 2 → s.keeper (1 - k) = .standby → s.handoverClear = false → Runs (.recover q) s fun t =>
      t = { s with recover := some (q, 2) }) ∧
    (∀ k, p.cmd = .recover 0 1 0 → s.holder = some k → k < 2 → s.keeper (1 - k) = .standby → s.handoverClear = true → Runs (.recover q) s fun t =>
      t.holder = some (1 - k) ∧ t.keeper (1 - k) = .active ∧ t.keeper k = .standby ∧ t.keeperEpoch = s.keeperEpoch + 1 ∧ t.recover = none ∧ endsWith t q p l 0 0 0) ∧
    (p.cmd = .recover 0 2 0 →
      (s.service = .stopped → Runs (.recover q) s fun t => endsWith t q p l 0 0 0 ∧ t = { s with queues := t.queues }) ∧
      (s.service ≠ .stopped → s.boundCtxs = [] → Runs (.recover q) s fun t => t.service = .stopped ∧ t.stopping = false ∧ t.recover = none ∧ endsWith t q p l 0 0 0) ∧
      (s.service ≠ .stopped → Runs (.recover q) s fun t => ∀ c, (s.ctx? c).isSome = true → t.ctx? c = none ∨ (t.ctx c).dying = true)) ∧
    (p.cmd = .recover 0 3 0 → s.broken = false → s.stopping = false → s.service = .stopped → Runs (.recover q) s fun t =>
      t.service = .normal ∧ t.host0.causeService = true ∧ t.host1.causeService = true ∧ endsWith t q p l 0 0 0) ∧
    (p.cmd = .recover 0 3 0 → s.broken = true ∨ s.stopping = true → Runs (.recover q) s fun t => endsWith t q p l 1 0 0 ∧ t = { s with queues := t.queues }) ∧
    (Runs (.handoverWaitTimeout q) { s with recover := some (q, 2) } fun t => t.recover = none ∧ endsWith t q p l 1 0 0 ∧ t = { s with queues := t.queues })

/-- R36, R514. DIE_RETIRE puts the first spare that passes its test, of those with enough good cores, the fewest first, or of the one that SPARE names, in the place of an active die: it takes the logical index, the die is out of the active set with its rails off,
the spares that fail on the way are consumed, and RESULT is the spare. With no spare that passes the command is refused, and so it is for a die that is not active, and where no spare will do. -/
def Sys2Proof.Machine.DiesAreRetired : Prop :=
  ∀ (q : QRef) (s : State) (p : Pending) (l : List Pending) (d spare : Nat) (bad : List Nat) (a : Bool), kernelHead s q p l → p.cmd = .dieRetire d spare →
    (∀ c m n r, d ∈ s.inv.logical → s.launchesOn d = [] → c = s.sparesFor (s.dieCores d).length → (spare = 0xFF ∨ spare ∈ c) →
      (if spare = 0xFF then c else [spare]) = m ++ n :: r → (∀ e ∈ m, e ∈ bad) → n ∉ bad → n ≠ d → Runs (.dieRetire q bad a) s fun t =>
        t.inv.logical = (s.inv.logical.map fun e => if e = d then n else e) ∧ (t.die d).railOff = true ∧ (t.die d).failed.isSome = true ∧ (t.die n).railOff = false ∧
        (t.die n).failed = none ∧ n ∉ t.inv.spares ∧ d ∈ t.inv.retired ∧ (∀ e ∈ m, e ∉ t.inv.spares) ∧ endsWith t q p l 0 0 n) ∧
    (∀ c m, d ∈ s.inv.logical → s.launchesOn d = [] → c = s.sparesFor (s.dieCores d).length → (spare = 0xFF ∨ spare ∈ c) → (if spare = 0xFF then c else [spare]) = m → m ≠ [] →
      (∀ e ∈ m, e ∈ bad) → Runs (.dieRetire q bad a) s fun t =>
        t.inv.logical = s.inv.logical ∧ (t.die d).railOff = true ∧ (t.die d).failed.isSome = true ∧ (∀ e ∈ m, e ∉ t.inv.spares ∧ e ∈ t.inv.retired) ∧ endsWith t q p l 1 0 0) ∧
    (d ∉ s.inv.logical ∨ s.sparesFor (s.dieCores d).length = [] ∨ (spare ≠ 0xFF ∧ spare ∉ s.sparesFor (s.dieCores d).length) → Runs (.dieRetire q bad a) s fun t =>
      endsWith t q p l 1 0 0 ∧ t = { s with queues := t.queues })

/-! ## Host ports and registers (R13, R14, R42, R344 to R361, R549, R558) -/

/-- A count of HQ_ERR at the next value, up to 0xFFFF. -/
def Sys2Proof.Machine.oneMore (n : Nat) : Nat := min 0xFFFF (n + 1)

/-- Only the ports and the interrupts sent changed. -/
def Sys2Proof.Machine.portsOnly (s t : State) : Prop := t = { s with host0 := t.host0, host1 := t.host1, irqs := t.irqs }

/-- R346, R347, R360, R558. A configuration request is answered with Retry Status until the front end is ready; then a read answers the word; a write sets the bits that a host may set, clears those of the bits that writing one clears, and leaves the others; the base address registers keep their writable bits alone, ATS and MSI-X are enabled by their words, and the identification words take no write. -/
def Sys2Proof.Machine.ConfigurationRequests : Prop :=
  ∀ (p o : Nat) (v : Word) (s : State), isHostPort p = true → o < 4096 → o % 4 = 0 →
    (∀ w, s.configReady p = false → Runs (.configRequest p o w) s fun t => t = { s with answers := s.answers ++ [{ kind := "CRS", who := p, words := [] }] }) ∧
    (s.configReady p = true → Runs (.configRequest p o none) s fun t =>
      t = { s with answers := s.answers ++ [{ kind := "CONFIG", who := p, words := [BitVec.ofNat 64 (s.configWord p o)] }] }) ∧
    (s.configReady p = true → o ≠ 0 → o ≠ 8 → Runs (.configRequest p o (some v)) s fun t =>
      (t.hp p).configBits o = Nat.land (v.toNat % 2 ^ 32) (configField o).rw + Nat.land (Nat.land ((s.hp p).configBits o) (configField o).w1c) (2 ^ 32 - 1 - v.toNat % 2 ^ 32) ∧
      (o = 0x154 → (t.hp p).ats = bit (v.toNat % 2 ^ 32) 31) ∧ (o = 0x80 → (t.hp p).msixEnable = bit (v.toNat % 2 ^ 32) 31 ∧ (t.hp p).msixMask = bit (v.toNat % 2 ^ 32) 30) ∧
      (∀ m, barMask o = some m → t.configWord p o = Nat.land (v.toNat % 2 ^ 32) m.1 + m.2) ∧
      (∀ x, x ≠ o → t.configWord p x = s.configWord p x) ∧ t = { s with host0 := t.host0, host1 := t.host1, irqs := t.irqs, answers := t.answers }) ∧
    (s.configReady p = true → (o = 0 ∨ o = 8) → Runs (.configRequest p o (some v)) s fun t => t = { s with answers := t.answers })

/-- R355, R356. A write of HQ_ROLE on the primary port, or on the other while the primary's link is down, makes the port that it names primary, and both ports get HQ_CAUSE.ROLE; on the secondary port it is denied and counted while the primary's link is up. When FAILOVER_MS has passed with the primary's link
down, the other port becomes primary where its link is up and it has AUTO_FAILOVER. -/
def Sys2Proof.Machine.RolesChange : Prop :=
  ∀ (p : Nat) (v : Word) (s : State), isHostPort p = true →
    ((s.hp p).ready = true → s.halted = false → (p = s.primary ∨ (s.hp s.primary).up = false) → bits v.toNat 0 1 ≠ s.primary → Runs (.hqRoleWrite p v) s fun t =>
      t.primary = bits v.toNat 0 1 ∧ t.host0.causeRole = true ∧ t.host1.causeRole = true ∧
      t = { s with primary := t.primary, host0 := t.host0, host1 := t.host1, irqs := t.irqs }) ∧
    ((s.hp p).ready = true → s.halted = false → p ≠ s.primary → (s.hp s.primary).up = true → Runs (.hqRoleWrite p v) s fun t =>
      t.primary = s.primary ∧ (t.hp p).denied = oneMore (s.hp p).denied ∧ portsOnly s t) ∧
    (p = s.primary → (s.hp p).up = false → (s.hp (1 - p)).up = true → (s.hp (1 - p)).autoFailover = true → Runs (.failoverTimeout p) s fun t =>
      t.primary = 1 - p ∧ (t.hp (1 - p)).causeRole = true ∧ t = { s with primary := t.primary, host0 := t.host0, host1 := t.host1, irqs := t.irqs, dies := t.dies }) ∧
    ((s.hp p).up = true ∨ (s.hp (1 - p)).up = false ∨ (s.hp (1 - p)).autoFailover = false → Runs (.failoverTimeout p) s fun t => t = s)

/-- R356, R549. When a port's link goes down, every queue of the port is held by LINK and no other queue is touched, and the other port gets HQ_CAUSE.PEER_DOWN. When it comes back the kernel queue goes on with no record held, and the others stay held; while PERST# is low, or its die is quarantined, it does not come back. The status records that this writes are not turned away. -/
def Sys2Proof.Machine.LinksGoDownAndReturn : Prop :=
  ∀ (p rate width : Nat) (s : State), isHostPort p = true → linkTrains rate width = true →
    ((s.hp p).up = true → (∀ c, dmaBarred (s.ctx c) = false) → Runs (.pcieLinkDown p) s fun t =>
      (t.hp p).up = false ∧ (t.hp (1 - p)).causePeer = true ∧
      (∀ q x, isQueue q = true → s.queue? q = some x → if x.port = p then (t.queue q).holdLink = true ∧ (t.queue q).cmds = x.cmds else t.queue? q = s.queue? q) ∧
      t = { s with queues := t.queues, host0 := t.host0, host1 := t.host1, irqs := t.irqs, hostMem := t.hostMem }) ∧
    ((s.hp p).up = false → (s.hp p).perstLow = false → (s.die (96 + p)).failed = none → Runs (.pcieLinkUp p rate width) s fun t =>
      (t.hp p).up = true ∧ (t.hp p).rate = rate ∧ (t.hp p).width = width ∧ otherQueues s t (.kernel p) ∧
      (∀ x, s.queue? (.kernel p) = some x → (t.queue (.kernel p)).holdLink = false ∧ (t.queue (.kernel p)).records = [] ∧ (t.queue (.kernel p)).cmds = x.cmds) ∧
      t = { s with queues := t.queues, host0 := t.host0, host1 := t.host1, irqs := t.irqs, hostMem := t.hostMem }) ∧
    ((s.hp p).perstLow = true ∨ (s.die (96 + p)).failed.isSome = true → Runs (.pcieLinkUp p rate width) s fun t => t = s) ∧
    (s.phase ≠ 0 → Runs (.perstAssert p) s fun t => (t.hp p).perstLow = true ∧ (t.hp p).up = false) ∧
    (Runs (.perstRelease p) s fun t => (t.hp p).perstLow = false ∧ (t.hp p).up = (s.hp p).up ∧ t = { s with host0 := t.host0, host1 := t.host1 })

/-- R359, R549. A function level reset puts the port's registers back to reset, takes its kernel queue and its SPDM sessions away and destroys every context with a queue on the port; HQ_ROLE stays. PERST# of a part that has started up does the same. -/
def Sys2Proof.Machine.FunctionsAreReset : Prop :=
  ∀ (p : Nat) (s : State) (i : Instr), isHostPort p = true → (i = .functionLevelReset p ∨ (i = .perstAssert p ∧ s.phase = 0)) → Runs i s fun t =>
    (t.hp p).doorbellEn = false ∧ (t.hp p).kqEnable = false ∧ (t.hp p).msix = [] ∧ (t.hp p).doorbell = 0 ∧ (t.hp p).causeError = false ∧ t.primary = s.primary ∧
    t.queue? (.kernel p) = none ∧ (∀ x ∈ t.sessions, x.transport ≠ p) ∧ ∀ c ∈ s.portCtxs p, t.ctx? c = none ∨ (t.ctx c).dying = true

/-- R360, R361, R379. A malformed packet, or one with an ECRC error, is logged and counted; so is an unexpected completion; a request outside the BARs, or an AtomicOp, is answered Unsupported Request once the front end is ready, a read of BAR2 zero, a time request the count; a poisoned write is dropped, and a configuration write to a read-only field ignored. The data of a read reach host memory; a read that
fails, or has no completion, raises F_HOST_DMA once in 1 ms for its job, and is counted otherwise. A failed integrity check makes its stream insecure, takes its key away, and puts the TDIs that are locked to that stream into ERROR. -/
def Sys2Proof.Machine.ViolationsAndDma : Prop :=
  ∀ (p : Nat) (s : State), isHostPort p = true →
    (∀ x, (x = .malformed ∨ x = .ecrcError) → Runs (.pcieTlpReceive p x) s fun t =>
      (t.hp p).malformed = oneMore (s.hp p).malformed ∧ (t.hp p).aer = (s.hp p).aer + 1 ∧ portsOnly s t) ∧
    (Runs (.pcieTlpReceive p .unexpectedCompletion) s fun t => (t.hp p).unexpected = oneMore (s.hp p).unexpected ∧ (t.hp p).aer = (s.hp p).aer + 1 ∧ portsOnly s t) ∧
    (∀ x, (x = .outsideBars ∨ x = .atomicOp) → s.configReady p = true → Runs (.pcieTlpReceive p x) s fun t =>
      (t.hp p).aer = (s.hp p).aer + 1 ∧ (t.hp p).aerAdvisory = (s.hp p).aerAdvisory + 1 ∧
      t = { s with host0 := t.host0, host1 := t.host1, answers := s.answers ++ [{ kind := "UR", who := p, words := [] }] }) ∧
    (∀ o, s.configReady p = true → o < 0x400000 → Runs (.pcieTlpReceive p (.readBar2 o)) s fun t => t = { s with answers := s.answers ++ [{ kind := "BAR2", who := p, words := [0] }] }) ∧
    (s.configReady p = true → Runs (.pcieTlpReceive p .ptmRequest) s fun t =>
      t = { s with answers := s.answers ++ [{ kind := "PTM", who := p, words := [BitVec.ofNat 64 (s.count (96 + p))] }] }) ∧
    (∀ x, x ∈ [Tlp.outsideBars, .atomicOp, .ptmRequest] → s.configReady p = false → Runs (.pcieTlpReceive p x) s fun t => t = s) ∧
    (Runs (.pcieTlpReceive p .poisonedWrite) s fun t => (t.hp p).aer = (s.hp p).aer + 1 ∧ portsOnly s t) ∧
    (Runs (.pcieTlpReceive p .configWriteReadOnly) s fun t => t = s) ∧
    (∀ c a, isContext c = true →
      (∀ l, (s.ctx? c).isSome = true → dmaBarred (s.ctx c) = false → s.hostMem.wf = true → Runs (.dmaCompletion p c a (some l)) s fun t =>
        t.hostRead p (s.space c) a l.length = l ∧ t = { s with hostMem := t.hostMem }) ∧
      (∀ d, s.ctx? c = none → Runs (.dmaCompletion p c a d) s fun t => (t.hp p).unexpected = oneMore (s.hp p).unexpected ∧ (t.hp p).aer = (s.hp p).aer + 1 ∧ portsOnly s t) ∧
      (∀ i, (i = .dmaCompletion p c a none ∨ i = .dmaTimeout p c a ∨ (dmaBarred (s.ctx c) = true ∧ ∃ l, i = .dmaCompletion p c a (some l))) → (s.ctx? c).isSome = true →
        (s.hasRoom (96 + p) → (∀ e ∈ s.jobCtxs (s.ctx c).job, ∀ n, (s.ctx e).dmaLast = some n → n + 1000000 ≤ s.count (96 + p)) → Runs i s fun t =>
          raised s t (96 + p) fHostDma ∧ (t.ctx c).dmaLast = some (s.count (96 + p)) ∧ t = { s with dies := t.dies, contexts := t.contexts }) ∧
        (∀ n e, e ∈ s.jobCtxs (s.ctx c).job → (s.ctx e).dmaLast = some n → s.count (96 + p) < n + 1000000 → Runs i s fun t =>
          (t.ctx c).dmaErrors = oneMore (s.ctx c).dmaErrors ∧ t = { s with contexts := t.contexts }))) ∧
    (∀ i, i < 5 → Runs (.ideIntegrityFail p i) s fun t =>
      i ∈ (t.hp p).insecure ∧ tabGet {} (t.hp p).ide i = {} ∧ (∀ n, n ≠ i → tabGet {} (t.hp p).ide n = tabGet {} (s.hp p).ide n) ∧
      ∀ c x, s.ctx? c = some x → (t.ctx c).tdi = if x.port = p ∧ x.tdiStream = i ∧ tdiLocked x = true then .error else x.tdi)

/-- R358. The status block is rewritten with SERVICE, PHASE, the keepers' states, the links and roles, the last fault and the count, and nothing else changes. -/
def Sys2Proof.Machine.StatusBlockIsRewritten : Prop :=
  ∀ s : State, Runs .statusBlockRewrite s fun t =>
    t.block.stamp = s.kcount ∧ t.block.phase = s.phase ∧ t.block.k0 = keeperCode s.keeper0 ∧ t.block.k1 = keeperCode s.keeper1 ∧ t.block.lastFault = s.lastFault ∧
    t.block.lastFaultCount = s.lastFaultCount ∧ (t.block.service = 1 ↔ s.service = .normal) ∧ (t.block.service = 2 ↔ s.service = .hatch) ∧ (t.block.service = 3 ↔ s.service = .stopped) ∧
    t.block.ports = (if s.host0.up then 1 else 0) + (if s.host1.up then 2 else 0) + 4 * s.primary ∧ t = { s with block := t.block }

/-- R26, R42, R349, R350, R355, R558. A read of the aperture answers the register of the die that HQ_WIN_SEL names, an error where there is none, and all ones, with TIMEOUT set, where the die does not answer, has its rails off or is cut off by failed routers. A write by the primary port is the write of that die's
register, and is lost where the die has its rails off or is cut off; by the secondary it is denied and counted, and reaches no die. -/
def Sys2Proof.Machine.ApertureReachesTheDie : Prop :=
  ∀ (p o : Nat) (v : Word) (s : State), isHostPort p = true → o < 0x1000000 → (s.hp p).ready = true → s.halted = false →
    (∀ x, (s.die (s.hp p).winSel).railOff = false → s.reaches (96 + p) (s.hp p).winSel = true → o ≠ 4 → s.readWindow (s.hp p).winSel (alignTo 8 o) = some x → Runs (.apertureRead p o true) s fun t =>
      t = { s with answers := s.answers ++ [{ kind := "APERTURE", who := p, words := [BitVec.ofNat 64 x] }] }) ∧
    ((s.die (s.hp p).winSel).railOff = false → s.reaches (96 + p) (s.hp p).winSel = true → o ≠ 4 → s.readWindow (s.hp p).winSel (alignTo 8 o) = none → Runs (.apertureRead p o true) s fun t =>
      t = { s with answers := s.answers ++ [{ kind := "APERTURE_ERROR", who := p, words := [] }] }) ∧
    (∀ b, (b = false ∨ (s.die (s.hp p).winSel).railOff = true ∨ s.reaches (96 + p) (s.hp p).winSel = false) → Runs (.apertureRead p o b) s fun t =>
      t.answers = s.answers ++ [{ kind := "APERTURE", who := p, words := [BitVec.allOnes 64] }] ∧ (t.hp p).winTimeout = true ∧
      t = { s with host0 := t.host0, host1 := t.host1, answers := t.answers }) ∧
    (p = s.primary → (s.die (s.hp p).winSel).railOff = true ∨ s.reaches (96 + p) (s.hp p).winSel = false → Runs (.apertureWrite p o v) s fun t => t = s) ∧
    (p = s.primary → (s.die (s.hp p).winSel).railOff = false → s.reaches (96 + p) (s.hp p).winSel = true → isDie (s.hp p).winSel = true →
      exec (.apertureWrite p o v) s = exec (.registerWrite (.window (s.hp p).winSel) o v) s) ∧
    (p ≠ s.primary → Runs (.apertureWrite p o v) s fun t => (t.hp p).denied = oneMore (s.hp p).denied ∧ portsOnly s t)

/-- R13, R14, R42, R353, R482, R485, R487, R494, R571. A write at a window offset where a die has no register changes nothing. PW_PKG_CAP takes CAP and POOL_MAX within their ranges, and the crossover only as a permutation; PW_CRIT_MAP takes the dies of its context alone; the error counters of a die and LK_ERR of a port go to zero on
any write. HQ_CTRL clamps FAILOVER_MS, HQ_WIN_SEL stops at 99, a bit of HQ_CAUSE clears where a one is written and stays where a zero is, and any write clears HQ_ERR, which sets ERROR
where that changes it. -/
def Sys2Proof.Machine.RegisterWritesAreClamped : Prop :=
  ∀ (o : Nat) (v : Word) (s : State), o < 0x1000000 →
    (∀ d, isDie d = true → s.readWindow d (alignTo 8 o) = none → Runs (.registerWrite (.window d) o v) s fun t => t = s) ∧
    (Runs (.registerWrite (.window 98) 0x010100 v) s fun t =>
      2000 ≤ t.power.cap ∧ t.power.cap ≤ 21500 ∧ t.power.cap ≤ t.power.poolMax ∧ t.power.poolMax ≤ 21500 ∧
      (2000 ≤ bits v.toNat 0 16 → bits v.toNat 0 16 ≤ 21500 → t.power.cap = bits v.toNat 0 16) ∧ t = { s with power := t.power }) ∧
    (∀ c, isContext c = true → (s.ctx? c).isSome = true → Runs (.registerWrite (.window 98) (0x011000 + 8 * c) v) s fun t =>
      (t.ctx c).crit.toNat = Nat.land v.toNat (ctxMask (s.ctx c)) % 2 ^ 64 ∧ (∀ e, e ≠ c → t.ctx? e = s.ctx? e)) ∧
    (∀ d, isCompute d = true → Runs (.registerWrite (.window d) 0x080010 v) s fun t =>
      (∀ k, k < 4 → t.core (4 * d + k) = { s.core (4 * d + k) with errArith := 0 }) ∧ t = { s with cores := t.cores }) ∧
    (∀ d, isLink d = true → Runs (.registerWrite (.window d) 0x050058 v) s fun t =>
      t.port (d - 88) = { s.port (d - 88) with crcFail := 0, authFail := 0, replays := 0, violations := 0 } ∧ t = { s with ports := t.ports }) ∧
    (∀ p, isHostPort p = true → (s.hp p).ready = true → s.halted = false →
      (Runs (.registerWrite (.bar0 p) 0x1010 v) s fun t =>
        1 ≤ (t.hp p).failoverMs ∧ (t.hp p).failoverMs ≤ 1000 ∧ ((t.hp p).doorbellEn = true ↔ bit v.toNat 0 = true) ∧ t = { s with host0 := t.host0, host1 := t.host1 }) ∧
      (Runs (.registerWrite (.bar0 p) 0x1020 v) s fun t => (t.hp p).winSel = min 99 (bits v.toNat 0 7) ∧ t = { s with host0 := t.host0, host1 := t.host1 }) ∧
      (Runs (.registerWrite (.bar0 p) 0x1048 v) s fun t =>
        (t.hp p).causeError = ((s.hp p).causeError && !bit v.toNat 0) ∧ (t.hp p).causePeer = ((s.hp p).causePeer && !bit v.toNat 4) ∧
        t = { s with host0 := t.host0, host1 := t.host1 }) ∧
      (Runs (.registerWrite (.bar0 p) 0x1050 v) s fun t =>
        (t.hp p).malformed = 0 ∧ (t.hp p).unexpected = 0 ∧ (t.hp p).denied = 0 ∧ (t.hp p).doorbell = 0 ∧
        ((s.hp p).malformed + (s.hp p).unexpected + (s.hp p).denied + (s.hp p).doorbell ≠ 0 → (t.hp p).causeError = true) ∧
        ((s.hp p).malformed + (s.hp p).unexpected + (s.hp p).denied + (s.hp p).doorbell = 0 → t = s) ∧ portsOnly s t))

/-! ## Fabric transport (R436 to R471, R544) -/

/-- The packet is the next of a flow that ends here, short of the 32nd since the last ACK. -/
def Sys2Proof.Machine.nextPacket (s : State) (p : Packet) (x : RxFlow) (group : Bool) : Prop :=
  s.rx? (rxKeyOf p.srcPkg p.flow group) = some x ∧ x.pruned = false ∧ x.resync = false ∧ p.psn = x.expect ∧ x.unacked < 31 ∧ (group = false → p.dstPkg = s.pkgId)

/-- A packet that arrived on port `n` for a range goes there at once: a path leads to its die, whose cores run, and no packet of its flow waits before it (R26, R51, R443). -/
def Sys2Proof.Machine.unheld (s : State) (n : Nat) (p : Packet) (a k : Nat) : Prop := s.cutOff (88 + n) a k = false ∧ s.packetWaits p a k = false

/-- The flow has taken the packet: the next PSN is expected, one more waits for its ACK, and no other flow changed. -/
def Sys2Proof.Machine.tookPacket (s t : State) (p : Packet) (x : RxFlow) (group : Bool) : Prop :=
  (∃ y, t.rx? (rxKeyOf p.srcPkg p.flow group) = some y ∧ y.expect = x.expect + 1 ∧ y.unacked = x.unacked + 1 ∧ y.ctx = x.ctx) ∧
  ∀ k, k ≠ rxKeyOf p.srcPkg p.flow group → t.rx? k = s.rx? k

/-- The flow's end is that of the packet's own flow. -/
def Sys2Proof.Machine.ofFlow (p : Packet) (x : RxFlow) : Prop := x.srcPkg = p.srcPkg ∧ x.flow = p.flow ∧ x.group = false

/-- The flow has taken the packet and turned its access away: the link die holds the record of a fault of code `c`, and an ACK, where the port is UP, takes the code and the address back to the package that issued it. -/
def Sys2Proof.Machine.turnedAway (s t : State) (n : Nat) (p : Packet) (x : RxFlow) (c e : Nat) : Prop :=
  (∃ y, t.rx? (rxKeyOf p.srcPkg p.flow false) = some y ∧ y.expect = x.expect + 1 ∧ y.unacked = 0 ∧ y.ctx = x.ctx) ∧
  (∀ k, k ≠ rxKeyOf p.srcPkg p.flow false → t.rx? k = s.rx? k) ∧ raised s t (88 + n) c ∧
  ((s.port n).st = .up → ∃ a, t.packetOut = s.packetOut ++ [(n, a)] ∧ a.ptype = 6 ∧ a.psn = x.expect + 1 ∧ a.dstPkg = p.srcPkg ∧ a.flow = p.flow ∧ a.data = be 2 c ++ be 8 e)

/-- The bytes of a packet stand at a place, and no other byte but the rest of the last word changed. -/
def Sys2Proof.Machine.landed (s t : State) (k : Nat) (l : List Byte) : Prop :=
  readBytes t.mem k l.length = l ∧ ∀ a, a < k ∨ k + roundUp l.length 8 ≤ a → readByte t.mem a = readByte s.mem a

/-- R42, R135, R232, R333, R440, R447, R462. A WRITE that is the next of its flow puts its bytes where it names, when that lies in the landing area and one of the context's regions; else F_ADDR_UNMAPPED is raised, in a score F_SCORE_INVALID, in a FILLED link slot F_SLOT_GUARD, in a pinned region F_WEIGHTS_PINNED, and
no byte is stored; but for the guard's, the code goes back to the issuing package in the ACK (log entry 40). A GROUP_WRITE lands at its offset from the member's landing area. One that is ahead of the PSN expected is
answered with a NACK and one behind with an ACK, both of the PSN expected, and store nothing. -/
def Sys2Proof.Machine.WritesLandInPsnOrder : Prop :=
  ∀ (n : Nat) (p : Packet) (s : State) (x : RxFlow), isPort n = true → s.mem.wf = true →
    (∀ k, nextPacket s p x false → unheld s n p (faLow p.addr.toNat) (p.data.take 936).length → s.guardOf x.ctx true (faLow p.addr.toNat) (p.data.take 936).length = none → s.landing x (faLow p.addr.toNat) (p.data.take 936).length true = .store k → Runs (.write n p) s fun t =>
      tookPacket s t p x false ∧ landed s t k (p.data.take 936) ∧ t = { s with rxFlows := t.rxFlows, dies := t.dies, mem := t.mem, marks := t.marks }) ∧
    (∀ a l, nextPacket s p x false → faLow p.addr.toNat = a → p.data.take 936 = l → unheld s n p a l.length →
      (∀ b, s.landing x a l.length true = .cellar b → s.pinned b l.length false = false → clearWrite s (.context x.ctx) b l.length → Runs (.write n p) s fun t =>
        tookPacket s t p x false ∧ readBytes t.mem b l.length = l ∧ (∀ i, i < b ∨ b + l.length ≤ i → readByte t.mem i = readByte s.mem i)) ∧
      (∀ k g, s.landing x a l.length true = .store k → s.guardOf x.ctx true a l.length = some g → s.hasRoom (keyDie k) → Runs (.write n p) s fun t =>
        tookPacket s t p x false ∧ raised s t (keyDie k) fSlotGuard ∧ t = { s with rxFlows := t.rxFlows, dies := t.dies }) ∧
      (∀ c e, (s.landing x a l.length true = .unmapped ∧ c = fAddrUnmapped ∧ e = a ∨ s.landing x a l.length true = .invalid ∧ c = fScoreInvalid ∧ e = a ∨
          s.landing x a l.length true = .cellar e ∧ s.pinned e l.length false = true ∧ c = fWeightsPinned) → ofFlow p x → s.hasRoom (88 + n) → Runs (.write n p) s fun t =>
        turnedAway s t n p x c e ∧ t = { s with rxFlows := t.rxFlows, dies := t.dies, packetOut := t.packetOut })) ∧
    (∀ k, nextPacket s p x true → (s.transits.filter fun t => t.srcPkg == p.srcPkg && t.flow == p.flow && t.group && t.die == 88 + n) = [] →
      unheld s n p (x.landBase + bits p.addr.toNat 0 32) (p.data.take 936).length → s.guardOf x.ctx true (x.landBase + bits p.addr.toNat 0 32) (p.data.take 936).length = none →
      s.landing x (x.landBase + bits p.addr.toNat 0 32) (p.data.take 936).length true = .store k → Runs (.groupWrite n p) s fun t =>
        tookPacket s t p x true ∧ landed s t k (p.data.take 936) ∧ t = { s with rxFlows := t.rxFlows, dies := t.dies, mem := t.mem, marks := t.marks }) ∧
    (∀ i g, (i = .write n p ∧ unheld s n p (faLow p.addr.toNat) (p.data.take 936).length ∨ i = .readReq n p ∧ unheld s n p (faLow p.addr.toNat) (min 936 p.len) ∨
        i = .atomic n p ∧ unheld s n p (bits p.addr.toNat 0 47) (8 * (p.data.length / 16)) ∨ i = .signal n p) →
      s.rx? (rxKeyOf p.srcPkg p.flow false) = some x → x.pruned = false → x.resync = false → x.group = false → p.dstPkg = s.pkgId →
      (p.psn - x.expect).toNat = g → 0 < g → (g < 2 ^ 31 → ∀ u, x.nackAt = some u → u + 2000 ≤ s.count (88 + n)) → (s.port n).st = .up → Runs i s fun t =>
        (∃ a, t.packetOut = s.packetOut ++ [(n, a)] ∧ a.ptype = (if g < 2 ^ 31 then 7 else 6) ∧ a.psn = x.expect ∧ a.flow = x.flow ∧ a.dstPkg = x.srcPkg) ∧
        (∃ y, t.rx? (rxKeyOf p.srcPkg p.flow false) = some y ∧ y.expect = x.expect ∧ y.unacked = 0) ∧ t = { s with rxFlows := t.rxFlows, packetOut := t.packetOut }) ∧
    (∀ k y, s.rx? k = some y → 0 < y.unacked → (s.port y.link).st = .up → Runs (.ackTimer k) s fun t =>
      (∃ a, t.packetOut = s.packetOut ++ [(y.link, a)] ∧ a.ptype = (if y.group then 0x0C else 6) ∧ a.psn = y.expect) ∧
      t.rx? k = some { y with unacked := 0 } ∧ t = { s with rxFlows := t.rxFlows, packetOut := t.packetOut })

/-- R301, R439, R440, R441, R442. A READ_REQ answers the bytes it names, and READ_DATA puts them where the load asked, the mover that waits having one answer less to come. An ATOMIC on a word of the cellar gives it the value of its operation; ADD64 is the sum modulo 2^64, MAXU64 and MINU64 the larger and the smaller; a reserved
operation raises F_SCORE_INVALID, which the ACK takes back, and stores nothing. A SIGNAL sends an INC of its low half, 0 as 1, to its tally; one to a quenched context is discarded, and one whose VID names none raises F_ADDR_UNMAPPED. -/
def Sys2Proof.Machine.RemoteReadsAtomicsAndSignals : Prop :=
  ∀ (n : Nat) (p : Packet) (s : State) (x : RxFlow), isPort n = true → s.mem.wf = true → s.marks = [] →
    (∀ b, nextPacket s p x false → unheld s n p (faLow p.addr.toNat) (min 936 p.len) → s.landing x (faLow p.addr.toNat) (min 936 p.len) false = .cellar b →
      clearRead s (.context x.ctx) b (min 936 p.len) → (s.port n).st = .up → Runs (.readReq n p) s fun t =>
      tookPacket s t p x false ∧
      (∃ a, t.packetOut = s.packetOut ++ [(n, a)] ∧ a.ptype = 3 ∧ a.data = readBytes s.mem b (min 936 p.len) ∧ a.addr = p.addr ∧ a.dstPkg = x.srcPkg ∧ a.flow = p.flow) ∧ t.mem = s.mem) ∧
    (∀ k, nextPacket s p x false → unheld s n p (faLow p.addr.toNat) (min 936 p.len) → s.guardOf x.ctx false (faLow p.addr.toNat) (min 936 p.len) = none →
      s.landing x (faLow p.addr.toNat) (min 936 p.len) false = .store k → (s.port n).st = .up → Runs (.readReq n p) s fun t =>
      tookPacket s t p x false ∧
      (∃ a, t.packetOut = s.packetOut ++ [(n, a)] ∧ a.ptype = 3 ∧ a.data = readBytes s.mem k (min 936 p.len) ∧ a.addr = p.addr ∧ a.dstPkg = x.srcPkg ∧ a.flow = p.flow) ∧
      t = { s with rxFlows := t.rxFlows, dies := t.dies, packetOut := t.packetOut }) ∧
    (∀ f l, p.dstPkg = s.pkgId → s.flow? p.flow = some f → (f.loads.find? fun l => l.addr == p.addr.toNat && l.len == p.data.length) = some l → computeBase ≤ l.dest →
      unheld s n p (s.localOf l.dest) p.data.length → (match keyCore l.dest with | some k => s.shelfOpen f.ctx k true | none => s.loftOpen f.ctx (keyDie l.dest) true) = true → isCore l.core = true → ∀ e r, (s.core l.core).mover = e :: r → Runs (.readData n p) s fun t =>
        landed s t l.dest p.data ∧ (t.core l.core).mover = { e with waitAcks := e.waitAcks - 1 } :: r ∧ t.flow? p.flow = some { f with loads := f.loads.erase l } ∧
        t = { s with flows := t.flows, cores := t.cores, mem := t.mem, marks := t.marks }) ∧
    (∀ op v a w, nextPacket s p x false → p.data = le 8 op ++ le 8 v → v < 2 ^ 64 → bits p.addr.toNat 0 47 = a → within a 8 x.landBase x.landBytes = true → a % 8 = 0 →
      unheld s n p a 8 → s.locate a 8 = .cellar a → s.cellarMapped a 8 = true → s.mayRead (.context x.ctx) a 8 = true → s.lostAt a 8 = none → readLe s.mem a 8 = w → op < 256 →
      (atomicOk op = true → s.pinned a 8 false = false → Runs (.atomic n p) s fun t =>
        tookPacket s t p x false ∧ readLe t.mem a 8 = (atomicValue op (BitVec.ofNat 64 w) (BitVec.ofNat 64 v)).toNat ∧
        (op = 1 → readLe t.mem a 8 = (w + v) % 2 ^ 64) ∧ (op = 6 → readLe t.mem a 8 = max w v) ∧ (op = 7 → readLe t.mem a 8 = min w v) ∧
        (op = 3 → readLe t.mem a 8 = Nat.land w v) ∧ (∀ b, b < a ∨ a + 8 ≤ b → readByte t.mem b = readByte s.mem b)) ∧
      (atomicOk op = false → ofFlow p x → s.hasRoom (88 + n) → Runs (.atomic n p) s fun t => turnedAway s t n p x fScoreInvalid a ∧ t.mem = s.mem)) ∧
    (nextPacket s p x false → s.quenchedCtx x.ctx = true → Runs (.signal n p) s fun t => tookPacket s t p x false ∧ t = { s with rxFlows := t.rxFlows, dies := t.dies }) ∧
    (nextPacket s p x false → s.quenchedCtx x.ctx = false → s.signalTo x.ctx (bits p.addr.toNat 0 16) n = none → ofFlow p x → s.hasRoom (88 + n) → Runs (.signal n p) s fun t =>
      turnedAway s t n p x fAddrUnmapped p.addr.toNat ∧ t = { s with rxFlows := t.rxFlows, dies := t.dies, packetOut := t.packetOut }) ∧
    (∀ l e h, nextPacket s p x false → s.quenchedCtx x.ctx = false → s.launchOf x.ctx = some l → findTally l (bits p.addr.toNat 0 16) = some e → e.kind = 0 → s.tallyHome e (88 + n) = some h →
      Runs (.signal n p) s fun t =>
        tookPacket s t p x false ∧ (∃ m, t.tallyMsgs = s.tallyMsgs ++ [m] ∧ m.act = .inc ∧ m.home = h.1 ∧ m.index = h.2 ∧ m.n = max 1 (fieldAt p.data 0 4)) ∧
        t = { s with rxFlows := t.rxFlows, dies := t.dies, tallyMsgs := t.tallyMsgs })

/-- R440, R445, R447, R448, R459, R460. An ACK takes what it acknowledges from its flow's window, and one that brings the fault of a rejected access leaves its record for the issuing context; a NACK, and the first timeout, have the flow send again from its oldest packet, every packet sent before marked as a retransmission, as far as the window, the flow's share and the context's tracked requests let it; one sent 8 times raises F_FABRIC_UNREACH instead, reported by the link die that holds the flow. A second timeout, or a ROUTE_FAIL, moves the flow to the next
route that has not failed, and where none is left raises F_FABRIC_UNREACH. -/
def Sys2Proof.Machine.FlowsResendAndMove : Prop :=
  ∀ (n : Nat) (p : Packet) (s : State) (x : Flow), isPort n = true → p.dstPkg = s.pkgId → s.flow? p.flow = some x →
    (0 < (p.psn - x.oldest).toNat → (p.psn - x.oldest).toNat ≤ x.sent → p.data.length < 10 → Runs (.ack n p) s fun t =>
      (∃ y, t.flow? p.flow = some y ∧ y.oldest = p.psn ∧ y.window.length = x.window.length - (p.psn - x.oldest).toNat ∧ y.timeouts = 0 ∧ y.next = x.next) ∧
      (∀ f, f ≠ p.flow → t.flow? f = s.flow? f) ∧ t = { s with flows := t.flows, cores := t.cores, packetOut := t.packetOut }) ∧
    (∀ c e, p.data = be 2 c ++ be 8 e → c < 2 ^ 16 → s.hasRoom (88 + n) → Runs (.ack n p) s fun t =>
      (∃ r, (t.die (88 + n)).ledger.held = (s.die (88 + n)).ledger.held ++ [r] ∧ r.code = c ∧ r.ctxs = [x.ctx] ∧ r.job = true ∧ r.vectors = s.errVectors [x.ctx]) ∧
      t = { s with flows := t.flows, cores := t.cores, dies := t.dies, packetOut := t.packetOut }) ∧
    (∀ i, (i = .nack n p ∧ groupPacket p = false ∧ p.psn = x.oldest) ∨ (i = .psnResendTimeout p.flow ∧ x.timeouts = 0) → x.window ≠ [] →
      (((x.owners.head?.map (·.2)).getD 0) < 8 → Runs i s fun t =>
        (∃ y, t.flow? p.flow = some y ∧ y.oldest = x.oldest ∧ y.window.length = x.window.length ∧
          y.sent = min (min x.window.length (flowLimit x)) ((s.setFlow p.flow (some { x with sent := 0, window := y.window })).trackedFree x.ctx) ∧
          (∀ j w, j < x.sent → y.window[j]? = some w → w.retransmit = true) ∧ y.timeouts = (if i = .psnResendTimeout p.flow then 1 else x.timeouts)) ∧
        t = { s with flows := t.flows, packetOut := t.packetOut }) ∧
      (8 ≤ ((x.owners.head?.map (·.2)).getD 0) → s.hasRoom (flowHome x) → Runs i s fun t =>
        raised s t (flowHome x) fFabricUnreach ∧ t = { s with flows := t.flows, dies := t.dies })) ∧
    (∀ i, (i = .routeFail n p ∧ p.route = x.route) ∨ (i = .psnResendTimeout p.flow ∧ 1 ≤ x.timeouts) → x.window ≠ [] → ((x.owners.head?.map (·.2)).getD 0) < 8 →
      (∀ k, x.route < k → k < x.routes.length → k ∉ x.failedRoutes → (∀ j, x.route < j → j < k → j ∈ x.failedRoutes) → Runs i s fun t =>
        (∃ y, t.flow? p.flow = some y ∧ y.route = k ∧ x.route ∈ y.failedRoutes ∧ y.oldest = x.oldest) ∧ t = { s with flows := t.flows, packetOut := t.packetOut }) ∧
      ((∀ k, x.route < k → k < x.routes.length → k ∈ x.failedRoutes) → s.hasRoom (flowHome x) → Runs i s fun t =>
        raised s t (flowHome x) fFabricUnreach ∧ t = { s with flows := t.flows, dies := t.dies }))

/-- The plan of a PATH_SETUP, and what it has of paths and groups. -/
def Sys2Proof.Machine.planParts (l : List Byte) : List PlanPath × List PlanGroup :=
  let ps := (List.range (fieldAt l 6 2)).map fun i => planPath l (fieldAt l 12 4 + 64 * i)
  (ps, (List.range (fieldAt l 8 2)).map fun i => planGroup l ps (fieldAt l 16 4 + 32 * i))

/-- R451 to R455. A plan that is malformed, or that a check refuses, ends the PATH_SETUP with the reason and the port in its RESULT and reserves nothing. Else the command waits with a flow for each path, none usable yet, until its last answer, which makes them usable, counts no lane twice and ends it with the bound. A refusal, and 1 s
without an answer, which names the first SETUP that has none, end it, leave none of its flows, and give the context the quota it had. PATH_TEARDOWN takes the flows of a path away while nothing is in flight on them. -/
def Sys2Proof.Machine.PathsAreSetUpAndTornDown : Prop :=
  (∀ (q : QRef) (s : State) (p : Pending) (r : List Pending) (c a n : Nat), kernelHead s q p r → p.cmd = .pathSetup c a n → (s.pathJobs.any fun j => j.q == q) = false → s.alive c = true →
    (n < 64 → Runs (.pathSetup q) s fun t => endsWith t q p r 1 0 (2 ^ 32 + s.pkgId * 2 ^ 48) ∧ t = { s with queues := t.queues }) ∧
    (∀ l, s.kernelRead q a n = l → 64 ≤ n → fieldAt l 0 4 = (s.ctx c).job → fieldAt l 4 1 = 1 → 1 ≤ fieldAt l 6 2 → fieldAt l 6 2 ≤ 4096 → fieldAt l 8 2 ≤ 256 →
      fieldAt l 12 4 + 64 * fieldAt l 6 2 ≤ n → fieldAt l 16 4 + 32 * fieldAt l 8 2 ≤ n →
      (∀ w, s.planRefused c (fieldAt l 20 4) (planParts l).1 (planParts l).2 = some w → Runs (.pathSetup q) s fun t =>
        endsWith t q p r 1 0 (w.1 * 2 ^ 32 + w.2 * 2 ^ 40 + s.pkgId * 2 ^ 48) ∧ t = { s with queues := t.queues }) ∧
      (s.planRefused c (fieldAt l 20 4) (planParts l).1 (planParts l).2 = none → Runs (.pathSetup q) s fun t =>
        (t.queue q).cmds = p :: r ∧
        (t.ctx c).tracked = fieldAt l 20 4 ∧
        (∃ j, t.pathJobs = s.pathJobs ++ [j] ∧ j.q = q ∧ j.ctx = c ∧ j.oldQuota = (s.ctx c).tracked ∧ j.flows.length = (planParts l).1.length ∧
          j.awaited = ((planParts l).1.map fun p => p.routes.length).sum + ((planParts l).2.map fun g => g.members.length).sum ∧
          ∀ i, i < (planParts l).1.length → ∃ f y, j.flows[i]? = some f ∧ s.flow? f = none ∧ t.flow? f = some y ∧ y.usable = false ∧ y.ctx = c ∧
            y.dest = ((planParts l).1.getD i {}).dest ∧ y.routes = ((planParts l).1.getD i {}).routes) ∧
        t = { s with contexts := t.contexts, flows := t.flows, groups := t.groups, ports := t.ports, packetOut := t.packetOut, pathJobs := t.pathJobs }))) ∧
  (∀ (q : QRef) (s : State) (j : PathJob) (x : Queue) (p : Pending) (r : List Pending), isQueue q = true → s.pathJobs = [j] → j.q = q → s.queue? q = some x → x.cmds = p :: r →
    (Runs (.pathSetupTimeout q) s fun t =>
      t.pathJobs = [] ∧ (∀ f ∈ j.flows, t.flow? f = none) ∧ ((s.ctx? j.ctx).isSome = true → (t.ctx j.ctx).tracked = j.oldQuota) ∧
      (t.queue q).cmds = { p with outcome := some { status := 1, result := refusal 7 ((s.unanswered j).headD (0, s.pkgId)).1 ((s.unanswered j).headD (0, s.pkgId)).2 } } :: r) ∧
    (∀ n m, isPort n = true → m.dstPkg = s.pkgId → bit (ofBe (slice m.data 8 1)) 0 = false → j.flows.contains m.flow = true →
      (ofBe (slice m.data 0 1) ≠ 0 → Runs (.setupAns n m) s fun t =>
        t.pathJobs = [] ∧ (∀ f ∈ j.flows, t.flow? f = none) ∧ ((s.ctx? j.ctx).isSome = true → (t.ctx j.ctx).tracked = j.oldQuota) ∧ ended t q 1) ∧
      (ofBe (slice m.data 0 1) = 0 → (s.ctx j.ctx).sealed = false → j.awaited = 1 → Runs (.setupAns n m) s fun t =>
        t.pathJobs = [] ∧ (∀ f ∈ j.flows, ∀ y, s.flow? f = some y → t.flow? f = some { y with usable := true }) ∧
        (t.queue q).cmds = { p with outcome := some { result := if m.route = 0 then max j.bound (ofBe (slice m.data 4 4)) else j.bound } } :: r) ∧
      (ofBe (slice m.data 0 1) = 0 → (s.ctx j.ctx).sealed = false → 1 < j.awaited → Runs (.setupAns n m) s fun t =>
        (∃ k, t.pathJobs = [k] ∧ k.awaited = j.awaited - 1 ∧ k.flows = j.flows) ∧ t = { s with pathJobs := t.pathJobs }))) ∧
  (∀ (q : QRef) (s : State) (p : Pending) (r : List Pending) (c path : Nat), kernelHead s q p r → p.cmd = .pathTeardown c path → s.alive c = true → s.launchOf c = none →
    s.pathFlows c path ≠ [] → (∀ f ∈ s.pathFlows c path, ∀ y, s.flow? f = some y → y.window = []) → Runs (.pathTeardown q) s fun t =>
      endsWith t q p r 0 0 0 ∧ (∀ f ∈ s.pathFlows c path, t.flow? f = none) ∧ ∀ f, f ∉ s.pathFlows c path → t.flow? f = s.flow? f)

/-- A SETUP that sets up: it neither releases, nor says that a member is pruned or returns. -/
def Sys2Proof.Machine.carries (m : SetupMsg) : Prop := m.release = false ∧ m.prune = false ∧ m.restore = false

/-- A packet that came by port `n` goes on by port `o` where that is UP and a path of the mesh leads to it. -/
def Sys2Proof.Machine.passesOn (s t : State) (n o : Nat) (p : Packet) : Prop :=
  ((s.port o).st = .up → s.reaches (88 + n) (88 + o) = true → ∃ a, t.packetOut = s.packetOut ++ [(o, a)] ∧ a.flow = p.flow ∧ a.dstPkg = p.dstPkg) ∧
  (s.reaches (88 + n) (88 + o) = false → t.packetOut = s.packetOut)

/-- R26, R450, R453, R455, R463, R544. A SETUP that has reached its destination makes the flow's end there when a context of the job has the landing area, and answers with reason 0; it answers with reason 5 when none has. On its way it is noted with a transit entry, takes its lanes on the outbound link, and goes on; it answers with reason 2 where
that link is not UP and 3 where too few lanes are free. A release takes both away, the transit entry with the last destination that it leads to; and word that a group's member is pruned marks its
flow's end, and the transit entries of its branch. While no keeper acts, a destination does not answer. A message that no path of the mesh carries on is lost (R26). -/
def Sys2Proof.Machine.SetupsReserveAlongTheRoute : Prop :=
  ∀ (n : Nat) (p : Packet) (s : State) (m : SetupMsg), isPort n = true → setupOf p.data = m → (s.port n).st = .up →
    (p.dstPkg = s.pkgId → m.route.length ≤ m.hop →
      (∀ c, carries m → s.holder.isSome = true → m.group = false → s.jobCtxs m.job = [c] → (s.ctx c).sealed = false → m.mac.all (· == 0) = true → (s.ctx c).dying = false →
        s.landable c m.base m.len = true →
        (∀ z, s.rx? (rxKeyOf p.srcPkg p.flow false) = some z → Runs (.setup n p) s fun t =>
          (∃ a, t.packetOut = s.packetOut ++ [(n, a)] ∧ a.ptype = 0x0A ∧ ofBe (slice a.data 0 1) = 0 ∧ a.flow = p.flow) ∧ t = { s with packetOut := t.packetOut }) ∧
        (s.rx? (rxKeyOf p.srcPkg p.flow false) = none → Runs (.setup n p) s fun t =>
          (∃ y, t.rx? (rxKeyOf p.srcPkg p.flow false) = some y ∧ y.ctx = c ∧ y.landBase = m.base ∧ y.landBytes = m.len ∧ y.expect = 0) ∧
          (∃ a, t.packetOut = s.packetOut ++ [(n, a)] ∧ a.ptype = 0x0A ∧ ofBe (slice a.data 0 1) = 0 ∧ a.flow = p.flow) ∧
          t = { s with rxFlows := t.rxFlows, packetOut := t.packetOut })) ∧
      (carries m → s.holder = none → Runs (.setup n p) s fun t => t = s) ∧
      (carries m → s.holder.isSome = true → s.jobCtxs m.job = [] → Runs (.setup n p) s fun t =>
        (∃ a, t.packetOut = s.packetOut ++ [(n, a)] ∧ a.ptype = 0x0A ∧ ofBe (slice a.data 0 1) = 5 ∧ a.flow = p.flow) ∧ t = { s with packetOut := t.packetOut }) ∧
      (m.release = true → Runs (.setup n p) s fun t => t.rx? (rxKeyOf p.srcPkg p.flow m.group) = none ∧ t = { s with rxFlows := t.rxFlows }) ∧
      (∀ y, m.release = false → s.rx? (rxKeyOf p.srcPkg p.flow m.group) = some y →
        (m.prune = true → Runs (.setup n p) s fun t => t.rx? (rxKeyOf p.srcPkg p.flow m.group) = some { y with pruned := true } ∧ t = { s with rxFlows := t.rxFlows }) ∧
        (m.prune = false → m.restore = true → Runs (.setup n p) s fun t =>
          t.rx? (rxKeyOf p.srcPkg p.flow m.group) = some { y with pruned := false, resync := y.resync || y.pruned } ∧ t = { s with rxFlows := t.rxFlows }))) ∧
    (∀ o own y, p.dstPkg ≠ s.pkgId → m.route.getD m.hop 0 = o → own = (if m.group then groupOwner p.srcPkg p.flow else flowOwner p.srcPkg p.flow) → s.transits = [y] →
      y.srcPkg = p.srcPkg → y.flow = p.flow → y.route = p.route → y.group = m.group → y.die = 88 + n → y.outPort = o →
      (m.release = true → (∀ i ∈ y.members, i = p.dstPkg) → Runs (.setup n p) s fun t =>
        t.transits = [] ∧ (∀ e ∈ t.ports, ∀ i ∈ e.2.lanesOwned, i.2 ≠ some own) ∧ passesOn s t n o p ∧ t = { s with transits := t.transits, ports := t.ports, packetOut := t.packetOut }) ∧
      (m.release = true → (∃ i ∈ y.members, i ≠ p.dstPkg) → Runs (.setup n p) s fun t =>
        (∃ z, t.transits = [z] ∧ z.members = y.members.filter (· != p.dstPkg) ∧ z.lanes = y.lanes) ∧ passesOn s t n o p ∧ t = { s with transits := t.transits, packetOut := t.packetOut }) ∧
      (m.release = false → m.prune = true → Runs (.setup n p) s fun t =>
        (∃ z, t.transits = [z] ∧ p.dstPkg ∈ z.pruned ∧ z.members = y.members) ∧ passesOn s t n o p ∧ t = { s with transits := t.transits, packetOut := t.packetOut })) ∧
    (∀ o, p.dstPkg ≠ s.pkgId → carries m → m.group = false → m.route.getD m.hop 0 = o → s.transits = [] → p.route = 0 →
      ((s.port o).st = .up → m.lanes ≤ (laneFree (s.port o)).length → Runs (.setup n p) s fun t =>
        (∃ y, t.transits = [y] ∧ y.srcPkg = p.srcPkg ∧ y.flow = p.flow ∧ y.die = 88 + n ∧ y.outPort = o ∧ y.lanes = m.lanes ∧ y.job = m.job ∧ y.members = [p.dstPkg]) ∧
        (laneFree (t.port o)).length = (laneFree (s.port o)).length - m.lanes ∧ passesOn s t n o p ∧
        t = { s with transits := t.transits, ports := t.ports, packetOut := t.packetOut }) ∧
      ((s.port o).st = .up → (laneFree (s.port o)).length < m.lanes → Runs (.setup n p) s fun t =>
        (∃ a, t.packetOut = s.packetOut ++ [(n, a)] ∧ ofBe (slice a.data 0 1) = 3) ∧ t = { s with packetOut := t.packetOut }) ∧
      ((s.port o).st ≠ .up → Runs (.setup n p) s fun t =>
        (∃ a, t.packetOut = s.packetOut ++ [(n, a)] ∧ ofBe (slice a.data 0 1) = 2) ∧ t = { s with packetOut := t.packetOut }))

/-- R462, R463, R464. A GROUP_ACK raises what its member has acknowledged, and the group's window loses what every member still in it has. When the window has stayed full for the prune time, each member at the lowest PSN is pruned, with F_MCAST_PRUNED, whose record is forwarded with the root's count; while it is not full, nothing is. A copy of the group's packet that is only passing goes on by a transit entry
that leads to a member still in the group, and by none whose members are all pruned. -/
def Sys2Proof.Machine.GroupsAdvanceAndPrune : Prop :=
  (∀ (n : Nat) (p : Packet) (s : State) (g : Group) (k : Nat) (m : Member), isPort n = true → p.dstPkg = s.pkgId → s.groups = [(k, some g)] → k % 65536 = p.flow → g.members = [m] → m.pkg = p.srcPkg →
    m.pruned = false → (p.psn - g.oldest).toNat ≤ g.sent → g.sent ≤ g.window.length → ackedOf g m ≤ (p.psn - g.oldest).toNat → p.data.length < 10 → Runs (.groupAck n p) s fun t =>
      (∃ h, t.group? k = some h ∧ h.oldest = p.psn ∧ h.window = g.window.drop (p.psn - g.oldest).toNat) ∧
      t = { s with groups := t.groups, cores := t.cores, packetOut := t.packetOut }) ∧
  (∀ (c i : Nat) (s : State) (g : Group), isContext c = true → s.group? (groupKey c i) = some g → g.id = i → g.ctx = c →
    (∀ m, g.fullAt.isSome = true → g.members = [m] → m.pruned = false → s.hasRoom s.keeperDie → Runs (.pruneTimer c i) s fun t =>
      raised s t s.keeperDie fMcastPruned ∧ (∃ h x, t.group? (groupKey c i) = some h ∧ h.members = [x] ∧ x.pkg = m.pkg ∧ x.pruned = true) ∧
      (∃ o, t.sent = s.sent ++ [.prune (s.ctx c).job i m.pkg o (s.count s.keeperDie)])) ∧
    (g.fullAt = none → Runs (.pruneTimer c i) s fun t => t = s)) ∧
  (∀ (n : Nat) (p : Packet) (s : State) (y : Transit), isPort n = true → s.rx? (rxKeyOf p.srcPkg p.flow true) = none → s.transits = [y] → y.srcPkg = p.srcPkg → y.flow = p.flow → y.group = true → y.die = 88 + n →
    ((∃ m ∈ y.members, m ∉ y.pruned) → (s.port y.outPort).st = .up → s.reaches (88 + n) (88 + y.outPort) = true → Runs (.groupWrite n p) s fun t => t = { s with packetOut := s.packetOut ++ [(y.outPort, p)] }) ∧
    ((∀ m ∈ y.members, m ∈ y.pruned) → Runs (.groupWrite n p) s fun t => t = s))

/-- R434, R466, R467, R468, R470. A child sends SYNC_REQ to its parent with the next SEQ, and the parent answers with SYNC_RESP. The response that is awaited gives OFFSET, half the difference of the two transits, and one exchange more; no other is taken, nor one whose COUNT is more than 1 ms off, and none is awaited after 100 µs. Before the first context is admitted an offset past 1,000 counts is
stepped away; later it is slewed away. A child without a good exchange for 1 s is not aligned. -/
def Sys2Proof.Machine.TimeTreeExchanges : Prop :=
  (∀ (s : State), s.time.enable = true → s.time.root = false →
    (isPort s.time.parent = true → (s.port s.time.parent).st = .up → sendable (s.port s.time.parent) 0 = true → Runs .timeExchangeStart s fun t =>
      t.time.outstanding = some ((s.time.seq + 1) % 2 ^ 32) ∧ t.time.seq = (s.time.seq + 1) % 2 ^ 32 ∧ t.time.t1 = s.count (88 + s.time.parent) ∧
      (∃ f, (t.port s.time.parent).replay = (s.port s.time.parent).replay ++ [f] ∧ f.ftype = 4 ∧ f.seq = (s.port s.time.parent).txSeq ∧ ofBe (slice f.payload 0 2) = 0x0101)) ∧
    ((s.port s.time.parent).st ≠ .up ∨ sendable (s.port s.time.parent) 0 = false → Runs .timeExchangeStart s fun t => t = s) ∧
    (Runs .alignmentTimeout s fun t => t.time.good = 0 ∧ t.time.depth = 0xFF ∧ (∀ d, isDie d = true → (t.die d).tb.aligned = false) ∧ t = { s with time := t.time, dies := t.dies }) ∧
    (∀ m t4 i, isPort s.time.parent = true → s.time.outstanding = some m.seq → m.replay = false → s.farCount s.time.parent m = false → theta m.t1.toNat m.t2.toNat m.t3.toNat t4.toNat = i → i.natAbs ≤ 1000 →
      Runs (.syncResp s.time.parent m t4) s fun t =>
        t.time.outstanding = none ∧ t.time.offset = i ∧ t.time.exchanges = oneMore s.time.exchanges ∧ (s.holder.isSome = true → ∀ d, isDie d = true → (t.die d).tb.slew = i) ∧
        t = { s with time := t.time, dies := t.dies }) ∧
    (∀ m t4 i, isPort s.time.parent = true → s.time.outstanding = some m.seq → m.replay = false → s.farCount s.time.parent m = false → theta m.t1.toNat m.t2.toNat m.t3.toNat t4.toNat = i → 1000 < i.natAbs → i.natAbs ≤ 0x7FFFFFFF →
      Runs (.syncResp s.time.parent m t4) s fun t =>
        t.time.outstanding = none ∧ t.time.offset = i ∧ (∀ d, isDie d = true → (t.die d).tb.aligned = false) ∧
        (s.admitted = false → ∀ d, isDie d = true → (t.die d).tb.expect = (s.die d).tb.expect + i ∧ (t.die d).tb.disp = (s.die d).tb.disp + max 0 i ∧
          (t.die d).tb.hold = (s.die d).tb.hold + (if i < 0 then i.natAbs else 0)) ∧
        (s.admitted = true → s.holder.isSome = true → ∀ d, isDie d = true → (t.die d).tb.slew = clampSlew i) ∧ t = { s with time := t.time, dies := t.dies }) ∧
    (∀ n m t4, isPort n = true → (n ≠ s.time.parent ∨ s.time.outstanding ≠ some m.seq ∨ s.farCount n m = true) → Runs (.syncResp n m t4) s fun t => t = s)) ∧
  (∀ (n : Nat) (m : TimeMsg) (t2 : Word) (s : State), isPort n = true →
    (m.replay = false → s.farCount n m = false → (s.port n).st = .up → sendable (s.port n) 0 = true → Runs (.syncReq n m t2) s fun t =>
      ∃ f, (t.port n).replay = (s.port n).replay ++ [f] ∧ f.ftype = 4 ∧ f.seq = (s.port n).txSeq ∧ ofBe (slice f.payload 0 2) = 0x0102 ∧ ofBe (slice f.payload 8 8) = m.t1.toNat ∧
        ofBe (slice f.payload 16 8) = t2.toNat ∧ ofBe (slice f.payload 24 8) = s.count (88 + n) % 2 ^ 64) ∧
    (m.replay = true ∨ s.farCount n m = true ∨ (s.port n).st ≠ .up → Runs (.syncReq n m t2) s fun t => t = s) ∧
    (Runs .timeExchangeTimeout s fun t => t.time.outstanding = none ∧ t = { s with time := t.time }))

/-! ## Optical ports (R403 to R435) -/

/-- Every other port is as before. -/
def Sys2Proof.Machine.otherPorts (s t : State) (p : Nat) : Prop := ∀ q, q ≠ p → t.port q = s.port q

/-- No flow leaves by the port, none is in transit here, and the time tree does not hang on it. -/
def Sys2Proof.Machine.quietPort (s : State) (p : Nat) : Prop :=
  s.portFlows p = [] ∧ s.transits = [] ∧ ¬(s.time.enable = true ∧ s.time.root = false ∧ s.time.parent = p)

/-- One frame more has left, an IDLE in the clear. -/
def Sys2Proof.Machine.sendsIdle (s t : State) (p : Nat) : Prop := ∃ k, t.frameOut = s.frameOut ++ [(p, k)] ∧ k.ftype = 0 ∧ k.enc = false

/-- The port has left UP for a state: its keys are gone, the frames not acknowledged are handed back, what waited to leave by it is dropped, and F_LINK_DOWN is raised or is not. -/
def Sys2Proof.Machine.leftUp (s t : State) (p : Nat) (dest : PortSt) (raises : Bool) : Prop :=
  (t.port p).st = dest ∧ (t.port p).txKey = [] ∧ (t.port p).rxKey = [] ∧ (t.port p).oldRxKey = [] ∧ (t.port p).replay = [] ∧
  (t.port p).handedBack = (s.port p).handedBack ++ (s.port p).replay ∧ otherPorts s t p ∧
  (if raises then raised s t (88 + p) fLinkDown else (t.die (88 + p)).ledger.held = (s.die (88 + p)).ledger.held) ∧
  t = { s with ports := t.ports, dies := t.dies, packetOut := s.packetOut.filter fun e => e.1 != p }

/-- R406. The width chosen is the widest, no narrower than the narrowest allowed, for which some lane group is locked whole, and its lowest such group; none is chosen only where no group of any such width is. -/
def Sys2Proof.Machine.WidthIsTheWidestLocked : Prop :=
  ∀ (m : Nat) (b : BitVec 16), m ≤ 2 →
    (∀ w g, chooseWidth m b = some (w, g) → w ≤ m ∧ (g, 16 / 2 ^ w) ∈ laneGroups w ∧ groupLit b (g, 16 / 2 ^ w) = true ∧ (∀ v, v < w → ∀ h ∈ laneGroups v, groupLit b h = false) ∧
      ∀ h ∈ laneGroups w, h.1 < g → groupLit b h = false) ∧
    (chooseWidth m b = none → ∀ w, w ≤ m → ∀ h ∈ laneGroups w, groupLit b h = false)

/-- R420, R421, R427, R435. Light where there was none takes a held or a failed port back to DARK, lane lock takes DARK to SIGNAL once a group is locked and is noted elsewhere but in DOWN and FAILED, and frame alignment takes SIGNAL to ALIGN at the width chosen, where
the port sends IDLE. A bound that is missed, and no width, lead back to DARK, and the third time to FAILED with F_LINK_DOWN. Loss of light leads to DARK, from IDENTIFY with F_LINK_DOWN. -/
def Sys2Proof.Machine.TrainingFollowsTheLight : Prop :=
  ∀ (p : Nat) (s : State) (x : Port), isPort p = true → s.port p = x → x.retrainInPlace = false →
    (∀ l, x.st ≠ .held → x.st ≠ .failed → Runs (.lightGain p l) s fun t =>
      (t.port p).light = x.light ||| l ∧ (t.port p).st = x.st ∧ otherPorts s t p ∧ t = { s with ports := t.ports }) ∧
    (∀ l, x.st = .held ∨ x.st = .failed → anyGroup x.light = false → anyGroup (x.light ||| l) = true → Runs (.lightGain p l) s fun t =>
      (t.port p).st = .dark ∧ (t.port p).light = x.light ||| l ∧ (t.port p).trainings = stick 8 (x.trainings + 1) ∧ (t.port p).reason = 0 ∧ otherPorts s t p ∧ t = { s with ports := t.ports, dies := t.dies }) ∧
    (∀ l, x.st = .dark → anyGroup (x.lanes ||| (l &&& x.light)) = true → Runs (.laneLock p l) s fun t =>
      t.port p = { x with st := .signal, lanes := x.lanes ||| (l &&& x.light) } ∧ otherPorts s t p ∧ t = { s with ports := t.ports, dies := t.dies }) ∧
    (∀ l, x.st ≠ .down → x.st ≠ .failed → x.st ≠ .dark ∨ anyGroup (x.lanes ||| (l &&& x.light)) = false → Runs (.laneLock p l) s fun t =>
      t.port p = { x with lanes := x.lanes ||| (l &&& x.light) } ∧ otherPorts s t p ∧ t = { s with ports := t.ports }) ∧
    (∀ l, x.st = .down ∨ x.st = .failed → Runs (.laneLock p l) s fun t => t = s) ∧
    (∀ b r w g, x.st = .signal → x.txKey = [] → chooseWidth (min 2 x.minWidth) (x.lanes &&& b) = some (w, g) → Runs (.frameAlign p b r) s fun t =>
      t.port p = { x with st := .align, width := w, group := g, reversed := r, owed := [0, 0, 0, 0] } ∧ sendsIdle s t p ∧ otherPorts s t p ∧
      t = { s with ports := t.ports, dies := t.dies, frameOut := t.frameOut }) ∧
    (∀ b r, x.st ≠ .signal → Runs (.frameAlign p b r) s fun t => t = s) ∧
    (∀ i, (∃ b r, i = .frameAlign p b r ∧ x.st = .signal ∧ chooseWidth (min 2 x.minWidth) (x.lanes &&& b) = none) ∨
        (i = .trainingBoundMiss p ∧ (x.st = .signal ∨ (x.st = .dark ∧ anyGroup x.light = true) ∨ ((x.st = .align ∨ x.st = .identify) ∧ s.holder.isSome = true))) →
      (x.misses < 2 → Runs i s fun t => (t.port p).st = .dark ∧ (t.port p).misses = x.misses + 1 ∧ (t.port p).trainings = stick 8 (x.trainings + 1) ∧ otherPorts s t p ∧
        t = { s with ports := t.ports, dies := t.dies }) ∧
      (2 ≤ x.misses → s.hasRoom (88 + p) → Runs i s fun t => (t.port p).st = .failed ∧ raised s t (88 + p) fLinkDown ∧ otherPorts s t p ∧ t = { s with ports := t.ports, dies := t.dies })) ∧
    ((x.st = .up ∨ x.st = .down ∨ x.st = .held ∨ x.st = .failed ∨ (x.st = .dark ∧ anyGroup x.light = false) ∨ ((x.st = .align ∨ x.st = .identify) ∧ s.holder = none)) →
      Runs (.trainingBoundMiss p) s fun t => t = s) ∧
    (x.st = .identify → s.hasRoom (88 + p) → Runs (.lightLoss p) s fun t =>
      (t.port p).st = .dark ∧ (t.port p).light = 0 ∧ (t.port p).txKey = [] ∧ raised s t (88 + p) fLinkDown ∧ otherPorts s t p ∧ t = { s with ports := t.ports, dies := t.dies }) ∧
    (x.st = .signal ∨ x.st = .align → Runs (.lightLoss p) s fun t =>
      (t.port p).st = .dark ∧ (t.port p).light = 0 ∧ (t.die (88 + p)).ledger.held = (s.die (88 + p)).ledger.held ∧ otherPorts s t p ∧ t = { s with ports := t.ports, dies := t.dies })

/-- R410, R415, R416, R422, R428, R429. A port leaves UP for DARK by loss of light, by the frame counter's limit and by the retry limit, each with F_LINK_DOWN; by RETRAIN for DARK, and by ENABLE = 0 and the end of a HOLD for DOWN, each without; where HOLD was cleared meanwhile, its end leads on to DARK. Its keys are discarded and its frames are handed back. -/
def Sys2Proof.Machine.PortsLeaveUp : Prop :=
  ∀ (p : Nat) (s : State) (x : Port), isPort p = true → s.port p = x → x.st = .up → quietPort s p →
    (∀ i, (i = .lightLoss p ∨ (i = .fctrLimit p ∧ 2 ^ 32 + 2 ^ 20 ≤ x.txFctr) ∨ (i = .replayTimeout p ∧ ∃ f ∈ x.replay, 32 ≤ resent x f.seq)) → s.hasRoom (88 + p) →
      Runs i s fun t => leftUp s t p .dark true ∧ (t.port p).trainings = stick 8 (x.trainings + 1)) ∧
    (x.enable = true → x.hold = false → Runs (.lkRetrain p true) s fun t => leftUp s t p .dark false ∧ (t.port p).misses = x.misses) ∧
    (∀ i, i = .lkEnable p false ∨ (i = .holdReplayTimeout p ∧ x.holdTimer = true ∧ (x.hold = true ∨ x.enable = false)) → Runs i s fun t => leftUp s t p .down false ∧ (t.port p).enable = (if i = .lkEnable p false then false else x.enable)) ∧
    (x.holdTimer = true → x.hold = false → x.enable = true → Runs (.holdReplayTimeout p) s fun t => leftUp s t p .dark false ∧ (t.port p).trainings = stick 8 (x.trainings + 1)) ∧
    (x.holdTimer = false → Runs (.holdReplayTimeout p) s fun t => t = s) ∧ (x.txFctr < 2 ^ 32 + 2 ^ 20 → Runs (.fctrLimit p) s fun t => t = s)

/-- R422, R431. A port in UP that loses lanes of its group, and has light on some lane group, retrains in place: it keeps its keys, its sequence numbers, its frame counter and its replay buffer, and comes back to UP at the width then chosen, where it sends every frame of the buffer again; what lanes it loses meanwhile are noted. HOLD = 1 ends the retraining
and leads to DOWN without F_LINK_DOWN. -/
def Sys2Proof.Machine.PortsRetrainInPlace : Prop :=
  ∀ (p : Nat) (s : State) (x : Port), isPort p = true → s.port p = x →
    (∀ l, x.st = .up → x.retrainInPlace = false → groupLit l (x.group, 16 / 2 ^ x.width) = false → anyGroup l = true → Runs (.laneGroupLoss p l) s fun t =>
      t.port p = { x with st := .signal, light := l, lanes := l, retrainInPlace := true, trainings := stick 8 (x.trainings + 1) } ∧ otherPorts s t p ∧ t = { s with ports := t.ports, dies := t.dies }) ∧
    (∀ l, x.st = .up → groupLit l (x.group, 16 / 2 ^ x.width) = true → Runs (.laneGroupLoss p l) s fun t =>
      t.port p = { x with light := l, lanes := l } ∧ otherPorts s t p ∧ t = { s with ports := t.ports }) ∧
    (∀ l, x.st ≠ .up → x.retrainInPlace = false → Runs (.laneGroupLoss p l) s fun t => t = s) ∧
    (∀ l, x.st ≠ .up → x.retrainInPlace = true → anyGroup l = true → Runs (.laneGroupLoss p l) s fun t =>
      t.port p = { x with light := l, lanes := l } ∧ otherPorts s t p ∧ t = { s with ports := t.ports }) ∧
    (x.st ≠ .up → x.retrainInPlace = true → quietPort s p → Runs (.lkHold p true) s fun t => leftUp s t p .down false ∧ (t.port p).hold = true ∧ (t.port p).retrainInPlace = false) ∧
    (∀ b r w g, x.st = .signal → x.retrainInPlace = true → chooseWidth (min 2 x.minWidth) (x.lanes &&& b) = some (w, g) → (∀ f ∈ x.replay, resent x f.seq < 32) → x.injArm = false →
      x.reordered = none → Runs (.frameAlign p b r) s fun t =>
        (t.port p).st = .up ∧ (t.port p).width = w ∧ (t.port p).group = g ∧ (t.port p).retrainInPlace = false ∧ (t.port p).txKey = x.txKey ∧ (t.port p).rxKey = x.rxKey ∧
        (t.port p).txSeq = x.txSeq ∧ (t.port p).rxSeq = x.rxSeq ∧ (t.port p).replay.map (·.seq) = x.replay.map (·.seq) ∧
        (∃ l : List Frame, t.frameOut = s.frameOut ++ l.map (fun f => (p, f)) ∧ l.map (·.seq) = x.replay.map (·.seq) ∧ ∀ f ∈ l, f.replay = true) ∧
        otherPorts s t p ∧ t = { s with ports := t.ports, dies := t.dies, frameOut := t.frameOut })

/-- R420, R421, R429, R431, R432, R435. ENABLE = 1 takes DOWN to DARK unless HOLD is set, and ENABLE = 0 leads to DOWN. HOLD = 1 on a port in UP sends DOWN, which waits where the replay buffer is full or class 0 has no credit, and waits for that buffer; in training it leads to DOWN, with a DOWN message from IDENTIFY; HOLD = 0 lets the port train. RETRAIN = 1 restarts
training. A write of LK_INJECT sets its fields, INJECTED to 0 and a PERIOD of 0 to 1, and writes an entry. -/
def Sys2Proof.Machine.LinkControlActs : Prop :=
  ∀ (p : Nat) (s : State) (x : Port), isPort p = true → s.port p = x → x.retrainInPlace = false →
    (x.st = .down → x.hold = false → Runs (.lkEnable p true) s fun t =>
      (t.port p).st = .dark ∧ (t.port p).enable = true ∧ (t.port p).trainings = stick 8 (x.trainings + 1) ∧ otherPorts s t p ∧ t = { s with ports := t.ports, dies := t.dies }) ∧
    (x.st ≠ .down ∨ x.hold = true → Runs (.lkEnable p true) s fun t => t.port p = { x with enable := true } ∧ otherPorts s t p ∧ t = { s with ports := t.ports }) ∧
    (x.st ≠ .up → Runs (.lkEnable p false) s fun t =>
      (t.port p).st = .down ∧ (t.port p).enable = false ∧ (t.port p).txKey = [] ∧ otherPorts s t p ∧ t = { s with ports := t.ports, dies := t.dies }) ∧
    (x.st = .up → x.holdTimer = false → sendable x 0 = false → Runs (.lkHold p true) s fun t =>
      t.port p = { x with hold := true, holdTimer := true, downWaits := true } ∧ otherPorts s t p ∧ t = { s with ports := t.ports }) ∧
    (x.st = .up → x.holdTimer = false → sendable x 0 = true → Runs (.lkHold p true) s fun t =>
      (t.port p).st = .up ∧ (t.port p).hold = true ∧ (t.port p).holdTimer = true ∧ (∃ f, (t.port p).replay = x.replay ++ [f] ∧ f.ftype = 3 ∧ kindOf f = 8 ∧ f.seq = x.txSeq) ∧
      (t.port p).txSeq = x.txSeq + 1 ∧ otherPorts s t p ∧ t = { s with ports := t.ports, dies := t.dies, frameOut := t.frameOut }) ∧
    (x.st = .up → x.holdTimer = true → Runs (.lkHold p true) s fun t => t.port p = { x with hold := true } ∧ otherPorts s t p ∧ t = { s with ports := t.ports }) ∧
    (x.st ≠ .up → Runs (.lkHold p true) s fun t =>
      (t.port p).st = .down ∧ (t.port p).hold = true ∧ (t.port p).txKey = [] ∧ (x.st ≠ .identify → t.frameOut = s.frameOut) ∧
      (x.st = .identify → ∃ f, t.frameOut = s.frameOut ++ [(p, f)] ∧ f.ftype = 3) ∧ otherPorts s t p ∧ t = { s with ports := t.ports, dies := t.dies, frameOut := t.frameOut }) ∧
    (x.st = .down → x.enable = true → Runs (.lkHold p false) s fun t =>
      (t.port p).st = .dark ∧ (t.port p).hold = false ∧ (t.port p).trainings = stick 8 (x.trainings + 1) ∧ otherPorts s t p ∧ t = { s with ports := t.ports, dies := t.dies }) ∧
    (x.st ≠ .down ∨ x.enable = false → Runs (.lkHold p false) s fun t => t.port p = { x with hold := false } ∧ otherPorts s t p ∧ t = { s with ports := t.ports }) ∧
    (x.st ≠ .up → x.enable = true → x.hold = false → Runs (.lkRetrain p true) s fun t =>
      (t.port p).st = .dark ∧ (t.port p).misses = x.misses ∧ (t.port p).reason = 0 ∧ otherPorts s t p ∧ t = { s with ports := t.ports, dies := t.dies }) ∧
    (∀ b, b = false ∨ x.enable = false ∨ x.hold = true → Runs (.lkRetrain p b) s fun t => t = s) ∧
    (∀ v : Word, Runs (.lkInjectArm p v) s fun t =>
      t.port p = { x with injected := 0, limit := bits v.toNat 32 16, period := max 1 (bits v.toNat 12 20), classes := BitVec.ofNat 4 (bits v.toNat 8 4), injKind := bits v.toNat 4 2,
                          injDir := bit v.toNat 1, injArm := bit v.toNat 0, injSeen := 0, reordered := none } ∧
      (∃ l e, (t.die (88 + p)).ledger.ring = l ++ [e] ∧ e.kind = 0x0B ∧ e.code = 432 ∧ e.count = s.count (88 + p)) ∧ otherPorts s t p ∧ t = { s with ports := t.ports, dies := t.dies })

/-- How many frames of the replay buffer an ACK passes. -/
def Sys2Proof.Machine.ackPasses (x : Port) (f : Frame) : Nat := (f.ack - (x.txSeq - BitVec.ofNat 32 x.replay.length)).toNat

/-- A frame in order of CRC, TYPE, LEN and count, whose tag and FCTR hold under the present key, at a port in UP that injects nothing, has no HOLD and lets nothing wait for its buffer: its payload is `m`. -/
def Sys2Proof.Machine.frameOpens (s : State) (p : Nat) (f : Frame) (m : List Byte) : Prop :=
  (s.port p).st = .up ∧ f.crcOk = true ∧ f.ftype ≤ 4 ∧ f.len ≤ 968 ∧ f.enc = true ∧ openFrame (s.port p) f = some (m, true) ∧
  ((f.count.toNat : Int) - s.count (88 + p)).natAbs ≤ 1000000 ∧ (s.port p).holdTimer = false ∧ (s.port p).injArm = false ∧ (s.port p).reordered = none ∧
  (s.port p).rekeyAsked = none ∧ (s.port p).downWaits = false ∧ ∀ i, i < 4 → (s.port p).credits.getD i 0 + f.credit.getD i 0 ≤ creditMax.getD i 0

/-- The port has taken a frame's ACK and credits, and is in UP. -/
def Sys2Proof.Machine.tookReturns (s t : State) (p : Nat) (f : Frame) : Prop :=
  (t.port p).replay = (s.port p).replay.drop (ackPasses (s.port p) f) ∧
  (∀ i, i < 4 → (t.port p).credits.getD i 0 = (s.port p).credits.getD i 0 + f.credit.getD i 0) ∧ (t.port p).st = .up ∧ otherPorts s t p

/-- The port has accepted a frame of the present keys: its FCTR too. -/
def Sys2Proof.Machine.tookFrame (s t : State) (p : Nat) (f : Frame) : Prop :=
  (t.port p).rxFctr = some f.fctr ∧ (t.port p).oldRxKey = [] ∧ tookReturns s t p f

/-- R411, R412, R414, R415, R418. A DATA or TIME frame whose SEQ is the next is delivered with its payload, ACK advances, and an IDLE returns it with the credit of the buffer; one ahead is discarded with one NAK that names the SEQ expected, none within 2 µs of the last; one behind is discarded. Each takes its ACK and its credits; the FCTR of
one that is discarded bars nothing, and the first frame accepted under the new keys destroys the old receive key. -/
def Sys2Proof.Machine.DataFramesAreDeliveredInOrder : Prop :=
  ∀ (p : Nat) (f : Frame) (s : State) (m : List Byte), isPort p = true → frameOpens s p f m → ackPasses (s.port p) f ≤ (s.port p).replay.length → (f.ftype = 1 ∨ f.ftype = 4) →
    (f.seq = (s.port p).rxSeq → Runs (.dataFrame p f) s fun t =>
      tookFrame s t p f ∧ t.delivered = s.delivered ++ [(p, { f with payload := m })] ∧ (t.port p).rxSeq = f.seq + 1 ∧
      (∃ k, t.frameOut = s.frameOut ++ [(p, k)] ∧ k.ftype = 0 ∧ k.ack = f.seq + 1 ∧ (f.cls < (s.port p).owed.length → k.credit.getD f.cls 0 = (s.port p).owed.getD f.cls 0 + 1)) ∧
      t = { s with ports := t.ports, dies := t.dies, delivered := t.delivered, frameOut := t.frameOut }) ∧
    (∀ g, (f.seq - (s.port p).rxSeq).toNat = g → 0 < g →
      (g < 2 ^ 31 → (∀ u, (s.port p).nakAt = some u → u + 2000 ≤ s.count (88 + p)) → Runs (.dataFrame p f) s fun t =>
        tookReturns s t p f ∧ (t.port p).rxFctr = (s.port p).rxFctr ∧ (t.port p).oldRxKey = (s.port p).oldRxKey ∧ (t.port p).rxSeq = (s.port p).rxSeq ∧ (t.port p).nakAt = some (s.count (88 + p)) ∧ (∃ k, t.frameOut = s.frameOut ++ [(p, k)] ∧ k.ftype = 2 ∧ k.ack = (s.port p).rxSeq) ∧
        t = { s with ports := t.ports, frameOut := t.frameOut }) ∧
      ((2 ^ 31 ≤ g ∨ ∃ u, (s.port p).nakAt = some u ∧ s.count (88 + p) < u + 2000) → Runs (.dataFrame p f) s fun t =>
        tookReturns s t p f ∧ (t.port p).rxFctr = (s.port p).rxFctr ∧ (t.port p).oldRxKey = (s.port p).oldRxKey ∧ (t.port p).rxSeq = (s.port p).rxSeq ∧ t = { s with ports := t.ports }))

/-- R411, R414, R426, R434. A frame that fails its CRC counts in CRC_FAIL, and one whose tag or FCTR fails counts in AUTH_FAIL; each is a gap. One with ENC = 0 in UP, with LEN above 968, or of a reserved TYPE or KIND is a violation, the second a gap too. None delivers anything. The 256th violation in 1 ms has the port held with reason 4, F_LINK_PROTO
and F_LINK_DOWN. -/
def Sys2Proof.Machine.BadFramesAreDiscarded : Prop :=
  ∀ (p : Nat) (f : Frame) (s : State) (x : Port), isPort p = true → s.port p = x → x.st = .up → x.injArm = false → x.reordered = none →
    x.violationAt.length < 255 → x.authAt.length < 15 → ∀ i, (i = .dataFrame p f ∧ (f.ftype = 1 ∨ 4 ≤ f.ftype)) ∨ (i = .idleFrame p f ∧ f.ftype = 0) ∨ (i = .nakFrame p f ∧ f.ftype = 2) →
    (f.crcOk = false → Runs i s fun t => (t.port p).crcFail = stick 16 (x.crcFail + 1) ∧ (t.port p).rxSeq = x.rxSeq ∧ (t.port p).replay = x.replay ∧
      ((∀ u, x.nakAt = some u → u + 2000 ≤ s.count (88 + p)) → ∃ k, t.frameOut = s.frameOut ++ [(p, k)] ∧ k.ftype = 2 ∧ k.ack = x.rxSeq) ∧ otherPorts s t p ∧
      t = { s with ports := t.ports, frameOut := t.frameOut }) ∧
    (f.crcOk = true → f.ftype ≤ 4 → f.len ≤ 968 → f.enc = true → openFrame x f = none → Runs i s fun t =>
      (t.port p).authFail = stick 16 (x.authFail + 1) ∧ (t.port p).rxSeq = x.rxSeq ∧ (t.port p).rxFctr = x.rxFctr ∧ (t.port p).replay = x.replay ∧
      ((∀ u, x.nakAt = some u → u + 2000 ≤ s.count (88 + p)) → ∃ k, t.frameOut = s.frameOut ++ [(p, k)] ∧ k.ftype = 2 ∧ k.ack = x.rxSeq) ∧ otherPorts s t p ∧
      t = { s with ports := t.ports, frameOut := t.frameOut }) ∧
    (f.crcOk = true → f.ftype ≤ 4 → 968 < f.len → Runs i s fun t =>
      (t.port p).violations = stick 16 (x.violations + 1) ∧ (t.port p).rxSeq = x.rxSeq ∧
      ((∀ u, x.nakAt = some u → u + 2000 ≤ s.count (88 + p)) → ∃ k, t.frameOut = s.frameOut ++ [(p, k)] ∧ k.ftype = 2 ∧ k.ack = x.rxSeq) ∧ otherPorts s t p ∧
      t = { s with ports := t.ports, frameOut := t.frameOut }) ∧
    (f.crcOk = true → (5 ≤ f.ftype ∨ (f.ftype ≤ 4 ∧ f.len ≤ 968 ∧ f.enc = false)) → Runs i s fun t =>
      (t.port p).violations = stick 16 (x.violations + 1) ∧ (t.port p).violationAt = lastMs (s.count (88 + p)) x.violationAt ++ [s.count (88 + p)] ∧ (t.port p).rxSeq = x.rxSeq ∧ otherPorts s t p ∧
      t = { s with ports := t.ports })

/-- R420, R426, R428, R434. The violation that makes 256 within 1 ms takes a port in UP to HELD, where it sends IDLE. -/
def Sys2Proof.Machine.OffendersAreHeld : Prop :=
  ∀ (p : Nat) (f : Frame) (s : State) (x : Port), isPort p = true → s.port p = x → x.st = .up → x.injArm = false → x.reordered = none → quietPort s p →
    (lastMs (s.count (88 + p)) x.violationAt).length = 255 → f.ftype = 1 → f.crcOk = true → f.len ≤ 968 → f.enc = false → (s.die (88 + p)).ledger.held.length < 255 →
    Runs (.dataFrame p f) s fun t =>
      (t.port p).st = .held ∧ (t.port p).reason = 4 ∧ (t.port p).violationAt = [] ∧ (t.port p).txKey = [] ∧ (t.port p).handedBack = x.handedBack ++ x.replay ∧ otherPorts s t p ∧
      (∃ a b, (t.die (88 + p)).ledger.held = (s.die (88 + p)).ledger.held ++ [a, b] ∧ a.code = fLinkProto ∧ b.code = fLinkDown) ∧ sendsIdle s t p ∧
      t = { s with ports := t.ports, dies := t.dies, frameOut := t.frameOut, packetOut := s.packetOut.filter fun e => e.1 != p }

/-- R415, R418, R434. An IDLE gives its ACK and credits and is not delivered; an ACK for a SEQ not yet sent is a violation. A NAK has every frame of the replay buffer from the SEQ that it names sent again, in order, and so has 10 µs without an ACK; a NAK for a SEQ already acknowledged is a violation. A message of a reserved KIND is one too; messages of the other kinds have rows of their own. -/
def Sys2Proof.Machine.IdlesNaksAndReplays : Prop :=
  ∀ (p : Nat) (f : Frame) (s : State) (m : List Byte), isPort p = true → frameOpens s p f m →
    (ackPasses (s.port p) f ≤ (s.port p).replay.length → f.ftype = 0 → Runs (.idleFrame p f) s fun t => tookFrame s t p f ∧ t = { s with ports := t.ports }) ∧
    (ackPasses (s.port p) f ≤ (s.port p).replay.length → (s.port p).replay.length < 2 ^ 31 → f.ftype = 2 → (∀ g ∈ (s.port p).replay, resent (s.port p) g.seq < 32) → Runs (.nakFrame p f) s fun t =>
      (t.port p).replay.map (·.seq) = ((s.port p).replay.drop (ackPasses (s.port p) f)).map (·.seq) ∧
      (∃ l : List Frame, t.frameOut = s.frameOut ++ l.map (fun g => (p, g)) ∧ l.map (·.seq) = ((s.port p).replay.drop (ackPasses (s.port p) f)).map (·.seq) ∧ ∀ g ∈ l, g.replay = true) ∧
      (t.port p).rxSeq = (s.port p).rxSeq ∧ otherPorts s t p ∧ t = { s with ports := t.ports, dies := t.dies, frameOut := t.frameOut }) ∧
    ((∀ g ∈ (s.port p).replay, resent (s.port p) g.seq < 32) → Runs (.replayTimeout p) s fun t =>
      (∃ l : List Frame, t.frameOut = s.frameOut ++ l.map (fun g => (p, g)) ∧ l.map (·.seq) = (s.port p).replay.map (·.seq) ∧ ∀ g ∈ l, g.replay = true) ∧
      (∀ g ∈ (s.port p).replay, (s.port p).replay.countP (fun h => h.seq == g.seq) = 1 → resent (t.port p) g.seq = resent (s.port p) g.seq + 1) ∧
      otherPorts s t p ∧ t = { s with ports := t.ports, dies := t.dies, frameOut := t.frameOut }) ∧
    ((s.port p).violationAt.length < 255 → (s.port p).authAt.length < 16 →
      ((s.port p).replay.length < ackPasses (s.port p) f → ackPasses (s.port p) f < 2 ^ 31 → f.ftype = 0 → Runs (.idleFrame p f) s fun t =>
        (t.port p).violations = stick 16 ((s.port p).violations + 1) ∧ (t.port p).replay = (s.port p).replay ∧ otherPorts s t p ∧ t = { s with ports := t.ports }) ∧
      (2 ^ 31 ≤ ackPasses (s.port p) f → (s.port p).replay.length < 2 ^ 31 → f.ftype = 2 → Runs (.nakFrame p f) s fun t =>
        (t.port p).violations = stick 16 ((s.port p).violations + 1) ∧ (t.port p).replay = (s.port p).replay ∧ otherPorts s t p ∧ t = { s with ports := t.ports }) ∧
      (ackPasses (s.port p) f ≤ (s.port p).replay.length → f.ftype = 3 → f.seq = (s.port p).rxSeq → (ofBe (slice m 0 2) = 0 ∨ 8 < ofBe (slice m 0 2)) → Runs (.dataFrame p f) s fun t =>
        (t.port p).violations = stick 16 ((s.port p).violations + 1) ∧ (t.port p).rxSeq = f.seq + 1 ∧ t.delivered = s.delivered ∧ otherPorts s t p)) ∧
    (f.ftype = 3 → 1 ≤ ofBe (slice m 0 2) → ofBe (slice m 0 2) ≤ 8 → Runs (.dataFrame p f) s fun t => t = s)

/-- R432, R433. Every PERIOD-th eligible frame in the direction of DIR is acted on; each such frame adds to INJECTED, and ARM clears at LIMIT. On the transmit side a dropped frame is not sent and a corrupted one goes out with byte 32 of its payload inverted and a CRC that does not match; on the receive side a dropped frame is discarded, a corrupted one fails its CRC, and a forged one fails authentication; on either side a
reordered one is held, and follows the next frame. -/
def Sys2Proof.Machine.InjectionActs : Prop :=
  ∀ (p : Nat) (f : Frame) (s : State) (x : Port), isPort p = true → s.port p = x → x.injArm = true → f.ftype = 1 → x.classes.getLsbD f.cls = true →
    (∀ u, s.injects p x.injDir f = u →
      u.2 = decide ((x.injSeen + 1) % x.period = 0) ∧ (u.1.port p).injSeen = x.injSeen + 1 ∧ (u.1.port p).injected = (if u.2 then stick 16 (x.injected + 1) else x.injected) ∧
      ((u.1.port p).injArm = false ↔ u.2 = true ∧ x.limit ≠ 0 ∧ x.limit ≤ stick 16 (x.injected + 1)) ∧ otherPorts s u.1 p ∧ u.1 = { s with ports := u.1.ports, dies := u.1.dies }) ∧
    ((s.injects p (!x.injDir) f) = (s, false)) ∧
    ((x.injSeen + 1) % x.period = 0 →
      (x.injDir = false → x.injKind = 0 → x.reordered = none → (s.sendRaw p f).frameOut = s.frameOut) ∧
      (x.injDir = false → x.injKind = 2 → x.st = .up → ((s.sendRaw p f).port p).reordered = some f ∧ (x.reordered = none → (s.sendRaw p f).frameOut = s.frameOut) ∧
        (∀ h, x.reordered = some h → ∃ k, (s.sendRaw p f).frameOut = s.frameOut ++ [(p, k)] ∧ k.seq = h.seq ∧ k.ftype = h.ftype)) ∧
      (x.injDir = false → x.injKind = 1 → x.reordered = none → x.st = .up → 32 < ((s.injects p false f).1.dress p f).payload.length → ∃ k, (s.sendRaw p f).frameOut = s.frameOut ++ [(p, k)] ∧ k.crcOk = false ∧ k.payload.getD 32 0 = ~~~ ((s.injects p false f).1.dress p f).payload.getD 32 0 ∧
        ∀ j, j ≠ 32 → k.payload.getD j 0 = ((s.injects p false f).1.dress p f).payload.getD j 0) ∧
      (x.injDir = true → x.injKind = 0 → x.reordered = none → Runs (.dataFrame p f) s fun t => (t.port p).injSeen = x.injSeen + 1 ∧ (t.port p).rxSeq = x.rxSeq ∧ t = { s with ports := t.ports, dies := t.dies }) ∧
      (x.injDir = true → x.injKind = 1 → x.reordered = none → x.st = .up → Runs (.dataFrame p f) s fun t => (t.port p).crcFail = stick 16 (x.crcFail + 1) ∧ t.delivered = s.delivered) ∧
      (x.injDir = true → x.injKind = 2 → Runs (.dataFrame p f) s fun t => (t.port p).reordered = some f ∧ (x.reordered = none → t = { s with ports := t.ports, dies := t.dies })) ∧
      (x.injDir = true → x.injKind = 3 → x.reordered = none → x.st = .up → f.len ≤ 968 → f.enc = true → x.violationAt.length < 256 → x.authAt.length < 15 → Runs (.dataFrame p f) s fun t =>
        (t.port p).authFail = stick 16 (x.authFail + 1) ∧ t.delivered = s.delivered)) ∧
    (∀ h, x.injDir = false → x.reordered = some h → (x.injSeen + 1) % x.period ≠ 0 → x.st = .up → ∃ a b, (s.sendRaw p f).frameOut = s.frameOut ++ [(p, a), (p, b)] ∧ a.seq = f.seq ∧ b.seq = h.seq ∧
      ((s.sendRaw p f).port p).reordered = none)

/-- A message of a kind in the clear, in order of CRC, LEN and count, at a port in identification. -/
def Sys2Proof.Machine.clearMessage (s : State) (p : Nat) (f : Frame) (kind : Nat) : Prop :=
  f.crcOk = true ∧ f.ftype = 3 ∧ f.enc = false ∧ f.len ≤ 968 ∧ kindOf f = kind ∧ ((f.count.toNat : Int) - s.count (88 + p)).natAbs ≤ 1000000

/-- R423, R424, R431. A port in ALIGN enters IDENTIFY with a new nonce and sends HELLO, and sends it again while the partner's HELLO has not come. The partner's HELLO gives its nonce, package and port, and four ECHO messages go out; an ECHO is answered with its number; the fourth ECHO_REPLY sets LK_DELAY to half of the smallest round trip less 300 ns. -/
def Sys2Proof.Machine.HellosAndEchoes : Prop :=
  ∀ (p : Nat) (s : State) (x : Port), isPort p = true → s.port p = x → x.retrainInPlace = false →
    (x.st = .align → Runs (.helloResend p) s fun t =>
      (t.port p).st = .identify ∧ (t.port p).ident = { ownNonce := slice (Config.random s.fresh) 0 32, ownEph := slice (Config.random (s.fresh + 1)) 0 32 } ∧
      (∃ k, t.frameOut = s.frameOut ++ [(p, k)] ∧ k.ftype = 3 ∧ k.enc = false ∧ slice k.payload 0 40 = be 2 1 ++ (be 2 s.pkgId ++ be 1 p ++ be 1 1 ++ be 2 0) ++ (t.port p).ident.ownNonce) ∧
      otherPorts s t p ∧ t = { s with fresh := s.fresh + 2, ports := t.ports, dies := t.dies, frameOut := t.frameOut }) ∧
    (x.st ≠ .align → x.st ≠ .identify ∨ x.ident.peerNonce.isSome = true → Runs (.helloResend p) s fun t => t = s) ∧
    (x.st = .identify → x.txKey = [] →
      (x.ident.peerNonce = none → Runs (.helloResend p) s fun t => (t.port p).ident = x.ident ∧
        (∃ k, t.frameOut = s.frameOut ++ [(p, k)] ∧ k.ftype = 3 ∧ slice k.payload 0 2 = be 2 1 ∧ slice k.payload 8 32 = slice x.ident.ownNonce 0 32) ∧ t = { s with ports := t.ports, frameOut := t.frameOut }) ∧
      (∀ f, clearMessage s p f 1 → x.ident.peerNonce = none → Runs (.hello p f) s fun t =>
        (t.port p).ident = { x.ident with peerNonce := some (slice f.payload 8 32) } ∧ (t.port p).partnerPkg = ofBe (slice f.payload 2 2) % 2 ^ 14 ∧ (t.port p).partnerPort = ofBe (slice f.payload 4 1) % 8 ∧
        (∃ l : List Frame, t.frameOut = s.frameOut ++ l.map (fun k => (p, k)) ∧ l.map (fun k => (k.ftype, slice k.payload 0 4)) = (List.range 4).map fun n => (3, be 2 4 ++ be 2 n)) ∧
        otherPorts s t p ∧ t = { s with ports := t.ports, frameOut := t.frameOut }) ∧
      (∀ f, clearMessage s p f 4 → Runs (.echo p f) s fun t =>
        (∃ k, t.frameOut = s.frameOut ++ [(p, k)] ∧ k.ftype = 3 ∧ slice k.payload 0 4 = be 2 5 ++ slice f.payload 2 2) ∧ (t.port p).ident = x.ident ∧ t = { s with ports := t.ports, frameOut := t.frameOut }) ∧
      (∀ f r b, clearMessage s p f 5 → x.ident.echoes < 4 → b = (if x.ident.echoes = 0 then r else min x.ident.bestRtt r) → Runs (.echoReply p f r) s fun t =>
        t.port p = { x with ident := { x.ident with echoes := x.ident.echoes + 1, bestRtt := b }, delay := if x.ident.echoes = 3 then min 65535 (b / 2 - 300) else x.delay } ∧
        otherPorts s t p ∧ t = { s with ports := t.ports })) ∧
    (∀ f, x.st = .align → clearMessage s p f 1 → Runs (.hello p f) s fun t => (t.port p).st = .identify ∧ (t.port p).ident.peerNonce = some (slice f.payload 8 32) ∧ t.fresh = s.fresh + 2 ∧ otherPorts s t p)

/-- R423, R425, R427. After four ECHO_REPLYs a signed IDENT goes out while a keeper is active. The partner's IDENT is checked: nonces and signature (reason 3, F_LINK_ID), an expected partner at all (reason 1, an entry only), and package, port and key (reason 2, F_LINK_ID); where it fails the port is held and sends IDLE. Where it passes, the keys of both directions come
from the two keys and nonces, and once the port's own IDENT is out, CONFIRM goes out encrypted. A CONFIRM under these keys, after the port's own, takes the port to UP with sequence numbers at 0 and all credits. -/
def Sys2Proof.Machine.IdentsAreChecked : Prop :=
  ∀ (p : Nat) (s : State) (x : Port), isPort p = true → s.port p = x → x.retrainInPlace = false → x.st = .identify →
    (s.holder.isSome = true → x.ident.echoes = 4 → x.ident.peerNonce.isSome = true → x.ident.identSent = false → x.ident.confirmSent = false → Runs (.identSigned p) s fun t =>
      (t.port p).ident.identSent = true ∧ (t.port p).ident.confirmSent = x.ident.peerOk ∧
      (∃ k l, t.frameOut = s.frameOut ++ (p, k) :: l ∧ k.ftype = 3 ∧ k.enc = false ∧ slice k.payload 0 200 = s.identBody p ∧ slice k.payload 200 64 = slice (identitySign ((s.identBody p))) 0 64 ∧
        l.length = b2n x.ident.peerOk) ∧ otherPorts s t p ∧ t = { s with ports := t.ports, frameOut := t.frameOut }) ∧
    (s.holder = none ∨ x.ident.echoes ≠ 4 ∨ x.ident.peerNonce = none ∨ x.ident.identSent = true → Runs (.identSigned p) s fun t => t = s) ∧
    (∀ f, clearMessage s p f 2 → x.ident.peerNonce.isSome = true →
      (∀ r, ((s.identCheck p f.payload = .auth ∧ r = 3) ∨ (s.identCheck p f.payload = .mismatch ∧ r = 2)) → s.hasRoom (88 + p) → Runs (.ident p f) s fun t =>
        (t.port p).st = .held ∧ (t.port p).reason = r ∧ (t.port p).txKey = [] ∧ raised s t (88 + p) fLinkId ∧ (t.port p).partnerPkg = ofBe (slice f.payload 2 2) % 2 ^ 14 ∧
        sendsIdle s t p ∧ otherPorts s t p ∧ t = { s with ports := t.ports, dies := t.dies, frameOut := t.frameOut }) ∧
      (s.identCheck p f.payload = .extra → Runs (.ident p f) s fun t =>
        (t.port p).st = .held ∧ (t.port p).reason = 1 ∧ (t.port p).txKey = [] ∧ (t.die (88 + p)).ledger.held = (s.die (88 + p)).ledger.held ∧
        (t.port p).partnerPkg = ofBe (slice f.payload 2 2) % 2 ^ 14 ∧ sendsIdle s t p ∧ otherPorts s t p ∧ t = { s with ports := t.ports, dies := t.dies, frameOut := t.frameOut }) ∧
      (s.identCheck p f.payload = .pass → Runs (.ident p f) s fun t =>
        x.expectValid = true ∧ ofBe (slice f.payload 2 2) = x.expectPkg ∧ ofBe (slice f.payload 4 1) = x.expectPort ∧
        ((t.port p).txKey, (t.port p).rxKey) = linkKeys (t.lowSide p) x.ident.ownEph (slice f.payload 136 64) x.ident.ownNonce (x.ident.peerNonce.getD []) ∧
        (t.port p).st = .identify ∧ (t.port p).ident.peerOk = true ∧ (t.port p).ident.ownEph = (if x.ident.identSent then [] else x.ident.ownEph) ∧ (x.ident.identSent = false → t.frameOut = s.frameOut) ∧
        (x.ident.identSent = true → (t.port p).ident.confirmSent = true ∧ ∃ k, t.frameOut = s.frameOut ++ [(p, k)] ∧ k.ftype = 3 ∧ k.enc = true ∧ k.fctr = 0) ∧
        otherPorts s t p ∧ t = { s with ports := t.ports, frameOut := t.frameOut })) ∧
    (∀ f m, f.crcOk = true → f.ftype = 3 → f.enc = true → f.len ≤ 968 → ((f.count.toNat : Int) - s.count (88 + p)).natAbs ≤ 1000000 → openFrame x f = some (m, true) → ofBe (slice m 0 2) = 3 →
      (x.ident.confirmSent = true → Runs (.confirm p f) s fun t =>
        (t.port p).st = .up ∧ (t.port p).ident = {} ∧ (t.port p).txSeq = 0 ∧ (t.port p).rxSeq = 0 ∧ (t.port p).replay = [] ∧ (t.port p).credits = [64, 512, 2048, 64] ∧ (t.port p).txKey = x.txKey ∧
        (t.port p).rxKey = x.rxKey ∧ (t.port p).rxFctr = some f.fctr ∧ otherPorts s t p ∧ t = { s with ports := t.ports, dies := t.dies }) ∧
      (x.ident.confirmSent = false → Runs (.confirm p f) s fun t => (t.port p).st = .identify ∧ t = { s with ports := t.ports }))

/-- R410, R412, R429, R434. A sender whose FCTR has reached 2^32 sends REKEY with a new key and nonce. Who takes a REKEY answers with its own and both take the new keys with KEY_PHASE inverted and FCTR 0, the old receive key staying; of two REKEYs that cross, the low side's proceeds; while the replay buffer is full, or class 0 has no credit, the answer waits; the REKEY_ACK goes under the present keys,
which the port keeps to send it again. A REKEY_ACK that nothing waits for is a violation. DOWN takes a port in UP to DARK without F_LINK_DOWN. -/
def Sys2Proof.Machine.RekeyAndDown : Prop :=
  (∀ (p : Nat) (s : State) (x : Port), isPort p = true → s.port p = x →
    (x.st = .up → x.retrainInPlace = false → 2 ^ 32 ≤ x.txFctr → x.rekey = .idle → x.rekeyAsked = none → x.oldRxKey = [] → x.oldTxKey = [] → sendable x 0 = true → Runs (.fctrRekeyThreshold p) s fun t =>
      (t.port p).rekey = .sent ∧ (t.port p).rekeyNonce = slice (Config.random s.fresh) 0 32 ∧ (t.port p).rekeyEph = slice (Config.random (s.fresh + 1)) 0 32 ∧
      (∃ f, (t.port p).replay = x.replay ++ [f] ∧ f.ftype = 3 ∧ kindOf f = 6 ∧ slice f.payload 8 32 = slice (Config.random s.fresh) 0 32) ∧ (t.port p).txKey = x.txKey ∧ otherPorts s t p ∧
      t = { s with fresh := s.fresh + 2, ports := t.ports, dies := t.dies, frameOut := t.frameOut }) ∧
    (x.st ≠ .up ∨ x.txFctr < 2 ^ 32 ∨ x.rekey ≠ .idle ∨ x.rekeyAsked.isSome = true ∨ x.oldRxKey ≠ [] ∨ x.oldTxKey ≠ [] ∨ sendable x 0 = false → Runs (.fctrRekeyThreshold p) s fun t => t = s)) ∧
  (∀ (p : Nat) (f : Frame) (s : State) (m : List Byte) (x : Port), isPort p = true → frameOpens s p f m → s.port p = x → ackPasses x f ≤ x.replay.length → f.ftype = 3 → f.seq = x.rxSeq →
    (ofBe (slice m 0 2) = 6 → x.rekey = .idle ∨ (x.rekey = .sent ∧ s.lowSide p = false) → 4096 ≤ (x.replay.drop (ackPasses x f)).length ∨ x.credits.getD 0 0 + f.credit.getD 0 0 = 0 → Runs (.rekey p f) s fun t =>
      (t.port p).rekeyAsked = some m ∧ (t.port p).txKey = x.txKey ∧ (t.port p).rxKey = x.rxKey ∧ (t.port p).rxSeq = f.seq + 1 ∧ otherPorts s t p ∧
      t = { s with ports := t.ports, dies := t.dies, frameOut := t.frameOut }) ∧
    (ofBe (slice m 0 2) = 6 → x.rekey = .idle ∨ (x.rekey = .sent ∧ s.lowSide p = false) → (x.replay.drop (ackPasses x f)).length < 4096 → 0 < x.credits.getD 0 0 + f.credit.getD 0 0 → Runs (.rekey p f) s fun t =>
      ((t.port p).txKey, (t.port p).rxKey) = linkKeys (s.lowSide p) (slice (Config.random (s.fresh + 1)) 0 32) (slice m 40 64) (slice (Config.random s.fresh) 0 32) (slice m 8 32) ∧
      (t.port p).oldRxKey = x.rxKey ∧ (t.port p).oldTxKey = x.txKey ∧ (t.port p).rekeySeq = some x.txSeq ∧ (t.port p).keyPhase = !x.keyPhase ∧ (t.port p).rxPhase = !x.rxPhase ∧ (t.port p).txFctr = 0 ∧ (t.port p).rxFctr = none ∧ (t.port p).rxSeq = f.seq + 1 ∧
      (∃ k, (t.port p).replay = x.replay.drop (ackPasses x f) ++ [k] ∧ k.ftype = 3 ∧ kindOf k = 7 ∧ slice k.payload 8 32 = slice (Config.random s.fresh) 0 32) ∧ otherPorts s t p ∧
      t = { s with fresh := s.fresh + 2, ports := t.ports, dies := t.dies, frameOut := t.frameOut }) ∧
    (ofBe (slice m 0 2) = 6 → x.rekey = .sent → s.lowSide p = true → Runs (.rekey p f) s fun t => (t.port p).rekey = .sent ∧ (t.port p).txKey = x.txKey ∧ (t.port p).rxKey = x.rxKey ∧ (t.port p).rxSeq = f.seq + 1) ∧
    (ofBe (slice m 0 2) = 7 → x.rekey = .sent → Runs (.rekeyAck p f) s fun t =>
      ((t.port p).txKey, (t.port p).rxKey) = linkKeys (s.lowSide p) x.rekeyEph (slice m 40 64) x.rekeyNonce (slice m 8 32) ∧ (t.port p).oldRxKey = x.rxKey ∧ (t.port p).keyPhase = !x.keyPhase ∧
      (t.port p).txFctr = 0 ∧ (t.port p).rxFctr = none ∧ (t.port p).rekeyEph = [] ∧ otherPorts s t p ∧ t = { s with ports := t.ports, dies := t.dies, frameOut := t.frameOut }) ∧
    (ofBe (slice m 0 2) = 7 → x.rekey = .idle → x.violationAt.length < 255 → x.authAt.length < 16 → Runs (.rekeyAck p f) s fun t =>
      (t.port p).violations = stick 16 (x.violations + 1) ∧ (t.port p).txKey = x.txKey ∧ (t.port p).rxKey = x.rxKey) ∧
    (ofBe (slice m 0 2) = 8 → quietPort s p → Runs (.down p f) s fun t =>
      (t.port p).st = .dark ∧ (t.port p).txKey = [] ∧ (t.port p).handedBack = x.handedBack ++ x.replay.drop (ackPasses x f) ∧ (t.die (88 + p)).ledger.held = (s.die (88 + p)).ledger.held ∧ otherPorts s t p ∧
      t = { s with ports := t.ports, dies := t.dies, frameOut := t.frameOut, packetOut := s.packetOut.filter fun e => e.1 != p })) ∧
  (∀ (p : Nat) (f : Frame) (s : State), isPort p = true → (s.port p).retrainInPlace = false → (s.port p).st = .identify → clearMessage s p f 8 → Runs (.down p f) s fun t =>
    (t.port p).st = .dark ∧ (t.die (88 + p)).ledger.held = (s.die (88 + p)).ledger.held ∧ otherPorts s t p ∧ t = { s with ports := t.ports, dies := t.dies })

/-! ## Fault records, keepers, hatch service and the ring (R464, R496 to R518, R566) -/

/-- A record whose only effect is the record: it faults no job, and counts toward no die's failure. -/
def Sys2Proof.Machine.recordOnly (r : FaultRec) : Prop := r.job = false ∧ neverReleased r.code = false ∧ countsToFail r.code = false ∧ r.ctxs = []

/-- HQ_CAUSE.SERVICE is set on both ports. -/
def Sys2Proof.Machine.serviceTold (t : State) : Prop := t.host0.causeService = true ∧ t.host1.causeService = true

/-- R497, R498, R561. The active keeper takes a die's first record that is not taken, where the mesh leads to it (R26): LAST_FAULT names it, and one for the kernel driver sets ERROR on both ports. The acknowledgement frees it, and a record that waits takes its place; the records that the die applied itself are then told of once. One that no keeper acknowledges goes to the hatch sequencers, which hold it and write it into their rings; one that a keeper had taken has its effect no second time. -/
def Sys2Proof.Machine.FaultRecordsAreTakenAndFreed : Prop :=
  ∀ (d : Nat) (s : State), isDie d = true →
    (s.holder = none ∨ s.reaches d s.keeperDie = false → Runs (.faultRecordDeliver d) s fun t => t = s) ∧
    ((∀ r ∈ (s.die d).ledger.held, r.delivered = true) → Runs (.faultRecordDeliver d) s fun t => t = s) ∧
    (∀ r l, (s.die d).ledger.held = r :: l → l.length < 256 → r.delivered = false → recordOnly r →
      (s.holder.isSome = true → s.reaches d s.keeperDie = true → Runs (.faultRecordDeliver d) s fun t =>
        (t.die d).ledger.held = { r with delivered := true } :: l ∧ t.lastFault = r.code ∧ t.lastFaultCount = r.count ∧ (r.driver = true → t.host0.causeError = true ∧ t.host1.causeError = true) ∧
        t = { s with dies := t.dies, host0 := t.host0, host1 := t.host1, irqs := t.irqs, lastFault := r.code, lastFaultCount := r.count }) ∧
      ((s.die d).ledger.applied = 0 → s.hatch0.failed = false → s.hatch0.held.length < 1024 → s.hatch1.failed = false → s.hatch1.held.length < 1024 → s.reaches d 96 = true → s.reaches d 97 = true →
        Runs (.faultRecordTimeout d) s fun t =>
        (t.die d).ledger.held = l ++ (s.die d).ledger.queued.take 1 ∧ t.hatch0 = { s.hatch0 with held := s.hatch0.held ++ [r] } ∧ t.hatch1 = { s.hatch1 with held := s.hatch1.held ++ [r] } ∧ t.lastFault = r.code ∧
        (∀ e, ((s.die d).ledger.ring.find? fun e => e.kind == 1 && e.code == r.code && e.count == r.count && !e.continued) = some e →
            ((s.die d).ledger.ring.filter fun f => f.continued && f.seq == e.seq + 1).length ≤ 1 →
          ∀ i, i < 2 → ∃ m ∈ (t.die (96 + i)).ledger.ring, m.mirrored = true ∧ m.kind = 1 ∧ m.code = r.code ∧ m.count = r.count) ∧
        t = { s with dies := t.dies, hatch0 := t.hatch0, hatch1 := t.hatch1, host0 := t.host0, host1 := t.host1, irqs := t.irqs, lastFault := r.code, lastFaultCount := r.count })) ∧
    (∀ r l, (s.die d).ledger.held = r :: l → l.length < 256 → r.delivered = true → (s.die d).ledger.applied = 0 → s.hatch0.failed = false → s.hatch0.held.length < 1024 → s.reaches d 96 = true →
      s.hatch1.failed = true ∨ s.reaches d 97 = false → Runs (.faultRecordTimeout d) s fun t =>
        (t.die d).ledger.held = l ++ (s.die d).ledger.queued.take 1 ∧ t = { s with dies := t.dies, hatch0 := { s.hatch0 with held := s.hatch0.held ++ [r] } }) ∧
    ((∀ i, i < 2 → (s.hatch i).failed = true ∨ s.reaches d (96 + i) = false) → Runs (.faultRecordTimeout d) s fun t => t = s) ∧
    (∀ r l, (s.die d).ledger.held = r :: l → l.length < 256 → r.delivered = true →
      ((s.die d).ledger.applied = 0 → Runs (.faultRecordAck d) s fun t => (t.die d).ledger.held = l ++ (s.die d).ledger.queued.take 1 ∧ t = { s with dies := t.dies }) ∧
      (0 < (s.die d).ledger.applied → (s.die d).ledger.queued = [] → Runs (.faultRecordAck d) s fun t =>
        (∃ x, (t.die d).ledger.held = l ++ [x] ∧ x.code = fFaultLost ∧ x.driver = true) ∧ (t.die d).ledger.applied = 0 ∧ t = { s with dies := t.dies })) ∧
    (((s.die d).ledger.held.head?.map (·.delivered)).getD false = false → Runs (.faultRecordAck d) s fun t => t = s)

/-- R132, R464, R500. A record of effect "job" that the keeper takes faults the job of its context: the first fault sets the code of its records, and its contexts are to be quenched. JOB_FAULT does the same, and the root of a job over packages sends it on once, with the package and the count of the detection. A prune told of by the root has the member take no more of the group's packets, and its context gets the root's record. -/
def Sys2Proof.Machine.JobsAreFaulted : Prop :=
  (∀ (d c : Nat) (s : State) (r : FaultRec) (l : List FaultRec) (x : Context), isDie d = true → s.holder.isSome = true → s.reaches d s.keeperDie = true → (s.die d).ledger.held = r :: l → r.delivered = false → r.job = true →
    r.ctxs = [c] → neverReleased r.code = false → countsToFail r.code = false → s.ctx? c = some x → Runs (.faultRecordDeliver d) s fun t =>
      (∀ e ∈ s.jobCtxs x.job, (t.ctx e).faulted = some ((s.ctx e).faulted.getD r.code) ∧ (t.ctx e).quenchOrdered = true) ∧
      (∀ e, (∀ y, s.ctx? e = some y → y.job ≠ x.job) → t.ctx? e = s.ctx? e) ∧
      (x.faulted = none → ∀ k, s.launchOf c = some k → 1 < k.packages → t.sent = s.sent ++ [.jobFault x.job r.code s.pkgId r.count]) ∧ (x.faulted.isSome = true → t.sent = s.sent) ∧
      t.mem = s.mem ∧ t.lastFault = r.code) ∧
  (∀ (j code pkg n : Nat) (s : State), pkg ≠ s.pkgId → Runs (.jobFault j code pkg n) s fun t =>
    (∀ e ∈ s.jobCtxs j, (t.ctx e).faulted = some ((s.ctx e).faulted.getD code) ∧ (t.ctx e).quenchOrdered = true) ∧ (∀ e, (∀ y, s.ctx? e = some y → y.job ≠ j) → t.ctx? e = s.ctx? e) ∧
    ((∀ e ∈ s.jobCtxs j, (s.ctx e).faulted.isSome = true) → t.sent = s.sent) ∧
    (∀ e k, s.jobCtxs j = [e] → (s.ctx e).faulted = none → s.launchOf e = some k → k.root = s.pkgId → 1 < k.packages → t.sent = s.sent ++ [.jobFault j code pkg n]) ∧ t.mem = s.mem) ∧
  (∀ (j code n : Nat) (s : State), (∀ e ∈ s.jobCtxs j, (s.ctx e).faulted.isSome = true) → Runs (.jobFault j code s.pkgId n) s fun t => t = s) ∧
  (∀ (j root id c : Nat) (m : PruneMsg) (s : State) (y : RxFlow), s.jobCtxs j = [c] → s.rx? (rxKeyOf root id true) = some y → Runs (.mcastPruneForward j root id m) s fun t =>
    t.rx? (rxKeyOf root id true) = some { y with pruned := true } ∧ t.lastFault = fMcastPruned ∧ t.lastFaultCount = m.count ∧ (∀ k, k ≠ rxKeyOf root id true → t.rx? k = s.rx? k) ∧
    t = { s with dies := t.dies, rxFlows := t.rxFlows, host0 := t.host0, host1 := t.host1, irqs := t.irqs, lastFault := t.lastFault, lastFaultCount := t.lastFaultCount })

/-- R503, R504, R508. The active keeper's heartbeat goes out with its epoch. A keeper that misses it, or that has sent a failure message, is declared failed: it enters state 4 and loses the token, and the peer that stands by raises F_KEEPER_FAIL. One whose watchdog expires says so and stops itself, and is declared failed when that message arrives. A message of an epoch lower than the receiving die knows leaves an entry and no more. With no standby, hatch service begins with F_NO_KEEPER. -/
def Sys2Proof.Machine.KeepersWatchEachOther : Prop :=
  (∀ (s : State), (∀ k, s.holder = some k → Runs .keeperHeartbeat s fun t => t = { s with lastBeat := s.kcount, sent := s.sent ++ [.heartbeat k s.keeperEpoch] }) ∧
    (s.holder = none → Runs .keeperHeartbeat s fun t => t = s)) ∧
  (∀ (k : Nat) (s : State), k < 2 → s.holder = some k → s.keeper k = .active →
    (s.keeper (1 - k) = .standby →
      (∀ i, i = .heartbeatTimeout k ∨ (i = .keeperFailureMessage k ∧ ∀ e, s.failureEpoch k = some e → (s.die (98 + (1 - k))).keeperEpoch ≤ e) → s.hasRoom (98 + (1 - k)) → Runs i s fun t =>
        t.keeper k = .failed ∧ t.keeper (1 - k) = .standby ∧ t.holder = none ∧ t.service = s.service ∧ t.sessions = [] ∧ raised s t (98 + (1 - k)) fKeeperFail ∧ serviceTold t ∧ t.mem = s.mem ∧
        t.contexts = s.contexts ∧ t.queues = s.queues ∧ t.cores = s.cores) ∧
      (Runs (.keeperWatchdogExpire k) s fun t => t.keeper k = .failed ∧ t.holder = none ∧ t.sent = s.sent ++ [.failure k s.keeperEpoch] ∧ t.keeperEpoch = s.keeperEpoch ∧ serviceTold t)) ∧
    (s.keeper (1 - k) ≠ .standby → s.keeper (1 - k) ≠ .active → s.service = .normal → s.hasRoom (96 + s.servingHatch) → (∀ c, dmaBarred (s.ctx c) = false) → Runs (.keeperWatchdogExpire k) s fun t =>
      t.keeper k = .failed ∧ t.holder = none ∧ t.service = .hatch ∧ raised s t (96 + s.servingHatch) fNoKeeper ∧ serviceTold t ∧
      (∀ q x, s.queue? q = some x → ∃ y, t.queue? q = some y ∧ y.holdKeeper = true ∧ y.cmds = x.cmds) ∧ t.mem = s.mem ∧ t.contexts = s.contexts ∧ t.cores = s.cores)) ∧
  (∀ (k e : Nat) (s : State), k < 2 → s.failureEpoch k = some e →
    (∀ d, d = s.declarer k → e < (s.die d).keeperEpoch → Runs (.keeperFailureMessage k) s fun t =>
      (∃ l m, (t.die d).ledger.ring = l ++ [m] ∧ m.kind = 0x0B ∧ m.code = 504) ∧ (∀ c, c ≠ d → t.die c = s.die c) ∧ t = { s with dies := t.dies, sent := s.sent.erase (.failure k e) }) ∧
    (s.keeper k = .failed → s.holder ≠ some k → s.keeper (1 - k) = .standby ∨ s.keeper (1 - k) = .active → (s.die (98 + (1 - k))).keeperEpoch ≤ e → s.hasRoom (98 + (1 - k)) → Runs (.keeperFailureMessage k) s fun t =>
      raised s t (98 + (1 - k)) fKeeperFail ∧ t = { s with dies := t.dies, sent := s.sent.erase (.failure k e) })) ∧
  (∀ (k : Nat) (s : State), k < 2 → s.keeper k ≠ .active → s.keeper k ≠ .standby → ∀ i, i = .heartbeatTimeout k ∨ i = .keeperWatchdogExpire k ∨ (i = .keeperFailureMessage k ∧ s.failureEpoch k = none) →
    Runs i s fun t => t = s)

/-- R504, R505, R508. The swap takes place only at the epoch expected: the epoch rises by one at both hatch sequencers, the keeper is active and a former holder stands by; after hatch service comes the service that was before it, normal or stopped, and with the ring broken and no context left it is stopped, every optical port held (R515). A die takes a higher epoch, and only records a message with a lower one. A journal record counts the holders that have acknowledged it. -/
def Sys2Proof.Machine.TokenEpochAndJournal : Prop :=
  (∀ (k n : Nat) (s : State), k < 2 →
    (mayTake (s.keeper k) = true → n = s.keeperEpoch → s.hatch0.failed = false → s.holder ≠ some k → (∀ j, s.holder = some j → j = 1 - k) → s.stopping = false → s.broken = false → (∀ c, dmaBarred (s.ctx c) = false) → Runs (.keeperTokenCas k n) s fun t =>
      t.holder = some k ∧ t.keeperEpoch = n + 1 ∧ t.keeper k = .active ∧ t.hatch0.epoch = n + 1 ∧ t.hatch1.epoch = n + 1 ∧ (∀ j, s.holder = some j → t.keeper j = .standby) ∧
      t.sent = s.sent ++ [.epoch (n + 1)] ∧ t.service = (if s.service = .hatch then (if s.wasStopped then .stopped else .normal) else s.service) ∧ (∀ q y, t.queue? q = some y → y.holdKeeper = false) ∧ t.mem = s.mem ∧
      t.contexts = s.contexts ∧ t.cores = s.cores) ∧
    (mayTake (s.keeper k) = true → n = s.keeperEpoch → s.hatch0.failed = false → s.broken = true → s.boundCtxs = [] → s.recover = none → Runs (.keeperTokenCas k n) s fun t =>
      t.holder = some k ∧ t.service = .stopped ∧ ∀ p, isPort p = true → (t.port p).hold = true) ∧
    (mayTake (s.keeper k) = false ∨ n ≠ s.keeperEpoch ∨ (s.hatch0.failed = true ∧ s.hatch1.failed = true) → Runs (.keeperTokenCas k n) s fun t => t = s)) ∧
  (∀ (d e : Nat) (s : State), isDie d = true →
    ((s.die d).keeperEpoch ≤ e → Runs (.epochNotice d e) s fun t => (t.die d).keeperEpoch = e ∧ (∀ c, c ≠ d → t.die c = s.die c) ∧ t = { s with dies := t.dies }) ∧
    (e < (s.die d).keeperEpoch → Runs (.epochNotice d e) s fun t => (t.die d).keeperEpoch = (s.die d).keeperEpoch ∧
      (∃ l m, (t.die d).ledger.ring = l ++ [m] ∧ m.kind = 0x0B ∧ m.code = 504 ∧ m.count = s.count d) ∧ (∀ c, c ≠ d → t.die c = s.die c) ∧ t = { s with dies := t.dies })) ∧
  (∀ (h n : Nat) (s : State) (r : JournalRec), h < 3 → s.journal = [r] → r.seq = n →
    ((h = 0 → s.keeper0 = .standby ∨ s.keeper1 = .standby) → (∀ i, h = i + 1 → (s.hatch i).failed = false) → Runs (.journalRecord h n) s fun t =>
      (∃ x, t.journal = [x] ∧ x.seq = n ∧ h ∈ x.acks ∧ ∀ a ∈ r.acks, a ∈ x.acks) ∧ t = { s with journal := t.journal }) ∧
    ((h = 0 ∧ s.keeper0 ≠ .standby ∧ s.keeper1 ≠ .standby) ∨ (∃ i, h = i + 1 ∧ (s.hatch i).failed = true) → Runs (.journalRecord h n) s fun t => t = s))

/-- R431, R495, R506, R507. The new active keeper takes the records that the hatch sequencers hold, ends a PATH_SETUP under way ABORTED, leaves a time exchange, has pool transfers lapse, and raises F_KEEPER_TAKEOVER with SERVICE set on both ports; what was in flight of launches and stretches is lost. A reset keeper with a valid image stands by beside an active one, with a copy of the journal, and takes the token where there is none; one that fails its boot is in state 4 with F_KEEPER_FAIL. An operation of a hatch register that reset it ends. -/
def Sys2Proof.Machine.TakeoverAndKeeperBoot : Prop :=
  (∀ (s : State) (k : Nat), s.holder = some k → k < 2 →
    (s.taking = true → (∀ p, p < 8 → (s.port p).st ≠ .identify) →
      (∀ i r, r ∈ (s.hatch i).held → r.delivered = false → neverReleased r.code = false ∧ countsToFail r.code = false) →
      (s.pathJobs = [] → s.hasRoom (98 + k) → Runs .keeperTakeover s fun t =>
        t.taking = false ∧ t.hatch0 = { s.hatch0 with held := [] } ∧ t.hatch1 = { s.hatch1 with held := [] } ∧ t.time.outstanding = none ∧ t.power = { s.power with pools := [], poolsNext := [] } ∧ t.sent = s.sent.filter (fun m => !lostInFlight m) ∧
        raised s t (98 + k) fKeeperTakeover ∧ serviceTold t ∧
        t.service = s.service ∧ t.cores = s.cores ∧ t.queues = s.queues ∧ t.mem = s.mem ∧ t.ports = s.ports) ∧
      (∀ j x p l, s.pathJobs = [j] → s.queue? j.q = some x → x.cmds = p :: l → Runs .keeperTakeover s fun t => t.pathJobs = [] ∧ (∀ f ∈ j.flows, t.flow? f = none) ∧ (∀ y, s.ctx? j.ctx = some y → (t.ctx j.ctx).tracked = j.oldQuota) ∧ ended t j.q 6)) ∧
    (s.taking = false → Runs .keeperTakeover s fun t => t = s)) ∧
  (∀ (k : Nat) (s : State) (g : Bool), k < 2 → s.keeper k = .resetting ∨ s.keeper k = .booting → s.recover = none → (∀ f ∈ fwKeys 1, (s.fwCopy f).bytes = [] ∨ s.fwValid f = true) →
    (g = true → (s.fwPick 1).isSome = true → s.holder = some (1 - k) → Runs (.keeperBootComplete k g) s fun t =>
      t.keeper k = .standby ∧ t.holder = some (1 - k) ∧ (∃ f, t.running (keeperLoader k) = some f ∧ some f.key = s.fwPick 1) ∧ t.keeperEpoch = s.keeperEpoch ∧ serviceTold t ∧ (∀ r ∈ t.journal, 0 ∈ r.acks) ∧
      (∀ i, i < 2 → (s.hatch i).resets = some k → (t.hatch i).go = false ∧ (t.hatch i).resets = none ∧ (t.hatch i).result = 0)) ∧
    (g = true → (s.fwPick 1).isSome = true → s.holder = none → s.stopping = false → s.broken = false → Runs (.keeperBootComplete k g) s fun t =>
      t.keeper k = .active ∧ t.holder = some k ∧ t.keeperEpoch = s.keeperEpoch + 1 ∧ t.service = (if s.service = .hatch then (if s.wasStopped then .stopped else .normal) else s.service)) ∧
    (g = false → s.holder = some (1 - k) → s.keeper (1 - k) = .active → s.hasRoom (98 + (1 - k)) → Runs (.keeperBootComplete k g) s fun t =>
      t.keeper k = .failed ∧ t.holder = some (1 - k) ∧ raised s t (98 + (1 - k)) fKeeperFail)) ∧
  (∀ (k : Nat) (s : State) (g : Bool), k < 2 → s.keeper k ≠ .resetting → s.keeper k ≠ .booting → Runs (.keeperBootComplete k g) s fun t => t = s)

/-- R499, R507, R509. A write of KP_HATCH_CTRL keeps its fields, and with GO = 1 outside hatch service answers RESULT 1. Under hatch service OP 0 quenches CONTEXT at once, OP 1 every bound context, OP 2 resets a keeper, and OP 3 gives a KIND 0 tally the value; RESULT is 2 for a context not bound and 3 for a VID that is none. The reset, and a force at a die in OP0, are under way with GO = 1 until the keeper has booted and the die has left OP0, and a write with GO = 1 is ignored meanwhile. A hatch sequencer out of service performs nothing. -/
def Obligations.HatchOperations : Prop :=
  ∀ (i : Nat) (v : Word) (s : State) (op c : Nat) (row : Instr), i < 2 → min 3 (bits v.toNat 28 3) = op → bits v.toNat 16 10 = c →
    (op, row) ∈ [(0, Instr.kpHatchQuench i v), (1, .kpHatchQuenchAll i v), (2, .kpHatchKeeperReset i v), (3, .kpHatchTallyForce i v)] →
    ((s.hatch i).failed = true ∨ ((s.hatch i).go = true ∧ bit v.toNat 31 = true) → Runs row s fun t => t = s) ∧
    ((s.hatch i).failed = false → bit v.toNat 31 = false ∨ (s.service ≠ .hatch ∧ (s.hatch i).go = false) → Runs row s fun t =>
      t.hatch i = { s.hatch i with value := BitVec.ofNat 32 (v.toNat / 2 ^ 32), op := op, ctx := c, vid := bits v.toNat 0 16,
                                   result := if bit v.toNat 31 then 1 else (s.hatch i).result } ∧ t = { s with hatch0 := t.hatch0, hatch1 := t.hatch1 }) ∧
    ((s.hatch i).failed = false → (s.hatch i).go = false → bit v.toNat 31 = true → s.service = .hatch →
      (op = 0 ∨ op = 3 → s.isBound c = false → Runs row s fun t => (t.hatch i).result = 2 ∧ t = { s with hatch0 := t.hatch0, hatch1 := t.hatch1 }) ∧
      (op = 0 → s.isBound c = true → Runs row s fun t => (t.hatch i).result = 0 ∧ t.launchOf c = none ∧ (t.ctx c).faulted.isSome = true ∧ (t.ctx c).quenchOrdered = false ∧ t.mem = s.mem) ∧
      (op = 1 → Runs row s fun t => (t.hatch i).result = 0 ∧ (∀ e ∈ s.boundCtxs, s.isBound e = true → t.launchOf e = none ∧ (t.ctx e).faulted.isSome = true) ∧ t.mem = s.mem) ∧
      (op = 2 → s.holder = none → Runs row s fun t => (t.hatch i).result = (s.hatch i).result ∧ (t.hatch i).go = true ∧ (t.hatch i).resets = some (bits v.toNat 0 1) ∧ t.keeper (bits v.toNat 0 1) = .resetting ∧ t.holder = none ∧ t.mem = s.mem ∧ t.cores = s.cores) ∧
      (∀ l, op = 3 → s.isBound c = true → s.launchOf c = some l →
        ((∀ e, findTally l (bits v.toNat 0 16) = some e → e.kind ≠ 0) → Runs row s fun t => (t.hatch i).result = 3 ∧ t = { s with hatch0 := t.hatch0, hatch1 := t.hatch1 }) ∧
        (∀ e h n, findTally l (bits v.toNat 0 16) = some e → e.kind = 0 → s.tallyHome e 0 = some (h, n) →
          (h < 1000 ∧ s.atOp0 (h / 4) = true → Runs row s fun t => (t.hatch i).go = true ∧
            (∃ m, t.tallyMsgs = s.tallyMsgs ++ [m] ∧ m.ctx = c ∧ m.home = h ∧ m.index = n ∧ m.act = .set ∧ m.n = v.toNat / 2 ^ 32 ∧ m.reg = some i) ∧
            t = { s with hatch0 := t.hatch0, hatch1 := t.hatch1, tallyMsgs := t.tallyMsgs }) ∧
          (¬(h < 1000 ∧ s.atOp0 (h / 4) = true) → (s.ctx c).quenchOrdered = false → (s.tally h n).waits = [] → Runs row s fun t =>
            (t.hatch i).result = 0 ∧ (t.hatch i).go = false ∧ (t.tally h n).value.toNat = v.toNat / 2 ^ 32 ∧ otherTallies s t h n ∧ (t.ctx c).tallyForced = true ∧ t.mem = s.mem)))) ∧
    ∀ o r, (o, r) ∈ [(0, Instr.kpHatchQuench i v), (1, .kpHatchQuenchAll i v), (2, .kpHatchKeeperReset i v), (3, .kpHatchTallyForce i v)] → o ≠ op → Runs r s fun t => t = s

/-- R511, R512, R513. A compute die that answers no poll is quarantined with F_DIE_FAIL: its stop is in bypass and the jobs bound to it are faulted with its code. The third record of a kind that counts, within 24 h, has the same effect. A cellar die's channels in service fail; a link die's port leaves UP for FAILED and its flows are lost; a host die's link is down and its hatch sequencer out of service; a keeper that stood by is declared failed by its peer with F_KEEPER_FAIL. -/
def Sys2Proof.Machine.DiesFail : Prop :=
  ∀ (d : Nat) (s : State), isDie d = true →
    (s.holder = none ∨ (s.die d).failed.isSome = true → Runs (.diePollTimeout d) s fun t => t = s) ∧
    (s.holder.isSome = true → (s.die d).failed = none →
      (isCompute d = true → s.hasRoom s.keeperDie → Runs (.diePollTimeout d) s fun t =>
        (t.die d).failed = some fDieFail ∧ (t.die d).bypass = true ∧ (t.die d).railOff = (s.die d).railOff ∧ raised s t s.keeperDie fDieFail ∧
        (∀ c ∈ s.dieCtxs d, (s.ctx? c).isSome = true → (t.ctx c).faulted = some ((s.ctx c).faulted.getD fDieFail) ∧ (t.ctx c).quenchOrdered = true) ∧ t.mem = s.mem ∧ t.cores = s.cores) ∧
      (isCellar d = true → Runs (.diePollTimeout d) s fun t =>
        (t.die d).failed = some fDieFail ∧ (∀ i, i < 4 → inService (s.channel (4 * (d - 68) + i)).st = true → (t.channel (4 * (d - 68) + i)).st = .failed) ∧
        (∀ c, c / 4 ≠ d - 68 → t.channel c = s.channel c) ∧ t.mem = s.mem) ∧
      (isLink d = true → (s.port (d - 88)).st ≠ .up → (s.port (d - 88)).retrainInPlace = false → (∀ f x, s.flow? f = some x → (x.routes.getD 0 []).headD 0 ≠ d - 88) → Runs (.diePollTimeout d) s fun t =>
        (t.die d).failed = some fDieFail ∧ (t.port (d - 88)).st = .failed ∧ otherPorts s t (d - 88) ∧ t = { s with dies := t.dies, ports := t.ports }) ∧
      (isLink d = true → Runs (.diePollTimeout d) s fun t =>
        (t.die d).failed = some fDieFail ∧ (t.port (d - 88)).st = .failed ∧ ∀ f x, s.flow? f = some x → (x.routes.getD 0 []).headD 0 = d - 88 → t.flow? f = none) ∧
      (isHost d = true → Runs (.diePollTimeout d) s fun t => (t.die d).failed = some fDieFail ∧ (t.hp (d - 96)).up = false ∧ (t.hatch (d - 96)).failed = true) ∧
      (∀ k, d = 98 + k → k < 2 → s.keeper k ≠ .active → s.keeper k ≠ .standby → Runs (.diePollTimeout d) s fun t => t = s) ∧
      (∀ k, d = 98 + k → k < 2 → s.keeper k = .standby → s.holder = some (1 - k) → s.keeper (1 - k) = .active → s.hasRoom (98 + (1 - k)) → Runs (.diePollTimeout d) s fun t =>
        t.keeper k = .failed ∧ t.holder = some (1 - k) ∧ raised s t (98 + (1 - k)) fKeeperFail ∧ t.mem = s.mem ∧ t.contexts = s.contexts ∧ t.cores = s.cores) ∧
      (isCompute d = false → isCellar d = false → isLink d = false → isHost d = false → isKeeper d = false → Runs (.diePollTimeout d) s fun t =>
        (t.die d).failed = some fDieFail ∧ (∀ e, e ≠ d → t.die e = s.die e) ∧ t = { s with dies := t.dies })) ∧
    (∀ r l a b, isCompute d = true → s.holder.isSome = true → s.reaches d s.keeperDie = true → (s.die d).failed = none → (s.die d).ledger.held = r :: l → r.delivered = false → r.die = d → countsToFail r.code = true → r.job = false →
      r.ctxs = [] → (s.die d).faultTimes = [(r.code, a), (r.code, b)] → r.count < a + 86400000000000 → r.count < b + 86400000000000 → Runs (.faultRecordDeliver d) s fun t =>
        (t.die d).failed = some r.code ∧ (t.die d).bypass = true)

/-- R515, R517. A stop sends the marker on to the next stop in a direction, unless its bypass path has failed. A marker that is missed, and a bypass path that fails its check, break the ring: F_RING_BREAK is raised once, every job is faulted and its launch stopped, and with no context left the package has stopped service, with every optical port held. With no keeper the contexts stay, their launches stopped. -/
def Sys2Proof.Machine.RingContinuity : Prop :=
  ∀ (p : Nat) (ccw : Bool) (s : State), isStop p = true →
    ((s.die (stopDie p)).bypassFailed = false → Runs (.ringMarkerSend p ccw) s fun t =>
      (let n := stopDie (nextStop p (b2n ccw))
       (if ccw then (t.die n).markerCcw else (t.die n).markerCw) = s.count n ∧ ∀ d, d ≠ n → t.die d = s.die d) ∧
      t.sent = s.sent ++ [.marker p ccw] ∧ t = { s with dies := t.dies, sent := t.sent }) ∧
    ((s.die (stopDie p)).bypassFailed = true → Runs (.ringMarkerSend p ccw) s fun t => t = s) ∧
    ((s.die (stopDie p)).ringBreakTold = true → Runs (.ringMarkerTimeout p ccw) s fun t => t = s) ∧
    ((s.die (stopDie p)).bypass = false → Runs (.bypassSelfCheck p false) s fun t => t = s) ∧
    (Runs (.bypassSelfCheck p true) s fun t => t = s) ∧
    (∀ i, i = .ringMarkerTimeout p ccw ∨ (i = .bypassSelfCheck p false ∧ (s.die (stopDie p)).bypass = true) → (s.die (stopDie p)).ringBreakTold = false → s.holder.isSome = true →
      (s.boundCtxs = [] → s.recover = none → s.hasRoom (stopDie p) → Runs i s fun t =>
        t.broken = true ∧ t.service = .stopped ∧ raised s t (stopDie p) fRingBreak ∧ (t.die (stopDie p)).ringBreakTold = true ∧ (∀ n, isPort n = true → (t.port n).hold = true) ∧ t.mem = s.mem) ∧
      (s.service ≠ .stopped → Runs i s fun t => t.broken = true ∧ (t.die (stopDie p)).ringBreakTold = true ∧ ∀ c, (s.ctx? c).isSome = true → t.ctx? c = none ∨ (t.ctx c).dying = true)) ∧
    (∀ i, i = .ringMarkerTimeout p ccw ∨ (i = .bypassSelfCheck p false ∧ (s.die (stopDie p)).bypass = true) → (s.die (stopDie p)).ringBreakTold = false → s.holder = none → Runs i s fun t =>
      t.broken = true ∧ (t.die (stopDie p)).ringBreakTold = true ∧ t.service = s.service ∧ ∀ c x, s.ctx? c = some x → t.launchOf c = none ∧ (t.ctx c).faulted = some (x.faulted.getD fRingBreak))

/-- R565, R566, R567. A merge run takes every entry below the horizon that no run has taken, marks it merged, keeps the merged ledger in its order, and journals its position; the rings stay as they are. With no keeper there is no run. -/
def Sys2Proof.Machine.LedgersAreMerged : Prop :=
  ∀ (s : State),
    (s.holder = none → Runs .ledgerMerge s fun t => t = s) ∧
    (s.holder.isSome = true → Runs .ledgerMerge s fun t =>
      (s.merged.length + (dieList.map fun d => (takenBy (s.count s.keeperDie) (s.die d).tb (s.die d).ledger).length + (gapEntries d (s.die d).ledger).length).sum ≤ 262144 →
        ∀ d e, isDie d = true → (s.die d).railOff = false → e ∈ takenBy (s.count s.keeperDie) (s.die d).tb (s.die d).ledger → e ∈ t.merged ∧ e.seq ∉ (t.die d).ledger.unmerged) ∧
      (s.merged.Pairwise (fun a b => ledgerBefore a b = true) → t.merged.Pairwise fun a b => ledgerBefore a b = true) ∧ t.merged.length ≤ max 262144 s.merged.length ∧
      (∀ d, (t.die d).ledger.ring = (s.die d).ledger.ring ∧ ((s.die d).railOff = true → t.die d = s.die d)) ∧ t.journalNext = s.journalNext + 1 ∧
      t = { s with dies := t.dies, merged := t.merged, dropped := t.dropped, journal := t.journal, journalNext := t.journalNext })

/-! ## Power and temperature (R474 to R495) -/

/-- A die that runs dynamic work above OP1, and is not under way to another point. -/
def Sys2Proof.Machine.canStep (x : Die) : Prop := x.scheduled = false ∧ 1 < x.curOp ∧ x.transition = false

/-- The die is on its way one point down, and stays no higher until the next allocation. -/
def Sys2Proof.Machine.steppedDown (s t : State) (d : Nat) : Prop :=
  (t.die d).curOp = (s.die d).curOp - 1 ∧ (t.die d).targetOp = (s.die d).curOp - 1 ∧ (t.die d).transition = true ∧ (t.die d).capOp = some ((s.die d).curOp - 1) ∧ (t.die d).raiseOp = none

/-- R474, R476, R477, R478, R479. A reading above its limit on another rail than a compute die's core raises F_RAIL_FAULT. A core rail at 384 A over 10 µs has reason RAIL: a dynamic die steps one point down, a scheduled one asks for a stretch. At 480 A over 1 µs every engine of the die is quenched with F_RAIL_QUENCH, and the rail goes toward OP1. A droop counts, and is in the ledger at
most once in 1 ms. -/
def Sys2Proof.Machine.RailsAreWatched : Prop :=
  ∀ (d : Nat) (s : State), isDie d = true →
    (∀ rail a1 a10, hasRail d rail = true → isCompute d = false ∨ rail ≠ 0 →
      (railLimit rail < a1 → s.hasRoom d → Runs (.currentSample d rail a1 a10) s fun t => raised s t d fRailFault ∧ t = { s with dies := t.dies }) ∧
      (a1 ≤ railLimit rail → Runs (.currentSample d rail a1 a10) s fun t => t = s)) ∧
    (∀ a1 a10, isCompute d = true → (s.die d).quenched = false →
      (480 ≤ a1 → s.hasRoom d → (s.die d).job = none → Runs (.currentSample d 0 a1 a10) s fun t =>
        (t.die d).quenched = true ∧ raised s t d fRailQuench ∧ (t.die d).targetOp = 1 ∧ (t.die d).capOp = some 1 ∧ (t.die d).slopeAmps = a1 ∧ (∀ e, e ≠ d → t.die e = s.die e) ∧ t = { s with dies := t.dies }) ∧
      (a1 < 480 → 384 ≤ a10 → canStep (s.die d) → Runs (.currentSample d 0 a1 a10) s fun t =>
        throttled (t.die d) rsRail = true ∧ steppedDown s t d ∧ (t.die d).quenched = false ∧ (t.die d).ledger.held = (s.die d).ledger.held ∧ (∀ e, e ≠ d → t.die e = s.die e) ∧ t = { s with dies := t.dies }) ∧
      (∀ j, a1 < 480 → 384 ≤ a10 → (s.die d).scheduled = true → 1 < (s.die d).curOp → (s.die d).job = some j → mayStretch (s.die d) (s.count d) = true → Runs (.currentSample d 0 a1 a10) s fun t =>
        throttled (t.die d) rsRail = true ∧ (t.die d).stretch = .sent ((s.die d).curOp - 1) rsRail (s.count d) ∧ (t.die d).curOp = (s.die d).curOp ∧
        (∃ m, t.sent = s.sent ++ [.stretchReq m] ∧ m.job = j ∧ m.die = d ∧ m.q = (s.die d).curOp - 1 ∧ m.reason = rsRail) ∧ (∀ e, e ≠ d → t.die e = s.die e) ∧ t = { s with dies := t.dies, sent := t.sent, packetOut := t.packetOut }) ∧
      (a1 < 480 → a10 < 384 → Runs (.currentSample d 0 a1 a10) s fun t =>
        throttled (t.die d) rsRail = false ∧ (t.die d).lowAmps = true ∧ (t.die d).curOp = (s.die d).curOp ∧ (∀ e, e ≠ d → t.die e = s.die e) ∧ t = { s with dies := t.dies })) ∧
    (isCompute d = true → (tabGet {} (s.die d).perf 20).value + 1 < 2 ^ 48 → Runs (.droopDetect d) s fun t =>
      (tabGet {} (t.die d).perf 20).value = (tabGet {} (s.die d).perf 20).value + 1 ∧ (t.die d).lastDroop = some (s.count d) ∧
      (∀ u, (s.die d).lastDroopEntry = some u → s.count d < u + 1000000 → (t.die d).ledger = (s.die d).ledger) ∧
      ((∀ u, (s.die d).lastDroopEntry = some u → u + 1000000 ≤ s.count d) → (t.die d).lastDroopEntry = some (s.count d) ∧ ∃ l e, (t.die d).ledger.ring = l ++ [e] ∧ e.kind = 0x0B ∧ e.code = 479) ∧
      (∀ e, e ≠ d → t.die e = s.die e) ∧ t = { s with dies := t.dies })

/-- R476, R494. A reading of 21,500 W, or of 1,000 A on an edge, has reason PEAK on every compute die, until the reading is below 97 % of each limit, and every dynamic one steps a point down. OVER_CAP says whether the 1 ms average is above the cap in force. -/
def Sys2Proof.Machine.PackagePowerIsWatched : Prop :=
  ∀ (w e0 e1 avg : Nat) (s : State) (hit low : Bool), hit = decide (21500 ≤ w ∨ 1000 ≤ e0 ∨ 1000 ≤ e1) → low = decide (w < 20855 ∧ e0 < 970 ∧ e1 < 970) → Runs (.packagePowerSample w e0 e1 avg) s fun t =>
    t.power.peakHeld = (hit || (s.power.peakHeld && !low)) ∧ t.power.overCap = decide (capInForce s.power < avg) ∧ t.power.avg = min 65535 avg ∧ t.power.edge0 = e0 ∧ t.power.edge1 = e1 ∧
    (∀ d, isCompute d = true → throttled (t.die d) rsPeak = t.power.peakHeld ∧ (t.die d).ledger.held = (s.die d).ledger.held ∧ (hit = true → canStep (s.die d) → steppedDown s t d) ∧
      (hit = false → (t.die d).curOp = (s.die d).curOp ∧ (t.die d).stretch = (s.die d).stretch)) ∧
    (∀ d, isCompute d = false → t.die d = s.die d) ∧ (hit = false → t.sent = s.sent) ∧ t = { s with dies := t.dies, power := t.power, sent := t.sent, packetOut := t.packetOut }

/-- R476, R490, R491, R492. Temperatures are in quarter degrees. 100 °C for 100 µs has a dynamic die step a point down with reason THERMAL, and holds the traffic of another with reason TRAFFIC. 110 °C trips the die: its engines are quenched, or its traffic is held, with F_THERMAL_TRIP, and 1 ms below 95 °C ends it. 125 °C drives THERM_TRIP_N low and turns every rail off. -/
def Sys2Proof.Machine.TemperaturesAreWatched : Prop :=
  ∀ (d : Nat) (l : List Int) (s : State), isDie d = true → l.length = sensorCount d →
    ((∃ t ∈ l, 500 ≤ t) → s.pins.thermTripLow = false → Runs (.tempSample d l) s fun t =>
      t.pins.thermTripLow = true ∧ t.pins.railCore = false ∧ t.pins.railSram = false ∧ t.pins.railIo = false ∧ t.pins.railOpt = false ∧ t.cores = [] ∧ t.contexts = State.reset.contexts ∧
      t.holder = State.reset.holder ∧ t.phase = State.reset.phase ∧ t.hostMem = s.hostMem ∧ t.fw = s.fw) ∧
    ((∃ t ∈ l, 440 ≤ t) → (∀ t ∈ l, t < 500) → (s.die d).tripped = false → s.hasRoom d → Runs (.tempSample d l) s fun t =>
      (t.die d).tripped = true ∧ raised s t d fThermalTrip ∧ (isCompute d = true → (t.die d).quenched = true) ∧ (isCompute d = false → (t.die d).heldTraffic = true ∧ throttled (t.die d) rsTraffic = true) ∧
      (∀ e, e ≠ d → t.die e = s.die e) ∧ t = { s with dies := t.dies }) ∧
    ((∃ t ∈ l, 400 ≤ t) → (∀ t ∈ l, t < 440) →
      ((s.die d).hotSince = none → Runs (.tempSample d l) s fun t => (t.die d).hotSince = some (s.count d) ∧ (t.die d).coolSince = none ∧ (t.die d).curOp = (s.die d).curOp ∧ (t.die d).temps = l ∧
        (∀ e, e ≠ d → t.die e = s.die e) ∧ t = { s with dies := t.dies }) ∧
      (∀ u, (s.die d).hotSince = some u → u + 100000 ≤ s.count d →
        (isCompute d = true → canStep (s.die d) → Runs (.tempSample d l) s fun t => throttled (t.die d) rsThermal = true ∧ steppedDown s t d ∧ (∀ e, e ≠ d → t.die e = s.die e) ∧ t = { s with dies := t.dies }) ∧
        (isCompute d = false → Runs (.tempSample d l) s fun t =>
          (t.die d).heldTraffic = true ∧ throttled (t.die d) rsTraffic = true ∧ (∀ e, e ≠ d → t.die e = s.die e) ∧ t = { s with dies := t.dies }))) ∧
    (∀ u, (∀ t ∈ l, t < 380) → l ≠ [] → (s.die d).coolSince = some u → u + 1000000 ≤ s.count d → Runs (.tempSample d l) s fun t =>
      (t.die d).tripped = false ∧ (isCompute d = true → throttled (t.die d) rsThermal = false) ∧ (isCompute d = false → (t.die d).heldTraffic = false ∧ throttled (t.die d) rsTraffic = (s.die d).dutyHold) ∧
      (∀ e, e ≠ d → t.die e = s.die e) ∧ t = { s with dies := t.dies })

/-- R482, R483. Every die that the pass serves has at least its floor and no more than its demand, and what the dies have and what is left make the budget; where the floors exceed it, each has its floor and what is left is the shortfall. The point that an allocation gives is the highest, from MIN_OP up, that fits it (R484). -/
def Obligations.AllocationsAddUp : Prop :=
  (∀ (s : State) (n : Nat) (mw : Nat → Nat) (r : Int × Tab Nat), s.allocate n mw = r →
    (0 ≤ s.budget mw - ((s.served.map fun d => dieFloor d (s.die d) (mw d)).sum : Nat) →
      (∀ d ∈ s.served, dieFloor d (s.die d) (mw d) ≤ tabGet 0 r.2 d ∧ tabGet 0 r.2 d ≤ dieDemand d (s.die d) (mw d)) ∧ ((s.served.map fun d => tabGet 0 r.2 d).sum : Int) + r.1 = s.budget mw ∧ 0 ≤ r.1) ∧
    (s.budget mw - ((s.served.map fun d => dieFloor d (s.die d) (mw d)).sum : Nat) < 0 →
      (∀ d ∈ s.served, tabGet 0 r.2 d = dieFloor d (s.die d) (mw d)) ∧ r.1 = s.budget mw - ((s.served.map fun d => dieFloor d (s.die d) (mw d)).sum : Nat))) ∧
  (∀ (x : Die) (mw a p : Nat), 1 ≤ x.curOp → fitOp x mw a = (p, true) → x.minOp ≤ p ∧ p ≤ 7 ∧ diePower p * mw / diePower x.curOp ≤ a ∧
    ∀ q, p < q → q ≤ 7 → a < diePower q * mw / diePower x.curOp)

/-- R481, R484, R485, R489, R494. A pass has the transfers of pools that wait apply, and gives each die it serves its allocation; a dynamic compute die is held to the point that fits it, with reason CAP while it has less than its demand and reason DUTY where not even MIN_OP fits, and a memory or link die holds traffic with reason TRAFFIC where it has less than its demand; a scheduled die does not move. UNALLOC is what is left, in watts. Where the floors alone exceed the budget, at most one die, of the scheduled job that draws most, asks for a stretch with reason CAP. With no keeper there is no pass. -/
def Sys2Proof.Machine.AllocationsAreApplied : Prop :=
  ∀ (power : List Nat) (s : State) (r : Int × Tab Nat), power.length = 100 → ({ s with power := applyPools s.power } : State).allocate s.kcount (fun d => power.getD d 0) = r →
    (s.holder = none → Runs (.allocationPass power) s fun t => t = s) ∧
    (s.holder.isSome = true → 0 ≤ r.1 → Runs (.allocationPass power) s fun t =>
      (∀ d ∈ s.served, (t.die d).alloc = tabGet 0 r.2 d ∧ (t.die d).demand = dieDemand d (s.die d) (power.getD d 0) ∧ (t.die d).measured = power.getD d 0 ∧
        ((s.die d).scheduled = true → isCompute d = true → (t.die d).curOp = (s.die d).curOp ∧ (t.die d).targetOp = (s.die d).targetOp) ∧
        (isCompute d = true → (s.die d).scheduled = false → (s.die d).fixed = false → throttled (s.die d) rsRail = false → throttled (s.die d) rsThermal = false →
          (t.die d).capOp = some (fitOp (s.die d) (power.getD d 0) (tabGet 0 r.2 d)).1 ∧ throttled (t.die d) rsDuty = !(fitOp (s.die d) (power.getD d 0) (tabGet 0 r.2 d)).2 ∧
          throttled (t.die d) rsCap = decide (tabGet 0 r.2 d < dieDemand d (s.die d) (power.getD d 0))) ∧
        (isCompute d = false → throttled (t.die d) rsTraffic = (decide (tabGet 0 r.2 d < dieDemand d (s.die d) (power.getD d 0)) || (s.die d).heldTraffic))) ∧
      (∀ d, d ∉ s.served → t.die d = s.die d) ∧ t.power = { applyPools s.power with unalloc := min 65535 (r.1.toNat / 1000) } ∧ t = { s with dies := t.dies, power := t.power }) ∧
    (s.holder.isSome = true → r.1 < 0 → Runs (.allocationPass power) s fun t =>
      (∀ d ∈ s.served, (t.die d).alloc = dieFloor d (s.die d) (power.getD d 0)) ∧
      (t.sent = s.sent ∨ ∃ m j, t.sent = s.sent ++ [.stretchReq m] ∧ s.topJob (fun d => power.getD d 0) = some j ∧ m.die ∈ s.jobDies j ∧ (s.die m.die).job = some m.job ∧ (s.die m.die).scheduled = true ∧ m.reason = rsCap ∧
        m.q < (s.die m.die).curOp) ∧
      t.power = { applyPools s.power with unalloc := 0 } ∧ t = { s with dies := t.dies, power := t.power, sent := t.sent, packetOut := t.packetOut })

/-- R489. Each job over packages reports its unmet demand and what it was given and did not draw; the coordinator moves what is unused to a package whose demand is unmet, critical dies first, and the cap in force of the package moves by it at its next pass, up to POOL_MAX, and not up at all while POOL_MAX ≤ CAP. -/
def Sys2Proof.Machine.PoolsMovePower : Prop :=
  (∀ (s : State), (s.holder = none → Runs .poolReportTimer s fun t => t = s) ∧
    (∀ j, s.holder.isSome = true → s.poolJobs = [j] → Runs .poolReportTimer s fun t =>
      t = { s with sent := s.sent ++ [.pool j (s.poolNeeds j).1 (s.poolNeeds j).2.1 (s.poolNeeds j).2.2], packetOut := t.packetOut })) ∧
  (∀ (j pkg unmet crit unused : Nat) (s : State),
    (s.coord? j = none → Runs (.poolReport j pkg unmet crit unused) s fun t => t = s) ∧
    (∀ k a un w, s.coord? j = some k → k.pools = [(a, (un, 0, 0))] → a ≠ pkg → unmet = 0 → 0 < un → 0 < unused → w = min (min unused un) ((s.poolRoom pkg a).getD unused) → Runs (.poolReport j pkg unmet crit unused) s fun t =>
      (0 < w → t.sent = s.sent ++ [.transfer j pkg a w] ∧ (a = s.pkgId → tabGet 0 t.power.poolsNext j = tabGet 0 s.power.poolsNext j + w) ∧
        (pkg = s.pkgId → tabGet 0 t.power.poolsNext j = tabGet 0 s.power.poolsNext j - w)) ∧
      (w = 0 → t.sent = s.sent ∧ t.packetOut = s.packetOut ∧ t.power = s.power) ∧ (a = s.pkgId → s.power.poolMax ≤ s.power.cap → t.sent = s.sent) ∧
      (a ≠ s.pkgId → pkg ≠ s.pkgId → w = min unused un ∧ t.power = s.power) ∧ t.power = { s.power with poolsNext := t.power.poolsNext } ∧
      t = { s with sent := t.sent, packetOut := t.packetOut, power := t.power, coords := t.coords })) ∧
  (∀ (p : PackagePower), p.cap ≤ p.poolMax → capInForce p ≤ p.poolMax) ∧ ∀ (p : PackagePower), p.pools = [] → capInForce p = p.cap

/-! ## Stock-take, management endpoint, security (R315 to R320, R521 to R546, R573 to R575) -/

/-- R316, R317, R318, R320. A run samples each bound context. One that has made progress is told of anew when it stalls again, and the coordinator hears of it; one found stalled by two runs with no progress between is detected once: the report stands in its report area, the record goes to it, and the coordinator of a job over packages is told. When every package is stalled the coordinator has the job-level report written, with a record, and tells the other packages, where it is then written too. With no keeper there is no run. -/
def Obligations.StocktakesDetectStalls : Prop :=
  (∀ (s : State), s.holder = none → Runs .stocktakeRun s fun t => t = s) ∧
  (∀ (c : Nat) (s : State) (x : Context), s.holder.isSome = true → s.boundCtxs.filter s.isBound = [c] → s.ctx? c = some x → s.hostMem.wf = true →
    (s.stalled c = true → x.stock.stalledPrev = true → x.stock.progress = false → (∀ k ∈ s.ctxCores c, (s.core k).progress = false) → x.stock.reported = false → dmaBarred x = false → s.hasRoom s.keeperDie → Runs .stocktakeRun s fun t =>
      (t.ctx c).stock.reported = true ∧ (t.ctx c).stock.stalledPrev = true ∧ raised s t s.keeperDie fStocktake ∧
      readBytes t.hostMem (hostKey x.port (x.pasid + 1) x.report) 4096 = stockReport s.kcount x.stock.lastOp c false (s.heads c) ∧
      (∀ l, x.launch = some l → 1 < l.packages → t.sent = s.sent ++ [.stocktake x.job c true]) ∧ t.queues = s.queues ∧ t.mem = s.mem) ∧
    (s.stalled c = false ∨ x.stock.stalledPrev = false ∨ x.stock.reported = true → (∀ k ∈ s.ctxCores c, (s.core k).progress = false) → x.stock.progress = false → Runs .stocktakeRun s fun t =>
      (t.ctx c).stock = { x.stock with progress := false, stalledPrev := s.stalled c } ∧ t.hostMem = s.hostMem ∧ t.sent = s.sent ∧ t.dies = s.dies) ∧
    (x.stock.progress = true → Runs .stocktakeRun s fun t =>
      (t.ctx c).stock = { x.stock with progress := false, stalledPrev := s.stalled c, reported := false } ∧
      (∀ l, x.launch = some l → 1 < l.packages → x.stock.reported = true → t.sent = s.sent ++ [.stocktake x.job c false]) ∧ (∀ k ∈ s.ctxCores c, (t.core k).progress = false) ∧ t.hostMem = s.hostMem ∧ t.dies = s.dies)) ∧
  (∀ (j pkg c : Nat) (s : State),
    (∀ b, s.holder = none ∨ (s.rootElsewhere j = false ∧ s.coord? j = none) → Runs (.stocktakeForward j pkg c b) s fun t => t = s) ∧
    (s.holder.isSome = true → s.rootElsewhere j = true →
      Runs (.stocktakeForward j pkg c false) s (fun t => t = s) ∧
      ∀ e x, s.jobCtxs j = [e] → s.ctx? e = some x → dmaBarred x = false → s.hasRoom s.keeperDie → s.hostMem.wf = true → Runs (.stocktakeForward j pkg c true) s fun t =>
        readBytes t.hostMem (hostKey x.port (x.pasid + 1) x.report) 4096 = stockReport s.kcount x.stock.lastOp e true (s.heads e) ∧ raised s t s.keeperDie fStocktake ∧ t = { s with hostMem := t.hostMem, dies := t.dies }) ∧
    (∀ k, s.holder.isSome = true → s.rootElsewhere j = false → s.coord? j = some k →
      Runs (.stocktakeForward j pkg c false) s (fun t => t.coord? j = some { k with stalled := k.stalled.filter fun e => e != (pkg, c) } ∧ t = { s with coords := t.coords }) ∧
      ((pkg, c) ∉ k.stalled → s.allStalled j { k with stalled := k.stalled ++ [(pkg, c)] } = false → Runs (.stocktakeForward j pkg c true) s fun t =>
        t.coord? j = some { k with stalled := k.stalled ++ [(pkg, c)] } ∧ t = { s with coords := t.coords }) ∧
      (∀ e x, (pkg, c) ∉ k.stalled → s.allStalled j { k with stalled := k.stalled ++ [(pkg, c)] } = true → s.jobCtxs j = [e] → s.ctx? e = some x → dmaBarred x = false → s.hasRoom s.keeperDie → s.hostMem.wf = true →
        Runs (.stocktakeForward j pkg c true) s fun t =>
          t.coord? j = some { k with stalled := [] } ∧ readBytes t.hostMem (hostKey x.port (x.pasid + 1) x.report) 4096 = stockReport s.kcount x.stock.lastOp e true (s.heads e) ∧
          raised s t s.keeperDie fStocktake ∧ (∀ p, p ≠ s.pkgId → p ∈ (k.stalled ++ [(pkg, c)]).map (·.1) → Sent.stockReport j p ∈ t.sent) ∧
          t = { s with coords := t.coords, hostMem := t.hostMem, dies := t.dies, sent := t.sent, packetOut := t.packetOut })))

/-- R573, R574, R575. A refresh gives each die its sensors, unavailable where the die is off, retired or failed by its rail, the module and lane sensors, the package's power, edges and cap, and SERVICE and PHASE; at most 256 events stay unsent. A request for a numeric or a state sensor is answered from them, and anything else with an error. With no keeper nothing answers. -/
def Sys2Proof.Machine.SensorsAreRefreshedAndRead : Prop :=
  (∀ (s : State), s.holder = none → (∀ a b c d, a.length = 100 → b.length = 100 → c.length = 48 → d.length = 8 → Runs (.sensorRefresh a b c d) s fun t => t = s) ∧ ∀ r, Runs (.mctpRequest r) s fun t => t = s) ∧
  (∀ (a : List Int) (b : List Nat) (c e : List Int) (s : State), s.holder.isSome = true → a.length = 100 → b.length = 100 → c.length = 48 → e.length = 8 → Runs (.sensorRefresh a b c e) s fun t =>
    (∀ d, isDie d = true → tabGet none t.sensors (0x100 + d) = (if s.sensorOff d then none else some (a.getD d 0)) ∧ tabGet none t.sensors (0x200 + d) = (if s.sensorOff d then none else some (b.getD d 0 : Int))) ∧
    (∀ m, m < 48 → tabGet none t.sensors (0x300 + m) = some (c.getD m 0)) ∧ (∀ p, p < 8 → tabGet none t.sensors (0x400 + p) = some (e.getD p 0)) ∧
    tabGet none t.sensors 1 = some (s.power.avg : Int) ∧ tabGet none t.sensors 2 = some (10 * s.power.edge0 : Int) ∧ tabGet none t.sensors 3 = some (10 * s.power.edge1 : Int) ∧
    tabGet none t.sensors 4 = some (capInForce s.power : Int) ∧ t.stateSensors = [(0, serviceCode s.service), (1, s.phase)] ∧ t.events.length ≤ 256 ∧
    t = { s with sensors := t.sensors, stateSensors := t.stateSensors, eventsFrom := t.eventsFrom, events := t.events, fresh := t.fresh, answers := t.answers }) ∧
  (∀ (id : Nat) (s : State), s.holder.isSome = true →
    (∀ v, (id, some v) ∈ s.sensors → tabGet none s.sensors id = some v → Runs (.mctpRequest (.numericSensor id)) s fun t => t = s.answer "PLDM_SENSOR" 2 [BitVec.ofNat 64 (ofSigned 64 v)]) ∧
    ((id, none) ∈ s.sensors → tabGet none s.sensors id = none → Runs (.mctpRequest (.numericSensor id)) s fun t => t = s.answer "PLDM_UNAVAILABLE" 2 []) ∧
    ((∀ e ∈ s.sensors, e.1 ≠ id) → Runs (.mctpRequest (.numericSensor id)) s fun t => t = s.answer "PLDM_ERROR" 2 []) ∧
    Runs (.mctpRequest (.stateSensor 0)) s (fun t => t = s.answer "PLDM_STATE" 2 [BitVec.ofNat 64 (serviceCode s.service)]) ∧
    (id < 8 → Runs (.mctpRequest (.stateSensor (0x200 + id))) s fun t => t = s.answer "PLDM_STATE" 2 [BitVec.ofNat 64 (portCode (s.port id).st)]) ∧
    Runs (.mctpRequest .unsupported) s (fun t => t = s.answer "PLDM_ERROR" 2 []))

/-- R522, R531, R542, R543. The responder answers while a keeper is active, by DOE on a port whose front end is ready or by MCTP. KEY_EXCHANGE opens a session under an id of its own, at most 64 on a transport, and END_SESSION ends it; what is not supported is answered with an error. An IDE stream is started under the key that was programmed, and stopped without one. LOCK_INTERFACE locks a sealed context with the TDISP flag on its own port to a stream, before its first
LAUNCH; START_INTERFACE takes it to RUN and STOP_INTERFACE back. -/
def Sys2Proof.Machine.ResponderAnswers : Prop :=
  ∀ (tr : Nat) (s : State), tr < 3 →
    (∀ r, s.holder = none ∨ (tr ≠ 2 ∧ (s.hp tr).ready = false) → Runs (.spdmRequest tr r) s fun t => t = s) ∧
    (∀ p c i, p = tr → isHostPort p = true → isContext c = true → i < 5 → s.holder = none ∨ (s.hp p).ready = false → Runs (.lockInterfaceRequest p c i) s fun t => t = s) ∧
    (s.holder.isSome = true → tr = 2 ∨ (s.hp tr).ready = true →
      Runs (.spdmRequest tr .unsupported) s (fun t => t = s.answer "SPDM_ERROR" tr []) ∧ Runs (.spdmRequest tr (.getCertificate 1)) s (fun t => t = s.answer "SPDM_ERROR" tr []) ∧
      Runs (.spdmRequest tr .getVersion) s (fun t => t = s.answer "SPDM_VERSION" tr [0x12]) ∧
      (∀ id ems, (s.sessions.filter fun x => x.transport == tr).length < 64 → s.session tr id = none → Runs (.spdmRequest tr (.keyExchange id ems)) s fun t =>
        t.sessions = s.sessions ++ [{ transport := tr, id := id, ems := ems }] ∧ t.session tr id = some { transport := tr, id := id, ems := ems } ∧ t = { s with sessions := t.sessions, answers := t.answers }) ∧
      (∀ id ems, 64 ≤ (s.sessions.filter fun x => x.transport == tr).length ∨ (s.session tr id).isSome = true → Runs (.spdmRequest tr (.keyExchange id ems)) s fun t => t = s.answer "SPDM_ERROR" tr []) ∧
      (∀ id, (s.session tr id).isSome = true → Runs (.spdmRequest tr (.endSession id)) s fun t =>
        t.session tr id = none ∧ (∀ r n, (r, n) ≠ (tr, id) → t.session r n = s.session r n) ∧ t = { s with sessions := t.sessions, answers := t.answers }) ∧
      (∀ id k r, (k, r) ∈ [("SPDM_HEARTBEAT_ACK", SpdmReq.heartbeat id), ("SPDM_KEY_UPDATE_ACK", .keyUpdate id)] → Runs (.spdmRequest tr r) s fun t =>
        t = if (s.session tr id).isSome then s.spdmAnswer tr k (le 4 id) else s.answer "SPDM_ERROR" tr []) ∧
      (∀ i, i < 5 → tr < 2 →
        (∀ key, key ≠ [] → Runs (.spdmRequest tr (.ideKeyProg i key)) s fun t => (tabGet {} (t.hp tr).ide i).key = key ∧ t.hp (1 - tr) = s.hp (1 - tr) ∧ t = { s with host0 := t.host0, host1 := t.host1, answers := t.answers }) ∧
        ((tabGet {} (s.hp tr).ide i).key ≠ [] → Runs (.spdmRequest tr (.ideKeyGo i)) s fun t => (tabGet {} (t.hp tr).ide i).started = true ∧ i ∉ (t.hp tr).insecure ∧
          t.hp (1 - tr) = s.hp (1 - tr) ∧ t = { s with host0 := t.host0, host1 := t.host1, answers := t.answers }) ∧
        ((tabGet {} (s.hp tr).ide i).key = [] → Runs (.spdmRequest tr (.ideKeyGo i)) s fun t => t = s.answer "SPDM_ERROR" tr []) ∧
        Runs (.spdmRequest tr (.ideKeyStop i)) s fun t => tabGet {} (t.hp tr).ide i = {} ∧ t = { s with host0 := t.host0, host1 := t.host1, answers := t.answers }) ∧
      (∀ nonce, Runs (.spdmRequest tr (.measurements nonce)) s fun t => (∃ a, t.answers = s.answers ++ [a] ∧ a.kind = "SPDM_MEASUREMENTS" ∧ a.who = tr) ∧ tabGet [] t.measured 1 = Config.romDigest ∧
        t = { s with measured := t.measured, answers := t.answers }) ∧
      (∀ c x, isContext c = true → s.ctx? c = some x →
        (tr < 2 → x.port = tr → x.sealed = true → x.tdisp = true → x.launched = false → x.tdi = .unlocked → ∀ i, i < 5 → Runs (.lockInterfaceRequest tr c i) s fun t =>
          t.ctx? c = some { x with tdi := .locked, tdiStream := i } ∧ (∀ e, e ≠ c → t.ctx? e = s.ctx? e) ∧ t = { s with contexts := t.contexts, answers := t.answers }) ∧
        (tr < 2 → (x.port ≠ tr ∨ x.sealed = false ∨ x.tdisp = false ∨ x.launched = true ∨ x.tdi ≠ .unlocked) → ∀ i, i < 5 → Runs (.lockInterfaceRequest tr c i) s fun t =>
          t.ctx? c = some x ∧ (∃ a, t.answers = s.answers ++ [a] ∧ a.kind = "TDISP_ERROR") ∧ t = { s with answers := t.answers }) ∧
        (x.port = tr → x.tdi = .locked → Runs (.spdmRequest tr (.startInterface c)) s fun t => t.ctx? c = some { x with tdi := .run } ∧ t = { s with contexts := t.contexts, answers := t.answers }) ∧
        (x.port = tr → x.sealed = true → x.tdisp = true → Runs (.spdmRequest tr (.stopInterface c)) s fun t => t.ctx? c = some { x with tdi := .unlocked, tdiStream := 0 } ∧ t = { s with contexts := t.contexts, answers := t.answers })))

/-- R523, R524, R525, R526, R558. An update writes the slot of its kind that does not run, on both larder dies, and answers whether the image verifies there; no other slot changes. In a start-up that has halted for want of a keeper image, a good one is taken into slot A and start-up goes on from phase 2. The FLOOR timer raises the kind's counter to FLOOR of the image that runs, and
never lowers it. -/
def Sys2Proof.Machine.FirmwareIsUpdated : Prop :=
  ∀ (kind : Nat) (s : State), 1 ≤ kind → kind ≤ 4 →
    (∀ (l : List Byte) (slot : Nat), s.holder.isSome = true → (∀ d, d < 2 → (s.die (80 + d)).failed = none) →
      slot = (match s.running (s.loaderOf kind) with | some r => 1 - r.key / 2 % 2 | none => 0) → Runs (.pldmFwUpdate kind l) s fun t =>
        (∀ d, d < 2 → t.fwCopy (4 * kind + 2 * slot + d) = fwCheck kind l) ∧ (∀ k, k ≠ 4 * kind + 2 * slot → k ≠ 4 * kind + 2 * slot + 1 → t.fwCopy k = s.fwCopy k) ∧
        t.answers = s.answers ++ [{ kind := "PLDM_FW_UPDATE", who := kind, words := [BitVec.ofNat 64 (b2n (s.imageValid kind (fwCheck kind l)))] }] ∧ t = { s with fw := t.fw, answers := t.answers }) ∧
    (∀ l, s.holder = none → (s.halted = false ∨ kind ≠ 1 ∨ (s.fwPick 1).isSome = true) → Runs (.pldmFwUpdate kind l) s fun t => t = s) ∧
    (∀ l, s.holder = none → s.halted = true → kind = 1 → s.fwPick 1 = none →
      (s.imageValid 1 (fwCheck 1 l) = false → Runs (.pldmFwUpdate kind l) s fun t => t = s.answer "PLDM_FW_UPDATE" 1 [0]) ∧
      (s.imageValid 1 (fwCheck 1 l) = true → (s.die 80).failed = none → Runs (.pldmFwUpdate kind l) s fun t =>
        t.halted = false ∧ t.phase = 2 ∧ t.keeperEpoch = 0 ∧ t.holder = none ∧ t.keeper0 = .off ∧ t.keeper1 = .off ∧ t.fwCopy 4 = fwCheck 1 l)) ∧
    (s.holder = none ∨ s.running (s.loaderOf kind) = none → Runs (.fwFloorTimer kind) s fun t => t = s) ∧
    (∀ r, s.holder.isSome = true → s.running (s.loaderOf kind) = some r → Runs (.fwFloorTimer kind) s fun t =>
      t.svn kind = max (s.svn kind) (min 256 (imageFloor r.bytes)) ∧ s.svn kind ≤ t.svn kind ∧ (∀ k, k ≠ kind → t.svn k = s.svn k) ∧ t = { s with svn0 := t.svn0, svn1 := t.svn1 })

/-! ## Start-up and resets (R549 to R560, R583) -/

/-- R549, R550, R551, R583. With both edges valid the rails come up, unless THERM_TRIP_N is latched low; the latch clears once both edges have been away. Die reset is released with every rail in regulation and PKG_RESET_N high: counters start at zero, every loop shows LOCKED, and phase 2 begins. An edge that falls turns every rail off. -/
def Sys2Proof.Machine.RailsAndDieReset : Prop :=
  (∀ (s : State), Runs .edgesValid s fun t =>
    t = { s with pins := t.pins } ∧ t.pins.edge0 = true ∧ t.pins.edge1 = true ∧ t.pins.pkgResetLow = s.pins.pkgResetLow ∧ t.pins.thermTripLow = s.pins.thermTripLow ∧
    (s.pins.thermTripLow = false → railsUp t.pins = true) ∧ (s.pins.thermTripLow = true → railsUp t.pins = railsUp s.pins)) ∧
  (∀ (s : State),
    (s.phase = 1 → railsUp s.pins = true → s.pins.pkgResetLow = false → Runs .dieResetRelease s fun t =>
      t = { s with now := 0, phase := 2, dies := t.dies } ∧ ∀ d, isDie d = true → (t.die d).tb = { (s.die d).tb with locked := true }) ∧
    ((s.phase ≠ 1 ∨ railsUp s.pins = false ∨ s.pins.pkgResetLow = true) → Runs .dieResetRelease s fun t => t = s)) ∧
  (∀ (e : Nat) (s : State), e < 2 → Runs (.edgeUndervoltage e) s fun t =>
    t.pins = { s.pins with edge0 := s.pins.edge0 && e != 0, edge1 := s.pins.edge1 && e != 1, railSram := false, railCore := false, railIo := false, railOpt := false } ∧
    t.phase = 1 ∧ t.service = .startUp ∧ t.holder = none ∧ t.contexts = [] ∧ t.cores = [] ∧ t.ports = [] ∧ t.invL0 = s.invL0 ∧ t.invL1 = s.invL1 ∧ t.fw = s.fw ∧ t.svn0 = s.svn0 ∧ t.svn1 = s.svn1 ∧
    (∀ a, larderBase ≤ a → a < larderBase + 0x8000000000 → readByte t.mem a = readByte s.mem a) ∧ (∀ a, ¬ (larderBase ≤ a ∧ a < larderBase + 0x8000000000) → readByte t.mem a = 0)) ∧
  (∀ (s : State), Runs .thermTripLatchClear s fun t => t.pins = { s.pins with edge0 := false, edge1 := false, railSram := false, railCore := false, railIo := false, railOpt := false, thermTripLow := false } ∧ t.phase = 1 ∧ t.service = .startUp ∧ t.holder = none)

/-- R549, R559. PKG_RESET_N low holds every die in reset and leaves the rails as they are; contexts, keys, ledgers and owners are lost, and the larder's bytes, the record and firmware stay. On its release start-up goes on from phase 2 where every rail is on, and else from phase 1. -/
def Sys2Proof.Machine.PackageResets : Prop :=
  (∀ (s : State), Runs .pkgResetAssert s fun t =>
    t.pins = { s.pins with pkgResetLow := true } ∧ t.phase = 1 ∧ t.service = .startUp ∧ t.holder = none ∧ t.keeperEpoch = 0 ∧ t.contexts = [] ∧ t.owners = [] ∧ t.journal = [] ∧ t.merged = [] ∧
    t.sessions = [] ∧ (∀ d, (t.die d).ledger = {}) ∧ (∀ d, (t.die d).tb = {}) ∧ t.invL0 = s.invL0 ∧ t.fw = s.fw ∧ t.svn0 = s.svn0 ∧ t.hostMem = s.hostMem ∧ t.pending = s.pending ∧
    (∀ a, larderBase ≤ a → a < larderBase + 0x8000000000 → readByte t.mem a = readByte s.mem a)) ∧
  (∀ (s : State),
    (s.pins.pkgResetLow = false → Runs .pkgResetRelease s fun t => t = s) ∧
    (s.pins.pkgResetLow = true → railsUp s.pins = true → Runs .pkgResetRelease s fun t =>
      t = { s with now := 0, phase := 2, pins := { s.pins with pkgResetLow := false }, dies := t.dies } ∧ ∀ d, isDie d = true → (t.die d).tb = { (s.die d).tb with locked := true }) ∧
    (s.pins.pkgResetLow = true → railsUp s.pins = false → Runs .pkgResetRelease s fun t => t = { s with pins := { s.pins with pkgResetLow := false } }))

/-- R552, R553, R558. K0 takes the token as soon as its ROM is done, and K1 only where epoch 0 is still in place; the keeper that takes it is active, and phase 3 begins. The identity and the package's keys are there then, and the SMBus address is that of the straps. With neither keeper good, start-up halts. -/
def Sys2Proof.Machine.FirstTokenIsTaken : Prop :=
  (∀ (a b : Bool) (s : State),
    (s.inPhase 2 = false ∨ s.keeper0 ≠ .off ∨ s.keeper1 ≠ .off → Runs (.keeperRom a b) s fun t => t = s) ∧
    (s.inPhase 2 = true → s.keeper0 = .off → s.keeper1 = .off → s.holder = none → s.broken = false → (∀ c, dmaBarred (s.ctx c) = false) →
      (a = true → Runs (.keeperRom a b) s fun t => t.holder = some 0 ∧ t.keeper0 = .active ∧ t.keeper1 = (if b then .booting else .failed) ∧ t.keeperEpoch = s.keeperEpoch + 1 ∧ t.phase = 3 ∧
        t.halted = false ∧ t.sent = s.sent ++ [.epoch (s.keeperEpoch + 1)] ∧ t.idKey = slice identityKey 0 64 ∧ t.packageKeys = slice (Config.random s.fresh) 0 128 ∧ t.smbusAddr = 0x60 + 2 * b2n s.pins.mgmtAddr1 + b2n s.pins.mgmtAddr0 ∧ t.contexts = s.contexts) ∧
      (a = false → b = true → Runs (.keeperRom a b) s fun t => t.holder = none ∧ t.keeper0 = .failed ∧ t.keeper1 = .booting ∧ t.keeperEpoch = s.keeperEpoch ∧ t.phase = 2 ∧ t.halted = false ∧ t.idKey = slice identityKey 0 64 ∧ t.packageKeys = slice (Config.random s.fresh) 0 128 ∧ t.smbusAddr = 0x60 + 2 * b2n s.pins.mgmtAddr1 + b2n s.pins.mgmtAddr0) ∧
      (a = false → b = false → Runs (.keeperRom a b) s fun t => t.holder = none ∧ t.keeper0 = .failed ∧ t.keeper1 = .failed ∧ t.keeperEpoch = s.keeperEpoch ∧ t.phase = 2 ∧ t.halted = true ∧ t.idKey = s.idKey))) ∧
  (∀ (s : State),
    (s.inPhase 2 = true → s.keeperEpoch = 0 → s.keeper1 = .booting → s.holder = none → s.broken = false → Runs .k1TokenWait s fun t =>
      t.holder = some 1 ∧ t.keeper1 = .active ∧ t.keeper0 = s.keeper0 ∧ t.keeperEpoch = 1 ∧ t.phase = 3 ∧ t.sent = s.sent ++ [.epoch 1]) ∧
    (s.inPhase 2 = false ∨ s.keeperEpoch ≠ 0 ∨ s.keeper1 ≠ .booting → Runs .k1TokenWait s fun t => t = s))

/-- R523, R524, R525, R532, R552, R558. Measured boot runs, on each loader, the image that is picked for its kind: the active keeper's own, and those of the other kinds; the other keeper boots and stands by, the digests are measured, and phase 4 begins. With no valid keeper image both keepers stop and start-up halts; a copy whose signature or digest does not verify, or whose version lies below the counter, is recorded. -/
def Sys2Proof.Machine.MeasuredBootRunsImages : Prop :=
  ∀ (s : State),
    (s.inPhase 3 = false ∨ s.holder = none → Runs .measuredBoot s fun t => t = s) ∧
    (∀ j k, s.inPhase 3 = true → s.holder = some j → j < 2 → s.fwPick 1 = some k → s.keeper j = .active → Runs .measuredBoot s fun t =>
      t.phase = 4 ∧ t.holder = some j ∧ t.keeper j = .active ∧ t.keeper (1 - j) = (if s.keeper (1 - j) = .booting then .standby else s.keeper (1 - j)) ∧
      t.running (keeperLoader j) = some { key := k, bytes := (s.fwCopy k).bytes } ∧ (∀ i, 2 ≤ i → i ≤ 4 → t.running i = (s.fwPick i).map fun f => { key := f, bytes := (s.fwCopy f).bytes }) ∧
      tabGet [] t.measured 1 = Config.romDigest ∧ tabGet [] t.measured 2 = sha256 (s.fwCopy k).bytes ∧ (∀ i, 1 ≤ i → i ≤ 4 → t.svn i = s.svn i) ∧ t.fw = s.fw ∧ t.contexts = s.contexts) ∧
    (s.inPhase 3 = true → s.holder.isSome = true → s.fwPick 1 = none → Runs .measuredBoot s fun t => t.phase = 3 ∧ t.halted = true ∧ t.holder = none ∧ t.keeper0 = .failed ∧ t.keeper1 = .failed) ∧
    (∀ k, s.inPhase 3 = true → s.holder.isSome = true → (fwKeys 1).filter (fun i => !(s.fwCopy i).bytes.isEmpty) = [k] → (s.die (80 + k % 2)).failed = none → s.hasRoom s.keeperDie →
      (((s.fwCopy k).sigOk = false ∨ (s.fwCopy k).digestOk = false) → Runs .measuredBoot s fun t => raised s t s.keeperDie fFwAuth) ∧
      ((s.fwCopy k).sigOk = true → (s.fwCopy k).digestOk = true → fwSvn (s.fwCopy k) < s.svn 1 → Runs .measuredBoot s fun t => raised s t s.keeperDie fFwRollback))

/-- R34, R529, R552. The inventory that is used is, of the copies that verify, the one with the higher SEQ; the other copy is rewritten to match, the core, spare and logical maps follow it, and phase 5 begins. A spare that stands in for a die with fewer active cores has its cores beyond that number masked. With no valid copy F_INVENTORY is raised and start-up halts. -/
def Sys2Proof.Machine.InventoryIsLoaded : Prop :=
  ∀ (s : State),
    (s.inPhase 4 = false ∨ s.holder = none → Runs .inventoryLoad s fun t => t = s) ∧
    (s.inPhase 4 = true → s.holder.isSome = true → s.invPick = none → s.hasRoom s.keeperDie → Runs .inventoryLoad s fun t =>
      raised s t s.keeperDie fInventory ∧ t.halted = true ∧ t.phase = 4 ∧ t.inv = s.inv ∧ t = { s with dies := t.dies, halted := true }) ∧
    (∀ x, s.inPhase 4 = true → s.holder.isSome = true → s.invPick = some x → Runs .inventoryLoad s fun t =>
      t.inv = x ∧ t.phase = 5 ∧ t.inventoryOk = true ∧ t.identityOk = true ∧ ((s.die 80).failed = none → t.invL0 = { inv := x, ok := true }) ∧ ((s.die 81).failed = none → t.invL1 = { inv := x, ok := true }) ∧
      (∀ f d, (f, d) ∈ (computeDies.filter fun d => !x.factorySpares.contains d).zip x.logical → f ≠ d →
        ∀ c ∈ (((List.range 4).map (4 * d + ·)).filter fun c => bit (tabGet 0 x.coreMap d) (c % 4)).drop ((List.range 4).filter fun k => bit (tabGet 0 x.coreMap f) k).length, (t.core c).masked = true) ∧
      ((∀ p ∈ (computeDies.filter fun d => !x.factorySpares.contains d).zip x.logical, p.1 = p.2) → t.cores = s.cores) ∧
      t = { s with inv := x, inventoryOk := true, identityOk := true, invL0 := t.invL0, invL1 := t.invL1, cores := t.cores, measured := t.measured, phase := 5 }) ∧
    (∀ a b, (s.invUsable 0 = some a → s.invUsable 1 = some b → s.invPick = some (if a.seq < b.seq then b else a)) ∧ (s.invUsable 0 = some a → s.invUsable 1 = none → s.invPick = some a) ∧
      (s.invUsable 0 = none → s.invUsable 1 = some b → s.invPick = some b))

/-- R188, R552, R554, R555, R558. Self-test leaves every store of the compute dies at zero; active dies come to their requested point, and spares return to OP0 and stay in bypass. A die that fails raises F_SELFTEST: an active compute die is quarantined, a spare is retired and leaves the spare map. Failures of both L0 and L1, or of both host dies, halt start-up. -/
def Sys2Proof.Machine.DiesTestThemselves : Prop :=
  ∀ (s : State),
    (∀ l r, l.all isDie = true → r.all isDie = true → (s.inPhase 5 = false ∨ s.holder = none) → Runs (.selfTest l r) s fun t => t = s) ∧
    (s.inPhase 5 = true → s.holder.isSome = true → (∀ d, (s.die d).testTrip = false) →
      (s.testHalts = false → Runs (.selfTest [] []) s fun t =>
        t.phase = 6 ∧ (∀ a, 0x200000000000 ≤ a → readByte t.mem a = 0) ∧ (∀ a, a < 0x200000000000 → readByte t.mem a = readByte s.mem a) ∧
        (∀ d, isCompute d = true → d ∈ s.inv.logical → (t.die d).curOp = (s.die d).reqOp ∧ (t.die d).transition = false) ∧
        (∀ d, isCompute d = true → d ∉ s.inv.logical → (t.die d).curOp = 0 ∧ (t.die d).bypass = true) ∧ t = { s with mem := t.mem, dies := t.dies, phase := 6 }) ∧
      (∀ d, isDie d = true → s.hasRoom d →
        (isCompute d = true → d ∈ s.inv.logical → (s.die d).failed = none → s.testHalts = false → Runs (.selfTest [d] []) s fun t =>
          t.phase = 6 ∧ (∃ r ∈ (t.die d).ledger.held, r.code = fSelftest ∧ r.die = d) ∧ (t.die d).failed = some fSelftest ∧ (t.die d).bypass = true ∧ t.inv = s.inv) ∧
        (isCompute d = true → d ∉ s.inv.logical → d ∈ s.inv.spares → s.testHalts = false → Runs (.selfTest [d] []) s fun t =>
          t.phase = 6 ∧ (∃ r ∈ (t.die d).ledger.held, r.code = fSelftest ∧ r.die = d) ∧ d ∉ t.inv.spares ∧ d ∈ t.inv.retired ∧ (t.die d).railOff = true ∧ t.inv.logical = s.inv.logical) ∧
        (((d = 80 ∧ (s.die 81).failed.isSome = true) ∨ (d = 81 ∧ (s.die 80).failed.isSome = true)) → Runs (.selfTest [d] []) s fun t =>
          t.halted = true ∧ t.phase = 5 ∧ (∃ r ∈ (t.die d).ledger.held, r.code = fSelftest ∧ r.die = d))) ∧
      (∀ r, isDie r = true → s.testHalts = false → Runs (.selfTest [] [r]) s fun t => t.phase = 6 ∧ r ∈ t.inv.routers ∧ t.inv.seq = s.inv.seq + 1))

/-- R282, R346, R552, R556, R558. A channel whose die stands, whose image runs and whose module has the properties of R266 and trains within three more attempts is ACTIVE; any other is FAILED; every granule is unowned, and phase 7 begins. A front end is ready where its die passed its test and its image runs; with one ready phase 8 begins, and with none start-up halts. -/
def Sys2Proof.Machine.CellarAndHostLinksStart : Prop :=
  (∀ (m : ModuleRead), modulePasses m = true ↔ m.answers = true ∧ m.checksum = true ∧ m.mrdimm = true ∧ m.gib = 64 ∧ m.mts = 12800 ∧ m.subChannels = 2 ∧ m.dataBits = 32 ∧ m.checkBits = 8 ∧
    m.deviceBits = 4 ∧ m.deviceGbit = 16 ∧ m.ranks = 2 ∧ m.devices = 20 ∧ m.trainFails ≤ 3) ∧
  (∀ (l : List ModuleRead) (s : State), (l.all fun m => isChannel m.ch) = true →
    (s.inPhase 6 = false ∨ s.holder = none → Runs (.cellarBringup l) s fun t => t = s) ∧
    (s.inPhase 6 = true → s.holder.isSome = true → Runs (.cellarBringup l) s fun t =>
      t.phase = 7 ∧ (∀ g, t.owner g = .unowned) ∧ t.mem = s.mem ∧ t.holder = s.holder ∧
      ∀ c, isChannel c = true → (t.channel c).module = moduleOf l c ∧
        (modulePasses (moduleOf l c) = true → (s.die (68 + c / 4)).failed = none → (tabGet none s.fwRunning 4).isSome = true → (t.channel c).st = .active) ∧
        (modulePasses (moduleOf l c) = false ∨ (s.die (68 + c / 4)).failed.isSome = true ∨ tabGet none s.fwRunning 4 = none → (t.channel c).st = .failed))) ∧
  (∀ (a b : Bool) (s : State),
    (s.inPhase 7 = false ∨ s.holder = none → Runs (.hostLinkStart a b) s fun t => t = s) ∧
    (s.inPhase 7 = true → s.holder.isSome = true → Runs (.hostLinkStart a b) s fun t =>
      (t.hp 0).ready = (a && (s.die 96).failed.isNone && (tabGet none s.fwRunning 2).isSome) ∧ (t.hp 1).ready = (b && (s.die 97).failed.isNone && (tabGet none s.fwRunning 2).isSome) ∧
      ((t.hp 0).ready = true ∨ (t.hp 1).ready = true → t.phase = 8 ∧ t.halted = false) ∧ ((t.hp 0).ready = false → (t.hp 1).ready = false → t.phase = 7 ∧ t.halted = true) ∧
      t = { s with host0 := t.host0, host1 := t.host1, phase := t.phase, halted := t.halted }))

/-- R64, R557. Phase 8 completes, and SERVICE becomes 1, once every die has loaded one epoch at one edge; both ports' driver is told. Until then, and where a die differs, the package stays in phase 8; the first die that differs stands in an entry of the keeper's ledger. -/
def Sys2Proof.Machine.EpochsAreChecked : Prop :=
  ∀ (s : State),
    ((s.inPhase 8 = false ∨ s.holder = none ∨ s.epochBad = true ∨ ∃ d, isDie d = true ∧ (s.die d).tb.epochSet = false) → Runs .epochCheck s fun t => t = s) ∧
    (s.inPhase 8 = true → s.epochBad = false → s.holder.isSome = true → (∀ d, isDie d = true → (s.die d).tb.epochSet = true) →
      ((∀ d e, isDie d = true → isDie e = true → sameLoad (s.die e).tb (s.die d).tb = true) → Runs .epochCheck s fun t =>
        t.phase = 0 ∧ t.service = .normal ∧ (t.hp 0).causeService = true ∧ (t.hp 1).causeService = true ∧ t.dies = s.dies ∧ t.contexts = s.contexts) ∧
      (∀ d, isDie d = true → (∃ e, e < d ∧ sameLoad (s.die e).tb (s.die d).tb = false) → (∀ f, f < d → ∀ e, e < f → sameLoad (s.die e).tb (s.die f).tb = true) → Runs .epochCheck s fun t =>
        t.phase = 8 ∧ t.service = s.service ∧ t = { s with dies := t.dies, epochBad := true } ∧ (∀ f, (t.die f).tb = (s.die f).tb) ∧ (∀ f, (t.die f).ledger.held = (s.die f).ledger.held) ∧
        ∃ e ∈ (t.die s.keeperDie).ledger.ring, e.kind = 3 ∧ e.code = 64 ∧ e.detail = le 1 d))

/-! ## The machine as a whole -/

/-- The first command of the queue is taken alone: a step is `exec` of it on the state with the rest of the queue. -/
def Obligations.StepRunsTheFrontCommand : Prop :=
  ∀ (c : Instr) (rest : List Instr) (s : State), s.pending = c :: rest → step s = exec c { s with pending := rest }

/-- With no command waiting one count of every time base passes, and before die reset is released nothing happens; a channel that drains moves its next frame (the model's choice, log entry 1; R70: counts start at die reset). -/
def Obligations.EmptyQueueLetsOneCountPass : Prop :=
  ∀ (s : State), s.pending = [] → ∃ t, step s = .next t ∧ (s.phase = 1 → t = s) ∧
    (s.phase ≠ 1 → t.pending = [] ∧ t.now = s.now + 1 ∧ t.mem = s.mem ∧ t.hostMem = s.hostMem ∧ ((∀ ch, ch < 48 → (s.channel ch).st ≠ .draining) → t.contexts = s.contexts ∧ t.frames = s.frames ∧ t.channels = s.channels) ∧ t.queues = s.queues ∧ t.pins = s.pins ∧ t.phase = s.phase ∧
      ∀ d, (s.die d).tb.hold = 0 → (s.die d).tb.slew = 0 → t.count d = (s.count d + 1) % 2 ^ 64)

/-- Every command whose operands name units that the part has runs, whatever the state; a command that names one that it has not stops with that fault alone; and none is refused. -/
def Sys2Proof.Machine.EveryCommandCompletes : Prop :=
  ∀ (i : Instr) (s : State), (i.wf = true → ∃ t, exec i s = .next t) ∧ (i.wf = false → exec i s = .fault .noSuchUnit)

/-- A command leaves the waiting commands alone, and no free value that has been used is used again (the model's own counter, log entry 2). -/
def Sys2Proof.Machine.CommandsLeaveTheQueueAlone : Prop :=
  ∀ (i : Instr) (s t : State), exec i s = .next t → t.pending = s.pending ∧ s.fresh ≤ t.fresh

/-- R358, R355, R504. A step keeps a legal state legal: the memories in canonical form, PHASE a phase, PRIMARY a port, and the keeper token with one keeper or none. -/
def Obligations.StepsKeepTheStateLegal : Prop := ∀ (s t : State), s.Legal → step s = .next t → t.Legal

/-- R549, R550. The state at power-up is legal: SERVICE 0 in phase 1 with every rail off, no context, no command, no keeper. -/
def Obligations.ResetIsLegal : Prop :=
  State.reset.Legal ∧ State.reset.pending = [] ∧ State.reset.phase = 1 ∧ State.reset.service = .startUp ∧ State.reset.contexts = [] ∧ State.reset.holder = none ∧ railsUp State.reset.pins = false ∧
  State.reset.keeperEpoch = 0 ∧ State.reset.mem = []

/-- R525. A counter is two copies, and reads as the larger. Whatever command runs, no copy falls. Only measured boot, where the keeper finds the copies and sets the lower to match, and the keeper's FLOOR timer set bits; a counter that the timer raises never passes 256. -/
def Obligations.AntiRollbackCountersNeverFall : Prop :=
  (∀ (i : Instr) (s t : State), exec i s = .next t →
    (∀ k, tabGet 0 s.svn0 k ≤ tabGet 0 t.svn0 k ∧ tabGet 0 s.svn1 k ≤ tabGet 0 t.svn1 k) ∧ (i ≠ .measuredBoot → (∀ n, i ≠ .fwFloorTimer n) → t.svn0 = s.svn0 ∧ t.svn1 = s.svn1)) ∧
  (∀ (s : State) (k : Nat), s.svn k = max (tabGet 0 s.svn0 k) (tabGet 0 s.svn1 k)) ∧
  (∀ (s : State), s.inPhase 3 = true → s.holder.isSome = true → Runs .measuredBoot s fun t => ∀ k, 1 ≤ k → k ≤ 4 → tabGet 0 t.svn0 k = s.svn k ∧ tabGet 0 t.svn1 k = s.svn k) ∧
  (∀ (s : State) (k : Nat), 1 ≤ k → k ≤ 4 → (∀ n, s.svn n ≤ 256) → Runs (.fwFloorTimer k) s fun t => ∀ n, t.svn n ≤ 256)

/-- R583. Whatever command runs, THERM_TRIP_N once low stays low and no rail starts, until both edges have been away: PKG_RESET_N does not clear it. After that power follows phase 1 again: edges valid bring every rail up, and die reset is released to phase 2. -/
def Obligations.ThermTripLatchHolds : Prop :=
  (∀ (i : Instr) (s t : State), exec i s = .next t → i ≠ .thermTripLatchClear → s.pins.thermTripLow = true →
    t.pins.thermTripLow = true ∧ (t.pins.railSram = true → s.pins.railSram = true) ∧ (t.pins.railCore = true → s.pins.railCore = true) ∧ (t.pins.railIo = true → s.pins.railIo = true) ∧
    (t.pins.railOpt = true → s.pins.railOpt = true)) ∧
  (∀ (s : State), Runs .thermTripLatchClear s fun t => t.pins.thermTripLow = false ∧ t.pins.edge0 = false ∧ t.pins.edge1 = false ∧ railsUp t.pins = false ∧ t.phase = 1 ∧
    (s.pins.pkgResetLow = false → Runs .edgesValid t fun u => railsUp u.pins = true ∧ Runs .dieResetRelease u fun v => v.phase = 2))

/-! ## The statements by family -/

/-- Epochs load on the armed die alone; slips are slewed away; holdover begins and ends. Each part is stated above. -/
def Obligations.EpochSlipAndHoldover : Prop :=
  Sys2Proof.Machine.EpochLoadsOnTheArmedDieAlone ∧ Sys2Proof.Machine.SyncSlipIsSlewedAway ∧ Sys2Proof.Machine.HoldoverBeginsAndEnds

/-- TB_SLEW is replaced and absorbed on every die; a pair of half reads of TB_COUNT never tears. Each part is stated above. -/
def Obligations.SlewAndCountReads : Prop :=
  Sys2Proof.Machine.SlewIsWrittenAndAbsorbed ∧ Sys2Proof.Machine.PairOfCountReadsNeverTears

/-- PW_OP_CTRL is clamped, and the operating point moves one point at a time. Each part is stated above. -/
def Obligations.OperatingPointsMove : Prop :=
  Sys2Proof.Machine.OperatingPointWriteIsClamped ∧ Sys2Proof.Machine.PointsChangeOneAtATime

/-- Scalar operations, loads, stores, branches and HALT. Each part is stated above. -/
def Obligations.ScalarUnitActs : Prop :=
  Sys2Proof.Machine.ScalarOperationsWriteTheirResult ∧ Sys2Proof.Machine.LoadAndStoreMoveOneShelfWord ∧ Sys2Proof.Machine.BranchesAndHalt

/-- Rows are fetched, bundles issue, operations complete, and late ones are found at the slot boundary. Each part is stated above. -/
def Obligations.BundlesIssueAndSlotsEnd : Prop :=
  Sys2Proof.Machine.FetchAndIssue ∧ Sys2Proof.Machine.OperationCompletes ∧ Sys2Proof.Machine.SlotBoundaryFindsLateOperations

/-- What a message does to a tally, and in what order waits are satisfied. Each part is stated above. -/
def Obligations.TalliesTakeMessages : Prop :=
  Sys2Proof.Machine.TallyMessagesAreApplied ∧ Sys2Proof.Machine.WaitMessagesAreApplied ∧ Sys2Proof.Machine.WaitsAreCheckedInOrderOfArrival

/-- The tally port sends waits, INC and DEC, and takes the satisfaction. Each part is stated above. -/
def Obligations.TallyPortsSend : Prop :=
  Sys2Proof.Machine.WaitsAreSent ∧ Sys2Proof.Machine.SatisfactionGrantsTheWait ∧ Sys2Proof.Machine.IncAndDecAreSent

/-- HSIG updates its event word; the slots of a link fill in order. Each part is stated above. -/
def Obligations.EventsAndLinksSignal : Prop :=
  Sys2Proof.Machine.HostSignalUpdatesTheEvent ∧ Sys2Proof.Machine.LinkSlotsFillInOrder

/-- SHAPE, SWAP, WLOAD and DRAIN. Each part is stated above. -/
def Obligations.ArraysAreFilledAndDrained : Prop :=
  Sys2Proof.Machine.ShapeAndSwap ∧ Sys2Proof.Machine.ShadowIsLoaded ∧ Sys2Proof.Machine.DrainStoresTheBank

/-- Output-stationary and weight-stationary passes, and their failed checks. Each part is stated above. -/
def Obligations.MatrixPassesAccumulate : Prop :=
  Sys2Proof.Machine.OutputStationaryPassAccumulates ∧ Sys2Proof.Machine.WeightStationaryPassFillsItsHalf ∧ Sys2Proof.Machine.FailedChecksAreReported

/-- Finishing functions act on every element, with their special inputs; SAMPLE stores its index. Each part is stated above. -/
def Obligations.FinishingFunctionsAndSamples : Prop :=
  Sys2Proof.Machine.FinishingFunctionsApplyToEveryElement ∧ Sys2Proof.Machine.FinishingSpecialInputs ∧ Sys2Proof.Machine.SampleStoresItsIndex

/-- SKEW writes its west or north stream, and LAYOUT the weight tile. Each part is stated above. -/
def Obligations.StreamsAreWritten : Prop :=
  Sys2Proof.Machine.SkewWestWritesItsStream ∧ Sys2Proof.Machine.SkewNorthWritesItsStream ∧ Sys2Proof.Machine.LayoutWritesTheWeightTile

/-- Cellar reads and writes, refusal of foreign granules, and the clamps of the cellar configuration. Each part is stated above. -/
def Obligations.CellarAccessesAreChecked : Prop :=
  Sys2Proof.Machine.CellarReadsAndWrites ∧ Sys2Proof.Machine.ForeignGranulesAreRefused ∧ Sys2Proof.Machine.CellarConfigurationIsClamped

/-- Patrol scrub, frame wear, larder reads and crypto-erase. Each part is stated above. -/
def Obligations.ScrubWearAndLarder : Prop :=
  Sys2Proof.Machine.PatrolScrubCorrectsAndReports ∧ Sys2Proof.Machine.WornFramesMove ∧ Sys2Proof.Machine.LarderReads ∧ Sys2Proof.Machine.ErasedGranulesReadZero

/-- Channels drain, fail and return; what the modules report. Each part is stated above. -/
def Obligations.ChannelsAndModules : Prop :=
  Sys2Proof.Machine.ChannelsDrainFailAndReturn ∧ Sys2Proof.Machine.ModuleEvents

/-- Scrubs zero their store; ring updates are applied; retired sets leave. Each part is stated above. -/
def Obligations.StoresAreScrubbedAndSetsRetire : Prop :=
  Sys2Proof.Machine.ScrubZeroesTheStore ∧ Sys2Proof.Machine.UpdatesAreApplied ∧ Sys2Proof.Machine.RetiredSetsLeave

/-- Crates are read ahead, injected in plan order, and pass, land or leave. Each part is stated above. -/
def Obligations.CratesTravel : Prop :=
  Sys2Proof.Machine.PayloadsAreReadAhead ∧ Sys2Proof.Machine.CratesAreInjectedInPlanOrder ∧ Sys2Proof.Machine.CratesPassLandOrLeave

/-- A landed crate is full; carries are sent on. Each part is stated above. -/
def Obligations.CratesLandAndCarry : Prop :=
  Sys2Proof.Machine.LandedCratesAreFull ∧ Sys2Proof.Machine.CarriesAreSent

/-- Doorbells, descriptor fetches, completions, invalidations, and the order in which commands are taken. Each part is stated above. -/
def Obligations.QueuesTakeAndCompleteCommands : Prop :=
  Sys2Proof.Machine.DoorbellsMoveTheTail ∧ Sys2Proof.Machine.DescriptorsAreFetchedInOrder ∧ Sys2Proof.Machine.CommandsComplete ∧ Sys2Proof.Machine.InvalidationsHoldTheirQueues ∧ Sys2Proof.Machine.CommandsAreTakenInOrder

/-- What the commands of a normal queue do. Each part is stated above. -/
def Obligations.NormalCommandsTakeEffect : Prop :=
  Sys2Proof.Machine.SimpleCommandsTakeEffect ∧ Sys2Proof.Machine.CopyAndFillCommands

/-- SURVEY, TABLE_LOAD and weight sets. Each part is stated above. -/
def Obligations.TablesAndWeightSets : Prop :=
  Sys2Proof.Machine.SurveyWritesTableAndReport ∧ Sys2Proof.Machine.SurveysEnd ∧ Sys2Proof.Machine.TableLoadsWaitAndAreDelivered ∧ Sys2Proof.Machine.WeightSetsAreBound

/-- A launch is checked, binds, starts its grids at L, and ends. Each part is stated above. -/
def Obligations.LaunchesBindStartAndEnd : Prop :=
  Sys2Proof.Machine.LaunchBlocksAreReadAndChecked ∧ Sys2Proof.Machine.LaunchesBind ∧ Sys2Proof.Machine.GridsStartAtL ∧ Sys2Proof.Machine.BindingsEnd

/-- Launches over packages. Each part is stated above. -/
def Obligations.PackagesLaunchTogether : Prop :=
  Sys2Proof.Machine.CoordinatorsCollectReadies ∧ Sys2Proof.Machine.PackagesFollowTheCoordinator

/-- Stretch requests and anchors. Each part is stated above. -/
def Obligations.GridsStretch : Prop :=
  Sys2Proof.Machine.StretchRequestsAreAnswered ∧ Sys2Proof.Machine.AnswersBecomeAnchors

/-- Kernel commands are journalled; contexts are created and destroyed. Each part is stated above. -/
def Obligations.ContextsComeAndGo : Prop :=
  Sys2Proof.Machine.KernelCommandsAreJournalled ∧ Sys2Proof.Machine.ContextsAreCreated ∧ Sys2Proof.Machine.ContextsAreDestroyed

/-- Queues are created and resumed, keys installed, tallies forced. Each part is stated above. -/
def Obligations.QueuesKeysAndForces : Prop :=
  Sys2Proof.Machine.QueuesAreCreatedAndResumed ∧ Sys2Proof.Machine.KeysAreInstalled ∧ Sys2Proof.Machine.TalliesAreForced

/-- Channel drains begin; larder, ledger and inventory commands. Each part is stated above. -/
def Obligations.DrainsAndRecords : Prop :=
  Sys2Proof.Machine.DrainsBegin ∧ Sys2Proof.Machine.LarderLedgerAndInventory

/-- RECOVER and DIE_RETIRE. Each part is stated above. -/
def Obligations.RecoveryAndRetirement : Prop :=
  Sys2Proof.Machine.RecoverActs ∧ Sys2Proof.Machine.RecoverMovesKeepersAndService ∧ Sys2Proof.Machine.DiesAreRetired

/-- Configuration requests, roles, link events and function resets of the host ports. Each part is stated above. -/
def Obligations.HostPortsAct : Prop :=
  Sys2Proof.Machine.ConfigurationRequests ∧ Sys2Proof.Machine.RolesChange ∧ Sys2Proof.Machine.LinksGoDownAndReturn ∧ Sys2Proof.Machine.FunctionsAreReset

/-- Requests that are turned away, DMA errors, and the status block. Each part is stated above. -/
def Obligations.ViolationsAndStatus : Prop :=
  Sys2Proof.Machine.ViolationsAndDma ∧ Sys2Proof.Machine.StatusBlockIsRewritten

/-- The aperture reaches a die, and register writes are clamped. Each part is stated above. -/
def Obligations.RegistersAreReached : Prop :=
  Sys2Proof.Machine.ApertureReachesTheDie ∧ Sys2Proof.Machine.RegisterWritesAreClamped

/-- Remote writes land in PSN order; remote reads, atomics and signals. Each part is stated above. -/
def Obligations.RemoteOperationsLand : Prop :=
  Sys2Proof.Machine.WritesLandInPsnOrder ∧ Sys2Proof.Machine.RemoteReadsAtomicsAndSignals

/-- Flows resend and move; paths are set up and torn down. Each part is stated above. -/
def Obligations.FlowsAndPaths : Prop :=
  Sys2Proof.Machine.FlowsResendAndMove ∧ Sys2Proof.Machine.PathsAreSetUpAndTornDown

/-- SETUP reserves along its route; groups; the time tree. Each part is stated above. -/
def Obligations.SetupsGroupsAndTime : Prop :=
  Sys2Proof.Machine.SetupsReserveAlongTheRoute ∧ Sys2Proof.Machine.GroupsAdvanceAndPrune ∧ Sys2Proof.Machine.TimeTreeExchanges

/-- Ports train, leave UP, and retrain in place. Each part is stated above. -/
def Obligations.PortsTrain : Prop :=
  Sys2Proof.Machine.WidthIsTheWidestLocked ∧ Sys2Proof.Machine.TrainingFollowsTheLight ∧ Sys2Proof.Machine.PortsLeaveUp ∧ Sys2Proof.Machine.PortsRetrainInPlace

/-- Link control, idles, retry, and fault injection. Each part is stated above. -/
def Obligations.LinkControlIdlesAndInjection : Prop :=
  Sys2Proof.Machine.LinkControlActs ∧ Sys2Proof.Machine.IdlesNaksAndReplays ∧ Sys2Proof.Machine.InjectionActs

/-- Frames are delivered in order, discarded when bad, and their port held when it offends. Each part is stated above. -/
def Obligations.FramesAreChecked : Prop :=
  Sys2Proof.Machine.DataFramesAreDeliveredInOrder ∧ Sys2Proof.Machine.BadFramesAreDiscarded ∧ Sys2Proof.Machine.OffendersAreHeld

/-- HELLO, IDENT, CONFIRM, rekeying and DOWN. Each part is stated above. -/
def Obligations.PortsIdentifyAndRekey : Prop :=
  Sys2Proof.Machine.HellosAndEchoes ∧ Sys2Proof.Machine.IdentsAreChecked ∧ Sys2Proof.Machine.RekeyAndDown

/-- Fault records are delivered and freed, and jobs are faulted. Each part is stated above. -/
def Obligations.FaultsReachTheirJobs : Prop :=
  Sys2Proof.Machine.FaultRecordsAreTakenAndFreed ∧ Sys2Proof.Machine.JobsAreFaulted

/-- Keepers watch each other; token, epoch, journal; takeover and boot. Each part is stated above. -/
def Obligations.KeepersAndTheToken : Prop :=
  Sys2Proof.Machine.KeepersWatchEachOther ∧ Sys2Proof.Machine.TokenEpochAndJournal ∧ Sys2Proof.Machine.TakeoverAndKeeperBoot

/-- Dies fail, the ring breaks, and ledgers are merged. Each part is stated above. -/
def Obligations.DiesRingAndLedgers : Prop :=
  Sys2Proof.Machine.DiesFail ∧ Sys2Proof.Machine.RingContinuity ∧ Sys2Proof.Machine.LedgersAreMerged

/-- Rails, package power and temperatures are watched. Each part is stated above. -/
def Obligations.PowerAndTemperatureAreWatched : Prop :=
  Sys2Proof.Machine.RailsAreWatched ∧ Sys2Proof.Machine.PackagePowerIsWatched ∧ Sys2Proof.Machine.TemperaturesAreWatched

/-- Allocations are applied, and power pools move power. Each part is stated above. -/
def Obligations.AllocationsAndPoolsApply : Prop :=
  Sys2Proof.Machine.AllocationsAreApplied ∧ Sys2Proof.Machine.PoolsMovePower

/-- Sensors, the SPDM responder, and firmware update. Each part is stated above. -/
def Obligations.ManagementEndpointAnswers : Prop :=
  Sys2Proof.Machine.SensorsAreRefreshedAndRead ∧ Sys2Proof.Machine.ResponderAnswers ∧ Sys2Proof.Machine.FirmwareIsUpdated

/-- Rails, die reset, package reset, and the first token. Each part is stated above. -/
def Obligations.ResetsAndFirstToken : Prop :=
  Sys2Proof.Machine.RailsAndDieReset ∧ Sys2Proof.Machine.PackageResets ∧ Sys2Proof.Machine.FirstTokenIsTaken

/-- Measured boot, the inventory record and self-test. Each part is stated above. -/
def Obligations.BootInventoryAndSelfTest : Prop :=
  Sys2Proof.Machine.MeasuredBootRunsImages ∧ Sys2Proof.Machine.InventoryIsLoaded ∧ Sys2Proof.Machine.DiesTestThemselves

/-- Cellar and host links start; epochs are checked, and service begins. Each part is stated above. -/
def Obligations.ServiceBegins : Prop :=
  Sys2Proof.Machine.CellarAndHostLinksStart ∧ Sys2Proof.Machine.EpochsAreChecked

/-- Every well-formed command runs, none is refused, and the queue is left alone. Each part is stated above. -/
def Obligations.EveryCommandRuns : Prop :=
  Sys2Proof.Machine.EveryCommandCompletes ∧ Sys2Proof.Machine.CommandsLeaveTheQueueAlone
end

