-- ==== Sys2Proof/Laws/PerInstr.lean ====
section
/-! SUPPORT. The family Outcome, per command: a command's meaning is one effect on the state, guarded by the check of its operands and by nothing else. -/

namespace Sys2Proof.Laws.Outcome

open Sys2Proof Sys2Proof.Machine

/-- The command has an effect on every state, taken where its operands are well formed. -/
def Statement (i : Instr) : Prop := ∃ f : State → State, ∀ s, exec i s = need i.wf (f s)

theorem edgesValid : Statement (.edgesValid) := ⟨_, fun _ => rfl⟩
theorem dieResetRelease : Statement (.dieResetRelease) := ⟨_, fun _ => rfl⟩
theorem edgeUndervoltage (edge : Nat) : Statement (.edgeUndervoltage edge) := ⟨_, fun _ => rfl⟩
theorem pkgResetAssert : Statement (.pkgResetAssert) := ⟨_, fun _ => rfl⟩
theorem pkgResetRelease : Statement (.pkgResetRelease) := ⟨_, fun _ => rfl⟩
theorem perstAssert (port : Nat) : Statement (.perstAssert port) := ⟨_, fun _ => rfl⟩
theorem perstRelease (port : Nat) : Statement (.perstRelease port) := ⟨_, fun _ => rfl⟩
theorem keeperRom (k0Ok k1Ok : Bool) : Statement (.keeperRom k0Ok k1Ok) := ⟨_, fun _ => rfl⟩
theorem k1TokenWait : Statement (.k1TokenWait) := ⟨_, fun _ => rfl⟩
theorem measuredBoot : Statement (.measuredBoot) := ⟨_, fun _ => rfl⟩
theorem inventoryLoad : Statement (.inventoryLoad) := ⟨_, fun _ => rfl⟩
theorem selfTest (failed routers : List Nat) : Statement (.selfTest failed routers) := ⟨_, fun _ => rfl⟩
theorem cellarBringup (modules : List ModuleRead) : Statement (.cellarBringup modules) := ⟨_, fun _ => rfl⟩
theorem hostLinkStart (ok0 ok1 : Bool) : Statement (.hostLinkStart ok0 ok1) := ⟨_, fun _ => rfl⟩
theorem epochCheck : Statement (.epochCheck) := ⟨_, fun _ => rfl⟩
theorem thermTripLatchClear : Statement (.thermTripLatchClear) := ⟨_, fun _ => rfl⟩
theorem rackSyncPulse (die : Nat) : Statement (.rackSyncPulse die) := ⟨_, fun _ => rfl⟩
theorem refclkLoss (die : Nat) : Statement (.refclkLoss die) := ⟨_, fun _ => rfl⟩
theorem refclkRelock (die : Nat) (drift : Int) : Statement (.refclkRelock die drift) := ⟨_, fun _ => rfl⟩
theorem tbSlewWrite (value : Word) : Statement (.tbSlewWrite value) := ⟨_, fun _ => rfl⟩
theorem slewComplete : Statement (.slewComplete) := ⟨_, fun _ => rfl⟩
theorem epochArm (die : Nat) : Statement (.epochArm die) := ⟨_, fun _ => rfl⟩
theorem tbCountLowRead (die requester : Nat) : Statement (.tbCountLowRead die requester) := ⟨_, fun _ => rfl⟩
theorem pwOpCtrlWrite (die : Nat) (value : Word) : Statement (.pwOpCtrlWrite die value) := ⟨_, fun _ => rfl⟩
theorem opChangeComplete (die : Nat) : Statement (.opChangeComplete die) := ⟨_, fun _ => rfl⟩
theorem slotBoundary (core unit bundle : Nat) : Statement (.slotBoundary core unit bundle) := ⟨_, fun _ => rfl⟩
theorem gridStart (die : Nat) : Statement (.gridStart die) := ⟨_, fun _ => rfl⟩
theorem scoreFetch (core : Nat) : Statement (.scoreFetch core) := ⟨_, fun _ => rfl⟩
theorem bundleIssue (core : Nat) : Statement (.bundleIssue core) := ⟨_, fun _ => rfl⟩
theorem add (core : Nat) (upset : Option Upset) : Statement (.add core upset) := ⟨_, fun _ => rfl⟩
theorem sub (core : Nat) (upset : Option Upset) : Statement (.sub core upset) := ⟨_, fun _ => rfl⟩
theorem mul (core : Nat) (upset : Option Upset) : Statement (.mul core upset) := ⟨_, fun _ => rfl⟩
theorem andOp (core : Nat) : Statement (.andOp core) := ⟨_, fun _ => rfl⟩
theorem orOp (core : Nat) : Statement (.orOp core) := ⟨_, fun _ => rfl⟩
theorem xor (core : Nat) : Statement (.xor core) := ⟨_, fun _ => rfl⟩
theorem shl (core : Nat) : Statement (.shl core) := ⟨_, fun _ => rfl⟩
theorem shr (core : Nat) : Statement (.shr core) := ⟨_, fun _ => rfl⟩
theorem sltu (core : Nat) (upset : Option Upset) : Statement (.sltu core upset) := ⟨_, fun _ => rfl⟩
theorem addi (core : Nat) (upset : Option Upset) : Statement (.addi core upset) := ⟨_, fun _ => rfl⟩
theorem ori (core : Nat) : Statement (.ori core) := ⟨_, fun _ => rfl⟩
theorem shli (core : Nat) : Statement (.shli core) := ⟨_, fun _ => rfl⟩
theorem shri (core : Nat) : Statement (.shri core) := ⟨_, fun _ => rfl⟩
theorem ld (core : Nat) (upset : Option Upset) : Statement (.ld core upset) := ⟨_, fun _ => rfl⟩
theorem st (core : Nat) (upset : Option Upset) : Statement (.st core upset) := ⟨_, fun _ => rfl⟩
theorem bz (core : Nat) : Statement (.bz core) := ⟨_, fun _ => rfl⟩
theorem bnz (core : Nat) : Statement (.bnz core) := ⟨_, fun _ => rfl⟩
theorem dbnz (core : Nat) (upset : Option Upset) : Statement (.dbnz core upset) := ⟨_, fun _ => rfl⟩
theorem rdtb (core : Nat) : Statement (.rdtb core) := ⟨_, fun _ => rfl⟩
theorem rdid (core : Nat) : Statement (.rdid core) := ⟨_, fun _ => rfl⟩
theorem halt (core : Nat) : Statement (.halt core) := ⟨_, fun _ => rfl⟩
theorem operationComplete (core unit : Nat) : Statement (.operationComplete core unit) := ⟨_, fun _ => rfl⟩
theorem corePartEnd (core : Nat) : Statement (.corePartEnd core) := ⟨_, fun _ => rfl⟩
theorem shape (core eng : Nat) : Statement (.shape core eng) := ⟨_, fun _ => rfl⟩
theorem tileOs (core eng : Nat) (follows : Bool) (upset : Option Upset) : Statement (.tileOs core eng follows upset) := ⟨_, fun _ => rfl⟩
theorem tileWs (core eng : Nat) (upset : Option Upset) : Statement (.tileWs core eng upset) := ⟨_, fun _ => rfl⟩
theorem loadShadow (core eng : Nat) (upset : Option Upset) : Statement (.loadShadow core eng upset) := ⟨_, fun _ => rfl⟩
theorem codedStreamResume (core eng : Nat) (upset : Option Upset) : Statement (.codedStreamResume core eng upset) := ⟨_, fun _ => rfl⟩
theorem swap (core eng : Nat) : Statement (.swap core eng) := ⟨_, fun _ => rfl⟩
theorem drain (core eng : Nat) (upset : Option Upset) : Statement (.drain core eng upset) := ⟨_, fun _ => rfl⟩
theorem ew (core eng : Nat) (upset : Option Upset) : Statement (.ew core eng upset) := ⟨_, fun _ => rfl⟩
theorem copy (core : Nat) : Statement (.copy core) := ⟨_, fun _ => rfl⟩
theorem fill (core : Nat) : Statement (.fill core) := ⟨_, fun _ => rfl⟩
theorem skewW (core : Nat) : Statement (.skewW core) := ⟨_, fun _ => rfl⟩
theorem skewN (core : Nat) : Statement (.skewN core) := ⟨_, fun _ => rfl⟩
theorem layoutWs (core : Nat) : Statement (.layoutWs core) := ⟨_, fun _ => rfl⟩
theorem wait (core : Nat) : Statement (.wait core) := ⟨_, fun _ => rfl⟩
theorem waitdec (core : Nat) : Statement (.waitdec core) := ⟨_, fun _ => rfl⟩
theorem inc (core : Nat) : Statement (.inc core) := ⟨_, fun _ => rfl⟩
theorem dec (core : Nat) : Statement (.dec core) := ⟨_, fun _ => rfl⟩
theorem hsig (core : Nat) : Statement (.hsig core) := ⟨_, fun _ => rfl⟩
theorem tallyMessageArrive (places : List Nat) : Statement (.tallyMessageArrive places) := ⟨_, fun _ => rfl⟩
theorem waitSatisfactionArrive (core : Nat) : Statement (.waitSatisfactionArrive core) := ⟨_, fun _ => rfl⟩
theorem waitRegisterRetry (core : Nat) : Statement (.waitRegisterRetry core) := ⟨_, fun _ => rfl⟩
theorem exp (core : Nat) (upset : Option Upset) : Statement (.exp core upset) := ⟨_, fun _ => rfl⟩
theorem rcp (core : Nat) (upset : Option Upset) : Statement (.rcp core upset) := ⟨_, fun _ => rfl⟩
theorem rsqrt (core : Nat) (upset : Option Upset) : Statement (.rsqrt core upset) := ⟨_, fun _ => rfl⟩
theorem gelu (core : Nat) (upset : Option Upset) : Statement (.gelu core upset) := ⟨_, fun _ => rfl⟩
theorem silu (core : Nat) (upset : Option Upset) : Statement (.silu core upset) := ⟨_, fun _ => rfl⟩
theorem cvt (core : Nat) (upset : Option Upset) : Statement (.cvt core upset) := ⟨_, fun _ => rfl⟩
theorem drop (core : Nat) (upset : Option Upset) : Statement (.drop core upset) := ⟨_, fun _ => rfl⟩
theorem sample (core : Nat) (upset : Option Upset) : Statement (.sample core upset) := ⟨_, fun _ => rfl⟩
theorem scrub (die store : Nat) (badRow : Option Nat) : Statement (.scrub die store badRow) := ⟨_, fun _ => rfl⟩
theorem scrubEnd (die store : Nat) : Statement (.scrubEnd die store) := ⟨_, fun _ => rfl⟩
theorem payloadReadStart (wsid entry : Nat) : Statement (.payloadReadStart wsid entry) := ⟨_, fun _ => rfl⟩
theorem crateInject (wsid entry : Nat) : Statement (.crateInject wsid entry) := ⟨_, fun _ => rfl⟩
theorem crateArrive (crate stop : Nat) (upset : CrateUpset) : Statement (.crateArrive crate stop upset) := ⟨_, fun _ => rfl⟩
theorem crateFull (die slot : Nat) : Statement (.crateFull die slot) := ⟨_, fun _ => rfl⟩
theorem carrySend (die slot : Nat) : Statement (.carrySend die slot) := ⟨_, fun _ => rfl⟩
theorem updateApply (crate : Nat) (upset : Option Upset) : Statement (.updateApply crate upset) := ⟨_, fun _ => rfl⟩
theorem setRetire (wsid : Nat) : Statement (.setRetire wsid) := ⟨_, fun _ => rfl⟩
theorem tableLoadDeliver (ctx : Nat) : Statement (.tableLoadDeliver ctx) := ⟨_, fun _ => rfl⟩
theorem cellarRead (acc : Accessor) (addr len : Nat) : Statement (.cellarRead acc addr len) := ⟨_, fun _ => rfl⟩
theorem cellarWrite (acc : Accessor) (addr : Nat) (data : List Byte) : Statement (.cellarWrite acc addr data) := ⟨_, fun _ => rfl⟩
theorem patrolScrub (ch frame : Nat) (raced : List Nat) : Statement (.patrolScrub ch frame raced) := ⟨_, fun _ => rfl⟩
theorem frameMigrate (die frame : Nat) : Statement (.frameMigrate die frame) := ⟨_, fun _ => rfl⟩
theorem channelDrained (ch : Nat) : Statement (.channelDrained ch) := ⟨_, fun _ => rfl⟩
theorem channelFail (ch : Nat) : Statement (.channelFail ch) := ⟨_, fun _ => rfl⟩
theorem spdTempPoll (ch : Nat) (temp : Int) : Statement (.spdTempPoll ch temp) := ⟨_, fun _ => rfl⟩
theorem caParityAlert (ch retries : Nat) (recovered : Bool) : Statement (.caParityAlert ch retries recovered) := ⟨_, fun _ => rfl⟩
theorem writeCrcAlert (ch retries : Nat) (recovered : Bool) : Statement (.writeCrcAlert ch retries recovered) := ⟨_, fun _ => rfl⟩
theorem mrcdViolation (ch : Nat) : Statement (.mrcdViolation ch) := ⟨_, fun _ => rfl⟩
theorem clCfgWrite (value : Word) : Statement (.clCfgWrite value) := ⟨_, fun _ => rfl⟩
theorem larderRead (acc : Accessor) (addr len : Nat) (corrections : List Nat) : Statement (.larderRead acc addr len corrections) := ⟨_, fun _ => rfl⟩
theorem tagErase (die : Nat) : Statement (.tagErase die) := ⟨_, fun _ => rfl⟩
theorem stocktakeRun : Statement (.stocktakeRun) := ⟨_, fun _ => rfl⟩
theorem stocktakeForward (job pkg ctx : Nat) (stalled : Bool) : Statement (.stocktakeForward job pkg ctx stalled) := ⟨_, fun _ => rfl⟩
theorem launchBind (ctx : Nat) : Statement (.launchBind ctx) := ⟨_, fun _ => rfl⟩
theorem launchComplete (ctx : Nat) : Statement (.launchComplete ctx) := ⟨_, fun _ => rfl⟩
theorem ready (msg : ReadyMsg) : Statement (.ready msg) := ⟨_, fun _ => rfl⟩
theorem arm (job : Nat) (l : Nat) : Statement (.arm job l) := ⟨_, fun _ => rfl⟩
theorem armed (msg : ReadyMsg) : Statement (.armed msg) := ⟨_, fun _ => rfl⟩
theorem go (job : Nat) : Statement (.go job) := ⟨_, fun _ => rfl⟩
theorem abort (job : Nat) : Statement (.abort job) := ⟨_, fun _ => rfl⟩
theorem readyCollectTimeout (job : Nat) : Statement (.readyCollectTimeout job) := ⟨_, fun _ => rfl⟩
theorem armedDeadline (job : Nat) : Statement (.armedDeadline job) := ⟨_, fun _ => rfl⟩
theorem armDisarmDeadline (job : Nat) : Statement (.armDisarmDeadline job) := ⟨_, fun _ => rfl⟩
theorem readyAnswerTimeout (job : Nat) : Statement (.readyAnswerTimeout job) := ⟨_, fun _ => rfl⟩
theorem stretchRequest (req : StretchReq) : Statement (.stretchRequest req) := ⟨_, fun _ => rfl⟩
theorem stretchAnswer (die : Nat) (ans : StretchAns) : Statement (.stretchAnswer die ans) := ⟨_, fun _ => rfl⟩
theorem stretchAck (job pkg die seq : Nat) : Statement (.stretchAck job pkg die seq) := ⟨_, fun _ => rfl⟩
theorem anchorApply (die : Nat) : Statement (.anchorApply die) := ⟨_, fun _ => rfl⟩
theorem stretchAnswerTimeout (die : Nat) : Statement (.stretchAnswerTimeout die) := ⟨_, fun _ => rfl⟩
theorem stretchAckDeadline (job : Nat) : Statement (.stretchAckDeadline job) := ⟨_, fun _ => rfl⟩
theorem configRequest (port offset : Nat) (write : Option Word) : Statement (.configRequest port offset write) := ⟨_, fun _ => rfl⟩
theorem doorbellWrite (port offset size : Nat) (value : Word) : Statement (.doorbellWrite port offset size value) := ⟨_, fun _ => rfl⟩
theorem kernelDoorbell (port size : Nat) (value : Word) : Statement (.kernelDoorbell port size value) := ⟨_, fun _ => rfl⟩
theorem apertureRead (port offset : Nat) (answered : Bool) : Statement (.apertureRead port offset answered) := ⟨_, fun _ => rfl⟩
theorem apertureWrite (port offset : Nat) (value : Word) : Statement (.apertureWrite port offset value) := ⟨_, fun _ => rfl⟩
theorem hqRoleWrite (port : Nat) (value : Word) : Statement (.hqRoleWrite port value) := ⟨_, fun _ => rfl⟩
theorem hqKqEnable (port : Nat) (value : Word) : Statement (.hqKqEnable port value) := ⟨_, fun _ => rfl⟩
theorem registerWrite (space : RegSpace) (offset : Nat) (value : Word) : Statement (.registerWrite space offset value) := ⟨_, fun _ => rfl⟩
theorem pcieLinkDown (port : Nat) : Statement (.pcieLinkDown port) := ⟨_, fun _ => rfl⟩
theorem failoverTimeout (port : Nat) : Statement (.failoverTimeout port) := ⟨_, fun _ => rfl⟩
theorem pcieLinkUp (port rate width : Nat) : Statement (.pcieLinkUp port rate width) := ⟨_, fun _ => rfl⟩
theorem functionLevelReset (port : Nat) : Statement (.functionLevelReset port) := ⟨_, fun _ => rfl⟩
theorem pcieTlpReceive (port : Nat) (tlp : Tlp) : Statement (.pcieTlpReceive port tlp) := ⟨_, fun _ => rfl⟩
theorem dmaCompletion (port ctx addr : Nat) (data : Option (List Byte)) : Statement (.dmaCompletion port ctx addr data) := ⟨_, fun _ => rfl⟩
theorem dmaTimeout (port ctx addr : Nat) : Statement (.dmaTimeout port ctx addr) := ⟨_, fun _ => rfl⟩
theorem ideIntegrityFail (port stream : Nat) : Statement (.ideIntegrityFail port stream) := ⟨_, fun _ => rfl⟩
theorem statusBlockRewrite : Statement (.statusBlockRewrite) := ⟨_, fun _ => rfl⟩
theorem descriptorFetch (q : QRef) : Statement (.descriptorFetch q) := ⟨_, fun _ => rfl⟩
theorem batchWindowExpire (q : QRef) : Statement (.batchWindowExpire q) := ⟨_, fun _ => rfl⟩
theorem atsInvalidation (port pasid addr len : Nat) : Statement (.atsInvalidation port pasid addr len) := ⟨_, fun _ => rfl⟩
theorem commandComplete (q : QRef) : Statement (.commandComplete q) := ⟨_, fun _ => rfl⟩
theorem nop (q : QRef) : Statement (.nop q) := ⟨_, fun _ => rfl⟩
theorem launch (q : QRef) : Statement (.launch q) := ⟨_, fun _ => rfl⟩
theorem recordEvent (q : QRef) : Statement (.recordEvent q) := ⟨_, fun _ => rfl⟩
theorem waitEvent (q : QRef) : Statement (.waitEvent q) := ⟨_, fun _ => rfl⟩
theorem copyCmd (q : QRef) : Statement (.copyCmd q) := ⟨_, fun _ => rfl⟩
theorem fillCmd (q : QRef) : Statement (.fillCmd q) := ⟨_, fun _ => rfl⟩
theorem survey (q : QRef) : Statement (.survey q) := ⟨_, fun _ => rfl⟩
theorem tableLoad (q : QRef) : Statement (.tableLoad q) := ⟨_, fun _ => rfl⟩
theorem hint (q : QRef) : Statement (.hint q) := ⟨_, fun _ => rfl⟩
theorem signalTally (q : QRef) : Statement (.signalTally q) := ⟨_, fun _ => rfl⟩
theorem fence (q : QRef) : Statement (.fence q) := ⟨_, fun _ => rfl⟩
theorem setWeights (q : QRef) : Statement (.setWeights q) := ⟨_, fun _ => rfl⟩
theorem createContext (q : QRef) : Statement (.createContext q) := ⟨_, fun _ => rfl⟩
theorem destroyContext (q : QRef) : Statement (.destroyContext q) := ⟨_, fun _ => rfl⟩
theorem createQueue (q : QRef) : Statement (.createQueue q) := ⟨_, fun _ => rfl⟩
theorem pathSetup (q : QRef) : Statement (.pathSetup q) := ⟨_, fun _ => rfl⟩
theorem pathTeardown (q : QRef) : Statement (.pathTeardown q) := ⟨_, fun _ => rfl⟩
theorem keyInstall (q : QRef) : Statement (.keyInstall q) := ⟨_, fun _ => rfl⟩
theorem tallyForce (q : QRef) : Statement (.tallyForce q) := ⟨_, fun _ => rfl⟩
theorem recover (q : QRef) : Statement (.recover q) := ⟨_, fun _ => rfl⟩
theorem inventoryRead (q : QRef) : Statement (.inventoryRead q) := ⟨_, fun _ => rfl⟩
theorem larderWrite (q : QRef) (badPages : List Nat) : Statement (.larderWrite q badPages) := ⟨_, fun _ => rfl⟩
theorem dieRetire (q : QRef) (failedSpares : List Nat) (answers : Bool) : Statement (.dieRetire q failedSpares answers) := ⟨_, fun _ => rfl⟩
theorem channelDrain (q : QRef) : Statement (.channelDrain q) := ⟨_, fun _ => rfl⟩
theorem ledgerDrain (q : QRef) : Statement (.ledgerDrain q) := ⟨_, fun _ => rfl⟩
theorem resumeQueue (q : QRef) : Statement (.resumeQueue q) := ⟨_, fun _ => rfl⟩
theorem lightGain (port : Nat) (lanes : BitVec 16) : Statement (.lightGain port lanes) := ⟨_, fun _ => rfl⟩
theorem laneLock (port : Nat) (lanes : BitVec 16) : Statement (.laneLock port lanes) := ⟨_, fun _ => rfl⟩
theorem frameAlign (port : Nat) (partner : BitVec 16) (reversed : Bool) : Statement (.frameAlign port partner reversed) := ⟨_, fun _ => rfl⟩
theorem trainingBoundMiss (port : Nat) : Statement (.trainingBoundMiss port) := ⟨_, fun _ => rfl⟩
theorem lightLoss (port : Nat) : Statement (.lightLoss port) := ⟨_, fun _ => rfl⟩
theorem laneGroupLoss (port : Nat) (lanes : BitVec 16) : Statement (.laneGroupLoss port lanes) := ⟨_, fun _ => rfl⟩
theorem lkEnable (port : Nat) (bit : Bool) : Statement (.lkEnable port bit) := ⟨_, fun _ => rfl⟩
theorem lkHold (port : Nat) (bit : Bool) : Statement (.lkHold port bit) := ⟨_, fun _ => rfl⟩
theorem lkRetrain (port : Nat) (bit : Bool) : Statement (.lkRetrain port bit) := ⟨_, fun _ => rfl⟩
theorem lkInjectArm (port : Nat) (value : Word) : Statement (.lkInjectArm port value) := ⟨_, fun _ => rfl⟩
theorem idleFrame (port : Nat) (f : Frame) : Statement (.idleFrame port f) := ⟨_, fun _ => rfl⟩
theorem dataFrame (port : Nat) (f : Frame) : Statement (.dataFrame port f) := ⟨_, fun _ => rfl⟩
theorem nakFrame (port : Nat) (f : Frame) : Statement (.nakFrame port f) := ⟨_, fun _ => rfl⟩
theorem replayTimeout (port : Nat) : Statement (.replayTimeout port) := ⟨_, fun _ => rfl⟩
theorem fctrRekeyThreshold (port : Nat) : Statement (.fctrRekeyThreshold port) := ⟨_, fun _ => rfl⟩
theorem fctrLimit (port : Nat) : Statement (.fctrLimit port) := ⟨_, fun _ => rfl⟩
theorem hello (port : Nat) (f : Frame) : Statement (.hello port f) := ⟨_, fun _ => rfl⟩
theorem helloResend (port : Nat) : Statement (.helloResend port) := ⟨_, fun _ => rfl⟩
theorem echo (port : Nat) (f : Frame) : Statement (.echo port f) := ⟨_, fun _ => rfl⟩
theorem echoReply (port : Nat) (f : Frame) (rtt : Nat) : Statement (.echoReply port f rtt) := ⟨_, fun _ => rfl⟩
theorem ident (port : Nat) (f : Frame) : Statement (.ident port f) := ⟨_, fun _ => rfl⟩
theorem confirm (port : Nat) (f : Frame) : Statement (.confirm port f) := ⟨_, fun _ => rfl⟩
theorem rekey (port : Nat) (f : Frame) : Statement (.rekey port f) := ⟨_, fun _ => rfl⟩
theorem rekeyAck (port : Nat) (f : Frame) : Statement (.rekeyAck port f) := ⟨_, fun _ => rfl⟩
theorem down (port : Nat) (f : Frame) : Statement (.down port f) := ⟨_, fun _ => rfl⟩
theorem write (port : Nat) (p : Packet) : Statement (.write port p) := ⟨_, fun _ => rfl⟩
theorem readReq (port : Nat) (p : Packet) : Statement (.readReq port p) := ⟨_, fun _ => rfl⟩
theorem readData (port : Nat) (p : Packet) : Statement (.readData port p) := ⟨_, fun _ => rfl⟩
theorem atomic (port : Nat) (p : Packet) : Statement (.atomic port p) := ⟨_, fun _ => rfl⟩
theorem signal (port : Nat) (p : Packet) : Statement (.signal port p) := ⟨_, fun _ => rfl⟩
theorem ack (port : Nat) (p : Packet) : Statement (.ack port p) := ⟨_, fun _ => rfl⟩
theorem nack (port : Nat) (p : Packet) : Statement (.nack port p) := ⟨_, fun _ => rfl⟩
theorem ackTimer (flow : Nat) : Statement (.ackTimer flow) := ⟨_, fun _ => rfl⟩
theorem psnResendTimeout (flow : Nat) : Statement (.psnResendTimeout flow) := ⟨_, fun _ => rfl⟩
theorem routeFail (port : Nat) (p : Packet) : Statement (.routeFail port p) := ⟨_, fun _ => rfl⟩
theorem setup (port : Nat) (p : Packet) : Statement (.setup port p) := ⟨_, fun _ => rfl⟩
theorem setupAns (port : Nat) (p : Packet) : Statement (.setupAns port p) := ⟨_, fun _ => rfl⟩
theorem groupWrite (port : Nat) (p : Packet) : Statement (.groupWrite port p) := ⟨_, fun _ => rfl⟩
theorem groupAck (port : Nat) (p : Packet) : Statement (.groupAck port p) := ⟨_, fun _ => rfl⟩
theorem pruneTimer (ctx group : Nat) : Statement (.pruneTimer ctx group) := ⟨_, fun _ => rfl⟩
theorem mcastPruneForward (job rootPkg group : Nat) (m : PruneMsg) : Statement (.mcastPruneForward job rootPkg group m) := ⟨_, fun _ => rfl⟩
theorem timeExchangeStart : Statement (.timeExchangeStart) := ⟨_, fun _ => rfl⟩
theorem syncReq (port : Nat) (m : TimeMsg) (t2 : Word) : Statement (.syncReq port m t2) := ⟨_, fun _ => rfl⟩
theorem syncResp (port : Nat) (m : TimeMsg) (t4 : Word) : Statement (.syncResp port m t4) := ⟨_, fun _ => rfl⟩
theorem timeExchangeTimeout : Statement (.timeExchangeTimeout) := ⟨_, fun _ => rfl⟩
theorem alignmentTimeout : Statement (.alignmentTimeout) := ⟨_, fun _ => rfl⟩
theorem currentSample (die rail amps1 amps10 : Nat) : Statement (.currentSample die rail amps1 amps10) := ⟨_, fun _ => rfl⟩
theorem packagePowerSample (watts edge0 edge1 avg1ms : Nat) : Statement (.packagePowerSample watts edge0 edge1 avg1ms) := ⟨_, fun _ => rfl⟩
theorem tempSample (die : Nat) (readings : List Int) : Statement (.tempSample die readings) := ⟨_, fun _ => rfl⟩
theorem droopDetect (die : Nat) : Statement (.droopDetect die) := ⟨_, fun _ => rfl⟩
theorem allocationPass (power : List Nat) : Statement (.allocationPass power) := ⟨_, fun _ => rfl⟩
theorem poolReportTimer : Statement (.poolReportTimer) := ⟨_, fun _ => rfl⟩
theorem poolReport (job pkg unmet critUnmet unused : Nat) : Statement (.poolReport job pkg unmet critUnmet unused) := ⟨_, fun _ => rfl⟩
theorem faultRecordDeliver (die : Nat) : Statement (.faultRecordDeliver die) := ⟨_, fun _ => rfl⟩
theorem faultRecordAck (die : Nat) : Statement (.faultRecordAck die) := ⟨_, fun _ => rfl⟩
theorem faultRecordTimeout (die : Nat) : Statement (.faultRecordTimeout die) := ⟨_, fun _ => rfl⟩
theorem jobFault (job code pkg count : Nat) : Statement (.jobFault job code pkg count) := ⟨_, fun _ => rfl⟩
theorem faultQuench (ctx : Nat) : Statement (.faultQuench ctx) := ⟨_, fun _ => rfl⟩
theorem keeperHeartbeat : Statement (.keeperHeartbeat) := ⟨_, fun _ => rfl⟩
theorem heartbeatTimeout (watched : Nat) : Statement (.heartbeatTimeout watched) := ⟨_, fun _ => rfl⟩
theorem keeperFailureMessage (k : Nat) : Statement (.keeperFailureMessage k) := ⟨_, fun _ => rfl⟩
theorem keeperWatchdogExpire (k : Nat) : Statement (.keeperWatchdogExpire k) := ⟨_, fun _ => rfl⟩
theorem keeperTokenCas (k expected : Nat) : Statement (.keeperTokenCas k expected) := ⟨_, fun _ => rfl⟩
theorem epochNotice (die epoch : Nat) : Statement (.epochNotice die epoch) := ⟨_, fun _ => rfl⟩
theorem journalRecord (holder seq : Nat) : Statement (.journalRecord holder seq) := ⟨_, fun _ => rfl⟩
theorem keeperTakeover : Statement (.keeperTakeover) := ⟨_, fun _ => rfl⟩
theorem keeperBootComplete (k : Nat) (good : Bool) : Statement (.keeperBootComplete k good) := ⟨_, fun _ => rfl⟩
theorem kpHatchQuench (host : Nat) (value : Word) : Statement (.kpHatchQuench host value) := ⟨_, fun _ => rfl⟩
theorem kpHatchQuenchAll (host : Nat) (value : Word) : Statement (.kpHatchQuenchAll host value) := ⟨_, fun _ => rfl⟩
theorem kpHatchKeeperReset (host : Nat) (value : Word) : Statement (.kpHatchKeeperReset host value) := ⟨_, fun _ => rfl⟩
theorem kpHatchTallyForce (host : Nat) (value : Word) : Statement (.kpHatchTallyForce host value) := ⟨_, fun _ => rfl⟩
theorem dgTallyForceSet (value : Word) : Statement (.dgTallyForceSet value) := ⟨_, fun _ => rfl⟩
theorem dgTallyForceAbort (value : Word) : Statement (.dgTallyForceAbort value) := ⟨_, fun _ => rfl⟩
theorem diePollTimeout (die : Nat) : Statement (.diePollTimeout die) := ⟨_, fun _ => rfl⟩
theorem ringMarkerSend (stop : Nat) (ccw : Bool) : Statement (.ringMarkerSend stop ccw) := ⟨_, fun _ => rfl⟩
theorem ringMarkerTimeout (stop : Nat) (ccw : Bool) : Statement (.ringMarkerTimeout stop ccw) := ⟨_, fun _ => rfl⟩
theorem bypassSelfCheck (stop : Nat) (good : Bool) : Statement (.bypassSelfCheck stop good) := ⟨_, fun _ => rfl⟩
theorem spdmRequest (transport : Nat) (req : SpdmReq) : Statement (.spdmRequest transport req) := ⟨_, fun _ => rfl⟩
theorem pldmFwUpdate (kind : Nat) (image : List Byte) : Statement (.pldmFwUpdate kind image) := ⟨_, fun _ => rfl⟩
theorem lockInterfaceRequest (port ctx stream : Nat) : Statement (.lockInterfaceRequest port ctx stream) := ⟨_, fun _ => rfl⟩
theorem fwFloorTimer (kind : Nat) : Statement (.fwFloorTimer kind) := ⟨_, fun _ => rfl⟩
theorem ledgerMerge : Statement (.ledgerMerge) := ⟨_, fun _ => rfl⟩
theorem sensorRefresh (dieTemps : List Int) (diePower : List Nat) (modTemps : List Int) (lanePower : List Int) : Statement (.sensorRefresh dieTemps diePower modTemps lanePower) := ⟨_, fun _ => rfl⟩
theorem mctpRequest (req : MctpReq) : Statement (.mctpRequest req) := ⟨_, fun _ => rfl⟩
theorem channelReturned (ch : Nat) (shown : ModuleRead) : Statement (.channelReturned ch shown) := ⟨_, fun _ => rfl⟩
theorem pathSetupTimeout (q : QRef) : Statement (.pathSetupTimeout q) := ⟨_, fun _ => rfl⟩
theorem handoverWaitTimeout (q : QRef) : Statement (.handoverWaitTimeout q) := ⟨_, fun _ => rfl⟩
theorem holdReplayTimeout (port : Nat) : Statement (.holdReplayTimeout port) := ⟨_, fun _ => rfl⟩
theorem identSigned (port : Nat) : Statement (.identSigned port) := ⟨_, fun _ => rfl⟩

end Sys2Proof.Laws.Outcome
end

