-- ==== Sys2Proof/Laws/Outcome.lean ====
section
/-! SUPPORT. Every command is one guarded effect: the lemma that statements about all commands cite. -/

namespace Sys2Proof.Machine

theorem need_true (t : State) : need true t = .next t := rfl
theorem need_false (t : State) : need false t = .fault .noSuchUnit := rfl

/-- A guarded effect that answers a next state answers that effect. -/
theorem need_next {b : Bool} {t u : State} (h : need b t = .next u) : b = true ∧ u = t := by
  cases b
  · cases h
  · cases h; exact ⟨rfl, rfl⟩

/-- Every command is one guarded effect. -/
theorem exec_need (i : Instr) : Laws.Outcome.Statement i := by
  cases i
  · exact Laws.Outcome.edgesValid
  · exact Laws.Outcome.dieResetRelease
  · exact Laws.Outcome.edgeUndervoltage ..
  · exact Laws.Outcome.pkgResetAssert
  · exact Laws.Outcome.pkgResetRelease
  · exact Laws.Outcome.perstAssert ..
  · exact Laws.Outcome.perstRelease ..
  · exact Laws.Outcome.keeperRom ..
  · exact Laws.Outcome.k1TokenWait
  · exact Laws.Outcome.measuredBoot
  · exact Laws.Outcome.inventoryLoad
  · exact Laws.Outcome.selfTest ..
  · exact Laws.Outcome.cellarBringup ..
  · exact Laws.Outcome.hostLinkStart ..
  · exact Laws.Outcome.epochCheck
  · exact Laws.Outcome.thermTripLatchClear
  · exact Laws.Outcome.rackSyncPulse ..
  · exact Laws.Outcome.refclkLoss ..
  · exact Laws.Outcome.refclkRelock ..
  · exact Laws.Outcome.tbSlewWrite ..
  · exact Laws.Outcome.slewComplete
  · exact Laws.Outcome.epochArm ..
  · exact Laws.Outcome.tbCountLowRead ..
  · exact Laws.Outcome.pwOpCtrlWrite ..
  · exact Laws.Outcome.opChangeComplete ..
  · exact Laws.Outcome.slotBoundary ..
  · exact Laws.Outcome.gridStart ..
  · exact Laws.Outcome.scoreFetch ..
  · exact Laws.Outcome.bundleIssue ..
  · exact Laws.Outcome.add ..
  · exact Laws.Outcome.sub ..
  · exact Laws.Outcome.mul ..
  · exact Laws.Outcome.andOp ..
  · exact Laws.Outcome.orOp ..
  · exact Laws.Outcome.xor ..
  · exact Laws.Outcome.shl ..
  · exact Laws.Outcome.shr ..
  · exact Laws.Outcome.sltu ..
  · exact Laws.Outcome.addi ..
  · exact Laws.Outcome.ori ..
  · exact Laws.Outcome.shli ..
  · exact Laws.Outcome.shri ..
  · exact Laws.Outcome.ld ..
  · exact Laws.Outcome.st ..
  · exact Laws.Outcome.bz ..
  · exact Laws.Outcome.bnz ..
  · exact Laws.Outcome.dbnz ..
  · exact Laws.Outcome.rdtb ..
  · exact Laws.Outcome.rdid ..
  · exact Laws.Outcome.halt ..
  · exact Laws.Outcome.operationComplete ..
  · exact Laws.Outcome.corePartEnd ..
  · exact Laws.Outcome.shape ..
  · exact Laws.Outcome.tileOs ..
  · exact Laws.Outcome.tileWs ..
  · exact Laws.Outcome.loadShadow ..
  · exact Laws.Outcome.codedStreamResume ..
  · exact Laws.Outcome.swap ..
  · exact Laws.Outcome.drain ..
  · exact Laws.Outcome.ew ..
  · exact Laws.Outcome.copy ..
  · exact Laws.Outcome.fill ..
  · exact Laws.Outcome.skewW ..
  · exact Laws.Outcome.skewN ..
  · exact Laws.Outcome.layoutWs ..
  · exact Laws.Outcome.wait ..
  · exact Laws.Outcome.waitdec ..
  · exact Laws.Outcome.inc ..
  · exact Laws.Outcome.dec ..
  · exact Laws.Outcome.hsig ..
  · exact Laws.Outcome.tallyMessageArrive ..
  · exact Laws.Outcome.waitSatisfactionArrive ..
  · exact Laws.Outcome.waitRegisterRetry ..
  · exact Laws.Outcome.exp ..
  · exact Laws.Outcome.rcp ..
  · exact Laws.Outcome.rsqrt ..
  · exact Laws.Outcome.gelu ..
  · exact Laws.Outcome.silu ..
  · exact Laws.Outcome.cvt ..
  · exact Laws.Outcome.drop ..
  · exact Laws.Outcome.sample ..
  · exact Laws.Outcome.scrub ..
  · exact Laws.Outcome.scrubEnd ..
  · exact Laws.Outcome.payloadReadStart ..
  · exact Laws.Outcome.crateInject ..
  · exact Laws.Outcome.crateArrive ..
  · exact Laws.Outcome.crateFull ..
  · exact Laws.Outcome.carrySend ..
  · exact Laws.Outcome.updateApply ..
  · exact Laws.Outcome.setRetire ..
  · exact Laws.Outcome.tableLoadDeliver ..
  · exact Laws.Outcome.cellarRead ..
  · exact Laws.Outcome.cellarWrite ..
  · exact Laws.Outcome.patrolScrub ..
  · exact Laws.Outcome.frameMigrate ..
  · exact Laws.Outcome.channelDrained ..
  · exact Laws.Outcome.channelFail ..
  · exact Laws.Outcome.spdTempPoll ..
  · exact Laws.Outcome.caParityAlert ..
  · exact Laws.Outcome.writeCrcAlert ..
  · exact Laws.Outcome.mrcdViolation ..
  · exact Laws.Outcome.clCfgWrite ..
  · exact Laws.Outcome.larderRead ..
  · exact Laws.Outcome.tagErase ..
  · exact Laws.Outcome.stocktakeRun
  · exact Laws.Outcome.stocktakeForward ..
  · exact Laws.Outcome.launchBind ..
  · exact Laws.Outcome.launchComplete ..
  · exact Laws.Outcome.ready ..
  · exact Laws.Outcome.arm ..
  · exact Laws.Outcome.armed ..
  · exact Laws.Outcome.go ..
  · exact Laws.Outcome.abort ..
  · exact Laws.Outcome.readyCollectTimeout ..
  · exact Laws.Outcome.armedDeadline ..
  · exact Laws.Outcome.armDisarmDeadline ..
  · exact Laws.Outcome.readyAnswerTimeout ..
  · exact Laws.Outcome.stretchRequest ..
  · exact Laws.Outcome.stretchAnswer ..
  · exact Laws.Outcome.stretchAck ..
  · exact Laws.Outcome.anchorApply ..
  · exact Laws.Outcome.stretchAnswerTimeout ..
  · exact Laws.Outcome.stretchAckDeadline ..
  · exact Laws.Outcome.configRequest ..
  · exact Laws.Outcome.doorbellWrite ..
  · exact Laws.Outcome.kernelDoorbell ..
  · exact Laws.Outcome.apertureRead ..
  · exact Laws.Outcome.apertureWrite ..
  · exact Laws.Outcome.hqRoleWrite ..
  · exact Laws.Outcome.hqKqEnable ..
  · exact Laws.Outcome.registerWrite ..
  · exact Laws.Outcome.pcieLinkDown ..
  · exact Laws.Outcome.failoverTimeout ..
  · exact Laws.Outcome.pcieLinkUp ..
  · exact Laws.Outcome.functionLevelReset ..
  · exact Laws.Outcome.pcieTlpReceive ..
  · exact Laws.Outcome.dmaCompletion ..
  · exact Laws.Outcome.dmaTimeout ..
  · exact Laws.Outcome.ideIntegrityFail ..
  · exact Laws.Outcome.statusBlockRewrite
  · exact Laws.Outcome.descriptorFetch ..
  · exact Laws.Outcome.batchWindowExpire ..
  · exact Laws.Outcome.atsInvalidation ..
  · exact Laws.Outcome.commandComplete ..
  · exact Laws.Outcome.nop ..
  · exact Laws.Outcome.launch ..
  · exact Laws.Outcome.recordEvent ..
  · exact Laws.Outcome.waitEvent ..
  · exact Laws.Outcome.copyCmd ..
  · exact Laws.Outcome.fillCmd ..
  · exact Laws.Outcome.survey ..
  · exact Laws.Outcome.tableLoad ..
  · exact Laws.Outcome.hint ..
  · exact Laws.Outcome.signalTally ..
  · exact Laws.Outcome.fence ..
  · exact Laws.Outcome.setWeights ..
  · exact Laws.Outcome.createContext ..
  · exact Laws.Outcome.destroyContext ..
  · exact Laws.Outcome.createQueue ..
  · exact Laws.Outcome.pathSetup ..
  · exact Laws.Outcome.pathTeardown ..
  · exact Laws.Outcome.keyInstall ..
  · exact Laws.Outcome.tallyForce ..
  · exact Laws.Outcome.recover ..
  · exact Laws.Outcome.inventoryRead ..
  · exact Laws.Outcome.larderWrite ..
  · exact Laws.Outcome.dieRetire ..
  · exact Laws.Outcome.channelDrain ..
  · exact Laws.Outcome.ledgerDrain ..
  · exact Laws.Outcome.resumeQueue ..
  · exact Laws.Outcome.lightGain ..
  · exact Laws.Outcome.laneLock ..
  · exact Laws.Outcome.frameAlign ..
  · exact Laws.Outcome.trainingBoundMiss ..
  · exact Laws.Outcome.lightLoss ..
  · exact Laws.Outcome.laneGroupLoss ..
  · exact Laws.Outcome.lkEnable ..
  · exact Laws.Outcome.lkHold ..
  · exact Laws.Outcome.lkRetrain ..
  · exact Laws.Outcome.lkInjectArm ..
  · exact Laws.Outcome.idleFrame ..
  · exact Laws.Outcome.dataFrame ..
  · exact Laws.Outcome.nakFrame ..
  · exact Laws.Outcome.replayTimeout ..
  · exact Laws.Outcome.fctrRekeyThreshold ..
  · exact Laws.Outcome.fctrLimit ..
  · exact Laws.Outcome.hello ..
  · exact Laws.Outcome.helloResend ..
  · exact Laws.Outcome.echo ..
  · exact Laws.Outcome.echoReply ..
  · exact Laws.Outcome.ident ..
  · exact Laws.Outcome.confirm ..
  · exact Laws.Outcome.rekey ..
  · exact Laws.Outcome.rekeyAck ..
  · exact Laws.Outcome.down ..
  · exact Laws.Outcome.write ..
  · exact Laws.Outcome.readReq ..
  · exact Laws.Outcome.readData ..
  · exact Laws.Outcome.atomic ..
  · exact Laws.Outcome.signal ..
  · exact Laws.Outcome.ack ..
  · exact Laws.Outcome.nack ..
  · exact Laws.Outcome.ackTimer ..
  · exact Laws.Outcome.psnResendTimeout ..
  · exact Laws.Outcome.routeFail ..
  · exact Laws.Outcome.setup ..
  · exact Laws.Outcome.setupAns ..
  · exact Laws.Outcome.groupWrite ..
  · exact Laws.Outcome.groupAck ..
  · exact Laws.Outcome.pruneTimer ..
  · exact Laws.Outcome.mcastPruneForward ..
  · exact Laws.Outcome.timeExchangeStart
  · exact Laws.Outcome.syncReq ..
  · exact Laws.Outcome.syncResp ..
  · exact Laws.Outcome.timeExchangeTimeout
  · exact Laws.Outcome.alignmentTimeout
  · exact Laws.Outcome.currentSample ..
  · exact Laws.Outcome.packagePowerSample ..
  · exact Laws.Outcome.tempSample ..
  · exact Laws.Outcome.droopDetect ..
  · exact Laws.Outcome.allocationPass ..
  · exact Laws.Outcome.poolReportTimer
  · exact Laws.Outcome.poolReport ..
  · exact Laws.Outcome.faultRecordDeliver ..
  · exact Laws.Outcome.faultRecordAck ..
  · exact Laws.Outcome.faultRecordTimeout ..
  · exact Laws.Outcome.jobFault ..
  · exact Laws.Outcome.faultQuench ..
  · exact Laws.Outcome.keeperHeartbeat
  · exact Laws.Outcome.heartbeatTimeout ..
  · exact Laws.Outcome.keeperFailureMessage ..
  · exact Laws.Outcome.keeperWatchdogExpire ..
  · exact Laws.Outcome.keeperTokenCas ..
  · exact Laws.Outcome.epochNotice ..
  · exact Laws.Outcome.journalRecord ..
  · exact Laws.Outcome.keeperTakeover
  · exact Laws.Outcome.keeperBootComplete ..
  · exact Laws.Outcome.kpHatchQuench ..
  · exact Laws.Outcome.kpHatchQuenchAll ..
  · exact Laws.Outcome.kpHatchKeeperReset ..
  · exact Laws.Outcome.kpHatchTallyForce ..
  · exact Laws.Outcome.dgTallyForceSet ..
  · exact Laws.Outcome.dgTallyForceAbort ..
  · exact Laws.Outcome.diePollTimeout ..
  · exact Laws.Outcome.ringMarkerSend ..
  · exact Laws.Outcome.ringMarkerTimeout ..
  · exact Laws.Outcome.bypassSelfCheck ..
  · exact Laws.Outcome.spdmRequest ..
  · exact Laws.Outcome.pldmFwUpdate ..
  · exact Laws.Outcome.lockInterfaceRequest ..
  · exact Laws.Outcome.fwFloorTimer ..
  · exact Laws.Outcome.ledgerMerge
  · exact Laws.Outcome.sensorRefresh ..
  · exact Laws.Outcome.mctpRequest ..
  · exact Laws.Outcome.channelReturned ..
  · exact Laws.Outcome.pathSetupTimeout ..
  · exact Laws.Outcome.handoverWaitTimeout ..
  · exact Laws.Outcome.holdReplayTimeout ..
  · exact Laws.Outcome.identSigned ..

end Sys2Proof.Machine
end

