-- ==== Sys2Proof/Tests/Slice0.lean ====
section
/-! SUPPORT. Tests: an ill-formed term for each check of well-formedness; for every statement that has hypotheses a state and operands that meet them
(witness_<statement or part>); and single steps whose results are calculated by hand from the manual. -/

set_option Elab.async false

namespace Sys2Proof.Tests

open Sys2Proof Sys2Proof.Machine

/-! ## Well-formedness: one ill-formed term for each check, which the check refuses -/

theorem test_wf_edge : (Instr.edgeUndervoltage 2).wf = false := by decide
theorem test_wf_host_port : (Instr.perstAssert 2).wf = false := by decide
theorem test_wf_die : (Instr.rackSyncPulse 100).wf = false := by decide
theorem test_wf_compute_die : (Instr.opChangeComplete 68).wf = false := by decide
theorem test_wf_cellar_die : (Instr.tagErase 67).wf = false := by decide
theorem test_wf_core : (Instr.add 272 none).wf = false := by decide
theorem test_wf_unit : (Instr.operationComplete 0 6).wf = false := by decide
theorem test_wf_engine : (Instr.shape 0 2).wf = false := by decide
theorem test_wf_store : (Instr.scrubEnd 0 5).wf = false := by decide
theorem test_wf_wsid : (Instr.setRetire 65536).wf = false := by decide
theorem test_wf_stop : (Instr.ringMarkerTimeout 88 0).wf = false := by decide
theorem test_wf_landing_slot : (Instr.crateFull 0 384).wf = false := by decide
theorem test_wf_carry_slot : (Instr.carrySend 0 8).wf = false := by decide
theorem test_wf_context : (Instr.launchBind 1024).wf = false := by decide
theorem test_wf_accessor : (Instr.cellarRead (.context 1024) 0 8).wf = false := by decide
theorem test_wf_channel : (Instr.channelFail 48).wf = false := by decide
theorem test_wf_channel_list : (Instr.cellarBringup [{ ch := 48 }]).wf = false := by decide
theorem test_wf_die_list : (Instr.selfTest [100] []).wf = false ∧ (Instr.selfTest [] [100]).wf = false := by decide
theorem test_wf_scrub_frame : (Instr.patrolScrub 0 1048576 []).wf = false := by decide
theorem test_wf_die_frame : (Instr.frameMigrate 68 4194304).wf = false := by decide
theorem test_wf_config_offset : (Instr.configRequest 0 4096 none).wf = false := by decide
theorem test_wf_aperture_offset : (Instr.apertureRead 0 0x1000000 0).wf = false := by decide
theorem test_wf_doorbell_offset : (Instr.doorbellWrite 0 0x400000 0 0).wf = false := by decide
theorem test_wf_link_rate : (Instr.pcieLinkUp 0 7 16).wf = false ∧ (Instr.pcieLinkUp 0 5 3).wf = false := by decide
theorem test_wf_request : (Instr.pcieTlpReceive 0 (.readBar0 0x1000000)).wf = false ∧ (Instr.pcieTlpReceive 0 (.readBar2 0x400000)).wf = false := by decide
theorem test_wf_ide_stream : (Instr.ideIntegrityFail 0 5).wf = false ∧ (Instr.lockInterfaceRequest 0 1 5).wf = false := by decide
theorem test_wf_register_space : (Instr.registerWrite (.window 100) 0 0).wf = false ∧ (Instr.registerWrite (.bar0 0) 0x1000000 0).wf = false := by decide
theorem test_wf_queue : (Instr.nop (.normal 1 512)).wf = false ∧ (Instr.nop (.kernel 2)).wf = false := by decide
theorem test_wf_port : (Instr.lightLoss 8).wf = false := by decide
theorem test_wf_rail : (Instr.currentSample 70 4 0 0).wf = false := by decide
theorem test_wf_temperature_readings : (Instr.tempSample 3 []).wf = false := by decide
theorem test_wf_allocation_readings : (Instr.allocationPass []).wf = false := by decide
theorem test_wf_sensor_readings : (Instr.sensorRefresh [] [] [] []).wf = false := by decide
theorem test_wf_keeper : (Instr.heartbeatTimeout 2).wf = false := by decide
theorem test_wf_journal_holder : (Instr.journalRecord 3 0).wf = false := by decide
theorem test_wf_transport : (Instr.spdmRequest 3 .getVersion).wf = false := by decide
theorem test_wf_image_kind : (Instr.fwFloorTimer 0).wf = false ∧ (Instr.pldmFwUpdate 5 []).wf = false := by decide

/-! ## Cryptographic functions: vectors that their standards publish -/

/-- SHA-256 of "abc" (FIPS 180-4). -/
theorem test_sha256 : sha256 [0x61, 0x62, 0x63] = octets 32 0xBA7816BF8F01CFEA414140DE5DAE2223B00361A396177A9CB410FF61F20015AD := by decide +kernel

/-- HMAC-SHA-256, test case 1 of RFC 4231. -/
theorem test_hmac : hmac (List.replicate 20 0x0B) [0x48, 0x69, 0x20, 0x54, 0x68, 0x65, 0x72, 0x65] =
    octets 32 0xB0344C61D8DB38535CA8AFCEAF0BF12B881DC200C9833DA726E9376C2E32CFF7 := by decide +kernel

/-- AES-256, appendix C.3 of FIPS 197. -/
theorem test_aes256 : aes256 ((List.range 32).map (BitVec.ofNat 8)) (octets 16 0x00112233445566778899AABBCCDDEEFF) = octets 16 0x8EA2B7CA516745BFEAFC49904B496089 := by decide +kernel

/-- Twice the base point of P-256. -/
theorem test_p256 : (p256Add (some p256G) (some p256G)).map (·.1) = some 0x7CF27B188D034F7E8A52380304B51AC3C08969E277F21B35A60B48FC47669978 := by decide +kernel

/-- A state with one die changed from reset. -/
def onDie (d : Nat) (f : Die → Die) : State := State.reset.modDie d f

/-- A die at OP5 whose core `c` has one operation at the head of unit `u`, and memory `m`. -/
def headState (c u : Nat) (o : UnitOp) (m : Memory) : State :=
  (({ State.reset with mem := m, inv := factoryInventory } : State).modDie (c / 4) fun x => { x with curOp := 5 }).modCore c fun x =>
    setUnitQueue { x with ctx := some 1, running := true } u [{ op := o }]

/-! ## Time bases and operating points -/

theorem witness_EpochLoadsOnTheArmedDieAlone :
    (∃ (d : Nat) (s : State), isDie d = true ∧ (s.die d).tb.epochSet = false) ∧
    (∃ (d : Nat) (s : State), isDie d = true ∧ (s.die d).tb.epochSet = true) ∧
    (∃ (d : Nat) (s : State), isDie d = true ∧ (s.die d).tb.holdover = true) ∧
    (∃ (d : Nat) (s : State), isDie d = true ∧ (s.die d).tb.holdover = false ∧ (s.die d).tb.epochArm = true) ∧
    (∃ (d : Nat) (s : State), isDie d = true ∧ (s.die d).tb.holdover = false ∧ (s.die d).tb.epochArm = false ∧ (slipOf (s.die d).tb (s.count d)).natAbs ≤ 2) :=
  ⟨⟨99, .reset, by decide, by decide⟩, ⟨99, onDie 99 fun x => { x with tb := { epochSet := true } }, by decide, by decide⟩,
   ⟨7, onDie 7 fun x => { x with tb := { holdover := true } }, by decide, by decide⟩,
   ⟨0, onDie 0 fun x => { x with tb := { epochArm := true, epochNext := 4000 } }, by decide, by decide, by decide⟩,
   ⟨5, onDie 5 fun x => { x with tb := { disp := 1000002 } }, by decide, by decide, by decide, by decide⟩⟩

/-- A die 3 counts late at a RACK_SYNC edge. -/
def lateDie : State := onDie 5 fun x => { x with tb := { epochSet := true, disp := 2000003 } }

theorem witness_SyncSlipIsSlewedAway :
    ∃ (d : Nat) (s : State), isDie d = true ∧ (s.die d).tb.holdover = false ∧ (s.die d).tb.epochArm = false ∧ (s.die d).tb.epochSet = true ∧ s.syncActs (s.die d).tb = true ∧
      2 < (slipOf (s.die d).tb (s.count d)).natAbs ∧ s.hasRoom d ∧ s.holder.isSome :=
  ⟨5, { lateDie with holder := some 0 }, by decide, by decide, by decide, by decide, by decide, by decide, by decide, by decide⟩

theorem witness_HoldoverBeginsAndEnds :
    (∃ (d : Nat) (s : State), isDie d = true ∧ s.hasRoom d) ∧ (∃ (d : Nat) (s : State), isDie d = true ∧ (s.die d).tb.holdover = true) :=
  ⟨⟨0, .reset, by decide, by decide⟩, ⟨98, onDie 98 fun x => { x with tb := { holdover := true } }, by decide, by decide⟩⟩

theorem witness_PairOfCountReadsNeverTears :
    (∃ (d r : Nat) (s : State), isDie d = true ∧ portSilent s r = false) ∧ (∃ (d r : Nat) (s : State), isDie d = true ∧ portSilent s r = true) :=
  ⟨⟨96, 7, State.reset, by decide, by decide⟩, ⟨99, 1, State.reset, by decide, by decide⟩⟩

theorem witness_OperatingPointWriteIsClamped :
    (∃ (d : Nat) (v : Word) (s : State), isCompute d = true ∧ minAboveAlloc (writePwOpCtrl (s.dieBound d) v.toNat (s.die d)) = true) ∧
    (∃ (d : Nat) (v : Word) (s : State), isCompute d = true ∧ (s.die d).scheduled = true ∧ bits v.toNat 0 3 = 0) ∧
    (∃ (d : Nat) (v : Word) (s : State), isCompute d = true ∧ (s.die d).scheduled = false ∧ s.holdsOp0 d = false ∧ (s.die d).capOp = none ∧ 1 ≤ bits v.toNat 4 3 ∧
      bits v.toNat 4 3 ≤ bits v.toNat 8 3 ∧ bits v.toNat 4 3 ≤ bits v.toNat 0 3 ∧ bits v.toNat 0 3 ≤ bits v.toNat 8 3) :=
  ⟨⟨3, 0x755, onDie 3 fun x => { x with capOp := some 2 }, by decide, by decide⟩,
   ⟨67, 0, onDie 67 fun x => { x with scheduled := true }, by decide, by decide, by decide⟩,
   ⟨0, 0x715, { State.reset with inv := factoryInventory }, by decide, by decide, by decide, by decide, by decide, by decide, by decide, by decide⟩⟩

theorem witness_PointsChangeOneAtATime :
    (∃ (d : Nat) (s : State), isCompute d = true ∧ (s.die d).transition = true ∧ (s.die d).curOp < (s.die d).targetOp) ∧
    (∃ (d : Nat) (s : State), isCompute d = true ∧ (s.die d).transition = true ∧ (s.die d).targetOp < (s.die d).curOp) ∧
    (∃ (d : Nat) (s : State), isCompute d = true ∧ (s.die d).transition = true ∧ (s.die d).targetOp = (s.die d).curOp) :=
  ⟨⟨0, onDie 0 fun x => { x with transition := true, targetOp := 5 }, by decide, by decide, by decide⟩,
   ⟨0, onDie 0 fun x => { x with transition := true, curOp := 4, targetOp := 2 }, by decide, by decide, by decide⟩,
   ⟨0, onDie 0 fun x => { x with transition := true, curOp := 2, targetOp := 2 }, by decide, by decide, by decide⟩⟩

/-- R61's own example: MIN_OP 6 with MAX_OP 4 leaves both at 6, and a REQ_OP of 5 becomes 6. -/
theorem test_pw_op_ctrl_clamp : ∃ t, exec (.pwOpCtrlWrite 3 0x465) .reset = .next t ∧ (t.die 3).minOp = 6 ∧ (t.die 3).maxOp = 6 ∧ (t.die 3).reqOp = 6 :=
  ⟨_, rfl, by decide, by decide, by decide⟩

/-- R54's own examples. -/
theorem test_slot_beats : slotBeats 1030 5 = 162 ∧ slotBeats 1030 7 = 129 := by decide

/-! ## The core and the score -/

/-- Core 1 about to perform a scalar operation on 7 and 9. -/
def scalarState (k : ScalarK) (m : Memory) : State := headState 1 uScalar (.scalar { k := k, rd := 3, ra := 1, imm := 0xFFFF, a := 7, b := 9, d := 5 }) m

theorem witness_ScalarOperationsWriteTheirResult : ∀ k : ScalarK, ∃ e o, isCore 1 = true ∧ (scalarState k []).headScalar 1 k = some (e, o) ∧ (scalarState k []).arithTold 1 = false ∧ (scalarState k []).hasRoom 0 := by
  intro k; cases k <;> exact ⟨_, _, by decide, rfl, by decide, by decide⟩

/-- Core 1 about to load or store the first word of its shelf (logical die 0 is C0, whose cores are all good). -/
def shelfState (k : ScalarK) : State :=
  headState 1 uScalar (.scalar { k := k, rd := 3, ra := 1, imm := 0xFFF8, a := 0x200002000008, d := 0x123456789ABCDEF }) [(0x200002000000, 0x2A)]

theorem witness_LoadAndStoreMoveOneShelfWord :
    (∃ e o, isCore 1 = true ∧ lsAddr o % 8 = 0 ∧ (shelfState .ld).marks = [] ∧ (shelfState .ld).headScalar 1 .ld = some (e, o) ∧
      (shelfState .ld).headRead 1 uScalar e (lsAddr o) 8 false = .inl 0x200002000000) ∧
    (∃ e o, isCore 1 = true ∧ lsAddr o % 8 = 0 ∧ (shelfState .st).marks = [] ∧ (shelfState .st).headScalar 1 .st = some (e, o) ∧
      (shelfState .st).mem.wf = true ∧ (shelfState .st).headWrite 1 uScalar e (lsAddr o) 8 false = .inl 0x200002000000) :=
  ⟨⟨_, _, by decide, by decide, rfl, rfl, by decide⟩, ⟨_, _, by decide, by decide, rfl, rfl, by decide, by decide⟩⟩

theorem witness_BranchesAndHalt :
    (∀ k : ScalarK, ∃ e o b, isCore 1 = true ∧ ((scalarState k []).modCore 1 fun x => { x with length := 40 }).headScalar 1 k = some (e, o) ∧
      branchTarget 3 2 40 = some b) := by
  intro k; cases k <;> exact ⟨_, _, 5, by decide, rfl, by decide⟩

/-- Core 0 with a score of 3 bundles in row 0 of its shelf, running. -/
def issueState (held : List (BitVec 256)) : State :=
  (({ State.reset with inv := factoryInventory } : State).modDie 0 fun x => { x with curOp := 5 }).modCore 0 fun x =>
    { x with ctx := some 1, running := true, length := 3, held := held }

/-- A bundle: DELTA 4, ADD s3 = s1 + s2 in the scalar slot, COPY in the mover slot. -/
def addBundle : BitVec 256 := BitVec.ofNat 256 (4 * 2 ^ 236 + (2 ^ 26 + 3 * 2 ^ 21 + 1 * 2 ^ 16 + 2 * 2 ^ 11) * 2 ^ 192 + (2 ^ 44 + 4 * 2 ^ 34 + 5 * 2 ^ 29 + 6 * 2 ^ 24) * 2 ^ 64)

/-- A bundle whose every slot is an encoding that R149 to R163 leave out. -/
def allOnes : BitVec 256 := BitVec.allOnes 256

theorem witness_FetchAndIssue :
    (isCore 0 = true ∧ ((issueState []).core 0).ctx.isSome ∧ ((issueState []).die 0).curOp ≠ 0 ∧ (issueState []).marks = [] ∧
      ((issueState []).core 0).head + ((issueState []).core 0).held.length < ((issueState []).core 0).length ∧
      ((issueState []).core 0).held.length + (rowBundles (issueState []).mem 0 ((issueState []).core 0) 0).length ≤ 64) ∧
    (∃ d, isCore 0 = true ∧ (issueState [addBundle]).issues 0 = true ∧ unresolved ((issueState [addBundle]).core 0) = false ∧
      ((issueState [addBundle]).core 0).head < ((issueState [addBundle]).core 0).length ∧ ((issueState [addBundle]).core 0).held = [addBundle] ∧
      headInvalid ((issueState [addBundle]).core 0) addBundle = none ∧ d = decodeBundle ((issueState [addBundle]).core 0) 0 addBundle ∧ waitOf d = none ∧
      queuesFree ((issueState [addBundle]).core 0) (bundleOps d) = true ∧ readsPending ((issueState [addBundle]).core 0) d = false ∧
      (issueState [addBundle]).early 0 4 = false ∧ (issueState [addBundle]).pastWindow 0 4 = false ∧ (releases d).length = 2) ∧
    (isCore 0 = true ∧ (issueState [allOnes]).issues 0 = true ∧ unresolved ((issueState [allOnes]).core 0) = false ∧
      ((issueState [allOnes]).core 0).head < ((issueState [allOnes]).core 0).length ∧ headInvalid ((issueState [allOnes]).core 0) allOnes = some 1 ∧
      (issueState [allOnes]).hasRoom 0) :=
  ⟨by decide, ⟨_, by decide, by decide, by decide, by decide, by decide, by decide, rfl, by decide, by decide, by decide, by decide, by decide, by decide⟩, by decide⟩

theorem witness_OperationCompletes :
    ∃ (c u : Nat) (s : State) (e : QEntry) (q : List QEntry), isCore c = true ∧ u < 6 ∧ unitQueue (s.core c) u = e :: q ∧ e.done = true ∧ e.waitAcks = 0 ∧ (s.die (c / 4)).curOp ≠ 0 :=
  ⟨271, 5, (State.reset.modDie 67 fun x => { x with curOp := 5 }).modCore 271 fun x => { x with finish := [{ op := .finish { k := .cvt }, done := true }] }, _, _, by decide, by decide, rfl, rfl, rfl, by decide⟩

/-- A scheduled launch bound to core 1, with a COPY of bundle 2 still in the mover's queue. -/
def slotState : State :=
  let s := headState 1 uMover (.mover (.copy 0 0 8)) []
  ({ s with contexts := [(1, some { launch := some { scheduled := true, st := .running } })] } : State).modCore 1 fun x =>
    { x with mover := [{ op := .mover (.copy 0 0 8), bundle := 2 }] }

theorem witness_SlotBoundaryFindsLateOperations :
    (isCore 1 = true ∧ slotState.schedCtx ((slotState.core 1).ctx.getD noCtx) = true ∧ (∃ e ∈ unitQueue (slotState.core 1) 3, e.bundle = 2 ∧ e.halted = false) ∧ slotState.hasRoom 0) ∧
    (∀ e ∈ unitQueue (slotState.core 1) 3, e.bundle ≠ 5 ∨ e.halted = true) ∧ 3 ≠ uTally :=
  ⟨⟨by decide, by decide, by decide, by decide⟩, by decide, by decide⟩

/-! ## Tallies, waits and events -/

/-- A context 1 whose launch maps virtual id 5 to tally 2 of logical core 0 (core 0), virtual id 6 to tally 3 of logical core 1 (core 1), and has link 9 from
core 0 to core 1 with full tally 7 and empty tally 8. -/
def tallyLaunch (sched : Bool) : Launch :=
  { scheduled := sched, st := .running, tallies := [{ vid := 5, index := 2 }, { vid := 6, index := 3, core := 1 }, { vid := 7, index := 4, core := 1 }],
    links := [{ id := 9, depth := 2, fullVid := 7, emptyVid := 8, consumer := 1, filled := [1] }] }

def tallyState (sched : Bool) (value : Half) (waits : List WaitReg) (m : TallyMsg) : State :=
  (({ State.reset with inv := factoryInventory, contexts := [(1, some { launch := some (tallyLaunch sched) })], tallyMsgs := [m] } : State).modDie 0 fun x =>
    { x with curOp := 5 }).setTally 0 2 { value := value, waits := waits }

/-- The same where the job of the context has had its record of tally 2 (R302). -/
def toldState (value : Half) (m : TallyMsg) : State :=
  { tallyState false value [] m with contexts := [(1, some { launch := some (tallyLaunch false), talliesTold := [(0, 2)] })] }

/-- A message to tally 2 of core 0. -/
def tallyMsg (a : TallyAct) (n : Nat) : TallyMsg := { ctx := 1, home := 0, index := 2, vid := 5, act := a, n := n, core := 1 }

theorem sole_mayArrive (s : State) (m : TallyMsg) (h : s.tallyMsgs[0]? = some m ∧ m.dead = false ∧ m.result = none ∧ s.quenchedCtx m.ctx = false ∧
    s.tallyHeld m = false) : mayArrive s 0 m :=
  ⟨h.1, h.2.1, h.2.2.1, h.2.2.2.1, h.2.2.2.2, fun _ _ hj _ => absurd hj (Nat.not_lt_zero _)⟩

theorem sole_messageAt (s : State) (m : TallyMsg) (h : s.tallyMsgs[0]? = some m ∧ m.dead = false ∧ m.result = none ∧ s.quenchedCtx m.ctx = false ∧
    s.tallyHeld m = false) (hl : ((s.launchOf m.ctx).map fun l => isLinkVid l m.vid) = some false) : messageAt s 0 m := ⟨sole_mayArrive s m h, hl⟩

theorem witness_TallyMessagesAreApplied :
    (∃ s m, messageAt s 0 m ∧ (s.tally m.home m.index).waits = [] ∧ m.act = .inc ∧ (s.tally m.home m.index).value.toNat + m.n = 2 ^ 32 - 1) ∧
    (∃ s m, messageAt s 0 m ∧ (s.tally m.home m.index).waits = [] ∧ m.act = .inc ∧ (s.tally m.home m.index).value.toNat + m.n = 2 ^ 32 ∧
      s.tallyTold m.ctx (m.home, m.index) = false ∧ s.hasRoom (homeDie m.home)) ∧
    (∃ s m, messageAt s 0 m ∧ (s.tally m.home m.index).waits = [] ∧ m.act = .dec ∧ m.n = (s.tally m.home m.index).value.toNat) ∧
    (∃ s m, messageAt s 0 m ∧ (s.tally m.home m.index).waits = [] ∧ m.act = .dec ∧ (s.tally m.home m.index).value.toNat < m.n ∧
      s.tallyTold m.ctx (m.home, m.index) = false ∧ s.hasRoom (homeDie m.home)) ∧
    (∃ s m, messageAt s 0 m ∧ (s.tally m.home m.index).waits = [] ∧ m.act = .dec ∧ (s.tally m.home m.index).value.toNat < m.n ∧
      s.tallyTold m.ctx (m.home, m.index) = true ∧ m.home < 1000) ∧
    (∃ s m, messageAt s 0 m ∧ (s.tally m.home m.index).waits = [] ∧ m.act = .set ∧ m.n < 2 ^ 32) :=
  ⟨⟨tallyState false 0xFFFFFFFE [] (tallyMsg .inc 1), tallyMsg .inc 1, sole_messageAt _ _ ⟨rfl, rfl, rfl, rfl, rfl⟩ rfl, rfl, rfl, rfl⟩,
   ⟨tallyState false 0xFFFFFFFF [] (tallyMsg .inc 1), tallyMsg .inc 1, sole_messageAt _ _ ⟨rfl, rfl, rfl, rfl, rfl⟩ rfl, rfl, rfl, rfl, rfl, by decide⟩,
   ⟨tallyState false 3 [] (tallyMsg .dec 3), tallyMsg .dec 3, sole_messageAt _ _ ⟨rfl, rfl, rfl, rfl, rfl⟩ rfl, rfl, rfl, rfl⟩,
   ⟨tallyState false 3 [] (tallyMsg .dec 4), tallyMsg .dec 4, sole_messageAt _ _ ⟨rfl, rfl, rfl, rfl, rfl⟩ rfl, rfl, rfl, by decide, rfl, by decide⟩,
   ⟨toldState 3 (tallyMsg .dec 4), tallyMsg .dec 4, ⟨sole_mayArrive _ _ ⟨rfl, rfl, rfl, rfl, rfl⟩, rfl⟩, rfl, rfl, by decide, rfl, by decide⟩,
   ⟨tallyState false 3 [] (tallyMsg .set 40), tallyMsg .set 40, sole_messageAt _ _ ⟨rfl, rfl, rfl, rfl, rfl⟩ rfl, rfl, rfl, by decide⟩⟩

theorem witness_WaitMessagesAreApplied :
    (∃ s m, messageAt s 0 m ∧ m.act = .waitdec ∧ m.n = (s.tally m.home m.index).value.toNat) ∧
    (∃ s m, messageAt s 0 m ∧ m.act = .wait ∧ (s.tally m.home m.index).value.toNat < m.n ∧ (s.tally m.home m.index).waits.length = 7) ∧
    (∃ s m, messageAt s 0 m ∧ m.act = .wait ∧ (s.tally m.home m.index).value.toNat < m.n ∧ (s.tally m.home m.index).waits.length = 8) :=
  ⟨⟨tallyState true 3 [] (tallyMsg .waitdec 3), tallyMsg .waitdec 3, sole_messageAt _ _ ⟨rfl, rfl, rfl, rfl, rfl⟩ rfl, rfl, rfl⟩,
   ⟨tallyState true 3 (List.replicate 7 { n := 9 }) (tallyMsg .wait 4), tallyMsg .wait 4, sole_messageAt _ _ ⟨rfl, rfl, rfl, rfl, rfl⟩ rfl, rfl, by decide, rfl⟩,
   ⟨tallyState true 3 (List.replicate 8 { n := 9 }) (tallyMsg .wait 4), tallyMsg .wait 4, sole_messageAt _ _ ⟨rfl, rfl, rfl, rfl, rfl⟩ rfl, rfl, by decide, rfl⟩⟩

theorem witness_WaitsAreCheckedInOrderOfArrival :
    (∃ (w : WaitReg) (v : Nat), v < w.n) ∧ (∃ (w : WaitReg) (v : Nat), w.n ≤ v) ∧
    (∃ s m, messageAt s 0 m ∧ m.act = .inc ∧ (s.tally m.home m.index).value.toNat + m.n < 2 ^ 32 ∧ (s.tally m.home m.index).waits.length = 2) :=
  ⟨⟨{ n := 1 }, 0, by decide⟩, ⟨{ n := 1 }, 1, by decide⟩,
   ⟨tallyState true 3 [{ core := 4, n := 9 }, { core := 5, n := 4 }] (tallyMsg .inc 1), tallyMsg .inc 1, sole_messageAt _ _ ⟨rfl, rfl, rfl, rfl, rfl⟩ rfl, rfl, by decide, rfl⟩⟩

/-- A bundle whose tally slot holds operation `op` on virtual id `vid` with N = 256, coded 0 (R166). -/
def tallyBundle (op vid : Nat) : BitVec 256 := BitVec.ofNat 256 ((op * 2 ^ 28 + vid) * 2 ^ 32)

/-- Core 0 with that bundle at its head. -/
def waitState (w : IssueWait) (op vid : Nat) : State :=
  (({ State.reset with inv := factoryInventory, contexts := [(1, some { launch := some (tallyLaunch false) })] } : State).modDie 0 fun x =>
    { x with curOp := 5 }).modCore 0 fun x =>
    { x with ctx := some 1, running := true, length := 3, held := [tallyBundle op vid], wait := w, tallies := [(2, { value := 300 })] }

theorem witness_WaitsAreSent :
    (∃ o, headWait ((waitState .none 1 5).core 0) = some o ∧ namesTally (waitState .none 1 5) 0 o.vid .wait 0 2 ∧ o.k = .wait ∧
      (waitState .none 1 5).waitReady 0 = true ∧ ((waitState .none 1 5).core 0).wait = .none ∧ o.n ≤ ((waitState .none 1 5).tally 0 2).value.toNat) ∧
    (∃ o, headWait ((waitState .none 2 6).core 0) = some o ∧ namesTally (waitState .none 2 6) 0 o.vid .waitdec 1 3 ∧ o.k = .waitdec ∧
      (waitState .none 2 6).waitReady 0 = true ∧ ((waitState .none 2 6).core 0).wait = .none ∧ 1 ≠ 0) ∧
    (∃ o, headWait ((waitState .retry 2 6).core 0) = some o ∧ namesTally (waitState .retry 2 6) 0 o.vid .waitdec 1 3 ∧ o.k = .waitdec ∧
      (waitState .retry 2 6).issues 0 = true ∧ ((waitState .retry 2 6).core 0).wait = .retry) :=
  ⟨⟨_, rfl, ⟨1, tallyLaunch false, _, rfl, rfl, rfl, rfl, rfl, rfl⟩, rfl, rfl, rfl, by decide⟩,
   ⟨_, rfl, ⟨1, tallyLaunch false, _, rfl, rfl, rfl, rfl, rfl, rfl⟩, rfl, rfl, rfl, by decide⟩,
   ⟨_, rfl, ⟨1, tallyLaunch false, _, rfl, rfl, rfl, rfl, rfl, rfl⟩, rfl, rfl, rfl⟩⟩

theorem witness_SatisfactionGrantsTheWait : ∃ (c : Nat) (s : State), isCore c = true ∧ (s.core c).wait = .satisfied :=
  ⟨0, waitState .satisfied 1 5, rfl, rfl⟩

/-- Core 0 with a tally operation at the head of its tally port. -/
def portState (o : TallyOp) : State := (waitState .none 0 0).modCore 0 fun x => { x with tallyQ := [{ op := .tally o }] }

theorem witness_IncAndDecAreSent :
    (∃ e o, tallyHead (portState { k := .inc, vid := 5 }) 0 .inc e o ∧ namesTally (portState { k := .inc, vid := 5 }) 0 o.vid .inc 0 2 ∧
      ((portState { k := .inc, vid := 5 }).tally 0 2).waits = [] ∧ ((portState { k := .inc, vid := 5 }).tally 0 2).value.toNat + o.n < 2 ^ 32) ∧
    (∃ e o, tallyHead (portState { k := .inc, vid := 6 }) 0 .inc e o ∧ namesTally (portState { k := .inc, vid := 6 }) 0 o.vid .inc 1 3) ∧
    (∃ e o, tallyHead (portState { k := .dec, vid := 5 }) 0 .dec e o ∧ namesTally (portState { k := .dec, vid := 5 }) 0 o.vid .dec 0 2 ∧
      o.n ≤ ((portState { k := .dec, vid := 5 }).tally 0 2).value.toNat) ∧
    (∃ e o, tallyHead (portState { k := .dec, vid := 6 }) 0 .dec e o ∧ namesTally (portState { k := .dec, vid := 6 }) 0 o.vid .dec 1 3) ∧
    (∃ e o, let s := portState { k := .hsig, wh := 3, marks := [(3, 1)] }
      (s.die 0).curOp ≠ 0 ∧ (s.die 0).quenched = false ∧ s.delayedHead 0 o.k = none ∧ s.headOp 0 uTally = some e ∧ e.op = .tally o ∧
        whenMet (s.core 0) o = false ∧ o.k = .hsig) :=
  ⟨⟨_, _, ⟨by decide, rfl, rfl, rfl, rfl, rfl, rfl⟩, ⟨1, tallyLaunch false, _, rfl, rfl, rfl, rfl, rfl, rfl⟩, rfl, by decide⟩,
   ⟨_, _, ⟨by decide, rfl, rfl, rfl, rfl, rfl, rfl⟩, ⟨1, tallyLaunch false, _, rfl, rfl, rfl, rfl, rfl, rfl⟩⟩,
   ⟨_, _, ⟨by decide, rfl, rfl, rfl, rfl, rfl, rfl⟩, ⟨1, tallyLaunch false, _, rfl, rfl, rfl, rfl, rfl, rfl⟩, by decide⟩,
   ⟨_, _, ⟨by decide, rfl, rfl, rfl, rfl, rfl, rfl⟩, ⟨1, tallyLaunch false, _, rfl, rfl, rfl, rfl, rfl, rfl⟩⟩,
   ⟨_, { k := .hsig, wh := 3, marks := [(3, 1)] }, by decide, rfl, rfl, rfl, rfl, rfl, rfl⟩⟩

theorem witness_HostSignalUpdatesTheEvent :
    ∃ e o, let s := portState { k := .hsig, vid := 0 }
      isCore 0 = true ∧ tallyHead s 0 .hsig e o ∧ (s.core 0).ctx = some 1 ∧ o.vid < (s.ctx 1).events ∧ s.mem.wf = true :=
  ⟨_, { k := .hsig, vid := 0 }, rfl, ⟨by decide, rfl, rfl, rfl, rfl, rfl, rfl⟩, rfl, by decide, rfl⟩

/-- A message that fills `n` slots of link 9. -/
def fillMsg (n : Nat) : TallyMsg := { ctx := 1, home := 1, index := 4, vid := 7, n := n }

theorem witness_LinkSlotsFillInOrder :
    (∃ l k, mayArrive (tallyState false 0 [] (fillMsg 1)) 0 (fillMsg 1) ∧ (tallyState false 0 [] (fillMsg 1)).launchOf 1 = some l ∧ linkOfFull l 7 = some k ∧
      fillBlocked k 1 = false ∧ ((tallyState false 0 [] (fillMsg 1)).tally 1 4).value.toNat + 1 < 2 ^ 32 ∧ ((tallyState false 0 [] (fillMsg 1)).tally 1 4).waits = []) ∧
    (∃ l k, mayArrive (tallyState true 0 [] (fillMsg 2)) 0 (fillMsg 2) ∧ (tallyState true 0 [] (fillMsg 2)).launchOf 1 = some l ∧ linkOfFull l 7 = some k ∧
      fillBlocked k 2 = true ∧ l.scheduled = true ∧ (tallyState true 0 [] (fillMsg 2)).hasRoom 0) :=
  ⟨⟨_, _, sole_mayArrive _ _ ⟨rfl, rfl, rfl, rfl, rfl⟩, rfl, rfl, by decide, by decide, rfl⟩,
   ⟨_, _, sole_mayArrive _ _ ⟨rfl, rfl, rfl, rfl, rfl⟩, rfl, rfl, by decide, rfl, by decide⟩⟩

/-- R297: an INC that passes 2^32 − 1 saturates. -/
theorem test_inc_saturates : ∃ t, exec (.tallyMessageArrive [0]) (tallyState false 0xFFFFFFFF [] (tallyMsg .inc 5)) = .next t ∧ (t.tally 0 2).value = 0xFFFFFFFF :=
  ⟨_, rfl, by decide⟩

/-- R297: a WAITDEC of 3 at 3 leaves 0. -/
theorem test_waitdec_subtracts : ∃ t, exec (.tallyMessageArrive [0]) (tallyState false 3 [] (tallyMsg .waitdec 3)) = .next t ∧ (t.tally 0 2).value = 0 ∧
    (t.core 1).wait = .satisfied := ⟨_, rfl, by decide, by decide⟩

/-! ## Matrix engines -/

/-- Core 0 with an operation at the head of engine 0's queue, its engine as given, and memory `m`; shelf of core 0 is at 0x200000000000. -/
def engState (o : EngOp) (x : Engine) (m : Memory) (held : Option Nat) : State :=
  (({ State.reset with mem := m, inv := factoryInventory } : State).modDie 0 fun d => { d with curOp := 5 }).modCore 0 fun y =>
    { y with ctx := some 1, running := true, e0 := x, eng0 := [{ op := .engine o, held := held }] }

theorem witness_ShapeAndSwap :
    (∃ q m, isCore 0 = true ∧ (eng ((engState (.shape .os8) {} [] none).core 0) 0).errs = [] ∧ (engState (.shape .os8) {} [] none).headEng 0 0 = some (q, .shape m)) ∧
    (∃ q, (engState .swap { mode := .wsN128, shadowFull := true } [] none).headEng 0 0 = some (q, .swap) ∧
      isWs (eng ((engState .swap { mode := .wsN128, shadowFull := true } [] none).core 0) 0).mode = true ∧
      (eng ((engState .swap { mode := .wsN128, shadowFull := true } [] none).core 0) 0).shadowFull = true) ∧
    (∃ q, (engState .swap { mode := .wsN512 } [] none).headEng 0 0 = some (q, .swap) ∧
      isWs (eng ((engState .swap { mode := .wsN512 } [] none).core 0) 0).mode = true ∧
      (eng ((engState .swap { mode := .wsN512 } [] none).core 0) 0).shadowFull = false) :=
  ⟨⟨_, .os8, rfl, rfl, rfl⟩, ⟨_, rfl, rfl, rfl⟩, ⟨_, rfl, rfl, rfl⟩⟩

/-- A valid C11 block of generation 3: 128 code words of zero (R237 to R241). -/
def zeroBlock : List Byte := le 4 (crc12 (List.replicate 176 0) * 2 ^ 20 + 128 * 2 ^ 12 + 3 * 2 ^ 8) ++ List.replicate 176 0

/-- `n` such blocks from `key` up. -/
def blocksMem (key : Nat) : Nat → Memory
  | 0 => []
  | n + 1 => writeBytes (blocksMem key n) (key + n * 180) zeroBlock

theorem zeroBlock_length : zeroBlock.length = 180 := by
  unfold zeroBlock; rw [List.length_append, List.length_replicate]; rfl

theorem blocksMem_wf (key n : Nat) : Memory.wf (blocksMem key n) = true := by
  induction n with
  | zero => rfl
  | succ n ih => exact Memory.wf_writeBytes _ _ _ ih

theorem blocksMem_read (key n b : Nat) (h : b < n) : readBytes (blocksMem key n) (key + b * 180) 180 = zeroBlock := by
  induction n with
  | zero => omega
  | succ n ih =>
    unfold blocksMem
    by_cases hb : b = n
    · subst hb
      apply List.ext_getElem
      · simp [readBytes, zeroBlock_length]
      · intro i h1 h2
        simp only [readBytes, List.getElem_map, List.getElem_range]
        exact readByte_writeBytes_in _ _ _ _ h2 (blocksMem_wf key b)
    · rw [← ih (by omega)]
      unfold readBytes
      refine List.map_congr_left fun i hi => ?_
      rw [List.mem_range] at hi
      exact readByte_writeBytes_out _ _ _ (by left; omega)

/-- The table that reads such blocks. -/
def zeroTable : CaskTable := { kind := 1, gen := 3, entries := List.replicate 8 0x80 }
def zeroEngine (mode : EngMode) : Engine := { mode := mode, tables := [(0, { st := .loaded, table := zeroTable })] }

set_option maxRecDepth 20000 in
theorem zeroBlock_ok : blockFault 1 zeroTable none zeroBlock = none := by decide +kernel

theorem blocksMem_hdr (key n b : Nat) (h : b < n) : readLe (blocksMem key n) (key + b * 180) 4 = ofLe (zeroBlock.take 4) := by
  rw [← blocksMem_read key n b h]
  rfl

set_option maxRecDepth 20000 in
theorem zeroBlock_gen : hdrGen (ofLe (zeroBlock.take 4)) = 3 := by decide +kernel

theorem streamBlock_blocks (key n b seq : Nat) (mode : EngMode) (kind : Option Nat) (diff : Bool) (hk : kind = none ∨ kind = some 1) (hb : b < n) :
    streamBlock (blocksMem key n) (zeroEngine mode) seq key kind none b diff = (.ok (decodeBlock zeroTable zeroBlock), 1) := by
  have hres : residentTable (zeroEngine mode) 3 seq = some zeroTable := rfl
  have hc : caskBytes 1 = 180 := rfl
  have hkind : kind.getD 1 = 1 := by rcases hk with h | h <;> rw [h] <;> rfl
  have hkt : kind.getD zeroTable.kind = 1 := hkind
  unfold streamBlock
  simp only [hkind, hc, blocksMem_hdr key n b hb, zeroBlock_gen, hres, hkt, blocksMem_read key n b hb, zeroBlock_ok]

theorem readStream_blocks (key seq : Nat) (mode : EngMode) (n : Nat) : ∀ (j b : Nat) (kind : Option Nat), (kind = none ∨ kind = some 1) → b + j ≤ n →
    ∃ el, readStream (blocksMem key n) (zeroEngine mode) seq key none j b kind = .ok el := by
  intro j
  induction j with
  | zero => exact fun b kind _ _ => ⟨[], rfl⟩
  | succ j ih =>
    intro b kind hk hb
    obtain ⟨el, he⟩ := ih (b + 1) (some 1) (.inr rfl) (by omega)
    refine ⟨decodeBlock zeroTable zeroBlock ++ el, ?_⟩
    unfold readStream
    rw [streamBlock_blocks key n b seq mode kind false hk (by omega)]
    simp only [he, Stream.after]

theorem readVariant_blocks (key seq : Nat) (mode : EngMode) (n : Nat) : ∀ (j b : Nat) (kind dkind : Option Nat), (kind = none ∨ kind = some 1) →
    (dkind = none ∨ dkind = some 1) → b + j ≤ n → ∃ el, readVariant (blocksMem key n) (zeroEngine mode) seq key key none none j b kind dkind = .ok el := by
  intro j
  induction j with
  | zero => exact fun b kind dkind _ _ _ => ⟨[], rfl⟩
  | succ j ih =>
    intro b kind dkind hk hd hb
    obtain ⟨el, he⟩ := ih (b + 1) (some 1) (some 1) (.inr rfl) (.inr rfl) (by omega)
    refine ⟨List.zipWith variantAdd (decodeBlock zeroTable zeroBlock) (decodeBlock zeroTable zeroBlock) ++ el, ?_⟩
    unfold readVariant
    rw [streamBlock_blocks key n b seq mode kind false hk (by omega)]
    simp only [streamBlock_blocks key n b seq mode dkind true hd (by omega : b < n), he, Stream.after]

/-- The first address of core 0's shelf. -/
def shelf0 : Nat := 0x200000000000

/-- The stream of blocks, not unfolded by what follows. -/
@[irreducible] def bigMem (key n : Nat) : Memory := blocksMem key n

theorem bigMem_eq (key n : Nat) : bigMem key n = blocksMem key n := by unfold bigMem; rfl

theorem streamBytes_blocks (mode : EngMode) (seq n j : Nat) (h : 0 < n) : streamBytes (bigMem shelf0 n) (zeroEngine mode) seq shelf0 j = j * 180 := by
  rw [bigMem_eq]
  have := blocksMem_hdr shelf0 n 0 h
  rw [Nat.zero_mul, Nat.add_zero] at this
  unfold streamBytes streamKind
  rw [this, zeroBlock_gen]
  rfl

theorem readStream_state (s : State) (x : Engine) (mode : EngMode) (h1 : s.mem = bigMem shelf0 512) (h2 : x = zeroEngine mode)
    (h3 : s.slotGen 0 shelf0 = none) : ∃ el, readStream s.mem x 0 shelf0 (s.slotGen 0 shelf0) 512 0 none = .ok el := by
  rw [h1, h2, h3, bigMem_eq]; exact readStream_blocks shelf0 0 mode 512 512 0 none (.inl rfl) (Nat.le_refl _)

theorem readVariant_state (s : State) (x : Engine) (mode : EngMode) (h1 : s.mem = bigMem shelf0 512) (h2 : x = zeroEngine mode)
    (h3 : s.slotGen 0 shelf0 = none) :
    ∃ el, readVariant s.mem x 0 shelf0 shelf0 (s.slotGen 0 shelf0) (s.slotGen 0 shelf0) 512 0 none none = .ok el := by
  rw [h1, h2, h3, bigMem_eq]; exact readVariant_blocks shelf0 0 mode 512 512 0 none none (.inl rfl) (.inl rfl) (Nat.le_refl _)

/-- A TILE_OS of one k-step, west stream at row 200 of the shelf, north stream at row 0. -/
def osOp (coded : Bool) : EngOp := .tileOs 0 false 0 0 coded 0x200000032000 0 0x200000000000 0 1

theorem witness_OutputStationaryPassAccumulates :
    (∃ q, let s := engState (osOp false) {} [] none
      isCore 0 = true ∧ s.marks = [] ∧ (eng (s.core 0) 0).errs = [] ∧ s.headEng 0 0 = some (q, osOp false) ∧ osRows (eng (s.core 0) 0).mode = some 128 ∧ (eng (s.core 0) 0).await0 = false ∧
      s.headRead 0 1 { q with follow := false } (alignTo 1024 0x200000032000) (ceilDiv 128 1 * 1024) false = .inl 0x200000032000 ∧
      s.northRead 0 0 { q with follow := false } (alignTo 1024 0x200000000000) (128 * 1 * 1024) = .inl 0x200000000000) ∧
    (∃ q el, let s := engState (osOp true) (zeroEngine .os128) (bigMem shelf0 512) none
      isCore 0 = true ∧ s.marks = [] ∧ (eng (s.core 0) 0).errs = [] ∧ s.headEng 0 0 = some (q, osOp true) ∧ osRows (eng (s.core 0) 0).mode = some 128 ∧ (eng (s.core 0) 0).await0 = false ∧
      s.headRead 0 1 { q with follow := false } (alignTo 1024 0x200000032000) (ceilDiv 128 1 * 1024) false = .inl 0x200000032000 ∧
      s.unitAcc 0 (alignTo 1024 0x200000000000) 1 true = .ok shelf0 ∧
      s.northRead 0 0 { q with follow := false } (alignTo 1024 0x200000000000) (streamBytes s.mem (eng (s.core 0) 0) q.seq shelf0 512) = .inl shelf0 ∧
      readStream s.mem (eng (s.core 0) 0) q.seq shelf0 (s.slotGen 0 shelf0) (512 - blocksIn (eng (s.core 0) 0)) (blocksIn (eng (s.core 0) 0))
        (kindFrom s.mem (eng (s.core 0) 0) q.seq shelf0 (blocksIn (eng (s.core 0) 0))) = .ok el) := by
  let s := engState (osOp true) (zeroEngine .os128) (bigMem shelf0 512) none
  obtain ⟨el, hel⟩ := readStream_state s (eng (s.core 0) 0) .os128 rfl rfl rfl
  refine ⟨⟨_, rfl, rfl, rfl, rfl, rfl, rfl, by decide +kernel, by decide +kernel⟩, _, el, rfl, rfl, rfl, rfl, rfl, rfl, ?_, by decide +kernel, ?_, hel⟩
  · decide +kernel
  have h : streamBytes (engState (osOp true) (zeroEngine .os128) (bigMem shelf0 512) none).mem
    (eng ((engState (osOp true) (zeroEngine .os128) (bigMem shelf0 512) none).core 0) 0) 0 shelf0 512 = 92160 := streamBytes_blocks .os128 0 512 512 (by omega)
  show State.northRead _ 0 0 _ _ (streamBytes _ _ 0 shelf0 512) = _
  rw [h]
  decide +kernel

theorem witness_WeightStationaryPassFillsItsHalf :
    ∃ q, let s := engState (.tileWs 1 false 0 0x200000000000 0 1024) { mode := .wsN128 } [] none
      isCore 0 = true ∧ s.marks = [] ∧ (eng (s.core 0) 0).errs = [] ∧ s.headEng 0 0 = some (q, .tileWs 1 false 0 0x200000000000 0 1024) ∧ isWs (eng (s.core 0) 0).mode = true ∧
      sameClass 0 (eng (s.core 0) 0).wFmt = true ∧ 1024 ≤ wsLimit (eng (s.core 0) 0).mode ∧ (eng (s.core 0) 0).undrained1 = 0 ∧
      s.headRead 0 1 q (alignTo 1024 0x200000000000) (ceilDiv (1024 * tokenBytes (eng (s.core 0) 0).mode) 1024 * 1024) false = .inl 0x200000000000 :=
  ⟨_, rfl, rfl, rfl, rfl, rfl, rfl, by decide, rfl, by decide +kernel⟩

/-- A LOAD_SHADOW from the first row of the shelf; a variant takes its differences from there as well. -/
def loadOp (coded var : Bool) : EngOp := .loadShadow 0 coded var 0x200000000000 0 0x200000000000

theorem witness_ShadowIsLoaded :
    (∃ q, let s := engState (loadOp false false) { mode := .wsN512 } [] (some 3)
      isCore 0 = true ∧ s.marks = [] ∧ (eng (s.core 0) 0).errs = [] ∧ s.headEng 0 0 = some (q, loadOp false false) ∧ isWs (eng (s.core 0) 0).mode = true ∧
      (eng (s.core 0) 0).shadowFull = false ∧ q.held = some 3 ∧ s.northRead 0 0 q (alignTo 1024 0x200000000000) 131072 = .inl shelf0) ∧
    (∀ var, ∃ q el, let s := engState (loadOp true var) (zeroEngine .wsN128) (bigMem shelf0 512) (some 3)
      isCore 0 = true ∧ s.marks = [] ∧ (eng (s.core 0) 0).errs = [] ∧ s.headEng 0 0 = some (q, loadOp true var) ∧ isWs (eng (s.core 0) 0).mode = true ∧
      (eng (s.core 0) 0).shadowFull = false ∧ q.held = some 3 ∧ s.unitAcc 0 (alignTo 1024 0x200000000000) 1 true = .ok shelf0 ∧
      s.northRead 0 0 q (alignTo 1024 0x200000000000) (streamBytes s.mem (eng (s.core 0) 0) q.seq shelf0 512) = .inl shelf0 ∧
      (var = false ∧ readStream s.mem (eng (s.core 0) 0) q.seq shelf0 (s.slotGen 0 shelf0) (512 - blocksIn (eng (s.core 0) 0)) (blocksIn (eng (s.core 0) 0))
        (kindFrom s.mem (eng (s.core 0) 0) q.seq shelf0 (blocksIn (eng (s.core 0) 0))) = .ok el ∨
       var = true ∧ readVariant s.mem (eng (s.core 0) 0) q.seq shelf0 shelf0 (s.slotGen 0 shelf0) (s.slotGen 0 shelf0)
        (512 - blocksIn (eng (s.core 0) 0)) (blocksIn (eng (s.core 0) 0)) (kindFrom s.mem (eng (s.core 0) 0) q.seq shelf0 (blocksIn (eng (s.core 0) 0)))
        (kindFrom s.mem (eng (s.core 0) 0) q.seq shelf0 (blocksIn (eng (s.core 0) 0))) = .ok el)) := by
  refine ⟨⟨_, rfl, rfl, rfl, rfl, rfl, rfl, rfl, by decide +kernel⟩, fun var => ?_⟩
  let s := engState (loadOp true var) (zeroEngine .wsN128) (bigMem shelf0 512) (some 3)
  obtain ⟨el, hel⟩ := readStream_state s (eng (s.core 0) 0) .wsN128 rfl rfl rfl
  obtain ⟨ev, hev⟩ := readVariant_state s (eng (s.core 0) 0) .wsN128 rfl rfl rfl
  have h : streamBytes (engState (loadOp true var) (zeroEngine .wsN128) (bigMem shelf0 512) (some 3)).mem
    (eng ((engState (loadOp true var) (zeroEngine .wsN128) (bigMem shelf0 512) (some 3)).core 0) 0) 0 shelf0 512 = 92160 :=
    streamBytes_blocks .wsN128 0 512 512 (by omega)
  cases var with
  | false =>
    refine ⟨_, el, rfl, rfl, rfl, rfl, rfl, rfl, rfl, by decide +kernel, ?_, .inl ⟨rfl, hel⟩⟩
    show State.northRead _ 0 0 _ _ (streamBytes _ _ 0 shelf0 512) = _
    rw [h]; decide +kernel
  | true =>
    refine ⟨_, ev, rfl, rfl, rfl, rfl, rfl, rfl, rfl, by decide +kernel, ?_, .inr ⟨rfl, hev⟩⟩
    show State.northRead _ 0 0 _ _ (streamBytes _ _ 0 shelf0 512) = _
    rw [h]; decide +kernel

/-- A DRAIN of 32 values of half 1 in a format, to row 0 of the shelf, its scales to row 1. -/
def drainState (fmt : Nat) : State := engState (.drain 3 fmt false false 0x200000000000 0x200000000400 32 0 0) { mode := .wsN128 } [] none

theorem witness_DrainStoresTheBank : ∀ fmt ∈ [0, 5], ∃ q k sk, let s := drainState fmt
      isCore 0 = true ∧ s.mem.wf = true ∧ (eng (s.core 0) 0).errs = [] ∧ s.headEng 0 0 = some (q, .drain 3 fmt false false 0x200000000000 0x200000000400 32 0 0) ∧
      (3 < 2 ↔ (osRows (eng (s.core 0) 0).mode).isSome = true) ∧
      (let r := convertAll fmt ((List.range 32).map (drainValue (eng (s.core 0) 0) 3 128)) fun i v => narrow fmt (s.drainRound 0 0 false 0 0 i) false v;
        s.headWrite 0 1 q (alignTo 1024 0x200000000000) r.1.length false = .inl k ∧
        (if isMx fmt then s.headWrite 0 1 q (alignTo 1024 0x200000000400) r.2.length false else .inl 0) = .inl sk) := by
  intro fmt h
  simp only [List.mem_cons, List.mem_nil_iff, or_false] at h
  rcases h with rfl | rfl
  · exact ⟨_, shelf0, 0, rfl, rfl, rfl, rfl, by decide, by decide +kernel, rfl⟩
  · exact ⟨_, shelf0, shelf0 + 1024, rfl, rfl, rfl, rfl, by decide, by decide +kernel, by decide +kernel⟩

/-- A bank that a DRAIN takes, to row 0 of the shelf. -/
def bankDrainState : State := engState (.drain 0 0 false false 0x200000000000 0 32 0 0) {} [] none

theorem witness_DrainStoresTheBank_bank : ∃ q, let s := bankDrainState
      (0 < 2 ↔ (osRows (eng (s.core 0) 0).mode).isSome = true) ∧ s.headEng 0 0 = some (q, .drain 0 0 false false 0x200000000000 0 32 0 0) ∧
      (let r := convertAll 0 ((List.range 32).map (drainValue (eng (s.core 0) 0) 0 128)) fun i v => narrow 0 (s.drainRound 0 0 false 0 0 i) false v;
        s.headWrite 0 1 q (alignTo 1024 0x200000000000) r.1.length false = .inl shelf0) :=
  ⟨_, by decide, rfl, by decide +kernel⟩

/-- Engine 0 in weight-stationary mode with a full shadow, in which word 5 holds an error. -/
def markedShadow (m : ErrMark) : State := engState .swap { mode := .wsN128, shadowFull := true, errs := [(3 * 2 ^ 20 + 5, m)] } [] none

theorem witness_FailedChecksAreReported :
    (∃ q, bankDrainState.arithTold 0 = false ∧ bankDrainState.hasRoom 0 ∧ (eng (bankDrainState.core 0) 0).errs = [] ∧ isMx 0 = false ∧
      (0 < 2 ↔ (osRows (eng (bankDrainState.core 0) 0).mode).isSome = true) ∧ bankDrainState.headEng 0 0 = some (q, .drain 0 0 false false 0x200000000000 0 32 0 0) ∧
      bankDrainState.headWrite 0 1 q (alignTo 1024 0x200000000000) (packElems (elemBits 0) (List.replicate 32 0)).length false = .inl shelf0) ∧
    (∃ q, let s := engState (.ew 0 1 true 0 0 0 0 0 5 0 64) { mode := .elementwise } [] none
      s.arithTold 0 = false ∧ s.hasRoom 0 ∧ (eng (s.core 0) 0).errs = [] ∧ (eng (s.core 0) 0).mode = .elementwise ∧
        s.headEng 0 0 = some (q, .ew 0 1 true 0 0 0 0 0 5 0 64)) ∧
    (∀ m, ∃ q, let s := markedShadow m
      s.arithTold 0 = false ∧ s.hasRoom 0 ∧ (eng (s.core 0) 0).errs = [(3 * 2 ^ 20 + 5, m)] ∧ s.headEng 0 0 = some (q, .swap) ∧ isWs (eng (s.core 0) 0).mode = true ∧
        (eng (s.core 0) 0).shadowFull = true) :=
  ⟨⟨_, rfl, by decide, rfl, rfl, by decide, rfl, by decide +kernel⟩, ⟨_, rfl, by decide, rfl, rfl, rfl⟩, fun _ => ⟨_, rfl, (by decide : 0 < 256), rfl, rfl, rfl, rfl⟩⟩

/-- An EW of 64 elements: `xsrc` 0 takes both sources from ports, else half 0 and a scalar. -/
def ewOperation (xsrc : Nat) (ysc : Bool) : EngOp := .ew 0 xsrc ysc 1 0 0 0x200000000000 0 0x200000000400 0 64

theorem witness_ElementWiseOperationsApplyToEveryElement :
    (∃ q, let s := engState (ewOperation 0 false) { mode := .elementwise } [] none
      isCore 0 = true ∧ s.marks = [] ∧ (eng (s.core 0) 0).errs = [] ∧ s.headEng 0 0 = some (q, ewOperation 0 false) ∧ (eng (s.core 0) 0).mode = .elementwise ∧
      s.headRead 0 1 q (alignTo 1024 0x200000000000) (portBytes 0 64) false = .inl shelf0 ∧
      s.northRead 0 0 q (alignTo 1024 0x200000000400) (portBytes 0 64) = .inl (shelf0 + 1024)) ∧
    (∃ q, let s := engState (ewOperation 1 true) { mode := .elementwise } [] none
      isCore 0 = true ∧ s.marks = [] ∧ (eng (s.core 0) 0).errs = [] ∧ s.headEng 0 0 = some (q, ewOperation 1 true) ∧ (eng (s.core 0) 0).mode = .elementwise) :=
  ⟨⟨_, rfl, rfl, rfl, rfl, rfl, by decide +kernel, by decide +kernel⟩, ⟨_, rfl, rfl, rfl, rfl, rfl⟩⟩

/-! ## The finishing unit and the mover -/

/-- Core 0 about to perform a finishing operation on 32 elements of its shelf: source at row 0 (scales row 1), destination row 2 (scales row 3). -/
def finOperation (k : FinK) (fi fo : Nat) : FinOp :=
  { k := k, fmtIn := fi, fmtOut := fo, s := 0x200000000000, ss := 0x200000000400, d := 0x200000000800, ds := 0x200000000C00, n := 32 }
def finState (k : FinK) (fi fo : Nat) : State := headState 0 uFinish (.finish (finOperation k fi fo)) []

/-- Every place of the operation can be reached: its 32 results take 32 bytes and 1 byte of scales in format 5, and 64 bytes in format 0. -/
theorem witness_FinishingFunctionsApplyToEveryElement : ∀ k ∈ [FinK.exp, .rcp, .rsqrt, .gelu, .silu, .cvt, .drop],
    (∃ e o, let s := finState k 0 5
      s.marks = [] ∧ s.mem.wf = true ∧ (s.core 0).finErrs = [] ∧ s.headFin 0 k = some (e, o) ∧
      s.headRead 0 uFinish e (alignTo 1024 o.s.toNat) (portBytes o.fmtIn o.n) false = .inl 0x200000000000 ∧
      s.headWrite 0 uFinish e (alignTo 1024 o.d.toNat) 32 false = .inl 0x200000000800 ∧
      s.headWrite 0 uFinish e (alignTo 1024 o.ds.toNat) 1 false = .inl 0x200000000C00) ∧
    (∃ e o, let s := finState k 5 0
      s.marks = [] ∧ s.mem.wf = true ∧ (s.core 0).finErrs = [] ∧ s.headFin 0 k = some (e, o) ∧
      s.headRead 0 uFinish e (alignTo 1024 o.s.toNat) (portBytes o.fmtIn o.n) false = .inl 0x200000000000 ∧
      s.headRead 0 uFinish e (alignTo 1024 o.ss.toNat) (ceilDiv o.n 32) false = .inl 0x200000000400 ∧
      s.headWrite 0 uFinish e (alignTo 1024 o.d.toNat) 64 false = .inl 0x200000000800 ∧ isMx o.fmtOut = false ∧ s.arithTold 0 = false ∧ s.hasRoom 0 ∧
      s.headWrite 0 uFinish e (alignTo 1024 o.d.toNat) (packElems (elemBits o.fmtOut) (List.replicate o.n 0)).length false = .inl 0x200000000800) := by
  intro k h
  simp only [List.mem_cons, List.mem_nil_iff, or_false] at h
  rcases h with rfl | rfl | rfl | rfl | rfl | rfl | rfl <;>
    exact ⟨⟨_, _, rfl, rfl, rfl, rfl, by decide +kernel, by decide +kernel, by decide +kernel⟩,
      ⟨_, _, rfl, rfl, rfl, rfl, by decide +kernel, by decide +kernel, by decide +kernel, rfl, rfl, by decide, by decide +kernel⟩⟩

/-- The bound of each function holds some value on the input 1. -/
theorem witness_FinishingSpecialInputs : ∃ m x, ofFp32 0x3F800000 = .fin false m x ∧ m ≠ 0 ∧ ∀ k ∈ [FinK.exp, .rcp, .rsqrt, .gelu, .silu],
    keyFrom ((finEncl k false m x).1 - finError k (finEncl k false m x)) ≤ keyTo ((finEncl k false m x).2 + finError k (finEncl k false m x)) :=
  ⟨2 ^ 23, -23, by decide +kernel, by decide, by decide +kernel⟩

set_option maxRecDepth 20000 in
theorem witness_SampleStoresItsIndex :
    (∃ e o, (finState .sample 2 0).marks = [] ∧ (finState .sample 2 0).mem.wf = true ∧ ((finState .sample 2 0).core 0).finErrs = [] ∧ (finState .sample 2 0).headFin 0 .sample = some (e, o) ∧
      (finState .sample 2 0).headRead 0 uFinish e (alignTo 1024 o.s.toNat) (4 * o.n) false = .inl 0x200000000000 ∧
      (finState .sample 2 0).headWrite 0 uFinish e (alignTo 8 o.d.toNat) 8 false = .inl 0x200000000800) ∧
    (∃ l : List Nat, l.foldl fp32Add 0 = 0) ∧ (∃ l : List Nat, l ≠ [] ∧ l.foldl fp32Add 0 ≠ 0 ∧ l.foldl fp32Add 0 ≠ f32Inf) :=
  ⟨⟨_, _, rfl, rfl, rfl, rfl, rfl, rfl⟩, ⟨[], rfl⟩, ⟨[0x3F800000], by decide, by decide +kernel, by decide +kernel⟩⟩

/-- Core 0 about to perform a mover operation; `launch` gives context 1 a launch in dynamic mode. -/
def moverState (o : MoverOp) : State :=
  { headState 0 uMover (.mover o) [(0x200000000000, 0x2A)] with contexts := [(1, some { launch := some {} })], owners := [(0, .package)] }

theorem witness_CopyAndFillMoveTheirBytes_copy :
    ∃ e, let s := moverState (.copy 0x200000000000 0x200000000400 64)
      s.headMover 0 = some (e, .copy 0x200000000000 0x200000000400 64) ∧ s.copyWaits 0 0x200000000000 64 = false ∧ s.copyWaits 0 0x200000000400 64 = false ∧ s.nearest 0x200000000000 = .here 0x200000000000 ∧
      s.nearest 0x200000000400 = .here 0x200000000400 ∧ meets 0x200000000000 64 0x200000000400 64 = false ∧ s.pinned 0x200000000400 64 false = false ∧
      s.endGuard 0 false 0x200000000000 64 = none ∧ s.endGuard 0 true 0x200000000400 64 = none ∧ s.marks = [] ∧ s.mem.wf = true ∧
      s.copyEnd 0 0x200000000000 0x200000000000 64 false = .store 0x200000000000 ∧ s.copyEnd 0 0x200000000400 0x200000000400 64 true = .store 0x200000000400 :=
  ⟨_, rfl, by decide +kernel, by decide +kernel, by decide +kernel, by decide +kernel, by decide +kernel, by decide +kernel, by decide +kernel, by decide +kernel, rfl, rfl, by decide +kernel, by decide +kernel⟩

theorem witness_CopyAndFillMoveTheirBytes_cellar :
    ∃ e, let s := moverState (.copy 0x200000000000 0x400 64)
      s.headMover 0 = some (e, .copy 0x200000000000 0x400 64) ∧ s.copyWaits 0 0x400 64 = false ∧ s.nearest 0x400 = .here 0x400 ∧ s.pinned 0x400 64 false = false ∧
      s.endGuard 0 true 0x400 64 = none ∧ s.copyEnd 0 0x400 0x400 64 true = .cellar 0x400 ∧ s.trackedFree 1 ≠ 0 ∧ ((s.core 0).ctx.getD noCtx) = 1 ∧
      (match s.readEnd 0 (.store 0x200000000000) 64 with
        | .ok u l => (u.writeEnd 0 (.cellar 0x400) l).isSome
        | _ => false) = true :=
  ⟨_, rfl, by decide +kernel, by decide +kernel, by decide +kernel, by decide +kernel, by decide +kernel, by decide +kernel, by decide +kernel, by decide +kernel⟩

theorem witness_CopyAndFillMoveTheirBytes_held :
    let s := (moverState (.copy 0x200000000000 0x400 64)).modCtx 1 fun x => { x with tracked := 1 }
    let t := s.modCore 0 fun x => { x with mover := x.mover ++ [{ op := .mover (.copy 0 0 8), tracked := 1 }] }
    t.copyEnd 0 0x400 0x400 64 true = .cellar 0x400 ∧ t.trackedFree 1 = 0 ∧ t.schedCtx 1 = false :=
  ⟨by decide +kernel, by decide +kernel, by decide +kernel⟩

theorem witness_CopyAndFillMoveTheirBytes_fill :
    ∃ e, let s := moverState (.fill 0x1122334455667788 0x200000000400 64)
      s.headMover 0 = some (e, .fill 0x1122334455667788 0x200000000400 64) ∧ s.marks = [] ∧ s.mem.wf = true ∧ isFar 0x200000000400 = false ∧ s.copyWaits 0 0x200000000400 64 = false ∧
      farOf 0x200000000400 = .here 0x200000000400 ∧ s.moverEnd 0 0x200000000400 64 true true = .store 0x200000000400 ∧
      s.pinned 0x200000000400 64 false = false ∧ s.endGuard 0 true 0x200000000400 64 = none :=
  ⟨_, rfl, rfl, rfl, by decide +kernel, by decide +kernel, by decide +kernel, by decide +kernel, by decide +kernel, by decide +kernel⟩

theorem witness_CopyAndFillMoveTheirBytes_nothing :
    (∃ e, (moverState (.copy 0x200000000000 0 0)).headMover 0 = some (e, .copy 0x200000000000 0 0) ∧ (isFar 0x200000000000 && isFar 0) = false) ∧
    (∀ g v : Nat, farOf 0 ≠ .tally g v) ∧ (∃ e, (moverState (.fill 0 0 0)).headMover 0 = some (e, .fill 0 0 0) ∧ isFar 0 = false) := by
  have h : farOf 0 = .here 0 := by decide +kernel
  exact ⟨⟨_, rfl, by decide⟩, fun g v => by rw [h]; exact Far.noConfusion, ⟨_, rfl, by decide⟩⟩

/-- The geometry of an operand of 1 row of 4 elements (R162). -/
def smallGeo : Word := 0x0001000400000400

/-- The places of a small layout operation in the shelf of core 0: source row 0 (scales row 1), stream from row 4, scale stream from row 400. -/
def layoutWitness (o : MoverOp) (fmt r cc lo slo db sdb : Nat) : Prop := ∃ e, let s := moverState o
  let g := storedOf false fmt 0x200000000000 (if isMx fmt then 0x200000000400 else 0) 0x0001000400000400 0
  s.headMover 0 = some (e, o) ∧ layoutReady s 0 e g r (if cc = 0 then g.opCols else cc)
    0x200000000000 0x200000000400 0x200000001000 0x200000064000 lo slo db sdb 0x200000001000 (if isMx fmt then 0x200000064000 else 0)

set_option maxRecDepth 4000 in
theorem witness_SkewWestWritesItsStream :
    layoutWitness (.skewW false 0 0x200000000000 0x200000000400 0x200000001000 0x200000064000 smallGeo 0 0 true true) 0 128 0 0 0 131072 16384 ∧
    layoutWitness (.skewW false 5 0x200000000000 0x200000000400 0x200000001000 0x200000064000 smallGeo 0 4 true true) 5 8 0 0 0 1024 1024 ∧
    layoutWitness (.skewW false 5 0x200000000000 0x200000000400 0x200000001000 0x200000064000 smallGeo 16 4 false true) 5 8 0 1024 2048 2048 3072 :=
  ⟨⟨_, rfl, by unfold layoutReady; decide +kernel⟩, ⟨_, rfl, by unfold layoutReady; decide +kernel⟩, ⟨_, rfl, by unfold layoutReady; decide +kernel⟩⟩

set_option maxRecDepth 4000 in
theorem witness_SkewNorthWritesItsStream :
    layoutWitness (.skewN false 0 0x200000000000 0x200000000400 0x200000001000 0x200000064000 smallGeo 0 0 true true) 0 1 128 0 0 131072 16384 ∧
    layoutWitness (.skewN false 5 0x200000000000 0x200000000400 0x200000001000 0x200000064000 smallGeo 0 0 true true) 5 1 128 0 0 131072 16384 :=
  ⟨⟨_, rfl, by unfold layoutReady; decide +kernel⟩, ⟨_, rfl, by unfold layoutReady; decide +kernel⟩⟩

set_option maxRecDepth 4000 in
theorem witness_LayoutWritesTheWeightTile :
    layoutWitness (.layoutWs false 0 0x200000000000 0x200000000400 0x200000001000 0x200000064000 smallGeo 0 8) 0 512 128 0 0 131072 16384 ∧
    layoutWitness (.layoutWs false 5 0x200000000000 0x200000000400 0x200000001000 0x200000064000 smallGeo 0 9) 5 256 512 0 0 131072 16384 :=
  ⟨⟨_, rfl, by unfold layoutReady; decide +kernel⟩, ⟨_, rfl, by unfold layoutReady; decide +kernel⟩⟩

/-! ## Cellar and larder -/

/-- A package with its factory inventory and all channels active. -/
def tierState : State := { State.reset with inv := factoryInventory, channels := (List.range 48).map fun c => (c, { st := .active }) }

/-- The same with channel 0, on which the first frame lies, failed. -/
def lostState : State := { tierState with channels := (List.range 48).map fun c => (c, { st := if c = 0 then .failed else .active, unbacked := c = 0 }) }

/-- The same with a set of context 3 that pins the second frame's first MiB. -/
def pinState : State := { tierState with sets := [(5, some { entries := [{ src := 0x400000, length := 0x100000 }] })] }

/-- The same with the cellar die of the first frame tripped. -/
def tripState : State := tierState.modDie 68 fun x => { x with tripped := true }

theorem witness_CellarReadsAndWrites :
    (∃ s : State, accOk (.context 1) = true ∧ s.locate 64 64 = .cellar 64 ∧ s.cellarMapped 64 64 = true ∧ s.mayRead (.context 1) 64 64 = true ∧
      s.lostAt 64 64 = none ∧ s.marksIn 64 64 = [] ∧ notHeld s (.context 1) 64 64) ∧
    (∃ l : List Byte, tierState.mem.wf = true ∧ l ≠ [] ∧ tierState.locate 64 l.length = .cellar 64 ∧ tierState.cellarMapped 64 l.length = true ∧
      tierState.mayWrite (.context 1) 64 l.length = true ∧ tierState.lostAt 64 l.length = none ∧ notHeld tierState (.context 1) 64 l.length ∧
      notPinned tierState (.context 1) 64 l.length ∧ tierState.owner 0 = .unowned) ∧
    (∃ (s : State) (l : List Byte), (s.ctx 1).memLines = [] ∧ s.hasRoom (68 + cellarOf 64) ∧ l ≠ [] ∧ s.locate 64 l.length = .cellar 64 ∧ s.cellarMapped 64 l.length = true ∧
      s.mayWrite (.context 1) 64 l.length = true ∧ s.lostAt 64 l.length = some 64 ∧ (∀ p ∈ framePieces 64 l.length, (s.lostAt p.2.1 p.2.2).isSome = true) ∧
      notHeld s (.context 1) 64 l.length ∧ notPinned s (.context 1) 64 l.length) ∧
    (pinState.pinned 0x400000 3 false = true ∧ notHeld pinState (.context 1) 0x400000 3 ∧ pinState.hasRoom (68 + cellarOf 0x400000)) ∧ tripState.trafficStopped 64 64 = true :=
  ⟨⟨{ tierState with owners := [(0, .package)] }, by decide +kernel, by decide +kernel, by decide +kernel, by decide +kernel, by decide +kernel, by decide +kernel, by decide +kernel, .inl (by decide +kernel)⟩,
   ⟨[1, 2, 3], by decide +kernel, by decide, by decide +kernel, by decide +kernel, by decide +kernel, by decide +kernel, ⟨by decide +kernel, .inl (by decide +kernel)⟩, .inl (by decide +kernel), by decide +kernel⟩,
   ⟨lostState, [1, 2, 3], by decide +kernel, by decide +kernel, by decide, by decide +kernel, by decide +kernel, by decide +kernel, by decide +kernel, by decide +kernel,
    ⟨by decide +kernel, .inl (by decide +kernel)⟩, .inl (by decide +kernel)⟩,
   ⟨by decide +kernel, ⟨by decide +kernel, .inl (by decide +kernel)⟩, by decide +kernel⟩, by decide +kernel⟩

theorem witness_ForeignGranulesAreRefused : ∃ s : State, accOk (.context 1) = true ∧ s.hasRoom (68 + cellarOf 64) ∧ s.mayRead (.context 1) 64 64 = false ∧
    s.locate 64 64 = .cellar 64 ∧ s.mayWrite (.context 1) 64 3 = false ∧ s.locate 64 3 = .cellar 64 ∧
    notHeld s (.context 1) 64 64 ∧ notHeld s (.context 1) 64 3 ∧ notPinned s (.context 1) 64 3 :=
  ⟨{ tierState with owners := [(0, .context 2)] }, by decide +kernel, by decide +kernel, by decide +kernel, by decide +kernel, by decide +kernel, by decide +kernel,
    ⟨by decide +kernel, .inl (by decide +kernel)⟩, ⟨by decide +kernel, .inl (by decide +kernel)⟩, .inl (by decide +kernel)⟩

theorem witness_PatrolScrubCorrectsAndReports :
    (∃ s : State, isChannel 0 = true ∧ inService (s.channel 0).st = true ∧ (s.channel 0).held = false ∧ s.frameAt 0 0 = some 0 ∧ s.marksIn (frameAddr 0 0) frameBytes = [(3, .single)]) ∧
    (∃ s : State, isChannel 0 = true ∧ inService (s.channel 0).st = true ∧ (s.channel 0).held = false ∧ s.frameAt 0 0 = some 0 ∧ s.marksIn (frameAddr 0 0) frameBytes = [(3, .double)] ∧
      s.memParty .scrub (3 * 8) = [] ∧ s.hasRoom (68 + cellarOf (3 * 8))) :=
  ⟨⟨{ tierState with marks := [(3, .single)] }, by decide +kernel, by decide +kernel, by decide +kernel, by decide +kernel, by decide +kernel⟩,
   ⟨{ tierState with marks := [(3, .double)] }, by decide +kernel, by decide +kernel, by decide +kernel, by decide +kernel, by decide +kernel, by decide +kernel, by decide +kernel⟩⟩

theorem witness_WornFramesMove :
    (∃ s : State, isCellar 68 = true ∧ 64 ≤ s.recentCorrections (frameKey 0 5) (s.count 68) ∧ s.marks = [] ∧ s.unbacked (frameKey 0 5) = false ∧
      (s.channel (s.frameChannel (frameKey 0 5))).held = false ∧ s.tableRoom (frameKey 0 5) = true ∧ ∃ c ∈ otherChannels (s.frameChannel (frameKey 0 5)), (s.channel c).held = false ∧ (s.freeSpare c).isSome = true) ∧
    tierState.recentCorrections (frameKey 0 5) (tierState.count 68) < 64 ∧ lostState.unbacked (frameKey 0 0) = true :=
  ⟨⟨{ tierState with frames := [(frameKey 0 5, { corrections := List.replicate 64 0 })] }, by decide +kernel, by decide +kernel, rfl, by decide +kernel, by decide +kernel, by decide +kernel, 2, by decide +kernel, by decide +kernel, by decide +kernel⟩,
   by decide +kernel, by decide +kernel⟩

/-- Channel 7 in a state, with a command of kernel queue 0 on it. -/
def channelState (st : ChSt) : State :=
  ({ State.reset with channels := [(7, { st := st, drainQ := some (.kernel 0) })] } : State).setQueue (.kernel 0) (some { cmds := [{ cmd := .channelDrain 7 false, taken := true }] })

theorem witness_ChannelsDrainFailAndReturn : ∀ st ∈ [ChSt.draining, .active, .returning], ∃ q x p l, isChannel 7 = true ∧ ((channelState st).channel 7).drainQ = some q ∧
    (channelState st).queue? q = some x ∧ x.cmds = p :: l ∧ ((channelState st).channel 7).st = st ∧ ((channelState st).channel 7).failTold = false ∧
    (channelState st).hasRoom (68 + 7 / 4) ∧ (channelState st).returnHeld 7 = false ∧ (channelState st).mem.wf = true ∧ modulePasses {} = true ∧ modulePasses { gib := 32 } = false := by
  intro st h
  exact ⟨.kernel 0, _, _, _, rfl, rfl, rfl, rfl, rfl, rfl, by show ((channelState st).die 69).ledger.held.length < 256; exact (by decide : 0 < 256), rfl, rfl, rfl, rfl⟩

theorem witness_ChannelsDrainFailAndReturn_held : (((channelState .returning).modChannel 7 fun x => { x with held := true }).returnHeld 7) = true := by decide +kernel

theorem witness_ChannelsDrainFailAndReturn_moved : ({ channelState .draining with spareFrames := 1048576 } : State).toMove 7 = [] := by decide +kernel

theorem witness_ModuleEvents : ∃ n : Nat, isChannel 47 = true ∧ n ≤ 4 := ⟨4, rfl, by decide⟩

theorem witness_CellarConfigurationIsClamped :
    (∃ (v : Word) (s : State), s.admitted = true ∧ 1 ≤ bits v.toNat 16 8 ∧ bits v.toNat 16 8 ≤ 168) ∧
    (∃ (v : Word) (s : State), s.admitted = false ∧ bits v.toNat 0 16 % 8 = 0 ∧ 21848 ≤ bits v.toNat 0 16) :=
  ⟨⟨0xA80000, { State.reset with admitted := true }, rfl, by decide, by decide⟩, ⟨0x5800, .reset, rfl, by decide, by decide⟩⟩

theorem witness_LarderReads :
    (∃ s : State, accOk (.context 1) = true ∧ s.locate 0x100000000000 64 = .larder 0x100000000000 ∧ notHeld s (.context 1) 0x100000000000 64 ∧ 0x100000000000 / 4096 = (0x100000000000 + max 64 1 - 1) / 4096 ∧
      (s.die (larderDieOf 0x100000000000)).failed = none ∧ (s.ctx 1).memLines = [] ∧ s.hasRoom (larderDieOf 0x100000000000) ∧
      accOk (.injection 1) = true ∧ s.memParty (.injection 1) 0x100000000000 = []) ∧ 72 ≤ 72 ∧ 72 < 73 :=
  ⟨⟨tierState, by decide +kernel, by decide +kernel, ⟨by decide +kernel, .inl (by decide +kernel)⟩, by decide +kernel, by decide +kernel, by decide +kernel, by decide +kernel, by decide +kernel, by decide +kernel⟩, by decide, by decide⟩

theorem witness_ErasedGranulesReadZero : ∃ s : State, isCellar 79 = true ∧ s.owner 23 = .erasing ∧ (s.channel (s.frameChannel (s.tagFrame 23))).held = false ∧ 23 % 12 = 79 - 68 ∧
    ∀ e ∈ s.owners, e.1 = 24 → e.2 = .erasing → e.1 % 12 ≠ 79 - 68 :=
  ⟨{ tierState with owners := [(23, .erasing)] }, rfl, rfl, by decide +kernel, rfl, by decide⟩

/-! ## Scrub, the weight ring and training -/

theorem witness_ScrubZeroesTheStore :
    (∃ (d k : Nat) (s : State), isCompute d = true ∧ k < 4 ∧ (s.core (4 * d + k)).scrubbing = true ∧ s.hasRoom d) ∧
    (∃ (d : Nat) (s : State), isCompute d = true ∧ (s.die d).loftBusy = true ∧ s.parksOn d = []) ∧
    (∃ s : State, s.parksOn 0 = [(0, 1024)]) :=
  ⟨⟨67, 3, State.reset.modCore 271 fun x => { x with scrubbing := true }, rfl, by decide, rfl, by decide⟩,
   ⟨67, onDie 67 fun x => { x with loftBusy := true }, rfl, rfl, rfl⟩,
   ⟨{ State.reset with inv := factoryInventory, contexts := [(1, some { job := 5 })], sets := [(9, some
      { job := 5, ctx := 1, park := true, entries := [{ length := 1024 }], parked := [(0, true)] })] }, by decide +kernel⟩⟩

/-- Job 5: context 1 on logical die 0 (C0) with a launch, and weight set 9 with one entry, whose source is the first granule of the cellar. -/
def ringSet : WeightSet :=
  { job := 5, ctx := 1, slots := 4, entries := [{ tile := 2, length := 1024 }], inLaunch := true }

def ringState (w : WeightSet) (x : Crate) (die : Die) : State :=
  { State.reset with
    inv := factoryInventory, contexts := [(1, some { job := 5, launch := some {} })], sets := [(9, some w)], crates := [(0, some x)], crateNext := 1,
    owners := [(0, .package)], dies := [(0, die)] }

/-- The job's set as a training set, with its optimizer block at 0x100000 of the cellar. -/
def stepSet : WeightSet := { ringSet with kind := 1, opt := 0x100000 }

/-- A read that answers, with what it answers. -/
theorem answers_of (r : MemAns) (f : State → List Byte → Bool) (h : (match r with | .ok v l => f v l | _ => false) = true) : ∃ v l, r = .ok v l ∧ f v l = true := by
  cases r with
  | ok v l => exact ⟨v, l, rfl, h⟩
  | lost _ _ => cases h
  | unmapped => cases h

theorem stepSet_done : ∃ v, stepDone (ringState stepSet {} {}) 9 stepSet 0 v := by
  obtain ⟨v, l, h, hl⟩ := answers_of ((ringState stepSet {} {}).memRead (.injection 9) (stepsAddr stepSet (stepSet.entries.getD 0 {}).tile) 4)
    (fun _ l => decide (ofLe l = passStep stepSet (stepSet.entries.getD 0 {}).tile (passOf stepSet 0))) (by decide +kernel)
  exact ⟨v, .inr ⟨by decide, l, h, of_decide_eq_true hl⟩⟩

/-- The same set a step ahead of its records. -/
def aheadSet : WeightSet := { stepSet with steps0 := [(2, 7)] }

/-- The die that injects the entry has started the launch's grid at count 0. -/
def startedState (w : WeightSet) (l : Launch) : State :=
  { ringState w {} {} with contexts := [(1, some { job := 5, launch := some l })], dies := [(68, { grids := [{ job := some 5, started := true, anchors := [{}] }] })] }

theorem aheadSet_waits : ∃ v, stepWaits (startedState aheadSet {}) 9 aheadSet 0 v ∧ v.setSched aheadSet = false := by
  obtain ⟨v, l, h, hl⟩ := answers_of ((startedState aheadSet {}).memRead (.injection 9) (stepsAddr aheadSet (aheadSet.entries.getD 0 {}).tile) 4)
    (fun v l => decide (ofLe l ≠ passStep aheadSet (aheadSet.entries.getD 0 {}).tile (passOf aheadSet 0)) && !v.setSched aheadSet) (by decide +kernel)
  rw [Bool.and_eq_true] at hl
  exact ⟨v, ⟨by decide, l, h, of_decide_eq_true hl.1⟩, by simpa using hl.2⟩

theorem witness_PayloadsAreReadAhead :
    (∃ e, let s := ringState ringSet {} {}
      isWsid 9 = true ∧ s.set? 9 = some ringSet ∧ ringSet.inLaunch = true ∧ ringSet.entries[0]? = some e ∧ s.trafficStopped e.src e.length = false ∧ ringSet.kind = 0 ∧ stepDone s 9 ringSet 0 s ∧
      (match s.memRead (.injection 9) e.src e.length with | .ok _ _ => true | _ => false) = true) ∧
    (∃ e, let s := { ringState ringSet {} {} with owners := [(0, .context 3)] }
      s.set? 9 = some ringSet ∧ ringSet.entries[0]? = some e ∧ stepDone s 9 ringSet 0 s ∧
      (match s.memRead (.injection 9) e.src e.length with | .unmapped => true | _ => false) = true ∧ s.hasRoom (s.injectDie ringSet 0 true)) ∧
    ((ringState stepSet {} {}).trafficStopped 0 1024 = false ∧ (ringState stepSet {} {}).trafficStopped (stepsAddr stepSet 2) 4 = false ∧
      ∃ v, stepDone (ringState stepSet {} {}) 9 stepSet 0 v) ∧
    (∃ e, let s := (ringState ringSet {} {}).modDie 68 fun x => { x with tripped := true }
      s.set? 9 = some ringSet ∧ ringSet.entries[0]? = some e ∧ s.trafficStopped e.src e.length = true) ∧
    (∃ v, stepWaits (startedState aheadSet {}) 9 aheadSet 0 v) ∧
    (∃ e, let s := { ringState stepSet {} {} with owners := [(0, .context 3)] }
      s.set? 9 = some stepSet ∧ stepSet.entries[0]? = some e ∧ s.memRead (.injection 9) (stepsAddr stepSet e.tile) 4 = .unmapped ∧
      s.hasRoom (68 + cellarOf (stepsAddr stepSet e.tile))) :=
  ⟨⟨_, rfl, rfl, rfl, rfl, by decide +kernel, rfl, .inl ⟨rfl, rfl⟩, by decide +kernel⟩, ⟨_, rfl, rfl, .inl ⟨rfl, rfl⟩, by decide +kernel, by decide +kernel⟩,
   ⟨by decide +kernel, by decide +kernel, stepSet_done⟩, ⟨_, rfl, rfl, by decide +kernel⟩, (let ⟨v, h, _⟩ := aheadSet_waits; ⟨v, h⟩), ⟨_, rfl, rfl, by decide +kernel, by decide +kernel⟩⟩

theorem witness_CratesAreInjectedInPlanOrder :
    (let w := { ringSet with ready := [(0, [1, 2, 3])] }; (ringState w {} {}).injectDue w 0 ((ringState w {} {}).injectDie w 0 false) = false) ∧
    (∃ e l, let w := { ringSet with ready := [(0, [1, 2, 3])] }; let s := startedState w {}
      s.set? 9 = some w ∧ w.entries[0]? = some e ∧ w.park = false ∧ w.inLaunch = true ∧ w.nextEntry = 0 ∧ w.passInLaunch < w.passes ∧
      s.heldBack 9 ((dieStop (s.injectDie w 0 false)).getD 0) e.dir = false ∧ s.injectDue w 0 (s.injectDie w 0 false) = true ∧ stepDone s 9 w 0 s ∧
      s.payloadOf w 0 = some l ∧ w.kind = 0) ∧
    (∃ e, let s := startedState ringSet { scheduled := true }
      s.set? 9 = some ringSet ∧ ringSet.entries[0]? = some e ∧ s.heldBack 9 ((dieStop (s.injectDie ringSet 0 false)).getD 0) e.dir = false ∧
      s.injectDue ringSet 0 (s.injectDie ringSet 0 false) = true ∧ stepDone s 9 ringSet 0 s ∧
      s.payloadOf ringSet 0 = none ∧ s.setSched ringSet = true ∧ s.hasRoom (s.injectDie ringSet 0 false)) ∧
    (∃ v, (startedState aheadSet {}).injectDue aheadSet 0 ((startedState aheadSet {}).injectDie aheadSet 0 false) = true ∧
      stepWaits (startedState aheadSet {}) 9 aheadSet 0 v ∧ v.setSched aheadSet = false) :=
  ⟨by decide +kernel, ⟨_, _, rfl, rfl, rfl, rfl, rfl, by decide, by decide +kernel, by decide +kernel, .inl ⟨rfl, rfl⟩, rfl, rfl⟩,
   ⟨_, rfl, rfl, by decide +kernel, by decide +kernel, .inl ⟨rfl, rfl⟩, rfl, by decide +kernel, by decide +kernel⟩,
   (let ⟨v, h, g⟩ := aheadSet_waits; ⟨v, by decide +kernel, h, g⟩)⟩

/-- A crate of set 9 that has just left stop `p`, going clockwise. -/
def ringCrate (p home : Nat) (missed : BitVec 64) : Crate := { hdr := { wsid := 9, home := home, missed := missed }, stop := p, payload := [1, 2, 3, 4] }

/-- The crate at its next stop. -/
def arrived (x : Crate) (p : Nat) : Crate := { x with stop := p, hops := x.hops + 1 }

theorem witness_CratesPassLandOrLeave :
    (∃ x, let s := ringState ringSet (ringCrate 0 5 0) {}
      isStop 1 = true ∧ s.crate? 0 = some x ∧ x.heldAt = none ∧ nextStop x.stop x.hdr.dir = 1 ∧ (s.die (stopDie 1)).bypass = false ∧
      s.hasRoom (stopDie 1) ∧ s.set? x.hdr.wsid = some ringSet ∧ x.fillsPark = false ∧ s.landsAt ringSet (arrived x 1) (stopDie 1) = none ∧ 1 ≠ x.hdr.home) ∧
    ((((ringState ringSet (ringCrate 0 5 0) {}).modDie (stopDie 1) fun d => { d with bypass := true }).die (stopDie 1)).bypass = true) ∧
    (∃ x, let s := (ringState ringSet (ringCrate 0 5 1) {}).modDie 0 fun d => { d with curOp := 5 }
      s.crate? 0 = some x ∧ x.heldAt = none ∧ nextStop x.stop x.hdr.dir = 1 ∧ (s.die (stopDie 1)).bypass = false ∧
      s.landsAt ringSet (arrived x 1) (stopDie 1) = some 0 ∧
      s.slotsEmpty (stopDie 1) (landSlotOf ringSet x.hdr.injCount) ringSet.span = true ∧ x.hdr.carry = false ∧ 1 ≠ x.hdr.home ∧ s.mem.wf = true) ∧
    (∀ rec, ∃ x, let w := { ringSet with recirc := rec, passes := 2, passesDone := 1, passInLaunch := 1 }; let s := ringState w (ringCrate 87 0 0) {}
      s.crate? 0 = some x ∧ nextStop x.stop x.hdr.dir = 0 ∧ (s.die (stopDie 0)).bypass = false ∧
      s.landsAt w (arrived x 0) (stopDie 0) = none ∧ 0 = x.hdr.home ∧ x.hdr.carry = false ∧ x.hdr.missed = 0 ∧
      (w.recirc && decide (passNo w x + 1 < w.passes)) = rec) ∧
    (∃ x, let s := ringState ringSet (ringCrate 87 0 2) {}
      s.crate? 0 = some x ∧ s.landsAt ringSet (arrived x 0) (stopDie 0) = none ∧ 0 = x.hdr.home ∧ x.hdr.carry = false ∧ x.hdr.missed ≠ 0) :=
  ⟨⟨_, rfl, rfl, rfl, rfl, by decide +kernel, by decide +kernel, rfl, rfl, by decide +kernel, by decide⟩, by decide +kernel,
   ⟨_, rfl, rfl, rfl, by decide +kernel, by decide +kernel, by decide +kernel, rfl, by decide, by decide +kernel⟩,
   fun rec => by cases rec <;> exact ⟨_, rfl, rfl, by decide +kernel, by decide +kernel, rfl, rfl, rfl, rfl⟩,
   ⟨_, rfl, by decide +kernel, rfl, rfl, by decide⟩⟩

theorem witness_LandedCratesAreFull : ∃ l, let s := ringState ringSet {} { slots := [(0, { st := .landing, hdr := { wsid := 9, carry := true } })] }
    isCompute 0 = true ∧ (s.die 0).bypass = false ∧ (s.slot 0 0).st = .landing ∧ s.set? (s.slot 0 0).hdr.wsid = some ringSet ∧ landSlotOf ringSet (s.slot 0 0).hdr.injCount = 0 ∧
    (s.slot 0 0).hdr.carry = true ∧ (s.jobCtxs ringSet.job).head? = some 1 ∧ s.launchOf 1 = some l ∧ l.links = [] ∧
    (s.tally (ringHome 0) (ringIndex 1 ringSet.pointer)).value.toNat + 1 < 2 ^ 32 ∧ (s.tally (ringHome 0) (ringIndex 1 ringSet.pointer)).waits = [] :=
  ⟨_, rfl, rfl, rfl, rfl, rfl, rfl, rfl, rfl, rfl, by decide, rfl⟩

theorem witness_CarriesAreSent : ∃ wk x l, let w := { ringSet with kind := 1, span := 3 }
    let s := ringState w { hdr := { wsid := 9, carry := true }, heldAt := some 0 }
      { job := some 5, slots := [(1, { st := .full }), (2, { st := .full })], ringTallies := [(ringIndex 2 0, { value := 1 })] }
    s.marks = [] ∧ (s.die 0).bypass = false ∧ s.trainSet 0 0 = some (wk, w) ∧ (s.tally (ringHome 0) (ringIndex 2 0)).value ≠ 0 ∧ s.heldCarry wk 0 = some (0, x) ∧
    (s.slot 0 (landSlotOf w x.hdr.injCount + 1)).st = .full ∧ (s.jobCtxs w.job).head? = some 1 ∧ s.launchOf 1 = some l ∧ l.links = [] ∧
    (s.tally (ringHome 0) (ringIndex 3 0)).value.toNat + 1 < 2 ^ 32 ∧ (s.tally (ringHome 0) (ringIndex 3 0)).waits = [] :=
  ⟨9, { hdr := { wsid := 9, carry := true }, heldAt := some 0 }, _, rfl, rfl, rfl, by decide, by decide +kernel, rfl, rfl, rfl, rfl, by decide, rfl⟩

/-- What a station's accesses to the first granule of the cellar rest on. -/
structure StationState (s : State) (w : WeightSet) : Prop where
  spare : s.spareFrames = 0x5800
  channels : s.channels = []
  frames : s.frames = []
  marks : s.marks = []
  owners : s.owners = [(0, .package)]
  set : s.set? 9 = some w
  ctx : s.contexts = [(1, some { job := 5, launch := some {} })]

theorem StationState.keys {s : State} {w : WeightSet} (h : StationState s w) (hw : w.ctx = 1) : s.accKeys (.station 9) = .package := by
  unfold State.accKeys State.accCtx
  simp only [h.set, Option.map_some, hw]
  unfold State.keySet State.ctx State.ctx?
  rw [h.ctx]
  rfl

theorem StationState.mapped {s : State} {w : WeightSet} (h : StationState s w) {a n : Nat} (hn : 0 < n) (ha : a + n ≤ 0x200000) :
    s.locate a n = .cellar a ∧ s.cellarMapped a n = true := by
  have hl : 0x200000 ≤ s.cellarLimit := by unfold State.cellarLimit; rw [h.spare]; decide
  constructor
  · unfold State.locate
    have h1 : ¬ (windowBase < a + max n 1) := by unfold windowBase; omega
    have h2 : a + max n 1 ≤ s.cellarLimit := by omega
    simp [h1, h2]
  · have ht : 0x200000 ≤ s.tagBase := by
      unfold State.tagBase State.dataGranules
      rw [h.spare]
      decide
    unfold State.cellarMapped
    have h2 : a + max n 1 ≤ s.tagBase := by omega
    simp only [h2, decide_true, Bool.true_and, List.all_eq_true]
    intro i _
    unfold State.channel
    rw [h.channels]
    simp [tabGet]

theorem granules_first {a n : Nat} (hn : 0 < n) (ha : a + n ≤ 0x200000) : granules a n = [0] := by
  have h1 : (a + max n 1 - 1) / granuleBytes = 0 := Nat.div_eq_of_lt (by unfold granuleBytes; omega)
  have h2 : a / granuleBytes = 0 := Nat.div_eq_of_lt (by unfold granuleBytes; omega)
  unfold granules
  rw [h1, h2]
  rfl

theorem StationState.countBytes {s : State} {w : WeightSet} (h : StationState s w) (i a n : Nat) : StationState (s.countBytes i a n) w := by
  have hpu : ∀ (v : State) d i n k, StationState v w → StationState (v.perfUnits d i n k) w := by
    intro v d i n k hv
    unfold State.perfUnits State.perfAdd
    dsimp only
    split
    · exact ⟨hv.spare, hv.channels, hv.frames, hv.marks, hv.owners, hv.set, hv.ctx⟩
    · split
      · exact ⟨hv.spare, hv.channels, hv.frames, hv.marks, hv.owners, hv.set, hv.ctx⟩
      · exact ⟨hv.spare, hv.channels, hv.frames, hv.marks, hv.owners, hv.set, hv.ctx⟩
  exact each_keeps (fun t => StationState t w) _ (fun u j hu => hpu _ _ _ _ _ hu) _ _ h

theorem StationState.lost {s : State} {w : WeightSet} (h : StationState s w) (a n : Nat) : s.lostAt a n = none := by
  have hu : ∀ k, s.unbacked k = false := fun k => by simp [State.unbacked, State.channel, h.channels, tabGet]
  have hf : (framePieces a n).find? (fun p => s.unbacked p.1 || s.unbacked (s.tagFrame (p.2.1 / granuleBytes))) = none := by
    rw [List.find?_eq_none]; intro p _; simp [hu]
  unfold State.lostAt
  rw [hf]; rfl

theorem StationState.write {s : State} {w : WeightSet} (h : StationState s w) (hw : w.ctx = 1) {a : Nat} {l : List Byte} (hl : l ≠ []) (ha : a + l.length ≤ 0x200000) :
    ∃ t, s.memWrite (.station 9) a l = some t ∧ StationState t w := by
  have hn : 0 < l.length := List.length_pos_iff.mpr hl
  obtain ⟨h1, h2⟩ := h.mapped hn ha
  have h3 : s.mayWrite (.station 9) a l.length = true := by
    unfold State.mayWrite
    rw [granules_first hn ha]
    simp [State.owner, h.owners, tabGet, h.keys hw]
  have hc : s.claim (.station 9) a l.length = s := by
    unfold State.claim
    rw [granules_first hn ha]
    simp [State.owner, h.owners, tabGet]
  refine ⟨_, by unfold State.memWrite; rw [h1, h2, h3]; rfl, ?_⟩
  have he : l.isEmpty = false := by simpa using hl
  unfold State.cellarPut
  rw [hc]
  simp only [he, Bool.false_eq_true, if_false, h.lost]
  unfold State.cellarStore
  have h0 : StationState (s.store a l) w := ⟨h.spare, h.channels, h.frames, h.marks, h.owners, h.set, h.ctx⟩
  have h1 : StationState ((s.store a l).tagSectors a l.length) w := by
    unfold State.tagSectors
    exact each_keeps (fun t => StationState t w) (fun (u : State) j => { u with written := tabSet u.written (a / 512 + j) true })
      (fun u j hu => ⟨hu.spare, hu.channels, hu.frames, hu.marks, hu.owners, hu.set, hu.ctx⟩) _ _ h0
  have hh := h1.countBytes 4 a l.length
  exact ⟨hh.spare, hh.channels, hh.frames, by show List.filter _ _ = []; rw [hh.marks]; rfl, hh.owners, hh.set, hh.ctx⟩

theorem StationState.read {s : State} {w : WeightSet} (h : StationState s w) (hw : w.ctx = 1) {a n : Nat} (hn : 0 < n) (ha : a + n ≤ 0x200000) :
    ∃ t l, s.memRead (.station 9) a n = .ok t l ∧ StationState t w := by
  obtain ⟨h1, h2⟩ := h.mapped hn ha
  have h3 : s.mayRead (.station 9) a n = true := by
    unfold State.mayRead
    rw [granules_first hn ha]
    simp [State.owner, h.owners, tabGet, h.keys hw]
  have h5 : s.linesIn a n = [] := by unfold State.linesIn State.marksIn; rw [h.marks]; rfl
  refine ⟨s.countBytes 0 a n, readBytes s.mem a n, ?_, h.countBytes 0 a n⟩
  unfold State.memRead State.cellarGet
  simp [h1, h2, h3, h.lost, h5]

/-- A training set whose records are at 0 and whose optimizer block is at 0x100000 of the cellar, and a carry of it come home to stop 0 (cellar die 68). -/
def trainSet : WeightSet := { ringSet with kind := 1, opt := 0x100000, optBlock := List.replicate 64 0 }
def homeCarry : Crate := { hdr := { wsid := 9, carry := true, home := 0 }, heldAt := some 68 }
def trainState : State := ringState trainSet homeCarry {}

theorem flatMap_length (l : List Nat) (f : Nat → List Byte) (n : Nat) (h : ∀ i, (f i).length = n) : (l.flatMap f).length = l.length * n := by
  induction l with
  | nil => simp
  | cons a t ih => rw [List.flatMap_cons, List.length_append, ih, h, List.length_cons]; ring

theorem le_length (n v : Nat) : (le n v).length = n := by
  induction n generalizing v with
  | zero => rfl
  | succ n ih => simp [le, ih]

theorem copy_length (g : Nat → Nat → Nat) : ((List.range 128).flatMap fun j => (List.range 512).flatMap fun e => le 2 (g j e)).length = 131072 := by
  rw [flatMap_length _ _ 1024 (fun j => by rw [flatMap_length _ _ 2 (fun e => le_length 2 _), List.length_range])]
  rw [List.length_range]

theorem words_length (f : Nat → Nat) : ((List.range 65536).flatMap fun i => le 4 (f i)).length = 262144 := by
  rw [flatMap_length _ _ 4 (fun i => le_length 4 _), List.length_range]

theorem ne_nil_of_length {l : List Byte} {n : Nat} (h : l.length = n + 1) : l ≠ [] := by intro e; rw [e] at h; cases h

theorem station_four {s : State} {w : WeightSet} (h : StationState s w) (hw : w.ctx = 1) (a b c d e : List Byte) (ha : a.length = 262144) (hb : b.length = 262144)
    (hc : c.length = 131072) (hd : d.length = 131072) (he : e.length = 4) :
    ∃ v, s.stationWrite 9 ([(0 + 0, a), (0 + 0x40000, b), (0 + 0x80000, c), (0 + 0xA0000, d)] ++ [(0x100000 + 64 + 4 * 0, e)]) = some v := by
  obtain ⟨t1, h1, g1⟩ := h.write hw (a := 0 + 0) (l := a) (ne_nil_of_length ha) (by omega)
  obtain ⟨t2, h2, g2⟩ := g1.write hw (a := 0 + 0x40000) (l := b) (ne_nil_of_length hb) (by omega)
  obtain ⟨t3, h3, g3⟩ := g2.write hw (a := 0 + 0x80000) (l := c) (ne_nil_of_length hc) (by omega)
  obtain ⟨t4, h4, g4⟩ := g3.write hw (a := 0 + 0xA0000) (l := d) (ne_nil_of_length hd) (by omega)
  obtain ⟨t5, h5, g5⟩ := g4.write hw (a := 0x100000 + 64 + 4 * 0) (l := e) (ne_nil_of_length he) (by omega)
  exact ⟨t5, by simp only [List.cons_append, List.nil_append, State.stationWrite, h1, h2, h3, h4, h5]⟩

theorem witness_UpdatesAreApplied :
    ∃ u rec8 v, trainState.crate? 0 = some homeCarry ∧ trainState.set? homeCarry.hdr.wsid = some trainSet ∧ homeCarry.heldAt = some (stopDie homeCarry.hdr.home) ∧
      isCellar (stopDie homeCarry.hdr.home) = true ∧ trainSet.kind ≠ 0 ∧ trainSet.optBlock ≠ [] ∧ trainState.mem.wf = true ∧
      (trainState.setCrate 0 none).memRead (.station 9) (0 + 0 * 0x100000) 0x80000 = .ok u rec8 ∧ u.lostAt (0 + 0 * 0x100000) 0xC0000 = none ∧
      (trainState.die (stopDie homeCarry.hdr.home)).tripped = false ∧ u.lostAt (stepsAddr trainSet 0) 4 = none ∧
      u.stationWrite 9 (((newRecord 1 (optParams trainSet.optBlock) homeCarry.carry rec8 1 (fun _ => none)
        (copyRound (optParams trainSet.optBlock) homeCarry.seed 9 0 1)).map fun r => (0 + 0 * 0x100000 + r.1, r.2)) ++ [(stepsAddr trainSet 0, le 4 1)]) = some v := by
  have hs : StationState (trainState.setCrate 0 none) trainSet := ⟨rfl, rfl, rfl, rfl, rfl, rfl, rfl⟩
  obtain ⟨u, rec8, hr, hu⟩ := hs.read rfl (a := 0 + 0 * 0x100000) (n := 0x80000) (by decide) (by decide)
  have hv : ∃ v, u.stationWrite 9 (((newRecord 1 (optParams trainSet.optBlock) homeCarry.carry rec8 1 (fun _ => none)
      (copyRound (optParams trainSet.optBlock) homeCarry.seed 9 0 1)).map fun r => (0 + 0 * 0x100000 + r.1, r.2)) ++ [(stepsAddr trainSet 0, le 4 1)]) = some v := by
    unfold newRecord
    simp only [↓reduceIte, List.map_cons, List.map_nil]
    exact station_four hu rfl _ _ _ _ _ (words_length _) (words_length _) (copy_length _) (copy_length _) (le_length _ _)
  obtain ⟨v, hv⟩ := hv
  exact ⟨u, rec8, v, rfl, rfl, rfl, rfl, by decide, by decide, rfl, hr, hu.lost _ _, rfl, hu.lost _ _, hv⟩

theorem witness_RetiredSetsLeave :
    (let s := { ringState ringSet {} {} with contexts := [] }; isWsid 9 = true ∧ s.set? 9 = some ringSet ∧ s.mayRetire 9 ringSet = true) ∧
    (let s := ringState ringSet {} {}; s.set? 9 = some ringSet ∧ s.mayRetire 9 ringSet = false) :=
  ⟨⟨rfl, rfl, by decide +kernel⟩, rfl, by decide +kernel⟩

/-! ## Queues and their commands -/

/-- Host port 0 ready and up, context 1, and a queue. -/
def queueState (q : QRef) (x : Queue) : State :=
  ({ State.reset with
     host0 := { ready := true, up := true, doorbellEn := true, kqEnable := true, ats := true }
     holder := some 0
     contexts := [(1, some {})] } : State).setQueue q (some x)

/-- Every channel active. -/
def allActive : Tab Channel := (List.range 48).map fun c => (c, { st := .active })

theorem witness_DoorbellsMoveTheTail :
    (∃ (s : State) (x : Queue), isHostPort 0 = true ∧ (s.hp 0).ready = true ∧ s.halted = false ∧ (s.hp 0).doorbellEn = true ∧ (s.hp 0).up = true ∧
      s.queue? (.normal 1 511) = some x ∧ x.port = 0 ∧ (s.ctx? 1).isSome = true) ∧
    (∃ s : State, (s.hp 1).ready = true ∧ s.halted = false ∧ (s.hp 1).doorbellEn = false) ∧
    (∃ (s : State) (x : Queue), (s.hp 0).ready = true ∧ (s.hp 0).kqEnable = true ∧ s.queue? (.kernel 0) = some x) ∧
    (∃ (v : Word) (s : State), (s.hp 1).ready = true ∧ s.halted = false ∧ bit v.toNat 0 = true ∧ (s.hp 1).kqEnable = false ∧ s.queue? (.kernel 1) = none ∧
      bits v.toNat 24 4 = 12) ∧ bit (0 : Word).toNat 0 = false :=
  ⟨⟨queueState (.normal 1 511) {}, {}, rfl, rfl, rfl, rfl, rfl, rfl, rfl, rfl⟩, ⟨{ State.reset with host1 := { ready := true } }, rfl, rfl, rfl⟩,
   ⟨queueState (.kernel 0) {}, {}, rfl, rfl, rfl⟩, ⟨0xC000001, { State.reset with host1 := { ready := true } }, rfl, rfl, by decide, rfl, rfl, by decide⟩, by decide⟩

theorem witness_DescriptorsAreFetchedInOrder :
    (∃ x, let s := queueState (.normal 1 0) { tail := 1 }
      isQueue (.normal 1 0) = true ∧ s.queue? (.normal 1 0) = some x ∧ mayFetch x = true ∧ (s.hp x.port).up = true ∧
      fieldAt (s.hostRead x.port (s.sqSpace (.normal 1 0)) (x.sq + 64 * (x.head.toNat % 2 ^ x.log2)) 64) 0 1 ≠ 6 ∧ s.checkMode (.normal 1 0) = true ∧ s.qBarred (.normal 1 0) = false) ∧
    (∃ x, let s := { queueState (.normal 1 0) { tail := 1 } with contexts := [(1, some { sealed := true, tdisp := true, tdi := .locked })] }
      s.queue? (.normal 1 0) = some x ∧ mayFetch x = true ∧ (s.hp x.port).up = true ∧ s.qBarred (.normal 1 0) = true ∧
      (∀ d ∈ s.jobCtxs (s.ctx 1).job, (s.ctx d).dmaLast = none) ∧ s.hasRoom (96 + x.port)) ∧
    (∃ x, let s := { queueState (.kernel 0) { tail := 1 } with service := .normal }
      s.queue? (.kernel 0) = some x ∧ mayFetch x = true ∧ (s.hp x.port).up = true ∧ s.checkMode (.kernel 0) = false ∧ x.cmds = [] ∧
      ({ s with journal := [{ seq := s.journalNext, subject := 0, key := 0 }] } : State).journalled s.journalNext = false ∧
      ({ s with hatch0 := { failed := true }, hatch1 := { failed := true } } : State).journalled s.journalNext = true) ∧
    (∃ x, (queueState (.normal 1 0) {}).queue? (.normal 1 0) = some x ∧ mayFetch x = false) :=
  ⟨⟨{ tail := 1 }, rfl, rfl, by decide, rfl, by decide +kernel, rfl, rfl⟩, ⟨{ tail := 1 }, rfl, by decide, rfl, rfl, by decide +kernel, by decide +kernel⟩, ⟨{ tail := 1 }, rfl, by decide, rfl, rfl, rfl, by decide +kernel, by decide +kernel⟩, ⟨{}, rfl, by decide⟩⟩

theorem witness_CommandsComplete :
    (∃ x p o, let s := queueState (.kernel 0) { cmds := [{ cmd := .nop, outcome := some {} }] }
      isQueue (.kernel 0) = true ∧ s.queue? (.kernel 0) = some x ∧ x.cmds = p :: [] ∧ p.outcome = some o ∧ p.journal = none ∧ x.deleting = none ∧ p.quiet = false ∧
      recordsHeld x = false ∧ (s.hp x.port).up = true ∧ s.hostMem.wf = true) ∧
    (∃ x p o, let s := queueState (.normal 1 0) { holdCq := true, cmds := [{ cmd := .nop, quiet := true, outcome := some { status := 1 } }] }
      s.queue? (.normal 1 0) = some x ∧ x.cmds = p :: [] ∧ p.outcome = some o ∧ p.journal = none ∧ x.deleting = none ∧ o.status ≠ 0 ∧ recordsHeld x = true) :=
  ⟨⟨{ cmds := [{ cmd := .nop, outcome := some {} }] }, _, _, rfl, rfl, rfl, rfl, rfl, rfl, rfl, rfl, rfl, rfl⟩,
   ⟨{ holdCq := true, cmds := [{ cmd := .nop, quiet := true, outcome := some { status := 1 } }] }, _, _, rfl, rfl, rfl, rfl, rfl, by decide, rfl⟩⟩

theorem witness_InvalidationsHoldTheirQueues : ∃ x, let s := queueState (.normal 1 0) { cq := 4096, log2 := 6 }
    (s.hp 0).ats = true ∧ isQueue (.normal 1 0) = true ∧ s.queue? (.normal 1 0) = some x ∧ x.port = 0 ∧ meets 4096 4096 x.cq (32 * 2 ^ x.log2) = true ∧
    meets 0 4096 x.cq (32 * 2 ^ x.log2) = false ∧ x.port ≠ 1 ∧ (s.hp 1).ats = false ∧ noPasid (2 ^ 20) = true ∧ noPasid (2 ^ 20 - 1) = false :=
  ⟨{ cq := 4096, log2 := 6 }, rfl, rfl, rfl, rfl, by decide, by decide, by decide, rfl, by decide, by decide⟩

/-- A queue of context 1 with one taken command at its head. -/
def cmdState (c : Cmd) : State := queueState (.normal 1 0) { cmds := [{ cmd := c, taken := true }] }

theorem cmdState_atHead (c : Cmd) : atHead (cmdState c) (.normal 1 0) 1 { cmd := c, taken := true } [] := ⟨rfl, rfl, rfl, rfl, rfl, { cmds := [{ cmd := c, taken := true }] }, rfl, rfl⟩

theorem witness_CommandsAreTakenInOrder : atHead (queueState (.normal 1 0) { cmds := [{ cmd := .nop }] }) (.normal 1 0) 1 { cmd := .nop } [] :=
  ⟨rfl, rfl, rfl, rfl, rfl, { cmds := [{ cmd := .nop }] }, rfl, rfl⟩

theorem witness_SimpleCommandsTakeEffect :
    (∀ c, ∃ p, atHead (cmdState c) (.normal 1 0) 1 p [] ∧ p.cmd = c ∧ (cmdState c).mem.wf = true ∧ (cmdState c).launchOf 1 = none ∧ p.step = 0 ∧ dmaBarred ((cmdState c).ctx 1) = false) ∧
    (0 : Word).toNat ≤ (cmdState (.waitEvent 0 0)).eventSeq 1 0 ∧ (cmdState (.waitEvent 0 9)).eventSeq 1 0 < (9 : Word).toNat ∧
    (∃ x e h, let s := { cmdState (.signalTally 7 3) with
                          inv := factoryInventory, contexts := [(1, some { launch := some { st := .bound, tallies := [{ vid := 7, core := 271 - 16 }] } })] }
      atHead s (.normal 1 0) 1 { cmd := .signalTally 7 3, taken := true } [] ∧ s.launchOf 1 = some x ∧ x.st ≠ .checked ∧ findTally x 7 = some e ∧ e.kind = 0 ∧
      s.coreOf e.core = some h) ∧
    (cmdState .fence).fenceDone 1 0 = true ∧
    (∃ s : State, atHead s (.normal 1 1) 1 { cmd := .fence, taken := true, serial := 5 } [] ∧ s.fenceDone 1 5 = false) :=
  ⟨fun c => ⟨_, cmdState_atHead c, rfl, rfl, rfl, rfl, rfl⟩, by decide +kernel, by decide +kernel,
   ⟨_, _, 267, ⟨rfl, rfl, rfl, rfl, rfl, { cmds := [{ cmd := .signalTally 7 3, taken := true }] }, rfl, rfl⟩, rfl, by decide, rfl, rfl, by decide +kernel⟩, by decide +kernel,
   ⟨(cmdState .nop).setQueue (.normal 1 1) (some { cmds := [{ cmd := .fence, taken := true, serial := 5 }] }), ⟨rfl, rfl, rfl, rfl, rfl, { cmds := [{ cmd := .fence, taken := true, serial := 5 }] }, rfl, rfl⟩, by decide +kernel⟩⟩

/-- Context 1 with two buffers of host memory, of 4,096 bytes each, in its handle table. -/
def bufState (c : Cmd) : State :=
  { cmdState c with
    contexts := [(1, some { handles := 3, handleTable := 0 })]
    hostMem := writeBytes [] (hostKey 0 0 0) (le 8 0x1000 ++ le 8 4096 ++ le 8 1 ++ le 8 0 ++ le 8 0x2000 ++ le 8 4096 ++ le 8 1 ++ le 8 0 ++
      le 8 0 ++ le 8 4096 ++ le 8 2 ++ le 8 0)
    channels := allActive
    sets := [(1, some { entries := [{ src := 64, length := 64 }] })] }

/-- The same with both buffers in the cellar, which the context may read and write. -/
def cellarBufs : State :=
  { bufState .nop with
    hostMem := writeBytes [] (hostKey 0 0 0) (le 8 0x1000 ++ le 8 4096 ++ le 8 2 ++ le 8 0 ++ le 8 0x2000 ++ le 8 4096 ++ le 8 2 ++ le 8 0)
    owners := [(0, .package)] }

theorem witness_CopyAndFillCommands :
    (∀ c, atHead (bufState c) (.normal 1 0) 1 { cmd := c, taken := true } []) ∧
    (∃ a d, let s := bufState (.copy { handle := 1 } { handle := 2 } 64)
      s.relocate 1 { handle := 1 } 64 false = some a ∧ s.relocate 1 { handle := 2 } 64 true = some d ∧ plainHost s 1 a ∧ plainHost s 1 d ∧
      meets a.addr 64 d.addr 64 = false ∧ s.hostMem.wf = true ∧ d.addr + 64 ≤ 2 ^ 64) ∧
    (∃ a d, let s := bufState (.copy { handle := 1 } { handle := 1, offset := 63 } 64)
      s.relocate 1 { handle := 1 } 64 false = some a ∧ s.relocate 1 { handle := 1, offset := 63 } 64 true = some d ∧ meets a.addr 64 d.addr 64 = true) ∧
    (∃ a d, let s := bufState (.copy { handle := 1 } { handle := 2 } 0)
      s.relocate 1 { handle := 1 } 0 false = some a ∧ s.relocate 1 { handle := 2 } 0 true = some d ∧ meets a.addr 0 d.addr 0 = false ∧ s.pinned d.addr 0 true = false) ∧
    (∃ a d, let s := cellarBufs
      s.relocate 1 { handle := 1 } 64 false = some a ∧ s.relocate 1 { handle := 2 } 64 true = some d ∧ a.kind = 2 ∧ d.kind = 2 ∧ meets a.addr 64 d.addr 64 = false ∧
      s.mem.wf = true ∧ s.pinned d.addr 64 true = false ∧ s.trafficHeld a.addr 64 = false ∧ s.trafficHeld d.addr 64 = false ∧ clearRead s (.context 1) a.addr 64 ∧
      clearWrite s (.context 1) d.addr 64) ∧
    (∃ s : State, s = bufState (.copy { handle := 4 } { handle := 2 } 64) ∧ s.relocate 1 { handle := 4 } 64 false = none ∧ s.hasRoom (96 + (s.queue (.normal 1 0)).port)) ∧
    (∃ d, let s := bufState (.fill { handle := 3 } 7 128)
      s.relocate 1 { handle := 3 } 128 true = some d ∧ d.kind = 2 ∧ s.pinned d.addr 128 true = true ∧ s.hasRoom (96 + (s.queue (.normal 1 0)).port)) :=
  ⟨fun c => ⟨rfl, rfl, rfl, rfl, rfl, { cmds := [{ cmd := c, taken := true }] }, rfl, rfl⟩,
   ⟨{ kind := 1, base := 0x1000, offset := 0, exact := false }, { kind := 1, base := 0x2000, offset := 0, exact := false }, by decide +kernel, by decide +kernel, ⟨rfl, rfl⟩, ⟨rfl, rfl⟩,
    by decide +kernel, by decide +kernel, by decide +kernel⟩,
   ⟨{ kind := 1, base := 0x1000, offset := 0, exact := false }, { kind := 1, base := 0x1000, offset := 63, exact := false }, by decide +kernel, by decide +kernel, by decide +kernel⟩,
   ⟨{ kind := 1, base := 0x1000, offset := 0, exact := false }, { kind := 1, base := 0x2000, offset := 0, exact := false }, by decide +kernel, by decide +kernel, by decide +kernel,
    by decide +kernel⟩,
   ⟨{ kind := 2, base := 0x1000, offset := 0, exact := false }, { kind := 2, base := 0x2000, offset := 0, exact := false }, by decide +kernel, by decide +kernel, rfl, rfl, by decide +kernel,
    rfl, by decide +kernel, by decide +kernel, by decide +kernel, by unfold clearRead; decide +kernel, by unfold clearWrite; decide +kernel⟩,
   ⟨_, rfl, by decide +kernel, by decide +kernel⟩,
   ⟨{ kind := 2, base := 0, offset := 0, exact := false }, by decide +kernel, rfl, by decide +kernel, by decide +kernel⟩⟩

/-- A survey of one element of the cellar, `m`. -/
def surveyState (m : Nat) : State :=
  { cmdState (.survey 1 0 0 true true 0 1 0x1000 0x2000 0x3000 0 0) with
    channels := allActive
    inv := factoryInventory
    mem := writeBytes [] 0 (le 2 m)
    owners := [(0, .package)] }

/-- What `n` bytes at `a` of the state `s` read as, read twice. -/
def readTwice (s : State) (x : Accessor) (a n : Nat) : State × List Byte := match s.memRead x a n with
  | .ok u b => (match u.memRead x a n with | .ok v _ => v | _ => u, b)
  | _ => (s, [])

/-- The two reads end well, and no mark stands in the way. -/
def readsTwice (s : State) (x : Accessor) (a n : Nat) : Bool := match s.memRead x a n with
  | .ok u _ => (match u.memRead x a n with | .ok _ _ => true | _ => false) &&
      (decide (s.firstBad (if a < larderBase then 2 else 3) a n = none) && decide (u.firstBad (if a < larderBase then 2 else 3) a n = none))
  | _ => false

theorem readsTwice_sourceRead (s : State) (c a n : Nat) (h : readsTwice s (.context c) a n = true) :
    sourceRead s c a n true (readTwice s (.context c) a n).1 (readTwice s (.context c) a n).2 := by
  unfold readsTwice at h
  cases hu : s.memRead (.context c) a n with
  | ok u b =>
    rw [hu] at h
    simp only [Bool.and_eq_true, decide_eq_true_eq] at h
    cases hv : u.memRead (.context c) a n with
    | ok v b' =>
      have e : readTwice s (.context c) a n = (v, b) := by simp only [readTwice, hu, hv]
      rw [e]
      exact ⟨u, hu, h.2.1, .inr ⟨rfl, h.2.2, b', hv⟩⟩
    | lost _ _ => rw [hv] at h; simp at h
    | unmapped => rw [hv] at h; simp at h
  | lost _ _ => rw [hu] at h; cases h
  | unmapped => rw [hu] at h; cases h

/-- What its source reads as, with ENCODE. -/
def surveyRead (m : Nat) : State × List Byte := readTwice (surveyState m) (.context 1) 0 2

theorem surveyRead_ok (m : Nat) (h : readsTwice (surveyState m) (.context 1) 0 2 = true) :
    sourceRead (surveyState m) 1 0 2 true (surveyRead m).1 (surveyRead m).2 := by
  unfold surveyRead; exact readsTwice_sourceRead (surveyState m) 1 0 2 h

theorem witness_SurveyWritesTableAndReport :
    (∃ p, atHead (surveyState 0x3F80) (.normal 1 0) 1 p [] ∧ p.taken = true ∧ p.cmd = .survey 1 0 0 true true 0 1 0x1000 0x2000 0x3000 0 0) ∧
    (∀ e ∈ [(0x1000, ceilDiv 1 128 * caskBytes 1), (0x2000, 16), (0x3000, 64)], (surveyState 0x3F80).inCellar e.1 e.2 = true ∧ (surveyState 0x3F80).protected e.1 e.2 = false) ∧
    (∀ e ∈ surveyPlaces 1 true 0 1 0x1000 0x2000 0x3000, (surveyState 0x3F80).trafficHeld e.1 e.2 = false) ∧
    (∃ e ∈ surveyPlaces 1 true 0 1 0x1000 0x2000 0x3000, ((surveyState 0x3F80).modChannel 0 fun x => { x with held := true }).trafficHeld e.1 e.2 = true) ∧
    sourceRead (surveyState 0x3F80) 1 0 2 true (surveyRead 0x3F80).1 (surveyRead 0x3F80).2 ∧ (∀ v ∈ elems16 (surveyRead 0x3F80).2, expField v ≠ 255) ∧
    (∀ f ∈ surveyWrites 1 0 true true (elems16 (surveyRead 0x3F80).2) 0x1000 0x2000 0x3000, (surveyRead 0x3F80).1.pinned f.1 f.2.length true = false) ∧
    ((surveyRead 0x3F80).1.writeAll 1 (surveyWrites 1 0 true true (elems16 (surveyRead 0x3F80).2) 0x1000 0x2000 0x3000)).isSome = true ∧
    sourceRead (surveyState 0x7F80) 1 0 2 true (surveyRead 0x7F80).1 (surveyRead 0x7F80).2 ∧ ((elems16 (surveyRead 0x7F80).2).filter fun v => expField v == 255) ≠ [] ∧
    (surveyRead 0x7F80).1.pinned 0x3000 64 true = false ∧ ((surveyRead 0x7F80).1.writeAll 1 [(0x3000, List.replicate 64 0)]).isSome = true :=
  ⟨⟨_, ⟨rfl, rfl, rfl, rfl, rfl, { cmds := [{ cmd := .survey 1 0 0 true true 0 1 0x1000 0x2000 0x3000 0 0, taken := true }] }, rfl, rfl⟩, rfl, rfl⟩, by decide +kernel, by decide +kernel, by decide +kernel,
   surveyRead_ok _ (by decide +kernel), by decide +kernel, by decide +kernel, by decide +kernel, surveyRead_ok _ (by decide +kernel), by decide +kernel, by decide +kernel, by decide +kernel⟩

theorem witness_SurveysEnd : let s := surveyState 0x3F80
    ∃ e w, atHead s (.normal 1 0) 1 { cmd := .survey 1 0 0 true true 0 1 0x1000 0x2000 0x3000 0 0, taken := true } [] ∧ s.mem.wf = true ∧
      (∀ f ∈ [(0x1000, ceilDiv 1 128 * caskBytes 1), (0x2000, 16), (0x3000, 64)], s.inCellar f.1 f.2 = true ∧ s.protected f.1 f.2 = false) ∧
      (∀ f ∈ surveyPlaces 1 true 0 1 0x1000 0x2000 0x3000, s.trafficHeld f.1 f.2 = false) ∧
      clearRead s (.context 1) 0 2 ∧ e = elems16 (readBytes s.mem 0 2) ∧ (∀ x ∈ e, expField x ≠ 255) ∧ w = surveyWrites 1 0 true true e 0x1000 0x2000 0x3000 ∧
      (∀ f ∈ w, s.pinned f.1 f.2.length true = false ∧ clearWrite s (.context 1) f.1 f.2.length) ∧ w.Pairwise (fun f g => meets f.1 f.2.length g.1 g.2.length = false) :=
  ⟨_, _, ⟨rfl, rfl, rfl, rfl, rfl, { cmds := [{ cmd := .survey 1 0 0 true true 0 1 0x1000 0x2000 0x3000 0 0, taken := true }] }, rfl, rfl⟩, by decide +kernel, by decide +kernel,
   by decide +kernel, by unfold clearRead; decide +kernel, rfl, by decide +kernel, rfl, by unfold clearWrite; decide +kernel, by decide +kernel⟩

/-- A table record of kind 1 (R248). -/
def tableBytes : List Byte := tableRecord (buildTable 1 0 false [[0x3F80]]) 0

theorem witness_TableLoadsWaitAndAreDelivered :
    (let s := { surveyState 0 with mem := writeBytes [] 0 tableBytes }
     (match s.memRead (.context 1) 0 16 with | .ok u r => u.queues == s.queues && u.contexts == s.contexts && (tableOf r).isSome | _ => false) = true ∧
     s.protected 0 16 = false ∧ (s.ctx 1).tableWaits = [] ∧ dmaBarred (s.ctx 1) = false ∧ clearRead s (.context 1) 0 16) ∧
    (let s := { surveyState 0 with mem := writeBytes [] 0 [0xFF] }
     (match s.memRead (.context 1) 0 16 with | .ok u r => u.queues == s.queues && u.contexts == s.contexts && (tableOf r).isNone | _ => false) = true) ∧
    atHead (cmdState (.tableLoad 0 255 false 0)) (.normal 1 0) 1 { cmd := .tableLoad 0 255 false 0, taken := true } [] ∧
    (∃ s : State, ∃ x w, isContext 1 = true ∧ s.launchOf 1 = some x ∧ x.st ≠ .checked ∧ (s.ctx 1).tableWaits = [w] ∧ s.loadStands w = true ∧ w.at_ = none ∧ w.retire = none ∧ (s.ctxCores 1).Nodup ∧
      s.ctxCores 1 ≠ [] ∧ ∀ k ∈ s.ctxCores 1, ∀ e, e < 2 → (eng (s.core k) e).tableQueue = [] ∧ isResident (eng (s.core k) e) w.table.gen = false ∧
        ∃ i, i < 4 ∧ (tabGet {} (eng (s.core k) e).tables i).st = .free) :=
  ⟨⟨by decide +kernel, by decide +kernel, rfl, rfl, by unfold clearRead; decide +kernel⟩, by decide +kernel, cmdState_atHead _,
   ⟨{ cmdState .nop with inv := factoryInventory, contexts := [(1, some { launch := some { st := .bound }, tableWaits := [{ q := .normal 1 0, serial := 0 }] })] }, _, _, rfl, rfl, by decide, rfl, by decide, rfl, rfl, by decide +kernel, by decide +kernel, fun k _ e he => ⟨by
      rcases e with _ | _ | e
      · rfl
      · rfl
      · omega, by
      rcases e with _ | _ | e
      · rfl
      · rfl
      · omega, 0, by decide, by
      rcases e with _ | _ | e
      · rfl
      · rfl
      · omega⟩⟩⟩

/-- A plan of one entry in the cellar: header and entry (R204, R205), as job 0's context 1 reads it. -/
def planBytes (slots passes : Nat) : List Byte :=
  le 2 9 ++ le 1 0 ++ le 1 0 ++ le 2 slots ++ le 1 1 ++ le 1 0 ++ le 4 1 ++ le 4 8 ++ le 2 0 ++ le 2 passes ++ List.replicate 44 0 ++
  le 4 0 ++ le 1 0 ++ le 1 0 ++ le 1 0 ++ le 1 0 ++ le 8 0x1000 ++ le 4 0 ++ le 4 131072 ++ List.replicate 8 0

def planState (slots passes : Nat) : State := { surveyState 0 with mem := writeBytes [] 0 (planBytes slots passes) }

/-- What its plan reads as, with whether it fits and has a base slot. -/
def planRead (slots passes : Nat) : Option (Bool × Bool) :=
  let s := planState slots passes
  match s.readPlan (.normal 1 0) 1 0 with
  | .inr (u, i, w) =>
    if u.queues == s.queues && u.contexts == s.contexts && u.sets == s.sets && (u.set? i).isNone && u.sourcesFit w && u.injectionFits w && u.directionFits w &&
      u.recircFits w && u.variantFits w then some (planFits w i (u.jobDies w.job).length, (u.baseFor w).isSome) else none
  | .inl _ => none

/-- The plan that stands there. -/
def planSet (slots passes : Nat) : WeightSet :=
  planOf 0 1 0 (readBytes (planState slots passes).mem 0 64) ((List.range 1).map fun j => planEntryAt (readBytes (planState slots passes).mem 64 (32 * 1)) (32 * j))

theorem planState_planAt (slots passes : Nat) (h : fieldAt (readBytes (planState slots passes).mem 0 64) 8 4 = 1 ∧ clearRead (planState slots passes) (.context 1) 0 64 ∧
    clearRead (planState slots passes) (.context 1) 64 32 ∧ 9 = fieldAt (readBytes (planState slots passes).mem 0 64) 0 2) :
    planAt (planState slots passes) 1 0 9 (planSet slots passes) := by
  refine ⟨_, 1, rfl, h.1.symm, by decide, by decide, h.2.1, ?_, h.2.2.2, ?_⟩
  · exact h.2.2.1
  · rfl

theorem witness_WeightSetsAreBound_plan :
    (let s := planState 1 1; let w := planSet 1 1
      planAt s 1 0 9 w ∧ s.set? 9 = none ∧ (planFits w 9 (s.jobDies w.job).length && s.sourcesFit w && s.injectionFits w && s.directionFits w && s.recircFits w && s.variantFits w) = true ∧
      (s.baseFor w).isSome = true ∧ w.kind = 0) ∧
    (let s := planState 385 1; let w := planSet 385 1
      planAt s 1 0 9 w ∧ (planFits w 9 (s.jobDies w.job).length && s.sourcesFit w && s.injectionFits w && s.directionFits w && s.recircFits w && s.variantFits w) = true ∧
      s.baseFor w = none) :=
  ⟨⟨planState_planAt _ _ (by unfold clearRead; decide +kernel), by decide +kernel, by decide +kernel, by decide +kernel, by decide +kernel⟩,
   planState_planAt _ _ (by unfold clearRead; decide +kernel), by decide +kernel, by decide +kernel⟩

theorem witness_WeightSetsAreBound :
    (∀ k ev a en, atHead (cmdState (.setWeights k en ev a)) (.normal 1 0) 1 { cmd := .setWeights k en ev a, taken := true } []) ∧
    ((cmdState .nop).ctx 1).pointers = [] ∧ ((cmdState .nop).ctx 1).nextPointers = [] ∧
    (∃ s : State, ∃ y, atHead s (.normal 1 0) 1 { cmd := .nop, taken := true } [] ∧ (s.ctx 1).pointers = [(2, 9)] ∧ (s.ctx 1).nextPointers = [] ∧ s.set? 9 = some y) ∧
    planRead 1 1 = some (true, true) ∧ planRead 385 1 = some (true, false) ∧ planRead 1 0 = some (false, true) :=
  ⟨fun _ _ _ _ => cmdState_atHead _, rfl, rfl,
   ⟨{ cmdState .nop with contexts := [(1, some { pointers := [(2, 9)] })], sets := [(9, some {})] }, _, ⟨rfl, rfl, rfl, rfl, rfl, { cmds := [{ cmd := .nop, taken := true }] }, rfl, rfl⟩, rfl, rfl, rfl⟩,
   by decide +kernel, by decide +kernel, by decide +kernel⟩

/-! ## Launches -/

/-- Context 1 on logical dies 0, with a launch, whose LAUNCH stands at the head of its queue 0. -/
def launchState (l : Option Launch) (f : Die → Die) (k : Core → Core) : State :=
  { queueState (.normal 1 0) { cmds := [{ cmd := .launch {} 128, taken := true }] } with
    inv := factoryInventory
    contexts := [(1, some { job := 5, launch := l })]
    dies := [(0, f {})]
    cores := [(0, k {})] }

/-- A launch of queue 0 of context 1. -/
def launch1 : Launch := { q := .normal 1 0, args := [7, 8, 9], cores := [{ outKind := 1, outBytes := 64 }] }

/-- One with a score to place whose die stands at OP0. -/
def heldLaunch : Launch := { launch1 with cores := [{ bundles := 1, scoreKind := 1 }] }

theorem launchState_atHead (l : Option Launch) (f : Die → Die) (k : Core → Core) :
    atHead (launchState l f k) (.normal 1 0) 1 { cmd := .launch {} 128, taken := true } [] :=
  ⟨rfl, rfl, rfl, rfl, rfl, { cmds := [{ cmd := .launch {} 128, taken := true }] }, rfl, rfl⟩

/-- A launch block of job 5 in the buffer of handle 1: one core entry, one tally. -/
def blockState (cores : Nat) : State :=
  { launchState none id id with
    contexts := [(1, some { job := 5, handles := 1, handleTable := 0 })]
    dies := (List.range 100).map fun d => (d, { tb := { locked := true, epochSet := true } })
    hostMem := writeBytes (writeBytes [] (hostKey 0 0 0) (le 8 0x1000 ++ le 8 4096 ++ le 8 1)) (hostKey 0 1 0x1000)
      (le 4 5 ++ le 1 0 ++ le 1 5 ++ le 2 1 ++ le 2 0 ++ le 2 cores ++ le 4 0xFFFFFFFF ++ le 8 0 ++ le 8 0 ++ le 4 128 ++ le 2 1 ++ le 2 0 ++ le 4 0 ++ le 4 192 ++
        List.replicate 80 0 ++ le 2 9 ++ List.replicate 62 0 ++ le 4 0 ++ le 4 1 ++ le 4 0 ++ le 4 1 ++ List.replicate 48 0) }

/-- Whether the block of a state is one that the checks pass. -/
def blockRead (s : State) (n : Nat) : Option (Bool × Bool) :=
  match s.relocate 1 { handle := 1 } n false with
  | some b => match s.readBuf (s.queue (.normal 1 0)).port 1 b n with
    | .ok u m => if u.queues == s.queues && u.contexts == s.contexts then
        some (u.launchOk 1 m n (launchOfBlock (.normal 1 0) m), u.imagesOk 1 (launchOfBlock (.normal 1 0) m)) else none
    | _ => none
  | none => none

theorem witness_LaunchBlocksAreReadAndChecked :
    ((launchState (some launch1) id id).launchOf 1).isSome = true ∧
    ((launchState none id id).launchOf 1 = none ∧ (launchState none id id).launchHeld 1 = false ∧ (launchState none id id).relocate 1 {} 128 false = none ∧
      (launchState none id id).hasRoom (96 + ((launchState none id id).queue (.normal 1 0)).port)) ∧
    (∃ m u, u = blockState 1 ∧ u.launchOk 1 m 256 (launchOfBlock (.normal 1 0) m) = true ∧ u.imagesOk 1 (launchOfBlock (.normal 1 0) m) = true) ∧
    (blockState 1).launchHeld 1 = false ∧ blockRead (blockState 1) 256 = some (true, true) ∧ (blockRead (blockState 0) 256).map (·.1) = some false :=
  ⟨rfl, ⟨rfl, by decide +kernel, rfl, by decide +kernel⟩, ⟨(blockState 1).hostRead 0 1 0x1000 256, _, rfl, by decide +kernel, by decide +kernel⟩, by decide +kernel, by decide +kernel, by decide +kernel⟩

/-- A launch with no image to place. -/
def bareLaunch (n : Nat) : Launch := { q := .normal 1 0, args := [7, 8, 9], packages := n }

theorem witness_LaunchesBind :
    (∃ s : State, s.launchOf 1 = some launch1 ∧ s.holder ≠ none ∧ s.launchHeld 1 = false ∧ (s.ctx 1).quenchOrdered = false ∧ launch1.st = .checked ∧ launch1.packages ≤ 1 ∧
      s.ctxCores 1 ≠ [] ∧ (∀ d ∈ s.ctxPhys 1, (s.die d).failed = none) ∧ (s.bindLaunch 1 launch1).placeable launch1 = true) ∧
    (∃ s : State, s.launchOf 1 = some (bareLaunch 2) ∧ s.launchHeld 1 = false ∧ (bareLaunch 2).st = .checked ∧ 1 < (bareLaunch 2).packages ∧
      (∀ d ∈ s.ctxPhys 1, (s.die d).failed = none) ∧ (s.bindLaunch 1 (bareLaunch 2)).placeable (bareLaunch 2) = true) ∧
    (∃ (s : State) (x : Launch), s.launchOf 1 = some x ∧ s.launchHeld 1 = false ∧ x.st = .checked ∧ (∀ d ∈ s.ctxPhys 1, (s.die d).failed = none) ∧
      (s.bindLaunch 1 x).placeable x = false) ∧
    (∃ (s : State) (x : Launch), s.launchOf 1 = some x ∧ x.st = .placing ∧ s.placeable x = true) ∧
    (∃ (s : State) (x : Launch), s.launchOf 1 = some x ∧ x.st = .placing ∧ s.placeable x = false) ∧
    (∃ s : State, s.launchOf 1 = some launch1 ∧ s.launchHeld 1 = false ∧ ∃ d ∈ s.ctxPhys 1, (s.die d).failed ≠ none) ∧
    (∃ s : State, s.launchOf 1 = some launch1 ∧ launch1.st ≠ .placing ∧ s.launchHeld 1 = true) :=
  ⟨⟨launchState (some launch1) id id, rfl, by decide, by decide +kernel, rfl, rfl, by decide, by decide +kernel, by decide +kernel, by decide +kernel⟩,
   ⟨launchState (some (bareLaunch 2)) id id, rfl, by decide +kernel, rfl, by decide, by decide +kernel, by decide +kernel⟩,
   ⟨launchState (some heldLaunch) id id, heldLaunch, rfl, by decide +kernel, rfl, by decide +kernel, by decide +kernel⟩,
   ⟨launchState (some { bareLaunch 1 with st := .placing }) id id, _, rfl, rfl, by decide +kernel⟩,
   ⟨launchState (some { heldLaunch with st := .placing }) id id, _, rfl, rfl, by decide +kernel⟩,
   ⟨launchState (some launch1) (fun x => { x with failed := some 0 }) id, rfl, by decide +kernel, 0, by decide +kernel, by decide +kernel⟩,
   ⟨launchState (some launch1) (fun x => { x with loftBusy := true }) id, rfl, by decide, by decide +kernel⟩⟩

/-- Die 0 armed for job 5. -/
def armedDie (x : Die) : Die := { x with grids := [{ job := some 5, armed := some 4000 }] }

theorem witness_GridsStartAtL :
    (∃ s : State, isDie 0 = true ∧ s.startsNext 0 = some (5, 4000) ∧ 1 ∈ s.jobCtxs 5 ∧ ∃ x, s.launchOf 1 = some x ∧ x.st = .armed ∧ x.packages ≤ 1) ∧
    (∃ s : State, ∀ g ∈ (s.die 0).grids, ∀ i m, g.job = some i → g.armed = some m → s.mayStart i = false) ∧
    (let s := (launchState (some { launch1 with st := .armed }) (fun x => { x with grids := [{ job := some 6, armed := some 3000 }, { job := some 5, armed := some 4000 }] }) id); s.startsNext 0 = some (5, 4000)) :=
  ⟨⟨launchState (some { launch1 with st := .armed }) armedDie id, rfl, by decide +kernel, by decide, _, rfl, rfl, by decide⟩,
   ⟨launchState (some { launch1 with st := .armed, packages := 2 }) armedDie id, fun g hg i m hi _ => by
      obtain rfl := List.mem_singleton.1 hg
      obtain rfl := Option.some.inj hi
      decide +kernel⟩, by decide +kernel⟩

/-- A core of context 1 that has halted. -/
def haltedCore (x : Core) : Core := { x with ctx := some 1, halted := true }

theorem witness_BindingsEnd :
    (let s := launchState (some launch1) (fun x => { x with curOp := 5 }) haltedCore
     (s.core 0).ctx = some 1 ∧ s.launchOf 1 = some launch1 ∧ (s.core 0).partEnded = false ∧ launch1.cores.find? (fun e => s.coreOf e.core == some 0) = some { outKind := 1, outBytes := 64 } ∧
     (s.core 0).halted = true ∧ unitsIdle (s.core 0) = true ∧ (s.ctx 1).forced = false ∧ s.moverFree (s.queue launch1.q).port 0 (outBuf { outKind := 1, outBytes := 64 }) 64 = true ∧ (s.ctx 1).sealed = false ∧ dmaBarred (s.ctx 1) = false ∧ s.marks = [] ∧ s.hostMem.wf = true) ∧
    (let s := launchState (some launch1) id haltedCore; s.moverFree (s.queue launch1.q).port 0 (outBuf { outKind := 1, outBytes := 64 }) 64 = false) ∧
    (∃ e, let l : Launch := { launch1 with cores := [{}] }; let s := launchState (some l) id haltedCore
     l.cores.find? (fun e => s.coreOf e.core == some 0) = some e ∧ e.outKind = 0 ∧ (s.core 0).halted = true) ∧
    ((launchState (some launch1) id fun x => { x with ctx := some 1 }).core 0).halted = false ∧
    (∃ l s, s = launchState (some l) id (fun x => { haltedCore x with partEnded := true }) ∧ s.launchOf 1 = some l ∧ l.st = .running ∧ s.setsDone l = true ∧
      (s.queue? l.q).isSome = true ∧ (s.ctx 1).quenchOrdered = false) ∧
    (∃ s : State, s.launchOf 1 = some { launch1 with st := .running } ∧ (s.queue? launch1.q).isSome = true ∧ (s.ctx 1).quenchOrdered = true) ∧
    (∃ s : State, s.launchOf 1 = some launch1 ∧ ∀ k ∈ s.ctxCores 1, (s.core k).partEnded = true) ∧
    0 ∈ (launchState (some launch1) id haltedCore).ctxCores 1 ∧ (queueState (.normal 1 0) {}).ctx 1 = {} :=
  ⟨⟨rfl, rfl, rfl, by decide +kernel, rfl, rfl, rfl, by decide +kernel, rfl, rfl, rfl, by decide +kernel⟩, by decide +kernel, ⟨{}, by decide +kernel, rfl, rfl⟩, rfl,
   ⟨{ launch1 with st := .running }, _, rfl, rfl, rfl, rfl, by decide +kernel, rfl⟩,
   ⟨{ launchState (some { launch1 with st := .running }) id id with contexts := [(1, some { job := 5, launch := some { launch1 with st := .running }, quenchOrdered := true })] }, rfl, rfl, rfl⟩,
   ⟨{ launchState (some launch1) id id with cores := [(0, { partEnded := true }), (1, { partEnded := true }), (2, { partEnded := true }), (3, { partEnded := true })] }, rfl, by decide +kernel⟩,
   by decide +kernel, rfl⟩

/-- A READY of package `p` for job 5 with good time-base flags. -/
def goodReady (p : Nat) : ReadyMsg := { job := 5, pkg := p, schedOp := 5, seed := 0, build := 0, holdover := false, locked := true, epochSet := true, aligned := true }

/-- The coordinator of job 5, and its launch on this package. -/
def coordState (k : Coord) (l : Launch) (f : Die → Die) : State := { launchState (some l) f id with coords := [(5, some k)] }

theorem witness_CoordinatorsCollectReadies :
    (∃ k x s, s = coordState k x id ∧ s.holder ≠ none ∧ k = (s.coord? (goodReady 3).job).getD {} ∧ (goodReady 3).pkg ∉ k.collect.map (·.pkg) ∧
      (∀ r ∈ k.collect ++ [goodReady 3], badFlags r = false) ∧ (∀ r ∈ k.collect, agree (goodReady 3) r = true) ∧ s.jobLaunch 5 = some (1, x) ∧ x.st = .bound ∧
      k.collect.length + 1 = x.packages ∧ k.collect ≠ []) ∧
    (∃ k x s, s = coordState k x id ∧ k = (s.coord? 5).getD {} ∧ (goodReady 3).pkg ∉ k.collect.map (·.pkg) ∧ s.jobLaunch 5 = some (1, x) ∧ k.collect.length + 1 < x.packages) ∧
    badFlags { goodReady 3 with holdover := true } = true ∧ agree (goodReady 3) { goodReady 0 with build := 1 } = false ∧
    (∃ k : Coord, k.ended = false ∧ k.l = some 4000 ∧ (∀ r ∈ k.readies, r.pkg ∈ k.armedBy) ∧ k.armedBad = false) ∧
    (∃ k : Coord, k.ended = false ∧ k.l = some 4000 ∧ ∃ r ∈ k.readies, r.pkg ∉ k.armedBy) :=
  ⟨⟨{ collect := [goodReady 0] }, { launch1 with packages := 2, st := .bound }, _, rfl, by decide, rfl, by decide, by decide, by decide, rfl, rfl, rfl, by decide⟩,
   ⟨{}, { launch1 with packages := 3 }, _, rfl, rfl, by decide, rfl, by decide⟩, by decide, by decide, ⟨{ l := some 4000 }, rfl, rfl, by decide, rfl⟩,
   ⟨{ l := some 4000, readies := [goodReady 0] }, rfl, rfl, by decide⟩⟩

theorem witness_PackagesFollowTheCoordinator : ∀ st ∈ [LaunchSt.placing, .bound, .armed, .checked], ∃ x s, s.holder ≠ none ∧ s = launchState (some x) id id ∧ s.jobLaunch 5 = some (1, x) ∧
    (s.queue? x.q).isSome = true ∧ x.st = st ∧ 1 < x.packages ∧ x.go = false ∧ s.hasRoom s.serviceDie := by
  intro st h
  exact ⟨{ launch1 with st := st, packages := 2 }, launchState (some { launch1 with st := st, packages := 2 }) id id, fun h => (nomatch h), rfl, rfl, rfl, rfl, (by decide : 1 < 2), rfl, (by decide : 0 < 256)⟩

theorem witness_StretchRequestsAreAnswered : ∃ k, (coordState { schedOp := 7, l := some 4000 } launch1 id).coordOf 5 = some k ∧ (coordState { schedOp := 7, l := some 4000 } launch1 id).holder ≠ none ∧ k.lastT = none ∧
    (∃ k, (coordState { schedOp := 7, l := some 4000, lastT := some 0 } launch1 id).coordOf 5 = some k ∧ k.lastT = some 0) := ⟨_, rfl, by decide, rfl, _, rfl, rfl⟩

/-- Die 0 with a started grid of job 5 and a stretch state. -/
def gridDie (n : Nat) (st : StretchSt) (x : Die) : Die :=
  { x with grids := [{ job := some 5, started := true, anchors := [{ at16 := 16 * n }], pending := [{ job := 5, seq := 1, k := 0, lam := 64, t := 0, bT := 0, pkg := 0, die := 0 }] }], job := some 5, stretch := st }

/-- An answer with a new λ whose T has come. -/
def lateAns : StretchAns := { job := 5, seq := 1, k := 1, lam := 64, t := 0, bT := 0, pkg := 0, die := 0 }

theorem witness_AnswersBecomeAnchors :
    (∃ s : State, ((s.die 0).gridOf 5).job = some 5 ∧ ((s.die 0).gridOf 5).started = true ∧ 16 * s.count 0 ≤ gridAt ((s.die 0).gridOf 5).anchors 3 ∧ (s.die 0).stretch = .sent 4 0 9 ∧
      (s.die 0).job = some 5 ∧ s.hasRoom 0) ∧
    (∃ s : State, ((s.die 0).gridOf 5).job = some 5 ∧ ((s.die 0).gridOf 5).started = true ∧ gridAt ((s.die 0).gridOf 5).anchors 0 < 16 * s.count 0 ∧ s.hasRoom 0) ∧
    (∃ s : State, ∃ a n, s.anchorDue 0 = some (5, a, n) ∧ a.die = 0 ∧ a.pkg = s.pkgId ∧ (s.die 0).stretch = .answered 4 0 0) ∧
    (∃ k s, s = coordState k launch1 (gridDie 1 .idle) ∧ s.coord? 5 = some k ∧ k.ended = false ∧ ¬ allAcked k s.kcount ∧ s.hasRoom s.serviceDie) ∧
    (∃ k s, s = coordState k launch1 (gridDie 1 .idle) ∧ s.coord? 5 = some k ∧ k.ended = false ∧ allAcked k s.kcount ∧ k.answers ≠ []) :=
  ⟨⟨launchState none (gridDie 0 (.sent 4 0 9)) id, rfl, rfl, by decide +kernel, rfl, rfl, by decide +kernel⟩,
   ⟨{ launchState none (gridDie 0 .idle) id with now := 1 }, rfl, rfl, by decide +kernel, by decide +kernel⟩,
   ⟨launchState none (gridDie 0 (.answered 4 0 0)) id, _, _, rfl, rfl, rfl, rfl⟩,
   ⟨{ answers := [lateAns], readies := [{ goodReady 1 with dies := [0] }] }, _, rfl, rfl, rfl, fun h => absurd ((h lateAns (by decide) (by decide +kernel)).2 (by decide) _ (List.mem_singleton.2 rfl) 0 (by decide)) (by decide),
     by decide +kernel⟩,
   ⟨{ answers := [lateAns], readies := [{ goodReady 1 with dies := [0] }], acks := [(1, 0, 1)] }, _, rfl, rfl, rfl, by
     intro a h _
     obtain rfl := List.mem_singleton.1 h
     exact ⟨by decide, fun _ => by decide⟩, by decide⟩⟩

/-! ## Commands of kernel queues -/

/-- The kernel queue of port 0 with one taken command at its head; context 1 exists. -/
def kernelState (c : Cmd) : State :=
  { queueState (.kernel 0) { cmds := [{ cmd := c, taken := true }] } with
    host0 := { ready := true, up := true }
    inv := factoryInventory
    channels := allActive }

theorem kernelState_head {s : State} {c : Cmd} (hq : s.queue? (.kernel 0) = some { cmds := [{ cmd := c, taken := true }] }) (hh : s.holder = some 0) (hp : s.primary = 0) :
    kernelHead s (.kernel 0) { cmd := c, taken := true } [] :=
  ⟨.inl rfl, by rw [hh]; rfl, rfl, rfl, rfl, _, hq, rfl, fun _ => hp.symm⟩

theorem witness_KernelCommandsAreJournalled :
    (∃ x p, let s := queueState (.kernel 0) { cmds := [{ cmd := .nop }] }
      s.queue? (.kernel 0) = some x ∧ x.cmds = [p] ∧ p.outcome = none ∧ p.taken = false ∧ s.holder.isSome = true) ∧
    (∃ x p, let s := { kernelState (.channelDrain 3 false) with holder := none }
      s.queue? (.kernel 0) = some x ∧ x.cmds = [p] ∧ p.outcome = none ∧ s.holder = none) ∧
    (∃ x p, let s := { kernelState (.channelDrain 3 false) with primary := 1 }
      s.queue? (.kernel 0) = some x ∧ x.cmds = [p] ∧ p.outcome = none ∧ s.holder.isSome = true ∧ p.taken = true ∧ primaryOnly p.cmd = true ∧ x.port ≠ s.primary) :=
  ⟨⟨{ cmds := [{ cmd := .nop }] }, _, rfl, rfl, rfl, rfl, rfl⟩, ⟨{ cmds := [{ cmd := .channelDrain 3 false, taken := true }] }, _, rfl, rfl, rfl, rfl⟩,
   ⟨{ cmds := [{ cmd := .channelDrain 3 false, taken := true }] }, _, rfl, rfl, rfl, rfl, rfl, rfl, by decide⟩⟩

theorem witness_KernelCommandsAreJournalled_waiting (a : Bool) : ∃ x p n, let s := { queueState (.kernel 0) { cmds := [{ cmd := .nop, journal := some 4 }] } with
      journal := [{ seq := 4, subject := 0, key := 0, acks := if a then [1, 2] else [1] }] }
    s.queue? (.kernel 0) = some x ∧ x.cmds = [p] ∧ p.outcome = none ∧ p.journal = some n ∧ s.journalled n = a :=
  ⟨{ cmds := [{ cmd := .nop, journal := some 4 }] }, _, 4, rfl, rfl, rfl, rfl, by cases a <;> decide +kernel⟩

/-- A CREATE_CONTEXT of context 2, whose block stands at address 0: die 0, one handle, one event, its event table at 0x200. -/
def createState : State :=
  { kernelState (.createContext 2 0) with
    hostMem := writeBytes [] (hostKey 0 0 0) (le 4 9 ++ le 4 0 ++ le 1 0 ++ le 1 1 ++ le 2 4 ++ le 4 0 ++ le 8 0 ++ le 4 1 ++ le 4 1 ++ le 8 0x200 ++ le 8 0)
    service := .normal
    dies := (List.range 100).map fun d => (d, { tb := { epochSet := true } }) }

theorem witness_ContextsAreCreated :
    kernelHead createState (.kernel 0) { cmd := .createContext 2 0, taken := true } [] ∧
    (let r := contextOf (createState.queue (.kernel 0)).port (createState.kernelRead (.kernel 0) 0 64)
     r.2 = false ∧ createState.ctx? 2 = none ∧ createState.jobCtxs r.1.job = [] ∧ createState.locate r.1.eventTable (32 * r.1.events) = .cellar r.1.eventTable ∧
     createState.cellarMapped r.1.eventTable (32 * r.1.events) = true) ∧
    createState.service ≠ .stopped ∧ createState.stopping = false ∧ createState.epochSet = true ∧ createState.larderBusy = false ∧ createState.mem.wf = true ∧ isContext 2 = true ∧
    (({ createState with contexts := [(2, some {})] } : State).ctx? 2).isSome = true :=
  ⟨kernelState_head rfl rfl rfl, ⟨by decide +kernel, rfl, by decide +kernel, by decide +kernel, by decide +kernel⟩, by decide, rfl, by decide +kernel, by decide +kernel, rfl, rfl, rfl⟩

theorem witness_ContextsAreDestroyed :
    (∀ c, kernelHead (kernelState c) (.kernel 0) { cmd := c, taken := true } []) ∧ (kernelState .nop).ctx? 2 = none ∧
    (∃ s : State, s = { kernelState (.destroyContext 1 false) with contexts := [(1, some { launch := some {} })] } ∧ (s.launchOf 1).isSome = true ∧ (s.ctx 1).dying = false) ∧
    (∀ b, ∃ s : State, s = { kernelState (.destroyContext 1 false) with contexts := [(1, some { sealed := true })], dies := [(0, { loftBusy := b })], owners := [(3, .context 1)] } ∧
      (s.ctx? 1).isSome = true ∧ (s.ctx 1).dying = false ∧ s.launchOf 1 = none ∧ s.ctxQueues 1 = [] ∧ (∀ e, e ≠ 1 → (s.ctx e).dying = false) ∧
      (∀ e ∈ s.sets, ∀ w, e.2 = some w → w.ctx ≠ 1) ∧ s.scrubbingCtx 1 = b ∧ (s.ctx 1).sealed = true ∧ s.owner 3 = .context 1) := by
  refine ⟨fun c => kernelState_head rfl rfl rfl, rfl, ⟨_, rfl, rfl, rfl⟩, fun b => ⟨_, rfl, rfl, rfl, rfl, rfl, ?_, ?_, ?_, rfl, rfl⟩⟩
  · intro e he
    have : ({ kernelState (.destroyContext 1 false) with contexts := [(1, some { sealed := true })], dies := [(0, { loftBusy := b })], owners := [(3, .context 1)] } : State).ctx? e = none := by
      show tabGet none [(1, _)] e = none
      rw [tabGet, if_neg (fun h => he h.symm)]; rfl
    unfold State.ctx; rw [this]; rfl
  · intro e h; exact absurd h (List.not_mem_nil)
  · cases b <;> decide +kernel

theorem witness_QueuesAreCreatedAndResumed :
    (∀ del, ∃ s : State, s = kernelState (.createQueue 1 4 del 6 0 0 0 4 0 0 0) ∧ kernelHead s (.kernel 0) { cmd := .createQueue 1 4 del 6 0 0 0 4 0 0 0, taken := true } [] ∧
      isQueue (.normal 1 4) = true ∧ (s.hp (s.queue (.kernel 0)).port).ats = false ∧ s.alive 1 = true ∧ tdiLocked (s.ctx 1) = false ∧ s.queue? (.normal 1 4) = none ∧
      s.normalQueues < 16384 ∧ s.class0Queues (s.queue (.kernel 0)).port < 64) ∧
    (∃ s : State, ∃ x, s = (kernelState (.createQueue 1 4 true 6 0 0 0 4 0 0 0)).setQueue (.normal 1 4) (some {}) ∧ s.queue? (.normal 1 4) = some x ∧
      x.port = (s.queue (.kernel 0)).port ∧ x.deleting = none ∧ x.cmds = [] ∧ s.queue? (.kernel 0) = some { cmds := [{ cmd := .createQueue 1 4 true 6 0 0 0 4 0 0 0, taken := true }] }) ∧
    (∃ s : State, ∃ x, s = (kernelState (.resumeQueue 1 4 false true)).setQueue (.normal 1 4) (some { st := .stopped, records := [([], true)], holdLink := true }) ∧
      s.queue? (.normal 1 4) = some x ∧ x.holdCq = false ∧ (s.hp x.port).up = true ∧ x.st = .stopped ∧
      s.queue? (.kernel 0) = some { cmds := [{ cmd := .resumeQueue 1 4 false true, taken := true }] }) :=
  ⟨fun del => ⟨_, rfl, kernelState_head rfl rfl rfl, rfl, rfl, rfl, rfl, rfl, by cases del <;> decide, by cases del <;> decide⟩,
   ⟨_, {}, rfl, rfl, rfl, rfl, rfl, rfl⟩, ⟨_, { st := .stopped, records := [([], true)], holdLink := true }, rfl, rfl, rfl, rfl, rfl, rfl⟩⟩

theorem length_manyQueues (n : Nat) (h : n ≤ 16384) (t : Tab (Option Queue)) :
    n ≤ ((((List.range n).map fun i => (1024 + i, some ({} : Queue))) ++ t).filter fun (e : Nat × Option Queue) => e.2.isSome && decide (e.1 < 0x80000)).length := by
  rw [List.filter_append, List.length_append, List.filter_eq_self.mpr, List.length_map, List.length_range]
  · exact Nat.le_add_right _ _
  · intro e he
    obtain ⟨i, hi, rfl⟩ := List.mem_map.mp he
    have := List.mem_range.mp hi
    simp only [Option.isSome_some, Bool.true_and, decide_eq_true_eq]; omega

/-- 16,384 queues of other contexts beside a kernel queue. -/
def manyQueues : Tab (Option Queue) := ((List.range 16384).map fun i => (1024 + i, some ({} : Queue))) ++ [(0x80000, some { cmds := [{ cmd := .createQueue 1 4 false 6 0 0 0 4 0 0 0, taken := true }] })]

theorem manyQueues_get (k : Nat) (h : k < 1024) (n m : Nat) (t : Tab (Option Queue)) (ht : tabGet none t k = none) :
    tabGet none (((List.range' n m).map fun i => (1024 + i, some ({} : Queue))) ++ t) k = none := by
  induction m generalizing n with
  | zero => simpa using ht
  | succ m ih => rw [List.range'_succ, List.map_cons, List.cons_append, tabGet, if_neg (by omega)]; exact ih _

theorem manyQueues_kernel (n m : Nat) (h : n + m ≤ 16384) (t : Tab (Option Queue)) :
    tabGet none (((List.range' n m).map fun i => (1024 + i, some ({} : Queue))) ++ t) 0x80000 = tabGet none t 0x80000 := by
  induction m generalizing n with
  | zero => rfl
  | succ m ih => rw [List.range'_succ, List.map_cons, List.cons_append, tabGet, if_neg (by omega)]; exact ih _ (by omega)

theorem witness_QueuesAreCreatedAndResumed_full : ∃ s : State, s = { kernelState .nop with queues := manyQueues } ∧
    kernelHead s (.kernel 0) { cmd := .createQueue 1 4 false 6 0 0 0 4 0 0 0, taken := true } [] ∧ s.alive 1 = true ∧ s.queue? (.normal 1 4) = none ∧ 16384 ≤ s.normalQueues := by
  refine ⟨_, rfl, kernelState_head ?_ rfl rfl, rfl, ?_, ?_⟩
  · show tabGet none manyQueues 0x80000 = _
    unfold manyQueues; rw [List.range_eq_range', manyQueues_kernel _ _ (by decide)]; rfl
  · show tabGet none manyQueues 516 = none
    unfold manyQueues; rw [List.range_eq_range']; exact manyQueues_get _ (by decide) _ _ _ rfl
  · simpa only [State.normalQueues, manyQueues] using length_manyQueues 16384 (Nat.le_refl _) [(0x80000, some { cmds := [{ cmd := .createQueue 1 4 false 6 0 0 0 4 0 0 0, taken := true }] })]

theorem witness_KeysAreInstalled : ∃ s : State, s = kernelState (.keyInstall 1 0 208) ∧ kernelHead s (.kernel 0) { cmd := .keyInstall 1 0 208, taken := true } [] ∧ s.alive 1 = true ∧
    s.keyBlob (s.queue (.kernel 0)).port 1 208 (s.kernelRead (.kernel 0) 0 208) = none ∧ s.hasRoom s.serviceDie :=
  ⟨_, rfl, kernelState_head rfl rfl rfl, rfl, rfl, (by decide : 0 < 256)⟩

/-- A KEY_INSTALL of context 1 by session 7, with the tag that the session's key gives its blob. -/
def installHead : List Byte := le 4 7 ++ le 2 1 ++ [1, 3] ++ le 4 0 ++ le 4 1 ++ List.replicate 16 0
def installTag : List Byte := gcmTag (hkdf [] keyInstallInfo 32) (slice installHead 16 12) installHead (List.replicate 160 5)
def installBlob (tag : List Byte) : List Byte := installHead ++ List.replicate 160 5 ++ tag
def installMem : Memory := writeBytes [] (hostKey 0 0 0) (installBlob installTag)
def installState : State :=
  { kernelState (.keyInstall 1 0 208) with sessions := [{ id := 7 }], hostMem := installMem }

theorem octets_length (n v : Nat) : (octets n v).length = n := by rw [octets, List.length_map, List.length_range]

theorem slice_exact (x y z : List Byte) : slice (x ++ y ++ z) x.length y.length = y := by
  have : ((x ++ y ++ z).drop x.length).take y.length = y := by rw [List.append_assoc, List.drop_left, List.take_left]
  rw [slice, this, Nat.sub_self, List.replicate_zero, List.append_nil]

theorem slice_head (x y : List Byte) (o n : Nat) (h : o + n ≤ x.length) : slice (x ++ y) o n = slice x o n := by
  have : ((x ++ y).drop o).take n = (x.drop o).take n := by
    rw [List.drop_append_of_le_length (by omega), List.take_append_of_le_length (by rw [List.length_drop]; omega)]
  rw [slice, slice, this]

theorem witness_KeysAreInstalled_sealed : kernelHead installState (.kernel 0) { cmd := .keyInstall 1 0 208, taken := true } [] ∧ installState.alive 1 = true ∧
    (installState.keyBlob (installState.queue (.kernel 0)).port 1 208 (installState.kernelRead (.kernel 0) 0 208)).isSome = true := by
  refine ⟨kernelState_head rfl rfl rfl, rfl, ?_⟩
  have hl : installTag.length = 16 := octets_length 16 _
  have hh : installHead.length = 32 := rfl
  have hx : (List.replicate 160 (5 : Byte)).length = 160 := List.length_replicate
  have hr : installState.kernelRead (.kernel 0) 0 208 = installBlob installTag := by
    have h := readBytes_writeBytes (installBlob installTag) [] (hostKey 0 0 0) rfl
    rw [show (installBlob installTag).length = 208 by rw [installBlob, List.length_append, List.length_append, hl, hh, hx]] at h
    have hp : (installState.queue (.kernel 0)).port = 0 := rfl
    have hm : installState.hostMem = installMem := by simp only [installState]
    rw [State.kernelRead, State.hostRead, hp, hm, installMem]; exact h
  have hs : installState.session (installState.queue (.kernel 0)).port 7 = some { id := 7 } := rfl
  have hc : installState.ctx 1 = {} := rfl
  have h0 : ∀ o n, o + n ≤ 32 → slice (installBlob installTag) o n = slice installHead o n := fun o n h => by
    rw [installBlob, List.append_assoc]; exact slice_head _ _ _ _ h
  have h1 : slice (installBlob installTag) 32 160 = List.replicate 160 5 := by
    have := slice_exact installHead (List.replicate 160 5) installTag
    rwa [hh, hx] at this
  have h2 : slice (installBlob installTag) 192 16 = installTag := by
    have := slice_exact (installHead ++ List.replicate 160 5) installTag []
    rwa [List.append_nil, List.length_append, hh, hx, hl] at this
  have h3 : slice installHead 0 32 = installHead := by decide
  rw [hr, State.keyBlob]
  simp only [fieldAt, h0 0 4 (by decide), h0 6 1 (by decide), h0 4 2 (by decide), h0 8 4 (by decide), h0 16 12 (by decide), h0 0 32 (by decide), h1, h2, h3, gcmOpen]
  rw [show ofLe (slice installHead 0 4) = 7 by decide, show ofLe (slice installHead 6 1) = 1 by decide, show ofLe (slice installHead 4 2) = 1 by decide,
    show ofLe (slice installHead 8 4) = 0 by decide, hs, hc, installTag]
  simp

/-- Context 1 bound to core 0, in debug mode, with a map of one tally and one operation at its mover. -/
def forceState (c : Cmd) : State :=
  { kernelState c with
    contexts := [(1, some { debugOn := true, launch := some { st := .running, tallies := [{ vid := 7 }] } })]
    cores := [(0, { ctx := some 1, mover := [{ op := .mover (.copy 0 0 0) }] })] }

theorem witness_TalliesAreForced :
    (∀ c, kernelHead (forceState c) (.kernel 0) { cmd := c, taken := true } [] ∧ ((forceState c).ctx? 1).isSome = true ∧ (forceState c).isBound 1 = true) ∧
    (forceState .nop).forceHome 1 7 (some 0) = some (0, 0) ∧ ((forceState .nop).tally 0 0).waits = [] ∧ (forceState .nop).ctxCoreOf 1 0 = some 0 ∧
    (∃ e, unitQueue ((forceState .nop).core 0) 3 = [e]) ∧ (kernelState .nop).isBound 1 = false ∧
    (bits (0x500080010007 : Word).toNat 16 10 = 1 ∧ bit (0x500080010007 : Word).toNat 31 = true ∧ bit (0x500080010007 : Word).toNat 30 = false ∧
      bits (0x500080010007 : Word).toNat 0 16 = 7 ∧ (forceState .nop).forceHome 1 7 none = some (0, 0) ∧ ((forceState .nop).ctx 1).debugOn = true) ∧
    (bit (0x3C0010000 : Word).toNat 30 = true ∧ bit (0x3C0010000 : Word).toNat 31 = true ∧ bits (0x3C0010000 : Word).toNat 40 8 = 0 ∧ bits (0x3C0010000 : Word).toNat 32 3 = 3) ∧
    ((kernelState .nop).ctx 1).debugOn = false ∧ bit (0x10007 : Word).toNat 31 = false ∧
    (let s := { kernelState .nop with contexts := [(1, some { debugOn := true })] }; (s.ctx 1).debugOn = true ∧ s.isBound 1 = false) :=
  ⟨fun c => ⟨kernelState_head rfl rfl rfl, rfl, rfl⟩, by decide +kernel, rfl, by decide +kernel, ⟨_, rfl⟩, rfl,
   ⟨by decide, by decide, by decide, by decide, by decide +kernel, rfl⟩, ⟨by decide, by decide, by decide, by decide⟩, rfl, by decide, rfl, rfl⟩

theorem witness_DrainsBegin :
    (∃ s : State, s = kernelState (.channelDrain 47 false) ∧ kernelHead s (.kernel 0) { cmd := .channelDrain 47 false, taken := true } [] ∧ (s.channel 47).drainQ ≠ some (.kernel 0) ∧
      (s.channel 47).st = .active ∧ s.otherMoves 47 = false ∧ s.framesToMove 47 ≤ s.sparesElsewhere 47) ∧
    (∃ s : State, s = { kernelState (.channelDrain 47 true) with channels := [(47, { st := .failed })] } ∧ (s.channel 47).st = .failed ∧ (s.channel 47).drainQ ≠ some (.kernel 0)) :=
  ⟨⟨_, rfl, kernelState_head rfl rfl rfl, by decide +kernel, by decide +kernel, by decide +kernel, by decide +kernel⟩, ⟨_, rfl, rfl, by decide⟩⟩

/-- A LARDER_WRITE of one page, with service stopped and nothing bound. -/
def larderState : State := { kernelState (.larderWrite 0x1000 0x100000000000 4096) with service := .stopped, contexts := [], owners := [(0, .package)] }

theorem witness_LarderLedgerAndInventory :
    (larderState.service = .stopped ∧ larderState.boundCtxs = [] ∧ (larderState.sets.any fun e => e.2.isSome) = false ∧ larderState.locate 0x1000 4096 = .cellar 0x1000 ∧
      larderState.cellarMapped 0x1000 4096 = true ∧ larderState.locate 0x100000000000 4096 = .larder 0x100000000000 ∧ larderState.mem.wf = true ∧
      (match larderState.memRead .keeper 0x1000 4096 with | .ok u _ => u.mem == larderState.mem && u.queues == larderState.queues | _ => false) = true) ∧
    kernelHead larderState (.kernel 0) { cmd := .larderWrite 0x1000 0x100000000000 4096, taken := true } [] ∧ (kernelState .nop).service ≠ .stopped ∧ (kernelState .nop).hostMem.wf = true ∧
    (∀ c, kernelHead (kernelState c) (.kernel 0) { cmd := c, taken := true } []) :=
  ⟨⟨rfl, rfl, rfl, by decide +kernel, by decide +kernel, by decide +kernel, rfl, by decide +kernel⟩, kernelState_head rfl rfl rfl, by decide, rfl, fun _ => kernelState_head rfl rfl rfl⟩

theorem witness_RecoverActs :
    (∀ c, kernelHead (kernelState c) (.kernel 0) { cmd := c, taken := true } [] ∧ (kernelState c).recover = none) ∧
    isCompute 5 = true ∧ ((kernelState (.recover 1 0 5)).die 5).failed = none ∧
    (∃ s : State, s = { kernelState (.recover 1 1 5) with dies := [(5, { failed := some fDieFail })] } ∧ s.heldOut 5 = true ∧ (s.die 5).failed = some fDieFail ∧ neverReleased fDieFail = false ∧
      s.hasRoom 5) ∧
    (∃ s : State, s = { kernelState (.recover 1 1 5) with dies := [(5, { failed := some fSelftest })] } ∧ (s.die 5).failed = some fSelftest ∧ neverReleased fSelftest = true) ∧
    (kernelState (.recover 1 2 5)).heldOut 5 = false ∧ isPort 3 = true ∧ ((kernelState (.recover 3 0 1)).ctx? 1).isSome = true ∧
    (3, 1) ∉ [(0, 0), (0, 1), (0, 2), (0, 3), (1, 0), (1, 1), (1, 2), (2, 0), (2, 1), (3, 0)] :=
  ⟨fun _ => ⟨kernelState_head rfl rfl rfl, rfl⟩, rfl, rfl, ⟨_, rfl, by decide +kernel, rfl, by decide, (by decide : 0 < 256)⟩, ⟨_, rfl, rfl, by decide⟩, by decide +kernel, rfl, rfl, by decide⟩

theorem witness_RecoverMovesKeepersAndService :
    (∀ c, kernelHead (kernelState c) (.kernel 0) { cmd := c, taken := true } [] ∧ (kernelState c).recover = none) ∧
    ((kernelState (.recover 0 1 0)).holder = some 0 ∧ (kernelState (.recover 0 1 0)).keeper 1 ≠ .standby) ∧
    (∃ s : State, s = { kernelState (.recover 0 1 0) with keeper1 := .standby, contexts := [(1, some { launch := some { st := .bound } })] } ∧ s.keeper 1 = .standby ∧
      s.handoverClear = false) ∧
    (∃ s : State, s = { kernelState (.recover 0 1 0) with keeper1 := .standby } ∧ s.holder = some 0 ∧ s.keeper 1 = .standby ∧ s.handoverClear = true) ∧
    (∃ s : State, s = { kernelState (.recover 0 2 0) with service := .stopped } ∧ s.service = .stopped) ∧
    (∃ s : State, s = { kernelState (.recover 0 2 0) with contexts := [], service := .normal } ∧ s.service ≠ .stopped ∧ s.boundCtxs = []) ∧
    ((kernelState (.recover 0 2 0)).service ≠ .stopped ∧ ((kernelState (.recover 0 2 0)).ctx? 1).isSome = true) ∧
    (∃ s : State, s = { kernelState (.recover 0 3 0) with service := .stopped } ∧ s.broken = false ∧ s.stopping = false ∧ s.service = .stopped) ∧
    (∃ s : State, s = { kernelState (.recover 0 3 0) with broken := true } ∧ s.broken = true) :=
  ⟨fun _ => ⟨kernelState_head rfl rfl rfl, rfl⟩, ⟨rfl, by decide⟩, ⟨_, rfl, rfl, by decide +kernel⟩, ⟨_, rfl, rfl, rfl, by decide +kernel⟩, ⟨_, rfl, rfl⟩, ⟨_, rfl, by decide, rfl⟩,
   ⟨by decide, rfl⟩, ⟨_, rfl, rfl, rfl, rfl⟩, ⟨_, rfl, rfl⟩⟩

theorem witness_DiesAreRetired : let s := fun n => kernelState (.dieRetire 5 n)
    (∀ n, kernelHead (s n) (.kernel 0) { cmd := .dieRetire 5 n, taken := true } []) ∧
    (∃ c r, 5 ∈ (s 0xFF).inv.logical ∧ (s 0xFF).launchesOn 5 = [] ∧ c = (s 0xFF).sparesFor ((s 0xFF).dieCores 5).length ∧ c = [16] ++ 33 :: r ∧ (∀ e ∈ [16], e ∈ [16]) ∧ 33 ∉ [16] ∧ 33 ≠ 5) ∧
    (∃ c, c = (s 50).sparesFor ((s 50).dieCores 5).length ∧ 50 ∈ c ∧ (if 50 = 0xFF then c else [50]) = [50]) ∧
    16 ∉ (kernelState (.dieRetire 16 0xFF)).inv.logical :=
  ⟨fun _ => kernelState_head rfl rfl rfl, ⟨_, [50, 67], by decide +kernel, by decide +kernel, rfl, by decide +kernel, by decide, by decide, by decide⟩, ⟨_, rfl, by decide +kernel, rfl⟩, by decide +kernel⟩

theorem witness_TalliesAreForced_later (b : Bool) : ∃ s : State, s = { forceState .nop with dies := [(0, { curOp := if b then 0 else 1 })], dgGo := b } ∧ s.forceHome 1 7 (some 0) = some (0, 0) ∧
    s.atOp0 (0 / 4) = b ∧ (s.ctx 1).quenchOrdered = false ∧ s.dgGo = b :=
  ⟨_, rfl, by cases b <;> decide +kernel, by cases b <;> decide +kernel, rfl, rfl⟩

theorem witness_QueuesAreCreatedAndResumed_performing : ∃ s : State, ∃ x w,
    s = (kernelState (.createQueue 1 4 true 6 0 0 0 4 0 0 0)).setQueue (.normal 1 4) (some { cmds := [{ cmd := .fence, taken := true }, {}], st := .fetching }) ∧
    s.queue? (.normal 1 4) = some x ∧ x.cmds = w :: [{}] ∧ w.taken = true ∧ x.st ≠ .waiting ∧ x.deleting = none ∧ x.port = (s.queue (.kernel 0)).port ∧
    s.queue? (.kernel 0) = some { cmds := [{ cmd := .createQueue 1 4 true 6 0 0 0 4 0 0 0, taken := true }] } :=
  ⟨_, { cmds := [{ cmd := .fence, taken := true }, {}], st := .fetching }, { cmd := .fence, taken := true }, rfl, rfl, rfl, rfl, by decide, rfl, rfl, rfl⟩

/-! ## Host ports and registers -/

/-- Both ports up and ready, with a queue of context 1 on port 0 and a kernel queue. -/
def hostPortState : State :=
  { State.reset with
    host0 := { up := true, ready := true, winSel := 5 }
    host1 := { up := true, ready := true, winSel := 5 }
    contexts := [(1, some { tdi := .run }), (2, some { dmaLast := some 0 })]
    queues := [(512, some {}), (0x80000, some {})] }

theorem witness_ConfigurationRequests : State.reset.configReady 0 = false ∧ hostPortState.configReady 0 = true ∧ (configField 0x104).w1c = 0xFFFFFFFF ∧ barMask 0x10 = some (0xFE000000, 4) := by
  decide +kernel

theorem witness_RolesChange : (hostPortState.hp 1).up = true ∧
    ((hostPortState.hp 0).ready = true ∧ hostPortState.halted = false ∧ 0 = hostPortState.primary ∧ bits (1 : Word).toNat 0 1 ≠ hostPortState.primary) ∧
    (1 ≠ hostPortState.primary ∧ (hostPortState.hp hostPortState.primary).up = true) ∧
    (∃ s : State, s = { hostPortState with host0 := { ready := true } } ∧ 0 = s.primary ∧ (s.hp 0).up = false ∧ (s.hp (1 - 0)).autoFailover = true) :=
  ⟨rfl, ⟨rfl, rfl, rfl, by decide⟩, ⟨by decide, rfl⟩, ⟨_, rfl, rfl, rfl, rfl⟩⟩

theorem witness_LinksGoDownAndReturn : linkTrains 6 16 = true ∧ (State.reset.die 96).failed = none ∧ (∀ c, dmaBarred (State.reset.ctx c) = false) ∧ (hostPortState.hp 0).up = true ∧ (∃ x, hostPortState.queue? (.normal 1 0) = some x ∧ x.port = 0 ∧ x.port ≠ 1) ∧
    (State.reset.hp 0).up = false ∧ (State.reset.hp 0).perstLow = false ∧ State.reset.phase ≠ 0 ∧
    (∃ s : State, s = { State.reset with host0 := { perstLow := true }, queues := [(0x80000, some {})] } ∧ (s.hp 0).perstLow = true ∧ (s.hp 0).up = false ∧ (s.queue? (.kernel 0)).isSome = true) :=
  ⟨rfl, rfl, fun _ => rfl, rfl, ⟨{}, rfl, rfl, by decide⟩, rfl, rfl, by decide, ⟨_, rfl, rfl, rfl, rfl⟩⟩

theorem witness_FunctionsAreReset : ∃ s : State, s = { hostPortState with phase := 0 } ∧ s.phase = 0 ∧ 1 ∈ s.portCtxs 0 := ⟨_, rfl, rfl, by decide +kernel⟩

theorem witness_ViolationsAndDma :
    (isContext 1 = true ∧ (hostPortState.ctx? 1).isSome = true ∧ hostPortState.hostMem.wf = true ∧ hostPortState.ctx? 9 = none ∧ dmaBarred (hostPortState.ctx 1) = false ∧ hostPortState.configReady 0 = true ∧
      State.reset.configReady 0 = false) ∧
    dmaBarred { sealed := true, tdisp := true } = true ∧
    (∃ s : State, s = { hostPortState with now := 1000000 } ∧ s.hasRoom (96 + 0) ∧ ∀ e ∈ s.jobCtxs (s.ctx 1).job, ∀ n, (s.ctx e).dmaLast = some n → n + 1000000 ≤ s.count (96 + 0)) ∧
    (2 ∈ hostPortState.jobCtxs (hostPortState.ctx 1).job ∧ (hostPortState.ctx 2).dmaLast = some 0 ∧ hostPortState.count (96 + 0) < 0 + 1000000) ∧
    (∃ x, hostPortState.ctx? 1 = some x ∧ x.port = 0 ∧ x.tdiStream = 0 ∧ tdiLocked x = true) := by
  refine ⟨⟨rfl, rfl, rfl, rfl, rfl, by decide +kernel, by decide +kernel⟩, rfl, ⟨_, rfl, (by decide : 0 < 256), ?_⟩, ⟨by decide, rfl, by decide +kernel⟩, ⟨_, rfl, rfl, rfl, rfl⟩⟩
  intro e he n h
  have : e = 1 ∨ e = 2 := by simpa using (show e ∈ [1, 2] from he)
  rcases this with rfl | rfl
  · exact nomatch (h : (none : Option Nat) = some n)
  · cases h; decide +kernel

theorem witness_ApertureReachesTheDie :
    ((hostPortState.hp 0).ready = true ∧ hostPortState.halted = false ∧ (hostPortState.die (hostPortState.hp 0).winSel).railOff = false ∧ (hostPortState.readWindow 5 (alignTo 8 0x10000)).isSome = true ∧
      hostPortState.readWindow 5 (alignTo 8 0x10100) = none ∧ 0 = hostPortState.primary ∧ isDie (hostPortState.hp 0).winSel = true ∧ hostPortState.reaches (96 + 0) (hostPortState.hp 0).winSel = true ∧ 1 ≠ hostPortState.primary ∧ (hostPortState.hp 1).ready = true) ∧
    (∃ s : State, s = { hostPortState with dies := [(5, { railOff := true })] } ∧ (s.die (s.hp 0).winSel).railOff = true) ∧
    (∃ s : State, s = { hostPortState with inv := { hostPortState.inv with routers := [5] } } ∧ s.reaches (96 + 0) (s.hp 0).winSel = false) :=
  ⟨⟨rfl, rfl, rfl, by decide +kernel, by decide +kernel, rfl, rfl, by decide +kernel, by decide, rfl⟩, ⟨_, rfl, rfl⟩, ⟨_, rfl, by decide +kernel⟩⟩

theorem witness_RegisterWritesAreClamped : isDie 5 = true ∧ hostPortState.readWindow 5 (alignTo 8 0x10100) = none ∧ 2000 ≤ bits (21500 : Word).toNat 0 16 ∧ bits (21500 : Word).toNat 0 16 ≤ 21500 ∧
    isContext 1 = true ∧ (hostPortState.ctx? 1).isSome = true ∧ isCompute 67 = true ∧ isLink 95 = true ∧ (hostPortState.hp 1).ready = true ∧ hostPortState.halted = false :=
  ⟨rfl, by decide +kernel, by decide, by decide, rfl, rfl, rfl, rfl, rfl, rfl⟩

/-! ## Fabric transport -/

/-- A packet of flow 0 of package 0, which has this number too. -/
def pkt (addr : Nat) (data : List Byte) : Packet :=
  { ptype := 0, cls := 0, route := 0, retransmit := false, len := data.length, srcPkg := 0, dstPkg := 0, flow := 0, psn := 0, addr := BitVec.ofNat 64 addr, stamp := 0, data := data }

/-- A flow that ends in context 1. -/
def rxEnd (base : Nat) (expect : BitVec 32) (unacked : Nat) (group : Bool) : RxFlow :=
  { ctx := 1, landBase := base, landBytes := 0x10000, group := group, expect := expect, unacked := unacked }

/-- Port 0 up, a launch of context 1 on die 0 with a tally of core 0, and two flows that end in it: flow 0 with landing area `base`, and a group's. -/
def rxState (base : Nat) (expect : BitVec 32) (unacked : Nat) : State :=
  { State.reset with
    inv := factoryInventory
    channels := allActive
    owners := [(0, .package)]
    ports := [(0, { st := .up })]
    dies := [(0, { curOp := 5, job := some 0 })]
    cores := [(0, { ctx := some 1, openMesh := true })]
    contexts := [(1, some { launch := some { tallies := [{ vid := 3, index := 4 }] } })]
    rxFlows := [(0, some (rxEnd base expect unacked false)), (2 ^ 32, some (rxEnd base expect unacked true))] }

theorem witness_WritesLandInPsnOrder : let s := rxState computeBase 0 0
    (∃ x, nextPacket s (pkt computeBase [1]) x false ∧ unheld s 0 (pkt computeBase [1]) computeBase 1 ∧ s.guardOf x.ctx true computeBase 1 = none ∧ faLow (pkt computeBase [1]).addr.toNat = computeBase ∧
      s.landing x computeBase 1 true = .store (shelfKey 0 0) ∧ unheld s 0 (pkt 0 [1]) 0 1 ∧ s.landing x (faLow (pkt 0 [1]).addr.toNat) 1 true = .unmapped) ∧
    (∃ x, nextPacket s (pkt 0 [1]) x true ∧ unheld s 0 (pkt 0 [1]) computeBase 1 ∧ x.landBase + bits (pkt 0 [1]).addr.toNat 0 32 = computeBase ∧
      s.landing x computeBase 1 true = .store (shelfKey 0 0)) ∧
    s.hasRoom 88 ∧ s.hasRoom (keyDie (shelfKey 0 0)) ∧ s.transits = [] ∧ s.mem.wf = true ∧
    (∀ v ∈ [(5 : BitVec 32), 0xFFFFFFFB], ∃ x, (rxState computeBase v 1).rx? (rxKeyOf 0 0 false) = some x ∧ x.pruned = false ∧ x.resync = false ∧ x.group = false ∧ 0 < ((0 : BitVec 32) - x.expect).toNat ∧ x.nackAt = none) ∧
    ((0 : BitVec 32) - 5).toNat ≥ 2 ^ 31 ∧ ((0 : BitVec 32) - 0xFFFFFFFB).toNat < 2 ^ 31 ∧ ((rxState computeBase 5 1).port 0).st = .up ∧
    (∃ y, (rxState computeBase 5 1).rx? 0 = some y ∧ 0 < y.unacked ∧ ((rxState computeBase 5 1).port y.link).st = .up) := by
  refine ⟨⟨rxEnd computeBase 0 0 false, ⟨by decide +kernel, rfl, rfl, rfl, by decide, fun _ => rfl⟩, by unfold unheld; decide +kernel, by decide +kernel, by decide +kernel, by decide +kernel, by unfold unheld; decide +kernel,
      by decide +kernel⟩,
    ⟨rxEnd computeBase 0 0 true, ⟨by decide +kernel, rfl, rfl, rfl, by decide, fun _ => rfl⟩, by unfold unheld; decide +kernel, by decide +kernel, by decide +kernel⟩,
    (by decide +kernel), (by decide +kernel), rfl, rfl, ?_, by decide, by decide, rfl, ⟨_, rfl, by decide, rfl⟩⟩
  intro v hv
  simp only [List.mem_cons, List.not_mem_nil, or_false] at hv
  rcases hv with rfl | rfl <;> exact ⟨_, rfl, rfl, rfl, rfl, by decide, rfl⟩

/-- A scheduled launch whose link 0 has the FILLED slot at the start of core 0's shelf. -/
def guardState : State :=
  { rxState computeBase 0 0 with
    contexts := [(1, some { launch := some { scheduled := true, links := [{ base := computeBase, filled := [0] }] } })] }

theorem witness_WritesLandInPsnOrder_other :
    (∃ x l, guardState.rx? (rxKeyOf 0 0 false) = some x ∧ l = [(1 : Byte)] ∧ unheld guardState 0 (pkt computeBase [1]) computeBase 1 ∧ guardState.landing x computeBase 1 true = .store (shelfKey 0 0) ∧
      (guardState.guardOf x.ctx true computeBase 1).isSome = true) ∧
    (∃ x s, s = rxState 0 0 0 ∧ nextPacket s (pkt 0x1000 [1]) x false ∧ unheld s 0 (pkt 0x1000 [1]) 0x1000 1 ∧ s.landing x 0x1000 1 true = .cellar 0x1000 ∧ s.pinned 0x1000 1 false = false ∧
      clearWrite s (.context x.ctx) 0x1000 1) ∧
    (∃ x s, s = { rxState computeBase 0 0 with cores := [(0, { ctx := some 1, openMesh := true, scoreRow := 0, length := 4 })] } ∧ s.rx? (rxKeyOf 0 0 false) = some x ∧
      unheld s 0 (pkt computeBase [1]) computeBase 1 ∧ s.landing x computeBase 1 true = .invalid) :=
  ⟨⟨_, _, rfl, rfl, by unfold unheld; decide +kernel, by decide +kernel, by decide +kernel⟩,
   ⟨rxEnd 0 0 0 false, _, rfl, ⟨by decide +kernel, rfl, rfl, rfl, by decide, fun _ => rfl⟩, by unfold unheld; decide +kernel, by decide +kernel, by decide +kernel, by unfold clearWrite; decide +kernel⟩,
   ⟨_, _, rfl, rfl, by unfold unheld; decide +kernel, by decide +kernel⟩⟩

/-- A flow of context 1 with two packets in its window, sent `n` times, and its second route. -/
def flowState (n timeouts : Nat) (failed : List Nat) : State :=
  { rxState computeBase 0 0 with
    flows := [(0, some { ctx := 1, tracked := 8, usable := true, routes := [[0], [1]], failedRoutes := failed, timeouts := timeouts, window := [pkt 0 [1], pkt 8 [2]],
                         owners := [(noOwner, n), (noOwner, n)], sent := 2, next := 2, loads := [{ addr := 0, len := 1, dest := computeBase, core := 0 }] })]
    cores := [(0, { ctx := some 1, openMesh := true, mover := [{ op := .mover (.copy 0 0 8) }] })] }

theorem witness_RemoteReadsAtomicsAndSignals :
    (∃ x, nextPacket (rxState computeBase 0 0) (pkt computeBase [1]) x false ∧ (rxState computeBase 0 0).landing x (faLow (pkt computeBase [1]).addr.toNat) 1 false = .store (shelfKey 0 0) ∧
      unheld (rxState computeBase 0 0) 0 (pkt computeBase [1]) (faLow (pkt computeBase [1]).addr.toNat) 1 ∧ (rxState computeBase 0 0).guardOf x.ctx false (faLow (pkt computeBase [1]).addr.toNat) 1 = none) ∧
    (∃ x, nextPacket (rxState 0 0 0) (pkt 0x1000 [1]) x false ∧ unheld (rxState 0 0 0) 0 (pkt 0x1000 [1]) 0x1000 1 ∧ (rxState 0 0 0).landing x 0x1000 1 false = .cellar 0x1000 ∧
      clearRead (rxState 0 0 0) (.context x.ctx) 0x1000 1) ∧
    (∃ f l e, (flowState 0 0 []).flow? 0 = some f ∧ (f.loads.find? fun l => l.addr == 0 && l.len == 1) = some l ∧ computeBase ≤ l.dest ∧ unheld (flowState 0 0 []) 0 (pkt 0 [1]) ((flowState 0 0 []).localOf l.dest) 1 ∧
      (match keyCore l.dest with | some k => (flowState 0 0 []).shelfOpen f.ctx k true | none => (flowState 0 0 []).loftOpen f.ctx (keyDie l.dest) true) = true ∧ isCore l.core = true ∧
      ((flowState 0 0 []).core l.core).mover = [e]) ∧
    (∃ s : State, ∃ x, s = { rxState 0 0 0 with mem := [(0x1000, 7)] } ∧ ∀ op ∈ [1, 6, 7, 3, 9], nextPacket s (pkt 0x1000 (le 8 op ++ le 8 5)) x false ∧ bits (0x1000 : Word).toNat 0 47 = 0x1000 ∧
      within 0x1000 8 x.landBase x.landBytes = true ∧ s.locate 0x1000 8 = .cellar 0x1000 ∧ s.cellarMapped 0x1000 8 = true ∧ s.mayRead (.context x.ctx) 0x1000 8 = true ∧
      s.lostAt 0x1000 8 = none ∧ unheld s 0 (pkt 0x1000 (le 8 op ++ le 8 5)) 0x1000 8 ∧ readLe s.mem 0x1000 8 = 7 ∧ s.pinned 0x1000 8 false = false ∧ s.marks = [] ∧ atomicOk op = !(op == 9)) ∧
    (∃ x s, s = { rxState 0 0 0 with contexts := [(1, some {})] } ∧ nextPacket s (pkt 3 []) x false ∧ s.quenchedCtx x.ctx = true) ∧
    (∃ x l e, nextPacket (rxState 0 0 0) (pkt 3 []) x false ∧ (rxState 0 0 0).quenchedCtx x.ctx = false ∧ (rxState 0 0 0).launchOf x.ctx = some l ∧ findTally l (bits (pkt 3 []).addr.toNat 0 16) = some e ∧ e.kind = 0 ∧
      (rxState 0 0 0).tallyHome e 88 = some (0, 4)) := by
  refine ⟨⟨rxEnd computeBase 0 0 false, ⟨by decide +kernel, rfl, rfl, rfl, by decide, fun _ => rfl⟩, by decide +kernel, by unfold unheld; decide +kernel, by decide +kernel⟩,
    ⟨rxEnd 0 0 0 false, ⟨by decide +kernel, rfl, rfl, rfl, by decide, fun _ => rfl⟩, by unfold unheld; decide +kernel, by decide +kernel, by unfold clearRead; decide +kernel⟩,
    ⟨_, _, _, rfl, rfl, by decide, by unfold unheld; decide +kernel, by decide +kernel, rfl, rfl⟩,
    ⟨_, rxEnd 0 0 0 false, rfl, ?_⟩, ⟨rxEnd 0 0 0 false, _, rfl, ⟨by decide +kernel, rfl, rfl, rfl, by decide, fun _ => rfl⟩, rfl⟩,
    ⟨rxEnd 0 0 0 false, _, _, ⟨by decide +kernel, rfl, rfl, rfl, by decide, fun _ => rfl⟩, rfl, rfl, rfl, rfl, by decide +kernel⟩⟩
  intro op h
  have : op = 1 ∨ op = 6 ∨ op = 7 ∨ op = 3 ∨ op = 9 := by simpa using h
  refine ⟨⟨(by decide +kernel : State.rx? { rxState 0 0 0 with mem := [(0x1000, 7)] } (rxKeyOf 0 0 false) = some (rxEnd 0 0 0 false)), rfl, rfl, rfl, by decide, fun _ => rfl⟩, by decide +kernel, by decide, by decide +kernel, by decide +kernel, by decide +kernel, by decide +kernel, by unfold unheld; rcases this with rfl | rfl | rfl | rfl | rfl <;> decide +kernel, by decide +kernel, rfl, rfl, ?_⟩
  rcases this with rfl | rfl | rfl | rfl | rfl <;> rfl

theorem witness_FlowsResendAndMove :
    (∃ x, (flowState 0 0 []).flow? 0 = some x ∧ 0 < ((2 : BitVec 32) - x.oldest).toNat ∧ ((2 : BitVec 32) - x.oldest).toNat ≤ x.sent ∧ x.window ≠ []) ∧
    (∀ n ∈ [1, 8], ∀ k ∈ [0, 1], ∃ x, (flowState n k []).flow? 0 = some x ∧ (0 : BitVec 32) = x.oldest ∧ x.timeouts = k ∧ x.window ≠ [] ∧ ((x.owners.head?.map (·.2)).getD 0) = n ∧
      (flowState n k []).hasRoom (88 + flowPort x)) ∧
    (∃ x, (flowState 1 1 []).flow? 0 = some x ∧ x.route = 0 ∧ x.route < 1 ∧ 1 < x.routes.length ∧ 1 ∉ x.failedRoutes) ∧
    (∃ x, (flowState 1 1 [1]).flow? 0 = some x ∧ ∀ k, x.route < k → k < x.routes.length → k ∈ x.failedRoutes) := by
  refine ⟨⟨_, rfl, by decide, by decide, by simp⟩, ?_, ⟨_, rfl, rfl, by decide, by decide, by decide⟩, ⟨_, rfl, fun k h1 h2 => ?_⟩⟩
  · intro n _ k _
    exact ⟨_, rfl, rfl, rfl, by simp, rfl, (by decide : 0 < 256)⟩
  · have h3 : 0 < k := h1
    have h4 : k < 2 := h2
    exact List.mem_singleton.2 (by omega)

/-- The plan of one path to package 5 by port 0, with 2 lanes and 4 tracked requests. -/
def planLine (lanes : Nat) : List Byte :=
  le 4 0 ++ le 1 1 ++ le 1 0 ++ le 2 1 ++ le 2 0 ++ le 2 0 ++ le 4 64 ++ le 4 128 ++ le 4 16 ++ List.replicate 40 0 ++
    (le 4 9 ++ le 2 5 ++ le 1 lanes ++ le 1 0 ++ le 1 1 ++ le 3 0 ++ le 4 128 ++ le 8 computeBase ++ le 8 64 ++ le 4 4 ++ List.replicate 28 0) ++
    (le 1 1 ++ le 15 0)

/-- A PATH_SETUP at the head of the kernel queue, with a plan of `lanes` lanes in host memory. -/
def pathState (n lanes : Nat) (st : PortSt) : State :=
  { kernelState (.pathSetup 1 0 n) with
    contexts := [(1, some {})]
    ports := [(0, { st := st })]
    hostMem := writeBytes [] (hostKey 0 0 0) (planLine lanes) }

/-- A PATH_SETUP under way with one flow, awaiting `k` answers. -/
def jobState (k : Nat) : State :=
  { kernelState (.pathSetup 1 0 144) with
    contexts := [(1, some {})]
    ports := [(0, { st := .up })]
    flows := [(0, some { ctx := 1, path := 9, dest := 5, routes := [[0]] })]
    pathJobs := [{ q := .kernel 0, ctx := 1, flows := [0], awaited := k }] }

theorem witness_PathsAreSetUpAndTornDown :
    (∀ n v st, kernelHead (pathState n v st) (.kernel 0) { cmd := .pathSetup 1 0 n, taken := true } [] ∧ ((pathState n v st).pathJobs.any fun j => j.q == .kernel 0) = false ∧
      (pathState n v st).alive 1 = true) ∧
    (∀ st ∈ [PortSt.up, .dark], let s := pathState 144 2 st
      let l := s.kernelRead (.kernel 0) 0 144
      fieldAt l 0 4 = (s.ctx 1).job ∧ fieldAt l 4 1 = 1 ∧ fieldAt l 6 2 = 1 ∧ fieldAt l 8 2 = 0 ∧ fieldAt l 12 4 = 64 ∧ fieldAt l 16 4 = 128 ∧
      s.planRefused 1 (fieldAt l 20 4) (planParts l).1 (planParts l).2 = if st = .up then none else some (2, 0)) ∧
    (∀ k, isQueue (.kernel 0) = true ∧ (jobState k).pathJobs = [{ q := .kernel 0, ctx := 1, flows := [0], awaited := k }] ∧ ((jobState k).ctx 1).sealed = false ∧
      (jobState k).queue? (.kernel 0) = some { cmds := [{ cmd := .pathSetup 1 0 144, taken := true }] }) ∧
    (∀ r, r < 256 → bit (ofBe (slice (be 1 r ++ be 27 0) 8 1)) 0 = false ∧ ofBe (slice (be 1 r ++ be 27 0) 0 1) = r) ∧
    (∃ s : State, s = { jobState 0 with queues := (kernelState (.pathTeardown 1 9)).queues, pathJobs := [] } ∧ kernelHead s (.kernel 0) { cmd := .pathTeardown 1 9, taken := true } [] ∧
      s.alive 1 = true ∧ s.launchOf 1 = none ∧ s.pathFlows 1 9 = [0] ∧ ∀ y, s.flow? 0 = some y → y.window = []) := by
  refine ⟨fun n v st => ⟨kernelState_head rfl rfl rfl, rfl, rfl⟩, ?_, fun k => ⟨rfl, rfl, rfl, rfl⟩, ?_, ⟨_, rfl, kernelState_head rfl rfl rfl, rfl, rfl, by decide +kernel, ?_⟩⟩
  · intro st h
    have : st = .up ∨ st = .dark := by simpa using h
    rcases this with rfl | rfl <;> decide +kernel
  · intro r h
    have := List.mem_range.2 h
    revert this; revert r
    decide +kernel
  · intro y h; cases h; rfl

/-- A SETUP by port 0 of a path to package `d`, through port 1, with `lanes` lanes. -/
def setupPkt (d lanes : Nat) (release : Bool) (job hop : Nat) : Packet :=
  let l := setupBytes { job := job, lanes := lanes, hop := hop, release := release, route := [0, 1], base := computeBase, len := 64 }
  { pkt 0 l with ptype := 9, dstPkg := d }

/-- Ports 0 and 1, of which port 1 is in state `st`, and context 1 of job 0. -/
def transitState (st : PortSt) : State := { rxState computeBase 0 0 with ports := [(0, { st := .up }), (1, { st := st })], rxFlows := [], holder := some 0 }

theorem witness_SetupsReserveAlongTheRoute :
    (let p := setupPkt 0 2 false 0 2
     let m := setupOf p.data
     let s := transitState .up
     p.dstPkg = s.pkgId ∧ m.route.length ≤ m.hop ∧ m.release = false ∧ m.group = false ∧ s.jobCtxs m.job = [1] ∧ (s.ctx 1).sealed = false ∧ m.mac.all (· == 0) = true ∧
       (s.ctx 1).dying = false ∧ s.holder.isSome = true ∧ s.landable 1 m.base m.len = true ∧ s.rx? (rxKeyOf p.srcPkg p.flow false) = none ∧ (s.port 0).st = .up) ∧
    (transitState .up).jobCtxs (setupOf (setupPkt 0 2 false 7 2).data).job = [] ∧ (setupOf (setupPkt 0 2 true 0 2).data).release = true ∧
    (∀ lanes ∈ [2, 15, 16], let p := setupPkt 5 lanes false 0 1
      let m := setupOf p.data
      let s := transitState .up
      p.dstPkg ≠ s.pkgId ∧ m.release = false ∧ m.group = false ∧ m.route.getD m.hop 0 = 1 ∧ s.transits = [] ∧ p.route = 0 ∧ (s.port 1).st = .up ∧ m.lanes = lanes ∧
        (laneFree (s.port 1)).length = 15) ∧
    ((transitState .dark).port 1).st ≠ .up := by
  decide +kernel

theorem witness_GroupsAdvanceAndPrune :
    (∃ g m, let s : State := { State.reset with groups := [(65536, some { ctx := 1, members := [{ pkg := 0 }], sent := 2, window := [pkt 0 [1], pkt 0 [2]], fullAt := some 0 })] }
      s.groups = [(groupKey 1 0, some g)] ∧ g.members = [m] ∧ m.pkg = (pkt 0 []).srcPkg ∧ m.pruned = false ∧ ((2 : BitVec 32) - g.oldest).toNat ≤ g.sent ∧
      g.sent ≤ g.window.length ∧ ackedOf g m ≤ ((2 : BitVec 32) - g.oldest).toNat ∧ groupKey 1 0 % 65536 = (pkt 0 []).flow ∧
      s.group? (groupKey 1 0) = some g ∧ g.fullAt.isSome = true ∧ s.hasRoom s.keeperDie) ∧
    (∃ g, let s : State := { State.reset with groups := [(65536, some { ctx := 1 })] }
      s.group? (groupKey 1 0) = some g ∧ g.id = 0 ∧ g.ctx = 1 ∧ g.fullAt = none ∧ isContext 1 = true) :=
  ⟨⟨{ ctx := 1, members := [{ pkg := 0 }], sent := 2, window := [pkt 0 [1], pkt 0 [2]], fullAt := some 0 }, { pkg := 0 }, rfl, rfl, rfl, rfl, by decide, by decide, by decide, rfl, rfl, rfl,
    (by decide : 0 < 256)⟩, ⟨{ ctx := 1 }, rfl, rfl, rfl, rfl, rfl⟩⟩

theorem witness_FlowsResendAndMove_unreach : ∃ x, (flowState 8 0 []).flow? 0 = some x ∧ (flowState 8 0 []).hasRoom (flowHome x) ∧ groupPacket { pkt 0 [] with ptype := 7 } = false ∧
    (be 2 fAddrUnmapped ++ be 8 0).length = 10 ∧ fAddrUnmapped < 2 ^ 16 := ⟨_, rfl, (by decide : 0 < 256), by decide, by decide, by decide⟩

theorem witness_SetupsReserveAlongTheRoute_passing :
    (∀ ms ∈ [[5], [5, 6]], let m : SetupMsg := setupOf (setupBytes { release := true, group := true, hop := 1, route := [0, 1] })
      let s := { transitState .up with transits := [{ flow := 0, die := 88, outPort := 1, group := true, members := ms }] }
      s.transits = [{ flow := 0, die := 88, outPort := 1, group := true, members := ms }] ∧ m.release = true ∧ m.group = true ∧ m.route.getD m.hop 0 = 1 ∧ s.reaches 88 89 = true ∧ 5 ≠ s.pkgId) ∧
    carries (setupOf (setupPkt 5 2 false 0 1).data) ∧
    (setupOf (setupBytes { prune := true, group := true, hop := 1, route := [0, 1] })).prune = true ∧ (setupOf (setupBytes { restore := true, group := true, hop := 1, route := [0, 1] })).restore = true :=
  ⟨by decide +kernel, by unfold carries; decide +kernel, by decide +kernel, by decide +kernel⟩

theorem witness_GroupsAdvanceAndPrune_passing : ∀ l ∈ [[], [5]], let y : Transit := { die := 88, outPort := 1, group := true, members := [5], pruned := l }
    let s := { transitState .up with transits := [y] }
    s.rx? (rxKeyOf 0 0 true) = none ∧ s.transits = [y] ∧ (s.port y.outPort).st = .up ∧ s.reaches (88 + 0) (88 + y.outPort) = true ∧ (5 ∈ y.pruned ↔ l = [5]) := by decide +kernel

theorem witness_RemoteReadsAtomicsAndSignals_turned : (rxState 0 0 0).signalTo 1 (bits (pkt 9 []).addr.toNat 0 16) 0 = none ∧ ofFlow (pkt 9 []) (rxEnd 0 0 0 false) ∧ (rxState 0 0 0).hasRoom 88 :=
  ⟨by decide +kernel, ⟨rfl, rfl, rfl⟩, by decide +kernel⟩

theorem witness_TimeTreeExchanges :
    (∃ s : State, s = { State.reset with holder := some 0, ports := [(2, { st := .up })], time := { enable := true, parent := 2, outstanding := some 3 } } ∧ s.time.enable = true ∧ s.time.root = false ∧
      isPort s.time.parent = true ∧ (s.port s.time.parent).st = .up ∧ sendable (s.port s.time.parent) 0 = true ∧ s.farCount s.time.parent { depth := 0, aligned := true, seq := 3, t1 := 0, t2 := 0, t3 := 0, replay := false } = false ∧ theta 10 3020 3030 30 = 3005 ∧ s.admitted = false ∧ s.time.outstanding = some 3 ∧ theta 10 20 30 30 = 5 ∧ (5 : Int).natAbs ≤ 1000 ∧ s.holder.isSome = true) ∧
    (∃ s : State, s = { State.reset with time := { enable := true, parent := 2 } } ∧ (s.port s.time.parent).st ≠ .up ∧ s.time.outstanding ≠ some 3) :=
  ⟨⟨_, rfl, rfl, rfl, rfl, rfl, by decide, by decide +kernel, by decide, rfl, rfl, by decide, by decide, rfl⟩, ⟨_, rfl, by decide, by decide⟩⟩

/-! ## Optical ports. An IDENT that passes is not evaluated here: two multiplications of a point are long for the kernel. -/

/-- Port 0 as given, every other down. -/
def portOnly (x : Port) : State := { State.reset with ports := [(0, x)], holder := some 0 }

theorem skew_ok (x : Port) : (((0 : Word).toNat : Int) - (portOnly x).count (88 + 0)).natAbs ≤ 1000000 := by
  have : (portOnly x).count (88 + 0) = 0 := (by decide +kernel : State.reset.count 88 = 0)
  rw [this]; decide

/-- A frame at count 0. -/
def frm (ty : Nat) (enc : Bool) (seq ack : BitVec 32) (payload : List Byte) : Frame :=
  { ftype := ty, cls := 1, enc := enc, keyPhase := false, replay := false, len := 4, seq := seq, ack := ack, credit := [0, 0, 0, 0], fctr := 0, count := 0, payload := payload, tag := [], crcOk := true }

theorem witness_TrainingFollowsTheLight_locks : anyGroup ((0x0003 : BitVec 16) ||| (0x000C &&& 0xFFFF)) = true ∧ anyGroup ((0 : BitVec 16) ||| (0x000C &&& 0xFFFF)) = false ∧ anyGroup (0x0007 : BitVec 16) = false ∧
    anyGroup ((0x0007 : BitVec 16) ||| 0x0008) = true := by decide

theorem witness_WidthIsTheWidestLocked : chooseWidth 2 0x0FF0 = some (2, 4) ∧ chooseWidth 1 0xFF0F = some (1, 8) ∧ chooseWidth 0 0x7FFF = none := by decide

theorem witness_TrainingFollowsTheLight :
    (∀ st, (portOnly { st := st }).port 0 = { st := st } ∧ (portOnly { st := st }).hasRoom 88) ∧ anyGroup 0x000F = true ∧ anyGroup ((0x000F : BitVec 16) &&& 0xFFFF) = true ∧
    chooseWidth (min 2 2) ((0xFFFF : BitVec 16) &&& 0x00F0) = some (2, 4) ∧ chooseWidth (min 2 0) ((0xFFFF : BitVec 16) &&& 0x00F0) = none ∧ (portOnly {}).holder.isSome = true ∧
    ({ portOnly {} with holder := none } : State).holder = none :=
  ⟨fun _ => ⟨rfl, (by decide : 0 < 256)⟩, by decide, by decide, by decide, by decide, rfl, rfl⟩

/-- A port in UP with one frame in its replay buffer. -/
def upPort : Port := { st := .up, enable := true, lanes := 0xFFFF, light := 0xFFFF, txSeq := 6, rxSeq := 9, replay := [frm 1 true 5 0 []], txKey := [1], rxKey := List.replicate 32 2 }

theorem witness_PortsLeaveUp :
    (∀ n h g, let x : Port := { upPort with txFctr := n, holdTimer := h, hold := g, resends := [(5, 32)] }
      (portOnly x).port 0 = x ∧ x.st = .up ∧ quietPort (portOnly x) 0 ∧ (portOnly x).hasRoom 88 ∧ (∃ f ∈ x.replay, 32 ≤ resent x f.seq) ∧ x.enable = true ∧ x.hold = g ∧ x.txFctr = n ∧ x.holdTimer = h) :=
  fun n h g => ⟨rfl, rfl, ⟨rfl, rfl, fun h => nomatch h.1⟩, (by decide : 0 < 256), ⟨_, List.mem_singleton.2 rfl, (by decide : 32 ≤ resent { upPort with resends := [(5, 32)] } 5)⟩, rfl, rfl, rfl, rfl⟩

theorem witness_PortsRetrainInPlace :
    (portOnly upPort).port 0 = upPort ∧ upPort.st = .up ∧ upPort.retrainInPlace = false ∧ groupLit 0x000F (upPort.group, 16 / 2 ^ upPort.width) = false ∧ anyGroup 0x000F = true ∧
    groupLit 0xFFFF (upPort.group, 16 / 2 ^ upPort.width) = true ∧
    (let x : Port := { upPort with st := .signal, retrainInPlace := true, minWidth := 2 }
     (portOnly x).port 0 = x ∧ chooseWidth (min 2 x.minWidth) (x.lanes &&& 0x000F) = some (2, 0) ∧ (∀ f ∈ x.replay, resent x f.seq < 32) ∧ x.injArm = false ∧ x.reordered = none) := by
  refine ⟨rfl, rfl, rfl, by decide, by decide, by decide, rfl, by decide, ?_, rfl, rfl⟩
  intro f h; rw [List.mem_singleton.1 h]; decide

theorem witness_LinkControlActs : ∀ st b h e n, let x : Port := { st := st, holdTimer := b, hold := h, enable := e, replay := List.replicate n (frm 1 true 5 0 []) }
    (portOnly x).port 0 = x ∧ x.retrainInPlace = false ∧ x.st = st ∧ x.holdTimer = b ∧ x.hold = h ∧ x.enable = e ∧ x.replay.length = n :=
  fun _ _ _ _ _ => ⟨rfl, rfl, rfl, rfl, rfl, rfl, List.length_replicate⟩

theorem xor_twice (a b : List Byte) : (a.zipWith (· ^^^ ·) b).zipWith (· ^^^ ·) b = a.take b.length := by
  induction a generalizing b with
  | nil => simp
  | cons x a ih =>
    cases b with
    | nil => simp
    | cons y b => simp only [List.zipWith_cons_cons, List.length_cons, List.take_succ_cons, ih, BitVec.xor_assoc, BitVec.xor_self, BitVec.xor_zero]

theorem aes256_length (key block : List Byte) (h : ((aesRounds key).getD 14 []).length = 16) : (aes256 key block).length = 16 := by
  simp only [aes256, List.length_zipWith, aesShift, List.length_map, List.length_range, h, Nat.min_self]

theorem stream_length (key iv : List Byte) (h : ((aesRounds key).getD 14 []).length = 16) (n : Nat) :
    ((List.range n).flatMap fun i => aes256 key (iv.take 12 ++ octets 4 (i + 2))).length = 16 * n := by
  rw [List.length_flatMap, List.map_congr_left (g := fun _ => 16) (fun i _ => aes256_length _ _ h), List.map_const', List.length_range, List.sum_replicate_nat, Nat.mul_comm]

theorem gcmText_twice (key iv m : List Byte) (h : ((aesRounds key).getD 14 []).length = 16) : gcmText key iv (gcmText key iv m) = m := by
  have hn : m.length ≤ 16 * ((m.length + 15) / 16) := by omega
  have hl : (gcmText key iv m).length = m.length := by rw [gcmText, List.length_zipWith, stream_length _ _ h]; omega
  rw [gcmText, hl, gcmText, xor_twice, stream_length _ _ h, List.take_of_length_le hn]

/-- A frame sealed for a port under its present receive key, with a plaintext. -/
def sealedFor (x : Port) (f : Frame) (m : List Byte) : Frame :=
  let iv := linkIv x.partnerPkg x.partnerPort f.fctr
  { f with payload := gcmText x.rxKey iv m, tag := gcmTag x.rxKey iv (frameHeader f) (gcmText x.rxKey iv m) }

theorem openFrame_sealedFor (x : Port) (f : Frame) (m : List Byte) (hk : x.rxKey = List.replicate 32 2) (hp : f.keyPhase = x.rxPhase) (hf : x.rxFctr = none) :
    openFrame x (sealedFor x f m) = some (m, true) := by
  have h : ((aesRounds x.rxKey).getD 14 []).length = 16 := by rw [hk]; decide +kernel
  have he : x.rxKey.isEmpty = false := by rw [hk]; rfl
  have hh : frameHeader (sealedFor x f m) = frameHeader f := rfl
  rw [openFrame, hh]
  simp only [sealedFor, hp, beq_self_eq_true, if_true, he, hf, Option.map_none, Option.getD_none, Bool.or_self, gcmOpen, gcmText_twice _ _ _ h, Option.map_some]
  rfl

/-- A frame of any SEQ, ACK and plaintext that the partner has sealed opens at the port, in whatever state its rekeying is. -/
theorem witness_frameOpens (ty : Nat) (seq ack : BitVec 32) (r : RekeySt) (h : ty ≤ 4) (m : List Byte) :
    frameOpens (portOnly { upPort with rekey := r }) 0 (sealedFor upPort (frm ty true seq ack []) m) m :=
  ⟨rfl, rfl, h, (by decide : 4 ≤ 968), rfl, openFrame_sealedFor { upPort with rekey := r } _ m rfl rfl rfl, skew_ok _, rfl, rfl, rfl, rfl, rfl,
   (by decide : ∀ i, i < 4 → upPort.credits.getD i 0 + ([0, 0, 0, 0] : List Nat).getD i 0 ≤ creditMax.getD i 0)⟩

theorem witness_messages : ∀ k ∈ [0, 3, 6, 7, 8, 9], ofBe (slice (be 2 k) 0 2) = k := by decide

theorem witness_DataFramesAreDeliveredInOrder :
    ackPasses upPort (frm 1 true 9 6 []) ≤ upPort.replay.length ∧ (frm 1 true 9 6 []).seq = upPort.rxSeq ∧ ((11 : BitVec 32) - upPort.rxSeq).toNat = 2 ∧ 2 ^ 31 ≤ ((8 : BitVec 32) - upPort.rxSeq).toNat ∧
    upPort.nakAt = none ∧ (frm 1 true 9 6 []).cls < upPort.owed.length := by
  decide

theorem witness_BadFramesAreDiscarded :
    (portOnly upPort).port 0 = upPort ∧ upPort.st = .up ∧ upPort.injArm = false ∧ upPort.reordered = none ∧ upPort.violationAt.length < 255 ∧ upPort.authAt.length < 15 ∧ upPort.nakAt = none ∧
    (∀ ty, ({ frm ty true 9 6 [] with crcOk := false } : Frame).crcOk = false ∧ ({ frm ty true 9 6 [] with len := 969 } : Frame).len = 969 ∧ (frm ty false 9 6 []).enc = false ∧ (frm 7 false 9 6 []).ftype = 7) ∧
    (∀ k, openFrame { upPort with rxKey := [] } (frm k true 9 6 []) = none) :=
  ⟨rfl, rfl, rfl, rfl, by decide, by decide, rfl, fun _ => ⟨rfl, rfl, rfl, rfl⟩, fun _ => rfl⟩

theorem lastMs_replicate (n k : Nat) (h : n < k + 1000000) (l : Nat) : lastMs n (List.replicate l k) = List.replicate l k := by
  unfold lastMs
  rw [List.filter_replicate, if_pos (decide_eq_true h)]

theorem witness_OffendersAreHeld : ∃ x : Port, x = { upPort with violationAt := List.replicate 255 0 } ∧ (portOnly x).port 0 = x ∧ quietPort (portOnly x) 0 ∧
    (lastMs ((portOnly x).count 88) x.violationAt).length = 255 ∧ ((portOnly x).die 88).ledger.held.length < 255 := by
  refine ⟨_, rfl, rfl, ⟨rfl, rfl, fun h => nomatch h.1⟩, ?_, (by decide : 0 < 255)⟩
  have : (portOnly { upPort with violationAt := List.replicate 255 0 }).count 88 = 0 := by decide +kernel
  rw [this, lastMs_replicate 0 0 (by decide)]
  exact List.length_replicate

theorem witness_IdlesNaksAndReplays :
    ackPasses upPort (frm 2 true 9 5 []) ≤ upPort.replay.length ∧ upPort.replay.length < ackPasses upPort (frm 0 true 9 9 []) ∧ ackPasses upPort (frm 0 true 9 9 []) < 2 ^ 31 ∧
    2 ^ 31 ≤ ackPasses upPort (frm 2 true 9 3 []) ∧ upPort.replay.length < 2 ^ 31 ∧ (∀ g ∈ upPort.replay, resent upPort g.seq < 32) ∧ upPort.violationAt.length < 255 ∧ upPort.authAt.length < 16 ∧
    (frm 3 true 9 6 []).seq = upPort.rxSeq := by
  refine ⟨by decide, by decide, by decide, by decide, by decide, ?_, by decide, by decide, rfl⟩
  intro f h; rw [List.mem_singleton.1 h]; decide

/-- A port that acts on the frame that comes next. -/
def armed (d : Bool) (k : Nat) : Port := { upPort with injArm := true, injDir := d, injKind := k, period := 2, injSeen := 1, txKey := [] }

theorem witness_InjectionActs :
    (∀ d k, (portOnly (armed d k)).port 0 = armed d k ∧ (armed d k).injArm = true ∧ (frm 1 true 9 6 []).ftype = 1 ∧ (armed d k).classes.getLsbD (frm 1 true 9 6 []).cls = true ∧
      ((armed d k).injSeen + 1) % (armed d k).period = 0 ∧ (armed d k).reordered = none ∧ (armed d k).st = .up) ∧
    32 < (((portOnly (armed false 1)).injects 0 false (frm 1 true 9 6 [])).1.dress 0 (frm 1 true 9 6 [])).payload.length :=
  ⟨fun _ _ => ⟨rfl, rfl, rfl, (by decide : (0xF : BitVec 4).getLsbD 1 = true), (by decide : (1 + 1) % 2 = 0), rfl, rfl⟩, by decide +kernel⟩

theorem witness_InjectionActs_reordering : ∀ d, let x : Port := { armed d 2 with injSeen := 0, reordered := some (frm 1 true 8 6 []) }
    (portOnly x).port 0 = x ∧ x.reordered = some (frm 1 true 8 6 []) ∧ (x.injSeen + 1) % x.period ≠ 0 ∧ x.st = .up ∧ x.injDir = d := fun _ => ⟨rfl, rfl, (by decide : (0 + 1) % 2 ≠ 0), rfl, rfl⟩

/-- An IDENT that repeats another nonce than the port's, and a CONFIRM that the partner has sealed. -/
theorem witness_IdentsAreChecked_answers : let x : Port := { st := .identify, rxKey := List.replicate 32 2, ident := { echoes := 4, peerNonce := some (List.replicate 32 0), ownNonce := List.replicate 32 1, confirmSent := true } }
    (portOnly x).identCheck 0 (be 2 2) = .auth ∧ openFrame x (sealedFor x (frm 3 true 0 0 []) (be 2 3)) = some (be 2 3, true) :=
  ⟨by decide +kernel, openFrame_sealedFor _ _ _ rfl rfl rfl⟩

theorem witness_LinkControlActs_credits : ∀ n, sendable { st := .up, credits := [n, 0, 0, 0] } 0 = decide (0 < n) := fun _ => Bool.true_and _

theorem witness_HellosAndEchoes :
    (∀ st i, let x : Port := { st := st, ident := i }
      (portOnly x).port 0 = x ∧ x.retrainInPlace = false ∧ x.st = st ∧ x.txKey = [] ∧ x.ident = i) ∧
    (∀ st i k, k ∈ [1, 2, 4, 5, 8] → clearMessage (portOnly { st := st, ident := i }) 0 (frm 3 false 0 0 (be 2 k)) k) := by
  refine ⟨fun _ _ => ⟨rfl, rfl, rfl, rfl, rfl⟩, fun st i k h => ⟨rfl, rfl, rfl, (by decide : 4 ≤ 968), ?_, skew_ok _⟩⟩
  have : k = 1 ∨ k = 2 ∨ k = 4 ∨ k = 5 ∨ k = 8 := by simpa using h
  rcases this with rfl | rfl | rfl | rfl | rfl <;> decide

theorem witness_IdentsAreChecked : ∀ ok sent conf, let x : Port := { st := .identify, ident := { echoes := 4, peerNonce := some [], peerOk := ok, identSent := sent, confirmSent := conf } }
    (portOnly x).port 0 = x ∧ x.retrainInPlace = false ∧ x.st = .identify ∧ (portOnly x).holder.isSome = true ∧ x.ident.echoes = 4 ∧ x.ident.peerNonce.isSome = true ∧ x.ident.identSent = sent ∧
    x.ident.confirmSent = conf ∧ (portOnly x).hasRoom 88 ∧ clearMessage (portOnly x) 0 (frm 3 false 0 0 (be 2 2)) 2 ∧
    (((frm 3 true 0 0 []).count.toNat : Int) - (portOnly x).count (88 + 0)).natAbs ≤ 1000000 :=
  fun _ _ _ => ⟨rfl, rfl, rfl, rfl, rfl, rfl, rfl, rfl, (by decide : 0 < 256), ⟨rfl, rfl, rfl, (by decide : 4 ≤ 968), by decide, skew_ok _⟩, skew_ok _⟩

theorem witness_RekeyAndDown :
    (let x : Port := { upPort with txFctr := 2 ^ 32 }
     (portOnly x).port 0 = x ∧ x.st = .up ∧ x.retrainInPlace = false ∧ 2 ^ 32 ≤ x.txFctr ∧ x.rekey = .idle ∧ x.rekeyAsked = none ∧ x.oldRxKey = [] ∧ x.oldTxKey = [] ∧ sendable x 0 = true) ∧
    (∀ r, let x : Port := { upPort with rekey := r }
      (portOnly x).port 0 = x ∧ ackPasses x (frm 3 true 9 6 []) ≤ x.replay.length ∧ (frm 3 true 9 6 []).seq = x.rxSeq ∧ x.rekey = r ∧ (x.replay.drop (ackPasses x (frm 3 true 9 6 []))).length < 4096 ∧ quietPort (portOnly x) 0) ∧
    (∀ n, let x : Port := { upPort with replay := List.replicate n (frm 1 true 5 0 []) }
      (portOnly x).port 0 = x ∧ (∀ f : Frame, f.ack = x.txSeq - BitVec.ofNat 32 n → ackPasses x f = 0 ∧ (x.replay.drop (ackPasses x f)).length = n)) ∧
    (portOnly { upPort with partnerPort := 0 }).lowSide 0 = false ∧ (portOnly { upPort with partnerPort := 1 }).lowSide 0 = true :=
  ⟨⟨rfl, rfl, rfl, by decide, rfl, rfl, rfl, rfl, by decide⟩, fun _ => ⟨rfl, (by decide : ackPasses upPort (frm 3 true 9 6 []) ≤ 1), rfl, rfl,
    (by decide : (upPort.replay.drop (ackPasses upPort (frm 3 true 9 6 []))).length < 4096), ⟨rfl, rfl, fun h => nomatch h.1⟩⟩,
   fun n => ⟨rfl, fun f h => by
    have : ackPasses { upPort with replay := List.replicate n (frm 1 true 5 0 []) } f = 0 := by
      unfold ackPasses; rw [h]; show ((_ - BitVec.ofNat 32 n) - (_ - BitVec.ofNat 32 (List.replicate n _).length)).toNat = 0
      rw [List.length_replicate, BitVec.sub_self]; rfl
    exact ⟨this, by rw [this]; exact List.length_replicate⟩⟩, rfl, rfl⟩

/-! ## Fault records, keepers, hatch service and the ring -/

/-- K0 active and K1 standing by, in service, with one die. -/
def watchState (d : Nat) (x : Die) : State :=
  { State.reset with dies := [(d, x)], holder := some 0, keeper0 := .active, keeper1 := .standby, service := .normal, keeperEpoch := 7, taking := true, inv := factoryInventory }

/-- A die that holds one fault record. -/
def heldDie (r : FaultRec) (applied : Nat) : Die := { ledger := { held := [r], applied := applied, ring := [{ kind := 1, code := r.code, count := r.count }] } }

theorem witness_FaultRecordsAreTakenAndFreed :
    (∀ b n, ((watchState 3 (heldDie { code := fChFail, delivered := b } n)).die 3).ledger.held = [{ code := fChFail, delivered := b }] ∧
      ((watchState 3 (heldDie { code := fChFail, delivered := b } n)).die 3).ledger.applied = n ∧
      ((watchState 3 (heldDie { code := fChFail, delivered := b } n)).die 3).ledger.ring.find? (fun e => e.kind == 1 && e.code == fChFail && e.count == 0 && !e.continued) = some { kind := 1, code := fChFail } ∧
      ((watchState 3 (heldDie { code := fChFail, delivered := b } n)).die 3).ledger.queued = [] ∧
      (((watchState 3 (heldDie { code := fChFail, delivered := b } n)).die 3).ledger.ring.filter fun f => f.continued && f.seq == 0 + 1).length ≤ 1) ∧
    recordOnly { code := fChFail } ∧ (watchState 3 {}).holder.isSome = true ∧ (watchState 3 {}).hatch0.failed = false ∧ (watchState 3 {}).hatch0.held.length < 1024 ∧
    (watchState 3 {}).hatch1.failed = false ∧ (watchState 3 {}).hatch1.held.length < 1024 ∧ State.reset.holder = none ∧
    (∀ e ∈ [98, 96, 97], (watchState 3 {}).reaches 3 e = true) ∧ (watchState 3 {}).keeperDie = 98 ∧ { watchState 3 {} with inv := { factoryInventory with routers := [3] } }.reaches 3 98 = false ∧
    (∃ s : State, s = { watchState 3 {} with hatch0 := { failed := true }, hatch1 := { failed := true } } ∧ ∀ i, i < 2 → (s.hatch i).failed = true) :=
  ⟨fun _ _ => ⟨rfl, rfl, rfl, rfl, (by decide : 0 ≤ 1)⟩, ⟨rfl, by decide, by decide, rfl⟩, rfl, rfl, by decide, rfl, by decide, rfl, by decide +kernel, rfl, by decide +kernel,
    ⟨_, rfl, fun i h => match i, h with | 0, _ => rfl | 1, _ => rfl⟩⟩

theorem witness_JobsAreFaulted :
    (∃ s : State, ∃ r : FaultRec, s = { watchState 3 (heldDie { code := fRailQuench, job := true, ctxs := [1] } 0) with contexts := [(1, some { job := 9, launch := some { packages := 2 } })] } ∧
      r = { code := fRailQuench, job := true, ctxs := [1] } ∧ (s.die 3).ledger.held = [r] ∧ neverReleased r.code = false ∧ countsToFail r.code = false ∧ s.holder.isSome = true ∧
      s.ctx? 1 = some { job := 9, launch := some { packages := 2 } } ∧ s.jobCtxs 9 = [1] ∧ (s.ctx 1).faulted = none ∧ s.launchOf 1 = some { packages := 2 } ∧ 5 ≠ s.pkgId ∧ s.reaches 3 s.keeperDie = true) ∧
    (∃ s : State, s = { watchState 3 {} with contexts := [(1, some { job := 9, faulted := some fRailQuench })] } ∧ ∀ e ∈ s.jobCtxs 9, (s.ctx e).faulted.isSome = true) ∧
    (∃ s : State, s = { State.reset with contexts := [(1, some { job := 9 })], rxFlows := [(2 ^ 32 + 4, some {})] } ∧ s.jobCtxs 9 = [1] ∧ s.rx? (rxKeyOf 0 4 true) = some {}) :=
  ⟨⟨_, _, rfl, rfl, rfl, by decide, by decide, rfl, rfl, rfl, rfl, rfl, by decide, by decide +kernel⟩, ⟨_, rfl, by decide +kernel⟩, ⟨_, rfl, rfl, by decide +kernel⟩⟩

theorem witness_KeepersWatchEachOther :
    ((watchState 3 {}).holder = some 0 ∧ (watchState 3 {}).keeper 0 = .active ∧ (watchState 3 {}).keeper (1 - 0) = .standby ∧ (watchState 3 {}).hasRoom 99 ∧ (watchState 3 {}).stopping = false ∧ (watchState 3 {}).broken = false) ∧
    (∃ s : State, s = { watchState 3 {} with keeper1 := .failed } ∧ s.keeper (1 - 0) ≠ .standby ∧ s.keeper (1 - 0) ≠ .active ∧ s.service = .normal ∧ s.hasRoom (96 + s.servingHatch) ∧ ∀ c, dmaBarred (s.ctx c) = false) ∧
    (watchState 3 {}).failureEpoch 0 = none ∧
    (∃ s : State, s = { watchState 99 { keeperEpoch := 7 } with keeper0 := .failed, holder := some 1, keeper1 := .active, sent := [.failure 0 7] } ∧ s.failureEpoch 0 = some 7 ∧ s.keeper 0 = .failed ∧ s.holder ≠ some 0 ∧
      s.keeper (1 - 0) = .active ∧ s.declarer 0 = 98 + (1 - 0) ∧ (s.die (98 + (1 - 0))).keeperEpoch ≤ 7 ∧ s.hasRoom (98 + (1 - 0)) ∧ ({ s with sent := [.failure 0 6] } : State).failureEpoch 0 = some 6 ∧ 6 < (s.die 99).keeperEpoch) ∧
    State.reset.holder = none ∧ State.reset.keeper 0 ≠ .active ∧ State.reset.keeper 0 ≠ .standby :=
  ⟨⟨rfl, rfl, rfl, (by decide : 0 < 256), rfl, rfl⟩, ⟨_, rfl, by decide, by decide, rfl, (by decide : 0 < 256), fun _ => rfl⟩, rfl,
    ⟨_, rfl, rfl, rfl, by decide, rfl, rfl, by decide, (by decide : 0 < 256), rfl, by decide⟩, rfl, by decide, by decide⟩

theorem witness_TokenEpochAndJournal :
    (mayTake ((watchState 3 {}).keeper 1) = true ∧ (watchState 3 {}).keeperEpoch = 7 ∧ (watchState 3 {}).hatch0.failed = false ∧ (watchState 3 {}).holder ≠ some 1 ∧
      (watchState 3 {}).stopping = false ∧ (watchState 3 {}).broken = false ∧ (watchState 3 {}).boundCtxs = [] ∧ (watchState 3 {}).recover = none ∧ ({ watchState 3 {} with broken := true } : State).broken = true ∧
      ∀ j, (watchState 3 {}).holder = some j → j = 1 - 1) ∧
    (5 < ((watchState 3 { keeperEpoch := 7 }).die 3).keeperEpoch ∧ ((watchState 3 { keeperEpoch := 7 }).die 3).keeperEpoch ≤ 8) ∧
    (∃ s : State, s = { watchState 3 {} with journal := [{ seq := 2 }] } ∧ s.journal = [{ seq := 2 }] ∧ s.keeper1 = .standby ∧ (s.hatch 0).failed = false ∧ (s.hatch 1).failed = false) ∧
    (State.reset.keeper0 ≠ .standby ∧ State.reset.keeper1 ≠ .standby) := by
  refine ⟨⟨rfl, rfl, rfl, by decide, rfl, rfl, rfl, rfl, rfl, ?_⟩, ⟨by decide, by decide⟩, ⟨_, rfl, rfl, rfl, rfl, rfl⟩, by decide, by decide⟩
  intro j h; cases h; rfl

/-- One valid keeper image. -/
def bootState (h : Option Nat) (st : KeeperSt) : State :=
  { watchState 3 {} with holder := h, keeper1 := .resetting, keeper0 := st, fw := [(4, { bytes := [1], sigOk := true, digestOk := true })], svn0 := [], svn1 := [], service := .hatch }

theorem hatchEmpty (s : State) (a : s.hatch0.held = []) (b : s.hatch1.held = []) : ∀ i, (s.hatch i).held = [] := by
  intro i; unfold State.hatch; split <;> assumption

theorem witness_TakeoverAndKeeperBoot :
    ((watchState 3 {}).taking = true ∧ (∀ p, p < 8 → ((watchState 3 {}).port p).st ≠ .identify) ∧ (watchState 3 {}).pathJobs = [] ∧ (watchState 3 {}).hasRoom (98 + 0) ∧ ∀ i r, r ∈ ((watchState 3 {}).hatch i).held → r.delivered = false → neverReleased r.code = false ∧ countsToFail r.code = false) ∧
    (∃ s : State, s = { jobState 1 with holder := some 0, taking := true } ∧ s.taking = true ∧ s.broken = false ∧ (∀ i r, r ∈ (s.hatch i).held → r.delivered = false → neverReleased r.code = false ∧ countsToFail r.code = false) ∧ (∀ p, p < 8 → (s.port p).st ≠ .identify) ∧
      s.pathJobs = [{ q := .kernel 0, ctx := 1, flows := [0], awaited := 1 }] ∧ s.queue? (.kernel 0) = some { cmds := [{ cmd := .pathSetup 1 0 144, taken := true }] }) ∧
    (∀ h st, (bootState h st).keeper 1 = .resetting ∧ (bootState h st).holder = h ∧ (bootState h st).keeper (1 - 1) = st ∧ (bootState h st).recover = none ∧ (bootState h st).stopping = false ∧ (bootState h st).broken = false ∧ (bootState h st).hasRoom (98 + (1 - 1))) ∧
    ((bootState none .failed).fwPick 1).isSome = true ∧ (∀ f ∈ fwKeys 1, ((bootState none .failed).fwCopy f).bytes = [] ∨ (bootState none .failed).fwValid f = true) ∧
    (State.reset.keeper 0 ≠ .resetting ∧ State.reset.keeper 0 ≠ .booting) := by
  refine ⟨⟨rfl, ?_, rfl, (by decide : 0 < 256), fun i r h _ => ?_⟩, ⟨_, rfl, rfl, rfl, fun i r h _ => ?_, ?_, rfl, rfl⟩, fun h st => ⟨rfl, rfl, rfl, rfl, rfl, rfl, (by decide : 0 < 256)⟩, by decide +kernel, by decide +kernel, by decide, by decide⟩
  · decide +kernel
  · exact nomatch (hatchEmpty (watchState 3 {}) rfl rfl i ▸ h : r ∈ [])
  · exact nomatch (hatchEmpty { jobState 1 with holder := some 0, taking := true } rfl rfl i ▸ h : r ∈ [])
  · intro p h
    have := List.mem_range.2 h
    revert this; revert p
    decide +kernel

theorem witness_HatchOperations :
    (∃ s : State, s = { kernelState (.nop) with service := .hatch, holder := none, contexts := [(1, some { launch := some { st := .running, tallies := [{ vid := 3, index := 4 }] } })] } ∧ s.service = .hatch ∧ s.holder = none ∧
      (∀ i, i < 2 → (s.hatch i).failed = false ∧ (s.hatch i).go = false) ∧ s.atOp0 (0 / 4) = true ∧ ({ s with dies := [(0, { curOp := 3 })] } : State).atOp0 (0 / 4) = false ∧ (s.ctx 1).quenchOrdered = false ∧ s.isBound 1 = true ∧ s.isBound 2 = false ∧ s.launchOf 1 = some { st := .running, tallies := [{ vid := 3, index := 4 }] } ∧
      findTally { st := .running, tallies := [{ vid := 3, index := 4 }] } 3 = some { vid := 3, index := 4 } ∧ findTally { st := .running, tallies := [{ vid := 3, index := 4 }] } 5 = none ∧
      s.tallyHome { vid := 3, index := 4 } 0 = some (0, 4) ∧ (s.tally 0 4).waits = []) ∧
    (∀ op ∈ [0, 1, 2, 3], let v : Word := BitVec.ofNat 64 (5 * 2 ^ 32 + 2 ^ 31 + op * 2 ^ 28 + 2 ^ 16 + 3)
      min 3 (bits v.toNat 28 3) = op ∧ bits v.toNat 16 10 = 1 ∧ bits v.toNat 0 16 = 3 ∧ bit v.toNat 31 = true) ∧ State.reset.service ≠ .hatch :=
  ⟨⟨_, rfl, rfl, rfl, (fun i h => match i, h with | 0, _ => ⟨rfl, rfl⟩ | 1, _ => ⟨rfl, rfl⟩), by decide +kernel, by decide +kernel, rfl, rfl, rfl, rfl, rfl, rfl, by decide +kernel, rfl⟩, by decide +kernel, by decide⟩

theorem witness_DiesFail :
    (State.reset.holder = none ∧ (watchState 3 {}).holder.isSome = true ∧ (∀ d ∈ [3, 70, 82, 90, 96, 99], isDie d = true ∧ ((watchState 3 {}).die d).failed = none) ∧ (watchState 3 {}).hasRoom (watchState 3 {}).keeperDie ∧ (watchState 3 {}).reaches 3 (watchState 3 {}).keeperDie = true) ∧
    (∃ s : State, s = { watchState 3 {} with channels := allActive } ∧ inService (s.channel (4 * (70 - 68) + 1)).st = true) ∧
    (((watchState 3 {}).port (90 - 88)).st ≠ .up ∧ ((watchState 3 {}).port (90 - 88)).retrainInPlace = false ∧ ∀ f x, (watchState 3 {}).flow? f = some x → (x.routes.getD 0 []).headD 0 ≠ 90 - 88) ∧
    ((watchState 3 {}).keeper 1 = .standby ∧ (watchState 3 {}).holder = some (1 - 1) ∧ (watchState 3 {}).keeper (1 - 1) = .active ∧ (watchState 3 {}).hasRoom (98 + (1 - 1)) ∧ (State.reset.keeper 1 ≠ .active ∧ State.reset.keeper 1 ≠ .standby)) ∧
    (∃ x : Die, x = { heldDie { code := fArithCheck, die := 3, count := 50 } 0 with faultTimes := [(fArithCheck, 10), (fArithCheck, 20)] } ∧
      ((watchState 3 x).die 3).ledger.held = [{ code := fArithCheck, die := 3, count := 50 }] ∧ countsToFail fArithCheck = true ∧ ((watchState 3 x).die 3).faultTimes = [(fArithCheck, 10), (fArithCheck, 20)]) := by
  refine ⟨⟨rfl, rfl, by decide +kernel, (by decide : 0 < 256), by decide +kernel⟩, ⟨_, rfl, by decide +kernel⟩, ⟨by decide, rfl, ?_⟩, ⟨rfl, rfl, rfl, (by decide : 0 < 256), by decide, by decide⟩, ⟨_, rfl, rfl, rfl, rfl⟩⟩
  intro f x h; exact nomatch (h : (none : Option Flow) = some x)

theorem witness_RingContinuity : ∀ a b c, let s := watchState 0 { bypass := a, bypassFailed := b, ringBreakTold := c }
    stopDie 1 = 0 ∧ (s.die (stopDie 1)).bypass = a ∧ (s.die (stopDie 1)).bypassFailed = b ∧ (s.die (stopDie 1)).ringBreakTold = c ∧ s.holder.isSome = true ∧ s.boundCtxs = [] ∧ s.recover = none ∧ s.hasRoom (stopDie 1) ∧ s.service ≠ .stopped ∧
      ({ s with holder := none } : State).holder = none ∧ ((({ s with holder := none } : State).die (stopDie 1)).ringBreakTold = c) :=
  fun _ _ _ => ⟨rfl, rfl, rfl, rfl, rfl, rfl, rfl, (by decide : 0 < 256), nofun, rfl, rfl⟩

theorem witness_LedgersAreMerged : ∃ s : State, s = { watchState 3 { ledger := { ring := [{ kind := 3, count := 5, seq := 0 }], unmerged := [0], next := 1 } } with now := 30000 } ∧ s.holder.isSome = true ∧
    takenBy (s.count s.keeperDie) (s.die 3).tb (s.die 3).ledger = [{ kind := 3, count := 5, seq := 0 }] ∧ (s.die 3).railOff = false ∧
    s.merged.length + (dieList.map fun d => (takenBy (s.count s.keeperDie) (s.die d).tb (s.die d).ledger).length + (gapEntries d (s.die d).ledger).length).sum ≤ 262144 ∧
    s.merged.Pairwise (fun a b => ledgerBefore a b = true) :=
  ⟨_, rfl, rfl, by decide +kernel, rfl, by decide +kernel, List.Pairwise.nil⟩

/-! ## Power and temperature -/

theorem witness_RailsAreWatched :
    (hasRail 70 3 = false ∧ hasRail 90 3 = true ∧ isCompute 90 = false ∧ railLimit 3 < 31 ∧ 30 ≤ railLimit 3) ∧
    (∀ q sch, let s := onDie 3 fun x => { x with curOp := 5, scheduled := sch, job := if sch then some 9 else none, quenched := q }
      (s.die 3).quenched = q ∧ s.hasRoom 3 ∧ (s.die 3).job = (if sch then some 9 else none) ∧ (s.die 3).curOp = 5 ∧ (s.die 3).scheduled = sch ∧ (s.die 3).transition = false ∧
      mayStretch (s.die 3) (s.count 3) = true) ∧
    (tabGet {} (State.reset.die 3).perf 20).value + 1 < 2 ^ 48 ∧ (State.reset.die 3).lastDroopEntry = none ∧
    (∃ s : State, s = onDie 3 (fun x => { x with lastDroopEntry := some 0 }) ∧ (s.die 3).lastDroopEntry = some 0 ∧ s.count 3 < 0 + 1000000) := by
  refine ⟨by decide, fun q sch => ⟨rfl, (by decide : 0 < 256), rfl, rfl, rfl, rfl, rfl⟩, by decide +kernel, rfl, ⟨_, rfl, rfl, by decide +kernel⟩⟩

theorem witness_PackagePowerIsWatched : canStep { curOp := 5 } ∧ ((onDie 3 fun x => { x with curOp := 5 }).die 3).curOp = 5 ∧ decide (21500 ≤ 21500 ∨ 1000 ≤ 0 ∨ 1000 ≤ 0) = true ∧
    decide (20000 < 20855 ∧ 0 < 970 ∧ 0 < 970) = true := ⟨⟨rfl, by decide, rfl⟩, by decide +kernel, by decide, by decide⟩

theorem witness_TemperaturesAreWatched :
    (∀ t : Int, (List.replicate 4 t).length = sensorCount 70 ∧ (List.replicate 16 t).length = sensorCount 3) ∧ State.reset.pins.thermTripLow = false ∧ (State.reset.die 3).tripped = false ∧ State.reset.hasRoom 3 ∧
    (∃ t ∈ List.replicate 16 (500 : Int), 500 ≤ t) ∧ ((∃ t ∈ List.replicate 16 (440 : Int), 440 ≤ t) ∧ ∀ t ∈ List.replicate 16 (440 : Int), t < 500) ∧
    ((∃ t ∈ List.replicate 16 (400 : Int), 400 ≤ t) ∧ ∀ t ∈ List.replicate 16 (400 : Int), t < 440) ∧ (∀ t ∈ List.replicate 16 (379 : Int), t < 380) ∧ (State.reset.die 3).hotSince = none ∧
    (∃ s : State, s = { onDie 3 (fun x => { x with curOp := 5, hotSince := some 0, coolSince := some 0 }) with now := 2000000 } ∧ (s.die 3).hotSince = some 0 ∧ 0 + 100000 ≤ s.count 3 ∧ canStep (s.die 3) ∧
      (s.die 3).coolSince = some 0 ∧ 0 + 1000000 ≤ s.count 3) :=
  ⟨fun _ => ⟨rfl, rfl⟩, rfl, rfl, (by decide : 0 < 256), by decide, by decide, by decide, by decide, rfl, ⟨_, rfl, rfl, by decide +kernel, ⟨rfl, by decide, rfl⟩, rfl, by decide +kernel⟩⟩

theorem witness_AllocationsAddUp :
    (∃ s : State, s = { State.reset with power := { State.reset.power with cap := 18000, poolMax := 18000, first := 0, second := 1, third := 2 }, inv := factoryInventory } ∧
      0 ≤ s.budget (fun _ => 0) - ((s.served.map fun d => dieFloor d (s.die d) 0).sum : Nat)) ∧
    (∃ s : State, s = { State.reset with power := { State.reset.power with cap := 0, poolMax := 0 }, inv := factoryInventory } ∧
      s.budget (fun _ => 0) - ((s.served.map fun d => dieFloor d (s.die d) 0).sum : Nat) < 0) ∧ fitOp { curOp := 5, minOp := 1 } 200000 250000 = (6, true) :=
  ⟨⟨_, rfl, by decide +kernel⟩, ⟨_, rfl, by decide +kernel⟩, by decide⟩

theorem witness_AllocationsAreApplied :
    (List.replicate 100 0).length = 100 ∧ State.reset.holder = none ∧
    (∃ s : State, s = { State.reset with holder := some 0, power := { State.reset.power with cap := 18000, poolMax := 18000, first := 0, second := 1, third := 2 } } ∧ s.holder.isSome = true ∧
      0 ≤ (({ s with power := applyPools s.power } : State).allocate s.kcount (fun d => (List.replicate 100 0).getD d 0)).1) ∧
    (∃ s : State, s = { State.reset with holder := some 0, power := { State.reset.power with cap := 0, poolMax := 0 } } ∧ s.holder.isSome = true ∧
      (({ s with power := applyPools s.power } : State).allocate s.kcount (fun d => (List.replicate 100 0).getD d 0)).1 < 0) :=
  ⟨List.length_replicate, rfl, ⟨_, rfl, rfl, by decide +kernel⟩, ⟨_, rfl, rfl, by decide +kernel⟩⟩

theorem witness_PoolsMovePower :
    (∃ s : State, s = { State.reset with holder := some 0, contexts := [(1, some { job := 9, launch := some { packages := 2 } })], coords := [(9, some { pools := [(0, (5, 0, 0))] })], power := { State.reset.power with cap := 10000, poolMax := 18000 } } ∧
      s.holder.isSome = true ∧ s.poolJobs = [9] ∧ s.coord? 9 = some { pools := [(0, (5, 0, 0))] } ∧ s.coord? 8 = none ∧ 0 = s.pkgId ∧ min (min 3 5) ((s.poolRoom 7 0).getD 3) = 3 ∧ s.power.cap < s.power.poolMax ∧ 0 ≠ 7) ∧ State.reset.holder = none :=
  ⟨⟨_, rfl, rfl, by decide +kernel, rfl, rfl, rfl, by decide +kernel, by decide, by decide⟩, rfl⟩

/-- The worked example of the spec's chapter on power (after R486): a cap of 18,000 W, a scheduled job on 32 dies at 270 W, and 32 dynamic dies at full load that request OP7. -/
def capState : State :=
  { State.reset with
    inv := factoryInventory
    holder := some 0
    power := { State.reset.power with cap := 18000, poolMax := 18000, first := 0, second := 1, third := 2 }
    dies := (List.range 32).map (fun i => (factoryInventory.logical.getD i 0, { scheduled := true, curOp := 5, minOp := 1, maxOp := 7, reqOp := 5 })) ++
            (List.range 32).map (fun i => (factoryInventory.logical.getD (32 + i) 0, { curOp := 7, minOp := 1, maxOp := 7, reqOp := 7 })) }

/-- The measured powers of the example, in milliwatts. -/
def capPowers (d : Nat) : Nat :=
  if isCompute d then (if (capState.die d).scheduled then 270000 else if capState.activeDie d then 405600 else 5000)
  else if isCellar d then 45000 else if isLarder d then 15000 else if isLink d then 70000 else if isHost d then 30000 else 10000

theorem test_allocation_example :
    capState.budget capPowers = 17900000 ∧ (capState.allocate 0 capPowers).1 = 26000 ∧
    ((List.range 32).filter fun i => tabGet 0 (capState.allocate 0 capPowers).2 (factoryInventory.logical.getD (32 + i) 0) == 275000) = List.range 17 ∧
    ((List.range 32).filter fun i => tabGet 0 (capState.allocate 0 capPowers).2 (factoryInventory.logical.getD (32 + i) 0) == 222600) = (List.range 15).map (17 + ·) := by
  decide +kernel

/-! ## Stock-take, management endpoint, security -/

/-- A context on one die: one core holds an operation at its engine, the others have halted. -/
def stuckState (st : Stock) : State :=
  { State.reset with
    inv := factoryInventory, holder := some 0
    contexts := [(1, some { job := 9, stock := st, report := 4096, launch := some { st := .running, packages := 2 } })]
    cores := (List.range 4).map fun i => (4 * factoryInventory.logical.getD 0 0 + i,
      if i = 0 then { ctx := some 1, running := true, eng0 := [{ op := .tally { k := .inc }, held := some 2 }] } else { ctx := some 1, halted := true }) }

theorem witness_StocktakesDetectStalls :
    (∀ st, (stuckState st).boundCtxs.filter (stuckState st).isBound = [1] ∧ (∃ x, (stuckState st).ctx? 1 = some x ∧ x.stock = st ∧ x.launch = some { st := .running, packages := 2 } ∧ dmaBarred x = false) ∧
      (stuckState st).hostMem.wf = true ∧ (stuckState st).hasRoom (stuckState st).keeperDie) ∧
    (stuckState { stalledPrev := true }).stalled 1 = true ∧ (∀ k ∈ (stuckState {}).ctxCores 1, ((stuckState {}).core k).progress = false) ∧
    (∃ s : State, ∃ x, s = { stuckState {} with coords := [(9, some {})] } ∧ s.holder.isSome = true ∧ s.rootElsewhere 9 = false ∧ s.rootElsewhere 8 = false ∧ ({ s with pkgId := 3 } : State).rootElsewhere 9 = true ∧ s.coord? 8 = none ∧ s.coord? 9 = some {} ∧
      s.allStalled 9 { stalled := [(0, 1)] } = false ∧ s.allStalled 9 { stalled := [(0, 1), (1, 1)] } = true ∧ s.jobCtxs 9 = [1] ∧ s.ctx? 1 = some x ∧ dmaBarred x = false ∧ s.hasRoom s.keeperDie) ∧ State.reset.holder = none := by
  refine ⟨fun st => ⟨by rfl, ⟨_, rfl, rfl, rfl, rfl⟩, rfl, (by decide : 0 < 256)⟩, by decide +kernel, by decide +kernel,
    ⟨_, _, rfl, rfl, by decide +kernel, by decide +kernel, by decide +kernel, rfl, rfl, by decide +kernel, by decide +kernel, by decide +kernel, rfl, rfl, (by decide : 0 < 256)⟩, rfl⟩

theorem witness_SensorsAreRefreshedAndRead :
    (List.replicate 100 (0 : Int)).length = 100 ∧ (List.replicate 100 (0 : Nat)).length = 100 ∧ (List.replicate 48 (0 : Int)).length = 48 ∧ (List.replicate 8 (0 : Int)).length = 8 ∧
    (∃ s : State, s = { State.reset with holder := some 0, sensors := [(0x163, some 300), (0x200, none)] } ∧ s.holder.isSome = true ∧
      (0x163, some 300) ∈ s.sensors ∧ tabGet none s.sensors 0x163 = some 300 ∧ (0x200, none) ∈ s.sensors ∧ tabGet none s.sensors 0x200 = none ∧ ∀ e ∈ s.sensors, e.1 ≠ 5) ∧
    State.reset.holder = none ∧ isDie 99 = true :=
  ⟨List.length_replicate, List.length_replicate, List.length_replicate, List.length_replicate,
   ⟨_, rfl, rfl, List.mem_cons_self .., rfl, List.mem_cons_of_mem _ (List.mem_cons_self ..), rfl, by decide⟩, rfl, rfl⟩

theorem witness_ResponderAnswers :
    (∃ s : State, ∃ x, s = { State.reset with holder := some 0, host1 := { ready := true, ide := [(2, { key := [5] })] }, contexts := [(1, some { port := 1, sealed := true, tdisp := true })], sessions := [{ transport := 1, id := 7, ems := [] }] } ∧
      s.holder.isSome = true ∧ (s.hp 1).ready = true ∧ (s.hp 0).ready = false ∧ (tabGet {} (s.hp 1).ide 2).key = [5] ∧ (tabGet {} (s.hp 1).ide 3).key = [] ∧ (s.sessions.filter fun x => x.transport == 1).length < 64 ∧ s.session 1 8 = none ∧ (s.session 1 7).isSome = true ∧
      isHostPort 1 = true ∧ isContext 1 = true ∧ s.ctx? 1 = some x ∧ x.port = 1 ∧ x.sealed = true ∧ x.tdisp = true ∧ x.launched = false ∧ x.tdi = .unlocked) ∧
    (∃ s : State, ∃ x, s = { State.reset with holder := some 0, contexts := [(1, some { tdi := .locked })] } ∧ s.ctx? 1 = some x ∧ x.port = 0 ∧ x.tdi = .locked ∧ x.sealed = false) ∧ State.reset.holder = none := by
  refine ⟨⟨_, _, rfl, rfl, rfl, rfl, rfl, rfl, by decide, rfl, rfl, rfl, rfl, rfl, rfl, rfl, rfl, rfl, rfl⟩, ⟨_, _, rfl, rfl, rfl, rfl, rfl⟩, rfl⟩

theorem witness_FirmwareIsUpdated :
    (∃ s : State, s = { State.reset with holder := some 0, fwRunning := [(1, some { key := 6, bytes := [] })] } ∧ s.holder.isSome = true ∧ (∀ d, d < 2 → (s.die (80 + d)).failed = none) ∧
      s.running (s.loaderOf 1) = some { key := 6, bytes := [] } ∧ 1 - 6 / 2 % 2 = 0 ∧ s.running (s.loaderOf 2) = none) ∧
    (∃ s : State, s = { State.reset with halted := true, phase := 2, fw := [] } ∧ s.holder = none ∧ s.halted = true ∧ s.fwPick 1 = none ∧ (s.die 80).failed = none) ∧ State.reset.halted = false ∧
    (∃ s : State, s = { State.reset with svn0 := [(1, 9)] } ∧ ∀ l, fieldAt l 8 4 = 3 → s.imageValid 1 (fwCheck 1 l) = false) := by
  refine ⟨⟨_, rfl, rfl, fun _ _ => rfl, rfl, rfl, rfl⟩, ⟨_, rfl, rfl, rfl, rfl, rfl⟩, rfl, ⟨_, rfl, fun l h => ?_⟩⟩
  have : fwSvn (fwCheck 1 l) = 3 := h
  simp [State.imageValid, this, State.svn, tabGet]

/-! ## Start-up and resets -/

/-- Every pin as in service. -/
def pinsUp : Pins := { edge0 := true, edge1 := true, railSram := true, railCore := true, railIo := true, railOpt := true }

/-- A start-up that stands in a phase, K0 active. -/
def bootAt (n : Nat) : State := { State.reset with phase := n, pins := pinsUp, holder := some 0, keeper0 := .active, keeper1 := .booting, inv := factoryInventory }

theorem witness_RailsAndDieReset :
    (∃ s : State, s = { State.reset with pins := pinsUp } ∧ s.phase = 1 ∧ railsUp s.pins = true ∧ s.pins.pkgResetLow = false ∧ s.pins.thermTripLow = false) ∧
    (∃ s : State, s = { State.reset with pins := { thermTripLow := true } } ∧ s.pins.thermTripLow = true ∧ railsUp s.pins = false) :=
  ⟨⟨_, rfl, rfl, rfl, rfl, rfl⟩, ⟨_, rfl, rfl, rfl⟩⟩

theorem witness_PackageResets : State.reset.pins.pkgResetLow = false ∧
    (∀ p : Pins, ∃ s : State, s = { State.reset with pins := { p with pkgResetLow := true } } ∧ s.pins.pkgResetLow = true ∧ railsUp s.pins = railsUp p) ∧ railsUp pinsUp = true ∧ railsUp {} = false :=
  ⟨rfl, fun _ => ⟨_, rfl, rfl, rfl⟩, rfl, rfl⟩

theorem witness_FirstTokenIsTaken :
    (∃ s : State, s = { State.reset with phase := 2 } ∧ s.inPhase 2 = true ∧ s.keeper0 = .off ∧ s.keeper1 = .off ∧ s.holder = none ∧ s.broken = false ∧ ∀ c, dmaBarred (s.ctx c) = false) ∧
    (∃ s : State, s = { State.reset with phase := 2, keeper0 := .failed, keeper1 := .booting } ∧ s.inPhase 2 = true ∧ s.keeperEpoch = 0 ∧ s.keeper1 = .booting ∧ s.holder = none ∧ s.broken = false ∧ s.keeper0 ≠ .off) ∧
    State.reset.inPhase 2 = false := ⟨⟨_, rfl, rfl, rfl, rfl, rfl, rfl, fun _ => rfl⟩, ⟨_, rfl, rfl, rfl, rfl, rfl, rfl, by decide⟩, rfl⟩

theorem witness_MeasuredBootRunsImages :
    ((bootAt 3).inPhase 3 = true ∧ (bootAt 3).holder = some 0 ∧ (bootAt 3).fwPick 1 = some 4 ∧ (bootAt 3).keeper 0 = .active ∧ State.reset.inPhase 3 = false) ∧
    (∀ a b : Bool, ∃ s : State, s = { bootAt 3 with fw := [(6, { bytes := [1], sigOk := a, digestOk := b })] } ∧ s.inPhase 3 = true ∧ s.holder.isSome = true ∧ ((a && b) = false → s.fwPick 1 = none) ∧
      (fwKeys 1).filter (fun i => !(s.fwCopy i).bytes.isEmpty) = [6] ∧ (s.die (80 + 6 % 2)).failed = none ∧ s.hasRoom s.keeperDie ∧ (s.fwCopy 6).sigOk = a ∧ (s.fwCopy 6).digestOk = b) ∧
    (∃ s : State, s = { bootAt 3 with fw := [(6, { bytes := [1], sigOk := true, digestOk := true })], svn0 := [(1, 1)] } ∧ fwSvn (s.fwCopy 6) < s.svn 1) := by
  refine ⟨⟨rfl, rfl, by decide +kernel, rfl, rfl⟩, fun a b => ⟨_, rfl, rfl, rfl, ?_, rfl, rfl, (by decide : 0 < 256), rfl, rfl⟩, ⟨_, rfl, by decide +kernel⟩⟩
  cases a <;> cases b <;> intro h <;> first | rfl | exact absurd h (by decide)

theorem witness_InventoryIsLoaded :
    ((bootAt 4).inPhase 4 = true ∧ (bootAt 4).holder.isSome = true ∧ (bootAt 4).invPick = some factoryInventory ∧ State.reset.inPhase 4 = false ∧
      ∀ p ∈ (computeDies.filter fun d => !factoryInventory.factorySpares.contains d).zip factoryInventory.logical, p.1 = p.2) ∧
    (∃ s : State, s = { bootAt 4 with invL0 := {}, invL1 := {} } ∧ s.invPick = none ∧ s.hasRoom s.keeperDie) ∧
    (∃ x : Inventory, x = { factoryInventory with logical := 16 :: factoryInventory.logical.tail, coreMap := (0, 0x7) :: factoryInventory.coreMap.tail } ∧
      (0, 16) ∈ (computeDies.filter fun d => !x.factorySpares.contains d).zip x.logical ∧
      67 ∈ (((List.range 4).map (4 * 16 + ·)).filter fun c => bit (tabGet 0 x.coreMap 16) (c % 4)).drop ((List.range 4).filter fun k => bit (tabGet 0 x.coreMap 0) k).length) ∧
    (∃ s : State, s = { bootAt 4 with invL0 := {} } ∧ s.invUsable 0 = none ∧ s.invUsable 1 = some factoryInventory) := by
  refine ⟨⟨rfl, rfl, rfl, rfl, by decide +kernel⟩, ⟨_, rfl, rfl, (by decide : 0 < 256)⟩, ⟨_, rfl, by decide +kernel, by decide +kernel⟩, ⟨_, rfl, rfl, rfl⟩⟩

theorem witness_DiesTestThemselves :
    ((bootAt 5).inPhase 5 = true ∧ (∀ d, ((bootAt 5).die d).testTrip = false) ∧ (bootAt 5).holder.isSome = true ∧ (bootAt 5).testHalts = false ∧ (bootAt 5).hasRoom 3 ∧ 3 ∈ (bootAt 5).inv.logical ∧ ((bootAt 5).die 3).failed = none ∧
      16 ∉ (bootAt 5).inv.logical ∧ 16 ∈ (bootAt 5).inv.spares ∧ State.reset.inPhase 5 = false) ∧
    (∃ s : State, s = { bootAt 5 with dies := [(81, { failed := some fSelftest })] } ∧ (s.die 81).failed.isSome = true ∧ s.hasRoom 80) :=
  ⟨⟨rfl, fun _ => rfl, rfl, rfl, (by decide : 0 < 256), by decide +kernel, rfl, by decide +kernel, by decide +kernel, rfl⟩, ⟨_, rfl, rfl, (by decide : 0 < 256)⟩⟩

theorem witness_CellarAndHostLinksStart :
    (∃ s : State, s = { bootAt 6 with fwRunning := [(4, some {})] } ∧ s.inPhase 6 = true ∧ s.holder.isSome = true ∧ (∀ d, (s.die d).failed = none) ∧ (tabGet none s.fwRunning 4).isSome = true) ∧
    ([{ ch := 19, gib := 32 }] : List ModuleRead).all (fun m => isChannel m.ch) = true ∧ modulePasses (moduleOf [{ ch := 19, gib := 32 }] 19) = false ∧ modulePasses (moduleOf [{ ch := 19, gib := 32 }] 20) = true ∧ (bootAt 7).inPhase 7 = true ∧ tabGet none (bootAt 7).fwRunning 2 = none ∧ State.reset.inPhase 6 = false ∧ State.reset.inPhase 7 = false :=
  ⟨⟨_, rfl, rfl, rfl, fun _ => rfl, rfl⟩, by decide, by decide, by decide, rfl, rfl, rfl, rfl⟩

theorem witness_EpochsAreChecked :
    (∀ n, ∃ s : State, s = { bootAt 8 with dies := dieList.map fun d => (d, { tb := { epochSet := true, epoch := if d = 7 then n else 5 } }) } ∧ s.inPhase 8 = true ∧ s.epochBad = false ∧ s.holder.isSome = true) ∧
    (∃ s : State, s = { bootAt 8 with dies := dieList.map fun d => (d, { tb := { epochSet := true, epoch := 5 } }) } ∧ (∀ d ∈ dieList, (s.die d).tb.epochSet = true) ∧
      ∀ d ∈ dieList, (s.die d).tb = { epochSet := true, epoch := 5 }) ∧
    (∃ s : State, s = { bootAt 8 with dies := dieList.map fun d => (d, { tb := { epochSet := true, epoch := if d = 7 then 6 else 5 } }) } ∧ s.epochDiffers = some 7) ∧ (State.reset.die 3).tb.epochSet = false :=
  ⟨fun _ => ⟨_, rfl, rfl, rfl, rfl⟩, ⟨_, rfl, by decide +kernel, by decide +kernel⟩, ⟨_, rfl, by decide +kernel⟩, rfl⟩

/-! ## The machine as a whole -/

theorem witness_StepRunsTheFrontCommand : ∃ s : State, s = { State.reset with pending := [.edgesValid, .keeperHeartbeat] } ∧ s.pending = .edgesValid :: [.keeperHeartbeat] := ⟨_, rfl, rfl⟩

theorem witness_EmptyQueueLetsOneCountPass : State.reset.pending = [] ∧ State.reset.phase = 1 ∧ (∃ s : State, s = { State.reset with phase := 2 } ∧ s.pending = [] ∧ s.phase ≠ 1 ∧ ∀ d, (s.die d).tb.hold = 0 ∧ (s.die d).tb.slew = 0) :=
  ⟨rfl, rfl, ⟨_, rfl, rfl, by decide, fun _ => ⟨rfl, rfl⟩⟩⟩

theorem witness_EveryCommandRuns : (Instr.edgeUndervoltage 1).wf = true ∧ (Instr.edgeUndervoltage 2).wf = false := ⟨rfl, rfl⟩

theorem witness_CommandsLeaveTheQueueAlone : ∃ t, exec .edgesValid State.reset = .next t := ⟨_, rfl⟩

theorem witness_StepsKeepTheStateLegal : State.reset.Legal ∧ ∃ t, step State.reset = .next t := ⟨by decide, _, rfl⟩

theorem witness_AntiRollbackCountersNeverFall : (∃ t, exec .edgesValid State.reset = .next t) ∧ (bootAt 3).inPhase 3 = true ∧ (bootAt 3).holder.isSome = true ∧ ∀ n, (bootAt 3).svn n ≤ 256 :=
  ⟨⟨_, rfl⟩, rfl, rfl, fun _ => (by decide : 0 ≤ 256)⟩

theorem witness_ThermTripLatchHolds : ∃ s t : State, s = { State.reset with pins := { thermTripLow := true } } ∧ exec .edgesValid s = .next t ∧ Instr.edgesValid ≠ .thermTripLatchClear ∧ s.pins.thermTripLow = true ∧
    s.pins.pkgResetLow = false := ⟨_, _, rfl, rfl, by decide, rfl, rfl⟩

/-- R551 and R583 with hand-picked pins: an edge falls in service, and the latch holds the rails off. -/
theorem test_latch_holds_rails : (∃ t, exec .edgesValid { State.reset with pins := { thermTripLow := true } } = .next t ∧ railsUp t.pins = false) ∧
    ∃ t, exec .edgesValid State.reset = .next t ∧ railsUp t.pins = true := ⟨⟨_, rfl, rfl⟩, ⟨_, rfl, rfl⟩⟩

end Sys2Proof.Tests
end

section
/-! SUPPORT. Proofs about the host ports and the registers (R13, R14, R42, R344 to R361): what a vector, a count of HQ_ERR and a register write change and
leave unchanged, and the statements settled from that. -/

namespace Sys2Proof.Machine

/-! ## The two host ports -/

/-- An update of one host port leaves the other. -/
theorem State.hp_modHp_other (s : State) (f : HostPort → HostPort) {p : Nat} (hp : isHostPort p = true) : (s.modHp (1 - p) f).hp p = s.hp p := by
  have h : p = 0 ∨ p = 1 := by simp only [isHostPort, decide_eq_true_eq] at hp; omega
  obtain rfl | rfl := h <;> rfl

/-- An update of a host port changes the two ports alone. -/
theorem State.modHp_frame (s : State) (p : Nat) (f : HostPort → HostPort) :
    s.modHp p f = { s with host0 := (s.modHp p f).host0, host1 := (s.modHp p f).host1 } := by
  unfold State.modHp State.setHp
  split <;> rfl

theorem State.modHp_answer_frame (s : State) (p : Nat) (f : HostPort → HostPort) (kind : String) (who : Nat) (words : List Word) :
    (s.modHp p f).answer kind who words = { s with
      host0 := ((s.modHp p f).answer kind who words).host0, host1 := ((s.modHp p f).answer kind who words).host1,
      answers := ((s.modHp p f).answer kind who words).answers } := by
  unfold State.modHp State.setHp
  split <;> rfl

theorem portsOnly_refl (s : State) : portsOnly s s := rfl

theorem portsOnly_trans {s t u : State} (hst : portsOnly s t) (htu : portsOnly t u) : portsOnly s u :=
  Eq.trans htu (congrArg (fun x : State => { x with host0 := u.host0, host1 := u.host1, irqs := u.irqs }) hst)

theorem portsOnly_modHp (s : State) (p : Nat) (f : HostPort → HostPort) : portsOnly s (s.modHp p f) := by
  unfold State.modHp State.setHp
  split <;> rfl

/-! ## A vector raised (R356, R357): its port gets pending bits and no more, and the other port is untouched where its link is up -/

theorem msixRaise_msix (h : HostPort) (vec : Nat) : ∃ m, msixRaise h vec = { h with msix := m } := by
  unfold msixRaise
  dsimp only
  split
  · exact ⟨_, rfl⟩
  · exact ⟨h.msix, rfl⟩

theorem State.sendVector_portsOnly (s : State) (p vec : Nat) : portsOnly s (s.sendVector p vec) := by
  unfold State.sendVector
  split
  · exact portsOnly_refl s
  · split
    · exact portsOnly_modHp s p _
    · rfl

theorem State.sendVector_hp (s : State) (p vec : Nat) : ∃ m, (s.sendVector p vec).hp p = { s.hp p with msix := m } := by
  unfold State.sendVector
  split
  · exact ⟨(s.hp p).msix, rfl⟩
  · split
    · rw [State.hp_modHp]; exact msixRaise_msix _ vec
    · exact ⟨(s.hp p).msix, rfl⟩

theorem State.sendVector_hp_other (s : State) (vec : Nat) {p : Nat} (hp : isHostPort p = true) : (s.sendVector (1 - p) vec).hp p = s.hp p := by
  unfold State.sendVector
  split
  · rfl
  · split
    · exact s.hp_modHp_other _ hp
    · rfl

theorem State.countDoorbell_portsOnly (s : State) (p : Nat) : portsOnly s (s.countDoorbell p) := by
  unfold State.countDoorbell
  split
  · exact portsOnly_refl s
  · dsimp only
    split
    · exact portsOnly_modHp s p _
    · exact portsOnly_trans (portsOnly_modHp s p _) (State.sendVector_portsOnly _ p 0)

theorem State.countDoorbell_hp_other (s : State) {p : Nat} (hp : isHostPort p = true) : (s.countDoorbell (1 - p)).hp p = s.hp p := by
  unfold State.countDoorbell
  split
  · rfl
  · dsimp only
    split
    · exact s.hp_modHp_other _ hp
    · rw [State.sendVector_hp_other _ _ hp, State.hp_modHp_other _ _ hp]

theorem State.raiseVector_portsOnly (s : State) (p vec : Nat) : portsOnly s (s.raiseVector p vec) := by
  unfold State.raiseVector
  split
  · exact s.countDoorbell_portsOnly _
  · exact s.sendVector_portsOnly p vec

theorem State.raiseVector_hp (s : State) (vec : Nat) {p : Nat} (hp : isHostPort p = true) :
    ∃ m, (s.raiseVector p vec).hp p = { s.hp p with msix := m } := by
  unfold State.raiseVector
  split
  · exact ⟨(s.hp p).msix, s.countDoorbell_hp_other hp⟩
  · exact s.sendVector_hp p vec

/-! ## HQ_ERR (R353) -/

theorem State.changeErr_portsOnly (s : State) (p : Nat) (f : HostPort → HostPort) : portsOnly s (s.changeErr p f) := by
  unfold State.changeErr
  split
  · exact portsOnly_refl s
  · exact portsOnly_trans (portsOnly_trans (portsOnly_modHp s p _) (portsOnly_modHp _ p _)) (State.raiseVector_portsOnly _ p 0)

theorem State.changeErr_same {s : State} {p : Nat} {f : HostPort → HostPort} (h : f (s.hp p) = s.hp p) : s.changeErr p f = s := if_pos h

theorem State.changeErr_hp_changed {s : State} {p : Nat} {f : HostPort → HostPort} (hp : isHostPort p = true) (h : f (s.hp p) ≠ s.hp p) :
    ∃ m, (s.changeErr p f).hp p = { f (s.hp p) with causeError := true, msix := m } := by
  unfold State.changeErr State.causeError
  rw [if_neg h]
  obtain ⟨m, hm⟩ := ((s.modHp p f).modHp p fun h => { h with causeError := true }).raiseVector_hp 0 hp
  exact ⟨m, by rw [hm, State.hp_modHp, State.hp_modHp]⟩

/-- Whether or not HQ_ERR changes, a port's fields other than ERROR and the pending bits are those of the new value. -/
theorem State.changeErr_hp (s : State) {p : Nat} (f : HostPort → HostPort) (hp : isHostPort p = true) :
    ∃ e m, (s.changeErr p f).hp p = { f (s.hp p) with causeError := e, msix := m } := by
  by_cases h : f (s.hp p) = s.hp p
  · exact ⟨(s.hp p).causeError, (s.hp p).msix, by rw [State.changeErr_same h, h]⟩
  · obtain ⟨m, hm⟩ := State.changeErr_hp_changed hp h
    exact ⟨true, m, hm⟩

/-- A denied request is counted and changes nothing but the ports and the vectors sent. -/
theorem State.hqErr_denied (s : State) {p : Nat} (hp : isHostPort p = true) :
    ((s.hqErr p .denied).hp p).denied = oneMore (s.hp p).denied ∧ portsOnly s (s.hqErr p .denied) := by
  obtain ⟨e, m, h⟩ := s.changeErr_hp (countErr .denied) hp
  exact ⟨by unfold State.hqErr; rw [h]; rfl, s.changeErr_portsOnly p _⟩

/-- Accesses reach a port whose front end is ready, unless the start-up has halted. -/
theorem State.atPort_ready {s : State} {p : Nat} (f : State → State) (hr : (s.hp p).ready = true) (hh : s.halted = false) : s.atPort p f = f s := by
  simp [State.atPort, hr, hh]

/-! ## The aperture (R349, R355) -/

section
variable {p o : Nat} {s : State} (hp : isHostPort p = true) (ho : o < 0x1000000) (hr : (s.hp p).ready = true) (hh : s.halted = false)
include hp ho hr hh

theorem exec_apertureRead (b : Bool) : exec (.apertureRead p o b) s = .next (apertureRead p o b s) := by
  simp [exec, execApertureRead, hp, ho, hh, need_true, s.atPort_ready _ hr hh]

theorem exec_apertureWrite (v : Word) : exec (.apertureWrite p o v) s = .next (apertureWrite p o v s) := by
  simp [exec, execApertureWrite, hp, ho, need_true, s.atPort_ready _ hr hh]

end

/-- A read of the aperture that a die answers, at an offset that is not the high half of TB_COUNT, gives the register of that die's window. -/
theorem apertureRead_register {s : State} {p o x : Nat} (hrail : (s.die (s.hp p).winSel).railOff = false)
    (hreach : s.reaches (96 + p) (s.hp p).winSel = true) (ho : o ≠ 4) (hx : s.readWindow (s.hp p).winSel (alignTo 8 o) = some x) :
    apertureRead p o true s = s.answer "APERTURE" p [BitVec.ofNat 64 x] := by
  simp [apertureRead, hrail, hreach, ho, hx]

theorem apertureRead_noRegister {s : State} {p o : Nat} (hrail : (s.die (s.hp p).winSel).railOff = false)
    (hreach : s.reaches (96 + p) (s.hp p).winSel = true) (ho : o ≠ 4) (hx : s.readWindow (s.hp p).winSel (alignTo 8 o) = none) :
    apertureRead p o true s = s.answer "APERTURE_ERROR" p [] := by
  simp [apertureRead, hrail, hreach, ho, hx]

theorem apertureRead_timeout {s : State} {p o : Nat} {b : Bool}
    (h : b = false ∨ (s.die (s.hp p).winSel).railOff = true ∨ s.reaches (96 + p) (s.hp p).winSel = false) :
    apertureRead p o b s = (s.modHp p fun h => { h with winTimeout := true }).answer "APERTURE" p [BitVec.allOnes 64] := by
  unfold apertureRead
  dsimp only
  rw [if_pos (by rcases h with h | h | h <;> simp [h])]

theorem exec_registerWrite_window {d o : Nat} (hd : isDie d = true) (ho : o < 0x1000000) (v : Word) (s : State) :
    exec (.registerWrite (.window d) o v) s = .next (s.writeWindow d (alignTo 8 o) v) := by
  simp [exec, execRegisterWrite, registerWrite, spaceOk, hd, ho, need_true]

theorem apertureReachesTheDie : ApertureReachesTheDie := by
  intro p o v s hp ho hr hh
  have hread := exec_apertureRead hp ho hr hh
  have hwrite := exec_apertureWrite hp ho hr hh v
  refine ⟨?_, ?_, ?_, ?_, ?_, ?_⟩
  · intro x hrail hreach ho4 hx
    exact ⟨_, hread true, apertureRead_register hrail hreach ho4 hx⟩
  · intro hrail hreach ho4 hx
    exact ⟨_, hread true, apertureRead_noRegister hrail hreach ho4 hx⟩
  · intro b hb
    refine ⟨_, hread b, ?_⟩
    rw [apertureRead_timeout hb]
    have hport := s.hp_modHp p fun h => { h with winTimeout := true }
    exact ⟨congrArg (· ++ _) (s.modHp_answers p _), congrArg HostPort.winTimeout hport, s.modHp_answer_frame p _ _ _ _⟩
  · intro hprim hcut
    refine ⟨_, hwrite, ?_⟩
    unfold apertureWrite
    rw [if_neg (not_not_intro hprim), if_pos (by rcases hcut with h | h <;> simp [h])]
  · intro hprim hrail hreach hd
    rw [hwrite, exec_registerWrite_window hd ho]
    unfold apertureWrite
    rw [if_neg (not_not_intro hprim), if_neg (by simp [hrail, hreach])]
  · intro hprim
    refine ⟨_, hwrite, ?_⟩
    unfold apertureWrite
    rw [if_pos hprim]
    exact s.hqErr_denied hp

/-! ## Register writes (R13, R14, R42) -/

theorem alignTo_mod (n a : Nat) : alignTo n a % n = 0 := Nat.mul_mod_left _ _
theorem alignTo_of_mod {n a : Nat} (h : a % n = 0) : alignTo n a = a := Nat.div_mul_cancel (Nat.dvd_of_mod_eq_zero h)

/-- A write of the register at a word of a die's window. -/
theorem runs_window {d o : Nat} {v : Word} {s : State} {P : State → Prop} (hd : isDie d = true) (ho : o < 0x1000000) (h8 : o % 8 = 0)
    (h : P (s.writeWindow d o v)) : Runs (.registerWrite (.window d) o v) s P :=
  ⟨_, by rw [exec_registerWrite_window hd ho, alignTo_of_mod h8], h⟩

/-- A write of the register at a word of a port's BAR0, once its front end is ready. -/
theorem runs_bar0 {p o : Nat} {v : Word} {s : State} {P : State → Prop} (hp : isHostPort p = true) (hr : (s.hp p).ready = true)
    (hh : s.halted = false) (ho : o < 0x1000000) (h8 : o % 8 = 0) (h : P (s.writeBar0 p o v)) : Runs (.registerWrite (.bar0 p) o v) s P :=
  ⟨_, by simp [exec, execRegisterWrite, registerWrite, spaceOk, hp, ho, need_true, State.atPort_ready _ hr hh, alignTo_of_mod h8], h⟩

/-- Every 8-byte word of the time-base block holds a register (R69). -/
theorem State.readTb_isSome (s : State) (d : Nat) {off : Nat} (h8 : off % 8 = 0) (hlt : off < 0x28) : (s.readTb d off).isSome = true := by
  have h : off = 0x00 ∨ off = 0x08 ∨ off = 0x10 ∨ off = 0x18 ∨ off = 0x20 := by omega
  obtain rfl | rfl | rfl | rfl | rfl := h <;> rfl

/-- The words of a link die's block that hold no register: only port 0 has the package number and the time-tree registers (R435, R470). -/
theorem State.readLink_none {s : State} {p off : Nat} (h8 : off % 8 = 0) (hlt : off < 0x70) (h : s.readLink p off = none) :
    off = 0x68 ∨ p ≠ 0 ∧ (off = 0x00 ∨ off = 0x60) := by
  have hword : off = 0x00 ∨ off = 0x08 ∨ off = 0x10 ∨ off = 0x18 ∨ off = 0x20 ∨ off = 0x28 ∨ off = 0x30 ∨ off = 0x38 ∨ off = 0x40 ∨ off = 0x48 ∨
    off = 0x50 ∨ off = 0x58 ∨ off = 0x60 ∨ off = 0x68 := by omega
  rcases hword with rfl | rfl | rfl | rfl | rfl | rfl | rfl | rfl | rfl | rfl | rfl | rfl | rfl | rfl <;> simp_all [State.readLink]

theorem State.writeLink_noRegister {s : State} {p off : Nat} (v : Nat) (h8 : off % 8 = 0) (hlt : off < 0x70) (h : s.readLink p off = none) :
    s.writeLink p off v = s := by
  obtain rfl | ⟨hp, rfl | rfl⟩ := State.readLink_none h8 hlt h
  · rfl
  · simp [State.writeLink, hp]
  · simp [State.writeLink, hp]

/-- A chain of offsets is walked with the branch not taken first. -/
theorem ite_eq_of {c : Prop} [Decidable c] {r s t : State} (hneg : ¬c → s = t) (hpos : c → r = t) : (if c then r else s) = t :=
  ite_eq_iff'.2 ⟨hpos, hneg⟩

/-- A register that only dies of one kind have: where a read finds none, the write, whose guard implies that of the read, changes nothing. -/
theorem guarded_noRegister {c c' : Prop} [Decidable c] [Decidable c'] {x : Nat} {s t : State} (himp : c' → c)
    (h : (if c then some x else none) = none) : (if c' then t else s) = s :=
  if_neg fun hc' => by simp [himp hc'] at h

/-- R42: a write at a window offset where the die has no register changes nothing. -/
theorem State.writeWindow_noRegister {s : State} {d off : Nat} (w : Word) (h8 : off % 8 = 0) (h : s.readWindow d off = none) :
    s.writeWindow d off w = s := by
  have hkeeper : d = 98 → isKeeper d = true := by rintro rfl; rfl
  unfold State.writeWindow
  refine ite_eq_of (fun _ => ?_) fun hoff => ?tb
  refine ite_eq_of (fun _ => ?_) fun hoff => ?opCtrl
  refine ite_eq_of (fun _ => ?_) fun hoff => ?throttle
  refine ite_eq_of (fun _ => ?_) fun hoff => ?pkgCap
  refine ite_eq_of (fun _ => ?_) fun hoff => ?crit
  refine ite_eq_of (fun _ => ?_) fun hoff => ?sramCe
  refine ite_eq_of (fun _ => ?_) fun hoff => ?cellarCfg
  refine ite_eq_of (fun _ => ?_) fun hoff => ?channelCe
  refine ite_eq_of (fun _ => ?_) fun hoff => ?larder
  refine ite_eq_of (fun _ => ?_) fun hoff => ?link
  refine ite_eq_of (fun _ => ?_) fun hoff => ?hatch
  refine ite_eq_of (fun _ => ?_) fun hoff => ?ledgerLost
  refine ite_eq_of (fun _ => ?_) fun hoff => ?errArith
  refine ite_eq_of (fun _ => ?_) fun hoff => ?errTally
  refine ite_eq_of (fun _ => ?_) fun hoff => ?errRing
  refine ite_eq_of (fun _ => ?_) fun hoff => ?perf
  refine ite_eq_of (fun _ => ?_) fun hoff => ?dgForce
  · rfl
  case tb =>
    simp only [State.readWindow, if_pos hoff] at h
    simpa [h] using s.readTb_isSome d h8 hoff
  case throttle =>
    simp (disch := omega) only [State.readWindow, if_pos, if_neg, reduceCtorEq] at h
  case crit =>
    simp (disch := omega) only [State.readWindow, if_pos, if_neg] at h
    exact guarded_noRegister hkeeper h
  case link =>
    simp (disch := omega) only [State.readWindow, if_pos, if_neg] at h
    refine ite_eq_iff'.2 ⟨fun hd => ?_, fun _ => rfl⟩
    rw [if_pos hd] at h
    exact State.writeLink_noRegister _ (by omega) (by omega) h
  case perf =>
    simp (disch := omega) only [State.readWindow, if_pos, if_neg] at h
    exact guarded_noRegister id h
  case ledgerLost => subst hoff; simp [State.readWindow] at h
  case pkgCap => subst hoff; exact guarded_noRegister hkeeper h
  case opCtrl => subst hoff; exact guarded_noRegister id h
  case sramCe => subst hoff; exact guarded_noRegister id h
  case cellarCfg => subst hoff; exact guarded_noRegister id h
  case channelCe => subst hoff; exact guarded_noRegister id h
  case larder => subst hoff; exact guarded_noRegister id h
  case hatch => subst hoff; exact guarded_noRegister id h
  case errArith => subst hoff; exact guarded_noRegister id h
  case errTally => subst hoff; exact guarded_noRegister id h
  case errRing => subst hoff; exact guarded_noRegister id h
  case dgForce => subst hoff; exact guarded_noRegister id h

/-! ## The registers that a write clamps or clears -/

theorem le_clampN (lo hi v : Nat) : lo ≤ clampN lo hi v := Nat.le_max_left _ _
theorem clampN_le {lo hi : Nat} (v : Nat) (h : lo ≤ hi) : clampN lo hi v ≤ hi := Nat.max_le.2 ⟨h, Nat.min_le_left _ _⟩
theorem clampN_within {lo hi v : Nat} (hlo : lo ≤ v) (hhi : v ≤ hi) : clampN lo hi v = v := by
  rw [clampN, Nat.min_eq_right hhi, Nat.max_eq_right hlo]

theorem State.writeWindow_pkgCap (s : State) (v : Word) : s.writeWindow 98 0x010100 v = { s with power := writePkgCap v.toNat s.power } := rfl

theorem State.writeWindow_crit (s : State) (v : Word) {c : Nat} (hc : c < 1024) : s.writeWindow 98 (0x011000 + 8 * c) v = s.writeCrit c v.toNat := by
  unfold State.writeWindow
  dsimp only
  rw [if_neg (by omega), if_neg (by omega), if_neg (by omega), if_neg (by omega), if_pos ⟨by omega, by omega⟩, if_pos rfl,
    show (0x011000 + 8 * c - 0x011000) / 8 = c by omega]

theorem State.writeWindow_errArith (s : State) (v : Word) {d : Nat} (hd : isCompute d = true) :
    s.writeWindow d 0x080010 v = each (List.range 4) s fun s k => s.modCore (4 * d + k) fun x => { x with errArith := 0 } := if_pos hd

theorem State.writeWindow_lkErr (s : State) (v : Word) {d : Nat} (hd : isLink d = true) :
    s.writeWindow d 0x050058 v = s.modPort (d - 88) fun x => { x with crcFail := 0, authFail := 0, replays := 0, violations := 0 } := if_pos hd

theorem State.ctx_of_ctx? {s : State} {c : Nat} {x : Context} (h : s.ctx? c = some x) : s.ctx c = x := by rw [State.ctx, h]; rfl

/-- PW_CRIT_MAP of a context takes the dies of that context alone, and the entry of no other context changes (R487). -/
theorem State.writeCrit_ctx (s : State) {c : Nat} (v : Nat) (hc : (s.ctx? c).isSome = true) :
    ((s.writeCrit c v).ctx c).crit.toNat = Nat.land v (ctxMask (s.ctx c)) % 2 ^ 64 ∧ ∀ e, e ≠ c → (s.writeCrit c v).ctx? e = s.ctx? e := by
  obtain ⟨x, hx⟩ := Option.isSome_iff_exists.1 hc
  have hnew : (s.writeCrit c v).ctx? c = some { x with crit := BitVec.ofNat 64 (Nat.land v (ctxMask x)) } :=
    (s.ctx?_modCtx c _).trans (by rw [hx]; rfl)
  refine ⟨?_, fun e he => s.ctx?_modCtx_ne _ he⟩
  rw [State.ctx_of_ctx? hnew, State.ctx_of_ctx? hx]
  exact BitVec.toNat_ofNat _ _

/-- One update for each of some cores from core `a` on: those named are updated, every other stays. -/
theorem each_modCore (f : Core → Core) (a j : Nat) (l : List Nat) (hl : l.Nodup) (s : State) :
    (each l s fun s k => s.modCore (a + k) f).core (a + j) = if j ∈ l then f (s.core (a + j)) else s.core (a + j) := by
  induction l generalizing s with
  | nil => simp
  | cons k l ih =>
    obtain ⟨hk, hl⟩ := List.nodup_cons.1 hl
    rw [each_cons, ih hl]
    by_cases hjk : j = k
    · subst hjk; simp [hk]
    · rw [State.core_modCore_ne _ _ (by omega)]; simp [hjk]

theorem each_modCore_frame (f : Core → Core) (a : Nat) (l : List Nat) (s : State) :
    (each l s fun s k => s.modCore (a + k) f) = { s with cores := (each l s fun s k => s.modCore (a + k) f).cores } :=
  each_keeps (fun t => t = { s with cores := t.cores }) _
    (fun t k h => congrArg (fun x : State => { x with cores := (t.modCore (a + k) f).cores }) h) l s rfl

/-- What a write of HQ_ERR does to the port's counts (R353). -/
def clearErr (h : HostPort) : HostPort := { h with malformed := 0, unexpected := 0, denied := 0, doorbell := 0 }

theorem clearErr_same_iff (h : HostPort) : clearErr h = h ↔ h.malformed + h.unexpected + h.denied + h.doorbell = 0 := by
  constructor
  · intro heq
    rw [← heq]; rfl
  · intro hsum
    obtain ⟨hm, hu, hd, hb⟩ : h.malformed = 0 ∧ h.unexpected = 0 ∧ h.denied = 0 ∧ h.doorbell = 0 := by omega
    cases h
    dsimp only at hm hu hd hb
    subst hm hu hd hb
    rfl

/-- A write of HQ_ERR clears the four counts; where that changes one, ERROR is set, and otherwise nothing changes. -/
theorem State.changeErr_clearErr (s : State) {p : Nat} (hp : isHostPort p = true) :
    clearErr ((s.changeErr p clearErr).hp p) = (s.changeErr p clearErr).hp p ∧
    (clearErr (s.hp p) ≠ s.hp p → ((s.changeErr p clearErr).hp p).causeError = true) := by
  obtain ⟨e, m, hport⟩ := s.changeErr_hp clearErr hp
  refine ⟨by rw [hport]; rfl, fun hne => ?_⟩
  obtain ⟨m, hport⟩ := State.changeErr_hp_changed hp hne
  rw [hport]

theorem State.writeBar0_ctrl (s : State) (p : Nat) (v : Word) : s.writeBar0 p 0x1010 v =
  s.modHp p fun h => { h with failoverMs := clampN 1 1000 (bits v.toNat 16 16), autoFailover := bit v.toNat 1, doorbellEn := bit v.toNat 0 } := rfl

theorem State.writeBar0_winSel (s : State) (p : Nat) (v : Word) :
    s.writeBar0 p 0x1020 v = s.modHp p fun h => { h with winSel := min 99 (bits v.toNat 0 7) } := rfl

theorem State.writeBar0_cause (s : State) (p : Nat) (v : Word) : s.writeBar0 p 0x1048 v = s.modHp p fun h => { h with
  causeError := h.causeError && !bit v.toNat 0, causeDone := h.causeDone && !bit v.toNat 1, causeRole := h.causeRole && !bit v.toNat 2,
  causeService := h.causeService && !bit v.toNat 3, causePeer := h.causePeer && !bit v.toNat 4 } := rfl

theorem State.writeBar0_err (s : State) (p : Nat) (v : Word) : s.writeBar0 p 0x1050 v = s.changeErr p clearErr := rfl

theorem registerWritesAreClamped : RegisterWritesAreClamped := by
  intro o v s ho
  refine ⟨?_, ?_, ?_, ?_, ?_, ?_⟩
  · intro d hd h
    exact ⟨_, exec_registerWrite_window hd ho v s, State.writeWindow_noRegister v (alignTo_mod 8 o) h⟩
  · refine runs_window rfl (by decide) (by decide) ?_
    rw [State.writeWindow_pkgCap]
    have hcap : clampN 2000 21500 (bits v.toNat 0 16) ≤ 21500 := clampN_le _ (by decide)
    exact ⟨le_clampN _ _ _, hcap, le_clampN _ _ _, clampN_le _ hcap, clampN_within, rfl⟩
  · intro c hc hbound
    have hlt : c < 1024 := of_decide_eq_true hc
    refine runs_window rfl (by omega) (by omega) ?_
    rw [State.writeWindow_crit s v hlt]
    exact s.writeCrit_ctx v.toNat hbound
  · intro d hd
    have hdie : isDie d = true := by simp only [isCompute, isDie, decide_eq_true_eq] at hd ⊢; omega
    refine runs_window hdie (by decide) (by decide) ?_
    rw [s.writeWindow_errArith v hd]
    refine ⟨fun k hk => ?_, each_modCore_frame _ _ _ s⟩
    rw [each_modCore _ _ _ _ List.nodup_range, if_pos (List.mem_range.2 hk)]
  · intro d hd
    have hdie : isDie d = true := by simp only [isLink, isDie, Bool.and_eq_true, decide_eq_true_eq] at hd ⊢; omega
    refine runs_window hdie (by decide) (by decide) ?_
    rw [s.writeWindow_lkErr v hd]
    exact ⟨s.port_modPort _ _, rfl⟩
  · intro p hp hr hh
    refine ⟨?_, ?_, ?_, ?_⟩ <;> refine runs_bar0 hp hr hh (by decide) (by decide) ?_
    · rw [s.writeBar0_ctrl, State.hp_modHp]
      exact ⟨le_clampN _ _ _, clampN_le _ (by decide), Iff.rfl, s.modHp_frame p _⟩
    · rw [s.writeBar0_winSel, State.hp_modHp]
      exact ⟨rfl, s.modHp_frame p _⟩
    · rw [s.writeBar0_cause, State.hp_modHp]
      exact ⟨rfl, rfl, s.modHp_frame p _⟩
    · rw [s.writeBar0_err]
      obtain ⟨hclear, herror⟩ := s.changeErr_clearErr hp
      have hiff := clearErr_same_iff (s.hp p)
      exact ⟨(congrArg HostPort.malformed hclear).symm, (congrArg HostPort.unexpected hclear).symm, (congrArg HostPort.denied hclear).symm,
        (congrArg HostPort.doorbell hclear).symm, fun hne => herror (mt hiff.1 hne), fun h0 => State.changeErr_same (hiff.2 h0),
        s.changeErr_portsOnly p _⟩

/-- Settles O34: a read or write of the aperture is one case of `apertureRead` or `apertureWrite`, and each register write is one update of the part
that holds the register. -/
theorem registersAreReached : Obligations.RegistersAreReached := ⟨apertureReachesTheDie, registerWritesAreClamped⟩

/-! ## Requests before the front end is ready (R346, R360) -/

/-- A request outside the BARs that arrives before the front end is ready gets no answer, but is logged in AER as an advisory error. -/
theorem exec_outsideBars_notReady {s : State} {p : Nat} (hp : isHostPort p = true) (hready : s.configReady p = false) :
    exec (.pcieTlpReceive p .outsideBars) s = .next (s.aerAdvise p 20) := by
  have hstill : (s.aerAdvise p 20).configReady p = false := by simpa [State.configReady, State.aerAdvise] using hready
  simp [exec, execPcieTlpReceive, pcieTlpReceive, tlpOk, hp, hstill, need_true]

theorem State.aerAdvise_aer (s : State) (p n : Nat) : ((s.aerAdvise p n).hp p).aer = (s.hp p).aer + 1 :=
  congrArg HostPort.aer (s.hp_modHp p _)

/-- Refutes O33: it says that a request outside the BARs changes nothing before the front end is ready, but the model logs the error all the same.
At reset port 0 is not ready, and the request takes the port's count of logged errors from 0 to 1. -/
theorem not_violationsAndStatus : ¬ Obligations.ViolationsAndStatus := by
  rintro ⟨hviolations, -⟩
  have hnotReady : State.reset.configReady 0 = false := rfl
  obtain ⟨-, -, -, -, -, hquiet, -⟩ := hviolations 0 State.reset rfl
  obtain ⟨t, hexec, hsame⟩ := hquiet .outsideBars (by simp) hnotReady
  have hlogged : t = State.reset.aerAdvise 0 20 :=
    (Host.Outcome.next.inj ((exec_outsideBars_notReady rfl hnotReady).symm.trans hexec)).symm
  have haer : (State.reset.hp 0).aer = (State.reset.hp 0).aer + 1 := by
    rw [← State.aerAdvise_aer State.reset 0 20, ← hlogged, hsame]
  omega

end Sys2Proof.Machine
end

section
/-! SUPPORT. Proofs about operating points (R51, R52, R57, R61, R495). -/

namespace Sys2Proof.Machine

/-! ## A command whose operands are well formed answers its effect -/

/-- A command that is one effect guarded by the check of its operands runs where the check passes. -/
theorem runs_of_need {i : Instr} {s t : State} {ok : Bool} {P : State → Prop} (hexec : exec i s = need ok t) (hok : ok = true) (h : P t) : Runs i s P :=
  ⟨t, by rw [hexec, hok]; rfl, h⟩

/-! ## An update of one die -/

theorem othersSame_modDie (s : State) (d : Nat) (f : Die → Die) : othersSame s (s.modDie d f) d := fun _ he => s.die_modDie_ne f he

theorem othersSame_trans {s t u : State} {d : Nat} (hst : othersSame s t d) (htu : othersSame t u d) : othersSame s u d :=
  fun e he => (htu e he).trans (hst e he)

/-! ## Throttle reasons (R493) -/

/-- A reason that is already active, or becomes so, is active afterwards; the die keeps every field but the reasons and its ledger. -/
theorem State.throttleOn_die (s : State) (d r : Nat) :
    throttled ((s.throttleOn d r).die d) r = true ∧
    (s.throttleOn d r).die d = { s.die d with throttle := ((s.throttleOn d r).die d).throttle, ledger := ((s.throttleOn d r).die d).ledger } := by
  unfold State.throttleOn
  split
  · exact ⟨‹_›, rfl⟩
  · dsimp only
    rw [State.note_die_same, State.die_modDie]
    refine ⟨?_, rfl⟩
    simp [throttled, tabGet_tabSet_same]

theorem State.throttleOn_frame (s : State) (d r : Nat) :
    othersSame s (s.throttleOn d r) d ∧ s.throttleOn d r = { s with dies := (s.throttleOn d r).dies } := by
  unfold State.throttleOn
  split
  · exact ⟨fun _ _ => rfl, rfl⟩
  · exact ⟨fun e he => by rw [State.note_die_ne _ _ _ _ _ he, State.die_modDie_ne _ _ he], rfl⟩

/-! ## PW_OP_CTRL (R61, R495) -/

/-- The limits that PW_OP_CTRL takes: MIN_OP from 1 to 7, MAX_OP from MIN_OP to 7, REQ_OP between them, or 0 on a die with no context. -/
theorem writePwOpCtrl_limits (bound : Bool) (v : Nat) (x : Die) :
    let y := writePwOpCtrl bound v x
    1 ≤ y.minOp ∧ y.minOp ≤ y.maxOp ∧ y.maxOp ≤ 7 ∧ y.reqOp ≤ y.maxOp ∧
      (y.minOp ≤ y.reqOp ∨ y.reqOp = 0 ∧ bound = false ∧ bits v 0 3 = 0) := by
  intro y
  have hlo : 1 ≤ y.minOp := le_clampN _ _ _
  have hlo7 : y.minOp ≤ 7 := clampN_le _ (by decide)
  have hhi : y.minOp ≤ y.maxOp := le_clampN _ _ _
  have hhi7 : y.maxOp ≤ 7 := clampN_le _ hlo7
  have hreq : y.reqOp = if bits v 0 3 = 0 then (if bound then y.minOp else 0) else clampN y.minOp y.maxOp (bits v 0 3) := rfl
  refine ⟨hlo, hhi, hhi7, ?_⟩
  rw [hreq]
  split
  · split
    · exact ⟨hhi, .inl le_rfl⟩
    · exact ⟨Nat.zero_le _, .inr ⟨rfl, by simp_all, ‹_›⟩⟩
  · exact ⟨clampN_le _ hhi, .inl (le_clampN _ _ _)⟩

/-- Fields of PW_OP_CTRL that lie within their limits are taken as written. -/
theorem writePwOpCtrl_within {bound : Bool} {v : Nat} {x : Die} (hmin : 1 ≤ bits v 4 3) (hmax : bits v 4 3 ≤ bits v 8 3)
    (hlo : bits v 4 3 ≤ bits v 0 3) (hhi : bits v 0 3 ≤ bits v 8 3) :
    (writePwOpCtrl bound v x).minOp = bits v 4 3 ∧ (writePwOpCtrl bound v x).maxOp = bits v 8 3 ∧ (writePwOpCtrl bound v x).reqOp = bits v 0 3 := by
  have h7 : ∀ lo, bits v lo 3 ≤ 7 := fun lo => Nat.le_of_lt_succ (Nat.mod_lt _ (by decide))
  have hminOp : clampN 1 7 (bits v 4 3) = bits v 4 3 := clampN_within hmin (h7 4)
  have hmaxOp : clampN (bits v 4 3) 7 (bits v 8 3) = bits v 8 3 := clampN_within hmax (h7 8)
  have hreqOp : clampN (bits v 4 3) (bits v 8 3) (bits v 0 3) = bits v 0 3 := clampN_within hlo hhi
  have hreq0 : bits v 0 3 ≠ 0 := by omega
  simp [writePwOpCtrl, hminOp, hmaxOp, hreqOp, hreq0]

/-- `y` differs from `x` at most in what a move of the operating point and DUTY holds change. -/
def movedOnly (x y : Die) : Prop :=
  y = { x with curOp := y.curOp, targetOp := y.targetOp, transition := y.transition, capOp := y.capOp, dutyHold := y.dutyHold }

theorem takeMinOp_cases (x : Die) :
    minAboveAlloc x = true ∧ takeMinOp x = { x with capOp := some x.minOp, dutyHold := true } ∨ minAboveAlloc x = false ∧ takeMinOp x = x := by
  unfold takeMinOp
  cases h : minAboveAlloc x <;> simp

/-- A move that begins sets the target, and changes nothing but the point, the target and the change under way. -/
theorem startOp_eq (t : Nat) (x : Die) : ∃ p b, startOp t x = { x with curOp := p, targetOp := t, transition := b } := by
  unfold startOp
  split
  · exact ⟨_, _, rfl⟩
  · split
    · exact ⟨_, _, rfl⟩
    · split <;> exact ⟨_, _, rfl⟩

/-- With no raise and no cap in force, dynamic work goes at the requested point (R61). -/
theorem wantedOp_uncapped {x : Die} (hsched : x.scheduled = false) (hraise : x.raiseOp = none) (hcap : x.capOp = none) : wantedOp x = x.reqOp := by
  simp only [wantedOp, hsched, hraise, hcap]
  split
  · contradiction
  · split <;> simp_all

/-- What a write of PW_OP_CTRL makes of the die: its fields after the clamps, MIN_OP met, and its move begun where it may move. -/
def opCtrlDie (bound holds : Bool) (v : Nat) (x : Die) : Die :=
  let y := takeMinOp (writePwOpCtrl bound v x)
  if y.scheduled || holds then y else startOp (wantedOp y) y

theorem opCtrlDie_movedOnly (bound holds : Bool) (v : Nat) (x : Die) : movedOnly (writePwOpCtrl bound v x) (opCtrlDie bound holds v x) := by
  have htake : movedOnly (writePwOpCtrl bound v x) (takeMinOp (writePwOpCtrl bound v x)) := by
    rcases takeMinOp_cases (writePwOpCtrl bound v x) with ⟨-, h⟩ | ⟨-, h⟩ <;> rw [h] <;> rfl
  unfold opCtrlDie
  dsimp only
  split
  · exact htake
  · obtain ⟨p, b, hstart⟩ := startOp_eq (wantedOp (takeMinOp (writePwOpCtrl bound v x))) (takeMinOp (writePwOpCtrl bound v x))
    rw [hstart, htake]
    rfl

/-- A die that is scheduled, or that is no logical die's, does not move for PW_OP_CTRL (R37, R61). -/
theorem opCtrlDie_still (bound : Bool) (v : Nat) {holds : Bool} {x : Die} (h : x.scheduled = true ∨ holds = true) :
    (opCtrlDie bound holds v x).curOp = x.curOp ∧ (opCtrlDie bound holds v x).targetOp = x.targetOp ∧
    (opCtrlDie bound holds v x).transition = x.transition := by
  unfold opCtrlDie
  rcases takeMinOp_cases (writePwOpCtrl bound v x) with ⟨-, htake⟩ | ⟨-, htake⟩ <;> rw [htake] <;> dsimp only <;>
    rw [if_pos (by rcases h with h | h <;> simp [writePwOpCtrl, h])] <;> exact ⟨rfl, rfl, rfl⟩

/-- A dynamic die with neither raise nor cap moves toward REQ_OP (R61). -/
theorem opCtrlDie_target (bound : Bool) (v : Nat) {x : Die} (hsched : x.scheduled = false)
    (hraise : (opCtrlDie bound false v x).raiseOp = none) (hcap : (opCtrlDie bound false v x).capOp = none) :
    (opCtrlDie bound false v x).targetOp = (opCtrlDie bound false v x).reqOp := by
  have hmoves : opCtrlDie bound false v x =
      startOp (wantedOp (takeMinOp (writePwOpCtrl bound v x))) (takeMinOp (writePwOpCtrl bound v x)) := by
    refine if_neg ?_
    rcases takeMinOp_cases (writePwOpCtrl bound v x) with ⟨-, htake⟩ | ⟨-, htake⟩ <;> rw [htake] <;> simp [writePwOpCtrl, hsched]
  obtain ⟨p, b, hstart⟩ := startOp_eq (wantedOp (takeMinOp (writePwOpCtrl bound v x))) (takeMinOp (writePwOpCtrl bound v x))
  rw [hmoves, hstart] at hraise hcap ⊢
  have hsched' : (takeMinOp (writePwOpCtrl bound v x)).scheduled = false := by
    rcases takeMinOp_cases (writePwOpCtrl bound v x) with ⟨-, htake⟩ | ⟨-, htake⟩ <;> rw [htake] <;> exact hsched
  exact wantedOp_uncapped hsched' hraise hcap

/-- Where MIN_OP is written above the last allocation, the die is capped at MIN_OP and holds DUTY (R495). -/
theorem opCtrlDie_above {bound holds : Bool} {v : Nat} {x : Die} (h : minAboveAlloc (writePwOpCtrl bound v x) = true) :
    (opCtrlDie bound holds v x).capOp = some (opCtrlDie bound holds v x).minOp ∧ (opCtrlDie bound holds v x).dutyHold = true := by
  have htake : takeMinOp (writePwOpCtrl bound v x) = { writePwOpCtrl bound v x with capOp := some (writePwOpCtrl bound v x).minOp, dutyHold := true } := if_pos h
  unfold opCtrlDie
  rw [htake]
  dsimp only
  split
  · exact ⟨rfl, rfl⟩
  · obtain ⟨p, b, hstart⟩ := startOp_eq (wantedOp _) { writePwOpCtrl bound v x with capOp := some (writePwOpCtrl bound v x).minOp, dutyHold := true }
    rw [hstart]
    exact ⟨rfl, rfl⟩

theorem pwOpCtrlWrite_eq (d v : Nat) (s : State) : pwOpCtrlWrite d v s =
    if minAboveAlloc (writePwOpCtrl (s.dieBound d) v (s.die d)) then (s.modDie d (opCtrlDie (s.dieBound d) (s.holdsOp0 d) v)).throttleOn d rsDuty
    else s.modDie d (opCtrlDie (s.dieBound d) (s.holdsOp0 d) v) := rfl

/-- A write of PW_OP_CTRL changes its die alone, and of that die, beside what `opCtrlDie` does, at most the throttle reasons and the ledger. -/
theorem pwOpCtrlWrite_die (d v : Nat) (s : State) :
    (∃ th l, (pwOpCtrlWrite d v s).die d = { opCtrlDie (s.dieBound d) (s.holdsOp0 d) v (s.die d) with throttle := th, ledger := l }) ∧
    (minAboveAlloc (writePwOpCtrl (s.dieBound d) v (s.die d)) = true → throttled ((pwOpCtrlWrite d v s).die d) rsDuty = true) ∧
    othersSame s (pwOpCtrlWrite d v s) d ∧ pwOpCtrlWrite d v s = { s with dies := (pwOpCtrlWrite d v s).dies } := by
  have hother := othersSame_modDie s d (opCtrlDie (s.dieBound d) (s.holdsOp0 d) v)
  rw [pwOpCtrlWrite_eq]
  split
  · obtain ⟨hactive, hdie⟩ := (s.modDie d (opCtrlDie (s.dieBound d) (s.holdsOp0 d) v)).throttleOn_die d rsDuty
    obtain ⟨hothers, hframe⟩ := (s.modDie d (opCtrlDie (s.dieBound d) (s.holdsOp0 d) v)).throttleOn_frame d rsDuty
    rw [State.die_modDie] at hdie
    exact ⟨⟨_, _, hdie⟩, fun _ => hactive, othersSame_trans hother hothers, by rw [hframe]; rfl⟩
  · exact ⟨⟨_, _, State.die_modDie _ _ _⟩, fun h => absurd h ‹_›, hother, rfl⟩

theorem operatingPointWriteIsClamped : OperatingPointWriteIsClamped := by
  intro d v s hd
  refine runs_of_need rfl hd ?_
  obtain ⟨⟨th, l, hdie⟩, hduty, hothers, hframe⟩ := pwOpCtrlWrite_die d v.toNat s
  have hmoved := opCtrlDie_movedOnly (s.dieBound d) (s.holdsOp0 d) v.toNat (s.die d)
  obtain ⟨hlo, hmin, hmax, hreq, hreqLo⟩ := writePwOpCtrl_limits (s.dieBound d) v.toNat (s.die d)
  have hminOp : ((pwOpCtrlWrite d v.toNat s).die d).minOp = (writePwOpCtrl (s.dieBound d) v.toNat (s.die d)).minOp := by rw [hdie, hmoved]
  have hmaxOp : ((pwOpCtrlWrite d v.toNat s).die d).maxOp = (writePwOpCtrl (s.dieBound d) v.toNat (s.die d)).maxOp := by rw [hdie, hmoved]
  have hreqOp : ((pwOpCtrlWrite d v.toNat s).die d).reqOp = (writePwOpCtrl (s.dieBound d) v.toNat (s.die d)).reqOp := by rw [hdie, hmoved]
  have hfixed : ((pwOpCtrlWrite d v.toNat s).die d).fixed = v.toNat.testBit 15 := by rw [hdie, hmoved]; rfl
  refine ⟨by rwa [hminOp], by rwa [hminOp, hmaxOp], by rwa [hmaxOp], by rwa [hreqOp, hmaxOp], by rwa [hminOp, hreqOp], hfixed, ?within, ?above, ?still,
    ?target, hothers, hframe⟩
  case within =>
    intro h1 h2 h3 h4
    rw [hminOp, hmaxOp, hreqOp]
    exact writePwOpCtrl_within h1 h2 h3 h4
  case above =>
    intro h
    refine ⟨?_, ?_, hduty h⟩ <;> rw [hdie]
    · exact (opCtrlDie_above h).1
    · exact (opCtrlDie_above h).2
  case still =>
    intro h
    rw [hdie]
    exact opCtrlDie_still _ _ h
  case target =>
    intro hsched hholds hraise hcap
    rw [hdie, hholds] at hraise hcap ⊢
    exact opCtrlDie_target _ _ hsched hraise hcap

/-! ## The end of a one-point change (R51, R52) -/

/-- While a change is under way the point moves one toward the target, and the change ends where it is reached. -/
theorem opSettled_cases {x : Die} (h : x.transition = true) :
    (x.curOp < x.targetOp → (opSettled x).curOp = x.curOp + 1 ∧ ((opSettled x).transition = true ↔ (opSettled x).curOp < x.targetOp)) ∧
    (x.targetOp < x.curOp → (opSettled x).curOp + 1 = x.curOp ∧ (opSettled x).transition = true) ∧
    (x.targetOp = x.curOp → (opSettled x).curOp = x.curOp ∧ (opSettled x).transition = false) := by
  unfold opSettled
  rw [if_neg (by simp [h])]
  refine ⟨fun hup => ?_, fun hdown => ?_, fun hsame => ?_⟩
  · rw [if_pos hup]
    refine ⟨rfl, ?_⟩
    simp only [decide_eq_true_eq]
    omega
  · rw [if_neg (by omega), if_pos hdown]
    exact ⟨by dsimp only; omega, h⟩
  · rw [if_neg (by omega), if_neg (by omega)]
    exact ⟨rfl, rfl⟩

theorem opSettled_frame (x : Die) : opSettled x = { x with curOp := (opSettled x).curOp, transition := (opSettled x).transition } := by
  unfold opSettled
  split
  · rfl
  · split
    · rfl
    · split <;> rfl

/-- With no mesh request waiting, none is taken up again. -/
theorem State.releaseMesh_none {s : State} (h : s.meshWait = []) : s.releaseMesh = s := by
  unfold State.releaseMesh
  rw [h, each_nil, ← h]

theorem pointsChangeOneAtATime : PointsChangeOneAtATime := by
  intro d s hd htransition
  refine runs_of_need rfl hd ?_
  obtain ⟨hup, hdown, hsame⟩ := opSettled_cases htransition
  refine ⟨opSettled (s.die d), hup, hdown, hsame, opSettled_frame _, rfl, fun hwait => ?_⟩
  have hrelease : opChangeComplete d s = s.modDie d opSettled := State.releaseMesh_none hwait
  rw [hrelease]
  exact ⟨State.die_modDie _ _ _, othersSame_modDie _ _ _, rfl⟩

/-- Settles O3: a write of PW_OP_CTRL is `opCtrlDie` on its die, and the end of a change is `opSettled`. -/
theorem operatingPointsMove : Obligations.OperatingPointsMove := ⟨operatingPointWriteIsClamped, pointsChangeOneAtATime⟩

end Sys2Proof.Machine
end

section
/-! SUPPORT. Proofs about COPY and FILL of the mover (R161, R178, R448). -/

namespace Sys2Proof.Machine

/-! ## Bytes -/

theorem length_le (n v : Nat) : (le n v).length = n := by
  induction n generalizing v with
  | zero => rfl
  | succ n ih => rw [le, List.length_cons, ih]

/-- The bytes of a number that fits in them spell the number (R593). -/
theorem ofLe_le (n : Nat) : ∀ v, v < 256 ^ n → ofLe (le n v) = v := by
  induction n with
  | zero => intro v hv; simp [le, ofLe]; omega
  | succ n ih =>
    intro v hv
    have hquot : v / 256 < 256 ^ n := Nat.div_lt_of_lt_mul (by rwa [← Nat.pow_succ'])
    rw [le, ofLe, ih _ hquot, BitVec.toNat_ofNat]
    exact Nat.mod_add_div v 256

theorem length_readBytes (m : Memory) (a n : Nat) : (readBytes m a n).length = n := by simp [readBytes]

/-- A part of what was read, from `i` up. -/
theorem readBytes_slice (m : Memory) (a n i k : Nat) (h : i + k ≤ n) : ((readBytes m a n).drop i).take k = readBytes m (a + i) k := by
  have hlen : (((readBytes m a n).drop i).take k).length = (readBytes m (a + i) k).length := by simp [readBytes]; omega
  refine List.ext_getElem hlen fun j _ _ => ?_
  simp [readBytes, Nat.add_assoc]

/-- The pattern of a FILL of `n` words. -/
def fillBytes (n p : Nat) : List Byte := (List.range n).flatMap fun _ => le 8 p

theorem length_fillBytes (n p : Nat) : (fillBytes n p).length = 8 * n := by
  simp [fillBytes, List.length_flatMap, length_le, Nat.mul_comm]

theorem fillBytes_word (p : Nat) : ∀ {n i : Nat}, i < n → ((fillBytes n p).drop (8 * i)).take 8 = le 8 p := by
  intro n
  induction n with
  | zero => intro i hi; omega
  | succ n ih =>
    intro i hi
    have hcons : fillBytes (n + 1) p = le 8 p ++ fillBytes n p := by
      simp [fillBytes, List.range_succ_eq_map, List.flatMap_map]
    rw [hcons]
    cases i with
    | zero => rw [Nat.mul_zero, List.drop_zero, List.take_left' (length_le 8 p)]
    | succ i =>
      rw [show 8 * (i + 1) = (le 8 p).length + 8 * i by rw [length_le]; omega, List.drop_length_add_append]
      exact ih (by omega)

/-! ## Whole words in a store (R178, R182) -/

theorem State.eccRead_clean {s : State} (h : s.marks = []) (k n : Nat) : s.eccRead k n = s := by
  unfold State.eccRead
  rw [h]
  rfl

/-- Whole words are stored as they are; with no error standing in any word, nothing but memory changes. -/
theorem State.putWords_whole {s : State} (h : s.marks = []) (k : Nat) {l : List Byte} (h8 : l.length % 8 = 0) :
    s.putWords k l = { s with mem := writeBytes s.mem k l } := by
  have hround : roundUp l.length 8 = l.length := by simp only [roundUp, ceilDiv]; omega
  unfold State.putWords
  rw [hround, Nat.sub_self, List.replicate_zero, List.append_nil]
  have hmarks : (s.marks.filter fun e => decide (e.1 < k / 8) || decide (k + l.length ≤ 8 * e.1)) = s.marks := by rw [h]; rfl
  dsimp only
  rw [hmarks]

/-! ## The head of the mover's queue (R168) -/

/-- The operation at the head of a unit's queue has been performed: its registers stay, and nothing but its core changes. -/
theorem State.headMover_queue {s : State} {c : Nat} {e : QEntry} {o : MoverOp} (h : s.headMover c = some (e, o)) :
    ∃ q, (s.core c).mover = e :: q := by
  unfold State.headMover at h
  split at h
  · contradiction
  · split at h
    · split at h
      · obtain ⟨rfl, -⟩ : _ = e ∧ _ = o := by simpa using h
        rename_i hop _ _ _
        unfold State.headOp at hop
        split at hop
        · split at hop
          · contradiction
          · obtain rfl := Option.some.inj hop
            exact ⟨_, ‹_›⟩
        · contradiction
      · contradiction
    · contradiction

theorem State.doneHead_mover {s t : State} {c : Nat} {e : QEntry} {q : List QEntry} (hq : (s.core c).mover = e :: q) (hcores : t.cores = s.cores) :
    (∀ j, reg ((t.doneHead c uMover e).core c) j = reg (s.core c) j) ∧ performed s (t.doneHead c uMover e) c uMover ∧
    t.doneHead c uMover e = { t with cores := (t.doneHead c uMover e).cores } := by
  have hcore : t.core c = s.core c := by unfold State.core; rw [hcores]
  have hdone : (t.doneHead c uMover e).core c = { s.core c with mover := { e with done := true, held := none } :: q } := by
    unfold State.doneHead State.setHead
    rw [State.core_modCore, hcore]
    change (match (s.core c).mover with | _ :: t => _ | [] => _) = _
    rw [hq]
    rfl
  refine ⟨fun j => ?_, ⟨e, q, hq, ?_⟩, rfl⟩
  · rw [hdone]; rfl
  · rw [hdone]; rfl

/-! ## COPY (R161, R448) -/

/-- An end that is neither unmapped nor invalid goes on. -/
theorem State.withEnd_ok {s : State} {c a : Nat} {e : QEntry} {r : End} {f : End → State} (hmapped : r ≠ .unmapped) (hvalid : r ≠ .invalid) :
    s.withEnd c e a r f = f r := by
  cases r with
  | unmapped => exact absurd rfl hmapped
  | invalid => exact absurd rfl hvalid
  | _ => rfl

/-- A local address names no tally. -/
theorem State.nearest_here_notTally {s : State} {d d' : Nat} (h : s.nearest d = .here d') (g v : Nat) : farOf d ≠ .tally g v := by
  intro htally
  rw [State.nearest, htally] at h
  contradiction

/-- A COPY of whole words between two local addresses is `copyNear`. -/
theorem copyOp_near {s : State} {c : Nat} {e : QEntry} {a d n : Word} {a' d' : Nat} (hhead : s.headMover c = some (e, .copy a d n))
    (hfar : (isFar a.toNat && isFar d.toNat) = false) (ha : a.toNat % 8 = 0) (hd : d.toNat % 8 = 0) (hn : n.toNat % 8 = 0) (hn0 : n.toNat ≠ 0)
    (hnearA : s.nearest a.toNat = .here a') (hnearD : s.nearest d.toNat = .here d') :
    copyOp c s = s.copyNear c e a.toNat d.toNat a' d' n.toNat := by
  simp only [copyOp, hhead, hfar, ha, hd, hn, hn0, hnearA, hnearD, ne_eq, not_true_eq_false, false_and, or_false, if_false, Bool.false_eq_true]
  split
  · exact absurd ‹_› (State.nearest_here_notTally hnearD _ _)
  · rfl

/-- A COPY of no bytes whose destination is no tally does nothing. -/
theorem copyOp_nothing {s : State} {c : Nat} {e : QEntry} {a d : Word} (hhead : s.headMover c = some (e, .copy a d 0))
    (hfar : (isFar a.toNat && isFar d.toNat) = false) (hlocal : ∀ g v, farOf d.toNat ≠ .tally g v) : copyOp c s = s.doneHead c uMover e := by
  simp only [copyOp, hhead, hfar, show (0 : Word).toNat = 0 from rfl, Bool.false_eq_true, if_false, if_true]
  cases hd : farOf d.toNat with
  | tally g v => exact absurd hd (hlocal g v)
  | _ => rfl

/-- A COPY whose ends pass their checks waits for a tracked request where it needs one and none is free; else its source is read and written at its
destination. -/
theorem State.copyNear_ends {s : State} {c : Nat} {e : QEntry} {a d a' d' n : Nat} {src dst : End}
    (hmeets : meets a' n d' n = false) (hpinned : s.pinned d' n false = false) (hwaitsA : s.copyWaits c a n = false) (hwaitsD : s.copyWaits c d n = false)
    (hguardA : s.endGuard c false a' n = none) (hguardD : s.endGuard c true d' n = none)
    (hsrc : notLarder (isFar a || isFar d) (s.copyEnd c a a' n false) = src) (hdst : s.copyEnd c d d' n true = dst)
    (hsrcMapped : src ≠ .unmapped) (hsrcValid : src ≠ .invalid) (hdstMapped : dst ≠ .unmapped) (hdstValid : dst ≠ .invalid) :
    let x := (s.core c).ctx.getD noCtx
    let tier := (inTier src || inTier dst) && !s.schedCtx x
    let e' := if tier then { e with tracked := min (ceilDiv n 4096) (s.trackedFree x) } else e
    s.copyNear c e a d a' d' n =
      if tier && s.trackedFree x == 0 then s
      else s.withData c e' a (s.readEnd c src n) fun t l => match t.writeEnd c dst l with
        | some t => t.doneHead c uMover e'
        | none => s.unmappedHead c uMover e' d := by
  intro x tier e'
  simp only [State.copyNear, hmeets, hsrc, hdst, hpinned, hwaitsA, hwaitsD, hguardA, hguardD, Bool.false_eq_true, if_false, Bool.false_or,
    State.withEnd_ok hsrcMapped hsrcValid, State.withEnd_ok hdstMapped hdstValid, State.withGuard]
  rfl

/-! ## FILL (R161) -/

/-- A FILL of whole words that its checks let pass writes its pattern. -/
theorem fillOp_writes {s : State} {c : Nat} {e : QEntry} {p d n : Word} {d' k : Nat} (hhead : s.headMover c = some (e, .fill p d n))
    (hfar : isFar d.toNat = false) (hd : d.toNat % 8 = 0) (hn : n.toNat % 8 = 0) (hn0 : n.toNat ≠ 0) (hwaits : s.copyWaits c d.toNat n.toNat = false)
    (hhere : farOf d.toNat = .here d') (hend : s.moverEnd c d' n.toNat true (!s.schedCtx ((s.core c).ctx.getD noCtx)) = .store k)
    (hpinned : s.pinned d' n.toNat false = false) (hguard : s.endGuard c true d' n.toNat = none) :
    fillOp c s = (s.putWords k (fillBytes (n.toNat / 8) p.toNat)).doneHead c uMover e := by
  simp only [fillOp, hhead, hfar, hd, hn, hn0, hwaits, hhere, hend, hpinned, hguard, ne_eq, not_true_eq_false, or_self, if_false, Bool.false_eq_true,
    State.withEnd, State.withGuard, State.writeEnd]
  rfl

/-- Settles O14: a COPY and a FILL whose ends pass their checks each store whole words at one place and mark the head as performed. -/
theorem copyAndFillMoveTheirBytes : Obligations.CopyAndFillMoveTheirBytes := by
  intro c s e p a d n hc
  have toNat_ne_zero : n ≠ 0 → n.toNat ≠ 0 := fun h h0 => h (BitVec.eq_of_toNat_eq h0)
  refine ⟨?copy, ?fill, ?copyNothing, ?fillNothing⟩
  case copy =>
    intro hhead hfar ha hd hn hn0 hwaitsA hwaitsD a' d' hnearA hnearD hmeets hpinned hguardA hguardD
    have hnear := copyOp_near hhead hfar ha hd hn (toNat_ne_zero hn0) hnearA hnearD
    refine ⟨fun k l hmarks hwf hsrc hdst => ?_, fun src dst x tier hsrc hdst hsrcMapped hsrcValid hdstMapped hdstValid hx htier => ?_⟩
    · obtain ⟨q, hq⟩ := State.headMover_queue hhead
      refine runs_of_need rfl hc ?_
      rw [hnear, State.copyNear_ends (src := .store k) hmeets hpinned hwaitsA hwaitsD hguardA hguardD (by rw [hsrc]; rfl) hdst nofun nofun nofun nofun]
      have hlen : (readBytes s.mem k n.toNat).length = n.toNat := length_readBytes _ _ _
      have hput := State.putWords_whole hmarks l (l := readBytes s.mem k n.toNat) (by rw [hlen, hn])
      change _ ∧ _
      simp only [inTier, Bool.or_self, Bool.false_and, Bool.false_eq_true, if_false, State.readEnd, State.eccRead_clean hmarks, State.withData,
        State.writeEnd, hput]
      obtain ⟨hregs, hperformed, hframe⟩ := State.doneHead_mover (t := { s with mem := writeBytes s.mem l (readBytes s.mem k n.toNat) }) hq rfl
      refine ⟨?_, fun b hb => ?_, hregs, hperformed, hframe⟩
      · have hread := readBytes_writeBytes (readBytes s.mem k n.toNat) s.mem l hwf
        rwa [hlen] at hread
      · exact readByte_writeBytes_out _ _ _ (by rwa [hlen])
    · subst hx htier
      have hends := State.copyNear_ends (e := e) hmeets hpinned hwaitsA hwaitsD hguardA hguardD hsrc hdst hsrcMapped hsrcValid hdstMapped hdstValid
      refine ⟨fun htier hfree => runs_of_need rfl hc ?_, fun u w l hfree hread hwrite => runs_of_need rfl hc ?_⟩
      · rw [hnear, hends]
        simp only [htier, hfree]
        rfl
      · rw [hnear, hends, if_neg (by simpa using hfree), hread]
        simp only [State.withData, hwrite]
  case fill =>
    intro hhead hmarks hwf hfar hd hn hn0 hwaits d' k hhere hend hpinned hguard
    obtain ⟨q, hq⟩ := State.headMover_queue hhead
    refine runs_of_need rfl hc ?_
    rw [fillOp_writes hhead hfar hd hn (toNat_ne_zero hn0) hwaits hhere hend hpinned hguard]
    have hlen : (fillBytes (n.toNat / 8) p.toNat).length = n.toNat := by rw [length_fillBytes]; omega
    rw [State.putWords_whole hmarks k (by rw [hlen, hn])]
    obtain ⟨hregs, hperformed, hframe⟩ := State.doneHead_mover (t := { s with mem := writeBytes s.mem k (fillBytes (n.toNat / 8) p.toNat) }) hq rfl
    refine ⟨fun i hi => ?_, fun b hb => readByte_writeBytes_out _ _ _ (by rwa [hlen]), hregs, hperformed, hframe⟩
    have hread := readBytes_writeBytes (fillBytes (n.toNat / 8) p.toNat) s.mem k hwf
    have hword := readBytes_slice (writeBytes s.mem k (fillBytes (n.toNat / 8) p.toNat)) k (fillBytes (n.toNat / 8) p.toNat).length (8 * i) 8 (by omega)
    rw [hread, fillBytes_word _ hi] at hword
    change ofLe (readBytes (writeBytes s.mem k (fillBytes (n.toNat / 8) p.toNat)) (k + 8 * i) 8) = _
    rw [← hword, ofLe_le 8 _ (by have := p.isLt; omega)]
  case copyNothing =>
    intro hhead hfar hlocal
    obtain ⟨q, hq⟩ := State.headMover_queue hhead
    refine runs_of_need rfl hc ?_
    obtain ⟨-, hperformed, hframe⟩ := State.doneHead_mover hq (t := s) rfl
    rw [copyOp_nothing hhead hfar hlocal]
    exact ⟨hperformed, hframe⟩
  case fillNothing =>
    intro hhead hfar
    obtain ⟨q, hq⟩ := State.headMover_queue hhead
    have hdone : fillOp c s = s.doneHead c uMover e := by
      simp only [fillOp, hhead, hfar, Bool.false_eq_true, if_false, show (0 : Word).toNat = 0 from rfl, if_true]
    refine runs_of_need rfl hc ?_
    obtain ⟨-, hperformed, hframe⟩ := State.doneHead_mover hq (t := s) rfl
    rw [hdone]
    exact ⟨hperformed, hframe⟩

end Sys2Proof.Machine
end

section
/-! SUPPORT. Proofs about cellar accesses and the cellar's configuration (R232, R272, R279, R282, R284, R538, R548). -/

namespace Sys2Proof.Machine

/-! ## A change of the dies alone -/

/-- From `s` to `t` nothing changes but dies. -/
def diesOnly (s t : State) : Prop := t = { s with dies := t.dies }

theorem diesOnly_trans {s t u : State} (hst : diesOnly s t) (htu : diesOnly t u) : diesOnly s u :=
  Eq.trans htu (congrArg (fun x : State => { x with dies := u.dies }) hst)

theorem State.perfAdd_diesOnly (s : State) (d i n : Nat) : diesOnly s (s.perfAdd d i n) := by
  unfold State.perfAdd
  dsimp only
  split
  · rfl
  · split <;> rfl

theorem State.perfUnits_diesOnly (s : State) (d i u n : Nat) : diesOnly s (s.perfUnits d i u n) :=
  diesOnly_trans (t := s.modDie d _) rfl (State.perfAdd_diesOnly _ _ _ _)

/-- The counts of bytes moved stand in the dies (R570). -/
theorem State.countBytes_diesOnly (s : State) (i a n : Nat) : diesOnly s (s.countBytes i a n) :=
  each_keeps (diesOnly s) _ (fun _ _ h => diesOnly_trans h (State.perfUnits_diesOnly _ _ _ _ _)) _ s rfl

/-! ## Reads (R272, R275) -/

theorem State.linesIn_clean {s : State} {a n : Nat} (h : s.marksIn a n = []) : s.linesIn a n = [] := by
  unfold State.linesIn
  rw [h]
  rfl

/-- A read of bytes with backing store and no error in them gives them, and counts them. -/
theorem State.memRead_clear {s : State} {x : Accessor} {a n : Nat} (h : clearRead s x a n) :
    s.memRead x a n = .ok (s.countBytes 0 a n) (readBytes s.mem a n) := by
  obtain ⟨hlocate, hmapped, hmay, hlost, hmarks⟩ := h
  simp [State.memRead, hlocate, hmapped, hmay, State.cellarGet, hlost, State.linesIn_clean hmarks]

/-- An access that does not wait goes on. -/
theorem notHeld_goesOn {s : State} {x : Accessor} {a n : Nat} (h : notHeld s x a n) :
    (s.trafficStopped a n || (s.trafficHeld a n && !classOne x)) = false := by
  obtain ⟨hstopped, hheld | hclass⟩ := h
  · simp [hstopped, hheld]
  · simp [hstopped, hclass]

theorem notPinned_goesOn {s : State} {x : Accessor} {a n : Nat} (h : notPinned s x a n) : (s.pinned a n false && !writesPinned x) = false := by
  rcases h with h | h <;> simp [h]

/-- A write that neither waits nor meets a pin is the write of the store, or an unmapped access where the store refuses it. -/
theorem cellarWriteRow_goesOn {s : State} {x : Accessor} {a : Nat} {l : List Byte} (hheld : notHeld s x a l.length) (hpinned : notPinned s x a l.length) :
    cellarWriteRow x a l s = (s.memWrite x a l).getD (s.memUnmapped x (68 + cellarOf a) a) := by
  simp only [cellarWriteRow, notHeld_goesOn hheld, notPinned_goesOn hpinned, Bool.false_eq_true, if_false]

/-! ## Claims and bytes of a write (R275, R536, R538) -/

/-- A granule is claimed with the key set of an access. -/
def State.claimOne (s : State) (x : Accessor) (g : Nat) : State := { s with owners := tabSet s.owners g (s.accKeys x) }

theorem each_claimOne (x : Accessor) (l : List Nat) (s : State) :
    (∀ g, (each l s fun s g => s.claimOne x g).owner g = if g ∈ l then s.accKeys x else s.owner g) ∧
    (each l s fun s g => s.claimOne x g) = { s with owners := (each l s fun s g => s.claimOne x g).owners } := by
  induction l generalizing s with
  | nil => exact ⟨fun g => by simp, rfl⟩
  | cons k l ih =>
    obtain ⟨howner, hframe⟩ := ih (s.claimOne x k)
    rw [each_cons]
    refine ⟨fun g => ?_, hframe⟩
    have hkey : (s.claimOne x k).owner g = if g = k then s.accKeys x else s.owner g := tabGet_tabSet _ _ _ _ _
    rw [howner, hkey]
    by_cases hk : g = k
    · simp [hk, show (s.claimOne x k).accKeys x = s.accKeys x from rfl]
    · simp [hk, show (s.claimOne x k).accKeys x = s.accKeys x from rfl]

/-- A write claims the granules of its range that nobody owns, and changes nothing else (R538). -/
theorem State.claim_owners (s : State) (x : Accessor) (a n : Nat) :
    (∀ g, (s.claim x a n).owner g = if g ∈ granules a n ∧ s.owner g = .unowned then s.accKeys x else s.owner g) ∧
    s.claim x a n = { s with owners := (s.claim x a n).owners } := by
  obtain ⟨howner, hframe⟩ := each_claimOne x ((granules a n).filter fun g => s.owner g == .unowned) s
  refine ⟨fun g => ?_, hframe⟩
  rw [show s.claim x a n = each ((granules a n).filter fun g => s.owner g == .unowned) s fun s g => s.claimOne x g from rfl, howner]
  simp

theorem State.claim_lostAt (s : State) (x : Accessor) (a n b k : Nat) : (s.claim x a n).lostAt b k = s.lostAt b k := by
  rw [(s.claim_owners x a n).2]
  rfl

theorem State.tagSectors_frame (s : State) (a n : Nat) : s.tagSectors a n = { s with written := (s.tagSectors a n).written } :=
  each_keeps (fun t => t = { s with written := t.written }) _
    (fun t _ h => by rw [h]) _ s rfl

/-- Bytes put into frames with backing store: the bytes, the sectors, the counts of the dies, and the errors that whole lines replace. -/
theorem State.cellarStore_frame (s : State) (a : Nat) (l : List Byte) :
    s.cellarStore a l = { s with mem := writeBytes s.mem a l, written := (s.cellarStore a l).written, dies := (s.cellarStore a l).dies, marks := (s.cellarStore a l).marks } := by
  have hcount : diesOnly ((s.store a l).tagSectors a l.length) (((s.store a l).tagSectors a l.length).countBytes 4 a l.length) := State.countBytes_diesOnly _ _ _ _
  have htags := (s.store a l).tagSectors_frame a l.length
  unfold State.cellarStore
  dsimp only
  rw [hcount, htags]
  rfl

/-- A write of bytes whose frames all have backing store puts them in place and claims its granules. -/
theorem State.memWrite_clear {s : State} {x : Accessor} {a : Nat} {l : List Byte} (h : clearWrite s x a l.length) (hl : l ≠ []) :
    s.memWrite x a l = some ((s.claim x a l.length).cellarStore a l) := by
  obtain ⟨hlocate, hmapped, hmay, hlost⟩ := h
  have hempty : l.isEmpty = false := by simpa using hl
  simp [State.memWrite, hlocate, hmapped, hmay, State.cellarPut, hempty, State.claim_lostAt, hlost]

/-- A write that falls on frames without backing store alone puts nothing in place (R282). -/
theorem State.memWrite_lost {s : State} {x : Accessor} {a b : Nat} {l : List Byte} (hlocate : s.locate a l.length = .cellar a)
    (hmapped : s.cellarMapped a l.length = true) (hmay : s.mayWrite x a l.length = true) (hl : l ≠ []) (hlost : s.lostAt a l.length = some b)
    (hall : ∀ p ∈ framePieces a l.length, (s.lostAt p.2.1 p.2.2).isSome = true) :
    s.memWrite x a l = some ((s.claim x a l.length).cellarUncorr x b (accKind x)) := by
  have hempty : l.isEmpty = false := by simpa using hl
  have hnone : ((framePieces a l.length).filter fun p => (s.lostAt p.2.1 p.2.2).isNone) = [] :=
    List.filter_eq_nil_iff.2 fun p hp => by simp [Option.isSome_iff_ne_none.1 (hall p hp)]
  simp [State.memWrite, hlocate, hmapped, hmay, State.cellarPut, hempty, State.claim_lostAt, hlost, hnone]

/-- The first uncorrectable error that a context meets raises F_MEM_UNCORR on the cellar die (R275). -/
theorem State.cellarUncorr_context {s : State} {c : Nat} (a kind : Nat) (hlines : (s.ctx c).memLines = []) (hroom : s.hasRoom (68 + cellarOf a)) :
    raised s (s.cellarUncorr (.context c) a kind) (68 + cellarOf a) fMemUncorr ∧ (s.cellarUncorr (.context c) a kind).mem = s.mem ∧
    (s.cellarUncorr (.context c) a kind).written = s.written := by
  obtain ⟨l, hl, hraise⟩ := s.raiseTo_room (68 + cellarOf a) fMemUncorr [c] true false
    (le 8 (alignTo 64 a) ++ (le 1 (s.frameChannel (frameOf a)) ++ le 1 kind)) hroom
  have huncorr : s.cellarUncorr (.context c) a kind =
      ((s.setDie (68 + cellarOf a) { s.die (68 + cellarOf a) with ledger := l }).modCtx c fun k => { k with memLines := k.memLines ++ [alignTo 64 a] }).channelUe a := by
    simp [State.cellarUncorr, State.memUncorr, State.memParty, hlines, hraise]
  have hheld : ((s.cellarUncorr (.context c) a kind).die (68 + cellarOf a)).ledger.held = l.held := by
    rw [huncorr]
    simp [State.channelUe, State.die, State.setDie, tabGet_tabSet_same]
  exact ⟨⟨_, hheld.trans hl, rfl, rfl, rfl⟩, by rw [huncorr]; simp [State.channelUe], by rw [huncorr]; simp [State.channelUe]⟩

theorem cellarReadsAndWrites : CellarReadsAndWrites := by
  intro x a n l s hx
  refine ⟨fun hlocate hmapped hmay hlost hmarks hheld => ?read, fun hwf hl hlocate hmapped hmay hlost hheld hpinned => ?write,
    fun c b hxc hlines hroom hl hlocate hmapped hmay hlost hall hheld hpinned => ?lost, fun hpin hx' hheld hroom => ?pinned, fun hstopped => ?stopped⟩
  case read =>
    refine runs_of_need rfl hx ?_
    have hread := State.memRead_clear ⟨hlocate, hmapped, hmay, hlost, hmarks⟩
    have hrow : cellarReadRow x a n s = (s.countBytes 0 a n).answer "cellarRead" a (wordsOf (readBytes s.mem a n)) := by
      simp only [cellarReadRow, notHeld_goesOn hheld, hlocate, hread, Bool.false_eq_true, if_false]
    have hcount : diesOnly s (s.countBytes 0 a n) := s.countBytes_diesOnly 0 a n
    rw [hrow, hcount]
    exact ⟨rfl, rfl⟩
  case write =>
    refine runs_of_need rfl hx ?_
    have hwrite := State.memWrite_clear (x := x) ⟨hlocate, hmapped, hmay, hlost⟩ hl
    rw [cellarWriteRow_goesOn hheld hpinned, hwrite, Option.getD_some]
    obtain ⟨howner, hclaim⟩ := s.claim_owners x a l.length
    have hstore := (s.claim x a l.length).cellarStore_frame a l
    have hmem : ((s.claim x a l.length).cellarStore a l).mem = writeBytes s.mem a l := by rw [hstore, hclaim]
    refine ⟨by rw [hmem]; exact readBytes_writeBytes l s.mem a hwf, fun b hb => by rw [hmem]; exact readByte_writeBytes_out l s.mem a hb,
      fun g => ?_, by rw [hstore, hclaim]⟩
    rw [← howner g, hstore]
    rfl
  case lost =>
    refine runs_of_need rfl hx ?_
    rw [cellarWriteRow_goesOn hheld hpinned, State.memWrite_lost hlocate hmapped hmay hl hlost hall, Option.getD_some, (s.claim_owners x a l.length).2]
    subst hxc
    exact State.cellarUncorr_context (s := { s with owners := (s.claim (.context c) a l.length).owners }) b _ hlines hroom
  case pinned =>
    refine runs_of_need rfl hx ?_
    have hrow : cellarWriteRow x a l s = s.raise (68 + cellarOf a) fWeightsPinned (s.memParty x a) (le 8 a) := by
      simp only [cellarWriteRow, notHeld_goesOn hheld, hpin, hx', Bool.false_eq_true, if_false, Bool.not_false, Bool.and_self, if_true]
    rw [hrow]
    exact ⟨State.raised_raise _ _ _ _ _ hroom, State.raise_room_frame _ _ _ _ _ hroom⟩
  case stopped =>
    refine runs_of_need rfl hx ?_
    simp only [cellarReadRow, hstopped, Bool.true_or, if_true]

/-! ## Foreign granules (R42, R538) -/

/-- An access of a granule that its key set does not own raises F_ADDR_UNMAPPED and changes nothing else. -/
theorem State.memUnmapped_raised {s : State} {d : Nat} (x : Accessor) (a : Nat) (hroom : s.hasRoom d) :
    raised s (s.memUnmapped x d a) d fAddrUnmapped ∧ s.memUnmapped x d a = { s with dies := (s.memUnmapped x d a).dies } :=
  ⟨State.raised_raise _ _ _ _ _ hroom, State.raise_room_frame _ _ _ _ _ hroom⟩

theorem foreignGranulesAreRefused : ForeignGranulesAreRefused := by
  intro x a n l s hx hroom
  refine ⟨fun hmay hlocate hheld => runs_of_need rfl hx ?_, fun hmay hlocate hheld hpinned => runs_of_need rfl hx ?_⟩
  · have hrow : cellarReadRow x a n s = s.memUnmapped x (68 + cellarOf a) a := by
      simp [cellarReadRow, notHeld_goesOn hheld, hlocate, State.memRead, hmay]
    rw [hrow]
    exact State.memUnmapped_raised x a hroom
  · have hwrite : s.memWrite x a l = none := by simp [State.memWrite, hlocate, hmay]
    rw [cellarWriteRow_goesOn hheld hpinned, hwrite, Option.getD_none]
    exact State.memUnmapped_raised x a hroom

/-! ## The configuration of the cellar (R279, R282, R284) -/

theorem clampSpare_limits (v : Nat) : clampSpare v % 8 = 0 ∧ (clampSpare v = 0 ∨ 21848 ≤ clampSpare v) := by
  unfold clampSpare
  split
  · exact ⟨rfl, .inl rfl⟩
  · split
    · exact ⟨rfl, .inr le_rfl⟩
    · exact ⟨by omega, .inr (by omega)⟩

theorem clampSpare_within {v : Nat} (h8 : v % 8 = 0) (h : 21848 ≤ v) : clampSpare v = v := by
  unfold clampSpare
  rw [if_neg (by omega), if_neg (by omega)]
  omega

/-- From `s` to `t` nothing changes but where frames lie, the channels, and the errors that stand in stored words. -/
def framesOnly (s t : State) : Prop := t = { s with frames := t.frames, channels := t.channels, marks := t.marks }

theorem framesOnly_trans {s t u : State} (hst : framesOnly s t) (htu : framesOnly t u) : framesOnly s u :=
  Eq.trans htu (congrArg (fun x : State => { x with frames := u.frames, channels := u.channels, marks := u.marks }) hst)

theorem each_framesOnly {α : Type} (f : State → α → State) (hf : ∀ s a, framesOnly s (f s a)) (l : List α) (s : State) : framesOnly s (each l s f) :=
  each_keeps (framesOnly s) f (fun t a h => framesOnly_trans h (hf t a)) l s rfl

theorem State.remapTo_framesOnly (s : State) (key : Nat) (l : List Nat) : framesOnly s ((s.remapTo key l).getD s) := by
  unfold State.remapTo
  split
  · rfl
  · cases (l.filterMap fun ch => (s.freeSpare ch).map fun i => (ch, i)).head? <;> rfl

theorem State.failedFrames_framesOnly (s : State) (ch : Nat) : framesOnly s (s.failedFrames ch) := by
  unfold State.failedFrames
  split
  · exact each_framesOnly _ (fun t p => t.remapTo_framesOnly _ _) _ s
  · rfl

/-- Frames that are remapped or unmapped anew: nothing else changes (R282). -/
theorem State.respare_framesOnly (s : State) : framesOnly s s.respare := by
  unfold State.respare
  dsimp only
  have hback := each_framesOnly (fun s k => s.modFrame k fun f => { f with remap := none }) (fun _ _ => rfl)
  have hmapped := each_framesOnly (fun s c => s.modChannel c fun x => { x with unmappedFrames := false }) (fun _ _ => rfl)
  exact framesOnly_trans (framesOnly_trans (framesOnly_trans (hback _ s) (hmapped _ _)) (each_framesOnly _ (fun t _ => t.remapTo_framesOnly _ _) _ _))
    (each_framesOnly _ (fun t ch => t.failedFrames_framesOnly ch) _ _)

theorem cellarConfigurationIsClamped : CellarConfigurationIsClamped := by
  intro v s
  refine runs_of_need rfl rfl ?_
  have hlo : 1 ≤ clampN 1 168 (bits v.toNat 16 8) := le_clampN _ _ _
  have hhi : clampN 1 168 (bits v.toNat 16 8) ≤ 168 := clampN_le _ (by decide)
  by_cases hadmitted : s.admitted = true
  · have hrow : clCfgWrite v s = { s with scrubHours := clampN 1 168 (bits v.toNat 16 8) } := if_pos hadmitted
    rw [hrow]
    exact ⟨hlo, hhi, clampN_within, fun _ => rfl, fun h => absurd (h.symm.trans hadmitted) nofun, rfl⟩
  · have hrow : clCfgWrite v s =
        ({ s with scrubHours := clampN 1 168 (bits v.toNat 16 8), spareFrames := clampSpare (bits v.toNat 0 16), written := [] } : State).respare :=
      if_neg hadmitted
    have hframe := State.respare_framesOnly
      { s with scrubHours := clampN 1 168 (bits v.toNat 16 8), spareFrames := clampSpare (bits v.toNat 0 16), written := [] }
    rw [hrow, hframe]
    obtain ⟨hspare8, hspareLo⟩ := clampSpare_limits (bits v.toNat 0 16)
    exact ⟨hlo, hhi, clampN_within, fun h => absurd h hadmitted, fun _ => ⟨hspare8, hspareLo, rfl, clampSpare_within⟩, rfl⟩

/-- Settles O16: a read and a write that the checks let through, each fault of one that they do not, and CL_CFG, whose new SPARE moves frames alone. -/
theorem cellarAccessesAreChecked : Obligations.CellarAccessesAreChecked :=
  ⟨cellarReadsAndWrites, foreignGranulesAreRefused, cellarConfigurationIsClamped⟩

end Sys2Proof.Machine
end

section
/-! SUPPORT. Proofs about crates on the weight ring (R29, R196, R200 to R213, R227, R275, R595). -/

namespace Sys2Proof.Machine

/-- What every update of a fold keeps for the members of the list, the fold keeps. -/
theorem each_keeps_mem {α : Type} (P : State → Prop) (f : State → α → State) (l : List α) (hf : ∀ a ∈ l, ∀ s, P s → P (f s a)) (s : State) (h : P s) :
    P (each l s f) := by
  induction l generalizing s with
  | nil => exact h
  | cons a l ih => exact ih (fun b hb => hf b (List.mem_cons_of_mem _ hb)) _ (hf a List.mem_cons_self s h)

/-! ## What a read that gives its data leaves behind (R273 to R275, R286, R570) -/

/-- A die that has served reads differs in what it counts and records alone. -/
def servedDie (x y : Die) : Prop := y = { x with perf := y.perf, ledger := y.ledger, weak := y.weak }

/-- From `s` to `u` reads have been served: dies, channels and frames have counted them and what they corrected, and nothing else has changed. -/
def served (s u : State) : Prop := u = { s with dies := u.dies, channels := u.channels, frames := u.frames } ∧ ∀ d, servedDie (s.die d) (u.die d)

theorem served_refl (s : State) : served s s := ⟨rfl, fun _ => rfl⟩

theorem served_trans {s t u : State} (hst : served s t) (htu : served t u) : served s u := by
  refine ⟨htu.1.trans (congrArg (fun x : State => { x with dies := u.dies, channels := u.channels, frames := u.frames }) hst.1), fun d => ?_⟩
  exact (htu.2 d).trans (congrArg (fun x : Die => { x with perf := (u.die d).perf, ledger := (u.die d).ledger, weak := (u.die d).weak }) (hst.2 d))

/-- An update of one die that it may make as it serves a read. -/
theorem served_setDie {s : State} {d : Nat} {x : Die} (h : servedDie (s.die d) x) : served s (s.setDie d x) := by
  refine ⟨rfl, fun e => ?_⟩
  by_cases he : e = d
  · subst he; rw [State.die_setDie]; exact h
  · rw [State.die_setDie_ne _ _ he]; rfl

theorem served_modDie {s : State} {d : Nat} {f : Die → Die} (h : servedDie (s.die d) (f (s.die d))) : served s (s.modDie d f) := served_setDie h

theorem served_note (s : State) (d kind code ctx : Nat) (detail : List Byte) : served s (s.note d kind code ctx detail) := by
  obtain ⟨l, -, h⟩ := s.note_die d kind code ctx detail
  rw [h]
  exact served_setDie rfl

theorem served_perfAdd (s : State) (d i n : Nat) : served s (s.perfAdd d i n) := by
  unfold State.perfAdd
  dsimp only
  split
  · exact served_modDie (by rfl)
  · split
    · exact served_modDie (by rfl)
    · exact served_trans (served_modDie (by rfl)) (served_note _ _ _ _ _ _)

theorem served_perfUnits (s : State) (d i u n : Nat) : served s (s.perfUnits d i u n) :=
  served_trans (served_modDie (by rfl)) (served_perfAdd _ _ _ _)

theorem served_countBytes (s : State) (i a n : Nat) : served s (s.countBytes i a n) :=
  each_keeps (served s) _ (fun _ _ h => served_trans h (served_perfUnits _ _ _ _ _)) _ s (served_refl s)

theorem served_noteIf {s t : State} (h : served s t) (b : Bool) (d kind code ctx : Nat) (detail : List Byte) :
    served s (if b then t.note d kind code ctx detail else t) := by
  cases b with
  | true => exact served_trans h (served_note _ _ _ _ _ _)
  | false => exact h

theorem served_cellarCorrect (s : State) (a : Nat) : served s (s.cellarCorrect a) := by
  unfold State.cellarCorrect State.cellarCorrectOn
  dsimp only
  have hcount (t u : State) (h : u = { t with channels := u.channels, frames := u.frames }) : served t u := ⟨by rw [h], fun d => by rw [h]; rfl⟩
  exact served_noteIf (hcount s _ rfl) _ _ _ _ _ _

/-- Injection is given no data that an uncorrectable error touches, so that what it is given leaves no fault behind (R275). -/
theorem served_cellarGet {s u : State} {k a n : Nat} {l : List Byte} (h : s.cellarGet (.injection k) a n = (u, some l)) : served s u := by
  unfold State.cellarGet at h
  split at h
  · cases h
  · dsimp only at h
    obtain ⟨rfl, hdata⟩ := Prod.mk.inj h
    split at hdata
    · contradiction
    · rename_i hlost
      refine each_keeps_mem (served s) _ _ (fun e he t ht => ?_) _ (served_countBytes s 0 a n)
      have hgood : e.2 ≠ .tag ∧ e.2 ≠ .uncorr := by
        refine ⟨fun heq => hlost (List.any_eq_true.2 ⟨e, he, by rw [heq]; rfl⟩), fun heq => hlost (List.any_eq_true.2 ⟨e, he, by rw [heq]; rfl⟩)⟩
      cases heq : e.2 with
      | good => exact ht
      | corrected => exact served_trans ht (served_cellarCorrect _ _)
      | uncorr => exact absurd heq hgood.2
      | tag => exact absurd heq hgood.1

/-- A page is beyond correction by its die's state and its errors, which serving reads does not change. -/
theorem served_pageBad {s u : State} (h : served s u) (a : Nat) : u.pageBad a = s.pageBad a := by
  obtain ⟨hframe, hdie⟩ := h
  have hfailed : (u.die (larderDieOf a)).failed = (s.die (larderDieOf a)).failed := by rw [hdie]
  have herrs : u.pageErrs = s.pageErrs := by rw [hframe]
  simp only [State.pageBad, hfailed, herrs]

theorem served_larderGet {s u : State} {k a n : Nat} {l : List Byte} (h : s.larderGet (.injection k) a n = (u, some l)) : served s u := by
  unfold State.larderGet at h
  dsimp only at h
  obtain ⟨rfl, hdata⟩ := Prod.mk.inj h
  split at hdata
  · contradiction
  · rename_i hgone
    refine each_keeps_mem (served s) _ _ (fun p hp t ht => ?_) s (served_refl s)
    have hgood : s.pageBad p.1 = false := by
      cases hbad : s.pageBad p.1 with
      | false => rfl
      | true =>
        have hany : ((pagePieces a n).any fun p => s.pageBad p.1) = true := List.any_eq_true.2 ⟨p, hp, hbad⟩
        exact absurd (by rw [hany, Bool.not_false, Bool.and_self, Bool.or_true]) hgone
    unfold State.readPage
    dsimp only
    have hcount := served_trans ht (served_perfUnits t (larderDieOf p.1) 0 64 p.2)
    rw [served_pageBad hcount, hgood, if_neg Bool.false_ne_true]
    split
    · exact served_trans hcount (served_trans (served_modDie (by rfl)) (served_note _ _ _ _ _ _))
    · exact hcount

/-- What an injection reads and is given leaves only counts and records behind. -/
theorem served_memRead {s u : State} {k a n : Nat} {l : List Byte} (h : s.memRead (.injection k) a n = .ok u l) : served s u := by
  unfold State.memRead at h
  split at h
  · split at h
    · split at h
      · cases h; exact served_cellarGet ‹_›
      · contradiction
    · contradiction
  · split at h
    · cases h; exact served_larderGet ‹_›
    · contradiction
  · contradiction

theorem served_count {s u : State} (h : served s u) (d : Nat) : u.count d = s.count d := by
  obtain ⟨hframe, hdie⟩ := h
  have htb : (u.die d).tb = (s.die d).tb := by rw [hdie]
  have hnow : u.now = s.now := by rw [hframe]
  simp only [State.count, htb, hnow]

/-! ## The step of a training tile (R227) -/

section
variable {s v : State} {k i : Nat} {w : WeightSet}

theorem stepsSay_served {q : Nat → Prop} (h : stepsSay s k w i q v) : served s v := by
  obtain ⟨-, l, hread, -⟩ := h
  exact served_memRead hread

theorem stepDone_served (h : stepDone s k w i v) : served s v := by
  rcases h with ⟨-, rfl⟩ | h
  · exact served_refl v
  · exact stepsSay_served h

theorem withStep_done (h : stepDone s k w i v) (f wait : State → State) : s.withStep k w i f wait = f v := by
  unfold State.withStep
  rcases h with ⟨hkind, rfl⟩ | ⟨hkind, l, hread, hstep⟩
  · exact if_pos hkind
  · dsimp only
    rw [if_neg hkind, hread]
    exact if_pos hstep

theorem withStep_waits (h : stepWaits s k w i v) (f wait : State → State) : s.withStep k w i f wait = wait v := by
  obtain ⟨hkind, l, hread, hstep⟩ := h
  unfold State.withStep
  dsimp only
  rw [if_neg hkind, hread]
  exact if_neg hstep

end

/-! ## Reading ahead (R207, R491, R595) -/

/-- The read of a payload, once the step of its tile is known: its bytes stand ready, or the die that injects it reports what rejects the read. -/
def State.readPayload (s : State) (k i : Nat) (w : WeightSet) (e : PlanEntry) : State :=
  match s.memRead (.injection k) e.src e.length with
  | .ok t l => t.modSet k fun w => { w with ready := tabSet w.ready i l }
  | .lost t _ => t
  | .unmapped => s.memUnmapped (.injection k) (s.injectDie w i true) e.src

theorem payloadReadStart_eq {s : State} {k i : Nat} {w : WeightSet} {e : PlanEntry} (hset : s.set? k = some w) (hlaunch : w.inLaunch = true)
    (hentry : w.entries[i]? = some e) : payloadReadStart k i s =
      if s.trafficStopped e.src e.length || (w.kind != 0 && s.trafficStopped (stepsAddr w e.tile) 4) then s
      else s.withStep k w i (fun s => s.readPayload k i w e) id := by
  simp only [payloadReadStart, hset, hlaunch, hentry, Bool.not_true, Bool.false_and, Bool.false_eq_true, if_false]
  rfl

theorem State.set?_modSet {s : State} {k : Nat} {w : WeightSet} (h : s.set? k = some w) (f : WeightSet → WeightSet) :
    (s.modSet k f).set? k = some (f w) := by
  unfold State.modSet
  rw [h]
  exact State.set?_setSet _ _ _

theorem served_set? {s u : State} (h : served s u) (k : Nat) : u.set? k = s.set? k := by rw [h.1]; rfl

theorem payloadsAreReadAhead : PayloadsAreReadAhead := by
  intro k i s v w e hk hset hlaunch hentry
  have hrow := payloadReadStart_eq hset hlaunch hentry
  have htile : w.entries.getD i {} = e := by rw [List.getD_eq_getElem?_getD, hentry]; rfl
  refine ⟨fun hstopped => runs_of_need rfl hk (by rw [hrow, hstopped]; rfl), fun hgoes hsteps => ?_⟩
  have hgo : payloadReadStart k i s = s.withStep k w i (fun s => s.readPayload k i w e) id := by
    rw [hrow, if_neg]
    rcases hsteps with h | h <;> simp [hgoes, h]
  refine ⟨fun hdone => ⟨fun u l hread => runs_of_need rfl hk ?_, fun hread hroom => runs_of_need rfl hk ?_⟩, fun hwaits => runs_of_need rfl hk ?_,
    fun hkind hread hroom => runs_of_need rfl hk ?_⟩
  · have hserved := served_trans (stepDone_served hdone) (served_memRead hread)
    rw [hgo, withStep_done hdone, State.readPayload, hread]
    have hset' : u.set? k = some w := by rw [served_set? hserved, hset]
    refine ⟨⟨_, State.set?_modSet hset' _, tabGet_tabSet_same _ _ _ _, rfl⟩, ?_, ?_⟩
    · rw [State.modSet_mem, hserved.1]
    · rw [State.modSet_crates, hserved.1]
  · have hdie : v.injectDie w i true = s.injectDie w i true := by simp [State.injectDie]
    have hpayload : v.readPayload k i w e = v.memUnmapped (.injection k) (s.injectDie w i true) e.src := by rw [State.readPayload, hread, ← hdie]
    rw [hgo, withStep_done hdone, hpayload]
    exact State.memUnmapped_raised _ _ hroom
  · rw [hgo, withStep_waits hwaits]
    rfl
  · have hsteps' : s.withStep k w i (fun s => s.readPayload k i w e) id =
        s.memUnmapped (.injection k) (68 + cellarOf (stepsAddr w e.tile)) (stepsAddr w e.tile) := by
      simp only [State.withStep, htile, hkind, if_false, hread]
    rw [hgo, hsteps']
    exact State.memUnmapped_raised _ _ hroom

/-! ## What a fault can change (R233, R496, R498, R499) -/

/-- From `s` to `t` nothing changes but what a fault may, one that a die without room applies itself included. -/
def faultOnly (s t : State) : Prop :=
  t = { s with dies := t.dies, contexts := t.contexts, cores := t.cores, tallyMsgs := t.tallyMsgs, flows := t.flows, groups := t.groups, sets := t.sets,
               queues := t.queues, hostMem := t.hostMem } ∧
  ∀ k, ∃ g : Bool → Bool, t.set? k = (s.set? k).map fun w => { w with jobFaulted := g w.jobFaulted }

theorem faultOnly_sameSets {s t : State}
    (h : t = { s with dies := t.dies, contexts := t.contexts, cores := t.cores, tallyMsgs := t.tallyMsgs, flows := t.flows, groups := t.groups,
                      queues := t.queues, hostMem := t.hostMem }) : faultOnly s t := by
  refine ⟨by rw [h], fun k => ⟨id, ?_⟩⟩
  rw [h]
  exact Option.map_id'.symm

theorem faultOnly_refl (s : State) : faultOnly s s := faultOnly_sameSets rfl

theorem faultOnly_trans {s t u : State} (hst : faultOnly s t) (htu : faultOnly t u) : faultOnly s u := by
  refine ⟨htu.1.trans (congrArg (fun x : State =>
    { x with dies := u.dies, contexts := u.contexts, cores := u.cores, tallyMsgs := u.tallyMsgs, flows := u.flows, groups := u.groups,
             sets := u.sets, queues := u.queues, hostMem := u.hostMem }) hst.1), fun k => ?_⟩
  obtain ⟨g, hg⟩ := hst.2 k
  obtain ⟨g', hg'⟩ := htu.2 k
  exact ⟨g' ∘ g, by rw [hg', hg, Option.map_map]; rfl⟩

theorem each_faultOnly {α : Type} (f : State → α → State) (hf : ∀ s a, faultOnly s (f s a)) (l : List α) (s : State) : faultOnly s (each l s f) :=
  each_keeps (faultOnly s) f (fun t a h => faultOnly_trans h (hf t a)) l s (faultOnly_refl s)

theorem faultOnly_modCtx (s : State) (c : Nat) (f : Context → Context) : faultOnly s (s.modCtx c f) := by
  unfold State.modCtx
  split
  · exact faultOnly_sameSets rfl
  · exact faultOnly_refl s

theorem faultOnly_faultSets (s : State) (j : Nat) : faultOnly s (s.faultSets j) := by
  refine ⟨rfl, fun k => ?_⟩
  have hget : ∀ l : Tab (Option WeightSet), ∃ g : Bool → Bool,
      tabGet none (l.map fun e => (e.1, e.2.map fun w => if w.job = j then { w with jobFaulted := true } else w)) k =
        (tabGet none l k).map fun w => { w with jobFaulted := g w.jobFaulted } := by
    intro l
    induction l with
    | nil => exact ⟨id, rfl⟩
    | cons e l ih =>
      obtain ⟨n, x⟩ := e
      by_cases hn : n = k
      · cases x with
        | none => exact ⟨id, by simp [tabGet, hn]⟩
        | some w =>
          by_cases hj : w.job = j
          · exact ⟨fun _ => true, by simp [tabGet, hn, hj]⟩
          · exact ⟨id, by simp [tabGet, hn, hj]⟩
      · simpa [tabGet, hn] using ih
  exact hget s.sets

theorem faultOnly_queueWrite (s : State) (port a : Nat) (l : List Byte) : faultOnly s (s.queueWrite port a l) := faultOnly_sameSets rfl

theorem faultOnly_putQueue (s : State) (q : QRef) (f : Queue → Queue) : faultOnly s (s.putQueue q f) := by
  have hstatus (t : State) : faultOnly t (t.writeStatus q) := by
    unfold State.writeStatus
    split
    · split
      · exact faultOnly_queueWrite _ _ _ _
      · exact faultOnly_refl t
    · exact faultOnly_refl t
  unfold State.putQueue
  split
  · exact faultOnly_refl s
  · dsimp only
    split
    · exact faultOnly_sameSets rfl
    · exact faultOnly_trans (faultOnly_sameSets (by rfl)) (hstatus _)

theorem faultOnly_stopCtx (s : State) (c code : Nat) : faultOnly s (s.stopCtx c code) := by
  unfold State.stopCtx
  refine faultOnly_trans (faultOnly_trans (t := (s.orderQuench c code true).disown _) ?_ (faultOnly_sameSets (by rfl)))
    (faultOnly_trans (faultOnly_faultSets _ _) (each_faultOnly _ (fun t q => faultOnly_putQueue t q _) _ _))
  exact faultOnly_trans (faultOnly_modCtx _ _ _) (faultOnly_sameSets (by rfl))

theorem faultOnly_raiseTo (s : State) (d code : Nat) (ctxs : List Nat) (job driver : Bool) (detail : List Byte) :
    faultOnly s (s.raiseTo d code ctxs job driver detail) := by
  unfold State.raiseTo State.holdRec
  dsimp only
  refine faultOnly_trans (t := s.note d 0x01 code (oneCtx ctxs) detail) (faultOnly_sameSets (by rfl)) ?_
  split
  · exact faultOnly_sameSets rfl
  · split
    · exact faultOnly_trans (faultOnly_sameSets (by rfl)) (each_faultOnly _ (fun t c => faultOnly_stopCtx t c _) _ _)
    · exact faultOnly_sameSets rfl

theorem faultOnly_raise (s : State) (d code : Nat) (ctxs : List Nat) (detail : List Byte) : faultOnly s (s.raise d code ctxs detail) :=
  faultOnly_raiseTo _ _ _ _ _ _ _

/-- A fault changes a bound set at most in that its job is faulted. -/
theorem faultOnly_crates {s t : State} (h : faultOnly s t) : t.crates = s.crates ∧ t.crateNext = s.crateNext := by
  obtain ⟨hframe, -⟩ := h
  exact ⟨by rw [hframe], by rw [hframe]⟩

theorem faultOnly_perfAdd (s : State) (d i n : Nat) : faultOnly s (s.perfAdd d i n) := by
  have h : diesOnly s (s.perfAdd d i n) := s.perfAdd_diesOnly d i n
  exact faultOnly_sameSets (by rw [h])

/-! ## Landing and injection (R196, R200, R201, R205, R207) -/

/-- From `s` to `t` crate `k` is put, as `x` but for its MISSED bits and where it landed, and no other crate changes; a set changes at most in that its
job is faulted. -/
def crateStays (s t : State) (k : Nat) (x : Crate) : Prop :=
  (∃ y m, t.crate? k = some y ∧ y.payload = x.payload ∧ y.stop = x.stop ∧ y.hdr = { x.hdr with missed := m }) ∧
  (∀ j, j ≠ k → t.crate? j = s.crate? j) ∧ t.crateNext = s.crateNext ∧
  ∀ n, ∃ g : Bool → Bool, t.set? n = (s.set? n).map fun w => { w with jobFaulted := g w.jobFaulted }

theorem crateStays_of_faultOnly {s t : State} {k : Nat} {x : Crate} (hx : s.crate? k = some x) (h : faultOnly s t) : crateStays s t k x := by
  obtain ⟨hcrates, hnext⟩ := faultOnly_crates h
  refine ⟨⟨x, x.hdr.missed, ?_, rfl, rfl, rfl⟩, fun j _ => ?_, hnext, h.2⟩
  · rw [State.crate?, hcrates]; exact hx
  · rw [State.crate?, hcrates]; rfl

/-- From `s` to `t` nothing changes but stored bytes, their check bits and the dies. -/
def storeOnly (s t : State) : Prop := t = { s with mem := t.mem, marks := t.marks, dies := t.dies }

theorem storeOnly_trans {s t u : State} (hst : storeOnly s t) (htu : storeOnly t u) : storeOnly s u :=
  Eq.trans htu (congrArg (fun x : State => { x with mem := u.mem, marks := u.marks, dies := u.dies }) hst)

theorem storeOnly_putWords (s : State) (k : Nat) (l : List Byte) : storeOnly s (s.putWords k l) := rfl

theorem storeOnly_setSlot (s : State) (d i : Nat) (x : LandSlot) : storeOnly s (s.setSlot d i x) := rfl

/-- A landing changes the loft, its check bits and the slots of the die (R196). -/
theorem storeOnly_land (s : State) (d : Nat) (w : WeightSet) (x : Crate) : storeOnly s (s.land d w x) := by
  have hpayload := storeOnly_trans (storeOnly_putWords s (loftKey d (landSlotOf w x.hdr.injCount * 131072)) x.payload)
    (storeOnly_setSlot _ d (landSlotOf w x.hdr.injCount) { st := .landing, hdr := x.hdr, readsLeft := w.reads })
  unfold State.land
  dsimp only
  split
  · exact storeOnly_trans hpayload (storeOnly_trans (storeOnly_putWords _ _ _) (storeOnly_trans (storeOnly_setSlot _ _ _ _) (storeOnly_setSlot _ _ _ _)))
  · exact hpayload

theorem State.crate?_setCrate (s : State) (k j : Nat) (x : Option Crate) : (s.setCrate k x).crate? j = if j = k then x else s.crate? j :=
  tabGet_tabSet _ _ _ _ _

/-- A crate that lands stays, as the state of its landing gives it. -/
theorem State.land_crateStays (s : State) (k d : Nat) (w : WeightSet) {x y : Crate} {m : BitVec 64} (hpayload : y.payload = x.payload)
    (hstop : y.stop = x.stop) (hhdr : y.hdr = { x.hdr with missed := m }) : crateStays s ((s.land d w y).setCrate k (some y)) k x := by
  have hland : s.land d w y = _ := storeOnly_land s d w y
  rw [hland]
  refine ⟨⟨y, m, (State.crate?_setCrate _ _ _ _).trans (if_pos rfl), hpayload, hstop, hhdr⟩, fun j hj => ?_, rfl, fun n => ⟨id, Option.map_id'.symm⟩⟩
  rw [State.crate?_setCrate, if_neg hj]
  rfl

theorem State.tryLand_crateStays {s : State} {k : Nat} {x : Crate} (hx : s.crate? k = some x) (w : WeightSet) (d : Nat) :
    crateStays s (s.tryLand k x w d).1 k x := by
  unfold State.tryLand
  split
  · exact crateStays_of_faultOnly hx (faultOnly_refl s)
  · split
    · exact s.land_crateStays k d w rfl rfl rfl
    · split
      · exact crateStays_of_faultOnly hx (each_faultOnly _ (fun t c => faultOnly_raise _ _ _ _ _) _ s)
      · exact crateStays_of_faultOnly hx (faultOnly_perfAdd s d 22 1)

/-- The crate that an injection makes (R200, R201). -/
def State.newCrate (s : State) (k i q d : Nat) (w : WeightSet) (l : List Byte) : Crate :=
  { hdr := crateHeader w k i q ((dieStop d).getD 0) (s.count d) (if s.setSched w then 0 else BitVec.ofNat 64 (2 ^ (s.jobDies w.job).length - 1)),
    payload := l, stop := (dieStop d).getD 0, seed := s.setSeed w, entry := i }

/-- A crate with the next number on the ring, counted where a cellar die injects it. -/
def State.addCrate (s : State) (d : Nat) (x : Crate) : State :=
  let s := { s with crateNext := s.crateNext + 1, crates := tabSet s.crates s.crateNext (some x) }
  if isCellar d then s.perfAdd d 8 1 else s

theorem State.putCrate_eq (s : State) (k i q d : Nat) (w : WeightSet) (l : List Byte) :
    s.putCrate k i q d w l false = ((s.addCrate d (s.newCrate k i q d w l)).tryLand s.crateNext (s.newCrate k i q d w l) w d).1 := rfl

theorem State.addCrate_ring (s : State) (d : Nat) (x : Crate) :
    (s.addCrate d x).crates = tabSet s.crates s.crateNext (some x) ∧ (s.addCrate d x).crateNext = s.crateNext + 1 ∧ (s.addCrate d x).sets = s.sets := by
  unfold State.addCrate
  dsimp only
  split
  · have h : diesOnly _ _ := State.perfAdd_diesOnly { s with crateNext := s.crateNext + 1, crates := tabSet s.crates s.crateNext (some x) } d 8 1
    rw [h]
    exact ⟨rfl, rfl, rfl⟩
  · exact ⟨rfl, rfl, rfl⟩

/-- A new crate with the next number enters the ring at the stop of its die, with the header of its entry and its payload (R200, R205). -/
theorem State.putCrate_enters (s : State) (k i q d : Nat) (w : WeightSet) (l : List Byte) :
    let t := s.putCrate k i q d w l false
    (∃ x m, t.crate? s.crateNext = some x ∧ x.payload = l ∧ x.stop = (dieStop d).getD 0 ∧
      x.hdr = { crateHeader w k i q ((dieStop d).getD 0) (s.count d) 0 with missed := m }) ∧
    (∀ j, j ≠ s.crateNext → t.crate? j = s.crate? j) ∧ t.crateNext = s.crateNext + 1 ∧
    ∀ n, ∃ g : Bool → Bool, t.set? n = (s.set? n).map fun w => { w with jobFaulted := g w.jobFaulted } := by
  obtain ⟨hcrates, hnext, hsets⟩ := s.addCrate_ring d (s.newCrate k i q d w l)
  have hat : (s.addCrate d (s.newCrate k i q d w l)).crate? s.crateNext = some (s.newCrate k i q d w l) := by
    rw [State.crate?, hcrates]
    exact tabGet_tabSet_same _ _ _ _
  obtain ⟨⟨y, m, hy, hpayload, hstop, hhdr⟩, hothers, hnext', hsets'⟩ := State.tryLand_crateStays hat w d
  intro t
  refine ⟨⟨y, m, hy, hpayload, hstop, hhdr⟩, fun j hj => ?_, hnext'.trans hnext, fun n => ?_⟩
  · rw [show t.crate? j = _ from hothers j hj, State.crate?, hcrates]
    exact tabGet_tabSet_ne _ _ _ hj
  · rw [show s.set? n = (s.addCrate d (s.newCrate k i q d w l)).set? n by rw [State.set?, State.set?, hsets]]
    exact hsets' n

/-- An entry that is not ready at its injection count: late in scheduled mode, waiting in dynamic mode (R207). -/
def State.injectLate (s : State) (k : Nat) (w : WeightSet) (e : PlanEntry) (d : Nat) : State :=
  if s.setSched w then s.raise d fSlotLate (s.setCtxs w) (le 2 k ++ le 4 e.tile ++ le 8 (s.count d)) else s

/-- An entry whose step has been applied: it enters the ring where its payload stands ready. -/
def State.injectEntry (s : State) (k i : Nat) (w : WeightSet) (e : PlanEntry) (d : Nat) : State :=
  match s.payloadOf w i with
  | none => s.injectLate k w e d
  | some l =>
    let s := if i = 0 && w.kind != 0 then s.readOpt k w else s
    ((s.checkPark w i).modSet k fun w => advanceEntry w i).putCrate k i w.passesDone d w l false

/-- Once its injection count has come, the entry that is next is injected as its step says; before it nothing happens. -/
theorem crateInject_eq {s : State} {k i : Nat} {w : WeightSet} {e : PlanEntry} (hset : s.set? k = some w) (hentry : w.entries[i]? = some e)
    (hpark : w.park = false) (hlaunch : w.inLaunch = true) (hnext : w.nextEntry = i) (hpass : w.passInLaunch < w.passes)
    (hback : s.heldBack k ((dieStop (s.injectDie w i false)).getD 0) e.dir = false) :
    crateInject k i s =
      if s.injectDue w i (s.injectDie w i false) then
        s.withStep k w i (fun v => v.injectEntry k i w e (s.injectDie w i false)) (fun v => v.injectLate k w e (s.injectDie w i false))
      else s := by
  have hgoes : (!w.inLaunch || w.nextEntry != i || decide (w.passes ≤ w.passInLaunch)) = false := by simp [hlaunch, hnext, hpass]
  simp only [crateInject, hset, hentry, hpark, Bool.false_and, Bool.false_eq_true, if_false, hgoes, hback, Bool.false_or]
  cases s.injectDue w i (s.injectDie w i false) <;> rfl

theorem State.checkPark_noPark {s : State} {w : WeightSet} (h : w.park = false) (i : Nat) : s.checkPark w i = s := by
  simp [State.checkPark, h]

/-- What an injection that is not from a park finds depends on the set alone. -/
theorem State.payloadOf_noPark {w : WeightSet} (h : w.park = false) (s v : State) (i : Nat) : v.payloadOf w i = s.payloadOf w i := by
  simp [State.payloadOf, h]

theorem advanceEntry_next (w : WeightSet) (i : Nat) : if i + 1 < w.entries.length then (advanceEntry w i).nextEntry = i + 1 ∧ (advanceEntry w i).passesDone = w.passesDone
    else (advanceEntry w i).nextEntry = 0 ∧ (advanceEntry w i).passesDone = w.passesDone + 1 ∧ (advanceEntry w i).passInLaunch = w.passInLaunch + 1 := by
  unfold advanceEntry
  split <;> simp [*]

theorem State.injectLate_scheduled {s : State} {k : Nat} {w : WeightSet} (e : PlanEntry) {d : Nat} (hsched : s.setSched w = true) (hroom : s.hasRoom d) :
    raised s (s.injectLate k w e d) d fSlotLate ∧ ∀ j, (s.injectLate k w e d).crate? j = s.crate? j := by
  unfold State.injectLate
  rw [if_pos hsched]
  refine ⟨State.raised_raise _ _ _ _ _ hroom, fun j => ?_⟩
  rw [State.crate?, (faultOnly_crates (faultOnly_raise _ _ _ _ _)).1]
  rfl

theorem State.injectLate_dynamic {s : State} {k : Nat} {w : WeightSet} (e : PlanEntry) {d : Nat} (hsched : s.setSched w = false) :
    s.injectLate k w e d = s := if_neg (by simp [hsched])

theorem cratesAreInjectedInPlanOrder : CratesAreInjectedInPlanOrder := by
  intro k i s v w e hk hset hentry hpark hlaunch hnext hpass hback
  have hrow := crateInject_eq hset hentry hpark hlaunch hnext hpass hback
  refine ⟨fun hdue => runs_of_need rfl hk (by rw [hrow, hdue]; rfl), fun l hdue hdone hpayload hopt => runs_of_need rfl hk ?_, fun hdue hlate => ?_⟩
  · have hserved := stepDone_served hdone
    have hopt' : (decide (i = 0) && w.kind != 0) = false := by rcases hopt with h | h <;> simp [h]
    have hinject : crateInject k i s = (v.modSet k fun w => advanceEntry w i).putCrate k i w.passesDone (s.injectDie w i false) w l false := by
      rw [hrow, if_pos hdue, withStep_done hdone, State.injectEntry, State.payloadOf_noPark hpark s v i, hpayload]
      simp only [hopt', Bool.false_eq_true, if_false, State.checkPark_noPark hpark]
    obtain ⟨⟨x, m, hx, hxpayload, hxstop, hxhdr⟩, hothers, hcrateNext, hsets⟩ :=
      (v.modSet k fun w => advanceEntry w i).putCrate_enters k i w.passesDone (s.injectDie w i false) w l
    have hcrates : (v.modSet k fun w => advanceEntry w i).crates = s.crates := by rw [State.modSet_crates, hserved.1]
    have hcount : (v.modSet k fun w => advanceEntry w i).count (s.injectDie w i false) = s.count (s.injectDie w i false) := by
      rw [← served_count hserved]
      simp [State.count, State.die]
    have hnumber : (v.modSet k fun w => advanceEntry w i).crateNext = s.crateNext := by rw [State.modSet_crateNext, hserved.1]
    rw [hnumber] at hx hothers hcrateNext
    rw [hcount] at hxhdr
    have htile : w.entries.getD i {} = e := by rw [List.getD_eq_getElem?_getD, hentry]; rfl
    rw [hinject]
    refine ⟨⟨x, hx, hxpayload, ?_, ?_, ?_, ?_, ?_, ?_, ?_, hxstop⟩, fun j hj => ?_, hcrateNext, ?_⟩
    case refine_8 => rw [hothers j hj, State.crate?, hcrates]; rfl
    case refine_9 =>
      obtain ⟨g, hg⟩ := hsets k
      have hset' : v.set? k = some w := by rw [served_set? hserved, hset]
      rw [State.set?_modSet hset'] at hg
      exact ⟨_, hg, advanceEntry_next w i⟩
    all_goals
      rw [hxhdr]
      simp only [crateHeader, htile]
  · have hinject : crateInject k i s = v.injectLate k w e (s.injectDie w i false) := by
      rw [hrow, if_pos hdue]
      rcases hlate with ⟨hdone, hnone⟩ | hwaits
      · rw [withStep_done hdone, State.injectEntry, State.payloadOf_noPark hpark s v i, hnone]
      · exact withStep_waits hwaits _ _
    have hserved : served s v := by
      rcases hlate with ⟨hdone, -⟩ | hwaits
      · exact stepDone_served hdone
      · exact stepsSay_served hwaits
    refine ⟨fun hsched hroom => runs_of_need rfl hk ?_, fun hsched => runs_of_need rfl hk ?_⟩
    · obtain ⟨hraised, hcrates⟩ := v.injectLate_scheduled (k := k) e hsched hroom
      rw [hinject]
      exact ⟨hraised, fun j => by rw [hcrates j, State.crate?, hserved.1]; rfl⟩
    · rw [hinject]
      exact State.injectLate_dynamic e hsched

/-! ## Passage (R29, R196, R202, R210, R212, R213) -/

/-- The crate at its next stop. -/
def Crate.atStop (x : Crate) (p : Nat) : Crate := { x with stop := p, hops := x.hops + 1 }

section
variable {s : State} {k p : Nat} {x : Crate} (hx : s.crate? k = some x) (hfree : x.heldAt = none) (hstop : nextStop x.stop x.hdr.dir = p)
include hx hfree hstop

/-- A crate that goes to its next stop, one that is not held, is passed on there in bypass, removed in error, or taken to its set. -/
theorem crateArrive_eq (u : CrateUpset) :
    crateArrive k p u s =
      let v := s.setCrate k (some (x.atStop p))
      if (s.die (stopDie p)).bypass then v
      else if u != .clean then v.crateError k (x.atStop p) u p
      else match s.set? x.hdr.wsid with
        | none => v.setCrate k none
        | some w =>
          if x.fillsPark then v.parkArrive k (x.atStop p) w (stopDie p)
          else if p = x.hdr.home && (v.tryLand k (x.atStop p) w (stopDie p)).2.heldAt.isNone then
            (v.tryLand k (x.atStop p) w (stopDie p)).1.crateHome k (v.tryLand k (x.atStop p) w (stopDie p)).2 w
          else (v.tryLand k (x.atStop p) w (stopDie p)).1 := by
  have hgoes : (x.heldAt.isSome || nextStop x.stop x.hdr.dir != p) = false := by simp [hfree, hstop]
  simp only [crateArrive, hx, hgoes, Bool.false_eq_true, if_false]
  rfl

theorem crateArrive_error {u : CrateUpset} (hbypass : (s.die (stopDie p)).bypass = false) (hu : u ≠ .clean) :
    crateArrive k p u s = (s.setCrate k (some (x.atStop p))).crateError k (x.atStop p) u p := by
  rw [crateArrive_eq hx hfree hstop]
  dsimp only
  rw [if_neg (by simp [hbypass]), if_pos (bne_iff_ne.2 hu)]

theorem crateArrive_clean {w : WeightSet} (hbypass : (s.die (stopDie p)).bypass = false) (hset : s.set? x.hdr.wsid = some w) (hfills : x.fillsPark = false)
    {v : State} {z : Crate} (hland : (s.setCrate k (some (x.atStop p))).tryLand k (x.atStop p) w (stopDie p) = (v, z)) :
    crateArrive k p .clean s = if p = x.hdr.home && z.heldAt.isNone then v.crateHome k z w else v := by
  rw [crateArrive_eq hx hfree hstop]
  simp only [hbypass, hset, hfills, hland, Bool.false_eq_true, if_false, bne_self_eq_false]

end

/-- One crate is put or removed, and every other stays. -/
theorem State.setCrate_crates (s : State) (k : Nat) (x : Option Crate) :
    (s.setCrate k x).crate? k = x ∧ (∀ j, j ≠ k → (s.setCrate k x).crate? j = s.crate? j) ∧ s.setCrate k x = { s with crates := (s.setCrate k x).crates } :=
  ⟨tabGet_tabSet_same _ _ _ _, fun _ hj => tabGet_tabSet_ne _ _ _ hj, rfl⟩

theorem State.setCrate_setCrate (s : State) (k : Nat) (x y : Option Crate) : (s.setCrate k x).setCrate k y = s.setCrate k y := by
  unfold State.setCrate
  rw [tabSet_tabSet]

/-- A crate in error is removed and reported at its stop, and no other crate changes (R202). -/
theorem State.removeCrate_raised {s : State} {d : Nat} (k code : Nat) (ctxs : List Nat) (detail : List Byte) (hroom : s.hasRoom d) :
    let t := (s.setCrate k none).raise d code ctxs detail
    t.crate? k = none ∧ raised s t d code ∧ ∀ j, j ≠ k → t.crate? j = s.crate? j := by
  intro t
  obtain ⟨hgone, hothers, -⟩ := s.setCrate_crates k none
  have hcrates : t.crates = (s.setCrate k none).crates := (faultOnly_crates (faultOnly_raise _ _ _ _ _)).1
  refine ⟨?_, State.raised_raise (s.setCrate k none) d code ctxs detail hroom, fun j hj => ?_⟩
  · rw [State.crate?, hcrates]; exact hgone
  · rw [State.crate?, hcrates]; exact hothers j hj

theorem State.tryLand_passes {s : State} {w : WeightSet} {x : Crate} {d : Nat} (h : s.landsAt w x d = none) (k : Nat) : s.tryLand k x w d = (s, x) := by
  unfold State.tryLand
  rw [h]

/-- The crate as it stands landed at position `n` of its job's dies: the die is missed no longer. -/
def landedCrate (x : Crate) (n d : Nat) : Crate :=
  { x with hdr := { x.hdr with missed := x.hdr.missed &&& ~~~(BitVec.ofNat 64 (2 ^ n)) }, heldAt := if x.hdr.carry then some d else x.heldAt, landHop := x.hops }

theorem State.tryLand_lands {s : State} {w : WeightSet} {x : Crate} {d n : Nat} (h : s.landsAt w x d = some n)
    (hempty : s.slotsEmpty d (landSlotOf w x.hdr.injCount) w.span = true) (k : Nat) :
    s.tryLand k x w d = ((s.land d w (landedCrate x n d)).setCrate k (some (landedCrate x n d)), landedCrate x n d) := by
  unfold State.tryLand
  rw [h]
  exact if_pos hempty

/-- Bytes put into a store are read back, whatever fills their last word (R178). -/
theorem readBytes_putWords (s : State) (k : Nat) (l : List Byte) (hwf : s.mem.wf = true) : readBytes (s.putWords k l).mem k l.length = l := by
  have hread := readBytes_writeBytes (l ++ List.replicate (roundUp l.length 8 - l.length) 0) s.mem k hwf
  have hpart := readBytes_slice (s.putWords k l).mem k (l ++ List.replicate (roundUp l.length 8 - l.length) (0 : Byte)).length 0 l.length (by simp)
  rw [show (s.putWords k l).mem = writeBytes s.mem k (l ++ List.replicate (roundUp l.length 8 - l.length) 0) from rfl] at hpart ⊢
  rw [hread, List.drop_zero, List.take_left' rfl, Nat.add_zero] at hpart
  exact hpart.symm

/-- A crate with no carry that lands fills its one slot: its payload stands in the loft, and the slot is LANDING (R196). -/
theorem State.land_slot {s : State} (d : Nat) (w : WeightSet) {x : Crate} (hcarry : x.hdr.carry = false) (hwf : s.mem.wf = true) :
    ((s.land d w x).slot d (landSlotOf w x.hdr.injCount)).st = .landing ∧
    ((s.land d w x).slot d (landSlotOf w x.hdr.injCount)).readsLeft = w.reads ∧
    readBytes (s.land d w x).mem (loftKey d (landSlotOf w x.hdr.injCount * 131072)) x.payload.length = x.payload := by
  have hland : s.land d w x = (s.putWords (loftKey d (landSlotOf w x.hdr.injCount * 131072)) x.payload).setSlot d (landSlotOf w x.hdr.injCount)
      { st := .landing, hdr := x.hdr, readsLeft := w.reads } := if_neg (by simp [hcarry])
  have hslot : (s.land d w x).slot d (landSlotOf w x.hdr.injCount) = { st := .landing, hdr := x.hdr, readsLeft := w.reads } := by
    rw [hland, State.slot, State.setSlot, State.die_modDie]
    exact tabGet_tabSet_same _ _ _ _
  refine ⟨by rw [hslot], by rw [hslot], ?_⟩
  rw [hland]
  exact readBytes_putWords s _ x.payload hwf

/-- A crate of no carry comes home: one that some die misses goes round again, and one that none misses leaves, into recirculation while a later pass takes
it (R212, R213). -/
theorem State.crateHome_eq (s : State) (k : Nat) {x : Crate} (w : WeightSet) (hcarry : x.hdr.carry = false) :
    s.crateHome k x w =
      if x.hdr.missed ≠ 0 then s.setCrate k (some { x with hdr := { x.hdr with laps := min 255 (x.hdr.laps + 1) } })
      else if w.recirc && decide (passNo w x + 1 < w.passes) then
        (s.setCrate k none).modSet x.hdr.wsid fun w => { w with recirculating := tabSet w.recirculating x.entry x.payload }
      else s.setCrate k none := by
  unfold State.crateHome
  exact if_neg (by simp [hcarry])

theorem cratesPassLandOrLeave : CratesPassLandOrLeave := by
  intro k p s x y hp hx hfree hstop hy
  obtain rfl : y = x.atStop p := hy
  refine ⟨fun u hbypass => runs_of_need rfl hp ?_, fun hbypass => ⟨fun n hroom => runs_of_need rfl hp ?_, fun n hroom => runs_of_need rfl hp ?_, fun w hset hfills => ?_⟩⟩
  · have hpass : crateArrive k p u s = s.setCrate k (some (x.atStop p)) := (crateArrive_eq hx hfree hstop u).trans (if_pos hbypass)
    rw [hpass]
    exact s.setCrate_crates k _
  · rw [crateArrive_error hx hfree hstop hbypass (by nofun), State.crateError, State.setCrate_setCrate]
    exact State.removeCrate_raised _ _ _ _ hroom
  · rw [crateArrive_error hx hfree hstop hbypass (by nofun), State.crateError, State.setCrate_setCrate]
    exact State.removeCrate_raised _ _ _ _ hroom
  · refine ⟨fun hlands haway => runs_of_need rfl hp ?_, fun n hlands hempty hcarry haway hwf => runs_of_need rfl hp ?_, fun hlands hhome hcarry => ?_⟩
    · rw [crateArrive_clean hx hfree hstop hbypass hset hfills (State.tryLand_passes (s := s.setCrate k (some (x.atStop p))) hlands k), if_neg (by simp [haway])]
      exact s.setCrate_crates k _
    · rw [crateArrive_clean hx hfree hstop hbypass hset hfills (State.tryLand_lands (s := s.setCrate k (some (x.atStop p))) hlands hempty k), if_neg (by simp [haway])]
      obtain ⟨hst, hreads, hbytes⟩ := State.land_slot (s := s.setCrate k (some (x.atStop p))) (stopDie p) w (x := landedCrate (x.atStop p) n (stopDie p)) hcarry hwf
      obtain ⟨hput, hothers, hframe⟩ := ((s.setCrate k (some (x.atStop p))).land (stopDie p) w (landedCrate (x.atStop p) n (stopDie p))).setCrate_crates k
        (some (landedCrate (x.atStop p) n (stopDie p)))
      refine ⟨hst, hreads, hbytes, ⟨_, hput, rfl, rfl, rfl⟩, fun j hj => ?_⟩
      rw [hothers j hj, State.crate?, storeOnly_land]
      exact (s.setCrate_crates k _).2.1 j hj
    · have hrow := crateArrive_clean hx hfree hstop hbypass hset hfills (State.tryLand_passes (s := s.setCrate k (some (x.atStop p))) hlands k)
      have hfree' : (x.atStop p).heldAt.isNone = true := by rw [show (x.atStop p).heldAt = x.heldAt from rfl, hfree]; rfl
      rw [if_pos (by rw [hfree', hhome]; simp), State.crateHome_eq (x := x.atStop p) _ _ _ hcarry, State.setCrate_setCrate, State.setCrate_setCrate] at hrow
      refine ⟨fun hmissed hleaves => runs_of_need rfl hp ?_, fun hmissed hrecirc => runs_of_need rfl hp ?_, fun hmissed => runs_of_need rfl hp ?_⟩
      · rw [(hrow.trans (if_neg (not_not_intro hmissed))).trans (if_neg (Bool.eq_false_iff.1 hleaves))]
        exact s.setCrate_crates k none
      · rw [(hrow.trans (if_neg (not_not_intro hmissed))).trans (if_pos hrecirc)]
        obtain ⟨hgone, hothers, -⟩ := s.setCrate_crates k none
        refine ⟨?_, ⟨_, State.set?_modSet (s := s.setCrate k none) hset _, tabGet_tabSet_same _ _ _ _⟩, fun j hj => ?_⟩
        · rw [State.crate?, State.modSet_crates]; exact hgone
        · rw [State.crate?, State.modSet_crates]; exact hothers j hj
      · rw [hrow.trans (if_pos hmissed)]
        exact s.setCrate_crates k _

/-- Settles O20: a payload's read, an injection and an arrival are each one case of their row, and the ring is changed by `setCrate` alone. -/
theorem cratesTravel : Obligations.CratesTravel := ⟨payloadsAreReadAhead, cratesAreInjectedInPlanOrder, cratesPassLandOrLeave⟩

end Sys2Proof.Machine
end

section
/-! SUPPORT. Proofs about fault records on their way to a keeper and about faulted jobs (R132, R464, R497, R498, R500, R561). -/

namespace Sys2Proof.Machine

/-! ## A cause of a host port, once set, stays while vectors are raised (R353, R356) -/

/-- A cause that no vector, and no doorbell, clears. -/
structure StickyCause (cause : HostPort → Bool) : Prop where
  msix : ∀ h m, cause { h with msix := m } = cause h
  doorbell : ∀ h n, cause h = true → cause { h with doorbell := n, causeError := true } = true

theorem stickyCause_error : StickyCause (·.causeError) := ⟨fun _ _ => rfl, fun _ _ _ => rfl⟩

/-- A port whose cause is set in `s` has it set in `t`. -/
def causeStays (cause : HostPort → Bool) (s t : State) : Prop := (cause s.host0 = true → cause t.host0 = true) ∧ (cause s.host1 = true → cause t.host1 = true)

section
variable {cause : HostPort → Bool}

theorem causeStays_refl (s : State) : causeStays cause s s := ⟨id, id⟩

theorem causeStays_trans {s t u : State} (hst : causeStays cause s t) (htu : causeStays cause t u) : causeStays cause s u :=
  ⟨fun h => htu.1 (hst.1 h), fun h => htu.2 (hst.2 h)⟩

theorem causeStays_modHp (s : State) (p : Nat) {f : HostPort → HostPort} (hf : ∀ h : HostPort, cause h = true → cause (f h) = true) :
    causeStays cause s (s.modHp p f) := by
  unfold State.modHp State.setHp State.hp
  split
  · exact ⟨hf _, id⟩
  · exact ⟨id, hf _⟩

theorem StickyCause.sendVector (hcause : StickyCause cause) (s : State) (p vec : Nat) : causeStays cause s (s.sendVector p vec) := by
  have hraise (h : HostPort) (hh : cause h = true) : cause (msixRaise h vec) = true := by
    obtain ⟨m, hm⟩ := msixRaise_msix h vec
    rw [hm, hcause.msix]
    exact hh
  unfold State.sendVector
  split
  · exact causeStays_refl s
  · split
    · exact causeStays_modHp s p hraise
    · exact causeStays_refl s

theorem StickyCause.countDoorbell (hcause : StickyCause cause) (s : State) (p : Nat) : causeStays cause s (s.countDoorbell p) := by
  unfold State.countDoorbell
  split
  · exact causeStays_refl s
  · have hset := causeStays_modHp s p (f := fun h => { h with doorbell := stick 16 (h.doorbell + 1), causeError := true }) fun h hh => hcause.doorbell h _ hh
    dsimp only
    split
    · exact hset
    · exact causeStays_trans hset (hcause.sendVector _ p 0)

theorem StickyCause.raiseVector (hcause : StickyCause cause) (s : State) (p vec : Nat) : causeStays cause s (s.raiseVector p vec) := by
  unfold State.raiseVector
  split
  · exact hcause.countDoorbell s _
  · exact hcause.sendVector s p vec

end

theorem State.causeError_portsOnly (s : State) (p : Nat) : portsOnly s (s.causeError p) :=
  portsOnly_trans (portsOnly_modHp s p _) (State.raiseVector_portsOnly _ p 0)

theorem State.causeError_host0 (s : State) : (s.causeError 0).host0.causeError = true := (stickyCause_error.raiseVector _ 0 0).1 rfl

theorem State.causeError_host1 (s : State) : (s.causeError 1).host1.causeError = true := (stickyCause_error.raiseVector _ 1 0).2 rfl

theorem State.causeError_keepsError (s : State) (p : Nat) : causeStays (·.causeError) s (s.causeError p) :=
  causeStays_trans (causeStays_modHp s p fun _ _ => rfl) (stickyCause_error.raiseVector _ p 0)

/-! ## What the delivery of a record changes (R497) -/

/-- From `s` to `t` a record of a code and count has been delivered: the ports have vectors and causes, and LAST_FAULT names the record. -/
def delivers (s t : State) (r : FaultRec) : Prop :=
  t = { s with host0 := t.host0, host1 := t.host1, irqs := t.irqs, lastFault := r.code, lastFaultCount := r.count }

theorem State.deliver_delivers (s : State) (r : FaultRec) : delivers s (s.deliver r) r := by
  have hvec : portsOnly s (each r.vectors s fun s v => s.raiseVector v.1 v.2) :=
    each_keeps (portsOnly s) _ (fun u v h => portsOnly_trans h (u.raiseVector_portsOnly v.1 v.2)) _ s (portsOnly_refl s)
  have hports : portsOnly s (if r.driver then ((each r.vectors s fun s v => s.raiseVector v.1 v.2).causeError 0).causeError 1 else each r.vectors s fun s v => s.raiseVector v.1 v.2) := by
    split
    · exact portsOnly_trans hvec (portsOnly_trans (State.causeError_portsOnly _ 0) (State.causeError_portsOnly _ 1))
    · exact hvec
  exact congrArg (fun x : State => { x with lastFault := r.code, lastFaultCount := r.count }) hports

theorem delivers_weaken {s t : State} {r : FaultRec} (h : delivers s t r) :
    t = { s with
      dies := t.dies, hatch0 := t.hatch0, hatch1 := t.hatch1, host0 := t.host0, host1 := t.host1, irqs := t.irqs, lastFault := r.code, lastFaultCount := r.count } := by
  have hsame : t.dies = s.dies ∧ t.hatch0 = s.hatch0 ∧ t.hatch1 = s.hatch1 := by rw [h]; exact ⟨rfl, rfl, rfl⟩
  rw [hsame.1, hsame.2.1, hsame.2.2]
  exact h

theorem State.deliver_toDriver (s : State) {r : FaultRec} (h : r.driver = true) :
    (s.deliver r).host0.causeError = true ∧ (s.deliver r).host1.causeError = true := by
  unfold State.deliver
  dsimp only
  rw [if_pos h]
  exact ⟨(State.causeError_keepsError _ 1).1 (State.causeError_host0 _), State.causeError_host1 _⟩

/-! ## Entries that are written into a ring (R561, R565) -/

/-- A ledger that has had entries appended holds its records as before. -/
def appends (l m : Ledger) : Prop := m.held = l.held ∧ m.queued = l.queued ∧ m.applied = l.applied

theorem appends_trans {l m n : Ledger} (hlm : appends l m) (hmn : appends m n) : appends l n :=
  ⟨hmn.1.trans hlm.1, hmn.2.1.trans hlm.2.1, hmn.2.2.trans hlm.2.2⟩

theorem appends_ringMakeRoom (l : Ledger) : appends l (ringMakeRoom l) := by
  unfold ringMakeRoom
  split
  · exact ⟨rfl, rfl, rfl⟩
  · split
    · exact ⟨rfl, rfl, rfl⟩
    · split <;> exact ⟨rfl, rfl, rfl⟩

theorem appends_ringAppend (l : Ledger) (e : LedgerEntry) : appends l (ringAppend l e) := appends_ringMakeRoom l

/-- From `s` to `t` entries have been written into the ring of die `a`, and no more. -/
def entriesOnly (s t : State) (a : Nat) : Prop := t = { s with dies := t.dies } ∧ (∀ d, appends (s.die d).ledger (t.die d).ledger) ∧ ∀ d, d ≠ a → t.die d = s.die d

theorem entriesOnly_refl (s : State) (a : Nat) : entriesOnly s s a := ⟨rfl, fun _ => ⟨rfl, rfl, rfl⟩, fun _ _ => rfl⟩

theorem entriesOnly_trans {s t u : State} {a : Nat} (hst : entriesOnly s t a) (htu : entriesOnly t u a) : entriesOnly s u a :=
  ⟨htu.1.trans (congrArg (fun x : State => { x with dies := u.dies }) hst.1), fun d => appends_trans (hst.2.1 d) (htu.2.1 d),
    fun d hd => (htu.2.2 d hd).trans (hst.2.2 d hd)⟩

theorem entriesOnly_ledgerEntry (s : State) (a : Nat) (e : LedgerEntry) : entriesOnly s (s.ledgerEntry a e) a := by
  refine ⟨rfl, fun d => ?_, fun d hd => State.die_modDie_ne _ _ hd⟩
  by_cases hd : d = a
  · subst hd
    unfold State.ledgerEntry
    rw [State.die_modDie]
    dsimp only
    split
    · exact appends_ringAppend _ _
    · exact appends_trans (appends_ringAppend _ _) (appends_ringAppend _ _)
  · rw [show (s.ledgerEntry a e).die d = s.die d from State.die_modDie_ne _ _ hd]; exact ⟨rfl, rfl, rfl⟩

/-- An entry that satisfies `p` stands in a ring, with at most `n` entries behind it. -/
def standsNearEnd (l : Ledger) (p : LedgerEntry → Prop) (n : Nat) : Prop := ∃ a m b, l.ring = a ++ m :: b ∧ p m ∧ b.length ≤ n

theorem standsNearEnd_mem {l : Ledger} {p : LedgerEntry → Prop} {n : Nat} (h : standsNearEnd l p n) : ∃ m ∈ l.ring, p m := by
  obtain ⟨a, m, b, hring, hm, -⟩ := h
  exact ⟨m, by rw [hring]; exact List.mem_append_right _ List.mem_cons_self, hm⟩

theorem standsNearEnd_last (l : Ledger) {p : LedgerEntry → Prop} {e : LedgerEntry} (h : p { e with seq := (ringMakeRoom l).next }) :
    standsNearEnd (ringAppend l e) p 0 := ⟨_, _, [], rfl, h, Nat.le_refl _⟩

/-- A ring of fewer entries than it holds loses none, and a full one its first alone. -/
theorem ringMakeRoom_ring (l : Ledger) : (ringMakeRoom l).ring = l.ring ∨ 4096 ≤ l.ring.length ∧ (ringMakeRoom l).ring = l.ring.tail := by
  unfold ringMakeRoom
  split
  · exact .inl rfl
  next hfull =>
    refine .inr ⟨Nat.le_of_not_lt hfull, ?_⟩
    split
    next h => rw [h]; rfl
    next h => rw [h]; split <;> rfl

/-- An entry behind which few others stand is not the one that a full ring drops (R565). -/
theorem standsNearEnd_ringAppend {l : Ledger} {p : LedgerEntry → Prop} {n : Nat} (h : standsNearEnd l p n) (hn : n < 4095) (e : LedgerEntry) :
    standsNearEnd (ringAppend l e) p (n + 1) := by
  obtain ⟨a, m, b, hring, hm, hb⟩ := h
  have happend : (ringAppend l e).ring = (ringMakeRoom l).ring ++ [{ e with seq := (ringMakeRoom l).next }] := rfl
  have hlen : (b ++ [{ e with seq := (ringMakeRoom l).next }]).length ≤ n + 1 := by rw [List.length_append]; simpa using hb
  obtain hkeep | ⟨hfull, hdrop⟩ := ringMakeRoom_ring l
  · exact ⟨a, m, _, by rw [happend, hkeep, hring, List.append_assoc, List.cons_append], hm, hlen⟩
  · cases a with
    | nil => rw [hring] at hfull; simp only [List.nil_append, List.length_cons] at hfull; omega
    | cons x a => exact ⟨a, m, _, by rw [happend, hdrop, hring, List.cons_append, List.tail_cons, List.append_assoc, List.cons_append], hm, hlen⟩

theorem ledgerEntry_stands {s : State} {a n : Nat} {p : LedgerEntry → Prop} (h : standsNearEnd (s.die a).ledger p n) (hn : n < 4094) (e : LedgerEntry) :
    standsNearEnd ((s.ledgerEntry a e).die a).ledger p (n + 2) := by
  unfold State.ledgerEntry
  rw [State.die_modDie]
  dsimp only
  have hone := standsNearEnd_ringAppend h (by omega)
  split
  · obtain ⟨x, m, b, hring, hm, hb⟩ := hone _
    exact ⟨x, m, b, hring, hm, Nat.le_succ_of_le hb⟩
  · exact standsNearEnd_ringAppend (hone _) (by omega) _

/-- The entry that is written stands in the ring, behind it at most the one that continues it. -/
theorem ledgerEntry_written (s : State) (a : Nat) {p : LedgerEntry → Prop} {e : LedgerEntry}
    (h : ∀ die pre detail seq, p { e with die := die, preEpoch := pre, detail := detail, seq := seq }) : standsNearEnd ((s.ledgerEntry a e).die a).ledger p 1 := by
  unfold State.ledgerEntry
  rw [State.die_modDie]
  dsimp only
  have hlast := standsNearEnd_last (s.die a).ledger (p := p) (e := { e with die := a, preEpoch := e.preEpoch || !(s.die a).tb.epochSet, detail := e.detail.take 40 }) (h _ _ _ _)
  split
  · obtain ⟨x, m, b, hring, hm, hb⟩ := hlast
    exact ⟨x, m, b, hring, hm, Nat.le_succ_of_le hb⟩
  · exact standsNearEnd_ringAppend hlast (by omega) _

/-- Entries are copied, flagged MIRRORED, into the ring of die `a`. -/
def mirrorInto (es : List LedgerEntry) (a : Nat) (s : State) : State := each es s fun s e => s.ledgerEntry a { e with mirrored := true }

theorem mirrorInto_entriesOnly (es : List LedgerEntry) (a : Nat) (s : State) : entriesOnly s (mirrorInto es a s) a :=
  each_keeps (fun t => entriesOnly s t a) _ (fun _ _ h => entriesOnly_trans h (entriesOnly_ledgerEntry _ a _)) es s (entriesOnly_refl s a)

/-- The copy of the first of two entries at most stands in the ring. -/
theorem mirrorInto_stands (s : State) (a : Nat) (e : LedgerEntry) {l : List LedgerEntry} (hl : l.length ≤ 1) :
    ∃ m ∈ ((mirrorInto (e :: l) a s).die a).ledger.ring, m.mirrored = true ∧ m.kind = e.kind ∧ m.code = e.code ∧ m.count = e.count := by
  have hfirst := ledgerEntry_written s a (e := { e with mirrored := true })
    (p := fun m => m.mirrored = true ∧ m.kind = e.kind ∧ m.code = e.code ∧ m.count = e.count) fun _ _ _ _ => ⟨rfl, rfl, rfl, rfl⟩
  match l with
  | [] => exact standsNearEnd_mem hfirst
  | [_] => exact standsNearEnd_mem (ledgerEntry_stands hfirst (by omega) _)

/-! ## The places of the 256 records (R498) -/

theorem freePlace_room {l : Ledger} (h : l.held.length < 256) : freePlace l = { l with held := l.held ++ l.queued.take 1, queued := l.queued.drop 1 } := if_pos h

/-- A die's oldest record is freed. -/
def State.freeOldest (s : State) (d : Nat) : State := s.modDie d fun x => { x with ledger := freePlace { x.ledger with held := x.ledger.held.drop 1 } }

section
variable {s : State} {d : Nat} {r : FaultRec} {l : List FaultRec} (hheld : (s.die d).ledger.held = r :: l)
include hheld

theorem State.freeOldest_ledger (hroom : l.length < 256) : ((s.freeOldest d).die d).ledger =
    { (s.die d).ledger with held := l ++ (s.die d).ledger.queued.take 1, queued := (s.die d).ledger.queued.drop 1 } := by
  unfold State.freeOldest
  rw [State.die_modDie]
  dsimp only
  rw [hheld, List.drop_one, List.tail_cons, freePlace_room hroom]

end

theorem freePlace_ring (l : Ledger) : (freePlace l).ring = l.ring := by
  unfold freePlace
  split <;> rfl

theorem State.freeOldest_ring (s : State) (d : Nat) : ((s.freeOldest d).die d).ledger.ring = (s.die d).ledger.ring := by
  unfold State.freeOldest
  rw [State.die_modDie]
  exact freePlace_ring _

/-- A record raised where there is room for it is no record that the die applied itself. -/
theorem State.raise_applied (s : State) {d : Nat} (code : Nat) (ctxs : List Nat) (detail : List Byte) (hroom : s.hasRoom d) :
    ((s.raise d code ctxs detail).die d).ledger.applied = (s.die d).ledger.applied := by
  have hnote := (entriesOnly_ledgerEntry s d { count := s.count d, kind := 0x01, code := code, ctx := oneCtx ctxs, detail := detail }).2.1 d
  unfold State.raise State.raiseTo State.holdRec
  dsimp only
  rw [if_pos (by rw [State.note_held]; exact hroom), State.die_modDie]
  exact hnote.2.2

theorem State.reportLost_none {s : State} {d : Nat} (h : (s.die d).ledger.applied = 0) : s.reportLost d = s := if_pos h

theorem effect_recordOnly {r : FaultRec} (h : recordOnly r) (s : State) : s.effect r = s := by
  obtain ⟨hjob, hnever, hcount, -⟩ := h
  unfold State.effect State.tallyFails
  simp [hjob, hnever, hcount]

/-! ## The oldest record goes to the hatch sequencers (R498, R561) -/

/-- A hatch sequencer takes a record where it stands and has room. -/
def takeRec (b : Bool) (r : FaultRec) (h : Hatch) : Hatch := if !b || decide (1024 ≤ h.held.length) then h else { h with held := h.held ++ [r] }

theorem takeRec_true (r : FaultRec) {h : Hatch} (hroom : h.held.length < 1024) : takeRec true r h = { h with held := h.held ++ [r] } :=
  if_neg (by simpa using hroom)

theorem takeRec_false (r : FaultRec) (h : Hatch) : takeRec false r h = h := if_pos rfl

/-- The entry of a die's oldest record is in the rings of the host dies that stand (`b0` H0's, `b1` H1's), and the record is freed. -/
def State.mirrorOldest (s : State) (d : Nat) (r : FaultRec) (b0 b1 : Bool) : State :=
  let es := recordEntries r ((s.freeOldest d).die d).ledger.ring
  let u := if b0 then mirrorInto es 96 (s.freeOldest d) else s.freeOldest d
  if b1 then mirrorInto es 97 u else u

/-- What the hatch sequencers that stand have taken once a die's oldest record has gone to them. -/
def State.handedOver (s : State) (d : Nat) (r : FaultRec) (b0 b1 : Bool) : State :=
  { s.mirrorOldest d r b0 b1 with
    hatch0 := takeRec b0 r (s.mirrorOldest d r b0 b1).hatch0, hatch1 := takeRec b1 r (s.mirrorOldest d r b0 b1).hatch1 }

theorem faultRecordTimeout_eq {s : State} {d : Nat} {r : FaultRec} {l : List FaultRec} {b0 b1 : Bool} (hheld : (s.die d).ledger.held = r :: l)
    (h0 : (!(s.hatch 0).failed && s.reaches d 96) = b0) (h1 : (!(s.hatch 1).failed && s.reaches d 97) = b1) (hb : (b0 || b1) = true) :
    faultRecordTimeout d s =
      (if r.delivered then s.handedOver d r b0 b1 else ((s.handedOver d r b0 b1).deliver r).effect r).reportLost d := by
  subst h0 h1
  unfold faultRecordTimeout
  dsimp only
  rw [if_pos hb, hheld]
  rfl

theorem faultRecordTimeout_none {s : State} {d : Nat} (h : ∀ i, i < 2 → (s.hatch i).failed = true ∨ s.reaches d (96 + i) = false) :
    faultRecordTimeout d s = s := by
  have hstands : ∀ i, i < 2 → (!(s.hatch i).failed && s.reaches d (96 + i)) = false := by
    intro i hi
    obtain h | h := h i hi <;> simp [h]
  unfold faultRecordTimeout
  dsimp only
  split
  · rfl
  next h => simp [hstands 0 (by omega), show (!(s.hatch 1).failed && s.reaches d 97) = false from hstands 1 (by omega)] at h

theorem State.freeOldest_frame (s : State) (d : Nat) : s.freeOldest d = { s with dies := (s.freeOldest d).dies } := rfl

theorem State.mirrorOldest_frame (s : State) (d : Nat) (r : FaultRec) (b0 b1 : Bool) :
    s.mirrorOldest d r b0 b1 = { s with dies := (s.mirrorOldest d r b0 b1).dies } ∧
    ∀ a, appends ((s.freeOldest d).die a).ledger ((s.mirrorOldest d r b0 b1).die a).ledger := by
  have hinto : ∀ a u, mirrorInto (recordEntries r ((s.freeOldest d).die d).ledger.ring) a u = { u with dies := (mirrorInto (recordEntries r ((s.freeOldest d).die d).ledger.ring) a u).dies } ∧
      ∀ e, appends (u.die e).ledger ((mirrorInto (recordEntries r ((s.freeOldest d).die d).ledger.ring) a u).die e).ledger :=
    fun a u => ⟨(mirrorInto_entriesOnly _ a u).1, (mirrorInto_entriesOnly _ a u).2.1⟩
  cases b0 <;> cases b1
  · exact ⟨rfl, fun _ => ⟨rfl, rfl, rfl⟩⟩
  · exact hinto 97 (s.freeOldest d)
  · exact hinto 96 (s.freeOldest d)
  · obtain ⟨hu, hua⟩ := hinto 96 (s.freeOldest d)
    obtain ⟨hv, hva⟩ := hinto 97 (mirrorInto (recordEntries r ((s.freeOldest d).die d).ledger.ring) 96 (s.freeOldest d))
    exact ⟨hv.trans (congrArg (fun x : State => { x with dies := (s.mirrorOldest d r true true).dies }) hu), fun a => appends_trans (hua a) (hva a)⟩

/-- The hatch sequencers take a record: the dies' ledgers have had entries appended since the record was freed, and each hatch sequencer that stands holds it. -/
theorem State.handedOver_frame (s : State) (d : Nat) (r : FaultRec) (b0 b1 : Bool) :
    s.handedOver d r b0 b1 = { s with dies := (s.handedOver d r b0 b1).dies, hatch0 := takeRec b0 r s.hatch0, hatch1 := takeRec b1 r s.hatch1 } :=
  congrArg (fun x : State => { x with hatch0 := takeRec b0 r x.hatch0, hatch1 := takeRec b1 r x.hatch1 }) (s.mirrorOldest_frame d r b0 b1).1

theorem State.handedOver_ledger (s : State) (d a : Nat) (r : FaultRec) (b0 b1 : Bool) :
    appends ((s.freeOldest d).die a).ledger ((s.handedOver d r b0 b1).die a).ledger := (s.mirrorOldest_frame d r b0 b1).2 a

/-- The record's entry, found in its die's ring, stands in the rings of both host dies (R561). -/
theorem State.handedOver_mirrors {s : State} (d : Nat) {r : FaultRec} {e : LedgerEntry}
    (hfind : (s.die d).ledger.ring.find? (fun e => e.kind == 1 && e.code == r.code && e.count == r.count && !e.continued) = some e)
    (hfew : ((s.die d).ledger.ring.filter fun f => f.continued && f.seq == e.seq + 1).length ≤ 1) {i : Nat} (hi : i < 2) :
    ∃ m ∈ ((s.handedOver d r true true).die (96 + i)).ledger.ring, m.mirrored = true ∧ m.kind = 1 ∧ m.code = r.code ∧ m.count = r.count := by
  have hentries : recordEntries r ((s.freeOldest d).die d).ledger.ring = e :: (s.die d).ledger.ring.filter fun f => f.continued && f.seq == e.seq + 1 := by
    unfold recordEntries
    rw [show ((s.freeOldest d).die d).ledger.ring = (s.die d).ledger.ring from s.freeOldest_ring d, hfind]
  obtain ⟨hkind, hcode, hcount⟩ : e.kind = 1 ∧ e.code = r.code ∧ e.count = r.count := by
    have h := List.find?_some hfind
    simp only [Bool.and_eq_true, beq_iff_eq] at h
    exact ⟨h.1.1.1, h.1.1.2, h.1.2⟩
  have hu := mirrorInto_stands (s.freeOldest d) 96 e hfew
  have hv := mirrorInto_stands (mirrorInto (recordEntries r ((s.freeOldest d).die d).ledger.ring) 96 (s.freeOldest d)) 97 e hfew
  rw [hkind, hcode, hcount, ← hentries] at hu hv
  obtain rfl | rfl : i = 0 ∨ i = 1 := by omega
  · rw [← (mirrorInto_entriesOnly _ 97 _).2.2 96 (by decide)] at hu
    exact hu
  · exact hv

/-! ## A keeper takes and acknowledges records (R497, R498) -/

theorem faultRecordDeliver_unreached {s : State} {d : Nat} (h : s.holder = none ∨ s.reaches d s.keeperDie = false) : faultRecordDeliver d s = s := by
  refine if_pos ?_
  obtain h | h := h <;> simp [h]

theorem nextRec_none {x : Die} (h : ∀ r ∈ x.ledger.held, r.delivered = true) : nextRec x = none := by
  unfold nextRec
  rw [List.find?_eq_none]
  intro r hr
  simp [h r hr]

theorem faultRecordDeliver_none {s : State} {d : Nat} (h : ∀ r ∈ (s.die d).ledger.held, r.delivered = true) : faultRecordDeliver d s = s := by
  unfold faultRecordDeliver
  rw [nextRec_none h]
  split <;> rfl

/-- The first record of a die, not yet taken, is marked as taken. -/
def State.takeFirst (s : State) (d : Nat) : State := s.modDie d fun x => { x with ledger := { x.ledger with held := markTaken x.ledger.held } }

section
variable {s : State} {d : Nat} {r : FaultRec} {l : List FaultRec} (hheld : (s.die d).ledger.held = r :: l)
include hheld

theorem State.takeFirst_held (hnew : r.delivered = false) : ((s.takeFirst d).die d).ledger.held = { r with delivered := true } :: l := by
  unfold State.takeFirst
  rw [State.die_modDie]
  dsimp only
  rw [hheld, markTaken, if_neg (by rw [hnew]; decide)]

theorem faultRecordDeliver_first (hholder : s.holder.isSome = true) (hreach : s.reaches d s.keeperDie = true) (hnew : r.delivered = false) :
    faultRecordDeliver d s = ((s.takeFirst d).deliver r).effect r := by
  have hnext : nextRec (s.die d) = some r := by rw [nextRec, hheld, List.find?_cons_of_pos (by rw [hnew]; rfl)]
  unfold faultRecordDeliver
  rw [if_neg (by rw [hreach, Option.isNone_eq_false_iff.mpr hholder]; decide), hnext]
  rfl

theorem faultRecordAck_taken (htaken : r.delivered = true) : faultRecordAck d s = (s.freeOldest d).reportLost d := by
  unfold faultRecordAck
  rw [hheld]
  dsimp only
  rw [if_pos htaken]
  unfold State.freeOldest State.modDie
  dsimp only
  rw [hheld]
  rfl

end

theorem faultRecordAck_untaken {s : State} {d : Nat} (h : ((s.die d).ledger.held.head?.map (·.delivered)).getD false = false) : faultRecordAck d s = s := by
  unfold faultRecordAck
  cases hheld : (s.die d).ledger.held with
  | nil => rfl
  | cons r l =>
    rw [hheld] at h
    exact if_neg (by rw [show r.delivered = false from h]; decide)

theorem faultRecordsAreTakenAndFreed : FaultRecordsAreTakenAndFreed := by
  intro d s hd
  refine ⟨fun h => ?unreached, fun h => ?none, fun r l hheld hroom hnew honly => ⟨fun hholder hreach => ?deliver, fun happlied hf0 hl0 hf1 hl1 hr0 hr1 => ?timeout⟩,
    fun r l hheld hroom htaken happlied hf0 hl0 hr0 hother => ?timeoutTaken, fun h => ?timeoutNone,
    fun r l hheld hroom htaken => ⟨fun happlied => ?ack, fun happlied hqueued => ?ackLost⟩, fun h => ?ackNone⟩
  case unreached => exact runs_of_need rfl hd (faultRecordDeliver_unreached h)
  case none => exact runs_of_need rfl hd (faultRecordDeliver_none h)
  case deliver =>
    have hrun : faultRecordDeliver d s = (s.takeFirst d).deliver r := (faultRecordDeliver_first hheld hholder hreach hnew).trans (effect_recordOnly honly _)
    have hdel : delivers (s.takeFirst d) ((s.takeFirst d).deliver r) r := State.deliver_delivers _ r
    refine runs_of_need rfl hd ⟨?_, ?_, ?_, ?_, ?_⟩ <;> simp only [hrun]
    · rw [hdel]; exact State.takeFirst_held hheld hnew
    · rfl
    · rfl
    · exact State.deliver_toDriver _
    · rw [hdel]; rfl
  case timeout =>
    have hframe := s.handedOver_frame d r true true
    rw [takeRec_true r hl0, takeRec_true r hl1] at hframe
    obtain ⟨hheldOver, -, happliedOver⟩ := s.handedOver_ledger d d r true true
    rw [State.freeOldest_ledger hheld hroom] at hheldOver happliedOver
    have hdel : delivers (s.handedOver d r true true) ((s.handedOver d r true true).deliver r) r := State.deliver_delivers _ r
    have hdies : ∀ a, ((s.handedOver d r true true).deliver r).die a = (s.handedOver d r true true).die a := fun a => by rw [hdel]; rfl
    have hrun : faultRecordTimeout d s = (s.handedOver d r true true).deliver r := by
      rw [faultRecordTimeout_eq hheld (b0 := true) (b1 := true) (by rw [show (s.hatch 0).failed = false from hf0, hr0]; rfl) (by rw [show (s.hatch 1).failed = false from hf1, hr1]; rfl) rfl,
        if_neg (by rw [hnew]; decide), effect_recordOnly honly, State.reportLost_none (by rw [hdies, happliedOver]; exact happlied)]
    refine runs_of_need rfl hd ⟨?_, ?_, ?_, ?_, ?_, ?_⟩ <;> simp only [hrun]
    · rw [hdies]; exact hheldOver
    · rw [hdel, hframe]
    · rw [hdel, hframe]
    · rfl
    · intro e hfind hfew i hi
      rw [hdies]
      exact s.handedOver_mirrors d hfind hfew hi
    · exact (delivers_weaken hdel).trans (congrArg (fun x : State => { x with
        dies := ((s.handedOver d r true true).deliver r).dies, hatch0 := ((s.handedOver d r true true).deliver r).hatch0,
        hatch1 := ((s.handedOver d r true true).deliver r).hatch1, host0 := ((s.handedOver d r true true).deliver r).host0, host1 := ((s.handedOver d r true true).deliver r).host1,
        irqs := ((s.handedOver d r true true).deliver r).irqs, lastFault := r.code, lastFaultCount := r.count }) hframe)
  case timeoutTaken =>
    have hframe := s.handedOver_frame d r true false
    rw [takeRec_true r hl0, takeRec_false] at hframe
    obtain ⟨hheldOver, -, happliedOver⟩ := s.handedOver_ledger d d r true false
    rw [State.freeOldest_ledger hheld hroom] at hheldOver happliedOver
    have hrun : faultRecordTimeout d s = s.handedOver d r true false := by
      rw [faultRecordTimeout_eq hheld (b0 := true) (b1 := false) (by rw [show (s.hatch 0).failed = false from hf0, hr0]; rfl)
        (by obtain h | h := hother <;> simp [State.hatch, h]) rfl, if_pos htaken, State.reportLost_none (by rw [happliedOver]; exact happlied)]
    refine runs_of_need rfl hd ⟨?_, ?_⟩ <;> rw [hrun]
    · exact hheldOver
    · exact hframe
  case timeoutNone => exact runs_of_need rfl hd (faultRecordTimeout_none h)
  case ack =>
    have hledger := State.freeOldest_ledger hheld hroom
    have hrun : faultRecordAck d s = s.freeOldest d := by
      rw [faultRecordAck_taken hheld htaken, State.reportLost_none (by rw [hledger]; exact happlied)]
    refine runs_of_need rfl hd ⟨?_, ?_⟩ <;> rw [hrun]
    · rw [hledger]
    · rfl
  case ackLost =>
    have hledger := State.freeOldest_ledger hheld hroom
    rw [hqueued, List.take_nil, List.append_nil] at hledger
    obtain ⟨u, hu⟩ : ∃ u, u = (s.freeOldest d).modDie d fun x => { x with ledger := { x.ledger with applied := 0 } } := ⟨_, rfl⟩
    have huDie : (u.die d).ledger = { ((s.freeOldest d).die d).ledger with applied := 0 } := by rw [hu, State.die_modDie]
    rw [hledger] at huDie
    have huRoom : u.hasRoom d := by rw [State.hasRoom, huDie]; exact hroom
    obtain ⟨m, hm, hraise⟩ := u.raiseTo_room d fFaultLost [] (faultIsJob fFaultLost && !([] : List Nat).isEmpty) (faultToDriver fFaultLost)
      (le 8 (s.die d).ledger.applied) huRoom
    obtain ⟨x, hx, hcode, hdriver⟩ : ∃ x, m.held = (u.die d).ledger.held ++ [x] ∧ x.code = fFaultLost ∧ x.driver = true := ⟨_, hm, rfl, rfl⟩
    have hmApplied : m.applied = 0 := by
      have h := u.raise_applied fFaultLost [] (le 8 (s.die d).ledger.applied) huRoom
      rw [State.raise, hraise, State.die_setDie, huDie] at h
      exact h
    have hrun : faultRecordAck d s = u.setDie d { u.die d with ledger := m } := by
      rw [faultRecordAck_taken hheld htaken, ← hraise]
      unfold State.reportLost
      dsimp only
      rw [if_neg (by rw [hledger]; exact Nat.pos_iff_ne_zero.mp happlied), ← hu, hledger]
      rfl
    refine runs_of_need rfl hd ⟨⟨x, ?_, hcode, hdriver⟩, ?_, ?_⟩ <;> rw [hrun]
    · rw [State.die_setDie, hx, huDie]
    · rw [State.die_setDie]; exact hmApplied
    · rw [hu]; rfl
  case ackNone => exact runs_of_need rfl hd (faultRecordAck_untaken h)

/-! ## A job is faulted (R132, R500) -/

theorem State.ctx?_of_contexts {s t : State} (h : t.contexts = s.contexts) (e : Nat) : t.ctx? e = s.ctx? e := congrArg (fun l => tabGet none l e) h

theorem State.ctx_of_contexts {s t : State} (h : t.contexts = s.contexts) (e : Nat) : t.ctx e = s.ctx e := by
  unfold State.ctx
  rw [State.ctx?_of_contexts h]

theorem State.jobCtxs_of_contexts {s t : State} (h : t.contexts = s.contexts) (j : Nat) : t.jobCtxs j = s.jobCtxs j := by
  unfold State.jobCtxs
  rw [h]

theorem State.launchOf_of_contexts {s t : State} (h : t.contexts = s.contexts) (c : Nat) : t.launchOf c = s.launchOf c := by
  unfold State.launchOf
  rw [State.ctx?_of_contexts h]

theorem State.queueWrite_contexts (s : State) (port a : Nat) (l : List Byte) : (s.queueWrite port a l).contexts = s.contexts := rfl

theorem State.putQueue_contexts (s : State) (q : QRef) (f : Queue → Queue) : (s.putQueue q f).contexts = s.contexts := by
  have hstatus (t : State) : (t.writeStatus q).contexts = t.contexts := by
    unfold State.writeStatus
    split
    · split
      · exact State.queueWrite_contexts _ _ _ _
      · rfl
    · rfl
  unfold State.putQueue
  split
  · rfl
  · dsimp only
    split
    · rfl
    · exact hstatus _

theorem State.stopQueues_contexts (s : State) (c code : Nat) : (s.stopQueues c code).contexts = s.contexts :=
  each_same State.contexts _ (fun t q => t.putQueue_contexts q _) _ s

theorem faultOnly_stopQueues (s : State) (c code : Nat) : faultOnly s (s.stopQueues c code) := each_faultOnly _ (fun t q => faultOnly_putQueue t q _) _ s

theorem faultOnly_modDie (s : State) (d : Nat) (f : Die → Die) : faultOnly s (s.modDie d f) := faultOnly_sameSets rfl

theorem faultOnly_dropAnswers (s : State) (j : Nat) : faultOnly s (s.dropAnswers j) := by
  unfold State.dropAnswers
  exact each_faultOnly _ (fun t d => faultOnly_modDie t d _) _ s

theorem State.dropAnswers_contexts (s : State) (j : Nat) : (s.dropAnswers j).contexts = s.contexts := by
  unfold State.dropAnswers
  exact each_same State.contexts _ (fun t d => t.modDie_contexts d _) _ s

/-- A context whose job is faulted: the first fault has set the code, and it is to be quenched. -/
def faultedWith (code : Nat) (y : Context) : Context := { y with faulted := some (y.faulted.getD code), quenchOrdered := true }

/-- A context of a faulted job: what `faultJob` does to each. -/
def State.faultMember (s : State) (code c : Nat) : State :=
  let x := s.ctx c
  let first := x.faulted.getD code
  let s := s.modCtx c fun y => { y with faulted := some first, quenchOrdered := true }
  s.stopQueues c first

theorem State.faultMember_ctx? (s : State) (code c e : Nat) : (s.faultMember code c).ctx? e = if e = c then (s.ctx? e).map (faultedWith code) else s.ctx? e := by
  have hctx : (s.faultMember code c).ctx? e = (s.modCtx c fun y => { y with faulted := some ((s.ctx c).faulted.getD code), quenchOrdered := true }).ctx? e :=
    State.ctx?_of_contexts (State.stopQueues_contexts _ _ _) e
  rw [hctx]
  split
  next he =>
    subst he
    rw [State.ctx?_modCtx]
    cases hx : s.ctx? e with
    | none => rfl
    | some x => rw [State.ctx_of_ctx? hx]; rfl
  next he => exact State.ctx?_modCtx_ne _ _ he

theorem faultOnly_faultMember (s : State) (code c : Nat) : faultOnly s (s.faultMember code c) :=
  faultOnly_trans (faultOnly_modCtx _ _ _) (faultOnly_stopQueues _ _ _)

theorem each_faultMember_ctx? (code e : Nat) {l : List Nat} (hl : l.Nodup) (s : State) :
    (each l s fun s c => s.faultMember code c).ctx? e = if e ∈ l then (s.ctx? e).map (faultedWith code) else s.ctx? e := by
  induction l generalizing s with
  | nil => rfl
  | cons c l ih =>
    obtain ⟨hc, hl⟩ := List.nodup_cons.mp hl
    rw [each_cons, ih hl, State.faultMember_ctx?]
    by_cases he : e = c
    · subst he; rw [if_neg hc, if_pos rfl, if_pos List.mem_cons_self]
    · rw [if_neg he]; simp only [List.mem_cons, he, false_or]

/-- What the fault of a job does before it comes to the job's contexts. -/
def State.faultJobStart (s : State) (j code : Nat) : State := if code = fRailQuench then (s.faultSets j).dropAnswers j else s.faultSets j

theorem State.faultJobStart_contexts (s : State) (j code : Nat) : (s.faultJobStart j code).contexts = s.contexts := by
  unfold State.faultJobStart
  split
  · exact State.dropAnswers_contexts _ _
  · rfl

theorem State.faultJob_eq (s : State) (j code : Nat) : s.faultJob j code = each (s.jobCtxs j) (s.faultJobStart j code) fun s c => s.faultMember code c := by
  rw [← State.jobCtxs_of_contexts (State.faultJobStart_contexts s j code)]
  rfl

theorem faultOnly_faultJob (s : State) (j code : Nat) : faultOnly s (s.faultJob j code) := by
  rw [State.faultJob_eq]
  refine faultOnly_trans (t := s.faultJobStart j code) ?_ (each_faultOnly _ (fun t c => faultOnly_faultMember t code c) _ _)
  unfold State.faultJobStart
  split
  · exact faultOnly_trans (faultOnly_faultSets s j) (faultOnly_dropAnswers _ j)
  · exact faultOnly_faultSets s j

theorem State.mem_jobCtxs {s : State} {j e : Nat} : e ∈ s.jobCtxs j ↔ ∃ y, s.ctx? e = some y ∧ y.job = j := by
  unfold State.jobCtxs
  rw [mem_tabKeys none _ e rfl]
  change ((s.ctx? e).map fun c => decide (c.job = j)).getD false = true ↔ _
  cases s.ctx? e <;> simp

/-- What the fault of a job does to the contexts: each of the job's has its code and its quench, and no other is changed. -/
theorem State.faultJob_contexts (s : State) (j code : Nat) :
    (∀ e ∈ s.jobCtxs j, ((s.faultJob j code).ctx e).faulted = some ((s.ctx e).faulted.getD code) ∧ ((s.faultJob j code).ctx e).quenchOrdered = true) ∧
    ∀ e, (∀ y, s.ctx? e = some y → y.job ≠ j) → (s.faultJob j code).ctx? e = s.ctx? e := by
  have hctx (e : Nat) : (s.faultJob j code).ctx? e = if e ∈ s.jobCtxs j then (s.ctx? e).map (faultedWith code) else s.ctx? e := by
    rw [State.faultJob_eq, each_faultMember_ctx? code e (l := s.jobCtxs j) (tabKeys_nodup _ _),
      show (s.faultJobStart j code).ctx? e = s.ctx? e from State.ctx?_of_contexts (State.faultJobStart_contexts s j code) e]
  refine ⟨fun e he => ?_, fun e he => ?_⟩
  · obtain ⟨y, hy, -⟩ := State.mem_jobCtxs.mp he
    have h := hctx e
    rw [if_pos he, hy] at h
    rw [State.ctx_of_ctx? h, State.ctx_of_ctx? hy]
    exact ⟨rfl, rfl⟩
  · rw [hctx, if_neg]
    intro hmem
    obtain ⟨y, hy, hjob⟩ := State.mem_jobCtxs.mp hmem
    exact he y hy hjob

/-! ## A job's fault is told of (R500) -/

theorem State.tellJob_contexts (s : State) (c code n : Nat) : (s.tellJob c code n).contexts = s.contexts := by
  unfold State.tellJob
  split
  · split
    · exact State.send_contexts _ _
    · rfl
  · rfl

/-- What the effect of a job-faulting record leaves, once its job has been told of, from the state `u` in which it is applied. -/
theorem State.faultCtx_eq {s : State} {c : Nat} {x : Context} (hx : s.ctx? c = some x) (code n : Nat) :
    s.faultCtx c code n = (if x.faulted.isNone then s.tellJob c code n else s).faultJob x.job code := by
  have hjob : ((if x.faulted.isNone then s.tellJob c code n else s).ctx c).job = x.job := by
    rw [State.ctx_of_contexts (s := s) (by split <;> [exact State.tellJob_contexts _ _ _ _; rfl]), State.ctx_of_ctx? hx]
  unfold State.faultCtx
  rw [if_neg (by rw [hx]; nofun), State.ctx_of_ctx? hx]
  dsimp only
  rw [hjob]

theorem faultOnly_sent_mem {s t : State} (h : faultOnly s t) : t.sent = s.sent ∧ t.mem = s.mem := by rw [h.1]; exact ⟨rfl, rfl⟩

theorem State.tellJob_packages {s : State} {c : Nat} {k : Launch} (hlaunch : s.launchOf c = some k) (hpackages : 1 < k.packages) (code n : Nat) :
    s.tellJob c code n = s.send (.jobFault (s.ctx c).job code s.pkgId n) := by
  unfold State.tellJob
  rw [hlaunch]
  exact if_pos hpackages

theorem State.tellJob_mem (s : State) (c code n : Nat) : (s.tellJob c code n).mem = s.mem ∧ (s.tellJob c code n).lastFault = s.lastFault := by
  unfold State.tellJob
  split
  · split
    · exact ⟨State.send_mem _ _, State.send_lastFault _ _⟩
    · exact ⟨rfl, rfl⟩
  · exact ⟨rfl, rfl⟩

theorem effect_ofJob {r : FaultRec} {c : Nat} (hjob : r.job = true) (hctxs : r.ctxs = [c]) (hnever : neverReleased r.code = false) (hcount : countsToFail r.code = false)
    (s : State) : s.effect r = s.faultCtx c r.code r.count := by
  unfold State.effect State.tallyFails
  simp [hjob, hctxs, hnever, hcount]

/-- This package is the root of a job over packages. -/
def State.isJobRoot (s : State) (j : Nat) : Bool :=
  ((s.coord? j).any fun k => k.readies.any fun r => r.pkg != s.pkgId) ||
    (s.jobCtxs j).any fun c => ((s.launchOf c).map fun l => decide (l.root = s.pkgId ∧ 1 < l.packages)).getD false

/-- A context of the job has no fault yet. -/
def State.firstFault (s : State) (j : Nat) : Bool := (s.jobCtxs j).any fun c => (s.ctx c).faulted.isNone

theorem jobFault_eq (s : State) (j code pkg n : Nat) :
    jobFault j code pkg n s = if pkg = s.pkgId && !s.firstFault j then (if s.isJobRoot j && s.firstFault j then s.send (.jobFault j code pkg n) else s)
      else (if s.isJobRoot j && s.firstFault j then s.send (.jobFault j code pkg n) else s).faultJob j code := by
  have hpkg : (if s.isJobRoot j && s.firstFault j then s.send (.jobFault j code pkg n) else s).pkgId = s.pkgId := by
    split
    · exact State.send_pkgId _ _
    · rfl
  change (fun v : State => if pkg = v.pkgId && !s.firstFault j then v else v.faultJob j code)
    (if s.isJobRoot j && s.firstFault j then s.send (.jobFault j code pkg n) else s) = _
  dsimp only
  rw [hpkg]

theorem State.modRx_some {s : State} {k : Nat} {y : RxFlow} (h : s.rx? k = some y) (f : RxFlow → RxFlow) : s.modRx k f = s.setRx k (some (f y)) := by
  unfold State.modRx
  rw [h]

theorem State.firstFault_known {s : State} {j : Nat} (h : ∀ e ∈ s.jobCtxs j, (s.ctx e).faulted.isSome = true) : s.firstFault j = false := by
  unfold State.firstFault
  rw [List.any_eq_false]
  intro e he
  rw [Option.isNone_eq_false_iff.mpr (h e he)]
  decide

theorem jobsAreFaulted : JobsAreFaulted := by
  refine ⟨fun d c s r l x hd hholder hreach hheld hnew hjob hctxs hnever hcount hx => ?taken, fun j code pkg n s hpkg => ?told,
    fun j code n s hall => ?known, fun j root id c m s y hctxs hy => ?prune⟩
  case taken =>
    have hdel : delivers (s.takeFirst d) ((s.takeFirst d).deliver r) r := State.deliver_delivers _ r
    obtain ⟨u, hu⟩ : ∃ u, u = (s.takeFirst d).deliver r := ⟨_, rfl⟩
    rw [← hu] at hdel
    have huctx : u.contexts = s.contexts := by rw [hdel]; rfl
    have hufields : u.sent = s.sent ∧ u.mem = s.mem ∧ u.pkgId = s.pkgId ∧ u.lastFault = r.code := by rw [hdel]; exact ⟨rfl, rfl, rfl, rfl⟩
    obtain ⟨husent, humem, hupkg, hufault⟩ := hufields
    obtain ⟨v, hv⟩ : ∃ v, v = if x.faulted.isNone then u.tellJob c r.code r.count else u := ⟨_, rfl⟩
    have hvctx : v.contexts = s.contexts := by
      rw [hv]
      split
      · exact (State.tellJob_contexts _ _ _ _).trans huctx
      · exact huctx
    have hvfields : v.mem = s.mem ∧ v.lastFault = r.code := by
      rw [hv]
      split
      · exact ⟨(State.tellJob_mem _ _ _ _).1.trans humem, (State.tellJob_mem _ _ _ _).2.trans hufault⟩
      · exact ⟨humem, hufault⟩
    have hrun : faultRecordDeliver d s = v.faultJob x.job r.code := by
      rw [faultRecordDeliver_first hheld hholder hreach hnew, ← hu, effect_ofJob hjob hctxs hnever hcount,
        State.faultCtx_eq ((State.ctx?_of_contexts huctx c).trans hx), ← hv]
    obtain ⟨hmembers, hothers⟩ := v.faultJob_contexts x.job r.code
    have hkeep := faultOnly_faultJob v x.job r.code
    refine runs_of_need rfl hd ⟨?_, ?_, ?_, ?_, ?_, ?_⟩ <;> rw [hrun]
    · intro e he
      rw [← State.ctx_of_contexts hvctx e]
      exact hmembers e (by rw [State.jobCtxs_of_contexts hvctx]; exact he)
    · intro e he
      rw [hothers e (by rw [State.ctx?_of_contexts hvctx]; exact he), State.ctx?_of_contexts hvctx]
    · intro hfirst k hk hpackages
      rw [(faultOnly_sent_mem hkeep).1, hv, if_pos (by rw [hfirst]; rfl),
        State.tellJob_packages ((State.launchOf_of_contexts huctx c).trans hk) hpackages, State.send_sent, husent, hupkg, State.ctx_of_contexts huctx, State.ctx_of_ctx? hx]
    · intro hlater
      rw [(faultOnly_sent_mem hkeep).1, hv, if_neg (by rw [Option.isNone_eq_false_iff.mpr hlater]; decide), husent]
    · rw [(faultOnly_sent_mem hkeep).2, hvfields.1]
    · rw [hkeep.1]; exact hvfields.2
  case told =>
    obtain ⟨v, hv⟩ : ∃ v, v = if s.isJobRoot j && s.firstFault j then s.send (.jobFault j code pkg n) else s := ⟨_, rfl⟩
    have hvctx : v.contexts = s.contexts := by
      rw [hv]
      split
      · exact State.send_contexts _ _
      · rfl
    have hvmem : v.mem = s.mem := by
      rw [hv]
      split
      · exact State.send_mem _ _
      · rfl
    have hrun : jobFault j code pkg n s = v.faultJob j code := by
      rw [jobFault_eq, ← hv, if_neg (by rw [decide_eq_false hpkg]; nofun)]
    obtain ⟨hmembers, hothers⟩ := v.faultJob_contexts j code
    obtain ⟨hsent, hmem⟩ := faultOnly_sent_mem (faultOnly_faultJob v j code)
    refine runs_of_need rfl rfl ⟨?_, ?_, ?_, ?_, ?_⟩ <;> rw [hrun]
    · intro e he
      rw [← State.ctx_of_contexts hvctx e]
      exact hmembers e (by rw [State.jobCtxs_of_contexts hvctx]; exact he)
    · intro e he
      rw [hothers e (by rw [State.ctx?_of_contexts hvctx]; exact he), State.ctx?_of_contexts hvctx]
    · intro hall
      rw [hsent, hv, State.firstFault_known hall, Bool.and_false]
      rfl
    · intro e k hone hfirst hk hroot hpackages
      have hroot' : s.isJobRoot j = true := by
        simp [State.isJobRoot, hone, hk, hroot, hpackages]
      have hfirst' : s.firstFault j = true := by
        simp [State.firstFault, hone, hfirst]
      rw [hsent, hv, hroot', hfirst']
      exact State.send_sent _ _
    · exact hmem.trans hvmem
  case known =>
    refine runs_of_need rfl rfl ?_
    rw [jobFault_eq, State.firstFault_known hall, Bool.and_false, decide_eq_true rfl]
    rfl
  case prune =>
    obtain ⟨u, hu⟩ : ∃ u, u = (s.setRx (rxKeyOf root id true) (some { y with pruned := true })).note s.serviceDie 0x0B 464 c (le 2 id ++ le 2 s.pkgId ++ le 8 m.firstMissing) := ⟨_, rfl⟩
    obtain ⟨r, hcode, hcount, hrun⟩ : ∃ r : FaultRec, r.code = fMcastPruned ∧ r.count = m.count ∧ mcastPruneForward j root id m s = u.deliver r := by
      refine ⟨{ code := fMcastPruned, die := s.serviceDie, count := m.count, ctxs := [c],
                vectors := (s.setRx (rxKeyOf root id true) (some { y with pruned := true })).errVectors [c] }, rfl, rfl, ?_⟩
      unfold mcastPruneForward
      rw [hctxs, each_cons, each_nil, hu]
      dsimp only
      rw [State.modRx_some hy]
      rfl
    have hdel : delivers u (u.deliver r) r := State.deliver_delivers _ r
    have hrx : (u.deliver r).rxFlows = tabSet s.rxFlows (rxKeyOf root id true) (some { y with pruned := true }) := by rw [hdel, hu]; rfl
    refine runs_of_need rfl rfl ⟨?_, ?_, ?_, ?_, ?_⟩ <;> rw [hrun]
    · rw [State.rx?, hrx, tabGet_tabSet_same]
    · exact hcode
    · exact hcount
    · intro k hk
      rw [State.rx?, hrx, tabGet_tabSet_ne _ _ _ hk]; rfl
    · rw [hdel, hu]
      rfl

/-- Settles O42: the record that is taken is followed from its die to the ports and rings of the hatch sequencers, and a job's fault through its contexts one at a time. -/
theorem faultsReachTheirJobs : Obligations.FaultsReachTheirJobs := ⟨faultRecordsAreTakenAndFreed, jobsAreFaulted⟩

end Sys2Proof.Machine

end

section
/-! SUPPORT. Proofs about the phases of start-up that boot the firmware, load the inventory and test the dies (R34, R188, R523 to R525, R529, R532, R552 to R558). -/

namespace Sys2Proof.Machine

/-! ## What is written into ledgers alone: entries, and records that fault no job (R496, R498) -/

/-- From `s` to `t` the dies' ledgers have had entries and records added, and nothing else has changed. -/
def ledgersOnly (s t : State) : Prop :=
  t = { s with dies := t.dies } ∧
  ∀ d, t.die d = { s.die d with ledger := (t.die d).ledger } ∧ (s.die d).ledger.held <+: (t.die d).ledger.held

theorem ledgersOnly_refl (s : State) : ledgersOnly s s := ⟨rfl, fun _ => ⟨rfl, List.prefix_rfl⟩⟩

theorem ledgersOnly_trans {s t u : State} (hst : ledgersOnly s t) (htu : ledgersOnly t u) : ledgersOnly s u :=
  ⟨htu.1.trans (congrArg (fun x : State => { x with dies := u.dies }) hst.1),
    fun d => ⟨(htu.2 d).1.trans (congrArg (fun x : Die => { x with ledger := (u.die d).ledger }) (hst.2 d).1), (hst.2 d).2.trans (htu.2 d).2⟩⟩

theorem ledgersOnly_setLedger (s : State) (d : Nat) {l : Ledger} (h : (s.die d).ledger.held <+: l.held) : ledgersOnly s (s.setDie d { s.die d with ledger := l }) := by
  refine ⟨rfl, fun e => ?_⟩
  by_cases he : e = d
  · subst he; rw [State.die_setDie]; exact ⟨rfl, h⟩
  · rw [State.die_setDie_ne _ _ he]; exact ⟨rfl, List.prefix_rfl⟩

theorem ledgersOnly_note (s : State) (d kind code ctx : Nat) (detail : List Byte) : ledgersOnly s (s.note d kind code ctx detail) := by
  obtain ⟨l, hl, h⟩ := s.note_die d kind code ctx detail
  rw [h]
  exact ledgersOnly_setLedger s d (by rw [hl])

/-- A fault that is addressed to no context faults no job: it is held, or waits for room. -/
theorem ledgersOnly_raise (s : State) (d code : Nat) (detail : List Byte) : ledgersOnly s (s.raise d code [] detail) := by
  unfold State.raise State.raiseTo State.holdRec
  dsimp only
  refine ledgersOnly_trans (ledgersOnly_note s d 0x01 code (oneCtx []) detail) ?_
  split
  · exact ledgersOnly_setLedger _ _ (List.prefix_append _ _)
  · rw [if_neg (by simp)]
    exact ledgersOnly_setLedger _ _ List.prefix_rfl

theorem ledgersOnly_failed {s t : State} (h : ledgersOnly s t) (d : Nat) : (t.die d).failed = (s.die d).failed := by rw [(h.2 d).1]

/-! ## Phase 4: the inventory (R34, R529) -/

/-- What the update of one member of a list brings about, and no update undoes, holds after the fold. -/
theorem each_brings {α : Type} (P Q : State → Prop) (f : State → α → State) {a : α} {l : List α} (ha : a ∈ l) (hP : ∀ s b, P s → P (f s b)) (hbring : ∀ s, P s → Q (f s a))
    (hQ : ∀ s b, Q s → Q (f s b)) (s : State) (h : P s) : Q (each l s f) := by
  induction l generalizing s with
  | nil => cases ha
  | cons b l ih =>
    obtain rfl | ha := List.mem_cons.mp ha
    · exact each_keeps Q f hQ l _ (hbring s h)
    · exact ih ha _ (hP s b h)

/-- From `s` to `t` cores have been masked, and nothing else has changed. -/
def masksOnly (s t : State) : Prop := t = { s with cores := t.cores } ∧ ∀ c, (s.core c).masked = true → (t.core c).masked = true

theorem masksOnly_refl (s : State) : masksOnly s s := ⟨rfl, fun _ h => h⟩

theorem masksOnly_trans {s t u : State} (hst : masksOnly s t) (htu : masksOnly t u) : masksOnly s u :=
  ⟨htu.1.trans (congrArg (fun x : State => { x with cores := u.cores }) hst.1), fun c h => htu.2 c (hst.2 c h)⟩

/-- A core is masked. -/
def State.mask (s : State) (c : Nat) : State := s.modCore c fun x => { x with masked := true }

theorem State.mask_masked (s : State) (c : Nat) : ((s.mask c).core c).masked = true := by rw [State.mask, State.core_modCore]

theorem masksOnly_mask (s : State) (c : Nat) : masksOnly s (s.mask c) := by
  refine ⟨rfl, fun e h => ?_⟩
  by_cases he : e = c
  · subst he; exact s.mask_masked e
  · rw [State.mask, State.core_modCore_ne _ _ he]; exact h

/-- The cores of die `p.2` that are masked where it stands in for die `p.1`. -/
def beyondGood (x : Inventory) (p : Nat × Nat) : List Nat :=
  (((List.range 4).map (4 * p.2 + ·)).filter fun c => bit (tabGet 0 x.coreMap p.2) (c % 4)).drop ((List.range 4).filter fun k => bit (tabGet 0 x.coreMap p.1) k).length

/-- The masks of one spare. -/
def State.maskSpare (s : State) (p : Nat × Nat) : State := if p.1 = p.2 then s else each (beyondGood s.inv p) s State.mask

theorem masksOnly_maskSpare (s : State) (p : Nat × Nat) : masksOnly s (s.maskSpare p) := by
  unfold State.maskSpare
  split
  · exact masksOnly_refl s
  · exact each_keeps (masksOnly s) _ (fun t c h => masksOnly_trans h (masksOnly_mask t c)) _ s (masksOnly_refl s)

theorem State.maskSpares_eq (s : State) : s.maskSpares = each ((computeDies.filter fun d => !s.inv.factorySpares.contains d).zip s.inv.logical) s State.maskSpare := rfl

theorem masksOnly_maskSpares (s : State) : masksOnly s s.maskSpares := by
  rw [State.maskSpares_eq]
  exact each_keeps (masksOnly s) _ (fun t p h => masksOnly_trans h (masksOnly_maskSpare t p)) _ s (masksOnly_refl s)

theorem State.maskSpare_masks {s : State} {p : Nat × Nat} (hp : p.1 ≠ p.2) {c : Nat} (hc : c ∈ beyondGood s.inv p) : ((s.maskSpare p).core c).masked = true := by
  rw [State.maskSpare, if_neg hp]
  exact each_brings (fun _ => True) (fun t => (t.core c).masked = true) _ hc (fun _ _ _ => trivial) (fun t _ => t.mask_masked c) (fun t b => (masksOnly_mask t b).2 c) s trivial

/-- The cores of a spare beyond the number of its die's good cores are masked (R34). -/
theorem State.maskSpares_masks {s : State} {p : Nat × Nat} (hmem : p ∈ (computeDies.filter fun d => !s.inv.factorySpares.contains d).zip s.inv.logical) (hp : p.1 ≠ p.2)
    {c : Nat} (hc : c ∈ beyondGood s.inv p) : (s.maskSpares.core c).masked = true := by
  rw [State.maskSpares_eq]
  refine each_brings (fun t => t.inv = s.inv) (fun t => (t.core c).masked = true) _ hmem (fun t q h => ?_) (fun t h => ?_) (fun t q => (masksOnly_maskSpare t q).2 c) s rfl
  · rw [(masksOnly_maskSpare t q).1]; exact h
  · exact State.maskSpare_masks hp (by rw [h]; exact hc)

theorem State.maskSpares_none {s : State} (h : ∀ p ∈ (computeDies.filter fun d => !s.inv.factorySpares.contains d).zip s.inv.logical, p.1 = p.2) : s.maskSpares = s := by
  rw [State.maskSpares_eq]
  exact each_keeps_mem (fun t => t = s) _ _ (fun p hp t ht => by rw [ht]; exact if_pos (h p hp)) s rfl

/-- The record that the keeper uses is taken: both standing larder dies hold it. -/
def State.takeInventory (s : State) (x : Inventory) : State :=
  { s with
    inv := x, inventoryOk := true, identityOk := true, invL0 := if (s.die 80).failed.isNone then { inv := x, ok := true } else s.invL0
    invL1 := if (s.die 81).failed.isNone then { inv := x, ok := true } else s.invL1 }

section
variable {s : State}

theorem inventoryLoad_out (h : s.inPhase 4 = false ∨ s.holder = none) : inventoryLoad s = s := by
  refine if_pos ?_
  obtain h | h := h <;> simp [h]

theorem phase_of_inPhase {n : Nat} (h : s.inPhase n = true) : s.phase = n := by
  simp only [State.inPhase, Bool.and_eq_true, beq_iff_eq] at h
  exact h.1.1

theorem halted_of_inPhase {n : Nat} (h : s.inPhase n = true) : s.halted = false := by
  simp only [State.inPhase, Bool.and_eq_true, Bool.not_eq_true'] at h
  exact h.1.2

variable (hphase : s.inPhase 4 = true) (hholder : s.holder.isSome = true)
include hphase hholder

theorem inventoryLoad_invalid (hpick : s.invPick = none) : inventoryLoad s = { s.raise s.keeperDie fInventory [] [] with halted := true } := by
  unfold inventoryLoad
  rw [if_neg (by rw [hphase, Option.isNone_eq_false_iff.mpr hholder]; decide), hpick]

theorem inventoryLoad_picked {x : Inventory} (hpick : s.invPick = some x) : inventoryLoad s = { (s.takeInventory x).maskSpares.remeasure with phase := 5 } := by
  unfold inventoryLoad
  rw [if_neg (by rw [hphase, Option.isNone_eq_false_iff.mpr hholder]; decide), hpick]
  rfl

end

theorem State.invPick_both {s : State} {a b : Inventory} (ha : s.invUsable 0 = some a) (hb : s.invUsable 1 = some b) :
    s.invPick = some (if a.seq < b.seq then b else a) := by
  unfold State.invPick
  rw [ha, hb]
  exact (apply_ite some _ _ _).symm

theorem inventoryIsLoaded : InventoryIsLoaded := by
  intro s
  refine ⟨fun h => ?out, fun hphase hholder hpick hroom => ?invalid, fun x hphase hholder hpick => ?picked, fun a b => ⟨State.invPick_both, fun ha hb => ?first, fun ha hb => ?second⟩⟩
  case out => exact runs_of_need rfl rfl (inventoryLoad_out h)
  case invalid =>
    obtain ⟨r, hheld, hr⟩ := s.raised_raise s.keeperDie fInventory [] [] hroom
    have hframe := (ledgersOnly_raise s s.keeperDie fInventory []).1
    refine runs_of_need rfl rfl ⟨⟨r, ?_, hr⟩, ?_, ?_, ?_, ?_⟩ <;> rw [inventoryLoad_invalid hphase hholder hpick]
    · exact hheld
    · rw [hframe]; exact phase_of_inPhase (s := s) hphase
    · rw [hframe]
    · rw [hframe]
  case picked =>
    have hrun := inventoryLoad_picked hphase hholder hpick
    obtain ⟨u, hu⟩ : ∃ u, u = (s.takeInventory x).maskSpares := ⟨_, rfl⟩
    have hmasks : masksOnly (s.takeInventory x) u := by rw [hu]; exact masksOnly_maskSpares _
    rw [← hu] at hrun
    refine runs_of_need rfl rfl ⟨?_, ?_, ?_, ?_, fun h0 => ?_, fun h1 => ?_, fun f d hmem hfd c hc => ?_, fun hsame => ?_, ?_⟩ <;> rw [hrun]
    · rw [hmasks.1]; rfl
    · rw [hmasks.1]; rfl
    · rw [hmasks.1]; rfl
    · rw [hmasks.1]; exact if_pos (by rw [h0]; rfl)
    · rw [hmasks.1]; exact if_pos (by rw [h1]; rfl)
    · rw [hu]; exact State.maskSpares_masks (s := s.takeInventory x) (p := (f, d)) hmem hfd hc
    · rw [hu, State.maskSpares_none (s := s.takeInventory x) hsame]; rfl
    · rw [hmasks.1]; rfl
  case first => unfold State.invPick; rw [ha, hb]
  case second => unfold State.invPick; rw [ha, hb]

/-! ## Phase 5: self-test (R188, R554, R555, R558) -/

theorem mem_computeDies {d : Nat} : d ∈ computeDies ↔ isCompute d = true := by simp [computeDies, isCompute]

/-- One update for each die of a list, which goes by the inventory: those named are updated, every other stays. -/
theorem each_modDie_byInv (g : Inventory → Nat → Die → Die) {l : List Nat} (hl : l.Nodup) (s : State) (e : Nat) :
    (each l s fun s d => s.modDie d (g s.inv d)).die e = if e ∈ l then g s.inv e (s.die e) else s.die e := by
  induction l generalizing s with
  | nil => rfl
  | cons d l ih =>
    obtain ⟨hd, hl⟩ := List.nodup_cons.mp hl
    rw [each_cons, ih hl, State.modDie_inv]
    by_cases he : e = d
    · subst he; rw [if_neg hd, if_pos List.mem_cons_self, State.die_modDie]
    · rw [State.die_modDie_ne _ _ he]; simp only [List.mem_cons, he, false_or]

/-- The test point of a die: where a die of the active set and a spare stand at the end of their test (R61, R554). -/
def testPoint (v : Inventory) (d : Nat) (x : Die) : Die :=
  if v.logical.contains d then { x with curOp := x.reqOp, targetOp := x.reqOp, transition := false } else { x with curOp := 0, targetOp := 0, transition := false, bypass := true }

theorem State.testPoints_die (s : State) (d : Nat) : s.testPoints.die d = if isCompute d then testPoint s.inv d (s.die d) else s.die d := by
  have h := each_modDie_byInv testPoint List.nodup_range (l := computeDies) s d
  simp only [mem_computeDies] at h
  exact h

theorem diesOnly_modDie (s : State) (d : Nat) (f : Die → Die) : diesOnly s (s.modDie d f) := rfl

theorem State.testPoints_diesOnly (s : State) : diesOnly s s.testPoints :=
  each_keeps (diesOnly s) _ (fun t d h => diesOnly_trans h (diesOnly_modDie t d _)) _ s rfl

theorem testPoint_keeps (v : Inventory) (d : Nat) (x : Die) :
    (testPoint v d x).failed = x.failed ∧ (testPoint v d x).testTrip = x.testTrip ∧ (testPoint v d x).ledger = x.ledger ∧ (testPoint v d x).reqOp = x.reqOp := by
  unfold testPoint
  split <;> exact ⟨rfl, rfl, rfl, rfl⟩

theorem State.testPoints_keeps (s : State) (d : Nat) :
    (s.testPoints.die d).failed = (s.die d).failed ∧ (s.testPoints.die d).testTrip = (s.die d).testTrip ∧ (s.testPoints.die d).ledger = (s.die d).ledger := by
  rw [State.testPoints_die]
  split
  · obtain ⟨hf, ht, hl, -⟩ := testPoint_keeps s.inv d (s.die d)
    exact ⟨hf, ht, hl⟩
  · exact ⟨rfl, rfl, rfl⟩

theorem mem_addTo_self (l : List Nat) (x : Nat) : x ∈ addTo l x := by
  unfold addTo
  split
  next h => exact List.contains_iff_mem.mp h
  next => exact List.mem_append_right _ List.mem_cons_self

/-! ### Detours round failed routers (R26) -/

/-- From `s` to `t` dies have had detours loaded, and nothing else has changed. -/
def detoursOnly (s t : State) : Prop := t = { s with dies := t.dies } ∧ ∀ d, t.die d = { s.die d with detours := (t.die d).detours }

theorem detoursOnly_refl (s : State) : detoursOnly s s := ⟨rfl, fun _ => rfl⟩

theorem detoursOnly_trans {s t u : State} (hst : detoursOnly s t) (htu : detoursOnly t u) : detoursOnly s u :=
  ⟨diesOnly_trans hst.1 htu.1, fun d => (htu.2 d).trans (congrArg (fun x : Die => { x with detours := (u.die d).detours }) (hst.2 d))⟩

theorem detoursOnly_modDie (s : State) (d : Nat) (l : List Nat) : detoursOnly s (s.modDie d fun x => { x with detours := l }) := by
  refine ⟨rfl, fun e => ?_⟩
  by_cases he : e = d
  · subst he; rw [State.die_modDie]
  · rw [State.die_modDie_ne _ _ he]

theorem detoursOnly_loadDetours (s : State) (d : Nat) : detoursOnly s (s.loadDetours d) :=
  each_keeps (detoursOnly s) _ (fun t e h => detoursOnly_trans h (detoursOnly_modDie t e (addTo (t.die e).detours d))) _ s (detoursOnly_refl s)

/-- The keeper loads the detours round every failed router. -/
def State.loadAllDetours (s : State) : State := each s.inv.routers s State.loadDetours

theorem detoursOnly_loadAllDetours (s : State) : detoursOnly s s.loadAllDetours :=
  each_keeps (detoursOnly s) _ (fun t d h => detoursOnly_trans h (detoursOnly_loadDetours t d)) _ s (detoursOnly_refl s)

/-! ### The end of the test -/

/-- Start-up halts, or goes on to phase 6. -/
def State.endTest (s : State) : State := if s.testHalts || s.halted then { s with halted := true } else { s with phase := 6 }

/-- The stores and the dies as the test leaves them, before those that fail are told of. -/
def State.tested (s : State) : State := { s.testPoints with mem := s.mem.filter fun c => c.1 < 0x200000000000 }

/-- The routers that failed their test go into the inventory. -/
def State.routersFail (s : State) (l : List Nat) : State := if l.isEmpty then s else s.rewriteInventory fun x => { x with routers := l.foldl addTo x.routers }

theorem State.setMem_die (s : State) (m : Memory) (d : Nat) : ({ s with mem := m } : State).die d = s.die d := rfl

theorem State.tested_die (s : State) (d : Nat) : s.tested.die d = s.testPoints.die d := State.setMem_die _ _ _

theorem State.rewriteInventory_keeps (s : State) (f : Inventory → Inventory) : (∀ d, (s.rewriteInventory f).die d = s.die d) ∧ (s.rewriteInventory f).halted = s.halted := ⟨fun _ => rfl, rfl⟩

theorem State.routersFail_keeps (s : State) (l : List Nat) : (∀ d, (s.routersFail l).die d = s.die d) ∧ (s.routersFail l).halted = s.halted := by
  unfold State.routersFail
  split
  · exact ⟨fun _ => rfl, rfl⟩
  · exact s.rewriteInventory_keeps _

theorem State.routersFail_one (s : State) (r : Nat) : (s.routersFail [r]).inv.routers = addTo s.inv.routers r ∧ (s.routersFail [r]).inv.seq = s.inv.seq + 1 := ⟨rfl, rfl⟩

theorem State.tested_keeps (s : State) (d : Nat) :
    (s.tested.die d).failed = (s.die d).failed ∧ (s.tested.die d).testTrip = (s.die d).testTrip ∧ (s.tested.die d).ledger = (s.die d).ledger := by
  rw [State.tested_die]
  exact s.testPoints_keeps d

theorem State.tested_frame (s : State) : s.tested = { s with mem := s.tested.mem, dies := s.tested.dies } :=
  congrArg (fun x : State => { x with mem := s.tested.mem }) s.testPoints_diesOnly

theorem selfTest_out {s : State} (l r : List Nat) (h : s.inPhase 5 = false ∨ s.holder = none) : selfTest l r s = s := by
  refine if_pos ?_
  obtain h | h := h <;> simp [h]

section
variable {s : State} (hphase : s.inPhase 5 = true) (hholder : s.holder.isSome = true) (htrip : ∀ d, (s.die d).testTrip = false)
include hphase hholder htrip

theorem selfTest_eq (l r : List Nat) : selfTest l r s = (((each (dieList.filter fun d => l.contains d) s.tested State.testFails).routersFail r).loadAllDetours).endTest := by
  have hlist : (dieList.filter fun d => l.contains d || (s.tested.die d).testTrip) = dieList.filter fun d => l.contains d := by
    refine List.filter_congr fun d _ => ?_
    rw [(s.tested_keeps d).2.1, htrip, Bool.or_false]
  unfold selfTest
  rw [if_neg (by rw [hphase, Option.isNone_eq_false_iff.mpr hholder]; decide)]
  change (((each (dieList.filter fun d => l.contains d || (s.tested.die d).testTrip) s.tested State.testFails).routersFail r).loadAllDetours).endTest = _
  rw [hlist]

/-- No die fails. -/
theorem selfTest_none (r : List Nat) : selfTest [] r s = ((s.tested.routersFail r).loadAllDetours).endTest := by
  rw [selfTest_eq hphase hholder htrip]
  rfl

/-- One die fails. -/
theorem selfTest_one {d : Nat} (hd : isDie d = true) : selfTest [d] [] s = ((s.tested.testFails d).loadAllDetours).endTest := by
  have hone : (dieList.filter fun e => [d].contains e) = [d] := by
    have hmem : d ∈ dieList := by simpa [dieList, isDie] using hd
    have hsame : ∀ e ∈ dieList, [d].contains e = (e == d) := fun e _ => Bool.or_false _
    rw [List.filter_congr hsame, List.filter_beq, List.count_eq_one_of_mem (show dieList.Nodup from List.nodup_range) hmem]
    rfl
  rw [selfTest_eq hphase hholder htrip, hone]
  rfl

end

/-! ### What a die that fails brings about (R511, R512, R555) -/

/-- What start-up itself goes by stands as it was: its phase, whether it has halted, and the inventory. -/
def startStays (s t : State) : Prop := t.phase = s.phase ∧ t.halted = s.halted ∧ t.inv = s.inv

theorem startStays_trans {s t u : State} (hst : startStays s t) (htu : startStays t u) : startStays s u :=
  ⟨htu.1.trans hst.1, htu.2.1.trans hst.2.1, htu.2.2.trans hst.2.2⟩

theorem startStays_refl (s : State) : startStays s s := ⟨rfl, rfl, rfl⟩

theorem startStays_diesOnly {s t : State} (h : diesOnly s t) : startStays s t := by rw [h]; exact ⟨rfl, rfl, rfl⟩

/-- From `s` to `t` jobs have been faulted and told of, which touches no die. -/
def jobsOnly (s t : State) : Prop := startStays s t ∧ t.dies = s.dies

theorem jobsOnly_refl (s : State) : jobsOnly s s := ⟨startStays_refl s, rfl⟩

theorem jobsOnly_trans {s t u : State} (hst : jobsOnly s t) (htu : jobsOnly t u) : jobsOnly s u := ⟨startStays_trans hst.1 htu.1, htu.2.trans hst.2⟩

theorem jobsOnly_tellJob (s : State) (c code n : Nat) : jobsOnly s (s.tellJob c code n) := by
  unfold State.tellJob
  split
  · split
    · exact ⟨⟨State.send_phase _ _, State.send_halted _ _, State.send_inv _ _⟩, State.send_dies _ _⟩
    · exact jobsOnly_refl s
  · exact jobsOnly_refl s

theorem State.queueWrite_dies (s : State) (port a : Nat) (l : List Byte) : (s.queueWrite port a l).dies = s.dies := rfl

theorem State.putQueue_dies (s : State) (q : QRef) (f : Queue → Queue) : (s.putQueue q f).dies = s.dies := by
  have hstatus (t : State) : (t.writeStatus q).dies = t.dies := by
    unfold State.writeStatus
    split
    · split
      · exact State.queueWrite_dies _ _ _ _
      · rfl
    · rfl
  unfold State.putQueue
  split
  · rfl
  · dsimp only
    split
    · rfl
    · exact hstatus _

theorem State.faultMember_dies (s : State) (code c : Nat) : (s.faultMember code c).dies = s.dies :=
  (each_same State.dies _ (fun t q => t.putQueue_dies q _) _ _).trans (State.modCtx_dies s c _)

/-- A job's fault that is no emergency quench touches no die (R340). -/
theorem jobsOnly_faultJob (s : State) (j : Nat) {code : Nat} (h : code ≠ fRailQuench) : jobsOnly s (s.faultJob j code) := by
  refine ⟨?_, ?_⟩
  · rw [(faultOnly_faultJob s j code).1]; exact ⟨rfl, rfl, rfl⟩
  · rw [State.faultJob_eq]
    refine (each_same State.dies _ (fun t c => t.faultMember_dies code c) _ _).trans ?_
    rw [State.faultJobStart, if_neg h]
    rfl

theorem jobsOnly_faultCtx (s : State) (c n : Nat) {code : Nat} (h : code ≠ fRailQuench) : jobsOnly s (s.faultCtx c code n) := by
  unfold State.faultCtx
  split
  · exact jobsOnly_refl s
  · dsimp only
    refine jobsOnly_trans (t := if (s.ctx c).faulted.isNone then s.tellJob c code n else s) ?_ (jobsOnly_faultJob _ _ h)
    split
    · exact jobsOnly_tellJob _ _ _ _
    · exact jobsOnly_refl s

/-- From `s` to `t` no die but `d` has failed or come back, records stand as they were with more behind them at most, and start-up goes on as it was. -/
def failsOnly (s t : State) (d : Nat) : Prop :=
  startStays s t ∧ (∀ e, (s.die e).ledger.held <+: (t.die e).ledger.held) ∧ ∀ e, e ≠ d → (t.die e).failed = (s.die e).failed

theorem failsOnly_trans {s t u : State} {d : Nat} (hst : failsOnly s t d) (htu : failsOnly t u d) : failsOnly s u d :=
  ⟨startStays_trans hst.1 htu.1, fun e => (hst.2.1 e).trans (htu.2.1 e), fun e he => (htu.2.2 e he).trans (hst.2.2 e he)⟩

theorem failsOnly_ledgersOnly {s t : State} (h : ledgersOnly s t) (d : Nat) : failsOnly s t d :=
  ⟨startStays_diesOnly h.1, fun e => (h.2 e).2, fun e _ => ledgersOnly_failed h e⟩

theorem State.die_of_dies {s t : State} (h : t.dies = s.dies) (d : Nat) : t.die d = s.die d := by unfold State.die; rw [h]

theorem failsOnly_sameDies {s t : State} (hstart : startStays s t) (h : t.dies = s.dies) (d : Nat) : failsOnly s t d := by
  exact ⟨hstart, fun e => by rw [State.die_of_dies h], fun e _ => by rw [State.die_of_dies h]⟩

theorem failsOnly_modDie (s : State) (d : Nat) {f : Die → Die} (h : ∀ x, (f x).ledger = x.ledger) : failsOnly s (s.modDie d f) d := by
  refine ⟨⟨rfl, rfl, rfl⟩, fun e => ?_, fun e he => by rw [State.die_modDie_ne _ _ he]⟩
  by_cases he : e = d
  · subst he; rw [State.die_modDie, h]
  · rw [State.die_modDie_ne _ _ he]

/-- The contexts of a die have their jobs faulted one by one. -/
theorem jobsOnly_faultCtxs (l : List Nat) (s : State) {code : Nat} (h : code ≠ fRailQuench) : jobsOnly s (each l s fun s c => s.faultCtx c code s.kcount) :=
  each_keeps (jobsOnly s) _ (fun t c ht => jobsOnly_trans ht (jobsOnly_faultCtx t c _ h)) l s (jobsOnly_refl s)

/-- What a quarantine does (R512). -/
theorem State.quarantine_fails {s : State} {d code : Nat} (hfree : (s.die d).failed = none) (hcode : code ≠ fRailQuench) :
    failsOnly s (s.quarantine d code) d ∧ ((s.quarantine d code).die d).failed = some code ∧ ((s.quarantine d code).die d).bypass = true := by
  obtain ⟨u, hu⟩ : ∃ u, u = ((s.noteState s.serviceDie 4 d 0 1).journalRec 4 d).modDie d fun x => { x with failed := some code, bypass := true, railOff := x.railOff || code == fRailFault } := ⟨_, rfl⟩
  have hrun : s.quarantine d code = each (u.dieCtxs d) u fun s c => s.faultCtx c code s.kcount := by
    unfold State.quarantine
    rw [if_neg (by rw [hfree]; nofun), hu]
  have hsu : failsOnly s u d := by
    rw [hu]
    refine failsOnly_trans (failsOnly_ledgersOnly (ledgersOnly_note s s.serviceDie 0x03 4 noCtx (le 1 d ++ le 1 0 ++ le 1 1)) d) ?_
    exact failsOnly_trans (failsOnly_sameDies (t := (s.noteState s.serviceDie 4 d 0 1).journalRec 4 d) ⟨rfl, rfl, rfl⟩ rfl d) (failsOnly_modDie _ d fun _ => rfl)
  have hjobs := jobsOnly_faultCtxs (u.dieCtxs d) u hcode
  rw [← hrun] at hjobs
  refine ⟨failsOnly_trans hsu (failsOnly_sameDies hjobs.1 hjobs.2 d), ?_, ?_⟩ <;> rw [State.die_of_dies hjobs.2, hu, State.die_modDie]

section
variable {s : State} {d : Nat} (hroom : s.hasRoom d)
include hroom

/-- The record of a failed self-test stands on its die, whatever is recorded after it. -/
theorem State.testFails_record {t : State} (h : (((s.raise d fSelftest [] []).die d).ledger.held <+: (t.die d).ledger.held)) :
    ∃ r ∈ (t.die d).ledger.held, r.code = fSelftest ∧ r.die = d := by
  obtain ⟨r, hheld, hcode, hdie, -⟩ := s.raised_raise d fSelftest [] [] hroom
  exact ⟨r, h.subset (by rw [hheld]; exact List.mem_append_right _ List.mem_cons_self), hcode, hdie⟩

/-- An active compute die that fails its test. -/
theorem State.testFails_active (hholder : s.holder.isSome = true) (hcompute : isCompute d = true) (hactive : d ∈ s.inv.logical) (hfree : (s.die d).failed = none) :
    failsOnly s (s.testFails d) d ∧ (∃ r ∈ ((s.testFails d).die d).ledger.held, r.code = fSelftest ∧ r.die = d) ∧ ((s.testFails d).die d).failed = some fSelftest ∧
      ((s.testFails d).die d).bypass = true := by
  obtain ⟨u, hu⟩ : ∃ u, u = s.raise d fSelftest [] [] := ⟨_, rfl⟩
  have hsu : ledgersOnly s u := by rw [hu]; exact ledgersOnly_raise _ _ _ _
  have huv : ledgersOnly u (u.declareDie d fSelftest) := by
    rw [State.declareDie, if_pos (by rw [hsu.1]; exact hholder)]
    exact ledgersOnly_raise _ _ _ _
  have huFree : (u.die d).failed = none := (ledgersOnly_failed hsu d).trans hfree
  obtain ⟨hfails, hfailed, hbypass⟩ := State.quarantine_fails (s := u.declareDie d fSelftest) (d := d) (code := fSelftest) ((ledgersOnly_failed huv d).trans huFree) (by decide)
  have hrun : s.testFails d = (u.declareDie d fSelftest).quarantine d fSelftest := by
    unfold State.testFails State.dieFails
    dsimp only
    rw [← hu, if_pos hcompute, if_pos (by rw [hsu.1]; exact List.contains_iff_mem.mpr hactive), if_pos hcompute, if_neg (by rw [huFree]; nofun)]
  have huEnd := failsOnly_trans (failsOnly_ledgersOnly huv d) hfails
  rw [hrun]
  exact ⟨failsOnly_trans (failsOnly_ledgersOnly hsu d) huEnd, State.testFails_record hroom (by rw [← hu]; exact huEnd.2.1 d), hfailed, hbypass⟩

/-- A spare that fails its test is consumed. -/
theorem State.testFails_spare (hcompute : isCompute d = true) (hactive : d ∉ s.inv.logical) (hspare : d ∈ s.inv.spares) :
    (s.testFails d).phase = s.phase ∧ (s.testFails d).halted = s.halted ∧ (∃ r ∈ ((s.testFails d).die d).ledger.held, r.code = fSelftest ∧ r.die = d) ∧
      d ∉ (s.testFails d).inv.spares ∧ d ∈ (s.testFails d).inv.retired ∧ ((s.testFails d).die d).railOff = true ∧ (s.testFails d).inv.logical = s.inv.logical ∧
      ∀ e, ((s.testFails d).die e).failed = (s.die e).failed := by
  obtain ⟨u, hu⟩ : ∃ u, u = s.raise d fSelftest [] [] := ⟨_, rfl⟩
  have hsu : ledgersOnly s u := by rw [hu]; exact ledgersOnly_raise _ _ _ _
  obtain ⟨v, hv⟩ : ∃ v, v = u.noteState u.serviceDie 5 d 1 0 := ⟨_, rfl⟩
  have huv : ledgersOnly u v := by rw [hv]; exact ledgersOnly_note _ _ _ _ _ _
  have hsv := ledgersOnly_trans hsu huv
  have hrun : s.testFails d = ((v.journalRec 5 d).rewriteInventory fun x => { x with spares := x.spares.filter (· != d), retired := addTo x.retired d }).modDie d
      fun x => { x with railOff := true, curOp := 0 } := by
    unfold State.testFails
    dsimp only
    rw [← hu, if_pos hcompute, if_neg (by rw [hsu.1]; simpa using hactive), if_pos (by rw [hsu.1]; simpa using hspare), hv]
    rfl
  have hdie : ∀ e, (s.testFails d).die e = if e = d then { v.die e with railOff := true, curOp := 0 } else v.die e := by
    intro e
    rw [hrun]
    split
    next he => subst he; exact State.die_modDie _ _ _
    next he => exact State.die_modDie_ne _ _ he
  have hinv : v.inv = s.inv := by rw [hsv.1]
  refine ⟨?_, ?_, State.testFails_record hroom (by rw [← hu, hdie, if_pos rfl]; exact (huv.2 d).2), ?_, ?_, by rw [hdie, if_pos rfl], ?_, fun e => ?_⟩
  · rw [hrun]; exact (startStays_diesOnly hsv.1).1
  · rw [hrun]; exact (startStays_diesOnly hsv.1).2.1
  · rw [hrun]
    change d ∉ v.inv.spares.filter (· != d)
    simp
  · rw [hrun]
    change d ∈ addTo v.inv.retired d
    exact mem_addTo_self _ _
  · rw [hrun]
    change v.inv.logical = _
    rw [hinv]
  · rw [hdie, ← ledgersOnly_failed hsv e]
    split <;> rfl

/-- A larder die that fails its test. -/
theorem State.testFails_larder (hlarder : isLarder d = true) :
    startStays s (s.testFails d) ∧ (∃ r ∈ ((s.testFails d).die d).ledger.held, r.code = fSelftest ∧ r.die = d) ∧ ((s.testFails d).die d).failed.isSome = true ∧
      ∀ e, e ≠ d → ((s.testFails d).die e).failed = (s.die e).failed := by
  obtain ⟨u, hu⟩ : ∃ u, u = s.raise d fSelftest [] [] := ⟨_, rfl⟩
  have hsu : ledgersOnly s u := by rw [hu]; exact ledgersOnly_raise _ _ _ _
  have hkind : isCompute d = false ∧ isKeeper d = false ∧ isCellar d = false ∧ isLink d = false ∧ isHost d = false := by
    simp only [isLarder, Bool.and_eq_true, decide_eq_true_eq] at hlarder
    simp [isCompute, isKeeper, isCellar, isLink, isHost]
    omega
  obtain ⟨hcompute, hkeeper, hcellar, hlink, hhost⟩ := hkind
  have hrun : s.testFails d = if (u.die d).failed.isSome then u else u.modDie d fun x => { x with failed := some fSelftest } := by
    unfold State.testFails State.otherFails
    simp [← hu, hcompute, hkeeper, hcellar, hlink, hhost]
  have huEnd : failsOnly u (s.testFails d) d := by
    rw [hrun]
    split
    · exact failsOnly_ledgersOnly (ledgersOnly_refl u) d
    · exact failsOnly_modDie u d fun _ => rfl
  have hsEnd := failsOnly_trans (failsOnly_ledgersOnly hsu d) huEnd
  refine ⟨hsEnd.1, State.testFails_record hroom (by rw [← hu]; exact huEnd.2.1 d), ?_, hsEnd.2.2⟩
  rw [hrun]
  split
  next h => exact h
  next => rw [State.die_modDie]; rfl

end

theorem State.endTest_goesOn {s : State} (hhalts : s.testHalts = false) (hhalted : s.halted = false) : s.endTest = { s with phase := 6 } :=
  if_neg (by rw [hhalts, hhalted]; decide)

theorem State.endTest_halts {s : State} (h : s.testHalts = true) : s.endTest = { s with halted := true } := if_pos (by rw [h]; rfl)

theorem State.testHalts_of_failed {s t : State} (h : ∀ e, 80 ≤ e → (t.die e).failed = (s.die e).failed) : t.testHalts = s.testHalts := by
  unfold State.testHalts
  rw [h 80 (by decide), h 81 (by decide), h 96 (by decide), h 97 (by decide)]

theorem readByte_filter (p : Nat → Bool) (m : Memory) (a : Nat) : readByte (m.filter fun c => p c.1) a = if p a then readByte m a else 0 := by
  induction m with
  | nil => simp [readByte]
  | cons e m ih =>
    obtain ⟨k, v⟩ := e
    rw [List.filter_cons]
    by_cases hk : k = a
    · subst hk
      cases hp : p k <;> simp [hp, readByte, ih]
    · cases hp : p k <;> simp [readByte, ih, hk]

theorem detoursOnly_testHalts {s t : State} (h : detoursOnly s t) : t.testHalts = s.testHalts := State.testHalts_of_failed fun e _ => by rw [h.2 e]

/-- Start-up goes on once the detours are loaded. -/
theorem State.loadAllDetours_goesOn {u : State} (hhalts : u.testHalts = false) (hhalted : u.halted = false) :
    u.loadAllDetours.endTest = { u.loadAllDetours with phase := 6 } :=
  State.endTest_goesOn ((detoursOnly_testHalts (detoursOnly_loadAllDetours u)).trans hhalts) (by rw [(detoursOnly_loadAllDetours u).1]; exact hhalted)

theorem State.tested_hasRoom {s : State} {d : Nat} (h : s.hasRoom d) : s.tested.hasRoom d := by rw [State.hasRoom, (s.tested_keeps d).2.2]; exact h

theorem State.tested_testHalts (s : State) : s.tested.testHalts = s.testHalts := State.testHalts_of_failed fun e _ => (s.tested_keeps e).1

theorem State.tested_inv (s : State) : s.tested.inv = s.inv := by rw [s.tested_frame]

theorem State.tested_halted (s : State) : s.tested.halted = s.halted := by rw [s.tested_frame]

theorem State.tested_phase (s : State) : s.tested.phase = s.phase := by rw [s.tested_frame]

theorem State.tested_holder (s : State) : s.tested.holder = s.holder := by rw [s.tested_frame]

theorem compute_below {d : Nat} (h : isCompute d = true) : d < 68 := by simpa [isCompute] using h

theorem State.setPhase_die (s : State) (n d : Nat) : ({ s with phase := n } : State).die d = s.die d := rfl

/-- What a test of one die leaves, which it fails as `testFails` says while start-up goes on. -/
theorem selfTest_one_die {u : State} (d : Nat) : (({ u.loadAllDetours with phase := 6 } : State).die d) = { u.die d with detours := (u.loadAllDetours.die d).detours } := by
  rw [State.setPhase_die]
  exact (detoursOnly_loadAllDetours u).2 d

theorem diesTestThemselves : DiesTestThemselves := by
  intro s
  refine ⟨fun l r hl hr h => ?out, fun hphase hholder htrip => ⟨fun hgo => ?none, fun d hd hroom => ⟨fun hcompute hactive hfree hgo => ?active, fun hcompute hactive hspare hgo => ?spare,
    fun hboth => ?halts⟩, fun r hr hgo => ?router⟩⟩
  case out => exact runs_of_need rfl (by rw [hl, hr]; rfl) (selfTest_out l r h)
  case none =>
    have hhalted : s.tested.halted = false := s.tested_halted.trans (halted_of_inPhase hphase)
    have hrun : selfTest [] [] s = { s.tested.loadAllDetours with phase := 6 } :=
      (selfTest_none hphase hholder htrip []).trans (State.loadAllDetours_goesOn (s.tested_testHalts.trans hgo) hhalted)
    have hframe := (detoursOnly_loadAllDetours s.tested).1
    have hmem : s.tested.loadAllDetours.mem = s.mem.filter fun c => decide (c.1 < 0x200000000000) := by rw [hframe]; rfl
    have hdie : ∀ d, isCompute d = true → (selfTest [] [] s).die d = { testPoint s.inv d (s.die d) with detours := (s.tested.loadAllDetours.die d).detours } := by
      intro d hd
      rw [hrun, selfTest_one_die, State.tested_die, State.testPoints_die, if_pos hd]
    refine runs_of_need rfl rfl ⟨?_, fun a ha => ?_, fun a ha => ?_, fun d hd hactive => ?_, fun d hd hspare => ?_, ?_⟩
    · rw [hrun]
    · rw [hrun, show ({ s.tested.loadAllDetours with phase := 6 } : State).mem = _ from hmem, readByte_filter (fun k => decide (k < 0x200000000000))]
      exact if_neg (by simpa using ha)
    · rw [hrun, show ({ s.tested.loadAllDetours with phase := 6 } : State).mem = _ from hmem, readByte_filter (fun k => decide (k < 0x200000000000))]
      exact if_pos (by simpa using ha)
    · rw [hdie d hd, testPoint, if_pos (List.contains_iff_mem.mpr hactive)]
      exact ⟨rfl, rfl⟩
    · rw [hdie d hd, testPoint, if_neg (by simpa using hspare)]
      exact ⟨rfl, rfl⟩
    · rw [hrun]
      have hsame : s.tested.loadAllDetours.mem = s.tested.mem := by rw [hframe]
      have hwhole : s.tested.loadAllDetours = { s with mem := s.tested.loadAllDetours.mem, dies := s.tested.loadAllDetours.dies } := by
        rw [hsame]
        exact hframe.trans (congrArg (fun x : State => { x with dies := s.tested.loadAllDetours.dies }) s.tested_frame)
      exact congrArg (fun x : State => { x with phase := 6 }) hwhole
  case active =>
    obtain ⟨hfails, hrecord, hfailed, hbypass⟩ := State.testFails_active (State.tested_hasRoom hroom) (by rw [s.tested_holder]; exact hholder) hcompute
      (by rw [s.tested_inv]; exact hactive) ((s.tested_keeps d).1.trans hfree)
    have hhalts : (s.tested.testFails d).testHalts = false := by
      rw [State.testHalts_of_failed fun e he => hfails.2.2 e (by have := compute_below hcompute; omega), s.tested_testHalts, hgo]
    have hrun := (selfTest_one hphase hholder htrip hd).trans
      (State.loadAllDetours_goesOn hhalts (hfails.1.2.1.trans (s.tested_halted.trans (halted_of_inPhase hphase))))
    refine runs_of_need rfl (by simpa using hd) ⟨?_, ?_, ?_, ?_, ?_⟩ <;> rw [hrun]
    · rw [selfTest_one_die]; exact hrecord
    · rw [selfTest_one_die]; exact hfailed
    · rw [selfTest_one_die]; exact hbypass
    · rw [(detoursOnly_loadAllDetours _).1]; exact hfails.1.2.2.trans s.tested_inv
  case spare =>
    obtain ⟨-, hhalted, hrecord, hgone, hretired, hoff, hlogical, hfailed⟩ := State.testFails_spare (State.tested_hasRoom hroom) hcompute
      (by rw [s.tested_inv]; exact hactive) (by rw [s.tested_inv]; exact hspare)
    have hhalts : (s.tested.testFails d).testHalts = false := by rw [State.testHalts_of_failed fun e _ => hfailed e, s.tested_testHalts, hgo]
    have hrun := (selfTest_one hphase hholder htrip hd).trans
      (State.loadAllDetours_goesOn hhalts (hhalted.trans (s.tested_halted.trans (halted_of_inPhase hphase))))
    refine runs_of_need rfl (by simpa using hd) ⟨?_, ?_, ?_, ?_, ?_, ?_⟩ <;> rw [hrun]
    · rw [selfTest_one_die]; exact hrecord
    · rw [(detoursOnly_loadAllDetours _).1]; exact hgone
    · rw [(detoursOnly_loadAllDetours _).1]; exact hretired
    · rw [selfTest_one_die]; exact hoff
    · rw [(detoursOnly_loadAllDetours _).1]; exact hlogical.trans (by rw [s.tested_inv])
  case halts =>
    have hlarder : isLarder d = true := by obtain ⟨rfl, -⟩ | ⟨rfl, -⟩ := hboth <;> rfl
    obtain ⟨hstart, hrecord, hfailed, hothers⟩ := State.testFails_larder (State.tested_hasRoom hroom) hlarder
    have hhalts : (s.tested.testFails d).testHalts = true := by
      unfold State.testHalts
      obtain ⟨rfl, h⟩ | ⟨rfl, h⟩ := hboth
      · rw [hothers 81 (by decide), (s.tested_keeps 81).1, h, hfailed]; rfl
      · rw [hothers 80 (by decide), (s.tested_keeps 80).1, h, hfailed]; rfl
    have hdetours := detoursOnly_loadAllDetours (s.tested.testFails d)
    have hrun := (selfTest_one hphase hholder htrip hd).trans (State.endTest_halts ((detoursOnly_testHalts hdetours).trans hhalts))
    refine runs_of_need rfl (by simpa using hd) ⟨?_, ?_, ?_⟩ <;> rw [hrun]
    · rw [hdetours.1]; exact hstart.1.trans (s.tested_phase.trans (phase_of_inPhase hphase))
    · rw [show ({ (s.tested.testFails d).loadAllDetours with halted := true } : State).die d = (s.tested.testFails d).loadAllDetours.die d from rfl, hdetours.2 d]
      exact hrecord
  case router =>
    obtain ⟨u, hu⟩ : ∃ u, u = s.tested.routersFail [r] := ⟨_, rfl⟩
    have hrun : selfTest [] [r] s = { u.loadAllDetours with phase := 6 } := by
      rw [selfTest_none hphase hholder htrip, ← hu]
      refine State.loadAllDetours_goesOn ?_ ?_
      · rw [hu, State.testHalts_of_failed (s := s.tested) fun e _ => by rw [(State.routersFail_keeps _ _).1 e], s.tested_testHalts, hgo]
      · rw [hu, (State.routersFail_keeps _ _).2]; exact s.tested_halted.trans (halted_of_inPhase hphase)
    have hinv : u.loadAllDetours.inv = u.inv := by rw [(detoursOnly_loadAllDetours u).1]
    refine runs_of_need rfl (by simpa using hr) ⟨?_, ?_, ?_⟩ <;> rw [hrun]
    · change r ∈ u.loadAllDetours.inv.routers
      rw [hinv, hu, (State.routersFail_one _ r).1]
      exact mem_addTo_self _ _
    · change u.loadAllDetours.inv.seq = _
      rw [hinv, hu, (State.routersFail_one _ r).2, s.tested_inv]

/-! ## Phase 3: measured boot (R523 to R525, R532) -/

/-! ### A keeper's state changes (R358, R562) -/

theorem State.causeService_portsOnly (s : State) : portsOnly s s.causeService :=
  each_keeps (portsOnly s) _ (fun t p h => portsOnly_trans h (portsOnly_trans (portsOnly_modHp t p _) (State.raiseVector_portsOnly _ p 3))) _ s (portsOnly_refl s)

/-- From `s` to `t` keepers have changed their states: entries and causes tell of it, and a standby keeper holds the journal. -/
def keepersOnly (s t : State) : Prop :=
  t = { s with dies := t.dies, host0 := t.host0, host1 := t.host1, irqs := t.irqs, keeper0 := t.keeper0, keeper1 := t.keeper1, journal := t.journal } ∧
  ∀ d, (t.die d).failed = (s.die d).failed ∧ (t.die d).ledger.held = (s.die d).ledger.held

theorem keepersOnly_refl (s : State) : keepersOnly s s := ⟨rfl, fun _ => ⟨rfl, rfl⟩⟩

theorem keepersOnly_trans {s t u : State} (hst : keepersOnly s t) (htu : keepersOnly t u) : keepersOnly s u :=
  ⟨htu.1.trans (congrArg (fun x : State =>
      { x with dies := u.dies, host0 := u.host0, host1 := u.host1, irqs := u.irqs, keeper0 := u.keeper0, keeper1 := u.keeper1, journal := u.journal }) hst.1),
    fun d => ⟨(htu.2 d).1.trans (hst.2 d).1, (htu.2 d).2.trans (hst.2 d).2⟩⟩

theorem keepersOnly_note (s : State) (d kind code ctx : Nat) (detail : List Byte) : keepersOnly s (s.note d kind code ctx detail) :=
  ⟨rfl, fun e => ⟨ledgersOnly_failed (ledgersOnly_note s d kind code ctx detail) e, by
    obtain ⟨l, hl, h⟩ := s.note_die d kind code ctx detail
    rw [h]
    by_cases he : e = d
    · subst he; rw [State.die_setDie]; exact hl
    · rw [State.die_setDie_ne _ _ he]⟩⟩

theorem keepersOnly_setKeeper (s : State) (k : Nat) (st : KeeperSt) : keepersOnly s (s.setKeeper k st) := by
  unfold State.setKeeper
  split <;> exact ⟨rfl, fun _ => ⟨rfl, rfl⟩⟩

theorem keepersOnly_portsOnly {s t : State} (h : portsOnly s t) : keepersOnly s t := by
  refine ⟨?_, fun d => by rw [h]; exact ⟨rfl, rfl⟩⟩
  have hsame : t.dies = s.dies ∧ t.keeper0 = s.keeper0 ∧ t.keeper1 = s.keeper1 ∧ t.journal = s.journal := by rw [h]; exact ⟨rfl, rfl, rfl, rfl⟩
  rw [hsame.1, hsame.2.1, hsame.2.2.1, hsame.2.2.2]
  exact h

theorem keepersOnly_keeperTo (s : State) (k : Nat) (st : KeeperSt) : keepersOnly s (s.keeperTo k st) := by
  unfold State.keeperTo
  split
  · exact keepersOnly_refl s
  · exact keepersOnly_trans (keepersOnly_note _ _ _ _ _ _) (keepersOnly_trans (keepersOnly_setKeeper _ _ _) (keepersOnly_portsOnly (State.causeService_portsOnly _)))

theorem keepersOnly_standBy (s : State) (k : Nat) : keepersOnly s (s.standBy k) :=
  keepersOnly_trans (keepersOnly_keeperTo s k .standby) ⟨rfl, fun _ => ⟨rfl, rfl⟩⟩

theorem State.keeper_setKeeper_other (s : State) (st : KeeperSt) {k j : Nat} (h : (j = 0) ≠ (k = 0)) : (s.setKeeper k st).keeper j = s.keeper j := by
  unfold State.setKeeper State.keeper
  by_cases hk : k = 0 <;> by_cases hj : j = 0 <;> simp_all

theorem portsOnly_keeper {s t : State} (h : portsOnly s t) (k : Nat) : t.keeper k = s.keeper k := by rw [h]; rfl

theorem State.note_keeper (s : State) (d kind code ctx : Nat) (detail : List Byte) (k : Nat) : (s.note d kind code ctx detail).keeper k = s.keeper k := rfl

theorem State.keeperTo_keeper (s : State) (k : Nat) (st : KeeperSt) : (s.keeperTo k st).keeper k = st := by
  unfold State.keeperTo
  split
  next h => exact h
  next => rw [portsOnly_keeper (State.causeService_portsOnly _), State.keeper_setKeeper]

theorem State.keeperTo_keeper_other (s : State) (st : KeeperSt) {k j : Nat} (h : (j = 0) ≠ (k = 0)) : (s.keeperTo k st).keeper j = s.keeper j := by
  unfold State.keeperTo
  split
  · rfl
  · rw [portsOnly_keeper (State.causeService_portsOnly _), State.keeper_setKeeper_other _ _ h]
    exact State.note_keeper _ _ _ _ _ _ _

/-! ### The images -/

/-- What the loader goes by stands as it was: the copies, their counters, and which dies have failed; the token and the contexts too. -/
def bootStays (s t : State) : Prop :=
  t.fw = s.fw ∧ t.holder = s.holder ∧ t.contexts = s.contexts ∧ t.phase = s.phase ∧ (∀ d, (t.die d).failed = (s.die d).failed) ∧ ∀ i, t.svn i = s.svn i

theorem bootStays_refl (s : State) : bootStays s s := ⟨rfl, rfl, rfl, rfl, fun _ => rfl, fun _ => rfl⟩

theorem bootStays_trans {s t u : State} (hst : bootStays s t) (htu : bootStays t u) : bootStays s u := by
  obtain ⟨a, b, c, d, e, f⟩ := hst
  obtain ⟨a', b', c', d', e', f'⟩ := htu
  exact ⟨a'.trans a, b'.trans b, c'.trans c, d'.trans d, fun i => (e' i).trans (e i), fun i => (f' i).trans (f i)⟩

theorem bootStays_ledgersOnly {s t : State} (h : ledgersOnly s t) : bootStays s t := by
  refine ⟨?_, ?_, ?_, ?_, ledgersOnly_failed h, fun i => ?_⟩ <;> rw [h.1]
  rfl

theorem bootStays_keepersOnly {s t : State} (h : keepersOnly s t) : bootStays s t := by
  refine ⟨?_, ?_, ?_, ?_, fun d => (h.2 d).1, fun i => ?_⟩ <;> rw [h.1]
  rfl

theorem bootStays_runImage (s : State) (loader kind : Nat) : bootStays s (s.runImage loader kind) := ⟨rfl, rfl, rfl, rfl, fun _ => rfl, fun _ => rfl⟩

theorem State.svn_setSvn (s : State) (k i : Nat) : (s.setSvn k (s.svn k)).svn i = s.svn i := by
  unfold State.setSvn State.svn
  dsimp only
  by_cases hi : i = k
  · subst hi; rw [tabGet_tabSet_same, tabGet_tabSet_same, Nat.max_self]
  · rw [tabGet_tabSet_ne _ _ _ hi, tabGet_tabSet_ne _ _ _ hi]

theorem bootStays_setSvn (s : State) (k : Nat) : bootStays s (s.setSvn k (s.svn k)) := ⟨rfl, rfl, rfl, rfl, fun _ => rfl, s.svn_setSvn k⟩

theorem fwValid_of_bootStays {s t : State} (h : bootStays s t) (k : Nat) : t.fwValid k = s.fwValid k := by
  obtain ⟨hfw, -, -, -, hfailed, hsvn⟩ := h
  unfold State.fwValid State.fwCopy
  rw [hfw, hfailed, hsvn]

theorem fwPick_of_bootStays {s t : State} (h : bootStays s t) (kind : Nat) : t.fwPick kind = s.fwPick kind := by
  unfold State.fwPick
  rw [funext (fwValid_of_bootStays h)]
  unfold State.fwCopy
  rw [h.1]

theorem ledgersOnly_fwFaults (s : State) (kind : Nat) : ledgersOnly s (s.fwFaults kind) := by
  refine each_keeps (ledgersOnly s) _ (fun t k h => ?_) _ s (ledgersOnly_refl s)
  dsimp only
  split
  · exact ledgersOnly_trans h (ledgersOnly_raise _ _ _ _)
  · split
    · exact ledgersOnly_trans h (ledgersOnly_raise _ _ _ _)
    · exact h

theorem State.running_runImage (s : State) (loader kind : Nat) :
    (s.runImage loader kind).running loader = (s.fwPick kind).map fun k => { key := k, bytes := (s.fwCopy k).bytes } := tabGet_tabSet_same _ _ _ _

theorem State.running_runImage_ne (s : State) (kind : Nat) {loader l : Nat} (h : l ≠ loader) : (s.runImage loader kind).running l = s.running l := tabGet_tabSet_ne _ _ _ h

/-! ### The steps of measured boot -/

/-- Both copies of each counter are brought to the larger of them. -/
def State.syncSvn (s : State) : State := each [1, 2, 3, 4] s fun s k => s.setSvn k (s.svn k)

/-- Each keeper that boots or acts runs its image. -/
def State.runKeepers (s : State) : State := each [0, 1] s fun s j => if s.keeper j = .booting || s.keeper j = .active then s.runImage (keeperLoader j) 1 else s

/-- The images of the other kinds run on their loaders. -/
def State.loadKinds (s : State) : State := each [2, 3, 4] s State.loadKind

/-- Each keeper that boots stands by. -/
def State.othersStandBy (s : State) : State := each [0, 1] s fun s j => if s.keeper j = .booting then s.standBy j else s

theorem bootStays_syncSvn (s : State) : bootStays s s.syncSvn := each_keeps (bootStays s) _ (fun t k h => bootStays_trans h (bootStays_setSvn t k)) _ s (bootStays_refl s)

theorem State.setSvn_keeps (s : State) (kind v k d : Nat) : (s.setSvn kind v).keeper k = s.keeper k ∧ (s.setSvn kind v).die d = s.die d := ⟨rfl, rfl⟩

theorem State.syncSvn_keeper (s : State) (k : Nat) : s.syncSvn.keeper k = s.keeper k :=
  each_same (fun t : State => t.keeper k) _ (fun t i => (t.setSvn_keeps i (t.svn i) k 0).1) _ s

theorem State.syncSvn_die (s : State) (d : Nat) : s.syncSvn.die d = s.die d :=
  each_same (fun t : State => t.die d) _ (fun t i => (t.setSvn_keeps i (t.svn i) 0 d).2) _ s

theorem State.setSvn_now (s : State) (kind v : Nat) : (s.setSvn kind v).now = s.now := rfl

theorem State.syncSvn_count (s : State) (d : Nat) : s.syncSvn.count d = s.count d := by
  have hnow : s.syncSvn.now = s.now := each_same State.now _ (fun t i => t.setSvn_now i (t.svn i)) _ s
  unfold State.count
  rw [hnow, State.syncSvn_die]

theorem ledgersOnly_keeper {s t : State} (h : ledgersOnly s t) (k : Nat) : t.keeper k = s.keeper k := by rw [h.1]; rfl

theorem ledgersOnly_running {s t : State} (h : ledgersOnly s t) (l : Nat) : t.running l = s.running l := by rw [h.1]; rfl

theorem bootStays_loadKind (s : State) (k : Nat) : bootStays s (s.loadKind k) := bootStays_trans (bootStays_ledgersOnly (ledgersOnly_fwFaults s k)) (bootStays_runImage _ _ _)

theorem State.loadKind_keeper (s : State) (kind k : Nat) : (s.loadKind kind).keeper k = s.keeper k := (ledgersOnly_keeper (ledgersOnly_fwFaults s kind) k : (s.fwFaults kind).keeper k = _)

theorem State.loadKind_running_ne (s : State) {kind l : Nat} (h : l ≠ kind) : (s.loadKind kind).running l = s.running l := by
  rw [State.loadKind, State.running_runImage_ne _ _ h, ledgersOnly_running (ledgersOnly_fwFaults s kind)]

/-- The image that a kind's pick gives. -/
def State.picked (s : State) (kind : Nat) : Option FwRun := (s.fwPick kind).map fun k => { key := k, bytes := (s.fwCopy k).bytes }

theorem picked_of_bootStays {s t : State} (h : bootStays s t) (kind : Nat) : t.picked kind = s.picked kind := by
  unfold State.picked State.fwCopy
  rw [fwPick_of_bootStays h, h.1]

theorem State.loadKind_running (s : State) (kind : Nat) : (s.loadKind kind).running kind = s.picked kind := by
  rw [State.loadKind, State.running_runImage]
  exact picked_of_bootStays (bootStays_ledgersOnly (ledgersOnly_fwFaults s kind)) kind

theorem bootStays_loadKinds (s : State) : bootStays s s.loadKinds := each_keeps (bootStays s) _ (fun t k h => bootStays_trans h (bootStays_loadKind t k)) _ s (bootStays_refl s)

theorem State.loadKinds_keeper (s : State) (k : Nat) : s.loadKinds.keeper k = s.keeper k :=
  each_same (fun s : State => s.keeper k) _ (fun t kind => t.loadKind_keeper kind k) _ s

theorem State.loadKinds_eq (s : State) : s.loadKinds = ((s.loadKind 2).loadKind 3).loadKind 4 := rfl

theorem State.loadKinds_running_other (s : State) {l : Nat} (h : l < 2 ∨ 4 < l) : s.loadKinds.running l = s.running l := by
  rw [State.loadKinds_eq, State.loadKind_running_ne _ (by omega), State.loadKind_running_ne _ (by omega), State.loadKind_running_ne _ (by omega)]

/-- Each loader of another kind than the keepers' runs the image that is picked for it. -/
theorem State.loadKinds_running (s : State) {i : Nat} (h2 : 2 ≤ i) (h4 : i ≤ 4) : s.loadKinds.running i = s.picked i := by
  rw [State.loadKinds_eq]
  obtain rfl | rfl | rfl : i = 2 ∨ i = 3 ∨ i = 4 := by omega
  · rw [State.loadKind_running_ne _ (by decide), State.loadKind_running_ne _ (by decide), State.loadKind_running]
  · rw [State.loadKind_running_ne _ (by decide), State.loadKind_running, picked_of_bootStays (bootStays_loadKind _ _)]
  · rw [State.loadKind_running, picked_of_bootStays (bootStays_trans (bootStays_loadKind _ _) (bootStays_loadKind _ _))]

/-- One keeper runs its image where it boots or acts. -/
def State.runKeeper (s : State) (j : Nat) : State := if s.keeper j = .booting || s.keeper j = .active then s.runImage (keeperLoader j) 1 else s

theorem State.runKeeper_keeps (s : State) (j : Nat) : bootStays s (s.runKeeper j) ∧ ∀ k, (s.runKeeper j).keeper k = s.keeper k := by
  unfold State.runKeeper
  split
  · exact ⟨bootStays_runImage _ _ _, fun _ => rfl⟩
  · exact ⟨bootStays_refl s, fun _ => rfl⟩

theorem State.runKeeper_running_ne (s : State) {j l : Nat} (h : l ≠ keeperLoader j) : (s.runKeeper j).running l = s.running l := by
  unfold State.runKeeper
  split
  · exact State.running_runImage_ne _ _ h
  · rfl

theorem State.runKeeper_running {s : State} {j : Nat} (h : s.keeper j = .active) : (s.runKeeper j).running (keeperLoader j) = s.picked 1 := by
  unfold State.runKeeper
  rw [if_pos (by rw [h]; rfl)]
  exact State.running_runImage _ _ _

theorem State.runKeepers_keeps (s : State) : bootStays s s.runKeepers ∧ ∀ k, s.runKeepers.keeper k = s.keeper k :=
  ⟨bootStays_trans (s.runKeeper_keeps 0).1 ((s.runKeeper 0).runKeeper_keeps 1).1, fun k => (((s.runKeeper 0).runKeeper_keeps 1).2 k).trans ((s.runKeeper_keeps 0).2 k)⟩

/-- The active keeper runs its image. -/
theorem State.runKeepers_running {s : State} {j : Nat} (hj : j < 2) (h : s.keeper j = .active) : s.runKeepers.running (keeperLoader j) = s.picked 1 := by
  have hrun : s.runKeepers = (s.runKeeper 0).runKeeper 1 := rfl
  rw [hrun]
  obtain rfl | rfl : j = 0 ∨ j = 1 := by omega
  · rw [State.runKeeper_running_ne _ (by decide), State.runKeeper_running h]
  · rw [State.runKeeper_running (((s.runKeeper_keeps 0).2 1).trans h), picked_of_bootStays (s.runKeeper_keeps 0).1]

/-- One keeper stands by where it boots. -/
def State.thenStandBy (s : State) (j : Nat) : State := if s.keeper j = .booting then s.standBy j else s

theorem keepersOnly_thenStandBy (s : State) (j : Nat) : keepersOnly s (s.thenStandBy j) := by
  unfold State.thenStandBy
  split
  · exact keepersOnly_standBy s j
  · exact keepersOnly_refl s

theorem State.standBy_keeper (s : State) (j k : Nat) : (s.standBy j).keeper k = (s.keeperTo j .standby).keeper k := rfl

theorem State.thenStandBy_keeper (s : State) (j : Nat) : (s.thenStandBy j).keeper j = if s.keeper j = .booting then .standby else s.keeper j := by
  unfold State.thenStandBy
  split
  · rw [State.standBy_keeper, State.keeperTo_keeper]
  · rfl

theorem State.thenStandBy_keeper_other (s : State) {j k : Nat} (h : (k = 0) ≠ (j = 0)) : (s.thenStandBy j).keeper k = s.keeper k := by
  unfold State.thenStandBy
  split
  · rw [State.standBy_keeper, State.keeperTo_keeper_other _ _ h]
  · rfl

theorem State.othersStandBy_eq (s : State) : s.othersStandBy = (s.thenStandBy 0).thenStandBy 1 := rfl

theorem keepersOnly_othersStandBy (s : State) : keepersOnly s s.othersStandBy :=
  keepersOnly_trans (keepersOnly_thenStandBy s 0) (keepersOnly_thenStandBy _ 1)

theorem State.othersStandBy_keeper (s : State) {j : Nat} (hj : j < 2) : s.othersStandBy.keeper j = if s.keeper j = .booting then .standby else s.keeper j := by
  rw [State.othersStandBy_eq]
  obtain rfl | rfl : j = 0 ∨ j = 1 := by omega
  · rw [State.thenStandBy_keeper_other _ (by simp), State.thenStandBy_keeper]
  · rw [State.thenStandBy_keeper, State.thenStandBy_keeper_other _ (by simp)]

/-! ### Measured boot as a whole -/

theorem measuredBoot_out {s : State} (h : s.inPhase 3 = false ∨ s.holder = none) : measuredBoot s = s := by
  refine if_pos ?_
  obtain h | h := h <;> simp [h]

/-- The state in which the keeper's own copies have been looked at. -/
def State.keeperFaults (s : State) : State := s.syncSvn.fwFaults 1

theorem bootStays_keeperFaults (s : State) : bootStays s s.keeperFaults :=
  bootStays_trans (bootStays_syncSvn s) (bootStays_ledgersOnly (ledgersOnly_fwFaults _ 1))

section
variable {s : State} (hphase : s.inPhase 3 = true) (hholder : s.holder.isSome = true)
include hphase hholder

theorem measuredBoot_none (hpick : s.fwPick 1 = none) : measuredBoot s = s.keeperFaults.noKeeperImage := by
  have h : (s.keeperFaults.fwPick 1).isNone = true := by rw [fwPick_of_bootStays (bootStays_keeperFaults s), hpick]; rfl
  unfold measuredBoot
  rw [if_neg (by rw [hphase, Option.isNone_eq_false_iff.mpr hholder]; decide)]
  exact if_pos h

theorem measuredBoot_some {k : Nat} (hpick : s.fwPick 1 = some k) :
    measuredBoot s = { s.keeperFaults.runKeepers.loadKinds.othersStandBy.measure with phase := 4 } := by
  have h : (s.keeperFaults.fwPick 1).isNone = false := by rw [fwPick_of_bootStays (bootStays_keeperFaults s), hpick]; rfl
  unfold measuredBoot
  rw [if_neg (by rw [hphase, Option.isNone_eq_false_iff.mpr hholder]; decide)]
  exact if_neg (fun hnone => Bool.false_ne_true (h.symm.trans hnone))

end

/-- A keeper is left without a valid image: both stop, and start-up halts (R524, R558). -/
theorem State.noKeeperImage_stops (s : State) :
    s.noKeeperImage.phase = s.phase ∧ s.noKeeperImage.halted = true ∧ s.noKeeperImage.holder = none ∧ s.noKeeperImage.keeper0 = .failed ∧ s.noKeeperImage.keeper1 = .failed ∧
      ∀ d, (s.noKeeperImage.die d).ledger.held = (s.die d).ledger.held := by
  obtain ⟨u, hu⟩ : ∃ u, u = ({ s with holder := none } : State) := ⟨_, rfl⟩
  obtain ⟨v, hv⟩ : ∃ v, v = (u.keeperTo 0 .failed).keeperTo 1 .failed := ⟨_, rfl⟩
  have huv : keepersOnly u v := by rw [hv]; exact keepersOnly_trans (keepersOnly_keeperTo _ _ _) (keepersOnly_keeperTo _ _ _)
  have h0 : v.keeper0 = .failed := by
    change v.keeper 0 = _
    rw [hv, State.keeperTo_keeper_other _ _ (by simp), State.keeperTo_keeper]
  have h1 : v.keeper1 = .failed := by
    change v.keeper 1 = _
    rw [hv, State.keeperTo_keeper]
  have hqueues : faultOnly v (v.holdKeeper true) := each_faultOnly _ (fun t q => faultOnly_putQueue t q _) _ v
  have hdies : (v.holdKeeper true).dies = v.dies := each_same State.dies _ (fun t q => t.putQueue_dies q _) _ v
  have hrun : s.noKeeperImage = { v.holdKeeper true with halted := true } := by rw [hv, hu]; rfl
  refine ⟨?_, ?_, ?_, ?_, ?_, fun d => ?_⟩ <;> rw [hrun]
  · change (v.holdKeeper true).phase = _
    rw [hqueues.1]
    change v.phase = _
    rw [huv.1, hu]
  · change (v.holdKeeper true).holder = _
    rw [hqueues.1]
    change v.holder = _
    rw [huv.1, hu]
  · change (v.holdKeeper true).keeper0 = _
    rw [hqueues.1]
    exact h0
  · change (v.holdKeeper true).keeper1 = _
    rw [hqueues.1]
    exact h1
  · change ((v.holdKeeper true).die d).ledger.held = _
    rw [State.die_of_dies hdies, (huv.2 d).2, hu]
    rfl

theorem State.keeperFaults_keeper (s : State) (k : Nat) : s.keeperFaults.keeper k = s.keeper k :=
  (ledgersOnly_keeper (ledgersOnly_fwFaults s.syncSvn 1) k).trans (s.syncSvn_keeper k)

/-- The measurement blocks that the state does not change afterwards stand as `measure` puts them. -/
theorem State.remeasure_low (s : State) {i : Nat} (h : i < 7) : tabGet [] s.remeasure.measured i = tabGet [] s.measured i := by
  unfold State.remeasure
  dsimp only
  rw [tabGet_tabSet_ne _ _ _ (by omega), tabGet_tabSet_ne _ _ _ (by omega), tabGet_tabSet_ne _ _ _ (by omega)]

theorem State.measure_rom (s : State) : tabGet [] s.measure.measured 1 = Config.romDigest := by
  unfold State.measure
  rw [State.remeasure_low _ (by decide)]
  rfl

theorem State.measure_keeper {s : State} {j : Nat} {x : FwRun} (hholder : s.holder = some j) (hrun : s.running (keeperLoader j) = some x) :
    tabGet [] s.measure.measured 2 = sha256 x.bytes := by
  unfold State.measure
  rw [State.remeasure_low _ (by decide)]
  change s.fwDigest (s.loaderOf 1) = _
  rw [State.loaderOf, if_pos rfl, hholder, State.fwDigest, show s.running (keeperLoader ((some j).getD 0)) = some x from hrun]

/-- What the loader raises about one copy. -/
def State.fwFault (s : State) (kind k : Nat) : State :=
  if !(s.fwCopy k).sigOk || !(s.fwCopy k).digestOk then s.raise s.keeperDie fFwAuth [] []
  else if fwSvn (s.fwCopy k) < s.svn kind then s.raise s.keeperDie fFwRollback [] []
  else s

/-- One copy alone holds an image, and its larder die stands. -/
theorem State.fwFaults_one {s : State} {kind k : Nat} (hone : (fwKeys kind).filter (fun i => !(s.fwCopy i).bytes.isEmpty) = [k]) (hstands : (s.die (80 + k % 2)).failed = none) :
    s.fwFaults kind = s.fwFault kind k := by
  have hlist : ((fwKeys kind).filter fun i => !(s.fwCopy i).bytes.isEmpty && (s.die (80 + i % 2)).failed.isNone) = [k] := by
    rw [List.filter_congr (q := fun i => (s.die (80 + i % 2)).failed.isNone && !(s.fwCopy i).bytes.isEmpty) fun _ _ => Bool.and_comm _ _, ← List.filter_filter, hone,
      List.filter_cons_of_pos (by rw [hstands]; rfl), List.filter_nil]
  unfold State.fwFaults
  rw [hlist]
  rfl

/-- The one copy that holds an image is not valid. -/
theorem State.fwPick_none {s : State} {kind k : Nat} (hone : (fwKeys kind).filter (fun i => !(s.fwCopy i).bytes.isEmpty) = [k]) (hbad : s.fwValid k = false) :
    s.fwPick kind = none := by
  have hnone : (fwKeys kind).filter s.fwValid = [] := by
    rw [List.filter_eq_nil_iff]
    intro i hi hvalid
    have hmem : i ∈ (fwKeys kind).filter fun i => !(s.fwCopy i).bytes.isEmpty := by
      refine List.mem_filter.mpr ⟨hi, ?_⟩
      simp only [State.fwValid, Bool.and_eq_true] at hvalid
      exact hvalid.1.1.1.1
    rw [hone, List.mem_singleton] at hmem
    rw [hmem, hbad] at hvalid
    exact Bool.false_ne_true hvalid
  unfold State.fwPick
  rw [hnone]
  rfl

theorem measuredBootRunsImages : MeasuredBootRunsImages := by
  intro s
  refine ⟨fun h => ?out, fun j k hphase hholder hj hpick hactive => ?boots, fun hphase hholder hpick => ?none, fun k hphase hholder hone hstands hroom => ?faults⟩
  case out => exact runs_of_need rfl rfl (measuredBoot_out h)
  case boots =>
    obtain ⟨u, hu⟩ : ∃ u, u = s.keeperFaults.runKeepers.loadKinds := ⟨_, rfl⟩
    have hsu : bootStays s u := by
      rw [hu]; exact bootStays_trans (bootStays_keeperFaults s) (bootStays_trans (State.runKeepers_keeps _).1 (bootStays_loadKinds _))
    have hkeeper : ∀ i, u.keeper i = s.keeper i := fun i => by
      rw [hu, State.loadKinds_keeper, (State.runKeepers_keeps _).2, s.keeperFaults_keeper]
    have hrunKeeper : u.running (keeperLoader j) = s.picked 1 := by
      rw [hu, State.loadKinds_running_other _ (by unfold keeperLoader; split <;> omega), State.runKeepers_running hj ((s.keeperFaults_keeper j).trans hactive),
        picked_of_bootStays (bootStays_keeperFaults s)]
    have hrunOther : ∀ i, 2 ≤ i → i ≤ 4 → u.running i = s.picked i := fun i h2 h4 => by
      rw [hu, State.loadKinds_running _ h2 h4, picked_of_bootStays (bootStays_trans (bootStays_keeperFaults s) (State.runKeepers_keeps _).1)]
    obtain ⟨v, hv⟩ : ∃ v, v = u.othersStandBy := ⟨_, rfl⟩
    have huv : keepersOnly u v := by rw [hv]; exact keepersOnly_othersStandBy u
    have hsv := bootStays_trans hsu (bootStays_keepersOnly huv)
    obtain ⟨hfw, hholderV, hcontexts, -, -, hsvn⟩ := hsv
    have hrunning : ∀ i, v.running i = u.running i := fun i => by rw [huv.1]; rfl
    have hkeeperV : ∀ i, i < 2 → v.keeper i = if s.keeper i = .booting then .standby else s.keeper i := fun i hi => by
      rw [hv, State.othersStandBy_keeper _ hi, hkeeper]
    have hpicked : s.picked 1 = some { key := k, bytes := (s.fwCopy k).bytes } := by rw [State.picked, hpick]; rfl
    have hrun : measuredBoot s = { v.measure with phase := 4 } := by
      rw [measuredBoot_some hphase (by rw [hholder]; rfl) hpick, hv, hu]
    refine runs_of_need rfl rfl ⟨?_, ?_, ?_, ?_, ?_, fun i h2 h4 => ?_, ?_, ?_, fun i _ _ => ?_, ?_, ?_⟩ <;> rw [hrun]
    · exact hholderV.trans hholder
    · change v.keeper j = _
      rw [hkeeperV j hj, hactive]; rfl
    · change v.keeper (1 - j) = _
      exact hkeeperV (1 - j) (by omega)
    · change v.running (keeperLoader j) = _
      rw [hrunning, hrunKeeper, hpicked]
    · change v.running i = _
      rw [hrunning, hrunOther i h2 h4]
      rfl
    · exact v.measure_rom
    · change tabGet [] v.measure.measured 2 = _
      rw [State.measure_keeper (j := j) (by rw [hholderV, hholder]) (by rw [hrunning, hrunKeeper, hpicked])]
    · exact hsvn i
    · exact hfw
    · exact hcontexts
  case none =>
    obtain ⟨hp, hh, ht, h0, h1, -⟩ := s.keeperFaults.noKeeperImage_stops
    have hrun := measuredBoot_none hphase hholder hpick
    refine runs_of_need rfl rfl ⟨?_, ?_, ?_, ?_, ?_⟩ <;> rw [hrun]
    · exact hp.trans ((bootStays_keeperFaults s).2.2.2.1.trans (phase_of_inPhase hphase))
    · exact hh
    · exact ht
    · exact h0
    · exact h1
  case faults =>
    have hmem : k ∈ fwKeys 1 := List.mem_of_mem_filter (hone ▸ List.mem_singleton_self k)
    have hkind : k / 4 = 1 := by
      simp only [fwKeys, List.mem_map, List.mem_range] at hmem
      omega
    have hfault : ∀ code, s.syncSvn.fwFault 1 k = s.syncSvn.raise s.syncSvn.keeperDie code [] [] → s.fwValid k = false → Runs .measuredBoot s fun t => raised s t s.keeperDie code := by
      intro code hraise hbad
      have hsync := bootStays_syncSvn s
      have hkeeperDie : s.syncSvn.keeperDie = s.keeperDie := by unfold State.keeperDie; rw [hsync.2.1]
      have hrun : measuredBoot s = (s.syncSvn.raise s.keeperDie code [] []).noKeeperImage := by
        rw [measuredBoot_none hphase hholder (State.fwPick_none hone hbad), State.keeperFaults,
          State.fwFaults_one (s := s.syncSvn) (by unfold State.fwCopy; rw [hsync.1]; exact hone) (by rw [s.syncSvn_die]; exact hstands), hraise, hkeeperDie]
      have hroomSync : s.syncSvn.hasRoom s.keeperDie := by rw [State.hasRoom, s.syncSvn_die]; exact hroom
      obtain ⟨r, hheld, hcode, hdie, hcount⟩ := s.syncSvn.raised_raise s.keeperDie code [] [] hroomSync
      refine runs_of_need rfl rfl ⟨r, ?_, hcode, hdie, hcount.trans (s.syncSvn_count _)⟩
      rw [hrun, (State.noKeeperImage_stops _).2.2.2.2.2, hheld, s.syncSvn_die]
    have hcopy : s.syncSvn.fwCopy k = s.fwCopy k := by unfold State.fwCopy; rw [(bootStays_syncSvn s).1]
    refine ⟨fun hbad => hfault fFwAuth ?_ ?_, fun hsig hdigest hlow => hfault fFwRollback ?_ ?_⟩
    · unfold State.fwFault
      rw [hcopy]
      exact if_pos (by obtain h | h := hbad <;> simp [h])
    · unfold State.fwValid
      obtain h | h := hbad <;> simp [h]
    · unfold State.fwFault
      rw [hcopy, (bootStays_syncSvn s).2.2.2.2.2]
      exact (if_neg (by rw [hsig, hdigest]; decide)).trans (if_pos hlow)
    · unfold State.fwValid
      dsimp only
      rw [hkind, decide_eq_false (Nat.not_le_of_lt hlow), Bool.and_false]

/-- Settles O52: each step of start-up is followed through what it changes, by the frame of each of its operations. -/
theorem bootInventoryAndSelfTest : Obligations.BootInventoryAndSelfTest := ⟨measuredBootRunsImages, inventoryIsLoaded, diesTestThemselves⟩

end Sys2Proof.Machine

end

section
/-! SUPPORT. Proofs about remote operations at their destination (R42, R135, R232, R301, R333, R439 to R442, R447, R462). -/

namespace Sys2Proof.Machine

/-! ## A packet that a flow takes (R447) -/

@[simp] theorem State.rx?_setRx (s : State) (k j : Nat) (x : Option RxFlow) : (s.setRx k x).rx? j = if j = k then x else s.rx? j :=
  tabGet_tabSet none s.rxFlows k j x

theorem State.setRx_setRx (s : State) (k : Nat) (x y : Option RxFlow) : (s.setRx k x).setRx k y = s.setRx k y := by
  unfold State.setRx
  rw [tabSet_tabSet]

/-- A counter that gains leaves the records that a die holds. -/
theorem State.perfAdd_held (s : State) (d i n e : Nat) : ((s.perfAdd d i n).die e).ledger.held = (s.die e).ledger.held := by
  have hmod : ∀ p, ((s.modDie d fun x => { x with perf := tabSet x.perf i p }).die e).ledger.held = (s.die e).ledger.held := by
    intro p
    by_cases he : e = d
    · subst he; rw [State.die_modDie]
    · rw [State.die_modDie_ne _ _ he]
  unfold State.perfAdd
  dsimp only
  split
  · exact hmod _
  · split
    · exact hmod _
    · by_cases he : e = d
      · subst he; rw [State.note_held]; exact hmod _
      · rw [State.note_die_ne _ _ _ _ _ he]; exact hmod _

/-- The flow's end as the packet finds it: the port, class and route that it came by. -/
def metBy (x : RxFlow) (n : Nat) (p : Packet) : RxFlow := { x with link := n, cls := p.cls, route := p.route }

/-- The state in which a packet that is the next of its flow is performed. -/
def State.took (s : State) (n k : Nat) (p : Packet) (x : RxFlow) : State :=
  (s.setRx k (some { metBy x n p with expect := x.expect + 1, unacked := x.unacked + 1 })).perfAdd (88 + n) 3 1

section
variable {s : State} {n : Nat} {p : Packet} {x : RxFlow} {group : Bool} (h : nextPacket s p x group)
include h

/-- A packet that is the next of its flow is performed, and no ACK follows yet. -/
theorem State.accept_next (f : State → RxFlow → State) :
    s.accept n (rxKeyOf p.srcPkg p.flow group) p f = f (s.took n (rxKeyOf p.srcPkg p.flow group) p x) (metBy x n p) := by
  obtain ⟨hrx, hpruned, hresync, hpsn, hunacked, -⟩ := h
  have hgap : (p.psn - x.expect).toNat = 0 := by rw [hpsn, BitVec.sub_self]; rfl
  unfold State.accept
  rw [hrx]
  dsimp only
  rw [if_neg (show ¬x.resync = true by rw [hresync]; decide), if_neg (show ¬x.pruned = true by rw [hpruned]; decide), if_pos hgap,
    if_neg (show ¬32 ≤ x.unacked + 1 by omega), State.setRx_setRx]
  rfl

end

/-- From `s` to `u` a die's counters and ledger have changed, and the end of one flow; no record has been held. -/
theorem took_served (s : State) (n k : Nat) (p : Packet) (x : RxFlow) :
    served (s.setRx k (some { metBy x n p with expect := x.expect + 1, unacked := x.unacked + 1 })) (s.took n k p x) := served_perfAdd _ _ _ _

theorem State.took_frame (s : State) (n k : Nat) (p : Packet) (x : RxFlow) :
    s.took n k p x = { s with
      dies := (s.took n k p x).dies, rxFlows := tabSet s.rxFlows k (some { metBy x n p with expect := x.expect + 1, unacked := x.unacked + 1 }) } :=
  State.perfAdd_diesOnly _ _ _ _

theorem took_only (s : State) (n k : Nat) (p : Packet) (x : RxFlow) : s.took n k p x = { s with dies := (s.took n k p x).dies, rxFlows := (s.took n k p x).rxFlows } := by
  have hrx : (s.took n k p x).rxFlows = tabSet s.rxFlows k (some { metBy x n p with expect := x.expect + 1, unacked := x.unacked + 1 }) := by rw [State.took_frame]
  rw [hrx]
  exact s.took_frame n k p x

theorem State.took_die (s : State) (n k d : Nat) (p : Packet) (x : RxFlow) :
    servedDie (s.die d) ((s.took n k p x).die d) ∧ ((s.took n k p x).die d).ledger.held = (s.die d).ledger.held :=
  ⟨(took_served s n k p x).2 d, State.perfAdd_held _ _ _ _ _⟩

theorem State.took_rx? (s : State) (n k : Nat) (p : Packet) (x : RxFlow) (j : Nat) :
    (s.took n k p x).rx? j = if j = k then some { metBy x n p with expect := x.expect + 1, unacked := x.unacked + 1 } else s.rx? j := by
  rw [State.took_frame]
  exact tabGet_tabSet none s.rxFlows k j _

/-- A state whose flows' ends are those of the state in which the packet was performed. -/
theorem tookPacket_of_rxFlows {s t : State} {n : Nat} {p : Packet} {x : RxFlow} {group : Bool}
    (h : t.rxFlows = (s.took n (rxKeyOf p.srcPkg p.flow group) p x).rxFlows) : tookPacket s t p x group := by
  have hrx : ∀ j, t.rx? j = (s.took n (rxKeyOf p.srcPkg p.flow group) p x).rx? j := fun j => congrArg (fun l => tabGet none l j) h
  refine ⟨⟨{ metBy x n p with expect := x.expect + 1, unacked := x.unacked + 1 }, ?_, rfl, rfl, rfl⟩, fun k hk => ?_⟩
  · rw [hrx, State.took_rx?, if_pos rfl]
  · rw [hrx, State.took_rx?, if_neg hk]

/-! ## Where a packet lands is not changed by what its acceptance counts -/

theorem State.took_loftOpen (s : State) (n k : Nat) (p : Packet) (x : RxFlow) (c d : Nat) (w : Bool) : (s.took n k p x).loftOpen c d w = s.loftOpen c d w := by
  have hdie := (s.took_die n k d p x).1
  have hsame : ((s.took n k p x).die d).job = (s.die d).job ∧ ((s.took n k p x).die d).loftBusy = (s.die d).loftBusy := by rw [hdie]; exact ⟨rfl, rfl⟩
  have hphys : (s.took n k p x).ctxPhys c = s.ctxPhys c := by rw [State.took_frame]; rfl
  have hctx : (s.took n k p x).ctx c = s.ctx c := by rw [State.took_frame]; rfl
  unfold State.loftOpen
  rw [hsame.1, hsame.2, hphys, hctx]

theorem State.took_farEnd (s : State) (n k : Nat) (p : Packet) (x : RxFlow) (c a m : Nat) (w : Bool) : (s.took n k p x).farEnd c a m w = s.farEnd c a m w := by
  have hlocate : (s.took n k p x).locate a m = s.locate a m := by rw [State.took_frame]; rfl
  have hopen : ∀ k', (s.took n k p x).shelfOpen c k' w = s.shelfOpen c k' w := fun k' => by rw [State.took_frame]; rfl
  have hcore : ∀ k', (s.took n k p x).core k' = s.core k' := fun k' => by rw [State.took_frame]; rfl
  have hmapped : ∀ b, (s.took n k p x).cellarMapped b m = s.cellarMapped b m := fun b => by rw [State.took_frame]; rfl
  have hwrite : ∀ b, (s.took n k p x).mayWrite (.context c) b m = s.mayWrite (.context c) b m := fun b => by rw [State.took_frame]; rfl
  have hread : ∀ b, (s.took n k p x).mayRead (.context c) b m = s.mayRead (.context c) b m := fun b => by rw [State.took_frame]; rfl
  unfold State.farEnd
  simp only [hlocate, hopen, hcore, hmapped, hwrite, hread, State.took_loftOpen]

theorem State.took_landing (s : State) (n k : Nat) (p : Packet) (x : RxFlow) (a m : Nat) (w : Bool) :
    (s.took n k p x).landing (metBy x n p) a m w = s.landing x a m w := by
  unfold State.landing
  rw [State.took_farEnd]
  rfl

theorem State.took_guardOf (s : State) (n k : Nat) (p : Packet) (x : RxFlow) (c : Nat) (w : Bool) (a m : Nat) : (s.took n k p x).guardOf c w a m = s.guardOf c w a m := by
  rw [State.took_frame]; rfl

theorem State.took_pinned (s : State) (n k : Nat) (p : Packet) (x : RxFlow) (a m : Nat) (b : Bool) : (s.took n k p x).pinned a m b = s.pinned a m b := by
  rw [State.took_frame]; rfl

theorem State.took_hasRoom {s : State} {d : Nat} (h : s.hasRoom d) (n k : Nat) (p : Packet) (x : RxFlow) : (s.took n k p x).hasRoom d := by
  rw [State.hasRoom, (s.took_die n k d p x).2]
  exact h

theorem State.took_count (s : State) (n k : Nat) (p : Packet) (x : RxFlow) (d : Nat) : (s.took n k p x).count d = s.count d := served_count (took_served s n k p x) d

/-! ## A packet that goes to its range at once (R26, R51, R443) -/

theorem State.towards_unheld {s : State} {n a k : Nat} {p : Packet} (h : unheld s n p a k) (f : State) : s.towards n p a k f = f := by
  unfold State.towards
  rw [if_neg (by rw [h.1]; decide), if_neg (by rw [h.2]; decide)]

section
variable {s : State} {n : Nat} {p : Packet} {x : RxFlow}

theorem write_next (h : nextPacket s p x false) (hat : unheld s n p (faLow p.addr.toNat) (p.data.take 936).length) :
    write n p s = (s.took n (rxKeyOf p.srcPkg p.flow false) p x).farStore n (metBy x n p) (faLow p.addr.toNat) (p.data.take 936) := by
  unfold write
  dsimp only
  rw [if_neg (not_not_intro (h.2.2.2.2.2 rfl)), State.towards_unheld hat, State.accept_next h]

theorem groupWrite_next (h : nextPacket s p x true) (houts : (s.transits.filter fun t => t.srcPkg == p.srcPkg && t.flow == p.flow && t.group && t.die == 88 + n) = [])
    (hat : unheld s n p (x.landBase + bits p.addr.toNat 0 32) (p.data.take 936).length) :
    groupWrite n p s = (s.took n (rxKeyOf p.srcPkg p.flow true) p x).farStore n (metBy x n p) (x.landBase + bits p.addr.toNat 0 32) (p.data.take 936) := by
  have hnone : (s.transits.filter fun t => t.srcPkg == p.srcPkg && t.flow == p.flow && t.group && t.die == 88 + n && t.members.any fun m => !t.pruned.contains m) = [] := by
    rw [List.filter_eq_nil_iff] at houts ⊢
    intro t ht hall
    rw [Bool.and_eq_true] at hall
    exact houts t ht hall.1
  unfold groupWrite
  rw [hnone]
  change s.groupLand n p = _
  unfold State.groupLand
  dsimp only
  rw [h.1]
  dsimp only
  rw [State.towards_unheld hat, State.accept_next h]

end

/-! ## What a remote store leaves (R135, R232, R333, R440) -/

/-- Words put into a store stand there, and only the words that they fill have changed (R178). -/
theorem landed_putWords {s u : State} (hmem : u.mem = s.mem) (hwf : s.mem.wf = true) (k : Nat) (l : List Byte) : landed s (u.putWords k l) k l := by
  refine ⟨readBytes_putWords u k l (by rw [hmem]; exact hwf), fun a ha => ?_⟩
  have hlen : (l ++ List.replicate (roundUp l.length 8 - l.length) (0 : Byte)).length = roundUp l.length 8 := by
    have hle : l.length ≤ roundUp l.length 8 := by simp only [roundUp, ceilDiv]; omega
    rw [List.length_append, List.length_replicate]
    omega
  rw [← hmem]
  exact readByte_writeBytes_out _ u.mem k (by rw [hlen]; exact ha)

/-! ### Answers (R447) -/

theorem portUp_of_up {x : Port} (h : x.st = .up) : portUp x = true := by rw [portUp, h]; rfl

theorem State.emit_up {s : State} {n : Nat} (h : (s.port n).st = .up) (a : Packet) :
    s.emit n a = { s with packetOut := s.packetOut ++ [(n, { a with stamp := BitVec.ofNat 64 (s.count (88 + n)) })] } := if_pos (portUp_of_up h)

theorem State.emit_packetsOnly (s : State) (n : Nat) (a : Packet) : s.emit n a = { s with packetOut := (s.emit n a).packetOut } := by
  unfold State.emit State.post
  split <;> rfl

/-- The answer of a flow's end. -/
def answerOf (s : State) (y : RxFlow) (nack : Bool) (data : List Byte) : Packet :=
  { s.packet (if nack then 7 else if y.group then 0x0C else 6) y.cls y.srcPkg y.flow (if nack && y.group then 3 * 2 ^ 48 + y.flow * 2 ^ 32 else 0) data.length data with
    route := y.route, psn := y.expect }

/-- The end of a flow once it has answered. -/
def answeredBy (s : State) (y : RxFlow) (nack : Bool) : RxFlow := { y with unacked := 0, nackAt := if nack then some (s.count (88 + y.link)) else y.nackAt }

theorem State.answerRx_some {s : State} {k : Nat} {y : RxFlow} (h : s.rx? k = some y) (nack : Bool) (data : List Byte) :
    s.answerRx k nack data = (s.setRx k (some (answeredBy s y nack))).emit y.link (answerOf s y nack data) := by
  unfold State.answerRx
  rw [h]
  rfl

/-- What an answer leaves. -/
theorem State.answerRx_frame {s : State} {k : Nat} {y : RxFlow} (h : s.rx? k = some y) (nack : Bool) (data : List Byte) :
    s.answerRx k nack data = { s with rxFlows := tabSet s.rxFlows k (some (answeredBy s y nack)), packetOut := (s.answerRx k nack data).packetOut } := by
  rw [State.answerRx_some h]
  exact State.emit_packetsOnly _ _ _

/-- Where the port is UP, the answer goes out. -/
theorem State.answerRx_packet {s : State} {k : Nat} {y : RxFlow} (h : s.rx? k = some y) (nack : Bool) (data : List Byte) (hup : (s.port y.link).st = .up) :
    (s.answerRx k nack data).packetOut = s.packetOut ++ [(y.link, { answerOf s y nack data with stamp := BitVec.ofNat 64 (s.count (88 + y.link)) })] := by
  rw [State.answerRx_some h, State.emit_up (s := s.setRx k (some (answeredBy s y nack))) hup]
  rfl

/-- A packet that is ahead of the PSN expected, or behind it, is answered and not performed. -/
theorem State.accept_gap {s : State} {n k g : Nat} {p : Packet} {x : RxFlow} (hrx : s.rx? k = some x) (hpruned : x.pruned = false) (hresync : x.resync = false)
    (hgap : 0 < g) (hg : (p.psn - x.expect).toNat = g) (hnack : g < 2 ^ 31 → ∀ u, x.nackAt = some u → u + 2000 ≤ s.count (88 + n)) (f : State → RxFlow → State) :
    s.accept n k p f = (s.setRx k (some (metBy x n p))).answerRx k (decide (g < 2 ^ 31)) [] := by
  unfold State.accept
  rw [hrx]
  dsimp only
  rw [if_neg (show ¬x.resync = true by rw [hresync]; decide), if_neg (show ¬x.pruned = true by rw [hpruned]; decide), if_neg (show ¬(p.psn - x.expect).toNat = 0 by omega)]
  by_cases hahead : g < 2 ^ 31
  · rw [if_pos (show (p.psn - x.expect).toNat < 2 ^ 31 by omega), decide_eq_true hahead]
    refine if_neg ?_
    change ¬((x.nackAt.map fun t => decide (s.count (88 + n) < t + 2000)).getD false) = true
    cases hat : x.nackAt with
    | none => nofun
    | some u =>
      have := hnack hahead u hat
      simpa using this
  · rw [if_neg (show ¬(p.psn - x.expect).toNat < 2 ^ 31 by omega), decide_eq_false hahead]
    rfl

/-! ### An access that is turned away (R42, R440 to R442) -/

/-- With room for its record, a fault's record stands behind those that the die holds, and nothing else has changed but the die's ledger. -/
theorem State.noteHold_room {s : State} {d : Nat} (h : s.hasRoom d) (code ctx : Nat) (detail : List Byte) {r : FaultRec} (hr : r.die = d) :
    ∃ l : Ledger, l.held = (s.die d).ledger.held ++ [r] ∧ (s.note d 0x01 code ctx detail).holdRec r = s.setDie d { s.die d with ledger := l } := by
  subst hr
  obtain ⟨l, hl, hn⟩ := s.note_die r.die 0x01 code ctx detail
  have hdie : (s.note r.die 0x01 code ctx detail).die r.die = { s.die r.die with ledger := l } := by rw [hn, State.die_setDie]
  refine ⟨{ l with held := l.held ++ [r] }, by rw [hl], ?_⟩
  unfold State.holdRec
  rw [if_pos (by rw [hdie, hl]; exact h), hn, State.setDie_modDie]

section
variable {s : State} {n : Nat} {p : Packet} {x : RxFlow} (hflow : ofFlow p x) (hroom : s.hasRoom (88 + n))
include hflow hroom

/-- An access that is turned away: its fault stands on the link die, and the ACK takes the code and the address back. -/
theorem turnedAway_farReject (c e : Nat) :
    turnedAway s ((s.took n (rxKeyOf p.srcPkg p.flow false) p x).farReject n (metBy x n p) c e) n p x c e ∧
    (s.took n (rxKeyOf p.srcPkg p.flow false) p x).farReject n (metBy x n p) c e = { s with
      rxFlows := ((s.took n (rxKeyOf p.srcPkg p.flow false) p x).farReject n (metBy x n p) c e).rxFlows
      dies := ((s.took n (rxKeyOf p.srcPkg p.flow false) p x).farReject n (metBy x n p) c e).dies
      packetOut := ((s.took n (rxKeyOf p.srcPkg p.flow false) p x).farReject n (metBy x n p) c e).packetOut } := by
  obtain ⟨hsrc, hflowNo, hgroup⟩ := hflow
  obtain ⟨k, hk⟩ : ∃ k, k = rxKeyOf p.srcPkg p.flow false := ⟨_, rfl⟩
  obtain ⟨y, hy⟩ : ∃ y : RxFlow, y = { metBy x n p with expect := x.expect + 1, unacked := x.unacked + 1 } := ⟨_, rfl⟩
  rw [← hk]
  obtain ⟨r, hr⟩ : ∃ r : FaultRec, r = { code := c, die := 88 + n, count := (s.took n k p x).count (88 + n), ctxs := [x.ctx], job := true } := ⟨_, rfl⟩
  obtain ⟨l, hl, hhold⟩ := State.noteHold_room (s := s.took n k p x) (State.took_hasRoom hroom n k p x) c noCtx (le 8 e ++ le 1 0) (r := r) (by rw [hr])
  obtain ⟨v, hv⟩ : ∃ v, v = (s.took n k p x).setDie (88 + n) { (s.took n k p x).die (88 + n) with ledger := l } := ⟨_, rfl⟩
  have hrun : (s.took n k p x).farReject n (metBy x n p) c e = v.answerRx k false (be 2 c ++ be 8 e) := by
    unfold State.farReject
    dsimp only
    rw [show rxKeyOf (metBy x n p).srcPkg (metBy x n p).flow (metBy x n p).group = k by rw [hk, ← hsrc, ← hflowNo, ← hgroup]; rfl,
      show ({ code := c, die := 88 + n, count := (s.took n k p x).count (88 + n), ctxs := [(metBy x n p).ctx], job := true } : FaultRec) = r from hr.symm, hhold, hv]
  have hvframe : v = { s with dies := v.dies, rxFlows := tabSet s.rxFlows k (some y) } := by
    rw [hv, hy]
    exact congrArg (fun z : State => z.setDie (88 + n) { (s.took n k p x).die (88 + n) with ledger := l }) (s.took_frame n k p x)
  have hvrx : ∀ j, v.rx? j = if j = k then some y else s.rx? j := fun j => by
    rw [hvframe]
    exact tabGet_tabSet none s.rxFlows k j _
  have hvk : v.rx? k = some y := by rw [hvrx, if_pos rfl]
  have hframe := State.answerRx_frame hvk false (be 2 c ++ be 8 e)
  rw [hrun]
  refine ⟨⟨⟨answeredBy v y false, ?_, ?_, rfl, ?_⟩, fun j hj => ?_, ⟨r, ?_, ?_, ?_, ?_⟩, fun hup => ⟨{ answerOf v y false (be 2 c ++ be 8 e) with stamp := BitVec.ofNat 64 (v.count (88 + y.link)) }, ?_, ?_, ?_, ?_, ?_, ?_⟩⟩, ?_⟩
  · rw [← hk, hframe]; exact tabGet_tabSet_same _ _ _ _
  · rw [hy]; rfl
  · rw [hy]; rfl
  · rw [hframe]
    exact (tabGet_tabSet_ne _ _ _ (by rw [hk]; exact hj)).trans ((hvrx j).trans (if_neg (by rw [hk]; exact hj)))
  · rw [hframe]
    change (v.die (88 + n)).ledger.held = _
    rw [hv, State.die_setDie, hl, (s.took_die n k (88 + n) p x).2]
  · rw [hr]
  · rw [hr]
  · rw [hr]; exact s.took_count n k p x (88 + n)
  · have hvport : (v.port y.link).st = .up := by rw [hvframe, hy]; exact hup
    rw [State.answerRx_packet hvk false _ hvport, hvframe, hy]
    rfl
  · rw [hy]; simp [answerOf, State.packet, metBy, hgroup]
  · rw [hy]; rfl
  · rw [hy]; exact hsrc
  · rw [hy]; exact hflowNo
  · rfl
  · rw [hframe, hvframe]

end

/-! ### The ends of a remote store -/

section
variable {s : State} {n k : Nat} {p : Packet} {x : RxFlow} {a : Nat} {l : List Byte}

theorem farStore_store {b : Nat} (hland : s.landing x a l.length true = .store b) (hguard : s.guardOf x.ctx true a l.length = none) :
    (s.took n k p x).farStore n (metBy x n p) a l = (s.took n k p x).putWords b l := by
  unfold State.farStore
  rw [State.took_landing, hland]
  dsimp only
  rw [show (metBy x n p).ctx = x.ctx from rfl, State.took_guardOf, hguard]

theorem farStore_guarded {b : Nat} {g : Nat × Nat × Nat} (hland : s.landing x a l.length true = .store b) (hguard : s.guardOf x.ctx true a l.length = some g) :
    (s.took n k p x).farStore n (metBy x n p) a l = (s.took n k p x).farGuard x.ctx b g := by
  unfold State.farStore
  rw [State.took_landing, hland]
  dsimp only
  rw [show (metBy x n p).ctx = x.ctx from rfl, State.took_guardOf, hguard]

theorem farStore_cellar {b : Nat} (hland : s.landing x a l.length true = .cellar b) (hpinned : s.pinned b l.length false = false) :
    (s.took n k p x).farStore n (metBy x n p) a l = (s.took n k p x).cellarPut (.context x.ctx) b l := by
  unfold State.farStore
  rw [State.took_landing, hland]
  dsimp only
  rw [State.took_pinned, hpinned]
  rfl

theorem farStore_pinned {b : Nat} (hland : s.landing x a l.length true = .cellar b) (hpinned : s.pinned b l.length false = true) :
    (s.took n k p x).farStore n (metBy x n p) a l = (s.took n k p x).farReject n (metBy x n p) fWeightsPinned b := by
  unfold State.farStore
  rw [State.took_landing, hland]
  dsimp only
  rw [State.took_pinned, hpinned]
  rfl

theorem farStore_score (hland : s.landing x a l.length true = .invalid) :
    (s.took n k p x).farStore n (metBy x n p) a l = (s.took n k p x).farReject n (metBy x n p) fScoreInvalid a := by
  unfold State.farStore
  rw [State.took_landing, hland]

theorem farStore_unmapped (hland : s.landing x a l.length true = .unmapped) :
    (s.took n k p x).farStore n (metBy x n p) a l = (s.took n k p x).farReject n (metBy x n p) fAddrUnmapped a := by
  unfold State.farStore
  rw [State.took_landing, hland]
  rfl

end

/-- A cellar write whose frames all have backing store. -/
theorem State.cellarPut_clear {s : State} {x : Accessor} {a : Nat} {l : List Byte} (hl : l ≠ []) (hlost : s.lostAt a l.length = none) :
    s.cellarPut x a l = (s.claim x a l.length).cellarStore a l := by
  have hempty : l.isEmpty = false := by simpa using hl
  simp [State.cellarPut, hempty, State.claim_lostAt, hlost]

/-- What such a write leaves: the bytes, the owners, the sectors, the counts of the dies, and the errors that whole lines replace. -/
theorem State.cellarPut_frame {s : State} {x : Accessor} {a : Nat} {l : List Byte} (hlost : s.lostAt a l.length = none) :
    s.cellarPut x a l = { s with
      mem := writeBytes s.mem a l, written := (s.cellarPut x a l).written, dies := (s.cellarPut x a l).dies, marks := (s.cellarPut x a l).marks, owners := (s.cellarPut x a l).owners } := by
  by_cases hl : l = []
  · subst hl
    have hrun : s.cellarPut x a [] = s := by unfold State.cellarPut; rfl
    rw [hrun]
    rfl
  · have hclaim : s.claim x a l.length = { s with owners := (s.claim x a l.length).owners } := (s.claim_owners x a l.length).2
    have hstore := (s.claim x a l.length).cellarStore_frame a l
    rw [State.cellarPut_clear hl hlost]
    have howners : ((s.claim x a l.length).cellarStore a l).owners = (s.claim x a l.length).owners := by rw [hstore]
    have hmem : (s.claim x a l.length).mem = s.mem := by rw [hclaim]
    rw [howners, ← hmem]
    exact hstore.trans (congrArg (fun z : State => { z with
      mem := writeBytes (s.claim x a l.length).mem a l, written := ((s.claim x a l.length).cellarStore a l).written, dies := ((s.claim x a l.length).cellarStore a l).dies,
      marks := ((s.claim x a l.length).cellarStore a l).marks }) hclaim)

theorem State.took_mem (s : State) (n k : Nat) (p : Packet) (x : RxFlow) : (s.took n k p x).mem = s.mem := by rw [State.took_frame]

/-- What a remote store to a shelf or loft leaves. -/
theorem landed_took {s : State} {n k b : Nat} {p : Packet} {x : RxFlow} {l : List Byte} (hwf : s.mem.wf = true) :
    landed s ((s.took n k p x).putWords b l) b l ∧ (s.took n k p x).putWords b l = { s with
      rxFlows := ((s.took n k p x).putWords b l).rxFlows, dies := ((s.took n k p x).putWords b l).dies, mem := ((s.took n k p x).putWords b l).mem,
      marks := ((s.took n k p x).putWords b l).marks } := by
  refine ⟨landed_putWords (s.took_mem n k p x) hwf b l, ?_⟩
  have h := congrArg (fun z : State => { z with mem := ((s.took n k p x).putWords b l).mem, marks := ((s.took n k p x).putWords b l).marks }) (s.took_frame n k p x)
  exact h.trans (by rw [State.took_frame]; rfl)

theorem writesLandInPsnOrder : WritesLandInPsnOrder := by
  intro n p s x hn hwf
  refine ⟨fun k hnext hat hguard hland => ?store, fun a l hnext ha hl hat => ?ends, fun k hnext houts hat hguard hland => ?group, fun i g hi hrx hpruned hresync hgroup hdst hg hgap hnack hup => ?gap,
    fun k y hy hunacked hup => ?timer⟩
  case store =>
    obtain ⟨hlanded, hframe⟩ := landed_took (n := n) (k := rxKeyOf p.srcPkg p.flow false) (b := k) (p := p) (x := x) (l := p.data.take 936) hwf
    refine runs_of_need rfl hn ⟨tookPacket_of_rxFlows (n := n) ?_, ?_, ?_⟩ <;> rw [write_next hnext hat, farStore_store hland hguard]
    · rfl
    · exact hlanded
    · exact hframe
  case ends =>
    subst ha hl
    refine ⟨fun b hland hpinned hclear => ?cellar, fun k g hland hguard hroom => ?guarded, fun c e hcase hflow hroom => ?turned⟩
    case cellar =>
      have hrun := (write_next hnext hat).trans (farStore_cellar hland hpinned)
      have hlost : (s.took n (rxKeyOf p.srcPkg p.flow false) p x).lostAt b (p.data.take 936).length = none := by
        rw [State.took_frame]; exact hclear.2.2.2
      have hframe := State.cellarPut_frame (x := .context x.ctx) hlost
      refine runs_of_need rfl hn ⟨tookPacket_of_rxFlows (n := n) ?_, ?_, fun i hi => ?_⟩ <;> rw [hrun, hframe]
      · exact readBytes_writeBytes _ _ _ (by rw [State.took_mem]; exact hwf)
      · exact (readByte_writeBytes_out _ _ _ hi).trans (by rw [State.took_mem])
    case guarded =>
      have hrun := (write_next hnext hat).trans (farStore_guarded hland hguard)
      obtain ⟨m, ⟨r, hheld, hcode, hdie, hcount⟩, hraise⟩ := (s.took n (rxKeyOf p.srcPkg p.flow false) p x).raise_room (keyDie k) fSlotGuard [x.ctx] _
        (State.took_hasRoom hroom n (rxKeyOf p.srcPkg p.flow false) p x)
      have hrun' := hrun.trans hraise
      refine runs_of_need rfl hn ⟨tookPacket_of_rxFlows (n := n) ?_, ⟨r, ?_, hcode, hdie, ?_⟩, ?_⟩
      · rw [hrun']; rfl
      · rw [hrun', State.die_setDie, hheld, (s.took_die _ _ _ p x).2]
      · rw [hcount, s.took_count]
      · rw [hrun']
        exact congrArg (fun z : State => z.setDie (keyDie k) { (s.took n (rxKeyOf p.srcPkg p.flow false) p x).die (keyDie k) with ledger := m })
          (took_only s n (rxKeyOf p.srcPkg p.flow false) p x)
    case turned =>
      have hrun : write n p s = (s.took n (rxKeyOf p.srcPkg p.flow false) p x).farReject n (metBy x n p) c e := by
        obtain ⟨hland, rfl, rfl⟩ | ⟨hland, rfl, rfl⟩ | ⟨hland, hpinned, rfl⟩ := hcase
        · exact (write_next hnext hat).trans (farStore_unmapped hland)
        · exact (write_next hnext hat).trans (farStore_score hland)
        · exact (write_next hnext hat).trans (farStore_pinned hland hpinned)
      obtain ⟨hturned, hframe⟩ := turnedAway_farReject hflow hroom c e
      refine runs_of_need rfl hn ⟨?_, ?_⟩ <;> rw [hrun]
      · exact hturned
      · exact hframe
  case group =>
    obtain ⟨hlanded, hframe⟩ := landed_took (n := n) (k := rxKeyOf p.srcPkg p.flow true) (b := k) (p := p) (x := x) (l := p.data.take 936) hwf
    refine runs_of_need rfl hn ⟨tookPacket_of_rxFlows (n := n) ?_, ?_, ?_⟩ <;> rw [groupWrite_next hnext houts hat, farStore_store hland hguard]
    · rfl
    · exact hlanded
    · exact hframe
  case gap =>
    obtain ⟨f, hexec⟩ : ∃ f, exec i s = need (isPort n) (s.accept n (rxKeyOf p.srcPkg p.flow false) p f) := by
      obtain ⟨rfl, hat⟩ | ⟨rfl, hat⟩ | ⟨rfl, hat⟩ | rfl := hi
      · exact ⟨_, congrArg (need (isPort n)) ((if_neg (not_not_intro hdst)).trans (State.towards_unheld hat _))⟩
      · exact ⟨_, congrArg (need (isPort n)) ((if_neg (not_not_intro hdst)).trans (State.towards_unheld hat _))⟩
      · exact ⟨_, congrArg (need (isPort n)) ((if_neg (not_not_intro hdst)).trans (State.towards_unheld hat _))⟩
      · exact ⟨_, congrArg (need (isPort n)) (if_neg (not_not_intro hdst))⟩
    obtain ⟨k, hk⟩ : ∃ k, k = rxKeyOf p.srcPkg p.flow false := ⟨_, rfl⟩
    obtain ⟨u, hu⟩ : ∃ u, u = s.setRx k (some (metBy x n p)) := ⟨_, rfl⟩
    have huk : u.rx? k = some (metBy x n p) := by rw [hu, State.rx?_setRx, if_pos rfl]
    rw [← hk] at hexec hrx ⊢
    rw [State.accept_gap hrx hpruned hresync hgap hg hnack f, ← hu] at hexec
    have hframe := State.answerRx_frame huk (decide (g < 2 ^ 31)) []
    refine runs_of_need hexec hn ⟨⟨{ answerOf u (metBy x n p) (decide (g < 2 ^ 31)) [] with stamp := BitVec.ofNat 64 (u.count (88 + n)) }, ?_, ?_, rfl, rfl, rfl⟩,
      ⟨answeredBy u (metBy x n p) (decide (g < 2 ^ 31)), ?_, rfl, rfl⟩, ?_⟩
    · rw [State.answerRx_packet huk _ _ (by rw [hu]; exact hup), hu]; rfl
    · change (if decide (g < 2 ^ 31) = true then 7 else if x.group = true then 12 else 6) = _
      rw [hgroup]
      simp
    · rw [hframe]; exact tabGet_tabSet_same _ _ _ _
    · rw [hframe, hu]; rfl
  case timer =>
    have hrun : exec (.ackTimer k) s = need true (s.answerRx k false []) := by
      change need true (match s.rx? k with | some x => if 0 < x.unacked then s.answerRx k false [] else s | none => s) = _
      rw [hy]
      exact congrArg (need true) (if_pos hunacked)
    have hframe := State.answerRx_frame hy false []
    refine runs_of_need hrun rfl ⟨⟨{ answerOf s y false [] with stamp := BitVec.ofNat 64 (s.count (88 + y.link)) }, State.answerRx_packet hy false [] hup, rfl, rfl⟩, ?_, ?_⟩
    · rw [hframe]; exact tabGet_tabSet_same _ _ _ _
    · rw [hframe]

/-! ## Remote reads, atomics and signals (R301, R439 to R442) -/

/-- A read of cellar bytes with no error in them answers them, and counts them. -/
theorem State.cellarGet_clean {s : State} (x : Accessor) {a n : Nat} (hlost : s.lostAt a n = none) (hmarks : s.marksIn a n = []) :
    s.cellarGet x a n = (s.countBytes 0 a n, some (readBytes s.mem a n)) := by
  unfold State.cellarGet
  rw [hlost, State.linesIn_clean hmarks]
  rfl

section
variable {s : State} {n : Nat} {p : Packet} {x : RxFlow}

/-- A load's data go out from a port that is UP. -/
theorem State.answerRead_up (hup : (s.port n).st = .up) (x : RxFlow) (p : Packet) (l : List Byte) :
    ∃ a, s.answerRead n x p l = { s with packetOut := s.packetOut ++ [(n, a)] } ∧ a.ptype = 3 ∧ a.data = l ∧ a.addr = p.addr ∧ a.dstPkg = x.srcPkg ∧ a.flow = p.flow :=
  ⟨_, State.emit_up hup _, rfl, rfl, BitVec.ofNat_toNat 64 p.addr, rfl, rfl⟩

/-- What a load of a packet that is the next of its flow does. -/
def State.loads (s : State) (n : Nat) (x : RxFlow) (p : Packet) : State :=
  match s.landing x (faLow p.addr.toNat) (min 936 p.len) false with
  | .store k => match s.guardOf x.ctx false (faLow p.addr.toNat) (min 936 p.len) with
    | some g => s.farGuard x.ctx k g
    | none => (s.eccRead k (min 936 p.len)).answerRead n x p (readBytes s.mem k (min 936 p.len))
  | .cellar b => match s.cellarGet (.context x.ctx) b (min 936 p.len) with
    | (t, some l) => t.answerRead n x p l
    | (t, none) => t
  | _ => s.farUnmapped n x (faLow p.addr.toNat)

theorem readReq_next (h : nextPacket s p x false) (hat : unheld s n p (faLow p.addr.toNat) (min 936 p.len)) :
    readReq n p s = (s.took n (rxKeyOf p.srcPkg p.flow false) p x).loads n (metBy x n p) p := by
  unfold readReq
  dsimp only
  rw [if_neg (not_not_intro (h.2.2.2.2.2 rfl)), State.towards_unheld hat, State.accept_next h]
  rfl

theorem took_loads_store {k b : Nat} (hland : s.landing x (faLow p.addr.toNat) (min 936 p.len) false = .store b)
    (hguard : s.guardOf x.ctx false (faLow p.addr.toNat) (min 936 p.len) = none) (hmarks : s.marks = []) :
    (s.took n k p x).loads n (metBy x n p) p = (s.took n k p x).answerRead n (metBy x n p) p (readBytes s.mem b (min 936 p.len)) := by
  have hmarksTook : (s.took n k p x).marks = [] := by rw [State.took_frame]; exact hmarks
  unfold State.loads
  rw [State.took_landing, hland]
  dsimp only
  rw [show (metBy x n p).ctx = x.ctx from rfl, State.took_guardOf, hguard]
  dsimp only
  rw [State.eccRead_clean hmarksTook, State.took_mem]

theorem took_loads_cellar {k b : Nat} (hland : s.landing x (faLow p.addr.toNat) (min 936 p.len) false = .cellar b)
    (hclear : clearRead s (.context x.ctx) b (min 936 p.len)) :
    (s.took n k p x).loads n (metBy x n p) p =
      ((s.took n k p x).countBytes 0 b (min 936 p.len)).answerRead n (metBy x n p) p (readBytes s.mem b (min 936 p.len)) := by
  have hlost : (s.took n k p x).lostAt b (min 936 p.len) = none := by rw [State.took_frame]; exact hclear.2.2.2.1
  have hmarks : (s.took n k p x).marksIn b (min 936 p.len) = [] := by rw [State.took_frame]; exact hclear.2.2.2.2
  unfold State.loads
  rw [State.took_landing, hland]
  dsimp only
  rw [State.cellarGet_clean _ hlost hmarks, State.took_mem]

end

/-! ### Atomics (R442) -/

theorem ofLe_lt (l : List Byte) : ofLe l < 256 ^ l.length := by
  induction l with
  | nil => decide
  | cons b l ih =>
    have hb : b.toNat < 256 := b.isLt
    have hpow : 256 ^ (b :: l).length = 256 * 256 ^ l.length := by rw [List.length_cons, Nat.pow_succ, Nat.mul_comm]
    rw [ofLe, hpow]
    omega

theorem readLe_lt (m : Memory) (a : Nat) : readLe m a 8 < 2 ^ 64 := by
  have h := ofLe_lt (readBytes m a 8)
  rw [length_readBytes] at h
  exact h

theorem fieldAt_op {op : Nat} (h : op < 256) (l : List Byte) : fieldAt (le 8 op ++ l) 0 1 = op := by
  change (BitVec.ofNat 8 op).toNat + 256 * 0 = op
  rw [BitVec.toNat_ofNat]
  omega

theorem fieldAt_operand (op : Nat) {v : Nat} (h : v < 2 ^ 64) : fieldAt (le 8 op ++ le 8 v) 8 8 = v := by
  unfold fieldAt slice
  rw [List.drop_left' (length_le 8 op), List.take_of_length_le (by rw [length_le])]
  exact ofLe_le 8 v h

/-- The one request of an atomic packet. -/
theorem atomicOne_word {u : State} {op v : Nat} (c a : Nat) (hop : op < 256) (hv : v < 2 ^ 64) (hlost : u.lostAt a 8 = none) (hmarks : u.marksIn a 8 = []) :
    u.atomicOne c a (le 8 op ++ le 8 v) 0 =
      (u.countBytes 0 a 8).cellarPut (.context c) a (le 8 (atomicValue op (BitVec.ofNat 64 (readLe u.mem a 8)) (BitVec.ofNat 64 v)).toNat) := by
  unfold State.atomicOne
  rw [Nat.mul_zero, Nat.add_zero, Nat.zero_add, State.cellarGet_clean _ hlost hmarks, fieldAt_op hop, fieldAt_operand op hv]
  rfl

/-- What an atomic on one mapped word of the cellar does. -/
theorem State.atomics_word {u : State} {op v a : Nat} (c : Nat) (hlocate : u.locate a 8 = .cellar a) (hmapped : u.cellarMapped a 8 = true)
    (hmay : u.mayRead (.context c) a 8 = true) (h8 : a % 8 = 0) (hop : op < 256) :
    u.atomics c a (le 8 op ++ le 8 v) = if atomicOk op then (if u.pinned a 8 false then .pinned else .ok (u.atomicOne c a (le 8 op ++ le 8 v) 0)) else .badOp := by
  have hlen : (le 8 op ++ le 8 v).length / 16 = 1 := by rw [List.length_append, length_le, length_le]
  have hall : ((List.range 1).all fun i => atomicOk (fieldAt (le 8 op ++ le 8 v) (16 * i) 1)) = atomicOk op := by
    rw [List.range_one, List.all_cons, List.all_nil, Bool.and_true, Nat.mul_zero, fieldAt_op hop]
  unfold State.atomics
  dsimp only
  rw [hlen, Nat.mul_one, hlocate]
  dsimp only
  rw [hall, if_neg (by rw [hmapped, hmay, h8]; decide)]
  cases atomicOk op <;> rfl

theorem State.took_atomicsWord {s : State} {n k : Nat} {p : Packet} {x : RxFlow} {op v a : Nat} (c : Nat) (hlocate : s.locate a 8 = .cellar a) (hmapped : s.cellarMapped a 8 = true)
    (hmay : s.mayRead (.context c) a 8 = true) (h8 : a % 8 = 0) (hop : op < 256) :
    (s.took n k p x).atomics c a (le 8 op ++ le 8 v) =
      if atomicOk op then (if s.pinned a 8 false then .pinned else .ok ((s.took n k p x).atomicOne c a (le 8 op ++ le 8 v) 0)) else .badOp := by
  rw [State.atomics_word c (by rw [State.took_frame]; exact hlocate) (by rw [State.took_frame]; exact hmapped) (by rw [State.took_frame]; exact hmay) h8 hop, State.took_pinned]

/-- What an atomic packet that is the next of its flow does. -/
def State.performs (s : State) (n : Nat) (x : RxFlow) (a m : Nat) (l : List Byte) : State :=
  if !within a m x.landBase x.landBytes then s.farUnmapped n x a
  else match s.atomics x.ctx a l with
    | .ok t => t
    | .badOp => s.farReject n x fScoreInvalid a
    | .unmapped => s.farUnmapped n x a
    | .pinned => s.farReject n x fWeightsPinned a

theorem atomic_next {s : State} {n a : Nat} {p : Packet} {x : RxFlow} (h : nextPacket s p x false) (ha : bits p.addr.toNat 0 47 = a) (hlen : p.data.length = 16) (hat : unheld s n p a 8) :
    atomic n p s = (s.took n (rxKeyOf p.srcPkg p.flow false) p x).performs n (metBy x n p) a 8 p.data := by
  subst ha
  unfold atomic
  dsimp only
  rw [hlen, if_neg (not_not_intro (h.2.2.2.2.2 rfl)), State.towards_unheld hat, State.accept_next h]
  rfl

theorem atomicValue_add {w v : Nat} : (atomicValue 1 (BitVec.ofNat 64 w) (BitVec.ofNat 64 v)).toNat = (w + v) % 2 ^ 64 := by
  change (BitVec.ofNat 64 w + BitVec.ofNat 64 v).toNat = _
  rw [← BitVec.ofNat_add, BitVec.toNat_ofNat]

theorem toNat_ofNat_word {w : Nat} (h : w < 2 ^ 64) : (BitVec.ofNat 64 w).toNat = w := by rw [BitVec.toNat_ofNat, Nat.mod_eq_of_lt h]

section
variable {w v : Nat} (hw : w < 2 ^ 64) (hv : v < 2 ^ 64)
include hw hv

theorem atomicValue_max : (atomicValue 6 (BitVec.ofNat 64 w) (BitVec.ofNat 64 v)).toNat = max w v := by
  change (if (BitVec.ofNat 64 w).toNat < (BitVec.ofNat 64 v).toNat then BitVec.ofNat 64 v else BitVec.ofNat 64 w).toNat = _
  rw [apply_ite BitVec.toNat, toNat_ofNat_word hw, toNat_ofNat_word hv]
  split <;> omega

theorem atomicValue_min : (atomicValue 7 (BitVec.ofNat 64 w) (BitVec.ofNat 64 v)).toNat = min w v := by
  change (if (BitVec.ofNat 64 v).toNat < (BitVec.ofNat 64 w).toNat then BitVec.ofNat 64 v else BitVec.ofNat 64 w).toNat = _
  rw [apply_ite BitVec.toNat, toNat_ofNat_word hw, toNat_ofNat_word hv]
  split <;> omega

theorem atomicValue_and : (atomicValue 3 (BitVec.ofNat 64 w) (BitVec.ofNat 64 v)).toNat = Nat.land w v := by
  change (BitVec.ofNat 64 w &&& BitVec.ofNat 64 v).toNat = _
  rw [BitVec.toNat_and, toNat_ofNat_word hw, toNat_ofNat_word hv]
  rfl

end

/-! ### Signals (R441) -/

/-- What a SIGNAL that is the next of its flow does. -/
def State.signals (s : State) (n : Nat) (x : RxFlow) (p : Packet) : State :=
  if s.quenchedCtx x.ctx then s
  else match s.signalTo x.ctx (bits p.addr.toNat 0 16) n with
    | none => s.farUnmapped n x p.addr.toNat
    | some h => { s with tallyMsgs := s.tallyMsgs ++
        [{ ctx := x.ctx, home := h.1, index := h.2, vid := bits p.addr.toNat 0 16, act := .inc, n := max 1 (fieldAt p.data 0 4), src := .fabric p.srcPkg, rank := 4 * (88 + n) }] }

section
variable {s : State} {n : Nat} {p : Packet} {x : RxFlow}

theorem signal_next (h : nextPacket s p x false) : signal n p s = (s.took n (rxKeyOf p.srcPkg p.flow false) p x).signals n (metBy x n p) p := by
  unfold signal
  rw [if_neg (not_not_intro (h.2.2.2.2.2 rfl)), State.accept_next h]
  rfl

theorem took_quenchedCtx (k c : Nat) : (s.took n k p x).quenchedCtx c = s.quenchedCtx c := by rw [State.took_frame]; rfl

theorem took_signalTo (k c v m : Nat) : (s.took n k p x).signalTo c v m = s.signalTo c v m := by rw [State.took_frame]; rfl

theorem signal_quenched (h : nextPacket s p x false) (hquenched : s.quenchedCtx x.ctx = true) : signal n p s = s.took n (rxKeyOf p.srcPkg p.flow false) p x := by
  rw [signal_next h]
  exact if_pos ((took_quenchedCtx _ _).trans hquenched)

theorem signal_unnamed (h : nextPacket s p x false) (hlive : s.quenchedCtx x.ctx = false) (hnone : s.signalTo x.ctx (bits p.addr.toNat 0 16) n = none) :
    signal n p s = (s.took n (rxKeyOf p.srcPkg p.flow false) p x).farReject n (metBy x n p) fAddrUnmapped p.addr.toNat := by
  rw [signal_next h]
  unfold State.signals
  rw [show (metBy x n p).ctx = x.ctx from rfl, took_quenchedCtx, hlive, took_signalTo, hnone]
  rfl

theorem signal_inc (h : nextPacket s p x false) (hlive : s.quenchedCtx x.ctx = false) {home : Nat × Nat} (hto : s.signalTo x.ctx (bits p.addr.toNat 0 16) n = some home) :
    ∃ m : TallyMsg, (m.act = .inc ∧ m.home = home.1 ∧ m.index = home.2 ∧ m.n = max 1 (fieldAt p.data 0 4)) ∧
      signal n p s = { s.took n (rxKeyOf p.srcPkg p.flow false) p x with tallyMsgs := s.tallyMsgs ++ [m] } := by
  refine ⟨{ ctx := x.ctx, home := home.1, index := home.2, vid := bits p.addr.toNat 0 16, act := .inc, n := max 1 (fieldAt p.data 0 4), src := .fabric p.srcPkg,
            rank := 4 * (88 + n) }, ⟨rfl, rfl, rfl, rfl⟩, ?_⟩
  have hmsgs : (s.took n (rxKeyOf p.srcPkg p.flow false) p x).tallyMsgs = s.tallyMsgs := by rw [State.took_frame]
  rw [signal_next h, ← hmsgs]
  unfold State.signals
  rw [show (metBy x n p).ctx = x.ctx from rfl, took_quenchedCtx, hlive, took_signalTo, hto]
  rfl

end

/-! ### The data of a load (R439) -/

theorem State.modFlow_some {s : State} {k : Nat} {f : Flow} (h : s.flow? k = some f) (g : Flow → Flow) : s.modFlow k g = s.setFlow k (some (g f)) := by
  unfold State.modFlow
  rw [h]

/-- The place of a load's data on a compute die is still open to its context (R190, R193). -/
def State.openFor (s : State) (c : Nat) : Option Nat → Nat → Bool
  | some k, _ => s.shelfOpen c k true
  | none, d => s.loftOpen c d true

/-- The data of a load that still waits go to their place on a compute die at once. -/
theorem readData_lands {s : State} {n : Nat} {p : Packet} {f : Flow} {l : Load} (hdst : p.dstPkg = s.pkgId) (hf : s.flow? p.flow = some f)
    (hl : (f.loads.find? fun l => l.addr == p.addr.toNat && l.len == p.data.length) = some l) (hbase : computeBase ≤ l.dest) (hat : unheld s n p (s.localOf l.dest) p.data.length)
    (hopen : s.openFor f.ctx (keyCore l.dest) (keyDie l.dest) = true) :
    readData n p s = ((s.setFlow p.flow (some { f with loads := f.loads.erase l })).putWords l.dest p.data).answered l.core := by
  have hfar : ¬l.dest < computeBase := Nat.not_lt.mpr hbase
  unfold readData
  rw [if_neg (not_not_intro hdst), hf]
  dsimp only
  rw [hl]
  dsimp only
  rw [if_neg hfar, State.towards_unheld hat, State.modFlow_some hf]
  unfold State.loadLands
  rw [if_neg hfar]
  cases hcore : keyCore l.dest with
  | some k =>
    rw [hcore] at hopen
    exact congrArg (fun z : State => z.answered l.core) (if_pos hopen)
  | none =>
    rw [hcore] at hopen
    exact congrArg (fun z : State => z.answered l.core) (if_pos hopen)

theorem State.putWords_frame (s : State) (k : Nat) (l : List Byte) : s.putWords k l = { s with mem := (s.putWords k l).mem, marks := (s.putWords k l).marks } := rfl

theorem State.answered_core {s : State} {c : Nat} (hc : isCore c = true) {e : QEntry} {r : List QEntry} (h : (s.core c).mover = e :: r) :
    ((s.answered c).core c).mover = { e with waitAcks := e.waitAcks - 1 } :: r ∧ s.answered c = { s with cores := (s.answered c).cores } := by
  unfold State.answered
  rw [if_pos hc]
  refine ⟨?_, rfl⟩
  rw [State.core_modCore, h]

theorem remoteReadsAtomicsAndSignals : RemoteReadsAtomicsAndSignals := by
  intro n p s x hn hwf hmarks
  refine ⟨fun b hnext hat hland hclear hup => ?readCellar, fun k hnext hat hguard hland hup => ?readStore, fun f l hdst hf hl hbase hat hopen hcore e r hmover => ?readData,
    fun op v a w hnext hdata hv ha hwithin h8 hat hlocate hmapped hmay hlost hw hop => ⟨fun hok hpinned => ?atomicOk, fun hbad hflow hroom => ?atomicBad⟩,
    fun hnext hquenched => ?quenched, fun hnext hlive hnone hflow hroom => ?unnamed, fun l e h hnext hlive hlaunch hfind hkind hhome => ?inc⟩
  case readCellar =>
    obtain ⟨u, hu⟩ : ∃ u, u = (s.took n (rxKeyOf p.srcPkg p.flow false) p x).countBytes 0 b (min 936 p.len) := ⟨_, rfl⟩
    have hframe : u = { s.took n (rxKeyOf p.srcPkg p.flow false) p x with dies := u.dies } := by rw [hu]; exact State.countBytes_diesOnly _ _ _ _
    have huup : (u.port n).st = .up := by rw [hframe, State.took_frame]; exact hup
    obtain ⟨o, ho, htype, hdata, haddr, hdst, hflow⟩ := State.answerRead_up huup (metBy x n p) p (readBytes s.mem b (min 936 p.len))
    have hrun : readReq n p s = { u with packetOut := u.packetOut ++ [(n, o)] } := by
      rw [readReq_next hnext hat, took_loads_cellar hland hclear, ← hu, ho]
    refine runs_of_need rfl hn ⟨tookPacket_of_rxFlows (n := n) ?_, ⟨o, ?_, htype, hdata, haddr, hdst, hflow⟩, ?_⟩ <;> rw [hrun]
    · rw [hframe]
    · rw [hframe, State.took_frame]
    · rw [hframe, State.took_frame]
  case readStore =>
    have hTup : ((s.took n (rxKeyOf p.srcPkg p.flow false) p x).port n).st = .up := by rw [State.took_frame]; exact hup
    obtain ⟨o, ho, htype, hdata, haddr, hdst, hflow⟩ := State.answerRead_up hTup (metBy x n p) p (readBytes s.mem k (min 936 p.len))
    have hrun := (readReq_next hnext hat).trans ((took_loads_store hland hguard hmarks).trans ho)
    refine runs_of_need rfl hn ⟨tookPacket_of_rxFlows (n := n) ?_, ⟨o, ?_, htype, hdata, haddr, hdst, hflow⟩, ?_⟩ <;> rw [hrun]
    · rw [State.took_frame]
    · rw [State.took_frame]
  case readData =>
    obtain ⟨u, hu⟩ : ∃ u, u = (s.setFlow p.flow (some { f with loads := f.loads.erase l })).putWords l.dest p.data := ⟨_, rfl⟩
    have hframe : u = { s with flows := tabSet s.flows p.flow (some { f with loads := f.loads.erase l }), mem := u.mem, marks := u.marks } := by
      rw [hu]; exact State.putWords_frame _ _ _
    have hlanded : landed s u l.dest p.data := by
      rw [hu]; exact landed_putWords (s := s) (u := s.setFlow p.flow (some { f with loads := f.loads.erase l })) rfl hwf l.dest p.data
    have humover : (u.core l.core).mover = e :: r := by rw [hframe]; exact hmover
    obtain ⟨hmoverDone, hcores⟩ := State.answered_core hcore humover
    have hopen' : s.openFor f.ctx (keyCore l.dest) (keyDie l.dest) = true := by
      cases hkc : keyCore l.dest with
      | some k => rw [hkc] at hopen; exact hopen
      | none => rw [hkc] at hopen; exact hopen
    have hrun : readData n p s = u.answered l.core := by rw [hu]; exact readData_lands hdst hf hl hbase hat hopen'
    refine runs_of_need rfl hn ⟨?_, ?_, ?_, ?_⟩ <;> rw [hrun]
    · rw [hcores]; exact hlanded
    · exact hmoverDone
    · rw [hcores, hframe]; exact tabGet_tabSet_same _ _ _ _
    · rw [hcores, hframe]
  case atomicOk =>
    have hlen : p.data.length = 16 := by rw [hdata, List.length_append, length_le, length_le]
    obtain ⟨T, hT⟩ : ∃ T, T = s.took n (rxKeyOf p.srcPkg p.flow false) p x := ⟨_, rfl⟩
    have hTmem : T.mem = s.mem := by rw [hT, State.took_mem]
    have hTlost : T.lostAt a 8 = none := by rw [hT, State.took_frame]; exact hlost
    have hTmarks : T.marksIn a 8 = [] := by rw [hT, State.took_frame]; unfold State.marksIn; rw [hmarks]; rfl
    obtain ⟨X, hX⟩ : ∃ X, X = atomicValue op (BitVec.ofNat 64 w) (BitVec.ofNat 64 v) := ⟨_, rfl⟩
    obtain ⟨u, hu⟩ : ∃ u, u = T.countBytes 0 a 8 := ⟨_, rfl⟩
    have huT : u = { T with dies := u.dies } := by rw [hu]; exact State.countBytes_diesOnly _ _ _ _
    have hulost : u.lostAt a (le 8 X.toNat).length = none := by rw [huT, length_le]; exact hTlost
    have hrun : atomic n p s = u.cellarPut (.context x.ctx) a (le 8 X.toNat) := by
      rw [atomic_next hnext ha hlen hat, hdata]
      unfold State.performs
      rw [if_neg (by rw [show within a 8 (metBy x n p).landBase (metBy x n p).landBytes = true from hwithin]; decide), show (metBy x n p).ctx = x.ctx from rfl,
        State.took_atomicsWord x.ctx hlocate hmapped hmay h8 hop, if_pos hok, if_neg (by rw [hpinned]; decide)]
      dsimp only
      rw [← hT, atomicOne_word x.ctx a hop hv hTlost hTmarks, hTmem, hw, ← hX, ← hu]
    have hframe := State.cellarPut_frame (x := .context x.ctx) hulost
    have hmem : (atomic n p s).mem = writeBytes s.mem a (le 8 X.toNat) := by rw [hrun, hframe, huT, hTmem]
    have hword : readLe (atomic n p s).mem a 8 = X.toNat := by
      have h := readBytes_writeBytes (le 8 X.toNat) s.mem a hwf
      rw [length_le] at h
      rw [hmem, readLe, h]
      exact ofLe_le 8 _ X.isLt
    have hwlt : w < 2 ^ 64 := hw ▸ readLe_lt s.mem a
    refine runs_of_need rfl hn ⟨tookPacket_of_rxFlows (n := n) ?_, ?_, fun h1 => ?_, fun h6 => ?_, fun h7 => ?_, fun h3 => ?_, fun b hb => ?_⟩
    · rw [hrun, hframe, huT, hT]
    · rw [hword, hX]
    · rw [hword, hX, h1]; exact atomicValue_add
    · rw [hword, hX, h6]; exact atomicValue_max hwlt hv
    · rw [hword, hX, h7]; exact atomicValue_min hwlt hv
    · rw [hword, hX, h3]; exact atomicValue_and hwlt hv
    · rw [hmem]; exact readByte_writeBytes_out _ _ _ (by rw [length_le]; exact hb)
  case atomicBad =>
    have hlen : p.data.length = 16 := by rw [hdata, List.length_append, length_le, length_le]
    have hrun : atomic n p s = (s.took n (rxKeyOf p.srcPkg p.flow false) p x).farReject n (metBy x n p) fScoreInvalid a := by
      rw [atomic_next hnext ha hlen hat, hdata]
      unfold State.performs
      rw [if_neg (by rw [show within a 8 (metBy x n p).landBase (metBy x n p).landBytes = true from hwithin]; decide), show (metBy x n p).ctx = x.ctx from rfl,
        State.took_atomicsWord x.ctx hlocate hmapped hmay h8 hop, if_neg (by rw [hbad]; decide)]
    obtain ⟨hturned, hframe⟩ := turnedAway_farReject hflow hroom fScoreInvalid a
    refine runs_of_need rfl hn ⟨?_, ?_⟩ <;> rw [hrun]
    · exact hturned
    · rw [hframe]
  case quenched =>
    refine runs_of_need rfl hn ⟨tookPacket_of_rxFlows (n := n) ?_, ?_⟩ <;> rw [signal_quenched hnext hquenched]
    exact took_only _ _ _ _ _
  case unnamed =>
    obtain ⟨hturned, hframe⟩ := turnedAway_farReject hflow hroom fAddrUnmapped p.addr.toNat
    refine runs_of_need rfl hn ⟨?_, ?_⟩ <;> rw [signal_unnamed hnext hlive hnone]
    · exact hturned
    · exact hframe
  case inc =>
    have hto : s.signalTo x.ctx (bits p.addr.toNat 0 16) n = some h := by
      unfold State.signalTo
      rw [hlaunch]
      change ((findTally l (bits p.addr.toNat 0 16)).filter fun e => e.kind == 0).bind _ = _
      rw [hfind, Option.filter_some_pos (by simpa using hkind)]
      exact hhome
    obtain ⟨m, ⟨hact, hhomeM, hindex, hn'⟩, hrun⟩ := signal_inc hnext hlive hto
    refine runs_of_need rfl hn ⟨tookPacket_of_rxFlows (n := n) ?_, ⟨m, ?_, hact, hhomeM, hindex, hn'⟩, ?_⟩ <;> rw [hrun]
    exact congrArg (fun z : State => { z with tallyMsgs := s.tallyMsgs ++ [m] }) (took_only s n (rxKeyOf p.srcPkg p.flow false) p x)

/-- Settles O35: a packet that is the next of its flow is performed in a state that differs from the present one in what its acceptance counts alone. -/
theorem remoteOperationsLand : Obligations.RemoteOperationsLand := ⟨writesLandInPsnOrder, remoteReadsAtomicsAndSignals⟩

end Sys2Proof.Machine

end

section
/-! SUPPORT. Proofs about path set-up, groups and the time tree (R26, R434, R450, R453, R455, R462 to R464, R466 to R468, R470, R544). -/

namespace Sys2Proof.Machine

/-! ## Big-endian fields (R593) -/

theorem length_be (n v : Nat) : (be n v).length = n := by rw [be, List.length_reverse, length_le]

theorem ofBe_reverse (l : List Byte) : ofBe l.reverse = ofLe l := by
  induction l with
  | nil => rfl
  | cons b l ih =>
    rw [List.reverse_cons]
    unfold ofBe at ih ⊢
    rw [List.foldl_append, ih, ofLe]
    change ofLe l * 256 + b.toNat = _
    omega

theorem ofBe_be {n v : Nat} (h : v < 256 ^ n) : ofBe (be n v) = v := by
  rw [be, ofBe_reverse]
  exact ofLe_le n v h

theorem be_mod (n v : Nat) : be n (v % 256 ^ n) = be n v := by
  have hle : ∀ n v, le n (v % 256 ^ n) = le n v := by
    intro n
    induction n with
    | zero => intro v; rfl
    | succ n ih =>
      intro v
      have hbyte : BitVec.ofNat 8 (v % 256 ^ (n + 1)) = BitVec.ofNat 8 v := by
        apply BitVec.eq_of_toNat_eq
        rw [BitVec.toNat_ofNat, BitVec.toNat_ofNat]
        exact Nat.mod_mod_of_dvd v (Dvd.intro_left (256 ^ n) (Nat.pow_succ ..).symm)
      have hrest : v % 256 ^ (n + 1) / 256 = v / 256 % 256 ^ n := by
        rw [Nat.pow_succ, Nat.mul_comm, Nat.mod_mul_right_div_self]
      rw [le, le, hbyte, hrest, ih]
  rw [be, be, hle]

/-- A field that lies within a list is read as it stands there. -/
theorem slice_within {a b c : List Byte} {o n : Nat} (ha : a.length = o) (hb : b.length = n) : slice (a ++ b ++ c) o n = b := by
  unfold slice
  rw [List.append_assoc, List.drop_left' ha, List.take_left' hb]
  dsimp only
  rw [hb, Nat.sub_self, List.replicate_zero, List.append_nil]

theorem pad968_eq {l : List Byte} (h : l.length ≤ 968) : pad968 l = l ++ List.replicate (968 - l.length) 0 := by
  unfold pad968 slice
  rw [List.drop_zero, List.take_of_length_le h]

/-! ## Time messages (R466) -/

theorem length_timeBytes (kind : Nat) (m : TimeMsg) : (timeBytes kind m).length = 32 := by simp [timeBytes, length_be]

section
variable (kind : Nat) (m : TimeMsg)

theorem timeBytes_kind (h : kind < 2 ^ 16) : ofBe (slice (pad968 (timeBytes kind m)) 0 2) = kind := by
  rw [pad968_eq (by rw [length_timeBytes]; decide)]
  unfold timeBytes
  simp only [List.append_assoc]
  rw [← List.nil_append (be 2 kind ++ _), ← List.append_assoc, slice_within (o := 0) rfl (length_be 2 kind)]
  exact ofBe_be h

theorem timeBytes_t1 : ofBe (slice (pad968 (timeBytes kind m)) 8 8) = m.t1.toNat := by
  rw [pad968_eq (by rw [length_timeBytes]; decide)]
  unfold timeBytes
  rw [List.append_assoc (_ ++ be 8 m.t1.toNat), List.append_assoc (_ ++ be 8 m.t1.toNat), slice_within (by simp [length_be]) (length_be _ _)]
  exact ofBe_be m.t1.isLt

theorem timeBytes_t2 : ofBe (slice (pad968 (timeBytes kind m)) 16 8) = m.t2.toNat := by
  rw [pad968_eq (by rw [length_timeBytes]; decide)]
  unfold timeBytes
  rw [List.append_assoc (_ ++ be 8 m.t2.toNat), slice_within (by simp [length_be]) (length_be _ _)]
  exact ofBe_be m.t2.isLt

theorem timeBytes_t3 : ofBe (slice (pad968 (timeBytes kind m)) 24 8) = m.t3.toNat := by
  rw [pad968_eq (by rw [length_timeBytes]; decide)]
  unfold timeBytes
  rw [slice_within (by simp [length_be]) (length_be _ _)]
  exact ofBe_be m.t3.isLt

end

/-! ### A frame that injection does not take goes out at once (R414, R432) -/

theorem State.port_setPort (s : State) (p q : Nat) (x : Port) : (s.setPort p x).port q = if q = p then x else s.port q := tabGet_tabSet _ s.ports p q x

/-- From `s` to `t` frames have gone out by a port, which keeps its replay buffer; the time tree is as it was. -/
def framesOut (s t : State) : Prop := t.time = s.time ∧ ∀ q, (t.port q).replay = (s.port q).replay

theorem framesOut_refl (s : State) : framesOut s s := ⟨rfl, fun _ => rfl⟩

theorem framesOut_trans {s t u : State} (hst : framesOut s t) (htu : framesOut t u) : framesOut s u := ⟨htu.1.trans hst.1, fun q => (htu.2 q).trans (hst.2 q)⟩

theorem framesOut_modPort (s : State) (p : Nat) {f : Port → Port} (h : ∀ x, (f x).replay = x.replay) : framesOut s (s.modPort p f) := by
  refine ⟨rfl, fun q => ?_⟩
  by_cases hq : q = p
  · subst hq; rw [State.port_modPort, h]
  · rw [State.port_modPort_ne _ _ hq]

theorem spendFctr_replay (f : Frame) (x : Port) : (spendFctr f x).replay = x.replay := by
  unfold spendFctr
  split
  · rfl
  · split <;> rfl

theorem framesOut_onLanes (s : State) (p : Nat) (f : Frame) : framesOut s (s.onLanes p f) := by
  unfold State.onLanes
  split
  · exact framesOut_refl s
  · exact framesOut_modPort s p (f := fun x => { spendFctr f x with owed := [0, 0, 0, 0] }) fun x => spendFctr_replay f x

theorem framesOut_sendReordered (s : State) (p : Nat) : framesOut s (s.sendReordered p) := by
  unfold State.sendReordered
  split
  · exact framesOut_trans (framesOut_modPort s p (f := fun x => { x with reordered := none }) fun _ => rfl) (framesOut_onLanes _ _ _)
  · exact framesOut_refl s

/-- A frame of another type than DATA is not injected into (R432). -/
theorem State.injects_other (s : State) (p : Nat) (rx : Bool) {f : Frame} (h : f.ftype ≠ 1) : s.injects p rx f = (s, false) := by
  have htype : (f.ftype == 1) = false := by simpa using h
  unfold State.injects
  dsimp only
  rw [htype, Bool.and_false, Bool.false_and]
  rfl

theorem framesOut_sendRaw (s : State) (p : Nat) {f : Frame} (h : f.ftype ≠ 1) : framesOut s (s.sendRaw p f) := by
  unfold State.sendRaw
  rw [State.injects_other s p false h]
  exact framesOut_trans (framesOut_onLanes s p (s.dress p f)) (framesOut_sendReordered _ p)

/-- A sequenced frame stays in the replay buffer (R414, R415). -/
theorem State.sendSeq_replay (s : State) (p cls len : Nat) (payload : List Byte) {ftype : Nat} (h : ftype ≠ 1) :
    (s.sendSeq p ftype cls len payload).time = s.time ∧
    ((s.sendSeq p ftype cls len payload).port p).replay = (s.port p).replay ++ [s.newFrame p ftype cls len (s.port p).txSeq payload] := by
  obtain ⟨u, hu⟩ : ∃ u, u = s.modPort p fun x => { x with
    txSeq := x.txSeq + 1, replay := x.replay ++ [s.newFrame p ftype cls len (s.port p).txSeq payload], credits := x.credits.set cls (x.credits.getD cls 0 - 1) } := ⟨_, rfl⟩
  have hrun : s.sendSeq p ftype cls len payload = (u.perfAdd (88 + p) 0 1).sendRaw p (s.newFrame p ftype cls len (s.port p).txSeq payload) := by rw [hu]; rfl
  have hcount : u.perfAdd (88 + p) 0 1 = { u with dies := (u.perfAdd (88 + p) 0 1).dies } := State.perfAdd_diesOnly u _ _ _
  have hout := framesOut_sendRaw (u.perfAdd (88 + p) 0 1) p (f := s.newFrame p ftype cls len (s.port p).txSeq payload) h
  rw [hrun, hout.1, hout.2 p, hcount]
  refine ⟨by rw [hu]; rfl, ?_⟩
  change (u.port p).replay = _
  rw [hu, State.port_modPort]

/-! ### Offsets reach every die (R467, R468, R470) -/

theorem mem_dieList {d : Nat} : d ∈ dieList ↔ isDie d = true := by simp [dieList, isDie]

/-- One update of its time base for each die. -/
def State.eachTb (s : State) (f : TimeBase → TimeBase) : State := each dieList s fun s d => s.modDie d fun x => { x with tb := f x.tb }

theorem State.eachTb_die (s : State) (f : TimeBase → TimeBase) {d : Nat} (h : isDie d = true) : (s.eachTb f).die d = { s.die d with tb := f (s.die d).tb } := by
  have hdie := each_modDie (fun x => { x with tb := f x.tb }) dieList List.nodup_range s d
  rw [if_pos (mem_dieList.mpr h)] at hdie
  exact hdie

theorem State.eachTb_diesOnly (s : State) (f : TimeBase → TimeBase) : diesOnly s (s.eachTb f) :=
  each_keeps (diesOnly s) _ (fun t d h => diesOnly_trans h (diesOnly_modDie t d _)) _ s rfl

theorem State.setAligned_eq (s : State) (v : Bool) : s.setAligned v = s.eachTb fun t => { t with aligned := v } := rfl

theorem State.writeSlew_eq (s : State) (i : Int) : s.writeSlew i = s.eachTb (startSlew i s.nextBoundary) := rfl

/-- What `stepCount` does to a time base (R467). -/
def stepTb (i : Int) (t : TimeBase) : TimeBase :=
  if 0 < i then { t with disp := t.disp + i, expect := t.expect + i } else { t with hold := t.hold + i.natAbs, expect := t.expect + i }

/-- The step of one die's count, with its entry. -/
def State.stepDie (s : State) (i : Int) (d : Nat) : State :=
  (s.note d 0x03 467 noCtx (le 8 (ofSigned 64 i) ++ le 8 (s.count d))).modDie d fun x => { x with tb := stepTb i x.tb }

theorem State.stepDie_tb (s : State) (i : Int) (d e : Nat) : ((s.stepDie i d).die e).tb = if e = d then stepTb i (s.die e).tb else (s.die e).tb := by
  unfold State.stepDie
  by_cases he : e = d
  · subst he
    rw [State.die_modDie, if_pos rfl]
    dsimp only
    rw [State.note_tb]
  · rw [State.die_modDie_ne _ _ he, State.note_die_ne _ _ _ _ _ he, if_neg he]

theorem State.stepCount_eq (s : State) (i : Int) : s.stepCount i = each dieList s fun s d => s.stepDie i d := rfl

theorem State.stepCount_diesOnly (s : State) (i : Int) : diesOnly s (s.stepCount i) := by
  rw [State.stepCount_eq]
  exact each_keeps (diesOnly s) _ (fun t d h => diesOnly_trans h (diesOnly_trans (ledgersOnly_note t d _ _ _ _).1 (diesOnly_modDie _ d _))) _ s rfl

theorem each_stepDie_tb (i : Int) {l : List Nat} (hl : l.Nodup) (s : State) (e : Nat) :
    ((each l s fun s d => s.stepDie i d).die e).tb = if e ∈ l then stepTb i (s.die e).tb else (s.die e).tb := by
  induction l generalizing s with
  | nil => rfl
  | cons d l ih =>
    obtain ⟨hd, hl⟩ := List.nodup_cons.mp hl
    rw [each_cons, ih hl, State.stepDie_tb]
    by_cases he : e = d
    · subst he; rw [if_neg hd, if_pos rfl, if_pos List.mem_cons_self]
    · rw [if_neg he]; simp only [List.mem_cons, he, false_or]

theorem State.stepCount_tb (s : State) (i : Int) {d : Nat} (h : isDie d = true) : ((s.stepCount i).die d).tb = stepTb i (s.die d).tb := by
  rw [State.stepCount_eq, each_stepDie_tb i (l := dieList) List.nodup_range, if_pos (mem_dieList.mpr h)]

/-! ### The exchanges -/

/-- What the end of an exchange leaves: GOOD, DEPTH and the root, and ALIGNED of the dies. -/
def alignsOnly (s t : State) : Prop :=
  (t = { s with time := t.time, dies := t.dies } ∧ t.time = { s.time with good := t.time.good, depth := t.time.depth, rootPkg := t.time.rootPkg }) ∧
  ∀ d, isDie d = true → ∃ v, (t.die d).tb = { (s.die d).tb with aligned := v }

theorem alignsOnly_setAligned (s : State) (good depth : Nat) (root : Option Nat) (v : Bool) :
    alignsOnly s (({ s with time := { s.time with good := good, depth := depth, rootPkg := root } } : State).setAligned v) := by
  obtain ⟨u, hu⟩ : ∃ u, u = ({ s with time := { s.time with good := good, depth := depth, rootPkg := root } } : State) := ⟨_, rfl⟩
  have hframe : diesOnly u (u.setAligned v) := by rw [State.setAligned_eq]; exact State.eachTb_diesOnly _ _
  have htime : (u.setAligned v).time = u.time := by rw [hframe]
  rw [← hu]
  refine ⟨⟨?_, ?_⟩, fun d hd => ⟨v, ?_⟩⟩
  · rw [htime]; exact hframe.trans (by rw [hu])
  · rw [htime, hu]
  · rw [State.setAligned_eq, State.eachTb_die _ _ hd, hu]
    rfl

theorem alignsOnly_good (s : State) (good : Nat) : alignsOnly s { s with time := { s.time with good := good } } :=
  ⟨⟨rfl, rfl⟩, fun d _ => ⟨(s.die d).tb.aligned, rfl⟩⟩

theorem State.alignAfter_alignsOnly (s : State) (i : Int) (m : TimeMsg) : alignsOnly s (s.alignAfter i m) := by
  unfold State.alignAfter
  dsimp only
  obtain ⟨good, hgood⟩ : ∃ good, good = if i.natAbs ≤ 2 then s.time.good + 1 else 0 := ⟨_, rfl⟩
  rw [← hgood]
  split
  · exact alignsOnly_setAligned s good 0xFF none false
  · split
    · exact alignsOnly_setAligned s good (m.depth + 1) (some m.root) true
    · exact alignsOnly_good s good

theorem State.alignAfter_far (s : State) {i : Int} (m : TimeMsg) (h : 3 < i.natAbs) {d : Nat} (hd : isDie d = true) : ((s.alignAfter i m).die d).tb.aligned = false := by
  unfold State.alignAfter
  dsimp only
  rw [if_pos (by rw [decide_eq_true h]; rfl), State.setAligned_eq, State.eachTb_die _ _ hd]

/-- A response that is awaited, up to its alignment. -/
def State.takeResponse (s : State) (i : Int) : State :=
  { s with time := { s.time with outstanding := none, offset := clampOffset i, exchanges := stick 16 (s.time.exchanges + 1) } }

section
variable {s : State} {m : TimeMsg} {t4 : Word} {i : Int} (hchild : s.timeChild = true) (hawaited : s.time.outstanding = some m.seq) (hreplay : m.replay = false)
  (hnear : s.farCount s.time.parent m = false) (hi : theta m.t1.toNat m.t2.toNat m.t3.toNat t4.toNat = i)
include hchild hawaited hreplay hnear hi

theorem syncResp_awaited : syncResp s.time.parent m t4 s =
    (if !s.admitted && 1000 < i.natAbs then (s.takeResponse i).stepCount i else if s.holder.isSome then (s.takeResponse i).writeSlew i else s.takeResponse i).alignAfter i m := by
  unfold syncResp
  rw [if_neg (by rw [hchild, hawaited, hnear]; simp)]
  dsimp only
  rw [if_neg (by rw [hreplay]; decide), hi]
  rfl

end

theorem stepTb_counts (i : Int) (t : TimeBase) :
    (stepTb i t).expect = t.expect + i ∧ (stepTb i t).disp = t.disp + max 0 i ∧ (stepTb i t).hold = t.hold + (if i < 0 then i.natAbs else 0) := by
  unfold stepTb
  split
  next hpos =>
    refine ⟨rfl, congrArg (t.disp + ·) (max_eq_right hpos.le).symm, ?_⟩
    rw [if_neg (by omega), Nat.add_zero]
  next hpos =>
    refine ⟨rfl, ?_, congrArg (t.hold + ·) ?_⟩
    · dsimp only
      rw [max_eq_left (by omega), Int.add_zero]
    · split <;> omega

theorem clampOffset_within {i : Int} (h : i.natAbs ≤ 0x7FFFFFFF) : clampOffset i = i := by unfold clampOffset; omega

theorem clampSlew_within {i : Int} (h : i.natAbs ≤ 1000) : clampSlew i = i := by unfold clampSlew; omega

theorem timeChild_of {s : State} (henable : s.time.enable = true) (hroot : s.time.root = false) : s.timeChild = true := by rw [State.timeChild, henable, hroot]; rfl

theorem syncResp_other {s : State} {n : Nat} {m : TimeMsg} {t4 : Word} (h : n ≠ s.time.parent ∨ s.time.outstanding ≠ some m.seq ∨ s.farCount n m = true) : syncResp n m t4 s = s := by
  refine if_pos ?_
  obtain h | h | h := h <;> simp [h]

/-- What an awaited response leaves, once the dies have had the offset as `v` says. -/
theorem takeResponse_aligns {s v : State} {i : Int} (m : TimeMsg) (hv : diesOnly (s.takeResponse i) v) (hi : i.natAbs ≤ 0x7FFFFFFF) :
    (v.alignAfter i m).time.outstanding = none ∧ (v.alignAfter i m).time.offset = i ∧ (v.alignAfter i m).time.exchanges = oneMore s.time.exchanges ∧
    v.alignAfter i m = { s with time := (v.alignAfter i m).time, dies := (v.alignAfter i m).dies } ∧
    ∀ d, isDie d = true → ∃ b, ((v.alignAfter i m).die d).tb = { (v.die d).tb with aligned := b } := by
  obtain ⟨⟨hframe, htime⟩, htb⟩ := v.alignAfter_alignsOnly i m
  have hvtime : v.time = (s.takeResponse i).time := by rw [hv]
  refine ⟨?_, ?_, ?_, ?_, htb⟩
  · rw [htime, hvtime]; rfl
  · rw [htime, hvtime]; exact clampOffset_within hi
  · rw [htime, hvtime]; rfl
  · exact hframe.trans (congrArg (fun x : State => { x with time := (v.alignAfter i m).time, dies := (v.alignAfter i m).dies }) hv)

theorem timeTreeExchanges : TimeTreeExchanges := by
  refine ⟨fun s henable hroot => ⟨fun hport hup hsend => ?start, fun h => ?noStart, ?unaligned, fun m t4 i hport hawaited hreplay hnear hi hsmall => ?small,
    fun m t4 i hport hawaited hreplay hnear hi hlarge hrange => ?large, fun n m t4 hn h => runs_of_need rfl hn (syncResp_other h)⟩,
    fun n m t2 s hn => ⟨fun hreplay hnear hup hsend => ?answer, fun h => ?noAnswer, runs_of_need rfl rfl ⟨rfl, rfl⟩⟩⟩
  case start =>
    have hchild := timeChild_of henable hroot
    obtain ⟨u, hu⟩ : ∃ u, u = ({ s with time := { s.time with
      seq := (s.time.seq + 1) % 2 ^ 32, outstanding := some ((s.time.seq + 1) % 2 ^ 32), t1 := s.count (88 + s.time.parent) } } : State) := ⟨_, rfl⟩
    obtain ⟨msg, hrun⟩ : ∃ msg, timeExchangeStart s = u.sendSeq s.time.parent 4 0 32 (timeBytes 0x0101 msg) := by
      rw [hu]
      exact ⟨_, if_neg (by rw [hchild, hup, hsend]; decide)⟩
    obtain ⟨htime, hreplay⟩ := u.sendSeq_replay s.time.parent 0 32 (timeBytes 0x0101 msg) (ftype := 4) (by decide)
    have hport : u.port s.time.parent = s.port s.time.parent := by rw [hu]; rfl
    refine runs_of_need rfl rfl ⟨?_, ?_, ?_, u.newFrame s.time.parent 4 0 32 (u.port s.time.parent).txSeq (timeBytes 0x0101 msg), ?_, rfl, ?_, timeBytes_kind 0x0101 msg (by decide)⟩
    · rw [hrun, htime, hu]
    · rw [hrun, htime, hu]
    · rw [hrun, htime, hu]
    · rw [hrun, hreplay, hport]
    · exact congrArg Port.txSeq hport
  case noStart =>
    refine runs_of_need rfl rfl (if_pos ?_)
    obtain h | h := h <;> simp [h]
  case unaligned =>
    have hrun : alignmentTimeout s = ({ s with time := { s.time with good := 0, depth := 0xFF } } : State).setAligned false := if_pos (timeChild_of henable hroot)
    obtain ⟨⟨hframe, htime⟩, -⟩ := alignsOnly_setAligned s 0 0xFF s.time.rootPkg false
    rw [← hrun] at hframe htime
    refine runs_of_need rfl rfl ⟨?_, ?_, fun d hd => ?_, hframe⟩
    · rw [hrun, State.setAligned_eq, (State.eachTb_diesOnly _ _)]
    · rw [hrun, State.setAligned_eq, (State.eachTb_diesOnly _ _)]
    · rw [hrun, State.setAligned_eq, State.eachTb_die _ _ hd]
  case small =>
    have hrun := syncResp_awaited (timeChild_of henable hroot) hawaited hreplay hnear hi
    rw [if_neg (by simp [Nat.not_lt.mpr hsmall])] at hrun
    obtain ⟨v, hv⟩ : ∃ v, v = if s.holder.isSome then (s.takeResponse i).writeSlew i else s.takeResponse i := ⟨_, rfl⟩
    rw [← hv] at hrun
    have hdies : diesOnly (s.takeResponse i) v := by
      rw [hv]
      split
      · exact State.eachTb_diesOnly _ _
      · rfl
    obtain ⟨hout, hoffset, hmore, hframe, htb⟩ := takeResponse_aligns (i := i) m hdies (by omega)
    refine runs_of_need rfl hport ?_
    rw [hrun]
    refine ⟨hout, hoffset, hmore, fun hheld d hd => ?_, hframe⟩
    obtain ⟨b, hb⟩ := htb d hd
    rw [hb, hv, if_pos hheld, State.writeSlew_eq, State.eachTb_die _ _ hd]
    exact clampSlew_within hsmall
  case large =>
    have hrun := syncResp_awaited (timeChild_of henable hroot) hawaited hreplay hnear hi
    obtain ⟨v, hv⟩ : ∃ v, v = if !s.admitted && 1000 < i.natAbs then (s.takeResponse i).stepCount i else if s.holder.isSome then (s.takeResponse i).writeSlew i else s.takeResponse i := ⟨_, rfl⟩
    rw [← hv] at hrun
    have hdies : diesOnly (s.takeResponse i) v := by
      rw [hv]
      split
      · exact State.stepCount_diesOnly _ _
      · split
        · exact State.eachTb_diesOnly _ _
        · rfl
    obtain ⟨hout, hoffset, -, hframe, htb⟩ := takeResponse_aligns (i := i) m hdies hrange
    refine runs_of_need rfl hport ?_
    rw [hrun]
    refine ⟨hout, hoffset, fun d hd => v.alignAfter_far m (by omega) hd, fun hfirst d hd => ?_, fun hadm hheld d hd => ?_, hframe⟩
    · obtain ⟨b, hb⟩ := htb d hd
      rw [hb, hv, if_pos (by simp [hfirst, hlarge]), State.stepCount_tb _ _ hd]
      exact stepTb_counts i _
    · obtain ⟨b, hb⟩ := htb d hd
      rw [hb, hv, if_neg (by simp [hadm]), if_pos hheld, State.writeSlew_eq, State.eachTb_die _ _ hd]
      rfl
  case answer =>
    obtain ⟨msg, hmsg⟩ : ∃ msg : TimeMsg, msg = { m with depth := s.depthNow, aligned := s.alignedNow, t2 := t2, t3 := BitVec.ofNat 64 (s.count (88 + n)), replay := false } := ⟨_, rfl⟩
    have hrun : syncReq n m t2 s = s.sendSeq n 4 0 32 (timeBytes 0x0102 msg) := by
      rw [hmsg]
      exact if_neg (by rw [hreplay, hnear, hup, hsend]; decide)
    obtain ⟨-, hsent⟩ := s.sendSeq_replay n 0 32 (timeBytes 0x0102 msg) (ftype := 4) (by decide)
    refine runs_of_need rfl hn ⟨_, by rw [hrun, hsent], rfl, rfl, timeBytes_kind 0x0102 msg (by decide), ?_, ?_, ?_⟩
    · exact (timeBytes_t1 _ _).trans (by rw [hmsg])
    · exact (timeBytes_t2 _ _).trans (by rw [hmsg])
    · exact (timeBytes_t3 _ _).trans (by rw [hmsg, BitVec.toNat_ofNat])
  case noAnswer =>
    refine runs_of_need rfl hn (if_pos ?_)
    obtain h | h | h := h <;> simp [h]

/-! ## SETUP (R453 to R455) -/

theorem cross_reached {s : State} {n o : Nat} (hreach : s.reaches (88 + n) (88 + o) = true) (hup : (s.port o).st = .up) (l : List Packet) :
    s.cross n o l = { s with packetOut := s.packetOut ++ l.map fun p => (o, p) } := by
  unfold State.cross
  rw [if_pos hreach]
  exact if_pos (portUp_of_up hup)

theorem cross_unreached {s : State} {n o : Nat} (hreach : s.reaches (88 + n) (88 + o) = false) (l : List Packet) : s.cross n o l = s := by
  unfold State.cross
  rw [if_neg (by rw [hreach]; decide)]

theorem cross_packetsOnly (s : State) (n o : Nat) (l : List Packet) : s.cross n o l = { s with packetOut := (s.cross n o l).packetOut } := by
  unfold State.cross State.post
  split
  · split <;> rfl
  · rfl

/-- A SETUP goes on from a state that has the routers, the ports' states and the packets of `s`. -/
theorem passesOn_cross {s u : State} {n o : Nat} (hst : (s.port o).st = .up → (u.port o).st = .up) (hreach : u.reaches (88 + n) (88 + o) = s.reaches (88 + n) (88 + o))
    (hpackets : u.packetOut = s.packetOut) (p a : Packet) (hflow : a.flow = p.flow) (hdst : a.dstPkg = p.dstPkg) : passesOn s (u.cross n o [a]) n o p := by
  refine ⟨fun hup hr => ⟨a, ?_, hflow, hdst⟩, fun hr => ?_⟩
  · rw [cross_reached (hreach.trans hr) (hst hup), hpackets]; rfl
  · rw [cross_unreached (hreach.trans hr), hpackets]

section
variable (s : State) (n : Nat) (p : Packet) (m : SetupMsg)

/-- The SETUP_ANS that a SETUP gets. -/
theorem State.answerSetup_up (hup : (s.port n).st = .up) {reason : Nat} (hreason : reason < 256) (badPort bound : Nat) (mac : List Byte) :
    (∃ a, (s.answerSetup n p m reason badPort bound mac).packetOut = s.packetOut ++ [(n, a)] ∧ a.ptype = 0x0A ∧ ofBe (slice a.data 0 1) = reason ∧ a.flow = p.flow) ∧
    s.answerSetup n p m reason badPort bound mac = { s with packetOut := (s.answerSetup n p m reason badPort bound mac).packetOut } := by
  refine ⟨?_, State.emit_packetsOnly _ _ _⟩
  unfold State.answerSetup
  rw [State.emit_up hup]
  refine ⟨_, rfl, rfl, ?_, rfl⟩
  dsimp only [State.packet]
  simp only [List.append_assoc]
  rw [← List.nil_append (be 1 reason ++ _), ← List.append_assoc, slice_within (o := 0) rfl (length_be 1 reason)]
  exact ofBe_be hreason

variable {s n p m}

theorem setup_here (hm : setupOf p.data = m) (hdst : p.dstPkg = s.pkgId) (hend : m.route.length ≤ m.hop) : setup n p s = s.setupHere n p m := by
  unfold setup
  rw [hm]
  exact if_pos (by simp [hdst, hend])

theorem setup_through (hm : setupOf p.data = m) (hdst : p.dstPkg ≠ s.pkgId) : setup n p s = s.setupThrough n p m := by
  unfold setup
  rw [hm]
  exact if_neg (by simp [hdst])

theorem setupHere_release (h : m.release = true) : s.setupHere n p m = s.setRx (rxKeyOf p.srcPkg p.flow m.group) none := if_pos h

theorem setupHere_prune (hrelease : m.release = false) (h : m.prune = true) :
    s.setupHere n p m = s.modRx (rxKeyOf p.srcPkg p.flow m.group) fun x => { x with pruned := true } := by
  unfold State.setupHere
  rw [if_neg (by rw [hrelease]; decide)]
  exact if_pos h

theorem setupHere_restore (hrelease : m.release = false) (hprune : m.prune = false) (h : m.restore = true) :
    s.setupHere n p m = s.modRx (rxKeyOf p.srcPkg p.flow m.group) fun x => { x with pruned := false, resync := x.resync || x.pruned } := by
  unfold State.setupHere
  rw [if_neg (by rw [hrelease]; decide), if_neg (by rw [hprune]; decide)]
  exact if_pos h

/-- The context that a SETUP reaches at its destination: its job's, which agrees with the job check and has the landing area. -/
def taker (s : State) (p : Packet) (m : SetupMsg) : Option Nat := (s.jobCtxs m.job).find? fun c =>
  let x := s.ctx c
  let ok := if x.sealed then slice m.mac 0 16 == jobCheck x.jobKey m.job p.srcPkg p.dstPkg m.path p.route [] else m.mac.all (· == 0)
  ok && !x.dying && s.landable c m.base m.len

theorem setupHere_unheld (h : carries m) (hholder : s.holder = none) : s.setupHere n p m = s := by
  obtain ⟨hrelease, hprune, hrestore⟩ := h
  unfold State.setupHere
  rw [if_neg (by rw [hrelease]; decide), if_neg (by rw [hprune]; decide), if_neg (by rw [hrestore]; decide)]
  exact if_pos (by rw [hholder]; rfl)

/-- The end of a flow that a SETUP makes. -/
def newEnd (n c : Nat) (p : Packet) (m : SetupMsg) : RxFlow :=
  { srcPkg := p.srcPkg, flow := p.flow, ctx := c, landBase := m.base, landBytes := m.len, link := n, group := m.group, sync := m.sync }

theorem setupHere_held (h : carries m) (hholder : s.holder.isSome = true) :
    (taker s p m = none → s.setupHere n p m = s.answerSetup n p m 5 n 0 []) ∧
    ∀ c, taker s p m = some c →
      (∀ z, s.rx? (rxKeyOf p.srcPkg p.flow m.group) = some z → ∃ bound mac, s.setupHere n p m = s.answerSetup n p m 0 0 bound mac) ∧
      (s.rx? (rxKeyOf p.srcPkg p.flow m.group) = none → ∃ bound mac, s.setupHere n p m = (s.setRx (rxKeyOf p.srcPkg p.flow m.group) (some (newEnd n c p m))).answerSetup n p m 0 0 bound mac) := by
  obtain ⟨hrelease, hprune, hrestore⟩ := h
  unfold State.setupHere taker
  dsimp only
  rw [if_neg (by rw [hrelease]; decide), if_neg (by rw [hprune]; decide), if_neg (by rw [hrestore]; decide), if_neg (by rw [Option.isNone_iff_eq_none]; intro hn; rw [hn] at hholder; cases hholder)]
  refine ⟨fun htake => by rw [htake], fun c htake => ⟨fun z hz => ?_, fun hz => ?_⟩⟩
  · rw [htake]
    dsimp only
    rw [hz]
    exact ⟨_, _, rfl⟩
  · rw [htake]
    dsimp only
    rw [hz]
    exact ⟨_, _, rfl⟩

theorem taker_one {c : Nat} (hjob : s.jobCtxs m.job = [c]) (hsealed : (s.ctx c).sealed = false) (hmac : m.mac.all (· == 0) = true) (hdying : (s.ctx c).dying = false)
    (hland : s.landable c m.base m.len = true) : taker s p m = some c := by
  unfold taker
  rw [hjob]
  exact List.find?_cons_of_pos (by simp only [hsealed, hdying, hland]; rw [if_neg (by decide), hmac]; rfl)

/-! ### On the way -/

/-- A SETUP as it goes on. -/
def onwardPacket (s : State) (n : Nat) (p : Packet) (m : SetupMsg) : Packet :=
  let out := m.route.getD m.hop 0
  { p with data := setupBytes { m with hop := m.hop + 1, bound := m.bound + s.meshBound (meshHops (88 + n) (88 + out)) + s.hopPart out } }

/-- Whether a transit entry is the one that a SETUP speaks of. -/
def spokenOf (n : Nat) (p : Packet) (m : SetupMsg) (t : Transit) : Bool :=
  t.srcPkg == p.srcPkg && t.flow == p.flow && t.route == p.route && t.group == m.group && t.die == 88 + n && t.outPort == m.route.getD m.hop 0

/-- The owner of the lanes of a SETUP's flow, or group. -/
def laneOwner (p : Packet) (m : SetupMsg) : Nat := if m.group then groupOwner p.srcPkg p.flow else flowOwner p.srcPkg p.flow

/-- A release, a pruning or a return changes the entry that it speaks of, and goes on. -/
theorem setupThrough_leaves (h : m.release = true ∨ m.prune = true ∨ m.restore = true) :
    s.setupThrough n p m = ((({ s with transits := s.transits.map fun t => if spokenOf n p m t then leaveTransit p.dstPkg m t else t } : State).dropTransits (laneOwner p m)
      fun t => spokenOf n p m t && m.release && t.members.isEmpty).cross n (m.route.getD m.hop 0) [onwardPacket s n p m]) := by
  unfold State.setupThrough
  dsimp only
  rw [if_pos (by simpa [or_assoc] using h)]
  rfl

/-- The entry that a SETUP makes on its way. -/
def newTransit (n : Nat) (p : Packet) (m : SetupMsg) : Transit :=
  { srcPkg := p.srcPkg, flow := p.flow, route := p.route, die := 88 + n, outPort := m.route.getD m.hop 0, lanes := m.lanes, group := m.group, job := m.job,
    members := [p.dstPkg] }

/-- A SETUP that no entry is there for. -/
theorem setupThrough_new (h : carries m) (hgroup : m.group = false) (htransits : s.transits = []) (hroute : p.route = 0) :
    ((s.port (m.route.getD m.hop 0)).st ≠ .up → s.setupThrough n p m = s.answerSetup n p m 2 (m.route.getD m.hop 0) 0 []) ∧
    ((s.port (m.route.getD m.hop 0)).st = .up →
      ((laneFree (s.port (m.route.getD m.hop 0))).length < m.lanes → s.setupThrough n p m = s.answerSetup n p m 3 (m.route.getD m.hop 0) 0 []) ∧
      (m.lanes ≤ (laneFree (s.port (m.route.getD m.hop 0))).length →
        s.setupThrough n p m = (({ s with transits := [newTransit n p m] } : State).reserve (m.route.getD m.hop 0) (laneOwner p m) m.job m.lanes).cross n (m.route.getD m.hop 0) [onwardPacket s n p m])) := by
  obtain ⟨hrelease, hprune, hrestore⟩ := h
  unfold State.setupThrough
  dsimp only
  rw [if_neg (by rw [hrelease, hprune, hrestore]; decide)]
  refine ⟨fun hdown => if_pos hdown, fun hup => ?_⟩
  rw [if_neg (by rw [hup]; decide), if_neg (by rw [htransits]; exact Bool.false_ne_true), if_neg (by rw [htransits, List.filter_nil]; decide),
    show (if p.route = 0 && !(m.group && s.transits.any fun t => t.srcPkg == p.srcPkg && t.flow == p.flow && t.group && t.outPort == m.route.getD m.hop 0) then m.lanes else 0) = m.lanes from
      if_pos (by simp [hroute, hgroup]), htransits]
  refine ⟨fun hfew => if_pos hfew, fun hroom => ?_⟩
  rw [if_neg (Nat.not_lt.mpr hroom)]
  rfl

/-- One entry changes, and stays where it is still needed. -/
theorem dropTransits_one {y z : Transit} (hz : (if spokenOf n p m y then leaveTransit p.dstPkg m y else y) = z) (own : Nat) (f : Transit → Bool)
    (hown : (if z.group then groupOwner z.srcPkg z.flow else flowOwner z.srcPkg z.flow) = own) (hy : s.transits = [y]) :
    ({ s with transits := s.transits.map fun t => if spokenOf n p m t then leaveTransit p.dstPkg m t else t } : State).dropTransits own f =
      if f z then ({ s with transits := [] } : State).freeLanes own else { s with transits := [z] } := by
  unfold State.dropTransits
  dsimp only
  rw [hy, List.map_cons, List.map_nil, hz]
  cases hf : f z with
  | true =>
    rw [List.filter_cons_of_neg (by rw [hf]; decide), List.filter_nil]
    exact if_neg Bool.false_ne_true
  | false =>
    rw [List.filter_cons_of_pos (by rw [hf]; decide), List.filter_nil, List.any_cons, hown, beq_self_eq_true]
    rfl

end

/-! ### Lanes (R450) -/

theorem tabGet_map_snd {α : Type} (d : α) (f : α → α) (hd : f d = d) (t : Tab α) (i : Nat) : tabGet d (t.map fun e => (e.1, f e.2)) i = f (tabGet d t i) := by
  induction t with
  | nil => exact hd.symm
  | cons e t ih =>
    obtain ⟨k, x⟩ := e
    by_cases hk : k = i
    · simp [tabGet, hk]
    · simpa [tabGet, hk] using ih

theorem State.freeLanes_st (s : State) (own p : Nat) : ((s.freeLanes own).port p).st = (s.port p).st :=
  (congrArg Port.st (tabGet_map_snd ({} : Port) (fun x => { x with lanesOwned := x.lanesOwned.filter fun l => l.2 != some own }) rfl s.ports p):)

theorem State.freeLanes_unowned (s : State) (own : Nat) : ∀ e ∈ (s.freeLanes own).ports, ∀ i ∈ e.2.lanesOwned, i.2 ≠ some own := by
  intro e he i hi
  obtain ⟨x, -, rfl⟩ := List.mem_map.mp he
  simpa using (List.mem_filter.mp hi).2

theorem tabGet_foldl_tabSet {α : Type} (d v : α) (l : List Nat) (t : Tab α) (i : Nat) :
    tabGet d (l.foldl (fun t i => tabSet t i v) t) i = if i ∈ l then v else tabGet d t i := by
  induction l generalizing t with
  | nil => simp
  | cons a l ih =>
    rw [List.foldl_cons, ih, tabGet_tabSet]
    by_cases hl : i ∈ l
    · simp [hl]
    · by_cases ha : i = a <;> simp [hl, ha]

/-- What is left of a list without repeats once its first `n` are taken. -/
theorem filter_notMem_take {l : List Nat} (hl : l.Nodup) (n : Nat) : l.filter (fun i => decide (i ∉ l.take n)) = l.drop n := by
  have hdisjoint := List.disjoint_take_drop hl (le_refl n)
  conv_lhs => rw [← List.take_append_drop n l, List.filter_append]
  rw [List.take_append_drop, List.filter_eq_nil_iff.mpr (by simp), List.nil_append, List.filter_eq_self]
  intro a ha
  simpa using fun h => hdisjoint h ha

theorem laneFree_nodup (x : Port) : (laneFree x).Nodup := List.nodup_range.filter _

/-- Lanes that are reserved are not free. -/
theorem State.reserve_free (s : State) (port own job n : Nat) : (laneFree ((s.reserve port own job n).port port)).length = (laneFree (s.port port)).length - n := by
  unfold State.reserve
  rw [State.port_modPort]
  have hfree : laneFree ({ s.port port with
      lanesOwned := ((laneFree (s.port port)).take n).foldl (fun t i => tabSet t i (some own)) (s.port port).lanesOwned
      laneJobs := ((laneFree (s.port port)).take n).foldl (fun t i => tabSet t i job) (s.port port).laneJobs } : Port) = (laneFree (s.port port)).drop n := by
    rw [← filter_notMem_take (laneFree_nodup _) n]
    obtain ⟨taken, htaken⟩ : ∃ l, l = (laneFree (s.port port)).take n := ⟨_, rfl⟩
    rw [← htaken]
    unfold laneFree
    rw [List.filter_filter]
    refine List.filter_congr fun i _ => ?_
    dsimp only
    rw [tabGet_foldl_tabSet]
    by_cases hi : i ∈ taken
    · rw [if_pos hi, decide_eq_false (not_not_intro hi)]; rfl
    · rw [if_neg hi, decide_eq_true hi, Bool.true_and]
  rw [hfree, List.length_drop]

theorem State.reserve_st (s : State) (port own job n : Nat) : ((s.reserve port own job n).port port).st = (s.port port).st := by
  unfold State.reserve
  rw [State.port_modPort]

/-- The entry that a message spoke of stays, and the message goes on. -/
theorem entryStays {s t : State} {n o : Nat} {p a : Packet} {z : Transit} (h : t = ({ s with transits := [z] } : State).cross n o [a]) (hflow : a.flow = p.flow) (hdst : a.dstPkg = p.dstPkg) :
    t.transits = [z] ∧ passesOn s t n o p ∧ t = { s with transits := t.transits, packetOut := t.packetOut } := by
  have hframe := cross_packetsOnly ({ s with transits := [z] } : State) n o [a]
  rw [← h] at hframe
  refine ⟨by rw [hframe], ?_, by rw [hframe]⟩
  rw [h]
  exact passesOn_cross (s := s) (u := { s with transits := [z] }) id rfl rfl p a hflow hdst

theorem setupsReserveAlongTheRoute : SetupsReserveAlongTheRoute := by
  intro n p s m hport hm hup
  refine ⟨fun hdst hend => ?here, fun o own y hdst ho hown hy hsrc hflow hroute hgroup hdie hout => ?leaves, fun o hdst hcarries hgroup ho htransits hroute => ?new⟩
  case here =>
    have hrun := setup_here (n := n) hm hdst hend
    refine ⟨fun c hcarries hholder hgroup hjob hsealed hmac hdying hland => ?_, fun hcarries hholder => ?_, fun hcarries hholder hjob => ?_, fun hrelease => ?_, fun y hrelease hy => ⟨fun hprune => ?_, fun hprune hrestore => ?_⟩⟩
    · obtain ⟨hknown, hnew⟩ := (setupHere_held (n := n) (p := p) hcarries hholder).2 c (taker_one hjob hsealed hmac hdying hland)
      rw [hgroup] at hknown hnew
      refine ⟨fun z hz => ?_, fun hz => ?_⟩
      · obtain ⟨bound, mac, hans⟩ := hknown z hz
        refine runs_of_need rfl hport ?_
        rw [hrun, hans]
        exact s.answerSetup_up n p m hup (by decide) 0 bound mac
      · obtain ⟨bound, mac, hans⟩ := hnew hz
        obtain ⟨u, hu⟩ : ∃ u, u = s.setRx (rxKeyOf p.srcPkg p.flow false) (some (newEnd n c p m)) := ⟨_, rfl⟩
        rw [← hu] at hans
        have huport : u.port n = s.port n := by rw [hu]; rfl
        obtain ⟨hpacket, hframe⟩ := u.answerSetup_up n p m (by rw [huport]; exact hup) (reason := 0) (by decide) 0 bound mac
        rw [← hans, ← hrun] at hpacket hframe
        refine runs_of_need rfl hport ⟨⟨newEnd n c p m, ?_, rfl, rfl, rfl, rfl⟩, ?_, ?_⟩
        · rw [hframe]
          change u.rx? _ = _
          rw [hu, State.rx?_setRx, if_pos rfl]
        · rw [hu] at hpacket; exact hpacket
        · rw [hframe, hu]; rfl
    · refine runs_of_need rfl hport ?_
      rw [hrun, setupHere_unheld hcarries hholder]
    · have hnone : taker s p m = none := by unfold taker; rw [hjob]; rfl
      refine runs_of_need rfl hport ?_
      rw [hrun, (setupHere_held hcarries hholder).1 hnone]
      exact s.answerSetup_up n p m hup (by decide) _ _ _
    · refine runs_of_need rfl hport ?_
      rw [hrun, setupHere_release hrelease]
      exact ⟨by rw [State.rx?_setRx, if_pos rfl], rfl⟩
    · refine runs_of_need rfl hport ?_
      rw [hrun, setupHere_prune hrelease hprune, State.modRx_some hy]
      exact ⟨by rw [State.rx?_setRx, if_pos rfl], rfl⟩
    · refine runs_of_need rfl hport ?_
      rw [hrun, setupHere_restore hrelease hprune hrestore, State.modRx_some hy]
      exact ⟨by rw [State.rx?_setRx, if_pos rfl], rfl⟩
  case leaves =>
    subst ho
    have hspoken : spokenOf n p m y = true := by simp [spokenOf, hsrc, hflow, hroute, hgroup, hdie, hout]
    have howner : (if y.group then groupOwner y.srcPkg y.flow else flowOwner y.srcPkg y.flow) = laneOwner p m := by rw [hgroup, hsrc, hflow]; rfl
    have hrun (h : m.release = true ∨ m.prune = true ∨ m.restore = true) := (setup_through (n := n) hm hdst).trans (setupThrough_leaves h)
    refine ⟨fun hrelease hlast => ?_, fun hrelease hmore => ?_, fun hrelease hprune => ?_⟩
    · have hleave : (if spokenOf n p m y then leaveTransit p.dstPkg m y else y) = leaveTransit p.dstPkg m y := if_pos hspoken
      have hkeeps : leaveTransit p.dstPkg m y = { y with members := y.members.filter (· != p.dstPkg), pruned := y.pruned.filter (· != p.dstPkg) } := if_pos hrelease
      have hnobody : y.members.filter (· != p.dstPkg) = [] := List.filter_eq_nil_iff.mpr fun i hi => by simp [hlast i hi]
      have hdrop : (spokenOf n p m (leaveTransit p.dstPkg m y) && m.release && (leaveTransit p.dstPkg m y).members.isEmpty) = true := by
        rw [hkeeps, hrelease]
        change (spokenOf n p m y && true && (y.members.filter (· != p.dstPkg)).isEmpty) = true
        rw [hspoken, hnobody]
        rfl
      have hrun := hrun (.inl hrelease)
      rw [dropTransits_one hleave _ _ (by rw [hkeeps]; exact howner) hy, if_pos hdrop] at hrun
      have hframe := cross_packetsOnly (({ s with transits := [] } : State).freeLanes (laneOwner p m)) n (m.route.getD m.hop 0) [onwardPacket s n p m]
      rw [← hrun] at hframe
      refine runs_of_need rfl hport ⟨?_, ?_, ?_, ?_⟩
      · rw [hframe]; rfl
      · rw [hframe, hown]
        exact State.freeLanes_unowned ({ s with transits := [] } : State) (laneOwner p m)
      · rw [hrun]
        exact passesOn_cross (s := s) (u := ({ s with transits := [] } : State).freeLanes (laneOwner p m)) (fun h => (State.freeLanes_st _ _ _).trans h) rfl rfl p _ rfl rfl
      · rw [hframe]; rfl
    · have hleave : (if spokenOf n p m y then leaveTransit p.dstPkg m y else y) = leaveTransit p.dstPkg m y := if_pos hspoken
      have hkeeps : leaveTransit p.dstPkg m y = { y with members := y.members.filter (· != p.dstPkg), pruned := y.pruned.filter (· != p.dstPkg) } := if_pos hrelease
      obtain ⟨i, hi, hne⟩ := hmore
      have hsomebody : (y.members.filter (· != p.dstPkg)).isEmpty = false :=
        List.isEmpty_eq_false_iff_exists_mem.mpr ⟨i, List.mem_filter.mpr ⟨hi, by simpa using hne⟩⟩
      have hdrop : ¬(spokenOf n p m (leaveTransit p.dstPkg m y) && m.release && (leaveTransit p.dstPkg m y).members.isEmpty) = true := by
        rw [hkeeps]
        dsimp only
        rw [hsomebody, Bool.and_false]
        exact Bool.false_ne_true
      have hrun := hrun (.inl hrelease)
      rw [dropTransits_one hleave _ _ (by rw [hkeeps]; exact howner) hy, if_neg hdrop] at hrun
      obtain ⟨htransits, hpass, hframe⟩ := entryStays hrun rfl rfl
      exact runs_of_need rfl hport ⟨⟨_, htransits, by rw [hkeeps], by rw [hkeeps]⟩, hpass, hframe⟩
    · have hleave : (if spokenOf n p m y then leaveTransit p.dstPkg m y else y) = leaveTransit p.dstPkg m y := if_pos hspoken
      have hkeeps : leaveTransit p.dstPkg m y = { y with pruned := addTo y.pruned p.dstPkg } := by
        unfold leaveTransit
        rw [if_neg (by rw [hrelease]; decide)]
        exact if_pos hprune
      have hdrop : ¬(spokenOf n p m (leaveTransit p.dstPkg m y) && m.release && (leaveTransit p.dstPkg m y).members.isEmpty) = true := by
        rw [hrelease, Bool.and_false, Bool.false_and]
        exact Bool.false_ne_true
      have hrun := hrun (.inr (.inl hprune))
      rw [dropTransits_one hleave _ _ (by rw [hkeeps]; exact howner) hy, if_neg hdrop] at hrun
      obtain ⟨htransits, hpass, hframe⟩ := entryStays hrun rfl rfl
      exact runs_of_need rfl hport ⟨⟨_, htransits, by rw [hkeeps]; exact mem_addTo_self _ _, by rw [hkeeps]⟩, hpass, hframe⟩
  case new =>
    subst ho
    obtain ⟨hdown, hopen⟩ := setupThrough_new (n := n) hcarries hgroup htransits hroute
    have hrun := setup_through (n := n) hm hdst
    refine ⟨fun hst hroom => ?_, fun hst hfew => ?_, fun hst => ?_⟩
    · have hrun := hrun.trans ((hopen hst).2 hroom)
      have hframe := cross_packetsOnly (({ s with transits := [newTransit n p m] } : State).reserve (m.route.getD m.hop 0) (laneOwner p m) m.job m.lanes) n (m.route.getD m.hop 0) [onwardPacket s n p m]
      rw [← hrun] at hframe
      refine runs_of_need rfl hport ⟨⟨newTransit n p m, ?_, rfl, rfl, rfl, rfl, rfl, rfl, rfl⟩, ?_, ?_, ?_⟩
      · rw [hframe]; rfl
      · rw [hframe]
        exact State.reserve_free ({ s with transits := [newTransit n p m] } : State) (m.route.getD m.hop 0) (laneOwner p m) m.job m.lanes
      · rw [hrun]
        exact passesOn_cross (s := s) (u := ({ s with transits := [newTransit n p m] } : State).reserve (m.route.getD m.hop 0) (laneOwner p m) m.job m.lanes)
          (fun h => (State.reserve_st _ _ _ _ _).trans h) rfl rfl p _ rfl rfl
      · rw [hframe]; rfl
    · refine runs_of_need rfl hport ?_
      obtain ⟨⟨a, hpacket, -, hdata, -⟩, hframe⟩ := s.answerSetup_up n p m hup (reason := 3) (by decide) (m.route.getD m.hop 0) 0 []
      rw [hrun, (hopen hst).1 hfew]
      exact ⟨⟨a, hpacket, hdata⟩, hframe⟩
    · refine runs_of_need rfl hport ?_
      obtain ⟨⟨a, hpacket, -, hdata, -⟩, hframe⟩ := s.answerSetup_up n p m hup (reason := 2) (by decide) (m.route.getD m.hop 0) 0 []
      rw [hrun, hdown hst]
      exact ⟨⟨a, hpacket, hdata⟩, hframe⟩

/-! ## Groups (R462 to R464) -/

/-- From `s` to `t` a group has gone on: the groups, the movers that waited, and the packets that go out. -/
def groupsOnly (s t : State) : Prop := t = { s with groups := t.groups, cores := t.cores, packetOut := t.packetOut }

theorem groupsOnly_trans {s t u : State} (hst : groupsOnly s t) (htu : groupsOnly t u) : groupsOnly s u :=
  htu.trans (congrArg (fun x : State => { x with groups := u.groups, cores := u.cores, packetOut := u.packetOut }) hst)

theorem each_groupsOnly {α : Type} (f : State → α → State) (hf : ∀ s a, groupsOnly s (f s a)) (l : List α) (s : State) : groupsOnly s (each l s f) :=
  each_keeps (groupsOnly s) f (fun t a h => groupsOnly_trans h (hf t a)) l s rfl

theorem groupsOnly_answered (s : State) (c : Nat) : groupsOnly s (s.answered c) := by
  unfold State.answered
  split <;> rfl

theorem groupsOnly_post (s : State) (n : Nat) (l : List Packet) : groupsOnly s (s.post n l) := by
  unfold State.post
  split <;> rfl

theorem State.post_packetsOnly (s : State) (n : Nat) (l : List Packet) : s.post n l = { s with packetOut := (s.post n l).packetOut } := by
  unfold State.post
  split <;> rfl

theorem State.group?_setGroup (s : State) (k : Nat) (x : Option Group) : (s.setGroup k x).group? k = x := (tabGet_tabSet _ s.groups k k x).trans (if_pos rfl)

theorem State.modGroup_some {s : State} {k : Nat} {g : Group} (h : s.group? k = some g) (f : Group → Group) : s.modGroup k f = s.setGroup k (some (f g)) := by
  unfold State.modGroup
  rw [h]

/-- Sending what a window lets through changes no more of the group than what was sent, and when it filled. -/
theorem State.pumpGroup_group {s : State} {k : Nat} {g : Group} (h : s.group? k = some g) :
    (∃ sent full, (s.pumpGroup k).group? k = some { g with sent := sent, fullAt := full }) ∧ groupsOnly s (s.pumpGroup k) := by
  unfold State.pumpGroup
  rw [h]
  dsimp only
  obtain ⟨u, hu⟩ : ∃ u, u = s.setGroup k (some { g with
    sent := min g.window.length 256, fullAt := if min g.window.length 256 = 256 && g.fullAt.isNone then some s.kcount else g.fullAt }) := ⟨_, rfl⟩
  rw [← hu]
  refine ⟨⟨min g.window.length 256, if min g.window.length 256 = 256 && g.fullAt.isNone then some s.kcount else g.fullAt, ?_⟩, ?_⟩
  · have hgroups := each_same (β := Option Group) (fun t : State => t.group? k) (fun s q => s.post q (((g.window.take (min g.window.length 256)).drop g.sent).map (stamped 0 (s.count (88 + q)))))
      (fun t q => by rw [State.post_packetsOnly]; rfl) (s.groupPorts g) u
    rw [hgroups, hu, State.group?_setGroup]
  · refine groupsOnly_trans (t := u) (by rw [hu]; rfl) (each_groupsOnly _ (fun t q => groupsOnly_post t q _) _ _)

/-- What every member has acknowledged leaves the window (R463). -/
theorem State.advanceGroup_group {s : State} {k : Nat} {g : Group} (h : s.group? k = some g) :
    (∃ x, (s.advanceGroup k).group? k = some x ∧ x.oldest = g.oldest + BitVec.ofNat 32 (min g.sent (lowestAck g)) ∧ x.window = g.window.drop (min g.sent (lowestAck g)) ∧
      x.members = g.members) ∧ groupsOnly s (s.advanceGroup k) := by
  unfold State.advanceGroup
  rw [h]
  dsimp only
  obtain ⟨n, hn⟩ : ∃ n, n = min g.sent (lowestAck g) := ⟨_, rfl⟩
  rw [← hn]
  obtain ⟨u, hu⟩ : ∃ u, u = each (g.owners.take n) s fun s c => s.answered c := ⟨_, rfl⟩
  rw [← hu]
  obtain ⟨⟨sent, full, hgroup⟩, hframe⟩ := State.pumpGroup_group (s := u.setGroup k _) (k := k) (State.group?_setGroup u k _)
  refine ⟨⟨_, hgroup, rfl, rfl, rfl⟩, groupsOnly_trans (t := u) ?_ (groupsOnly_trans (t := u.setGroup k _) rfl hframe)⟩
  rw [hu]
  exact each_groupsOnly _ groupsOnly_answered _ _

/-! ### An answer of the only member -/

theorem lowestAck_one {g : Group} {m : Member} (hmembers : g.members = [m]) (hpruned : m.pruned = false) : lowestAck g = ackedOf g m := by
  unfold lowestAck inGroup
  rw [hmembers, List.filter_cons_of_pos (by rw [hpruned]; rfl)]
  rfl

theorem lowestAck_none {g : Group} (h : inGroup g = []) : lowestAck g = g.sent := by
  unfold lowestAck
  rw [h]

/-- An answer for a group of one member, with a PSN among those sent. -/
theorem groupOf_one {s : State} {p : Packet} {k : Nat} {g : Group} {m : Member} (hgroups : s.groups = [(k, some g)]) (hflow : k % 65536 = p.flow) (hmembers : g.members = [m])
    (hpkg : m.pkg = p.srcPkg) (hsent : (p.psn - g.oldest).toNat ≤ g.sent) : s.groupOf p = some k := by
  obtain ⟨d, hd⟩ : ∃ d, d = (p.psn - g.oldest).toNat := ⟨_, rfl⟩
  unfold State.groupOf
  rw [← hd] at hsent
  rw [hgroups]
  simp [tabKeys, hflow, hmembers, hpkg, hsent, ← hd]

/-- What an answer raises a member to. -/
def ackedBy (g : Group) (p : Packet) (m : Member) : Member := if m.pkg = p.srcPkg && ackedOf g m < (p.psn - g.oldest).toNat then { m with acked := p.psn } else m

theorem ackedBy_acked {g : Group} {m : Member} {p : Packet} (hpkg : m.pkg = p.srcPkg) (h : ackedOf g m ≤ (p.psn - g.oldest).toNat) :
    ackedOf g (ackedBy g p m) = (p.psn - g.oldest).toNat := by
  unfold ackedBy
  by_cases hless : ackedOf g m < (p.psn - g.oldest).toNat
  · rw [if_pos (by rw [decide_eq_true hpkg, decide_eq_true hless]; rfl)]; rfl
  · rw [if_neg (by rw [decide_eq_false hless, Bool.and_false]; exact Bool.false_ne_true)]; omega

theorem ackedBy_pruned (g : Group) (p : Packet) (m : Member) : (ackedBy g p m).pruned = m.pruned := by
  unfold ackedBy
  split <;> rfl

/-- The PSN answered is the oldest, more by as many as the answer is ahead of it. -/
theorem oldest_advance (a b : BitVec 32) : a + BitVec.ofNat 32 (b - a).toNat = b := by bv_omega

/-! ### Pruning the only member (R463, R464) -/

theorem State.sendMember_packetsOnly (s : State) (g : Group) (x : SetupMsg) (m : Member) : s.sendMember g x m = { s with packetOut := (s.sendMember g x m).packetOut } := State.emit_packetsOnly _ _ _

/-- From `s` to `t` packets have gone out. -/
def packetsOnly (s t : State) : Prop := t = { s with packetOut := t.packetOut }

theorem packetsOnly_trans {s t u : State} (hst : packetsOnly s t) (htu : packetsOnly t u) : packetsOnly s u :=
  htu.trans (congrArg (fun x : State => { x with packetOut := u.packetOut }) hst)

theorem State.send_frame (s : State) (m : Sent) : s.send m = { s with sent := s.sent ++ [m], packetOut := (s.send m).packetOut } := by
  obtain ⟨u, hu⟩ : ∃ u, u = ({ s with sent := s.sent ++ [m] } : State) := ⟨_, rfl⟩
  have hout : packetsOnly u (s.send m) := by
    unfold State.send
    rw [← hu]
    exact each_keeps (packetsOnly u) _ (fun t e h => packetsOnly_trans h (State.emit_packetsOnly t _ _)) _ u rfl
  exact hout.trans (by rw [hu])

/-- A group with a member marked pruned. -/
def prunedOf (g : Group) (m : Member) : Group := { g with members := g.members.map fun x => if x.pkg = m.pkg then { x with pruned := true } else x }

/-- What the pruning of a member leaves, where the keeper's die has room for the fault's record. -/
theorem State.pruneMember_room {s : State} {k : Nat} {g : Group} (hg : s.group? k = some g) (m : Member) (hroom : s.hasRoom s.keeperDie) :
    raised s (s.pruneMember k g m) s.keeperDie fMcastPruned ∧ (s.pruneMember k g m).group? k = some (prunedOf g m) ∧
    ∃ o, (s.pruneMember k g m).sent = s.sent ++ [.prune (s.ctx g.ctx).job g.id m.pkg o (s.count s.keeperDie)] := by
  obtain ⟨u, hu⟩ : ∃ u, u = s.setGroup k (some (prunedOf g m)) := ⟨_, rfl⟩
  obtain ⟨v, hv⟩ : ∃ v, v = u.sendMember g { prune := true } m := ⟨_, rfl⟩
  obtain ⟨detail, first, hrun⟩ : ∃ detail first, s.pruneMember k g m = (v.raise s.keeperDie fMcastPruned [g.ctx] detail).send (.prune (s.ctx g.ctx).job g.id m.pkg first (s.count s.keeperDie)) := by
    unfold State.pruneMember
    rw [State.modGroup_some hg, hv, hu]
    exact ⟨_, _, rfl⟩
  have hframe : v = { u with packetOut := v.packetOut } := by rw [hv]; exact State.sendMember_packetsOnly _ _ _ _
  have hdie : ∀ d, v.die d = s.die d := fun d => by rw [hframe, hu]; rfl
  have hcount : v.count s.keeperDie = s.count s.keeperDie := by rw [hframe, hu]; rfl
  have hvroom : v.hasRoom s.keeperDie := by rw [State.hasRoom, hdie]; exact hroom
  obtain ⟨r, hheld, hcode, hrdie, hrcount⟩ := v.raised_raise s.keeperDie fMcastPruned [g.ctx] detail hvroom
  have hraise := v.raise_room_frame s.keeperDie fMcastPruned [g.ctx] detail hvroom
  obtain ⟨w, hw⟩ : ∃ w, w = v.raise s.keeperDie fMcastPruned [g.ctx] detail := ⟨_, rfl⟩
  rw [← hw] at hrun hheld hraise
  rw [hrun, State.send_frame]
  refine ⟨⟨r, ?_, hcode, hrdie, hrcount.trans hcount⟩, ?_, first, ?_⟩
  · exact hheld.trans (by rw [hdie])
  · rw [hraise, hframe, hu]
    exact State.group?_setGroup s k _
  · rw [hraise, hframe, hu]
    rfl

theorem State.pruneTimer_full {s : State} {c i : Nat} {g : Group} (hg : s.group? (groupKey c i) = some g) (hfull : g.fullAt.isSome = true) {m : Member} (hmembers : g.members = [m])
    (hpruned : m.pruned = false) : Sys2Proof.Machine.pruneTimer c i s = (s.pruneMember (groupKey c i) g m).advanceGroup (groupKey c i) := by
  have hlowest : (inGroup g).filter (fun m => ackedOf g m == lowestAck g) = [m] := by
    rw [lowestAck_one hmembers hpruned, inGroup, hmembers, List.filter_cons_of_pos (by rw [hpruned]; rfl), List.filter_nil, List.filter_cons_of_pos (by rw [beq_self_eq_true]), List.filter_nil]
  unfold Sys2Proof.Machine.pruneTimer
  dsimp only
  rw [hg]
  dsimp only
  rw [if_neg (by rw [Option.isNone_eq_false_iff.mpr hfull]; decide), hlowest]
  rfl

theorem groupLand_none {s : State} {p : Packet} (hrx : s.rx? (rxKeyOf p.srcPkg p.flow true) = none) (n : Nat) : s.groupLand n p = s := by
  unfold State.groupLand
  dsimp only
  rw [hrx]

theorem groupAck_advances {n : Nat} {p : Packet} {s : State} {g : Group} {k : Nat} {m : Member} (hport : isPort n = true) (hdst : p.dstPkg = s.pkgId) (hgroups : s.groups = [(k, some g)])
    (hflow : k % 65536 = p.flow) (hmembers : g.members = [m]) (hpkg : m.pkg = p.srcPkg) (hpruned : m.pruned = false) (hsent : (p.psn - g.oldest).toNat ≤ g.sent)
    (hacked : ackedOf g m ≤ (p.psn - g.oldest).toNat) (hdata : p.data.length < 10) : Runs (.groupAck n p) s fun t =>
      (∃ h, t.group? k = some h ∧ h.oldest = p.psn ∧ h.window = g.window.drop (p.psn - g.oldest).toNat) ∧
      t = { s with groups := t.groups, cores := t.cores, packetOut := t.packetOut } := by
  have hg : s.group? k = some g := by unfold State.group?; rw [hgroups]; simp [tabGet]
  obtain ⟨h, hh⟩ : ∃ h, h = { g with members := g.members.map (ackedBy g p) } := ⟨_, rfl⟩
  have hrun : groupAck n p s = (s.setGroup k (some h)).advanceGroup k := by
    unfold groupAck State.memberAck State.adopt
    rw [if_neg (not_not_intro hdst), groupOf_one hgroups hflow hmembers hpkg hsent]
    dsimp only
    rw [if_pos hdata, State.modGroup_some hg, hh]
    rfl
  have hlow : min h.sent (lowestAck h) = (p.psn - g.oldest).toNat := by
    rw [lowestAck_one (g := h) (m := ackedBy g p m) (by rw [hh, hmembers]; rfl) (by rw [ackedBy_pruned, hpruned])]
    have hreached : ackedOf h (ackedBy g p m) = (p.psn - g.oldest).toNat := by rw [hh]; exact ackedBy_acked hpkg hacked
    have hhsent : h.sent = g.sent := by rw [hh]
    rw [hreached, hhsent]
    exact min_eq_right hsent
  obtain ⟨⟨x, hx, holdest, hwin, -⟩, hframe⟩ := State.advanceGroup_group (State.group?_setGroup s k (some h))
  rw [hlow] at holdest hwin
  rw [← hrun] at hx hframe
  refine runs_of_need rfl hport ⟨⟨x, hx, ?_, ?_⟩, hframe⟩
  · rw [holdest, hh]
    exact oldest_advance _ _
  · rw [hwin, hh]

theorem pruneTimer_prunes {c i : Nat} {s : State} {g : Group} (hc : isContext c = true) (hg : s.group? (groupKey c i) = some g) (hid : g.id = i) (hctx : g.ctx = c) {m : Member}
    (hfull : g.fullAt.isSome = true) (hmembers : g.members = [m]) (hpruned : m.pruned = false) (hroom : s.hasRoom s.keeperDie) : Runs (.pruneTimer c i) s fun t =>
      raised s t s.keeperDie fMcastPruned ∧ (∃ h x, t.group? (groupKey c i) = some h ∧ h.members = [x] ∧ x.pkg = m.pkg ∧ x.pruned = true) ∧
      (∃ o, t.sent = s.sent ++ [.prune (s.ctx c).job i m.pkg o (s.count s.keeperDie)]) := by
  obtain ⟨hraised, hgroup, first, hsent⟩ := State.pruneMember_room hg m hroom
  have hrun := State.pruneTimer_full hg hfull hmembers hpruned
  obtain ⟨⟨x, hx, -, -, hxmembers⟩, hframe⟩ := State.advanceGroup_group hgroup
  rw [← hrun] at hx hframe
  have hdies : (Sys2Proof.Machine.pruneTimer c i s).dies = (s.pruneMember (groupKey c i) g m).dies := by rw [hframe]
  have hsents : (Sys2Proof.Machine.pruneTimer c i s).sent = (s.pruneMember (groupKey c i) g m).sent := by rw [hframe]
  refine runs_of_need rfl hc ⟨?_, ⟨x, { m with pruned := true }, hx, ?_, rfl, rfl⟩, first, ?_⟩
  · obtain ⟨r, hheld, hrest⟩ := hraised
    exact ⟨r, by rw [State.die_of_dies hdies]; exact hheld, hrest⟩
  · rw [hxmembers, prunedOf, hmembers, List.map_cons, List.map_nil, if_pos rfl]
  · rw [hsents, hsent, hctx, hid]

theorem groupsAdvanceAndPrune : GroupsAdvanceAndPrune := by
  refine ⟨fun n p s g k m hport hdst hgroups hflow hmembers hpkg hpruned hsent hwindow hacked hdata =>
    groupAck_advances hport hdst hgroups hflow hmembers hpkg hpruned hsent hacked hdata, fun c i s g hc hg hid hctx => ⟨fun m hfull hmembers hpruned hroom =>
    pruneTimer_prunes hc hg hid hctx hfull hmembers hpruned hroom, fun hfull => ?notFull⟩,
    fun n p s y hport hrx htransits hsrc hflow hgroup hdie => ⟨fun hin hup hreach => ?copy, fun hout => ?noCopy⟩⟩
  case notFull =>
    refine runs_of_need rfl hc ?_
    unfold pruneTimer
    dsimp only
    rw [hg]
    exact if_pos (by rw [hfull]; rfl)
  case copy =>
    have hany : (y.members.any fun m => !y.pruned.contains m) = true := by simpa using hin
    have hrun : groupWrite n p s = (s.cross n y.outPort [p]).groupLand n p := by
      unfold groupWrite
      rw [htransits, List.filter_cons_of_pos (by rw [hany]; simp [hsrc, hflow, hgroup, hdie])]
      rfl
    refine runs_of_need rfl hport ?_
    rw [hrun, cross_reached hreach hup]
    exact groupLand_none (s := { s with packetOut := s.packetOut ++ [(y.outPort, p)] }) hrx n
  case noCopy =>
    have hnone : (y.members.any fun m => !y.pruned.contains m) = false := by simpa using hout
    have hrun : groupWrite n p s = s.groupLand n p := by
      unfold groupWrite
      rw [htransits, List.filter_cons_of_neg (by rw [hnone, Bool.and_false]; exact Bool.false_ne_true)]
      rfl
    refine runs_of_need rfl hport ?_
    rw [hrun]
    exact groupLand_none hrx n

/-- Settles O37: what a SETUP does at each place of its route, what a group's answers, timer and copies do, and what each time message leaves. -/
theorem setupsGroupsAndTime : Obligations.SetupsGroupsAndTime := ⟨setupsReserveAlongTheRoute, groupsAdvanceAndPrune, timeTreeExchanges⟩

end Sys2Proof.Machine

end

section
/-! SUPPORT. Proofs about launches: their blocks, binding, the start of their grids and their end (R26, R51, R151, R188, R190, R283, R323, R326, R328, R368, R383, R384, R499, R512). -/

namespace Sys2Proof.Machine

/-! ## Commands at a queue's head (R368, R370) -/

theorem State.queue_of {s : State} {q : QRef} {x : Queue} (h : s.queue? q = some x) : s.queue q = x := by rw [State.queue, h]; rfl

theorem State.queue?_of_queues {s t : State} (h : t.queues = s.queues) (q : QRef) : t.queue? q = s.queue? q := congrArg (fun l => tabGet none l (qkey q)) h

theorem State.queue_of_queues {s t : State} (h : t.queues = s.queues) (q : QRef) : t.queue q = s.queue q := by
  unfold State.queue
  rw [State.queue?_of_queues h]

theorem otherQueues_setQueue (s : State) (q : QRef) (x : Option Queue) : otherQueues s (s.setQueue q x) q := fun _ h => tabGet_tabSet_ne _ _ _ h

theorem State.queueWrite_hostMem (s : State) (port a : Nat) (l : List Byte) : s.queueWrite port a l = { s with hostMem := (s.queueWrite port a l).hostMem } := rfl

theorem State.writeStatus_hostMem (s : State) (q : QRef) : s.writeStatus q = { s with hostMem := (s.writeStatus q).hostMem } := by
  unfold State.writeStatus
  split
  · split
    · exact State.queueWrite_hostMem _ _ _ _
    · rfl
  · rfl

/-- A change of a queue, with its status record where that is due. -/
theorem State.putQueue_frame {s : State} {q : QRef} {x : Queue} (h : s.queue? q = some x) (f : Queue → Queue) :
    s.putQueue q f = { s.setQueue q (some (f x)) with hostMem := (s.putQueue q f).hostMem } := by
  unfold State.putQueue
  rw [h]
  dsimp only
  split
  · rfl
  · exact State.writeStatus_hostMem _ q

theorem State.putQueue_queue? {s : State} {q : QRef} {x : Queue} (h : s.queue? q = some x) (f : Queue → Queue) :
    (s.putQueue q f).queue? q = some (f x) ∧ otherQueues s (s.putQueue q f) q := by
  rw [State.putQueue_frame h f]
  exact ⟨State.queue?_setQueue s q _, otherQueues_setQueue s q _⟩

/-- The command at the head has ended. -/
theorem State.finish_head {s : State} {q : QRef} {x : Queue} {p : Pending} {l : List Pending} (h : s.queue? q = some x) (hcmds : x.cmds = p :: l) (o : Done) :
    s.finish q o = s.setQueue q (some { x with cmds := { p with outcome := some o } :: l }) := by
  unfold State.finish State.modQueue
  rw [h]
  dsimp only
  rw [hcmds]

/-- The command of a context that is already taken goes on at once. -/
theorem State.command_taken {s : State} {q : QRef} {c : Nat} {p : Pending} {l : List Pending} (hhead : atHead s q c p l) (htaken : p.taken = true) (hany : primaryOnly p.cmd = false)
    (f : State → Pending → State) : s.command q f = f s p := by
  obtain ⟨hctx, -, -, houtcome, hjournal, x, hx, hcmds⟩ := hhead
  have hqueue := State.queue_of hx
  have hsettle : s.settleHead q = s := by
    unfold State.settleHead
    rw [hqueue, hcmds]
    dsimp only
    rw [hjournal]
  have hcmd : s.headCmd q = some p := by
    unfold State.headCmd
    rw [hqueue, hcmds]
    exact if_pos (by rw [houtcome]; rfl)
  have htake : s.takeCmd q p = s := if_pos htaken
  unfold State.command
  dsimp only
  rw [hsettle, hcmd]
  dsimp only
  rw [if_neg (by rw [hctx]; exact Bool.false_ne_true), htake, hcmd]
  exact if_neg (by rw [Option.getD_some, hany]; exact Bool.false_ne_true)

/-- A command that was taken has ended with a status. -/
theorem State.endCmd_ends {s : State} {q : QRef} {x : Queue} {p : Pending} {l : List Pending} (h : s.queue? q = some x) (hcmds : x.cmds = p :: l) (htaken : p.taken = true)
    (status fault result : Nat) : endsWith (s.endCmd q status fault result) q p l status fault result ∧ s.endCmd q status fault result = { s with queues := (s.endCmd q status fault result).queues } := by
  have hend : s.endCmd q status fault result = s.setQueue q (some { x with cmds := { p with outcome := some { status := status, fault := fault, result := result } } :: l }) :=
    State.finish_head h hcmds _
  rw [hend]
  refine ⟨⟨p.serial, ?_⟩, rfl⟩
  rw [State.queue_of (State.queue?_setQueue s q _)]
  dsimp only
  rw [← htaken]

/-! ## Launch blocks (R368, R383, R384) -/

theorem State.modCtx_frame (s : State) (c : Nat) (f : Context → Context) : s.modCtx c f = { s with contexts := (s.modCtx c f).contexts } := by
  unfold State.modCtx
  split <;> rfl

theorem queue_normal {q : QRef} {c : Nat} (h : ctxOf q = some c) : ∃ k, q = .normal c k := by
  cases q with
  | normal d k =>
    cases h
    exact ⟨k, rfl⟩
  | kernel p => cases h

theorem launchRow_eq {s : State} {q : QRef} {c : Nat} {p : Pending} {l : List Pending} {r : Bref} {n : Nat} (hhead : atHead s q c p l) (htaken : p.taken = true) (hcmd : p.cmd = .launch r n) :
    launchRow q s = if s.holder.isNone || (s.launchOf c).isSome || s.launchHeld c then s.waitCmd q else s.checkLaunch q c r n := by
  obtain ⟨k, rfl⟩ := queue_normal hhead.1
  unfold launchRow
  rw [State.command_taken hhead htaken (by rw [hcmd]; rfl), hcmd]

section
variable {s : State} {q : QRef} {c : Nat} {p : Pending} {l : List Pending} {r : Bref} {n : Nat} {x : Queue}
  (hx : s.queue? q = some x) (hcmds : x.cmds = p :: l)
include hx hcmds

/-- A block that may have been read ahead (R368). -/
theorem State.checkLaunch_block {m : List Byte} (h : p.block = some m) : s.checkLaunch q c r n = s.checkBlock q c m n := by
  unfold State.checkLaunch
  rw [State.queue_of hx, hcmds]
  simp only [List.head?_cons, Option.bind_some, h]

theorem State.checkLaunch_unmapped (h : p.block = none) (hmap : s.relocate c r n false = none) : s.checkLaunch q c r n = s.cmdFault q 2 fAddrUnmapped r.offset := by
  unfold State.checkLaunch
  rw [State.queue_of hx, hcmds]
  simp only [List.head?_cons, Option.bind_some, h, hmap]

theorem State.checkLaunch_read {b : Buf} {u : State} {m : List Byte} (h : p.block = none) (hmap : s.relocate c r n false = some b) (hread : s.readBuf (s.queue q).port c b n = .ok u m) :
    s.checkLaunch q c r n = u.checkBlock q c m n := by
  rw [State.queue_of hx] at hread
  unfold State.checkLaunch
  rw [State.queue_of hx, hcmds]
  simp only [List.head?_cons, Option.bind_some, h, hmap, hread]

end

/-- The state from which a launch over packages takes a free value. -/
def freed (u : State) (x : Launch) : State := if x.packages ≤ 1 then u else u.takeFresh.2

theorem freed_frame (u : State) (x : Launch) : freed u x = { u with fresh := (freed u x).fresh } := by
  unfold freed
  split <;> rfl

theorem imagesOk_freed (u : State) (x : Launch) (c : Nat) (y : Launch) : (freed u x).imagesOk c y = u.imagesOk c y := by
  rw [freed_frame]
  rfl

/-- A launch as a check that it passes notes it. -/
def notedLaunch (u : State) (q : QRef) (c : Nat) (m : List Byte) : Launch :=
  let x := launchOfBlock q m
  { x with cores := x.cores.map ((freed u x).relocCore c) }

theorem checkBlock_ok {u : State} {q : QRef} {c n : Nat} {m : List Byte} (hok : u.launchOk c m n (launchOfBlock q m) = true) (himages : u.imagesOk c (launchOfBlock q m) = true) :
    u.checkBlock q c m n = ((freed u (launchOfBlock q m)).modCtx c fun y => { y with launch := some (notedLaunch u q c m) }).waitCmd q := by
  have himages' := (imagesOk_freed u (launchOfBlock q m) c (launchOfBlock q m)).trans himages
  unfold State.checkBlock
  dsimp only
  rw [if_neg (by rw [hok]; decide)]
  exact if_neg (by rw [show (if (launchOfBlock q m).packages ≤ 1 then u else u.takeFresh.2) = freed u (launchOfBlock q m) from rfl, himages']; decide)

theorem checkBlock_bad {u : State} {q : QRef} {c n : Nat} {m : List Byte} (hok : u.launchOk c m n (launchOfBlock q m) = false) :
    u.checkBlock q c m n = (freed u (launchOfBlock q m)).endCmd q 1 0 0 := by
  unfold State.checkBlock
  dsimp only
  exact if_pos (by rw [hok]; rfl)

theorem fieldAt_lt (l : List Byte) (o n : Nat) : fieldAt l o n < 256 ^ n := by
  have hlen : (slice l o n).length = n := by simp only [slice, List.length_append, List.length_replicate, List.length_take]; omega
  have hlt := ofLe_lt (slice l o n)
  rwa [hlen] at hlt

theorem launchBlocksAreReadAndChecked : LaunchBlocksAreReadAndChecked := by
  intro q c s p l r n hhead htaken hcmd
  have hrun := launchRow_eq hhead htaken hcmd
  obtain ⟨hctx, hq, hbound, -, -, x, hx, hcmds⟩ := hhead
  refine ⟨fun h => ?waits, fun hlaunch hheld hholder hblock hmap hroom => ?unmapped, fun b u m hlaunch hheld hholder hread huq huc => ⟨fun hok himages => ?noted, fun hbad => ?refused⟩⟩
  case waits =>
    rw [if_pos (by obtain h | h | h := h <;> simp [h])] at hrun
    obtain ⟨hqueue, hothers⟩ := State.putQueue_queue? hx (fun x : Queue => { x with st := .waiting })
    refine runs_of_need rfl hq ?_
    rw [hrun]
    have hframe := State.putQueue_frame hx (fun x : Queue => { x with st := .waiting })
    unfold State.waitCmd
    refine ⟨?_, ?_, hothers, ?_⟩
    · rw [State.queue_of hqueue]
    · rw [State.queue_of hqueue]; exact hcmds
    · rw [hframe]; rfl
  case unmapped =>
    rw [if_neg (by simp [hlaunch, hheld, hholder]), State.checkLaunch_unmapped hx hcmds hblock hmap] at hrun
    obtain ⟨d, hd⟩ : ∃ d, d = 96 + (s.queue q).port := ⟨_, rfl⟩
    rw [← hd] at hroom ⊢
    obtain ⟨g, hg, hraise⟩ := s.raiseTo_room d fAddrUnmapped (ctxOf q).toList false false (le 8 r.offset) hroom
    have hrun : launchRow q s = (s.setDie d { s.die d with ledger := g }).endCmd q 2 fAddrUnmapped 0 := by rw [hrun, State.cmdFault, ← hd, hraise]
    obtain ⟨hends, hframe⟩ := State.endCmd_ends (s := s.setDie d { s.die d with ledger := g }) (q := q) hx hcmds htaken 2 fAddrUnmapped 0
    rw [← hrun] at hends hframe
    have hheld : ((launchRow q s).die d).ledger.held = g.held := by
      rw [hframe]
      change ((s.setDie d { s.die d with ledger := g }).die d).ledger.held = _
      rw [State.die_setDie]
    rw [hg] at hheld
    exact runs_of_need rfl hq ⟨⟨_, hheld, rfl, rfl, rfl⟩, hends, by rw [hframe]; rfl⟩
  case noted =>
    have hblock : s.checkLaunch q c r n = u.checkBlock q c m n := by
      obtain ⟨hnone, hmap, hbytes⟩ | ⟨hblock, rfl⟩ := hread
      · exact State.checkLaunch_read hx hcmds hnone hmap hbytes
      · exact State.checkLaunch_block hx hcmds hblock
    rw [if_neg (by simp [hlaunch, hheld, hholder]), hblock, checkBlock_ok hok himages] at hrun
    obtain ⟨v, hv⟩ : ∃ v, v = (freed u (launchOfBlock q m)).modCtx c fun y => { y with launch := some (notedLaunch u q c m) } := ⟨_, rfl⟩
    rw [← hv] at hrun
    have hvframe : v = { freed u (launchOfBlock q m) with contexts := v.contexts } := by rw [hv]; exact State.modCtx_frame _ _ _
    have hvx : v.queue? q = some x := by
      refine (State.queue?_of_queues ?_ q).trans hx
      rw [hvframe, freed_frame]
      exact huq
    have hfreed : (freed u (launchOfBlock q m)).contexts = s.contexts := by rw [freed_frame]; exact huc
    obtain ⟨hqueue, -⟩ := State.putQueue_queue? hvx (fun x : Queue => { x with st := .waiting })
    have hcontexts : (launchRow q s).contexts = v.contexts := by rw [hrun]; exact State.putQueue_contexts _ _ _
    obtain ⟨y, hy⟩ := Option.isSome_iff_exists.mp hbound
    have hctx : (launchRow q s).ctx? c = some { y with launch := some (notedLaunch u q c m) } := by
      rw [State.ctx?_of_contexts hcontexts, hv, State.ctx?_modCtx, State.ctx?_of_contexts hfreed, hy]
      rfl
    refine runs_of_need rfl hq ⟨⟨notedLaunch u q c m, ?_, rfl, rfl, toNat_ofNat_word (fieldAt_lt m 16 8), rfl, rfl, decide_eq_true_iff⟩, ?_, ?_, fun e he => ?_⟩
    · rw [State.launchOf, hctx]; rfl
    · rw [hrun, State.waitCmd, State.queue_of hqueue]
    · rw [hrun, State.waitCmd, State.queue_of hqueue]; exact hcmds
    · rw [State.ctx?_of_contexts hcontexts, hv, State.ctx?_modCtx_ne _ _ he, State.ctx?_of_contexts hfreed]
  case refused =>
    have hblock : s.checkLaunch q c r n = u.checkBlock q c m n := by
      obtain ⟨hnone, hmap, hbytes⟩ | ⟨hblock, rfl⟩ := hread
      · exact State.checkLaunch_read hx hcmds hnone hmap hbytes
      · exact State.checkLaunch_block hx hcmds hblock
    rw [if_neg (by simp [hlaunch, hheld, hholder]), hblock, checkBlock_bad hbad] at hrun
    have hfx : (freed u (launchOfBlock q m)).queue? q = some x := by
      rw [freed_frame]
      exact (State.queue?_of_queues huq q).trans hx
    obtain ⟨hends, hframe⟩ := State.endCmd_ends hfx hcmds htaken 1 0 0
    rw [← hrun] at hends hframe
    refine runs_of_need rfl hq ⟨hends, ?_⟩
    rw [hframe, freed_frame]
    exact huc

/-! ## The start of a grid (R323, R326, R328) -/

theorem mayStart_iff (s : State) (j : Nat) : s.mayStart j = true ↔
    ∃ c ∈ s.jobCtxs j, (s.ctx c).forced = false ∧ ∃ x, s.launchOf c = some x ∧ (x.st = .armed ∨ x.st = .running) ∧ (x.packages ≤ 1 ∨ x.go = true) := by
  unfold State.mayStart
  simp only [List.any_eq_true, Bool.and_eq_true, Bool.not_eq_true', Option.any_eq_true, Bool.or_eq_true, beq_iff_eq, decide_eq_true_iff]

/-- Of a job and L found so far and those of one grid more, those whose L comes first. -/
def sooner (a : Option (Nat × Nat)) (e : Nat × Nat) : Option (Nat × Nat) := match a with
  | some b => if e.2 < b.2 then some e else some b
  | none => some e

theorem foldl_sooner (l : List (Nat × Nat)) (b : Nat × Nat) : ∃ e, l.foldl sooner (some b) = some e ∧ (e = b ∨ e ∈ l) ∧ e.2 ≤ b.2 ∧ ∀ f ∈ l, e.2 ≤ f.2 := by
  induction l generalizing b with
  | nil => exact ⟨b, rfl, .inl rfl, le_refl _, by simp⟩
  | cons f l ih =>
    rw [List.foldl_cons]
    by_cases hf : f.2 < b.2
    · rw [show sooner (some b) f = some f from if_pos hf]
      obtain ⟨e, he, hmem, hle, hall⟩ := ih f
      refine ⟨e, he, .inr ?_, by omega, ?_⟩
      · simpa [List.mem_cons] using hmem
      · simpa [List.mem_cons] using ⟨hle, fun a b hab => hall (a, b) hab⟩
    · rw [show sooner (some b) f = some b from if_neg hf]
      obtain ⟨e, he, hmem, hle, hall⟩ := ih b
      refine ⟨e, he, hmem.imp_right (List.mem_cons_of_mem _), hle, ?_⟩
      rintro g hg
      obtain rfl | hg := List.mem_cons.mp hg
      · omega
      · exact hall g hg

theorem foldl_sooner_none {l : List (Nat × Nat)} {e : Nat × Nat} (h : l.foldl sooner none = some e) : e ∈ l ∧ ∀ f ∈ l, e.2 ≤ f.2 := by
  cases l with
  | nil => cases h
  | cons b l =>
    obtain ⟨e', he, hmem, hle, hall⟩ := foldl_sooner l b
    obtain rfl : e' = e := Option.some.inj (he.symm.trans h)
    refine ⟨List.mem_cons.mpr hmem, fun f hf => ?_⟩
    obtain rfl | hf := List.mem_cons.mp hf
    · exact hle
    · exact hall f hf

/-- The job and L of a grid that may start. -/
def State.startable (s : State) (g : Grid) : Option (Nat × Nat) := match g.armed, g.job with
  | some l, some j => if s.mayStart j then some (j, l) else none
  | _, _ => none

theorem State.startable_iff {s : State} {g : Grid} {j l : Nat} : s.startable g = some (j, l) ↔ g.job = some j ∧ g.armed = some l ∧ s.mayStart j = true := by
  unfold State.startable
  cases ha : g.armed <;> cases hj : g.job <;> simp
  grind

theorem State.startsNext_eq (s : State) (d : Nat) : s.startsNext d = ((s.die d).grids.filterMap s.startable).foldl sooner none := rfl

theorem State.startsNext_first {s : State} {d j l : Nat} (h : s.startsNext d = some (j, l)) :
    (∃ g ∈ (s.die d).grids, g.job = some j ∧ g.armed = some l) ∧ s.mayStart j = true ∧
    ∀ g ∈ (s.die d).grids, ∀ i m, g.job = some i → g.armed = some m → s.mayStart i = true → l ≤ m := by
  rw [State.startsNext_eq] at h
  obtain ⟨hmem, hfirst⟩ := foldl_sooner_none h
  obtain ⟨g, hg, hstart⟩ := List.mem_filterMap.mp hmem
  obtain ⟨hjob, harmed, hmay⟩ := State.startable_iff.mp hstart
  exact ⟨⟨g, hg, hjob, harmed⟩, hmay, fun g' hg' i m hi hm hmay' => hfirst (i, m) (List.mem_filterMap.mpr ⟨g', hg', State.startable_iff.mpr ⟨hi, hm, hmay'⟩⟩)⟩

theorem State.startsNext_none {s : State} {d : Nat} (h : ∀ g ∈ (s.die d).grids, ∀ i m, g.job = some i → g.armed = some m → s.mayStart i = false) : s.startsNext d = none := by
  have hnone : (s.die d).grids.filterMap s.startable = [] := by
    refine List.filterMap_eq_nil_iff.mpr fun g hg => ?_
    cases hstart : s.startable g with
    | none => rfl
    | some e =>
      obtain ⟨hjob, harmed, hmay⟩ := State.startable_iff.mp (show s.startable g = some (e.1, e.2) from hstart)
      rw [h g hg _ _ hjob harmed] at hmay
      cases hmay
  rw [State.startsNext_eq, hnone]
  rfl

/-- A change of a job's grid is found at that job's, and at no other. -/
theorem Die.find?_modGrid (x : Die) (j : Nat) {f : Grid → Grid} (hf : ∀ g, (f g).job = g.job) (i : Nat) :
    (x.modGrid j f).grids.find? (fun g => g.job == some i) = (x.grids.find? fun g => g.job == some i).map fun g => if g.job == some j then f g else g := by
  unfold Die.modGrid
  rw [List.find?_map]
  congr 2
  funext g
  rw [Function.comp_apply]
  split
  · rw [hf]
  · rfl

theorem Die.gridOf_modGrid {x : Die} {j : Nat} {f : Grid → Grid} (h : ∃ g ∈ x.grids, g.job = some j) (hf : ∀ g, (f g).job = g.job) : (x.modGrid j f).gridOf j = f (x.gridOf j) := by
  obtain ⟨g, hg, hjob⟩ := h
  obtain ⟨y, hy⟩ := Option.isSome_iff_exists.mp (List.find?_isSome (p := fun g : Grid => g.job == some j).mpr ⟨g, hg, by rw [hjob]; exact beq_self_eq_true _⟩)
  have hyjob : (y.job == some j) = true := List.find?_some (p := fun g : Grid => g.job == some j) hy
  unfold Die.gridOf
  rw [Die.find?_modGrid x j hf, hy, Option.map_some, if_pos hyjob]
  rfl

theorem Die.gridOf_modGrid_ne {x : Die} {i j : Nat} {f : Grid → Grid} (hf : ∀ g, (f g).job = g.job) (h : i ≠ j) : (x.modGrid j f).gridOf i = x.gridOf i := by
  unfold Die.gridOf
  rw [Die.find?_modGrid x j hf]
  cases hy : x.grids.find? fun g => g.job == some i with
  | none => rfl
  | some y =>
    have hyjob : y.job = some i := by simpa using List.find?_some (p := fun g : Grid => g.job == some i) hy
    rw [Option.map_some, if_neg (by rw [hyjob]; simpa using h)]

/-! ### Launches of several contexts -/

theorem State.launchOf_modLaunch (s : State) (c e : Nat) (f : Launch → Launch) : (s.modLaunch c f).launchOf e = if e = c then (s.launchOf e).map f else s.launchOf e := by
  unfold State.launchOf State.modLaunch
  by_cases he : e = c
  · subst he
    rw [if_pos rfl, State.ctx?_modCtx]
    cases s.ctx? e <;> rfl
  · rw [if_neg he, State.ctx?_modCtx_ne _ _ he]

/-- From `s` to `t` launches have changed, and nothing else of a context. -/
def launchesOnly (s t : State) : Prop := t = { s with contexts := t.contexts } ∧ ∀ c, ∃ x, t.ctx? c = (s.ctx? c).map fun y => { y with launch := x }

theorem launchesOnly_refl (s : State) : launchesOnly s s := by
  refine ⟨rfl, fun c => ?_⟩
  cases hc : s.ctx? c with
  | none => exact ⟨none, rfl⟩
  | some y => exact ⟨y.launch, rfl⟩

theorem launchesOnly_trans {s t u : State} (hst : launchesOnly s t) (htu : launchesOnly t u) : launchesOnly s u := by
  refine ⟨htu.1.trans (congrArg (fun x : State => { x with contexts := u.contexts }) hst.1), fun c => ?_⟩
  obtain ⟨x, hx⟩ := hst.2 c
  obtain ⟨y, hy⟩ := htu.2 c
  exact ⟨y, by rw [hy, hx, Option.map_map]; rfl⟩

theorem launchesOnly_modLaunch (s : State) (c : Nat) (f : Launch → Launch) : launchesOnly s (s.modLaunch c f) := by
  refine ⟨State.modCtx_frame _ _ _, fun e => ?_⟩
  unfold State.modLaunch
  by_cases he : e = c
  · subst he
    rw [State.ctx?_modCtx]
    cases hc : s.ctx? e with
    | none => exact ⟨none, rfl⟩
    | some y => exact ⟨y.launch.map f, rfl⟩
  · rw [State.ctx?_modCtx_ne _ _ he]
    exact (launchesOnly_refl s).2 e

theorem launchesOnly_job {s t : State} (h : launchesOnly s t) (c : Nat) : (t.ctx c).job = (s.ctx c).job := by
  obtain ⟨x, hx⟩ := h.2 c
  unfold State.ctx
  rw [hx]
  cases s.ctx? c <;> rfl

theorem each_modLaunch (f : Launch → Launch) {l : List Nat} (hl : l.Nodup) (s : State) (e : Nat) :
    (each l s fun s c => s.modLaunch c f).launchOf e = if e ∈ l then (s.launchOf e).map f else s.launchOf e := by
  induction l generalizing s with
  | nil => rfl
  | cons c l ih =>
    obtain ⟨hc, hl⟩ := List.nodup_cons.mp hl
    rw [each_cons, ih hl, State.launchOf_modLaunch]
    by_cases he : e = c
    · subst he; rw [if_neg hc, if_pos rfl, if_pos List.mem_cons_self]
    · rw [if_neg he]; simp only [List.mem_cons, he, false_or]

/-! ### The cores of a die begin to issue -/

/-- A core of a job begins to issue. -/
def State.beginIssue (s : State) (j k : Nat) : State := if (s.core k).ctx.any fun c => (s.ctx c).job == j then s.modCore k fun x => { x with running := true } else s

theorem State.beginIssue_frame (s : State) (j k : Nat) : s.beginIssue j k = { s with cores := (s.beginIssue j k).cores } := by
  unfold State.beginIssue
  split <;> rfl

theorem State.beginIssue_core (s : State) (j k : Nat) :
    (s.beginIssue j k).core k = { s.core k with running := (s.core k).running || (s.core k).ctx.any fun c => (s.ctx c).job == j } ∧ ∀ e, e ≠ k → (s.beginIssue j k).core e = s.core e := by
  unfold State.beginIssue
  split
  next h => exact ⟨by rw [State.core_modCore, h, Bool.or_true], fun e he => State.core_modCore_ne _ _ he⟩
  next h => exact ⟨by rw [Bool.not_eq_true _ |>.mp h, Bool.or_false], fun e _ => rfl⟩

theorem each_beginIssue (j : Nat) {l : List Nat} (hl : l.Nodup) (s : State) :
    (∀ k ∈ l, ((each l s fun s k => s.beginIssue j k).core k).running = ((s.core k).running || (s.core k).ctx.any fun c => (s.ctx c).job == j)) ∧
    (∀ k, k ∉ l → (each l s fun s k => s.beginIssue j k).core k = s.core k) ∧
    each l s (fun s k => s.beginIssue j k) = { s with cores := (each l s fun s k => s.beginIssue j k).cores } := by
  induction l generalizing s with
  | nil => exact ⟨by simp, fun _ _ => rfl, rfl⟩
  | cons a l ih =>
    obtain ⟨ha, hl⟩ := List.nodup_cons.mp hl
    obtain ⟨hin, hout, hframe⟩ := ih hl (s.beginIssue j a)
    obtain ⟨hcore, hothers⟩ := s.beginIssue_core j a
    have hctx : ∀ c, (s.beginIssue j a).ctx c = s.ctx c := fun c => by rw [State.beginIssue_frame]; rfl
    rw [each_cons]
    refine ⟨fun k hk => ?_, fun k hk => ?_, hframe.trans ?_⟩
    · by_cases hka : k = a
      · subst hka
        rw [hout k ha, hcore]
      · rw [hin k (List.mem_of_ne_of_mem hka hk), hothers k hka]
        simp only [hctx]
    · obtain ⟨hka, hkl⟩ := not_or.mp (mt List.mem_cons.mpr hk)
      rw [hout k hkl, hothers k hka]
    · exact congrArg (fun x : State => { x with cores := (each l (s.beginIssue j a) fun s k => s.beginIssue j k).cores }) (s.beginIssue_frame j a)

theorem gridsStartAtL : GridsStartAtL := by
  intro d s hd
  refine ⟨fun j l hnext => ?starts, fun hnone => ?none, mayStart_iff s⟩
  case none =>
    refine runs_of_need rfl hd ?_
    unfold gridStart
    rw [State.startsNext_none hnone]
  case starts =>
    obtain ⟨hgrid, hmay, hfirst⟩ := State.startsNext_first hnext
    refine ⟨hgrid, hmay, hfirst, ?_⟩
    obtain ⟨u, hu⟩ : ∃ u, u = s.modDie d fun y => y.modGrid j (startedGrid l) := ⟨_, rfl⟩
    obtain ⟨v, hv⟩ : ∃ v, v = each (s.jobCtxs j) u fun s c => s.modLaunch c fun x => if x.st = .armed then { x with st := .running } else x := ⟨_, rfl⟩
    have hrun : gridStart d s = each ((List.range 4).map (4 * d + ·)) v fun s k => s.beginIssue j k := by
      unfold gridStart
      rw [hnext, hv, hu]
      rfl
    have hcores : ((List.range 4).map (4 * d + ·)).Nodup := List.nodup_range.map fun a b h => Nat.add_left_cancel h
    obtain ⟨hin, -, hframe⟩ := each_beginIssue j hcores v
    rw [← hrun] at hin hframe
    have hlaunches : launchesOnly u v := by
      rw [hv]
      exact each_keeps (launchesOnly u) _ (fun t c h => launchesOnly_trans h (launchesOnly_modLaunch t c _)) _ _ (launchesOnly_refl u)
    have hdie : ∀ e, (gridStart d s).die e = u.die e := fun e => by rw [hframe, hlaunches.1]; rfl
    have hgridOf : (gridStart d s).die d = (s.die d).modGrid j (startedGrid l) := by rw [hdie, hu, State.die_modDie]
    have hj : ∃ g ∈ (s.die d).grids, g.job = some j := hgrid.imp fun g h => ⟨h.1, h.2.1⟩
    have hstarted := Die.gridOf_modGrid hj (f := startedGrid l) fun _ => rfl
    refine runs_of_need rfl hd ⟨?_, ?_, ?_, fun i hi => ?_, fun k hk => ?_, fun e he y hy => ?_, fun e he => ?_, ?_⟩
    · rw [hgridOf, hstarted]; rfl
    · rw [hgridOf, hstarted]; rfl
    · rw [hgridOf, hstarted]; rfl
    · rw [hgridOf, Die.gridOf_modGrid_ne (f := startedGrid l) (fun _ => rfl) hi]
    · have hcore : v.core (4 * d + k) = s.core (4 * d + k) := by rw [hlaunches.1, hu]; rfl
      rw [hin _ (List.mem_map.mpr ⟨k, List.mem_range.mpr hk, rfl⟩), hcore]
      simp only [launchesOnly_job hlaunches]
      rw [hu]
      rfl
    · have hctxs : (gridStart d s).contexts = v.contexts := by rw [hframe]
      rw [State.launchOf_of_contexts hctxs, hv, each_modLaunch _ (l := s.jobCtxs j) (tabKeys_nodup _ _), if_pos he]
      have hul : u.launchOf e = some y := by rw [hu]; exact hy
      rw [hul]
      rfl
    · rw [hdie, hu, State.die_modDie_ne _ _ he]
    · rw [hframe, hlaunches.1, hu]
      rfl

/-! ## The end of a core's part (R151, R383 step 6) -/

section
variable {s : State} {k c : Nat} {l : Launch} {e : CoreEntry} (hctx : (s.core k).ctx = some c) (hlaunch : s.launchOf c = some l) (hpart : (s.core k).partEnded = false)
  (hforced : (s.ctx c).forced = false) (hentry : l.cores.find? (fun e => s.coreOf e.core == some k) = some e)

theorem partEnd_busy (h : (s.core k).halted = false ∨ unitsIdle (s.core k) = false) : corePartEnd k s = s := by
  unfold corePartEnd
  dsimp only
  split
  · rfl
  · exact if_pos (by obtain h | h := h <;> simp [h])

include hctx hlaunch hpart hforced hentry

/-- A core that has halted, its units idle, ends its part. -/
theorem partEnd_idle (hhalted : (s.core k).halted = true) (hidle : unitsIdle (s.core k) = true) :
    (e.outKind = 0 ∨ e.outBytes = 0 → corePartEnd k s = s.modCore k fun y => { y with partEnded := true }) ∧
    (e.outKind ≠ 0 → e.outBytes ≠ 0 → s.moverFree (s.queue l.q).port k (outBuf e) e.outBytes = false → corePartEnd k s = s) ∧
    (∀ u t : State, e.outKind = 1 → e.outBytes ≠ 0 → s.moverFree (s.queue l.q).port k (outBuf e) e.outBytes = true →
      (s.modCore k fun y => { y with partEnded := true }).eccRead (shelfKey k (e.outRow * 1024)) e.outBytes = u →
      u.writeHost (u.queue l.q).port c (outBuf e) (readBytes u.mem (shelfKey k (e.outRow * 1024)) e.outBytes) = some t → corePartEnd k s = t) := by
  unfold corePartEnd
  dsimp only
  rw [hctx]
  dsimp only
  rw [if_neg (by rw [hhalted, hpart, hidle, hforced]; decide), hlaunch, Option.bind_some, hentry, Option.map_some]
  dsimp only
  refine ⟨fun h => if_pos h, fun hkind hbytes hfree => ?_, fun u t hkind hbytes hfree hu hwrite => ?_⟩
  · rw [if_neg (by simp [hkind, hbytes])]
    exact if_pos (by rw [hfree]; rfl)
  · have hhost : (outBuf e).kind = 1 := hkind
    rw [if_neg (by simp [hkind, hbytes]), if_neg (by rw [hfree]; decide), hu, if_neg (by rw [hhost]; exact Bool.false_ne_true)]
    unfold State.writeBuf
    rw [if_pos hhost, hwrite]

end

theorem State.writeHost_open {s : State} {c : Nat} (hsealed : (s.ctx c).sealed = false) (hbarred : dmaBarred (s.ctx c) = false) (port : Nat) (b : Buf) (l : List Byte) :
    s.writeHost port c b l = some (s.hostWrite port (s.space c) b.addr l) := by
  unfold State.writeHost stagingCtx
  dsimp only
  rw [if_neg (by rw [hbarred]; decide), if_neg (by rw [hsealed]; exact Bool.false_ne_true)]

/-- The output image of a core that has ended its part stands in the host buffer. -/
theorem partEnd_image {k c : Nat} {s : State} {l : Launch} {e : CoreEntry} (hk : isCore k = true) (hctx : (s.core k).ctx = some c) (hlaunch : s.launchOf c = some l) (hpart : (s.core k).partEnded = false)
    (hforced : (s.ctx c).forced = false) (hentry : l.cores.find? (fun e => s.coreOf e.core == some k) = some e) (hhalted : (s.core k).halted = true) (hidle : unitsIdle (s.core k) = true)
    (hkind : e.outKind = 1) (hbytes : e.outBytes ≠ 0) (hfree : s.moverFree (s.queue l.q).port k (outBuf e) e.outBytes = true) (hsealed : (s.ctx c).sealed = false)
    (hbarred : dmaBarred (s.ctx c) = false) (hmarks : s.marks = []) (hwf : s.hostMem.wf = true) : Runs (.corePartEnd k) s fun t =>
      (t.core k).partEnded = true ∧
      t.hostRead (s.queue l.q).port (s.space c) (e.outBase + e.output.offset) e.outBytes = readBytes s.mem (shelfKey k (e.outRow * 1024)) e.outBytes ∧
      (∀ i, i ≠ k → t.core i = s.core i) ∧ t = { s with cores := t.cores, hostMem := t.hostMem } := by
  obtain ⟨u, hu⟩ : ∃ u, u = s.modCore k fun y => { y with partEnded := true } := ⟨_, rfl⟩
  obtain ⟨bytes, hread⟩ : ∃ bytes, bytes = readBytes s.mem (shelfKey k (e.outRow * 1024)) e.outBytes := ⟨_, rfl⟩
  have hmem : readBytes u.mem (shelfKey k (e.outRow * 1024)) e.outBytes = bytes := by rw [hread, hu]; rfl
  have hucore : u.core k = { s.core k with partEnded := true } := by rw [hu, State.core_modCore]
  have huothers : ∀ i, i ≠ k → u.core i = s.core i := fun i hi => by rw [hu, State.core_modCore_ne _ _ hi]
  have hframe : u = { s with cores := u.cores } := by rw [hu]; rfl
  have hqueue : u.queue l.q = s.queue l.q := by rw [hframe]; rfl
  have huctx : u.ctx c = s.ctx c := by rw [hframe]; rfl
  have huhost : u.hostMem = s.hostMem := by rw [hframe]
  have hlen : bytes.length = e.outBytes := by rw [hread]; exact length_readBytes _ _ _
  have hspace : u.space c = s.space c := by unfold State.space; rw [huctx]
  have hclean : u.eccRead (shelfKey k (e.outRow * 1024)) e.outBytes = u := State.eccRead_clean (by rw [hframe]; exact hmarks) _ _
  have hrun := (partEnd_idle hctx hlaunch hpart hforced hentry hhalted hidle).2.2 u _ hkind hbytes hfree (by rw [← hu, hclean])
    (State.writeHost_open (by rw [huctx]; exact hsealed) (by rw [huctx]; exact hbarred) _ _ _)
  rw [hqueue, hmem, hspace] at hrun
  refine runs_of_need rfl hk ?_
  rw [hrun]
  refine ⟨?_, ?_, fun i hi => huothers i hi, ?_⟩
  · change (u.core k).partEnded = true
    rw [hucore]
  · rw [← hread]
    unfold State.hostRead State.hostWrite
    dsimp only
    rw [huhost, ← hlen]
    exact readBytes_writeBytes _ _ _ hwf
  · unfold State.hostWrite
    rw [hframe]

/-! ## The end of a binding (R190, R383 step 7, R499) -/

theorem diesOnly_note (s : State) (d kind code ctx : Nat) (detail : List Byte) : diesOnly s (s.note d kind code ctx detail) := s.note_frame d kind code ctx detail

theorem diesOnly_throttleOff (s : State) (d r : Nat) : diesOnly s (s.throttleOff d r) := by
  unfold State.throttleOff
  split
  · rfl
  · dsimp only
    split
    · exact diesOnly_trans (diesOnly_modDie s d _) (diesOnly_trans (diesOnly_note _ d 0x05 0 noCtx _) (diesOnly_note _ d 0x08 0 noCtx _))
    · exact diesOnly_trans (diesOnly_modDie s d _) (diesOnly_note _ d 0x05 0 noCtx _)

theorem diesOnly_leaveDie (s : State) (d : Nat) : diesOnly s (s.leaveDie d) := by
  unfold State.leaveDie
  split
  · exact diesOnly_trans (diesOnly_throttleOff s d rsStretch) (diesOnly_modDie _ d _)
  · rfl

theorem each_diesOnly {α : Type} (f : State → α → State) (hf : ∀ s a, diesOnly s (f s a)) (l : List α) (s : State) : diesOnly s (each l s f) :=
  each_keeps (diesOnly s) f (fun t a h => diesOnly_trans h (hf t a)) l s rfl

/-- From `s` to `t` the cores, the contexts, the queues and the memory are as they were. -/
def bindingsStay (s t : State) : Prop := t.cores = s.cores ∧ t.contexts = s.contexts ∧ t.queues = s.queues ∧ t.mem = s.mem

theorem bindingsStay_trans {s t u : State} (hst : bindingsStay s t) (htu : bindingsStay t u) : bindingsStay s u :=
  ⟨htu.1.trans hst.1, htu.2.1.trans hst.2.1, htu.2.2.1.trans hst.2.2.1, htu.2.2.2.trans hst.2.2.2⟩

theorem bindingsStay_of_dies {s t : State} (h : diesOnly s t) : bindingsStay s t := by
  rw [h]
  exact ⟨rfl, rfl, rfl, rfl⟩

theorem bindingsStay_modSet (s : State) (w : Nat) (f : WeightSet → WeightSet) : bindingsStay s (s.modSet w f) := by
  unfold State.modSet
  split <;> exact ⟨rfl, rfl, rfl, rfl⟩

theorem bindingsStay_endCoord (s : State) (j : Nat) : bindingsStay s (s.endCoord j) := by
  unfold State.endCoord
  split
  · split <;> exact ⟨rfl, rfl, rfl, rfl⟩
  · exact ⟨rfl, rfl, rfl, rfl⟩

theorem each_bindingsStay {α : Type} (f : State → α → State) (hf : ∀ s a, bindingsStay s (f s a)) (l : List α) (s : State) : bindingsStay s (each l s f) :=
  each_keeps (bindingsStay s) f (fun t a h => bindingsStay_trans h (hf t a)) l s ⟨rfl, rfl, rfl, rfl⟩

theorem bindingsStay_power (s : State) (p : PackagePower) : bindingsStay s { s with power := p } := ⟨rfl, rfl, rfl, rfl⟩

theorem bindingsStay_dropInFlight (s : State) (c : Nat) : bindingsStay s (s.dropInFlight c) := ⟨rfl, rfl, rfl, rfl⟩

/-- A core that is bound to a context leaves it. -/
def State.leaves (s : State) (c k : Nat) : State := if (s.core k).ctx = some c then s.modCore k leaveCore else s

theorem State.leaves_frame (s : State) (c k : Nat) : s.leaves c k = { s with cores := (s.leaves c k).cores } := by
  unfold State.leaves
  split <;> rfl

theorem State.leaves_core (s : State) (c k e : Nat) : (s.leaves c k).core e = if e = k ∧ (s.core e).ctx = some c then leaveCore (s.core e) else s.core e := by
  unfold State.leaves
  by_cases he : e = k
  · subst he
    by_cases hc : (s.core e).ctx = some c
    · rw [if_pos hc, if_pos ⟨rfl, hc⟩, State.core_modCore]
    · rw [if_neg hc, if_neg fun h : e = e ∧ (s.core e).ctx = some c => hc h.2]
  · rw [if_neg fun h : e = k ∧ (s.core e).ctx = some c => he h.1]
    split
    · exact State.core_modCore_ne _ _ he
    · rfl

theorem each_leaves (c : Nat) (l : List Nat) (s : State) (e : Nat) :
    (each l s fun s k => s.leaves c k).core e = if e ∈ l ∧ (s.core e).ctx = some c then leaveCore (s.core e) else s.core e := by
  induction l generalizing s with
  | nil => exact (if_neg fun h => List.not_mem_nil h.1).symm
  | cons k l ih =>
    rw [each_cons, ih, State.leaves_core]
    by_cases hk : e = k ∧ (s.core e).ctx = some c
    · rw [if_pos hk, if_neg (by rintro ⟨-, h⟩; cases h), if_pos ⟨by rw [hk.1]; exact List.mem_cons_self, hk.2⟩]
    · rw [if_neg hk]
      refine if_congr ⟨fun h => ⟨List.mem_cons_of_mem _ h.1, h.2⟩, fun h => ⟨?_, h.2⟩⟩ rfl rfl
      obtain he | he := List.mem_cons.mp h.1
      · exact absurd ⟨he, h.2⟩ hk
      · exact he

theorem each_leaves_frame (c : Nat) (l : List Nat) (s : State) : each l s (fun s k => s.leaves c k) = { s with cores := (each l s fun s k => s.leaves c k).cores } :=
  each_keeps (fun t : State => t = { s with cores := t.cores }) _ (fun t k h => (t.leaves_frame c k).trans (congrArg (fun x : State => { x with cores := (t.leaves c k).cores }) h)) l s rfl

theorem unitQueue_leaveCore (x : Core) (u : Nat) : unitQueue (leaveCore x) u = [] := by
  unfold unitQueue
  split <;> rfl

/-- Once the cores have left, the last change of the contexts is that the launch is over. -/
theorem State.unbind_last (s : State) (c : Nat) : ∃ w, bindingsStay (each ((s.contextEnd c).ctxCores c) (s.contextEnd c) fun s k => s.leaves c k) w ∧
    s.unbind c = w.modCtx c fun y => { y with launch := none, quenchOrdered := false, forced := false, dmaErrors := 0 } := by
  refine ⟨_, ?_, rfl⟩
  refine bindingsStay_trans ?_ (bindingsStay_endCoord _ _)
  refine bindingsStay_trans ?_ (bindingsStay_dropInFlight _ _)
  refine bindingsStay_trans ?_ (bindingsStay_power _ _)
  refine bindingsStay_trans ?_ (each_bindingsStay _ (fun t w => bindingsStay_modSet t w _) _ _)
  refine bindingsStay_trans ?_ (bindingsStay_of_dies (each_diesOnly _ (fun t d => diesOnly_modDie t d _) _ _))
  exact bindingsStay_of_dies (each_diesOnly _ diesOnly_leaveDie _ _)

/-- The binding of a context ends. -/
theorem State.unbind_unbound (s : State) (c : Nat) : unbound s (s.unbind c) c ∧ (s.unbind c).queues = s.queues ∧ (s.unbind c).mem = s.mem := by
  obtain ⟨u, hu⟩ : ∃ u, u = s.contextEnd c := ⟨_, rfl⟩
  obtain ⟨v, hv⟩ : ∃ v, v = each (u.ctxCores c) u fun s k => s.leaves c k := ⟨_, rfl⟩
  obtain ⟨w, hrest, hrun⟩ : ∃ w, bindingsStay v w ∧ s.unbind c = w.modCtx c fun y => { y with launch := none, quenchOrdered := false, forced := false, dmaErrors := 0 } := by
    rw [hv, hu]
    exact s.unbind_last c
  have hdies : diesOnly s u := by rw [hu]; exact diesOnly_note s _ _ _ _ _
  have hframe : v = { u with cores := v.cores } := by rw [hv]; exact each_leaves_frame c _ u
  have hucores : u.ctxCores c = s.ctxCores c := by rw [hdies]; rfl
  have hcore : ∀ k, (s.unbind c).core k = if k ∈ s.ctxCores c ∧ (s.core k).ctx = some c then leaveCore (s.core k) else s.core k := by
    intro k
    have hsame : (s.unbind c).cores = v.cores := by rw [hrun, State.modCtx_frame]; exact hrest.1
    have hscore : u.core k = s.core k := by rw [hdies]; rfl
    unfold State.core at hscore ⊢
    rw [hsame]
    change v.core k = _
    rw [hv, each_leaves, hucores]
    unfold State.core
    rw [hscore]
  refine ⟨⟨?_, fun k hk hctx => ?_, fun k hctx => ?_⟩, ?_, ?_⟩
  · rw [hrun, State.launchOf, State.ctx?_modCtx]
    cases w.ctx? c <;> rfl
  · rw [hcore, if_pos ⟨hk, hctx⟩]
    exact ⟨rfl, rfl, rfl, fun n => unitQueue_leaveCore _ n⟩
  · rw [hcore, if_neg fun h => hctx h.2]
  · rw [hrun, State.modCtx_frame]
    exact hrest.2.2.1.trans (by rw [hframe, hdies])
  · rw [hrun, State.modCtx_frame]
    exact hrest.2.2.2.trans (by rw [hframe, hdies])

/-- What has ended, seen from a state with the same cores and contexts. -/
theorem unbound_of {s u t : State} {c : Nat} (hcore : ∀ k, u.core k = s.core k) (hcores : u.ctxCores c = s.ctxCores c) (h : unbound u t c) : unbound s t c := by
  obtain ⟨hlaunch, hin, hout⟩ := h
  refine ⟨hlaunch, fun k hk hctx => hin k (hcores ▸ hk) ((hcore k).symm ▸ hctx), fun k hctx => ?_⟩
  rw [hout k (by rw [hcore]; exact hctx), hcore]

theorem diesOnly_noteTallies (s : State) (c : Nat) : diesOnly s (s.noteTallies c) := by
  unfold State.noteTallies
  split
  · rfl
  · refine each_diesOnly _ (fun t e => ?_) _ _
    dsimp only
    split
    · split
      · exact diesOnly_note _ _ _ _ _ _
      · rfl
    · exact each_diesOnly _ (fun t d => diesOnly_note _ _ _ _ _ _) _ _

theorem bindingsEnd : BindingsEnd := by
  refine ⟨fun k c s l e hk hctx hlaunch hpart hforced hentry => ⟨partEnd_image hk hctx hlaunch hpart hforced hentry, fun hhalted hidle hkind hbytes hfree => ?_, fun hhalted hidle hkind => ?_, fun h => ?_⟩,
    fun c s l x p r hc hlaunch hx hcmds => ⟨fun hst hquench hparts hsets => ?_, fun k hk hpart => ?_, fun hquench hst => ?_, fun hquench => ?_⟩⟩
  · refine runs_of_need rfl hk ?_
    exact (partEnd_idle hctx hlaunch hpart hforced hentry hhalted hidle).2.1 hkind hbytes hfree
  · refine runs_of_need rfl hk ?_
    rw [(partEnd_idle hctx hlaunch hpart hforced hentry hhalted hidle).1 (.inl hkind)]
    exact ⟨State.core_modCore _ _ _, fun i hi => State.core_modCore_ne _ _ hi, rfl⟩
  · exact runs_of_need rfl hk (partEnd_busy h)
  · obtain ⟨u, hu⟩ : ∃ u, u = s.endCmd l.q 0 0 (l.l.getD 0) := ⟨_, rfl⟩
    have hrun : launchComplete c s = u.unbind c := by
      unfold launchComplete
      rw [hlaunch, hu]
      exact if_pos (by rw [hst, hquench, List.all_eq_true.mpr hparts, hsets]; rfl)
    have huend : u = s.setQueue l.q (some { x with cmds := { p with outcome := some { status := 0, fault := 0, result := l.l.getD 0 } } :: r }) := by
      rw [hu]
      exact State.finish_head hx hcmds _
    obtain ⟨hunbound, hqueues, hmem⟩ := u.unbind_unbound c
    refine runs_of_need rfl hc ?_
    rw [hrun]
    refine ⟨unbound_of (fun k => by rw [huend]; rfl) (by rw [huend]; rfl) hunbound, ?_, ?_⟩
    · rw [State.queue_of_queues hqueues, huend, State.queue_of (State.queue?_setQueue s l.q _)]
    · rw [hmem, huend]; rfl
  · refine runs_of_need rfl hc ?_
    unfold launchComplete
    rw [hlaunch]
    refine if_neg fun h => ?_
    rw [Bool.and_eq_true, Bool.and_eq_true, List.all_eq_true] at h
    rw [h.1.2 k hk] at hpart
    cases hpart
  · have hrun : faultQuench c s = (s.noteTallies c).unbind c := by
      unfold faultQuench State.quench
      rw [if_pos hquench, hlaunch]
      exact if_neg hst
    have hdies := diesOnly_noteTallies s c
    obtain ⟨hunbound, hqueues, hmem⟩ := (s.noteTallies c).unbind_unbound c
    refine runs_of_need rfl hc ?_
    rw [hrun]
    exact ⟨unbound_of (fun k => by rw [hdies]; rfl) (by rw [hdies]; rfl) hunbound, hqueues.trans (by rw [hdies]), hmem.trans (by rw [hdies])⟩
  · exact runs_of_need rfl hc (if_neg (by rw [hquench]; decide))

/-! ## Binding (R188, R326, R383)

What a binding does before the launch goes on, reads of the images that a core's mover places included, leaves the counts, the keeper, the messages and the launch's seed. -/

/-- From `s` to `t` nothing has changed that a launch's start depends on. -/
def goStays (s t : State) : Prop :=
  (t.sent = s.sent ∧ t.pkgId = s.pkgId ∧ t.holder = s.holder ∧ t.hatch0 = s.hatch0 ∧ t.now = s.now) ∧ (∀ d, (t.die d).tb = (s.die d).tb) ∧
  ∀ c, (t.launchOf c).map (·.seed) = (s.launchOf c).map (·.seed)

theorem goStays_refl (s : State) : goStays s s := ⟨⟨rfl, rfl, rfl, rfl, rfl⟩, fun _ => rfl, fun _ => rfl⟩

theorem goStays_trans {s t u : State} (hst : goStays s t) (htu : goStays t u) : goStays s u := by
  obtain ⟨⟨h1, h2, h3, h4, h5⟩, htb, hseed⟩ := hst
  obtain ⟨⟨g1, g2, g3, g4, g5⟩, gtb, gseed⟩ := htu
  exact ⟨⟨g1.trans h1, g2.trans h2, g3.trans h3, g4.trans h4, g5.trans h5⟩, fun d => (gtb d).trans (htb d), fun c => (gseed c).trans (hseed c)⟩

theorem goStays_ite {s t u : State} {b : Prop} [Decidable b] (ht : goStays s t) (hu : goStays s u) : goStays s (if b then t else u) := by
  split
  · exact ht
  · exact hu

theorem each_goStays {α : Type} (f : State → α → State) (hf : ∀ s a, goStays s (f s a)) (l : List α) (s : State) : goStays s (each l s f) :=
  each_keeps (goStays s) f (fun t a h => goStays_trans h (hf t a)) l s (goStays_refl s)

theorem goStays_modDie (s : State) (d : Nat) {f : Die → Die} (h : ∀ x, (f x).tb = x.tb) : goStays s (s.modDie d f) := by
  refine ⟨⟨rfl, rfl, rfl, rfl, rfl⟩, fun e => ?_, fun _ => rfl⟩
  by_cases he : e = d
  · subst he; rw [State.die_modDie, h]
  · rw [State.die_modDie_ne _ _ he]

theorem goStays_modCtx (s : State) (c : Nat) {f : Context → Context} (h : ∀ x, (f x).launch.map (·.seed) = x.launch.map (·.seed)) : goStays s (s.modCtx c f) := by
  rw [State.modCtx_frame]
  refine ⟨⟨rfl, rfl, rfl, rfl, rfl⟩, fun _ => rfl, fun e => ?_⟩
  rw [← State.modCtx_frame]
  unfold State.launchOf
  by_cases he : e = c
  · subst he
    rw [State.ctx?_modCtx]
    cases s.ctx? e with
    | none => rfl
    | some x => exact h x
  · rw [State.ctx?_modCtx_ne _ _ he]

theorem goStays_modLaunch (s : State) (c : Nat) {f : Launch → Launch} (h : ∀ x, (f x).seed = x.seed) : goStays s (s.modLaunch c f) := by
  refine goStays_modCtx s c fun x => ?_
  cases hx : x.launch with
  | none => rfl
  | some y => exact congrArg some (h y)

theorem goStays_note (s : State) (d kind code ctx : Nat) (detail : List Byte) : goStays s (s.note d kind code ctx detail) :=
  ⟨⟨rfl, rfl, rfl, rfl, rfl⟩, fun e => s.note_tb d e kind code ctx detail, fun _ => rfl⟩

theorem goStays_hostMem (s : State) (m : Memory) : goStays s { s with hostMem := m } := ⟨⟨rfl, rfl, rfl, rfl, rfl⟩, fun _ => rfl, fun _ => rfl⟩

theorem goStays_putQueue (s : State) (q : QRef) (f : Queue → Queue) : goStays s (s.putQueue q f) := by
  cases hx : s.queue? q with
  | none =>
    unfold State.putQueue
    rw [hx]
    exact goStays_refl s
  | some x =>
    rw [State.putQueue_frame hx]
    exact goStays_trans (t := s.setQueue q (some (f x))) ⟨⟨rfl, rfl, rfl, rfl, rfl⟩, fun _ => rfl, fun _ => rfl⟩ (goStays_hostMem _ _)

theorem goStays_modSet (s : State) (w : Nat) (f : WeightSet → WeightSet) : goStays s (s.modSet w f) := by
  unfold State.modSet
  split
  · exact ⟨⟨rfl, rfl, rfl, rfl, rfl⟩, fun _ => rfl, fun _ => rfl⟩
  · exact goStays_refl s

theorem goStays_emit (s : State) (n : Nat) (a : Packet) : goStays s (s.emit n a) := by
  rw [State.emit_packetsOnly]
  exact ⟨⟨rfl, rfl, rfl, rfl, rfl⟩, fun _ => rfl, fun _ => rfl⟩

/-! ### Faults and reads -/

theorem goStays_stopCtx (s : State) (c code : Nat) : goStays s (s.stopCtx c code) := by
  obtain ⟨u, hu⟩ : ∃ u, u = s.orderQuench c code true := ⟨_, rfl⟩
  have hordered : goStays s u := by rw [hu]; exact goStays_modCtx s c fun _ => rfl
  unfold State.stopCtx State.stopQueues
  dsimp only
  rw [← hu]
  refine goStays_trans hordered (goStays_trans ?_ (each_goStays _ (fun t q => goStays_putQueue t q _) _ _))
  exact ⟨⟨rfl, rfl, rfl, rfl, rfl⟩, fun _ => rfl, fun _ => rfl⟩

theorem goStays_raiseTo (s : State) (d code : Nat) (ctxs : List Nat) (job driver : Bool) (detail : List Byte) : goStays s (s.raiseTo d code ctxs job driver detail) := by
  unfold State.raiseTo State.holdRec
  dsimp only
  refine goStays_trans (goStays_note s d 0x01 code (oneCtx ctxs) detail) ?_
  split
  · exact goStays_modDie _ _ fun _ => rfl
  · split
    · refine goStays_trans ?_ (each_goStays _ (fun t c => goStays_stopCtx t c _) _ _)
      exact goStays_modDie _ _ fun _ => rfl
    · exact goStays_modDie _ _ fun _ => rfl

theorem goStays_dmaFail (s : State) (port c a : Nat) : goStays s (s.dmaFail port c a) := by
  unfold State.dmaFail
  dsimp only
  split
  · exact goStays_modCtx _ _ fun _ => rfl
  · exact goStays_trans (goStays_raiseTo _ _ _ _ _ _ _) (goStays_modCtx _ _ fun _ => rfl)

theorem goStays_memUncorr (s : State) (x : Accessor) (d code a chan kind : Nat) : goStays s (s.memUncorr x d code a chan kind) := by
  unfold State.memUncorr
  dsimp only
  split
  · exact goStays_refl s
  · refine goStays_trans (goStays_raiseTo _ _ _ _ _ _ _) (each_goStays _ (fun t c => ?_) _ _)
    exact goStays_modCtx t c fun _ => rfl

theorem goStays_cellarUncorr (s : State) (x : Accessor) (a kind : Nat) : goStays s (s.cellarUncorr x a kind) :=
  goStays_trans (goStays_memUncorr s x _ fMemUncorr a _ kind) ⟨⟨rfl, rfl, rfl, rfl, rfl⟩, fun _ => rfl, fun _ => rfl⟩

theorem goStays_cellarCorrect (s : State) (a : Nat) : goStays s (s.cellarCorrect a) := by
  have hcounted : goStays s (s.modChannel (s.frameChannel (frameOf a)) fun c => { c with ce := stick 16 (c.ce + 1) }) := ⟨⟨rfl, rfl, rfl, rfl, rfl⟩, fun _ => rfl, fun _ => rfl⟩
  have hframe (u : State) (k : Nat) (f : Frame64K → Frame64K) : goStays u (u.modFrame k f) := ⟨⟨rfl, rfl, rfl, rfl, rfl⟩, fun _ => rfl, fun _ => rfl⟩
  unfold State.cellarCorrect State.cellarCorrectOn
  refine goStays_ite (goStays_trans (goStays_trans hcounted (hframe _ _ _)) (goStays_note _ _ _ _ _ _)) (goStays_trans hcounted (hframe _ _ _))

theorem goStays_perfAdd (s : State) (d i n : Nat) : goStays s (s.perfAdd d i n) := by
  unfold State.perfAdd
  dsimp only
  split
  · exact goStays_modDie _ _ fun _ => rfl
  · split
    · exact goStays_modDie _ _ fun _ => rfl
    · refine goStays_trans ?_ (goStays_note _ _ _ _ _ _)
      exact goStays_modDie s d fun _ => rfl

theorem goStays_perfUnits (s : State) (d i u n : Nat) : goStays s (s.perfUnits d i u n) :=
  goStays_trans (goStays_modDie s d (f := fun x => { x with perf := tabSet x.perf i { tabGet {} (s.die d).perf i with rem := ((tabGet {} (s.die d).perf i).rem + n) % u } }) fun _ => rfl)
    (goStays_perfAdd _ _ _ _)

theorem goStays_countBytes (s : State) (i a n : Nat) : goStays s (s.countBytes i a n) := each_goStays _ (fun t _ => goStays_perfUnits t _ _ _ _) _ s

theorem goStays_cellarGet (s : State) (x : Accessor) (a n : Nat) : goStays s (s.cellarGet x a n).1 := by
  unfold State.cellarGet
  split
  · exact goStays_cellarUncorr _ _ _ _
  · refine goStays_trans (goStays_countBytes s 0 a n) (each_goStays _ (fun t e => ?_) _ _)
    dsimp only
    split
    · exact goStays_refl t
    · exact goStays_cellarCorrect _ _
    · exact goStays_cellarUncorr _ _ _ _
    · exact goStays_cellarUncorr _ _ _ _

theorem goStays_readPage (s : State) (x : Accessor) (p : Nat × Nat) : goStays s (s.readPage x p) := by
  unfold State.readPage
  dsimp only
  refine goStays_trans (goStays_perfUnits s (larderDieOf p.1) 0 64 p.2) ?_
  split
  · exact goStays_memUncorr _ _ _ _ _ _ _
  · split
    · unfold State.larderWeak
      refine goStays_trans ?_ (goStays_note _ _ _ _ _ _)
      exact goStays_modDie _ _ fun _ => rfl
    · exact goStays_refl _

theorem goStays_larderGet (s : State) (x : Accessor) (a n : Nat) : goStays s (s.larderGet x a n).1 := each_goStays _ (fun t p => goStays_readPage t x p) _ s

/-- What a read of memory leaves. -/
def ansStays (s : State) : MemAns → Prop
  | .ok t _ => goStays s t
  | .lost t _ => goStays s t
  | .unmapped => True

theorem ansStays_memRead (s : State) (x : Accessor) (a n : Nat) : ansStays s (s.memRead x a n) := by
  have hcellar := goStays_cellarGet s x a n
  have hlarder := goStays_larderGet s x a n
  unfold State.memRead
  split
  · split
    · split
      next h => rw [h] at hcellar; exact hcellar
      next h => rw [h] at hcellar; exact hcellar
    · trivial
  · split
    next h => rw [h] at hlarder; exact hlarder
    next h => rw [h] at hlarder; exact hlarder
  · trivial

theorem ansStays_readBuf (s : State) (port c : Nat) (b : Buf) (n : Nat) : ansStays s (s.readBuf port c b n) := by
  unfold State.readBuf
  split
  · split
    · exact goStays_refl s
    · exact goStays_dmaFail _ _ _ _
  · exact ansStays_memRead _ _ _ _

theorem goStays_place (s : State) (port c core row : Nat) (b : Buf) (n : Nat) : goStays s (s.place port c core row b n) := by
  have hread := ansStays_readBuf s port c b n
  unfold State.place
  split
  · exact goStays_refl s
  · split
    next h => rw [h] at hread; exact goStays_trans hread ⟨⟨rfl, rfl, rfl, rfl, rfl⟩, fun _ => rfl, fun _ => rfl⟩
    next h => rw [h] at hread; exact hread
    next h => exact goStays_raiseTo _ _ _ _ _ _ _

theorem goStays_placeAll (s : State) (c : Nat) (x : Launch) : goStays s (s.placeAll c x) := by
  refine each_goStays _ (fun t e => ?_) _ s
  split
  · exact goStays_trans (goStays_place _ _ _ _ _ _ _) (goStays_place _ _ _ _ _ _ _)
  · exact goStays_refl t

/-! ### The cores of a binding -/

theorem args_read (l : List Word) (n : Nat) (t : Tab Word) (j : Nat) :
    tabGet 0 (((l.zipIdx n).map fun p => (p.2 + 1, p.1)).foldl (fun t p => tabSet t p.1 p.2) t) j = if n < j ∧ j ≤ n + l.length then l.getD (j - 1 - n) 0 else tabGet 0 t j := by
  induction l generalizing n t with
  | nil => exact (if_neg (by simp only [List.length_nil]; omega)).symm
  | cons a l ih =>
    rw [List.zipIdx_cons, List.map_cons, List.foldl_cons, ih, tabGet_tabSet, List.length_cons]
    dsimp only
    by_cases hfirst : j = n + 1
    · subst hfirst
      rw [if_neg (by omega), if_pos rfl, if_pos (by omega), show n + 1 - 1 - n = 0 by omega]
      rfl
    · rw [if_neg hfirst]
      refine ite_congr (propext (by omega)) (fun h => ?_) fun _ => rfl
      rw [show j - 1 - n = j - 1 - (n + 1) + 1 by omega]
      rfl

/-- A core is bound to a context's launch, not yet running, with the launch's arguments in its registers. -/
def boundTo (c : Nat) (x : Launch) (y : Core) : Prop := y.ctx = some c ∧ y.running = false ∧ ∀ i, i < x.args.length → reg y (i + 1) = x.args.getD i 0

theorem boundTo_boundCore (c : Nat) (x : Launch) (e : Option CoreEntry) (lc : Nat) (old : Core) : boundTo c x (boundCore c x e lc old) := by
  refine ⟨rfl, rfl, fun i hi => ?_⟩
  have hreg := args_read x.args 0 [] (i + 1)
  rw [if_pos (by omega)] at hreg
  exact hreg

theorem State.bindCore_core (s : State) (c : Nat) (x : Launch) (k : Nat) : boundTo c x ((s.bindCore c x k).core k) ∧ ∀ e, e ≠ k → (s.bindCore c x k).core e = s.core e := by
  unfold State.bindCore
  refine ⟨?_, fun e he => State.core_modCore_ne _ _ he⟩
  rw [State.core_modCore]
  exact boundTo_boundCore _ _ _ _ _

theorem each_bindCore (c : Nat) (x : Launch) (l : List Nat) (s : State) :
    (∀ k ∈ l, boundTo c x ((each l s fun s k => s.bindCore c x k).core k)) ∧ ∀ k, k ∉ l → (each l s fun s k => s.bindCore c x k).core k = s.core k := by
  refine ⟨fun k hk => ?_, fun k hk => ?_⟩
  · refine each_brings (fun _ => True) (fun t : State => boundTo c x (t.core k)) _ hk (fun _ _ _ => trivial) (fun t _ => (t.bindCore_core c x k).1) (fun t j ht => ?_) s trivial
    by_cases hj : k = j
    · subst hj; exact (t.bindCore_core c x k).1
    · rw [(t.bindCore_core c x j).2 k hj]; exact ht
  · exact each_keeps_mem (fun t : State => t.core k = s.core k) _ l (fun j hj t ht => ((t.bindCore_core c x j).2 k fun h => hk (h ▸ hj)).trans ht) s rfl

/-! ### What else a binding leaves -/

theorem startOp_tb (n : Nat) (x : Die) : (startOp n x).tb = x.tb := by
  unfold startOp
  split
  · rfl
  · split
    · rfl
    · split <;> rfl

theorem goStays_throttleOff (s : State) (d r : Nat) : goStays s (s.throttleOff d r) := by
  unfold State.throttleOff
  split
  · exact goStays_refl s
  · refine goStays_ite ?_ ?_
    · refine goStays_trans (goStays_trans ?_ (goStays_note _ _ _ _ _ _)) (goStays_note _ _ _ _ _ _)
      exact goStays_modDie _ _ fun _ => rfl
    · refine goStays_trans ?_ (goStays_note _ _ _ _ _ _)
      exact goStays_modDie _ _ fun _ => rfl

theorem goStays_bindDie (s : State) (d j : Nat) : goStays s (s.bindDie d j) := by
  unfold State.bindDie
  refine goStays_trans (t := if (s.die d).job = some j then s else s.zeroLoft d) (goStays_ite (goStays_refl s) ?_) ?_
  · exact ⟨⟨rfl, rfl, rfl, rfl, rfl⟩, fun _ => rfl, fun _ => rfl⟩
  · exact goStays_modDie _ _ fun _ => rfl

theorem goStays_bindCore (s : State) (c : Nat) (x : Launch) (k : Nat) : goStays s (s.bindCore c x k) := ⟨⟨rfl, rfl, rfl, rfl, rfl⟩, fun _ => rfl, fun _ => rfl⟩

theorem goStays_startSets (s : State) (c : Nat) (seed : Word) : goStays s (s.startSets c seed) := by
  unfold State.startSets
  refine goStays_trans ?_ (each_goStays _ (fun t w => goStays_modSet t w _) _ _)
  exact goStays_modCtx _ _ fun _ => rfl

theorem goStays_sendMember (s : State) (g : Group) (x : SetupMsg) (m : Member) : goStays s (s.sendMember g x m) := goStays_emit _ _ _

theorem goStays_restoreFlows (s : State) (c : Nat) : goStays s (s.restoreFlows c) := by
  obtain ⟨u, hu⟩ : ∃ u, u = each (s.groups.filterMap fun e => e.2.filter fun g => g.ctx == c) s fun s g =>
    each (g.members.filter (·.pruned)) s fun s m => s.sendMember g { restore := true } m := ⟨_, rfl⟩
  have hsent : goStays s u := by
    rw [hu]
    exact each_goStays _ (fun t g => each_goStays _ (fun t m => goStays_sendMember t g _ m) _ _) _ _
  have hrun : s.restoreFlows c = { u with flows := (s.restoreFlows c).flows, groups := (s.restoreFlows c).groups, rxFlows := (s.restoreFlows c).rxFlows } := by
    rw [hu]
    rfl
  rw [hrun]
  exact goStays_trans hsent ⟨⟨rfl, rfl, rfl, rfl, rfl⟩, fun _ => rfl, fun _ => rfl⟩

theorem goStays_schedDies (s : State) (c : Nat) (x : Launch) : goStays s (s.schedDies c x) := by
  unfold State.schedDies
  refine goStays_ite (goStays_refl s) (each_goStays _ (fun t d => ?_) _ _)
  refine goStays_trans (goStays_trans ?_ (goStays_throttleOff _ _ _)) (goStays_throttleOff _ _ _)
  exact goStays_modDie _ _ fun y => startOp_tb _ _

theorem goStays_dynDies (s : State) (c : Nat) (x : Launch) : goStays s (s.dynDies c x) := by
  unfold State.dynDies
  refine goStays_ite (goStays_refl s) (each_goStays _ (fun t d => ?_) _ _)
  exact goStays_modDie _ _ fun y => startOp_tb _ _

/-! ### The cores stay as they were bound -/

theorem each_cores {α : Type} (f : State → α → State) (hf : ∀ s a, (f s a).cores = s.cores) (l : List α) (s : State) : (each l s f).cores = s.cores := each_same State.cores f hf l s

theorem cores_of_diesOnly {s t : State} (h : diesOnly s t) : t.cores = s.cores := by rw [h]

theorem State.putQueue_cores (s : State) (q : QRef) (f : Queue → Queue) : (s.putQueue q f).cores = s.cores := by
  cases hx : s.queue? q with
  | none => unfold State.putQueue; rw [hx]
  | some x => rw [State.putQueue_frame hx]; rfl

theorem State.core_of_cores {s t : State} (h : t.cores = s.cores) (k : Nat) : t.core k = s.core k := by
  unfold State.core
  rw [h]

theorem State.startSets_cores (s : State) (c : Nat) (seed : Word) : (s.startSets c seed).cores = s.cores := by
  unfold State.startSets
  exact (each_cores _ (fun t w => t.modSet_cores w _) _ _).trans (s.modCtx_cores c _)

theorem State.restoreFlows_cores (s : State) (c : Nat) : (s.restoreFlows c).cores = s.cores := by
  unfold State.restoreFlows
  exact each_cores _ (fun t g => each_cores _ (fun t m => by rw [State.sendMember_packetsOnly]) _ _) _ _

theorem State.schedDies_cores (s : State) (c : Nat) (x : Launch) : (s.schedDies c x).cores = s.cores := by
  unfold State.schedDies
  split
  · rfl
  · refine each_cores _ (fun t d => ?_) _ _
    rw [cores_of_diesOnly (diesOnly_throttleOff _ d rsDuty), cores_of_diesOnly (diesOnly_throttleOff _ d rsCap)]
    rfl

theorem State.dynDies_cores (s : State) (c : Nat) (x : Launch) : (s.dynDies c x).cores = s.cores := by
  unfold State.dynDies
  split
  · rfl
  · exact each_cores _ (fun t d => t.modDie_cores d _) _ _

theorem State.bindDie_cores (s : State) (d j : Nat) : (s.bindDie d j).cores = s.cores := by
  unfold State.bindDie
  dsimp only
  split <;> rfl

/-- The state that a binding's cores are bound in. -/
def bindingDies (s : State) (c : Nat) : State :=
  let u := s.modCtx c fun y => { y with faulted := none, quenchOrdered := false, forced := false, stock := {},
                                        debugOn := y.debugOn || (s.inv.debugAllowed && y.debugReq && (!y.sealed || y.consent)), launched := true }
  each (u.ctxPhys c) u fun t d => t.bindDie d (s.ctx c).job

theorem goStays_bindingDies (s : State) (c : Nat) : goStays s (bindingDies s c) := by
  unfold bindingDies
  refine goStays_trans ?_ (each_goStays _ (fun t d => goStays_bindDie t d _) _ _)
  exact goStays_modCtx _ _ fun _ => rfl

theorem bindingDies_cores (s : State) (c : Nat) : (bindingDies s c).cores = s.cores := (each_cores _ (fun t d => t.bindDie_cores d _) _ _).trans (s.modCtx_cores c _)

/-- The cores of a context are those of its dies by the inventory. -/
theorem State.ctxCores_of {s t : State} {c : Nat} (hinv : t.inv = s.inv) (hcores : t.cores = s.cores) (hdies : ctxDies (t.ctx c) = ctxDies (s.ctx c)) : t.ctxCores c = s.ctxCores c := by
  have hactive : t.coreActive = s.coreActive := by
    funext k
    unfold State.coreActive State.core
    rw [hinv, hcores]
  have hphys : t.physDie = s.physDie := by
    funext d
    unfold State.physDie
    rw [hinv]
  have hdie : t.dieCores = s.dieCores := by
    funext d
    unfold State.dieCores
    rw [hactive]
  unfold State.ctxCores State.ctxPhys
  rw [hdies, hphys, hdie]

theorem ctxDies_modCtx (s : State) (c : Nat) {f : Context → Context} (h : ∀ x, ctxDies (f x) = ctxDies x) : ctxDies ((s.modCtx c f).ctx c) = ctxDies (s.ctx c) := by
  unfold State.ctx
  rw [State.ctx?_modCtx]
  cases s.ctx? c with
  | none => rfl
  | some x => exact h x

theorem bindingDies_ctxCores (s : State) (c : Nat) : (bindingDies s c).ctxCores c = s.ctxCores c := by
  have hinv (t : State) (d j : Nat) : (t.bindDie d j).inv = t.inv := by
    unfold State.bindDie
    dsimp only
    split <;> rfl
  have hcontexts (t : State) (d j : Nat) : (t.bindDie d j).contexts = t.contexts := by
    unfold State.bindDie
    dsimp only
    split <;> rfl
  refine State.ctxCores_of ?_ (bindingDies_cores s c) ?_
  · exact (each_same State.inv _ (fun t d => hinv t d _) _ _).trans (s.modCtx_inv c _)
  · have hsame := each_same State.contexts (fun (t : State) d => t.bindDie d (s.ctx c).job) (fun t d => hcontexts t d _)
    unfold bindingDies
    rw [State.ctx_of_contexts (hsame _ _)]
    exact ctxDies_modCtx s c fun _ => rfl

/-- A binding before its launch is noted as placing. -/
def bindingState (s : State) (c : Nat) (x : Launch) : State :=
  (((((each ((bindingDies s c).ctxCores c) (bindingDies s c) fun s k => s.bindCore c x k).startSets c x.seed).restoreFlows c).schedDies c x).putQueue x.q
    fun y => if y.st = .waiting then { y with st := .fetching } else y).dynDies c x

theorem State.bindLaunch_eq (s : State) (c : Nat) (x : Launch) : s.bindLaunch c x = (bindingState s c x).modLaunch c fun y => { y with st := .placing } := rfl

theorem State.bindLaunch_cores (s : State) (c : Nat) (x : Launch) : (s.bindLaunch c x).cores = (each (s.ctxCores c) (bindingDies s c) fun s k => s.bindCore c x k).cores := by
  rw [State.bindLaunch_eq]
  unfold State.modLaunch bindingState
  rw [bindingDies_ctxCores, State.modCtx_cores, State.dynDies_cores, State.putQueue_cores, State.schedDies_cores, State.restoreFlows_cores, State.startSets_cores]

theorem goStays_bindingState (s : State) (c : Nat) (x : Launch) : goStays s (bindingState s c x) := by
  unfold bindingState
  refine goStays_trans ?_ (goStays_dynDies _ _ _)
  refine goStays_trans ?_ (goStays_putQueue _ _ _)
  refine goStays_trans ?_ (goStays_schedDies _ _ _)
  refine goStays_trans ?_ (goStays_restoreFlows _ _)
  refine goStays_trans ?_ (goStays_startSets _ _ _)
  exact goStays_trans (goStays_bindingDies s c) (each_goStays _ (fun t k => goStays_bindCore t c x k) _ _)

theorem goStays_bindLaunch (s : State) (c : Nat) (x : Launch) : goStays s (s.bindLaunch c x) := by
  rw [State.bindLaunch_eq]
  exact goStays_trans (goStays_bindingState s c x) (goStays_modLaunch _ _ fun _ => rfl)

/-- A launch that stands noted, with the seed that it had. -/
theorem goStays_launch {s t : State} {c : Nat} {x : Launch} (h : goStays s t) (hx : s.launchOf c = some x) : ∃ y, t.launchOf c = some y ∧ y.seed = x.seed := by
  have hseed := h.2.2 c
  rw [hx] at hseed
  cases hy : t.launchOf c with
  | none => rw [hy] at hseed; cases hseed
  | some y => rw [hy] at hseed; exact ⟨y, rfl, Option.some.inj hseed⟩

theorem State.bindLaunch_placing {s : State} {c : Nat} {x : Launch} (hx : s.launchOf c = some x) : ∃ y, (s.bindLaunch c x).launchOf c = some y ∧ y.st = .placing := by
  obtain ⟨y, hy, -⟩ := goStays_launch (goStays_bindingState s c x) hx
  exact ⟨{ y with st := .placing }, by rw [State.bindLaunch_eq, State.launchOf_modLaunch, if_pos rfl, hy]; rfl, rfl⟩

theorem goStays_kcount {s t : State} (h : goStays s t) : t.kcount = s.kcount := by
  obtain ⟨⟨-, -, hholder, hhatch, hnow⟩, htb, -⟩ := h
  unfold State.kcount State.serviceDie State.count
  rw [hholder, hhatch, hnow, htb]

theorem State.armLaunch_launch {s : State} {c : Nat} {y : Launch} (hy : s.launchOf c = some y) (l : Nat) :
    (s.armLaunch c l).launchOf c = some { y with st := .armed, l := some l } ∧ (s.armLaunch c l).cores = s.cores := by
  obtain ⟨u, hu⟩ : ∃ u, u = s.modLaunch c fun x => { x with st := .armed, l := some l } := ⟨_, rfl⟩
  have hrun : s.armLaunch c l = each (u.gridDies c) u fun t d => t.modDie d fun y => y.armGrid (s.ctx c).job l := by rw [hu]; rfl
  have hcontexts : (s.armLaunch c l).contexts = u.contexts := by rw [hrun]; exact each_same State.contexts _ (fun t d => t.modDie_contexts d _) _ _
  refine ⟨?_, ?_⟩
  · rw [State.launchOf_of_contexts hcontexts, hu, State.launchOf_modLaunch, if_pos rfl, hy]
    rfl
  · rw [hrun, each_cores _ (fun t d => t.modDie_cores d _), hu]
    exact s.modCtx_cores c _

/-- A launch whose placements are made goes on. -/
theorem launchGo_goesOn {s u : State} {c : Nat} {x z : Launch} (h : goStays s u) (hz : u.launchOf c = some z) (hseed : z.seed = x.seed) :
    goesOn s (u.launchGo c x) c x ∧ (u.launchGo c x).cores = u.cores := by
  obtain ⟨v, hv⟩ : ∃ v, v = u.modLaunch c fun y => { y with st := .bound, sets := (u.ctx c).pointers.map (·.2) } := ⟨_, rfl⟩
  have hvlaunch : v.launchOf c = some { z with st := .bound, sets := (u.ctx c).pointers.map (·.2) } := by
    rw [hv, State.launchOf_modLaunch, if_pos rfl, hz]
    rfl
  have hvcores : v.cores = u.cores := by rw [hv]; exact u.modCtx_cores c _
  have hvsent : v.sent = s.sent := by rw [hv]; exact (u.modCtx_sent c _).trans h.1.1
  have hvpkg : v.pkgId = s.pkgId := by rw [hv]; exact (u.modCtx_pkgId c _).trans h.1.2.1
  by_cases hone : x.packages ≤ 1
  · obtain ⟨w, hw⟩ : ∃ w, w = v.modCoord (v.ctx c).job oldCoord := ⟨_, rfl⟩
    have hrun : u.launchGo c x = w.armLaunch c (launchCount (u.kcount + 20000)) := by
      unfold State.launchGo
      rw [hw, hv]
      exact if_pos hone
    have hwcontexts : w.contexts = v.contexts := by rw [hw]; exact v.modCoord_contexts _ _
    have hwlaunch := (State.launchOf_of_contexts hwcontexts c).trans hvlaunch
    obtain ⟨harmed, hcores⟩ := State.armLaunch_launch hwlaunch (launchCount (u.kcount + 20000))
    rw [← hrun] at harmed hcores
    refine ⟨⟨fun _ => ⟨_, harmed, rfl, ?_, hseed⟩, fun hmore => absurd hone (Nat.not_le.mpr hmore)⟩, ?_⟩
    · rw [goStays_kcount h]; rfl
    · rw [hcores, hw, State.modCoord_cores, hvcores]
  · have hrun : u.launchGo c x = v.send (.ready (v.readyMsg c x)) := by
      unfold State.launchGo
      rw [hv]
      exact if_neg hone
    refine ⟨⟨fun h => absurd h hone, fun _ => ⟨{ z with st := .bound, sets := (u.ctx c).pointers.map (·.2) }, v.readyMsg c x, ?_, rfl, ?_, hvpkg, rfl, rfl⟩⟩, ?_⟩
    · rw [hrun, State.launchOf_of_contexts (v.send_contexts _), hvlaunch]
    · rw [hrun, State.send_sent, hvsent]
    · rw [hrun, State.send_cores, hvcores]

/-- A launch whose placements may be made goes on. -/
theorem State.placeLaunch_goesOn {s u : State} {c : Nat} {x : Launch} (h : goStays s u) (hx : s.launchOf c = some x) (hplace : u.placeable x = true) :
    goesOn s (u.placeLaunch c x) c x ∧ (u.placeLaunch c x).cores = (u.placeAll c x).cores := by
  have hplaced := goStays_trans h (goStays_placeAll u c x)
  obtain ⟨z, hz, hseed⟩ := goStays_launch hplaced hx
  unfold State.placeLaunch
  rw [if_pos hplace]
  exact launchGo_goesOn hplaced hz hseed

theorem State.modQueue_frame (s : State) (q : QRef) (f : Queue → Queue) : s.modQueue q f = { s with queues := (s.modQueue q f).queues } := by
  unfold State.modQueue
  split <;> rfl

theorem launchBind_eq {c : Nat} {s : State} {x : Launch} (hx : s.launchOf c = some x) : launchBind c s =
    if s.holder.isNone || (s.ctx c).quenchOrdered || (!(x.st == .placing) && s.launchHeld c) then s
    else if x.st = .placing then s.placeLaunch c x
    else if x.st ≠ .checked then s
    else if (s.ctxPhys c).any fun d => (s.die d).failed.isSome then s.refuseLaunch c x
    else (s.bindLaunch c x).placeLaunch c x := by
  unfold launchBind
  simp only [hx, Option.any_some, Option.isSome_some, if_true]

theorem launchesBind : LaunchesBind := by
  intro c s x hc hx
  have hrun := launchBind_eq hx
  refine ⟨fun hholder hheld hquench hst => ⟨fun hgood => ⟨fun k hk => ?_, fun k hk => ?_, fun hplace => ?_, fun hplace => ?_⟩, fun hbad => ?_⟩, fun hholder hquench hst => ⟨fun hplace => ?_, fun hplace => ?_⟩, fun h => ?_⟩
  · rw [State.core_of_cores (s.bindLaunch_cores c x)]
    exact (each_bindCore c x (s.ctxCores c) (bindingDies s c)).1 k hk
  · rw [State.core_of_cores (s.bindLaunch_cores c x), (each_bindCore c x (s.ctxCores c) (bindingDies s c)).2 k hk, State.core_of_cores (bindingDies_cores s c)]
  · rw [if_neg (by simp [hholder, hheld, hquench]), if_neg (by rw [hst]; decide), if_neg (by rw [hst]; decide), if_neg (by simpa using hgood)] at hrun
    have hstays : launchBind c s = s.bindLaunch c x := hrun.trans (if_neg (by rw [hplace]; decide))
    refine runs_of_need rfl hc ⟨hstays, ?_⟩
    rw [hstays]
    exact State.bindLaunch_placing hx
  · rw [if_neg (by simp [hholder, hheld, hquench]), if_neg (by rw [hst]; decide), if_neg (by rw [hst]; decide), if_neg (by simpa using hgood)] at hrun
    refine runs_of_need rfl hc ?_
    rw [hrun]
    exact State.placeLaunch_goesOn (goStays_bindLaunch s c x) hx hplace
  · rw [if_neg (by simp [hholder, hheld, hquench]), if_neg (by rw [hst]; decide), if_neg (by rw [hst]; decide), if_pos (by simpa [Option.isSome_iff_ne_none] using hbad)] at hrun
    have hframe : s.refuseLaunch c x = { s.endCmd x.q 1 0 0 with contexts := (s.refuseLaunch c x).contexts } := State.modCtx_frame _ _ _
    have hend : s.endCmd x.q 1 0 0 = { s with queues := (s.endCmd x.q 1 0 0).queues } := State.modQueue_frame _ _ _
    refine runs_of_need rfl hc ?_
    rw [hrun]
    refine ⟨?_, ?_, ?_, fun y p l hy hcmds => ?_⟩
    · unfold State.refuseLaunch State.launchOf
      rw [State.ctx?_modCtx]
      cases (s.endCmd x.q 1 0 0).ctx? c <;> rfl
    · rw [hframe, hend]
    · rw [hframe, hend]
    · have hqueues : (s.refuseLaunch c x).queues = (s.endCmd x.q 1 0 0).queues := by rw [hframe]
      have hended : s.endCmd x.q 1 0 0 = s.setQueue x.q (some { y with cmds := { p with outcome := some { status := 1 } } :: l }) := State.finish_head hy hcmds _
      rw [State.queue_of_queues hqueues, hended, State.queue_of (State.queue?_setQueue s x.q _)]
  · rw [if_neg (by simp [hholder, hquench, hst]), if_pos hst] at hrun
    refine runs_of_need rfl hc ?_
    rw [hrun]
    exact if_neg (by rw [hplace]; decide)
  · rw [if_neg (by simp [hholder, hquench, hst]), if_pos hst] at hrun
    refine runs_of_need rfl hc ?_
    rw [hrun]
    exact State.placeLaunch_goesOn (goStays_refl s) hx hplace
  · refine runs_of_need rfl hc ?_
    rw [hrun]
    refine if_pos ?_
    obtain h | h | ⟨hst, h⟩ := h
    · simp [h]
    · simp [h]
    · simp [hst, h]

/-- Settles O25: how a launch's block is read and checked, its binding, the start of its grids, and the ends of its cores' parts and of its binding. -/
theorem launchesBindStartAndEnd : Obligations.LaunchesBindStartAndEnd := ⟨launchBlocksAreReadAndChecked, launchesBind, gridsStartAtL, bindingsEnd⟩

end Sys2Proof.Machine

end

section
/-! SUPPORT. Proofs about recovery and retirement (R36, R507, R508, R512, R514, R516, R517). -/

namespace Sys2Proof.Machine

/-! ## What recovery rests on

RECOVER and DIE_RETIRE set in motion what much of the model does: contexts end, ports go down, packets that waited are taken up. None of it touches the command at the
head of a kernel queue but by ending it, nor the inventory, the state of a die in the mesh, the keepers, a context that is going, or the HOLD of a port. -/

/-- A command stands at the head of a queue, ended or not. -/
def headStands (q : QRef) (s : State) (p : Pending) (l : List Pending) : Prop := ∃ x o, s.queue? q = some x ∧ x.cmds = { p with outcome := o } :: l

/-- A context is gone, or is going. -/
def goneOrGoing (s : State) (c : Nat) : Prop := ∀ x, s.ctx? c = some x → x.dying = true

/-- From `s` to `t` nothing that recovery rests on has changed; the HOLD of a port, where `holds`. -/
structure Undisturbed (holds : Prop) (q : QRef) (s t : State) : Prop where
  head : ∀ p l, headStands q s p l → headStands q t p l
  inv : t.inv = s.inv
  dies : ∀ d, (t.die d).failed = (s.die d).failed ∧ (t.die d).bypass = (s.die d).bypass ∧ (t.die d).railOff = (s.die d).railOff
  keepers : t.keeper0 = s.keeper0 ∧ t.keeper1 = s.keeper1 ∧ t.holder = s.holder ∧ t.keeperEpoch = s.keeperEpoch
  going : ∀ c, goneOrGoing s c → goneOrGoing t c
  hold : holds → ∀ n, (t.port n).hold = (s.port n).hold

/-- The parts of a state that recovery rests on. -/
def recoveryParts (s : State) := (s.queues, s.inv, s.dies, (s.keeper0, s.keeper1, s.holder, s.keeperEpoch), s.contexts, s.ports)

section
variable {b : Prop} {q : QRef}

theorem undisturbed_same {s t : State} (h : recoveryParts t = recoveryParts s) : Undisturbed b q s t := by
  simp only [recoveryParts, Prod.mk.injEq] at h
  obtain ⟨hqueues, hinv, hdies, ⟨hk0, hk1, hholder, hepoch⟩, hcontexts, hports⟩ := h
  refine ⟨fun p l hp => ?_, hinv, fun d => ?_, ⟨hk0, hk1, hholder, hepoch⟩, fun c hc => ?_, fun _ n => ?_⟩
  · obtain ⟨x, o, hx, hcmds⟩ := hp
    exact ⟨x, o, (State.queue?_of_queues hqueues q).trans hx, hcmds⟩
  · rw [State.die_of_dies hdies]
    exact ⟨rfl, rfl, rfl⟩
  · unfold goneOrGoing
    rw [State.ctx?_of_contexts hcontexts]
    exact hc
  · unfold State.port
    rw [hports]

theorem undisturbed_refl (s : State) : Undisturbed b q s s := undisturbed_same rfl

theorem undisturbed_trans {s t u : State} (hst : Undisturbed b q s t) (htu : Undisturbed b q t u) : Undisturbed b q s u := by
  refine ⟨fun p l h => htu.head p l (hst.head p l h), htu.inv.trans hst.inv, fun d => ?_, ?_, fun c h => htu.going c (hst.going c h), fun h n => (htu.hold h n).trans (hst.hold h n)⟩
  · obtain ⟨h1, h2, h3⟩ := hst.dies d
    obtain ⟨g1, g2, g3⟩ := htu.dies d
    exact ⟨g1.trans h1, g2.trans h2, g3.trans h3⟩
  · obtain ⟨h1, h2, h3, h4⟩ := hst.keepers
    obtain ⟨g1, g2, g3, g4⟩ := htu.keepers
    exact ⟨g1.trans h1, g2.trans h2, g3.trans h3, g4.trans h4⟩

theorem undisturbed_ite {s t u : State} {p : Prop} [Decidable p] (ht : Undisturbed b q s t) (hu : Undisturbed b q s u) : Undisturbed b q s (if p then t else u) := by
  split
  · exact ht
  · exact hu

theorem each_undisturbed {α : Type} (f : State → α → State) (hf : ∀ s a, Undisturbed b q s (f s a)) (l : List α) (s : State) : Undisturbed b q s (each l s f) :=
  each_keeps (Undisturbed b q s) f (fun t a h => undisturbed_trans h (hf t a)) l s (undisturbed_refl s)

theorem each_undisturbed_mem {α : Type} (f : State → α → State) (l : List α) (hf : ∀ a ∈ l, ∀ s, Undisturbed b q s (f s a)) (s : State) : Undisturbed b q s (each l s f) :=
  each_keeps_mem (Undisturbed b q s) f l (fun a ha t h => undisturbed_trans h (hf a ha t)) s (undisturbed_refl s)

/-- Whatever else holds, a port's HOLD need not. -/
theorem Undisturbed.weaken {s t : State} (h : Undisturbed b q s t) : Undisturbed False q s t := ⟨h.head, h.inv, h.dies, h.keepers, h.going, fun h => h.elim⟩

/-! ### Updates of one part -/

theorem undisturbed_modDie (s : State) (d : Nat) {f : Die → Die} (h : ∀ x, (f x).failed = x.failed ∧ (f x).bypass = x.bypass ∧ (f x).railOff = x.railOff) :
    Undisturbed b q s (s.modDie d f) := by
  refine ⟨fun _ _ h => h, rfl, fun e => ?_, ⟨rfl, rfl, rfl, rfl⟩, fun _ h => h, fun _ _ => rfl⟩
  by_cases he : e = d
  · subst he; rw [State.die_modDie]; exact h _
  · rw [State.die_modDie_ne _ _ he]; exact ⟨rfl, rfl, rfl⟩

theorem undisturbed_note (s : State) (d kind code ctx : Nat) (detail : List Byte) : Undisturbed b q s (s.note d kind code ctx detail) := by
  obtain ⟨l, -, hl⟩ := s.note_die d kind code ctx detail
  rw [hl]
  refine ⟨fun _ _ h => h, rfl, fun e => ?_, ⟨rfl, rfl, rfl, rfl⟩, fun _ h => h, fun _ _ => rfl⟩
  by_cases he : e = d
  · subst he; rw [State.die_setDie]; exact ⟨rfl, rfl, rfl⟩
  · rw [State.die_setDie_ne _ _ he]; exact ⟨rfl, rfl, rfl⟩

theorem undisturbed_contexts {s t : State} (h : t = { s with contexts := t.contexts }) (hgoing : ∀ c, goneOrGoing s c → goneOrGoing t c) : Undisturbed b q s t := by
  refine ⟨?_, ?_, fun d => ?_, ?_, hgoing, fun _ n => ?_⟩ <;> rw [h]
  · exact fun _ _ h => h
  · exact ⟨rfl, rfl, rfl⟩
  · exact ⟨rfl, rfl, rfl, rfl⟩
  · rfl

theorem undisturbed_modCtx (s : State) (c : Nat) {f : Context → Context} (h : ∀ x, x.dying = true → (f x).dying = true) : Undisturbed b q s (s.modCtx c f) := by
  refine undisturbed_contexts (State.modCtx_frame s c f) fun e he => ?_
  by_cases hec : e = c
  · subst hec
    intro y hy
    rw [State.ctx?_modCtx] at hy
    obtain ⟨x, hx, rfl⟩ := Option.map_eq_some_iff.mp hy
    exact h x (he x hx)
  · intro y hy
    rw [State.ctx?_modCtx_ne _ _ hec] at hy
    exact he y hy

theorem undisturbed_eachDie (l : List Nat) (s : State) {f : Die → Die} (h : ∀ x, (f x).failed = x.failed ∧ (f x).bypass = x.bypass ∧ (f x).railOff = x.railOff) :
    Undisturbed b q s (each l s fun s d => s.modDie d f) := each_undisturbed _ (fun t d => undisturbed_modDie t d h) l s

theorem undisturbed_eachCtx (l : List Nat) (s : State) {f : Context → Context} (h : ∀ x, x.dying = true → (f x).dying = true) : Undisturbed b q s (each l s fun s c => s.modCtx c f) :=
  each_undisturbed _ (fun t c => undisturbed_modCtx t c h) l s

theorem undisturbed_endCtx (s : State) (c : Nat) : Undisturbed b q s (s.setCtx c none) := by
  refine undisturbed_contexts rfl fun e he y hy => ?_
  by_cases hec : e = c
  · subst hec
    rw [State.ctx?_setCtx] at hy
    cases hy
  · rw [State.ctx?_setCtx_ne _ _ hec] at hy
    exact he y hy

theorem undisturbed_ports {s t : State} (h : t = { s with ports := t.ports }) (hhold : b → ∀ n, (t.port n).hold = (s.port n).hold) : Undisturbed b q s t := by
  refine ⟨?_, ?_, fun d => ?_, ?_, fun c => ?_, hhold⟩ <;> rw [h]
  · exact fun _ _ h => h
  · exact ⟨rfl, rfl, rfl⟩
  · exact ⟨rfl, rfl, rfl, rfl⟩
  · exact id

theorem undisturbed_modPort (s : State) (p : Nat) {f : Port → Port} (h : b → ∀ x, (f x).hold = x.hold) : Undisturbed b q s (s.modPort p f) := by
  refine undisturbed_ports rfl fun hb n => ?_
  by_cases hn : n = p
  · subst hn; rw [State.port_modPort, h hb]
  · rw [State.port_modPort_ne _ _ hn]

/-- A queue changes that keeps its commands, or another queue. -/
theorem undisturbed_queues {s t : State} (h : t = { s with queues := t.queues, hostMem := t.hostMem }) (hhead : ∀ p l, headStands q s p l → headStands q t p l) : Undisturbed b q s t := by
  refine ⟨hhead, ?_, fun d => ?_, ?_, fun c => ?_, fun _ n => ?_⟩ <;> rw [h]
  · exact ⟨rfl, rfl, rfl⟩
  · exact ⟨rfl, rfl, rfl, rfl⟩
  · exact id
  · rfl

/-- What a change of a queue does to the commands of one. -/
def keepsHead (f : Queue → Queue) : Prop := ∀ (x : Queue) (p : Pending) (l : List Pending) (o : Option Done), x.cmds = { p with outcome := o } :: l → ∃ o', (f x).cmds = { p with outcome := o' } :: l

theorem headStands_setQueue {s : State} {r : QRef} {y : Queue} {f : Queue → Queue} (hy : s.queue? r = some y) (h : qkey r ≠ qkey q ∨ keepsHead f) {p : Pending} {l : List Pending}
    (hp : headStands q s p l) : headStands q (s.setQueue r (some (f y))) p l := by
  obtain ⟨x, o, hx, hcmds⟩ := hp
  by_cases hkey : qkey q = qkey r
  · have hsame : s.queue? q = s.queue? r := congrArg (tabGet none s.queues) hkey
    have hxy : y = x := by rw [hsame, hy] at hx; exact Option.some.inj hx
    obtain ⟨o', ho'⟩ := (h.resolve_left fun hne => hne hkey.symm) x p l o hcmds
    exact ⟨f y, o', by unfold State.queue? State.setQueue; rw [hkey]; exact tabGet_tabSet_same _ _ _ _, by rw [hxy]; exact ho'⟩
  · exact ⟨x, o, (otherQueues_setQueue s r _ q hkey).trans hx, hcmds⟩

theorem undisturbed_putQueue (s : State) (r : QRef) {f : Queue → Queue} (h : qkey r ≠ qkey q ∨ keepsHead f) : Undisturbed b q s (s.putQueue r f) := by
  cases hy : s.queue? r with
  | none =>
    unfold State.putQueue
    rw [hy]
    exact undisturbed_refl s
  | some y =>
    have hframe := State.putQueue_frame hy f
    refine undisturbed_queues (hframe.trans (by rw [hframe]; rfl)) fun p l hp => ?_
    rw [hframe]
    exact headStands_setQueue hy h hp

theorem undisturbed_modQueue (s : State) (r : QRef) {f : Queue → Queue} (h : qkey r ≠ qkey q ∨ keepsHead f) : Undisturbed b q s (s.modQueue r f) := by
  cases hy : s.queue? r with
  | none =>
    unfold State.modQueue
    rw [hy]
    exact undisturbed_refl s
  | some y =>
    have hrun : s.modQueue r f = s.setQueue r (some (f y)) := by unfold State.modQueue; rw [hy]
    rw [hrun]
    exact undisturbed_queues rfl fun p l hp => headStands_setQueue hy h hp

theorem undisturbed_dropQueue (s : State) {r : QRef} (h : qkey r ≠ qkey q) : Undisturbed b q s (s.setQueue r none) := by
  refine undisturbed_queues rfl fun p l hp => ?_
  obtain ⟨x, o, hx, hcmds⟩ := hp
  exact ⟨x, o, (otherQueues_setQueue s r none q h.symm).trans hx, hcmds⟩

/-- The command at the head of whatever queue ends. -/
theorem undisturbed_finish (s : State) (r : QRef) (o : Done) : Undisturbed b q s (s.finish r o) := by
  refine undisturbed_modQueue s r (.inr fun x p l o' h => ⟨some o, ?_⟩)
  dsimp only
  rw [h]

theorem undisturbed_endCmd (s : State) (r : QRef) (status fault result : Nat) : Undisturbed b q s (s.endCmd r status fault result) := undisturbed_finish _ _ _

theorem keepsHead_of_cmds {f : Queue → Queue} (h : ∀ x, (f x).cmds = x.cmds) : keepsHead f := fun x _ _ o hx => ⟨o, (h x).trans hx⟩

theorem undisturbed_emit (s : State) (n : Nat) (a : Packet) : Undisturbed b q s (s.emit n a) := by
  rw [State.emit_packetsOnly]
  exact undisturbed_same rfl

theorem undisturbed_send (s : State) (m : Sent) : Undisturbed b q s (s.send m) := by
  rw [State.send_frame]
  exact undisturbed_same rfl

theorem undisturbed_modSet (s : State) (w : Nat) (f : WeightSet → WeightSet) : Undisturbed b q s (s.modSet w f) := by
  unfold State.modSet
  split <;> exact undisturbed_same rfl

/-! ### Faults and the ends of jobs (R496 to R500) -/

theorem undisturbed_ports_irqs {s t : State} (h : portsOnly s t) : Undisturbed b q s t := by
  rw [h]
  exact undisturbed_same rfl

theorem mem_ctxQueues {s : State} {c : Nat} {r : QRef} (h : r ∈ s.ctxQueues c) : qkey r < 0x80000 := by
  obtain ⟨k, hk, rfl⟩ := List.mem_map.mp h
  rw [mem_tabKeys none _ _ (by simp)] at hk
  simp only [Bool.and_eq_true, decide_eq_true_iff] at hk
  obtain ⟨⟨-, hc⟩, hlt⟩ := hk
  unfold qrefOf
  rw [if_pos hlt]
  change k / 512 * 512 + k % 512 < 0x80000
  omega

section
variable (hq : 0x80000 ≤ qkey q)
include hq

theorem undisturbed_stopQueues (s : State) (c code : Nat) : Undisturbed b q s (s.stopQueues c code) := by
  unfold State.stopQueues
  refine each_undisturbed_mem _ _ (fun r hr t => undisturbed_putQueue t r (.inl ?_)) _
  have hlt := mem_ctxQueues hr
  omega

theorem undisturbed_stopCtx (s : State) (c code : Nat) : Undisturbed b q s (s.stopCtx c code) := by
  obtain ⟨u, hu⟩ : ∃ u, u = s.orderQuench c code true := ⟨_, rfl⟩
  have hordered : Undisturbed b q s u := by rw [hu]; exact undisturbed_modCtx s c fun _ h => h
  unfold State.stopCtx
  dsimp only
  rw [← hu]
  refine undisturbed_trans hordered (undisturbed_trans ?_ (undisturbed_stopQueues hq _ _ _))
  exact undisturbed_same rfl

theorem undisturbed_holdRec (s : State) (r : FaultRec) : Undisturbed b q s (s.holdRec r) := by
  unfold State.holdRec
  refine undisturbed_ite ?_ (undisturbed_ite ?_ ?_)
  · exact undisturbed_modDie _ _ fun _ => ⟨rfl, rfl, rfl⟩
  · refine undisturbed_trans ?_ (each_undisturbed _ (fun t c => undisturbed_stopCtx hq t c _) _ _)
    exact undisturbed_modDie _ _ fun _ => ⟨rfl, rfl, rfl⟩
  · exact undisturbed_modDie _ _ fun _ => ⟨rfl, rfl, rfl⟩

theorem undisturbed_raiseTo (s : State) (d code : Nat) (ctxs : List Nat) (job driver : Bool) (detail : List Byte) :
    Undisturbed b q s (s.raiseTo d code ctxs job driver detail) := undisturbed_trans (undisturbed_note s d 0x01 code (oneCtx ctxs) detail) (undisturbed_holdRec hq _ _)

theorem undisturbed_raise (s : State) (d code : Nat) (ctxs : List Nat) (detail : List Byte) : Undisturbed b q s (s.raise d code ctxs detail) := undisturbed_raiseTo hq _ _ _ _ _ _ _

omit hq in
theorem undisturbed_tellJob (s : State) (c code n : Nat) : Undisturbed b q s (s.tellJob c code n) := by
  unfold State.tellJob
  split
  · exact undisturbed_ite (undisturbed_send _ _) (undisturbed_refl s)
  · exact undisturbed_refl s

omit hq in
theorem undisturbed_dropAnswers (s : State) (j : Nat) : Undisturbed b q s (s.dropAnswers j) := by
  unfold State.dropAnswers
  refine each_undisturbed _ (fun t d => ?_) _ s
  exact undisturbed_modDie t d fun _ => ⟨rfl, rfl, rfl⟩

theorem undisturbed_faultJob (s : State) (j code : Nat) : Undisturbed b q s (s.faultJob j code) := by
  unfold State.faultJob
  refine undisturbed_trans (t := s.faultSets j) (undisturbed_same rfl) ?_
  refine undisturbed_trans (t := if code = fRailQuench then (s.faultSets j).dropAnswers j else s.faultSets j) (undisturbed_ite (undisturbed_dropAnswers _ _) (undisturbed_refl _)) ?_
  refine each_undisturbed _ (fun t c => undisturbed_trans ?_ (undisturbed_stopQueues hq _ _ _)) _ _
  exact undisturbed_modCtx _ _ fun _ h => h

theorem undisturbed_faultCtx (s : State) (c code n : Nat) : Undisturbed b q s (s.faultCtx c code n) := by
  unfold State.faultCtx
  refine undisturbed_ite (undisturbed_refl s) ?_
  refine undisturbed_trans (t := if (s.ctx c).faulted.isNone then s.tellJob c code n else s) ?_ (undisturbed_faultJob hq _ _ _)
  exact undisturbed_ite (undisturbed_tellJob _ _ _ _) (undisturbed_refl s)

end

/-! ### Quench (R190, R499) -/

theorem undisturbed_noteTallies (s : State) (c : Nat) : Undisturbed b q s (s.noteTallies c) := by
  unfold State.noteTallies
  split
  · exact undisturbed_refl s
  · refine each_undisturbed _ (fun t e => undisturbed_ite ?_ ?_) _ _
    · split
      · exact undisturbed_note _ _ _ _ _ _
      · exact undisturbed_refl t
    · exact each_undisturbed _ (fun t d => undisturbed_note _ _ _ _ _ _) _ _

theorem undisturbed_throttleOff (s : State) (d r : Nat) : Undisturbed b q s (s.throttleOff d r) := by
  unfold State.throttleOff
  split
  · exact undisturbed_refl s
  · refine undisturbed_ite ?_ ?_
    · refine undisturbed_trans (undisturbed_trans ?_ (undisturbed_note _ _ _ _ _ _)) (undisturbed_note _ _ _ _ _ _)
      exact undisturbed_modDie _ _ fun _ => ⟨rfl, rfl, rfl⟩
    · refine undisturbed_trans ?_ (undisturbed_note _ _ _ _ _ _)
      exact undisturbed_modDie _ _ fun _ => ⟨rfl, rfl, rfl⟩

theorem startOp_mesh (n : Nat) (x : Die) : (startOp n x).failed = x.failed ∧ (startOp n x).bypass = x.bypass ∧ (startOp n x).railOff = x.railOff := by
  unfold startOp
  split
  · exact ⟨rfl, rfl, rfl⟩
  · split
    · exact ⟨rfl, rfl, rfl⟩
    · split <;> exact ⟨rfl, rfl, rfl⟩

theorem undisturbed_leaveDie (s : State) (d : Nat) : Undisturbed b q s (s.leaveDie d) := by
  unfold State.leaveDie
  refine undisturbed_ite ?_ (undisturbed_refl s)
  refine undisturbed_trans (undisturbed_throttleOff s d rsStretch) ?_
  exact undisturbed_modDie _ _ fun _ => startOp_mesh _ _

theorem endGrid_mesh (j : Nat) (x : Die) : (x.endGrid j).failed = x.failed ∧ (x.endGrid j).bypass = x.bypass ∧ (x.endGrid j).railOff = x.railOff := by
  unfold Die.endGrid
  split <;> exact ⟨rfl, rfl, rfl⟩

theorem undisturbed_endCoord (s : State) (j : Nat) : Undisturbed b q s (s.endCoord j) := by
  unfold State.endCoord
  split
  · exact undisturbed_ite (undisturbed_refl s) (undisturbed_same rfl)
  · exact undisturbed_refl s

theorem undisturbed_leaves (s : State) (c k : Nat) : Undisturbed b q s (s.leaves c k) := by
  rw [State.leaves_frame]
  exact undisturbed_same rfl

theorem undisturbed_unbind (s : State) (c : Nat) : Undisturbed b q s (s.unbind c) := by
  have hpower (t : State) (p : PackagePower) : Undisturbed b q t { t with power := p } := undisturbed_same rfl
  have hdrop (t : State) : Undisturbed b q t (t.dropInFlight c) := undisturbed_same rfl
  unfold State.unbind
  refine undisturbed_trans ?_ (undisturbed_modCtx _ c fun _ h => h)
  refine undisturbed_trans ?_ (undisturbed_endCoord _ _)
  refine undisturbed_trans ?_ (hdrop _)
  refine undisturbed_trans ?_ (hpower _ _)
  refine undisturbed_trans ?_ (each_undisturbed _ (fun t w => undisturbed_modSet t w _) _ _)
  refine undisturbed_trans ?_ (each_undisturbed _ (fun t d => undisturbed_modDie t d (endGrid_mesh _)) _ _)
  refine undisturbed_trans ?_ (each_undisturbed _ undisturbed_leaveDie _ _)
  refine undisturbed_trans ?_ (each_undisturbed _ (fun t k => undisturbed_leaves t c k) _ _)
  exact undisturbed_note _ _ _ _ _ _

theorem undisturbed_quench (s : State) (c : Nat) : Undisturbed b q s (s.quench c) := by
  unfold State.quench
  split
  · refine undisturbed_ite ?_ (undisturbed_trans (undisturbed_noteTallies s c) (undisturbed_unbind _ c))
    exact undisturbed_modCtx _ _ fun _ h => h
  · exact undisturbed_modCtx _ _ fun _ h => h

theorem undisturbed_forceQuench (hq : 0x80000 ≤ qkey q) (s : State) (c code : Nat) : Undisturbed b q s (s.forceQuench c code) := by
  unfold State.forceQuench
  refine undisturbed_ite (undisturbed_refl s) ?_
  exact undisturbed_trans (undisturbed_trans (undisturbed_trans (undisturbed_raiseTo hq _ _ _ _ _ _ _) (undisturbed_tellJob _ _ _ _)) (undisturbed_faultJob hq _ _ _)) (undisturbed_quench _ _)

/-! ### The end of a context (R233, R392, R455, R517) -/

theorem undisturbed_modHp (s : State) (p : Nat) (f : HostPort → HostPort) : Undisturbed b q s (s.modHp p f) := undisturbed_ports_irqs (portsOnly_modHp s p f)

theorem undisturbed_raiseVector (s : State) (p v : Nat) : Undisturbed b q s (s.raiseVector p v) := undisturbed_ports_irqs (State.raiseVector_portsOnly s p v)

theorem undisturbed_causeService (s : State) : Undisturbed b q s s.causeService := undisturbed_ports_irqs s.causeService_portsOnly

theorem undisturbed_queueWrite (s : State) (port a : Nat) (l : List Byte) : Undisturbed b q s (s.queueWrite port a l) := undisturbed_same rfl

theorem undisturbed_noteCmd (s : State) (r : QRef) (x : Queue) (p : Pending) (o : Done) : Undisturbed b q s (s.noteCmd r x p o) := by
  unfold State.noteCmd
  exact undisturbed_ite (undisturbed_note _ _ _ _ _ _) (undisturbed_refl s)

theorem undisturbed_postRecord (s : State) {r : QRef} (h : qkey r ≠ qkey q) (x : Queue) (p : Pending) (o : Done) : Undisturbed b q s (s.postRecord r x p o) := by
  unfold State.postRecord
  refine undisturbed_ite (undisturbed_modQueue s r (.inl h)) ?_
  cases r with
  | normal c k => exact undisturbed_ite (undisturbed_trans (undisturbed_queueWrite _ _ _ _) (undisturbed_raiseVector _ _ _)) (undisturbed_queueWrite _ _ _ _)
  | kernel k =>
    have hwritten (t : State) : Undisturbed b q t ((t.modHp k fun h => { h with causeDone := true }).raiseVector k 1) := undisturbed_trans (undisturbed_modHp _ _ _) (undisturbed_raiseVector _ _ _)
    exact undisturbed_ite (undisturbed_trans (undisturbed_trans (undisturbed_queueWrite _ _ _ _) (hwritten _)) (undisturbed_raiseVector _ _ _))
      (undisturbed_trans (undisturbed_queueWrite _ _ _ _) (hwritten _))

theorem undisturbed_recordCmd (s : State) {r : QRef} (h : qkey r ≠ qkey q) (x : Queue) (p : Pending) (o : Done) : Undisturbed b q s (s.recordCmd r x p o) := by
  unfold State.recordCmd
  exact undisturbed_trans (undisturbed_ite (undisturbed_refl s) (undisturbed_postRecord s h x p o)) (undisturbed_noteCmd _ _ _ _ _)

theorem undisturbed_abortQueue (s : State) (code : Nat) {r : QRef} (h : qkey r ≠ qkey q) : Undisturbed b q s (s.abortQueue code r) := by
  unfold State.abortQueue
  refine undisturbed_trans ?_ (undisturbed_dropQueue _ h)
  have hrecords := each_undisturbed (b := b) (q := q) (fun (t : State) p => if recordsHeld (endCommands 6 code (s.queue r)) then t.noteCmd r (endCommands 6 code (s.queue r)) p (p.outcome.getD {})
      else t.recordCmd r (endCommands 6 code (s.queue r)) p (p.outcome.getD {}))
    (fun t p => undisturbed_ite (undisturbed_noteCmd _ _ _ _ _) (undisturbed_recordCmd _ h _ _ _)) (endCommands 6 code (s.queue r)).cmds s
  split
  · exact undisturbed_trans hrecords (undisturbed_endCmd _ _ _ _ _)
  · exact hrecords

theorem undisturbed_freeLanes (s : State) (own : Nat) : Undisturbed b q s (s.freeLanes own) := by
  refine undisturbed_ports rfl fun _ n => ?_
  exact (congrArg Port.hold (tabGet_map_snd ({} : Port) (fun x => { x with lanesOwned := x.lanesOwned.filter fun l => l.2 != some own }) rfl s.ports n):)

theorem undisturbed_dropGroup (s : State) (k : Nat) : Undisturbed b q s (s.dropGroup k) := by
  unfold State.dropGroup
  split
  · exact undisturbed_refl s
  · refine undisturbed_trans (t := s.setGroup k none) (undisturbed_same rfl) (undisturbed_trans (undisturbed_freeLanes _ _) (each_undisturbed _ (fun t m => ?_) _ _))
    exact undisturbed_emit _ _ _

theorem undisturbed_dropFlow (s : State) (f : Nat) : Undisturbed b q s (s.dropFlow f) := by
  unfold State.dropFlow
  split
  · exact undisturbed_refl s
  · refine undisturbed_trans (t := s.setFlow f none) (undisturbed_same rfl) (undisturbed_trans (undisturbed_freeLanes _ _) (each_undisturbed _ (fun t r => ?_) _ _))
    exact undisturbed_emit _ _ _

theorem undisturbed_dropPaths (s : State) (c path : Nat) : Undisturbed b q s (s.dropPaths c path) := by
  obtain ⟨u, hu⟩ : ∃ u, u = each (s.pathFlows c path) (each (s.pathGroups c path) s State.dropGroup) State.dropFlow := ⟨_, rfl⟩
  have hdropped : Undisturbed b q s u := by
    rw [hu]
    exact undisturbed_trans (each_undisturbed _ undisturbed_dropGroup _ _) (each_undisturbed _ undisturbed_dropFlow _ _)
  obtain ⟨v, hv⟩ : ∃ v, v = if u.pathFlows c 0xFFFFFFFF = [] then u.modCtx c fun x => { x with tracked := 0 } else u := ⟨_, rfl⟩
  have hquota : Undisturbed b q u v := by
    rw [hv]
    exact undisturbed_ite (undisturbed_modCtx _ _ fun _ h => h) (undisturbed_refl u)
  unfold State.dropPaths
  dsimp only
  rw [← hu, ← hv]
  exact undisturbed_trans hdropped (undisturbed_trans hquota (undisturbed_ite (undisturbed_same rfl) (undisturbed_refl v)))

theorem undisturbed_stopDone (s : State) : Undisturbed b q s s.stopDone := by
  unfold State.stopDone
  refine undisturbed_ite ?_ (undisturbed_refl s)
  have hstopped : Undisturbed b q s ({ s with stopping := false, service := .stopped } : State).causeService :=
    undisturbed_trans (t := { s with stopping := false, service := .stopped }) (undisturbed_same rfl) (undisturbed_causeService _)
  dsimp only
  split
  · refine undisturbed_trans hstopped (undisturbed_trans (t := { ({ s with stopping := false, service := .stopped } : State).causeService with recover := none }) (undisturbed_same rfl) ?_)
    exact undisturbed_finish _ _ _
  · exact hstopped

theorem undisturbed_endDestroy (s : State) (c : Nat) : Undisturbed b q s (s.endDestroy c) := by
  unfold State.endDestroy
  refine undisturbed_ite ?_ (undisturbed_refl s)
  have hended : Undisturbed b q s ((s.setCoord (s.ctx c).job none).setCtx c none) := undisturbed_trans (t := s.setCoord (s.ctx c).job none) (undisturbed_same rfl) (undisturbed_endCtx _ c)
  dsimp only
  split
  · exact undisturbed_trans hended (undisturbed_finish _ _ _)
  · exact hended

theorem undisturbed_endDestroys (s : State) : Undisturbed b q s s.endDestroys := undisturbed_trans (each_undisturbed _ undisturbed_endDestroy _ _) (undisturbed_stopDone _)

section
variable (hq : 0x80000 ≤ qkey q)
include hq

theorem undisturbed_dmaFail (s : State) (port c a : Nat) : Undisturbed b q s (s.dmaFail port c a) := by
  unfold State.dmaFail
  refine undisturbed_ite (undisturbed_modCtx _ _ fun _ h => h) ?_
  exact undisturbed_trans (undisturbed_raise hq s (96 + port) fHostDma [c] _) (undisturbed_modCtx _ _ fun _ h => h)

theorem undisturbed_dmaWrite (s : State) (c port a : Nat) (l : List Byte) : Undisturbed b q s (s.dmaWrite c port a l) := by
  unfold State.dmaWrite
  exact undisturbed_ite (undisturbed_dmaFail hq _ _ _ _) (undisturbed_same rfl)

/-- A set that has left, before its event is signalled (R233). -/
def setGone (s : State) (w : Nat) (y : WeightSet) : State :=
  let s := { s with crates := s.crates.filter fun e => match e.2 with | some x => x.hdr.wsid != w | none => false }
  let s := each (s.jobDies y.job) s fun s d => s.modDie d fun x => { x with slots := x.slots.filter fun e => e.1 < y.base || y.base + y.slots ≤ e.1 }
  let s := each (s.setCtxs y) s fun s c => s.modCtx c fun x => { x with
    pointers := x.pointers.filter fun e => e.2 != w, nextPointers := x.nextPointers.filter fun e => e.2 != some w }
  (s.setSet w none).note s.serviceDie 0x0B 233 y.ctx (le 2 w)

theorem undisturbed_signalEvent (s : State) (c i n at_ : Nat) : Undisturbed b q s (s.signalEvent c i n at_) := by
  unfold State.signalEvent
  refine undisturbed_trans ?_ (each_undisturbed_mem _ _ (fun r hr t => undisturbed_modQueue t r (.inl ?_)) _)
  · have hstore (a : Nat) (l : List Byte) : Undisturbed b q s (s.store a l) := undisturbed_same rfl
    have hmirror (t : State) (port a : Nat) (l : List Byte) (up : Prop) [Decidable up] : Undisturbed b q t (if up then t.dmaWrite c port a l else t.countDoorbell (1 - port)) :=
      undisturbed_ite (undisturbed_dmaWrite hq _ _ _ _ _) (undisturbed_ports_irqs (State.countDoorbell_portsOnly _ _))
    have hrecord (t : State) (port a : Nat) (l : List Byte) (up mirrored : Prop) [Decidable up] [Decidable mirrored] :
        Undisturbed b q t (if mirrored then (if up then t.dmaWrite c port a l else t.countDoorbell (1 - port)) else t) := undisturbed_ite (hmirror t port a l up) (undisturbed_refl t)
    refine undisturbed_ite ?_ ?_
    · exact undisturbed_trans (hstore _ _) (undisturbed_trans (hrecord _ _ _ _ _ _) (undisturbed_raiseVector _ _ _))
    · exact undisturbed_trans (hstore _ _) (hrecord _ _ _ _ _ _)
  · have hlt := mem_ctxQueues hr
    omega

omit hq in
theorem undisturbed_setGone (s : State) (w : Nat) (y : WeightSet) : Undisturbed b q s (setGone s w y) := by
  have hcrates (t : State) (x : Tab (Option Crate)) : Undisturbed b q t { t with crates := x } := undisturbed_same rfl
  have hset (t : State) : Undisturbed b q t (t.setSet w none) := undisturbed_same rfl
  unfold setGone
  refine undisturbed_trans ?_ (undisturbed_note _ _ _ _ _ _)
  refine undisturbed_trans ?_ (hset _)
  refine undisturbed_trans ?_ (undisturbed_eachCtx _ _ fun _ h => h)
  refine undisturbed_trans ?_ (undisturbed_eachDie _ _ fun _ => ⟨rfl, rfl, rfl⟩)
  exact hcrates _ _

theorem undisturbed_retireSet (s : State) (w : Nat) (y : WeightSet) : Undisturbed b q s (s.retireSet w y) := by
  have hgone := undisturbed_setGone (b := b) (q := q) s w y
  unfold State.retireSet
  split
  · exact undisturbed_ite (undisturbed_trans hgone (undisturbed_signalEvent hq _ _ _ _ _)) hgone
  · exact hgone

theorem undisturbed_retireAll (s : State) (c : Nat) : Undisturbed b q s (s.retireAll c) := by
  unfold State.retireAll
  refine each_undisturbed _ (fun t w => ?_) _ _
  split
  · exact undisturbed_retireSet hq _ _ _
  · exact undisturbed_refl t

theorem undisturbed_destroy (s : State) (kill : Bool) (r : Option QRef) (c : Nat) : Undisturbed b q s (s.destroy kill r c) := by
  unfold State.destroy
  refine undisturbed_ite (undisturbed_refl s) ?_
  obtain ⟨u, hu⟩ : ∃ u, u = if kill then (s.raiseTo s.serviceDie fContextKilled [c] false false []).tellJob c fContextKilled s.kcount else s := ⟨_, rfl⟩
  have hkill : Undisturbed b q s u := by
    rw [hu]
    exact undisturbed_ite (undisturbed_trans (undisturbed_raiseTo hq _ _ _ _ _ _ _) (undisturbed_tellJob _ _ _ _)) (undisturbed_refl s)
  obtain ⟨v, hv⟩ : ∃ v, v = each (u.ctxQueues c) u fun s r => s.abortQueue (if kill then fContextKilled else 0) r := ⟨_, rfl⟩
  have habort : Undisturbed b q u v := by
    rw [hv]
    refine each_undisturbed_mem _ _ (fun r hr t => undisturbed_abortQueue t _ ?_) u
    have hlt := mem_ctxQueues hr
    omega
  obtain ⟨w, hw⟩ : ∃ w, w = ((v.quench c).retireAll c).dropPaths c 0xFFFFFFFF := ⟨_, rfl⟩
  have hleft : Undisturbed b q v w := by
    rw [hw]
    exact undisturbed_trans (undisturbed_trans (undisturbed_quench _ _) (undisturbed_retireAll hq _ _)) (undisturbed_dropPaths _ _ _)
  dsimp only
  rw [← hu, ← hv, ← hw]
  have herase : Undisturbed b q w (if (w.ctx c).sealed then w.eraseGranules c else w) := undisturbed_ite (undisturbed_same rfl) (undisturbed_refl w)
  have hwrapped (t : State) : Undisturbed b q t (t.dropWrapped c) := undisturbed_same rfl
  refine undisturbed_trans hkill (undisturbed_trans habort (undisturbed_trans hleft (undisturbed_trans herase ?_)))
  refine undisturbed_trans (undisturbed_trans ?_ (hwrapped _)) (undisturbed_endDestroys _)
  exact undisturbed_modCtx _ _ fun _ _ => rfl

end

/-! ### A port that holds (R414, R428, R431, R459) -/

theorem undisturbed_perfAdd (s : State) (d i n : Nat) : Undisturbed b q s (s.perfAdd d i n) := by
  unfold State.perfAdd
  refine undisturbed_ite ?_ (undisturbed_ite ?_ ?_)
  · exact undisturbed_modDie _ _ fun _ => ⟨rfl, rfl, rfl⟩
  · exact undisturbed_modDie _ _ fun _ => ⟨rfl, rfl, rfl⟩
  · refine undisturbed_trans ?_ (undisturbed_note _ _ _ _ _ _)
    exact undisturbed_modDie _ _ fun _ => ⟨rfl, rfl, rfl⟩

theorem spendFctr_hold (f : Frame) (x : Port) : (spendFctr f x).hold = x.hold := by
  unfold spendFctr
  split
  · rfl
  · split <;> rfl

theorem undisturbed_onLanes (s : State) (p : Nat) (f : Frame) : Undisturbed b q s (s.onLanes p f) := by
  unfold State.onLanes
  refine undisturbed_ite (undisturbed_refl s) ?_
  refine undisturbed_trans (t := s.modPort p fun x => { spendFctr f x with owed := [0, 0, 0, 0] }) ?_ (undisturbed_same rfl)
  exact undisturbed_modPort _ _ fun _ x => spendFctr_hold f x

theorem undisturbed_sendReordered (s : State) (p : Nat) : Undisturbed b q s (s.sendReordered p) := by
  unfold State.sendReordered
  split
  · refine undisturbed_trans ?_ (undisturbed_onLanes _ _ _)
    exact undisturbed_modPort _ _ fun _ _ => rfl
  · exact undisturbed_refl s

theorem undisturbed_sendRaw (s : State) (p : Nat) {f : Frame} (h : f.ftype ≠ 1) : Undisturbed b q s (s.sendRaw p f) := by
  unfold State.sendRaw
  rw [State.injects_other s p false h]
  exact undisturbed_trans (undisturbed_onLanes s p (s.dress p f)) (undisturbed_sendReordered _ p)

theorem undisturbed_sendSeq (s : State) (p cls len : Nat) (payload : List Byte) {ftype : Nat} (h : ftype ≠ 1) : Undisturbed b q s (s.sendSeq p ftype cls len payload) := by
  unfold State.sendSeq
  refine undisturbed_trans (undisturbed_trans ?_ (undisturbed_perfAdd _ _ _ _)) (undisturbed_sendRaw _ _ h)
  exact undisturbed_modPort _ _ fun _ _ => rfl

theorem undisturbed_sendMgmt (s : State) (p kind : Nat) (body : List Byte) : Undisturbed b q s (s.sendMgmt p kind body) := by
  unfold State.sendMgmt
  exact undisturbed_ite (undisturbed_sendSeq _ _ _ _ _ (by decide)) (undisturbed_onLanes _ _ _)

theorem undisturbed_sendDown (s : State) (p : Nat) : Undisturbed b q s (s.sendDown p) := by
  unfold State.sendDown
  refine undisturbed_trans (t := if sendable (s.port p) 0 then s.sendMgmt p mgDown [] else s) (undisturbed_ite (undisturbed_sendMgmt _ _ _ _) (undisturbed_refl s)) ?_
  exact undisturbed_modPort _ _ fun _ _ => rfl

theorem undisturbed_setPortSt (s : State) (p : Nat) (st : PortSt) : Undisturbed b q s (s.setPortSt p st) := by
  unfold State.setPortSt
  refine undisturbed_ite (undisturbed_refl s) ?_
  refine undisturbed_trans ?_ (undisturbed_modPort _ _ fun _ _ => rfl)
  exact undisturbed_note _ _ _ _ _ _

theorem undisturbed_setAligned (s : State) (v : Bool) : Undisturbed b q s (s.setAligned v) := by
  unfold State.setAligned
  exact undisturbed_eachDie _ _ fun _ => ⟨rfl, rfl, rfl⟩

theorem undisturbed_post (s : State) (n : Nat) (l : List Packet) : Undisturbed b q s (s.post n l) := by
  rw [State.post_packetsOnly]
  exact undisturbed_same rfl

theorem undisturbed_pump (s : State) (f : Nat) : Undisturbed b q s (s.pump f) := by
  have hflow (x : Flow) : Undisturbed b q s (s.setFlow f (some x)) := undisturbed_same rfl
  unfold State.pump
  split
  · exact undisturbed_refl s
  · exact undisturbed_ite (undisturbed_refl s) (undisturbed_trans (hflow _) (undisturbed_post _ _ _))

theorem undisturbed_tellRouteFail (s : State) (t : Transit) : Undisturbed b q s (s.tellRouteFail t) := by
  have htransits (x : List Transit) : Undisturbed b q s { s with transits := x } := undisturbed_same rfl
  unfold State.tellRouteFail
  exact undisturbed_ite (undisturbed_refl s) (undisturbed_trans (htransits _) (undisturbed_emit _ _ _))

section
variable (hq : 0x80000 ≤ qkey q)
include hq

theorem undisturbed_unreach (s : State) (f : Nat) : Undisturbed b q s (s.unreach f) := by
  unfold State.unreach
  split
  · exact undisturbed_refl s
  · exact undisturbed_raise hq _ _ _ _ _

theorem undisturbed_resend (s : State) (f : Nat) : Undisturbed b q s (s.resend f) := by
  have hflow (x : Flow) : Undisturbed b q s (s.setFlow f (some x)) := undisturbed_same rfl
  unfold State.resend
  split
  · exact undisturbed_refl s
  · exact undisturbed_ite (undisturbed_refl s) (undisturbed_ite (undisturbed_unreach hq _ _) (undisturbed_trans (hflow _) (undisturbed_pump _ _)))

theorem undisturbed_flowRouteFail (s : State) (f r : Nat) : Undisturbed b q s (s.flowRouteFail f r) := by
  have hflow (t : State) (x : Flow) : Undisturbed b q t (t.setFlow f (some x)) := undisturbed_same rfl
  unfold State.flowRouteFail
  split
  · exact undisturbed_refl s
  · refine undisturbed_ite (hflow _ _) ?_
    split
    · exact undisturbed_trans (hflow _ _) (undisturbed_trans (hflow _ _) (undisturbed_resend hq _ _))
    · exact undisturbed_trans (hflow _ _) (undisturbed_unreach hq _ _)

theorem undisturbed_routesDown (s : State) (p : Nat) : Undisturbed b q s (s.routesDown p) := by
  have hpackets (x : List (Nat × Packet)) : Undisturbed b q s { s with packetOut := x } := undisturbed_same rfl
  unfold State.routesDown
  refine undisturbed_trans (undisturbed_trans (hpackets _) (each_undisturbed _ (fun t f => ?_) _ _)) (each_undisturbed _ undisturbed_tellRouteFail _ _)
  split
  · exact undisturbed_flowRouteFail hq _ _ _
  · exact undisturbed_refl t

theorem undisturbed_leaveUp (s : State) (p : Nat) (cause : Cause) (dest : PortSt) : Undisturbed b q s (s.leaveUp p cause dest) := by
  unfold State.leaveUp
  refine undisturbed_trans ?_ (undisturbed_routesDown hq _ p)
  obtain ⟨u, hu⟩ : ∃ u, u = s.note (88 + p) 0x0B 428 noCtx (le 2 p ++ le 1 (causeCode cause)) := ⟨_, rfl⟩
  have hnote : Undisturbed b q s u := by rw [hu]; exact undisturbed_note _ _ _ _ _ _
  obtain ⟨v, hv⟩ : ∃ v, v = if causeFaults cause then u.raise (88 + p) fLinkDown [] (le 2 p ++ le 1 (causeCode cause)) else u := ⟨_, rfl⟩
  have hfault : Undisturbed b q u v := by rw [hv]; exact undisturbed_ite (undisturbed_raise hq _ _ _ _ _) (undisturbed_refl u)
  obtain ⟨w, hw⟩ : ∃ w, w = (v.setPortSt p dest).modPort p fun x => handBack (dropKeys x) := ⟨_, rfl⟩
  have hdown : Undisturbed b q v w := by
    rw [hw]
    exact undisturbed_trans (undisturbed_setPortSt _ _ _) (undisturbed_modPort _ _ fun _ _ => rfl)
  dsimp only
  rw [← hu, ← hv, ← hw]
  have htime (x : TimeTree) : Undisturbed b q w { w with time := x } := undisturbed_same rfl
  exact undisturbed_trans hnote (undisturbed_trans hfault (undisturbed_trans hdown (undisturbed_ite (undisturbed_trans (htime _) (undisturbed_setAligned _ _)) (undisturbed_refl w))))

/-- LK_HOLD changes nothing but HOLD. -/
theorem lkHold_holds (p : Nat) (x : Bool) (s : State) : Undisturbed False q s (lkHold p x s) ∧ ((lkHold p x s).port p).hold = x := by
  obtain ⟨u, hu⟩ : ∃ u, u = s.modPort p fun y => { y with hold := x } := ⟨_, rfl⟩
  have hset : Undisturbed False q s u := by rw [hu]; exact undisturbed_modPort _ _ fun h => h.elim
  have hrest : Undisturbed True q u (lkHold p x s) := by
    unfold lkHold
    dsimp only
    rw [← hu]
    refine undisturbed_ite (undisturbed_ite ?_ (undisturbed_ite ?_ ?_)) (undisturbed_ite ?_ (undisturbed_refl u))
    · exact undisturbed_ite (undisturbed_refl u) (undisturbed_sendDown _ _)
    · exact undisturbed_trans (undisturbed_leaveUp hq u p .hold .down) (undisturbed_modPort _ _ fun _ _ => rfl)
    · obtain ⟨v, hv⟩ : ∃ v, v = if (u.port p).st = .identify then u.sendMgmt p mgDown [] else u := ⟨_, rfl⟩
      have htold : Undisturbed True q u v := by rw [hv]; exact undisturbed_ite (undisturbed_sendMgmt _ _ _ _) (undisturbed_refl u)
      rw [← hv]
      exact undisturbed_trans htold (undisturbed_trans (undisturbed_setPortSt v p .down) (undisturbed_modPort _ _ fun _ _ => rfl))
    · exact undisturbed_trans (undisturbed_setPortSt u p .dark) (undisturbed_modPort _ _ fun _ _ => rfl)
  refine ⟨undisturbed_trans hset hrest.weaken, (hrest.hold trivial p).trans ?_⟩
  rw [hu, State.port_modPort]

end

end

end Sys2Proof.Machine

end

section
/-! SUPPORT. Packets that waited are taken up again (R51, R440 to R447), and nothing that recovery rests on has changed. -/

namespace Sys2Proof.Machine

section
variable {b : Prop} {q : QRef}

/-! ### The stores (R178 to R184, R275 to R286) -/

theorem undisturbed_perfUnits (s : State) (d i u n : Nat) : Undisturbed b q s (s.perfUnits d i u n) := by
  unfold State.perfUnits
  refine undisturbed_trans ?_ (undisturbed_perfAdd _ _ _ _)
  exact undisturbed_modDie _ _ fun _ => ⟨rfl, rfl, rfl⟩

theorem undisturbed_countBytes (s : State) (i a n : Nat) : Undisturbed b q s (s.countBytes i a n) := each_undisturbed _ (fun t _ => undisturbed_perfUnits t _ _ _ _) _ s

theorem undisturbed_cellarCorrect (s : State) (a : Nat) : Undisturbed b q s (s.cellarCorrect a) := by
  have hcounted : Undisturbed b q s (s.modChannel (s.frameChannel (frameOf a)) fun c => { c with ce := stick 16 (c.ce + 1) }) := undisturbed_same rfl
  have hframe (u : State) (k : Nat) (f : Frame64K → Frame64K) : Undisturbed b q u (u.modFrame k f) := undisturbed_same rfl
  unfold State.cellarCorrect State.cellarCorrectOn
  refine undisturbed_ite ?_ ?_
  · exact undisturbed_trans (undisturbed_trans hcounted (hframe _ _ _)) (undisturbed_note _ _ _ _ _ _)
  · exact undisturbed_trans hcounted (hframe _ _ _)

theorem undisturbed_cellarStore (s : State) (a : Nat) (l : List Byte) : Undisturbed b q s (s.cellarStore a l) := by
  have hstore : Undisturbed b q s (s.store a l) := undisturbed_same rfl
  have htags (t : State) : Undisturbed b q t (t.tagSectors a l.length) := by
    unfold State.tagSectors
    refine each_undisturbed _ (fun u i => ?_) _ t
    exact undisturbed_same rfl
  have hmarks (t : State) (x : Tab ErrMark) : Undisturbed b q t { t with marks := x } := undisturbed_same rfl
  unfold State.cellarStore
  exact undisturbed_trans hstore (undisturbed_trans (htags _) (undisturbed_trans (undisturbed_countBytes _ _ _ _) (hmarks _ _)))

theorem undisturbed_claim (s : State) (x : Accessor) (a n : Nat) : Undisturbed b q s (s.claim x a n) := by
  unfold State.claim
  refine each_undisturbed _ (fun t g => ?_) _ s
  exact undisturbed_same rfl

theorem undisturbed_putWords (s : State) (k : Nat) (l : List Byte) : Undisturbed b q s (s.putWords k l) := undisturbed_same rfl

theorem undisturbed_modCore (s : State) (c : Nat) (f : Core → Core) : Undisturbed b q s (s.modCore c f) := undisturbed_same rfl

/-- `State.eccCorrect` over any layout of the stores. With the model's own, whose base address is large, the kernel would reduce a subtraction by ones where it
looks into the match on the place of a word. -/
def eccCorrectBy (coreOf : Nat → Option Nat) (dieOf : Nat → Nat) (shelf loft : Nat → Nat → Nat) (place : State → Nat → Nat) (s : State) (w : Nat) : State :=
  let key := 8 * w
  let d := dieOf key
  let s := { s with marks := tabSet s.marks w .clean }
  match coreOf key with
  | some c =>
    let b := shelfBank ((key - shelf c 0) / 1024)
    let first := !(s.core c).eccBanks.contains b
    let s := s.modCore c fun x => { x with sramCe := stick 9 (x.sramCe + 1), eccBanks := addTo x.eccBanks b }
    if first then s.note d 0x02 0 ((s.core c).ctx.getD noCtx) (le 1 b ++ le 8 (place s key)) else s
  | none =>
    let b := loftBank ((key - loft d 0) / 1024)
    let first := !(s.die d).loftEccBanks.contains b
    let s := s.modDie d fun x => { x with loftCe := stick 16 (x.loftCe + 1), loftEccBanks := addTo x.loftEccBanks b }
    if first then s.note d 0x02 0 (oneCtx (s.dieCtxs d)) (le 1 b ++ le 8 (place s key)) else s

theorem State.eccCorrect_eq_by : State.eccCorrect = eccCorrectBy keyCore keyDie shelfKey loftKey State.localOf := by
  delta State.eccCorrect eccCorrectBy
  generalize keyCore = coreOf, keyDie = dieOf, loftKey = loft, shelfKey = shelf, State.localOf = place
  rfl

theorem undisturbed_eccCorrectBy (coreOf : Nat → Option Nat) (dieOf : Nat → Nat) (shelf loft : Nat → Nat → Nat) (place : State → Nat → Nat) (s : State) (w : Nat) :
    Undisturbed b q s (eccCorrectBy coreOf dieOf shelf loft place s w) := by
  have hclean : Undisturbed b q s ({ s with marks := tabSet s.marks w .clean } : State) := undisturbed_same rfl
  unfold eccCorrectBy
  dsimp only
  split
  · refine undisturbed_trans hclean (undisturbed_ite (undisturbed_trans ?_ (undisturbed_note _ _ _ _ _ _)) ?_)
    · exact undisturbed_modCore _ _ _
    · exact undisturbed_modCore _ _ _
  · refine undisturbed_trans hclean (undisturbed_ite (undisturbed_trans ?_ (undisturbed_note _ _ _ _ _ _)) ?_)
    · exact undisturbed_modDie _ _ fun _ => ⟨rfl, rfl, rfl⟩
    · exact undisturbed_modDie _ _ fun _ => ⟨rfl, rfl, rfl⟩

theorem undisturbed_eccCorrect (s : State) (w : Nat) : Undisturbed b q s (s.eccCorrect w) := by
  rw [State.eccCorrect_eq_by]
  exact undisturbed_eccCorrectBy _ _ _ _ _ s w

section
variable (hq : 0x80000 ≤ qkey q)
include hq

theorem undisturbed_eccRead (s : State) (k n : Nat) : Undisturbed b q s (s.eccRead k n) := by
  unfold State.eccRead
  refine each_undisturbed _ (fun t e => ?_) _ s
  split
  · exact undisturbed_eccCorrect t _
  · exact undisturbed_raise hq t _ _ _ _
  · exact undisturbed_refl t

theorem undisturbed_memUncorr (s : State) (x : Accessor) (d code a chan kind : Nat) : Undisturbed b q s (s.memUncorr x d code a chan kind) := by
  unfold State.memUncorr
  refine undisturbed_ite (undisturbed_refl s) ?_
  exact undisturbed_trans (undisturbed_raiseTo hq _ _ _ _ _ _ _) (undisturbed_eachCtx _ _ fun _ h => h)

theorem undisturbed_cellarUncorr (s : State) (x : Accessor) (a kind : Nat) : Undisturbed b q s (s.cellarUncorr x a kind) :=
  undisturbed_trans (undisturbed_memUncorr hq s x _ fMemUncorr a _ kind) (undisturbed_same rfl)

theorem undisturbed_cellarGet (s : State) (x : Accessor) (a n : Nat) : Undisturbed b q s (s.cellarGet x a n).1 := by
  unfold State.cellarGet
  split
  · exact undisturbed_cellarUncorr hq _ _ _ _
  · refine undisturbed_trans (undisturbed_countBytes s 0 a n) (each_undisturbed _ (fun t e => ?_) _ _)
    dsimp only
    split
    · exact undisturbed_refl t
    · exact undisturbed_cellarCorrect _ _
    · exact undisturbed_cellarUncorr hq _ _ _ _
    · exact undisturbed_cellarUncorr hq _ _ _ _

theorem undisturbed_cellarPut (s : State) (x : Accessor) (a : Nat) (l : List Byte) : Undisturbed b q s (s.cellarPut x a l) := by
  unfold State.cellarPut
  refine undisturbed_ite (undisturbed_refl s) (undisturbed_trans (undisturbed_claim s x a l.length) ?_)
  dsimp only
  split
  · exact undisturbed_cellarStore _ _ _
  · exact undisturbed_trans (undisturbed_cellarUncorr hq _ _ _ _) (each_undisturbed _ (fun t _ => undisturbed_cellarStore t _ _) _ _)

/-! ### Packets at a destination and on their way (R440 to R447) -/

omit hq in
theorem undisturbed_cross (s : State) (port out : Nat) (l : List Packet) : Undisturbed b q s (s.cross port out l) := undisturbed_ite (undisturbed_post _ _ _) (undisturbed_refl s)

omit hq in
theorem undisturbed_forward (s : State) (port : Nat) (p : Packet) : Undisturbed b q s (s.forward port p) := by
  unfold State.forward
  split
  · exact undisturbed_refl s
  · exact undisturbed_ite (undisturbed_cross _ _ _ _) (undisturbed_tellRouteFail _ _)

omit hq in
theorem undisturbed_backward (s : State) (port : Nat) (p : Packet) (group : Bool) : Undisturbed b q s (s.backward port p group) := by
  unfold State.backward
  split
  · exact undisturbed_refl s
  · exact undisturbed_cross _ _ _ _

omit hq in
theorem undisturbed_setRx (s : State) (k : Nat) (x : Option RxFlow) : Undisturbed b q s (s.setRx k x) := undisturbed_same rfl

omit hq in
theorem undisturbed_answerRx (s : State) (k : Nat) (nack : Bool) (data : List Byte) : Undisturbed b q s (s.answerRx k nack data) := by
  unfold State.answerRx
  split
  · exact undisturbed_refl s
  · exact undisturbed_trans (undisturbed_setRx _ _ _) (undisturbed_emit _ _ _)

omit hq in
theorem undisturbed_accept (s : State) (port k : Nat) (p : Packet) {f : State → RxFlow → State} (hf : ∀ t x, Undisturbed b q t (f t x)) : Undisturbed b q s (s.accept port k p f) := by
  unfold State.accept
  split
  · exact undisturbed_refl s
  · refine undisturbed_ite (undisturbed_setRx _ _ _) (undisturbed_ite ?_ (undisturbed_ite (undisturbed_ite (undisturbed_setRx _ _ _) ?_) ?_))
    · refine undisturbed_ite (undisturbed_trans ?_ (undisturbed_answerRx _ _ _ _)) ?_
      · exact undisturbed_trans (undisturbed_setRx _ _ _) (undisturbed_trans (undisturbed_setRx _ _ _) (undisturbed_trans (undisturbed_perfAdd _ _ _ _) (hf _ _)))
      · exact undisturbed_trans (undisturbed_setRx _ _ _) (undisturbed_trans (undisturbed_setRx _ _ _) (undisturbed_trans (undisturbed_perfAdd _ _ _ _) (hf _ _)))
    · exact undisturbed_trans (undisturbed_setRx _ _ _) (undisturbed_answerRx _ _ _ _)
    · exact undisturbed_trans (undisturbed_setRx _ _ _) (undisturbed_answerRx _ _ _ _)

omit hq in
theorem undisturbed_towards (s : State) (port : Nat) (p : Packet) (a n : Nat) {f : State} (hf : Undisturbed b q s f) : Undisturbed b q s (s.towards port p a n f) := by
  have hwaits (x : List (Nat × Packet)) : Undisturbed b q s { s with meshWait := x } := undisturbed_same rfl
  exact undisturbed_ite (undisturbed_refl s) (undisturbed_ite (hwaits _) hf)

theorem undisturbed_farReject (s : State) (port : Nat) (x : RxFlow) (code a : Nat) : Undisturbed b q s (s.farReject port x code a) :=
  undisturbed_trans (undisturbed_trans (undisturbed_note s (88 + port) 0x01 code noCtx _) (undisturbed_holdRec hq _ _)) (undisturbed_answerRx _ _ _ _)

theorem undisturbed_farStore (s : State) (port : Nat) (x : RxFlow) (a : Nat) (l : List Byte) : Undisturbed b q s (s.farStore port x a l) := by
  unfold State.farStore
  split
  · split
    · exact undisturbed_raise hq _ _ _ _ _
    · exact undisturbed_putWords _ _ _
  · exact undisturbed_ite (undisturbed_farReject hq _ _ _ _ _) (undisturbed_cellarPut hq _ _ _ _)
  · exact undisturbed_farReject hq _ _ _ _ _
  · exact undisturbed_farReject hq _ _ _ _ _

theorem undisturbed_write (port : Nat) (p : Packet) (s : State) : Undisturbed b q s (write port p s) :=
  undisturbed_ite (undisturbed_forward _ _ _) (undisturbed_towards _ _ _ _ _ (undisturbed_accept _ _ _ _ fun t x => undisturbed_farStore hq t port x _ _))

theorem undisturbed_groupLand (s : State) (port : Nat) (p : Packet) : Undisturbed b q s (s.groupLand port p) := by
  unfold State.groupLand
  dsimp only
  split
  · exact undisturbed_refl s
  · exact undisturbed_towards _ _ _ _ _ (undisturbed_accept _ _ _ _ fun t x => undisturbed_farStore hq t port x _ _)

theorem undisturbed_readReq (port : Nat) (p : Packet) (s : State) : Undisturbed b q s (readReq port p s) := by
  refine undisturbed_ite (undisturbed_forward _ _ _) (undisturbed_towards _ _ _ _ _ (undisturbed_accept _ _ _ _ fun t x => ?_))
  have hread (c : Nat) (n : Nat) := undisturbed_cellarGet (b := b) hq t (.context x.ctx) c n
  have hanswer (u : State) (l : List Byte) : Undisturbed b q u (u.answerRead port x p l) := undisturbed_emit _ _ _
  split
  · split
    · exact undisturbed_raise hq _ _ _ _ _
    · exact undisturbed_trans (undisturbed_eccRead hq _ _ _) (hanswer _ _)
  next c _ =>
    have h := hread c (min 936 p.len)
    split
    next u l hget =>
      rw [hget] at h
      exact undisturbed_trans h (hanswer _ _)
    next u hget =>
      rw [hget] at h
      exact h
  · exact undisturbed_farReject hq _ _ _ _ _

omit hq in
theorem undisturbed_modFlow (s : State) (f : Nat) (g : Flow → Flow) : Undisturbed b q s (s.modFlow f g) := by
  unfold State.modFlow
  split
  · exact undisturbed_same rfl
  · exact undisturbed_refl s

omit hq in
theorem undisturbed_answered (s : State) (c : Nat) : Undisturbed b q s (s.answered c) := undisturbed_ite (undisturbed_modCore _ _ _) (undisturbed_refl s)

theorem undisturbed_loadLands (s : State) (port c : Nat) (x : Load) (l : List Byte) : Undisturbed b q s (s.loadLands port c x l) := by
  unfold State.loadLands
  refine undisturbed_trans ?_ (undisturbed_answered _ _)
  refine undisturbed_ite (undisturbed_ite ?_ ?_) (undisturbed_ite ?_ ?_)
  · exact undisturbed_raise hq _ _ _ _ _
  · exact undisturbed_cellarPut hq _ _ _ _
  · exact undisturbed_putWords _ _ _
  · exact undisturbed_raise hq _ _ _ _ _

theorem undisturbed_readData (port : Nat) (p : Packet) (s : State) : Undisturbed b q s (readData port p s) := by
  refine undisturbed_ite (undisturbed_backward _ _ _ _) ?_
  split
  · exact undisturbed_refl s
  · split
    · exact undisturbed_refl s
    · exact undisturbed_towards _ _ _ _ _ (undisturbed_trans (undisturbed_modFlow _ _ _) (undisturbed_loadLands hq _ _ _ _ _))

theorem undisturbed_atomicOne (s : State) (c a : Nat) (l : List Byte) (i : Nat) : Undisturbed b q s (s.atomicOne c a l i) := by
  have hread := undisturbed_cellarGet (b := b) hq s (.context c) (a + 8 * i) 8
  unfold State.atomicOne
  split
  next t w hget =>
    rw [hget] at hread
    exact undisturbed_trans hread (undisturbed_cellarPut hq _ _ _ _)
  next t hget =>
    rw [hget] at hread
    exact hread

theorem undisturbed_atomics {s t : State} {c a : Nat} {l : List Byte} (h : s.atomics c a l = .ok t) : Undisturbed b q s t := by
  unfold State.atomics at h
  dsimp only at h
  split at h
  · split at h
    · cases h
    · split at h
      · cases h
      · split at h
        · cases h
        · cases h
          exact each_undisturbed _ (fun t i => undisturbed_atomicOne hq t c a l i) _ s
  · cases h

theorem undisturbed_atomic (port : Nat) (p : Packet) (s : State) : Undisturbed b q s (atomic port p s) := by
  refine undisturbed_ite (undisturbed_forward _ _ _) (undisturbed_towards _ _ _ _ _ (undisturbed_accept _ _ _ _ fun t x => ?_))
  refine undisturbed_ite (undisturbed_farReject hq _ _ _ _ _) ?_
  split
  next u hok => exact undisturbed_atomics hq hok
  · exact undisturbed_farReject hq _ _ _ _ _
  · exact undisturbed_farReject hq _ _ _ _ _
  · exact undisturbed_farReject hq _ _ _ _ _

theorem undisturbed_retake (s : State) (e : Nat × Packet) : Undisturbed b q s (s.retake e) := by
  unfold State.retake
  split
  · exact undisturbed_write hq _ _ _
  · exact undisturbed_readReq hq _ _ _
  · exact undisturbed_readData hq _ _ _
  · exact undisturbed_atomic hq _ _ _
  · exact undisturbed_groupLand hq _ _ _
  · exact undisturbed_refl s

theorem undisturbed_releaseMesh (s : State) : Undisturbed b q s s.releaseMesh :=
  undisturbed_trans (t := { s with meshWait := [] }) (undisturbed_same rfl) (each_undisturbed _ (undisturbed_retake hq) _ _)

end

end

end Sys2Proof.Machine

end

section
/-! SUPPORT. RECOVER and DIE_RETIRE (R36, R507, R508, R512, R514, R516, R517). -/

namespace Sys2Proof.Machine

/-! ## The command at the head of a kernel queue -/

theorem kernelHead_key {s : State} {q : QRef} {p : Pending} {l : List Pending} (h : kernelHead s q p l) : 0x80000 ≤ qkey q := by
  obtain ⟨hq, -⟩ := h
  obtain rfl | rfl := hq <;> decide

theorem kernelHead_isQueue {s : State} {q : QRef} {p : Pending} {l : List Pending} (h : kernelHead s q p l) : isQueue q = true := by
  obtain ⟨hq, -⟩ := h
  obtain rfl | rfl := hq <;> rfl

theorem kernelHead_stands {s : State} {q : QRef} {p : Pending} {l : List Pending} (h : kernelHead s q p l) : headStands q s p l := by
  obtain ⟨-, -, -, -, -, x, hx, hcmds, -⟩ := h
  exact ⟨x, p.outcome, hx, hcmds⟩

/-- A command of a kernel queue that is taken goes on at once. -/
theorem State.command_kernel {s : State} {q : QRef} {p : Pending} {l : List Pending} (h : kernelHead s q p l) (f : State → Pending → State) : s.command q f = f s p := by
  obtain ⟨hq, hholder, houtcome, htaken, hjournal, x, hx, hcmds, hport⟩ := h
  have hqueue := State.queue_of hx
  have hsettle : s.settleHead q = s := by
    unfold State.settleHead
    rw [hqueue, hcmds]
    dsimp only
    rw [hjournal]
  have hcmd : s.headCmd q = some p := by
    unfold State.headCmd
    rw [hqueue, hcmds]
    exact if_pos (by rw [houtcome]; rfl)
  have hactive : ¬ (ctxOf q = none && (s.holder.isNone || p.journal.isSome)) = true := by
    rw [hjournal, Option.isNone_eq_false_iff.mpr hholder]
    simp
  have hrole : ¬ (primaryOnly p.cmd && (s.queue q).port != s.primary) = true := by
    rw [hqueue]
    intro hsecond
    rw [Bool.and_eq_true] at hsecond
    rw [hport hsecond.1] at hsecond
    simp at hsecond
  have htake : s.takeCmd q p = s := by
    unfold State.takeCmd
    rw [htaken]
    rfl
  unfold State.command
  rw [hsettle]
  dsimp only
  rw [hcmd]
  dsimp only
  rw [if_neg hactive, htake, hcmd]
  exact if_neg hrole

/-- A command that stands at the head, and is taken, ends. -/
theorem endsWith_endCmd {s : State} {q : QRef} {p : Pending} {l : List Pending} (h : headStands q s p l) (htaken : p.taken = true) (status fault result : Nat) :
    endsWith (s.endCmd q status fault result) q p l status fault result := by
  obtain ⟨x, o, hx, hcmds⟩ := h
  exact (State.endCmd_ends hx hcmds htaken status fault result).1

theorem State.endCmd_queues (s : State) (q : QRef) (status fault result : Nat) : s.endCmd q status fault result = { s with queues := (s.endCmd q status fault result).queues } := by
  unfold State.endCmd State.finish State.modQueue
  split <;> rfl

theorem kernelHead_taken {s : State} {q : QRef} {p : Pending} {l : List Pending} (h : kernelHead s q p l) : p.taken = true := by
  obtain ⟨-, -, -, htaken, -⟩ := h
  exact htaken

/-- A command that ends at once has no other effect. -/
theorem kernelHead_endCmd {s : State} {q : QRef} {p : Pending} {l : List Pending} (h : kernelHead s q p l) (status fault result : Nat) :
    endsWith (s.endCmd q status fault result) q p l status fault result ∧ s.endCmd q status fault result = { s with queues := (s.endCmd q status fault result).queues } :=
  ⟨endsWith_endCmd (kernelHead_stands h) (kernelHead_taken h) status fault result, s.endCmd_queues q status fault result⟩

/-- The command stands as it did where the queues do. -/
theorem headStands_of_queues {s t : State} {q : QRef} (h : t.queues = s.queues) {p : Pending} {l : List Pending} (hs : headStands q s p l) : headStands q t p l := by
  obtain ⟨x, o, hx, hcmds⟩ := hs
  exact ⟨x, o, (State.queue?_of_queues h q).trans hx, hcmds⟩

section
variable {s : State} {q : QRef} {p : Pending} {l : List Pending} (h : kernelHead s q p l)
include h

/-- RECOVER does what its pair says, where none is under way (R516). -/
theorem runs_recover (hnone : s.recover = none) {target action id : Nat} (hcmd : p.cmd = .recover target action id) {P : State → Prop} (hP : P (s.recoverPair q target action id)) :
    Runs (.recover q) s P := by
  have hrun : recoverRow q s = s.recoverPair q target action id := by
    unfold recoverRow
    rw [State.command_kernel h, hcmd]
    dsimp only
    rw [hnone]
  refine runs_of_need rfl (kernelHead_isQueue h) ?_
  rw [hrun]
  exact hP

/-- A RECOVER that its pair refuses ends with error status and does nothing. -/
theorem runs_recover_refused (hnone : s.recover = none) {target action id : Nat} (hcmd : p.cmd = .recover target action id)
    (hrefused : s.recoverPair q target action id = s.endCmd q 1 0 0) : Runs (.recover q) s fun t => endsWith t q p l 1 0 0 ∧ t = { s with queues := t.queues } := by
  refine runs_recover h hnone hcmd ?_
  rw [hrefused]
  exact kernelHead_endCmd h 1 0 0

omit h in
/-- A pair that the manual does not list is refused (R516). -/
theorem State.recoverPair_unlisted {target action : Nat} (hpair : (target, action) ∉ [(0, 0), (0, 1), (0, 2), (0, 3), (1, 0), (1, 1), (1, 2), (2, 0), (2, 1), (3, 0)]) (id : Nat) :
    s.recoverPair q target action id = s.endCmd q 1 0 0 := by
  unfold State.recoverPair
  split
  case h_11 => rfl
  all_goals exact absurd (by simp) hpair

end

/-! ## Dies that are quarantined, released and tested (R512, R516) -/

section
variable {s : State} {q : QRef} (hq : 0x80000 ≤ qkey q)
include hq

/-- A die that is quarantined has failed, in bypass; every job bound to it is faulted. -/
theorem State.quarantine_holds (d code : Nat) :
    ((s.quarantine d code).die d).failed = some ((s.die d).failed.getD code) ∧ ((s.die d).failed = none → ((s.quarantine d code).die d).bypass = true) ∧
    ∀ p l, headStands q s p l → headStands q (s.quarantine d code) p l := by
  unfold State.quarantine
  cases hfailed : (s.die d).failed with
  | some f =>
    rw [if_pos Option.isSome_some]
    exact ⟨hfailed, nofun, fun _ _ hs => hs⟩
  | none =>
    rw [if_neg (by rw [Option.isSome_none]; exact Bool.false_ne_true)]
    obtain ⟨u, hu⟩ : ∃ u, u = ((s.noteState s.serviceDie 4 d 0 1).journalRec 4 d).modDie d fun x =>
        { x with failed := some code, bypass := true, railOff := x.railOff || code == fRailFault } := ⟨_, rfl⟩
    have hqueues : u.queues = s.queues := by rw [hu]; rfl
    have hdie : (u.die d).failed = some code ∧ (u.die d).bypass = true := by
      rw [hu, State.die_modDie]
      exact ⟨rfl, rfl⟩
    dsimp only
    rw [← hu]
    have hfault : Undisturbed True q u (each (u.dieCtxs d) u fun s c => s.faultCtx c code s.kcount) := each_undisturbed _ (fun t c => undisturbed_faultCtx hq t c code _) _ u
    obtain ⟨hf, hb, -⟩ := hfault.dies d
    exact ⟨hf.trans hdie.1, fun _ => hb.trans hdie.2, fun p l hs => hfault.head p l (headStands_of_queues hqueues hs)⟩

end

/-- A die that is released is in service: a spare stays in bypass. -/
theorem State.releaseDie_holds (s : State) (d : Nat) :
    ((s.releaseDie d).die d).failed = none ∧ ((s.releaseDie d).die d).bypass = s.inv.spares.contains d ∧ ((s.releaseDie d).die d).railOff = false ∧
    (s.releaseDie d).queues = s.queues ∧ (s.releaseDie d).inv = s.inv := by
  unfold State.releaseDie
  rw [State.die_modDie]
  exact ⟨rfl, rfl, rfl, rfl, rfl⟩

theorem State.testedDie_holds (s : State) (d : Nat) :
    ((s.testedDie d).die d).failed = none ∧ ((s.testedDie d).die d).bypass = s.inv.spares.contains d ∧ ((s.testedDie d).die d).railOff = false ∧ (s.testedDie d).queues = s.queues := by
  obtain ⟨hfailed, hbypass, hrail, hqueues, hinv⟩ := s.releaseDie_holds d
  have hmesh (x : Die) : ∀ y, y = (if (s.releaseDie d).inv.spares.contains d then x else startOp (wantedOp x) x) → y.failed = x.failed ∧ y.bypass = x.bypass ∧ y.railOff = x.railOff := by
    rintro y rfl
    split
    · exact ⟨rfl, rfl, rfl⟩
    · exact startOp_mesh _ _
  unfold State.testedDie
  rw [State.die_modDie]
  obtain ⟨hf, hb, hr⟩ := hmesh _ _ rfl
  exact ⟨hf.trans hfailed, hb.trans hbypass, hr.trans hrail, hqueues⟩

/-- The reset before the test leaves what the test is recorded by: the die's state in the mesh, its records, its count. -/
theorem State.resetCompute_keeps (s : State) (d : Nat) :
    (s.resetCompute d).fresh = s.fresh ∧ (s.resetCompute d).inv = s.inv ∧ (s.resetCompute d).queues = s.queues ∧ ((s.resetCompute d).die d).failed = (s.die d).failed ∧
    ((s.resetCompute d).die d).ledger = (s.die d).ledger ∧ (s.resetCompute d).count d = s.count d := by
  obtain ⟨u, hu⟩ : ∃ u, u = ((s.emptyParks d).clear (shelfKey (4 * d) 0) (4 * 0x2000000)).clear (loftKey d 0) loftBytes := ⟨_, rfl⟩
  obtain ⟨v, hv⟩ : ∃ v, v = each (List.range 4) u fun s k => s.modCore (4 * d + k) fun x => { masked := x.masked } := ⟨_, rfl⟩
  have hcleared : u = { s with sets := u.sets, mem := u.mem, marks := u.marks } := by rw [hu]; rfl
  have hcores : v = { u with cores := v.cores } := by
    rw [hv]
    exact each_keeps (fun t : State => t = { u with cores := t.cores }) _ (fun t k ht => congrArg (fun x : State => { x with cores := (t.modCore (4 * d + k) fun x => { masked := x.masked }).cores }) ht) _ u rfl
  have hkept : v.fresh = s.fresh ∧ v.inv = s.inv ∧ v.queues = s.queues ∧ v.dies = s.dies ∧ v.now = s.now := by
    rw [hcores, hcleared]
    exact ⟨rfl, rfl, rfl, rfl, rfl⟩
  obtain ⟨hfresh, hinv, hqueues, hdies, hnow⟩ := hkept
  unfold State.resetCompute
  dsimp only
  rw [← hu, ← hv]
  refine ⟨hfresh, hinv, hqueues, ?_, ?_, ?_⟩
  · rw [State.die_modDie, State.die_of_dies hdies]
  · rw [State.die_modDie, State.die_of_dies hdies]
  · unfold State.count
    rw [State.die_modDie, State.die_of_dies hdies]
    exact congrArg (fun n : Nat => (((n : Int) + (s.die d).tb.disp) % (2 ^ 64 : Nat)).toNat) hnow

/-! ## A forced quench (R499) -/

/-- From `s` to `t` no context has gone. -/
def ctxsStay (s t : State) : Prop := ∀ c, (s.ctx? c).isSome = true → (t.ctx? c).isSome = true

theorem ctxsStay_refl (s : State) : ctxsStay s s := fun _ h => h

theorem ctxsStay_trans {s t u : State} (hst : ctxsStay s t) (htu : ctxsStay t u) : ctxsStay s u := fun c h => htu c (hst c h)

theorem ctxsStay_of_contexts {s t : State} (h : t.contexts = s.contexts) : ctxsStay s t := fun c hc => by rw [State.ctx?_of_contexts h]; exact hc

theorem ctxsStay_modCtx (s : State) (c : Nat) (f : Context → Context) : ctxsStay s (s.modCtx c f) := by
  intro e he
  by_cases hec : e = c
  · subst hec
    rw [State.ctx?_modCtx, Option.isSome_map]
    exact he
  · rw [State.ctx?_modCtx_ne _ _ hec]
    exact he

theorem each_ctxsStay {α : Type} (f : State → α → State) (hf : ∀ s a, ctxsStay s (f s a)) (l : List α) (s : State) : ctxsStay s (each l s f) :=
  each_keeps (ctxsStay s) f (fun t a h => ctxsStay_trans h (hf t a)) l s (ctxsStay_refl s)

theorem ctxsStay_stopQueues (s : State) (c code : Nat) : ctxsStay s (s.stopQueues c code) := by
  unfold State.stopQueues
  refine each_ctxsStay _ (fun t r => ?_) _ s
  cases hr : t.queue? r with
  | none =>
    unfold State.putQueue
    rw [hr]
    exact ctxsStay_refl t
  | some x => exact ctxsStay_of_contexts (by rw [State.putQueue_frame hr]; rfl)

theorem ctxsStay_stopCtx (s : State) (c code : Nat) : ctxsStay s (s.stopCtx c code) := by
  unfold State.stopCtx
  refine ctxsStay_trans ?_ (ctxsStay_stopQueues _ _ _)
  exact ctxsStay_trans (ctxsStay_modCtx s c _) (ctxsStay_of_contexts rfl)

theorem ctxsStay_raiseTo (s : State) (d code : Nat) (ctxs : List Nat) (job driver : Bool) (detail : List Byte) : ctxsStay s (s.raiseTo d code ctxs job driver detail) := by
  have hnote : ctxsStay s (s.note d 0x01 code (oneCtx ctxs) detail) := ctxsStay_of_contexts rfl
  unfold State.raiseTo State.holdRec
  dsimp only
  refine ctxsStay_trans hnote ?_
  split
  · exact ctxsStay_of_contexts rfl
  · split
    · refine ctxsStay_trans ?_ (each_ctxsStay _ (fun t c => ctxsStay_stopCtx t c _) _ _)
      exact ctxsStay_of_contexts rfl
    · exact ctxsStay_of_contexts rfl

theorem ctxsStay_tellJob (s : State) (c code n : Nat) : ctxsStay s (s.tellJob c code n) := by
  unfold State.tellJob
  split
  · split
    · rw [State.send_frame]
      exact ctxsStay_of_contexts rfl
    · exact ctxsStay_refl s
  · exact ctxsStay_refl s

theorem ctxsStay_faultJob (s : State) (j code : Nat) : ctxsStay s (s.faultJob j code) := by
  obtain ⟨u, hu⟩ : ∃ u, u = if code = fRailQuench then (s.faultSets j).dropAnswers j else s.faultSets j := ⟨_, rfl⟩
  have hset : ctxsStay s u := by
    rw [hu]
    split
    · refine ctxsStay_of_contexts ?_
      have hdies : diesOnly (s.faultSets j) ((s.faultSets j).dropAnswers j) := each_diesOnly _ (fun t d => diesOnly_modDie t d _) _ _
      rw [hdies]
      rfl
    · exact ctxsStay_of_contexts rfl
  unfold State.faultJob
  dsimp only
  rw [← hu]
  exact ctxsStay_trans hset (each_ctxsStay _ (fun t c => ctxsStay_trans (ctxsStay_modCtx t c _) (ctxsStay_stopQueues _ _ _)) _ u)

/-- A quench ends a context's launch, and leaves the context. -/
theorem State.quench_ends (s : State) (c : Nat) : (s.quench c).launchOf c = none ∧ ctxsStay s (s.quench c) := by
  unfold State.quench
  cases hx : s.launchOf c with
  | none =>
    refine ⟨?_, ctxsStay_modCtx s c _⟩
    unfold State.launchOf at hx ⊢
    rw [State.ctx?_modCtx]
    cases hc : s.ctx? c with
    | none => rfl
    | some y =>
      rw [hc] at hx
      exact hx
  | some x =>
    dsimp only
    split
    · refine ⟨?_, ctxsStay_modCtx s c _⟩
      rw [State.launchOf, State.ctx?_modCtx]
      cases s.ctx? c <;> rfl
    · obtain ⟨⟨hlaunch, -⟩, -⟩ := (s.noteTallies c).unbind_unbound c
      obtain ⟨w, ⟨-, hcontexts, -⟩, hlast⟩ := (s.noteTallies c).unbind_last c
      refine ⟨hlaunch, ?_⟩
      rw [hlast]
      refine ctxsStay_trans (ctxsStay_of_contexts (hcontexts.trans ?_)) (ctxsStay_modCtx w c _)
      rw [each_leaves_frame, diesOnly_noteTallies s c]
      rfl

theorem State.forceQuench_ends {s : State} {c : Nat} (hbound : (s.ctx? c).isSome = true) (code : Nat) :
    (s.forceQuench c code).launchOf c = none ∧ ((s.forceQuench c code).ctx? c).isSome = true := by
  obtain ⟨t, ht⟩ : ∃ t, t = (s.raiseTo s.serviceDie code [c] false false []).tellJob c code s.kcount := ⟨_, rfl⟩
  have htold : ctxsStay s t := by
    rw [ht]
    exact ctxsStay_trans (ctxsStay_raiseTo _ _ _ _ _ _ _) (ctxsStay_tellJob _ _ _ _)
  obtain ⟨hlaunch, hstay⟩ := (t.faultJob (t.ctx c).job code).quench_ends c
  unfold State.forceQuench
  rw [if_neg (by rw [Option.isNone_eq_false_iff.mpr hbound]; exact Bool.false_ne_true)]
  dsimp only
  rw [← ht]
  exact ⟨hlaunch, ctxsStay_trans htold (ctxsStay_trans (ctxsStay_faultJob _ _ _) hstay) c hbound⟩

/-! ## RECOVER of dies, ports and contexts -/

section
variable {s : State} {q : QRef} {p : Pending} {l : List Pending} (h : kernelHead s q p l) (hnone : s.recover = none)
include h hnone

theorem recover_quarantine {d : Nat} (hcmd : p.cmd = .recover 1 0 d) (hd : isCompute d = true) : Runs (.recover q) s fun t =>
    (t.die d).failed = some ((s.die d).failed.getD fDieFail) ∧ ((s.die d).failed = none → (t.die d).bypass = true) ∧ endsWith t q p l 0 0 0 := by
  obtain ⟨hfailed, hbypass, hhead⟩ := State.quarantine_holds (s := s) (kernelHead_key h) d fDieFail
  refine runs_recover h hnone hcmd ?_
  have hpair : s.recoverPair q 1 0 d = (s.quarantine d fDieFail).endCmd q 0 0 0 := if_pos hd
  rw [hpair]
  refine ⟨?_, fun hn => ?_, endsWith_endCmd (hhead p l (kernelHead_stands h)) (kernelHead_taken h) 0 0 0⟩
  · rw [State.endCmd_queues]
    exact hfailed
  · rw [State.endCmd_queues]
    exact hbypass hn

theorem recover_release {d f : Nat} (hcmd : p.cmd = .recover 1 1 d) (hheld : s.heldOut d = true) (hfailed : (s.die d).failed = some f) (hmay : neverReleased f = false) :
    Runs (.recover q) s fun t => (t.die d).failed = none ∧ (t.die d).bypass = s.inv.spares.contains d ∧ (t.die d).railOff = false ∧ endsWith t q p l 0 0 0 := by
  obtain ⟨hnofault, hbypass, hrail, hqueues, -⟩ := s.releaseDie_holds d
  refine runs_recover h hnone hcmd ?_
  have hpair : s.recoverPair q 1 1 d = (s.releaseDie d).endCmd q 0 0 0 := if_pos (by rw [hheld, hfailed, Option.map_some, Option.getD_some, hmay]; rfl)
  rw [hpair]
  have hends := endsWith_endCmd (headStands_of_queues hqueues (kernelHead_stands h)) (kernelHead_taken h) 0 0 0
  refine ⟨?_, ?_, ?_, hends⟩ <;> rw [State.endCmd_queues]
  · exact hnofault
  · exact hbypass
  · exact hrail

theorem recover_unreleased {d f : Nat} (hcmd : p.cmd = .recover 1 1 d) (hfailed : (s.die d).failed = some f) (hnever : neverReleased f = true) :
    Runs (.recover q) s fun t => (t.die d).failed = some f ∧ endsWith t q p l 1 0 0 ∧ t = { s with queues := t.queues } := by
  refine runs_recover h hnone hcmd ?_
  have hpair : s.recoverPair q 1 1 d = s.endCmd q 1 0 0 := if_neg (by rw [hfailed, Option.map_some, Option.getD_some, hnever]; simp)
  rw [hpair]
  refine ⟨?_, kernelHead_endCmd h 1 0 0⟩
  rw [State.endCmd_queues]
  exact hfailed

theorem recover_test {d : Nat} (hcmd : p.cmd = .recover 1 2 d) (hheld : s.heldOut d = true) : Runs (.recover q) s fun t =>
    (Config.testPasses s.fresh = true → (t.die d).failed = none ∧ (t.die d).bypass = s.inv.spares.contains d ∧ (t.die d).railOff = false) ∧
    (Config.testPasses s.fresh = false → (t.die d).failed = (s.die d).failed ∧ (s.hasRoom d → raised s t d fSelftest)) ∧ endsWith t q p l 0 0 0 := by
  obtain ⟨hfresh, hinv, hqueues, hfailed, hledger, hcount⟩ := s.resetCompute_keeps d
  obtain ⟨u, hu⟩ : ∃ u, u = (s.resetCompute d).takeFresh.2 := ⟨_, rfl⟩
  obtain ⟨uinv, uqueues, ufailed, uledger, ucount⟩ : u.inv = s.inv ∧ u.queues = s.queues ∧ (u.die d).failed = (s.die d).failed ∧ (u.die d).ledger = (s.die d).ledger ∧ u.count d = s.count d := by
    rw [hu]
    exact ⟨hinv, hqueues, hfailed, hledger, hcount⟩
  have hpair : s.recoverPair q 1 2 d = (if Config.testPasses s.fresh then u.testedDie d else u.raise d fSelftest [] []).endCmd q 0 0 0 := by
    change s.recoverTest q d = _
    unfold State.recoverTest
    rw [if_neg (by rw [hheld]; exact Bool.false_ne_true), ← hfresh, hu]
    rfl
  refine runs_recover h hnone hcmd ?_
  rw [hpair]
  by_cases hpass : Config.testPasses s.fresh = true
  · rw [if_pos hpass]
    obtain ⟨hnofault, hbypass, hrail, htqueues⟩ := u.testedDie_holds d
    refine ⟨fun _ => ?_, fun hfails => absurd hpass (by rw [hfails]; exact Bool.false_ne_true), endsWith_endCmd (headStands_of_queues (htqueues.trans uqueues) (kernelHead_stands h)) (kernelHead_taken h) 0 0 0⟩
    rw [State.endCmd_queues, ← uinv]
    exact ⟨hnofault, hbypass, hrail⟩
  · rw [if_neg hpass]
    have hraise := undisturbed_raise (b := True) (kernelHead_key h) u d fSelftest [] []
    refine ⟨fun hp => absurd hp hpass, fun _ => ⟨?_, fun hroom => ?_⟩, endsWith_endCmd (hraise.head p l (headStands_of_queues uqueues (kernelHead_stands h))) (kernelHead_taken h) 0 0 0⟩
    · obtain ⟨hsame, -⟩ := hraise.dies d
      rw [State.endCmd_queues]
      exact hsame.trans ufailed
    · obtain ⟨r, hheldrec, hcode, hdie, hat⟩ := State.raised_raise u d fSelftest [] [] (by unfold State.hasRoom; rw [uledger]; exact hroom)
      rw [State.endCmd_queues]
      exact ⟨r, hheldrec.trans (by rw [uledger]), hcode, hdie, hat.trans ucount⟩

theorem recover_notHeld {d a : Nat} (hcmd : p.cmd = .recover 1 a d) (ha : 0 < a) (hheld : s.heldOut d = false) :
    Runs (.recover q) s fun t => endsWith t q p l 1 0 0 ∧ t = { s with queues := t.queues } := by
  refine runs_recover_refused h hnone hcmd ?_
  match a, ha with
  | 1, _ => exact if_neg (by rw [hheld]; exact Bool.false_ne_true)
  | 2, _ => exact if_pos (by rw [hheld]; rfl)
  | _ + 3, _ => rfl

theorem recover_port {n a : Nat} (hcmd : p.cmd = .recover 2 a n) (ha : a < 2) (hn : isPort n = true) :
    Runs (.recover q) s fun t => (t.port n).hold = decide (a = 0) ∧ endsWith t q p l 0 0 0 := by
  have hpair : s.recoverPair q 2 a n = (lkHold n (decide (a = 0)) s).endCmd q 0 0 0 := by
    match a, ha with
    | 0, _ => exact if_pos hn
    | 1, _ => exact if_pos hn
  obtain ⟨hrest, hhold⟩ := lkHold_holds (kernelHead_key h) n (decide (a = 0)) s
  refine runs_recover h hnone hcmd ?_
  rw [hpair]
  refine ⟨?_, endsWith_endCmd (hrest.head p l (kernelHead_stands h)) (kernelHead_taken h) 0 0 0⟩
  rw [State.endCmd_queues]
  exact hhold

theorem recover_forceQuench {c : Nat} (hcmd : p.cmd = .recover 3 0 c) (hbound : (s.ctx? c).isSome = true) :
    Runs (.recover q) s fun t => t.launchOf c = none ∧ (t.ctx? c).isSome = true ∧ endsWith t q p l 0 0 0 := by
  have hpair : s.recoverPair q 3 0 c = (s.forceQuench c fContextKilled).endCmd q 0 0 0 := if_pos hbound
  obtain ⟨hlaunch, hstays⟩ := State.forceQuench_ends hbound fContextKilled
  have hrest := undisturbed_forceQuench (b := True) (kernelHead_key h) s c fContextKilled
  refine runs_recover h hnone hcmd ?_
  rw [hpair]
  refine ⟨?_, ?_, endsWith_endCmd (hrest.head p l (kernelHead_stands h)) (kernelHead_taken h) 0 0 0⟩ <;> rw [State.endCmd_queues]
  · exact hlaunch
  · exact hstays

end

theorem recoverActs : RecoverActs := fun _ _ _ _ h hnone =>
  ⟨fun _ hcmd hd => recover_quarantine h hnone hcmd hd, fun _ _ hcmd hheld hfailed hmay => recover_release h hnone hcmd hheld hfailed hmay,
    fun _ _ hcmd hfailed hnever => recover_unreleased h hnone hcmd hfailed hnever, fun _ hcmd hheld => recover_test h hnone hcmd hheld,
    fun _ _ hcmd ha hheld => recover_notHeld h hnone hcmd ha hheld, fun _ _ hcmd ha hn => recover_port h hnone hcmd ha hn,
    fun _ hcmd hbound => recover_forceQuench h hnone hcmd hbound, fun _ _ id hcmd hpair => runs_recover_refused h hnone hcmd (State.recoverPair_unlisted hpair id)⟩

end Sys2Proof.Machine

end

section
/-! SUPPORT. DIE_RETIRE (R36, R514). -/

namespace Sys2Proof.Machine

/-! ## The scrub of a die that answers (R188, R191) -/

section
variable {b : Prop} {q : QRef}

theorem undisturbed_scrubOp (d k : Nat) (s : State) : Undisturbed b q s (scrubOp d k none s) := by
  have hclear : Undisturbed b q s (s.clear (shelfKey (4 * d + k) 0) shelfBytes) := undisturbed_same rfl
  have hloft : Undisturbed b q s (s.zeroLoft d) := undisturbed_same rfl
  unfold scrubOp
  refine undisturbed_ite (undisturbed_ite (undisturbed_refl s) ?_) (undisturbed_ite (undisturbed_refl s) ?_)
  · exact undisturbed_trans hclear (undisturbed_modCore _ _ _)
  · refine undisturbed_trans hloft ?_
    exact undisturbed_modDie _ _ fun _ => ⟨rfl, rfl, rfl⟩

theorem undisturbed_readmit (s : State) (d : Nat) : Undisturbed b q s (s.readmit d) := by
  unfold State.readmit
  refine undisturbed_ite ?_ (undisturbed_refl s)
  exact undisturbed_modDie _ _ fun _ => ⟨rfl, rfl, rfl⟩

theorem undisturbed_scrubEnd (d k : Nat) (s : State) : Undisturbed b q s (scrubEnd d k s) := by
  unfold scrubEnd
  refine undisturbed_ite (undisturbed_ite ?_ (undisturbed_refl s)) (undisturbed_ite ?_ (undisturbed_refl s))
  · exact undisturbed_trans (undisturbed_trans (undisturbed_modCore _ _ _) (undisturbed_readmit _ _)) (undisturbed_endDestroys _)
  · refine undisturbed_trans (undisturbed_trans ?_ (undisturbed_readmit _ _)) (undisturbed_endDestroys _)
    exact undisturbed_modDie _ _ fun _ => ⟨rfl, rfl, rfl⟩

end

/-! ## A die is out, and spares are tried in turn (R36, R514) -/

/-- From `s` to `t` a die has been taken out, and spares have been consumed. -/
structure TakenOut (q : QRef) (d : Nat) (lost : List Nat) (s t : State) : Prop where
  logical : t.inv.logical = s.inv.logical
  rail : (t.die d).railOff = true
  fault : (t.die d).failed.isSome = true
  consumed : ∀ e ∈ lost, e ∉ t.inv.spares ∧ e ∈ t.inv.retired
  head : ∀ p l, headStands q s p l → headStands q t p l

theorem mem_addTo_of_mem {l : List Nat} {y : Nat} (h : y ∈ l) (x : Nat) : y ∈ addTo l x := by
  unfold addTo
  split
  · exact h
  · exact List.mem_append_left _ h

/-- A die that answers is scrubbed, and then its rails go off. -/
theorem State.takeOut_takenOut {s : State} {d : Nat} (hidle : s.launchesOn d = []) (q : QRef) (answers : Bool) : TakenOut q d [] s (s.takeOut d answers) := by
  obtain ⟨u, hu⟩ : ∃ u, u = if answers then each (List.range 5) s fun s k => scrubEnd d k (scrubOp d k none s) else s := ⟨_, rfl⟩
  have hscrub : Undisturbed True q s u := by
    rw [hu]
    exact undisturbed_ite (each_undisturbed _ (fun t k => undisturbed_trans (undisturbed_scrubOp d k t) (undisturbed_scrubEnd d k _)) _ s) (undisturbed_refl s)
  unfold State.takeOut
  rw [hidle]
  dsimp only [each_nil]
  rw [← hu]
  refine ⟨hscrub.inv ▸ rfl, ?_, ?_, fun e he => absurd he List.not_mem_nil, fun p l hs => headStands_of_queues rfl (hscrub.head p l hs)⟩
  · rw [State.die_modDie]
  · rw [State.die_modDie]
    dsimp only
    split <;> rfl

theorem State.rewriteInventory_inv (s : State) (f : Inventory → Inventory) : (s.rewriteInventory f).inv = { f s.inv with seq := s.inv.seq + 1, written := s.kcount } := rfl

/-- A spare that fails its test is consumed. -/
theorem TakenOut.loseSpare {q : QRef} {d : Nat} {lost : List Nat} {s t : State} (h : TakenOut q d lost s t) (e : Nat) : TakenOut q d (lost ++ [e]) s (t.loseSpare e) := by
  obtain ⟨u, hu⟩ : ∃ u, u = (t.noteState t.serviceDie 5 e 1 0).journalRec 5 e := ⟨_, rfl⟩
  obtain ⟨hinv, hqueues⟩ : u.inv = t.inv ∧ u.queues = t.queues := by rw [hu]; exact ⟨rfl, rfl⟩
  have hnoted : Undisturbed True q t u := by
    rw [hu]
    exact undisturbed_trans (undisturbed_note _ _ _ _ _ _) (undisturbed_same rfl)
  have hrun : t.loseSpare e = (u.rewriteInventory fun x => { x with spares := x.spares.filter (· != e), retired := addTo x.retired e }).modDie e fun x => { x with railOff := true, curOp := 0 } := by
    rw [hu]; rfl
  obtain ⟨hfailed, -, hrail⟩ := hnoted.dies d
  rw [hrun]
  refine ⟨?_, ?_, ?_, fun x hx => ?_, fun p l hs => headStands_of_queues hqueues (h.head p l hs)⟩
  · change u.inv.logical = _
    rw [hinv]
    exact h.logical
  · by_cases hde : d = e
    · subst hde; rw [State.die_modDie]
    · rw [State.die_modDie_ne _ _ hde]
      exact hrail.trans h.rail
  · have hkept : (u.die d).failed.isSome = true := by rw [hfailed]; exact h.fault
    by_cases hde : d = e
    · subst hde; rw [State.die_modDie]; exact hkept
    · rw [State.die_modDie_ne _ _ hde]
      exact hkept
  · change x ∉ u.inv.spares.filter (· != e) ∧ x ∈ addTo u.inv.retired e
    rw [hinv]
    obtain hx | hx := List.mem_append.mp hx
    · obtain ⟨hnot, hretired⟩ := h.consumed x hx
      exact ⟨fun hin => hnot (List.mem_of_mem_filter hin), mem_addTo_of_mem hretired e⟩
    · rw [List.mem_singleton.mp hx]
      exact ⟨by simp, mem_addTo_self _ e⟩

/-- The spares that fail are consumed one after another. -/
theorem TakenOut.skips {q : QRef} {d k : Nat} {bad : List Nat} {s : State} (r : List Nat) {m : List Nat} (hbad : ∀ e ∈ m, e ∈ bad) :
    ∀ {lost : List Nat} {t : State}, TakenOut q d lost s t → ∃ u, TakenOut q d (lost ++ m) s u ∧ t.trySpares q d k bad (m ++ r) = u.trySpares q d k bad r := by
  induction m with
  | nil => exact fun {lost t} h => ⟨t, by rw [List.append_nil]; exact h, rfl⟩
  | cons e m ih =>
    intro lost t h
    obtain ⟨u, hu, hrun⟩ := ih (fun x hx => hbad x (List.mem_cons_of_mem _ hx)) (h.loseSpare e)
    refine ⟨u, by rw [List.append_assoc] at hu; exact hu, ?_⟩
    rw [← hrun, List.cons_append, State.trySpares, if_pos (List.contains_iff_mem.mpr (hbad e List.mem_cons_self))]

/-- A spare that passes comes in with its first good cores. -/
theorem TakenOut.bringIn {q : QRef} {d : Nat} {lost : List Nat} {s t : State} (h : TakenOut q d lost s t) {n : Nat} (hn : n ≠ d) (k : Nat) :
    (t.bringIn d n k).inv.logical = (s.inv.logical.map fun e => if e = d then n else e) ∧ ((t.bringIn d n k).die d).railOff = true ∧ ((t.bringIn d n k).die d).failed.isSome = true ∧
    ((t.bringIn d n k).die n).railOff = false ∧ ((t.bringIn d n k).die n).failed = none ∧ n ∉ (t.bringIn d n k).inv.spares ∧ d ∈ (t.bringIn d n k).inv.retired ∧
    (∀ e ∈ lost, e ∉ (t.bringIn d n k).inv.spares) ∧ ∀ p l, headStands q s p l → headStands q (t.bringIn d n k) p l := by
  obtain ⟨u, hu⟩ : ∃ u, u = each ((((List.range 4).map (4 * n + ·)).filter fun c => bit (tabGet 0 (t.emptyParks d).inv.coreMap n) (c % 4)).drop k) (t.emptyParks d) fun s c =>
      s.modCore c fun x => { x with masked := true } := ⟨_, rfl⟩
  have hmasked : Undisturbed True q t u := by
    rw [hu]
    exact undisturbed_trans (t := t.emptyParks d) (undisturbed_same rfl) (each_undisturbed _ (fun t c => undisturbed_modCore t c _) _ _)
  obtain ⟨v, hv⟩ : ∃ v, v = u.modDie n fun x => { x with curOp := 1, targetOp := 1, transition := false, bypass := false, railOff := false, failed := none, slots := [] } := ⟨_, rfl⟩
  obtain ⟨w, hw⟩ : ∃ w, w = (v.noteState v.serviceDie 5 n 1 0).journalRec 5 n := ⟨_, rfl⟩
  have hnoted : Undisturbed True q v w := by
    rw [hw]
    exact undisturbed_trans (undisturbed_note _ _ _ _ _ _) (undisturbed_same rfl)
  have hrun : t.bringIn d n k = w.rewriteInventory fun x =>
      { x with spares := x.spares.filter (· != n), retired := addTo x.retired d, logical := x.logical.map fun e => if e = d then n else e } := by
    rw [hw, hv, hu]; rfl
  have hold : v.die d = u.die d := by rw [hv]; exact State.die_modDie_ne _ _ hn.symm
  obtain ⟨hnewRail, hnewFailed⟩ : (v.die n).railOff = false ∧ (v.die n).failed = none := by
    rw [hv, State.die_modDie]
    exact ⟨rfl, rfl⟩
  obtain ⟨hfailed, -, hrail⟩ := hmasked.dies d
  obtain ⟨wfailed, -, wrail⟩ := hnoted.dies d
  obtain ⟨nfailed, -, nrail⟩ := hnoted.dies n
  have hinv : w.inv = t.inv := hnoted.inv.trans ((by rw [hv]; rfl : v.inv = u.inv).trans hmasked.inv)
  have hqueues : v.queues = u.queues := by rw [hv]; rfl
  rw [hrun, State.rewriteInventory_inv, hinv]
  refine ⟨?_, ?_, ?_, nrail.trans hnewRail, nfailed.trans hnewFailed, by simp, mem_addTo_self _ d, fun e he hin => (h.consumed e he).1 (List.mem_of_mem_filter hin), fun p l hs => ?_⟩
  · exact congrArg (List.map _) h.logical
  · change (w.die d).railOff = true
    rw [wrail, hold, hrail]
    exact h.rail
  · change (w.die d).failed.isSome = true
    rw [wfailed, hold, hfailed]
    exact h.fault
  · exact headStands_of_queues rfl (hnoted.head p l (headStands_of_queues hqueues (hmasked.head p l (h.head p l hs))))

/-- There is a spare to try, so there are spares that will do. -/
theorem sparesFor_ne {spare : Nat} {c : List Nat} (hspare : spare = 0xFF ∨ spare ∈ c) (hsome : (if spare = 0xFF then c else [spare]) ≠ []) : c ≠ [] := by
  obtain rfl | hmem := hspare
  · exact hsome
  · exact List.ne_nil_of_mem hmem

section
variable {s : State} {q : QRef} {p : Pending} {l : List Pending} {d spare : Nat} {bad : List Nat} {a : Bool} (h : kernelHead s q p l) (hcmd : p.cmd = .dieRetire d spare)
include h hcmd

/-- DIE_RETIRE tries the spares that will do, in turn, where there are any. -/
theorem runs_dieRetire (hd : d ∈ s.inv.logical) (hsome : s.sparesFor (s.dieCores d).length ≠ []) (hspare : spare = 0xFF ∨ spare ∈ s.sparesFor (s.dieCores d).length) {P : State → Prop}
    (hP : P ((s.takeOut d a).trySpares q d (s.dieCores d).length bad (if spare = 0xFF then s.sparesFor (s.dieCores d).length else [spare]))) : Runs (.dieRetire q bad a) s P := by
  refine runs_of_need rfl (kernelHead_isQueue h) ?_
  unfold dieRetire
  rw [State.command_kernel h, hcmd]
  dsimp only
  rw [if_neg]
  · exact hP
  · rw [List.contains_iff_mem.mpr hd, List.isEmpty_eq_false_iff.mpr hsome]
    obtain hany | hmem := hspare
    · rw [hany]; simp
    · rw [List.contains_iff_mem.mpr hmem]; simp

theorem dieRetire_refused (hno : d ∉ s.inv.logical ∨ s.sparesFor (s.dieCores d).length = [] ∨ (spare ≠ 0xFF ∧ spare ∉ s.sparesFor (s.dieCores d).length)) :
    Runs (.dieRetire q bad a) s fun t => endsWith t q p l 1 0 0 ∧ t = { s with queues := t.queues } := by
  refine runs_of_need rfl (kernelHead_isQueue h) ?_
  unfold dieRetire
  rw [State.command_kernel h, hcmd]
  dsimp only
  rw [if_pos]
  · exact kernelHead_endCmd h 1 0 0
  · obtain hd | hnone | ⟨hone, hnot⟩ := hno
    · simp [hd]
    · simp [hnone]
    · simp [hone, hnot]

theorem dieRetire_brings {m r : List Nat} {n : Nat} (hd : d ∈ s.inv.logical) (hidle : s.launchesOn d = []) (hspare : spare = 0xFF ∨ spare ∈ s.sparesFor (s.dieCores d).length)
    (hlist : (if spare = 0xFF then s.sparesFor (s.dieCores d).length else [spare]) = m ++ n :: r) (hbad : ∀ e ∈ m, e ∈ bad) (hgood : n ∉ bad) (hn : n ≠ d) :
    Runs (.dieRetire q bad a) s fun t =>
      t.inv.logical = (s.inv.logical.map fun e => if e = d then n else e) ∧ (t.die d).railOff = true ∧ (t.die d).failed.isSome = true ∧ (t.die n).railOff = false ∧
      (t.die n).failed = none ∧ n ∉ t.inv.spares ∧ d ∈ t.inv.retired ∧ (∀ e ∈ m, e ∉ t.inv.spares) ∧ endsWith t q p l 0 0 n := by
  refine runs_dieRetire h hcmd hd (sparesFor_ne hspare (by rw [hlist]; simp)) hspare ?_
  obtain ⟨u, hu, hrun⟩ := (State.takeOut_takenOut hidle q a).skips (k := (s.dieCores d).length) (n :: r) hbad
  rw [hlist, hrun, State.trySpares, if_neg (by rw [List.contains_iff_mem]; exact hgood)]
  obtain ⟨hlogical, hrail, hfailed, hnrail, hnfailed, hnspare, hretired, hlost, hhead⟩ := hu.bringIn hn (s.dieCores d).length
  have hmesh := undisturbed_releaseMesh (b := True) (kernelHead_key h) (u.bringIn d n (s.dieCores d).length)
  have hends := endsWith_endCmd (hmesh.head p l (hhead p l (kernelHead_stands h))) (kernelHead_taken h) 0 0 n
  obtain ⟨dfailed, -, drail⟩ := hmesh.dies d
  obtain ⟨nfailed, -, nrail⟩ := hmesh.dies n
  have hinv := hmesh.inv
  refine ⟨?_, ?_, ?_, ?_, ?_, ?_, ?_, ?_, hends⟩ <;> rw [State.endCmd_queues]
  · rw [← hinv] at hlogical
    exact hlogical
  · exact drail.trans hrail
  · change ((u.bringIn d n (s.dieCores d).length).releaseMesh.die d).failed.isSome = true
    rw [dfailed]; exact hfailed
  · exact nrail.trans hnrail
  · exact nfailed.trans hnfailed
  · rw [← hinv] at hnspare
    exact hnspare
  · rw [← hinv] at hretired
    exact hretired
  · rw [← hinv] at hlost
    exact hlost

theorem dieRetire_none {m : List Nat} (hd : d ∈ s.inv.logical) (hidle : s.launchesOn d = []) (hspare : spare = 0xFF ∨ spare ∈ s.sparesFor (s.dieCores d).length)
    (hlist : (if spare = 0xFF then s.sparesFor (s.dieCores d).length else [spare]) = m) (hsome : m ≠ []) (hbad : ∀ e ∈ m, e ∈ bad) : Runs (.dieRetire q bad a) s fun t =>
      t.inv.logical = s.inv.logical ∧ (t.die d).railOff = true ∧ (t.die d).failed.isSome = true ∧ (∀ e ∈ m, e ∉ t.inv.spares ∧ e ∈ t.inv.retired) ∧ endsWith t q p l 1 0 0 := by
  refine runs_dieRetire h hcmd hd (sparesFor_ne hspare (by rw [hlist]; exact hsome)) hspare ?_
  obtain ⟨u, hu, hrun⟩ := (State.takeOut_takenOut hidle q a).skips (k := (s.dieCores d).length) [] hbad
  rw [List.append_nil] at hrun
  rw [hlist, hrun, State.trySpares]
  have hends := endsWith_endCmd (hu.head p l (kernelHead_stands h)) (kernelHead_taken h) 1 0 0
  refine ⟨?_, ?_, ?_, ?_, hends⟩ <;> rw [State.endCmd_queues]
  · exact hu.logical
  · exact hu.rail
  · exact hu.fault
  · exact hu.consumed

end

theorem diesAreRetired : DiesAreRetired := fun _ _ _ _ _ _ _ _ h hcmd =>
  ⟨fun _ _ _ _ hd hidle hc hspare hlist hbad hgood hn => by subst hc; exact dieRetire_brings h hcmd hd hidle hspare hlist hbad hgood hn,
    fun _ _ hd hidle hc hspare hlist hsome hbad => by subst hc; exact dieRetire_none h hcmd hd hidle hspare hlist hsome hbad,
    fun hno => dieRetire_refused h hcmd hno⟩

end Sys2Proof.Machine

end

section
/-! SUPPORT. RECOVER of keepers and of service (R507, R508, R516, R517), and the obligation on recovery and retirement. -/

namespace Sys2Proof.Machine

/-! ## A keeper is reset (R507, R508) -/

/-- From `s` to `t` the token, the keepers, the command under way and the commands of every queue are as they were. -/
def tokenStays (s t : State) : Prop :=
  (t.keeper0 = s.keeper0 ∧ t.keeper1 = s.keeper1 ∧ t.holder = s.holder ∧ t.recover = s.recover) ∧ ∀ r, (t.queue? r).map (·.cmds) = (s.queue? r).map (·.cmds)

theorem tokenStays_refl (s : State) : tokenStays s s := ⟨⟨rfl, rfl, rfl, rfl⟩, fun _ => rfl⟩

theorem tokenStays_trans {s t u : State} (hst : tokenStays s t) (htu : tokenStays t u) : tokenStays s u := by
  obtain ⟨⟨h0, h1, hh, hr⟩, hcmds⟩ := hst
  obtain ⟨⟨g0, g1, gh, gr⟩, gcmds⟩ := htu
  exact ⟨⟨g0.trans h0, g1.trans h1, gh.trans hh, gr.trans hr⟩, fun r => (gcmds r).trans (hcmds r)⟩

theorem tokenStays_ledgersOnly {s t : State} (h : ledgersOnly s t) : tokenStays s t := by
  obtain ⟨hframe, -⟩ := h
  rw [hframe]
  exact tokenStays_refl s

theorem tokenStays_portsOnly {s t : State} (h : portsOnly s t) : tokenStays s t := by
  rw [h]
  exact tokenStays_refl s

/-- A queue changes, but for its commands. -/
theorem tokenStays_putQueue (s : State) (r : QRef) {f : Queue → Queue} (hf : ∀ x, (f x).cmds = x.cmds) : tokenStays s (s.putQueue r f) := by
  cases hr : s.queue? r with
  | none =>
    unfold State.putQueue
    rw [hr]
    exact tokenStays_refl s
  | some x =>
    obtain ⟨hput, hothers⟩ := State.putQueue_queue? hr f
    refine ⟨?_, fun e => ?_⟩
    · rw [State.putQueue_frame hr f]
      exact ⟨rfl, rfl, rfl, rfl⟩
    · by_cases hkey : qkey e = qkey r
      · have hsame (t : State) : t.queue? e = t.queue? r := congrArg (tabGet none t.queues) hkey
        rw [hsame, hsame, hput, hr, Option.map_some, Option.map_some, hf]
      · rw [hothers e hkey]

theorem tokenStays_holdKeeper (s : State) (b : Bool) : tokenStays s (s.holdKeeper b) := by
  unfold State.holdKeeper
  refine each_keeps (tokenStays s) _ (fun t r ht => tokenStays_trans ht ?_) _ s (tokenStays_refl s)
  exact tokenStays_putQueue t r fun _ => rfl

/-- Where no keeper is left, hatch service begins; the commands stand. -/
theorem tokenStays_noKeeper (s : State) : tokenStays s s.noKeeper := by
  obtain ⟨u, hu⟩ : ∃ u, u = s.holdKeeper true := ⟨_, rfl⟩
  have hheld : tokenStays s u := by rw [hu]; exact tokenStays_holdKeeper s true
  unfold State.noKeeper
  dsimp only
  rw [← hu]
  split
  · exact tokenStays_trans hheld ⟨⟨rfl, rfl, rfl, rfl⟩, fun _ => rfl⟩
  · refine tokenStays_trans hheld ?_
    refine tokenStays_trans ?_ (tokenStays_portsOnly (State.causeService_portsOnly _))
    refine tokenStays_trans ?_ (tokenStays_ledgersOnly (ledgersOnly_raise _ _ _ _))
    exact ⟨⟨rfl, rfl, rfl, rfl⟩, fun _ => rfl⟩

theorem tokenStays_keeper {s t : State} (h : tokenStays s t) (k : Nat) : t.keeper k = s.keeper k := by
  obtain ⟨⟨h0, h1, -⟩, -⟩ := h
  unfold State.keeper
  rw [h0, h1]

theorem keepersOnly_queues {s t : State} (h : keepersOnly s t) : t.queues = s.queues := by
  obtain ⟨hframe, -⟩ := h
  rw [hframe]

theorem keepersOnly_holder {s t : State} (h : keepersOnly s t) : t.holder = s.holder := by
  obtain ⟨hframe, -⟩ := h
  rw [hframe]

/-- A keeper that is lost is in the state that it went to, and without the token. -/
theorem State.loseKeeper_holds (s : State) (k : Nat) (st : KeeperSt) :
    (s.loseKeeper k st).keeper k = st ∧ (s.loseKeeper k st).recover = s.recover ∧ ((s.loseKeeper k st).holder = if s.holder = some k then none else s.holder) ∧
    ∀ r, ((s.loseKeeper k st).queue? r).map (·.cmds) = (s.queue? r).map (·.cmds) := by
  obtain ⟨u, hu⟩ : ∃ u, u = s.keeperTo k st := ⟨_, rfl⟩
  have hto : keepersOnly s u := by rw [hu]; exact keepersOnly_keeperTo s k st
  have hkeeper : u.keeper k = st := by rw [hu]; exact State.keeperTo_keeper s k st
  obtain ⟨v, hv⟩ : ∃ v, v = if u.holder = some k then { u with holder := none, sessions := [] } else u := ⟨_, rfl⟩
  obtain ⟨vkeeper, vrecover, vholder, vqueues⟩ : v.keeper k = st ∧ v.recover = s.recover ∧ (v.holder = if s.holder = some k then none else s.holder) ∧ v.queues = s.queues := by
    have hrecover : u.recover = s.recover := by
      obtain ⟨hframe, -⟩ := hto
      rw [hframe]
    rw [hv, keepersOnly_holder hto]
    by_cases hk : s.holder = some k
    · rw [if_pos hk, if_pos hk]
      exact ⟨hkeeper, hrecover, rfl, (keepersOnly_queues hto :)⟩
    · rw [if_neg hk, if_neg hk]
      exact ⟨hkeeper, hrecover, keepersOnly_holder hto, keepersOnly_queues hto⟩
  obtain ⟨stood, hstood⟩ : ∃ b, b = (s.keeper k == .active || s.keeper k == .standby) := ⟨_, rfl⟩
  have hlast : tokenStays v (if !stood || v.holder.isSome || v.keeper (1 - k) = .standby || v.service = .hatch then v else v.noKeeper) := by
    split
    · exact tokenStays_refl v
    · exact tokenStays_noKeeper v
  have hrun : s.loseKeeper k st = if !stood || v.holder.isSome || v.keeper (1 - k) = .standby || v.service = .hatch then v else v.noKeeper := by
    rw [hv, hu, hstood]
    rfl
  rw [hrun]
  obtain ⟨⟨-, -, hholder, hrecover⟩, hcmds⟩ := id hlast
  exact ⟨(tokenStays_keeper hlast k).trans vkeeper, hrecover.trans vrecover, hholder.trans vholder, fun r => (hcmds r).trans (by rw [State.queue?_of_queues vqueues])⟩

/-! ## Service is stopped and resumed (R517) -/

theorem State.mem_boundCtxs {s : State} {c : Nat} : c ∈ s.boundCtxs ↔ (s.ctx? c).isSome = true := mem_tabKeys none _ c (by simp) _

theorem stickyCause_service : StickyCause (·.causeService) := ⟨fun _ _ => rfl, fun _ _ h => h⟩

/-- Both ports have HQ_CAUSE.SERVICE. -/
theorem State.causeService_hosts (s : State) : s.causeService.host0.causeService = true ∧ s.causeService.host1.causeService = true := by
  obtain ⟨u, hu⟩ : ∃ u, u = (s.modHp 0 fun h => { h with causeService := true }).raiseVector 0 3 := ⟨_, rfl⟩
  have hfirst : u.host0.causeService = true := by
    rw [hu]
    exact (stickyCause_service.raiseVector _ 0 3).1 rfl
  have hrun : s.causeService = (u.modHp 1 fun h => { h with causeService := true }).raiseVector 1 3 := by rw [hu]; rfl
  have hset : causeStays (·.causeService) u (u.modHp 1 fun h => { h with causeService := true }) := causeStays_modHp u 1 fun _ _ => rfl
  obtain ⟨h0, h1⟩ := stickyCause_service.raiseVector (u.modHp 1 fun h => { h with causeService := true }) 1 3
  rw [hrun]
  exact ⟨h0 (hset.1 hfirst), h1 rfl⟩

section
variable {s : State} {q : QRef} (hq : 0x80000 ≤ qkey q)
include hq

omit hq in
/-- A context that is destroyed is gone, or going. -/
theorem State.destroy_going (s : State) (kill : Bool) (r : Option QRef) (c : Nat) : goneOrGoing (s.destroy kill r c) c := by
  have hended (t : State) (f : Context → Context) (hf : ∀ x, (f x).dying = true) : goneOrGoing ((t.modCtx c f).dropWrapped c).endDestroys c := by
    refine (undisturbed_endDestroys (b := True) (q := .kernel 0) _).going c ?_
    intro x hx
    change (t.modCtx c f).ctx? c = some x at hx
    rw [State.ctx?_modCtx] at hx
    obtain ⟨y, -, rfl⟩ := Option.map_eq_some_iff.mp hx
    exact hf y
  unfold State.destroy
  split
  next hno =>
    intro x hx
    rw [hx, State.ctx, hx] at hno
    simpa using hno
  next => exact hended _ _ fun _ => rfl

/-- When service is stopped each context is gone or going. -/
theorem State.stopService_going (s : State) {c : Nat} (hc : c ∈ s.boundCtxs) : goneOrGoing s.stopService c := by
  unfold State.stopService
  refine (undisturbed_stopDone (b := True) (q := q) _).going c ?_
  exact each_brings (fun _ => True) (goneOrGoing · c) _ hc (fun _ _ _ => trivial) (fun t _ => State.destroy_going t true none c)
    (fun t e ht => (undisturbed_destroy (b := True) hq t true none e).going c ht) _ trivial

theorem undisturbed_stopService (s : State) : Undisturbed True q s s.stopService := by
  have hstopping : Undisturbed True q s { s with stopping := true } := undisturbed_same rfl
  unfold State.stopService
  exact undisturbed_trans hstopping (undisturbed_trans (each_undisturbed _ (fun t c => undisturbed_destroy hq t true none c) _ _) (undisturbed_stopDone _))

theorem undisturbed_leaveRing (s : State) : Undisturbed False q s s.leaveRing := by
  unfold State.leaveRing
  refine undisturbed_trans (undisturbed_ite (undisturbed_refl s) (undisturbed_stopService hq s).weaken) (each_undisturbed _ (fun t p => ?_) _ _)
  exact (lkHold_holds hq p true t).1

omit hq in
theorem undisturbed_holdKeeper (s : State) (b : Bool) : Undisturbed True q s (s.holdKeeper b) := by
  unfold State.holdKeeper
  refine each_undisturbed _ (fun t r => ?_) _ s
  exact undisturbed_putQueue t r (.inr (keepsHead_of_cmds fun _ => rfl))

/-! ## The token goes to another keeper (R504, R506, R508) -/

/-- A keeper that takes the token holds it, in the next epoch; the one that held it stands by. -/
theorem State.takeToken_holds {k : Nat} (hk : k < 2) (hholder : s.holder = some k) :
    (s.takeToken (1 - k)).holder = some (1 - k) ∧ (s.takeToken (1 - k)).keeper (1 - k) = .active ∧ (s.takeToken (1 - k)).keeper k = .standby ∧
    (s.takeToken (1 - k)).keeperEpoch = s.keeperEpoch + 1 ∧ ∀ p l, headStands q s p l → headStands q (s.takeToken (1 - k)) p l := by
  have hne : (k = 0) ≠ (1 - k = 0) := by
    intro heq
    have hiff := iff_of_eq heq
    omega
  obtain ⟨u, hu⟩ : ∃ u, u = s.standBy k := ⟨_, rfl⟩
  have hstood : keepersOnly s u := by rw [hu]; exact keepersOnly_standBy s k
  have hustand : u.keeper k = .standby := by rw [hu, State.standBy_keeper]; exact State.keeperTo_keeper s k .standby
  obtain ⟨v, hv⟩ : ∃ v : State, v = { u with
    keeperEpoch := s.keeperEpoch + 1, holder := some (1 - k), taking := decide (1 < s.keeperEpoch + 1), hatch0 := { u.hatch0 with epoch := s.keeperEpoch + 1 }, hatch1 := { u.hatch1 with epoch := s.keeperEpoch + 1 }, sessions := [] } := ⟨_, rfl⟩
  obtain ⟨w, hw⟩ : ∃ w, w = (v.keeperTo (1 - k) .active).send (.epoch (s.keeperEpoch + 1)) := ⟨_, rfl⟩
  obtain ⟨wholder, wactive, wstand, wepoch, wqueues⟩ :
      w.holder = some (1 - k) ∧ w.keeper (1 - k) = .active ∧ w.keeper k = .standby ∧ w.keeperEpoch = s.keeperEpoch + 1 ∧ w.queues = s.queues := by
    have hto := keepersOnly_keeperTo v (1 - k) .active
    have hsent (j : Nat) : w.keeper j = (v.keeperTo (1 - k) .active).keeper j := by rw [hw, State.send_frame]; rfl
    refine ⟨?_, ?_, ?_, ?_, ?_⟩
    · rw [hw, State.send_frame]
      exact (keepersOnly_holder hto).trans (by rw [hv])
    · rw [hsent]
      exact State.keeperTo_keeper v (1 - k) .active
    · rw [hsent, State.keeperTo_keeper_other v .active hne, hv]
      exact hustand
    · rw [hw, State.send_frame]
      obtain ⟨hframe, -⟩ := hto
      rw [hframe, hv]
    · rw [hw, State.send_frame]
      exact (keepersOnly_queues hto).trans ((by rw [hv] : v.queues = u.queues).trans (keepersOnly_queues hstood))
  obtain ⟨x, hx⟩ : ∃ x, x = if w.service = .hatch then ({ w with service := if w.wasStopped then .stopped else .normal, wasStopped := false } : State).causeService else w := ⟨_, rfl⟩
  have hserves : Undisturbed False q w x := by
    rw [hx]
    refine undisturbed_ite ?_ (undisturbed_refl w)
    refine undisturbed_trans ?_ (undisturbed_causeService _)
    exact undisturbed_same rfl
  have hrest : Undisturbed False q w (((if x.broken then x.leaveRing else x).holdKeeper false).stopDone) := by
    refine undisturbed_trans hserves (undisturbed_trans ?_ (undisturbed_stopDone _))
    exact undisturbed_trans (undisturbed_ite (undisturbed_leaveRing hq x) (undisturbed_refl x)) (undisturbed_holdKeeper _ _).weaken
  have hrun : s.takeToken (1 - k) = ((if x.broken then x.leaveRing else x).holdKeeper false).stopDone := by
    have hfirst : (match s.holder with | some j => if j = 1 - k then s else s.standBy j | none => s) = u := by
      rw [hu, hholder]
      exact if_neg (by omega)
    subst hx hw hv hfirst
    rfl
  rw [hrun]
  obtain ⟨h0, h1, hh, hepoch⟩ := hrest.keepers
  have hkeeper (j : Nat) : State.keeper (((if x.broken then x.leaveRing else x).holdKeeper false).stopDone) j = w.keeper j := by
    unfold State.keeper
    rw [h0, h1]
  exact ⟨hh.trans wholder, (hkeeper _).trans wactive, (hkeeper _).trans wstand, hepoch.trans wepoch, fun p l hs => hrest.head p l (headStands_of_queues wqueues hs)⟩

end

/-! ## RECOVER of keepers and of service (R516, R517) -/

section
variable {s : State} {q : QRef} {p : Pending} {l : List Pending} (h : kernelHead s q p l) (hnone : s.recover = none)
include h hnone

theorem recover_reset {k : Nat} (hcmd : p.cmd = .recover 0 0 k) (hk : k < 2) : Runs (.recover q) s fun t =>
    t.keeper k = .resetting ∧ t.recover = some (q, k) ∧ (t.queue q).cmds = p :: l ∧ t.holder = if s.holder = some k then none else s.holder := by
  have hpair : s.recoverPair q 0 0 k = ({ s with recover := some (q, k) } : State).resetKeeper k := if_pos hk
  refine runs_recover h hnone hcmd ?_
  rw [hpair]
  obtain ⟨hkeeper, hrecover, hholder, hcmds⟩ := State.loseKeeper_holds { s with recover := some (q, k) } k .resetting
  refine ⟨hkeeper, hrecover, ?_, hholder⟩
  obtain ⟨-, -, -, -, -, x, hx, hxcmds, -⟩ := h
  have hmap : ((({ s with recover := some (q, k) } : State).resetKeeper k).queue? q).map (·.cmds) = some (p :: l) := (hcmds q).trans (by
    have hsame : ({ s with recover := some (q, k) } : State).queue? q = s.queue? q := rfl
    rw [hsame, hx, Option.map_some, hxcmds])
  obtain ⟨y, hy, hycmds⟩ := Option.map_eq_some_iff.mp hmap
  rw [State.queue_of hy]
  exact hycmds

omit h hnone in
/-- No RECOVER is under way: that none is changes nothing. -/
theorem State.endRecover_none (hnone : s.recover = none) : ({ s with recover := none } : State) = s := by rw [← hnone]

omit h hnone in
theorem State.recoverHandover_of {k : Nat} (hholder : s.holder = some k) : s.recoverHandover q = if s.keeper (1 - k) ≠ .standby then ({ s with recover := none } : State).endCmd q 1 0 0
    else if s.handoverClear then s.handover q (1 - k) else { s with recover := some (q, 2) } := by
  unfold State.recoverHandover
  split
  next j hj =>
    rw [hholder] at hj
    cases hj
    rfl
  next hno =>
    rw [hholder] at hno
    cases hno

theorem recover_noStandby {k : Nat} (hcmd : p.cmd = .recover 0 1 0) (hholder : s.holder = some k) (hstand : s.keeper (1 - k) ≠ .standby) : Runs (.recover q) s fun t =>
    t.holder = some k ∧ endsWith t q p l 1 0 0 ∧ t = { s with queues := t.queues } := by
  have hpair : s.recoverPair q 0 1 0 = s.endCmd q 1 0 0 := by
    refine (State.recoverHandover_of hholder).trans ?_
    rw [if_pos hstand, State.endRecover_none hnone]
  refine runs_recover h hnone hcmd ?_
  rw [hpair]
  refine ⟨?_, kernelHead_endCmd h 1 0 0⟩
  rw [State.endCmd_queues]
  exact hholder

theorem recover_waits {k : Nat} (hcmd : p.cmd = .recover 0 1 0) (hholder : s.holder = some k) (hstand : s.keeper (1 - k) = .standby) (hclear : s.handoverClear = false) :
    Runs (.recover q) s fun t => t = { s with recover := some (q, 2) } := by
  refine runs_recover h hnone hcmd ?_
  refine (State.recoverHandover_of hholder).trans ?_
  rw [if_neg (not_not.mpr hstand), if_neg (by rw [hclear]; exact Bool.false_ne_true)]

theorem recover_handover {k : Nat} (hcmd : p.cmd = .recover 0 1 0) (hholder : s.holder = some k) (hk : k < 2) (hstand : s.keeper (1 - k) = .standby) (hclear : s.handoverClear = true) :
    Runs (.recover q) s fun t => t.holder = some (1 - k) ∧ t.keeper (1 - k) = .active ∧ t.keeper k = .standby ∧ t.keeperEpoch = s.keeperEpoch + 1 ∧ t.recover = none ∧
      endsWith t q p l 0 0 0 := by
  have hpair : s.recoverPair q 0 1 0 = s.handover q (1 - k) := by
    refine (State.recoverHandover_of hholder).trans ?_
    rw [if_neg (not_not.mpr hstand), if_pos hclear]
  obtain ⟨hto, hactive, hstands, hepoch, hhead⟩ := State.takeToken_holds (kernelHead_key h) hk hholder
  refine runs_recover h hnone hcmd ?_
  rw [hpair]
  obtain ⟨v, hv⟩ : ∃ v, v = s.takeToken (1 - k) := ⟨_, rfl⟩
  rw [← hv] at hto hactive hstands hepoch hhead
  obtain ⟨u, hu⟩ : ∃ u : State, u = { v with taking := false, recover := none } := ⟨_, rfl⟩
  obtain ⟨uto, uactive, ustands, uepoch, urecover, uqueues⟩ : u.holder = some (1 - k) ∧ u.keeper (1 - k) = .active ∧ u.keeper k = .standby ∧ u.keeperEpoch = s.keeperEpoch + 1 ∧
      u.recover = none ∧ u.queues = v.queues := by
    rw [hu]
    exact ⟨hto, hactive, hstands, hepoch, rfl, rfl⟩
  have hrun : s.handover q (1 - k) = u.endCmd q 0 0 0 := by rw [hu, hv]; rfl
  rw [hrun]
  refine ⟨?_, ?_, ?_, ?_, ?_, endsWith_endCmd (headStands_of_queues uqueues (hhead p l (kernelHead_stands h))) (kernelHead_taken h) 0 0 0⟩ <;> rw [State.endCmd_queues]
  · exact uto
  · exact uactive
  · exact ustands
  · exact uepoch
  · exact urecover

theorem recover_stopped (hcmd : p.cmd = .recover 0 2 0) (hservice : s.service = .stopped) : Runs (.recover q) s fun t => endsWith t q p l 0 0 0 ∧ t = { s with queues := t.queues } := by
  have hpair : s.recoverPair q 0 2 0 = s.endCmd q 0 0 0 := if_pos hservice
  refine runs_recover h hnone hcmd ?_
  rw [hpair]
  exact kernelHead_endCmd h 0 0 0

omit h hnone in
theorem State.recoverPair_stop (hservice : s.service ≠ .stopped) : s.recoverPair q 0 2 0 = ({ s with recover := some (q, 3) } : State).stopService := if_neg hservice

theorem recover_stopsAtOnce (hcmd : p.cmd = .recover 0 2 0) (hservice : s.service ≠ .stopped) (hempty : s.boundCtxs = []) : Runs (.recover q) s fun t =>
    t.service = .stopped ∧ t.stopping = false ∧ t.recover = none ∧ endsWith t q p l 0 0 0 := by
  obtain ⟨u, hu⟩ : ∃ u, u = ({ s with recover := some (q, 3), stopping := false, service := .stopped } : State).causeService := ⟨_, rfl⟩
  have hports : portsOnly { s with recover := some (q, 3), stopping := false, service := .stopped } u := by rw [hu]; exact State.causeService_portsOnly _
  have hrun : s.recoverPair q 0 2 0 = ({ u with recover := none } : State).endCmd q 0 0 0 := by
    have hbound : ({ s with recover := some (q, 3) } : State).boundCtxs = [] := hempty
    rw [State.recoverPair_stop hservice]
    unfold State.stopService
    rw [hbound, each_nil]
    unfold State.stopDone
    rw [if_pos]
    · rw [hu]; rfl
    · obtain ⟨-, hholder, -⟩ := h
      change (true && s.boundCtxs.isEmpty && s.holder.isSome) = true
      rw [hempty, hholder]
      rfl
  have hqueues : u.queues = s.queues := by rw [hports]
  refine runs_recover h hnone hcmd ?_
  rw [hrun]
  refine ⟨?_, ?_, ?_, endsWith_endCmd (headStands_of_queues (t := { u with recover := none }) hqueues (kernelHead_stands h)) (kernelHead_taken h) 0 0 0⟩ <;> rw [State.endCmd_queues]
  · change u.service = _
    rw [hports]
  · change u.stopping = _
    rw [hports]

theorem recover_stops (hcmd : p.cmd = .recover 0 2 0) (hservice : s.service ≠ .stopped) : Runs (.recover q) s fun t =>
    ∀ c, (s.ctx? c).isSome = true → t.ctx? c = none ∨ (t.ctx c).dying = true := by
  refine runs_recover h hnone hcmd fun c hc => ?_
  rw [State.recoverPair_stop hservice]
  have hbound : c ∈ ({ s with recover := some (q, 3) } : State).boundCtxs := State.mem_boundCtxs.mpr hc
  have hgoing := State.stopService_going (kernelHead_key h) _ hbound
  cases hx : (({ s with recover := some (q, 3) } : State).stopService).ctx? c with
  | none => exact .inl rfl
  | some x =>
    refine .inr ?_
    rw [State.ctx, hx]
    exact hgoing x hx

theorem recover_resume (hcmd : p.cmd = .recover 0 3 0) (hbroken : s.broken = false) (hstopping : s.stopping = false) (hservice : s.service = .stopped) : Runs (.recover q) s fun t =>
    t.service = .normal ∧ t.host0.causeService = true ∧ t.host1.causeService = true ∧ endsWith t q p l 0 0 0 := by
  obtain ⟨u, hu⟩ : ∃ u, u = ({ s with service := .normal } : State).causeService := ⟨_, rfl⟩
  have hports : portsOnly { s with service := .normal } u := by rw [hu]; exact State.causeService_portsOnly _
  have hpair : s.recoverPair q 0 3 0 = u.endCmd q 0 0 0 := by
    change s.recoverResume q = _
    unfold State.recoverResume
    rw [if_neg (by rw [hbroken, hstopping]; exact Bool.false_ne_true), if_pos hservice, hu]
  obtain ⟨hhost0, hhost1⟩ := State.causeService_hosts { s with service := .normal }
  rw [← hu] at hhost0 hhost1
  have hqueues : u.queues = s.queues := by rw [hports]
  refine runs_recover h hnone hcmd ?_
  rw [hpair]
  refine ⟨?_, ?_, ?_, endsWith_endCmd (headStands_of_queues hqueues (kernelHead_stands h)) (kernelHead_taken h) 0 0 0⟩ <;> rw [State.endCmd_queues]
  · change u.service = _
    rw [hports]
  · exact hhost0
  · exact hhost1

theorem recover_noResume (hcmd : p.cmd = .recover 0 3 0) (hwhy : s.broken = true ∨ s.stopping = true) : Runs (.recover q) s fun t => endsWith t q p l 1 0 0 ∧ t = { s with queues := t.queues } :=
  runs_recover_refused h hnone hcmd (if_pos (Bool.or_eq_true_iff.mpr hwhy))

theorem handover_timesOut : Runs (.handoverWaitTimeout q) { s with recover := some (q, 2) } fun t => t.recover = none ∧ endsWith t q p l 1 0 0 ∧ t = { s with queues := t.queues } := by
  have hrun : handoverWaitTimeout q { s with recover := some (q, 2) } = s.endCmd q 1 0 0 := by
    unfold handoverWaitTimeout
    rw [if_pos rfl]
    exact congrArg (fun t : State => t.endCmd q 1 0 0) (State.endRecover_none hnone)
  refine runs_of_need rfl (kernelHead_isQueue h) ?_
  rw [hrun]
  refine ⟨?_, kernelHead_endCmd h 1 0 0⟩
  rw [State.endCmd_queues]
  exact hnone

end

theorem recoverMovesKeepersAndService : RecoverMovesKeepersAndService := fun _ _ _ _ h hnone =>
  ⟨fun _ hcmd hk => recover_reset h hnone hcmd hk, fun _ hcmd hholder _ hstand => recover_noStandby h hnone hcmd hholder hstand,
    fun _ hcmd hholder _ hstand hclear => recover_waits h hnone hcmd hholder hstand hclear,
    fun _ hcmd hholder hk hstand hclear => recover_handover h hnone hcmd hholder hk hstand hclear,
    fun hcmd => ⟨recover_stopped h hnone hcmd, recover_stopsAtOnce h hnone hcmd, recover_stops h hnone hcmd⟩,
    recover_resume h hnone, recover_noResume h hnone, handover_timesOut h hnone⟩

/-- Settles O31: none of what RECOVER and DIE_RETIRE set in motion touches the command at the head of the kernel queue but by ending it, nor the dies, keepers and
contexts that each of them leaves in the state that it names. -/
theorem recoveryAndRetirement : Obligations.RecoveryAndRetirement := ⟨recoverActs, recoverMovesKeepersAndService, diesAreRetired⟩

end Sys2Proof.Machine

end

section
/-! SUPPORT. Proofs about the time bases: epoch loads, slips, holdover, slewing, reads of the count, and slot lengths (R54, R62 to R71, R346, R467, R468, R592). -/

namespace Sys2Proof.Machine

/-! ## Slot lengths (R48, R54) -/

/-- A quotient that is rounded up is the least multiple count that reaches the dividend. -/
theorem ceilDiv_le_iff {a b c : Nat} (hb : 0 < b) : ceilDiv a b ≤ c ↔ a ≤ b * c := by
  unfold ceilDiv
  rw [Nat.div_le_iff_le_mul_add_pred hb]
  omega

/-- Settles O4: the rate of every point is above zero, so that the rounded quotient is the least number of beats. -/
theorem slotLengthHoldsTheSteps : Obligations.SlotLengthHoldsTheSteps := by
  intro n p hp _
  have hrate : 0 < 4 * rate10 p := by unfold rate10; split <;> omega
  refine ⟨(ceilDiv_le_iff hrate).mp (Nat.le_refl _), fun b hb => (ceilDiv_le_iff hrate).mpr hb, ?_, ?_, ?_, ?_, ?_⟩ <;> decide

/-! ## Counts (R62) -/

/-- A count follows from the package's time and the die's displacement alone. -/
theorem State.count_congr {s t : State} {d : Nat} (hnow : t.now = s.now) (hdisp : (t.die d).tb.disp = (s.die d).tb.disp) : t.count d = s.count d := by
  unfold State.count
  rw [hnow, hdisp]

theorem State.count_lt (s : State) (d : Nat) : s.count d < 2 ^ 64 := by unfold State.count; omega

theorem count_of_diesOnly {s t : State} (h : diesOnly s t) {d : Nat} (hdisp : (t.die d).tb.disp = (s.die d).tb.disp) : t.count d = s.count d :=
  State.count_congr (by rw [h]) hdisp

theorem State.eachTb_die_cases (s : State) (f : TimeBase → TimeBase) (d : Nat) :
    (s.eachTb f).die d = if isDie d then { s.die d with tb := f (s.die d).tb } else s.die d := by
  refine (each_modDie (fun x => { x with tb := f x.tb }) dieList List.nodup_range s d).trans ?_
  simp only [mem_dieList]

theorem isDie_of_lt {d : Nat} (h : d < 100) : isDie d = true := decide_eq_true h

/-! ## ALIGNED of the dies (R468) -/

/-- From `s` to `t` ALIGNED of some dies may have changed, and nothing else has. -/
def realigned (s t : State) : Prop := diesOnly s t ∧ ∀ d, t.die d = { s.die d with tb := { (s.die d).tb with aligned := (t.die d).tb.aligned } }

theorem realigned_setAligned (s : State) (v : Bool) : realigned s (s.setAligned v) := by
  rw [State.setAligned_eq]
  refine ⟨State.eachTb_diesOnly _ _, fun d => ?_⟩
  rw [State.eachTb_die_cases]
  split <;> rfl

theorem realigned_rootAligned (s : State) : realigned s s.rootAligned := by
  unfold State.rootAligned
  split
  · exact realigned_setAligned s _
  · exact ⟨rfl, fun _ => rfl⟩

theorem realigned_count {s t : State} (h : realigned s t) (d : Nat) : t.count d = s.count d := count_of_diesOnly h.1 (by rw [h.2 d])

/-! ## The epoch load (R64) -/

/-- A time base that has loaded its own TB_EPOCH_NEXT, `now` ns after die reset and at count `old`. -/
def loadedTb (now old : Nat) (t : TimeBase) : TimeBase :=
  { t with disp := (t.epochNext.toNat : Int) - now, epoch := t.epochNext.toNat, expect := t.epochNext.toNat, preLoad := old, epochArm := false, epochSet := true,
           syncSeen := true, hold := 0, slewFrom := 0 }

theorem State.epochLoad_realigns (s : State) (d : Nat) : ∃ l : Ledger,
    realigned (s.setDie d { s.die d with tb := loadedTb s.now (s.count d) (s.die d).tb, ledger := l }) (s.epochLoad d) := by
  obtain ⟨u, hu⟩ : ∃ u, u = s.setDie d { s.die d with tb := loadedTb s.now (s.count d) (s.die d).tb } := ⟨_, rfl⟩
  have hrun : s.epochLoad d = (u.note d 0x03 0 noCtx (le 8 (s.count d) ++ le 8 (s.die d).tb.epochNext.toNat)).rootAligned := by rw [hu]; rfl
  obtain ⟨l, -, hnote⟩ := u.note_die d 0x03 0 noCtx (le 8 (s.count d) ++ le 8 (s.die d).tb.epochNext.toNat)
  refine ⟨l, ?_⟩
  rw [hrun, hnote, hu, State.setDie_setDie, State.die_setDie]
  exact realigned_rootAligned _

/-- The count after a load is the epoch loaded. -/
theorem State.count_loaded (s : State) {d : Nat} {x : Die} {old : Nat} {t : TimeBase} (htb : x.tb = loadedTb s.now old t) : (s.setDie d x).count d = t.epochNext.toNat := by
  have hlt := t.epochNext.isLt
  unfold State.count
  rw [State.setDie_now, State.die_setDie, htb]
  simp only [loadedTb]
  omega

/-! ## A RACK_SYNC edge (R64, R66) -/

/-- A slip before it is slewed away: counted, raised and recorded. -/
def State.recordSlip (s : State) (d : Nat) (off : Int) : State :=
  (((s.modDie d fun x => { x with tb := { x.tb with syncSeen := true } }).modDie d fun x => { x with tb := { x.tb with slipCount := stick 16 (x.tb.slipCount + 1) } }).raise
    d fTbSyncSlip [] (le 8 (ofSigned 64 off))).note d 0x0B 66 noCtx (le 8 (ofSigned 64 off))

theorem State.recordSlip_diesOnly (s : State) (d : Nat) (off : Int) : diesOnly s (s.recordSlip d off) :=
  diesOnly_trans (t := (s.modDie d _).modDie d _) rfl (diesOnly_trans (ledgersOnly_raise _ _ _ _).1 (ledgersOnly_note _ _ _ _ _ _).1)

theorem rackSyncPulse_holdover {d : Nat} {s : State} (h : (s.die d).tb.holdover = true) : rackSyncPulse d s = s := if_pos h

section
variable {d : Nat} {s : State} (hholdover : (s.die d).tb.holdover = false)
include hholdover

theorem rackSyncPulse_armed (harm : (s.die d).tb.epochArm = true) : rackSyncPulse d s = s.epochLoad d := by
  unfold rackSyncPulse
  dsimp only
  rw [hholdover, if_neg Bool.false_ne_true, if_pos harm]

variable (harm : (s.die d).tb.epochArm = false)
include harm

theorem rackSyncPulse_near (h : (slipOf (s.die d).tb (s.count d)).natAbs ≤ 2) : rackSyncPulse d s = s.modDie d fun x => { x with tb := { x.tb with syncSeen := true } } := by
  unfold rackSyncPulse
  dsimp only
  rw [hholdover, if_neg Bool.false_ne_true, harm, if_neg Bool.false_ne_true, decide_eq_true h, Bool.or_true, if_pos rfl]

theorem rackSyncPulse_far (hset : (s.die d).tb.epochSet = true) (hacts : s.syncActs (s.die d).tb = true) (h : 2 < (slipOf (s.die d).tb (s.count d)).natAbs) :
    rackSyncPulse d s =
      if s.holder.isSome then (s.recordSlip d (slipOf (s.die d).tb (s.count d))).writeSlew (slipOf (s.die d).tb (s.count d)) else s.recordSlip d (slipOf (s.die d).tb (s.count d)) := by
  unfold rackSyncPulse
  dsimp only
  rw [hholdover, if_neg Bool.false_ne_true, harm, if_neg Bool.false_ne_true]
  have hslips : ¬(!(s.die d).tb.epochSet || !s.syncActs (s.die d).tb || decide ((slipOf (s.die d).tb (s.count d)).natAbs ≤ 2)) = true := by
    rw [hset, hacts, decide_eq_false (Nat.not_le.mpr h)]
    decide
  have hheld : (s.recordSlip d (slipOf (s.die d).tb (s.count d))).holder = s.holder := by rw [State.recordSlip_diesOnly]
  rw [← hheld]
  exact if_neg hslips

end

/-- What a slip leaves on its die: SYNC_SEEN, one more in SLIP_COUNT, a record and entries. Nothing else changes. -/
theorem State.recordSlip_eq (s : State) {d : Nat} (off : Int) (hroom : s.hasRoom d) : ∃ l : Ledger,
    (∃ r, l.held = (s.die d).ledger.held ++ [r] ∧ r.code = fTbSyncSlip ∧ r.die = d ∧ r.count = s.count d) ∧
    s.recordSlip d off = s.setDie d { s.die d with
      tb := { (s.die d).tb with syncSeen := true, slipCount := stick 16 ((s.die d).tb.slipCount + 1) }, ledger := l } := by
  obtain ⟨u, hu⟩ : ∃ u, u = s.setDie d { s.die d with tb := { (s.die d).tb with syncSeen := true, slipCount := stick 16 ((s.die d).tb.slipCount + 1) } } := ⟨_, rfl⟩
  have hdie : u.die d = { s.die d with tb := { (s.die d).tb with syncSeen := true, slipCount := stick 16 ((s.die d).tb.slipCount + 1) } } := by rw [hu, State.die_setDie]
  have hrun : s.recordSlip d off = (u.raise d fTbSyncSlip [] (le 8 (ofSigned 64 off))).note d 0x0B 66 noCtx (le 8 (ofSigned 64 off)) := by
    rw [hu, State.recordSlip, State.modDie_modDie]
    rfl
  have hcount : u.count d = s.count d := State.count_congr (by rw [hu]; rfl) (by rw [hdie])
  obtain ⟨l, ⟨r, hheld, hcode, hon, hat⟩, hraise⟩ := u.raise_room d fTbSyncSlip [] (le 8 (ofSigned 64 off)) (by rw [State.hasRoom, hdie]; exact hroom)
  obtain ⟨m, hm, hnote⟩ := (u.raise d fTbSyncSlip [] (le 8 (ofSigned 64 off))).note_die d 0x0B 66 noCtx (le 8 (ofSigned 64 off))
  refine ⟨m, ⟨r, ?_, hcode, hon, by rw [hat, hcount]⟩, ?_⟩
  · rw [hm, hraise, State.die_setDie, hheld, hdie]
  · rw [hrun, hnote, hraise, State.die_setDie, State.setDie_setDie, hdie, hu, State.setDie_setDie]

/-- A value written to TB_SLEW replaces what remains on every die (R69). -/
theorem State.writeSlew_die (s : State) (i : Int) {d : Nat} (h : isDie d = true) :
    (s.writeSlew i).die d = { s.die d with tb := startSlew i s.nextBoundary (s.die d).tb } := by
  rw [State.writeSlew_eq, State.eachTb_die _ _ h]

theorem State.writeSlew_count (s : State) (i : Int) (d : Nat) : (s.writeSlew i).count d = s.count d := by
  refine count_of_diesOnly (State.eachTb_diesOnly _ _) ?_
  rw [State.eachTb_die_cases]
  split <;> rfl

theorem epochLoadsOnTheArmedDieAlone : EpochLoadsOnTheArmedDieAlone := by
  intro d s hd
  refine ⟨fun hset => ?arms, fun hset => ?ignored, fun hholdover => runs_of_need rfl hd (rackSyncPulse_holdover hholdover), fun hholdover harm => ?loads, fun hholdover harm hnear => ?near⟩
  case arms =>
    refine runs_of_need rfl hd ⟨?_, othersSame_modDie s d _, rfl⟩
    rw [epochArm, State.die_modDie, hset]
    rfl
  case ignored =>
    refine runs_of_need rfl hd ⟨?_, othersSame_modDie s d _, rfl⟩
    rw [epochArm, State.die_modDie, hset]
    rfl
  case loads =>
    obtain ⟨l, hdies, hdie⟩ := s.epochLoad_realigns d
    have hown := hdie d
    rw [State.die_setDie] at hown
    refine runs_of_need rfl hd ?_
    rw [rackSyncPulse_armed hholdover harm]
    refine ⟨?_, ?_, ?_, ?_, ?_, ?_, fun e he => ?_, hdies⟩
    · rw [realigned_count ⟨hdies, hdie⟩]; exact State.count_loaded s rfl
    · rw [hown]; rfl
    · rw [hown]; rfl
    · rw [hown]; rfl
    · rw [hown]; rfl
    · rw [hown]
    · have hother := hdie e
      rwa [State.die_setDie_ne _ _ he] at hother
  case near =>
    refine runs_of_need rfl hd ?_
    rw [rackSyncPulse_near hholdover harm hnear]
    exact ⟨State.die_modDie _ _ _, othersSame_modDie s d _, rfl⟩

theorem syncSlipIsSlewedAway : SyncSlipIsSlewedAway := by
  intro d s hd hholdover harm hset hacts hfar hroom
  obtain ⟨off, hoff⟩ : ∃ off, off = slipOf (s.die d).tb (s.count d) := ⟨_, rfl⟩
  obtain ⟨l, ⟨r, hheld, hcode, hon, hat⟩, hslip⟩ := s.recordSlip_eq off hroom
  have hdie : (s.recordSlip d off).die d = { s.die d with tb := { (s.die d).tb with syncSeen := true, slipCount := stick 16 ((s.die d).tb.slipCount + 1) }, ledger := l } := by
    rw [hslip, State.die_setDie]
  have hcount : (s.recordSlip d off).count d = s.count d := State.count_congr (by rw [hslip]; rfl) (by rw [hdie])
  refine runs_of_need rfl hd ?_
  rw [rackSyncPulse_far hholdover harm hset hacts hfar, ← hoff]
  by_cases hheldBy : s.holder.isSome = true
  · rw [if_pos hheldBy]
    have hslewed := (s.recordSlip d off).writeSlew_die off hd
    refine ⟨(State.writeSlew_count _ _ _).trans hcount, ?_, ⟨r, ?_, hcode, hon, hat⟩, fun e he _ => ?_, fun hnone => absurd hheldBy (by simp [hnone]), ?_⟩
    · rw [hslewed, hdie]; rfl
    · rw [hslewed, hdie]; exact hheld
    · rw [State.writeSlew_die _ _ (isDie_of_lt he)]; rfl
    · exact diesOnly_trans (s.recordSlip_diesOnly d off) (State.eachTb_diesOnly _ _)
  · rw [if_neg hheldBy]
    refine ⟨hcount, by rw [hdie]; rfl, ⟨r, by rw [hdie]; exact hheld, hcode, hon, hat⟩, fun _ _ h => absurd h hheldBy, fun _ e he => ?_, s.recordSlip_diesOnly d off⟩
    rw [hslip, State.die_setDie_ne _ _ he]

/-! ## Holdover (R67, R468) -/

/-- A die that has lost its reference. -/
def State.loseRef (s : State) (d : Nat) : State := s.modDie d fun x => { x with tb := { x.tb with holdover := true, locked := false } }

theorem refclkLoss_eq (d : Nat) (s : State) : refclkLoss d s = ((s.loseRef d).raise d fTbRefLost (s.loseRef d).spanning []).setAligned false := rfl

/-- A die that locks again, and absorbs from its next beat boundary on what it has drifted. -/
def State.regainRef (s : State) (d : Nat) (drift : Int) : State :=
  s.modDie d fun x => { x with tb := { startSlew drift (roundUp (s.count d) 4) x.tb with holdover := false, locked := true } }

theorem refclkRelock_eq {d : Nat} {s : State} (drift : Int) (h : (s.die d).tb.holdover = true) : refclkRelock d drift s = (s.regainRef d drift).rootAligned := if_pos h

theorem holdoverBeginsAndEnds : HoldoverBeginsAndEnds := by
  intro d s hd
  refine ⟨fun hroom => ?begins, fun i hholdover => ?ends⟩
  case begins =>
    have hdie : (s.loseRef d).die d = { s.die d with tb := { (s.die d).tb with holdover := true, locked := false } } := State.die_modDie _ _ _
    have hlost (e : Nat) : (s.loseRef d).count e = s.count e := by
      refine State.count_congr rfl ?_
      by_cases he : e = d
      · subst he; rw [hdie]
      · rw [State.loseRef, State.die_modDie_ne _ _ he]
    obtain ⟨l, ⟨r, hheld, hcode, hon, hat⟩, hraise⟩ := (s.loseRef d).raise_room d fTbRefLost (s.loseRef d).spanning [] (by rw [State.hasRoom, hdie]; exact hroom)
    have hrealign := realigned_setAligned ((s.loseRef d).raise d fTbRefLost (s.loseRef d).spanning []) false
    rw [← refclkLoss_eq] at hrealign
    have hown := hrealign.2 d
    rw [hraise, State.die_setDie, hdie] at hown
    refine runs_of_need rfl hd ⟨?_, ?_, ⟨r, ?_, hcode, hon, ?_⟩, fun e he => ?_, fun e => ?_, ?_⟩
    · rw [hown]
    · rw [hown]
    · rw [hown, hheld, hdie]
    · rw [hat, hlost]
    · rw [refclkLoss_eq, State.setAligned_eq, State.eachTb_die _ _ (isDie_of_lt he)]
    · rw [realigned_count hrealign, ← hlost]
      exact State.count_congr (by rw [hraise]; rfl) (by rw [State.raise_room_tb _ _ _ _ _ _ (by rw [State.hasRoom, hdie]; exact hroom)])
    · exact diesOnly_trans (t := s.loseRef d) rfl (diesOnly_trans (by rw [hraise]; rfl) hrealign.1)
  case ends =>
    have hdie : (s.regainRef d i).die d = { s.die d with tb := { startSlew i (roundUp (s.count d) 4) (s.die d).tb with holdover := false, locked := true } } := State.die_modDie _ _ _
    have hrealign := realigned_rootAligned (s.regainRef d i)
    rw [← refclkRelock_eq i hholdover] at hrealign
    have hown := hrealign.2 d
    rw [hdie] at hown
    refine runs_of_need rfl hd ⟨?_, ?_, ?_, fun e => ?_, diesOnly_trans (t := s.regainRef d i) rfl hrealign.1⟩
    · rw [hown]
    · rw [hown]
    · rw [hown]; rfl
    · rw [realigned_count hrealign]
      refine State.count_congr rfl ?_
      by_cases he : e = d
      · subst he; rw [hdie]; rfl
      · rw [State.regainRef, State.die_modDie_ne _ _ he]

/-- Settles O1: an edge loads the epoch on its armed die alone, each slip is counted on its die and slewed away on all of them, and holdover moves no count. -/
theorem epochSlipAndHoldover : Obligations.EpochSlipAndHoldover := ⟨epochLoadsOnTheArmedDieAlone, syncSlipIsSlewedAway, holdoverBeginsAndEnds⟩

/-! ## TB_SLEW (R69, R71) -/

theorem le_foldl_max (l : List Nat) : ∀ a, a ≤ l.foldl max a ∧ ∀ b ∈ l, b ≤ l.foldl max a := by
  induction l with
  | nil => exact fun a => ⟨Nat.le_refl a, nofun⟩
  | cons c l ih =>
    intro a
    obtain ⟨hfirst, hrest⟩ := ih (max a c)
    refine ⟨(Nat.le_max_left a c).trans hfirst, fun b hb => ?_⟩
    obtain rfl | hb := List.mem_cons.mp hb
    · exact (Nat.le_max_right a b).trans hfirst
    · exact hrest b hb

theorem le_roundUp (a : Nat) {b : Nat} (hb : 0 < b) : a ≤ roundUp a b := by
  rw [roundUp, Nat.mul_comm]
  exact (ceilDiv_le_iff hb).mp (Nat.le_refl _)

theorem State.count_le_nextBoundary (s : State) {d : Nat} (h : isDie d = true) : s.count d ≤ s.nextBoundary :=
  ((le_foldl_max _ 0).2 _ (List.mem_map_of_mem (mem_dieList.mpr h))).trans (le_roundUp _ (by decide))

theorem State.nextBoundary_mod (s : State) : s.nextBoundary % 4 = 0 := Nat.mul_mod_left _ _

theorem clampSlew_limits (i : Int) : -1000000 ≤ clampSlew i ∧ clampSlew i ≤ 1000000 := by unfold clampSlew; omega

theorem startSlew_slewing {i : Int} (h : clampSlew i ≠ 0) (b : Nat) (t : TimeBase) : (startSlew i b t).slewing = true := by
  simp [startSlew, h]

/-- SLEWING of one die clears where its offset is zero, at a beat boundary. -/
def State.settleDie (s : State) (n d : Nat) : State := s.modDie d fun x => { x with tb := settleSlew n x.tb }

theorem each_settleDie {n : Nat} (l : List Nat) (s : State) (h : s.now = n) : each l s (fun s d => s.settleDie s.now d) = each l s fun s d => s.settleDie n d := by
  induction l generalizing s with
  | nil => rfl
  | cons d l ih =>
    rw [each_cons, each_cons, h]
    exact ih _ h

theorem slewComplete_eq (s : State) : slewComplete s = s.eachTb (settleSlew s.now) := each_settleDie dieList s rfl

theorem settleSlew_settled {n : Nat} {t : TimeBase} (hslew : t.slew = 0) (hbeat : tbCount n t % 4 = 0) : settleSlew n t = { t with slewing := false } :=
  if_pos (by rw [hslew, hbeat]; rfl)

theorem settleSlew_slewing {n : Nat} {t : TimeBase} (h : t.slew ≠ 0 ∨ tbCount n t % 4 ≠ 0) : settleSlew n t = t := by
  refine if_neg ?_
  obtain h | h := h <;> simp [h]

theorem settleSlew_frame (n : Nat) (t : TimeBase) : settleSlew n t = { t with slewing := (settleSlew n t).slewing } := by
  unfold settleSlew
  split <;> rfl

theorem slewIsWrittenAndAbsorbed : SlewIsWrittenAndAbsorbed := by
  intro s
  refine ⟨fun v => ?written, ?complete⟩
  case written =>
    have hdie {e : Nat} (he : e < 100) := s.writeSlew_die (toSigned 32 v.toNat) (isDie_of_lt he)
    refine runs_of_need rfl rfl ⟨fun e he => ?_, ?_, s.writeSlew_count _, State.eachTb_diesOnly _ _⟩
    · rw [hdie he, hdie (by decide)]
      exact ⟨rfl, (clampSlew_limits _).1, (clampSlew_limits _).2, rfl, fun h => startSlew_slewing h _ _, rfl, s.count_le_nextBoundary (isDie_of_lt he)⟩
    · rw [hdie (by decide)]
      exact s.nextBoundary_mod
  case complete =>
    refine runs_of_need rfl rfl ?_
    rw [slewComplete_eq]
    refine ⟨fun e he => ?_, State.eachTb_diesOnly _ _⟩
    rw [State.eachTb_die _ _ (isDie_of_lt he)]
    refine ⟨?_, fun hslew hbeat => ?_, fun h => ?_⟩
    · rw [← settleSlew_frame]
    · rw [settleSlew_settled hslew hbeat]
    · rw [settleSlew_slewing h]

/-! ## TB_COUNT by halves (R68) -/

/-- The high half of a die's count is latched for a requester. -/
def State.latchHigh (s : State) (d r : Nat) : State :=
  s.modDie d fun x => { x with tb := { x.tb with latch := tabSet x.tb.latch r (BitVec.ofNat 32 (s.count d / 2 ^ 32)) } }

theorem tbCountLowRead_die (d r : Nat) (s : State) (e : Nat) : (tbCountLowRead d r s).die e = (s.latchHigh d r).die e := State.die_of_dies rfl e

theorem State.latchHigh_die (s : State) (d r : Nat) :
    (s.latchHigh d r).die d = { s.die d with tb := { (s.die d).tb with latch := tabSet (s.die d).tb.latch r (BitVec.ofNat 32 (s.count d / 2 ^ 32)) } } := State.die_modDie _ _ _

theorem pairOfCountReadsNeverTears : PairOfCountReadsNeverTears := by
  intro d r s hd
  refine ⟨fun hsilent => runs_of_need rfl hd (if_pos hsilent), fun hready => ?_⟩
  refine runs_of_need (t := tbCountLowRead d r s) (congrArg (need (isDie d)) (if_neg (by rw [hready]; decide))) hd
    ⟨rfl, fun u hu => ?_, fun u q hq => ?_, fun e he => (tbCountLowRead_die d r s e).trans (othersSame_modDie s d _ e he), rfl⟩
  · have hhigh : s.count d / 2 ^ 32 < 2 ^ 32 := Nat.div_lt_of_lt_mul (s.count_lt d)
    rw [tbCountHigh, hu, tbCountLowRead_die, State.latchHigh_die, tabGet_tabSet_same, BitVec.toNat_ofNat, Nat.mod_eq_of_lt hhigh]
  · have hdie : ({ u with dies := (tbCountLowRead d r s).dies } : State).die d = (s.latchHigh d r).die d := State.die_of_dies rfl d
    have hcount : ({ u with dies := (tbCountLowRead d r s).dies } : State).count d = ({ u with dies := s.dies } : State).count d :=
      State.count_congr rfl (by rw [hdie, State.latchHigh_die]; rfl)
    rw [tbCountHigh, hcount, hdie, State.latchHigh_die, tabGet_tabSet_ne _ _ _ hq]
    rfl

/-- Settles O2: each die takes the offset written from the boundary that none has passed, and the high half latched at a read of the low half is that of the count answered. -/
theorem slewAndCountReads : Obligations.SlewAndCountReads := ⟨slewIsWrittenAndAbsorbed, pairOfCountReadsNeverTears⟩

end Sys2Proof.Machine
end

section
/-! SUPPORT. Proofs about the issue of bundles: rows fetched, bundles issued or found invalid, operations completed, and slot boundaries (R58, R137 to R145, R168, R173, R174, R258). -/

namespace Sys2Proof.Machine

/-! ## Rows (R137) -/

theorem scoreFetch_row {c : Nat} {s : State} (hctx : (s.core c).ctx.isSome = true) (hop : (s.die (c / 4)).curOp ≠ 0)
    (hlen : (s.core c).head + (s.core c).held.length < (s.core c).length)
    (hroom : (s.core c).held.length + (rowBundles s.mem c (s.core c) ((s.core c).head + (s.core c).held.length)).length ≤ 64) (hmarks : s.marks = []) :
    scoreFetch c s = s.modCore c fun y => { y with held := y.held ++ rowBundles s.mem c (s.core c) ((s.core c).head + (s.core c).held.length) } := by
  unfold scoreFetch
  dsimp only
  rw [if_neg (by simp [Option.isNone_eq_false_iff.mpr hctx, Nat.not_le.mpr hlen, hop]), if_neg (Nat.not_lt.mpr hroom), State.eccRead_clean hmarks]

/-! ## Unit queues (R141, R142) -/

theorem unitQueue_setUnitQueue (x : Core) (v : Nat) (q : List QEntry) {u : Nat} (hu : u < 6) :
    unitQueue (setUnitQueue x v q) u = if u = v then q else unitQueue x u := by
  match v with
  | 0 | 1 | 2 | 3 | 4 | 5 => interval_cases u <;> rfl
  | n + 6 => rw [if_neg (by omega)]; rfl

/-- An operation released stands at the end of its unit's queue (R142). -/
theorem length_unitQueue_releaseOne (bundle beat : Nat) (x : Core) (r : Nat × UnitOp) {u : Nat} (hu : u < 6) :
    (unitQueue (releaseOne bundle beat x r) u).length = (unitQueue x u).length + if r.1 == u then 1 else 0 := by
  have hqueue : unitQueue (releaseOne bundle beat x r) u =
      unitQueue (setUnitQueue x r.1 (unitQueue x r.1 ++ [{ op := r.2, bundle := bundle, beat := beat, seq := tabGet 0 x.released r.1 + 1 }])) u := by
    unfold releaseOne
    dsimp only
    split
    · split
      · split <;> rfl
      · rfl
    · rfl
  rw [hqueue, unitQueue_setUnitQueue _ _ _ hu]
  by_cases h : u = r.1
  · subst h; rw [if_pos rfl, List.length_append, if_pos (beq_self_eq_true _)]; rfl
  · rw [if_neg h, if_neg (by simpa using Ne.symm h), Nat.add_zero]

theorem length_unitQueue_releases (bundle beat : Nat) (l : List (Nat × UnitOp)) {u : Nat} (hu : u < 6) :
    ∀ x : Core, (unitQueue (l.foldl (releaseOne bundle beat) x) u).length = (unitQueue x u).length + (l.filter fun r => r.1 == u).length := by
  induction l with
  | nil => exact fun _ => rfl
  | cons r l ih =>
    intro x
    rw [List.foldl_cons, ih, length_unitQueue_releaseOne _ _ _ _ hu, List.filter_cons]
    split
    · rw [List.length_cons]; omega
    · rfl

theorem length_unitQueue_markLast (x : Core) (u : Nat) : (unitQueue (markLast x) u).length = (unitQueue x u).length := by
  have htally : (markLast x).tallyQ.length = x.tallyQ.length := by
    unfold markLast
    dsimp only
    cases h : x.tallyQ.reverse with
    | nil => rw [List.reverse_eq_nil_iff.mp h]
    | cons e t => rw [← List.length_reverse (as := x.tallyQ), h]; simp
  match u with
  | 4 => exact htally
  | 0 | 1 | 2 | 3 | 5 => rfl
  | n + 6 => rfl

theorem length_unitQueue_releaseBundle (x : Core) (l : List (Nat × UnitOp)) (beat : Nat) {u : Nat} (hu : u < 6) :
    (unitQueue (releaseBundle x l beat) u).length = (unitQueue x u).length + (l.filter fun r => r.1 == u).length := by
  rw [← length_unitQueue_releases x.head beat l hu x]
  have hqueue : unitQueue (releaseBundle x l beat) u =
      unitQueue (if l.any (fun e => e.1 == uTally) then markLast (l.foldl (releaseOne x.head beat) x) else l.foldl (releaseOne x.head beat) x) u := rfl
  rw [hqueue]
  split
  · exact length_unitQueue_markLast _ _
  · rfl

/-! ## The head bundle (R138 to R145, R174) -/

section
variable {c : Nat} {s : State} {w : BitVec 256} {l : List (BitVec 256)} (hissues : s.issues c = true) (hresolved : unresolved (s.core c) = false)
  (hlen : (s.core c).head < (s.core c).length) (hheld : (s.core c).held = w :: l)
include hissues hresolved hlen hheld

theorem bundleIssue_invalid {n : Nat} (h : headInvalid (s.core c) w = some n) : bundleIssue c s = s.scoreInvalid c (s.core c).head n := by
  unfold bundleIssue
  dsimp only
  rw [if_neg (by rw [hissues, hresolved]; decide), if_neg (Nat.not_le.mpr hlen), hheld]
  dsimp only
  rw [h]

theorem bundleIssue_due (hvalid : headInvalid (s.core c) w = none) (hdue : s.early c (issueBeat (s.core c) w) = false) :
    bundleIssue c s = issueHead c (issueBeat (s.core c) w) (decodeBundle (s.core c) (s.core c).head w) s := by
  have hbeat : s.headBeat c = issueBeat (s.core c) w := by rw [State.headBeat, State.headWord, hheld]
  unfold bundleIssue
  dsimp only
  rw [if_neg (by rw [hissues, hresolved]; decide), if_neg (Nat.not_le.mpr hlen), hheld]
  dsimp only
  rw [hvalid, hbeat]
  exact if_neg (by rw [hdue]; decide)

end

/-- A bundle with room in its units' queues, nothing pending and no wait issues within its window. -/
theorem issueHead_issues {c beat : Nat} {d : List (Nat × SlotOp)} {s : State} (hwait : waitOf d = none) (hfree : queuesFree (s.core c) (bundleOps d) = true)
    (hpending : readsPending (s.core c) d = false) (hwindow : s.pastWindow c beat = false) :
    issueHead c beat d s = s.setCore c (releaseBundle (s.core c) (releases d) beat) := by
  simp only [issueHead, hwait, hfree, hpending, hwindow, Bool.not_true, Bool.false_eq_true, if_false, Option.isSome_none, Bool.false_and]

theorem fetchAndIssue : FetchAndIssue := by
  refine ⟨fun c s hc hctx hop hmarks hlen hroom => ?fetches, fun c s w l d hc hissues hresolved hlen hheld hvalid hd hwait hfree hpending hdue hwindow => ?issues,
    fun c s w l n hc hissues hresolved hlen hheld hinvalid hroom => ?invalid⟩
  case fetches =>
    refine runs_of_need rfl hc ?_
    rw [scoreFetch_row hctx hop hlen hroom hmarks]
    exact ⟨by rw [State.core_modCore], by rw [State.core_modCore], rfl⟩
  case issues =>
    subst hd
    refine runs_of_need rfl hc ?_
    rw [bundleIssue_due hissues hresolved hlen hheld hvalid hdue, issueHead_issues hwait hfree hpending hwindow]
    refine ⟨?_, ?_, ?_, fun u hu => ?_, fun e he => State.core_setCore_ne _ _ he, rfl⟩ <;> rw [State.core_setCore]
    · rfl
    · change (s.core c).held.drop 1 = l
      rw [hheld]
      rfl
    · rfl
    · exact length_unitQueue_releaseBundle _ _ _ hu
  case invalid =>
    obtain ⟨m, ⟨r, hrec, hr⟩, hraise⟩ := s.raise_room (c / 4) fScoreInvalid (s.coreCtxs c) (le 1 (c % 4) ++ le 4 (s.core c).head ++ le 4 n) hroom
    have hrun : bundleIssue c s = (s.setDie (c / 4) { s.die (c / 4) with ledger := m }).modCore c fun x => { x with stopped := true } := by
      rw [bundleIssue_invalid hissues hresolved hlen hheld hinvalid, State.scoreInvalid, hraise]
    have hdie : (bundleIssue c s).die (c / 4) = { s.die (c / 4) with ledger := m } := by rw [hrun]; exact State.die_setDie _ _ _
    refine runs_of_need rfl hc ⟨⟨r, by rw [hdie]; exact hrec, hr⟩, ?_, fun e he => ?_, ?_⟩
    · rw [hrun, State.core_modCore]; rfl
    · rw [hrun, State.core_modCore_ne _ _ he]; rfl
    · rw [hrun]; rfl

/-! ## Completion (R168, R173) -/

/-- From `s` to `t` a core has been served, with no change to its queues, registers and completion numbers, and no other core has changed. -/
def coreServed (s t : State) (c : Nat) : Prop :=
  ((∀ u, unitQueue (t.core c) u = unitQueue (s.core c) u) ∧ (t.core c).completed = (s.core c).completed ∧ (t.core c).regs = (s.core c).regs ∧
    ((s.core c).progress = true → (t.core c).progress = true)) ∧ ∀ d, d ≠ c → t.core d = s.core d

theorem coreServed_of_cores {s t : State} (h : t.cores = s.cores) (c : Nat) : coreServed s t c := by
  have hcore := State.core_of_cores h
  exact ⟨⟨fun u => by rw [hcore], by rw [hcore], by rw [hcore], by rw [hcore]; exact id⟩, fun d _ => hcore d⟩

theorem coreServed_trans {s t u : State} {c : Nat} (hst : coreServed s t c) (htu : coreServed t u c) : coreServed s u c := by
  obtain ⟨⟨hqueue, hcompleted, hregs, hprogress⟩, hother⟩ := hst
  obtain ⟨⟨hqueue', hcompleted', hregs', hprogress'⟩, hother'⟩ := htu
  exact ⟨⟨fun v => (hqueue' v).trans (hqueue v), hcompleted'.trans hcompleted, hregs'.trans hregs, fun h => hprogress' (hprogress h)⟩, fun d hd => (hother' d hd).trans (hother d hd)⟩

theorem State.progressed_core (s : State) (c d : Nat) : (s.progressed c).core d = (s.modCore c fun x => { x with progress := true }).core d :=
  State.core_of_cores (State.modCtx_cores _ _ _) d

theorem coreServed_progressed (s : State) (c : Nat) : coreServed s (s.progressed c) c := by
  refine ⟨?_, fun d hd => by rw [State.progressed_core, State.core_modCore_ne _ _ hd]⟩
  rw [State.progressed_core, State.core_modCore]
  exact ⟨fun _ => rfl, rfl, rfl, fun _ => rfl⟩

theorem coreServed_setEng (s : State) (c e : Nat) (g : Engine) : coreServed s (s.setCore c (setEng (s.core c) e g)) c := by
  refine ⟨?_, fun d hd => State.core_setCore_ne _ _ hd⟩
  rw [State.core_setCore]
  unfold setEng
  split <;> exact ⟨fun _ => rfl, rfl, rfl, id⟩

theorem coreServed_expander (s : State) (c e : Nat) : coreServed s (s.expander c e) c := by
  unfold State.expander
  dsimp only
  have hserved {t : State} (l : List (QRef × Bool)) (h : coreServed s t c) : coreServed s (each l t tableServed) c :=
    coreServed_trans h (coreServed_of_cores (each_cores _ (fun t r => t.modQueue_cores _ _) l t) c)
  split
  · exact hserved _ (coreServed_setEng s c e _)
  · exact coreServed_trans (hserved _ (coreServed_setEng s c e _)) (coreServed_progressed _ c)

theorem State.pump_cores (s : State) (f : Nat) : (s.pump f).cores = s.cores := by
  unfold State.pump
  split
  · rfl
  · dsimp only
    split
    · rfl
    · exact State.post_cores _ _ _

theorem coreServed_pumpCtx (s : State) (c k : Nat) : coreServed s (s.pumpCtx k) c := coreServed_of_cores (each_cores _ State.pump_cores _ s) c

/-- A core whose unit's head has left its queue (R168). -/
def headLeft (x : Core) (u : Nat) (e : QEntry) (q : List QEntry) : Core :=
  endPending e { setUnitQueue x u q with completed := tabSet x.completed u (tabGet 0 x.completed u + 1) }

theorem headLeft_core (x : Core) {u : Nat} (hu : u < 6) (e : QEntry) (q : List QEntry) :
    unitQueue (headLeft x u e q) u = q ∧ (headLeft x u e q).completed = tabSet x.completed u (tabGet 0 x.completed u + 1) ∧ (headLeft x u e q).regs = x.regs := by
  have hend (y : Core) : ∃ p, endPending e y = { y with pendWrites := p } := by
    unfold endPending
    split
    · split
      · split
        · exact ⟨_, rfl⟩
        · exact ⟨_, rfl⟩
      · exact ⟨_, rfl⟩
    · exact ⟨_, rfl⟩
  have hset : (setUnitQueue x u q).regs = x.regs := by
    unfold setUnitQueue
    split <;> rfl
  obtain ⟨p, hp⟩ := hend { setUnitQueue x u q with completed := tabSet x.completed u (tabGet 0 x.completed u + 1) }
  unfold headLeft
  rw [hp]
  exact ⟨(unitQueue_setUnitQueue x u q hu).trans (if_pos rfl), rfl, hset⟩

theorem completeHead_served {s : State} {c u : Nat} {e : QEntry} {q : List QEntry} (hq : unitQueue (s.core c) u = e :: q) :
    coreServed ((s.setCore c (headLeft (s.core c) u e q)).progressed c) (s.completeHead c u) c := by
  unfold State.completeHead
  dsimp only
  rw [hq]
  dsimp only
  split
  · exact coreServed_expander _ _ _
  · exact coreServed_of_cores rfl c

theorem endHead_served {s : State} {c u : Nat} {e : QEntry} {q : List QEntry} (hq : unitQueue (s.core c) u = e :: q) :
    coreServed ((s.setCore c (headLeft (s.core c) u e q)).progressed c) (s.endHead c u) c := by
  unfold State.endHead
  dsimp only
  split
  · exact coreServed_trans (completeHead_served hq) (coreServed_pumpCtx _ _ _)
  · exact completeHead_served hq

theorem operationCompletes : OperationCompletes := by
  intro c u s e q hc hu hq hdone hacks hop
  have hrun : operationComplete c u s = s.endHead c u := by
    unfold operationComplete
    rw [hq]
    exact if_neg (by simp [hdone, hacks, hop])
  obtain ⟨⟨hqueue, hcompleted, hregs, hprogress⟩, hother⟩ := endHead_served hq
  rw [State.progressed_core, State.core_modCore, State.core_setCore] at hcompleted hregs hprogress
  obtain ⟨hleft, hcount, hreg⟩ := headLeft_core (s.core c) hu e q
  refine runs_of_need rfl (by rw [hc, decide_eq_true hu]; rfl) ?_
  rw [hrun]
  refine ⟨?_, ?_, hprogress rfl, fun j => ?_, fun d hd => ?_⟩
  · rw [hqueue, State.progressed_core, State.core_modCore, State.core_setCore]; exact hleft
  · rw [hcompleted]; exact (congrArg (tabGet 0 · u) hcount).trans (tabGet_tabSet_same _ _ _ _)
  · unfold reg; rw [hregs]; exact congrArg (fun r => if j = 0 then 0 else tabGet 0 r j) hreg
  · rw [hother d hd, State.progressed_core, State.core_modCore_ne _ _ hd, State.core_setCore_ne _ _ hd]

/-! ## Slot boundaries (R58, R258) -/

theorem slotBoundaryFindsLateOperations : SlotBoundaryFindsLateOperations := by
  intro c u b s hc hu hsched
  have hunit : (isCore c && decide (u < 6)) = true := by rw [hc, decide_eq_true hu]; rfl
  refine ⟨fun hlate hroom => ?late, fun hended hunit' => ?ended⟩
  case late =>
    obtain ⟨e, he, hbundle, hhalted⟩ := hlate
    obtain ⟨x, hx⟩ : ∃ x, ((unitQueue (s.core c) u ++ (if u = uTally then (s.core c).delayed else [])).find? fun e => e.bundle == b && !e.halted) = some x :=
      Option.isSome_iff_exists.mp (List.find?_isSome.mpr ⟨e, he, by rw [hbundle, hhalted]; simp⟩)
    have hrun : slotBoundary c u b s = s.slotLate c x.beat (r49Held (s.die (c / 4)) (s.coreGrid c) x.beat) := by
      unfold slotBoundary
      dsimp only
      rw [hsched, if_neg (by decide), hx]
    refine runs_of_need rfl hunit ?_
    rw [hrun]
    exact s.raised_raise _ _ _ _ hroom
  case ended =>
    have hnone : ((unitQueue (s.core c) u ++ (if u = uTally then (s.core c).delayed else [])).find? fun e => e.bundle == b && !e.halted) = none := by
      rw [if_neg hunit', List.append_nil]
      refine List.find?_eq_none.mpr fun e he => ?_
      obtain h | h := hended e he <;> simp [h]
    refine runs_of_need rfl hunit ?_
    unfold slotBoundary
    dsimp only
    rw [hsched, if_neg (by decide), hnone]
    exact if_neg (by simp [hunit'])

/-- Settles O6: issue appends each released operation to its own unit's queue, completion takes the head alone, and a boundary asks one question of the queue that it looks at. -/
theorem bundlesIssueAndSlotsEnd : Obligations.BundlesIssueAndSlotsEnd := ⟨fetchAndIssue, operationCompletes, slotBoundaryFindsLateOperations⟩

end Sys2Proof.Machine
end

section
/-! SUPPORT. Proofs about the last phases of start-up: the cellar, the host links and the epoch check (R64, R266, R282, R346, R552, R556 to R558). -/

namespace Sys2Proof.Machine

/-! ## Modules (R266) -/

theorem ite_some_eq_none {α : Type} {c : Prop} [Decidable c] {a : α} {r : Option α} : (if c then some a else r) = none ↔ ¬c ∧ r = none := by
  split <;> simp [*]

theorem moduleFault_none_iff (m : ModuleRead) : moduleFault m = none ↔
    m.answers = true ∧ m.checksum = true ∧ m.mrdimm = true ∧ m.gib = 64 ∧ m.mts = 12800 ∧ (m.subChannels = 2 ∧ m.dataBits = 32 ∧ m.checkBits = 8) ∧
      m.deviceBits = 4 ∧ m.deviceGbit = 16 ∧ m.ranks = 2 ∧ m.devices = 20 := by
  unfold moduleFault
  simp only [ite_some_eq_none, Bool.not_eq_true, Bool.not_eq_false', Bool.or_eq_false_iff, bne_eq_false_iff_eq, and_true, and_assoc]

theorem modulePasses_iff (m : ModuleRead) : modulePasses m = true ↔ moduleFault m = none ∧ m.trainFails ≤ 3 := by
  rw [modulePasses, Bool.and_eq_true, Option.isNone_iff_eq_none, decide_eq_true_eq]

/-! ## The cellar (R282, R556) -/

theorem cellarBringup_out {l : List ModuleRead} {s : State} (h : s.inPhase 6 = false ∨ s.holder = none) : cellarBringup l s = s := by
  refine if_pos ?_
  obtain h | h := h <;> simp [h]

/-- Every module is read. -/
def State.readModules (s : State) (l : List ModuleRead) : State := each (List.range 48) s fun s c => s.readModule c (moduleOf l c)

/-- A channel trains and becomes ACTIVE. -/
def State.channelUp (s : State) (c : Nat) : State := (s.channelTo c .training).channelTo c .active

/-- The channels of a list become ACTIVE, those of another FAILED. -/
def State.channelsStart (s : State) (good bad : List Nat) : State := each bad (each good s State.channelUp) State.channelDown

theorem cellarBringup_eq {l : List ModuleRead} {s : State} (hphase : s.inPhase 6 = true) (hholder : s.holder.isSome = true) : cellarBringup l s =
    { (s.readModules l).channelsStart ((List.range 48).filter (s.channelGood l)) ((List.range 48).filter fun c => !s.channelGood l c) with owners := [], written := [], phase := 7 } := by
  unfold cellarBringup
  rw [if_neg (by rw [hphase, Option.isNone_eq_false_iff.mpr hholder]; decide)]
  rfl

/-- What the start of the cellar leaves as it is. -/
def cellarParts (s : State) : Memory × Option Nat := (s.mem, s.holder)

theorem State.readModule_cellarParts (s : State) (c : Nat) (m : ModuleRead) : cellarParts (s.readModule c m) = cellarParts s := by
  unfold State.readModule
  dsimp only
  split <;> rfl

theorem State.failedFrames_cellarParts (s : State) (c : Nat) : cellarParts (s.failedFrames c) = cellarParts s := by
  rw [s.failedFrames_framesOnly c]
  rfl

theorem State.channelDown_cellarParts (s : State) (c : Nat) : cellarParts (s.channelDown c) = cellarParts s := by
  unfold State.channelDown
  rw [State.failedFrames_cellarParts]
  split <;> rfl

theorem State.channelsStart_cellarParts (s : State) (good bad : List Nat) : cellarParts (s.channelsStart good bad) = cellarParts s :=
  (each_same cellarParts _ State.channelDown_cellarParts bad _).trans (each_same cellarParts State.channelUp (fun _ _ => rfl) good s)

/-! ### What happens to the channels -/

theorem State.channelTo_channel (s : State) (b c : Nat) (st : ChSt) :
    (s.channelTo b st).channel c = if c = b then { s.channel c with st := st } else s.channel c := by
  unfold State.channelTo
  split
  next h => subst h; rw [State.channel_modChannel]; rfl
  next h => rw [State.channel_modChannel_ne _ _ h]; rfl

theorem State.readModule_channel (s : State) (b c : Nat) (m : ModuleRead) :
    (s.readModule b m).channel c = if c = b then { s.channel c with module := m, resetN := false, clocksOff := false } else s.channel c := by
  have hread : (s.readModule b m).channel c = (s.modChannel b fun x => { x with module := m, resetN := false, clocksOff := false }).channel c := by
    unfold State.readModule
    dsimp only
    split <;> rfl
  rw [hread]
  split
  next h => subst h; rw [State.channel_modChannel]
  next h => rw [State.channel_modChannel_ne _ _ h]

theorem State.remapTo_channels (s : State) (k : Nat) (l : List Nat) : ((s.remapTo k l).getD s).channels = s.channels := by
  unfold State.remapTo
  split
  · rfl
  · cases (l.filterMap fun ch => (s.freeSpare ch).map fun i => (ch, i)).head? <;> rfl

theorem State.failedFrames_channel (s : State) (b c : Nat) : (s.failedFrames b).channel c = { s.channel c with unmappedFrames := ((s.failedFrames b).channel c).unmappedFrames } := by
  unfold State.failedFrames
  split
  · have hsame : (s.remapAll b).channels = s.channels := each_same State.channels _ (fun t p => t.remapTo_channels _ _) _ s
    unfold State.channel
    rw [hsame]
  · by_cases h : c = b
    · subst h; rw [State.channel_modChannel]
    · rw [State.channel_modChannel_ne _ _ h]

theorem State.channelDown_channel (s : State) (b c : Nat) :
    ((s.channelDown b).channel c).module = (s.channel c).module ∧ ((s.channelDown b).channel c).st = if c = b then .failed else (s.channel c).st := by
  unfold State.channelDown
  rw [State.failedFrames_channel]
  split
  next hfailed =>
    refine ⟨rfl, ?_⟩
    split
    next h => subst h; exact hfailed
    next => rfl
  next =>
    dsimp only
    rw [State.channelTo_channel]
    split <;> exact ⟨rfl, rfl⟩

theorem State.channelUp_channel (s : State) (b c : Nat) :
    ((s.channelUp b).channel c).module = (s.channel c).module ∧ ((s.channelUp b).channel c).st = if c = b then .active else (s.channel c).st := by
  unfold State.channelUp
  rw [State.channelTo_channel, State.channelTo_channel]
  split <;> exact ⟨rfl, rfl⟩

/-- Where each update of a fold gives its own channel a value, and no other channel, the channels named have it. -/
theorem each_channel {α : Type} (g : Channel → α) (f : State → Nat → State) (v : α) (c : Nat) (hf : ∀ s b, g ((f s b).channel c) = if c = b then v else g (s.channel c))
    (l : List Nat) (s : State) : g ((each l s f).channel c) = if c ∈ l then v else g (s.channel c) := by
  induction l generalizing s with
  | nil => rfl
  | cons b l ih =>
    rw [each_cons, ih, hf]
    by_cases hl : c ∈ l
    · rw [if_pos hl, if_pos (List.mem_cons_of_mem _ hl)]
    · rw [if_neg hl]
      simp only [List.mem_cons, hl, or_false]

theorem State.channelsStart_st (s : State) (good bad : List Nat) (c : Nat) :
    ((s.channelsStart good bad).channel c).st = if c ∈ bad then .failed else if c ∈ good then .active else (s.channel c).st := by
  unfold State.channelsStart
  rw [each_channel (·.st) _ .failed c fun t b => (t.channelDown_channel b c).2, each_channel (·.st) _ .active c fun t b => (t.channelUp_channel b c).2]

theorem State.channelsStart_module (s : State) (good bad : List Nat) (c : Nat) : ((s.channelsStart good bad).channel c).module = (s.channel c).module :=
  (each_same (fun t : State => (t.channel c).module) _ (fun t b => (t.channelDown_channel b c).1) bad _).trans
    (each_same (fun t : State => (t.channel c).module) _ (fun t b => (t.channelUp_channel b c).1) good s)

theorem mem_channels {c : Nat} : c ∈ List.range 48 ↔ isChannel c = true := by simp [isChannel]

theorem State.readModules_module (s : State) (l : List ModuleRead) {c : Nat} (hc : isChannel c = true) : ((s.readModules l).channel c).module = moduleOf l c := by
  refine (each_channel (·.module) _ (moduleOf l c) c (fun t b => ?_) (List.range 48) s).trans (if_pos (mem_channels.mpr hc))
  rw [State.readModule_channel]
  split
  next h => rw [h]
  next => rfl

theorem State.channelGood_iff (s : State) (l : List ModuleRead) (c : Nat) : s.channelGood l c = true ↔
    modulePasses (moduleOf l c) = true ∧ (s.die (68 + c / 4)).failed = none ∧ (tabGet none s.fwRunning 4).isSome = true := by
  simp only [State.channelGood, Bool.and_eq_true, Option.isNone_iff_eq_none, and_assoc]

section
variable {l : List ModuleRead} {s : State} (hphase : s.inPhase 6 = true) (hholder : s.holder.isSome = true)
include hphase hholder

theorem cellarBringup_parts : (cellarBringup l s).mem = s.mem ∧ (cellarBringup l s).holder = s.holder := by
  rw [cellarBringup_eq hphase hholder]
  refine Prod.mk.inj (?_ : cellarParts _ = cellarParts s)
  exact (State.channelsStart_cellarParts _ _ _).trans (each_same cellarParts _ (fun t c => t.readModule_cellarParts c _) _ s)

theorem cellarBringup_module {c : Nat} (hc : isChannel c = true) : ((cellarBringup l s).channel c).module = moduleOf l c := by
  rw [cellarBringup_eq hphase hholder]
  exact (State.channelsStart_module _ _ _ c).trans (s.readModules_module l hc)

theorem cellarBringup_st {c : Nat} (hc : isChannel c = true) : ((cellarBringup l s).channel c).st = if s.channelGood l c then .active else .failed := by
  rw [cellarBringup_eq hphase hholder]
  refine (State.channelsStart_st _ _ _ c).trans ?_
  simp only [List.mem_filter, mem_channels, hc, true_and]
  cases s.channelGood l c <;> rfl

end

/-! ## Host links (R346, R552, R558) -/

theorem hostLinkStart_out {a b : Bool} {s : State} (h : s.inPhase 7 = false ∨ s.holder = none) : hostLinkStart a b s = s := by
  refine if_pos ?_
  obtain h | h := h <;> simp [h]

/-- A front end is ready: its link trained, its die stands and its image runs. -/
def State.frontEnd (s : State) (p : Nat) (ok : Bool) : Bool := ok && (s.die (96 + p)).failed.isNone && (tabGet none s.fwRunning 2).isSome

/-- Both front ends as start-up leaves them. -/
def State.frontEnds (s : State) (a b : Bool) : State := (s.modHp 0 fun h => { h with ready := s.frontEnd 0 a }).modHp 1 fun h => { h with ready := s.frontEnd 1 b }

theorem hostLinkStart_eq {a b : Bool} {s : State} (hphase : s.inPhase 7 = true) (hholder : s.holder.isSome = true) :
    hostLinkStart a b s = if s.frontEnd 0 a || s.frontEnd 1 b then { s.frontEnds a b with phase := 8 } else { s.frontEnds a b with halted := true } :=
  if_neg (by rw [hphase, Option.isNone_eq_false_iff.mpr hholder]; decide)

theorem cellarAndHostLinksStart : CellarAndHostLinksStart := by
  refine ⟨fun m => ?passes, fun l s hl => ⟨fun h => runs_of_need rfl hl (cellarBringup_out h), fun hphase hholder => ?cellar⟩,
    fun a b s => ⟨fun h => runs_of_need rfl rfl (hostLinkStart_out h), fun hphase hholder => ?links⟩⟩
  case passes =>
    rw [modulePasses_iff, moduleFault_none_iff]
    simp only [and_assoc]
  case cellar =>
    obtain ⟨hmem, hheld⟩ := cellarBringup_parts (l := l) hphase hholder
    refine runs_of_need rfl hl ⟨?_, fun g => ?_, hmem, hheld, fun c hc => ⟨cellarBringup_module hphase hholder hc, fun hpass hdie himage => ?_, fun hbad => ?_⟩⟩
    · rw [cellarBringup_eq hphase hholder]
    · rw [cellarBringup_eq hphase hholder]; rfl
    · rw [cellarBringup_st hphase hholder hc, if_pos ((s.channelGood_iff l c).mpr ⟨hpass, hdie, himage⟩)]
    · rw [cellarBringup_st hphase hholder hc, if_neg]
      rw [State.channelGood_iff]
      rintro ⟨hpass, hdie, himage⟩
      obtain h | h | h := hbad
      · exact absurd (h.symm.trans hpass) (by decide)
      · exact absurd (hdie ▸ h) (by decide)
      · exact absurd (h ▸ himage) (by decide)
  case links =>
    refine runs_of_need rfl rfl ?_
    rw [hostLinkStart_eq hphase hholder]
    cases hready : s.frontEnd 0 a || s.frontEnd 1 b with
    | true =>
      obtain h | h := Bool.or_eq_true_iff.mp hready
      · exact ⟨rfl, rfl, fun _ => ⟨rfl, halted_of_inPhase (s := s) hphase⟩, fun h0 => absurd (h0.symm.trans h) (by decide), rfl⟩
      · exact ⟨rfl, rfl, fun _ => ⟨rfl, halted_of_inPhase (s := s) hphase⟩, fun _ h1 => absurd (h1.symm.trans h) (by decide), rfl⟩
    | false =>
      obtain ⟨h0, h1⟩ := Bool.or_eq_false_iff.mp hready
      exact ⟨rfl, rfl, fun h => by obtain h | h := h; exacts [absurd (h0.symm.trans h) (by decide), absurd (h1.symm.trans h) (by decide)], fun _ _ => ⟨phase_of_inPhase (s := s) hphase, rfl⟩, rfl⟩

/-! ## The epoch check (R64, R557) -/

theorem epochCheck_out {s : State} (h : s.inPhase 8 = false ∨ s.holder = none ∨ s.epochBad = true ∨ ∃ d, isDie d = true ∧ (s.die d).tb.epochSet = false) : epochCheck s = s := by
  refine if_pos ?_
  obtain h | h | h | ⟨d, hd, hset⟩ := h
  · simp [h]
  · simp [h]
  · simp [h]
  · have hall : (dieList.all fun d => (s.die d).tb.epochSet) = false := List.all_eq_false.mpr ⟨d, mem_dieList.mpr hd, by simp [hset]⟩
    rw [hall]
    exact Bool.or_true _

section
variable {s : State} (hphase : s.inPhase 8 = true) (hgood : s.epochBad = false) (hholder : s.holder.isSome = true) (hset : ∀ d, isDie d = true → (s.die d).tb.epochSet = true)
include hphase hgood hholder hset

theorem epochCheck_asks : ¬(!s.inPhase 8 || s.epochBad || s.holder.isNone || !(dieList.all fun d => (s.die d).tb.epochSet)) = true := by
  have hall : (dieList.all fun d => (s.die d).tb.epochSet) = true := List.all_eq_true.mpr fun d hd => hset d (mem_dieList.mp hd)
  rw [hphase, hgood, Option.isNone_eq_false_iff.mpr hholder, hall]
  decide

theorem epochCheck_agree (h : s.epochDiffers = none) : epochCheck s = ({ s with phase := 0, service := .normal } : State).causeService := by
  unfold epochCheck
  rw [if_neg (epochCheck_asks hphase hgood hholder hset), h]

theorem epochCheck_differ {d : Nat} (h : s.epochDiffers = some d) : epochCheck s = ({ s with epochBad := true } : State).note s.keeperDie 0x03 64 noCtx (le 1 d) := by
  unfold epochCheck
  rw [if_neg (epochCheck_asks hphase hgood hholder hset), h]

end

/-- A die agrees with those before it where each of them loaded the epoch it did. -/
theorem agrees_iff {s : State} {d : Nat} :
    (!((List.range d).all fun e => sameLoad (s.die e).tb (s.die d).tb)) = false ↔ ∀ e, e < d → sameLoad (s.die e).tb (s.die d).tb = true := by
  rw [Bool.not_eq_false', List.all_eq_true]
  simp only [List.mem_range]

theorem State.epochDiffers_none {s : State} (h : ∀ d e, isDie d = true → isDie e = true → sameLoad (s.die e).tb (s.die d).tb = true) : s.epochDiffers = none := by
  refine List.find?_eq_none.mpr fun d hd => Bool.not_eq_true _ ▸ agrees_iff.mpr fun e he => ?_
  have hdie := mem_dieList.mp hd
  exact h d e hdie (decide_eq_true (he.trans (of_decide_eq_true hdie)))

theorem State.epochDiffers_first {s : State} {d : Nat} (hd : isDie d = true) (hdiffers : ∃ e, e < d ∧ sameLoad (s.die e).tb (s.die d).tb = false)
    (hfirst : ∀ f, f < d → ∀ e, e < f → sameLoad (s.die e).tb (s.die f).tb = true) : s.epochDiffers = some d := by
  refine List.find?_range_eq_some.mpr ⟨?_, mem_dieList.mpr hd, fun f hf => ?_⟩
  · rw [← Bool.not_eq_false, agrees_iff]
    obtain ⟨e, he, hne⟩ := hdiffers
    intro hall
    exact absurd (hne.symm.trans (hall e he)) (by decide)
  · rw [agrees_iff.mpr (hfirst f hf)]
    rfl

/-- An entry whose DETAIL fits one entry stands in the ring with that DETAIL. -/
theorem State.note_stands (s : State) (d kind code ctx : Nat) {detail : List Byte} (h : detail.length ≤ 40) :
    ∃ e ∈ ((s.note d kind code ctx detail).die d).ledger.ring, e.kind = kind ∧ e.code = code ∧ e.detail = detail := by
  unfold State.note State.ledgerEntry
  rw [State.die_modDie]
  dsimp only
  rw [if_pos h]
  exact standsNearEnd_mem (standsNearEnd_last _ ⟨rfl, rfl, List.take_of_length_le h⟩)

theorem epochsAreChecked : EpochsAreChecked := by
  intro s
  refine ⟨fun h => runs_of_need rfl rfl (epochCheck_out h), fun hphase hgood hholder hset => ⟨fun hagree => ?agree, fun d hd hdiffers hfirst => ?differ⟩⟩
  case agree =>
    have hrun := epochCheck_agree hphase hgood hholder hset (State.epochDiffers_none hagree)
    have hports := State.causeService_portsOnly { s with phase := 0, service := .normal }
    obtain ⟨hhost0, hhost1⟩ := State.causeService_hosts { s with phase := 0, service := .normal }
    rw [← hrun] at hports hhost0 hhost1
    refine runs_of_need rfl rfl ⟨?_, ?_, hhost0, hhost1, ?_, ?_⟩ <;> rw [hports]
  case differ =>
    have hrun := epochCheck_differ hphase hgood hholder hset (State.epochDiffers_first hd hdiffers hfirst)
    refine runs_of_need rfl rfl ?_
    rw [hrun]
    exact ⟨phase_of_inPhase (s := s) hphase, rfl, rfl, fun f => State.note_tb _ _ _ _ _ _ _, fun f => ((keepersOnly_note _ _ _ _ _ _).2 f).2, State.note_stands _ _ _ _ _ (by rw [length_le]; decide)⟩

/-- Settles O53: each channel and each front end gets its outcome from its own step of the fold over start-up, and the epoch check asks for the first die whose load differs. -/
theorem serviceBegins : Obligations.ServiceBegins := ⟨cellarAndHostLinksStart, epochsAreChecked⟩

end Sys2Proof.Machine
end

section
/-! SUPPORT. Proofs about the count that passes while no command waits (R62, R69, R70). -/

namespace Sys2Proof.Machine

/-! ## What a count keeps -/

/-- What no part of a count but the time bases' own advance moves. -/
def idleParts (s : State) : List Instr × Nat × Memory × Memory × Tab (Option Queue) × Pins × Nat × (Nat → TimeBase) :=
  (s.pending, s.now, s.mem, s.hostMem, s.queues, s.pins, s.phase, fun d => (s.die d).tb)

/-- What spinning and sending leave as it is too. -/
def sendParts (s : State) := (idleParts s, s.contexts, s.frames, s.channels)

theorem idleParts_of_sendParts {s t : State} (h : sendParts t = sendParts s) : idleParts t = idleParts s := congrArg Prod.fst h

/-- A change of the dies that leaves their time bases. -/
theorem sendParts_of_diesOnly {s t : State} (h : diesOnly s t) (htb : ∀ d, (t.die d).tb = (s.die d).tb) : sendParts t = sendParts s := by
  have hall : (fun d => (t.die d).tb) = fun d => (s.die d).tb := funext htb
  unfold sendParts idleParts
  rw [hall, h]

theorem sendParts_modDie (s : State) (d : Nat) {f : Die → Die} (h : ∀ x, (f x).tb = x.tb) : sendParts (s.modDie d f) = sendParts s := by
  refine sendParts_of_diesOnly rfl fun e => ?_
  by_cases he : e = d
  · subst he; rw [State.die_modDie, h]
  · rw [State.die_modDie_ne _ _ he]

theorem sendParts_note (s : State) (d kind code ctx : Nat) (detail : List Byte) : sendParts (s.note d kind code ctx detail) = sendParts s :=
  sendParts_of_diesOnly rfl fun e => s.note_tb d e kind code ctx detail

theorem served_tb {s t : State} (h : served s t) (d : Nat) : (t.die d).tb = (s.die d).tb := by rw [h.2 d]

theorem sendParts_perfAdd (s : State) (d i n : Nat) : sendParts (s.perfAdd d i n) = sendParts s :=
  sendParts_of_diesOnly (s.perfAdd_diesOnly d i n) (served_tb (served_perfAdd s d i n))

theorem sendParts_perfUnits (s : State) (d i u n : Nat) : sendParts (s.perfUnits d i u n) = sendParts s :=
  sendParts_of_diesOnly (s.perfUnits_diesOnly d i u n) (served_tb (served_perfUnits s d i u n))

theorem sendParts_spin (s : State) : sendParts s.spin = sendParts s := each_same sendParts _ (fun t _ => sendParts_perfUnits t _ _ _ _) _ s

/-! ## Frames sent (R408, R432, R449) -/

theorem sendParts_onLanes (s : State) (p : Nat) (f : Frame) : sendParts (s.onLanes p f) = sendParts s := by
  unfold State.onLanes
  split <;> rfl

theorem sendParts_sendReordered (s : State) (p : Nat) : sendParts (s.sendReordered p) = sendParts s := by
  unfold State.sendReordered
  split
  · exact sendParts_onLanes _ _ _
  · rfl

theorem sendParts_ite {c : Prop} [Decidable c] {s t u : State} (ht : sendParts t = sendParts s) (hu : sendParts u = sendParts s) :
    sendParts (if c then t else u) = sendParts s := by
  split
  · exact ht
  · exact hu

theorem sendParts_injects (s : State) (p : Nat) (rx : Bool) (f : Frame) : sendParts (s.injects p rx f).1 = sendParts s := by
  unfold State.injects
  dsimp only
  split
  · exact sendParts_ite (sendParts_note _ _ _ _ _ _) rfl
  · rfl

theorem sendParts_sendRaw (s : State) (p : Nat) (f : Frame) : sendParts (s.sendRaw p f) = sendParts s := by
  have hout (t : State) (g : Frame) : sendParts ((t.onLanes p g).sendReordered p) = sendParts t := (sendParts_sendReordered _ _).trans (sendParts_onLanes _ _ _)
  refine Eq.trans ?_ (sendParts_injects s p false f)
  unfold State.sendRaw
  dsimp only
  split
  · split
    · exact sendParts_sendReordered _ _
    · exact hout _ _
    · exact sendParts_sendReordered _ _
    · exact hout _ _
  · exact hout _ _

theorem sendParts_sendSeq (s : State) (p ftype cls len : Nat) (payload : List Byte) : sendParts (s.sendSeq p ftype cls len payload) = sendParts s :=
  (sendParts_sendRaw _ _ _).trans (sendParts_perfAdd _ _ _ _)

theorem sendParts_transmit (s : State) (p : Nat) : sendParts (s.transmit p) = sendParts s := by
  unfold State.transmit
  dsimp only
  split
  · rfl
  · split
    · rfl
    · exact sendParts_sendSeq _ _ _ _ _ _

/-! ## The next frame of a drain (R275, R278) -/

theorem idleParts_of_framesOnly {s t : State} (h : framesOnly s t) : idleParts t = idleParts s := by
  rw [h]; rfl

theorem idleParts_of_served {s t : State} (h : served s t) : idleParts t = idleParts s := by
  have hall : (fun d => (t.die d).tb) = fun d => (s.die d).tb := funext (served_tb h)
  unfold idleParts
  rw [hall, h.1]

/-- A record that faults no job is held, or waits for room: no context is stopped. -/
theorem sendParts_raiseTo (s : State) (d code : Nat) (ctxs : List Nat) (driver : Bool) (detail : List Byte) :
    sendParts (s.raiseTo d code ctxs false driver detail) = sendParts s := by
  refine Eq.trans ?_ (sendParts_note s d 0x01 code (oneCtx ctxs) detail)
  unfold State.raiseTo State.holdRec
  dsimp only
  split
  · exact sendParts_modDie _ _ fun _ => rfl
  · rw [if_neg (by decide)]
    exact sendParts_modDie _ _ fun _ => rfl

theorem idleParts_modCtx (s : State) (c : Nat) (f : Context → Context) : idleParts (s.modCtx c f) = idleParts s := by
  unfold State.modCtx
  split <;> rfl

theorem idleParts_memUncorr_scrub (s : State) (d code a chan kind : Nat) : idleParts (s.memUncorr .scrub d code a chan kind) = idleParts s := by
  unfold State.memUncorr
  dsimp only
  split
  · rfl
  · exact (each_same idleParts _ (fun t c => idleParts_modCtx t c _) _ _).trans (idleParts_of_sendParts (sendParts_raiseTo _ _ _ _ _ _))

theorem idleParts_cleanLine (s : State) (i : Nat) : idleParts (s.cleanLine i) = idleParts s := rfl

theorem idleParts_copyFrame (s : State) (k : Nat) : idleParts (s.copyFrame k) = idleParts s := by
  refine each_same idleParts _ (fun t e => ?_) _ s
  dsimp only
  split
  · exact idleParts_memUncorr_scrub t _ _ _ _ _
  · exact (idleParts_cleanLine _ _).trans (idleParts_of_served (served_cellarCorrect t _))
  · rfl

theorem idleParts_remapTo {s t : State} {k : Nat} {l : List Nat} (h : s.remapTo k l = some t) : idleParts t = idleParts s := by
  have hframes := s.remapTo_framesOnly k l
  rw [h] at hframes
  exact idleParts_of_framesOnly hframes

theorem idleParts_drainStep (ch : Nat) (s : State) : idleParts (drainStep ch s) = idleParts s := by
  unfold drainStep
  split
  · rfl
  · split
    · rfl
    · split
      · rfl
      next hmoved => exact (idleParts_remapTo hmoved).trans (idleParts_copyFrame s _)

theorem drainStep_none {ch : Nat} {s : State} (h : (s.channel ch).st ≠ .draining) : drainStep ch s = s := by
  refine if_pos ?_
  rw [bne_iff_ne.mpr h, Bool.true_or]

/-! ## The time bases (R62, R69, R467) -/

/-- With no correction and no offset to absorb only SLEWING may clear. -/
theorem tickTb_steady {now : Nat} {t : TimeBase} (hhold : t.hold = 0) (hslew : t.slew = 0) : tickTb now t = settleSlew (now + 1) t := by
  unfold tickTb slewTb
  rw [if_neg (by omega), if_pos (Or.inl hslew)]

theorem tickTb_default (now : Nat) : tickTb now {} = {} := (tickTb_steady rfl rfl).trans (ite_self _)

theorem tick_tb (s : State) (d : Nat) : ((tick s).die d).tb = tickTb s.now (s.die d).tb := by
  have hdie : (tick s).die d = { s.die d with tb := tickTb s.now (s.die d).tb } :=
    tabGet_map_snd _ (fun x : Die => { x with tb := tickTb s.now x.tb }) (by rw [tickTb_default]) s.dies d
  rw [hdie]

theorem tbCount_succ (now : Nat) (t : TimeBase) : tbCount (now + 1) t = (tbCount now t + 1) % 2 ^ 64 := by
  unfold tbCount
  push_cast
  omega

/-! ## One count -/

theorem idle_phase_one {s : State} (h : s.phase = 1) : idle s = s := if_pos h

/-- The channels that drain move their next frames. -/
def State.drainAll (s : State) : State := each (List.range 48) s fun s ch => drainStep ch s

theorem idle_eq {s : State} (h : s.phase ≠ 1) : idle s = each (List.range 8) (tick s).spin.drainAll State.transmit := if_neg h

theorem idleParts_idle {s : State} (h : s.phase ≠ 1) : idleParts (idle s) = idleParts (tick s) := by
  rw [idle_eq h]
  calc idleParts (each (List.range 8) (tick s).spin.drainAll State.transmit)
      = idleParts (tick s).spin.drainAll := each_same idleParts _ (fun t p => idleParts_of_sendParts (sendParts_transmit t p)) _ _
    _ = idleParts (tick s).spin := each_same idleParts _ (fun t ch => idleParts_drainStep ch t) _ _
    _ = idleParts (tick s) := idleParts_of_sendParts (sendParts_spin _)

/-- Where no channel drains no frame moves. -/
theorem drainAll_none {s : State} (h : ∀ ch, ch < 48 → (s.channel ch).st ≠ .draining) : s.drainAll = s :=
  each_keeps_mem (· = s) (fun s ch => drainStep ch s) (List.range 48)
    (fun ch hch t ht => by rw [ht]; exact drainStep_none (h ch (List.mem_range.mp hch))) s rfl

theorem sendParts_idle {s : State} (hphase : s.phase ≠ 1) (hdrain : ∀ ch, ch < 48 → (s.channel ch).st ≠ .draining) : sendParts (idle s) = sendParts (tick s) := by
  have hspin := sendParts_spin (tick s)
  have hchannels : (tick s).spin.channels = s.channels := congrArg (fun x => x.2.2.2) hspin
  have hnone : (tick s).spin.drainAll = (tick s).spin := drainAll_none fun ch hch => by
    have hchannel : (tick s).spin.channel ch = s.channel ch := congrArg (fun x => tabGet ({} : Channel) x ch) hchannels
    rw [hchannel]
    exact hdrain ch hch
  rw [idle_eq hphase, hnone]
  exact (each_same sendParts _ sendParts_transmit _ _).trans hspin

theorem step_idle {s : State} (h : s.pending = []) : step s = .next (idle s) := by
  unfold step
  rw [h]

/-- Settles O55: spinning, draining and sending leave time bases, memories and queues as the tick has them, and a tick moves each count by one. -/
theorem emptyQueueLetsOneCountPass : Obligations.EmptyQueueLetsOneCountPass := by
  intro s hpending
  refine ⟨idle s, step_idle hpending, idle_phase_one, fun hphase => ?_⟩
  have hparts := idleParts_idle hphase
  simp only [idleParts, Prod.mk.injEq] at hparts
  obtain ⟨hqueue, hnow, hmem, hhost, hqueues, hpins, hph, htb⟩ := hparts
  refine ⟨hqueue.trans hpending, hnow, hmem, hhost, fun hdrain => ?_, hqueues, hpins, hph, fun d hhold hslew => ?_⟩
  · have hsend := sendParts_idle hphase hdrain
    simp only [sendParts, Prod.mk.injEq] at hsend
    exact hsend.2
  · have hdie : ((idle s).die d).tb = tickTb s.now (s.die d).tb := (congrFun htb d).trans (tick_tb s d)
    calc (idle s).count d = tbCount (s.now + 1) (s.die d).tb := by
          unfold State.count tbCount
          rw [hdie, tickTb_steady hhold hslew, settleSlew_frame, hnow]
          rfl
      _ = (s.count d + 1) % 2 ^ 64 := tbCount_succ s.now (s.die d).tb

end Sys2Proof.Machine
end

section
/-! SUPPORT. Proofs about the matrix engines (R73, R77, R81 to R106, R154 to R159): what an operation at the head of an engine's queue leaves in the engine, and
what it leaves unchanged. -/

namespace Sys2Proof.Machine

/-! ## The two engines of a core -/

@[simp] theorem eng_setEng (x : Core) (e : Nat) (g : Engine) : eng (setEng x e g) e = g := by
  by_cases h : e = 0 <;> simp [eng, setEng, h]

theorem eng_setEng_ne (x : Core) (g : Engine) {e f : Nat} (he : e < 2) (hf : f < 2) (h : f ≠ e) : eng (setEng x e g) f = eng x f := by
  obtain ⟨rfl, rfl⟩ | ⟨rfl, rfl⟩ : e = 0 ∧ f = 1 ∨ e = 1 ∧ f = 0 := by omega
  · rfl
  · rfl

@[simp] theorem setEng_setEng (x : Core) (e : Nat) (g h : Engine) : setEng (setEng x e g) e h = setEng x e h := by
  by_cases he : e = 0 <;> simp [setEng, he]

@[simp] theorem setEng_eng (x : Core) (e : Nat) : setEng x e (eng x e) = x := by
  by_cases h : e = 0 <;> simp [eng, setEng, h]

@[simp] theorem reg_setEng (x : Core) (e : Nat) (g : Engine) (j : Nat) : reg (setEng x e g) j = reg x j := by
  unfold setEng; split <;> rfl

@[simp] theorem unitQueue_setEng (x : Core) (e : Nat) (g : Engine) (u : Nat) : unitQueue (setEng x e g) u = unitQueue x u := by
  unfold setEng; split <;> rfl

@[simp] theorem eng_setUnitQueue (x : Core) (u : Nat) (q : List QEntry) (e : Nat) : eng (setUnitQueue x u q) e = eng x e := by
  unfold setUnitQueue; split <;> rfl

@[simp] theorem reg_setUnitQueue (x : Core) (u : Nat) (q : List QEntry) (j : Nat) : reg (setUnitQueue x u q) j = reg x j := by
  unfold setUnitQueue; split <;> rfl

/-! ## The head of an engine's queue -/

theorem State.headOp_queue {s : State} {c u : Nat} {q : QEntry} (h : s.headOp c u = some q) : q.done = false ∧ ∃ l, unitQueue (s.core c) u = q :: l := by
  unfold State.headOp at h
  split at h
  next p l hqueue =>
    split at h
    · contradiction
    next hdone =>
      obtain rfl := Option.some.inj h
      exact ⟨Bool.eq_false_iff.mpr hdone, l, hqueue⟩
  · contradiction

theorem State.headEng_headOp {s : State} {c e : Nat} {q : QEntry} {o : EngOp} (h : s.headEng c e = some (q, o)) : s.headOp c (1 + e) = some q := by
  unfold State.headEng at h
  split at h
  · contradiction
  · split at h
    next p hhead =>
      split at h
      · obtain ⟨rfl, -⟩ := Prod.mk.inj (Option.some.inj h)
        exact hhead
      · contradiction
    · contradiction

theorem State.headEng_queue {s : State} {c e : Nat} {q : QEntry} {o : EngOp} (h : s.headEng c e = some (q, o)) : ∃ l, unitQueue (s.core c) (1 + e) = q :: l :=
  (State.headOp_queue (State.headEng_headOp h)).2

/-- An entry put in place of the head of a unit's queue. -/
theorem State.setHead_core {s : State} {c u : Nat} {p : QEntry} {l : List QEntry} (h : unitQueue (s.core c) u = p :: l) (q : QEntry) :
    (s.setHead c u q).core c = setUnitQueue (s.core c) u (q :: l) := by
  unfold State.setHead
  rw [State.core_modCore, h]

theorem State.setHead_core_ne (s : State) {c d : Nat} (u : Nat) (q : QEntry) (h : d ≠ c) : (s.setHead c u q).core d = s.core d := State.core_modCore_ne _ _ h

/-! ## An update of one engine -/

/-- From `s` to `t` engine `e` of core `c` has come to hold `x`, and nothing else has changed. -/
def engineTo (s t : State) (c e : Nat) (x : Engine) : Prop :=
  t.core c = setEng (s.core c) e x ∧ (∀ d, d ≠ c → t.core d = s.core d) ∧ t = { s with cores := t.cores }

theorem engineTo_refl (s : State) (c e : Nat) : engineTo s s c e (eng (s.core c) e) := ⟨(setEng_eng _ _).symm, fun _ _ => rfl, rfl⟩

theorem engineTo_eng {s t : State} {c e : Nat} {x : Engine} (h : engineTo s t c e x) : eng (t.core c) e = x := by rw [h.1, eng_setEng]

theorem engineTo_queue {s t : State} {c e : Nat} {x : Engine} (h : engineTo s t c e x) (u : Nat) : unitQueue (t.core c) u = unitQueue (s.core c) u := by
  rw [h.1, unitQueue_setEng]

theorem engineTo_mem {s t : State} {c e : Nat} {x : Engine} (h : engineTo s t c e x) : t.mem = s.mem := by rw [h.2.2]

theorem engineTo_modEng {s t : State} {c e : Nat} {x : Engine} (h : engineTo s t c e x) (f : Engine → Engine) : engineTo s (t.modEng c e f) c e (f x) := by
  obtain ⟨hcore, hother, hframe⟩ := h
  refine ⟨?_, fun d hd => (State.core_modCore_ne _ _ hd).trans (hother d hd), ?_⟩
  · unfold State.modEng
    rw [State.core_modCore, hcore, eng_setEng, setEng_setEng]
  · exact congrArg (fun u : State => { u with cores := (t.modEng c e f).cores }) hframe

/-! ## Buffers that hold no error (R129) -/

theorem bufWrite_clean {x : Engine} (h : x.errs = []) (b lo n : Nat) : bufWrite b lo n x = x := by
  unfold bufWrite
  rw [h]
  cases x
  cases h
  rfl

theorem State.bufRead_clean {s : State} {c e : Nat} (h : (eng (s.core c) e).errs = []) (beat b lo n : Nat) : s.bufRead c e beat b lo n = s := by
  unfold State.bufRead
  rw [h]
  rfl

section
variable {s t : State} {c e : Nat} {x : Engine}

theorem engineTo_bufRead (h : engineTo s t c e x) (hx : x.errs = []) (beat b lo n : Nat) : engineTo s (t.bufRead c e beat b lo n) c e x := by
  rw [State.bufRead_clean (by rw [engineTo_eng h]; exact hx)]
  exact h

/-- Lines that pass through a feeder without errors change nothing of what the engine holds. -/
theorem engineTo_feed (h : engineTo s t c e x) (hx : x.errs = []) (beat : Nat) (west north : Bool) : engineTo s (t.feed c e beat west north) c e x := by
  have hpass : ∀ {u : State} (b n : Nat), engineTo s u c e x → engineTo s ((u.bufRead c e beat b 0 n).modEng c e (bufWrite b 0 n)) c e x := fun b n hu => by
    have hwritten := engineTo_modEng (engineTo_bufRead hu hx beat b 0 n) (bufWrite b 0 n)
    rwa [bufWrite_clean hx] at hwritten
  unfold State.feed
  dsimp only
  cases west <;> cases north
  · exact h
  · exact hpass 7 16384 h
  · exact hpass 6 8192 h
  · exact hpass 7 16384 (hpass 6 8192 h)

end

/-! ## An operation of an engine performed -/

theorem headDone_doneHead {s : State} {c u : Nat} {p : QEntry} {l : List QEntry} (hu : u < 6) (h : unitQueue (s.core c) u = p :: l) (q : QEntry) :
    headDone (s.doneHead c u q) c u :=
  ⟨{ q with done := true, held := none }, l, by rw [State.doneHead, State.setHead_core h, unitQueue_setUnitQueue _ _ _ hu, if_pos rfl], rfl⟩

/-- From `s` to `t` the operation at the head of engine `e` of core `c` has been performed; the engine holds `x`, and else only the dies may have changed. -/
def engineDone (s t : State) (c e : Nat) (x : Engine) : Prop :=
  eng (t.core c) e = x ∧ engineFrame s t c e ∧ t = { s with cores := t.cores, dies := t.dies }

theorem engineDone_doneHead {s t : State} {c e : Nat} {x : Engine} {p : QEntry} {l : List QEntry} (he : e < 2) (hqueue : unitQueue (s.core c) (1 + e) = p :: l)
    (hto : engineTo s t c e x) (q : QEntry) : engineDone s (t.doneHead c (1 + e) q) c e x := by
  have hqueue' := (engineTo_queue hto _).trans hqueue
  have hcore : (t.doneHead c (1 + e) q).core c = setUnitQueue (setEng (s.core c) e x) (1 + e) ({ q with done := true, held := none } :: l) := by
    rw [State.doneHead, State.setHead_core hqueue', hto.1]
  have hframe : t.doneHead c (1 + e) q = { s with cores := (t.doneHead c (1 + e) q).cores } :=
    congrArg (fun u : State => { u with cores := (t.doneHead c (1 + e) q).cores }) hto.2.2
  refine ⟨by rw [hcore, eng_setUnitQueue, eng_setEng], ⟨fun j => ?_, fun f hf hne => ?_, fun d hd => ?_, fun a => ?_, ?_⟩, ?_⟩
  · rw [hcore, reg_setUnitQueue, reg_setEng]
  · rw [hcore, eng_setUnitQueue, eng_setEng_ne _ _ he hf hne]
  · exact (State.setHead_core_ne _ _ _ hd).trans (hto.2.1 d hd)
  · rw [hframe]
  · exact headDone_doneHead (by omega) hqueue' q
  · rw [hframe]

/-- Changes of the dies before and after an operation leave what it does. -/
theorem engineDone_dies {s t u v : State} {c e : Nat} {x : Engine} (hst : diesOnly s t) (h : engineDone t u c e x) (huv : diesOnly u v) : engineDone s v c e x := by
  have hbefore : t.core = s.core := funext (State.core_of_cores (cores_of_diesOnly hst))
  have hafter : v.core = u.core := funext (State.core_of_cores (cores_of_diesOnly huv))
  obtain ⟨heng, ⟨hreg, hengs, hother, hmem, hdone⟩, hframe⟩ := h
  have hframe' : v = { s with cores := v.cores, dies := v.dies } :=
    calc v = { u with dies := v.dies } := huv
      _ = { t with cores := u.cores, dies := v.dies } := congrArg (fun w : State => { w with dies := v.dies }) hframe
      _ = { s with cores := u.cores, dies := v.dies } := congrArg (fun w : State => { w with cores := u.cores, dies := v.dies }) hst
      _ = { s with cores := v.cores, dies := v.dies } := by rw [cores_of_diesOnly huv]
  refine ⟨by rw [hafter]; exact heng, ⟨?_, ?_, ?_, fun a => by rw [hframe'], ?_⟩, hframe'⟩
  · rw [hafter, ← hbefore]; exact hreg
  · rw [hafter, ← hbefore]; exact hengs
  · rw [hafter, ← hbefore]; exact hother
  · unfold headDone; rw [hafter]; exact hdone

theorem diesOnly_refl (s : State) : diesOnly s s := rfl

theorem diesOnly_slotDone (s : State) (die key : Nat) : diesOnly s (s.slotDone die key) := by
  unfold State.slotDone
  split
  · rfl
  · dsimp only
    split <;> rfl

theorem diesOnly_doneHead {s t : State} (h : diesOnly s t) (c u : Nat) (q : QEntry) : diesOnly (s.doneHead c u q) (t.doneHead c u q) := by
  rw [h]
  rfl

/-- A count of a counter, and a count in units of another, as an operation ends (R570). -/
theorem diesOnly_perfs (s : State) (d i n j u m : Nat) : diesOnly s ((s.perfAdd d i n).perfUnits d j u m) :=
  diesOnly_trans (s.perfAdd_diesOnly d i n) (State.perfUnits_diesOnly _ _ _ _ _)

theorem andThen_inl {k : Nat} {r : Nat ⊕ State} (h : r = .inl k) (f : Nat → State) : andThen r f = f k := by
  rw [h]
  rfl

theorem engineNamed {c e : Nat} (hc : isCore c = true) (he : e < 2) : (isCore c && decide (e < 2)) = true := by
  rw [hc, decide_eq_true he]
  rfl

/-! ## SHAPE and SWAP (R91, R92, R93) -/

theorem shapeOp_head {c e : Nat} {s : State} {q : QEntry} {m : EngMode} (h : s.headEng c e = some (q, .shape m)) :
    shapeOp c e s = (s.modEng c e fun x => { x with mode := m, lastTileOs := false }).doneHead c (1 + e) q := by
  unfold shapeOp
  rw [h]

/-- What a SWAP leaves in its engine. -/
def swapped (x : Engine) : Engine := bufWrite 2 0 18432 { x with weights := x.shadow, wScales := x.sScales, wFmt := x.sFmt, shadowFull := false }

section
variable {c e : Nat} {s : State} {q : QEntry}

theorem swapOp_full (h : s.headEng c e = some (q, .swap)) (hws : isWs (eng (s.core c) e).mode = true) (hfull : (eng (s.core c) e).shadowFull = true) :
    swapOp c e s = ((s.bufRead c e q.beat 3 0 18432).modEng c e swapped).doneHead c (1 + e) q := by
  unfold swapOp
  rw [h]
  dsimp only
  rw [hws, hfull]
  rfl

theorem swapOp_empty (h : s.headEng c e = some (q, .swap)) (hws : isWs (eng (s.core c) e).mode = true) (hempty : (eng (s.core c) e).shadowFull = false) :
    swapOp c e s = s.holdHead c (1 + e) q 2 0 := by
  unfold swapOp
  rw [h]
  dsimp only
  rw [hws, hempty]
  rfl

end

theorem shapeAndSwap : ShapeAndSwap := by
  intro c e s q hc he herrs
  refine ⟨fun m hhead => ?shape, fun hhead hws hfull => ?swap, fun hhead hws hempty => ?held⟩
  case shape =>
    obtain ⟨l, hqueue⟩ := State.headEng_queue hhead
    refine runs_of_need rfl (engineNamed hc he) ?_
    rw [shapeOp_head hhead]
    obtain ⟨heng, hframe, -⟩ := engineDone_doneHead he hqueue (engineTo_modEng (engineTo_refl s c e) _) q
    exact ⟨heng, hframe, rfl⟩
  case swap =>
    obtain ⟨l, hqueue⟩ := State.headEng_queue hhead
    refine runs_of_need rfl (engineNamed hc he) ?_
    rw [swapOp_full hhead hws hfull, State.bufRead_clean herrs]
    obtain ⟨heng, hframe, -⟩ := engineDone_doneHead he hqueue (engineTo_modEng (engineTo_refl s c e) swapped) q
    rw [heng]
    exact ⟨rfl, rfl, rfl, rfl, rfl, rfl, rfl, hframe, rfl⟩
  case held =>
    have hop := State.headEng_headOp hhead
    obtain ⟨hdone, l, hqueue⟩ := State.headOp_queue hop
    refine runs_of_need rfl (engineNamed hc he) ?_
    rw [swapOp_empty hhead hws hempty]
    have hheld : (s.holdHead c (1 + e) q 2 0).core c = setUnitQueue (s.core c) (1 + e) ({ q with held := some 2, heldId := 0 } :: l) := State.setHead_core hqueue _
    refine ⟨by rw [hheld, eng_setUnitQueue], ⟨q, hop, ?_⟩, rfl⟩
    unfold State.headOp
    rw [hheld, unitQueue_setUnitQueue _ _ _ (by omega), if_pos rfl]
    dsimp only
    rw [hdone]
    rfl

end Sys2Proof.Machine
end

section
/-! SUPPORT. LOAD_SHADOW, raw, coded, and resumed (R90, R157, R255, R262). -/

namespace Sys2Proof.Machine

/-! ## Tables built over a run of keys -/

/-- Reading a table whose keys are those of a list, values that equal the default left out. -/
theorem tabGet_filterMap {α : Type} (d : α) {g : Nat → Option (Nat × α)} {v : Nat → α} (hg : ∀ k, g k = some (k, v k) ∨ g k = none ∧ v k = d) (l : List Nat) (i : Nat) :
    tabGet d (l.filterMap g) i = if i ∈ l then v i else d := by
  induction l with
  | nil => rfl
  | cons k l ih =>
    obtain hk | ⟨hk, hd⟩ := hg k
    · rw [List.filterMap_cons_some hk, tabGet]
      by_cases h : k = i
      · rw [if_pos h, if_pos (List.mem_cons.mpr (.inl h.symm)), h]
      · rw [if_neg h, ih]
        simp only [List.mem_cons, Ne.symm h, false_or]
    · rw [List.filterMap_cons_none hk, ih]
      by_cases h : i = k
      · rw [if_pos (List.mem_cons.mpr (.inl h)), h, hd, ite_self]
      · simp only [List.mem_cons, h, false_or]

theorem tabGet_map_range {α : Type} (d : α) (n : Nat) (v : Nat → α) {i : Nat} (hi : i < n) : tabGet d ((List.range n).map fun j => (j, v j)) i = v i := by
  rw [← List.filterMap_eq_map]
  exact (tabGet_filterMap d (fun _ => .inl rfl) _ i).trans (if_pos (List.mem_range.mpr hi))

theorem tabGet_buildTab (n : Nat) (f : Nat → Nat) (i : Nat) : tabGet 0 (buildTab n f) i = if i < n then BitVec.ofNat 32 (f i) else 0 := by
  unfold buildTab
  rw [tabGet_filterMap 0 (v := fun k => BitVec.ofNat 32 (f k)) fun k => ?_]
  · simp only [List.mem_range]
  · by_cases h : f k = 0
    · exact .inr ⟨if_pos h, by rw [h]; rfl⟩
    · exact .inl (if_neg h)

/-! ## A load -/

section
variable {c e : Nat} {s : State} {q : QEntry}

theorem State.streamKey_ok {a k : Nat} (h : s.unitAcc c a 1 true = .ok k) : s.streamKey c a = k := by
  unfold State.streamKey
  rw [h]

theorem State.codedRead_clean (h : s.marks = []) (m : Memory) (x : Engine) (seq key b n : Nat) : s.codedRead m x seq key b n = s := State.eccRead_clean h _ _

/-- A load without a failed check leaves what it read in the shadow. -/
theorem engineDone_shadowDone {p : QEntry} {l : List QEntry} (he : e < 2) (hqueue : unitQueue (s.core c) (1 + e) = p :: l) (herrs : (eng (s.core c) e).errs = [])
    (key : Nat) (f : Engine → Engine) : engineDone s (s.shadowDone c e q key none f) c e (f (eng (s.core c) e)) :=
  engineDone_dies (t := s) rfl
    (engineDone_doneHead he hqueue (engineTo_modEng (engineTo_feed (engineTo_refl s c e) herrs q.beat false true) f) q)
    (diesOnly_doneHead (diesOnly_slotDone _ (c / 4) key) c (1 + e) q)

section
variable {fmt : Nat} {coded var : Bool} {a as v : Word} {u : Option Upset} (hmarks : s.marks = []) (hhead : s.headEng c e = some (q, .loadShadow fmt coded var a as v))
  (hws : isWs (eng (s.core c) e).mode = true) (hempty : (eng (s.core c) e).shadowFull = false)
include hhead

theorem exec_load {i : Instr} (hi : i = .loadShadow c e none ∨ i = .codedStreamResume c e none ∧ q.held = some 3) :
    exec i s = need (isCore c && decide (e < 2)) (loadShadowOp c e none s) := by
  obtain rfl | ⟨rfl, hheld⟩ := hi
  · rfl
  · have hresume : codedStreamResume c e none s = loadShadowOp c e none s := by
      unfold codedStreamResume
      rw [hhead]
      exact if_pos hheld
    rw [← hresume]
    rfl

include hmarks hws hempty

theorem loadShadowOp_raw {k sk : Nat} (hcoded : coded = false) (hread : s.northRead c e q (alignTo 1024 a.toNat) 131072 = .inl k)
    (hscale : (if isMx fmt then s.northRead c e q (alignTo 1024 as.toNat) (scaleBytes 128) else .inl 0) = .inl sk) :
    loadShadowOp c e u s = s.shadowDone c e q k u fun x => shadowWith x fmt (fun j => readLe s.mem (k + 1024 * j) 1024)
      (fun j => if isMx fmt then readLe s.mem (sk + 128 * j) 128 else 0) := by
  subst hcoded
  unfold loadShadowOp
  rw [hhead]
  dsimp only
  rw [hws, hempty, andThen_inl hread, andThen_inl hscale, State.eccRead_clean hmarks, State.eccRead_clean hmarks]
  rfl

/-- The shadow filled with the elements `el` of a coded stream. -/
def codedShadow (el : List Nat) (x : Engine) : Engine := shadowWith x 0 (fun j => lineOf ((el.drop (512 * j)).take 512)) fun _ => 0

theorem loadShadowOp_coded {k : Nat} {el : List Nat} (hcoded : coded = true) (hvar : var = false) (hfmt : fmt = 0) (hacc : s.unitAcc c (alignTo 1024 a.toNat) 1 true = .ok k)
    (hread : s.northRead c e q (alignTo 1024 a.toNat) (streamBytes s.mem (eng (s.core c) e) q.seq k 512) = .inl k)
    (hel : readStream s.mem (eng (s.core c) e) q.seq k (s.slotGen (c / 4) k) (512 - blocksIn (eng (s.core c) e)) (blocksIn (eng (s.core c) e))
      (kindFrom s.mem (eng (s.core c) e) q.seq k (blocksIn (eng (s.core c) e))) = .ok el) :
    loadShadowOp c e u s = s.shadowDone c e q k u (codedShadow (codedSoFar (eng (s.core c) e) ++ el)) := by
  subst hcoded hvar hfmt
  have hkey := State.streamKey_ok hacc
  unfold loadShadowOp
  simp only [hhead, hws, hempty, hkey, hread, andThen, Bool.not_true, Bool.false_eq_true, if_false, bne_self_eq_false, Bool.and_false, State.codedRead_clean hmarks]
  unfold blocksIn at hel
  rw [hel]
  rfl

theorem loadShadowOp_variant {k vk : Nat} {el : List Nat} (hcoded : coded = true) (hvar : var = true) (hfmt : fmt = 0)
    (hacc : s.unitAcc c (alignTo 1024 a.toNat) 1 true = .ok k) (hdacc : s.unitAcc c (alignTo 1024 v.toNat) 1 true = .ok vk)
    (hread : s.northRead c e q (alignTo 1024 a.toNat) (streamBytes s.mem (eng (s.core c) e) q.seq k 512) = .inl k)
    (hdread : s.northRead c e q (alignTo 1024 v.toNat) (streamBytes s.mem (eng (s.core c) e) q.seq vk 512) = .inl vk)
    (hel : readVariant s.mem (eng (s.core c) e) q.seq k vk (s.slotGen (c / 4) k) (s.slotGen (c / 4) vk) (512 - blocksIn (eng (s.core c) e)) (blocksIn (eng (s.core c) e))
      (kindFrom s.mem (eng (s.core c) e) q.seq k (blocksIn (eng (s.core c) e))) (kindFrom s.mem (eng (s.core c) e) q.seq vk (blocksIn (eng (s.core c) e))) = .ok el) :
    loadShadowOp c e u s = (s.slotDone (c / 4) vk).shadowDone c e q k u (codedShadow (codedSoFar (eng (s.core c) e) ++ el)) := by
  subst hcoded hvar hfmt
  have hkey := State.streamKey_ok hacc
  have hdkey := State.streamKey_ok hdacc
  unfold loadShadowOp
  simp only [hhead, hws, hempty, hkey, hdkey, hread, hdread, andThen, Bool.not_true, Bool.false_eq_true, if_false, if_true, bne_self_eq_false, Bool.and_false, State.codedRead_clean hmarks]
  unfold blocksIn at hel
  rw [hel]
  rfl

end

end

theorem shadowWith_line (x : Engine) (fmt : Nat) (line scale : Nat → Nat) {j : Nat} (hj : j < 128) : tabGet 0 (shadowWith x fmt line scale).shadow j = line j :=
  tabGet_map_range 0 128 line hj

theorem shadowWith_scale (x : Engine) (fmt : Nat) (line scale : Nat → Nat) {j : Nat} (hj : j < 128) : tabGet 0 (shadowWith x fmt line scale).sScales j = scale j :=
  tabGet_map_range 0 128 scale hj

/-- What a load with the result `shadowWith` leaves, as a statement needs it. -/
theorem loaded_of_done {s t : State} {c e fmt : Nat} {line scale : Nat → Nat} (h : engineDone s t c e (shadowWith (eng (s.core c) e) fmt line scale)) :
    (∀ j, j < 128 → tabGet 0 (eng (t.core c) e).shadow j = line j ∧ tabGet 0 (eng (t.core c) e).sScales j = scale j) ∧
      (eng (t.core c) e).sFmt = fmt ∧ (eng (t.core c) e).shadowFull = true ∧ (eng (t.core c) e).weights = (eng (s.core c) e).weights ∧
      engineFrame s t c e ∧ t = { s with cores := t.cores, dies := t.dies } := by
  obtain ⟨heng, hframe, hstate⟩ := h
  rw [heng]
  exact ⟨fun j hj => ⟨shadowWith_line _ _ _ _ hj, shadowWith_scale _ _ _ _ hj⟩, rfl, rfl, rfl, hframe, hstate⟩

theorem shadowIsLoaded : ShadowIsLoaded := by
  intro c e s q fmt coded var a as v k sk el i hc he hmarks herrs hhead hws hempty hi
  obtain ⟨l, hqueue⟩ := State.headEng_queue hhead
  refine ⟨fun hcoded hread hscale => runs_of_need (exec_load hhead hi) (engineNamed hc he) ?raw,
    fun b hb hcoded hfmt hacc hread hel => runs_of_need (exec_load hhead hi) (engineNamed hc he) ?coded⟩
  case raw =>
    rw [loadShadowOp_raw hmarks hhead hws hempty hcoded hread hscale]
    exact loaded_of_done (engineDone_shadowDone he hqueue herrs k _)
  case coded =>
    subst hb
    have hdone : engineDone s (loadShadowOp c e none s) c e (codedShadow (codedSoFar (eng (s.core c) e) ++ el) (eng (s.core c) e)) := by
      obtain ⟨hvar, hel⟩ | ⟨hvar, hdacc, hdread, hel⟩ := hel
      · rw [loadShadowOp_coded hmarks hhead hws hempty hcoded hvar hfmt hacc hread hel]
        exact engineDone_shadowDone he hqueue herrs k _
      · rw [loadShadowOp_variant hmarks hhead hws hempty hcoded hvar hfmt hacc hdacc hread hdread hel]
        have hslot : (s.slotDone (c / 4) sk).core c = s.core c := State.core_of_cores (cores_of_diesOnly (diesOnly_slotDone s (c / 4) sk)) c
        have hload := engineDone_shadowDone (s := s.slotDone (c / 4) sk) (q := q) he (by rw [hslot]; exact hqueue) (by rw [hslot]; exact herrs) k
          (codedShadow (codedSoFar (eng (s.core c) e) ++ el))
        rw [hslot] at hload
        exact engineDone_dies (diesOnly_slotDone s (c / 4) sk) hload (diesOnly_refl _)
    obtain ⟨hlines, hrest⟩ := loaded_of_done hdone
    exact ⟨fun j hj => (hlines j hj).1, hrest⟩

end Sys2Proof.Machine
end

section
/-! SUPPORT. DRAIN (R77, R85, R86, R89, R93, R121, R158, R178). -/

namespace Sys2Proof.Machine

/-! ## What a DRAIN takes from its engine -/

theorem drainValue_lt (x : Engine) (src mt i : Nat) : drainValue x src mt i < 2 ^ 32 := by
  unfold drainValue
  split <;> exact BitVec.isLt _

/-- The half that takes a drained bank, with the bank's values in their run. -/
def stagedTab (n src mt : Nat) (x : Engine) : Tab Half :=
  buildTab 131072 fun i => if Config.staging n / 2 % 8 * 16384 ≤ i ∧ i < Config.staging n / 2 % 8 * 16384 + 16384
    then drainValue x src mt (i - Config.staging n / 2 % 8 * 16384) else (tabGet 0 (getHalf x (stageHalf n x)) i).toNat

theorem stageHalf_lt (n : Nat) (x : Engine) : stageHalf n x < 2 := by
  unfold stageHalf
  split
  · decide
  · split
    · decide
    · exact Nat.mod_lt _ (by decide)

theorem bufWrite_half0 (b lo n : Nat) (x : Engine) (t : Tab Half) : ∃ l, bufWrite b lo n { x with half0 := t } = { x with half0 := t, errs := l } := ⟨_, rfl⟩

theorem bufWrite_half1 (b lo n : Nat) (x : Engine) (t : Tab Half) : ∃ l, bufWrite b lo n { x with half1 := t } = { x with half1 := t, errs := l } := ⟨_, rfl⟩

/-- A bank goes into one half; nothing else in the engine changes but the marks of the words written. -/
theorem stageBank_cases (n src mt : Nat) (x : Engine) : ∃ l,
    (stageHalf n x = 0 ∧ stageBank n src mt x = { x with half0 := stagedTab n src mt x, errs := l } ∨
      stageHalf n x = 1 ∧ stageBank n src mt x = { x with half1 := stagedTab n src mt x, errs := l }) := by
  have hlt := stageHalf_lt n x
  have hbank : stageBank n src mt x = bufWrite (4 + stageHalf n x) (Config.staging n / 2 % 8 * 16384 / 2) 8192
    (if stageHalf n x = 0 then { x with half0 := stagedTab n src mt x } else { x with half1 := stagedTab n src mt x }) := rfl
  obtain h | h : stageHalf n x = 0 ∨ stageHalf n x = 1 := by omega
  · rw [if_pos h] at hbank
    obtain ⟨l, hl⟩ := bufWrite_half0 (4 + stageHalf n x) (Config.staging n / 2 % 8 * 16384 / 2) 8192 x (stagedTab n src mt x)
    exact ⟨l, .inl ⟨h, hbank.trans hl⟩⟩
  · rw [if_neg (by omega)] at hbank
    obtain ⟨l, hl⟩ := bufWrite_half1 (4 + stageHalf n x) (Config.staging n / 2 % 8 * 16384 / 2) 8192 x (stagedTab n src mt x)
    exact ⟨l, .inr ⟨h, hbank.trans hl⟩⟩

theorem clearAwait_halves (src n : Nat) (x : Engine) (h : Nat) : getHalf (clearAwait src n x) h = getHalf x h := by
  unfold clearAwait
  split <;> rfl

/-- Two engines differ in their collector halves, and in the marks of words, alone. -/
def halvesOnly (x y : Engine) : Prop := y = { x with half0 := y.half0, half1 := y.half1, errs := y.errs }

theorem drainedOf_clearAwait {src : Nat} (hsrc : src < 4) (n : Nat) {x y : Engine} (h : halvesOnly x y) : drainedOf src n x (clearAwait src n y) := by
  rw [h]
  unfold drainedOf clearAwait
  match src, hsrc with
  | 0, _ | 1, _ | 2, _ | 3, _ => simp

/-- What a DRAIN's engine holds as the values go out. -/
def stagedEngine (n src mt : Nat) (x : Engine) : Engine := if src < 2 then stageBank n src mt x else x

theorem halvesOnly_stagedEngine (n src mt : Nat) (x : Engine) : halvesOnly x (stagedEngine n src mt x) := by
  have hhalf0 : ∀ t l, halvesOnly x { x with half0 := t, errs := l } := fun _ _ => rfl
  have hhalf1 : ∀ t l, halvesOnly x { x with half1 := t, errs := l } := fun _ _ => rfl
  unfold stagedEngine
  split
  · obtain ⟨l, ⟨-, h⟩ | ⟨-, h⟩⟩ := stageBank_cases n src mt x
    · rw [h]; exact hhalf0 _ l
    · rw [h]; exact hhalf1 _ l
  · rfl

theorem stagedIn_stageBank (n k src mt : Nat) (x : Engine) : stagedIn (drainValue x src mt) x (clearAwait src n (stageBank k src mt x)) := by
  have hsame : getHalf (stageBank k src mt x) (stageHalf k x) = stagedTab k src mt x := by
    obtain ⟨m, ⟨hh, h⟩ | ⟨hh, h⟩⟩ := stageBank_cases k src mt x
    · rw [hh, h, getHalf, if_pos rfl]
    · rw [hh, h, getHalf, if_neg (by decide)]
  have hother : getHalf (stageBank k src mt x) (1 - stageHalf k x) = getHalf x (1 - stageHalf k x) := by
    obtain ⟨m, ⟨hh, h⟩ | ⟨hh, h⟩⟩ := stageBank_cases k src mt x
    · rw [hh, h, getHalf, getHalf, if_neg (by decide), if_neg (by decide)]
    · rw [hh, h, getHalf, getHalf, if_pos rfl, if_pos rfl]
  have hrun : Config.staging k / 2 % 8 < 8 := Nat.mod_lt _ (by decide)
  refine ⟨stageHalf k x, Config.staging k / 2 % 8 * 16384, stageHalf_lt k x, by omega, fun i hi => ?_, fun i hi hout => ?_, ?_⟩
  · rw [clearAwait_halves, hsame, stagedTab, tabGet_buildTab, if_pos (by omega), if_pos (by omega), Nat.add_sub_cancel_left, BitVec.toNat_ofNat,
      Nat.mod_eq_of_lt (drainValue_lt x src mt i)]
  · rw [clearAwait_halves, hsame, stagedTab, tabGet_buildTab, if_pos hi, if_neg (by omega), BitVec.ofNat_toNat, BitVec.setWidth_eq]
  · rw [clearAwait_halves, hother]

/-! ## What a DRAIN stores -/

/-- Elements stored at `k` and, for a Microscaling format, their scales at `sk`. -/
def State.putStreams (s : State) (fmt k sk : Nat) (r : List Byte × List Byte) : State :=
  if isMx fmt then (s.putWords k r.1).putWords sk r.2 else s.putWords k r.1

theorem State.putStreams_frame (s : State) (fmt k sk : Nat) (r : List Byte × List Byte) :
    s.putStreams fmt k sk r = { s with mem := (s.putStreams fmt k sk r).mem, marks := (s.putStreams fmt k sk r).marks } := by
  unfold State.putStreams
  split <;> rfl

theorem readBytes_of_same {m m' : Memory} {a n : Nat} (h : ∀ i, i < n → readByte m (a + i) = readByte m' (a + i)) : readBytes m a n = readBytes m' a n :=
  List.map_congr_left fun i hi => h i (List.mem_range.mp hi)

/-- Elements without scales. -/
theorem putStreams_elements {s t : State} (hmem : t.mem = s.mem) (hwf : s.mem.wf = true) {fmt : Nat} (hmx : isMx fmt = false) (k sk : Nat) (r : List Byte × List Byte) :
    landed s (t.putStreams fmt k sk r) k r.1 := by
  unfold State.putStreams
  rw [hmx]
  exact landed_putWords hmem hwf k r.1

/-- Elements with scales: the scales, written last, stand; the elements do where the scales are elsewhere. -/
theorem putStreams_scales {s t : State} (hmem : t.mem = s.mem) (hwf : s.mem.wf = true) {fmt : Nat} (hmx : isMx fmt = true) (k sk : Nat) (r : List Byte × List Byte) :
    readBytes (t.putStreams fmt k sk r).mem sk r.2.length = r.2 ∧
    (∀ a, (a < k ∨ k + roundUp r.1.length 8 ≤ a) → (a < sk ∨ sk + roundUp r.2.length 8 ≤ a) → readByte (t.putStreams fmt k sk r).mem a = readByte s.mem a) ∧
    ((k + r.1.length ≤ sk ∨ sk + roundUp r.2.length 8 ≤ k) → readBytes (t.putStreams fmt k sk r).mem k r.1.length = r.1) := by
  unfold State.putStreams
  rw [hmx, if_pos rfl]
  obtain ⟨helems, helsewhere⟩ := landed_putWords hmem hwf k r.1
  obtain ⟨hscales, hout⟩ := landed_putWords (s := t.putWords k r.1) rfl (Memory.wf_writeBytes _ _ _ (by rw [hmem]; exact hwf)) sk r.2
  refine ⟨hscales, fun a ha hsa => (hout a hsa).trans (helsewhere a ha), fun hapart => ?_⟩
  exact (readBytes_of_same fun i hi => hout (k + i) (by omega)).trans helems

/-! ## The operation -/

theorem performed_doneHead {s t : State} {c u : Nat} {q : QEntry} {l : List QEntry} (hu : u < 6) (hs : unitQueue (s.core c) u = q :: l)
    (ht : unitQueue (t.core c) u = q :: l) : performed s (t.doneHead c u q) c u :=
  ⟨q, l, hs, by rw [State.doneHead, State.setHead_core ht, unitQueue_setUnitQueue _ _ _ hu, if_pos rfl]⟩

theorem decide_eq_isSome {src : Nat} {o : Option Nat} (h : src < 2 ↔ o.isSome = true) : (decide (src < 2) != o.isSome) = false := by
  cases ho : o.isSome <;> simp_all

theorem drainOp_stores {c e : Nat} {u : Option Upset} {s : State} {q : QEntry} {src fmt : Nat} {rnd sat : Bool} {d ds : Word} {n : Nat} {c0 field : Word} {k sk : Nat}
    {r : List Byte × List Byte} (hhead : s.headEng c e = some (q, .drain src fmt rnd sat d ds n c0 field))
    (hsrc : src < 2 ↔ (osRows (eng (s.core c) e).mode).isSome = true)
    (hr : r = packCodes fmt (strike fmt (s.struck u n) (convertCodes fmt ((List.range n).map (drainValue (eng (s.core c) e) src ((osRows (eng (s.core c) e).mode).getD 128)))
      fun i v => narrow fmt (s.drainRound c e rnd c0 field i) sat v)))
    (hk : s.headWrite c (1 + e) q (alignTo 1024 d.toNat) r.1.length false = .inl k)
    (hsk : (if isMx fmt then s.headWrite c (1 + e) q (alignTo 1024 ds.toNat) r.2.length false else .inl 0) = .inl sk) :
    drainOp c e u s = (((((s.upsetUnit c (1 + e) u q.beat).drainRead c e q.beat q.seq src n ((osRows (eng (s.core c) e).mode).getD 128)).putStreams fmt k sk r).modEng c e
      (clearAwait src n)).doneHead c (1 + e) q) := by
  subst hr
  unfold drainOp
  simp only [hhead, decide_eq_isSome hsrc, hk, hsk, andThen, Bool.false_eq_true, if_false]
  rfl

section
variable {s t : State} {c e : Nat} {x : Engine} {q : QEntry} {l : List QEntry}

/-- The engine of a DRAIN whose values have been stored as its operation ends: what it holds, and all that has changed. -/
theorem stored_doneHead (he : e < 2) (hqueue : unitQueue (s.core c) (1 + e) = q :: l) (hto : engineTo s t c e x) (m : Memory) (marks : Tab ErrMark) (f : Engine → Engine) :
    ∃ u, ((({ t with mem := m, marks := marks } : State).modEng c e f).doneHead c (1 + e) q) = u ∧ u.mem = m ∧ eng (u.core c) e = f x ∧ performed s u c (1 + e) ∧
      (∀ j, reg (u.core c) j = reg (s.core c) j) ∧ (∀ g, g ≠ c → u.core g = s.core g) ∧ u = { s with cores := u.cores, mem := u.mem, marks := u.marks } := by
  have hmod := engineTo_modEng hto f
  have hperformed := performed_doneHead (by omega) hqueue ((engineTo_queue hmod _).trans hqueue)
  obtain ⟨heng, ⟨hreg, -, hother, -, -⟩, -⟩ := engineDone_doneHead he hqueue hmod q
  refine ⟨_, rfl, rfl, heng, hperformed, hreg, hother, ?_⟩
  rw [hto.2.2]
  rfl

end

theorem engineTo_drainRead {s t : State} {c e : Nat} {x : Engine} (h : engineTo s t c e x) (hx : x.errs = []) (beat seq src n mt : Nat) :
    engineTo s (t.drainRead c e beat seq src n mt) c e (stagedEngine seq src mt x) := by
  unfold State.drainRead stagedEngine
  split
  · exact engineTo_modEng (engineTo_bufRead h hx _ _ _ _) _
  · exact engineTo_bufRead h hx _ _ _ _

theorem drainStoresTheBank : DrainStoresTheBank := by
  intro c e s q src fmt rnd sat d ds n c0 field k sk hc he hwf herrs hsrc hhead hmode r hk hsk
  obtain ⟨l, hqueue⟩ := State.headEng_queue hhead
  have hread := engineTo_drainRead (engineTo_refl s c e) herrs q.beat q.seq src n ((osRows (eng (s.core c) e).mode).getD 128)
  have hrun : drainOp c e none s = _ := drainOp_stores hhead hmode rfl hk hsk
  unfold State.upsetUnit at hrun
  dsimp only at hrun
  generalize s.drainRead c e q.beat q.seq src n ((osRows (eng (s.core c) e).mode).getD 128) = v at hread hrun
  have hmem := engineTo_mem hread
  rw [State.putStreams_frame] at hrun
  obtain ⟨t, ht, htmem, heng, hperformed, hreg, hother, hframe⟩ := stored_doneHead he hqueue hread (v.putStreams fmt k sk r).mem
    (v.putStreams fmt k sk r).marks (clearAwait src n)
  refine runs_of_need rfl (engineNamed hc he) ?_
  rw [hrun.trans ht, heng]
  have hfresh : t.fresh = s.fresh := by rw [hframe]
  refine ⟨fun hmx => ?elements, fun hmx => ?scales, drainedOf_clearAwait hsrc n (halvesOnly_stagedEngine _ _ _ _), fun hbank => ?staged,
    fun hhalf h i => ?halves, hperformed, hreg, hother, by rw [hfresh]; exact hframe⟩
  case elements => rw [htmem]; exact putStreams_elements hmem hwf hmx k sk r
  case scales => rw [htmem]; exact putStreams_scales hmem hwf hmx k sk r
  case staged =>
    rw [stagedEngine, if_pos hbank]
    exact stagedIn_stageBank n q.seq src _ _
  case halves => rw [clearAwait_halves, stagedEngine, if_neg (Nat.not_lt.mpr hhalf)]

/-- Settles O10: each operation is brought to one update of its engine, whose fields are then read off. -/
theorem arraysAreFilledAndDrained : Obligations.ArraysAreFilledAndDrained := ⟨shapeAndSwap, shadowIsLoaded, drainStoresTheBank⟩

end Sys2Proof.Machine
end

section
/-! SUPPORT. EW (R103, R105, R106, R159). -/

namespace Sys2Proof.Machine

/-! ## The two halves of the collector (R77) -/

theorem getHalf_putHalf (x : Engine) (h g : Nat) (t : Tab Half) (n : Nat) : getHalf (putHalf x h t n) g = if (g = 0 ↔ h = 0) then t else getHalf x g := by
  by_cases hh : h = 0 <;> by_cases hg : g = 0 <;> simp [getHalf, putHalf, hh, hg]

/-! ## The elements in order (R106, R159) -/

section
variable (m : Memory) (oper xsrc dest fx fy xk xsk yk ysk ys : Nat) (yscalar : Bool)

/-- Element `i` of the first source of an EW: of its port, or of a half. -/
def ewFirst (x : Engine) (i : Nat) : Nat := if xsrc = 0 then portElem m fx xk xsk i else (tabGet 0 (getHalf x (xsrc - 1)) i).toNat

/-- Element `i` of the second source: the scalar, or of its port. -/
def ewSecond (i : Nat) : Nat := if yscalar then ys else portElem m fy yk ysk i

/-- The code that an EW leaves at index `i` of its half. -/
def ewCode (x : Engine) (i : Nat) : Half :=
  BitVec.ofNat 32 (ewValue oper (ewFirst m xsrc fx xk xsk x i) (ewSecond m fy yk ysk ys yscalar i) (tabGet 0 (getHalf x dest) i).toNat)

theorem ewRun_succ {n : Nat} (hn : n < 131072) (x : Engine) :
    (ewRun m oper xsrc dest fx fy xk xsk yk ysk ys yscalar (n + 1) x).1 =
      putHalf (ewRun m oper xsrc dest fx fy xk xsk yk ysk ys yscalar n x).1 dest
        (tabSet (getHalf (ewRun m oper xsrc dest fx fy xk xsk yk ysk ys yscalar n x).1 dest) n
          (ewCode m oper xsrc dest fx fy xk xsk yk ysk ys yscalar (ewRun m oper xsrc dest fx fy xk xsk yk ysk ys yscalar n x).1 n)) (n + 1) := by
  have hmod : n % 131072 = n := Nat.mod_eq_of_lt hn
  unfold ewRun
  rw [List.range_succ, List.foldl_append, List.foldl_cons, List.foldl_nil]
  dsimp only
  rw [hmod]
  rfl

/-- Indices below `n` have been taken, each from its operands as they were; the others stand. -/
theorem ewRun_halves (x : Engine) : ∀ n, n ≤ 131072 →
    (∀ i, i < n → tabGet 0 (getHalf (ewRun m oper xsrc dest fx fy xk xsk yk ysk ys yscalar n x).1 dest) i = ewCode m oper xsrc dest fx fy xk xsk yk ysk ys yscalar x i) ∧
    (∀ h i, n ≤ i → tabGet 0 (getHalf (ewRun m oper xsrc dest fx fy xk xsk yk ysk ys yscalar n x).1 h) i = tabGet 0 (getHalf x h) i) ∧
    ∀ h, ¬(h = 0 ↔ dest = 0) → getHalf (ewRun m oper xsrc dest fx fy xk xsk yk ysk ys yscalar n x).1 h = getHalf x h := by
  intro n
  induction n with
  | zero => exact fun _ => ⟨fun i hi => absurd hi (Nat.not_lt_zero i), fun _ _ _ => rfl, fun _ _ => rfl⟩
  | succ n ih =>
    intro hn
    obtain ⟨hdone, hstays, hother⟩ := ih (by omega)
    rw [ewRun_succ m oper xsrc dest fx fy xk xsk yk ysk ys yscalar hn]
    generalize (ewRun m oper xsrc dest fx fy xk xsk yk ysk ys yscalar n x).1 = y at hdone hstays hother
    have hcode : ewCode m oper xsrc dest fx fy xk xsk yk ysk ys yscalar y n = ewCode m oper xsrc dest fx fy xk xsk yk ysk ys yscalar x n := by
      unfold ewCode ewFirst
      rw [hstays _ n le_rfl, hstays _ n le_rfl]
    refine ⟨fun i hi => ?_, fun h i hi => ?_, fun h hne => ?_⟩
    · rw [getHalf_putHalf, if_pos Iff.rfl, tabGet_tabSet]
      split
      next heq => rw [heq, hcode]
      next hne => exact hdone i (by omega)
    · rw [getHalf_putHalf]
      split
      next hsame =>
        have hhalf : getHalf y h = getHalf y dest := by simp only [getHalf, hsame]
        rw [tabGet_tabSet_ne _ _ _ (by omega), ← hhalf]
        exact hstays h i (by omega)
      · exact hstays h i (by omega)
    · rw [getHalf_putHalf, if_neg hne]
      exact hother h hne

end

/-! ## The operation -/

/-- A failed check of an EW leaves one element of its half free (R130). -/
def upsetEw (dest n i : Nat) (u : Upset) (x : Engine) : Engine :=
  putHalf x dest (tabSet (getHalf x dest) ((u.row * 128 + u.col) % min n 131072) (Config.upsetValue i 0)) 0

theorem engineTo_ite {s t u : State} {c e : Nat} {x : Engine} {p : Prop} [Decidable p] (ht : engineTo s t c e x) (hu : engineTo s u c e x) :
    engineTo s (if p then t else u) c e x := by
  split
  · exact ht
  · exact hu

theorem State.eccRead_nothing (s : State) : s.eccRead 0 0 = s := by
  have hnone : (s.marks.filter fun e => decide (0 / 8 ≤ e.1) && decide (e.1 * 8 < 0 + 0)) = [] := List.filter_eq_nil_iff.mpr fun e _ => by simp
  unfold State.eccRead
  rw [hnone]
  rfl

section
variable {c e : Nat} {s : State} {q : QEntry} {oper xsrc dest fx fy n xk xsk yk ysk : Nat} {ysc : Bool} {a as y ys : Word}

section
variable (hclean : s.marks = [] ∨ xsrc ≠ 0 ∧ ysc = true)
  (hx : (if xsrc = 0 then s.headRead c (1 + e) q (alignTo 1024 a.toNat) (portBytes fx n) false else .inl 0) = .inl xk)
  (hxs : (if xsrc = 0 ∧ isMx fx = true then s.headRead c (1 + e) q (alignTo 1024 as.toNat) (ceilDiv n 32) false else .inl 0) = .inl xsk)
  (hy : (if ysc = false then s.northRead c e q (alignTo 1024 y.toNat) (portBytes fy n) else .inl 0) = .inl yk)
  (hys : (if ysc = false ∧ isMx fy = true then s.northRead c e q (alignTo 1024 ys.toNat) (ceilDiv n 32) else .inl 0) = .inl ysk)
include hclean hx hxs hy hys

/-- The reads of an EW meet no error: no word holds one, or its sources are a half and the scalar, so that it reads no store. -/
theorem ewReads_clean : (((s.eccRead xk (if xsrc = 0 then portBytes fx n else 0)).eccRead xsk (if xsrc = 0 ∧ isMx fx = true then ceilDiv n 32 else 0)).eccRead yk
    (if ysc = false then portBytes fy n else 0)).eccRead ysk (if ysc = false ∧ isMx fy = true then ceilDiv n 32 else 0) = s := by
  obtain h | ⟨h0, hs⟩ := hclean
  · simp only [State.eccRead_clean h]
  · have hscales : ¬(xsrc = 0 ∧ isMx fx = true) := fun h => h0 h.1
    subst hs
    rw [if_neg h0] at hx
    rw [if_neg hscales] at hxs
    rw [if_neg (by decide)] at hy
    rw [if_neg (by simp)] at hys
    obtain rfl := Sum.inl.inj hx
    obtain rfl := Sum.inl.inj hxs
    obtain rfl := Sum.inl.inj hy
    obtain rfl := Sum.inl.inj hys
    simp only [h0, false_and, if_false, Bool.true_eq_false, State.eccRead_nothing]

/-- An EW goes on to its elements, with no error met in what it reads, and then to the check of what it left. -/
theorem ewOp_runs (u : Option Upset) (hhead : s.headEng c e = some (q, .ew oper xsrc ysc dest fx fy a as y ys n)) (hmode : (eng (s.core c) e).mode = .elementwise)
    (herrs : (eng (s.core c) e).errs = []) :
    ∃ v b, engineTo s v c e
        (bufWrite (4 + dest) 0 (ceilDiv (min n 131072) 2) (ewRun s.mem oper xsrc dest fx fy xk xsk yk ysk (y.toNat % 2 ^ 32) ysc n (eng (s.core c) e)).1) ∧
      ewOp c e u s = (((v.upsetEng c e q u (upsetEw dest n)).doneHead c (1 + e) q).perfAdd (c / 4) (2 * (c % 4) + e) (ceilDiv n 128)).perfUnits (c / 4)
        (8 + (2 * (c % 4) + e)) 65536 b := by
  have hecc := ewReads_clean hclean hx hxs hy hys
  have hfeed := engineTo_feed (engineTo_refl s c e) herrs q.beat (xsrc == 0) (!ysc)
  have hfirst := engineTo_ite (p := xsrc = 0) hfeed (engineTo_bufRead hfeed herrs q.beat (3 + xsrc) 0 (ceilDiv (min n 131072) 2))
  have hread := engineTo_ite (p := oper = 3) (engineTo_bufRead hfirst herrs q.beat (4 + dest) 0 (ceilDiv (min n 131072) 2)) hfirst
  refine ⟨_, (ewRun s.mem oper xsrc dest fx fy xk xsk yk ysk (y.toNat % 2 ^ 32) ysc n (eng (s.core c) e)).2, engineTo_modEng hread fun _ => _, ?_⟩
  unfold ewOp
  simp only [hhead, hmode, ne_eq, not_true_eq_false, if_false, Bool.and_eq_true, beq_iff_eq, Bool.not_eq_true', hx, hxs, hy, hys, andThen, hecc, engineTo_mem hread, engineTo_eng hread]
  rfl

end

end

/-- Settles O12: the elements are taken in order, each index once, so that an element finds its operands as they were. -/
theorem elementWiseOperationsApplyToEveryElement : Obligations.ElementWiseOperationsApplyToEveryElement := by
  intro c e s q oper xsrc ysc dest fx fy a as y ys n xk xsk yk ysk hc he hmarks herrs hdest hxsrc hn hhead hmode hx hxs hy hys
  obtain ⟨l, hqueue⟩ := State.headEng_queue hhead
  obtain ⟨v, b, hto, hrun⟩ := ewOp_runs (.inl hmarks) hx hxs hy hys none hhead hmode herrs
  obtain ⟨heng, hframe, hstate⟩ := engineDone_dies (diesOnly_refl s) (engineDone_doneHead he hqueue hto q)
    (diesOnly_perfs _ (c / 4) (2 * (c % 4) + e) (ceilDiv n 128) (8 + (2 * (c % 4) + e)) 65536 b)
  obtain ⟨hdone, hstays, hother⟩ := ewRun_halves s.mem oper xsrc dest fx fy xk xsk yk ysk (y.toNat % 2 ^ 32) ysc (eng (s.core c) e) n hn
  refine runs_of_need rfl (engineNamed hc he) ?_
  rw [hrun]
  dsimp only
  unfold State.upsetEng
  dsimp only
  rw [heng]
  exact ⟨hdone, hstays dest, fun i => congrArg (fun t => tabGet 0 t i) (hother (1 - dest) (by omega)), hframe, hstate⟩

end Sys2Proof.Machine
end

section
/-! SUPPORT. TILE_OS (R83, R84, R99, R100, R113, R115, R262). -/

namespace Sys2Proof.Machine

/-! ## The bank of a pass (R85, R115) -/

/-- A cell's place in its bank names its row, group and column. -/
theorem cell_place {mt r g cc : Nat} (hr : r < mt) (hg : g < 128 / mt) (hcc : cc < 128) :
    (g * mt + r) * 128 + cc < 16384 ∧ ((g * mt + r) * 128 + cc) / 128 % mt = r ∧ ((g * mt + r) * 128 + cc) / 128 / mt = g ∧ ((g * mt + r) * 128 + cc) % 128 = cc := by
  have hmt : 0 < mt := Nat.zero_lt_of_lt hr
  have hline : ((g * mt + r) * 128 + cc) / 128 = g * mt + r := by omega
  have hbelow : g * mt + r < 128 :=
    calc g * mt + r < g * mt + mt := Nat.add_lt_add_left hr _
      _ = (g + 1) * mt := (Nat.succ_mul g mt).symm
      _ ≤ 128 / mt * mt := Nat.mul_le_mul_right mt hg
      _ ≤ 128 := Nat.div_mul_le_self 128 mt
  refine ⟨by omega, ?_, ?_, by omega⟩
  · rw [hline, Nat.mul_add_mod_of_lt hr]
  · rw [hline, Nat.mul_comm, Nat.mul_add_div hmt, Nat.div_eq_of_lt hr, Nat.add_zero]

section
variable (x : Engine) (o : OsStream) (bank : Nat) (acc : Bool) (fw fn s0 k mt : Nat)

/-- The table of the bank that a pass leaves. -/
def osTab : Tab Half :=
  buildTab 16384 fun i => osCell o fw fn s0 k (i / 128 % mt) (i / 128 / mt) (i % 128) (if acc then some (tabGet 0 (if bank = 0 then x.bank0 else x.bank1) i).toNat else none)

theorem osResult_bank0 : ∃ l, osResult x o 0 acc fw fn s0 k mt =
    { x with bank0 := osTab x o 0 acc fw fn s0 k mt, await0 := true, lastTileOs := true, chainK := s0 + k, errs := l } := by
  have hwrite : ∀ t : Tab Half, ∃ l, { bufWrite 0 0 16384 { x with lastTileOs := true, chainK := s0 + k } with bank0 := t, await0 := true } =
      { x with bank0 := t, await0 := true, lastTileOs := true, chainK := s0 + k, errs := l } := fun _ => ⟨_, rfl⟩
  exact hwrite _

theorem osResult_bank1 : ∃ l, osResult x o 1 acc fw fn s0 k mt =
    { x with bank1 := osTab x o 1 acc fw fn s0 k mt, await1 := true, lastTileOs := true, chainK := s0 + k, errs := l } := by
  have hwrite : ∀ t : Tab Half, ∃ l, { bufWrite 1 0 16384 { x with lastTileOs := true, chainK := s0 + k } with bank1 := t, await1 := true } =
      { x with bank1 := t, await1 := true, lastTileOs := true, chainK := s0 + k, errs := l } := fun _ => ⟨_, rfl⟩
  exact hwrite _

theorem osTab_cell {r g cc : Nat} (hr : r < mt) (hg : g < 128 / mt) (hcc : cc < 128) :
    tabGet 0 (osTab x o bank acc fw fn s0 k mt) ((g * mt + r) * 128 + cc) =
      BitVec.ofNat 32 (osCell o fw fn s0 k r g cc (if acc then some (bankCell x bank mt r g cc).toNat else none)) := by
  obtain ⟨hlt, hrow, hgroup, hcol⟩ := cell_place hr hg hcc
  unfold osTab
  rw [tabGet_buildTab, if_pos hlt, hrow, hgroup, hcol]
  rfl

/-- The latches and the emptied feeders leave what the banks hold. -/
def passEngine : Engine := emptyFeeders (osLatches o mt (s0 + k + mt - 2) (s0 + k + 126) (osResult x o bank acc fw fn s0 k mt))

/-- What a pass leaves in its engine (R83, R84, R85, R113, R115). -/
theorem passEngine_spec (hbank : bank < 2) :
    let y := passEngine x o bank acc fw fn s0 k mt
    (∀ r g cc, r < mt → g < 128 / mt → cc < 128 →
      bankCell y bank mt r g cc = BitVec.ofNat 32 (osCell o fw fn s0 k r g cc (if acc then some (bankCell x bank mt r g cc).toNat else none))) ∧
    (if bank = 0 then y.await0 else y.await1) = true ∧ y.chainK = s0 + k ∧ ∀ r g cc, bankCell y (1 - bank) mt r g cc = bankCell x (1 - bank) mt r g cc := by
  have hcell : ∀ r g cc, r < mt → g < 128 / mt → cc < 128 → _ := fun r g cc hr hg hcc => osTab_cell x o bank acc fw fn s0 k mt hr hg hcc
  unfold passEngine
  obtain rfl | rfl : bank = 0 ∨ bank = 1 := by omega
  · obtain ⟨l, h⟩ := osResult_bank0 x o acc fw fn s0 k mt
    rw [h]
    generalize osTab x o 0 acc fw fn s0 k mt = t at hcell
    exact ⟨hcell, rfl, rfl, fun _ _ _ => rfl⟩
  · obtain ⟨l, h⟩ := osResult_bank1 x o acc fw fn s0 k mt
    rw [h]
    generalize osTab x o 1 acc fw fn s0 k mt = t at hcell
    exact ⟨hcell, rfl, rfl, fun _ _ _ => rfl⟩

end

/-! ## The operation -/

section
variable {c e : Nat} {s : State} {q : QEntry} {l : List QEntry}

theorem engineDone_osPass (he : e < 2) {p : QEntry} (hqueue : unitQueue (s.core c) (1 + e) = p :: l) (herrs : (eng (s.core c) e).errs = []) (o : OsStream) (bank : Nat) (acc : Bool)
    (fw fn s0 k mt gn nkey : Nat) (follow : Bool) :
    engineDone s (s.osPass c e q o bank acc fw fn s0 k mt gn nkey follow none) c e (passEngine (eng (s.core c) e) o bank acc fw fn s0 k mt) := by
  have hread := engineTo_ite (p := acc = true) (engineTo_bufRead (engineTo_refl s c e) herrs q.beat bank 0 16384) (engineTo_refl s c e)
  have hpass := engineTo_modEng (engineTo_feed hread herrs q.beat true true) fun x => passEngine x o bank acc fw fn s0 k mt
  exact engineDone_dies (diesOnly_refl s) (engineDone_doneHead he hqueue hpass q)
    (diesOnly_trans (diesOnly_doneHead (diesOnly_slotDone _ (c / 4) nkey) c (1 + e) q) (diesOnly_perfs _ _ _ _ _ _ _))

/-- A pass that adds to its bank, or whose bank awaits no DRAIN, is not held (R85). -/
theorem pass_not_held {x : Engine} {bank : Nat} {acc : Bool} (h : acc = true ∨ (if bank = 0 then x.await0 else x.await1) = false) :
    (!acc && (if bank = 0 then x.await0 else x.await1)) = false := by
  obtain h | h := h
  · rw [h]; rfl
  · rw [h, Bool.and_false]

/-- Whether a pass goes on its engine's chain (R84). -/
def follows (fo : Bool) (q : QEntry) (x : Engine) : Bool := (fo || q.follow) && x.lastTileOs

/-- The entry of a pass, which keeps that it follows. -/
def chained (fo : Bool) (q : QEntry) (x : Engine) : QEntry := { q with follow := follows fo q x }

/-- The operands of a pass whose west stream is at `wk`, its scales at `wsk` and `nsk`. -/
def osOperands (m : Memory) (x : Engine) (mt fw fn wk wsk nsk : Nat) (north : Nat → Nat → Nat → Nat) : OsStream :=
  { west := westIn m x wk mt, north := north, wScale := scaleSlot m fw wsk, nScale := fun t g cc => scaleSlot m fn nsk (t * (128 / mt) + g) cc }

section
variable {bank fw fn k mt s0 wk wsk nk nsk : Nat} {acc coded fo : Bool} {w ws n ns : Word} {u : Option Upset} (hmarks : s.marks = [])
  (hhead : s.headEng c e = some (q, .tileOs bank acc fw fn coded w ws n ns k)) (hmt : osRows (eng (s.core c) e).mode = some mt)
  (hfree : acc = true ∨ (if bank = 0 then (eng (s.core c) e).await0 else (eng (s.core c) e).await1) = false)
  (hs0 : s0 = if follows fo q (eng (s.core c) e) then (eng (s.core c) e).chainK else 0)
  (hwest : s.headRead c (1 + e) (chained fo q (eng (s.core c) e)) (alignTo 1024 w.toNat) (ceilDiv (s0 + k + mt - 1) (128 / mt) * 1024) false = .inl wk)
  (hwestScale : (if isMx fw then s.headRead c (1 + e) (chained fo q (eng (s.core c) e)) (alignTo 1024 ws.toNat) (scaleBytes (s0 + k + mt - 1)) false else .inl 0) = .inl wsk)

include hmarks hhead hmt hfree hs0 hwest hwestScale

theorem tileOsOp_raw (hcoded : coded = false)
    (hnorth : s.northRead c e (chained fo q (eng (s.core c) e)) (alignTo 1024 n.toNat) ((s0 + k + 127) * (128 / mt) * 1024) = .inl nk)
    (hnorthScale : (if isMx fn then s.northRead c e (chained fo q (eng (s.core c) e)) (alignTo 1024 ns.toNat) (scaleBytes ((s0 + k + 127) * (128 / mt))) else .inl 0) = .inl nsk) :
    ∃ gn, tileOsOp c e fo u s = s.osPass c e (chained fo q (eng (s.core c) e))
      (osOperands s.mem (eng (s.core c) e) mt fw fn wk wsk nsk fun t g cc => northSlot s.mem nk (128 / mt) t g cc) bank acc fw fn s0 k mt gn nk
      (follows fo q (eng (s.core c) e)) u := by
  subst hs0 hcoded
  refine ⟨if nk < loftKey (c / 4) 0 then 1 else 128 / mt, ?_⟩
  unfold chained follows at *
  unfold tileOsOp
  simp only [hhead, hmt, pass_not_held hfree, Bool.false_eq_true, if_false, Bool.false_and, Bool.not_false, Bool.and_true, hwest, hwestScale, hnorth, hnorthScale, andThen,
    State.eccRead_clean hmarks]
  refine congrArg (fun west => s.osPass c e _ { west := west, north := _, wScale := _, nScale := _ } _ _ _ _ _ _ _ _ _ _ _) (funext fun t => funext fun r => ?_)
  unfold westIn
  cases (westSoFar (eng (s.core c) e))[t]? <;> rfl

theorem tileOsOp_coded {el : List Nat} (hcoded : coded = true) (hfn : fn = 0) (hnsk : nsk = 0) (hacc : s.unitAcc c (alignTo 1024 n.toNat) 1 true = .ok nk)
    (hnorth : s.northRead c e (chained fo q (eng (s.core c) e)) (alignTo 1024 n.toNat)
      (streamBytes s.mem (eng (s.core c) e) q.seq nk (4 * ((s0 + k + 127) * (128 / mt)))) = .inl nk)
    (hel : readStream s.mem (eng (s.core c) e) q.seq nk (s.slotGen (c / 4) nk) (4 * ((s0 + k + 127) * (128 / mt)) - blocksIn (eng (s.core c) e))
      (blocksIn (eng (s.core c) e)) (kindFrom s.mem (eng (s.core c) e) q.seq nk (blocksIn (eng (s.core c) e))) = .ok el) :
    ∃ gn, tileOsOp c e fo u s = s.osPass c e (chained fo q (eng (s.core c) e))
      (osOperands s.mem (eng (s.core c) e) mt fw fn wk wsk nsk fun t g cc => codedSlot (codedSoFar (eng (s.core c) e) ++ el) (t * (128 / mt) + g) cc) bank acc fw fn s0 k mt gn nk
      (follows fo q (eng (s.core c) e)) u := by
  subst hs0 hcoded hfn hnsk
  refine ⟨128 / mt, ?_⟩
  have hkey := State.streamKey_ok hacc
  unfold blocksIn at hel
  unfold chained follows at *
  unfold tileOsOp
  simp only [hhead, hmt, pass_not_held hfree, bne_self_eq_false, Bool.and_false, Bool.false_eq_true, if_false, if_true, Bool.not_true, hkey, hwest, hwestScale, hnorth, hel, andThen,
    State.eccRead_clean hmarks, State.codedRead_clean hmarks]
  refine congrArg (fun west => s.osPass c e _ { west := west, north := _, wScale := _, nScale := _ } _ _ _ _ _ _ _ _ _ _ _) (funext fun t => funext fun r => ?_)
  unfold westIn
  cases (westSoFar (eng (s.core c) e))[t]? <;> rfl

end

end

theorem outputStationaryPassAccumulates : OutputStationaryPassAccumulates := by
  intro c e fo s q bank acc fw fn coded w ws n ns k mt s0 wk wsk nk nsk north el hc he hmarks herrs hbank hhead hmt hfree hs0 hwest hwestScale hnorth
  obtain ⟨l, hqueue⟩ := State.headEng_queue hhead
  have hpass : ∃ gn, tileOsOp c e fo none s = s.osPass c e (chained fo q (eng (s.core c) e)) (osOperands s.mem (eng (s.core c) e) mt fw fn wk wsk nsk north) bank acc fw fn s0 k mt gn nk
      (follows fo q (eng (s.core c) e)) none := by
    obtain ⟨hcoded, hread, hscale, rfl⟩ | ⟨hcoded, hfn, hnsk, hacc, hread, hel, rfl⟩ := hnorth
    · exact tileOsOp_raw hmarks hhead hmt hfree hs0 hwest hwestScale hcoded hread hscale
    · exact tileOsOp_coded hmarks hhead hmt hfree hs0 hwest hwestScale hcoded hfn hnsk hacc hread hel
  obtain ⟨gn, hpass⟩ := hpass
  obtain ⟨heng, hframe, hstate⟩ := engineDone_osPass (q := chained fo q (eng (s.core c) e)) he hqueue herrs
    (osOperands s.mem (eng (s.core c) e) mt fw fn wk wsk nsk north) bank acc fw fn s0 k mt gn nk (follows fo q (eng (s.core c) e))
  obtain ⟨hcells, hawait, hchain, hother⟩ := passEngine_spec (eng (s.core c) e) (osOperands s.mem (eng (s.core c) e) mt fw fn wk wsk nsk north) bank acc fw fn s0 k mt hbank
  refine runs_of_need rfl (engineNamed hc he) ?_
  rw [hpass, heng]
  exact ⟨hcells, hawait, hchain, hother, hframe, hstate⟩

end Sys2Proof.Machine
end

section
/-! SUPPORT. TILE_WS (R73, R87, R88, R89, R93, R116, R156). -/

namespace Sys2Proof.Machine

/-! ## The half of a pass -/

theorem tabGet_halfWith (old : Tab Half) (n : Nat) (f : Nat → Nat) {i : Nat} (hi : i < 131072) :
    tabGet 0 (halfWith old n f) i = if i < n then BitVec.ofNat 32 (f i) else tabGet 0 old i := by
  unfold halfWith
  rw [tabGet_buildTab, if_pos hi]
  split
  · rfl
  · rw [BitVec.ofNat_toNat, BitVec.setWidth_eq]

theorem awaiting_putHalf (x : Engine) (h : Nat) (t : Tab Half) (n : Nat) : awaiting (putHalf x h t n) h = max (awaiting x h) n := by
  unfold awaiting putHalf
  split <;> rfl

theorem putHalf_weights (x : Engine) (h : Nat) (t : Tab Half) (n : Nat) : (putHalf x h t n).weights = x.weights := by
  unfold putHalf
  split <;> rfl

/-- A half holds the outputs of as many tokens as its form takes (R77, R87). -/
theorem wsOutputs_fit {mode : EngMode} {rows : Nat} (h : rows ≤ wsLimit mode) : rows * wsWidth mode ≤ 131072 := by
  unfold wsLimit at h
  unfold wsWidth
  split at h
  next hmode => rw [if_pos hmode]; omega
  next hmode => rw [if_neg hmode]; omega

section
variable (m : Memory) (x : Engine) (half : Nat) (acc : Bool) (ft tk tsk rows : Nat)

/-- What a pass over `rows` tokens leaves in its engine. -/
def wsEngine (latch outs : Nat) : Engine := wsLatches m ft latch (bufWrite (4 + half) 0 outs (wsResult m x half acc ft tk tsk rows))

/-- The outputs of a pass stand in its half by token, those of earlier passes beyond them stay, and all await a DRAIN (R88, R89, R93, R116). -/
theorem wsEngine_spec (hrows : rows ≤ wsLimit x.mode) (latch outs : Nat) :
    let y := wsEngine m x half acc ft tk tsk rows latch outs
    let w := wsWidth x.mode
    (∀ i n, i < rows → n < w →
      let v := wsOut m x ft (tk + i * tokenBytes x.mode) (tsk + i * 128) n
      tabGet 0 (getHalf y half) (i * w + n) = BitVec.ofNat 32 (if acc then fp32Add (tabGet 0 (getHalf x half) (i * w + n)).toNat v else v)) ∧
    (∀ j, rows * w ≤ j → j < 131072 → tabGet 0 (getHalf y half) j = tabGet 0 (getHalf x half) j) ∧
    awaiting y half = max (awaiting x half) (rows * w) ∧ y.weights = x.weights := by
  have hfit := wsOutputs_fit hrows
  have hhalf : ∀ t n, getHalf (wsLatches m ft latch (bufWrite (4 + half) 0 outs (putHalf x half t n))) half = t := fun t n =>
    (getHalf_putHalf x half half t n).trans (if_pos Iff.rfl)
  have hawait : ∀ t n, awaiting (wsLatches m ft latch (bufWrite (4 + half) 0 outs (putHalf x half t n))) half = max (awaiting x half) n := fun t n => awaiting_putHalf x half t n
  have hweights : ∀ t n, (wsLatches m ft latch (bufWrite (4 + half) 0 outs (putHalf x half t n))).weights = x.weights := fun t n => putHalf_weights x half t n
  unfold wsEngine wsResult
  dsimp only
  refine ⟨fun i n hi hn => ?_, fun j hj hlt => ?_, hawait _ _, hweights _ _⟩
  · have hplace : i * wsWidth x.mode + n < rows * wsWidth x.mode :=
      calc i * wsWidth x.mode + n < i * wsWidth x.mode + wsWidth x.mode := Nat.add_lt_add_left hn _
        _ = (i + 1) * wsWidth x.mode := (Nat.succ_mul _ _).symm
        _ ≤ rows * wsWidth x.mode := Nat.mul_le_mul_right _ hi
    have hquot : (i * wsWidth x.mode + n) / wsWidth x.mode = i := by
      rw [Nat.mul_comm, Nat.mul_add_div (Nat.zero_lt_of_lt hn), Nat.div_eq_of_lt hn, Nat.add_zero]
    have hrem : (i * wsWidth x.mode + n) % wsWidth x.mode = n := Nat.mul_add_mod_of_lt hn
    rw [hhalf, tabGet_halfWith _ _ _ (by omega), if_pos hplace, hquot, hrem]
  · rw [hhalf, tabGet_halfWith _ _ _ hlt, if_neg (by omega)]

end

/-! ## The operation -/

section
variable {c e : Nat} {s : State} {q : QEntry} {half ft m tk tsk : Nat} {acc : Bool} {a as : Word}

theorem tileWsOp_passes (hmarks : s.marks = []) (herrs : (eng (s.core c) e).errs = []) (hhead : s.headEng c e = some (q, .tileWs half acc ft a as m))
    (hws : isWs (eng (s.core c) e).mode = true) (hclass : sameClass ft (eng (s.core c) e).wFmt = true) (hrows : m ≤ wsLimit (eng (s.core c) e).mode)
    (hfree : acc = true ∨ awaiting (eng (s.core c) e) half = 0)
    (htokens : s.headRead c (1 + e) q (alignTo 1024 a.toNat) (ceilDiv (m * tokenBytes (eng (s.core c) e).mode) 1024 * 1024) false = .inl tk)
    (hscales : (if isMx ft then s.headRead c (1 + e) q (alignTo 1024 as.toNat) (scaleBytes m) false else .inl 0) = .inl tsk) :
    ∃ v latch outs b, engineTo s v c e (wsEngine s.mem (eng (s.core c) e) half acc ft tk tsk m latch outs) ∧
      tileWsOp c e none s = ((v.doneHead c (1 + e) q).perfAdd (c / 4) (2 * (c % 4) + e) m).perfUnits (c / 4) (8 + (2 * (c % 4) + e)) 65536 b := by
  have hbusy : (!acc && decide (0 < (if half = 0 then (eng (s.core c) e).undrained0 else (eng (s.core c) e).undrained1))) = false := by
    obtain h | h := hfree
    · rw [h]; rfl
    · unfold awaiting at h; rw [h]; exact Bool.and_false _
  have hfeed := engineTo_feed (engineTo_bufRead (engineTo_refl s c e) herrs q.beat 2 0 18432) herrs q.beat true false
  have hread := engineTo_ite (p := acc = true) (engineTo_bufRead hfeed herrs q.beat (4 + half) 0 (ceilDiv (m * wsWidth (eng (s.core c) e).mode) 2)) hfeed
  refine ⟨_, _, _, wsGated s.mem (eng (s.core c) e) ft tk m, engineTo_modEng hread fun x => wsEngine s.mem x half acc ft tk tsk m
    (tk + (m - 1) * tokenBytes x.mode) (ceilDiv (m * wsWidth (eng (s.core c) e).mode) 2), ?_⟩
  unfold tileWsOp
  simp only [hhead, hws, hclass, hbusy, Nat.not_lt.mpr hrows, decide_false, Bool.not_true, Bool.or_false, Bool.false_eq_true, if_false, htokens, hscales, andThen,
    State.eccRead_clean hmarks, engineTo_mem hread]
  rfl

end

theorem weightStationaryPassFillsItsHalf : WeightStationaryPassFillsItsHalf := by
  intro c e s q half acc ft a as m tk tsk hc he hmarks herrs hhalf hhead hws hclass hrows hfree htokens hscales
  obtain ⟨l, hqueue⟩ := State.headEng_queue hhead
  obtain ⟨v, latch, outs, b, hto, hrun⟩ := tileWsOp_passes hmarks herrs hhead hws hclass hrows hfree htokens hscales
  obtain ⟨heng, hframe, hstate⟩ := engineDone_dies (diesOnly_refl s) (engineDone_doneHead he hqueue hto q)
    (diesOnly_perfs _ (c / 4) (2 * (c % 4) + e) m (8 + (2 * (c % 4) + e)) 65536 b)
  obtain ⟨houts, hstays, hawait, hweights⟩ := wsEngine_spec s.mem (eng (s.core c) e) half acc ft tk tsk m hrows latch outs
  refine runs_of_need rfl (engineNamed hc he) ?_
  rw [hrun, heng]
  exact ⟨houts, hstays, hawait, hweights, hframe, hstate⟩

end Sys2Proof.Machine
end

section
/-! SUPPORT. Checks that fail in an engine (R128 to R131). -/

namespace Sys2Proof.Machine

/-! ## A fault that stays recorded -/

section
variable {s t u : State} {d code : Nat}

theorem raised_of_held (h : (u.die d).ledger.held = (t.die d).ledger.held) (hraised : raised s t d code) : raised s u d code := by
  obtain ⟨r, hheld, hr⟩ := hraised
  exact ⟨r, h.trans hheld, hr⟩

theorem raised_of_dies (h : u.dies = t.dies) (hraised : raised s t d code) : raised s u d code := raised_of_held (by rw [State.die_of_dies h]) hraised

/-- What a state has raised counts from any earlier one with the same dies and count. -/
theorem raised_from (hdies : t.dies = s.dies) (hnow : t.now = s.now) (hraised : raised t u d code) : raised s u d code := by
  have hdie := State.die_of_dies hdies d
  obtain ⟨r, hheld, hcode, hat, hcount⟩ := hraised
  refine ⟨r, by rw [← hdie]; exact hheld, hcode, hat, hcount.trans ?_⟩
  unfold State.count
  rw [hdie, hnow]

end

theorem State.perfs_held (s : State) (d i n j u m e : Nat) : ((((s.perfAdd d i n).perfUnits d j u m).die e).ledger.held) = (s.die e).ledger.held := by
  unfold State.perfUnits
  dsimp only
  rw [State.perfAdd_held]
  by_cases he : e = d
  · subst he
    rw [State.die_modDie]
    exact s.perfAdd_held e i n e
  · rw [State.die_modDie_ne _ _ he]
    exact s.perfAdd_held d i n e

theorem headDone_of_performed {s t : State} {c u : Nat} (h : performed s t c u) : headDone t c u := by
  obtain ⟨q, l, -, hqueue⟩ := h
  exact ⟨_, l, hqueue, rfl⟩

/-! ## The first failed check of a core and job (R130, R131) -/

/-- The first F_ARITH_CHECK of a core and job stands recorded, and no core has changed. -/
theorem State.arithCheck_first {s : State} {c : Nat} (htold : s.arithTold c = false) (hroom : s.hasRoom (c / 4)) (unit : Nat) (u : Upset) (beat : Nat) :
    raised s (s.arithCheck c unit u beat) (c / 4) fArithCheck ∧ (s.arithCheck c unit u beat).cores = s.cores ∧ (s.arithCheck c unit u beat).fresh = s.fresh := by
  unfold State.arithCheck
  rw [if_neg (by rw [htold]; decide)]
  generalize (le 1 (c % 4) ++ le 1 unit ++ (if unit = uE0 || unit = uE1 then le 1 u.row ++ le 1 u.col else []) ++ le 1 u.check ++ le 4 beat) = detail
  refine ⟨raised_of_dies (State.modCtx_dies _ _ _) (s.raised_raise (c / 4) fArithCheck (s.coreCtxs c) detail hroom), ?_, ?_⟩
  · rw [State.modCtx_cores, s.raise_room_frame (c / 4) fArithCheck (s.coreCtxs c) detail hroom]
  · rw [State.modCtx_fresh, s.raise_room_frame (c / 4) fArithCheck (s.coreCtxs c) detail hroom]

theorem State.arithTold_of {s t : State} {c : Nat} (hctx : (t.core c).ctx = (s.core c).ctx) (hcontexts : t.contexts = s.contexts) : t.arithTold c = s.arithTold c := by
  unfold State.arithTold State.jobCtxs State.ctx State.ctx?
  rw [hctx, hcontexts]

theorem ctx_setEng (x : Core) (e : Nat) (g : Engine) : (setEng x e g).ctx = x.ctx := by
  unfold setEng
  split <;> rfl

/-- An engine operation whose result meets a failed check for the first time raises the fault, whatever its values are. -/
theorem upsetEng_raises {s v : State} {c e : Nat} {x : Engine} (hto : engineTo s v c e x) (htold : s.arithTold c = false) (hroom : s.hasRoom (c / 4)) (q : QEntry) (u : Upset)
    (f : Nat → Upset → Engine → Engine) :
    raised s (v.upsetEng c e q (some u) f) (c / 4) fArithCheck ∧ (∀ k, unitQueue ((v.upsetEng c e q (some u) f).core c) k = unitQueue (s.core c) k) ∧
      (v.upsetEng c e q (some u) f).fresh = s.fresh + 1 := by
  have hfree := engineTo_modEng hto (f v.fresh u)
  have hupset : v.upsetEng c e q (some u) f = ({ v.modEng c e (f v.fresh u) with fresh := v.fresh + 1 } : State).arithCheck c (1 + e) u q.beat := rfl
  have hfresh : v.fresh = s.fresh := by rw [hto.2.2]
  rw [hupset]
  generalize v.modEng c e (f v.fresh u) = w at hfree
  obtain ⟨hcore, -, hframe⟩ := hfree
  have hdies : w.dies = s.dies := by rw [hframe]
  have hnow : w.now = s.now := by rw [hframe]
  have hcontexts : w.contexts = s.contexts := by rw [hframe]
  obtain ⟨hraised, hcores, hafter⟩ := State.arithCheck_first (s := { w with fresh := v.fresh + 1 }) (c := c)
    ((State.arithTold_of (t := { w with fresh := v.fresh + 1 }) ((congrArg Core.ctx hcore).trans (ctx_setEng _ _ _)) hcontexts).trans htold)
    (by have hdie : State.die { w with fresh := v.fresh + 1 } (c / 4) = s.die (c / 4) := State.die_of_dies hdies _
        rw [State.hasRoom, hdie]; exact hroom) (1 + e) u q.beat
  refine ⟨raised_from hdies hnow hraised, fun k => ?_, by rw [hafter, ← hfresh]⟩
  rw [State.core_of_cores hcores c]
  exact (congrArg (fun y => unitQueue y k) hcore).trans (unitQueue_setEng _ _ _ _)

/-! ## DRAIN and EW with a failed check -/

theorem length_packElems {b : Nat} (hb : b ≠ 4) {l l' : List Nat} (h : l.length = l'.length) : (packElems b l).length = (packElems b l').length := by
  unfold packElems
  rw [if_neg hb, if_neg hb]
  simp [List.length_flatMap, length_le, h]

theorem elemBits_ne_four {fmt : Nat} (h : isMx fmt = false) : elemBits fmt ≠ 4 := by
  have hfmt : fmt ≠ 9 := fun hfmt => by rw [hfmt] at h; contradiction
  unfold elemBits
  rw [if_neg hfmt]
  split
  · decide
  · split <;> decide

/-- A failed check leaves as many element codes as the conversion gives. -/
theorem length_struck {fmt : Nat} (hmx : isMx fmt = false) (u : Option (Nat × Nat)) (l : List Nat) (f : Nat → Nat → Nat) :
    (packCodes fmt (strike fmt u (convertCodes fmt l f))).1.length = (packElems (elemBits fmt) (List.replicate l.length 0)).length := by
  refine length_packElems (elemBits_ne_four hmx) ?_
  have hcodes : (convertCodes fmt l f).1.length = l.length := by
    unfold convertCodes
    rw [hmx]
    simp
  rw [List.length_replicate, ← hcodes]
  unfold strike
  split
  · rfl
  · rw [hmx]
    simp

section
variable {c e : Nat} {s : State} {q : QEntry} {u : Upset}

theorem drainOp_upset {src fmt : Nat} {rnd sat : Bool} {d ds : Word} {n : Nat} {c0 field : Word} {k : Nat} (he : e < 2) (htold : s.arithTold c = false)
    (hroom : s.hasRoom (c / 4)) (herrs : (eng (s.core c) e).errs = []) (hmx : isMx fmt = false) (hmode : src < 2 ↔ (osRows (eng (s.core c) e).mode).isSome = true)
    (hhead : s.headEng c e = some (q, .drain src fmt rnd sat d ds n c0 field))
    (hk : s.headWrite c (1 + e) q (alignTo 1024 d.toNat) (packElems (elemBits fmt) (List.replicate n 0)).length false = .inl k) :
    raised s (drainOp c e (some u) s) (c / 4) fArithCheck ∧ headDone (drainOp c e (some u) s) c (1 + e) ∧ s.fresh < (drainOp c e (some u) s).fresh := by
  obtain ⟨l, hqueue⟩ := State.headEng_queue hhead
  have hlen := length_struck hmx (s.struck (some u) n) ((List.range n).map (drainValue (eng (s.core c) e) src ((osRows (eng (s.core c) e).mode).getD 128)))
    fun i v => narrow fmt (s.drainRound c e rnd c0 field i) sat v
  rw [List.length_map, List.length_range] at hlen
  have hrun := drainOp_stores (u := some u) (sk := 0) hhead hmode rfl (by rw [hlen]; exact hk) (by rw [hmx]; rfl)
  unfold State.upsetUnit at hrun
  dsimp only at hrun
  obtain ⟨hraised, hcores, hfresh⟩ := State.arithCheck_first (s := { s with fresh := s.fresh + 1 }) (c := c) htold hroom (1 + e) u q.beat
  generalize ({ s with fresh := s.fresh + 1 } : State).arithCheck c (1 + e) u q.beat = v at hrun hraised hcores hfresh
  have hcore : v.core c = s.core c := State.core_of_cores hcores c
  have hread := engineTo_drainRead (engineTo_refl v c e) (by rw [hcore]; exact herrs) q.beat q.seq src n ((osRows (eng (s.core c) e).mode).getD 128)
  rw [State.putStreams_frame] at hrun
  obtain ⟨t, ht, -, -, hperformed, -, -, hframe⟩ := stored_doneHead he (by rw [hcore]; exact hqueue) hread _ _ (clearAwait src n)
  rw [hrun.trans ht]
  have htdies : t.dies = v.dies := by rw [hframe]
  have htfresh : t.fresh = v.fresh := by rw [hframe]
  exact ⟨raised_of_dies htdies (raised_from rfl rfl hraised), headDone_of_performed hperformed, by rw [htfresh, hfresh]; exact Nat.lt_succ_self s.fresh⟩

theorem ewOp_upset {oper dest fx fy n : Nat} {a as y ys : Word} (he : e < 2) (htold : s.arithTold c = false) (hroom : s.hasRoom (c / 4)) (herrs : (eng (s.core c) e).errs = [])
    (hmode : (eng (s.core c) e).mode = .elementwise) (hhead : s.headEng c e = some (q, .ew oper 1 true dest fx fy a as y ys n)) :
    raised s (ewOp c e (some u) s) (c / 4) fArithCheck ∧ headDone (ewOp c e (some u) s) c (1 + e) ∧ (ewOp c e (some u) s).fresh = s.fresh + 1 := by
  obtain ⟨l, hqueue⟩ := State.headEng_queue hhead
  obtain ⟨v, b, hto, hrun⟩ := ewOp_runs (xk := 0) (xsk := 0) (yk := 0) (ysk := 0) (.inr ⟨by decide, rfl⟩) rfl rfl rfl rfl (some u) hhead hmode herrs
  obtain ⟨hraised, hqueues, hfresh⟩ := upsetEng_raises hto htold hroom q u (upsetEw dest n)
  generalize v.upsetEng c e q (some u) (upsetEw dest n) = w at hrun hraised hqueues hfresh
  have hafter := diesOnly_perfs (w.doneHead c (1 + e) q) (c / 4) (2 * (c % 4) + e) (ceilDiv n 128) (8 + (2 * (c % 4) + e)) 65536 b
  rw [hrun]
  refine ⟨raised_of_held (State.perfs_held _ _ _ _ _ _ _ _) hraised, ?_, ?_⟩
  · unfold headDone
    rw [State.core_of_cores (cores_of_diesOnly hafter)]
    exact headDone_doneHead (by omega) ((hqueues (1 + e)).trans hqueue) q
  · rw [hafter]
    exact hfresh

end

/-! ## SWAP of a shadow with an error in it (R129) -/

theorem shadowWord_lt {w : Nat} (hw : w < 18432) : (3 * 2 ^ 20 + w) / 2 ^ 20 = 3 ∧ (3 * 2 ^ 20 + w) % 2 ^ 20 = w := by omega

section
variable {c e w : Nat} {s : State} {q : QEntry}

/-- The marks that a SWAP meets as it reads the shadow: of one word of it in error, that one. -/
theorem shadowMarks {m : ErrMark} (hw : w < 18432) : [(3 * 2 ^ 20 + w, m)].filter (fun k => k.1 / 2 ^ 20 == 3 && decide (0 ≤ k.1 % 2 ^ 20) && decide (k.1 % 2 ^ 20 < 0 + 18432)) =
    [(3 * 2 ^ 20 + w, m)] := by
  obtain ⟨hbuf, hword⟩ := shadowWord_lt hw
  rw [List.filter_cons_of_pos (by rw [hbuf, hword]; simpa using hw), List.filter_nil]

theorem State.bufRead_double (hw : w < 18432) (herrs : (eng (s.core c) e).errs = [(3 * 2 ^ 20 + w, .double)]) (beat : Nat) :
    ∃ u, s.bufRead c e beat 3 0 18432 = s.arithCheck c (1 + e) u beat := by
  unfold State.bufRead
  rw [herrs]
  dsimp only
  rw [shadowMarks hw, each_cons, each_nil]
  exact ⟨_, rfl⟩

/-- An engine in which a word of a buffer has been corrected. -/
def unmarked (i : Nat) (x : Engine) : Engine := { x with errs := x.errs.filter fun k => k.1 != i }

theorem State.bufRead_single (hw : w < 18432) (herrs : (eng (s.core c) e).errs = [(3 * 2 ^ 20 + w, .single)]) (beat : Nat) :
    s.bufRead c e beat 3 0 18432 = (s.modEng c e (unmarked (3 * 2 ^ 20 + w))).bufCorrect c (8 * e + 3) w := by
  unfold State.bufRead
  rw [herrs]
  dsimp only
  rw [shadowMarks hw, each_cons, each_nil, (shadowWord_lt hw).2]
  rfl

theorem swapped_errs {x : Engine} (h : x.errs = []) : (swapped x).errs = [] := by
  unfold swapped bufWrite
  rw [h]
  rfl

/-- A correction is counted on the core's die, and adds no record to those that it holds; of the cores, one remembers the buffer. -/
theorem State.bufCorrect_spec (s : State) (c buf word : Nat) :
    ((s.bufCorrect c buf word).die (c / 4)).engineCe = stick 12 ((s.die (c / 4)).engineCe + 1) ∧
    ((s.bufCorrect c buf word).die (c / 4)).ledger.held = (s.die (c / 4)).ledger.held ∧
    (s.bufCorrect c buf word).core c = { s.core c with bufTold := addTo (s.core c).bufTold buf } := by
  have hcounted : ∀ (v : State) (f : Die → Die) (g : Core → Core), ((v.modDie (c / 4) f).modCore c g).die (c / 4) = f (v.die (c / 4)) ∧
      ((v.modDie (c / 4) f).modCore c g).core c = g (v.core c) := fun v f _ => ⟨v.die_modDie (c / 4) f, State.core_modCore _ _ _⟩
  unfold State.bufCorrect
  dsimp only
  split
  · refine ⟨?_, ?_, ?_⟩
    · rw [State.note_die_same, (hcounted _ _ _).1]
    · rw [State.note_held, (hcounted _ _ _).1]
    · exact (State.core_of_cores (cores_of_diesOnly (diesOnly_note _ _ _ _ _ _)) c).trans (hcounted _ _ _).2
  · rw [(hcounted _ _ _).1, (hcounted _ _ _).2]
    exact ⟨rfl, rfl, rfl⟩

section
variable {l : List QEntry} (he : e < 2) (hqueue : unitQueue (s.core c) (1 + e) = q :: l)
include he hqueue

/-- A SWAP of a shadow whose double-bit error is the first failed check of its core and job. -/
theorem swap_double (htold : s.arithTold c = false) (hroom : s.hasRoom (c / 4)) (hw : w < 18432) (herrs : (eng (s.core c) e).errs = [(3 * 2 ^ 20 + w, .double)])
    {t : State} (ht : t = ((s.bufRead c e q.beat 3 0 18432).modEng c e swapped).doneHead c (1 + e) q) :
    raised s t (c / 4) fArithCheck ∧ headDone t c (1 + e) ∧ (eng (t.core c) e).weights = (eng (s.core c) e).shadow := by
  obtain ⟨u, hread⟩ := State.bufRead_double hw herrs q.beat
  obtain ⟨hraised, hcores, -⟩ := State.arithCheck_first htold hroom (1 + e) u q.beat
  rw [hread] at ht
  generalize s.arithCheck c (1 + e) u q.beat = v at ht hraised hcores
  have hcore : v.core c = s.core c := State.core_of_cores hcores c
  obtain ⟨heng, ⟨-, -, -, -, hdone⟩, -⟩ := engineDone_doneHead he (by rw [hcore]; exact hqueue) (engineTo_modEng (engineTo_refl v c e) swapped) q
  rw [ht]
  exact ⟨raised_of_dies rfl hraised, hdone, by rw [heng, hcore]; rfl⟩

/-- A SWAP of a shadow with a single-bit error, which it corrects. -/
theorem swap_single (hw : w < 18432) (herrs : (eng (s.core c) e).errs = [(3 * 2 ^ 20 + w, .single)])
    {t : State} (ht : t = ((s.bufRead c e q.beat 3 0 18432).modEng c e swapped).doneHead c (1 + e) q) :
    (t.die (c / 4)).engineCe = min 0xFFF ((s.die (c / 4)).engineCe + 1) ∧ (t.die (c / 4)).ledger.held = (s.die (c / 4)).ledger.held ∧
      (eng (t.core c) e).errs = [] ∧ headDone t c (1 + e) ∧ (eng (t.core c) e).weights = (eng (s.core c) e).shadow := by
  obtain ⟨hcount, hheld, hcore⟩ := (s.modEng c e (unmarked (3 * 2 ^ 20 + w))).bufCorrect_spec c (8 * e + 3) w
  rw [State.bufRead_single hw herrs] at ht
  generalize (s.modEng c e (unmarked (3 * 2 ^ 20 + w))).bufCorrect c (8 * e + 3) w = v at ht hcount hheld hcore
  have hmarked := engineTo_modEng (engineTo_refl s c e) (unmarked (3 * 2 ^ 20 + w))
  have hvqueue : unitQueue (v.core c) (1 + e) = q :: l := by rw [hcore]; exact (engineTo_queue hmarked _).trans hqueue
  have hveng : eng (v.core c) e = unmarked (3 * 2 ^ 20 + w) (eng (s.core c) e) := by rw [hcore]; exact engineTo_eng hmarked
  have hnone : (unmarked (3 * 2 ^ 20 + w) (eng (s.core c) e)).errs = [] := by
    unfold unmarked
    rw [herrs]
    simp
  obtain ⟨heng, ⟨-, -, -, -, hdone⟩, -⟩ := engineDone_doneHead he hvqueue (engineTo_modEng (engineTo_refl v c e) swapped) q
  rw [hveng] at heng
  have hdies : t.die (c / 4) = v.die (c / 4) := by rw [ht]; rfl
  rw [hdies, hcount, hheld, ht, heng]
  exact ⟨rfl, rfl, swapped_errs hnone, hdone, rfl⟩

end

end

theorem failedChecksAreReported : FailedChecksAreReported := by
  intro c e s q hc he
  have hcore := engineNamed hc he
  refine ⟨fun htold hroom => ⟨fun src fmt rnd sat d ds n c0 field k u herrs hmx hmode hhead hk => ?drain, fun oper dest fx fy a as y ys n u herrs hmode hhead => ?ew,
    fun w hw herrs hhead hws hfull => ?double⟩, fun w hw herrs hhead hws hfull => ?single⟩
  case drain => exact runs_of_need rfl hcore (drainOp_upset he htold hroom herrs hmx hmode hhead hk)
  case ew => exact runs_of_need rfl hcore (ewOp_upset he htold hroom herrs hmode hhead)
  case double =>
    obtain ⟨l, hqueue⟩ := State.headEng_queue hhead
    exact runs_of_need rfl hcore (swap_double he hqueue htold hroom hw herrs (swapOp_full hhead hws hfull))
  case single =>
    obtain ⟨l, hqueue⟩ := State.headEng_queue hhead
    exact runs_of_need rfl hcore (swap_single he hqueue hw herrs (swapOp_full hhead hws hfull))

/-- Settles O11: a pass is one update of its engine, whose tables are then read by place; a failed check adds its record and leaves the operation performed. -/
theorem matrixPassesAccumulate : Obligations.MatrixPassesAccumulate :=
  ⟨outputStationaryPassAccumulates, weightStationaryPassFillsItsHalf, failedChecksAreReported⟩

end Sys2Proof.Machine
end

section
/-! SUPPORT. The scalar unit (R128, R130, R149 to R151): an operation is one update of its core, after which the head of the scalar queue is performed. -/

namespace Sys2Proof.Machine

/-! ## The head of the scalar queue -/

theorem State.headScalar_queue {s : State} {c : Nat} {k : ScalarK} {e : QEntry} {o : ScalarOp} (h : s.headScalar c k = some (e, o)) :
    ∃ q, unitQueue (s.core c) uScalar = e :: q := by
  unfold State.headScalar at h
  split at h
  · contradiction
  · split at h
    next p hhead =>
      split at h
      · split at h
        · obtain ⟨rfl, -⟩ := Prod.mk.inj (Option.some.inj h)
          exact (State.headOp_queue hhead).2
        · contradiction
      · contradiction
    · contradiction

@[simp] theorem State.reg_doneHead (s : State) (c u : Nat) (e : QEntry) (j : Nat) : reg ((s.doneHead c u e).core c) j = reg (s.core c) j := by
  unfold State.doneHead State.setHead
  rw [State.core_modCore]
  split
  · exact reg_setUnitQueue _ _ _ _
  · rfl

theorem State.doneHead_core_ne (s : State) {c d : Nat} (u : Nat) (e : QEntry) (h : d ≠ c) : (s.doneHead c u e).core d = s.core d := s.setHead_core_ne u _ h

/-- The operation at the head of a unit's queue is performed in a state whose cores are those of `s`. -/
theorem doneHead_performs {s v : State} {c u : Nat} {e : QEntry} {q : List QEntry} (hu : u < 6) (hcores : v.cores = s.cores)
    (hqueue : unitQueue (s.core c) u = e :: q) :
    (∀ j, reg ((v.doneHead c u e).core c) j = reg (s.core c) j) ∧ performed s (v.doneHead c u e) c u ∧ ∀ d, d ≠ c → (v.doneHead c u e).core d = s.core d := by
  have hcore : ∀ d, v.core d = s.core d := State.core_of_cores hcores
  exact ⟨fun j => by rw [State.reg_doneHead, hcore], performed_doneHead hu hqueue (by rw [hcore]; exact hqueue),
    fun d hd => (State.doneHead_core_ne _ _ _ hd).trans (hcore d)⟩

/-- The operation at the head of a unit's queue updates its core by `g`, which leaves the queue, and is performed. -/
theorem modCore_doneHead {s v : State} {c u : Nat} {e : QEntry} {q : List QEntry} {g : Core → Core} (hu : u < 6) (hcores : v.cores = s.cores)
    (hqueue : unitQueue (s.core c) u = e :: q) (hg : unitQueue (g (s.core c)) u = unitQueue (s.core c) u) :
    performed s ((v.modCore c g).doneHead c u e) c u ∧ (∀ d, d ≠ c → ((v.modCore c g).doneHead c u e).core d = s.core d) ∧
      ((v.modCore c g).doneHead c u e).core c = setUnitQueue (g (s.core c)) u ({ e with done := true, held := none } :: q) := by
  have hcore : (v.modCore c g).core c = g (s.core c) := by rw [State.core_modCore, State.core_of_cores hcores]
  have hqueue' : unitQueue ((v.modCore c g).core c) u = e :: q := by rw [hcore, hg, hqueue]
  refine ⟨performed_doneHead hu hqueue hqueue', fun d hd => ?_, by rw [State.doneHead, State.setHead_core hqueue', hcore]⟩
  rw [State.doneHead_core_ne _ _ _ hd, State.core_modCore_ne _ _ hd, State.core_of_cores hcores]

/-! ## Writes of a register (R143, R148) -/

theorem reg_setReg (x : Core) (r : Nat) (v : Word) (j : Nat) : reg (setReg x r v) j = if j = r then (if r = 0 then 0 else v) else reg x j := by
  unfold reg setReg
  by_cases hr : r = 0
  · subst hr
    by_cases hj : j = 0 <;> simp [hj]
  · rw [if_neg hr, if_neg hr, tabGet_tabSet]
    by_cases hj : j = 0
    · rw [if_pos hj, if_neg (by omega), if_pos hj]
    · rw [if_neg hj, if_neg hj]

theorem unitQueue_setReg (x : Core) (r : Nat) (v : Word) (u : Nat) : unitQueue (setReg x r v) u = unitQueue x u := by
  unfold setReg
  split
  · rfl
  · rfl

/-- An update of a core that writes `v` to s(r) and leaves the other registers and the scalar queue. -/
def writesReg (g : Core → Core) (r : Nat) (v : Word) : Prop :=
  ∀ x, (∀ j, reg (g x) j = if j = r then (if r = 0 then 0 else v) else reg x j) ∧ unitQueue (g x) uScalar = unitQueue x uScalar

theorem writesReg_setReg (r : Nat) (v : Word) : writesReg (fun x => setReg x r v) r v := fun x => ⟨reg_setReg x r v, unitQueue_setReg x r v uScalar⟩

theorem writesReg_writeResult (r : Nat) (v : Word) : writesReg (writeResult r v) r v := writesReg_setReg r v

/-- A scalar operation that writes s(r), in a state whose cores are those of `s`. -/
theorem writesReg_performs {s v : State} {c : Nat} {e : QEntry} {q : List QEntry} {g : Core → Core} {r : Nat} {w : Word} (hcores : v.cores = s.cores)
    (hqueue : unitQueue (s.core c) uScalar = e :: q) (hg : writesReg g r w) :
    reg (((v.modCore c g).doneHead c uScalar e).core c) r = (if r = 0 then 0 else w) ∧
      (∀ j, j ≠ r → reg (((v.modCore c g).doneHead c uScalar e).core c) j = reg (s.core c) j) ∧ performed s ((v.modCore c g).doneHead c uScalar e) c uScalar ∧
      ∀ d, d ≠ c → ((v.modCore c g).doneHead c uScalar e).core d = s.core d := by
  obtain ⟨hreg, hstays⟩ := hg (s.core c)
  obtain ⟨hperformed, hother, -⟩ := modCore_doneHead (by decide) hcores hqueue hstays
  have hread : ∀ j, reg (((v.modCore c g).doneHead c uScalar e).core c) j = reg (g (s.core c)) j := fun j => by
    rw [State.reg_doneHead, State.core_modCore, State.core_of_cores hcores]
  exact ⟨by rw [hread, hreg, if_pos rfl], fun j hj => by rw [hread, hreg, if_neg hj], hperformed, hother⟩

/-! ## A failed check (R128, R130, R131) -/

/-- The first failed check of a core and job changes dies and contexts alone. -/
theorem State.arithCheck_frame {s : State} {c : Nat} (htold : s.arithTold c = false) (hroom : s.hasRoom (c / 4)) (unit : Nat) (u : Upset) (beat : Nat) :
    s.arithCheck c unit u beat = { s with dies := (s.arithCheck c unit u beat).dies, contexts := (s.arithCheck c unit u beat).contexts } := by
  generalize hv : s.arithCheck c unit u beat = v
  unfold State.arithCheck at hv
  rw [if_neg (by rw [htold]; decide)] at hv
  generalize (le 1 (c % 4) ++ le 1 unit ++ (if unit = uE0 || unit = uE1 then le 1 u.row ++ le 1 u.col else []) ++ le 1 u.check ++ le 4 beat) = detail at hv
  have hraise := s.raise_room_frame (c / 4) fArithCheck (s.coreCtxs c) detail hroom
  generalize s.raise (c / 4) fArithCheck (s.coreCtxs c) detail = w at hv hraise
  have hmod := w.modCtx_frame ((s.core c).ctx.getD noCtx) fun x => { x with arithTold := addTo x.arithTold c }
  rw [hv] at hmod
  have hdies : v.dies = w.dies := by rw [hmod]
  calc v = { w with contexts := v.contexts } := hmod
    _ = { s with dies := w.dies, contexts := v.contexts } := congrArg (fun x : State => { x with contexts := v.contexts }) hraise
    _ = { s with dies := v.dies, contexts := v.contexts } := by rw [hdies]

/-- The first failed check of a core and job raises its fault; nothing changes but dies, contexts and the number of the next free value. -/
theorem State.upsetUnit_first {s : State} {c : Nat} (htold : s.arithTold c = false) (hroom : s.hasRoom (c / 4)) (unit : Nat) (u : Upset) (beat : Nat) :
    raised s (s.upsetUnit c unit (some u) beat) (c / 4) fArithCheck ∧ s.upsetUnit c unit (some u) beat = { s with
      dies := (s.upsetUnit c unit (some u) beat).dies, contexts := (s.upsetUnit c unit (some u) beat).contexts, fresh := s.fresh + 1 } :=
  ⟨raised_from rfl rfl (State.arithCheck_first (s := { s with fresh := s.fresh + 1 }) htold hroom unit u beat).1,
    State.arithCheck_frame (s := { s with fresh := s.fresh + 1 }) htold hroom unit u beat⟩

/-! ## Operations that write s(RD) (R149) -/

theorem alu_head {s : State} {c : Nat} {k : ScalarK} {e : QEntry} {o : ScalarOp} (h : s.headScalar c k = some (e, o)) (f : ScalarOp → Word) (u : Option Upset) :
    alu k f c u s = ((s.upsetUnit c uScalar u e.beat).modCore c (writeResult o.rd (s.upsetWord u (f o)))).doneHead c uScalar e := by
  unfold alu
  rw [h]

theorem aluLong_head {s : State} {c : Nat} {k : ScalarK} {e : QEntry} {o : ScalarOp} (h : s.headScalar c k = some (e, o)) (f : ScalarOp → Word) (u : Option Upset) :
    aluLong k f c u s = ((s.upsetUnit c uScalar u e.beat).modCore c fun x => setReg x o.rd (s.upsetWord u (f o))).doneHead c uScalar e := by
  unfold aluLong
  rw [h]

/-- A command whose meaning is one write of s(RD), checked or not, with the value `f`. -/
def writesRd (run : Option Upset → Nat → State → State) (k : ScalarK) (f : State → Nat → ScalarOp → Word) : Prop :=
  ∀ (c : Nat) (s : State) (e : QEntry) (o : ScalarOp) (u : Option Upset), s.headScalar c k = some (e, o) →
    ∃ g, writesReg g o.rd (s.upsetWord u (f s c o)) ∧ run u c s = ((s.upsetUnit c uScalar u e.beat).modCore c g).doneHead c uScalar e

theorem writesRd_alu (k : ScalarK) (f : State → Nat → ScalarOp → Word) : writesRd (fun u c s => alu k (f s c) c u s) k f :=
  fun _ _ _ _ u h => ⟨_, writesReg_writeResult _ _, alu_head h _ u⟩

theorem writesRd_aluLong (k : ScalarK) (f : State → Nat → ScalarOp → Word) : writesRd (fun u c s => aluLong k (f s c) c u s) k f :=
  fun _ _ _ _ u h => ⟨_, writesReg_setReg _ _, aluLong_head h _ u⟩

section
variable {run : Option Upset → Nat → State → State} {k : ScalarK} {f : State → Nat → ScalarOp → Word}

theorem scalarWritesResult_of {i : Nat → Instr} (h : writesRd run k f) (hexec : ∀ c s, exec (i c) s = need (isCore c) (run none c s)) :
    scalarWritesResult i k f := by
  intro c s e o hc hhead
  obtain ⟨q, hqueue⟩ := State.headScalar_queue hhead
  obtain ⟨g, hg, hrun⟩ := h c s e o none hhead
  refine runs_of_need (hexec c s) hc ?_
  rw [hrun]
  obtain ⟨hrd, hregs, hperformed, hother⟩ := writesReg_performs (v := s) rfl hqueue hg
  exact ⟨hrd, hregs, hperformed, hother, rfl⟩

theorem scalarUpset_of {i : Nat → Option Upset → Instr} (h : writesRd run k f) (hexec : ∀ c s u, exec (i c u) s = need (isCore c) (run u c s)) :
    scalarUpset i k := by
  intro c s e o u hc hhead htold hroom
  obtain ⟨q, hqueue⟩ := State.headScalar_queue hhead
  obtain ⟨g, hg, hrun⟩ := h c s e o (some u) hhead
  obtain ⟨hraised, hframe⟩ := State.upsetUnit_first htold hroom uScalar u e.beat
  refine runs_of_need (hexec c s (some u)) hc ?_
  rw [hrun]
  generalize s.upsetUnit c uScalar (some u) e.beat = v at hraised hframe
  obtain ⟨hrd, hregs, hperformed, hother⟩ := writesReg_performs (v := v) (by rw [hframe]) hqueue hg
  have hfresh : v.fresh = s.fresh + 1 := by rw [hframe]
  refine ⟨raised_of_dies rfl hraised, hrd, hfresh, hregs, hperformed, hother, ?_⟩
  exact congrArg (fun w : State => { w with cores := ((v.modCore c g).doneHead c uScalar e).cores, fresh := v.fresh }) hframe

end

theorem scalarWritesResult_alu {i : Nat → Instr} {k : ScalarK} {f : State → Nat → ScalarOp → Word}
    (hexec : ∀ c s, exec (i c) s = need (isCore c) (alu k (f s c) c none s)) : scalarWritesResult i k f := scalarWritesResult_of (writesRd_alu k f) hexec

theorem scalarWritesResult_aluLong {i : Nat → Instr} {k : ScalarK} {f : State → Nat → ScalarOp → Word}
    (hexec : ∀ c s, exec (i c) s = need (isCore c) (aluLong k (f s c) c none s)) : scalarWritesResult i k f := scalarWritesResult_of (writesRd_aluLong k f) hexec

theorem scalarOperationsWriteTheirResult : ScalarOperationsWriteTheirResult := by
  refine ⟨?add, ?sub, ?mul, ?and, ?or, ?xor, ?shl, ?shr, ?sltu, ?addi, ?ori, ?shli, ?shri, ?rdtb, ?rdid, ?addUpset, ?subUpset, ?mulUpset, ?sltuUpset, ?addiUpset⟩
  case mul | rdtb => exact scalarWritesResult_aluLong fun _ _ => rfl
  case addUpset => exact scalarUpset_of (writesRd_alu .add fun _ _ o => o.a + o.b) fun _ _ _ => rfl
  case subUpset => exact scalarUpset_of (writesRd_alu .sub fun _ _ o => o.a - o.b) fun _ _ _ => rfl
  case mulUpset => exact scalarUpset_of (writesRd_aluLong .mul fun _ _ o => o.a * o.b) fun _ _ _ => rfl
  case sltuUpset => exact scalarUpset_of (writesRd_alu .sltu fun _ _ o => if o.a.toNat < o.b.toNat then 1 else 0) fun _ _ _ => rfl
  case addiUpset => exact scalarUpset_of (writesRd_alu .addi fun _ _ o => o.a + simm o) fun _ _ _ => rfl
  case add | sub | and | or | xor | shl | shr | sltu | addi | ori | shli | shri | rdid => exact scalarWritesResult_alu fun _ _ => rfl

/-! ## LD and ST (R149, R150) -/

section
variable {s : State} {c k : Nat} {e : QEntry} {o : ScalarOp}

/-- The address of an access stands as a 64-bit word. -/
theorem toNat_ofNat_lsAddr (o : ScalarOp) : (BitVec.ofNat 64 (lsAddr o)).toNat = lsAddr o := toNat_ofNat_word (o.a + simm o).isLt

theorem ldOp_reads (hhead : s.headScalar c .ld = some (e, o)) (halign : lsAddr o % 8 = 0) (hread : s.headRead c uScalar e (lsAddr o) 8 false = .inl k) :
    ldOp c none s = ((s.eccRead k 8).modCore c fun x => setReg x o.rd (BitVec.ofNat 64 (readLe s.mem k 8))).doneHead c uScalar e := by
  simp only [ldOp, hhead, State.upsetWord, State.upsetUnit, toNat_ofNat_lsAddr, halign, hread, ne_eq, not_true_eq_false, if_false, andThen]

theorem stOp_writes (hhead : s.headScalar c .st = some (e, o)) (halign : lsAddr o % 8 = 0) (hwrite : s.headWrite c uScalar e (lsAddr o) 8 false = .inl k) :
    stOp c none s = (s.putWords k (le 8 o.d.toNat)).doneHead c uScalar e := by
  simp only [stOp, hhead, State.upsetWord, State.upsetUnit, toNat_ofNat_lsAddr, halign, hwrite, ne_eq, not_true_eq_false, if_false, andThen]

end

theorem loadAndStoreMoveOneShelfWord : LoadAndStoreMoveOneShelfWord := by
  intro c s e o k hc halign hmarks
  refine ⟨fun hhead hread => ?load, fun hhead hwf hwrite => ?store⟩
  case load =>
    obtain ⟨q, hqueue⟩ := State.headScalar_queue hhead
    refine runs_of_need rfl hc ?_
    rw [ldOp_reads hhead halign hread, State.eccRead_clean hmarks]
    obtain ⟨hrd, hregs, hperformed, -⟩ := writesReg_performs (v := s) rfl hqueue (writesReg_setReg o.rd (BitVec.ofNat 64 (readLe s.mem k 8)))
    exact ⟨hrd, hregs, hperformed, rfl⟩
  case store =>
    obtain ⟨q, hqueue⟩ := State.headScalar_queue hhead
    have hlen : (le 8 o.d.toNat).length = 8 := length_le 8 _
    obtain ⟨hword, helsewhere⟩ := landed_putWords (u := s) rfl hwf k (le 8 o.d.toNat)
    rw [State.putWords_whole hmarks k (by rw [hlen])] at hword helsewhere
    refine runs_of_need rfl hc ?_
    rw [stOp_writes hhead halign hwrite, State.putWords_whole hmarks k (by rw [hlen])]
    obtain ⟨hregs, hperformed, -⟩ := doneHead_performs (v := { s with mem := writeBytes s.mem k (le 8 o.d.toNat) }) (by decide) rfl hqueue
    refine ⟨?_, fun a ha => helsewhere a (by rw [hlen]; exact ha), hregs, hperformed, rfl⟩
    rw [hlen] at hword
    exact (congrArg ofLe hword).trans (ofLe_le 8 _ o.d.isLt)

/-! ## Branches and HALT (R149, R151) -/

theorem takeBranch_head {b t : Nat} {o : ScalarOp} {x : Core} (h : branchTarget b o.imm.toNat x.length = some t) : (takeBranch b o x).head = t := by
  unfold takeBranch
  rw [h]
  dsimp only [Option.getD_some]
  split
  · rfl
  · rfl

theorem takeBranch_scalar (b : Nat) (o : ScalarOp) (x : Core) (j : Nat) : unitQueue (takeBranch b o x) uScalar = unitQueue x uScalar ∧ reg (takeBranch b o x) j = reg x j := by
  unfold takeBranch
  dsimp only
  split
  · exact ⟨rfl, rfl⟩
  · exact ⟨rfl, rfl⟩

/-- The core of a branch once its condition is known. -/
def branched (taken : Bool) (b : Nat) (o : ScalarOp) (x : Core) : Core := if taken then takeBranch b o x else x

theorem branched_head {b t : Nat} {o : ScalarOp} {x : Core} (taken : Bool) (h : branchTarget b o.imm.toNat x.length = some t) :
    (branched taken b o x).head = if taken then t else x.head := by
  cases taken with
  | true => exact takeBranch_head h
  | false => rfl

theorem branched_scalar (taken : Bool) (b : Nat) (o : ScalarOp) (x : Core) (j : Nat) :
    unitQueue (branched taken b o x) uScalar = unitQueue x uScalar ∧ reg (branched taken b o x) j = reg x j := by
  cases taken with
  | true => exact takeBranch_scalar b o x j
  | false => exact ⟨rfl, rfl⟩

theorem head_setUnitQueue (x : Core) (u : Nat) (q : List QEntry) : (setUnitQueue x u q).head = x.head := by
  unfold setUnitQueue
  split <;> rfl

/-- A branch is one update of its core, after what it writes. -/
theorem branches_of {i : Nat → Instr} {k : ScalarK} {p : ScalarOp → Bool} (g : ScalarOp → Core → Core)
    (hg : ∀ o x, (g o x).head = x.head ∧ (g o x).length = x.length ∧ unitQueue (g o x) uScalar = unitQueue x uScalar)
    (hexec : ∀ c s e o, s.headScalar c k = some (e, o) →
      exec (i c) s = need (isCore c) ((s.modCore c fun x => branched (p o) e.bundle o (g o x)).doneHead c uScalar e)) : branches i k p := by
  intro c s e o b hc hhead htarget
  obtain ⟨q, hqueue⟩ := State.headScalar_queue hhead
  obtain ⟨hkeeps, hlength, hstays⟩ := hg o (s.core c)
  obtain ⟨hperformed, -, hcore⟩ := modCore_doneHead (v := s) (g := fun x => branched (p o) e.bundle o (g o x)) (by decide) rfl hqueue
    ((branched_scalar (p o) e.bundle o (g o (s.core c)) 0).1.trans hstays)
  refine runs_of_need (hexec c s e o hhead) hc ⟨?_, hperformed, rfl⟩
  rw [hcore, head_setUnitQueue, branched_head _ (by rw [hlength]; exact htarget), hkeeps]

theorem branchOp_head {s : State} {c : Nat} {k : ScalarK} {e : QEntry} {o : ScalarOp} (h : s.headScalar c k = some (e, o)) (p : Word → Bool) :
    branchOp k p c s = (s.modCore c fun x => branched (p o.a) e.bundle o x).doneHead c uScalar e := by
  unfold branchOp
  rw [h]
  rfl

theorem dbnzOp_head {s : State} {c : Nat} {e : QEntry} {o : ScalarOp} (h : s.headScalar c .dbnz = some (e, o)) :
    dbnzOp c none s = (s.modCore c fun x => branched (o.ra != 0 && o.a - 1 != 0) e.bundle o
      (writeResult o.ra (if o.ra = 0 then 0 else o.a - 1) x)).doneHead c uScalar e := by
  unfold dbnzOp
  rw [h]
  by_cases hra : o.ra = 0
  · simp [hra, State.upsetUnit, branched]
  · simp [hra, State.upsetUnit, State.upsetWord, branched]

theorem haltOp_head {s : State} {c : Nat} {e : QEntry} {o : ScalarOp} (h : s.headScalar c .halt = some (e, o)) :
    haltOp c s = (s.modCore c fun x => { x with halted := true }).doneHead c uScalar e := by
  unfold haltOp
  rw [h]

theorem writeResult_issue (r : Nat) (v : Word) (x : Core) :
    (writeResult r v x).head = x.head ∧ (writeResult r v x).length = x.length ∧ unitQueue (writeResult r v x) uScalar = unitQueue x uScalar := by
  unfold writeResult setReg
  split
  · exact ⟨rfl, rfl, rfl⟩
  · exact ⟨rfl, rfl, rfl⟩

/-- DBNZ writes s(RA) whether it branches or not. -/
theorem writesReg_branched {g : Core → Core} {r : Nat} {v : Word} (hg : writesReg g r v) (taken : Bool) (b : Nat) (o : ScalarOp) :
    writesReg (fun x => branched taken b o (g x)) r v := fun x =>
  ⟨fun j => (branched_scalar taken b o (g x) j).2.trans ((hg x).1 j), (branched_scalar taken b o (g x) 0).1.trans (hg x).2⟩

theorem branchesAndHalt : BranchesAndHalt := by
  refine ⟨?bz, ?bnz, ?dbnz, fun c s e o hc hhead => ?decrement, fun c s e o hc hhead => ?halt⟩
  case bz => exact branches_of (fun _ x => x) (fun _ _ => ⟨rfl, rfl, rfl⟩) fun c s e o h => congrArg (need (isCore c)) (branchOp_head h _)
  case bnz => exact branches_of (fun _ x => x) (fun _ _ => ⟨rfl, rfl, rfl⟩) fun c s e o h => congrArg (need (isCore c)) (branchOp_head h _)
  case dbnz =>
    exact branches_of (fun o => writeResult o.ra (if o.ra = 0 then 0 else o.a - 1)) (fun _ => writeResult_issue _ _) fun c s e o h =>
      congrArg (need (isCore c)) (dbnzOp_head h)
  case decrement =>
    obtain ⟨q, hqueue⟩ := State.headScalar_queue hhead
    refine runs_of_need rfl hc ?_
    rw [dbnzOp_head hhead]
    obtain ⟨hra, hregs, -, -⟩ := writesReg_performs (v := s) rfl hqueue (writesReg_branched (writesReg_writeResult o.ra (if o.ra = 0 then 0 else o.a - 1))
      (o.ra != 0 && o.a - 1 != 0) e.bundle o)
    exact ⟨hra.trans (by split <;> rfl), hregs⟩
  case halt =>
    obtain ⟨q, hqueue⟩ := State.headScalar_queue hhead
    refine runs_of_need rfl hc ?_
    rw [haltOp_head hhead]
    obtain ⟨hperformed, -, hcore⟩ := modCore_doneHead (v := s) (g := fun x => { x with halted := true }) (by decide) rfl hqueue rfl
    exact ⟨by rw [hcore]; rfl, hperformed, rfl⟩

/-- Settles O5: each operation of the scalar unit is one update of its core, and memory changes by the word of an ST alone. -/
theorem scalarUnitActs : Obligations.ScalarUnitActs := ⟨scalarOperationsWriteTheirResult, loadAndStoreMoveOneShelfWord, branchesAndHalt⟩

end Sys2Proof.Machine
end

section
/-! SUPPORT. The finishing unit (R123, R125, R128 to R130, R169 to R172): what its operations store, and the values of its functions. -/

namespace Sys2Proof.Machine

/-! ## The head of the finishing queue -/

theorem State.headFin_queue {s : State} {c : Nat} {k : FinK} {e : QEntry} {o : FinOp} (h : s.headFin c k = some (e, o)) :
    ∃ q, unitQueue (s.core c) uFinish = e :: q := by
  unfold State.headFin at h
  split at h
  · contradiction
  · split at h
    next p hhead =>
      split at h
      · split at h
        · obtain ⟨rfl, -⟩ := Prod.mk.inj (Option.some.inj h)
          exact (State.headOp_queue hhead).2
        · contradiction
      · contradiction
    · contradiction

/-! ## Streams of a clean store (R129, R178, R182) -/

theorem State.tableRead_clean {s : State} {c : Nat} (h : (s.core c).finErrs = []) (e : QEntry) (k : FinK) : s.tableRead c e k = s := by
  unfold State.tableRead
  rw [h]
  rfl

theorem State.putStreams_marks {s : State} (h : s.marks = []) (fmt k sk : Nat) (r : List Byte × List Byte) : (s.putStreams fmt k sk r).marks = [] := by
  unfold State.putStreams State.putWords
  split <;> simp [h]

theorem streamStored_doneHead {s : State} (hwf : s.mem.wf = true) (fmt k sk : Nat) (r : List Byte × List Byte) (c : Nat) (e : QEntry) :
    streamStored s ((s.putStreams fmt k sk r).doneHead c uFinish e) fmt r k sk := by
  refine ⟨fun hmx => putStreams_elements rfl hwf hmx k sk r, fun hmx => ?_⟩
  obtain ⟨hscales, helsewhere, helements⟩ := putStreams_scales (t := s) rfl hwf hmx k sk r
  exact ⟨hscales, helements, helsewhere⟩

/-- With no error standing in any word, what is stored changes memory alone. -/
theorem State.putStreams_clean {s : State} (h : s.marks = []) (fmt k sk : Nat) (r : List Byte × List Byte) :
    s.putStreams fmt k sk r = { s with mem := (s.putStreams fmt k sk r).mem } := by
  have hframe := s.putStreams_frame fmt k sk r
  rwa [(State.putStreams_marks h fmt k sk r).trans h.symm] at hframe

/-! ## A function over its elements (R170) -/

/-- The elements and scales that an operation stores: `f` of each input by index and value, narrowed, one of them free where a check failed. -/
def finStreams (s : State) (o : FinOp) (u : Option Upset) (f : Nat → Nat → Nat) (rk rsk : Nat) : List Byte × List Byte :=
  packCodes o.fmtOut (strike o.fmtOut (s.struck u o.n) (convertCodes o.fmtOut ((List.range o.n).map fun i => f i (portElem s.mem o.fmtIn rk rsk i))
    fun _ v => finNarrow o.fmtOut v))

/-- An operation whose streams can be reached, where no word that it reads and no table holds an error, stores its result. -/
theorem State.finMap_stores {s v : State} {c rk rsk dk dsk : Nat} {e : QEntry} {o : FinOp} {u : Option Upset} {f : Nat → Nat → Nat}
    {r : List Byte × List Byte} (hv : s.upsetUnit c uFinish u e.beat = v) (hmarks : v.marks = []) (herrs : (v.core c).finErrs = [])
    (hread : s.headRead c uFinish e (alignTo 1024 o.s.toNat) (portBytes o.fmtIn o.n) false = .inl rk)
    (hscales : (if isMx o.fmtIn then s.headRead c uFinish e (alignTo 1024 o.ss.toNat) (ceilDiv o.n 32) false else .inl 0) = .inl rsk)
    (hr : finStreams s o u f rk rsk = r) (hwrite : s.headWrite c uFinish e (alignTo 1024 o.d.toNat) r.1.length false = .inl dk)
    (hdscales : (if isMx o.fmtOut then s.headWrite c uFinish e (alignTo 1024 o.ds.toNat) r.2.length false else .inl 0) = .inl dsk) :
    s.finMap c e o u f = (v.putStreams o.fmtOut dk dsk r).doneHead c uFinish e := by
  subst hr
  unfold finStreams at hwrite hdscales
  unfold State.finMap
  simp only [hread, hscales, andThen, hwrite, hdscales, hv, State.tableRead_clean herrs, State.eccRead_clean hmarks]
  rfl

/-- A command whose meaning is the function `f` over the elements of its operation. -/
def mapsElements (run : Nat → Option Upset → State → State) (k : FinK) (f : State → Nat → FinOp → Nat → Nat → Nat) : Prop :=
  ∀ (c : Nat) (s : State) (e : QEntry) (o : FinOp) (u : Option Upset), s.headFin c k = some (e, o) → run c u s = s.finMap c e o u (f s c o)

theorem mapsElements_finOp (k : FinK) : mapsElements (finOp k) k fun _ _ _ _ v => finValue k v := by
  intro c s e o u h
  unfold finOp
  rw [h]

theorem mapsElements_dropOp : mapsElements dropOp .drop fun s c o i v =>
    if draw24 (genWord (s.seedOf c) (s.finStream c 2 o) o.p0 i) < bits o.p2.toNat 0 24 then fp32Mul v (bits o.p1.toNat 32 32) else 0 := by
  intro c s e o u h
  unfold dropOp
  rw [h]

section
variable {run : Nat → Option Upset → State → State} {k : FinK} {f : State → Nat → FinOp → Nat → Nat → Nat}

theorem finishes_of {i : Nat → Instr} (h : mapsElements run k f) (hexec : ∀ c s, exec (i c) s = need (isCore c) (run c none s)) : finishes i k f := by
  intro c s e o rk rsk dk dsk hc hmarks hwf herrs hhead hread hscales r hwrite hdscales
  obtain ⟨q, hqueue⟩ := State.headFin_queue hhead
  refine runs_of_need (hexec c s) hc ?_
  rw [h c s e o none hhead, State.finMap_stores (s := s) (v := s) (u := none) rfl hmarks herrs hread hscales rfl hwrite hdscales]
  have hstored := State.putStreams_clean hmarks o.fmtOut dk dsk r
  obtain ⟨hregs, hperformed, hother⟩ := doneHead_performs (v := s.putStreams o.fmtOut dk dsk r) (by decide) (by rw [hstored]) hqueue
  exact ⟨streamStored_doneHead hwf o.fmtOut dk dsk r c e, hregs, hperformed, hother,
    congrArg (fun w : State => { w with cores := ((s.putStreams o.fmtOut dk dsk r).doneHead c uFinish e).cores }) hstored⟩

theorem finishUpset_of {i : Nat → Option Upset → Instr} (h : mapsElements run k f) (hexec : ∀ c u s, exec (i c u) s = need (isCore c) (run c u s)) :
    finishUpset i k := by
  intro c s e o u rk rsk dk hc hmarks herrs hhead hmx htold hroom hread hscales hwrite
  obtain ⟨q, hqueue⟩ := State.headFin_queue hhead
  obtain ⟨hraised, hframe⟩ := State.upsetUnit_first htold hroom uFinish u e.beat
  generalize hv : s.upsetUnit c uFinish (some u) e.beat = v at hraised hframe
  have hcores : v.cores = s.cores := by rw [hframe]
  have hvmarks : v.marks = s.marks := by rw [hframe]
  have hfresh : v.fresh = s.fresh + 1 := by rw [hframe]
  have hlength := length_struck hmx (s.struck (some u) o.n) ((List.range o.n).map fun j => f s c o j (portElem s.mem o.fmtIn rk rsk j)) fun _ w => finNarrow o.fmtOut w
  rw [List.length_map, List.length_range] at hlength
  refine runs_of_need (hexec c (some u) s) hc ?_
  rw [h c s e o (some u) hhead, State.finMap_stores (dsk := 0) hv (hvmarks.trans hmarks) (by rw [State.core_of_cores hcores]; exact herrs) hread hscales rfl
    (by unfold finStreams; rw [hlength]; exact hwrite) (by rw [hmx]; rfl)]
  have hstored := v.putStreams_frame o.fmtOut dk 0 (finStreams s o (some u) (f s c o) rk rsk)
  generalize v.putStreams o.fmtOut dk 0 (finStreams s o (some u) (f s c o) rk rsk) = w at hstored
  have hdies : w.dies = v.dies := by rw [hstored]
  have hfresh' : w.fresh = v.fresh := by rw [hstored]
  obtain ⟨hregs, hperformed, -⟩ := doneHead_performs (v := w) (by decide) ((by rw [hstored] : w.cores = v.cores).trans hcores) hqueue
  exact ⟨raised_of_dies hdies hraised, hfresh'.trans hfresh, hperformed, hregs⟩

end

theorem finishingFunctionsApplyToEveryElement : FinishingFunctionsApplyToEveryElement := by
  refine ⟨?exp, ?rcp, ?rsqrt, ?gelu, ?silu, ?cvt, ?drop, ?expUpset, ?rcpUpset, ?rsqrtUpset, ?geluUpset, ?siluUpset, ?cvtUpset, ?dropUpset⟩
  case exp | rcp | rsqrt | gelu | silu | cvt => exact finishes_of (mapsElements_finOp _) fun _ _ => rfl
  case drop => exact finishes_of mapsElements_dropOp fun _ _ => rfl
  case expUpset | rcpUpset | rsqrtUpset | geluUpset | siluUpset | cvtUpset => exact finishUpset_of (mapsElements_finOp _) fun _ _ _ => rfl
  case dropUpset => exact finishUpset_of mapsElements_dropOp fun _ _ _ => rfl

/-! ## The bounds of the functions (R170) -/

theorem codeBelow_le (n : Nat) : codeBelow n ≤ f32Inf := by
  unfold codeBelow
  split
  · unfold f32Inf; omega
  · exact Nat.min_le_left _ _

theorem keyTo_le (hi : Int) : keyTo hi ≤ f32Inf := by
  have hcode := codeBelow_le (hi / 2 ^ 251).natAbs
  unfold keyTo
  dsimp only
  split <;> omega

/-- The code at a place in the order stands at that place. -/
theorem fp32Key_keyCode {k : Int} (h : k ≤ f32Inf) : fp32Key (keyCode k) = k := by
  unfold f32Inf at h
  unfold fp32Key keyCode
  split <;> split <;> omega

/-- A code held between two places in the order lies there, where the lower one lies below the upper. -/
theorem finHeld_within {k : FinK} {neg : Bool} {m : Nat} {x : Int}
    (h : keyFrom ((finEncl k neg m x).1 - finError k (finEncl k neg m x)) ≤ keyTo ((finEncl k neg m x).2 + finError k (finEncl k neg m x))) (v : Nat) :
    keyFrom ((finEncl k neg m x).1 - finError k (finEncl k neg m x)) ≤ fp32Key (finHeld k neg m x v) ∧
      fp32Key (finHeld k neg m x v) ≤ keyTo ((finEncl k neg m x).2 + finError k (finEncl k neg m x)) := by
  unfold finHeld
  dsimp only
  have hupper := keyTo_le ((finEncl k neg m x).2 + finError k (finEncl k neg m x))
  generalize keyFrom ((finEncl k neg m x).1 - finError k (finEncl k neg m x)) = lo at h ⊢
  generalize keyTo ((finEncl k neg m x).2 + finError k (finEncl k neg m x)) = hi at h hupper ⊢
  rw [fp32Key_keyCode (by omega)]
  omega

/-! ## Ordinary inputs -/

theorem finFree_ordinary {k : FinK} {n v m : Nat} {neg : Bool} {x : Int} (h : ofFp32 v = .fin neg m x) (hm : m ≠ 0 ∨ k = .exp) :
    finFree k n v = finHeld k neg m x (Config.finish n (BitVec.ofNat 32 v)).toNat := by
  have hzero : (decide (m = 0) && k != .exp) = false := by
    rcases hm with hm | rfl
    · rw [decide_eq_false hm]; rfl
    · exact Bool.and_false _
  unfold finFree
  rw [h]
  dsimp only
  rw [hzero]
  rfl

/-- A finite code lies below the infinity, and its sign is its top bit. -/
theorem ofFp32_fin {v m : Nat} {neg : Bool} {x : Int} (hv : v < 2 ^ 32) (h : ofFp32 v = .fin neg m x) :
    v % 0x80000000 < f32Inf ∧ (neg = false → v < 0x80000000) ∧ (v % 0x80000000 = 0 → m = 0) := by
  have hcode : bits v 0 (fp32.ebits + fp32.mbits) = v % 0x80000000 := by simp [bits, fp32]
  have hsign : bit v (fp32.ebits + fp32.mbits) = decide (0x80000000 ≤ v) := by
    unfold bit fp32
    rw [Nat.testBit_eq_decide_div_mod_eq]
    exact decide_eq_decide.mpr (by norm_num; omega)
  have hexp : bits v fp32.mbits fp32.ebits = v / 0x800000 % 256 := rfl
  have hmant : bits v 0 fp32.mbits = v % 0x800000 := by simp [bits, fp32]
  unfold ofFp32 decodeFloat at h
  rw [hcode, hsign, hexp, hmant] at h
  dsimp only at h
  split at h
  · split at h <;> contradiction
  next hfinite =>
    have hbelow : v % 0x80000000 < f32Inf := by
      have hmax : fp32.maxCode = 0x7F7FFFFF := rfl
      unfold f32Inf
      omega
    split at h
    · obtain ⟨rfl, rfl, -⟩ := FV.fin.inj h
      exact ⟨hbelow, fun hneg => not_le.mp (of_decide_eq_false hneg), fun hzero => by omega⟩
    next hnormal =>
      obtain ⟨rfl, rfl, -⟩ := FV.fin.inj h
      exact ⟨hbelow, fun hneg => not_le.mp (of_decide_eq_false hneg), fun hzero => absurd (by omega) hnormal⟩

/-- On an ordinary input a function of R170 answers a value held within its bound. -/
theorem finValue_ordinary {k : FinK} {v m : Nat} {neg : Bool} {x : Int} (hk : k ∈ [FinK.exp, .rcp, .rsqrt, .gelu, .silu]) (hv : v < 2 ^ 32)
    (h : ofFp32 v = .fin neg m x) (hm : m ≠ 0 ∨ k = .exp) (hneg : k = .rsqrt → neg = false) : ∃ w, finValue k v = finHeld k neg m x w := by
  obtain ⟨hbelow, hsign, hzero⟩ := ofFp32_fin hv h
  have hnum : f32IsNan v = false := decide_eq_false (by omega)
  have hinf : v ≠ f32Inf ∧ v ≠ f32NegInf := by unfold f32Inf at *; unfold f32NegInf; omega
  have hvalue : ∀ n, finFree k n v = finHeld k neg m x (Config.finish n (BitVec.ofNat 32 v)).toNat := fun n => finFree_ordinary h hm
  have hsigned : k ≠ .exp → v ≠ 0 ∧ v ≠ f32NegZero := fun hexp => by
    have hm' := hm.resolve_right hexp
    unfold f32NegZero
    omega
  unfold finValue
  rw [hnum, if_neg Bool.false_ne_true]
  cases k with
  | exp => exact ⟨_, (by simp only [hinf, if_false]; exact hvalue 1)⟩
  | rcp =>
    obtain ⟨hpos, hnegative⟩ := hsigned nofun
    exact ⟨_, (by simp only [hinf, hpos, hnegative, if_false]; exact hvalue 2)⟩
  | rsqrt =>
    obtain ⟨hpos, hnegative⟩ := hsigned nofun
    have hlow := hsign (hneg rfl)
    exact ⟨_, (by simp only [hinf, hpos, hnegative, Nat.not_le.mpr hlow, if_false]; exact hvalue 3)⟩
  | gelu => exact ⟨_, (by simp only [hinf, if_false]; exact hvalue 4)⟩
  | silu => exact ⟨_, (by simp only [hinf, if_false]; exact hvalue 5)⟩
  | drop | sample | cvt => simp at hk

theorem finValue_nan (k : FinK) {v : Nat} (h : f32IsNan v = true) : finValue k v = f32Nan := if_pos h

/-- RSQRT of a negative number is the quiet NaN. -/
theorem finValue_rsqrt_negative {v : Nat} (h : f32IsNan v = false) (hneg : f32NegZero < v) : finValue .rsqrt v = f32Nan := by
  unfold f32NegZero at hneg
  have hpos : v ≠ 0 ∧ v ≠ f32NegZero ∧ v ≠ f32Inf := by unfold f32NegZero f32Inf; omega
  have hsign : 0x80000000 ≤ v := by omega
  unfold finValue
  simp only [h, hpos, hsign, if_false, if_true, Bool.false_eq_true]

theorem finishingSpecialInputs : FinishingSpecialInputs := by
  refine ⟨finValue_nan, rfl, rfl, rfl, rfl, rfl, rfl, rfl, rfl, rfl, fun v h => finValue_rsqrt_negative h, rfl, rfl, rfl, rfl, fun v h => ?cvt,
    fun k v neg m x hk hv hfin hm hneg => ?bound⟩
  case cvt => exact if_neg (by rw [h]; decide)
  case bound =>
    obtain ⟨w, hw⟩ := finValue_ordinary hk hv hfin hm hneg
    intro r lo hi hle
    rw [hw]
    exact finHeld_within hle w

/-! ## SAMPLE (R172) -/

theorem le_toNat_ofNat (n : Nat) : le 8 (BitVec.ofNat 64 n).toNat = le 8 n := by
  rw [BitVec.toNat_ofNat]
  exact List.reverse_injective (be_mod 8 n)

theorem sampleOp_stores {s : State} {c rk dk : Nat} {e : QEntry} {o : FinOp} (hmarks : s.marks = []) (herrs : (s.core c).finErrs = [])
    (hhead : s.headFin c .sample = some (e, o)) (hread : s.headRead c uFinish e (alignTo 1024 o.s.toNat) (4 * o.n) false = .inl rk)
    (hwrite : s.headWrite c uFinish e (alignTo 8 o.d.toNat) 8 false = .inl dk) :
    sampleOp c none s = (s.putWords dk (le 8 (sampleIndex ((List.range o.n).map fun i => sampleWeight (readLe s.mem (rk + 4 * i) 4))
      (draw24 (genWord (s.seedOf c) (s.finStream c 3 o) o.p0 0))))).doneHead c uFinish e := by
  simp only [sampleOp, hhead, hread, hwrite, andThen, State.upsetWord, State.upsetUnit, State.tableRead_clean herrs, State.eccRead_clean hmarks, le_toNat_ofNat]

theorem sampleIndex_none {l : List Nat} (h : l.foldl fp32Add 0 = 0 ∨ l.foldl fp32Add 0 = f32Inf) (u : Nat) : sampleIndex l u = 0xFFFFFFFF := if_pos h

/-- The index is one of a weight: the first past the target, or the last weight that is not zero. -/
theorem sampleIndex_lt {l : List Nat} (hne : l ≠ []) (hzero : l.foldl fp32Add 0 ≠ 0) (hinf : l.foldl fp32Add 0 ≠ f32Inf) (u : Nat) : sampleIndex l u < l.length := by
  have hindex : ∀ p ∈ l.zipIdx, p.2 < l.length := fun p hp => List.snd_lt_of_mem_zipIdx hp
  unfold sampleIndex
  dsimp only
  rw [if_neg (not_or.mpr ⟨hzero, hinf⟩)]
  generalize fp32Mul (encodeFloat fp32 .even false false u (-24)) (l.foldl fp32Add 0) = target
  split
  next i hi =>
    revert i
    refine List.foldlRecOn (motive := fun a : Nat × Option Nat => ∀ i, a.2 = some i → i < l.length) _ _ (fun _ h => nomatch h) fun a ha p hp i hi => ?_
    dsimp only at hi
    split at hi
    next j hj => exact ha i (hj.trans hi)
    next =>
      split at hi
      · obtain rfl := Option.some.inj hi
        exact hindex p hp
      · contradiction
  next =>
    refine List.foldlRecOn (motive := fun a : Nat => a < l.length) _ _ (List.length_pos_of_ne_nil hne) fun a ha i hi => ?_
    obtain ⟨p, hp, rfl⟩ := List.mem_map.mp hi
    exact Nat.max_lt.mpr ⟨ha, hindex p (List.mem_filter.mp hp).1⟩

theorem sampleStoresItsIndex : SampleStoresItsIndex := by
  refine ⟨fun c s e o rk dk hc hmarks hwf herrs hhead hread hwrite => ?stores, fun l u => ⟨fun h => sampleIndex_none h u, fun hne hzero hinf => sampleIndex_lt hne hzero hinf u⟩⟩
  obtain ⟨q, hqueue⟩ := State.headFin_queue hhead
  refine runs_of_need rfl hc ?_
  rw [sampleOp_stores hmarks herrs hhead hread hwrite]
  generalize sampleIndex ((List.range o.n).map fun i => sampleWeight (readLe s.mem (rk + 4 * i) 4)) (draw24 (genWord (s.seedOf c) (s.finStream c 3 o) o.p0 0)) = n
  have hlen : (le 8 n).length = 8 := length_le 8 n
  obtain ⟨hword, helsewhere⟩ := landed_putWords (u := s) rfl hwf dk (le 8 n)
  rw [hlen] at hword helsewhere
  rw [State.putWords_whole hmarks dk (by rw [hlen])] at hword helsewhere ⊢
  obtain ⟨hregs, hperformed, -⟩ := doneHead_performs (v := { s with mem := writeBytes s.mem dk (le 8 n) }) (by decide) rfl hqueue
  exact ⟨hword, helsewhere, hregs, hperformed, rfl⟩

/-- Settles O13: an operation stores its streams where every access goes on, a held value lies within its bound, and SAMPLE answers an index of its list. -/
theorem finishingFunctionsAndSamples : Obligations.FinishingFunctionsAndSamples :=
  ⟨finishingFunctionsApplyToEveryElement, finishingSpecialInputs, sampleStoresItsIndex⟩

end Sys2Proof.Machine
end

section
/-! SUPPORT. The tally port of a core (R144, R166 to R168, R295 to R300): what an operation leaves at its tally, and what the port sends. -/

namespace Sys2Proof.Machine

/-! ## An update of one core -/

/-- From `s` to `t` core `c` has become `x`, and nothing else has changed. -/
def coreTo (s t : State) (c : Nat) (x : Core) : Prop :=
  t.core c = x ∧ (∀ d, d ≠ c → t.core d = s.core d) ∧ t = { s with cores := t.cores }

theorem coreTo_refl (s : State) (c : Nat) : coreTo s s c (s.core c) := ⟨rfl, fun _ _ => rfl, rfl⟩

theorem coreTo_modCore {s t : State} {c : Nat} {x : Core} (h : coreTo s t c x) (f : Core → Core) : coreTo s (t.modCore c f) c (f x) := by
  obtain ⟨hcore, hother, hframe⟩ := h
  exact ⟨by rw [State.core_modCore, hcore], fun d hd => (State.core_modCore_ne _ _ hd).trans (hother d hd),
    congrArg (fun u : State => { u with cores := (t.modCore c f).cores }) hframe⟩

theorem coreTo_frame {s t : State} {c : Nat} {x : Core} (h : coreTo s t c x) : t = { s with cores := t.cores, dies := t.dies } := by
  rw [h.2.2]

/-- The operation at the head of a unit's queue is performed. -/
theorem coreTo_doneHead {s : State} {c u : Nat} {e : QEntry} {q : List QEntry} (h : unitQueue (s.core c) u = e :: q) :
    coreTo s (s.doneHead c u e) c (setUnitQueue (s.core c) u ({ e with done := true, held := none } :: q)) :=
  ⟨State.setHead_core h _, fun _ hd => State.doneHead_core_ne _ _ _ hd, rfl⟩

theorem performed_coreTo {s t : State} {c u : Nat} {e : QEntry} {q : List QEntry} {x : Core} (h : unitQueue (s.core c) u = e :: q) (hto : coreTo s t c x)
    (hx : unitQueue x u = { e with done := true, held := none } :: q) : performed s t c u :=
  ⟨e, q, h, by rw [hto.1, hx]⟩

theorem coreTo_reg {s t : State} {c : Nat} {x : Core} (h : coreTo s t c x) (hregs : x.regs = (s.core c).regs) (d j : Nat) : reg (t.core d) j = reg (s.core d) j := by
  obtain ⟨hcore, hother, -⟩ := h
  by_cases hd : d = c
  · subst hd
    unfold reg
    rw [hcore, hregs]
  · rw [hother d hd]

/-! ## Tallies after an update of one core (R291) -/

theorem isCore_lt {c : Nat} (h : isCore c = true) : c < 1000 := by
  have := of_decide_eq_true h
  omega

theorem State.tally_core (s : State) {c : Nat} (h : c < 1000) (i : Nat) : s.tally c i = tabGet {} (s.core c).tallies i := if_pos h

/-- The tallies at a home other than the core updated are as before. -/
theorem tally_coreTo_ne {s t : State} {c : Nat} {x : Core} (h : coreTo s t c x) {g : Nat} (hg : g ≠ c) (j : Nat) : t.tally g j = s.tally g j := by
  obtain ⟨-, hother, hframe⟩ := h
  have hdie (d : Nat) : t.die d = s.die d := by rw [hframe]; rfl
  unfold State.tally
  rw [hother g hg, hdie]

theorem tally_coreTo {s t : State} {c : Nat} {x : Core} (h : coreTo s t c x) (hx : x.tallies = (s.core c).tallies) (g j : Nat) : t.tally g j = s.tally g j := by
  by_cases hg : g = c
  · subst hg
    have hdie (d : Nat) : t.die d = s.die d := by rw [h.2.2]; rfl
    unfold State.tally
    rw [h.1, hx, hdie]
  · exact tally_coreTo_ne h hg j

/-- A core whose tally `i` alone, and not its registers, has come to hold `v`. -/
theorem tally_coreTo_set {s t : State} {c i : Nat} {x : Core} {v : Tally} (hc : c < 1000) (h : coreTo s t c x) (hx : x.tallies = tabSet (s.core c).tallies i v)
    (hregs : x.regs = (s.core c).regs) : t.tally c i = v ∧ otherTallies s t c i := by
  have hhere (j : Nat) : t.tally c j = tabGet {} (tabSet (s.core c).tallies i v) j := by rw [State.tally_core _ hc, h.1, hx]
  refine ⟨(hhere i).trans (tabGet_tabSet_same _ _ _ _), fun g j hne => ?_, coreTo_reg h hregs⟩
  by_cases hg : g = c
  · subst hg
    have hj : j ≠ i := fun hj => hne (by rw [hj])
    rw [hhere, tabGet_tabSet_ne _ _ _ hj, State.tally_core _ hc]
  · exact tally_coreTo_ne h hg j

theorem otherTallies_coreTo {s t : State} {c : Nat} {x : Core} (h : coreTo s t c x) (hx : x.tallies = (s.core c).tallies) (hregs : x.regs = (s.core c).regs) (g i : Nat) :
    otherTallies s t g i :=
  ⟨fun _ _ _ => tally_coreTo h hx _ _, coreTo_reg h hregs⟩

/-- A map entry leads where it led (R295). -/
theorem tallyHome_coreTo {s t : State} {c : Nat} {x : Core} (h : coreTo s t c x) (hx : x.masked = (s.core c).masked) (e : TallyEntry) (d : Nat) :
    t.tallyHome e d = s.tallyHome e d := by
  obtain ⟨hcore, hother, hframe⟩ := h
  have hinv : t.inv = s.inv := by rw [hframe]
  have hmasked (k : Nat) : (t.core k).masked = (s.core k).masked := by
    by_cases hk : k = c
    · rw [hk, hcore, hx]
    · rw [hother k hk]
  have hactive : t.coreActive = s.coreActive := funext fun k => by unfold State.coreActive; rw [hinv, hmasked]
  unfold State.tallyHome State.coreOf State.activeCores State.dieCores
  rw [hinv, hactive]

/-- A core with its tally `i` at `v`. -/
def withTally (i : Nat) (v : Tally) (x : Core) : Core := { x with tallies := tabSet x.tallies i v }

theorem State.setTally_core (s : State) {c : Nat} (h : c < 1000) (i : Nat) (v : Tally) : s.setTally c i v = s.modCore c (withTally i v) := if_pos h

/-- A message is in flight to its tally. -/
def State.sendMsg (s : State) (m : TallyMsg) : State := { s with tallyMsgs := s.tallyMsgs ++ [m] }

/-- A message that has left changes no tally. -/
theorem tally_sendMsg (s : State) (m : TallyMsg) (g j : Nat) : (s.sendMsg m).tally g j = s.tally g j := rfl

/-! ## Operations at their tally (R297, R298) -/

/-- A wait for a value that its tally holds is satisfied, and a WAITDEC subtracts it. -/
theorem State.applyTally_wait {s : State} {m : TallyMsg} (hact : m.act = .wait ∨ m.act = .waitdec) (hn : m.n ≤ (s.tally m.home m.index).value.toNat) :
    s.applyTally m = (if m.act = .waitdec then s.setTally m.home m.index { s.tally m.home m.index with
      value := BitVec.ofNat 32 ((s.tally m.home m.index).value.toNat - m.n) } else s).satisfy m.core := by
  have hwait : s.applyTally m = s.tallyWait m := by
    unfold State.applyTally
    obtain h | h := hact <;> rw [h]
  rw [hwait]
  unfold State.tallyWait
  dsimp only
  rw [if_pos hn]
  simp only [beq_iff_eq]

/-- An INC that no link counts and no wait stands for adds N. -/
theorem State.applyTally_inc {s : State} {m : TallyMsg} {l : Launch} (hact : m.act = .inc) (hlaunch : s.launchOf m.ctx = some l) (hlink : isLinkVid l m.vid = false)
    (hwaits : (s.tally m.home m.index).waits = []) (hn : (s.tally m.home m.index).value.toNat + m.n < 2 ^ 32) :
    s.applyTally m = s.setTally m.home m.index { value := BitVec.ofNat 32 ((s.tally m.home m.index).value.toNat + m.n), waits := [] } := by
  have hfull : linkOfFull l m.vid = none := Option.isSome_eq_false_iff.mp (Bool.or_eq_false_iff.mp hlink).1 |> Option.isNone_iff_eq_none.mp
  unfold State.applyTally
  rw [hact]
  dsimp only
  rw [State.incWithLink, hlaunch, Option.bind_some, hfull]
  dsimp only
  rw [State.tallyInc, if_pos hn, State.raiseTally, hwaits]
  rfl

/-- A DEC of no more than its tally holds subtracts N. -/
theorem State.applyTally_dec {s : State} {m : TallyMsg} (hact : m.act = .dec) (hn : m.n ≤ (s.tally m.home m.index).value.toNat) :
    s.applyTally m = s.setTally m.home m.index { s.tally m.home m.index with value := BitVec.ofNat 32 ((s.tally m.home m.index).value.toNat - m.n) } := by
  unfold State.applyTally
  rw [hact]
  exact if_pos hn

/-- A value no larger than a tally's fits in a tally. -/
theorem toNat_ofNat_sub (v : Half) (n : Nat) : (BitVec.ofNat 32 (v.toNat - n)).toNat = v.toNat - n := by
  have := v.isLt
  rw [BitVec.toNat_ofNat, Nat.mod_eq_of_lt (by omega)]

/-! ## The satisfaction of a wait (R300) -/

theorem waitSatisfactionArrive_satisfied {s : State} {c : Nat} (h : (s.core c).wait = .satisfied) :
    waitSatisfactionArrive c s = s.modCore c fun x => { x with wait := .granted } := if_pos h

theorem satisfactionGrantsTheWait : SatisfactionGrantsTheWait := by
  intro c s hc hwait
  refine runs_of_need rfl hc ?_
  rw [waitSatisfactionArrive_satisfied hwait]
  exact coreTo_modCore (coreTo_refl s c) _

/-- A wait satisfied at its own core is granted. -/
theorem coreTo_granted {s t : State} {c : Nat} {x : Core} (h : coreTo s t c x) : coreTo s (waitSatisfactionArrive c (t.satisfy c)) c { x with wait := .granted } := by
  have hsatisfied := coreTo_modCore h fun y => { y with wait := .satisfied }
  rw [waitSatisfactionArrive_satisfied (by rw [State.satisfy, hsatisfied.1])]
  exact coreTo_modCore hsatisfied _

/-! ## WAIT, WAITDEC and the retry of a wait (R144, R167, R298, R299) -/

theorem coreTo_waitSent (s : State) (c : Nat) : coreTo s (s.waitSent c) c { s.core c with wait := .sent } := coreTo_modCore (coreTo_refl s c) _

/-- The wait of the head bundle goes to the tally that its virtual id names: where the core is its home it is performed there at once and its satisfaction has arrived, else
it is a message. -/
theorem State.sendWait_named {s : State} {c h i : Nat} {k : TallyK} {o : TallyOp} {act : TallyAct} (hnames : namesTally s c o.vid act h i)
    (hact : (if k = .waitdec then TallyAct.waitdec else .wait) = act) :
    ∃ m : TallyMsg, (m.home = h ∧ m.index = i ∧ m.act = act ∧ m.n = o.n ∧ m.core = c) ∧
      s.sendWait c k o = if h = c then waitSatisfactionArrive c ((s.waitSent c).applyTally m) else (s.waitSent c).sendMsg m := by
  obtain ⟨x, l, e, hctx, hlaunch, hfind, hhome, huse, -⟩ := hnames
  refine Exists.intro ?message ⟨?fields, ?sends⟩
  case sends =>
    unfold State.sendWait waitSatisfactionArrive
    simp only [hctx, Option.bind_some, hlaunch, hfind, hhome, hact, huse, Bool.not_true, Bool.false_eq_true, if_false, beq_iff_eq]
    rfl
  case fields => exact ⟨rfl, rfl, rfl, rfl, rfl⟩

section
variable {s : State} {c i : Nat} {k : TallyK} {o : TallyOp} {act : TallyAct} (hact : (if k = .waitdec then TallyAct.waitdec else .wait) = act)
include hact

/-- A wait of no more than a tally of the core's own holds is granted, and a WAITDEC has subtracted it. -/
theorem State.sendWait_own (hc : c < 1000) (hnames : namesTally s c o.vid act c i) (hn : o.n ≤ (s.tally c i).value.toNat) :
    ((s.sendWait c k o).core c).wait = .granted ∧
    ((s.sendWait c k o).tally c i).value.toNat = (s.tally c i).value.toNat - (if act = .waitdec then o.n else 0) ∧
    otherTallies s (s.sendWait c k o) c i ∧ s.sendWait c k o = { s with cores := (s.sendWait c k o).cores, dies := (s.sendWait c k o).dies } := by
  obtain ⟨m, ⟨hhome, hindex, hmact, hmn, hcore⟩, hsend⟩ := State.sendWait_named hnames hact
  have hsent := coreTo_waitSent s c
  have htally : (s.waitSent c).tally c i = s.tally c i := tally_coreTo hsent rfl c i
  have hwait : m.act = .wait ∨ m.act = .waitdec := by rw [hmact, ← hact]; split <;> simp
  have happly := State.applyTally_wait (s := s.waitSent c) hwait (by rw [hhome, hindex, hmn, htally]; exact hn)
  rw [hhome, hindex, hmact, hmn, hcore, htally, State.setTally_core _ hc] at happly
  rw [if_pos rfl, happly] at hsend
  rw [hsend]
  by_cases hdec : act = .waitdec
  · rw [if_pos hdec, if_pos hdec]
    have hto := coreTo_granted (coreTo_modCore hsent (withTally i { s.tally c i with value := BitVec.ofNat 32 ((s.tally c i).value.toNat - o.n) }))
    obtain ⟨hvalue, hothers⟩ := tally_coreTo_set hc hto rfl rfl
    exact ⟨by rw [hto.1], by rw [hvalue, toNat_ofNat_sub], hothers, coreTo_frame hto⟩
  · rw [if_neg hdec, if_neg hdec]
    have hto := coreTo_granted hsent
    exact ⟨by rw [hto.1], by rw [tally_coreTo hto rfl, Nat.sub_zero], otherTallies_coreTo hto rfl rfl c i, coreTo_frame hto⟩

/-- A wait on a tally elsewhere leaves as a message. -/
theorem State.sendWait_away {h : Nat} (hnames : namesTally s c o.vid act h i) (hne : h ≠ c) :
    ((s.sendWait c k o).core c).wait = .sent ∧
    (∃ m, (s.sendWait c k o).tallyMsgs = s.tallyMsgs ++ [m] ∧ m.home = h ∧ m.index = i ∧ m.act = act ∧ m.n = o.n ∧ m.core = c) ∧
    (∀ g j, (s.sendWait c k o).tally g j = s.tally g j) ∧
    s.sendWait c k o = { s with cores := (s.sendWait c k o).cores, tallyMsgs := (s.sendWait c k o).tallyMsgs } := by
  obtain ⟨m, hfields, hsend⟩ := State.sendWait_named hnames hact
  rw [hsend, if_neg hne]
  have hsent := coreTo_waitSent s c
  exact ⟨congrArg Core.wait hsent.1, ⟨m, rfl, hfields⟩, fun g j => (tally_sendMsg _ m g j).trans (tally_coreTo hsent rfl g j), rfl⟩

end

/-- Each of the three commands sends the wait of the head bundle. -/
theorem waitCommand_sends {c : Nat} {s : State} {o : TallyOp} {r : Nat → Instr} {act : TallyAct} (hhead : headWait (s.core c) = some o)
    (hcommand : r = .wait ∧ o.k = .wait ∧ act = .wait ∧ s.waitReady c = true ∧ (s.core c).wait = .none ∨
      r = .waitdec ∧ o.k = .waitdec ∧ act = .waitdec ∧ s.waitReady c = true ∧ (s.core c).wait = .none ∨
      r = .waitRegisterRetry ∧ (o.k = .wait ∧ act = .wait ∨ o.k = .waitdec ∧ act = .waitdec) ∧ s.issues c = true ∧ (s.core c).wait = .retry) :
    (if o.k = .waitdec then TallyAct.waitdec else .wait) = act ∧ exec (r c) s = need (isCore c) (s.sendWait c o.k o) := by
  have hact {k : TallyK} {a : TallyAct} (h : k = .wait ∧ a = .wait ∨ k = .waitdec ∧ a = .waitdec) : (if k = .waitdec then TallyAct.waitdec else .wait) = a := by
    obtain ⟨rfl, rfl⟩ | ⟨rfl, rfl⟩ := h <;> rfl
  have hop (hready : s.waitReady c = true) (hwait : (s.core c).wait = .none) : waitOp o.k c s = s.sendWait c o.k o := by
    unfold waitOp
    rw [hhead]
    exact if_pos (by rw [hready, hwait]; simp)
  obtain ⟨rfl, hk, ha, hready, hwait⟩ | ⟨rfl, hk, ha, hready, hwait⟩ | ⟨rfl, hk, hissues, hwait⟩ := hcommand
  · refine ⟨hact (.inl ⟨hk, ha⟩), ?_⟩
    rw [← hop hready hwait, hk]
    rfl
  · refine ⟨hact (.inr ⟨hk, ha⟩), ?_⟩
    rw [← hop hready hwait, hk]
    rfl
  · refine ⟨hact hk, congrArg (need (isCore c)) ?_⟩
    unfold waitRegisterRetry
    rw [hhead]
    exact if_pos (by rw [hissues, hwait]; rfl)

theorem waitsAreSent : WaitsAreSent := by
  intro c s o h i hc hhead r act hnames hcommand
  obtain ⟨hact, hexec⟩ := waitCommand_sends hhead hcommand
  refine ⟨fun hown hn => runs_of_need hexec hc ?_, fun hne => runs_of_need hexec hc (State.sendWait_away hact hnames hne)⟩
  subst hown
  exact State.sendWait_own hact (isCore_lt hc) hnames hn

/-! ## INC and DEC (R168, R295, R297, R298) -/

/-- An INC or a DEC goes to the tally that its virtual id names: it is performed there at once where the core is its home, else it is a message. -/
theorem State.sendTally_named {s : State} {c h i : Nat} {o : TallyOp} {act : TallyAct} (hnames : namesTally s c o.vid act h i) (e : QEntry) :
    ∃ (m : TallyMsg) (l : Launch), (m.home = h ∧ m.index = i ∧ m.act = act ∧ m.n = o.n) ∧ s.launchOf m.ctx = some l ∧ isLinkVid l m.vid = false ∧
      s.sendTally c e o act = if h = c then s.applyTally m else s.sendMsg m := by
  obtain ⟨x, l, t, hctx, hlaunch, hfind, hhome, huse, hlink⟩ := hnames
  have hempty : linkOfEmpty l o.vid = none := Option.isNone_iff_eq_none.mp (Option.isSome_eq_false_iff.mp (Bool.or_eq_false_iff.mp hlink).2)
  refine Exists.intro ?message ⟨l, ?fields, ?launch, ?link, ?sends⟩
  case sends =>
    unfold State.sendTally
    simp only [hctx, Option.bind_some, hlaunch, hfind, hhome, huse, hempty, Bool.not_true, Bool.false_eq_true, if_false, Option.filter_none, ite_self]
    rfl
  case fields => exact ⟨rfl, rfl, rfl, rfl⟩
  case launch => exact hlaunch
  case link => exact hlink

section
variable {s : State} {c i : Nat} {o : TallyOp} {v : Tally} (hv : s.tally c i = v)
include hv

theorem State.sendTally_inc_own (hnames : namesTally s c o.vid .inc c i) (hwaits : v.waits = []) (hn : v.value.toNat + o.n < 2 ^ 32) (e : QEntry) :
    s.sendTally c e o .inc = s.setTally c i { value := BitVec.ofNat 32 (v.value.toNat + o.n), waits := [] } := by
  obtain ⟨m, l, ⟨hhome, hindex, hact, hmn⟩, hlaunch, hlink, hsend⟩ := State.sendTally_named hnames e
  rw [hsend, if_pos rfl, State.applyTally_inc hact hlaunch hlink (by rw [hhome, hindex, hv, hwaits]) (by rw [hhome, hindex, hv, hmn]; exact hn), hhome, hindex, hv, hmn]

theorem State.sendTally_dec_own (hnames : namesTally s c o.vid .dec c i) (hn : o.n ≤ v.value.toNat) (e : QEntry) :
    s.sendTally c e o .dec = s.setTally c i { v with value := BitVec.ofNat 32 (v.value.toNat - o.n) } := by
  obtain ⟨m, l, ⟨hhome, hindex, hact, hmn⟩, -, -, hsend⟩ := State.sendTally_named hnames e
  rw [hsend, if_pos rfl, State.applyTally_dec hact (by rw [hhome, hindex, hv, hmn]; exact hn), hhome, hindex, hv, hmn]

end

/-- A virtual id names the tally that it named. -/
theorem namesTally_coreTo {s t : State} {c vid h i : Nat} {act : TallyAct} {x : Core} (hto : coreTo s t c x) (hx : x.ctx = (s.core c).ctx)
    (hmasked : x.masked = (s.core c).masked) (hnames : namesTally s c vid act h i) : namesTally t c vid act h i := by
  have hhomes := tallyHome_coreTo hto hmasked
  obtain ⟨hcore, -, hframe⟩ := hto
  obtain ⟨y, l, e, hctx, hlaunch, hfind, hhome, huse, hlink⟩ := hnames
  exact ⟨y, l, e, by rw [hcore, hx, hctx], by rw [hframe]; exact hlaunch, hfind, (hhomes e _).trans hhome, huse, hlink⟩

/-- An INC or a DEC whose WHEN is met, behind which nothing waits, is performed and sent. -/
theorem tallyPortOp_sends {s : State} {c : Nat} {k : TallyK} {act : TallyAct} {e : QEntry} {o : TallyOp} (h : tallyHead s c k e o)
    (hact : k = .inc ∧ act = .inc ∨ k = .dec ∧ act = .dec) :
    (∃ q, unitQueue (s.core c) uTally = e :: q) ∧ tallyPortOp k c s = (s.doneHead c uTally e).sendTally c e o act := by
  obtain ⟨hop, hquench, hdelayed, hhead, he, hk, hmet⟩ := h
  have hnone : s.delayedHead c k = none := by
    unfold State.delayedHead
    rw [hdelayed]
  have hperform : tallyPortOp k c s = (s.doneHead c uTally e).performTally c e o := by
    unfold tallyPortOp
    rw [if_neg (by simp [hop, hquench]), hnone]
    dsimp only
    rw [hhead]
    dsimp only
    rw [he]
    dsimp only
    rw [if_neg (not_not.mpr hk), if_pos (by rw [hmet, hdelayed]; rfl)]
  refine ⟨(State.headOp_queue hhead).2, hperform.trans ?_⟩
  unfold State.performTally
  obtain ⟨rfl, rfl⟩ | ⟨rfl, rfl⟩ := hact <;> rw [hk]

/-- A tally operation whose WHEN is not met leaves the port and waits. -/
theorem tallyPortOp_unmet {s : State} {c : Nat} {e : QEntry} {o : TallyOp} (hop : (s.die (c / 4)).curOp ≠ 0) (hquench : (s.die (c / 4)).quenched = false)
    (hdelayed : s.delayedHead c o.k = none) (hhead : s.headOp c uTally = some e) (he : e.op = .tally o) (hunmet : whenMet (s.core c) o = false) :
    tallyPortOp o.k c s = (s.doneHead c uTally e).modCore c fun x => { x with delayed := x.delayed ++ [e] } := by
  unfold tallyPortOp
  rw [if_neg (by simp [hop, hquench]), hdelayed]
  dsimp only
  rw [hhead]
  dsimp only
  rw [he]
  dsimp only
  rw [if_neg (not_not.mpr rfl), if_neg (by rw [hunmet]; simp)]

section
variable {s : State} {c h i : Nat} {e : QEntry} {o : TallyOp} {q : List QEntry} {act : TallyAct}

/-- An operation of the port that has come to tally `i` of its own core and leaves it at `v`. -/
theorem doneHead_setTally (hc : c < 1000) (hq : unitQueue (s.core c) uTally = e :: q) (v : Tally) :
    let t := (s.doneHead c uTally e).setTally c i v
    t.tally c i = v ∧ otherTallies s t c i ∧ performed s t c uTally ∧ t = { s with cores := t.cores, dies := t.dies } := by
  intro t
  have hto := coreTo_modCore (coreTo_doneHead hq) (withTally i v)
  rw [← State.setTally_core _ hc] at hto
  obtain ⟨hvalue, hothers⟩ := tally_coreTo_set hc hto rfl rfl
  exact ⟨hvalue, hothers, performed_coreTo hq hto rfl, coreTo_frame hto⟩

/-- An operation of the port on a tally elsewhere leaves as a message. -/
theorem doneHead_sendTally_away (hq : unitQueue (s.core c) uTally = e :: q) (hnames : namesTally s c o.vid act h i) (hne : h ≠ c) :
    let t := (s.doneHead c uTally e).sendTally c e o act
    (∃ m, t.tallyMsgs = s.tallyMsgs ++ [m] ∧ m.home = h ∧ m.index = i ∧ m.act = act ∧ m.n = o.n) ∧ performed s t c uTally ∧
      (∀ g j, t.tally g j = s.tally g j) ∧ t = { s with cores := t.cores, tallyMsgs := t.tallyMsgs } := by
  have hto := coreTo_doneHead hq
  obtain ⟨m, -, hfields, -, -, hsend⟩ := State.sendTally_named (namesTally_coreTo hto rfl rfl hnames) e
  intro t
  have ht : t = (s.doneHead c uTally e).sendMsg m := hsend.trans (if_neg hne)
  have hperformed : performed s (s.doneHead c uTally e) c uTally := performed_coreTo hq hto rfl
  rw [ht]
  exact ⟨⟨m, rfl, hfields⟩, hperformed, fun g j => (tally_sendMsg _ m g j).trans (tally_coreTo hto rfl g j), rfl⟩

end

/-- The value that an operation finds at its tally is the one that stood there when it left its queue. -/
theorem tally_doneHead {s : State} {c u : Nat} (e : QEntry) {q : List QEntry} (hq : unitQueue (s.core c) u = e :: q) (g j : Nat) :
    (s.doneHead c u e).tally g j = s.tally g j := by
  refine tally_coreTo (coreTo_doneHead hq) ?_ g j
  unfold setUnitQueue
  split <;> rfl

theorem incAndDecAreSent : IncAndDecAreSent := by
  intro c s e o h i hc
  refine ⟨fun hhead hnames => ?inc, fun hhead hnames => ?dec, fun hop hquench hdelayed hhead he hunmet r hr => ?waits⟩
  case inc =>
    obtain ⟨⟨q, hq⟩, hsend⟩ := tallyPortOp_sends hhead (.inl ⟨rfl, rfl⟩)
    refine ⟨fun hown hwaits hn => runs_of_need rfl hc ?_, fun hne => runs_of_need rfl hc ?_⟩
    · subst hown
      rw [hsend, State.sendTally_inc_own (tally_doneHead e hq h i) (namesTally_coreTo (coreTo_doneHead hq) rfl rfl hnames) hwaits hn]
      obtain ⟨hvalue, hothers, hperformed, hframe⟩ := doneHead_setTally (i := i) (isCore_lt hc) hq { value := BitVec.ofNat 32 ((s.tally h i).value.toNat + o.n), waits := [] }
      exact ⟨by rw [hvalue, BitVec.toNat_ofNat, Nat.mod_eq_of_lt hn], hothers, hperformed, hframe⟩
    · rw [hsend]
      exact doneHead_sendTally_away hq hnames hne
  case dec =>
    obtain ⟨⟨q, hq⟩, hsend⟩ := tallyPortOp_sends hhead (.inr ⟨rfl, rfl⟩)
    refine ⟨fun hown hn => runs_of_need rfl hc ?_, fun hne => runs_of_need rfl hc ?_⟩
    · subst hown
      rw [hsend, State.sendTally_dec_own (tally_doneHead e hq h i) (namesTally_coreTo (coreTo_doneHead hq) rfl rfl hnames) hn]
      obtain ⟨hvalue, hothers, hperformed, hframe⟩ := doneHead_setTally (i := i) (isCore_lt hc) hq
        { s.tally h i with value := BitVec.ofNat 32 ((s.tally h i).value.toNat - o.n) }
      exact ⟨by rw [hvalue, toNat_ofNat_sub], hothers, hperformed, hframe⟩
    · rw [hsend]
      exact doneHead_sendTally_away hq hnames hne
  case waits =>
    have hexec : exec (r c) s = need (isCore c) (tallyPortOp o.k c s) := by
      obtain ⟨rfl, hk⟩ | ⟨rfl, hk⟩ | ⟨rfl, hk⟩ := hr <;> rw [hk] <;> rfl
    obtain ⟨-, q, hq⟩ := State.headOp_queue hhead
    refine runs_of_need hexec hc ?_
    rw [tallyPortOp_unmet hop hquench hdelayed hhead he hunmet]
    have hto := coreTo_modCore (coreTo_doneHead hq) fun x => { x with delayed := x.delayed ++ [e] }
    exact ⟨congrArg Core.delayed hto.1, performed_coreTo hq hto rfl, tally_coreTo hto rfl, hto.2.2⟩

/-- Settles O8: a wait, an INC or a DEC is one update of its core where the tally is its own, and one message where it is not. -/
theorem tallyPortsSend : Obligations.TallyPortsSend := ⟨waitsAreSent, satisfactionGrantsTheWait, incAndDecAreSent⟩

end Sys2Proof.Machine
end

section
/-! SUPPORT. Words that an operation writes one after another into a clean store (R178, R182): each is read back where no other word meets it. -/

namespace Sys2Proof.Machine

/-- The bytes of several 64-bit words, each at its address, stored in order. -/
def State.putAll (s : State) (l : List (Nat × List Byte)) : State := each l s fun s p => s.putWords p.1 p.2

@[simp] theorem State.doneHead_mem (s : State) (c u : Nat) (e : QEntry) : (s.doneHead c u e).mem = s.mem := rfl

theorem State.putAll_append (s : State) (l r : List (Nat × List Byte)) : s.putAll (l ++ r) = (s.putAll l).putAll r := List.foldl_append

theorem each_putAll {α : Type} (l : List α) (s : State) (f : α → List (Nat × List Byte)) : each l s (fun s a => s.putAll (f a)) = s.putAll (l.flatMap f) :=
  List.foldl_flatMap.symm

/-- With no error standing in any word, nothing but memory changes. -/
theorem State.putAll_clean {s : State} (h : s.marks = []) (l : List (Nat × List Byte)) : s.putAll l = { s with mem := (s.putAll l).mem } := by
  refine each_keeps (fun t : State => t = { s with mem := t.mem }) _ (fun t p ht => ?_) l s rfl
  have hmarks : (t.putWords p.1 p.2).marks = s.marks := by
    have htmarks : t.marks = [] := by rw [ht]; exact h
    unfold State.putWords
    rw [h, htmarks]
    rfl
  calc t.putWords p.1 p.2 = { t with mem := (t.putWords p.1 p.2).mem, marks := (t.putWords p.1 p.2).marks } := t.putWords_frame p.1 p.2
    _ = { s with mem := (t.putWords p.1 p.2).mem, marks := (t.putWords p.1 p.2).marks } :=
      congrArg (fun u : State => { u with mem := (t.putWords p.1 p.2).mem, marks := (t.putWords p.1 p.2).marks }) ht
    _ = { s with mem := (t.putWords p.1 p.2).mem } := by rw [hmarks]

theorem State.putWords_wf {s : State} (hwf : s.mem.wf = true) (k : Nat) (l : List Byte) : (s.putWords k l).mem.wf = true := Memory.wf_writeBytes _ _ _ hwf

/-- A byte in none of the words stays. -/
theorem readByte_putAll_out {a : Nat} (l : List (Nat × List Byte)) : ∀ {s : State}, s.mem.wf = true → (∀ p ∈ l, p.2.length = 8) → (∀ p ∈ l, a < p.1 ∨ p.1 + 8 ≤ a) →
    readByte (s.putAll l).mem a = readByte s.mem a := by
  induction l with
  | nil => exact fun _ _ _ => rfl
  | cons p l ih =>
    intro s hwf hlen hout
    have hput := (landed_putWords (s := s) rfl hwf p.1 p.2).2 a
    rw [hlen p (List.mem_cons_self ..)] at hput
    exact (ih (State.putWords_wf hwf _ _) (fun q hq => hlen q (List.mem_cons_of_mem _ hq)) (fun q hq => hout q (List.mem_cons_of_mem _ hq))).trans
      (hput (hout p (List.mem_cons_self ..)))

/-- A word stands where every other word is apart from it. -/
theorem readBytes_putAll {q : Nat × List Byte} (l : List (Nat × List Byte)) : ∀ {s : State}, s.mem.wf = true → (∀ p ∈ l, p.2.length = 8) → q ∈ l →
    (∀ p ∈ l, p = q ∨ p.1 + 8 ≤ q.1 ∨ q.1 + 8 ≤ p.1) → readBytes (s.putAll l).mem q.1 8 = q.2 := by
  induction l with
  | nil => exact fun _ _ hq => absurd hq (List.not_mem_nil)
  | cons p l ih =>
    intro s hwf hlen hmem hapart
    have hlen' : ∀ p ∈ l, p.2.length = 8 := fun p hp => hlen p (List.mem_cons_of_mem _ hp)
    have hwf' := State.putWords_wf hwf p.1 p.2
    by_cases hq : q ∈ l
    · exact ih hwf' hlen' hq fun p hp => hapart p (List.mem_cons_of_mem _ hp)
    · obtain rfl : q = p := (List.mem_cons.mp hmem).resolve_right hq
      have hread := readBytes_putWords s q.1 q.2 hwf
      rw [hlen q hmem] at hread
      refine (readBytes_of_same fun i hi => readByte_putAll_out l hwf' hlen' fun p hp => ?_).trans hread
      have hne : p ≠ q := fun h => hq (h ▸ hp)
      have := (hapart p (List.mem_cons_of_mem _ hp)).resolve_left hne
      omega

end Sys2Proof.Machine
end

section
/-! SUPPORT. What a layout operation of the mover stores (R162 to R165, R178): the slots of its stream and the lines of its scale stream, and the frame. -/

namespace Sys2Proof.Machine

/-! ## The words of a stream and of its scale stream (R101, R163) -/

/-- The words of slots, in a stream at `key`. -/
def slotWords (key : Nat) (l : Slots) : List (Nat × List Byte) := l.map fun p => (key + p.1, le 8 p.2)

/-- Word `w` of a scale line that holds the scales `l`, each at its slot. -/
def scaleWord (l : List (Nat × Nat)) (w : Nat) : List Byte :=
  (List.range 8).map fun i => BitVec.ofNat 8 (((l.find? fun p => p.1 == 8 * w + i).map (·.2)).getD 0)

/-- The words of a scale line that hold one of its scales. -/
def lineWords (key : Nat) (l : List (Nat × Nat)) : List (Nat × List Byte) :=
  ((List.range 16).filter fun w => l.any fun p => p.1 / 8 == w).map fun w => (key + 8 * w, scaleWord l w)

/-- The words of numbered scale lines, in a scale stream at `key`. -/
def scaleWords (key : Nat) (lines : List (Nat × List (Nat × Nat))) : List (Nat × List Byte) := lines.flatMap fun p => lineWords (key + p.1 * 128) p.2

theorem State.putSlots_eq (s : State) (key : Nat) (l : Slots) : s.putSlots key 8 l = s.putAll (slotWords key l) := by
  unfold State.putSlots State.putAll slotWords each
  rw [List.foldl_map]

theorem State.putScaleLine_eq (s : State) (key : Nat) (l : List (Nat × Nat)) : s.putScaleLine key l = s.putAll (lineWords key l) := by
  unfold State.putScaleLine State.putAll lineWords each
  rw [List.foldl_map]
  rfl

theorem each_putScaleLine {α : Type} (l : List α) (s : State) (key : Nat) (n : α → Nat) (f : α → List (Nat × Nat)) :
    each l s (fun s a => s.putScaleLine (key + n a * 128) (f a)) = s.putAll (scaleWords key (l.map fun a => (n a, f a))) := by
  simp only [State.putScaleLine_eq, each_putAll, scaleWords, List.flatMap_map]

/-- All that a layout operation stores: its slots, and where the format has scales, its scale lines. -/
def layoutWords (mx : Bool) (dk sdk : Nat) (slots : Slots) (lines : List (Nat × List (Nat × Nat))) : List (Nat × List Byte) :=
  slotWords dk slots ++ if mx then scaleWords sdk lines else []

section
variable {mx : Bool} {dk sdk : Nat} {slots : Slots} {lines : List (Nat × List (Nat × Nat))}

theorem mem_layoutWords {p : Nat × List Byte} (h : p ∈ layoutWords mx dk sdk slots lines) :
    (∃ x ∈ slots, p = (dk + x.1, le 8 x.2)) ∨ mx = true ∧ ∃ x ∈ lines, ∃ w, w < 16 ∧ p = (sdk + x.1 * 128 + 8 * w, scaleWord x.2 w) := by
  obtain h | h := List.mem_append.mp h
  · obtain ⟨x, hx, rfl⟩ := List.mem_map.mp h
    exact .inl ⟨x, hx, rfl⟩
  · split at h
    next hmx =>
      obtain ⟨x, hx, h⟩ := List.mem_flatMap.mp h
      obtain ⟨w, hw, rfl⟩ := List.mem_map.mp h
      exact .inr ⟨hmx, x, hx, w, List.mem_range.mp (List.mem_filter.mp hw).1, rfl⟩
    · exact absurd h List.not_mem_nil

theorem slot_mem_layoutWords {x : Nat × Nat} (h : x ∈ slots) : (dk + x.1, le 8 x.2) ∈ layoutWords mx dk sdk slots lines :=
  List.mem_append_left _ (List.mem_map_of_mem h)

theorem scale_mem_layoutWords (hmx : mx = true) {x : Nat × List (Nat × Nat)} (hx : x ∈ lines) {y : Nat × Nat} (hy : y ∈ x.2) (hlt : y.1 < 128) :
    (sdk + x.1 * 128 + 8 * (y.1 / 8), scaleWord x.2 (y.1 / 8)) ∈ layoutWords mx dk sdk slots lines := by
  have hword : y.1 / 8 ∈ (List.range 16).filter fun w => x.2.any fun p => p.1 / 8 == w :=
    List.mem_filter.mpr ⟨List.mem_range.mpr (by omega), List.any_eq_true.mpr ⟨y, hy, beq_self_eq_true _⟩⟩
  unfold layoutWords
  rw [if_pos hmx]
  exact List.mem_append_right _ (List.mem_flatMap.mpr ⟨x, hx, List.mem_map.mpr ⟨_, hword, rfl⟩⟩)

theorem length_layoutWords {p : Nat × List Byte} (h : p ∈ layoutWords mx dk sdk slots lines) : p.2.length = 8 := by
  obtain ⟨x, -, rfl⟩ | ⟨-, x, -, w, -, rfl⟩ := mem_layoutWords h
  · exact length_le 8 _
  · simp [scaleWord]

end

/-- The entry of a key that no other entry has. -/
theorem find?_key {l : List (Nat × Nat)} {y : Nat × Nat} (hy : y ∈ l) (hsole : ∀ z ∈ l, z.1 = y.1 → z = y) : (l.find? fun p => p.1 == y.1) = some y := by
  obtain ⟨z, hz⟩ : ∃ z, (l.find? fun p => p.1 == y.1) = some z := Option.isSome_iff_exists.mp (List.find?_isSome.mpr ⟨y, hy, beq_iff_eq.mpr rfl⟩)
  have hkey : (z.1 == y.1) = true := List.find?_some (p := fun p : Nat × Nat => p.1 == y.1) hz
  rw [hz, hsole z (List.mem_of_find?_eq_some hz) (beq_iff_eq.mp hkey)]

/-- The slots and the scale lines of a layout operation stand at different places, within what it writes of its stream and of its scale stream. -/
structure LayoutFits (mx : Bool) (slots : Slots) (lines : List (Nat × List (Nat × Nat))) (lo slo db sdb dk sdk : Nat) : Prop where
  aligned : ∀ x ∈ slots, 8 ∣ x.1
  slotsIn : ∀ x ∈ slots, lo ≤ x.1 ∧ x.1 + 8 ≤ db
  slotsDiffer : ∀ x ∈ slots, ∀ y ∈ slots, x.1 = y.1 → x = y
  linesIn : ∀ x ∈ lines, slo ≤ x.1 * 128 ∧ x.1 * 128 + 128 ≤ sdb
  linesDiffer : ∀ x ∈ lines, ∀ y ∈ lines, x.1 = y.1 → x = y
  apart : mx = true → dk + db ≤ sdk + slo ∨ sdk + sdb ≤ dk + lo

section
variable {mx : Bool} {slots : Slots} {lines : List (Nat × List (Nat × Nat))} {lo slo db sdb dk sdk : Nat} (hfits : LayoutFits mx slots lines lo slo db sdb dk sdk)
include hfits

/-- A word of a slot is apart from every word of a scale line. -/
theorem LayoutFits.slot_scale_apart (hmx : mx = true) {x : Nat × Nat} (hx : x ∈ slots) {y : Nat × List (Nat × Nat)} (hy : y ∈ lines) {w : Nat} (hw : w < 16) :
    dk + x.1 + 8 ≤ sdk + y.1 * 128 + 8 * w ∨ sdk + y.1 * 128 + 8 * w + 8 ≤ dk + x.1 := by
  have := hfits.slotsIn x hx
  have := hfits.linesIn y hy
  have := hfits.apart hmx
  omega

/-- Two of the words are one or apart. -/
theorem LayoutFits.words_apart {p q : Nat × List Byte} (hp : p ∈ layoutWords mx dk sdk slots lines) (hq : q ∈ layoutWords mx dk sdk slots lines) :
    p = q ∨ p.1 + 8 ≤ q.1 ∨ q.1 + 8 ≤ p.1 := by
  obtain ⟨x, hx, rfl⟩ | ⟨hmx, x, hx, v, hv, rfl⟩ := mem_layoutWords hp <;> obtain ⟨y, hy, rfl⟩ | ⟨hmx', y, hy, w, hw, rfl⟩ := mem_layoutWords hq
  · by_cases h : x.1 = y.1
    · obtain rfl := hfits.slotsDiffer x hx y hy h
      exact .inl rfl
    · have := hfits.aligned x hx
      have := hfits.aligned y hy
      exact .inr (by omega)
  · exact .inr (hfits.slot_scale_apart hmx' hx hy hw)
  · exact .inr (hfits.slot_scale_apart hmx hy hx hv).symm
  · by_cases h : x.1 = y.1 ∧ v = w
    · obtain rfl := hfits.linesDiffer x hx y hy h.1
      rw [h.2]
      exact .inl rfl
    · exact .inr (by omega)

variable {s : State} (hwf : s.mem.wf = true)
include hwf

theorem LayoutFits.readBytes_word {p : Nat × List Byte} (hp : p ∈ layoutWords mx dk sdk slots lines) :
    readBytes (s.putAll (layoutWords mx dk sdk slots lines)).mem p.1 8 = p.2 :=
  readBytes_putAll _ hwf (fun _ => length_layoutWords) hp fun _ hq => hfits.words_apart hq hp

/-- A slot reads as its value. -/
theorem LayoutFits.slot {c : Nat} {e : QEntry} {o v : Nat} (hx : (o, v) ∈ slots) (hlt : v < 2 ^ 64) :
    readLe ((s.putAll (layoutWords mx dk sdk slots lines)).doneHead c uMover e).mem (dk + o) 8 = v := by
  unfold readLe
  rw [State.doneHead_mem, hfits.readBytes_word hwf (slot_mem_layoutWords hx), ofLe_le 8 _ hlt]

/-- A scale's byte reads as the scale. -/
theorem LayoutFits.scale {c : Nat} {e : QEntry} (hmx : mx = true) {n i v : Nat} {l : List (Nat × Nat)} (hx : (n, l) ∈ lines) (hy : (i, v) ∈ l) (hlt : i < 128) (hbyte : v < 256)
    (hsole : ∀ z ∈ l, z.1 = i → z = (i, v)) :
    (readByte ((s.putAll (layoutWords mx dk sdk slots lines)).doneHead c uMover e).mem (sdk + n * 128 + i)).toNat = v := by
  have hplace : 8 * (i / 8) + i % 8 = i := Nat.div_add_mod _ _
  have hword := hfits.readBytes_word hwf (scale_mem_layoutWords (dk := dk) (sdk := sdk) (slots := slots) hmx hx hy hlt)
  have hread := congrArg (fun l : List Byte => l[i % 8]?) hword
  have hmod : i % 8 < 8 := Nat.mod_lt _ (by decide)
  simp only [readBytes, scaleWord, List.getElem?_map, List.getElem?_range hmod, Option.map_some, Option.some.injEq] at hread
  rw [hplace, find?_key hy hsole] at hread
  rw [State.doneHead_mem, show sdk + n * 128 + i = sdk + n * 128 + 8 * (i / 8) + i % 8 by omega, hread]
  exact (BitVec.toNat_ofNat _ _).trans (Nat.mod_eq_of_lt hbyte)

/-- A byte outside what is written of the two streams stays. -/
theorem LayoutFits.elsewhere {a : Nat} (ha : a < dk + lo ∨ dk + db ≤ a) (hscale : mx = false ∨ a < sdk + slo ∨ sdk + sdb ≤ a) :
    readByte (s.putAll (layoutWords mx dk sdk slots lines)).mem a = readByte s.mem a := by
  refine readByte_putAll_out _ hwf (fun _ => length_layoutWords) fun p hp => ?_
  obtain ⟨x, hx, rfl⟩ | ⟨hmx, x, hx, w, hw, rfl⟩ := mem_layoutWords hp
  · have := hfits.slotsIn x hx
    omega
  · have := hfits.linesIn x hx
    have := hscale.resolve_left (by rw [hmx]; decide)
    omega

/-- What the operation at the mover's head leaves when it has stored all its words. -/
theorem LayoutFits.frame {c : Nat} {e : QEntry} {q : List QEntry} {g : Stored} (hmx : isMx g.fmt = mx) (hmarks : s.marks = []) (hq : (s.core c).mover = e :: q) :
    layoutFrame s ((s.putAll (layoutWords mx dk sdk slots lines)).doneHead c uMover e) c g lo slo db sdb dk sdk := by
  have hclean := State.putAll_clean hmarks (layoutWords mx dk sdk slots lines)
  obtain ⟨hregs, hperformed, hframe⟩ := State.doneHead_mover (t := s.putAll (layoutWords mx dk sdk slots lines)) hq (by rw [hclean])
  refine ⟨fun a ha hscale => hfits.elsewhere hwf ha (by rwa [hmx] at hscale), hregs, hperformed, hframe.trans ?_⟩
  exact congrArg (fun u : State => { u with cores := ((s.putAll (layoutWords mx dk sdk slots lines)).doneHead c uMover e).cores }) hclean

end

/-! ## The ends of a layout operation (R162, R182) -/

theorem State.eccRows_clean {s : State} (h : s.marks = []) (key stride rows n : Nat) : s.eccRows key stride rows n = s :=
  each_keeps (· = s) _ (fun t i ht => by subst ht; exact State.eccRead_clean h _ _) _ s rfl

/-- Where the places of a layout operation can be reached it goes on with them; the place of the scale stream is of use where the format has scales. -/
theorem State.layoutEnds_ready {s : State} {c : Nat} {e : QEntry} {t : Bool} {fmt key skey geo geo2 r cc lo slo db sdb dk sdk : Nat} {a sa d sd : Word}
    (hready : layoutReady s c e (storedOf t fmt key skey geo geo2) r cc a sa d sd lo slo db sdb dk sdk) (f : State → Nat → Nat → Nat → Nat → State) :
    ∃ z, (isMx fmt = true → z = sdk) ∧ s.layoutEnds c e (storedOf t fmt 0 0 geo geo2) r cc a.toNat sa.toNat (alignTo 1024 d.toNat) (alignTo 1024 sd.toNat) lo slo db sdb f =
      f s key skey dk z := by
  obtain ⟨hmarks, -, hrows, hscales, hstream, hscaleStream, -⟩ := hready
  dsimp only [storedOf, Stored.rowsRead, Stored.colsRead, Stored.rowBytes, Stored.rowScales] at hrows hscales hscaleStream
  unfold State.layoutEnds
  dsimp only [storedOf, Stored.rowsRead, Stored.colsRead, Stored.rowBytes, Stored.rowScales]
  cases hmx : isMx fmt with
  | false =>
    obtain rfl : 0 = skey := Sum.inl.inj ((if_neg (Bool.eq_false_iff.mp hmx)).symm.trans hscales)
    refine ⟨0 - slo, nofun, ?_⟩
    simp only [hrows, hstream, andThen, State.eccRows_clean hmarks, Nat.add_sub_cancel, Bool.false_eq_true, if_false]
  | true =>
    replace hscales := (if_pos hmx).symm.trans hscales
    refine ⟨sdk, fun _ => rfl, ?_⟩
    simp only [hrows, hscales, hstream, hscaleStream hmx, andThen, State.eccRows_clean hmarks, Nat.add_sub_cancel, if_true]

theorem layoutWords_eq {mx : Bool} {z sdk : Nat} (h : mx = true → z = sdk) (dk : Nat) (slots : Slots) (lines : List (Nat × List (Nat × Nat))) :
    layoutWords mx dk z slots lines = layoutWords mx dk sdk slots lines := by
  cases mx with
  | false => rfl
  | true => rw [h rfl]

/-- Slots stored, and where the format has scales its scale lines after them. -/
theorem State.putLayout {α : Type} (s : State) (mx : Bool) (dk sdk : Nat) (slots : Slots) (l : List α) (n : α → Nat) (f : α → List (Nat × Nat)) :
    (if mx then each l (s.putSlots dk 8 slots) (fun s a => s.putScaleLine (sdk + n a * 128) (f a)) else s.putSlots dk 8 slots) =
      s.putAll (layoutWords mx dk sdk slots (l.map fun a => (n a, f a))) := by
  unfold layoutWords
  rw [State.putAll_append, each_putScaleLine, State.putSlots_eq]
  cases mx <;> rfl

/-! ## Values of slots and scales (R98, R101, R162) -/

theorem readElem_lt (m : Memory) (key i : Nat) {b : Nat} (hb : b = 4 ∨ b = 8 ∨ b = 16) : readElem m key b i < 2 ^ b := by
  unfold readElem
  obtain rfl | rfl | rfl := hb
  · rw [if_pos rfl]
    exact Nat.mod_lt _ (by decide)
  · have := ofLe_lt (readBytes m (key + i * 1) 1)
    rwa [length_readBytes] at this
  · have := ofLe_lt (readBytes m (key + i * 2) 2)
    rwa [length_readBytes] at this

/-- The elements of a slot fill it. -/
theorem elemBits_operand {fmt : Nat} (h : isOperand fmt = true) : (elemBits fmt = 4 ∨ elemBits fmt = 8 ∨ elemBits fmt = 16) ∧ elemBits fmt * lanesOf fmt = 64 := by
  have hfmt : fmt ∈ [0, 1, 4, 5, 6, 7, 8, 9] := by
    simp only [isOperand, fmtOk, Bool.and_eq_true, List.contains_iff_mem, bne_iff_ne] at h
    obtain ⟨hok, hne⟩ := h
    simp only [List.mem_cons, List.not_mem_nil, or_false] at hok ⊢
    omega
  have hall : ∀ f ∈ [0, 1, 4, 5, 6, 7, 8, 9], (elemBits f = 4 ∨ elemBits f = 8 ∨ elemBits f = 16) ∧ elemBits f * lanesOf f = 64 := by decide
  exact hall fmt hfmt

theorem Stored.elem_lt {g : Stored} (h : isOperand g.fmt = true) (m : Memory) (i j : Nat) : g.elem m i j < 2 ^ elemBits g.fmt := by
  unfold Stored.elem
  split
  · exact Nat.two_pow_pos _
  · exact readElem_lt _ _ _ (elemBits_operand h).1

theorem Stored.scale_lt (g : Stored) (m : Memory) (i j : Nat) : g.scale m i j < 256 := by
  unfold Stored.scale
  split
  · decide
  · exact (readByte m _).isLt

/-- An element beyond the operand is zero. -/
theorem Stored.elem_guarded (g : Stored) (m : Memory) (i j : Nat) : (if j < g.opCols then g.elem m i j else 0) = g.elem m i j := by
  split
  · rfl
  next h => exact (if_pos (.inr (Nat.le_of_not_lt h))).symm

theorem sum_codes_lt {b : Nat} {f : Nat → Nat} (hf : ∀ l, f l < 2 ^ b) (n : Nat) : ((List.range n).map fun l => f l * 2 ^ (b * l)).sum < 2 ^ (b * n) := by
  induction n with
  | zero => exact Nat.one_pos
  | succ n ih =>
    rw [List.range_succ, List.map_append, List.sum_append, List.map_singleton, List.sum_singleton, Nat.mul_succ, Nat.pow_add]
    have hnext : (f n + 1) * 2 ^ (b * n) ≤ 2 ^ b * 2 ^ (b * n) := Nat.mul_le_mul_right _ (hf n)
    rw [Nat.add_mul, Nat.one_mul, Nat.mul_comm (2 ^ b)] at hnext
    omega

theorem packSlot_lt {fmt : Nat} (h : isOperand fmt = true) {f : Nat → Nat} (hf : ∀ l, f l < 2 ^ elemBits fmt) : packSlot fmt f < 2 ^ 64 := by
  rw [← (elemBits_operand h).2]
  exact sum_codes_lt hf _

end Sys2Proof.Machine
end

section
/-! SUPPORT. Streams skewed by lane (R101, R163, R164): which k-step stands in a slot of a line. -/

namespace Sys2Proof.Machine

section
variable {s0 k reach : Nat} {first last : Bool}

/-- A line in which a pass writes zero at slot `r`: before the k-steps where it is the first of its chain, after them where it is the last. -/
def zeroLine (s0 k reach : Nat) (first last : Bool) (r t : Nat) : Prop := first = true ∧ t < r ∨ last = true ∧ s0 + k + r ≤ t ∧ t < s0 + k + reach

/-- The lines that a pass writes at slot `r`: its own, and those of zeros. -/
theorem mem_sigmas {r : Nat} (hr : r ≤ reach) (p : Nat × Bool) :
    p ∈ sigmas s0 k reach first last r ↔ p.2 = true ∧ s0 + r ≤ p.1 ∧ p.1 < s0 + k + r ∨ p.2 = false ∧ zeroLine s0 k reach first last r p.1 := by
  obtain ⟨t, own⟩ := p
  have hfirst : (t, own) ∈ (if first then (List.range r).map fun t => (t, false) else []) ↔ own = false ∧ first = true ∧ t < r := by
    cases first <;> simp [eq_comm, and_comm]
  have hown : (t, own) ∈ (List.range k).map (fun i => (s0 + i + r, true)) ↔ own = true ∧ s0 + r ≤ t ∧ t < s0 + k + r := by
    simp only [List.mem_map, List.mem_range, Prod.mk.injEq]
    exact ⟨fun ⟨i, hi, ht, ho⟩ => ⟨ho.symm, by omega, by omega⟩, fun ⟨ho, hlo, hhi⟩ => ⟨t - r - s0, by omega, by omega, ho.symm⟩⟩
  have hlast : (t, own) ∈ (if last then (List.range (reach - r)).map fun i => (s0 + k + i + r, false) else []) ↔
      own = false ∧ last = true ∧ s0 + k + r ≤ t ∧ t < s0 + k + reach := by
    cases last with
    | false => simp
    | true =>
      rw [if_pos rfl]
      simp only [List.mem_map, List.mem_range, Prod.mk.injEq]
      exact ⟨fun ⟨i, hi, ht, ho⟩ => ⟨ho.symm, trivial, by omega, by omega⟩, fun ⟨ho, _, hlo, hhi⟩ => ⟨t - r - k - s0, by omega, by omega, ho.symm⟩⟩
  unfold sigmas zeroLine
  rw [List.mem_append, List.mem_append, hfirst, hown, hlast]
  constructor
  · rintro ((⟨ho, hzero⟩ | hown) | ⟨ho, hzero⟩)
    · exact .inr ⟨ho, .inl hzero⟩
    · exact .inl hown
    · exact .inr ⟨ho, .inr hzero⟩
  · rintro (hown | ⟨ho, hzero | hzero⟩)
    · exact .inl (.inr hown)
    · exact .inl (.inl ⟨ho, hzero⟩)
    · exact .inr ⟨ho, hzero⟩

variable {α : Type} {l : List α} {r : α → Nat} {off : Nat → α → Nat} {val : α → Nat → Nat}

/-- The slots of a skewed stream: the lane `a` writes its k-step σ, of value `val a σ`, at line s0 + σ + `r a`, each line and lane having a place of its own. -/
def skewSlots (l : List α) (r : α → Nat) (off : Nat → α → Nat) (val : α → Nat → Nat) (s0 k reach : Nat) (first last : Bool) : Slots :=
  l.flatMap fun a => (sigmas s0 k reach first last (r a)).map fun p => (off p.1 a, if p.2 then val a (p.1 - r a - s0) else 0)

variable (hr : ∀ a ∈ l, r a ≤ reach)
include hr

theorem mem_skewSlots {x : Nat × Nat} : x ∈ skewSlots l r off val s0 k reach first last ↔
    ∃ a ∈ l, ∃ t, s0 + r a ≤ t ∧ t < s0 + k + r a ∧ x = (off t a, val a (t - r a - s0)) ∨ zeroLine s0 k reach first last (r a) t ∧ x = (off t a, 0) := by
  simp only [skewSlots, List.mem_flatMap, List.mem_map]
  refine exists_congr fun a => and_congr_right fun ha => ?_
  constructor
  · rintro ⟨⟨t, own⟩, hp, rfl⟩
    obtain ⟨rfl, hlo, hhi⟩ | ⟨rfl, hzero⟩ := (mem_sigmas (hr a ha) _).mp hp
    · exact ⟨t, .inl ⟨hlo, hhi, rfl⟩⟩
    · exact ⟨t, .inr ⟨hzero, rfl⟩⟩
  · rintro ⟨t, ⟨hlo, hhi, rfl⟩ | ⟨hzero, rfl⟩⟩
    · exact ⟨(t, true), (mem_sigmas (hr a ha) _).mpr (.inl ⟨rfl, hlo, hhi⟩), rfl⟩
    · exact ⟨(t, false), (mem_sigmas (hr a ha) _).mpr (.inr ⟨rfl, hzero⟩), rfl⟩

/-- A lane's own k-step. -/
theorem skewSlots_own {a : α} (ha : a ∈ l) {i : Nat} (hi : i < k) : (off (s0 + i + r a) a, val a i) ∈ skewSlots l r off val s0 k reach first last :=
  (mem_skewSlots hr).mpr ⟨a, ha, s0 + i + r a, .inl ⟨by omega, by omega, by rw [show s0 + i + r a - r a - s0 = i by omega]⟩⟩

/-- A slot before the first k-step of a chain, or after the last. -/
theorem skewSlots_zero {a : α} (ha : a ∈ l) {t : Nat} (ht : zeroLine s0 k reach first last (r a) t) : (off t a, 0) ∈ skewSlots l r off val s0 k reach first last :=
  (mem_skewSlots hr).mpr ⟨a, ha, t, .inr ⟨ht, rfl⟩⟩

/-- Every slot stands in a line of the pass. -/
theorem skewSlots_line {x : Nat × Nat} (hx : x ∈ skewSlots l r off val s0 k reach first last) :
    ∃ a ∈ l, ∃ t, (if first then 0 else s0) ≤ t ∧ t < s0 + k + reach ∧ x.1 = off t a := by
  obtain ⟨a, ha, t, ⟨hlo, hhi, rfl⟩ | ⟨hzero, rfl⟩⟩ := (mem_skewSlots hr).mp hx
  · have := hr a ha
    exact ⟨a, ha, t, by split <;> omega, by omega, rfl⟩
  · have := hr a ha
    obtain ⟨rfl, hlt⟩ | ⟨-, hlo, hhi⟩ := hzero
    · exact ⟨a, ha, t, Nat.zero_le _, by omega, rfl⟩
    · exact ⟨a, ha, t, by split <;> omega, hhi, rfl⟩

/-- Slots at one place are one slot. -/
theorem skewSlots_differ (hoff : ∀ a ∈ l, ∀ b ∈ l, ∀ t u, off t a = off u b → t = u ∧ a = b) {x y : Nat × Nat} (hx : x ∈ skewSlots l r off val s0 k reach first last)
    (hy : y ∈ skewSlots l r off val s0 k reach first last) (hxy : x.1 = y.1) : x = y := by
  obtain ⟨a, ha, t, hx⟩ := (mem_skewSlots hr).mp hx
  obtain ⟨b, hb, u, hy⟩ := (mem_skewSlots hr).mp hy
  have hplace : off t a = off u b := by
    obtain ⟨-, -, rfl⟩ | ⟨-, rfl⟩ := hx <;> obtain ⟨-, -, rfl⟩ | ⟨-, rfl⟩ := hy <;> exact hxy
  obtain ⟨rfl, rfl⟩ := hoff a ha b hb t u hplace
  have hown (hlo : s0 + r a ≤ t) (hhi : t < s0 + k + r a) : ¬ zeroLine s0 k reach first last (r a) t := fun h => by
    unfold zeroLine at h
    omega
  obtain ⟨hlo, hhi, rfl⟩ | ⟨hzero, rfl⟩ := hx <;> obtain ⟨hlo', hhi', rfl⟩ | ⟨hzero', rfl⟩ := hy
  · rfl
  · exact absurd hzero' (hown hlo hhi)
  · exact absurd hzero (hown hlo' hhi')
  · rfl

end

/-! ## Scale lines -/

section
variable {reach s0 k slots : Nat} {first last : Bool} {f : Nat → Nat → Nat} {t : Nat}

/-- Slot `r` of a scale line holds the scale of its k-step. -/
theorem skewScales_own {r i : Nat} (hr : r < slots) (hi : i < k) : (r, f i r) ∈ skewScales reach s0 k slots first last f (s0 + i + r) := by
  refine List.mem_append_left _ (List.mem_filterMap.mpr ⟨r, List.mem_range.mpr hr, ?_⟩)
  rw [if_pos (by omega), show s0 + i + r - r - s0 = i by omega]

/-- What a pass writes in slot `r` of a scale line. -/
def skewScale (reach s0 k : Nat) (first last : Bool) (f : Nat → Nat → Nat) (t r : Nat) : Option (Nat × Nat) :=
  if r + s0 ≤ t ∧ t < r + s0 + k then some (r, f (t - r - s0) r)
  else if (first ∧ t < r) ∨ (last ∧ r + s0 + k ≤ t ∧ t < s0 + k + reach) then some (r, 0)
  else none

theorem skewScale_slot {r : Nat} {x : Nat × Nat} (h : skewScale reach s0 k first last f t r = some x) : x.1 = r := by
  unfold skewScale at h
  split at h
  · exact (congrArg Prod.fst (Option.some.inj h)).symm
  · split at h
    · exact (congrArg Prod.fst (Option.some.inj h)).symm
    · contradiction

theorem mem_skewScales {x : Nat × Nat} (h : x ∈ skewScales reach s0 k slots first last f t) :
    x.1 < slots ∧ skewScale reach s0 k first last f t x.1 = some x ∨ slots ≤ x.1 ∧ x.2 = 0 := by
  obtain h | h := List.mem_append.mp h
  · obtain ⟨r, hr, hx⟩ := List.mem_filterMap.mp h
    have hx : skewScale reach s0 k first last f t r = some x := hx
    rw [skewScale_slot hx]
    exact .inl ⟨List.mem_range.mp hr, hx⟩
  · obtain ⟨i, -, rfl⟩ := List.mem_map.mp h
    exact .inr ⟨Nat.le_add_right _ _, rfl⟩

/-- The scales of a line stand in different slots. -/
theorem skewScales_differ {x y : Nat × Nat} (hx : x ∈ skewScales reach s0 k slots first last f t) (hy : y ∈ skewScales reach s0 k slots first last f t)
    (hxy : x.1 = y.1) : x = y := by
  obtain ⟨hxlt, hx⟩ | ⟨hxle, hx⟩ := mem_skewScales hx <;> obtain ⟨hylt, hy⟩ | ⟨hyle, hy⟩ := mem_skewScales hy
  · rw [hxy] at hx
    exact Option.some.inj (hx.symm.trans hy)
  · omega
  · omega
  · exact Prod.ext hxy (hx.trans hy.symm)

end

/-! ## Places in a stream -/

/-- The lines of a scale stream of `n` lines, from line `lo` on, lie in what is written of it. -/
theorem scaleLine_in {lo n t : Nat} (hlo : lo ≤ t) (hn : t < n) : lo / 8 * 1024 ≤ t * 128 ∧ t * 128 + 128 ≤ scaleBytes n := by
  unfold scaleBytes ceilDiv
  omega

/-- Two numbers, the lower below `n`, are told by their sum. -/
theorem mul_add_inj {n a b c d : Nat} (hb : b < n) (hd : d < n) (h : n * a + b = n * c + d) : a = c ∧ b = d := by
  have hn : 0 < n := Nat.zero_lt_of_lt hb
  have hdiv := congrArg (· / n) h
  have hmod := congrArg (· % n) h
  simp only [Nat.mul_add_div hn, Nat.div_eq_of_lt hb, Nat.div_eq_of_lt hd, Nat.add_zero, Nat.mul_add_mod, Nat.mod_eq_of_lt hb, Nat.mod_eq_of_lt hd] at hdiv hmod
  exact ⟨hdiv, hmod⟩

theorem osRowsOf_code {mode : Nat} (h : mode < 5) : 0 < osRowsOf mode ∧ 128 / osRowsOf mode * osRowsOf mode = 128 := by
  interval_cases mode <;> decide

/-! ## SKEW_W (R99, R163) -/

/-- The place of slot `r` of line `t` in a west stream of `mt` rows. -/
def westOff (mt t r : Nat) : Nat := t / (128 / mt) * 1024 + t % (128 / mt) * (mt * 8) + r * 8

theorem westSlot_eq (m : Memory) (key mt t r : Nat) : westSlot m key mt t r = readLe m (key + westOff mt t r) 8 := by
  simp only [westSlot, westOff, Nat.add_assoc]

section
variable {mt : Nat} (hmt : 128 / mt * mt = 128)
include hmt

/-- The slots of a west stream stand one after another. -/
theorem westOff_eq (t r : Nat) : westOff mt t r = 8 * (mt * t + r) := by
  have hline : 1024 = 128 / mt * (mt * 8) := by rw [← Nat.mul_assoc, hmt]
  unfold westOff
  calc t / (128 / mt) * 1024 + t % (128 / mt) * (mt * 8) + r * 8
      = t / (128 / mt) * (128 / mt * (mt * 8)) + t % (128 / mt) * (mt * 8) + r * 8 := by rw [← hline]
    _ = 8 * (mt * (128 / mt * (t / (128 / mt)) + t % (128 / mt)) + r) := by ring
    _ = 8 * (mt * t + r) := by rw [Nat.div_add_mod]

theorem westOff_inj {t u r q : Nat} (hr : r < mt) (hq : q < mt) (h : westOff mt t r = westOff mt u q) : t = u ∧ r = q := by
  rw [westOff_eq hmt, westOff_eq hmt] at h
  exact mul_add_inj hr hq (Nat.eq_of_mul_eq_mul_left (by decide) h)

/-- The slots of the lines from `lo` up to `n` lie in what is written of the stream. -/
theorem westOff_in {lo n t r : Nat} (hr : r < mt) (hlo : lo ≤ t) (hn : t < n) :
    lo / (128 / mt) * 1024 ≤ westOff mt t r ∧ westOff mt t r + 8 ≤ ceilDiv n (128 / mt) * 1024 := by
  have hq : 0 < 128 / mt := Nat.pos_of_ne_zero fun h => by rw [h] at hmt; omega
  have hfirst : lo / (128 / mt) ≤ t / (128 / mt) := Nat.div_le_div_right hlo
  have hlast : t / (128 / mt) + 1 ≤ ceilDiv n (128 / mt) := by
    rw [← Nat.add_div_right _ hq]
    exact Nat.div_le_div_right (by omega)
  have hrow : (t % (128 / mt) + 1) * (mt * 8) ≤ 128 / mt * (mt * 8) := Nat.mul_le_mul_right _ (Nat.mod_lt _ hq)
  rw [← Nat.mul_assoc (128 / mt), hmt] at hrow
  rw [Nat.add_mul, Nat.one_mul] at hrow
  unfold westOff
  constructor <;> omega

end

/-- The value of the k-step `i` of operand row `r`. -/
def westValue (m : Memory) (g : Stored) (r i : Nat) : Nat := packSlot g.fmt fun l => g.elem m r (lanesOf g.fmt * i + l)

theorem westValue_lt {g : Stored} (h : isOperand g.fmt = true) (m : Memory) (r i : Nat) : westValue m g r i < 2 ^ 64 := packSlot_lt h fun _ => Stored.elem_lt h _ _ _

theorem westSlots_eq (m : Memory) (g : Stored) (mt s0 k : Nat) (first last : Bool) :
    westSlots m g mt s0 k first last = skewSlots (List.range mt) id (westOff mt) (westValue m g) s0 k (mt - 1) first last := by
  unfold westSlots
  simp only [Stored.elem_guarded]
  rfl

/-- The scale lines of a pass of SKEW_W. -/
def westScaleLines (m : Memory) (g : Stored) (mt s0 k : Nat) (first last : Bool) : List (Nat × List (Nat × Nat)) :=
  ((List.range (s0 + k + mt - 1 - if first then 0 else s0)).map ((if first then 0 else s0) + ·)).map fun t =>
    (t, skewScales (mt - 1) s0 k mt first last (fun i r => g.scale m r (lanesOf g.fmt * i)) t)

/-- The lines from `lo` up to `n`. -/
theorem mem_lines {lo n t : Nat} : t ∈ (List.range (n - lo)).map (lo + ·) ↔ lo ≤ t ∧ t < n := by
  simp only [List.mem_map, List.mem_range]
  exact ⟨fun ⟨i, hi, ht⟩ => by omega, fun ⟨hlo, hn⟩ => ⟨t - lo, by omega, by omega⟩⟩

/-- The first line that a pass writes: the first of the chain, or the first of its own. -/
theorem firstLine_le (first : Bool) (s0 : Nat) : (if first then 0 else s0) ≤ s0 := by
  split <;> omega

section
variable {mt s0 k : Nat} {first last : Bool} (hpos : 0 < mt) (hmt : 128 / mt * mt = 128)
include hpos hmt

theorem west_fits (m : Memory) (g : Stored) {mx : Bool} {dk sdk : Nat} (hapart : mx = true →
      dk + ceilDiv (s0 + k + mt - 1) (128 / mt) * 1024 ≤ sdk + (if first then 0 else s0) / 8 * 1024 ∨
      sdk + scaleBytes (s0 + k + mt - 1) ≤ dk + (if first then 0 else s0) / (128 / mt) * 1024) :
    LayoutFits mx (westSlots m g mt s0 k first last) (westScaleLines m g mt s0 k first last) ((if first then 0 else s0) / (128 / mt) * 1024)
      ((if first then 0 else s0) / 8 * 1024) (ceilDiv (s0 + k + mt - 1) (128 / mt) * 1024) (scaleBytes (s0 + k + mt - 1)) dk sdk := by
  have hreach : ∀ r ∈ List.range mt, id r ≤ mt - 1 := fun r hr => Nat.le_sub_one_of_lt (List.mem_range.mp hr)
  have hline {x : Nat × Nat} (hx : x ∈ westSlots m g mt s0 k first last) :
      ∃ r, r < mt ∧ ∃ t, (if first then 0 else s0) ≤ t ∧ t < s0 + k + mt - 1 ∧ x.1 = westOff mt t r := by
    rw [westSlots_eq] at hx
    obtain ⟨r, hr, t, hlo, hhi, hx⟩ := skewSlots_line hreach hx
    exact ⟨r, List.mem_range.mp hr, t, hlo, by omega, hx⟩
  constructor
  case aligned =>
    intro x hx
    obtain ⟨r, -, t, -, -, hx⟩ := hline hx
    exact ⟨mt * t + r, hx.trans (westOff_eq hmt t r)⟩
  case slotsIn =>
    intro x hx
    obtain ⟨r, hr, t, hlo, hhi, hx⟩ := hline hx
    rw [hx]
    exact westOff_in hmt hr hlo hhi
  case slotsDiffer =>
    rw [westSlots_eq]
    exact fun x hx y hy => skewSlots_differ hreach (fun r hr q hq t u => westOff_inj hmt (List.mem_range.mp hr) (List.mem_range.mp hq)) hx hy
  case linesIn =>
    intro x hx
    obtain ⟨t, ht, rfl⟩ := List.mem_map.mp hx
    obtain ⟨hlo, hhi⟩ := mem_lines.mp ht
    exact scaleLine_in hlo hhi
  case linesDiffer =>
    intro x hx y hy hxy
    obtain ⟨t, -, rfl⟩ := List.mem_map.mp hx
    obtain ⟨u, -, rfl⟩ := List.mem_map.mp hy
    obtain rfl : t = u := hxy
    rfl
  case apart => exact hapart

end

/-- A SKEW_W whose places can be reached stores the slots and scale lines of its pass. -/
theorem skewWOp_stores {c : Nat} {s : State} {e : QEntry} {t : Bool} {fmt : Nat} {a sa d sd geo geo2 : Word} {mode : Nat} {first last : Bool} {key skey dk sdk mt s0 k : Nat}
    {g : Stored} (hhead : s.headMover c = some (e, .skewW t fmt a sa d sd geo geo2 mode first last)) (hg : g = storedOf t fmt key skey geo.toNat geo2.toNat)
    (hmt : mt = osRowsOf mode) (hs0 : s0 = bits geo2.toNat 0 32) (hk : k = ceilDiv g.opCols (lanesOf fmt))
    (hready : layoutReady s c e g mt g.opCols a sa d sd ((if first then 0 else s0) / (128 / mt) * 1024) ((if first then 0 else s0) / 8 * 1024)
      (ceilDiv (s0 + k + mt - 1) (128 / mt) * 1024) (scaleBytes (s0 + k + mt - 1)) dk sdk) :
    skewWOp c s = (s.putAll (layoutWords (isMx fmt) dk sdk (westSlots s.mem g mt s0 k first last) (westScaleLines s.mem g mt s0 k first last))).doneHead c uMover e := by
  subst hk hs0 hmt hg
  obtain ⟨z, hz, hends⟩ := State.layoutEnds_ready hready fun s key skey dk sdk => _
  unfold skewWOp
  rw [hhead]
  refine hends.trans (congrArg (State.doneHead · c uMover e) ?_)
  rw [← layoutWords_eq hz]
  exact State.putLayout s (isMx fmt) dk z _ _ id _

theorem skewWestWritesItsStream : SkewWestWritesItsStream := by
  intro c s e t fmt a sa d sd geo geo2 mode first last key skey dk sdk mt s0 k lo slo g hc hmode hop hhead hg hmt hs0 hk hlo hslo hready
  subst hlo hslo
  obtain ⟨hpos, hrows⟩ := osRowsOf_code hmode
  rw [← hmt] at hpos hrows
  refine runs_of_need rfl hc ?_
  rw [skewWOp_stores hhead hg hmt hs0 hk hready]
  obtain rfl : g.fmt = fmt := by rw [hg]; rfl
  obtain ⟨hmarks, hwf, -, -, -, -, hapart⟩ := hready
  obtain ⟨q, hq⟩ := State.headMover_queue hhead
  have hfits := west_fits (first := first) (last := last) hpos hrows s.mem g hapart
  have hreach : ∀ r ∈ List.range mt, id r ≤ mt - 1 := fun r hr => Nat.le_sub_one_of_lt (List.mem_range.mp hr)
  have hzero {r l : Nat} (hr : r < mt) (h : zeroLine s0 k (mt - 1) first last r l) : (westOff mt l r, 0) ∈ westSlots s.mem g mt s0 k first last := by
    rw [westSlots_eq]
    exact skewSlots_zero hreach (List.mem_range.mpr hr) h
  refine ⟨fun r i hr hi => ?own, fun hfirst r l hr hl => ?before, fun hlast r l hr hlo hhi => ?after, fun hmx r i hr hi => ?scales, hfits.frame hwf rfl hmarks hq⟩
  case own =>
    have hmem : (westOff mt (s0 + i + r) r, westValue s.mem g r i) ∈ westSlots s.mem g mt s0 k first last := by
      rw [westSlots_eq]
      exact skewSlots_own hreach (List.mem_range.mpr hr) hi
    rw [westSlot_eq]
    exact hfits.slot hwf hmem (westValue_lt hop _ _ _)
  case before =>
    rw [westSlot_eq]
    exact hfits.slot hwf (hzero hr (.inl ⟨hfirst, hl⟩)) (Nat.two_pow_pos 64)
  case after =>
    rw [westSlot_eq]
    exact hfits.slot hwf (hzero hr (.inr ⟨hlast, hlo, by omega⟩)) (Nat.two_pow_pos 64)
  case scales =>
    have hline : (s0 + i + r, _) ∈ westScaleLines s.mem g mt s0 k first last :=
      List.mem_map.mpr ⟨s0 + i + r, mem_lines.mpr ⟨(firstLine_le first s0).trans (by omega), by omega⟩, rfl⟩
    have hle : mt ≤ 128 := Nat.le_of_dvd (by decide) ⟨128 / mt, by rw [Nat.mul_comm, hrows]⟩
    unfold scaleSlot
    rw [if_pos hmx]
    exact hfits.scale hwf hmx hline (skewScales_own hr hi) (by omega) (g.scale_lt _ _ _) fun z hz h => skewScales_differ hz (skewScales_own hr hi) h

/-! ## SKEW_N (R100, R164) -/

/-- The lanes of a north stream of `gr` groups: a group and a column in it. -/
def northLanes (gr : Nat) : List (Nat × Nat) := (List.range gr).flatMap fun gi => (List.range 128).map fun j => (gi, j)

theorem mem_northLanes {gr : Nat} {p : Nat × Nat} : p ∈ northLanes gr ↔ p.1 < gr ∧ p.2 < 128 := by
  obtain ⟨gi, j⟩ := p
  simp [northLanes]

/-- The place of the slot of a lane in line `t` of a north stream of `gr` groups. -/
def northOff (gr t : Nat) (p : Nat × Nat) : Nat := (t * gr + p.1) * 1024 + p.2 * 8

theorem northSlot_eq (m : Memory) (key gr t gi j : Nat) : northSlot m key gr t gi j = readLe m (key + northOff gr t (gi, j)) 8 := by
  simp only [northSlot, northOff, Nat.add_assoc]

/-- A line of a group lies where the lines of its k-step do. -/
theorem groupLine_in {gr lo n t gi : Nat} (hgi : gi < gr) (hlo : lo ≤ t) (hn : t < n) : lo * gr ≤ t * gr + gi ∧ t * gr + gi < n * gr := by
  have hfirst : lo * gr ≤ t * gr := Nat.mul_le_mul_right _ hlo
  have hlast : (t + 1) * gr ≤ n * gr := Nat.mul_le_mul_right _ hn
  rw [Nat.add_mul, Nat.one_mul] at hlast
  omega

theorem groupLine_inj {gr t u gi gj : Nat} (hgi : gi < gr) (hgj : gj < gr) (h : t * gr + gi = u * gr + gj) : t = u ∧ gi = gj := by
  rw [Nat.mul_comm t, Nat.mul_comm u] at h
  exact mul_add_inj hgi hgj h

theorem northOff_inj {gr t u : Nat} {p q : Nat × Nat} (hp : p ∈ northLanes gr) (hq : q ∈ northLanes gr) (h : northOff gr t p = northOff gr u q) : t = u ∧ p = q := by
  obtain ⟨hp, hpj⟩ := mem_northLanes.mp hp
  obtain ⟨hq, hqj⟩ := mem_northLanes.mp hq
  unfold northOff at h
  obtain ⟨hline, hj⟩ : t * gr + p.1 = u * gr + q.1 ∧ p.2 = q.2 := by omega
  obtain ⟨ht, hg⟩ := groupLine_inj hp hq hline
  exact ⟨ht, Prod.ext hg hj⟩

/-- The value of the k-step `i` of a lane's operand column. -/
def northValue (m : Memory) (g : Stored) (p : Nat × Nat) (i : Nat) : Nat := packSlot g.fmt fun l => g.elem m (lanesOf g.fmt * i + l) (128 * p.1 + p.2)

theorem northValue_lt {g : Stored} (h : isOperand g.fmt = true) (m : Memory) (p : Nat × Nat) (i : Nat) : northValue m g p i < 2 ^ 64 :=
  packSlot_lt h fun _ => Stored.elem_lt h _ _ _

theorem northSlots_eq (m : Memory) (g : Stored) (gr s0 k : Nat) (first last : Bool) :
    northSlots m g gr s0 k first last = skewSlots (northLanes gr) Prod.snd (northOff gr) (northValue m g) s0 k 127 first last := by
  simp only [northSlots, skewSlots, northLanes, List.flatMap_assoc, List.flatMap_map]
  rfl

/-- The groups of the lines from `lo` up to `n`. -/
def groupLines (gr lo n : Nat) : List (Nat × Nat) := ((List.range (n - lo)).map (lo + ·)).flatMap fun t => (List.range gr).map fun gi => (t, gi)

theorem mem_groupLines {gr lo n : Nat} {p : Nat × Nat} : p ∈ groupLines gr lo n ↔ (lo ≤ p.1 ∧ p.1 < n) ∧ p.2 < gr := by
  obtain ⟨t, gi⟩ := p
  simp only [groupLines, List.mem_flatMap, mem_lines]
  simp only [List.mem_map, List.mem_range, Prod.mk.injEq]
  exact ⟨fun ⟨_, ht, _, hgi, rfl, rfl⟩ => ⟨ht, hgi⟩, fun ⟨ht, hgi⟩ => ⟨t, ht, gi, hgi, rfl, rfl⟩⟩

/-- The scale lines of a pass of SKEW_N. -/
def northScaleLines (m : Memory) (g : Stored) (gr s0 k : Nat) (first last : Bool) : List (Nat × List (Nat × Nat)) :=
  (groupLines gr (if first then 0 else s0) (s0 + k + 127)).map fun p =>
    (p.1 * gr + p.2, skewScales 127 s0 k 128 first last (fun i j => g.scale m (lanesOf g.fmt * i) (128 * p.2 + j)) p.1)

theorem northLanes_reach {gr : Nat} : ∀ p ∈ northLanes gr, p.2 ≤ 127 := fun _ hp => Nat.le_of_lt_succ (mem_northLanes.mp hp).2

theorem north_fits {gr s0 k : Nat} {first last : Bool} (m : Memory) (g : Stored) {mx : Bool} {dk sdk : Nat} (hapart : mx = true →
      dk + (s0 + k + 127) * gr * 1024 ≤ sdk + (if first then 0 else s0) * gr / 8 * 1024 ∨
      sdk + scaleBytes ((s0 + k + 127) * gr) ≤ dk + (if first then 0 else s0) * gr * 1024) :
    LayoutFits mx (northSlots m g gr s0 k first last) (northScaleLines m g gr s0 k first last) ((if first then 0 else s0) * gr * 1024)
      ((if first then 0 else s0) * gr / 8 * 1024) ((s0 + k + 127) * gr * 1024) (scaleBytes ((s0 + k + 127) * gr)) dk sdk := by
  rw [northSlots_eq]
  constructor
  case aligned =>
    intro x hx
    obtain ⟨p, -, t, -, -, hx⟩ := skewSlots_line northLanes_reach hx
    rw [hx, northOff]
    omega
  case slotsIn =>
    intro x hx
    obtain ⟨p, hp, t, hlo, hhi, hx⟩ := skewSlots_line northLanes_reach hx
    obtain ⟨hgi, hj⟩ := mem_northLanes.mp hp
    have := groupLine_in hgi hlo hhi
    rw [hx, northOff]
    omega
  case slotsDiffer => exact fun x hx y hy => skewSlots_differ northLanes_reach (fun p hp q hq t u => northOff_inj hp hq) hx hy
  case linesIn =>
    intro x hx
    obtain ⟨p, hp, rfl⟩ := List.mem_map.mp hx
    obtain ⟨⟨hlo, hhi⟩, hgi⟩ := mem_groupLines.mp hp
    obtain ⟨hlo, hhi⟩ := groupLine_in hgi hlo hhi
    exact scaleLine_in hlo hhi
  case linesDiffer =>
    intro x hx y hy hxy
    obtain ⟨p, hp, rfl⟩ := List.mem_map.mp hx
    obtain ⟨q, hq, rfl⟩ := List.mem_map.mp hy
    obtain ⟨ht, hg⟩ := groupLine_inj (mem_groupLines.mp hp).2 (mem_groupLines.mp hq).2 hxy
    rw [Prod.ext ht hg]
  case apart => exact hapart

/-- A SKEW_N whose places can be reached stores the slots and scale lines of its pass. -/
theorem skewNOp_stores {c : Nat} {s : State} {e : QEntry} {t : Bool} {fmt : Nat} {a sa d sd geo geo2 : Word} {mode : Nat} {first last : Bool} {key skey dk sdk gr s0 k : Nat}
    {g : Stored} (hhead : s.headMover c = some (e, .skewN t fmt a sa d sd geo geo2 mode first last)) (hg : g = storedOf t fmt key skey geo.toNat geo2.toNat)
    (hgr : gr = 128 / osRowsOf mode) (hs0 : s0 = bits geo2.toNat 0 32) (hk : k = ceilDiv g.opRows (lanesOf fmt))
    (hready : layoutReady s c e g g.opRows (128 * gr) a sa d sd ((if first then 0 else s0) * gr * 1024) ((if first then 0 else s0) * gr / 8 * 1024)
      ((s0 + k + 127) * gr * 1024) (scaleBytes ((s0 + k + 127) * gr)) dk sdk) :
    skewNOp c s = (s.putAll (layoutWords (isMx fmt) dk sdk (northSlots s.mem g gr s0 k first last) (northScaleLines s.mem g gr s0 k first last))).doneHead c uMover e := by
  subst hk hs0 hgr hg
  obtain ⟨z, hz, hends⟩ := State.layoutEnds_ready hready fun s key skey dk sdk => _
  unfold skewNOp
  rw [hhead]
  refine hends.trans (congrArg (State.doneHead · c uMover e) ?_)
  rw [← layoutWords_eq hz]
  exact State.putLayout s (isMx fmt) dk z _ _ (fun p : Nat × Nat => p.1 * (128 / osRowsOf mode) + p.2) _

theorem skewNorthWritesItsStream : SkewNorthWritesItsStream := by
  intro c s e t fmt a sa d sd geo geo2 mode first last key skey dk sdk gr s0 k lo slo g hc hmode hop hhead hg hgr hs0 hk hlo hslo hready
  subst hlo hslo
  refine runs_of_need rfl hc ?_
  rw [skewNOp_stores hhead hg hgr hs0 hk hready]
  obtain rfl : g.fmt = fmt := by rw [hg]; rfl
  obtain ⟨hmarks, hwf, -, -, -, -, hapart⟩ := hready
  obtain ⟨q, hq⟩ := State.headMover_queue hhead
  have hfits := north_fits (first := first) (last := last) s.mem g hapart
  have hzero {gi j l : Nat} (hgi : gi < gr) (hj : j < 128) (h : zeroLine s0 k 127 first last j l) :
      (northOff gr l (gi, j), 0) ∈ northSlots s.mem g gr s0 k first last := by
    rw [northSlots_eq]
    exact skewSlots_zero northLanes_reach (mem_northLanes.mpr ⟨hgi, hj⟩) h
  refine ⟨fun gi j i hgi hj hi => ?own, fun hfirst gi j l hgi hj hl => ?before, fun hlast gi j l hgi hj hlo hhi => ?after, fun hmx gi j i hgi hj hi => ?scales,
    hfits.frame hwf rfl hmarks hq⟩
  case own =>
    have hmem : (northOff gr (s0 + i + j) (gi, j), northValue s.mem g (gi, j) i) ∈ northSlots s.mem g gr s0 k first last := by
      rw [northSlots_eq]
      exact skewSlots_own northLanes_reach (a := (gi, j)) (mem_northLanes.mpr ⟨hgi, hj⟩) hi
    rw [northSlot_eq]
    exact hfits.slot hwf hmem (northValue_lt hop s.mem (gi, j) i)
  case before =>
    rw [northSlot_eq]
    exact hfits.slot hwf (hzero hgi hj (.inl ⟨hfirst, hl⟩)) (Nat.two_pow_pos 64)
  case after =>
    rw [northSlot_eq]
    exact hfits.slot hwf (hzero hgi hj (.inr ⟨hlast, hlo, hhi⟩)) (Nat.two_pow_pos 64)
  case scales =>
    have hline : ((s0 + i + j) * gr + gi, _) ∈ northScaleLines s.mem g gr s0 k first last :=
      List.mem_map.mpr ⟨(s0 + i + j, gi), mem_groupLines.mpr ⟨⟨(firstLine_le first s0).trans (by omega), by omega⟩, hgi⟩, rfl⟩
    unfold scaleSlot
    rw [if_pos hmx]
    exact hfits.scale hwf hmx hline (skewScales_own hj hi) hj (g.scale_lt _ _ _) fun z hz h => skewScales_differ hz (skewScales_own hj hi) h

/-! ## LAYOUT_WS (R165) -/

/-- The slots of a weight tile. -/
def tileSlots (m : Memory) (g : Stored) (mode : Nat) : Slots := (List.range 128).flatMap fun j => (List.range 128).map fun cc =>
  (j * 1024 + cc * 8, packSlot g.fmt fun l => g.elem m (wsPlace g.fmt mode j cc l).1 (wsPlace g.fmt mode j cc l).2)

theorem mem_tileSlots {m : Memory} {g : Stored} {mode : Nat} {x : Nat × Nat} : x ∈ tileSlots m g mode ↔ ∃ j cc, j < 128 ∧ cc < 128 ∧
    x = (j * 1024 + cc * 8, packSlot g.fmt fun l => g.elem m (wsPlace g.fmt mode j cc l).1 (wsPlace g.fmt mode j cc l).2) := by
  simp only [tileSlots, List.mem_flatMap, List.mem_map, List.mem_range]
  exact ⟨fun ⟨j, hj, cc, hcc, hx⟩ => ⟨j, cc, hj, hcc, hx.symm⟩, fun ⟨j, cc, hj, hcc, hx⟩ => ⟨j, hj, cc, hcc, hx.symm⟩⟩

/-- The scales of line `j` of a weight tile. -/
def tileScales (m : Memory) (g : Stored) (mode j : Nat) : List (Nat × Nat) :=
  (List.range 128).map fun cc => (cc, g.scale m (wsPlace g.fmt mode j cc 0).1 (wsPlace g.fmt mode j cc 0).2)

def tileScaleLines (m : Memory) (g : Stored) (mode : Nat) : List (Nat × List (Nat × Nat)) := (List.range 128).map fun j => (j, tileScales m g mode j)

theorem tile_fits (m : Memory) (g : Stored) (mode : Nat) {mx : Bool} {dk sdk : Nat}
    (hapart : mx = true → dk + 131072 ≤ sdk + 0 ∨ sdk + scaleBytes 128 ≤ dk + 0) :
    LayoutFits mx (tileSlots m g mode) (tileScaleLines m g mode) 0 0 131072 (scaleBytes 128) dk sdk := by
  constructor
  case aligned =>
    intro x hx
    obtain ⟨j, cc, -, -, rfl⟩ := mem_tileSlots.mp hx
    dsimp only
    omega
  case slotsIn =>
    intro x hx
    obtain ⟨j, cc, hj, hcc, rfl⟩ := mem_tileSlots.mp hx
    dsimp only
    omega
  case slotsDiffer =>
    intro x hx y hy hxy
    obtain ⟨j, cc, hj, hcc, rfl⟩ := mem_tileSlots.mp hx
    obtain ⟨i, cd, hi, hcd, rfl⟩ := mem_tileSlots.mp hy
    dsimp only at hxy
    obtain ⟨rfl, rfl⟩ : j = i ∧ cc = cd := by omega
    rfl
  case linesIn =>
    intro x hx
    obtain ⟨j, hj, rfl⟩ := List.mem_map.mp hx
    exact scaleLine_in (Nat.zero_le j) (List.mem_range.mp hj)
  case linesDiffer =>
    intro x hx y hy hxy
    obtain ⟨j, -, rfl⟩ := List.mem_map.mp hx
    obtain ⟨i, -, rfl⟩ := List.mem_map.mp hy
    obtain rfl : j = i := hxy
    rfl
  case apart => exact hapart

/-- A LAYOUT_WS whose places can be reached stores the slots and scale lines of its tile. -/
theorem layoutWsOp_stores {c : Nat} {s : State} {e : QEntry} {t : Bool} {fmt : Nat} {a sa d sd geo geo2 : Word} {mode key skey dk sdk : Nat} {g : Stored}
    (hhead : s.headMover c = some (e, .layoutWs t fmt a sa d sd geo geo2 mode)) (hg : g = storedOf t fmt key skey geo.toNat geo2.toNat)
    (hready : layoutReady s c e g (lanesOf fmt * (if mode = 8 then 128 else 32)) (if mode = 8 then 128 else 512) a sa d sd 0 0 131072 (scaleBytes 128) dk sdk) :
    layoutWsOp c s = (s.putAll (layoutWords (isMx fmt) dk sdk (tileSlots s.mem g mode) (tileScaleLines s.mem g mode))).doneHead c uMover e := by
  subst hg
  obtain ⟨z, hz, hends⟩ := State.layoutEnds_ready hready fun s key skey dk sdk => _
  unfold layoutWsOp
  rw [hhead]
  refine hends.trans (congrArg (State.doneHead · c uMover e) ?_)
  rw [← layoutWords_eq hz]
  exact State.putLayout s (isMx fmt) dk z _ _ id _

theorem layoutWritesTheWeightTile : LayoutWritesTheWeightTile := by
  intro c s e t fmt a sa d sd geo geo2 mode key skey dk sdk g hc hmode hop hhead hg hready
  refine runs_of_need rfl hc ?_
  rw [layoutWsOp_stores hhead hg hready]
  obtain rfl : g.fmt = fmt := by rw [hg]; rfl
  obtain ⟨hmarks, hwf, -, -, -, -, hapart⟩ := hready
  obtain ⟨q, hq⟩ := State.headMover_queue hhead
  have hfits := tile_fits s.mem g mode hapart
  refine ⟨fun j cc hj hcc => ?slots, fun hmx j cc hj hcc => ?scales, hfits.frame hwf rfl hmarks hq⟩
  case slots =>
    have hmem : (j * 1024 + cc * 8, _) ∈ tileSlots s.mem g mode := mem_tileSlots.mpr ⟨j, cc, hj, hcc, rfl⟩
    rw [Nat.add_assoc]
    exact hfits.slot hwf hmem (packSlot_lt hop fun _ => Stored.elem_lt hop _ _ _)
  case scales =>
    have hline : (j, tileScales s.mem g mode j) ∈ tileScaleLines s.mem g mode := List.mem_map.mpr ⟨j, List.mem_range.mpr hj, rfl⟩
    have hscale : (cc, g.scale s.mem (wsPlace g.fmt mode j cc 0).1 (wsPlace g.fmt mode j cc 0).2) ∈ tileScales s.mem g mode j :=
      List.mem_map.mpr ⟨cc, List.mem_range.mpr hcc, rfl⟩
    refine hfits.scale hwf hmx hline hscale hcc (g.scale_lt _ _ _) fun z hz h => ?_
    obtain ⟨cd, -, rfl⟩ := List.mem_map.mp hz
    obtain rfl : cd = cc := h
    rfl

/-- Settles O15: each layout operation stores its words at different places of its stream and of its scale stream, so that each slot and each scale reads as what was put there. -/
theorem streamsAreWritten : Obligations.StreamsAreWritten := ⟨skewWestWritesItsStream, skewNorthWritesItsStream, layoutWritesTheWeightTile⟩

end Sys2Proof.Machine
end
